-- ==== Sys2Proof/Word.lean ====
section
/-! DEFINITION. Words of the Xotur X2 (R3): bytes, words and doubles are bit patterns; the finite maps that hold
sparse storage are plain lists of key and value pairs. -/

namespace Sys2Proof

/-- A byte: 8 bits (R3). -/
abbrev Byte := BitVec 8

/-- A word: 32 bits (R3), the width of a general register, an instruction and a clause header. -/
abbrev Word := BitVec 32

/-- A double: 64 bits (R3), the width of a generic address and of a register pair. -/
abbrev Dbl := BitVec 64

/-- A finite map from natural keys: pairs in strictly rising key order. -/
abbrev FMap (α : Type) := List (Nat × α)

/-- The pair of two words, low half first (R59). -/
def mkDbl (lo hi : Word) : Dbl := hi ++ lo

/-- Bits 31:0 of a double. -/
def Dbl.lo (x : Dbl) : Word := BitVec.ofNat 32 x.toNat

/-- Bits 63:32 of a double. -/
def Dbl.hi (x : Dbl) : Word := BitVec.ofNat 32 (x.toNat / 4294967296)

end Sys2Proof
end

