-- ==== Sys2Proof/Config.lean ====
section
/-! DEFINITION. What the manual leaves to the part, and the free values. Every constant here is opaque: nothing can
evaluate it, so a claim about the machine holds whatever it is. -/

namespace Sys2Proof.Config

/-- A fresh free natural for each value of the counter `State.fresh`: which of several things that are due comes next,
which free record, pool index or translation is taken, how much time passes. DESIGN CHOICE, log entry 2 (safe). -/
opaque freeNat : Nat → Nat

/-- The pattern that an approximation returns for a function (0 `frcp`, 1 `frsqrt`, 2 `fexp2`, 3 `flog2`, 4 `fsin`,
5 `fcos`) and an operand, before the bounds of R176 are applied: fixed for the part, not published.
DESIGN CHOICE, log entry 2 (safe). -/
opaque approx : Nat → Word → Word

/-- The L2 slice that homes a line (R18): a fixed hash that is not part of the architecture. -/
opaque l2Slice : Nat → Nat

/-- Shadows that a slice can hold besides one (R255): the manual gives no figure. -/
opaque sliceShadows : Nat

/-- Whether the ECDSA signature of an image body, and of the part record, verifies (R422). -/
opaque imageSigned : Nat → Bool
opaque partSigned : Nat → Bool

/-- The bytes of a control image (R368), whose layout the manual does not give: one image for each number, by offset. -/
opaque imageByte : Nat → Nat → Byte

/-- What stands in an image of these bytes, by the number of the field (R369). -/
opaque imageField : List Byte → Nat → Nat

end Sys2Proof.Config
end

