-- ==== Sys2Proof/Machine/Bits.lean ====
section
/-! DEFINITION. Bit fields, sign extension, wrapping and lane masks (R3, R7, R49). -/

namespace Sys2Proof.Machine

/-- Field of n bits from bit lo. -/
def bits (x lo n : Nat) : Nat := x / 2 ^ lo % 2 ^ n

/-- Bit i. -/
def bit (x i : Nat) : Bool := x / 2 ^ i % 2 == 1

/-- `sext(x, n)`: the n-bit pattern as a two's-complement integer (R7). -/
def sext (x n : Nat) : Int :=
  if x % 2 ^ n < 2 ^ (n - 1) then (x % 2 ^ n : Nat) else ((x % 2 ^ n : Nat) : Int) - 2 ^ n

/-- x modulo 2^n, as a pattern (R7). -/
def wrapN (n : Nat) (x : Int) : Nat := (x % (2 ^ n : Nat)).toNat

/-- `wrap32` (R7). -/
def wrap32 (x : Int) : Word := BitVec.ofInt 32 x

/-- `wrap64` (R7). -/
def wrap64 (x : Int) : Dbl := BitVec.ofInt 64 x

/-- `sat(x, lo, hi)` (R7). -/
def sat (x lo hi : Int) : Int := if x < lo then lo else if x > hi then hi else x

/-- The lane numbers. -/
def lanes32 : List Nat := List.range 32

/-- Lane l is in the mask. -/
def inMask (m : Word) (l : Nat) : Bool := m.getLsbD l

/-- The lanes of a mask, ascending. -/
def lanesOf (m : Word) : List Nat := lanes32.filter (inMask m)

/-- The mask of one lane. -/
def bitMask (l : Nat) : Word := 1#32 <<< l

/-- The mask of a list of lanes. -/
def maskOf (ls : List Nat) : Word := ls.foldl (fun m l => m ||| bitMask l) 0

/-- The lowest lane of a mask (0 if it is empty). -/
def lowest (m : Word) : Nat := ((lanesOf m).head?).getD 0

/-- The highest lane of a mask (0 if it is empty). -/
def highest (m : Word) : Nat := ((lanesOf m).getLast?).getD 0

/-- The number of lanes of a mask. -/
def countLanes (m : Word) : Nat := (lanesOf m).length

/-- All 32 lanes. -/
def allLanes : Word := 0xFFFFFFFF

/-- The integer part of log2, 0 for 0. -/
def ilog2 (x : Nat) : Nat := Nat.log2 x

/-- ceil(a / b). -/
def ceilDiv (a b : Nat) : Nat := (a + b - 1) / b

/-- a rounded up to a multiple of b. -/
def roundUp (a b : Nat) : Nat := ceilDiv a b * b

/-- Is x a power of two? -/
def isPow2 (x : Nat) : Bool := x != 0 && 2 ^ Nat.log2 x == x

/-- Replace the element of a list at an index. -/
def setAt {α : Type} : List α → Nat → α → List α
  | [], _, _ => []
  | _ :: t, 0, v => v :: t
  | h :: t, n + 1, v => h :: setAt t n v

/-- CRC-64/ECMA-182 (R397): one more byte. -/
def crcStep (c : BitVec 64) : Nat → BitVec 64
  | 0 => c
  | n + 1 => crcStep (if c.msb then (c <<< 1) ^^^ 0x42F0E1EBA9EA3693 else c <<< 1) n

/-- CRC-64/ECMA-182 of more bytes: initial value 0, no reflection, no final XOR (R397). -/
def crc64 (c : BitVec 64) : List Byte → BitVec 64
  | [] => c
  | b :: bs => crc64 (crcStep (c ^^^ (BitVec.ofNat 64 b.toNat <<< 56)) 8) bs

end Sys2Proof.Machine
end

