-- ==== Sys2Proof/Machine/FMap.lean ====
section
/-! DEFINITION. Operations on finite maps held as key and value pairs in rising key order. -/

namespace Sys2Proof.Machine

/-- The value at a key. -/
def fget {α : Type} : FMap α → Nat → Option α
  | [], _ => none
  | (k', v) :: t, k => if k = k' then some v else fget t k

/-- The value at a key, or what an unlisted key reads as. -/
def fgetD {α : Type} (m : FMap α) (k : Nat) (d : α) : α := (fget m k).getD d

/-- Put a value at a key. -/
def fput {α : Type} : FMap α → Nat → α → FMap α
  | [], k, v => [(k, v)]
  | (k', v') :: t, k, v =>
    if k < k' then (k, v) :: (k', v') :: t
    else if k = k' then (k, v) :: t
    else (k', v') :: fput t k v

/-- Remove a key. -/
def fdel {α : Type} : FMap α → Nat → FMap α
  | [], _ => []
  | (k', v') :: t, k => if k = k' then fdel t k else (k', v') :: fdel t k

/-- Write a value where unlisted keys read as `d`: an entry never holds `d`. -/
def fset {α : Type} [DecidableEq α] (m : FMap α) (k : Nat) (v d : α) : FMap α :=
  if v = d then fdel m k else fput m k v

/-- Keys rise strictly from `lo`, and no entry holds `d`. -/
def fcanon {α : Type} [DecidableEq α] (d : α) : Nat → FMap α → Bool
  | _, [] => true
  | lo, (k, v) :: t => decide (lo ≤ k) && decide (v ≠ d) && fcanon d (k + 1) t

/-- The canonical form of a byte store: addresses strictly rising, no entry equal to 0 (what an unlisted address
reads as). -/
def Memory.wf (m : FMap Byte) : Bool := fcanon 0 0 m

/-- One byte of a store. DESIGN CHOICE, log entry 1 (unsafe). -/
def rdByte (m : FMap Byte) (a : Nat) : Byte := fgetD m a 0

/-- Write one byte. -/
def wrByte (m : FMap Byte) (a : Nat) (b : Byte) : FMap Byte := fset m a b 0

/-- n bytes from an address, as a little-endian number (R3). -/
def rdLE (m : FMap Byte) (a : Nat) : Nat → Nat
  | 0 => 0
  | n + 1 => (rdByte m a).toNat + 256 * rdLE m (a + 1) n

/-- Write the n low bytes of a number, little-endian (R3). -/
def wrLE (m : FMap Byte) (a : Nat) : Nat → Nat → FMap Byte
  | 0, _ => m
  | n + 1, x => wrLE (wrByte m a (BitVec.ofNat 8 x)) (a + 1) n (x / 256)

/-- Write a list of bytes. -/
def wrBytes (m : FMap Byte) (a : Nat) : List Byte → FMap Byte
  | [] => m
  | b :: bs => wrBytes (wrByte m a b) (a + 1) bs

/-- Read a list of bytes. -/
def rdBytes (m : FMap Byte) (a : Nat) : Nat → List Byte
  | 0 => []
  | n + 1 => rdByte m a :: rdBytes m (a + 1) n

end Sys2Proof.Machine
end

