-- ==== Sys2Proof/Syntax.lean ====
section
/-! DEFINITION. The syntax: one constructor per row of spec/opcode_table.json, but for FENCE, which has one per scope.
First the instruction words that have operands (R67 to R75, R206, R250, R376), then those that have none, then the 65
rows that bear no bits: the device's own events and the management commands (95_what_each_step_holds.md calls every row
of the table a step, "each whole and indivisible"). Fields hold the raw field values of the word; `WellFormed.lean` says
which values make a legal word (R47). An event has no field: what it concerns (a gang, a core, a queue) stands in
`State.focus`, as the docstring of its constructor says. (Lean's runtime holds at most 244 constructors with fields:
hence the events' focus and the six constructors of FENCE.) -/

namespace Sys2Proof

/-- Every step of the part: 258 instructions and 65 device events (opcode_table.json). Register fields are 7-bit
numbers (R56); `r` of the FP rows is the rounding, `s` of the ORD rows the scope, `o` a two's-complement
offset field, `p` a frontier priority. -/
inductive Instr where
  /-- R126. Branches the active lanes to a clause at a given priority. -/
  | bra (p o : Nat)
  /-- R127. Writes the link pair g2.d and branches like bra. -/
  | call (p o : Nat)
  /-- R128. Transfers each active lane to the address in a register pair. -/
  | jmpi (p a : Nat)
  /-- R55. Waits in place until the named flags are clear. -/
  | wait (f : Nat)
  /-- R133. Moves the register window base by a signed number of eights. -/
  | wbaseRel (n : Nat)
  /-- R133. Sets the register window base to an absolute value. -/
  | wbaseAbs (n : Nat)
  /-- R362. Raises cause 0x50 with a trap code. -/
  | trap (c : Nat)
  /-- R363. Stops the gang with a break record when break stops are enabled. -/
  | brk (c : Nat)
  /-- R140. 32-bit wrapping add. -/
  | add (b a d : Nat)
  /-- R140. 32-bit wrapping subtract. -/
  | sub (b a d : Nat)
  /-- R140. Signed minimum. -/
  | min (b a d : Nat)
  /-- R140. Signed maximum. -/
  | max (b a d : Nat)
  /-- R140. Natural minimum. -/
  | minn (b a d : Nat)
  /-- R140. Natural maximum. -/
  | maxn (b a d : Nat)
  /-- R140. Wrapping absolute value. -/
  | abs (a d : Nat)
  /-- R140. Wrapping negation. -/
  | neg (a d : Nat)
  /-- R140. Bitwise AND. -/
  | and (b a d : Nat)
  /-- R140. Bitwise OR. -/
  | or (b a d : Nat)
  /-- R140. Bitwise XOR. -/
  | xor (b a d : Nat)
  /-- R140. a AND NOT b. -/
  | andn (b a d : Nat)
  /-- R140. a OR NOT b. -/
  | orn (b a d : Nat)
  /-- R140. Bitwise NOT. -/
  | not (a d : Nat)
  /-- R141. Left shift by a register amount; amounts of 32 or more give 0. -/
  | shl (b a d : Nat)
  /-- R141. Logical right shift by a register amount. -/
  | shr (b a d : Nat)
  /-- R141. Arithmetic right shift by a register amount. -/
  | sar (b a d : Nat)
  /-- R140. Rotate left by b modulo 32. -/
  | rol (b a d : Nat)
  /-- R140. Rotate right by b modulo 32. -/
  | ror (b a d : Nat)
  /-- R140. Counts leading zero bits. -/
  | clz (a d : Nat)
  /-- R140. Counts trailing zero bits. -/
  | ctz (a d : Nat)
  /-- R140. Counts set bits. -/
  | popc (a d : Nat)
  /-- R140. Reverses the bit order. -/
  | brev (a d : Nat)
  /-- R142. Low 32 bits of a product. -/
  | mul (b a d : Nat)
  /-- R142. High word of a signed product. -/
  | mulh (b a d : Nat)
  /-- R142. High word of a natural product. -/
  | mulhn (b a d : Nat)
  /-- R142. Multiply-add into d, wrapping. -/
  | mad (b a d : Nat)
  /-- R142. Exact signed 64-bit product into a pair. -/
  | mulD (b a d : Nat)
  /-- R143. Signed division; division by zero sets idz. -/
  | div (b a d : Nat)
  /-- R143. Natural division. -/
  | divn (b a d : Nat)
  /-- R143. Signed remainder. -/
  | rem (b a d : Nat)
  /-- R143. Natural remainder. -/
  | remn (b a d : Nat)
  /-- R144. Extracts a bit field with sign extension. -/
  | bfe (b a d : Nat)
  /-- R144. Extracts a bit field with zero extension. -/
  | bfen (b a d : Nat)
  /-- R144. Inserts a bit field into d. -/
  | bfi (b a d : Nat)
  /-- R142. 64-bit pair add. -/
  | addD (b a d : Nat)
  /-- R142. 64-bit pair subtract. -/
  | subD (b a d : Nat)
  /-- R142. 64-bit pair left shift. -/
  | shlD (b a d : Nat)
  /-- R142. 64-bit pair logical right shift. -/
  | shrD (b a d : Nat)
  /-- R145. Adds a sign-extended 12-bit immediate. -/
  | addi (i a d : Nat)
  /-- R145. ANDs with a sign-extended immediate. -/
  | andi (i a d : Nat)
  /-- R145. ORs with a zero-extended immediate. -/
  | ori (i a d : Nat)
  /-- R145. XORs with a zero-extended immediate. -/
  | xori (i a d : Nat)
  /-- R146. Left shift by an immediate amount. -/
  | shli (n a d : Nat)
  /-- R146. Logical right shift by an immediate amount. -/
  | shri (n a d : Nat)
  /-- R146. Arithmetic right shift by an immediate amount. -/
  | sari (n a d : Nat)
  /-- R147. Loads a sign-extended 19-bit immediate. -/
  | movi (i d : Nat)
  /-- R147. Replaces bits 31:13 of d with a 19-bit immediate. -/
  | movhi (i d : Nat)
  /-- R148. Sets a predicate when a = b. -/
  | icmpEq (b a d : Nat)
  /-- R148. Sets a predicate when a ≠ b. -/
  | icmpNe (b a d : Nat)
  /-- R148. Signed less-than compare. -/
  | icmpLt (b a d : Nat)
  /-- R148. Signed less-or-equal compare. -/
  | icmpLe (b a d : Nat)
  /-- R148. Signed greater-than compare. -/
  | icmpGt (b a d : Nat)
  /-- R148. Signed greater-or-equal compare. -/
  | icmpGe (b a d : Nat)
  /-- R148. Natural less-than compare. -/
  | icmpLtn (b a d : Nat)
  /-- R148. Natural less-or-equal compare. -/
  | icmpLen (b a d : Nat)
  /-- R148. Natural greater-than compare. -/
  | icmpGtn (b a d : Nat)
  /-- R148. Natural greater-or-equal compare. -/
  | icmpGen (b a d : Nat)
  /-- R149. Predicate AND. -/
  | qand (b a d : Nat)
  /-- R149. Predicate OR. -/
  | qor (b a d : Nat)
  /-- R149. Predicate XOR. -/
  | qxor (b a d : Nat)
  /-- R149. Predicate AND NOT. -/
  | qandn (b a d : Nat)
  /-- R149. Predicate NOT. -/
  | qnot (a d : Nat)
  /-- R149. Sets a predicate to a constant. -/
  | qset (v d : Nat)
  /-- R149. Copies a predicate. -/
  | qmov (a d : Nat)
  /-- R150. Packs 32 predicates into a register. -/
  | qpack (a d : Nat)
  /-- R150. Unpacks a register into 32 predicates. -/
  | qunpack (a d : Nat)
  /-- R151. Copies a to d where a predicate holds. -/
  | sel (b a d : Nat)
  /-- R152. OR of a predicate over the active lanes. -/
  | voteAny (a d : Nat)
  /-- R152. AND of a predicate over the active lanes. -/
  | voteAll (a d : Nat)
  /-- R152. Counts the active lanes in which a predicate holds. -/
  | voteCnt (a d : Nat)
  /-- R152. Mask of the active lanes in which a predicate holds. -/
  | voteBallot (a d : Nat)
  /-- R154. Fetches a from an indexed lane. -/
  | shflIdx (b a d : Nat)
  /-- R154. Fetches a from lane l − b. -/
  | shflUp (b a d : Nat)
  /-- R154. Fetches a from lane l + b. -/
  | shflDn (b a d : Nat)
  /-- R154. Fetches a from lane l XOR b. -/
  | shflXor (b a d : Nat)
  /-- R155. Broadcasts a from one lane to every active lane. -/
  | bcast (b a d : Nat)
  /-- R156. Wrapping sum over the active lanes. -/
  | reduxAdd (a d : Nat)
  /-- R156. Signed minimum over the active lanes. -/
  | reduxMin (a d : Nat)
  /-- R156. Signed maximum over the active lanes. -/
  | reduxMax (a d : Nat)
  /-- R156. Natural minimum over the active lanes. -/
  | reduxMinn (a d : Nat)
  /-- R156. Natural maximum over the active lanes. -/
  | reduxMaxn (a d : Nat)
  /-- R157. Writes the number of active lanes below each lane. -/
  | mrank (d : Nat)
  /-- R172. FP32 addition. -/
  | fadd (r b a d : Nat)
  /-- R172. FP32 subtraction. -/
  | fsub (r b a d : Nat)
  /-- R172. FP32 multiplication. -/
  | fmul (r b a d : Nat)
  /-- R172. FP32 fused multiply-add into d. -/
  | fma (r b a d : Nat)
  /-- R172. FP32 division. -/
  | fdiv (r b a d : Nat)
  /-- R172. FP32 square root. -/
  | fsqrt (r a d : Nat)
  /-- R173. FP32 minimum. -/
  | fmin (b a d : Nat)
  /-- R173. FP32 maximum. -/
  | fmax (b a d : Nat)
  /-- R175. Clears the sign bit. -/
  | fabs (a d : Nat)
  /-- R175. Inverts the sign bit. -/
  | fneg (a d : Nat)
  /-- R176. Approximate reciprocal. -/
  | frcp (a d : Nat)
  /-- R176. Approximate reciprocal square root. -/
  | frsqrt (a d : Nat)
  /-- R176. Approximate 2^a. -/
  | fexp2 (a d : Nat)
  /-- R176. Approximate log2 a. -/
  | flog2 (a d : Nat)
  /-- R176. Approximate sine. -/
  | fsin (a d : Nat)
  /-- R176. Approximate cosine. -/
  | fcos (a d : Nat)
  /-- R177. Writes a one-hot mask of a's class. -/
  | fclass (a d : Nat)
  /-- R175. Rounds to an integral FP32 value in a given mode. -/
  | frint (m a d : Nat)
  /-- R175. Exact fractional part. -/
  | ffrac (a d : Nat)
  /-- R175. a with the sign of b. -/
  | fcopysign (b a d : Nat)
  /-- R175. Multiplies by 2 to an integer power. -/
  | fscale (b a d : Nat)
  /-- R175. Clamps to 0.0..1.0. -/
  | fsat (a d : Nat)
  /-- R178. FP32 equal compare. -/
  | fcmpEq (b a d : Nat)
  /-- R178. FP32 not-equal compare. -/
  | fcmpNe (b a d : Nat)
  /-- R178. FP32 less-than compare. -/
  | fcmpLt (b a d : Nat)
  /-- R178. FP32 less-or-equal compare. -/
  | fcmpLe (b a d : Nat)
  /-- R178. FP32 greater-than compare. -/
  | fcmpGt (b a d : Nat)
  /-- R178. FP32 greater-or-equal compare. -/
  | fcmpGe (b a d : Nat)
  /-- R178. True when either operand is NaN. -/
  | fcmpUn (b a d : Nat)
  /-- R178. True when neither operand is NaN. -/
  | fcmpOrd (b a d : Nat)
  /-- R179. Paired BF16 add. -/
  | hadd2Bf16 (r b a d : Nat)
  /-- R179. Paired BF16 subtract. -/
  | hsub2Bf16 (r b a d : Nat)
  /-- R179. Paired BF16 multiply. -/
  | hmul2Bf16 (r b a d : Nat)
  /-- R179. Paired BF16 fused multiply-add. -/
  | hfma2Bf16 (r b a d : Nat)
  /-- R179. Paired BF16 minimum. -/
  | hmin2Bf16 (b a d : Nat)
  /-- R179. Paired BF16 maximum. -/
  | hmax2Bf16 (b a d : Nat)
  /-- R179. Paired F16 add. -/
  | hadd2F16 (r b a d : Nat)
  /-- R179. Paired F16 subtract. -/
  | hsub2F16 (r b a d : Nat)
  /-- R179. Paired F16 multiply. -/
  | hmul2F16 (r b a d : Nat)
  /-- R179. Paired F16 fused multiply-add. -/
  | hfma2F16 (r b a d : Nat)
  /-- R179. Paired F16 minimum. -/
  | hmin2F16 (b a d : Nat)
  /-- R179. Paired F16 maximum. -/
  | hmax2F16 (b a d : Nat)
  /-- R180. Converts between formats in one of 32 forms that fn selects, with rounding and saturation. -/
  | cvt (f r s a d : Nat)
  /-- R205. Loads a zero-extended byte from scratchpad or stack. -/
  | ldB (o a d : Nat)
  /-- R205. Loads a zero-extended half. -/
  | ldH (o a d : Nat)
  /-- R205. Loads a word. -/
  | ldW (o a d : Nat)
  /-- R205. Loads a double into a pair. -/
  | ldD (o a d : Nat)
  /-- R205. Loads a sign-extended byte. -/
  | ldsB (o a d : Nat)
  /-- R205. Loads a sign-extended half. -/
  | ldsH (o a d : Nat)
  /-- R205. Loads a quad. -/
  | ldsQ (o a d : Nat)
  /-- R205. Stores a byte. -/
  | stB (o a d : Nat)
  /-- R205. Stores a half. -/
  | stH (o a d : Nat)
  /-- R205. Stores a word. -/
  | stW (o a d : Nat)
  /-- R205. Stores a double from a pair. -/
  | stD (o a d : Nat)
  /-- R205. Stores a quad. -/
  | stQ (o a d : Nat)
  /-- R319. Word load with acquire of a given scope. -/
  | ldAcqW (s a d : Nat)
  /-- R319. Double load with acquire. -/
  | ldAcqD (s a d : Nat)
  /-- R320. Word store with release of a given scope. -/
  | stRelW (s a d : Nat)
  /-- R320. Double store with release. -/
  | stRelD (s a d : Nat)
  /-- R321. Acquire fence. -/
  | fenceAcq (s : Nat)
  /-- R321. Release fence. -/
  | fenceRel (s : Nat)
  /-- R250. Atomic add returning the old value. -/
  | atomAdd (b a d : Nat)
  /-- R250. Atomic signed minimum. -/
  | atomMin (b a d : Nat)
  /-- R250. Atomic signed maximum. -/
  | atomMax (b a d : Nat)
  /-- R250. Atomic natural minimum. -/
  | atomMinn (b a d : Nat)
  /-- R250. Atomic natural maximum. -/
  | atomMaxn (b a d : Nat)
  /-- R250. Atomic AND. -/
  | atomAnd (b a d : Nat)
  /-- R250. Atomic OR. -/
  | atomOr (b a d : Nat)
  /-- R250. Atomic XOR. -/
  | atomXor (b a d : Nat)
  /-- R250. Atomic exchange. -/
  | atomXchg (b a d : Nat)
  /-- R250. Atomic wrapping increment against a bound. -/
  | atomInc (b a d : Nat)
  /-- R250. Atomic add without return. -/
  | atomAddNr (b a : Nat)
  /-- R250. Atomic signed minimum without return. -/
  | atomMinNr (b a : Nat)
  /-- R250. Atomic signed maximum without return. -/
  | atomMaxNr (b a : Nat)
  /-- R250. Atomic natural minimum without return. -/
  | atomMinnNr (b a : Nat)
  /-- R250. Atomic natural maximum without return. -/
  | atomMaxnNr (b a : Nat)
  /-- R250. Atomic AND without return. -/
  | atomAndNr (b a : Nat)
  /-- R250. Atomic OR without return. -/
  | atomOrNr (b a : Nat)
  /-- R250. Atomic XOR without return. -/
  | atomXorNr (b a : Nat)
  /-- R250. Atomic exchange without return. -/
  | atomXchgNr (b a : Nat)
  /-- R250. Atomic increment without return. -/
  | atomIncNr (b a : Nat)
  /-- R250. Atomic compare-and-swap with a compare/new pair. -/
  | atomCas (b a d : Nat)
  /-- R253. Exact FP32 addition into a sum-page shadow. -/
  | atomFx (b a d : Nat)
  /-- R250. Atomic 64-bit add. -/
  | atomAddD (b a d : Nat)
  /-- R253. Exact FP32 addition without return. -/
  | atomFxNr (b a : Nat)
  /-- R250. Atomic 64-bit add without return. -/
  | atomAddDNr (b a : Nat)
  /-- R223. Issues a tensor-map copy into scratchpad or a ring, posting bytes to barriers. -/
  | cpyIn (b a c : Nat)
  /-- R223. Issues a copy from scratchpad to global memory. -/
  | cpyOut (b a c : Nat)
  /-- R227. Issues a copy in whose global reads may merge at the home slice. -/
  | cpyMc (b a c : Nat)
  /-- R228. Issues a copy in with a coordinate micro-program. -/
  | cpyGen (b a c : Nat)
  /-- R229. Prefetches a range into its home L2 slices, counted in a barrier. -/
  | cpyPf (b a d : Nat)
  /-- R232. Seals the thread's unsealed copies into its next batch. -/
  | cpySeal (d : Nat)
  /-- R232. Waits until at most n sealed batches are unfinished. -/
  | cpyWait (n : Nat)
  /-- R232. Waits until at most n sealed batches are not visible at a scope. -/
  | cpyVis (s n : Nat)
  /-- R232. Writes the thread's copy status word or a channel ticket. -/
  | cpyStat (k d : Nat)
  /-- R245. Initialises a barrier object with an expected count. -/
  | barInit (b a : Nat)
  /-- R245. Arrives at a barrier object. -/
  | barArr (a d : Nat)
  /-- R245. Arrives and sets hold until bytes are posted. -/
  | barArrb (a d : Nat)
  /-- R245. Adds a signed byte count to a barrier's balance. -/
  | barExp (b a : Nat)
  /-- R246. Waits until a barrier's phase differs from a given bit. -/
  | barWait (b a : Nat)
  /-- R246. Tests once whether a barrier's phase differs. -/
  | barTry (b a d : Nat)
  /-- R108. Block collective that renegotiates scratchpad and queue sizes. -/
  | carve (b a d : Nat)
  /-- R256. Waits until a word may have changed from a given value. -/
  | mwait (b a d : Nat)
  /-- R283. Queues a matrix multiply-accumulate of a given shape on the engine. -/
  | mma (s b a d : Nat)
  /-- R296. Queues a drain of accumulator cells to scratchpad or a ring. -/
  | mdrain (a : Nat)
  /-- R298. Queues zeroing of accumulator tiles. -/
  | mzero (b : Nat)
  /-- R291. Defines or undefines a ring in queue storage. -/
  | ringDef (b a r : Nat)
  /-- R293. Copies n entries from scratchpad into a ring. -/
  | ringAdv (b a r : Nat)
  /-- R294. Frees the n oldest ready entries of a keep-mode ring. -/
  | ringRel (b r : Nat)
  /-- R294. Discards every entry of a ring and completes cut operations. -/
  | ringRelRst (r : Nat)
  /-- R295. Writes a ring's status word. -/
  | ringStat (r d : Nat)
  /-- R300. Queues a load of the lattice table or scale memory from scratchpad. -/
  | cbld (b a : Nat)
  /-- R264. Signed 1024 × 1024-bit product into a wide pair. -/
  | wmul (b a d : Nat)
  /-- R264. Natural wide product. -/
  | wmuln (b a d : Nat)
  /-- R264. Wide product accumulated into a pair. -/
  | wmac (b a d : Nat)
  /-- R265. Wide add. -/
  | wadd (b a d : Nat)
  /-- R265. Wide subtract. -/
  | wsub (b a d : Nat)
  /-- R265. Wide negate. -/
  | wneg (a d : Nat)
  /-- R266. Wide shift by a number of slots. -/
  | wshs (b a d : Nat)
  /-- R266. Wide shift by a number of bits. -/
  | wshb (b a d : Nat)
  /-- R267. Adds lane elements into slots of a wide register. -/
  | pack (b a d : Nat)
  /-- R268. Extracts balanced slot digits into lanes. -/
  | extr (b a d : Nat)
  /-- R269. Checks slot digits against the declared result width and faults on overflow. -/
  | gchk (b a : Nat)
  /-- R271. Computes the smallest safe slot width. -/
  | gwid (b a d : Nat)
  /-- R272. Decodes a CB2 code into eight INT4 coordinates. -/
  | cbdec (a d : Nat)
  /-- R265. Compares two wide values. -/
  | wcmp (b a d : Nat)
  /-- R334. Creates an eager task from a task record. -/
  | spawn (a : Nat)
  /-- R334. Creates a lazy task behind a suspended cell. -/
  | spawnl (a : Nat)
  /-- R336. Takes a cell's value, starting or waiting for its computation. -/
  | take (a d : Nat)
  /-- R341. Writes a value to a cell and wakes its waiters. -/
  | resolve (b a : Nat)
  /-- R342. Adds a consumer reference to a cell. -/
  | refAdd (a d : Nat)
  /-- R342. Drops a consumer reference, reclaiming the cell at zero. -/
  | refDrop (a d : Nat)
  /-- R343. Reads a cell's state word without waiting. -/
  | probe (a d : Nat)
  /-- R344. Waits for a task's children or for a cell to become VALUE. -/
  | join (a : Nat)
  /-- R111. Moves a task gang to the die that homes a given address. -/
  | migrate (a d : Nat)
  /-- R95. Submits a launch descriptor to a queue of the current die. -/
  | launch (q a : Nat)
  /-- R96. Cancels the launches taken from a descriptor address. -/
  | cancelL (a d : Nat)
  /-- R96. Cancels the nodes of graphs taken from a header address. -/
  | cancelG (a d : Nat)
  /-- R96. Cancels every launch and graph node of the job. -/
  | cancelJ (d : Nat)
  /-- R378. Pushes a region id onto the region stack. -/
  | regEnter (i : Nat)
  /-- R378. Pops a region id from the region stack. -/
  | regLeave (i : Nat)
  /-- R395. Writes a mark record to trace. -/
  | tmark (b k : Nat)
  /-- R381. Arms a scoped watchpoint. -/
  | wptSet (b a d : Nat)
  /-- R384. Disarms an own watchpoint. -/
  | wptClr (b d : Nat)
  /-- R385. Sets the colour of one granule. -/
  | tagSet (a : Nat)
  /-- R386. Reads a granule's tag byte. -/
  | tagGet (a d : Nat)
  /-- R385. Sets the colour of a range of granules. -/
  | tagSetr (b a : Nat)
  /-- R134. Reads a special register. -/
  | sread (r d : Nat)
  /-- R135. Writes a special register in program order. -/
  | swrite (r a : Nat)
  /-- R207. Invalidates the TLB entries of one page across the module. -/
  | tlbInvPg (a : Nat)
  /-- R207. Invalidates the TLB entries of a range. -/
  | tlbInvRng (b a : Nat)
  /-- R208. Writes the dirty-pending marks of one page to its leaf. -/
  | dirtyHarvPg (a : Nat)
  /-- R208. Writes the dirty-pending marks of a range. -/
  | dirtyHarvRng (b a : Nat)
  /-- R131. Does nothing. -/
  | nop
  /-- R128. Returns each active lane to the target and priority held in g2.d. -/
  | ret
  /-- R129. Waits for every flag to clear, then retires the active lanes. -/
  | exit
  /-- R132. Makes the gang yield issue to the other eligible gangs of its scheduler. -/
  | yield
  /-- R361. Raises arithmetic flags selected by %amask as the precise fault 0x20. -/
  | tfence
  /-- R360. Leaves the current trap level and restores the banked state, reissuing or abandoning a deferred copy. -/
  | tret
  /-- R130. Stops the whole gang and posts a halt record. -/
  | halt
  /-- R247. Arrives at the block barrier and waits for its generation. -/
  | barBlk
  /-- R247. Arrives at the cluster barrier and waits for its generation. -/
  | barClu
  /-- R299. Waits until every earlier engine command of the gang has completed. -/
  | mfence
  /-- R346. A reclamation point for a task that is RECLAIMING. -/
  | reclaim
  /-- R207. Invalidates every TLB entry of the context. -/
  | tlbInvCtx
  /-- R208. Writes every dirty-pending mark of the context. -/
  | dirtyHarvCtx
  /-- R321. Full fence of a given scope: scope `.gng` (R73 code 0). -/
  | fenceGng
  /-- R321. Full fence of a given scope: scope `.blk` (R73 code 1). -/
  | fenceBlk
  /-- R321. Full fence of a given scope: scope `.clu` (R73 code 2). -/
  | fenceClu
  /-- R321. Full fence of a given scope: scope `.die` (R73 code 3). -/
  | fenceDie
  /-- R321. Full fence of a given scope: scope `.dev` (R73 code 4). -/
  | fenceDev
  /-- R321. Full fence of a given scope: scope `.dom` (R73 code 5). -/
  | fenceDom
  /-- R82. The sequencer observes a write to a queue's lq.tail and begins taking the published entries in order, or posts a queue error if the queue is invalid. Focus: die, queue, tail. -/
  | submitTail
  /-- R83. The sequencer takes one ring entry: it reads the descriptor or graph header, assigns a take number, clears done.state and validates the work. Focus: die, queue. -/
  | takeEntry
  /-- R419. Command that acknowledges a residency request as resident or refused; the range is checked again, or the launch completes with LEASE_REFUSED. Focus: die. -/
  | leaseAck
  /-- R370. Command that marks a launch for pre-emption, so that every gang of it is evicted at its current or next blocking point. Focus: die. -/
  | preemptMark
  /-- R370. Command that clears a pre-emption mark, so that woken gangs are placed again in order of wake. Focus: die. -/
  | preemptClear
  /-- R419. Management command that cancels the launches taken from a descriptor address, as cancel.l does, and writes the R96 status to mc.arg. Focus: die. -/
  | cmdCancelL
  /-- R419. Management command that cancels the nodes of the graphs taken from a header address, as cancel.g does. Focus: die. -/
  | cmdCancelG
  /-- R419. Management command that cancels the whole job of the context, as cancel.j does. Focus: die. -/
  | cmdCancelJ
  /-- R419. Command that invalidates the context's TLB entries over a range, with the effect of tlb.inv. Focus: die. -/
  | shootdown
  /-- R419. Command that writes the dirty-pending marks over a range to their leaves, with the effect of dirty.harv. Focus: die. -/
  | harvest
  /-- R255. Command that writes the rounded value of every exact-sum shadow of a leaf page to memory and frees the shadows. Focus: die. -/
  | shadowRetire
  /-- R379. Command that requests a halt of one gang, or of every gang of a launch, at its next region edge taken at level 0. Focus: die. -/
  | haltReq
  /-- R379. Command that sets up to eight region breakpoint ids for a launch, or disables them. Focus: die. -/
  | regionBp
  /-- R380. Command that sets a launch's stop mode to 0 (fault) or 1 (halt). Focus: die. -/
  | stopMode
  /-- R394. Command that ends a mode-1 stop, a halt or a break stop of a gang. Focus: die. -/
  | resume
  /-- R363. Command that enables or disables brk stops for a launch. Focus: die. -/
  | breakEn
  /-- R391. Command that sets the trace sample period p, or turns sampling off. Focus: die. -/
  | sample
  /-- R388. Command that zeroes the eligibility and stall histograms of one core. Focus: die. -/
  | zeroHist
  /-- R420. Command that writes the state image of a stopped or evicted gang to mc.buf. Focus: die. -/
  | readState
  /-- R368. Command that requests eviction of a gang for the debug interface. Focus: die. -/
  | evict
  /-- R416. A write to mg.module sets the module number for both dies, or is ignored if the value is above 31. Focus: die, value. -/
  | moduleNumberWrite
  /-- R418. System software advances mg.evhead, which frees ring room so that waiting events are written. Focus: die, value. -/
  | eventHeadWrite
  /-- R416. A write to a management-window field that has no behaviour of its own replaces that field. Focus: die, off, value. -/
  | mgmtRegisterWrite
  /-- R104. When a core's free bytes or slots grow, or new work becomes placeable, the device places evaluators, woken gangs, tasks and clusters in that order. Focus: nothing. -/
  | placementOpportunity
  /-- R31. Completion of the parameter copies of every block of a placed cluster, which lets the cluster's gangs begin to issue. Focus: cluster. -/
  | parameterCopy
  /-- R415. An ending launch posts any kill record, settles dirty marks, trace and log, frees its resources, makes its completion record final and updates the counters. Focus: launch. -/
  | launchEnd
  /-- R113. A whole clause arrives in the instruction cache, or fetch raises a fault at the clause's header. Focus: gang. -/
  | clauseFetch
  /-- R49. Once its wait mask is clear, a clause decodes its words, fixes its active mask and starts, or is skipped when no lane is active. Focus: gang. -/
  | clauseStart
  /-- R122. On each clk each scheduler selects at most one eligible gang of highest current class and issues its next instruction. Focus: core, sched. -/
  | issueSelect
  /-- R123. When a gang's aging count reaches a multiple of 256, its current class rises by one, up to 8. Focus: gang. -/
  | agingClassRise
  /-- R53. A counted instruction completes for all its active lanes, and its completion flag falls by one. Focus: gang. -/
  | instructionComplete
  /-- R55. A gang held in wait or exit resumes when every flag it waits on is clear. Focus: gang. -/
  | flagWaitResume
  /-- R205. A lane's access reaches its target, where the stage-2 checks are made and the load, store, atomic or cell step is performed; any fault is raised once all lanes settle. Focus: gang. -/
  | accessAtTarget
  /-- R367. The wake condition of a blocking point occurs, and the waiting gang continues or is marked for placement. Focus: gang. -/
  | gangWake
  /-- R368. A marked gang at a blocking point is evicted, with its control image and wake record written to the task arena. Focus: gang. -/
  | gangEviction
  /-- R234. A copy's deferred fault is delivered to the issuing gang at its next clause start or blocking point, as a trap. Focus: gang. -/
  | deferredFaultDelivery
  /-- R209. A channel starts its next copy in issue order once the earlier copy's bytes are delivered. Focus: core, chan. -/
  | copyChannelStart
  /-- R292. A copy into a ring that has waited for room claims its entries once enough are free at the tail. Focus: copy. -/
  | ringClaim
  /-- R227. A line fill arrives at its home slice and serves every mergeable read that joined it. Focus: line. -/
  | l2Fill
  /-- R224. A copy's bytes are delivered or performed at their destinations, lowering balances and advancing write pointers. Focus: copy. -/
  | copyDelivery
  /-- R229. A prefetched line becomes present at its home slice, and the barrier's balance falls by its bytes. Focus: copy. -/
  | prefetchLinePresent
  /-- R256. An mwait wakes after 2^20 clk have passed since its wait began. Focus: gang. -/
  | mwaitTimeout
  /-- R261. The wide array admits a waiting dense product under the rules for sharing between modes. Focus: core. -/
  | denseProductAdmit
  /-- R285. A queued engine command starts once earlier commands that touch its tiles, or that it must follow, have completed. Focus: core, cmd. -/
  | engineCommandStart
  /-- R285. A K-chunk of an mma fires once its A and B entries are ready and the array admits outer-mode work. Focus: core. -/
  | chunkFire
  /-- R286. An mma completes 16 clk after its last fold: its flags join %aflags, and it makes its arrival if asked. Focus: core, cmd. -/
  | mmaComplete
  /-- R296. An mdrain completes 12 clk after its last write, with its flags and its optional arrival. Focus: core, cmd. -/
  | drainComplete
  /-- R298. An mzero command finishes zeroing its tiles in the array pipe. Focus: core, cmd. -/
  | mzeroComplete
  /-- R300. A table load completes in the engine when its last byte is in the lattice table or scale memory. Focus: core, cmd. -/
  | cbldComplete
  /-- R112. A migrating gang's state image arrives on the destination core and the gang resumes there, with its origin freed. Focus: gang. -/
  | migrateMove
  /-- R195. A page walk completes with a leaf, no leaf or a malformed entry, and fills the TLB or faults. Focus: die, ctx, va. -/
  | tlbWalk
  /-- R200. Every 2^19 ns the periodic sweep writes every pending dirty mark to its leaf. Focus: nothing. -/
  | dirtySweep
  /-- R391. Every 2^p ns each scheduler writes a sample record of its oldest gang. Focus: launch, core. -/
  | traceSample
  /-- R402. Operations that wait 2^24 clk at an order gate without an admission give a divergence of kind 4, and every gate opens. Focus: launch, unit, place. -/
  | gateStallDivergence
  /-- R371. A parity error on a register read is repaired from the operand log and the instruction is executed again, or it raises 0x60. Focus: gang, inLog. -/
  | parityReplay
  /-- R372. An SRAM or memory error is corrected, or the granule and its tag byte are marked poisoned. Focus: kind, owner, off, corrected. -/
  | eccError
  /-- R373. A flit arrives on a Wenhel link or the seam, is checked by CRC and is retried until it passes. Focus: die, port, crcOk. -/
  | linkFlit
  /-- R373. A link that fails its retry limit is reported, and its in-flight accesses receive error responses. Focus: die, port. -/
  | linkFailure
  /-- R389. A link sync message corrects a core's %time by slewing, to keep the domain within 8 ns. Focus: die, core, slew. -/
  | timeSync
  /-- R22. Power management lowers the clock and supply of cores to hold the module at or below TDP. Focus: core. -/
  | powerCap
  /-- R422. At power-good the management core verifies the image and part record, self-tests, trains interfaces and sets mg.status. Focus: selfTestOk, memoryOk, linksOk. -/
  | powerGood
  /-- R422. A start that has not reached ready 2 s after power-good fails with reason 0x07. Focus: nothing. -/
  | startTimeout
  /-- R424. In minimal mode an image is received from the host, checked, written to flash, and the module starts again. Focus: version, body. -/
  | imageReceive
  /-- R285. A fired K-chunk finishes its Kc/K clk in the array: it is folded, a consume-mode ring's head advances and frees entries, and the array may admit dense products for up to 16 clk. Focus: core. -/
  | kChunkComplete
  /-- R419. A write of mc.op with an unassigned code, or with an operand out of range, sets mc.status to 2 and has no other effect. Focus: die. -/
  | unknownCommand
  deriving DecidableEq, Repr

end Sys2Proof
end

