-- ==== Sys2Proof/Machine/State.lean ====
section
/-! DEFINITION. The state of the Xotur X2 as plain data, its faults and refusals, and the state after reset.
Sparse storage is an `FMap`: keys rise strictly, and no entry holds the value an unlisted key reads as. Fields the
model adds for itself (identifiers, the agenda, the counter of free values) say so. -/

namespace Sys2Proof.Machine

/-- Physical memory and the on-core byte stores: (address, byte) pairs in canonical form. -/
abbrev Memory := List Host.Cell

/-- Where bytes live: the single place of R309. -/
inductive Place where
  /-- Physical memory, addressed by the 52-bit physical address (R17). -/
  | phys
  /-- The scratchpad of the block with this identifier (R188). -/
  | scratch (block : Nat)
  /-- The private scratchpad of the task gang with this identifier (R189). -/
  | priv (gang : Nat)
  /-- The stack slabs of the gang with this identifier; the offset is lane × 2^20 + byte (R190). -/
  | stack (gang : Nat)
  deriving DecidableEq, Repr

/-- A byte position at a place. -/
structure Loc where
  place : Place
  off : Nat
  deriving DecidableEq, Repr

/-- An on-core byte store: size in bytes, whether its launch tags it (R203), its bytes (unlisted: 0, R191), its granule
colours (unlisted: 0) and its poisoned granules (R372). -/
structure Space where
  size : Nat := 0
  tagged : Bool := false
  bytes : Memory := []
  tags : FMap Nat := []
  poison : List Nat := []
  deriving DecidableEq, Repr

/-- A sealed batch of copies (R231). -/
structure Batch where
  num : Nat
  copies : List Nat
  deriving DecidableEq, Repr

/-- One thread: its registers (R57), predicates (R62), window base, flags (R169), banked pairs (R359), high-word
latches (R64), and its copy batches (R231) and tickets (R232). DESIGN CHOICE, log entry 12 (unsafe). -/
structure Thread where
  regs : FMap Word := []
  preds : BitVec 128 := 1
  wbase : Nat := 0
  aflags : Word := 0
  amask : Word := 0
  save1 : Dbl := 0
  save2 : Dbl := 0
  hiClk : Word := 0
  hiTime : Word := 0
  hiRet : Word := 0
  hiHash : Word := 0
  nextBatch : Nat := 0
  unsealed : List Nat := []
  batches : List Batch := []
  tickets : FMap Nat := []
  deriving DecidableEq, Repr

/-- A frontier entry: PC, priority and lane mask (R116), and whether its PC was reached by a transfer (R48).
DEDUCED, log entry 14 (unsafe). -/
structure Entry where
  pc : Dbl
  prio : Nat
  mask : Word
  target : Bool := false
  deriving DecidableEq, Repr

/-- The fault record of one trap level (R63, R358). -/
structure FaultRec where
  cause : Word := 0
  pc : Word := 0
  pch : Word := 0
  loc : Word := 0
  loch : Word := 0
  lanes : Word := 0
  done : Word := 0
  deriving DecidableEq, Repr

/-- A watchpoint hit that awaits delivery (R383): lane, index, and the first watched byte touched. -/
structure Hit where
  lane : Nat
  index : Nat
  loc : Dbl
  deriving DecidableEq, Repr

/-- A clause that has started (R49): header address and word, instruction words, the index of the next instruction,
the active mask; `redo` restricts the one instruction that `tret` executes again (R360, R407) or that resumes after a
wait, and `counted` says that its flag has been raised (R53). `stream` is what its lanes have written so far (lane,
address, size, value), `hits` the watchpoint hits they have made (R383), and `retired` says that it has retired (R396,
R397). -/
structure ClauseRun where
  h : Dbl
  hdr : Word
  words : List Word
  idx : Nat := 0
  act : Word
  redo : Option Word := none
  counted : Bool := false
  stream : List (Nat × Nat × Nat × Nat) := []
  hits : List Hit := []
  retired : Bool := false
  deriving DecidableEq, Repr

/-- A fetched clause that has not started: header address, header word and instruction words (R113). -/
structure Fetched where
  h : Dbl
  hdr : Word
  words : List Word
  deriving DecidableEq, Repr

/-- The wake condition of a blocking point (R367). -/
inductive Cond where
  /-- `bar.wait`: the phase of the object differs from the bit (R246). -/
  | phase (loc : Loc) (bit woken : Bool)
  /-- `bar.blk`: the block generation has completed (R247). -/
  | blkGen (complete : Bool)
  /-- `bar.clu`: the cluster generation has completed (R247). -/
  | cluGen (complete : Bool)
  /-- `mwait`: a write to the granule, a line eviction, a pre-emption or the time limit has occurred (R256); the clk count
  of its core when the wait began. -/
  | mwait (loc : Loc) (woken : Bool) (since : Nat)
  /-- `take`, `join` on cells: a cell that the gang waits on has been resolved or reclaimed (R336, R344). -/
  | cells (woken : Bool)
  /-- `join g0.d`: the task's `task.join` is 0 (R344). -/
  | joinZero
  /-- `cpy.wait n`: at most n sealed batches unfinished in each named lane (R232). -/
  | unfinished (n : Nat) (lanes : Word)
  /-- `cpy.vis n`: at most n sealed batches not visible (R232). -/
  | invisible (n : Nat) (lanes : Word)
  /-- `cpy.seal` at 15 unfinished batches (R232). -/
  | sealRoom (lanes : Word)
  /-- Copy issue without a queue entry (R230). -/
  | copyEntry
  /-- `ring.adv`: n entries of the ring are free (R293). -/
  | ringRoom (ring n : Nat)
  /-- `spawn` without a record (R106). -/
  | record
  /-- `launch` at capacity (R95). -/
  | capacity
  /-- `carve`: every gang of the block has arrived (R108); the presented sizes and the destination field. -/
  | carve (s q d : Nat) (complete : Bool)
  /-- `migrate`: the copies are complete and a core of the die admits the gang (R111); the destination field. -/
  | landing (die d : Nat)
  /-- An engine instruction without the claim (R273). -/
  | claim
  /-- `mfence`: the named commands have completed (R299). -/
  | commands (ids : List Nat)
  /-- `halt`, a break stop or a mode-1 stop: resumed through the debug interface (R130, R363, R380). -/
  | resumed
  deriving DecidableEq, Repr

/-- What holds a gang back between two instructions, or within one. -/
inductive Wait where
  | none
  /-- Waiting at `wait`, or at `exit` for all twelve flags (R55): not a blocking point. -/
  | flags (mask : Word)
  /-- The instruction has issued and its unit goes on with it later: the engine queue, `ring.rel` (R294), `tlb.inv` (R207), an
  order gate (R401): not a blocking point. -/
  | unit
  /-- At a blocking point, with stall reason code (R125), wake condition and the time the wait began. -/
  | blocked (stall : Nat) (cond : Cond) (since : Nat)
  /-- Stopped for good by an escalation or a fatal fault (R364, R365); the next GANG_WAKE removes the gang. -/
  | stopped
  deriving DecidableEq, Repr

/-- The per-lane operation of an instruction whose accesses are on their way to their targets (R205, R244, R251, R333). -/
inductive AccessOp where
  | load (size off : Nat) (signed : Bool) (a d : Nat)
  | store (size off a d : Nat)
  /-- `atom.*`: operation code 0–9 of R74, 10 `cas`, 11 `fx`, 12 `add.d`. -/
  | atom (fn : Nat) (ret : Bool) (b a d : Nat)
  /-- `bar.init`, `bar.arr`, `bar.arrb`, `bar.exp`: fn 0–3 (R245). -/
  | bar (fn b a d : Nat)
  | take (a d : Nat)
  | resolve (b a : Nat)
  | refAdd (a d : Nat)
  | refDrop (a d : Nat)
  | probe (a d : Nat)
  | tagSet (a : Nat)
  | tagSetr (b a : Nat)
  | tagGet (a d : Nat)
  deriving DecidableEq, Repr

/-- An access that has passed its checks and is not yet performed (R309, R311): its lane, operation and order kind (0 S,
1 R, 2 U), where it goes, the operand of a store or an atomic, and the physical registers it writes. -/
structure Flight where
  lane : Nat
  op : AccessOp
  kind : Nat
  ea : Dbl
  loc : Loc
  data : Nat := 0
  dst : List Nat := []
  /-- It carries a release (R325, R421). -/
  rel : Bool := false
  /-- The leaf through which a global access was translated: where it stands, and what it read at fill (R200). -/
  leaf : Option (Nat × Dbl) := none
  deriving DecidableEq, Repr

/-- An instruction that the gang has moved past and that has not retired (R53, R396): the flag it is counted in, whether
it counts, what its lanes have written so far, and its accesses still outstanding. -/
structure Passed where
  flag : Option Nat := none
  counts : Bool := true
  stream : List (Nat × Nat × Nat × Nat) := []
  flights : List Flight := []
  deriving DecidableEq, Repr

/-- A lane's failure: lane, cause code, the value of R356, and the colour the granule held at a tag check (R387). -/
structure LaneFail where
  lane : Nat
  cause : Nat
  loc : Dbl
  colour : Nat := 0
  deriving DecidableEq, Repr

/-- Hits of an instruction that another fault kept back (R383). -/
structure LateHits where
  pc : Dbl
  done : Word
  hits : List Hit
  deriving DecidableEq, Repr

/-- The stage-2 part of an instruction: the lanes not yet performed, those done, and those that failed or wait. -/
structure Pending where
  op : AccessOp
  lanes : Word
  done : Word := 0
  failed : List LaneFail := []
  waiting : Word := 0
  /-- Accesses of it that are outstanding (R311), in lane order. -/
  flights : List Flight := []
  /-- The unit at which an operation found the replay log at its end (R401, R402). -/
  beyond : Option Nat := none
  deriving DecidableEq, Repr

/-- The instruction that issued a copy (R222, R229). -/
inductive CopyKind where
  | into | out | mc | gen | pf
  deriving DecidableEq, Repr

/-- Where a copy stands (R209, R224, R233, R235, R238). -/
inductive CopyState where
  /-- In its channel, behind an earlier copy. -/
  | queued
  | active
  /-- Stopped by a deferred fault: cause, the value of R234, delivered to the gang or not, and the order of detection. -/
  | stopped (cause : Nat) (loc : Dbl) (delivered : Bool) (order : Nat)
  /-- Delivered, but bytes written out are not yet performed at their home slice (R231). -/
  | delivered
  | complete
  | abandoned
  deriving DecidableEq, Repr

/-- A tensor map as read at issue (R212). -/
structure TMap where
  base : Dbl := 0
  fmt : Nat := 0
  rank : Nat := 0
  flags : Nat := 0
  dims : List Nat := []
  strides : List Nat := []
  btab : Dbl := 0
  deriving DecidableEq, Repr

/-- An issued copy or prefetch. -/
structure Copy where
  id : Nat
  kind : CopyKind
  gang : Nat
  /-- The handle of the issuing task, 0 for a block gang. -/
  task : Word := 0
  lane : Nat
  launch : Nat
  core : Nat
  chan : Nat
  pc : Dbl
  map : TMap := {}
  /-- Box origins and extents (R216). -/
  org : List Int := []
  ext : List Nat := []
  cvt : Nat := 0
  /-- Micro-ops of `cpy.gen` (R228). -/
  ops : List Nat := []
  dst : Nat := 0
  /-- Named ranks as (rank, block identifier), or none for a task's private scratchpad. -/
  ranks : List (Nat × Nat) := []
  /-- The counted barrier's offset (R222). -/
  bar : Option Nat := none
  /-- Units of delivery done and in all, bytes in all, and for `cpy.pf` the start address. -/
  pos : Nat := 0
  units : Nat := 0
  bytes : Nat := 0
  start : Dbl := 0
  seq : Option Nat := none
  state : CopyState := .queued
  aflags : Word := 0
  reserved : Bool := false
  /-- Ring slots claimed at each named rank, in order (R292); `claimed` once every rank has them. -/
  claimed : Bool := false
  slots : List (Nat × List Nat) := []
  /-- The issuing thread has ended: a deferred fault abandons the copy (R236). -/
  orphan : Bool := false
  colour : Nat := 0
  /-- Units of a copy out read from its source, and their bytes not yet performed (R231, R237); of a scatter copy, the units
  read and not yet delivered at every rank, and how many of them each rank has (R226). -/
  taken : Nat := 0
  buf : List (List Byte) := []
  ahead : FMap Nat := []
  /-- The fault that its next unit meets: where its source could not be read when its task's private scratchpad was freed
  (R236), or where its read was lost on a failed link (R373). -/
  fault : Option (Nat × Dbl × Nat) := none
  /-- Lines of a prefetch beyond `pos` that have counted (R229). -/
  counted : List Nat := []
  /-- The lattice table and its poisoned granules, where the copy decodes from another than the core's as it stands (R273,
  R305). -/
  table : Option (FMap Word × List Nat) := none
  /-- Who issued it, for the event of an abandoned copy (R428): `%cluster`, `%blockrank`, `%gang`. -/
  cluster : Nat := 0
  rank : Nat := 0
  index : Nat := 0
  /-- The gang bytes of a trace record about it, once its thread has ended (R387, R391). -/
  who : List Byte := []
  deriving DecidableEq, Repr

/-- What trap entry banks (R357, R360): the frontier, the clause position or the clause start, the interrupted wait,
the interrupted accesses, whether the record is deferred and of which copy. -/
structure Bank where
  frontier : List Entry
  clause : Option ClauseRun
  wait : Wait
  copy : Option Nat
  copyLane : Nat
  /-- The wait in which a stop had landed (R380). -/
  under : Wait := .none
  /-- The record is that of an instruction before the interrupted position (R383): `%tdone` does not bear on it. -/
  late : Bool := false
  /-- What an interrupted `spawn` has read of its record (R39), and the copy that an interrupted copy instruction has read (R223). -/
  record : Option (Nat × List Byte) := none
  ready : Option Copy := none
  deriving DecidableEq, Repr

/-- A gang slot: one of a scheduler's 16, or the core's landing slot (R100, R110). -/
inductive Slot where
  | normal (sched pos : Nat)
  | landing
  deriving DecidableEq, Repr

/-- A resident, evicted or displaced gang. `id` is the model's own name for it. -/
structure Gang where
  id : Nat
  launch : Nat
  cluster : Nat := 0
  clusterId : Nat := 0
  block : Nat := 0
  rank : Nat := 0
  index : Nat := 0
  /-- The task handle, 0 in a block gang (R25). -/
  task : Word := 0
  core : Nat
  slot : Option Slot
  /-- Order of placement in its slot: the oldest has the lowest (R123, R124). -/
  placed : Nat := 0
  /-- P, the physical registers per thread (R57). -/
  nregs : Nat
  slab : Nat := 0
  threads : List Thread
  /-- The lanes that have not exited. -/
  live : Word
  frontier : List Entry
  fetched : Option Fetched := none
  clause : Option ClauseRun := none
  pending : Option Pending := none
  /-- Instructions passed and not retired, in issue order (R311, R396). -/
  passed : List Passed := []
  wait : Wait := .none
  /-- The twelve completion flags (R53). -/
  flags : List Nat := List.replicate 12 0
  /-- Flags that instructions in flight have still to lower (R53). -/
  completing : List Nat := []
  /-- `%tlevel` (R357). -/
  level : Nat := 0
  rec1 : FaultRec := {}
  rec2 : FaultRec := {}
  bank1 : Option Bank := none
  bank2 : Option Bank := none
  /-- `%gstate` (R259). -/
  gstate : Word := 0x00012020
  /-- The region stack: depth and the held entries, top first (R377). -/
  regionDepth : Nat := 0
  regions : List Nat := []
  retcnt : Nat := 0
  sthash : BitVec 64 := 0
  aging : Nat := 0
  curClass : Nat := 0
  yielded : Bool := false
  /-- The gangs that are to issue before a yielding gang (R132): those eligible on the clk after its `yield`. -/
  yieldFor : Option (List Nat) := none
  /-- Marked for eviction (R368). -/
  marked : Bool := false
  /-- An evicted gang whose wake condition has occurred, with the order of the wake (R104). -/
  woken : Option Nat := none
  /-- Images written to the task arena: offsets of the wake record, and whether the footprint was displaced (R340). -/
  wakeRec : Option Nat := none
  displaced : Bool := false
  tEvict : Nat := 0
  haltReq : Bool := false
  /-- Watchpoint hits kept back by another fault, with the instruction and the lanes it had completed for (R383). -/
  hits : List LateHits := []
  /-- The wait to which a gang returns when a stop that landed on it at a blocking point is resumed (R380, R383). -/
  under : Wait := .none
  /-- The gang has been told to stop at its next reclamation point (R97, R346). -/
  stopping : Bool := false
  /-- The 32 stack slabs of a gang, and the private scratchpad of a task gang (R98, R189 to R191). -/
  stack : Space := {}
  priv : Space := {}
  /-- Synchronising operations completed at level 0 (R402), and whether replay let the gang go (R413). -/
  syncs : Nat := 0
  freed : Bool := false
  /-- The gate before which its access waits: unit, place, since when, and its order among those waiting (R401, R402). -/
  gate : Option (Nat × Nat × Nat × Nat) := none
  /-- A comparison that waits for the log to be readable: major, fn and PC of its instruction (R401, R426). -/
  compare : Option (Nat × Nat × Dbl) := none
  /-- A divergence at which it is still to halt: kind, unit and PC (R402). -/
  diverges : Option (Nat × Nat × Dbl) := none
  /-- What `spawn` has read of its record before it came to wait: the lane, and the bytes (R39, R334). -/
  record : Option (Nat × List Byte) := none
  /-- The copy of a lane that waits for a queue entry, read and validated (R223, R230). -/
  ready : Option Copy := none
  /-- A wake record of it that could not be written yet (R426): the whole record, or its state byte. -/
  wakeOwed : Option Bool := none
  /-- When the cell it waits for woke it (R104, R338). -/
  wakeOrder : Option Nat := none
  /-- A fault that ends its task, whose event waits for room: cause, PC and the value of R356 (R418, R427). -/
  ended : Option (Nat × Dbl × Dbl) := none
  /-- `ring.rel` waits for the engine commands queued before this number (R294). -/
  bound : Option Nat := none
  deriving DecidableEq, Repr

/-- An entry of a ring: its slot in queue storage, whether ready, whether dead (R287, R292). -/
structure REntry where
  slot : Nat
  ready : Bool := false
  dead : Bool := false
  deriving DecidableEq, Repr

/-- A defined ring (R291, R295). -/
structure Ring where
  base : Nat
  esize : Nat
  count : Nat
  keep : Bool
  head : Nat := 0
  cut : Bool := false
  entries : List REntry := []
  deriving DecidableEq, Repr

/-- A block: one rank of a cluster on one core (R23), with the sizes that `carve` may change (R108).
DESIGN CHOICE, log entry 12 (unsafe). -/
structure Block where
  id : Nat
  launch : Nat
  clusterId : Nat
  rank : Nat
  core : Nat
  gangs : Nat
  pad : Space
  queueSize : Nat
  queue : Memory := []
  /-- Gangs that have arrived at the block barrier and at the cluster barrier (R247). -/
  blkArrived : List Nat := []
  cluArrived : List Nat := []
  /-- Its rings, once its claim of the engine has ended: copies into them run on (R236, R273). -/
  rings : FMap Ring := []
  deriving DecidableEq, Repr

/-- A placed cluster; `ready` once every parameter copy has completed (R103). -/
structure Cluster where
  id : Nat
  launch : Nat
  index : Nat
  blocks : List Nat
  ready : Bool := false
  /-- Arrival times at the cluster barrier, by core, and the last straggler (R425). -/
  arrivals : List (Nat × Nat) := []
  straggler : Option Nat := none
  /-- Whether every gang of it ran to `exit` so far (`done.count`, R91). -/
  clean : Bool := true
  deriving DecidableEq, Repr

/-- The launch descriptor's fields (R28). -/
structure Desc where
  entry : Dbl := 0
  gx : Nat := 0
  gy : Nat := 0
  gz : Nat := 0
  blocks : Nat := 0
  gangs : Nat := 0
  prio : Nat := 0
  affinity : Nat := 0
  regs : Nat := 0
  scratch : Nat := 0
  stack : Nat := 0
  queue : Nat := 0
  param : Dbl := 0
  lease : Dbl := 0
  nlease : Nat := 0
  flags : Nat := 0
  nparam : Nat := 0
  done : Dbl := 0
  tvec1 : Dbl := 0
  tvec2 : Dbl := 0
  save : Dbl := 0
  arena : Dbl := 0
  spill : Dbl := 0
  nspill : Nat := 0
  narena : Nat := 0
  trace : Dbl := 0
  ntrace : Nat := 0
  rlog : Dbl := 0
  nrlog : Nat := 0
  tag : Nat := 0
  graph : Dbl := 0
  deriving DecidableEq, Repr

/-- One lease entry (R87), or a device area that is leased implicitly (R90, R426). -/
structure Lease where
  base : Nat
  size : Nat
  r : Bool
  w : Bool
  x : Bool
  demand : Bool := false
  /-- `lse.base` as it stands in the table, for the residency request. -/
  raw : Nat := 0
  deriving DecidableEq, Repr

/-- The states of a launch (R84). -/
inductive LState where
  | taken | leaseWait | ready | running | draining | done
  deriving DecidableEq, Repr

/-- A residency request (R88, R426): number, lease entry index or device-area index; `answer` 0 waiting, 1 resident,
2 refused. -/
structure Request where
  num : Nat
  index : Nat
  answer : Nat := 0
  deriving DecidableEq, Repr

/-- An open trace frame of one core (R390). -/
structure Frame where
  seq : Nat
  slot : Nat
  used : Nat := 0
  last : Nat
  deriving DecidableEq, Repr

/-- An open chunk of the replay log (R400): unit word, `ch.where`, sequence number; runs of (gang, length) or the
bytes of sync records. -/
structure Chunk where
  unit : Nat
  place : Nat
  seq : Nat
  runs : List (Nat × Nat) := []
  syncs : List (List Byte) := []
  deriving DecidableEq, Repr

/-- How far a replay gate has come (R401): unit word, `ch.where`, operations admitted, and the clk count of the core
at the last admission. -/
structure Gate where
  unit : Nat
  place : Nat
  admitted : Nat := 0
  deriving DecidableEq, Repr

/-- The state of recording or replaying a launch (R398 to R402, R411). -/
structure RLog where
  chunks : List Chunk := []
  written : Nat := 0
  full : Bool := false
  gates : List Gate := []
  diverged : Bool := false
  div : List Byte := []
  deriving DecidableEq, Repr

/-- A launch that a sequencer has taken (R83). `id` is the model's own name. -/
structure Launch where
  id : Nat
  die : Nat
  take : Nat
  ctx : Nat
  addr : Dbl
  queue : Nat
  desc : Desc
  leases : List Lease := []
  state : LState := .taken
  /-- The status that a cancel, a kill, a refusal or a fatal fault has decided (R97). -/
  ending : Option Nat := none
  cause : Nat := 0
  pc : Dbl := 0
  loc : Dbl := 0
  placed : Nat := 0
  ended : Nat := 0
  clean : Nat := 0
  tstart : Nat := 0
  node : Option (Nat × Nat) := none
  requests : List Request := []
  preempt : Bool := false
  brkOn : Bool := false
  stopMode : Nat := 0
  breakpoints : List Nat := []
  samplePeriod : Nat := 0
  /-- The sample period of `%time` in which each core last sampled (R391). -/
  sampled : FMap Nat := []
  /-- Gang id, `%retcnt`, `%sthash` and synchronising operations of the gangs that have ended, in replay (R402). -/
  finals : List (Nat × Nat × Nat × Nat) := []
  nextFrame : Nat := 0
  frames : FMap Frame := []
  lost : FMap Nat := []
  log : RLog := {}
  spawnOrd : Nat := 0
  kill : Option (List Byte) := none
  /-- Its place among the entries taken: its own identifier, or that of its graph (R83, R86). -/
  place : Nat := 0
  /-- The value of `lq.head` when its entry, or its graph's, was taken (R428). -/
  entry : Nat := 0
  /-- Steps 1 to 5 of R415 are done; its completion record is due. -/
  closed : Bool := false
  /-- The cores its clusters have been placed on (R425). -/
  cores : List Nat := []
  arenaUsed : Nat := 0
  /-- Next slot of the spill ring, and the generations of its record numbers (R106). -/
  spillNext : Nat := 0
  /-- Slots of the spill ring whose records could not be written yet (R426). -/
  spillOwed : List Nat := []
  /-- The next identifier when it was submitted (R52, R82). -/
  since : Nat := 0
  deriving DecidableEq, Repr

/-- A node of a taken graph (R33, R35); `status` once its launch has ended or was cancelled. -/
structure GNode where
  launch : Dbl
  succs : List Nat
  deps : Nat
  queued : Bool := false
  status : Option Nat := none
  deriving DecidableEq, Repr

/-- A taken graph (R33). -/
structure Graph where
  id : Nat
  die : Nat
  ctx : Nat
  addr : Dbl
  queue : Nat
  flags : Nat
  tag : Nat
  done : Dbl
  nodes : List GNode
  /-- The value of `lq.head` when its entry was taken (R428). -/
  entry : Nat := 0
  tstart : Option Nat := none
  final : Bool := false
  /-- The next identifier when it was submitted (R52, R82). -/
  since : Nat := 0
  deriving DecidableEq, Repr

/-- A task record (R36, R37), with the launch it belongs to (R24) and its order of creation. -/
structure Task where
  die : Nat
  nbhd : Nat
  index : Nat
  gen : Nat
  launch : Nat
  code : Dbl := 0
  frame : Dbl := 0
  join : Nat := 0
  state : Nat := 0
  depth : Nat := 1
  prio : Nat := 0
  lazy : Bool := false
  eval : Bool := false
  cell : Dbl := 0
  fp : Nat := 0
  parent : Word := 0
  held : List Word := []
  nheld : Nat := 0
  order : Nat := 0
  /-- The core it was spawned on, or whose lane started its evaluation (R107, R339). -/
  origin : Nat := 0
  /-- The die that homes its cell, for the placement of an evaluator (R339). -/
  home : Nat := 0
  /-- The parent counts it in `task.join` (R331). -/
  countsIn : Bool := false
  ordinal : Nat := 0
  /-- The creator's `%cluster` (R25), and the gang whose `take` started the evaluation (R340). -/
  cluster : Nat := 0
  loader : Nat := 0
  /-- The granules of the record, 0 to 3, that stand under an uncorrectable error (R372). -/
  poison : List Nat := []
  deriving DecidableEq, Repr

/-- A waiter record of the pool (R338): the gang, the cell with the address under which it was reached, and the next record of
the queue (0xFFFF: none). -/
structure Waiter where
  gang : Nat
  cell : Nat
  ea : Dbl := 0
  next : Nat
  deriving DecidableEq, Repr

/-- The shadow of an FP32 word of a sum page (R253): its home die, its place in the spill area when it stands there
(R255), and the order of its last use. -/
structure Shadow where
  acc : BitVec 376
  nan : Bool := false
  ninf : Bool := false
  pinf : Bool := false
  spilled : Option Nat := none
  used : Nat := 0
  deriving DecidableEq, Repr

/-- An entry of the translation buffers (R198, R200). -/
structure TlbEntry where
  die : Nat
  ctx : Nat
  base : Nat
  size : Nat
  leafAt : Nat
  leaf : Dbl
  pending : Bool := false
  /-- The level: 0 of a core, 1 of a neighbourhood, 2 of the die; and the core or neighbourhood that holds it. -/
  level : Nat := 2
  holder : Nat := 0
  /-- An uncorrectable error stands in the entry (R372). -/
  poison : Bool := false
  deriving DecidableEq, Repr

/-- The decoded operands of an `mma` (R275, R281, R282). -/
structure MmaArgs where
  m : Nat
  n : Nat
  kc : Nat
  afmt : Nat
  bfmt : Nat
  fp : Bool
  scale : Nat
  tileA : Option Nat
  ringA : Nat
  ringB : Nat
  tile : Nat
  ksteps : Nat
  ascale : Nat
  bscale : Nat
  zero : Bool
  bar : Option Nat
  dcvt : Nat
  deriving DecidableEq, Repr

/-- The decoded operands of an `mdrain` (R296). -/
structure DrainArgs where
  tile : Nat
  fmt : Nat
  mx : Bool
  mode : Nat
  rows : Nat
  cols : Nat
  ring : Option Nat
  dst : Nat
  scaleMem : Bool
  sdst : Nat
  bar : Option Nat
  deriving DecidableEq, Repr

/-- A queued engine command (R285). -/
inductive EngBody where
  | mma (args : MmaArgs)
  | drain (args : DrainArgs)
  | zero (mask : Nat)
  /-- `cbld`: scale memory or lattice, first entry or offset, count, source offset. -/
  | load (scale : Bool) (first count src : Nat)
  deriving DecidableEq, Repr

/-- A command in the engine queue: the gang and the elected lane that issued it, the address of its instruction, its
progress, and the flags it has raised. -/
structure EngCmd where
  id : Nat
  gang : Nat
  lane : Nat
  launch : Nat
  block : Nat
  index : Nat := 0
  pc : Dbl := 0
  body : EngBody
  started : Bool := false
  /-- Source bytes or drained cells have been read (R300, R296). -/
  acted : Bool := false
  chunk : Nat := 0
  firing : Bool := false
  /-- The rings that were reset while it had chunks left (R287, R294). -/
  cuts : List Nat := []
  aflags : Word := 0
  /-- The completion flag that falls when its source has been read (R53, R300). -/
  flag : Option Nat := none
  /-- What a table load has read (R300). -/
  data : List Byte := []
  /-- The gate before which its arrival waits, as in a gang (R402). -/
  gate : Option (Nat × Nat × Nat × Nat) := none
  deriving DecidableEq, Repr

/-- The engine of a core (R12, R273): claim, accumulators, scale memory, lattice table, rings and queue. -/
structure Engine where
  owner : Option Nat := none
  acc : FMap Word := []
  scale : Memory := []
  lattice : FMap Word := []
  rings : FMap Ring := []
  cmds : List EngCmd := []
  /-- The gang whose dense product the array admits next (R261). -/
  grant : Option Nat := none
  /-- The clk in which a dense product entered last, and that in which the last K-chunk completed (R261). -/
  lastDense : Option Nat := none
  lastChunk : Option Nat := none
  /-- The scheduler whose dense product entered last (R261). -/
  lastServed : Nat := 3
  /-- Poisoned granules (R372), by store: 0 accumulators, 1 scale memory, 2 lattice table, 3 queue storage. -/
  poison : List (Nat × Nat) := []
  deriving DecidableEq, Repr

/-- An armed watchpoint (R381): owner gang and lane, scope, kinds, size and address. -/
structure Wpt where
  gang : Nat
  lane : Nat
  scope : Nat
  kinds : Nat
  size : Nat
  addr : Nat
  deriving DecidableEq, Repr

/-- A write that a scheduler's operand log holds (R371): the gang, a predicate or a register, and for each lane its
number. -/
structure OpWrite where
  gang : Nat
  pred : Bool
  lanes : List (Nat × Nat)
  deriving DecidableEq, Repr

/-- A core (R12). Its clock step is in units of 25 MHz above or below nominal, its supply in mV (R22, R425); `cap` is the
highest step that power management allows it. DESIGN CHOICE, log entry 8 (unsafe). -/
structure Core where
  /-- Clks it has counted beyond those of a core that never held work, `State.idleClk` (R389). -/
  clk : Int := 0
  step : Int := 0
  supply : Nat := 600
  cap : Int := 12
  /-- By scheduler: the clk from which its divider and its special-function unit accept again (R139, R174), and its operand
  log, newest first (R371). -/
  divFree : FMap Nat := []
  sfuFree : FMap Nat := []
  oplog : FMap (List OpWrite) := []
  steadyGens : Nat := 0
  chanSeq : FMap Nat := []
  cwp : FMap Word := []
  helig : FMap Word := []
  hstall : FMap Word := []
  /-- The clk at which the histograms were last zeroed, and the clks with work counted in them since (R124, R388). -/
  histBase : Nat := 0
  histClks : Nat := 0
  wpts : FMap Wpt := []
  /-- Granules of code whose copy in the instruction cache stands under an uncorrectable error (R12, R372). -/
  badCode : List Nat := []
  engine : Engine := {}
  slew : Int := 0
  deriving DecidableEq, Repr

/-- The command block `mg.cmd` (R419). DESIGN CHOICE, log entry 5 (unsafe). -/
structure Cmd where
  op : Nat := 0
  ctx : Nat := 0
  sub : Nat := 0
  addr : Nat := 0
  arg : Nat := 0
  buf : Nat := 0
  cluster : Nat := 0
  task : Nat := 0
  rank : Nat := 0
  gang : Nat := 0
  core : Nat := 0
  status : Nat := 0
  deriving DecidableEq, Repr

/-- The management window of a die (R416). DESIGN CHOICE, log entry 5 (unsafe). -/
structure Mgmt where
  qtab : Nat := 0
  ctxtab : Nat := 0
  pool : Nat := 0
  shadow : Nat := 0
  shsize : Nat := 0
  evring : Nat := 0
  evsize : Nat := 0
  evhead : Nat := 0
  evtail : Nat := 0
  tcorr : Nat := 0
  treplay : Nat := 0
  tpoison : Nat := 0
  tretry : Nat := 0
  evlost : Nat := 0
  cmd : Cmd := {}
  /-- The command in progress, with its operands as they stood when `mc.op` was written (R419). -/
  run : Cmd := {}
  deriving DecidableEq, Repr

/-- An event that waits to be written to the event ring (R418): its bytes and the launch it is about. -/
structure Event where
  type : Nat
  bytes : List Byte
  launch : Option Nat := none
  deriving DecidableEq, Repr

/-- What each die holds of its own: management window, waiting events, request and take counters, waiter pool,
observed queue tails (R82) and failed link ports (R373). DESIGN CHOICE, log entry 9 (unsafe). -/
structure Die where
  mgmt : Mgmt := {}
  events : List Event := []
  requests : Nat := 0
  takes : Nat := 0
  waiters : FMap Waiter := []
  tails : FMap Nat := []
  failedPorts : List Nat := []
  /-- Ports and channels on which a flit is being sent again (R325, R373). -/
  retrying : List (Nat × Nat) := []
  deriving DecidableEq, Repr

/-- The work counters of a job (R94). -/
structure Job where
  pend : Nat := 0
  done : Nat := 0
  fail : Nat := 0
  deriving DecidableEq, Repr

/-- Start-up (R422 to R424): `mg.status`, the highest image version recorded, and the flash image as version and body.
DESIGN CHOICE, log entry 7 (unsafe). -/
structure Boot where
  state : Nat := 0
  fails : Nat := 0
  reason : Nat := 0
  recorded : Nat := 0
  flashVersion : Nat := 0
  flashBody : Nat := 0
  partRecord : Nat := 0
  /-- When the start under way began, if one is (R422). -/
  since : Option Nat := none
  deriving DecidableEq, Repr

/-- The model's agenda: events that are due, and writes to memory that system software makes through the host adapter
(R421). The step performs the oldest first. `hostMode` selects whether Quince's port 0 faces the host adapter (R19). -/
inductive Work where
  | event (i : Instr) (focus : List Nat)
  | hostWrite (pa : Nat) (bytes : List Byte)
  | hostMode (on : Bool)
  deriving DecidableEq, Repr

/-- The whole module. `agenda`, `issuing`, `focus`, `fresh` and `nextId` are the model's own: what is due next, the gang
whose instruction issues next, what the event under way concerns, the counter of free values, and the next identifier. -/
structure State where
  agenda : List Work
  issuing : Option Nat
  focus : List Nat
  fresh : Nat
  nextId : Nat
  mem : Memory
  tags : Memory
  /-- Words of physical memory as they stood before writes made while launches run, with the next identifier at the write:
  what a fetch may still see (R52). -/
  past : FMap (List (Nat × Word))
  poison : List Nat
  shadows : FMap Shadow
  tlb : List TlbEntry
  /-- Lines present at their home slices, most recent first, as physical address / 128 (R227, R229). -/
  lines : List Nat
  module : Nat
  /-- System software has selected this module's port 0 of Quince to face the host-side adapter (R19). -/
  hostPort : Bool
  /-- Other modules of the load-store domain that are reachable (R17, R421). -/
  domain : List Nat
  boot : Boot
  dies : List Die
  cores : FMap Core
  launches : List Launch
  graphs : List Graph
  clusters : List Cluster
  blocks : List Block
  gangs : List Gang
  tasks : List Task
  copies : List Copy
  jobs : FMap Job
  /-- `%time` in ns, and the arithmetic clks of a core that has never held work (R389). -/
  time : Nat
  idleClk : Nat
  /-- The period of 2^19 ns in which the last sweep of dirty marks ran (R200). -/
  swept : Nat
  deriving DecidableEq, Repr

/-- Why the machine stops. -/
inductive Fault where
  /-- Raised by the meaning of an instruction word, and by `step`, when the state names no gang whose instruction is
  issuing: the word has no thread to run it. Safe: no state that `step` reaches from reset names such a gang. -/
  | noIssuer
  deriving DecidableEq, Repr

/-- Why there is no meaning. -/
inductive Refusal where
  /-- Raised by `exec` for an instruction the model does not give a meaning to. Safe. -/
  | notModelled (mnemonic : String)
  deriving DecidableEq, Repr

/-- The module as start-up leaves it before power-good (R6, R423): `mg.status` reads starting, the management windows,
counters, histograms and write pointers read zero (R211, R388, R389, R416), no work exists, and nothing is due.
DESIGN CHOICE, log entry 3 (safe). DESIGN CHOICE, log entry 6 (unsafe). DESIGN CHOICE, log entry 7 (unsafe). DESIGN CHOICE, log entry 9 (unsafe). -/
def State.reset : State :=
  { agenda := [], issuing := none, focus := [], fresh := 0, nextId := 1, mem := [], tags := [], past := [], poison := [], shadows := [],
    tlb := [], lines := [], module := 0, hostPort := false, domain := [], boot := {}, dies := [{}, {}], cores := [], launches := [],
    graphs := [], clusters := [], blocks := [], gangs := [], tasks := [], copies := [], jobs := [], time := 0,
    idleClk := 0, swept := 0 }

end Sys2Proof.Machine
end

