-- ==== Sys2Proof/Machine/Lookup.lean ====
section
/-! DEFINITION. Finding and replacing the pieces of the state: gangs, blocks, clusters, launches, tasks, copies, cores
and dies by their identifiers; core codes; and the free choices. -/

namespace Sys2Proof.Machine

/-- The element with an identifier. -/
def findBy {α : Type} (key : α → Nat) (id : Nat) : List α → Option α
  | [] => none
  | x :: xs => if key x = id then some x else findBy key id xs

/-- Change the elements with an identifier. -/
def modBy {α : Type} (key : α → Nat) (id : Nat) (f : α → α) : List α → List α
  | [] => []
  | x :: xs => (if key x = id then f x else x) :: modBy key id f xs

def gangOf (s : State) (id : Nat) : Option Gang := findBy Gang.id id s.gangs
def modGang (s : State) (id : Nat) (f : Gang → Gang) : State := { s with gangs := modBy Gang.id id f s.gangs }
/-- Replace the gang that has this identifier. -/
def setGang (s : State) (g : Gang) : State := modGang s g.id fun _ => g

def blockOf (s : State) (id : Nat) : Option Block := findBy Block.id id s.blocks
def modBlock (s : State) (id : Nat) (f : Block → Block) : State := { s with blocks := modBy Block.id id f s.blocks }

def clusterOf (s : State) (id : Nat) : Option Cluster := findBy Cluster.id id s.clusters
def modCluster (s : State) (id : Nat) (f : Cluster → Cluster) : State :=
  { s with clusters := modBy Cluster.id id f s.clusters }

def launchOf (s : State) (id : Nat) : Option Launch := findBy Launch.id id s.launches
def modLaunch (s : State) (id : Nat) (f : Launch → Launch) : State :=
  { s with launches := modBy Launch.id id f s.launches }

def copyOf (s : State) (id : Nat) : Option Copy := findBy Copy.id id s.copies
def modCopy (s : State) (id : Nat) (f : Copy → Copy) : State := { s with copies := modBy Copy.id id f s.copies }

def graphOf (s : State) (id : Nat) : Option Graph := findBy Graph.id id s.graphs
def modGraph (s : State) (id : Nat) (f : Graph → Graph) : State := { s with graphs := modBy Graph.id id f s.graphs }

/-- A core by its code: die × 1024 + neighbourhood × 64 + core, which with the module number added as module × 2048 is
the layout of `wr.core` (R369). -/
def coreOf (s : State) (c : Nat) : Core := fgetD s.cores c {}
def setCore (s : State) (c : Nat) (x : Core) : State := { s with cores := fput s.cores c x }
def modCore (s : State) (c : Nat) (f : Core → Core) : State := setCore s c (f (coreOf s c))
def mkCore (die nbhd core : Nat) : Nat := die * 1024 + nbhd * 64 + core
def coreDie (c : Nat) : Nat := c / 1024
def coreNbhd (c : Nat) : Nat := c / 64 % 16
def coreNum (c : Nat) : Nat := c % 64
/-- The core field of records and events: bits 15:10 die identifier, 9:6 neighbourhood, 3:0 core (R369, R428). -/
def coreField (s : State) (c : Nat) : Nat := s.module * 2048 + c

/-- Neighbourhoods of a die (R11). -/
def nbhdsOf (die : Nat) : Nat := if die = 0 then 12 else 6
/-- The enabled cores of a neighbourhood, ascending (R13). -/
def coresOfNbhd (die nbhd : Nat) : List Nat := (List.range 15).map (mkCore die nbhd)
/-- The cores of a die, neighbourhoods and cores ascending. -/
def coresOfDie (die : Nat) : List Nat := (List.range (nbhdsOf die)).flatMap (coresOfNbhd die)
/-- A code names an enabled core. -/
def coreExists (c : Nat) : Bool := c / 1024 < 2 && coreNbhd c < nbhdsOf (coreDie c) && coreNum c < 15

def dieOf (s : State) (d : Nat) : Die := (s.dies[d]?).getD {}
def modDie (s : State) (d : Nat) (f : Die → Die) : State := { s with dies := setAt s.dies d (f (dieOf s d)) }
def mgmtOf (s : State) (d : Nat) : Mgmt := (dieOf s d).mgmt
def modMgmt (s : State) (d : Nat) (f : Mgmt → Mgmt) : State := modDie s d fun x => { x with mgmt := f x.mgmt }
/-- The die identifier: module × 2 + die (R17). -/
def dieId (s : State) (d : Nat) : Nat := s.module * 2 + d

/-- Medlar is absent in minimal mode (R424). -/
def diePresent (s : State) (d : Nat) : Bool := d == 0 || (d == 1 && s.boot.state != 2 && s.boot.state != 3)

/-- A free natural. -/
def freeNat (s : State) : Nat × State := (Config.freeNat s.fresh, { s with fresh := s.fresh + 1 })

/-- A free choice among n; no choice when there is only one. -/
def pick (s : State) (n : Nat) : Nat × State :=
  if n ≤ 1 then (0, s) else (Config.freeNat s.fresh % n, { s with fresh := s.fresh + 1 })

/-- A free choice of an element. -/
def pickFrom {α : Type} (s : State) (l : List α) : Option α × State :=
  (l[(pick s l.length).1]?, (pick s l.length).2)

/-- A new identifier. DESIGN CHOICE, log entry 3 (safe). -/
def newId (s : State) : Nat × State := (s.nextId, { s with nextId := s.nextId + 1 })

/-- Arithmetic clks that a core has counted (R2, R389). -/
def clkOf (s : State) (c : Nat) : Nat := ((coreOf s c).clk + s.idleClk).toNat

/-- The cores on which gangs are resident, each once. -/
def residentCores (s : State) : List Nat := ((s.gangs.filter fun g => g.slot.isSome).map Gang.core).eraseDups

/-- Clks pass on every core that holds no work (R389); a core with work counts its own.
DESIGN CHOICE, log entry 43 (safe). -/
def passIdle (s : State) (m : Nat) : State :=
  { (residentCores s).foldl (fun t c => modCore t c fun k => { k with clk := k.clk - m }) s with idleClk := s.idleClk + m }

/-- `%time` on a core: the time base with the core's correction (R389). DESIGN CHOICE, log entry 6 (unsafe). -/
def timeOf (s : State) (c : Nat) : Nat := ((s.time : Int) + (coreOf s c).slew).toNat

/-- The gang's thread in a lane. -/
def thr (g : Gang) (l : Nat) : Thread := (g.threads[l]?).getD {}

/-- Change the threads of the lanes in a mask. -/
def mapLanesFrom (A : Word) (f : Nat → Thread → Thread) : Nat → List Thread → List Thread
  | _, [] => []
  | l, t :: ts => (if inMask A l then f l t else t) :: mapLanesFrom A f (l + 1) ts

def mapLanes (A : Word) (f : Nat → Thread → Thread) (g : Gang) : Gang :=
  { g with threads := mapLanesFrom A f 0 g.threads }

/-- Change one lane's thread. -/
def modThread (g : Gang) (l : Nat) (f : Thread → Thread) : Gang := { g with threads := setAt g.threads l (f (thr g l)) }

/-- The launch's scratchpads and stacks are tagged (R203). -/
def Desc.tagging (d : Desc) : Bool := bit d.flags 0
def Desc.recording (d : Desc) : Bool := bit d.flags 1
def Desc.replaying (d : Desc) : Bool := bit d.flags 2

/-- A gang's launch, with an empty one where the state names none. -/
def launchD (s : State) (id : Nat) : Launch :=
  (launchOf s id).getD { id := id, die := 0, take := 0, ctx := 0, addr := 0, queue := 0, desc := {} }

/-- The gangs of a block. -/
def gangsOfBlock (s : State) (b : Nat) : List Gang := s.gangs.filter fun g => g.block == b && g.task == 0

/-- Fields of a task handle (R40). -/
def mkHandle (s : State) (t : Task) : Word :=
  BitVec.ofNat 32 (dieId s t.die * 67108864 + t.nbhd * 4194304 + t.gen * 65536 + t.index)

/-- A handle is current: a record that is not FREE holds it (R40, R331). -/
def taskOf (s : State) (h : Word) : Option Task := s.tasks.find? fun t => mkHandle s t == h && t.state != 0
def modTask (s : State) (h : Word) (f : Task → Task) : State :=
  { s with tasks := s.tasks.map fun t => if mkHandle s t == h && t.state != 0 then f t else t }

/-- The gang that runs a task. -/
def gangOfTask (s : State) (h : Word) : Option Gang := s.gangs.find? fun g => g.task == h && h != 0

/-- A gang waits at a blocking point. -/
def Gang.blocked (g : Gang) : Bool :=
  match g.wait with
  | .blocked _ _ _ => true
  | _ => false

end Sys2Proof.Machine
end

