-- ==== Sys2Proof/Machine/Places.lean ====
section
/-! DEFINITION. Bytes, tag bytes and poison at their single places (R309): physical memory, the scratchpads and the
stack slabs; and the wake of `mwait` by a write to its granule (R256). -/

namespace Sys2Proof.Machine

/-- An on-core byte store; physical memory has none, and a place whose owner has gone reads as empty. -/
def spaceOf (s : State) : Place → Space
  | .phys => {}
  | .scratch b => ((blockOf s b).map Block.pad).getD {}
  | .priv g => ((gangOf s g).map Gang.priv).getD {}
  | .stack g => ((gangOf s g).map Gang.stack).getD {}

def setSpace (s : State) (p : Place) (x : Space) : State :=
  match p with
  | .phys => s
  | .scratch b => modBlock s b fun y => { y with pad := x }
  | .priv g => modGang s g fun y => { y with priv := x }
  | .stack g => modGang s g fun y => { y with stack := x }

/-- The bytes of a place. -/
def bytesAt (s : State) : Place → Memory
  | .phys => s.mem
  | p => (spaceOf s p).bytes

/-- One byte. DESIGN CHOICE, log entry 1 (unsafe). -/
def readByte (s : State) (l : Loc) : Byte := rdByte (bytesAt s l.place) l.off

/-- n bytes as a little-endian number (R3). -/
def readNat (s : State) (l : Loc) (n : Nat) : Nat := rdLE (bytesAt s l.place) l.off n

def readBytes (s : State) (l : Loc) (n : Nat) : List Byte := rdBytes (bytesAt s l.place) l.off n

/-- The colour and cell states of a granule: its tag byte (R201, R203). -/
def tagAt (s : State) (l : Loc) : Nat :=
  match l.place with
  | .phys => (rdByte s.tags (l.off / 16)).toNat
  | p => fgetD (spaceOf s p).tags (l.off / 16) 0

def colourAt (s : State) (l : Loc) : Nat := bits (tagAt s l) 4 4

/-- The granules a range touches. -/
def granules (off n : Nat) : List Nat :=
  if n = 0 then [] else (List.range ((off + n - 1) / 16 - off / 16 + 1)).map fun i => off / 16 + i

/-- The granules a write of this range covers in full (R372). -/
def wholeGranules (off n : Nat) : List Nat := (granules off n).filter fun g => off ≤ g * 16 && g * 16 + 16 ≤ off + n

/-- A byte of the range lies in a poisoned granule. -/
def poisonedAt (s : State) (l : Loc) (n : Nat) : Bool :=
  match l.place with
  | .phys => (granules l.off n).any s.poison.contains
  | p => (granules l.off n).any (spaceOf s p).poison.contains

/-- The first granule of a range that is poisoned. -/
def poisonFirst (s : State) (l : Loc) (n : Nat) : Option Nat :=
  match l.place with
  | .phys => (granules l.off n).find? s.poison.contains
  | p => (granules l.off n).find? (spaceOf s p).poison.contains

/-- Change the wake condition of a wait. -/
def Wait.mapCond (f : Cond → Cond) : Wait → Wait
  | .blocked st c t => .blocked st (f c) t
  | w => w

/-- Change the wake conditions a gang waits on, those of banked waits included (R360). -/
def Gang.mapConds (f : Cond → Cond) (g : Gang) : Gang :=
  { g with wait := g.wait.mapCond f, under := g.under.mapCond f,
           bank1 := g.bank1.map fun b => { b with wait := b.wait.mapCond f },
           bank2 := g.bank2.map fun b => { b with wait := b.wait.mapCond f } }

/-- A write to these granules meets the wake condition of an `mwait` on one of them (R256). -/
def Cond.touched (p : Place) (gs : List Nat) : Cond → Cond
  | .mwait l w t => .mwait l (w || (decide (l.place = p) && gs.contains (l.off / 16))) t
  | c => c

/-- A write to these granules wakes a gang in `mwait` on one of them (R256). -/
def wakeOn (p : Place) (gs : List Nat) (g : Gang) : Gang := g.mapConds (Cond.touched p gs)

/-- Wake every `mwait` on the granules of a range. -/
def wakeMwait (s : State) (l : Loc) (n : Nat) : State := { s with gangs := s.gangs.map (wakeOn l.place (granules l.off n)) }

/-- No launch runs, and no queue can hold one that is submitted (R82, R417). -/
def allQuiet (s : State) : Bool := s.launches.all (fun L => L.state == .done) && s.dies.all fun d => d.mgmt.qtab == 0

/-- The words of physical memory that a write changes are kept as they stood, while any launch is submitted or runs: a fetch of code
may still see them (R52). DESIGN CHOICE, log entry 64 (unsafe). -/
def notePast (s : State) (m : Memory) (off n : Nat) : FMap (List (Nat × Word)) :=
  if allQuiet s then []
  else
    ((List.range ((off + n + 3) / 4 - off / 4)).map fun i => off / 4 + i).foldl (fun p w =>
      if rdLE s.mem (4 * w) 4 = rdLE m (4 * w) 4 then p
      else fput p w ((s.nextId, BitVec.ofNat 32 (rdLE s.mem (4 * w) 4)) :: fgetD p w [])) s.past

/-- Replace the bytes of a range, and clear the poison of the granules covered in full. -/
def putBytes (s : State) (l : Loc) (bs : List Byte) : State :=
  match l.place with
  | .phys =>
    { s with mem := wrBytes s.mem l.off bs,
             past := notePast s (wrBytes s.mem l.off bs) l.off bs.length,
             poison := s.poison.filter fun g => !(wholeGranules l.off bs.length).contains g }
  | p =>
    setSpace s p { spaceOf s p with
      bytes := wrBytes (spaceOf s p).bytes l.off bs,
      poison := (spaceOf s p).poison.filter fun g => !(wholeGranules l.off bs.length).contains g }

/-- A write performed at its target (R309): the bytes, the poison of covered granules (R372), the wake of `mwait`. -/
def writeBytes (s : State) (l : Loc) (bs : List Byte) : State := wakeMwait (putBytes s l bs) l bs.length

/-- The low n bytes of a number, little-endian (R3). -/
def leOf : Nat → Nat → List Byte
  | 0, _ => []
  | n + 1, x => BitVec.ofNat 8 x :: leOf n (x / 256)

/-- The number that a list of bytes holds, little-endian (R3). -/
def natOf : List Byte → Nat
  | [] => 0
  | b :: bs => b.toNat + 256 * natOf bs

/-- A field of a list of bytes. -/
def leAt (bs : List Byte) (off n : Nat) : Nat := natOf ((bs.drop off).take n)

/-- Write the n low bytes of a number. -/
def writeNat (s : State) (l : Loc) (n x : Nat) : State := writeBytes s l (leOf n x)

/-- Replace the tag byte of a granule. -/
def putTag (s : State) (l : Loc) (v : Nat) : State :=
  match l.place with
  | .phys => { s with tags := wrByte s.tags (l.off / 16) (BitVec.ofNat 8 v) }
  | p => setSpace s p { spaceOf s p with tags := fset (spaceOf s p).tags (l.off / 16) (v % 256) 0 }

/-- A tag write wakes `mwait` as any write of the granule (R256, R385). -/
def writeTag (s : State) (l : Loc) (v : Nat) : State := wakeMwait (putTag s l v) l 1

/-- Mark a granule poisoned (R372). -/
def poisonGranule (s : State) (l : Loc) : State :=
  match l.place with
  | .phys => { s with poison := if s.poison.contains (l.off / 16) then s.poison else (l.off / 16) :: s.poison }
  | p => setSpace s p { spaceOf s p with
      poison := if (spaceOf s p).poison.contains (l.off / 16) then (spaceOf s p).poison
                else (l.off / 16) :: (spaceOf s p).poison }

/-- The physical location. -/
def physLoc (pa : Nat) : Loc := ⟨.phys, pa⟩

end Sys2Proof.Machine
end

