-- ==== Sys2Proof/Machine/Regs.lean ====
section
/-! DEFINITION. General registers through the window, pairs, quads, the banked pairs, wide registers and predicates
(R57 to R62, R359), and the window check (R58). Every read and write of a register goes through this file. -/

namespace Sys2Proof.Machine

/-- A single-register field that names the banked pair at trap level `lv` (R359). -/
def bankedReg (lv n : Nat) : Bool := lv != 0 && (n == 126 || n == 127)
/-- The pair field that names the banked pair (R359). -/
def bankedPair (lv n : Nat) : Bool := lv != 0 && n == 126

/-- The banked pair of a level. -/
def saveOf (lv : Nat) (t : Thread) : Dbl := if lv = 2 then t.save2 else t.save1
def setSave (lv : Nat) (t : Thread) (v : Dbl) : Thread := if lv = 2 then { t with save2 := v } else { t with save1 := v }

/-- A physical general register (R57): zero until written. -/
def rdPhys (t : Thread) (i : Nat) : Word := fgetD t.regs i 0
def wrPhys (t : Thread) (i : Nat) (v : Word) : Thread := { t with regs := fset t.regs i v 0 }

/-- The register a field names; field 0 reads zero (R57). -/
def rdReg (lv : Nat) (t : Thread) (n : Nat) : Word :=
  if n = 0 then 0
  else if bankedReg lv n then (if n = 126 then (saveOf lv t).lo else (saveOf lv t).hi)
  else rdPhys t (t.wbase + n)

/-- Write the register a field names; field 0 discards the write (R57). -/
def wrReg (lv : Nat) (t : Thread) (n : Nat) (v : Word) : Thread :=
  if n = 0 then t
  else if bankedReg lv n then
    setSave lv t (if n = 126 then mkDbl v (saveOf lv t).hi else mkDbl (saveOf lv t).lo v)
  else wrPhys t (t.wbase + n) v

/-- A pair, the low register first; the pair field 0 reads zero (R59). -/
def rdPair (lv : Nat) (t : Thread) (n : Nat) : Dbl :=
  if n = 0 then 0
  else if bankedPair lv n then saveOf lv t
  else mkDbl (rdPhys t (t.wbase + n)) (rdPhys t (t.wbase + n + 1))

def wrPair (lv : Nat) (t : Thread) (n : Nat) (v : Dbl) : Thread :=
  if n = 0 then t
  else if bankedPair lv n then setSave lv t v
  else wrPhys (wrPhys t (t.wbase + n) v.lo) (t.wbase + n + 1) v.hi

/-- A quad as a natural, always in the window (R59, R359). -/
def rdQuad (t : Thread) (n : Nat) : Nat :=
  if n = 0 then 0
  else (rdPhys t (t.wbase + n)).toNat + 2 ^ 32 * (rdPhys t (t.wbase + n + 1)).toNat
    + 2 ^ 64 * (rdPhys t (t.wbase + n + 2)).toNat + 2 ^ 96 * (rdPhys t (t.wbase + n + 3)).toNat

def wrQuad (t : Thread) (n v : Nat) : Thread :=
  if n = 0 then t
  else wrPhys (wrPhys (wrPhys (wrPhys t (t.wbase + n) (BitVec.ofNat 32 v)) (t.wbase + n + 1) (BitVec.ofNat 32 (v / 2 ^ 32)))
    (t.wbase + n + 2) (BitVec.ofNat 32 (v / 2 ^ 64))) (t.wbase + n + 3) (BitVec.ofNat 32 (v / 2 ^ 96))

/-- The single window register of an operand that never names the banked pair: pack and wide operands (R359). -/
def rdWin (t : Thread) (n : Nat) : Word := if n = 0 then 0 else rdPhys t (t.wbase + n)
def wrWin (t : Thread) (n : Nat) (v : Word) : Thread := if n = 0 then t else wrPhys t (t.wbase + n) v

/-- A predicate; `q0` reads true (R62). -/
def rdPred (t : Thread) (n : Nat) : Bool := n == 0 || t.preds.getLsbD n

/-- Write a predicate; a write to `q0` is discarded (R62). -/
def wrPred (t : Thread) (n : Nat) (v : Bool) : Thread :=
  if n = 0 then t
  else { t with preds := if v then t.preds ||| (1#128 <<< n) else t.preds &&& ~~~(1#128 <<< n) }

/-- How an operand field names registers: one register, a pair, a quad, or one that never names the banked pair. -/
inductive Opnd where
  | reg (n : Nat)
  | pair (n : Nat)
  | quad (n : Nat)
  | win (n : Nat)
  deriving DecidableEq, Repr

/-- The first and the last field of an operand that names the window, or none for field 0 and the banked pair. -/
def Opnd.extent (lv : Nat) : Opnd → Option (Nat × Nat)
  | .reg n => if n = 0 || bankedReg lv n then none else some (n, n)
  | .pair n => if n = 0 || bankedPair lv n then none else some (n, n + 1)
  | .quad n => if n = 0 then none else some (n, n + 3)
  | .win n => if n = 0 then none else some (n, n)

/-- The first physical index of an operand at P or beyond (R58). -/
def Opnd.beyond (lv P : Nat) (t : Thread) (o : Opnd) : Option Nat :=
  match o.extent lv with
  | none => none
  | some (lo, hi) => if t.wbase + hi < P then none else some (max (t.wbase + lo) P)

/-- The first physical index, in the order the operands are listed, that fails the window check in a lane. -/
def windowBad (lv P : Nat) (t : Thread) : List Opnd → Option Nat
  | [] => none
  | o :: os =>
    match o.beyond lv P t with
    | some i => some i
    | none => windowBad lv P t os

/-- The lanes of a mask that fail the window check. -/
def windowLanes (g : Gang) (A : Word) (os : List Opnd) : List Nat :=
  (lanesOf A).filter fun l => (windowBad g.level g.nregs (thr g l) os).isSome

/-- The window check of an instruction (R58): the physical index that failed in the lowest failing lane (R356), and the
failing lanes. -/
def windowFail (g : Gang) (A : Word) (os : List Opnd) : Option (Nat × Word) :=
  match windowLanes g A os with
  | [] => none
  | l :: ls => some ((windowBad g.level g.nregs (thr g l) os).getD 0, maskOf (l :: ls))

/-- The window check of an instruction that acts once (R58): its sources in the lowest lane, its destinations in every
lane of the mask. -/
def windowOnce (g : Gang) (A : Word) (dst src : List Opnd) : Option (Nat × Word) :=
  let os := fun l => if l = lowest A then dst ++ src else dst
  match (lanesOf A).filter fun l => (windowBad g.level g.nregs (thr g l) (os l)).isSome with
  | [] => none
  | l :: ls => some ((windowBad g.level g.nregs (thr g l) (os l)).getD 0, maskOf (l :: ls))

/-- The lanes of a gang that have not exited, in ascending order. -/
def liveLanes (g : Gang) : List Nat := lanesOf g.live

/-- A wide register (R61): lane l supplies bits 32l+31 to 32l; an exited lane supplies zero; `w0` is zero. -/
def rdWide (g : Gang) (n : Nat) : Nat :=
  if n = 0 then 0
  else ((liveLanes g).map fun l => (rdPhys (thr g l) ((thr g l).wbase + n)).toNat * 2 ^ (32 * l)).sum

/-- Write a wide register (R61, R257): register n of every lane that has not exited. -/
def wrWide (g : Gang) (n v : Nat) : Gang :=
  if n = 0 then g
  else mapLanes g.live (fun l t => wrPhys t (t.wbase + n) (BitVec.ofNat 32 (v / 2 ^ (32 * l)))) g

end Sys2Proof.Machine
end

