-- ==== Sys2Proof/Machine/Frontier.lean ====
section
/-! DEFINITION. The priority frontier: order, merging and spill (R116 to R120). -/

namespace Sys2Proof.Machine

/-- Entry order: priority, the highest first; on equal priority PC, the lowest first (R116). -/
def Entry.before (a b : Entry) : Bool := decide (b.prio < a.prio) || (a.prio == b.prio && decide (a.pc.toNat < b.pc.toNat))

/-- Put an entry at its place in the order. -/
def placeEntry (e : Entry) : List Entry → List Entry
  | [] => [e]
  | x :: xs => if e.before x then e :: x :: xs else x :: placeEntry e xs

/-- Insert an entry; it merges with one at the same PC, with the union of the masks and the higher priority (R119). An entry
that fell through and one that was transferred to make one that was transferred to, for R48.
DESIGN CHOICE, log entry 74 (unsafe). -/
def insertEntry (fr : List Entry) (e : Entry) : List Entry :=
  match fr.find? fun x => x.pc == e.pc with
  | none => placeEntry e fr
  | some x => placeEntry { pc := e.pc, prio := max x.prio e.prio, mask := x.mask ||| e.mask, target := x.target || e.target } (fr.filter fun y => y.pc != e.pc)

/-- Insert entries one after the other; an entry with no lane is not inserted (R116). -/
def insertEntries (fr : List Entry) (es : List Entry) : List Entry :=
  (es.filter fun e => e.mask != 0).foldl insertEntry fr

/-- Entries held in the frontier registers (R120). -/
def heldEntries : Nat := 16

/-- A spilled entry as stored (R120). -/
def entryBytes (e : Entry) : List Byte := leOf 8 e.pc.toNat ++ leOf 4 e.mask.toNat ++ leOf 1 (e.prio % 64) ++ leOf 3 0

/-- A frontier can be held with slabs of this size (R120). -/
def spillFits (slab : Nat) (fr : List Entry) : Bool := decide (fr.length ≤ heldEntries) || decide (16 ≤ slab)

/-- Spill slots in use: the entries beyond the held ones, of the frontier and of those that trap entry banked.
DEDUCED, log entry 70 (unsafe). -/
def slotsUsed (g : Gang) : Nat :=
  max (g.frontier.length - heldEntries)
    (max (((g.bank1.map fun b => b.frontier.length).getD 0) - heldEntries)
      (((g.bank2.map fun b => b.frontier.length).getD 0) - heldEntries))

/-- Where spill slot k lies among the gang's slabs: the highest 16 bytes of lane k's slab (R120). -/
def spillOff (g : Gang) (k : Nat) : Nat := k * 2 ^ 20 + (g.slab - 16)

/-- Write the spilled entries to their slots. -/
def writeSpill (g : Gang) : Nat → List Entry → Gang
  | _, [] => g
  | k, e :: es =>
    writeSpill { g with stack := { g.stack with bytes := wrBytes g.stack.bytes (spillOff g k) (entryBytes e) } } (k + 1) es

/-- Give a gang a frontier: the entries beyond 16 are written to slots 0 upward (R120). -/
def withFrontier (g : Gang) (fr : List Entry) : Gang := writeSpill { g with frontier := fr } 0 (fr.drop heldEntries)

/-- A byte range of the slabs touches a spill slot that holds an entry (R120). DEDUCED, log entry 70 (unsafe). -/
def inSpillSlot (g : Gang) (lane off n : Nat) : Bool :=
  decide (lane < slotsUsed g) && decide (g.slab - 16 < off + n) && decide (off < g.slab)

/-- The header after a clause (R46), with bits 63:60 zero (R128). -/
def nextHeader (h : Dbl) (n : Nat) : Dbl := BitVec.ofNat 64 ((h.toNat + 4 * (n + 1)) % 2 ^ 60)

/-- The PC of an instruction of a clause. -/
def pcAt (h : Dbl) (idx : Nat) : Dbl := BitVec.ofNat 64 ((h.toNat + 4 * (idx + 1)) % 2 ^ 60)

/-- A J-format target (R56), with bits 63:60 zero (R128). -/
def jTarget (h : Dbl) (o : Nat) : Dbl := BitVec.ofNat 64 (wrapN 60 ((h.toNat : Int) + 4 * sext o 20))

/-- The top entry, which issues (R117). -/
def topEntry (g : Gang) : Entry := g.frontier.head?.getD { pc := 0, prio := 0, mask := 0 }

/-- The frontier after the top entry is replaced (R118, R119). -/
def replaceTop (g : Gang) (es : List Entry) : List Entry := insertEntries g.frontier.tail es

end Sys2Proof.Machine
end

