-- ==== Sys2Proof/WellFormed.lean ====
section
/-! DEFINITION. Which instruction terms stand for a legal word (R47): every field within its width, the pairing rule of
R60, predicate bases (R70), scopes (R73), assigned special registers (R63, R65). A device event is no word: it is
always well formed. The position rule of R50 belongs to a clause and stands in `Decode.lean`. -/

namespace Sys2Proof

/-- The start of a pair (R60). -/
def evenReg (n : Nat) : Bool := n % 2 == 0

/-- The start of a quad (R60). -/
def quadReg (n : Nat) : Bool := n % 4 == 0

/-- A predicate base (R70). -/
def predBase (n : Nat) : Bool := n % 32 == 0

/-- A scope code (R73): 6 and 7 are illegal. -/
def scopeOk (n : Nat) : Bool := decide (n < 6)

/-- The assigned special-register numbers (R63, R65). -/
def sregAssigned (n : Nat) : Bool :=
  decide (n ≤ 0x008) || (decide (0x100 ≤ n) && decide (n ≤ 0x103)) || (decide (0x200 ≤ n) && decide (n ≤ 0x202)) ||
  (decide (0x210 ≤ n) && decide (n ≤ 0x216)) || (decide (0x220 ≤ n) && decide (n ≤ 0x226)) ||
  (decide (0x300 ≤ n) && decide (n ≤ 0x308)) || (decide (0x400 ≤ n) && decide (n ≤ 0x405)) ||
  (decide (0x440 ≤ n) && decide (n ≤ 0x5FF)) || n == 0x600

/-- The pairing rule of the conversion forms (R72): `cvt.pk` reads a pair or a quad, `cvt.upk` writes one. -/
def cvtPairing (f a d : Nat) : Bool :=
  if f == 0x18 || f == 0x19 then evenReg a
  else if f == 0x1A || f == 0x1B then quadReg a
  else if f == 0x1C || f == 0x1D then evenReg d
  else if f == 0x1E || f == 0x1F then quadReg d
  else true

/-- The legal instruction terms. -/
def Instr.wf : Instr → Bool
  | .submitTail => true
  | .takeEntry => true
  | .leaseAck => true
  | .preemptMark => true
  | .preemptClear => true
  | .cmdCancelL => true
  | .cmdCancelG => true
  | .cmdCancelJ => true
  | .shootdown => true
  | .harvest => true
  | .shadowRetire => true
  | .haltReq => true
  | .regionBp => true
  | .stopMode => true
  | .resume => true
  | .breakEn => true
  | .sample => true
  | .zeroHist => true
  | .readState => true
  | .evict => true
  | .moduleNumberWrite => true
  | .eventHeadWrite => true
  | .mgmtRegisterWrite => true
  | .placementOpportunity => true
  | .parameterCopy => true
  | .launchEnd => true
  | .clauseFetch => true
  | .clauseStart => true
  | .issueSelect => true
  | .agingClassRise => true
  | .instructionComplete => true
  | .flagWaitResume => true
  | .accessAtTarget => true
  | .gangWake => true
  | .gangEviction => true
  | .deferredFaultDelivery => true
  | .copyChannelStart => true
  | .ringClaim => true
  | .l2Fill => true
  | .copyDelivery => true
  | .prefetchLinePresent => true
  | .mwaitTimeout => true
  | .denseProductAdmit => true
  | .engineCommandStart => true
  | .chunkFire => true
  | .mmaComplete => true
  | .drainComplete => true
  | .mzeroComplete => true
  | .cbldComplete => true
  | .migrateMove => true
  | .tlbWalk => true
  | .dirtySweep => true
  | .traceSample => true
  | .gateStallDivergence => true
  | .parityReplay => true
  | .eccError => true
  | .linkFlit => true
  | .linkFailure => true
  | .timeSync => true
  | .powerCap => true
  | .powerGood => true
  | .startTimeout => true
  | .imageReceive => true
  | .bra p o => decide (p < 64) && decide (o < 1048576)
  | .call p o => decide (p < 64) && decide (o < 1048576)
  | .nop => true
  | .ret => true
  | .jmpi p a => decide (p < 64) && decide (a < 128) && evenReg a
  | .exit => true
  | .yield => true
  | .wait f => decide (f < 4096)
  | .wbaseRel n => decide (n < 64)
  | .wbaseAbs n => decide (n < 32)
  | .trap c => decide (c < 4096)
  | .tfence => true
  | .tret => true
  | .brk c => decide (c < 4096)
  | .halt => true
  | .add b a d => decide (b < 128) && decide (a < 128) && decide (d < 128)
  | .sub b a d => decide (b < 128) && decide (a < 128) && decide (d < 128)
  | .min b a d => decide (b < 128) && decide (a < 128) && decide (d < 128)
  | .max b a d => decide (b < 128) && decide (a < 128) && decide (d < 128)
  | .minn b a d => decide (b < 128) && decide (a < 128) && decide (d < 128)
  | .maxn b a d => decide (b < 128) && decide (a < 128) && decide (d < 128)
  | .abs a d => decide (a < 128) && decide (d < 128)
  | .neg a d => decide (a < 128) && decide (d < 128)
  | .and b a d => decide (b < 128) && decide (a < 128) && decide (d < 128)
  | .or b a d => decide (b < 128) && decide (a < 128) && decide (d < 128)
  | .xor b a d => decide (b < 128) && decide (a < 128) && decide (d < 128)
  | .andn b a d => decide (b < 128) && decide (a < 128) && decide (d < 128)
  | .orn b a d => decide (b < 128) && decide (a < 128) && decide (d < 128)
  | .not a d => decide (a < 128) && decide (d < 128)
  | .shl b a d => decide (b < 128) && decide (a < 128) && decide (d < 128)
  | .shr b a d => decide (b < 128) && decide (a < 128) && decide (d < 128)
  | .sar b a d => decide (b < 128) && decide (a < 128) && decide (d < 128)
  | .rol b a d => decide (b < 128) && decide (a < 128) && decide (d < 128)
  | .ror b a d => decide (b < 128) && decide (a < 128) && decide (d < 128)
  | .clz a d => decide (a < 128) && decide (d < 128)
  | .ctz a d => decide (a < 128) && decide (d < 128)
  | .popc a d => decide (a < 128) && decide (d < 128)
  | .brev a d => decide (a < 128) && decide (d < 128)
  | .mul b a d => decide (b < 128) && decide (a < 128) && decide (d < 128)
  | .mulh b a d => decide (b < 128) && decide (a < 128) && decide (d < 128)
  | .mulhn b a d => decide (b < 128) && decide (a < 128) && decide (d < 128)
  | .mad b a d => decide (b < 128) && decide (a < 128) && decide (d < 128)
  | .mulD b a d => decide (b < 128) && decide (a < 128) && decide (d < 128) && evenReg d
  | .div b a d => decide (b < 128) && decide (a < 128) && decide (d < 128)
  | .divn b a d => decide (b < 128) && decide (a < 128) && decide (d < 128)
  | .rem b a d => decide (b < 128) && decide (a < 128) && decide (d < 128)
  | .remn b a d => decide (b < 128) && decide (a < 128) && decide (d < 128)
  | .bfe b a d => decide (b < 128) && decide (a < 128) && decide (d < 128)
  | .bfen b a d => decide (b < 128) && decide (a < 128) && decide (d < 128)
  | .bfi b a d => decide (b < 128) && decide (a < 128) && decide (d < 128)
  | .addD b a d => decide (b < 128) && evenReg b && decide (a < 128) && evenReg a && decide (d < 128) && evenReg d
  | .subD b a d => decide (b < 128) && evenReg b && decide (a < 128) && evenReg a && decide (d < 128) && evenReg d
  | .shlD b a d => decide (b < 128) && decide (a < 128) && evenReg a && decide (d < 128) && evenReg d
  | .shrD b a d => decide (b < 128) && decide (a < 128) && evenReg a && decide (d < 128) && evenReg d
  | .addi i a d => decide (i < 4096) && decide (a < 128) && decide (d < 128)
  | .andi i a d => decide (i < 4096) && decide (a < 128) && decide (d < 128)
  | .ori i a d => decide (i < 4096) && decide (a < 128) && decide (d < 128)
  | .xori i a d => decide (i < 4096) && decide (a < 128) && decide (d < 128)
  | .shli n a d => decide (n < 32) && decide (a < 128) && decide (d < 128)
  | .shri n a d => decide (n < 32) && decide (a < 128) && decide (d < 128)
  | .sari n a d => decide (n < 32) && decide (a < 128) && decide (d < 128)
  | .movi i d => decide (i < 524288) && decide (d < 128)
  | .movhi i d => decide (i < 524288) && decide (d < 128)
  | .icmpEq b a d => decide (b < 128) && decide (a < 128) && decide (d < 128)
  | .icmpNe b a d => decide (b < 128) && decide (a < 128) && decide (d < 128)
  | .icmpLt b a d => decide (b < 128) && decide (a < 128) && decide (d < 128)
  | .icmpLe b a d => decide (b < 128) && decide (a < 128) && decide (d < 128)
  | .icmpGt b a d => decide (b < 128) && decide (a < 128) && decide (d < 128)
  | .icmpGe b a d => decide (b < 128) && decide (a < 128) && decide (d < 128)
  | .icmpLtn b a d => decide (b < 128) && decide (a < 128) && decide (d < 128)
  | .icmpLen b a d => decide (b < 128) && decide (a < 128) && decide (d < 128)
  | .icmpGtn b a d => decide (b < 128) && decide (a < 128) && decide (d < 128)
  | .icmpGen b a d => decide (b < 128) && decide (a < 128) && decide (d < 128)
  | .qand b a d => decide (b < 128) && decide (a < 128) && decide (d < 128)
  | .qor b a d => decide (b < 128) && decide (a < 128) && decide (d < 128)
  | .qxor b a d => decide (b < 128) && decide (a < 128) && decide (d < 128)
  | .qandn b a d => decide (b < 128) && decide (a < 128) && decide (d < 128)
  | .qnot a d => decide (a < 128) && decide (d < 128)
  | .qset v d => decide (v < 2) && decide (d < 128)
  | .qmov a d => decide (a < 128) && decide (d < 128)
  | .qpack a d => decide (a < 128) && predBase a && decide (d < 128)
  | .qunpack a d => decide (a < 128) && decide (d < 128) && predBase d
  | .sel b a d => decide (b < 128) && decide (a < 128) && decide (d < 128)
  | .voteAny a d => decide (a < 128) && decide (d < 128)
  | .voteAll a d => decide (a < 128) && decide (d < 128)
  | .voteCnt a d => decide (a < 128) && decide (d < 128)
  | .voteBallot a d => decide (a < 128) && decide (d < 128)
  | .shflIdx b a d => decide (b < 128) && decide (a < 128) && decide (d < 128)
  | .shflUp b a d => decide (b < 128) && decide (a < 128) && decide (d < 128)
  | .shflDn b a d => decide (b < 128) && decide (a < 128) && decide (d < 128)
  | .shflXor b a d => decide (b < 128) && decide (a < 128) && decide (d < 128)
  | .bcast b a d => decide (b < 128) && decide (a < 128) && decide (d < 128)
  | .reduxAdd a d => decide (a < 128) && decide (d < 128)
  | .reduxMin a d => decide (a < 128) && decide (d < 128)
  | .reduxMax a d => decide (a < 128) && decide (d < 128)
  | .reduxMinn a d => decide (a < 128) && decide (d < 128)
  | .reduxMaxn a d => decide (a < 128) && decide (d < 128)
  | .mrank d => decide (d < 128)
  | .fadd r b a d => decide (r < 4) && decide (b < 128) && decide (a < 128) && decide (d < 128)
  | .fsub r b a d => decide (r < 4) && decide (b < 128) && decide (a < 128) && decide (d < 128)
  | .fmul r b a d => decide (r < 4) && decide (b < 128) && decide (a < 128) && decide (d < 128)
  | .fma r b a d => decide (r < 4) && decide (b < 128) && decide (a < 128) && decide (d < 128)
  | .fdiv r b a d => decide (r < 4) && decide (b < 128) && decide (a < 128) && decide (d < 128)
  | .fsqrt r a d => decide (r < 4) && decide (a < 128) && decide (d < 128)
  | .fmin b a d => decide (b < 128) && decide (a < 128) && decide (d < 128)
  | .fmax b a d => decide (b < 128) && decide (a < 128) && decide (d < 128)
  | .fabs a d => decide (a < 128) && decide (d < 128)
  | .fneg a d => decide (a < 128) && decide (d < 128)
  | .frcp a d => decide (a < 128) && decide (d < 128)
  | .frsqrt a d => decide (a < 128) && decide (d < 128)
  | .fexp2 a d => decide (a < 128) && decide (d < 128)
  | .flog2 a d => decide (a < 128) && decide (d < 128)
  | .fsin a d => decide (a < 128) && decide (d < 128)
  | .fcos a d => decide (a < 128) && decide (d < 128)
  | .fclass a d => decide (a < 128) && decide (d < 128)
  | .frint m a d => decide (m < 4) && decide (a < 128) && decide (d < 128)
  | .ffrac a d => decide (a < 128) && decide (d < 128)
  | .fcopysign b a d => decide (b < 128) && decide (a < 128) && decide (d < 128)
  | .fscale b a d => decide (b < 128) && decide (a < 128) && decide (d < 128)
  | .fsat a d => decide (a < 128) && decide (d < 128)
  | .fcmpEq b a d => decide (b < 128) && decide (a < 128) && decide (d < 128)
  | .fcmpNe b a d => decide (b < 128) && decide (a < 128) && decide (d < 128)
  | .fcmpLt b a d => decide (b < 128) && decide (a < 128) && decide (d < 128)
  | .fcmpLe b a d => decide (b < 128) && decide (a < 128) && decide (d < 128)
  | .fcmpGt b a d => decide (b < 128) && decide (a < 128) && decide (d < 128)
  | .fcmpGe b a d => decide (b < 128) && decide (a < 128) && decide (d < 128)
  | .fcmpUn b a d => decide (b < 128) && decide (a < 128) && decide (d < 128)
  | .fcmpOrd b a d => decide (b < 128) && decide (a < 128) && decide (d < 128)
  | .hadd2Bf16 r b a d => decide (r < 4) && decide (b < 128) && decide (a < 128) && decide (d < 128)
  | .hsub2Bf16 r b a d => decide (r < 4) && decide (b < 128) && decide (a < 128) && decide (d < 128)
  | .hmul2Bf16 r b a d => decide (r < 4) && decide (b < 128) && decide (a < 128) && decide (d < 128)
  | .hfma2Bf16 r b a d => decide (r < 4) && decide (b < 128) && decide (a < 128) && decide (d < 128)
  | .hmin2Bf16 b a d => decide (b < 128) && decide (a < 128) && decide (d < 128)
  | .hmax2Bf16 b a d => decide (b < 128) && decide (a < 128) && decide (d < 128)
  | .hadd2F16 r b a d => decide (r < 4) && decide (b < 128) && decide (a < 128) && decide (d < 128)
  | .hsub2F16 r b a d => decide (r < 4) && decide (b < 128) && decide (a < 128) && decide (d < 128)
  | .hmul2F16 r b a d => decide (r < 4) && decide (b < 128) && decide (a < 128) && decide (d < 128)
  | .hfma2F16 r b a d => decide (r < 4) && decide (b < 128) && decide (a < 128) && decide (d < 128)
  | .hmin2F16 b a d => decide (b < 128) && decide (a < 128) && decide (d < 128)
  | .hmax2F16 b a d => decide (b < 128) && decide (a < 128) && decide (d < 128)
  | .cvt f r s a d => decide (f < 32) && decide (r < 4) && decide (s < 2) && decide (a < 128) && decide (d < 128) && cvtPairing f a d
  | .ldB o a d => decide (o < 1024) && decide (a < 128) && evenReg a && decide (d < 128)
  | .ldH o a d => decide (o < 1024) && decide (a < 128) && evenReg a && decide (d < 128)
  | .ldW o a d => decide (o < 1024) && decide (a < 128) && evenReg a && decide (d < 128)
  | .ldD o a d => decide (o < 1024) && decide (a < 128) && evenReg a && decide (d < 128) && evenReg d
  | .ldsB o a d => decide (o < 1024) && decide (a < 128) && evenReg a && decide (d < 128)
  | .ldsH o a d => decide (o < 1024) && decide (a < 128) && evenReg a && decide (d < 128)
  | .ldsQ o a d => decide (o < 1024) && decide (a < 128) && evenReg a && decide (d < 128) && quadReg d
  | .stB o a d => decide (o < 1024) && decide (a < 128) && evenReg a && decide (d < 128)
  | .stH o a d => decide (o < 1024) && decide (a < 128) && evenReg a && decide (d < 128)
  | .stW o a d => decide (o < 1024) && decide (a < 128) && evenReg a && decide (d < 128)
  | .stD o a d => decide (o < 1024) && decide (a < 128) && evenReg a && decide (d < 128) && evenReg d
  | .stQ o a d => decide (o < 1024) && decide (a < 128) && evenReg a && decide (d < 128) && quadReg d
  | .ldAcqW s a d => decide (s < 8) && scopeOk s && decide (a < 128) && evenReg a && decide (d < 128)
  | .ldAcqD s a d => decide (s < 8) && scopeOk s && decide (a < 128) && evenReg a && decide (d < 128) && evenReg d
  | .stRelW s a d => decide (s < 8) && scopeOk s && decide (a < 128) && evenReg a && decide (d < 128)
  | .stRelD s a d => decide (s < 8) && scopeOk s && decide (a < 128) && evenReg a && decide (d < 128) && evenReg d
  | .fenceGng => true
  | .fenceBlk => true
  | .fenceClu => true
  | .fenceDie => true
  | .fenceDev => true
  | .fenceDom => true
  | .fenceAcq s => decide (s < 8) && scopeOk s
  | .fenceRel s => decide (s < 8) && scopeOk s
  | .atomAdd b a d => decide (b < 128) && decide (a < 128) && evenReg a && decide (d < 128)
  | .atomMin b a d => decide (b < 128) && decide (a < 128) && evenReg a && decide (d < 128)
  | .atomMax b a d => decide (b < 128) && decide (a < 128) && evenReg a && decide (d < 128)
  | .atomMinn b a d => decide (b < 128) && decide (a < 128) && evenReg a && decide (d < 128)
  | .atomMaxn b a d => decide (b < 128) && decide (a < 128) && evenReg a && decide (d < 128)
  | .atomAnd b a d => decide (b < 128) && decide (a < 128) && evenReg a && decide (d < 128)
  | .atomOr b a d => decide (b < 128) && decide (a < 128) && evenReg a && decide (d < 128)
  | .atomXor b a d => decide (b < 128) && decide (a < 128) && evenReg a && decide (d < 128)
  | .atomXchg b a d => decide (b < 128) && decide (a < 128) && evenReg a && decide (d < 128)
  | .atomInc b a d => decide (b < 128) && decide (a < 128) && evenReg a && decide (d < 128)
  | .atomAddNr b a => decide (b < 128) && decide (a < 128) && evenReg a
  | .atomMinNr b a => decide (b < 128) && decide (a < 128) && evenReg a
  | .atomMaxNr b a => decide (b < 128) && decide (a < 128) && evenReg a
  | .atomMinnNr b a => decide (b < 128) && decide (a < 128) && evenReg a
  | .atomMaxnNr b a => decide (b < 128) && decide (a < 128) && evenReg a
  | .atomAndNr b a => decide (b < 128) && decide (a < 128) && evenReg a
  | .atomOrNr b a => decide (b < 128) && decide (a < 128) && evenReg a
  | .atomXorNr b a => decide (b < 128) && decide (a < 128) && evenReg a
  | .atomXchgNr b a => decide (b < 128) && decide (a < 128) && evenReg a
  | .atomIncNr b a => decide (b < 128) && decide (a < 128) && evenReg a
  | .atomCas b a d => decide (b < 128) && evenReg b && decide (a < 128) && evenReg a && decide (d < 128)
  | .atomFx b a d => decide (b < 128) && decide (a < 128) && evenReg a && decide (d < 128)
  | .atomAddD b a d => decide (b < 128) && evenReg b && decide (a < 128) && evenReg a && decide (d < 128) && evenReg d
  | .atomFxNr b a => decide (b < 128) && decide (a < 128) && evenReg a
  | .atomAddDNr b a => decide (b < 128) && evenReg b && decide (a < 128) && evenReg a
  | .cpyIn b a c => decide (b < 128) && decide (a < 128) && evenReg a && decide (c < 8)
  | .cpyOut b a c => decide (b < 128) && decide (a < 128) && evenReg a && decide (c < 8)
  | .cpyMc b a c => decide (b < 128) && decide (a < 128) && evenReg a && decide (c < 8)
  | .cpyGen b a c => decide (b < 128) && decide (a < 128) && evenReg a && decide (c < 8)
  | .cpyPf b a d => decide (b < 128) && decide (a < 128) && evenReg a && decide (d < 128)
  | .cpySeal d => decide (d < 128)
  | .cpyWait n => decide (n < 16)
  | .cpyVis s n => decide (s < 8) && scopeOk s && decide (n < 16)
  | .cpyStat k d => decide (k < 16) && decide (d < 128)
  | .barInit b a => decide (b < 128) && decide (a < 128) && evenReg a
  | .barArr a d => decide (a < 128) && evenReg a && decide (d < 128)
  | .barArrb a d => decide (a < 128) && evenReg a && decide (d < 128)
  | .barExp b a => decide (b < 128) && decide (a < 128) && evenReg a
  | .barWait b a => decide (b < 128) && decide (a < 128) && evenReg a
  | .barTry b a d => decide (b < 128) && decide (a < 128) && evenReg a && decide (d < 128)
  | .barBlk => true
  | .barClu => true
  | .carve b a d => decide (b < 128) && decide (a < 128) && decide (d < 128)
  | .mwait b a d => decide (b < 128) && decide (a < 128) && evenReg a && decide (d < 128)
  | .mma s b a d => decide (s < 32) && decide (b < 128) && decide (a < 128) && evenReg a && decide (d < 128)
  | .mdrain a => decide (a < 128) && evenReg a
  | .mzero b => decide (b < 128)
  | .mfence => true
  | .ringDef b a r => decide (b < 128) && decide (a < 128) && decide (r < 16)
  | .ringAdv b a r => decide (b < 128) && decide (a < 128) && evenReg a && decide (r < 16)
  | .ringRel b r => decide (b < 128) && decide (r < 16)
  | .ringRelRst r => decide (r < 16)
  | .ringStat r d => decide (r < 16) && decide (d < 128)
  | .cbld b a => decide (b < 128) && decide (a < 128) && evenReg a
  | .wmul b a d => decide (b < 128) && decide (a < 128) && decide (d < 128) && evenReg d
  | .wmuln b a d => decide (b < 128) && decide (a < 128) && decide (d < 128) && evenReg d
  | .wmac b a d => decide (b < 128) && decide (a < 128) && decide (d < 128) && evenReg d
  | .wadd b a d => decide (b < 128) && decide (a < 128) && decide (d < 128)
  | .wsub b a d => decide (b < 128) && decide (a < 128) && decide (d < 128)
  | .wneg a d => decide (a < 128) && decide (d < 128)
  | .wshs b a d => decide (b < 128) && decide (a < 128) && decide (d < 128)
  | .wshb b a d => decide (b < 128) && decide (a < 128) && decide (d < 128)
  | .pack b a d => decide (b < 128) && decide (a < 128) && decide (d < 128)
  | .extr b a d => decide (b < 128) && decide (a < 128) && evenReg a && decide (d < 128)
  | .gchk b a => decide (b < 128) && decide (a < 128) && evenReg a
  | .gwid b a d => decide (b < 128) && decide (a < 128) && decide (d < 128)
  | .cbdec a d => decide (a < 128) && decide (d < 128)
  | .wcmp b a d => decide (b < 128) && decide (a < 128) && decide (d < 128)
  | .spawn a => decide (a < 128) && evenReg a
  | .spawnl a => decide (a < 128) && evenReg a
  | .take a d => decide (a < 128) && evenReg a && decide (d < 128) && evenReg d
  | .resolve b a => decide (b < 128) && evenReg b && decide (a < 128) && evenReg a
  | .refAdd a d => decide (a < 128) && evenReg a && decide (d < 128)
  | .refDrop a d => decide (a < 128) && evenReg a && decide (d < 128)
  | .probe a d => decide (a < 128) && evenReg a && decide (d < 128)
  | .join a => decide (a < 128) && evenReg a
  | .reclaim => true
  | .migrate a d => decide (a < 128) && evenReg a && decide (d < 128)
  | .launch q a => decide (q < 64) && decide (a < 128) && evenReg a
  | .cancelL a d => decide (a < 128) && evenReg a && decide (d < 128)
  | .cancelG a d => decide (a < 128) && evenReg a && decide (d < 128)
  | .cancelJ d => decide (d < 128)
  | .regEnter i => decide (i < 65536)
  | .regLeave i => decide (i < 65536)
  | .tmark b k => decide (b < 128) && decide (k < 128)
  | .wptSet b a d => decide (b < 128) && decide (a < 128) && evenReg a && decide (d < 128)
  | .wptClr b d => decide (b < 128) && decide (d < 128)
  | .tagSet a => decide (a < 128) && evenReg a
  | .tagGet a d => decide (a < 128) && evenReg a && decide (d < 128)
  | .tagSetr b a => decide (b < 128) && decide (a < 128) && evenReg a
  | .sread r d => decide (r < 4096) && sregAssigned r && decide (d < 128)
  | .swrite r a => decide (r < 4096) && sregAssigned r && decide (a < 128)
  | .tlbInvPg a => decide (a < 128) && evenReg a
  | .tlbInvRng b a => decide (b < 128) && decide (a < 128) && evenReg a
  | .tlbInvCtx => true
  | .dirtyHarvPg a => decide (a < 128) && evenReg a
  | .dirtyHarvRng b a => decide (b < 128) && decide (a < 128) && evenReg a
  | .dirtyHarvCtx => true
  | .kChunkComplete => true
  | .unknownCommand => true

end Sys2Proof
end

