-- ==== Sys2Proof/Decode.lean ====
section
/-! DEFINITION. Decoding (R44 to R48, R56 to R75): words are read as naturals and fields by division, so that a word of
any bits decodes to an instruction or is rejected by name; clause headers; whole clauses (R47); then the encoder. -/

namespace Sys2Proof

/-- Why a word is illegal (R47). -/
inductive Reject where
  /-- Unassigned major: 0x00 or 0x26–0x3F. -/
  | major
  /-- fn, op, width or condition unassigned in its major. -/
  | fn
  /-- A reserved field is not zero. -/
  | reserved
  /-- Pairing rule (R60), predicate base (R70), scope (R73) or special-register number (R65). -/
  | operand
  deriving DecidableEq, Repr

/-- The full fence of a scope (R73, R318): codes 6 and 7 are illegal. DESIGN CHOICE, log entry 11 (safe). -/
def decodeFence (s : Nat) : Except Reject Instr :=
  match s with
  | 0 => .ok .fenceGng
  | 1 => .ok .fenceBlk
  | 2 => .ok .fenceClu
  | 3 => .ok .fenceDie
  | 4 => .ok .fenceDev
  | 5 => .ok .fenceDom
  | _ => .error .operand

/-- Major 0x01, bra (R126). -/
def decodeMajor01 (w : Nat) : Except Reject Instr :=
  .ok (.bra (w / 1048576 % 64) (w % 1048576))

/-- Major 0x02, call (R127). -/
def decodeMajor02 (w : Nat) : Except Reject Instr :=
  .ok (.call (w / 1048576 % 64) (w % 1048576))

/-- Major 0x03, CTL (R68). -/
def decodeMajor03 (w : Nat) : Except Reject Instr :=
  match w / 2097152 % 32 with
  | 0 => if w % 2097152 = 0 then .ok .nop else .error .reserved
  | 1 => if w % 2097152 = 0 then .ok .ret else .error .reserved
  | 2 => if w % 128 = 0 ∧ w / 1048576 % 2 = 0 then .ok (.jmpi (w / 16384 % 64) (w / 128 % 128)) else .error .reserved
  | 3 => if w % 2097152 = 0 then .ok .exit else .error .reserved
  | 4 => if w % 2097152 = 0 then .ok .yield else .error .reserved
  | 5 => if w / 4096 % 512 = 0 then .ok (.wait (w % 4096)) else .error .reserved
  | 6 => match w / 64 % 2 with
    | 0 => if w / 128 % 16384 = 0 then .ok (.wbaseRel (w % 64)) else .error .reserved
    | 1 => if w / 32 % 2 = 0 ∧ w / 128 % 16384 = 0 then .ok (.wbaseAbs (w % 32)) else .error .reserved
    | _ => .error .reserved
  | 7 => if w / 4096 % 512 = 0 then .ok (.trap (w % 4096)) else .error .reserved
  | 8 => if w % 2097152 = 0 then .ok .tfence else .error .reserved
  | 9 => if w % 2097152 = 0 then .ok .tret else .error .reserved
  | 10 => if w / 4096 % 512 = 0 then .ok (.brk (w % 4096)) else .error .reserved
  | 11 => if w % 2097152 = 0 then .ok .halt else .error .reserved
  | _ => .error .fn

/-- Major 0x04, IALU (R69). -/
def decodeMajor04 (w : Nat) : Except Reject Instr :=
  match w / 2097152 % 32 with
  | 0 => .ok (.add (w / 16384 % 128) (w / 128 % 128) (w % 128))
  | 1 => .ok (.sub (w / 16384 % 128) (w / 128 % 128) (w % 128))
  | 2 => .ok (.min (w / 16384 % 128) (w / 128 % 128) (w % 128))
  | 3 => .ok (.max (w / 16384 % 128) (w / 128 % 128) (w % 128))
  | 4 => .ok (.minn (w / 16384 % 128) (w / 128 % 128) (w % 128))
  | 5 => .ok (.maxn (w / 16384 % 128) (w / 128 % 128) (w % 128))
  | 6 => if w / 16384 % 128 = 0 then .ok (.abs (w / 128 % 128) (w % 128)) else .error .reserved
  | 7 => if w / 16384 % 128 = 0 then .ok (.neg (w / 128 % 128) (w % 128)) else .error .reserved
  | 8 => .ok (.and (w / 16384 % 128) (w / 128 % 128) (w % 128))
  | 9 => .ok (.or (w / 16384 % 128) (w / 128 % 128) (w % 128))
  | 10 => .ok (.xor (w / 16384 % 128) (w / 128 % 128) (w % 128))
  | 11 => .ok (.andn (w / 16384 % 128) (w / 128 % 128) (w % 128))
  | 12 => .ok (.orn (w / 16384 % 128) (w / 128 % 128) (w % 128))
  | 13 => if w / 16384 % 128 = 0 then .ok (.not (w / 128 % 128) (w % 128)) else .error .reserved
  | 14 => .ok (.shl (w / 16384 % 128) (w / 128 % 128) (w % 128))
  | 15 => .ok (.shr (w / 16384 % 128) (w / 128 % 128) (w % 128))
  | 16 => .ok (.sar (w / 16384 % 128) (w / 128 % 128) (w % 128))
  | 17 => .ok (.rol (w / 16384 % 128) (w / 128 % 128) (w % 128))
  | 18 => .ok (.ror (w / 16384 % 128) (w / 128 % 128) (w % 128))
  | 19 => if w / 16384 % 128 = 0 then .ok (.clz (w / 128 % 128) (w % 128)) else .error .reserved
  | 20 => if w / 16384 % 128 = 0 then .ok (.ctz (w / 128 % 128) (w % 128)) else .error .reserved
  | 21 => if w / 16384 % 128 = 0 then .ok (.popc (w / 128 % 128) (w % 128)) else .error .reserved
  | 22 => if w / 16384 % 128 = 0 then .ok (.brev (w / 128 % 128) (w % 128)) else .error .reserved
  | _ => .error .fn

/-- Major 0x05, IMUL (R69). -/
def decodeMajor05 (w : Nat) : Except Reject Instr :=
  match w / 2097152 % 32 with
  | 0 => .ok (.mul (w / 16384 % 128) (w / 128 % 128) (w % 128))
  | 1 => .ok (.mulh (w / 16384 % 128) (w / 128 % 128) (w % 128))
  | 2 => .ok (.mulhn (w / 16384 % 128) (w / 128 % 128) (w % 128))
  | 3 => .ok (.mad (w / 16384 % 128) (w / 128 % 128) (w % 128))
  | 4 => .ok (.mulD (w / 16384 % 128) (w / 128 % 128) (w % 128))
  | 5 => .ok (.div (w / 16384 % 128) (w / 128 % 128) (w % 128))
  | 6 => .ok (.divn (w / 16384 % 128) (w / 128 % 128) (w % 128))
  | 7 => .ok (.rem (w / 16384 % 128) (w / 128 % 128) (w % 128))
  | 8 => .ok (.remn (w / 16384 % 128) (w / 128 % 128) (w % 128))
  | 9 => .ok (.bfe (w / 16384 % 128) (w / 128 % 128) (w % 128))
  | 10 => .ok (.bfen (w / 16384 % 128) (w / 128 % 128) (w % 128))
  | 11 => .ok (.bfi (w / 16384 % 128) (w / 128 % 128) (w % 128))
  | 12 => .ok (.addD (w / 16384 % 128) (w / 128 % 128) (w % 128))
  | 13 => .ok (.subD (w / 16384 % 128) (w / 128 % 128) (w % 128))
  | 14 => .ok (.shlD (w / 16384 % 128) (w / 128 % 128) (w % 128))
  | 15 => .ok (.shrD (w / 16384 % 128) (w / 128 % 128) (w % 128))
  | _ => .error .fn

/-- Major 0x06, addi (R145). -/
def decodeMajor06 (w : Nat) : Except Reject Instr :=
  .ok (.addi (w / 16384 % 4096) (w / 128 % 128) (w % 128))

/-- Major 0x07, andi (R145). -/
def decodeMajor07 (w : Nat) : Except Reject Instr :=
  .ok (.andi (w / 16384 % 4096) (w / 128 % 128) (w % 128))

/-- Major 0x08, ori (R145). -/
def decodeMajor08 (w : Nat) : Except Reject Instr :=
  .ok (.ori (w / 16384 % 4096) (w / 128 % 128) (w % 128))

/-- Major 0x09, xori (R145). -/
def decodeMajor09 (w : Nat) : Except Reject Instr :=
  .ok (.xori (w / 16384 % 4096) (w / 128 % 128) (w % 128))

/-- Major 0x0A, shift immediate (R146). -/
def decodeMajor0A (w : Nat) : Except Reject Instr :=
  match w / 16777216 % 4 with
  | 0 => if w / 524288 % 32 = 0 then .ok (.shli (w / 16384 % 32) (w / 128 % 128) (w % 128)) else .error .reserved
  | 1 => if w / 524288 % 32 = 0 then .ok (.shri (w / 16384 % 32) (w / 128 % 128) (w % 128)) else .error .reserved
  | 2 => if w / 524288 % 32 = 0 then .ok (.sari (w / 16384 % 32) (w / 128 % 128) (w % 128)) else .error .reserved
  | _ => .error .fn

/-- Major 0x0B, movi (R147). -/
def decodeMajor0B (w : Nat) : Except Reject Instr :=
  .ok (.movi (w / 128 % 524288) (w % 128))

/-- Major 0x0C, movhi (R147). -/
def decodeMajor0C (w : Nat) : Except Reject Instr :=
  .ok (.movhi (w / 128 % 524288) (w % 128))

/-- Major 0x0D, icmp (R70). -/
def decodeMajor0D (w : Nat) : Except Reject Instr :=
  match w / 2097152 % 32 with
  | 0 => .ok (.icmpEq (w / 16384 % 128) (w / 128 % 128) (w % 128))
  | 1 => .ok (.icmpNe (w / 16384 % 128) (w / 128 % 128) (w % 128))
  | 2 => .ok (.icmpLt (w / 16384 % 128) (w / 128 % 128) (w % 128))
  | 3 => .ok (.icmpLe (w / 16384 % 128) (w / 128 % 128) (w % 128))
  | 4 => .ok (.icmpGt (w / 16384 % 128) (w / 128 % 128) (w % 128))
  | 5 => .ok (.icmpGe (w / 16384 % 128) (w / 128 % 128) (w % 128))
  | 6 => .ok (.icmpLtn (w / 16384 % 128) (w / 128 % 128) (w % 128))
  | 7 => .ok (.icmpLen (w / 16384 % 128) (w / 128 % 128) (w % 128))
  | 8 => .ok (.icmpGtn (w / 16384 % 128) (w / 128 % 128) (w % 128))
  | 9 => .ok (.icmpGen (w / 16384 % 128) (w / 128 % 128) (w % 128))
  | _ => .error .fn

/-- Major 0x0E, PRED (R70). -/
def decodeMajor0E (w : Nat) : Except Reject Instr :=
  match w / 2097152 % 32 with
  | 0 => .ok (.qand (w / 16384 % 128) (w / 128 % 128) (w % 128))
  | 1 => .ok (.qor (w / 16384 % 128) (w / 128 % 128) (w % 128))
  | 2 => .ok (.qxor (w / 16384 % 128) (w / 128 % 128) (w % 128))
  | 3 => .ok (.qandn (w / 16384 % 128) (w / 128 % 128) (w % 128))
  | 4 => if w / 16384 % 128 = 0 then .ok (.qnot (w / 128 % 128) (w % 128)) else .error .reserved
  | 5 => if w / 256 % 8192 = 0 then .ok (.qset (w / 128 % 2) (w % 128)) else .error .reserved
  | 6 => if w / 16384 % 128 = 0 then .ok (.qmov (w / 128 % 128) (w % 128)) else .error .reserved
  | 7 => if w / 16384 % 128 = 0 then .ok (.qpack (w / 128 % 128) (w % 128)) else .error .reserved
  | 8 => if w / 16384 % 128 = 0 then .ok (.qunpack (w / 128 % 128) (w % 128)) else .error .reserved
  | 9 => .ok (.sel (w / 16384 % 128) (w / 128 % 128) (w % 128))
  | 10 => if w / 16384 % 128 = 0 then .ok (.voteAny (w / 128 % 128) (w % 128)) else .error .reserved
  | 11 => if w / 16384 % 128 = 0 then .ok (.voteAll (w / 128 % 128) (w % 128)) else .error .reserved
  | 12 => if w / 16384 % 128 = 0 then .ok (.voteCnt (w / 128 % 128) (w % 128)) else .error .reserved
  | 13 => if w / 16384 % 128 = 0 then .ok (.voteBallot (w / 128 % 128) (w % 128)) else .error .reserved
  | _ => .error .fn

/-- Major 0x0F, GANG (R70). -/
def decodeMajor0F (w : Nat) : Except Reject Instr :=
  match w / 2097152 % 32 with
  | 0 => .ok (.shflIdx (w / 16384 % 128) (w / 128 % 128) (w % 128))
  | 1 => .ok (.shflUp (w / 16384 % 128) (w / 128 % 128) (w % 128))
  | 2 => .ok (.shflDn (w / 16384 % 128) (w / 128 % 128) (w % 128))
  | 3 => .ok (.shflXor (w / 16384 % 128) (w / 128 % 128) (w % 128))
  | 4 => .ok (.bcast (w / 16384 % 128) (w / 128 % 128) (w % 128))
  | 5 => if w / 16384 % 128 = 0 then .ok (.reduxAdd (w / 128 % 128) (w % 128)) else .error .reserved
  | 6 => if w / 16384 % 128 = 0 then .ok (.reduxMin (w / 128 % 128) (w % 128)) else .error .reserved
  | 7 => if w / 16384 % 128 = 0 then .ok (.reduxMax (w / 128 % 128) (w % 128)) else .error .reserved
  | 8 => if w / 16384 % 128 = 0 then .ok (.reduxMinn (w / 128 % 128) (w % 128)) else .error .reserved
  | 9 => if w / 16384 % 128 = 0 then .ok (.reduxMaxn (w / 128 % 128) (w % 128)) else .error .reserved
  | 10 => if w / 128 % 16384 = 0 then .ok (.mrank (w % 128)) else .error .reserved
  | _ => .error .fn

/-- Major 0x10, FARITH (R71). -/
def decodeMajor10 (w : Nat) : Except Reject Instr :=
  match w / 2097152 % 8 with
  | 0 => .ok (.fadd (w / 16777216 % 4) (w / 16384 % 128) (w / 128 % 128) (w % 128))
  | 1 => .ok (.fsub (w / 16777216 % 4) (w / 16384 % 128) (w / 128 % 128) (w % 128))
  | 2 => .ok (.fmul (w / 16777216 % 4) (w / 16384 % 128) (w / 128 % 128) (w % 128))
  | 3 => .ok (.fma (w / 16777216 % 4) (w / 16384 % 128) (w / 128 % 128) (w % 128))
  | 4 => .ok (.fdiv (w / 16777216 % 4) (w / 16384 % 128) (w / 128 % 128) (w % 128))
  | 5 => if w / 16384 % 128 = 0 then .ok (.fsqrt (w / 16777216 % 4) (w / 128 % 128) (w % 128)) else .error .reserved
  | 6 => if w / 16777216 % 4 = 0 then .ok (.fmin (w / 16384 % 128) (w / 128 % 128) (w % 128)) else .error .reserved
  | 7 => if w / 16777216 % 4 = 0 then .ok (.fmax (w / 16384 % 128) (w / 128 % 128) (w % 128)) else .error .reserved
  | _ => .error .fn

/-- Major 0x11, FMISC (R71). -/
def decodeMajor11 (w : Nat) : Except Reject Instr :=
  match w / 2097152 % 32 with
  | 0 => if w / 16384 % 128 = 0 then .ok (.fabs (w / 128 % 128) (w % 128)) else .error .reserved
  | 1 => if w / 16384 % 128 = 0 then .ok (.fneg (w / 128 % 128) (w % 128)) else .error .reserved
  | 2 => if w / 16384 % 128 = 0 then .ok (.frcp (w / 128 % 128) (w % 128)) else .error .reserved
  | 3 => if w / 16384 % 128 = 0 then .ok (.frsqrt (w / 128 % 128) (w % 128)) else .error .reserved
  | 4 => if w / 16384 % 128 = 0 then .ok (.fexp2 (w / 128 % 128) (w % 128)) else .error .reserved
  | 5 => if w / 16384 % 128 = 0 then .ok (.flog2 (w / 128 % 128) (w % 128)) else .error .reserved
  | 6 => if w / 16384 % 128 = 0 then .ok (.fsin (w / 128 % 128) (w % 128)) else .error .reserved
  | 7 => if w / 16384 % 128 = 0 then .ok (.fcos (w / 128 % 128) (w % 128)) else .error .reserved
  | 8 => if w / 16384 % 128 = 0 then .ok (.fclass (w / 128 % 128) (w % 128)) else .error .reserved
  | 9 => if w / 65536 % 32 = 0 then .ok (.frint (w / 16384 % 4) (w / 128 % 128) (w % 128)) else .error .reserved
  | 10 => if w / 16384 % 128 = 0 then .ok (.ffrac (w / 128 % 128) (w % 128)) else .error .reserved
  | 11 => .ok (.fcopysign (w / 16384 % 128) (w / 128 % 128) (w % 128))
  | 12 => .ok (.fscale (w / 16384 % 128) (w / 128 % 128) (w % 128))
  | 13 => if w / 16384 % 128 = 0 then .ok (.fsat (w / 128 % 128) (w % 128)) else .error .reserved
  | _ => .error .fn

/-- Major 0x12, fcmp (R71). -/
def decodeMajor12 (w : Nat) : Except Reject Instr :=
  match w / 2097152 % 32 with
  | 0 => .ok (.fcmpEq (w / 16384 % 128) (w / 128 % 128) (w % 128))
  | 1 => .ok (.fcmpNe (w / 16384 % 128) (w / 128 % 128) (w % 128))
  | 2 => .ok (.fcmpLt (w / 16384 % 128) (w / 128 % 128) (w % 128))
  | 3 => .ok (.fcmpLe (w / 16384 % 128) (w / 128 % 128) (w % 128))
  | 4 => .ok (.fcmpGt (w / 16384 % 128) (w / 128 % 128) (w % 128))
  | 5 => .ok (.fcmpGe (w / 16384 % 128) (w / 128 % 128) (w % 128))
  | 6 => .ok (.fcmpUn (w / 16384 % 128) (w / 128 % 128) (w % 128))
  | 7 => .ok (.fcmpOrd (w / 16384 % 128) (w / 128 % 128) (w % 128))
  | _ => .error .fn

/-- Major 0x13, BF16×2 (R71). -/
def decodeMajor13 (w : Nat) : Except Reject Instr :=
  match w / 2097152 % 8 with
  | 0 => .ok (.hadd2Bf16 (w / 16777216 % 4) (w / 16384 % 128) (w / 128 % 128) (w % 128))
  | 1 => .ok (.hsub2Bf16 (w / 16777216 % 4) (w / 16384 % 128) (w / 128 % 128) (w % 128))
  | 2 => .ok (.hmul2Bf16 (w / 16777216 % 4) (w / 16384 % 128) (w / 128 % 128) (w % 128))
  | 3 => .ok (.hfma2Bf16 (w / 16777216 % 4) (w / 16384 % 128) (w / 128 % 128) (w % 128))
  | 4 => if w / 16777216 % 4 = 0 then .ok (.hmin2Bf16 (w / 16384 % 128) (w / 128 % 128) (w % 128)) else .error .reserved
  | 5 => if w / 16777216 % 4 = 0 then .ok (.hmax2Bf16 (w / 16384 % 128) (w / 128 % 128) (w % 128)) else .error .reserved
  | _ => .error .fn

/-- Major 0x14, F16×2 (R71). -/
def decodeMajor14 (w : Nat) : Except Reject Instr :=
  match w / 2097152 % 8 with
  | 0 => .ok (.hadd2F16 (w / 16777216 % 4) (w / 16384 % 128) (w / 128 % 128) (w % 128))
  | 1 => .ok (.hsub2F16 (w / 16777216 % 4) (w / 16384 % 128) (w / 128 % 128) (w % 128))
  | 2 => .ok (.hmul2F16 (w / 16777216 % 4) (w / 16384 % 128) (w / 128 % 128) (w % 128))
  | 3 => .ok (.hfma2F16 (w / 16777216 % 4) (w / 16384 % 128) (w / 128 % 128) (w % 128))
  | 4 => if w / 16777216 % 4 = 0 then .ok (.hmin2F16 (w / 16384 % 128) (w / 128 % 128) (w % 128)) else .error .reserved
  | 5 => if w / 16777216 % 4 = 0 then .ok (.hmax2F16 (w / 16384 % 128) (w / 128 % 128) (w % 128)) else .error .reserved
  | _ => .error .fn

/-- Major 0x15, CVT (R72). -/
def decodeMajor15 (w : Nat) : Except Reject Instr :=
  if w / 16384 % 16 = 0 then .ok (.cvt (w / 2097152 % 32) (w / 524288 % 4) (w / 262144 % 2) (w / 128 % 128) (w % 128)) else .error .reserved

/-- Major 0x16, ld (R73). -/
def decodeMajor16 (w : Nat) : Except Reject Instr :=
  match w / 16777216 % 4 with
  | 0 => .ok (.ldB (w / 16384 % 1024) (w / 128 % 128) (w % 128))
  | 1 => .ok (.ldH (w / 16384 % 1024) (w / 128 % 128) (w % 128))
  | 2 => .ok (.ldW (w / 16384 % 1024) (w / 128 % 128) (w % 128))
  | 3 => .ok (.ldD (w / 16384 % 1024) (w / 128 % 128) (w % 128))
  | _ => .error .fn

/-- Major 0x17, lds (R73). -/
def decodeMajor17 (w : Nat) : Except Reject Instr :=
  match w / 16777216 % 4 with
  | 0 => .ok (.ldsB (w / 16384 % 1024) (w / 128 % 128) (w % 128))
  | 1 => .ok (.ldsH (w / 16384 % 1024) (w / 128 % 128) (w % 128))
  | 2 => .ok (.ldsQ (w / 16384 % 1024) (w / 128 % 128) (w % 128))
  | _ => .error .fn

/-- Major 0x18, st (R73). -/
def decodeMajor18 (w : Nat) : Except Reject Instr :=
  match w / 16777216 % 4 with
  | 0 => .ok (.stB (w / 16384 % 1024) (w / 128 % 128) (w % 128))
  | 1 => .ok (.stH (w / 16384 % 1024) (w / 128 % 128) (w % 128))
  | 2 => .ok (.stW (w / 16384 % 1024) (w / 128 % 128) (w % 128))
  | 3 => .ok (.stD (w / 16384 % 1024) (w / 128 % 128) (w % 128))
  | _ => .error .fn

/-- Major 0x19, st.q (R73). -/
def decodeMajor19 (w : Nat) : Except Reject Instr :=
  if w / 16777216 % 4 = 0 then .ok (.stQ (w / 16384 % 1024) (w / 128 % 128) (w % 128)) else .error .reserved

/-- Major 0x1A, ORD (R73, R318). -/
def decodeMajor1A (w : Nat) : Except Reject Instr :=
  match w / 16777216 % 4 with
  | 0 => match w / 16384 % 128 with
    | 2 => .ok (.ldAcqW (w / 2097152 % 8) (w / 128 % 128) (w % 128))
    | 3 => .ok (.ldAcqD (w / 2097152 % 8) (w / 128 % 128) (w % 128))
    | _ => .error .reserved
  | 1 => match w / 16384 % 128 with
    | 2 => .ok (.stRelW (w / 2097152 % 8) (w / 128 % 128) (w % 128))
    | 3 => .ok (.stRelD (w / 2097152 % 8) (w / 128 % 128) (w % 128))
    | _ => .error .reserved
  | 2 => match w / 16384 % 128 with
    | 0 => if w % 16384 = 0 then decodeFence (w / 2097152 % 8) else .error .reserved
    | 1 => if w % 16384 = 0 then .ok (.fenceAcq (w / 2097152 % 8)) else .error .reserved
    | 2 => if w % 16384 = 0 then .ok (.fenceRel (w / 2097152 % 8)) else .error .reserved
    | _ => .error .reserved
  | _ => .error .fn

/-- Major 0x1B, ATOM (R74). -/
def decodeMajor1B (w : Nat) : Except Reject Instr :=
  match w / 2097152 % 32 with
  | 0 => .ok (.atomAdd (w / 16384 % 128) (w / 128 % 128) (w % 128))
  | 1 => .ok (.atomMin (w / 16384 % 128) (w / 128 % 128) (w % 128))
  | 2 => .ok (.atomMax (w / 16384 % 128) (w / 128 % 128) (w % 128))
  | 3 => .ok (.atomMinn (w / 16384 % 128) (w / 128 % 128) (w % 128))
  | 4 => .ok (.atomMaxn (w / 16384 % 128) (w / 128 % 128) (w % 128))
  | 5 => .ok (.atomAnd (w / 16384 % 128) (w / 128 % 128) (w % 128))
  | 6 => .ok (.atomOr (w / 16384 % 128) (w / 128 % 128) (w % 128))
  | 7 => .ok (.atomXor (w / 16384 % 128) (w / 128 % 128) (w % 128))
  | 8 => .ok (.atomXchg (w / 16384 % 128) (w / 128 % 128) (w % 128))
  | 9 => .ok (.atomInc (w / 16384 % 128) (w / 128 % 128) (w % 128))
  | 16 => if w % 128 = 0 then .ok (.atomAddNr (w / 16384 % 128) (w / 128 % 128)) else .error .reserved
  | 17 => if w % 128 = 0 then .ok (.atomMinNr (w / 16384 % 128) (w / 128 % 128)) else .error .reserved
  | 18 => if w % 128 = 0 then .ok (.atomMaxNr (w / 16384 % 128) (w / 128 % 128)) else .error .reserved
  | 19 => if w % 128 = 0 then .ok (.atomMinnNr (w / 16384 % 128) (w / 128 % 128)) else .error .reserved
  | 20 => if w % 128 = 0 then .ok (.atomMaxnNr (w / 16384 % 128) (w / 128 % 128)) else .error .reserved
  | 21 => if w % 128 = 0 then .ok (.atomAndNr (w / 16384 % 128) (w / 128 % 128)) else .error .reserved
  | 22 => if w % 128 = 0 then .ok (.atomOrNr (w / 16384 % 128) (w / 128 % 128)) else .error .reserved
  | 23 => if w % 128 = 0 then .ok (.atomXorNr (w / 16384 % 128) (w / 128 % 128)) else .error .reserved
  | 24 => if w % 128 = 0 then .ok (.atomXchgNr (w / 16384 % 128) (w / 128 % 128)) else .error .reserved
  | 25 => if w % 128 = 0 then .ok (.atomIncNr (w / 16384 % 128) (w / 128 % 128)) else .error .reserved
  | _ => .error .fn

/-- Major 0x1C, ATOM2 (R74). -/
def decodeMajor1C (w : Nat) : Except Reject Instr :=
  match w / 2097152 % 32 with
  | 0 => .ok (.atomCas (w / 16384 % 128) (w / 128 % 128) (w % 128))
  | 1 => .ok (.atomFx (w / 16384 % 128) (w / 128 % 128) (w % 128))
  | 2 => .ok (.atomAddD (w / 16384 % 128) (w / 128 % 128) (w % 128))
  | 17 => if w % 128 = 0 then .ok (.atomFxNr (w / 16384 % 128) (w / 128 % 128)) else .error .reserved
  | 18 => if w % 128 = 0 then .ok (.atomAddDNr (w / 16384 % 128) (w / 128 % 128)) else .error .reserved
  | _ => .error .fn

/-- Major 0x1D, COPY (R75, R222, R229, R232). -/
def decodeMajor1D (w : Nat) : Except Reject Instr :=
  match w / 2097152 % 32 with
  | 0 => if w / 8 % 16 = 0 then .ok (.cpyIn (w / 16384 % 128) (w / 128 % 128) (w % 8)) else .error .reserved
  | 1 => if w / 8 % 16 = 0 then .ok (.cpyOut (w / 16384 % 128) (w / 128 % 128) (w % 8)) else .error .reserved
  | 2 => if w / 8 % 16 = 0 then .ok (.cpyMc (w / 16384 % 128) (w / 128 % 128) (w % 8)) else .error .reserved
  | 3 => if w / 8 % 16 = 0 then .ok (.cpyGen (w / 16384 % 128) (w / 128 % 128) (w % 8)) else .error .reserved
  | 4 => .ok (.cpyPf (w / 16384 % 128) (w / 128 % 128) (w % 128))
  | 5 => if w / 128 % 16384 = 0 then .ok (.cpySeal (w % 128)) else .error .reserved
  | 6 => if w % 16384 = 0 ∧ w / 262144 % 8 = 0 then .ok (.cpyWait (w / 16384 % 16)) else .error .reserved
  | 7 => if w % 16384 = 0 then .ok (.cpyVis (w / 262144 % 8) (w / 16384 % 16)) else .error .reserved
  | 8 => if w / 128 % 128 = 0 ∧ w / 262144 % 8 = 0 then .ok (.cpyStat (w / 16384 % 16) (w % 128)) else .error .reserved
  | _ => .error .fn

/-- Major 0x1E, BAR (R75, R243). -/
def decodeMajor1E (w : Nat) : Except Reject Instr :=
  match w / 2097152 % 32 with
  | 0 => if w % 128 = 0 then .ok (.barInit (w / 16384 % 128) (w / 128 % 128)) else .error .reserved
  | 1 => if w / 16384 % 128 = 0 then .ok (.barArr (w / 128 % 128) (w % 128)) else .error .reserved
  | 2 => if w / 16384 % 128 = 0 then .ok (.barArrb (w / 128 % 128) (w % 128)) else .error .reserved
  | 3 => if w % 128 = 0 then .ok (.barExp (w / 16384 % 128) (w / 128 % 128)) else .error .reserved
  | 4 => if w % 128 = 0 then .ok (.barWait (w / 16384 % 128) (w / 128 % 128)) else .error .reserved
  | 5 => .ok (.barTry (w / 16384 % 128) (w / 128 % 128) (w % 128))
  | 6 => if w % 2097152 = 0 then .ok .barBlk else .error .reserved
  | 7 => if w % 2097152 = 0 then .ok .barClu else .error .reserved
  | 8 => .ok (.carve (w / 16384 % 128) (w / 128 % 128) (w % 128))
  | 9 => .ok (.mwait (w / 16384 % 128) (w / 128 % 128) (w % 128))
  | _ => .error .fn

/-- Major 0x1F, mma (R283). -/
def decodeMajor1F (w : Nat) : Except Reject Instr :=
  .ok (.mma (w / 2097152 % 32) (w / 16384 % 128) (w / 128 % 128) (w % 128))

/-- Major 0x20, ENG (R290). -/
def decodeMajor20 (w : Nat) : Except Reject Instr :=
  match w / 2097152 % 32 with
  | 0 => if w % 128 = 0 ∧ w / 16384 % 128 = 0 then .ok (.mdrain (w / 128 % 128)) else .error .reserved
  | 1 => if w % 16384 = 0 then .ok (.mzero (w / 16384 % 128)) else .error .reserved
  | 2 => if w % 2097152 = 0 then .ok .mfence else .error .reserved
  | 3 => if w / 16 % 8 = 0 then .ok (.ringDef (w / 16384 % 128) (w / 128 % 128) (w % 16)) else .error .reserved
  | 4 => if w / 16 % 8 = 0 then .ok (.ringAdv (w / 16384 % 128) (w / 128 % 128) (w % 16)) else .error .reserved
  | 5 => match w / 128 % 128 with
    | 0 => if w / 16 % 8 = 0 then .ok (.ringRel (w / 16384 % 128) (w % 16)) else .error .reserved
    | 1 => if w / 16 % 8 = 0 ∧ w / 16384 % 128 = 0 then .ok (.ringRelRst (w % 16)) else .error .reserved
    | _ => .error .reserved
  | 6 => if w / 128 % 128 = 0 ∧ w / 262144 % 8 = 0 then .ok (.ringStat (w / 16384 % 16) (w % 128)) else .error .reserved
  | 7 => if w % 128 = 0 then .ok (.cbld (w / 16384 % 128) (w / 128 % 128)) else .error .reserved
  | _ => .error .fn

/-- Major 0x21, WIDE (R263). -/
def decodeMajor21 (w : Nat) : Except Reject Instr :=
  match w / 2097152 % 32 with
  | 0 => .ok (.wmul (w / 16384 % 128) (w / 128 % 128) (w % 128))
  | 1 => .ok (.wmuln (w / 16384 % 128) (w / 128 % 128) (w % 128))
  | 2 => .ok (.wmac (w / 16384 % 128) (w / 128 % 128) (w % 128))
  | 3 => .ok (.wadd (w / 16384 % 128) (w / 128 % 128) (w % 128))
  | 4 => .ok (.wsub (w / 16384 % 128) (w / 128 % 128) (w % 128))
  | 5 => if w / 16384 % 128 = 0 then .ok (.wneg (w / 128 % 128) (w % 128)) else .error .reserved
  | 6 => .ok (.wshs (w / 16384 % 128) (w / 128 % 128) (w % 128))
  | 7 => .ok (.wshb (w / 16384 % 128) (w / 128 % 128) (w % 128))
  | 8 => .ok (.pack (w / 16384 % 128) (w / 128 % 128) (w % 128))
  | 9 => .ok (.extr (w / 16384 % 128) (w / 128 % 128) (w % 128))
  | 10 => if w % 128 = 0 then .ok (.gchk (w / 16384 % 128) (w / 128 % 128)) else .error .reserved
  | 11 => .ok (.gwid (w / 16384 % 128) (w / 128 % 128) (w % 128))
  | 12 => if w / 16384 % 128 = 0 then .ok (.cbdec (w / 128 % 128) (w % 128)) else .error .reserved
  | 13 => .ok (.wcmp (w / 16384 % 128) (w / 128 % 128) (w % 128))
  | _ => .error .fn

/-- Major 0x22, TASK (R332). -/
def decodeMajor22 (w : Nat) : Except Reject Instr :=
  match w / 2097152 % 32 with
  | 0 => if w % 128 = 0 ∧ w / 16384 % 128 = 0 then .ok (.spawn (w / 128 % 128)) else .error .reserved
  | 1 => if w % 128 = 0 ∧ w / 16384 % 128 = 0 then .ok (.spawnl (w / 128 % 128)) else .error .reserved
  | 2 => if w / 16384 % 128 = 0 then .ok (.take (w / 128 % 128) (w % 128)) else .error .reserved
  | 3 => if w % 128 = 0 then .ok (.resolve (w / 16384 % 128) (w / 128 % 128)) else .error .reserved
  | 4 => if w / 16384 % 128 = 0 then .ok (.refAdd (w / 128 % 128) (w % 128)) else .error .reserved
  | 5 => if w / 16384 % 128 = 0 then .ok (.refDrop (w / 128 % 128) (w % 128)) else .error .reserved
  | 6 => if w / 16384 % 128 = 0 then .ok (.probe (w / 128 % 128) (w % 128)) else .error .reserved
  | 7 => if w % 128 = 0 ∧ w / 16384 % 128 = 0 then .ok (.join (w / 128 % 128)) else .error .reserved
  | 8 => if w % 2097152 = 0 then .ok .reclaim else .error .reserved
  | 9 => if w / 16384 % 128 = 0 then .ok (.migrate (w / 128 % 128) (w % 128)) else .error .reserved
  | _ => .error .fn

/-- Major 0x23, WORK (R95, R96). -/
def decodeMajor23 (w : Nat) : Except Reject Instr :=
  match w / 2097152 % 32 with
  | 0 => if w % 128 = 0 ∧ w / 1048576 % 2 = 0 then .ok (.launch (w / 16384 % 64) (w / 128 % 128)) else .error .reserved
  | 1 => if w / 16384 % 128 = 0 then .ok (.cancelL (w / 128 % 128) (w % 128)) else .error .reserved
  | 2 => if w / 16384 % 128 = 0 then .ok (.cancelG (w / 128 % 128) (w % 128)) else .error .reserved
  | 3 => if w / 128 % 16384 = 0 then .ok (.cancelJ (w % 128)) else .error .reserved
  | _ => .error .fn

/-- Major 0x24, DBG (R376). -/
def decodeMajor24 (w : Nat) : Except Reject Instr :=
  match w / 2097152 % 32 with
  | 0 => if w / 65536 % 32 = 0 then .ok (.regEnter (w % 65536)) else .error .reserved
  | 1 => if w / 65536 % 32 = 0 then .ok (.regLeave (w % 65536)) else .error .reserved
  | 2 => if w / 128 % 128 = 0 then .ok (.tmark (w / 16384 % 128) (w % 128)) else .error .reserved
  | 3 => .ok (.wptSet (w / 16384 % 128) (w / 128 % 128) (w % 128))
  | 4 => if w / 128 % 128 = 0 then .ok (.wptClr (w / 16384 % 128) (w % 128)) else .error .reserved
  | 5 => if w % 128 = 0 ∧ w / 16384 % 128 = 0 then .ok (.tagSet (w / 128 % 128)) else .error .reserved
  | 6 => if w / 16384 % 128 = 0 then .ok (.tagGet (w / 128 % 128) (w % 128)) else .error .reserved
  | 7 => if w % 128 = 0 then .ok (.tagSetr (w / 16384 % 128) (w / 128 % 128)) else .error .reserved
  | _ => .error .fn

/-- Major 0x25, SYS (R66, R206). -/
def decodeMajor25 (w : Nat) : Except Reject Instr :=
  match w / 16777216 % 4 with
  | 0 => if w / 128 % 32 = 0 then .ok (.sread (w / 4096 % 4096) (w % 128)) else .error .reserved
  | 1 => if w / 128 % 32 = 0 then .ok (.swrite (w / 4096 % 4096) (w % 128)) else .error .reserved
  | 2 => match w / 4194304 % 4 with
    | 0 => if w % 128 = 0 ∧ w / 16384 % 256 = 0 then .ok (.tlbInvPg (w / 128 % 128)) else .error .reserved
    | 1 => if w % 128 = 0 ∧ w / 2097152 % 2 = 0 then .ok (.tlbInvRng (w / 16384 % 128) (w / 128 % 128)) else .error .reserved
    | 2 => if w % 4194304 = 0 then .ok .tlbInvCtx else .error .reserved
    | _ => .error .reserved
  | 3 => match w / 4194304 % 4 with
    | 0 => if w % 128 = 0 ∧ w / 16384 % 256 = 0 then .ok (.dirtyHarvPg (w / 128 % 128)) else .error .reserved
    | 1 => if w % 128 = 0 ∧ w / 2097152 % 2 = 0 then .ok (.dirtyHarvRng (w / 16384 % 128) (w / 128 % 128)) else .error .reserved
    | 2 => if w % 4194304 = 0 then .ok .dirtyHarvCtx else .error .reserved
    | _ => .error .reserved
  | _ => .error .fn

/-- The fields of a word, read by major opcode (R67). -/
def decodeRaw (w : Nat) : Except Reject Instr :=
  match w / 67108864 % 64 with
  | 1 => decodeMajor01 w
  | 2 => decodeMajor02 w
  | 3 => decodeMajor03 w
  | 4 => decodeMajor04 w
  | 5 => decodeMajor05 w
  | 6 => decodeMajor06 w
  | 7 => decodeMajor07 w
  | 8 => decodeMajor08 w
  | 9 => decodeMajor09 w
  | 10 => decodeMajor0A w
  | 11 => decodeMajor0B w
  | 12 => decodeMajor0C w
  | 13 => decodeMajor0D w
  | 14 => decodeMajor0E w
  | 15 => decodeMajor0F w
  | 16 => decodeMajor10 w
  | 17 => decodeMajor11 w
  | 18 => decodeMajor12 w
  | 19 => decodeMajor13 w
  | 20 => decodeMajor14 w
  | 21 => decodeMajor15 w
  | 22 => decodeMajor16 w
  | 23 => decodeMajor17 w
  | 24 => decodeMajor18 w
  | 25 => decodeMajor19 w
  | 26 => decodeMajor1A w
  | 27 => decodeMajor1B w
  | 28 => decodeMajor1C w
  | 29 => decodeMajor1D w
  | 30 => decodeMajor1E w
  | 31 => decodeMajor1F w
  | 32 => decodeMajor20 w
  | 33 => decodeMajor21 w
  | 34 => decodeMajor22 w
  | 35 => decodeMajor23 w
  | 36 => decodeMajor24 w
  | 37 => decodeMajor25 w
  | _ => .error .major

/-- Decode one instruction word (R47). -/
def decodeWord (w : Nat) : Except Reject Instr :=
  match decodeRaw w with
  | .ok i => if i.wf then .ok i else .error .operand
  | .error e => .error e

/-- The little-endian number of a byte list (R3). -/
def leNat : List Byte → Nat
  | [] => 0
  | b :: bs => b.toNat + 256 * leNat bs

/-- The n bytes of a number, little-endian (R3). -/
def leBytes : Nat → Nat → List Byte
  | 0, _ => []
  | n + 1, x => BitVec.ofNat 8 x :: leBytes n (x / 256)

/-- Decode an instruction from the first four bytes of a list; the rest is left over. -/
def decodeBytes (bs : List Byte) : Except Reject (Instr × List Byte) :=
  if bs.length < 4 then .error .major
  else match decodeWord (leNat (bs.take 4)) with
    | .ok i => .ok (i, bs.drop 4)
    | .error e => .error e

/-- The instruction the decoder reads from an instruction of the opcode table's bit numbering: every instruction is one
32-bit word, stored little-endian (R44). -/
def decodeTableWord (nbits w : Nat) : Option Instr :=
  if nbits ≤ 32 then
    match decodeBytes (leBytes 4 (w % 2 ^ nbits)) with
    | .ok (i, _) => some i
    | .error _ => none
  else none

/-- The control transfers (R50). -/
def Instr.isTransfer : Instr → Bool
  | .bra _ _ | .call _ _ | .ret | .jmpi _ _ | .exit | .halt | .tret => true
  | _ => false

/-- Clause header fields (R45). -/
def hdrNegate (h : Nat) : Bool := h / 2147483648 % 2 == 1
def hdrPred (h : Nat) : Nat := h / 16777216 % 128
def hdrLength (h : Nat) : Nat := h / 1048576 % 16
def hdrSetB (h : Nat) : Nat := h / 65536 % 16
def hdrSetA (h : Nat) : Nat := h / 4096 % 16
def hdrWait (h : Nat) : Nat := h % 4096

/-- A legal header: setA and setB are flags 0–11 or 15 (R45). -/
def hdrLegal (h : Nat) : Bool :=
  (hdrSetA h < 12 || hdrSetA h == 15) && (hdrSetB h < 12 || hdrSetB h == 15)

/-- The index of the first illegal instruction word of a clause (R47): one that does not decode, or a control transfer
that is not last (R50). -/
def firstIllegal : List Nat → Nat → Option Nat
  | [], _ => none
  | w :: ws, k =>
    match decodeWord w with
    | .error _ => some k
    | .ok i => if i.isTransfer && !ws.isEmpty then some k else firstIllegal ws (k + 1)

/-- Assemble the fields of the RRR format (R56). -/
def encRRR (mj fn b a d : Nat) : Nat := mj * 67108864 + fn * 2097152 + b * 16384 + a * 128 + d

/-- The word of a well-formed instruction (R56 to R75); a device event has none. DESIGN CHOICE, log entry 11 (safe). -/
def encode : Instr → Nat
  | .submitTail => 0
  | .takeEntry => 0
  | .leaseAck => 0
  | .preemptMark => 0
  | .preemptClear => 0
  | .cmdCancelL => 0
  | .cmdCancelG => 0
  | .cmdCancelJ => 0
  | .shootdown => 0
  | .harvest => 0
  | .shadowRetire => 0
  | .haltReq => 0
  | .regionBp => 0
  | .stopMode => 0
  | .resume => 0
  | .breakEn => 0
  | .sample => 0
  | .zeroHist => 0
  | .readState => 0
  | .evict => 0
  | .moduleNumberWrite => 0
  | .eventHeadWrite => 0
  | .mgmtRegisterWrite => 0
  | .placementOpportunity => 0
  | .parameterCopy => 0
  | .launchEnd => 0
  | .clauseFetch => 0
  | .clauseStart => 0
  | .issueSelect => 0
  | .agingClassRise => 0
  | .instructionComplete => 0
  | .flagWaitResume => 0
  | .accessAtTarget => 0
  | .gangWake => 0
  | .gangEviction => 0
  | .deferredFaultDelivery => 0
  | .copyChannelStart => 0
  | .ringClaim => 0
  | .l2Fill => 0
  | .copyDelivery => 0
  | .prefetchLinePresent => 0
  | .mwaitTimeout => 0
  | .denseProductAdmit => 0
  | .engineCommandStart => 0
  | .chunkFire => 0
  | .mmaComplete => 0
  | .drainComplete => 0
  | .mzeroComplete => 0
  | .cbldComplete => 0
  | .migrateMove => 0
  | .tlbWalk => 0
  | .dirtySweep => 0
  | .traceSample => 0
  | .gateStallDivergence => 0
  | .parityReplay => 0
  | .eccError => 0
  | .linkFlit => 0
  | .linkFailure => 0
  | .timeSync => 0
  | .powerCap => 0
  | .powerGood => 0
  | .startTimeout => 0
  | .imageReceive => 0
  | .bra p o => 0x04000000 + p * 1048576 + o
  | .call p o => 0x08000000 + p * 1048576 + o
  | .nop => encRRR 0x03 0x00 0 0 0
  | .ret => encRRR 0x03 0x01 0 0 0
  | .jmpi p a => 0x0C400000 + p * 16384 + a * 128
  | .exit => encRRR 0x03 0x03 0 0 0
  | .yield => encRRR 0x03 0x04 0 0 0
  | .wait f => 0x0CA00000 + f
  | .wbaseRel n => 0x0CC00000 + n
  | .wbaseAbs n => 0x0CC00040 + n
  | .trap c => 0x0CE00000 + c
  | .tfence => encRRR 0x03 0x08 0 0 0
  | .tret => encRRR 0x03 0x09 0 0 0
  | .brk c => 0x0D400000 + c
  | .halt => encRRR 0x03 0x0B 0 0 0
  | .add b a d => encRRR 0x04 0x00 b a d
  | .sub b a d => encRRR 0x04 0x01 b a d
  | .min b a d => encRRR 0x04 0x02 b a d
  | .max b a d => encRRR 0x04 0x03 b a d
  | .minn b a d => encRRR 0x04 0x04 b a d
  | .maxn b a d => encRRR 0x04 0x05 b a d
  | .abs a d => encRRR 0x04 0x06 0 a d
  | .neg a d => encRRR 0x04 0x07 0 a d
  | .and b a d => encRRR 0x04 0x08 b a d
  | .or b a d => encRRR 0x04 0x09 b a d
  | .xor b a d => encRRR 0x04 0x0A b a d
  | .andn b a d => encRRR 0x04 0x0B b a d
  | .orn b a d => encRRR 0x04 0x0C b a d
  | .not a d => encRRR 0x04 0x0D 0 a d
  | .shl b a d => encRRR 0x04 0x0E b a d
  | .shr b a d => encRRR 0x04 0x0F b a d
  | .sar b a d => encRRR 0x04 0x10 b a d
  | .rol b a d => encRRR 0x04 0x11 b a d
  | .ror b a d => encRRR 0x04 0x12 b a d
  | .clz a d => encRRR 0x04 0x13 0 a d
  | .ctz a d => encRRR 0x04 0x14 0 a d
  | .popc a d => encRRR 0x04 0x15 0 a d
  | .brev a d => encRRR 0x04 0x16 0 a d
  | .mul b a d => encRRR 0x05 0x00 b a d
  | .mulh b a d => encRRR 0x05 0x01 b a d
  | .mulhn b a d => encRRR 0x05 0x02 b a d
  | .mad b a d => encRRR 0x05 0x03 b a d
  | .mulD b a d => encRRR 0x05 0x04 b a d
  | .div b a d => encRRR 0x05 0x05 b a d
  | .divn b a d => encRRR 0x05 0x06 b a d
  | .rem b a d => encRRR 0x05 0x07 b a d
  | .remn b a d => encRRR 0x05 0x08 b a d
  | .bfe b a d => encRRR 0x05 0x09 b a d
  | .bfen b a d => encRRR 0x05 0x0A b a d
  | .bfi b a d => encRRR 0x05 0x0B b a d
  | .addD b a d => encRRR 0x05 0x0C b a d
  | .subD b a d => encRRR 0x05 0x0D b a d
  | .shlD b a d => encRRR 0x05 0x0E b a d
  | .shrD b a d => encRRR 0x05 0x0F b a d
  | .addi i a d => 0x18000000 + i * 16384 + a * 128 + d
  | .andi i a d => 0x1C000000 + i * 16384 + a * 128 + d
  | .ori i a d => 0x20000000 + i * 16384 + a * 128 + d
  | .xori i a d => 0x24000000 + i * 16384 + a * 128 + d
  | .shli n a d => 0x28000000 + n * 16384 + a * 128 + d
  | .shri n a d => 0x29000000 + n * 16384 + a * 128 + d
  | .sari n a d => 0x2A000000 + n * 16384 + a * 128 + d
  | .movi i d => 0x2C000000 + i * 128 + d
  | .movhi i d => 0x30000000 + i * 128 + d
  | .icmpEq b a d => encRRR 0x0D 0x00 b a d
  | .icmpNe b a d => encRRR 0x0D 0x01 b a d
  | .icmpLt b a d => encRRR 0x0D 0x02 b a d
  | .icmpLe b a d => encRRR 0x0D 0x03 b a d
  | .icmpGt b a d => encRRR 0x0D 0x04 b a d
  | .icmpGe b a d => encRRR 0x0D 0x05 b a d
  | .icmpLtn b a d => encRRR 0x0D 0x06 b a d
  | .icmpLen b a d => encRRR 0x0D 0x07 b a d
  | .icmpGtn b a d => encRRR 0x0D 0x08 b a d
  | .icmpGen b a d => encRRR 0x0D 0x09 b a d
  | .qand b a d => encRRR 0x0E 0x00 b a d
  | .qor b a d => encRRR 0x0E 0x01 b a d
  | .qxor b a d => encRRR 0x0E 0x02 b a d
  | .qandn b a d => encRRR 0x0E 0x03 b a d
  | .qnot a d => encRRR 0x0E 0x04 0 a d
  | .qset v d => 0x38A00000 + v * 128 + d
  | .qmov a d => encRRR 0x0E 0x06 0 a d
  | .qpack a d => encRRR 0x0E 0x07 0 a d
  | .qunpack a d => encRRR 0x0E 0x08 0 a d
  | .sel b a d => encRRR 0x0E 0x09 b a d
  | .voteAny a d => encRRR 0x0E 0x0A 0 a d
  | .voteAll a d => encRRR 0x0E 0x0B 0 a d
  | .voteCnt a d => encRRR 0x0E 0x0C 0 a d
  | .voteBallot a d => encRRR 0x0E 0x0D 0 a d
  | .shflIdx b a d => encRRR 0x0F 0x00 b a d
  | .shflUp b a d => encRRR 0x0F 0x01 b a d
  | .shflDn b a d => encRRR 0x0F 0x02 b a d
  | .shflXor b a d => encRRR 0x0F 0x03 b a d
  | .bcast b a d => encRRR 0x0F 0x04 b a d
  | .reduxAdd a d => encRRR 0x0F 0x05 0 a d
  | .reduxMin a d => encRRR 0x0F 0x06 0 a d
  | .reduxMax a d => encRRR 0x0F 0x07 0 a d
  | .reduxMinn a d => encRRR 0x0F 0x08 0 a d
  | .reduxMaxn a d => encRRR 0x0F 0x09 0 a d
  | .mrank d => encRRR 0x0F 0x0A 0 0 d
  | .fadd r b a d => 0x40000000 + r * 16777216 + b * 16384 + a * 128 + d
  | .fsub r b a d => 0x40200000 + r * 16777216 + b * 16384 + a * 128 + d
  | .fmul r b a d => 0x40400000 + r * 16777216 + b * 16384 + a * 128 + d
  | .fma r b a d => 0x40600000 + r * 16777216 + b * 16384 + a * 128 + d
  | .fdiv r b a d => 0x40800000 + r * 16777216 + b * 16384 + a * 128 + d
  | .fsqrt r a d => 0x40A00000 + r * 16777216 + a * 128 + d
  | .fmin b a d => encRRR 0x10 0x06 b a d
  | .fmax b a d => encRRR 0x10 0x07 b a d
  | .fabs a d => encRRR 0x11 0x00 0 a d
  | .fneg a d => encRRR 0x11 0x01 0 a d
  | .frcp a d => encRRR 0x11 0x02 0 a d
  | .frsqrt a d => encRRR 0x11 0x03 0 a d
  | .fexp2 a d => encRRR 0x11 0x04 0 a d
  | .flog2 a d => encRRR 0x11 0x05 0 a d
  | .fsin a d => encRRR 0x11 0x06 0 a d
  | .fcos a d => encRRR 0x11 0x07 0 a d
  | .fclass a d => encRRR 0x11 0x08 0 a d
  | .frint m a d => 0x45200000 + m * 16384 + a * 128 + d
  | .ffrac a d => encRRR 0x11 0x0A 0 a d
  | .fcopysign b a d => encRRR 0x11 0x0B b a d
  | .fscale b a d => encRRR 0x11 0x0C b a d
  | .fsat a d => encRRR 0x11 0x0D 0 a d
  | .fcmpEq b a d => encRRR 0x12 0x00 b a d
  | .fcmpNe b a d => encRRR 0x12 0x01 b a d
  | .fcmpLt b a d => encRRR 0x12 0x02 b a d
  | .fcmpLe b a d => encRRR 0x12 0x03 b a d
  | .fcmpGt b a d => encRRR 0x12 0x04 b a d
  | .fcmpGe b a d => encRRR 0x12 0x05 b a d
  | .fcmpUn b a d => encRRR 0x12 0x06 b a d
  | .fcmpOrd b a d => encRRR 0x12 0x07 b a d
  | .hadd2Bf16 r b a d => 0x4C000000 + r * 16777216 + b * 16384 + a * 128 + d
  | .hsub2Bf16 r b a d => 0x4C200000 + r * 16777216 + b * 16384 + a * 128 + d
  | .hmul2Bf16 r b a d => 0x4C400000 + r * 16777216 + b * 16384 + a * 128 + d
  | .hfma2Bf16 r b a d => 0x4C600000 + r * 16777216 + b * 16384 + a * 128 + d
  | .hmin2Bf16 b a d => encRRR 0x13 0x04 b a d
  | .hmax2Bf16 b a d => encRRR 0x13 0x05 b a d
  | .hadd2F16 r b a d => 0x50000000 + r * 16777216 + b * 16384 + a * 128 + d
  | .hsub2F16 r b a d => 0x50200000 + r * 16777216 + b * 16384 + a * 128 + d
  | .hmul2F16 r b a d => 0x50400000 + r * 16777216 + b * 16384 + a * 128 + d
  | .hfma2F16 r b a d => 0x50600000 + r * 16777216 + b * 16384 + a * 128 + d
  | .hmin2F16 b a d => encRRR 0x14 0x04 b a d
  | .hmax2F16 b a d => encRRR 0x14 0x05 b a d
  | .cvt f r s a d => 0x54000000 + f * 2097152 + r * 524288 + s * 262144 + a * 128 + d
  | .ldB o a d => 0x58000000 + o * 16384 + a * 128 + d
  | .ldH o a d => 0x59000000 + o * 16384 + a * 128 + d
  | .ldW o a d => 0x5A000000 + o * 16384 + a * 128 + d
  | .ldD o a d => 0x5B000000 + o * 16384 + a * 128 + d
  | .ldsB o a d => 0x5C000000 + o * 16384 + a * 128 + d
  | .ldsH o a d => 0x5D000000 + o * 16384 + a * 128 + d
  | .ldsQ o a d => 0x5E000000 + o * 16384 + a * 128 + d
  | .stB o a d => 0x60000000 + o * 16384 + a * 128 + d
  | .stH o a d => 0x61000000 + o * 16384 + a * 128 + d
  | .stW o a d => 0x62000000 + o * 16384 + a * 128 + d
  | .stD o a d => 0x63000000 + o * 16384 + a * 128 + d
  | .stQ o a d => 0x64000000 + o * 16384 + a * 128 + d
  | .ldAcqW s a d => 0x68008000 + s * 2097152 + a * 128 + d
  | .ldAcqD s a d => 0x6800C000 + s * 2097152 + a * 128 + d
  | .stRelW s a d => 0x69008000 + s * 2097152 + a * 128 + d
  | .stRelD s a d => 0x6900C000 + s * 2097152 + a * 128 + d
  | .fenceGng => 0x6A000000
  | .fenceBlk => 0x6A200000
  | .fenceClu => 0x6A400000
  | .fenceDie => 0x6A600000
  | .fenceDev => 0x6A800000
  | .fenceDom => 0x6AA00000
  | .fenceAcq s => 0x6A004000 + s * 2097152
  | .fenceRel s => 0x6A008000 + s * 2097152
  | .atomAdd b a d => encRRR 0x1B 0x00 b a d
  | .atomMin b a d => encRRR 0x1B 0x01 b a d
  | .atomMax b a d => encRRR 0x1B 0x02 b a d
  | .atomMinn b a d => encRRR 0x1B 0x03 b a d
  | .atomMaxn b a d => encRRR 0x1B 0x04 b a d
  | .atomAnd b a d => encRRR 0x1B 0x05 b a d
  | .atomOr b a d => encRRR 0x1B 0x06 b a d
  | .atomXor b a d => encRRR 0x1B 0x07 b a d
  | .atomXchg b a d => encRRR 0x1B 0x08 b a d
  | .atomInc b a d => encRRR 0x1B 0x09 b a d
  | .atomAddNr b a => encRRR 0x1B 0x10 b a 0
  | .atomMinNr b a => encRRR 0x1B 0x11 b a 0
  | .atomMaxNr b a => encRRR 0x1B 0x12 b a 0
  | .atomMinnNr b a => encRRR 0x1B 0x13 b a 0
  | .atomMaxnNr b a => encRRR 0x1B 0x14 b a 0
  | .atomAndNr b a => encRRR 0x1B 0x15 b a 0
  | .atomOrNr b a => encRRR 0x1B 0x16 b a 0
  | .atomXorNr b a => encRRR 0x1B 0x17 b a 0
  | .atomXchgNr b a => encRRR 0x1B 0x18 b a 0
  | .atomIncNr b a => encRRR 0x1B 0x19 b a 0
  | .atomCas b a d => encRRR 0x1C 0x00 b a d
  | .atomFx b a d => encRRR 0x1C 0x01 b a d
  | .atomAddD b a d => encRRR 0x1C 0x02 b a d
  | .atomFxNr b a => encRRR 0x1C 0x11 b a 0
  | .atomAddDNr b a => encRRR 0x1C 0x12 b a 0
  | .cpyIn b a c => 0x74000000 + b * 16384 + a * 128 + c
  | .cpyOut b a c => 0x74200000 + b * 16384 + a * 128 + c
  | .cpyMc b a c => 0x74400000 + b * 16384 + a * 128 + c
  | .cpyGen b a c => 0x74600000 + b * 16384 + a * 128 + c
  | .cpyPf b a d => encRRR 0x1D 0x04 b a d
  | .cpySeal d => encRRR 0x1D 0x05 0 0 d
  | .cpyWait n => 0x74C00000 + n * 16384
  | .cpyVis s n => 0x74E00000 + s * 262144 + n * 16384
  | .cpyStat k d => 0x75000000 + k * 16384 + d
  | .barInit b a => encRRR 0x1E 0x00 b a 0
  | .barArr a d => encRRR 0x1E 0x01 0 a d
  | .barArrb a d => encRRR 0x1E 0x02 0 a d
  | .barExp b a => encRRR 0x1E 0x03 b a 0
  | .barWait b a => encRRR 0x1E 0x04 b a 0
  | .barTry b a d => encRRR 0x1E 0x05 b a d
  | .barBlk => encRRR 0x1E 0x06 0 0 0
  | .barClu => encRRR 0x1E 0x07 0 0 0
  | .carve b a d => encRRR 0x1E 0x08 b a d
  | .mwait b a d => encRRR 0x1E 0x09 b a d
  | .mma s b a d => 0x7C000000 + s * 2097152 + b * 16384 + a * 128 + d
  | .mdrain a => encRRR 0x20 0x00 0 a 0
  | .mzero b => encRRR 0x20 0x01 b 0 0
  | .mfence => encRRR 0x20 0x02 0 0 0
  | .ringDef b a r => 0x80600000 + b * 16384 + a * 128 + r
  | .ringAdv b a r => 0x80800000 + b * 16384 + a * 128 + r
  | .ringRel b r => 0x80A00000 + b * 16384 + r
  | .ringRelRst r => 0x80A00080 + r
  | .ringStat r d => 0x80C00000 + r * 16384 + d
  | .cbld b a => encRRR 0x20 0x07 b a 0
  | .wmul b a d => encRRR 0x21 0x00 b a d
  | .wmuln b a d => encRRR 0x21 0x01 b a d
  | .wmac b a d => encRRR 0x21 0x02 b a d
  | .wadd b a d => encRRR 0x21 0x03 b a d
  | .wsub b a d => encRRR 0x21 0x04 b a d
  | .wneg a d => encRRR 0x21 0x05 0 a d
  | .wshs b a d => encRRR 0x21 0x06 b a d
  | .wshb b a d => encRRR 0x21 0x07 b a d
  | .pack b a d => encRRR 0x21 0x08 b a d
  | .extr b a d => encRRR 0x21 0x09 b a d
  | .gchk b a => encRRR 0x21 0x0A b a 0
  | .gwid b a d => encRRR 0x21 0x0B b a d
  | .cbdec a d => encRRR 0x21 0x0C 0 a d
  | .wcmp b a d => encRRR 0x21 0x0D b a d
  | .spawn a => encRRR 0x22 0x00 0 a 0
  | .spawnl a => encRRR 0x22 0x01 0 a 0
  | .take a d => encRRR 0x22 0x02 0 a d
  | .resolve b a => encRRR 0x22 0x03 b a 0
  | .refAdd a d => encRRR 0x22 0x04 0 a d
  | .refDrop a d => encRRR 0x22 0x05 0 a d
  | .probe a d => encRRR 0x22 0x06 0 a d
  | .join a => encRRR 0x22 0x07 0 a 0
  | .reclaim => encRRR 0x22 0x08 0 0 0
  | .migrate a d => encRRR 0x22 0x09 0 a d
  | .launch q a => 0x8C000000 + q * 16384 + a * 128
  | .cancelL a d => encRRR 0x23 0x01 0 a d
  | .cancelG a d => encRRR 0x23 0x02 0 a d
  | .cancelJ d => encRRR 0x23 0x03 0 0 d
  | .regEnter i => 0x90000000 + i
  | .regLeave i => 0x90200000 + i
  | .tmark b k => encRRR 0x24 0x02 b 0 k
  | .wptSet b a d => encRRR 0x24 0x03 b a d
  | .wptClr b d => encRRR 0x24 0x04 b 0 d
  | .tagSet a => encRRR 0x24 0x05 0 a 0
  | .tagGet a d => encRRR 0x24 0x06 0 a d
  | .tagSetr b a => encRRR 0x24 0x07 b a 0
  | .sread r d => 0x94000000 + r * 4096 + d
  | .swrite r a => 0x95000000 + r * 4096 + a
  | .tlbInvPg a => encRRR 0x25 0x10 0 a 0
  | .tlbInvRng b a => encRRR 0x25 0x12 b a 0
  | .tlbInvCtx => encRRR 0x25 0x14 0 0 0
  | .dirtyHarvPg a => encRRR 0x25 0x18 0 a 0
  | .dirtyHarvRng b a => encRRR 0x25 0x1A b a 0
  | .dirtyHarvCtx => encRRR 0x25 0x1C 0 0 0
  | .kChunkComplete => 0
  | .unknownCommand => 0

end Sys2Proof
end

