-- ==== Sys2Proof/Machine/Flags.lean ====
section
/-! DEFINITION. The sticky arithmetic flags (R169, R170), the twelve completion flags of a gang (R53 to R55), and
retirement: the retired count and the store hash (R396, R397). The flags that each floating-point operation raises are
computed beside its result in Float.lean. -/

namespace Sys2Proof.Machine

/-- An instruction sets flags of `%aflags` only by OR (R170). -/
def orFlags (t : Thread) (f : Word) : Thread := { t with aflags := t.aflags ||| f }

/-- `swrite` of `%aflags` or `%amask` replaces bits 7:0; the reserved bits stay zero (R5, R169). -/
def flagBits (v : Word) : Word := v &&& 0xFF

/-- Whether R53 counts an instruction: class A, class B, or not. -/
inductive Cls where
  | none | a | b
  deriving DecidableEq, Repr

/-- The class of an instruction (R53). -/
def clsOf : Instr → Cls
  | .ldB _ _ _ | .ldH _ _ _ | .ldW _ _ _ | .ldD _ _ _ | .ldsB _ _ _ | .ldsH _ _ _ | .ldsQ _ _ _ | .ldAcqW _ _ _
  | .ldAcqD _ _ _ => .a
  | .atomAdd _ _ _ | .atomMin _ _ _ | .atomMax _ _ _ | .atomMinn _ _ _ | .atomMaxn _ _ _ | .atomAnd _ _ _
  | .atomOr _ _ _ | .atomXor _ _ _ | .atomXchg _ _ _ | .atomInc _ _ _ | .atomCas _ _ _ | .atomFx _ _ _
  | .atomAddD _ _ _ => .a
  | .div _ _ _ | .divn _ _ _ | .rem _ _ _ | .remn _ _ _ | .wmul _ _ _ | .wmuln _ _ _ | .wmac _ _ _ | .take _ _
  | .probe _ _ | .tagGet _ _ | .cpyStat _ _ | .ringStat _ _ => .a
  | .stB _ _ _ | .stH _ _ _ | .stW _ _ _ | .stD _ _ _ | .stQ _ _ _ | .stRelW _ _ _ | .stRelD _ _ _ => .b
  | .atomAddNr _ _ | .atomMinNr _ _ | .atomMaxNr _ _ | .atomMinnNr _ _ | .atomMaxnNr _ _ | .atomAndNr _ _
  | .atomOrNr _ _ | .atomXorNr _ _ | .atomXchgNr _ _ | .atomIncNr _ _ | .atomFxNr _ _ | .atomAddDNr _ _ => .b
  | .cpyIn _ _ _ | .cpyOut _ _ _ | .cpyMc _ _ _ | .cpyGen _ _ _ | .cpyPf _ _ _ | .mma _ _ _ _ | .mdrain _ | .mzero _
  | .cbld _ _ | .ringDef _ _ _ | .spawn _ | .spawnl _ | .resolve _ _ | .tagSet _ | .tagSetr _ _ | .launch _ _ => .b
  | i => if (fpLong i) then .a else .none
where
  /-- The floating-point operations of class A. -/
  fpLong : Instr → Bool
    | .fdiv _ _ _ _ | .fsqrt _ _ _ | .frcp _ _ | .frsqrt _ _ | .fexp2 _ _ | .flog2 _ _ | .fsin _ _ | .fcos _ _ => true
    | _ => false

/-- The completion flag that the clause names for a class; 15 names none (R45, R53). -/
def clsFlag (hdr : Word) : Cls → Option Nat
  | .none => Option.none
  | .a => if hdrSetA hdr.toNat < 12 then some (hdrSetA hdr.toNat) else Option.none
  | .b => if hdrSetB hdr.toNat < 12 then some (hdrSetB hdr.toNat) else Option.none

def flagCount (g : Gang) (k : Nat) : Nat := g.flags.getD k 0
def setFlagCount (g : Gang) (k v : Nat) : Gang := { g with flags := setAt g.flags k v }

/-- The instruction cannot issue, because the flag it counts in is at 63 (R53). -/
def flagFull (g : Gang) (c : ClauseRun) (cls : Cls) : Bool :=
  match clsFlag c.hdr cls with
  | some k => !c.counted && decide (63 ≤ flagCount g k)
  | Option.none => false

/-- Count an instruction in its flag when it issues, once (R53). -/
def countUp (g : Gang) (c : ClauseRun) (cls : Cls) : Gang :=
  match clsFlag c.hdr cls with
  | some k => if c.counted then g else setFlagCount g k (flagCount g k + 1)
  | Option.none => g

/-- The instruction's operation is in its unit, or all its lanes have settled: its flag is due to fall (R53, R205). -/
def countDone (g : Gang) (c : ClauseRun) (cls : Cls) : Gang :=
  match clsFlag c.hdr cls with
  | some k => { g with completing := g.completing ++ [k] }
  | Option.none => g

/-- Every flag of a mask is clear (R53, R55). -/
def flagsClear (g : Gang) (mask : Nat) : Bool := (List.range 12).all fun k => !bit mask k || flagCount g k == 0

/-- The bytes of a store stream: for each lane its address with bits 63:57 zero, and the bytes written (R397). -/
def streamBytes : List (Nat × Nat × Nat × Nat) → List Byte
  | [] => []
  | (_, addr, n, x) :: r => rdBytes (wrLE [] 0 8 (addr % 2 ^ 57)) 0 8 ++ rdBytes (wrLE [] 0 n x) 0 n ++ streamBytes r

/-- Put what a lane wrote at its place, lanes ascending (R397). -/
def streamIn (e : Nat × Nat × Nat × Nat) : List (Nat × Nat × Nat × Nat) → List (Nat × Nat × Nat × Nat)
  | [] => [e]
  | x :: xs => if e.1 < x.1 then e :: x :: xs else x :: streamIn e xs

/-- An instruction is counted, and what it wrote is hashed (R396, R397). -/
def retireNow (g : Gang) (stream : List (Nat × Nat × Nat × Nat)) : Gang :=
  { g with retcnt := (g.retcnt + 1) % 2 ^ 48, sthash := crc64 g.sthash (streamBytes stream) }

/-- An instruction that has taken effect for every lane retires, at trap level 0, once every instruction that its gang
issued before it has (R396). -/
def retire (g : Gang) (c : ClauseRun) : Gang :=
  if g.level = 0 ∧ c.retired = false then
    if g.passed.isEmpty then retireNow g c.stream else { g with passed := g.passed ++ [{ stream := c.stream }] }
  else g

/-- The gang goes on past an instruction with accesses outstanding: its flag falls, and it retires, when they have been
performed (R53, R311, R396). -/
def leaveOut (g : Gang) (c : ClauseRun) (cls : Cls) (fs : List Flight) : Gang :=
  { g with passed := g.passed ++
      [{ flag := clsFlag c.hdr cls, counts := g.level == 0 && !c.retired, stream := c.stream, flights := fs }] }

/-- The instructions at the head of the list with nothing outstanding retire, in issue order (R396). -/
def retireHead : List Passed → Gang → Gang
  | [], g => { g with passed := [] }
  | p :: ps, g =>
    if p.flights.isEmpty then retireHead ps (if p.counts then retireNow g p.stream else g) else { g with passed := p :: ps }

end Sys2Proof.Machine
end

