-- ==== Sys2Proof/Machine/Interlock.lean ====
section
/-! DEFINITION. What holds an instruction before it issues while accesses of its gang are outstanding: the register
interlock (R54), the waits in place of fences and releases (R320 to R322, R326) and of what else follows an access (R207, R249, R306,
R311), and the wait of `sread` for retirement (R396). -/

namespace Sys2Proof.Machine

/-- The word of the instruction under way. -/
def wordOf (c : ClauseRun) : Nat := ((c.words[c.idx]?).getD 0).toNat

/-- The active mask of the instruction under way: that of the clause, or the lanes that `tret` executes it again for
(R49, R360, R407). -/
def activeMask (c : ClauseRun) : Word := c.redo.getD c.act

/-- The registers and predicates that an instruction names: those it writes, those it reads, the predicates it writes. -/
structure Named where
  dst : List Opnd := []
  src : List Opnd := []
  preds : List Nat := []
  deriving DecidableEq, Repr

/-- The operands of a wide pair; the pair field 0 names no register (R257, R264). DEDUCED, log entry 20 (unsafe). -/
def widePair (n : Nat) : List Opnd := if n = 0 then [] else [.win n, .win (n + 1)]

/-- Operands of a conversion (R72). -/
def cvtNamed (f a d : Nat) : Named :=
  if f = 0x18 ∨ f = 0x19 then { dst := [.reg d], src := [.pair a] }
  else if f = 0x1A ∨ f = 0x1B then { dst := [.reg d], src := [.quad a] }
  else if f = 0x1C ∨ f = 0x1D then { dst := [.pair d], src := [.reg a] }
  else if f = 0x1E ∨ f = 0x1F then { dst := [.quad d], src := [.reg a] }
  else { dst := [.reg d], src := [.reg a] }

/-- The registers and predicates that each instruction names (R54, R257). -/
def namedBy : Instr → Named
  | .add b a d | .sub b a d | .min b a d | .max b a d | .minn b a d | .maxn b a d | .and b a d | .or b a d | .xor b a d
  | .andn b a d | .orn b a d | .shl b a d | .shr b a d | .sar b a d | .rol b a d | .ror b a d | .mul b a d | .mulh b a d
  | .mulhn b a d | .div b a d | .divn b a d | .rem b a d | .remn b a d | .bfe b a d | .bfen b a d | .shflIdx b a d
  | .shflUp b a d | .shflDn b a d | .shflXor b a d | .bcast b a d | .fmin b a d | .fmax b a d | .fcopysign b a d
  | .fscale b a d | .hmin2Bf16 b a d | .hmax2Bf16 b a d | .hmin2F16 b a d | .hmax2F16 b a d =>
    { dst := [.reg d], src := [.reg a, .reg b] }
  | .mad b a d | .bfi b a d => { dst := [.reg d], src := [.reg d, .reg a, .reg b] }
  | .fadd _ b a d | .fsub _ b a d | .fmul _ b a d | .fdiv _ b a d | .hadd2Bf16 _ b a d | .hsub2Bf16 _ b a d
  | .hmul2Bf16 _ b a d | .hadd2F16 _ b a d | .hsub2F16 _ b a d | .hmul2F16 _ b a d =>
    { dst := [.reg d], src := [.reg a, .reg b] }
  | .fma _ b a d | .hfma2Bf16 _ b a d | .hfma2F16 _ b a d => { dst := [.reg d], src := [.reg d, .reg a, .reg b] }
  | .abs a d | .neg a d | .not a d | .clz a d | .ctz a d | .popc a d | .brev a d | .fabs a d | .fneg a d | .frcp a d
  | .frsqrt a d | .fexp2 a d | .flog2 a d | .fsin a d | .fcos a d | .fclass a d | .ffrac a d | .fsat a d | .reduxAdd a d
  | .reduxMin a d | .reduxMax a d | .reduxMinn a d | .reduxMaxn a d => { dst := [.reg d], src := [.reg a] }
  | .addi _ a d | .andi _ a d | .ori _ a d | .xori _ a d | .shli _ a d | .shri _ a d | .sari _ a d | .fsqrt _ a d
  | .frint _ a d => { dst := [.reg d], src := [.reg a] }
  | .movi _ d | .mrank d | .voteCnt _ d | .voteBallot _ d | .qpack _ d | .sread _ d | .cpySeal d | .cpyStat _ d | .ringStat _ d
  | .cancelJ d => { dst := [.reg d] }
  | .movhi _ d => { dst := [.reg d], src := [.reg d] }
  | .mulD b a d => { dst := [.pair d], src := [.reg a, .reg b] }
  | .addD b a d | .subD b a d => { dst := [.pair d], src := [.pair a, .pair b] }
  | .shlD b a d | .shrD b a d => { dst := [.pair d], src := [.pair a, .reg b] }
  | .icmpEq b a d | .icmpNe b a d | .icmpLt b a d | .icmpLe b a d | .icmpGt b a d | .icmpGe b a d | .icmpLtn b a d
  | .icmpLen b a d | .icmpGtn b a d | .icmpGen b a d | .fcmpEq b a d | .fcmpNe b a d | .fcmpLt b a d | .fcmpLe b a d
  | .fcmpGt b a d | .fcmpGe b a d | .fcmpUn b a d | .fcmpOrd b a d => { src := [.reg a, .reg b], preds := [d] }
  | .qand _ _ d | .qor _ _ d | .qxor _ _ d | .qandn _ _ d | .qnot _ d | .qset _ d | .qmov _ d | .voteAny _ d
  | .voteAll _ d => { preds := [d] }
  | .qunpack a d => { src := [.reg a], preds := (List.range 32).map fun i => d + i }
  | .sel _ a d => { dst := [.reg d], src := [.reg a] }
  | .cvt f _ _ a d => cvtNamed f a d
  | .ldB _ a d | .ldH _ a d | .ldW _ a d | .ldsB _ a d | .ldsH _ a d | .ldAcqW _ a d =>
    { dst := [.reg d], src := [.pair a] }
  | .ldD _ a d | .ldAcqD _ a d => { dst := [.pair d], src := [.pair a] }
  | .ldsQ _ a d => { dst := [.quad d], src := [.pair a] }
  | .stB _ a d | .stH _ a d | .stW _ a d | .stRelW _ a d => { src := [.pair a, .reg d] }
  | .stD _ a d | .stRelD _ a d => { src := [.pair a, .pair d] }
  | .stQ _ a d => { src := [.pair a, .quad d] }
  | .atomAdd b a d | .atomMin b a d | .atomMax b a d | .atomMinn b a d | .atomMaxn b a d | .atomAnd b a d | .atomOr b a d
  | .atomXor b a d | .atomXchg b a d | .atomInc b a d | .atomFx b a d => { dst := [.reg d], src := [.pair a, .reg b] }
  | .atomAddNr b a | .atomMinNr b a | .atomMaxNr b a | .atomMinnNr b a | .atomMaxnNr b a | .atomAndNr b a | .atomOrNr b a
  | .atomXorNr b a | .atomXchgNr b a | .atomIncNr b a | .atomFxNr b a => { src := [.pair a, .reg b] }
  | .atomCas b a d => { dst := [.reg d], src := [.pair a, .pair b] }
  | .atomAddD b a d => { dst := [.pair d], src := [.pair a, .pair b] }
  | .atomAddDNr b a => { src := [.pair a, .pair b] }
  | .call _ _ => { dst := [.pair 2] }
  | .ret => { src := [.pair 2] }
  | .jmpi _ a => { src := [.pair a] }
  | .swrite _ a => { src := [.reg a] }
  | .cpyIn b a _ | .cpyOut b a _ | .cpyMc b a _ | .cpyGen b a _ | .barInit b a | .barExp b a | .barWait b a | .ringAdv b a _
  | .cbld b a | .tagSetr b a | .tlbInvRng b a | .dirtyHarvRng b a => { src := [.pair a, .reg b] }
  | .cpyPf b a d => { src := [.pair a, .reg b, .reg d] }
  | .barTry b a d => { src := [.pair a, .reg b], preds := [d] }
  | .barArr a d | .barArrb a d | .refAdd a d | .refDrop a d | .probe a d | .tagGet a d | .migrate a d | .cancelL a d
  | .cancelG a d => { dst := [.reg d], src := [.pair a] }
  | .take a d => { dst := [.pair d], src := [.pair a] }
  | .resolve b a => { src := [.pair a, .pair b] }
  | .carve b a d => { dst := [.reg d], src := [.reg a, .reg b] }
  | .mwait b a d | .wptSet b a d => { dst := [.reg d], src := [.pair a, .reg b] }
  | .wptClr b d => { dst := [.reg d], src := [.reg b] }
  | .mma _ b a d => { src := [.pair a, .reg b, .reg d] }
  | .mdrain a | .spawn a | .spawnl a | .join a | .launch _ a | .tagSet a | .tlbInvPg a | .dirtyHarvPg a => { src := [.pair a] }
  | .mzero b | .ringRel b _ | .tmark b _ => { src := [.reg b] }
  | .ringDef b a _ => { src := [.reg a, .reg b] }
  | .wmul b a d | .wmuln b a d => { dst := widePair d, src := [.win a, .win b] }
  | .wmac b a d => { dst := widePair d, src := widePair d ++ [.win a, .win b] }
  | .wadd b a d | .wsub b a d => { dst := [.win d], src := [.win a, .win b] }
  | .wneg a d => { dst := [.win d], src := [.win a] }
  | .wshs b a d | .wshb b a d => { dst := [.win d], src := [.win a, .reg b] }
  | .pack b a d => { dst := [.win d], src := [.win d, .reg a, .reg b] }
  | .extr b a d => { dst := [.reg d], src := [.win a, .reg b] }
  | .gchk b a => { src := [.win a, .reg b] }
  | .gwid b a d => { dst := [.reg d], src := [.reg a, .reg b] }
  | .wcmp b a d => { dst := [.reg d], src := [.win a, .win b] }
  | .cbdec a d => { dst := [.reg d], src := [.reg a] }
  | _ => {}

/-- The outstanding accesses of a gang, with the place of their instruction in issue order; those of the instruction under
way come last (R311). -/
def outstanding (g : Gang) : List (Nat × Flight) :=
  (g.passed.mapIdx fun i p => p.flights.map fun f => (i, f)).flatten
    ++ ((g.pending.map Pending.flights).getD []).map fun f => (g.passed.length, f)

/-- The physical registers of a lane that an operand names. -/
def Opnd.phys (lv : Nat) (t : Thread) (o : Opnd) : List Nat :=
  match o.extent lv with
  | none => []
  | some (lo, hi) => (List.range (hi + 1 - lo)).map fun i => t.wbase + lo + i

/-- A register that an instruction names awaits the data of an earlier access: in an active lane, and a wide register in every
lane that has not exited (R54, R257). -/
def interlocked (g : Gang) (A : Word) (os : List Opnd) : Bool :=
  (outstanding g).any fun x => os.any fun o =>
    inMask (match o with | .win _ => g.live | _ => A) x.2.lane && (o.phys g.level (thr g x.2.lane)).any x.2.dst.contains

/-- An access that reads, for `fence.acq` (R321). -/
def AccessOp.fetches : AccessOp → Bool
  | .store _ _ _ _ => false
  | _ => true

/-- What an access counts as (R311): a store, or an atomic, which is both a load and a store. -/
def Flight.stores (f : Flight) : Bool :=
  match f.op with
  | .load _ _ _ _ _ | .probe _ _ | .tagGet _ _ => false
  | _ => true

/-- An address pair of a lane lies in an on-core aperture (R187). -/
def onCore (ea : Dbl) : Bool := decide (bits ea.toNat 45 12 = 0xFFF)

/-- What a gang-wide read of its lowest lane waits for: that lane's accesses to the granule, and where it reads global memory
those to global memory (R311, R313). DEDUCED, log entry 41 (unsafe). -/
def readsAfter (g : Gang) (A : Word) (a : Nat) (f : Flight) : Bool :=
  let l := lowest A
  let ea := rdPair g.level (thr g l) a
  f.lane == l && (if onCore ea then f.ea.toNat % 2 ^ 57 / 16 == ea.toNat % 2 ^ 57 / 16 else f.loc.place == .phys)

/-- The outstanding accesses that an instruction waits for in place before it takes effect: those that a fence, a release or a
block's barrier orders (R249, R320 to R322, R326), those that `tlb.inv` waits for (R207), stores whose bytes a copy or the engine
may read from scratchpad (R306), and what a read of its lowest lane follows. DEDUCED, log entry 41 (unsafe). -/
def waitsFor (g : Gang) (A : Word) (f : Flight) : Instr → Bool
  | .fenceAcq _ => inMask A f.lane && f.op.fetches
  | .fenceRel _ | .fenceGng | .fenceBlk | .fenceClu | .fenceDie | .fenceDev | .fenceDom | .stRelW _ _ _ | .stRelD _ _ _
  | .barBlk | .barClu | .barArr _ _ | .barArrb _ _ | .spawn _ | .spawnl _ | .resolve _ _ | .launch _ _ | .tagSetr _ _ =>
    inMask A f.lane
  | .barExp b _ => inMask A f.lane && (rdReg g.level (thr g f.lane) b).getLsbD 31
  | .tlbInvPg _ | .tlbInvCtx => f.lane == lowest A && f.stores
  | .tlbInvRng b _ => f.lane == lowest A && f.stores && rdReg g.level (thr g (lowest A)) b != 0
  | .cpyIn _ _ _ | .cpyOut _ _ _ | .cpyMc _ _ _ | .cpyGen _ _ _ | .mma _ _ _ _ | .mdrain _ | .cbld _ _ | .ringAdv _ _ _ =>
    f.stores && f.loc.place != .phys
  | .mwait _ a _ | .barWait _ a | .barTry _ a _ | .join a => readsAfter g A a f
  | _ => false

/-- The operands that an instruction reads or writes: the second register of the pair is read by the slot instructions whose scalar
does not say otherwise (R268, R269). -/
def operandsOf (g : Gang) (A : Word) (i : Instr) : List Opnd :=
  (namedBy i).dst ++ (namedBy i).src ++ match i with
    | .extr b a _ | .gchk b a => if (rdReg g.level (thr g (lowest A)) b).getLsbD 16 ∨ a = 0 then [] else [.win (a + 1)]
    | _ => []

/-- What holds an instruction that would issue now, as a stall reason (R125): 2 for an operand (R54) or for retirement (R396), 3 for
a wait in place. -/
def heldBy (g : Gang) (A : Word) (i : Instr) : Option Nat :=
  if interlocked g A (operandsOf g A i) then some 2
  else if (outstanding g).any fun x => waitsFor g A x.2 i then some 3
  else match i with
    | .sread r _ => if r = 0x402 ∨ r = 0x404 then some 2 else none
    | _ => none

/-- The synchronising operations (R399). -/
def syncInstr : Instr → Bool
  | .barWait _ _ | .barBlk | .barClu | .take _ _ | .join _ | .cpyWait _ | .cpyVis _ _ => true
  | .atomAdd _ _ _ | .atomMin _ _ _ | .atomMax _ _ _ | .atomMinn _ _ _ | .atomMaxn _ _ _ | .atomAnd _ _ _
  | .atomOr _ _ _ | .atomXor _ _ _ | .atomXchg _ _ _ | .atomInc _ _ _ | .atomAddNr _ _ | .atomMinNr _ _
  | .atomMaxNr _ _ | .atomMinnNr _ _ | .atomMaxnNr _ _ | .atomAndNr _ _ | .atomOrNr _ _ | .atomXorNr _ _
  | .atomXchgNr _ _ | .atomIncNr _ _ | .atomCas _ _ _ | .atomFx _ _ _ | .atomAddD _ _ _ | .atomFxNr _ _
  | .atomAddDNr _ _ => true
  | _ => false

/-- In record and replay a synchronising operation waits until every earlier instruction of its gang has retired: its record
holds the counts that follow it (R399). -/
def ordered (L : Launch) (i : Instr) : Bool := (L.desc.recording || L.desc.replaying) && syncInstr i

/-- What holds the next instruction of a clause; nothing does while every earlier instruction of its gang has retired. -/
def heldAt (s : State) (g : Gang) (c : ClauseRun) : Option Nat :=
  if g.passed.isEmpty then none
  else match decodeWord (wordOf c) with
    | .ok i => if ordered (launchD s g.launch) i then some 3 else heldBy g (activeMask c) i
    | .error _ => none

end Sys2Proof.Machine
end

