-- ==== Sys2Proof/Machine/Events.lean ====
section
/-! DEFINITION. Installed physical memory (R17) and the event ring of the management interface (R418, R428). -/

namespace Sys2Proof.Machine

/-- Bytes that programs can address of a die's range: its capacity less the tag sixteenth (R11, R17). -/
def usableBytes (die : Nat) : Nat := if die = 0 then 90 * 2 ^ 30 else 360 * 2 ^ 30

/-- The module is in minimal mode (R424). -/
def minimal (s : State) : Bool := s.boot.state == 2 || s.boot.state == 3

/-- A port of a die is an ordinary port of the load-store domain that runs: port 0 of Quince is not one in host mode
(R19), which it is in where system software selects this module and in minimal mode, where no other port runs (R424).
DESIGN CHOICE, log entry 72 (unsafe). -/
def domainPort (s : State) (d p : Nat) : Bool :=
  !minimal s && decide (p < 9) && !(s.hostPort && d == 0 && p == 0) && diePresent s d

/-- The link ports of the module on which traffic to other modules can travel (R19, R373). -/
def portsUp (s : State) : List (Nat × Nat) :=
  [0, 1].flatMap fun d => ((List.range 9).filter fun p => domainPort s d p && !(dieOf s d).failedPorts.contains p).map fun p => (d, p)

/-- Some link port of the module runs (R19, R373). -/
def linksUp (s : State) : Bool := !(portsUp s).isEmpty

/-- The virtual channels of a link (R325): requests, responses, ordered writes, and management. -/
def channelRequest : Nat := 0
def channelResponse : Nat := 1
def channelOrdered : Nat := 2

/-- An access to a physical address can travel now on a channel: it stays on the module, or some port is not sending a
flit of that channel again (R325). -/
def linkOpen (s : State) (pa ch : Nat) : Bool :=
  pa / 2 ^ 46 / 2 == s.module || (portsUp s).any fun x => !(dieOf s x.1).retrying.contains (x.2, ch)

/-- The modules whose memory an access can reach: its own, and while a link is up the others of its load-store domain
(R17, R373, R421). DEDUCED, log entry 18 (unsafe). -/
def moduleReachable (s : State) (m : Nat) : Bool := m == s.module || (s.domain.contains m && linksUp s)

/-- The die on this module that homes a physical address, if it is on this module (R17). -/
def homeDie (s : State) (pa : Nat) : Option Nat :=
  if pa / 2 ^ 46 / 2 = s.module then some (pa / 2 ^ 46 % 2) else none

/-- A physical address that an access may use (R17, R374): a present die of a reachable module, below the tag sixteenth.
DEDUCED, log entry 18 (unsafe). -/
def physOk (s : State) (pa : Nat) : Bool :=
  decide (pa < 2 ^ 52) && moduleReachable s (pa / 2 ^ 46 / 2) && decide (pa % 2 ^ 46 < usableBytes (pa / 2 ^ 46 % 2))
    && (pa / 2 ^ 46 / 2 != s.module || diePresent s (pa / 2 ^ 46 % 2))

/-- Bytes of a record of n bytes from its fields (offset, size, value); every other byte is zero (R5). -/
def recordOf (n : Nat) (fields : List (Nat × Nat × Nat)) : List Byte :=
  rdBytes (fields.foldl (fun m f => wrLE m f.1 f.2.1 f.2.2) []) 0 n

/-- The event ring can be written (R417). -/
def Mgmt.ringUsable (m : Mgmt) : Bool :=
  m.evring != 0 && m.evring % 128 == 0 && isPow2 m.evsize && decide (64 ≤ m.evsize) && decide (m.evsize ≤ 65536)

/-- Write the oldest waiting event if the ring has room (R418). -/
def drainEvent (s : State) (d : Nat) : State :=
  let m := mgmtOf s d
  match (dieOf s d).events with
  | [] => s
  | e :: es =>
    if !m.ringUsable || decide (m.evsize ≤ (m.evtail + 2 ^ 32 - m.evhead) % 2 ^ 32) then s
    else
      let slot := m.evring + 128 * (m.evtail % m.evsize)
      let s1 := modDie s d fun x => { x with events := es }
      if physOk s slot && physOk s (slot + 127) then
        modMgmt (writeBytes s1 (physLoc slot) e.bytes) d fun m => { m with evtail := (m.evtail + 1) % 2 ^ 32 }
      else
        modMgmt s1 d fun m => { m with evtail := (m.evtail + 1) % 2 ^ 32, evlost := min (m.evlost + 1) (2 ^ 32 - 1) }

def drainEventsLoop (d : Nat) : Nat → State → State
  | 0, s => s
  | n + 1, s => drainEventsLoop d n (drainEvent s d)

/-- Write waiting events while the ring has room. -/
def drainEvents (s : State) (d : Nat) : State := drainEventsLoop d (dieOf s d).events.length s

/-- Types that are never dropped (R418). DEDUCED, log entry 66 (unsafe). -/
def keptType (t : Nat) : Bool := t == 1 || t == 3 || t == 4 || t == 5 || t == 6 || t == 10

/-- An event of a type that is never dropped can be posted now: fewer than 256 wait in the die. Its producer waits otherwise
(R418). DEDUCED, log entry 66 (unsafe). -/
def eventRoom (s : State) (d : Nat) : Bool := decide ((dieOf s d).events.length < 256)

/-- Post an event (R418): header, payload fields, and the launch it is about. Up to 256 events wait in the die; the
producer of an event of a type that is never dropped has waited for room (`eventRoom`).
DEDUCED, log entry 49 (safe). DEDUCED, log entry 66 (unsafe). -/
def postEvent (s : State) (d type ctx : Nat) (launch : Option Nat) (payload : List (Nat × Nat × Nat)) : State :=
  let bytes := recordOf 128 ([(0, 1, type), (1, 1, dieId s d), (2, 2, ctx), (8, 8, s.time)] ++ payload)
  if (dieOf s d).events.length < 256 || keptType type then
    drainEvents (modDie s d fun x => { x with events := x.events ++ [{ type := type, bytes := bytes, launch := launch }] }) d
  else modMgmt s d fun m => { m with evlost := min (m.evlost + 1) (2 ^ 32 - 1) }

/-- The gang block of an event (R428). -/
def gangBlock (s : State) (g : Gang) (pc : Dbl) : List (Nat × Nat × Nat) :=
  let L := launchD s g.launch
  [(0x10, 8, L.addr.toNat), (0x18, 4, L.take), (0x1C, 4, g.cluster), (0x20, 4, g.task.toNat), (0x24, 1, g.rank),
   (0x25, 1, g.index), (0x26, 1, g.level), (0x28, 2, coreField s g.core), (0x30, 8, pc.toNat)]

/-- Post an event about one gang. -/
def postGangEvent (s : State) (g : Gang) (type : Nat) (pc : Dbl) (extra : List (Nat × Nat × Nat)) : State :=
  postEvent s (coreDie g.core) type (launchD s g.launch).ctx (some g.launch) (gangBlock s g pc ++ extra)

/-- An error response is logged as an event of type 8 (R374, R428). Sources: 0 instruction, 1 copy, 2 walk, 3 link
failure, 4 device area, 5 shadow. -/
def errorResponse (s : State) (d ctx pa ea : Nat) (launch : Option Nat) (source : Nat) : State :=
  let (addr, take) := match launch.bind (launchOf s) with
    | some L => (L.addr.toNat, L.take)
    | none => (0, 0xFFFFFFFF)
  postEvent s d 8 ctx launch [(0x10, 8, pa), (0x18, 8, ea), (0x20, 8, addr), (0x28, 4, take), (0x2C, 1, source)]

/-- Telemetry counters of a die wrap (R375, R416). -/
def countTelemetry (s : State) (d : Nat) (which : Nat) : State :=
  modMgmt s d fun m =>
    if which = 0 then { m with tcorr := (m.tcorr + 1) % 2 ^ 64 }
    else if which = 1 then { m with treplay := (m.treplay + 1) % 2 ^ 64 }
    else if which = 2 then { m with tpoison := (m.tpoison + 1) % 2 ^ 64 }
    else { m with tretry := (m.tretry + 1) % 2 ^ 64 }

end Sys2Proof.Machine
end

