-- ==== Sys2Proof/Machine/Translate.lean ====
section
/-! DEFINITION. Generic addresses (R185 to R187), page walks, translation buffers and dirty state (R192 to R200, R206 to
R208), and leases (R87, R90, R426). -/

namespace Sys2Proof.Machine

/-- `address[59:57]` repeats bit 56 (R185, R186). -/
def canonical (a : Dbl) : Bool :=
  if bit a.toNat 56 then bits a.toNat 57 3 == 7 else bits a.toNat 57 3 == 0

/-- The effective address of a base and an offset (R186); none is the non-canonical fault. -/
def effAddr (base : Dbl) (off : Int) : Option Dbl :=
  if canonical base then
    let v := sext (bits base.toNat 0 57) 57 + off
    if v < -(2 ^ 56) ∨ v > 2 ^ 56 - 1 then none
    else some (BitVec.ofNat 64 (bits base.toNat 60 4 * 2 ^ 60 + wrapN 60 v))
  else none

/-- The address with an offset as the fault record shows it where it cannot be formed: the base plus the offset, kept in
bits 59:0, with the base's colour. -/
def shownAddr (base : Dbl) (off : Int) : Dbl :=
  BitVec.ofNat 64 (bits base.toNat 60 4 * 2 ^ 60 + wrapN 60 (sext (bits base.toNat 0 60) 60 + off))

/-- The three apertures (R187). -/
inductive Aperture where
  | pooled | stack | global
  deriving DecidableEq, Repr

def apertureOf (ea : Dbl) : Aperture :=
  if bits ea.toNat 44 13 = 0x1FFF then .pooled else if bits ea.toNat 44 13 = 0x1FFE then .stack else .global

/-- Bits 56:0 of an address: what is translated and leased. -/
def vaOf (ea : Dbl) : Nat := ea.toNat % 2 ^ 57
/-- The canonical address of colour 0 with these 57 bits (R185). -/
def generic (va : Nat) : Nat := va % 2 ^ 57 + if va.testBit 56 then 7 * 2 ^ 57 else 0
/-- Bits 63:60: the colour presented. -/
def colourOf (ea : Dbl) : Nat := ea.toNat / 2 ^ 60

/-- The fields of a leaf (R193). -/
def leafR (e : Dbl) : Bool := e.getLsbD 2
def leafW (e : Dbl) : Bool := e.getLsbD 3
def leafX (e : Dbl) : Bool := e.getLsbD 4
def leafTagged (e : Dbl) : Bool := e.getLsbD 7
def leafCell (e : Dbl) : Bool := e.getLsbD 8
def leafSum (e : Dbl) : Bool := e.getLsbD 9
def leafDirty (e : Dbl) : Bool := e.getLsbD 11

/-- How a walk ends (R195): a leaf at a physical address with its page size; no leaf; a malformed entry, with the address
to log if there is one; an uncorrectable error on a table read. -/
inductive WalkEnd where
  | leaf (at_ : Nat) (entry : Dbl) (size : Nat)
  | none
  | malformed (log : Option Nat)
  | error
  deriving DecidableEq, Repr

/-- The place of a context's entry in the context table of a die (R416); a die without a table has none. -/
def rootAt (s : State) (d ctx : Nat) : Option Nat :=
  if (mgmtOf s d).ctxtab = 0 ∨ 4096 ≤ ctx then none else some ((mgmtOf s d).ctxtab + 8 * ctx)

/-- The root table of a context on a die (R416, R417); 0 is none. -/
def rootOf (s : State) (d ctx : Nat) : Nat :=
  match rootAt s d ctx with
  | some a => if physOk s a then readNat s (physLoc a) 8 else 0
  | none => 0

/-- Page size of a leaf at a level (R192). -/
def pageSize (level : Nat) (grouped : Bool) : Nat := 2 ^ (12 + 9 * level) * (if grouped then 16 else 1)

/-- A leaf entry at a level, ungrouped or the first of its group: its attributes and its page must be usable (R195). -/
def leafEnd (s : State) (at_ : Nat) (e : Dbl) (level : Nat) (grouped : Bool) : WalkEnd :=
  let base := bits e.toNat 12 40 * 4096 / pageSize level grouped * pageSize level grouped
  if bits e.toNat 5 2 = 3 then .malformed none
  else if physOk s base then .leaf at_ e (pageSize level grouped)
  else .malformed (some base)

/-- The walk of one level of tables and those below it (R192 to R195). -/
def walkLevel (s : State) (va : Nat) : Nat → Nat → WalkEnd
  | 0, table => walkEntry s va 0 table (fun _ => .none)
  | level + 1, table => walkEntry s va (level + 1) table (walkLevel s va level)
where
  /-- One table entry; `next` walks the table below. -/
  walkEntry (s : State) (va level table : Nat) (next : Nat → WalkEnd) : WalkEnd :=
    let i := bits va (12 + 9 * level) 9
    let at_ := table + 8 * i
    if !physOk s at_ then .malformed (some at_)
    else if poisonedAt s (physLoc at_) 8 then .error
    else
      let e : Dbl := BitVec.ofNat 64 (readNat s (physLoc at_) 8)
      if !e.getLsbD 0 then .none
      else if level = 0 || e.getLsbD 1 then
        if level = 4 then .malformed none
        else if e.getLsbD 63 then
          if level = 3 then .malformed none
          else
            let first := table + 8 * (i / 16 * 16)
            let f : Dbl := BitVec.ofNat 64 (readNat s (physLoc first) 8)
            if poisonedAt s (physLoc first) 8 then .error
            else if f.getLsbD 0 && (level == 0 || f.getLsbD 1) && f.getLsbD 63 then leafEnd s first f level true
            else .malformed none
        else leafEnd s at_ e level false
      else next (bits e.toNat 12 40 * 4096)

/-- A whole walk; no tree is no leaf. A context-table entry is read as an entry of the tree is: one at an address that may
not be used receives the error response, and its address is logged (R17, R374). DEDUCED, log entry 18 (unsafe). A root table whose
address is not 4 KiB aligned, as R192 asks, is read at that address with bits 11:0 zero. DESIGN CHOICE, log entry 87 (unsafe). -/
def walk (s : State) (d ctx va : Nat) : WalkEnd :=
  match rootAt s d ctx with
  | none => .none
  | some a =>
    if !physOk s a then .malformed (some a)
    else if poisonedAt s (physLoc a) 8 then .error
    else if rootOf s d ctx = 0 then .none else walkLevel s va 4 (rootOf s d ctx / 4096 * 4096)

/-- Who asks for a translation (R198): a core, for its copies, atomics and cell operations; a core's instruction fetch;
or a unit of the die itself, such as the sequencer. DESIGN CHOICE, log entry 44 (safe). -/
inductive Asker where
  | core (c : Nat)
  | fetch (c : Nat)
  | unit (d : Nat)
  deriving DecidableEq, Repr

/-- The die whose tables and walkers serve an asker. -/
def Asker.die : Asker → Nat
  | .core c => coreDie c
  | .fetch c => coreDie c
  | .unit d => d

/-- The buffers that an asker uses, as level and holder, the nearest first (R198). -/
def Asker.levels : Asker → List (Nat × Nat)
  | .core c => [(0, c), (1, c / 64), (2, coreDie c)]
  | .fetch c => [(1, c / 64), (2, coreDie c)]
  | .unit d => [(2, d)]

/-- An entry covers an address of a context on a die. -/
def TlbEntry.covers (e : TlbEntry) (d ctx va : Nat) : Bool :=
  e.die == d && e.ctx == ctx && decide (e.base ≤ va) && decide (va < e.base + e.size)

/-- An entry overlaps a range of a context. -/
def TlbEntry.overlaps (e : TlbEntry) (ctx lo n : Nat) : Bool :=
  e.ctx == ctx && decide (e.base < lo + n) && decide (lo < e.base + e.size)

/-- Write a pending dirty mark to its leaf by an atomic OR (R200). -/
def settleDirty (s : State) (e : TlbEntry) : State :=
  if e.pending then
    writeNat s (physLoc e.leafAt) 8 ((BitVec.ofNat 64 (readNat s (physLoc e.leafAt) 8) ||| 0x800#64).toNat)
  else s

/-- Remove an entry, its pending mark first. -/
def evictEntry (s : State) (e : TlbEntry) : State :=
  let s1 := settleDirty s e
  { s1 with tlb := s1.tlb.filter (· != e) }

/-- Entries of a translation buffer of a level: a core's, a neighbourhood's, a die's (R198). -/
def tlbSize (level : Nat) : Nat := if level = 0 then 64 else if level = 1 then 1024 else 24576

/-- An entry stands in a buffer. -/
def TlbEntry.inBuffer (e : TlbEntry) (b : Nat × Nat) : Bool := e.level == b.1 && e.holder == b.2

/-- Put an entry into a buffer; a full one gives up an entry, by a free choice. DESIGN CHOICE, log entry 44 (safe). -/
def putEntry (e : TlbEntry) (s : State) (b : Nat × Nat) : State :=
  let held := s.tlb.filter fun x => x.inBuffer b
  let s1 :=
    if tlbSize b.1 ≤ held.length then
      match pickFrom s held with
      | (some x, s') => evictEntry s' x
      | (none, s') => s'
    else s
  { s1 with tlb := { e with level := b.1, holder := b.2, pending := false } :: s1.tlb }

/-- Install a leaf in the buffers of the asker: accessed is set first (R199). -/
def fillTlb (s : State) (q : Asker) (ctx va at_ size : Nat) (entry : Dbl) : State :=
  let s1 := if entry.getLsbD 10 then s else writeNat s (physLoc at_) 8 ((entry ||| 0x400#64).toNat)
  q.levels.reverse.foldl (putEntry
    { die := q.die, ctx := ctx, base := va / size * size, size := size, leafAt := at_, leaf := entry }) s1

/-- What a translation gives: the physical address, and the leaf; or a cause, with the physical address where an error
response is logged. -/
inductive Xlat where
  | ok (pa : Nat) (leaf : Dbl)
  | fail (cause : Nat) (log : Option Nat)
  deriving DecidableEq, Repr

/-- The physical address a leaf gives. -/
def paOf (leaf : Dbl) (size va : Nat) : Nat := bits leaf.toNat 12 40 * 4096 / size * size + va % size

/-- Translate by a new walk, which fills the buffers when it ends in a leaf (R195, R408). -/
def translateNew (s : State) (q : Asker) (ctx va : Nat) : State × Xlat :=
  match walk s q.die ctx va with
  | .leaf at_ e size => (fillTlb s q ctx va at_ size e, .ok (paOf e size va) e)
  | .none => (s, .fail 0x10 none)
  | .malformed log => (s, .fail 0x11 log)
  | .error => (s, .fail 0x60 none)

/-- The buffered entry says what a new walk would say, accessed and dirty apart. -/
def TlbEntry.fresh (e : TlbEntry) : WalkEnd → Bool
  | .leaf at_ x size => at_ == e.leafAt && size == e.size && (x ||| 0xC00#64) == (e.leaf ||| 0xC00#64)
  | _ => false

/-- The entries that an asker finds for an address, the nearest buffer first. -/
def found (s : State) (q : Asker) (ctx va : Nat) : List TlbEntry :=
  q.levels.flatMap fun b => s.tlb.filter fun e => e.inBuffer b && e.covers q.die ctx va

/-- Translate through a buffered entry, which the nearer buffers that lack it take (R198). -/
def useEntry (s : State) (q : Asker) (va : Nat) (e : TlbEntry) : State × Xlat :=
  if e.poison then (s, .fail 0x60 none)
  else ((q.levels.filter fun b => decide (b.1 < e.level)).reverse.foldl (putEntry e) s, .ok (paOf e.leaf e.size va) e.leaf)

/-- Translate an address of a context (R198, R199). Where the buffered translations and the tables differ, each access takes
one of them by a free choice. DESIGN CHOICE, log entry 44 (safe). -/
def translate (s : State) (q : Asker) (ctx va : Nat) : State × Xlat :=
  match found s q ctx va with
  | [] => translateNew s q ctx va
  | e :: es =>
    let now := walk s q.die ctx va
    if (e :: es).all fun x => x.fresh now then useEntry s q va e
    else
      let n := (es.length + 1) + if (e :: es).any fun x => x.fresh now then 0 else 1
      match (e :: es)[(pick s n).1]? with
      | some x => useEntry (pick s n).2 q va x
      | none => translateNew (pick s n).2 q ctx va

/-- A write performed at a physical address through an entry whose leaf did not read dirty at fill leaves that entry
dirty-pending (R200); where the entry has gone meanwhile, the bit reaches the leaf at once. -/
def markDirty (s : State) (q : Asker) (ctx va pa : Nat) : State :=
  match (found s q ctx va).find? fun e => paOf e.leaf e.size va == pa with
  | some e => if leafDirty e.leaf then s else { s with tlb := s.tlb.map fun x => if x = e then { x with pending := true } else x }
  | none =>
    match walk s q.die ctx va with
    | .leaf at_ e size =>
      if paOf e size va = pa ∧ leafDirty e = false then writeNat s (physLoc at_) 8 ((e ||| 0x800#64).toNat) else s
    | _ => s

def settleAll : List TlbEntry → State → State
  | [], s => s
  | e :: es, s => settleAll es (settleDirty s e)

/-- Write the pending marks of the entries that satisfy p, and leave them valid (R208). -/
def harvestWhere (s : State) (p : TlbEntry → Bool) : State :=
  let s1 := settleAll (s.tlb.filter p) s
  { s1 with tlb := s1.tlb.map fun e => if p e then { e with pending := false, leaf := if e.pending then e.leaf ||| 0x800#64 else e.leaf } else e }

/-- Write the pending marks of the entries that satisfy p, and remove them (R207). -/
def invalidateWhere (s : State) (p : TlbEntry → Bool) : State :=
  let s1 := settleAll (s.tlb.filter p) s
  { s1 with tlb := s1.tlb.filter fun e => !p e }

/-- A range that a launch holds implicitly, for read and perhaps for write. -/
def area (base : Dbl) (size : Nat) (w demand : Bool) : Lease :=
  { base := vaOf base, size := size, r := true, w := w, x := false, demand := demand, raw := base.toNat }

/-- The device areas of a launch that are leased implicitly (R90, R359, R426), with the index of a residency request. -/
def deviceAreas (d : Desc) : List (Nat × Lease) :=
  [(0xF0, area d.param (d.nparam * 16) false false),
   (0xF1, area d.done (64) true false),
   (0xF2, area d.arena (d.narena) true false),
   (0xF3, area d.spill (d.nspill * 64) true false),
   (0xF4, area d.trace (d.ntrace * 4096) true false),
   (0xF5, area d.rlog (if d.recording || d.replaying then d.nrlog else 0) true false)]

/-- The save areas: a demand range for read and write (R359). -/
def saveArea (d : Desc) : Lease := area d.save (1024 * d.gx * d.gy * d.gz * d.blocks * d.gangs) true true

/-- Every range a launch holds. -/
def allLeases (L : Launch) : List Lease := L.leases ++ (deviceAreas L.desc).map Prod.snd ++ [saveArea L.desc]

/-- The first byte from `va` on that no range in the list covers, looking no further than `stop`. -/
def coverEnd (ls : List Lease) : Nat → Nat → Nat → Nat
  | 0, va, _ => va
  | fuel + 1, va, stop =>
    if stop ≤ va then va
    else match ls.filter fun l => decide (l.base ≤ va) && decide (va < l.base + l.size) with
      | [] => va
      | l :: _ => coverEnd ls fuel (l.base + l.size) stop

/-- The first byte of a range that lacks a kind it needs (R90), or none. -/
def firstUnleased (L : Launch) (va n : Nat) (r w x : Bool) : Option Nat :=
  let ls := allLeases L
  let f := fun (need : Bool) (k : Lease → Bool) =>
    if need then coverEnd (ls.filter k) (ls.length + 1) va (va + n) else va + n
  let lo := min (f r Lease.r) (min (f w Lease.w) (f x Lease.x))
  if lo < va + n then some lo else none

/-- A byte of the range lies in the launch's task arena or spill ring, which are the device's alone (R90). -/
def deviceOnly (L : Launch) (va n : Nat) : Option Nat :=
  let hit := fun (l : Lease) => if l.base < va + n ∧ va < l.base + l.size then some (max va l.base) else none
  match hit (area L.desc.arena (L.desc.narena) true false),
        hit (area L.desc.spill (L.desc.nspill * 64) true false) with
  | some a, some b => some (min a b)
  | some a, none => some a
  | none, b => b

/-- What a checked global access gives: where it lands, or the cause and the first faulting byte. -/
inductive GAccess where
  | ok (pa : Nat) (leaf : Dbl)
  | bad (cause : Nat) (at_ : Dbl) (colour : Nat)
  deriving DecidableEq, Repr

/-- What an access needs of its leaf beyond r, w and x. -/
structure Needs where
  r : Bool := false
  w : Bool := false
  x : Bool := false
  cell : Bool := false
  /-- The access is the launch's own (R90), so the task arena and the spill ring are closed to it. -/
  own : Bool := true
  /-- Colours are compared on tagged and cell pages (R202); or on every page (R221). -/
  colour : Bool := true
  always : Bool := false
  /-- What the access requires of the sum attribute: none, or its value. -/
  sum : Option Bool := none
  /-- Poison is looked at (R372): the access reads data. -/
  reads : Bool := true
  /-- Tags can be set only on a tagged or cell page (R385). -/
  tagPage : Bool := false
  deriving DecidableEq, Repr

/-- The leaf has the permission and the attributes an access needs (R197). -/
def Needs.leafOk (n : Needs) (e : Dbl) : Bool :=
  (!n.r || leafR e) && (!n.w || leafW e) && (!n.x || leafX e) && (!n.cell || leafCell e)
    && (match n.sum with | none => true | some b => leafSum e == b) && (!n.tagPage || leafTagged e || leafCell e)

/-- The first granule of the range whose colour does not match (R202). -/
def colourBad (s : State) (pa n colour : Nat) : Option Nat :=
  (granules pa n).find? fun g => !(colour == colourAt s (physLoc (g * 16)) && colour != 15)

/-- Checks 4 to 8 of R196 on an access that lies within one page, made by an asker for a launch, in order. A leaf without a
permission takes 0x11 also where it lacks a permission of its range's lease, of which R88 speaks too.
DESIGN CHOICE, log entry 73 (unsafe). -/
def globalAccess (s : State) (q : Asker) (L : Launch) (ea : Dbl) (n : Nat) (need : Needs) (source : Nat) :
    State × GAccess :=
  let va := vaOf ea
  let at_ := fun b => ea + BitVec.ofNat 64 (b - va)
  match firstUnleased L va n need.r need.w need.x with
  | some b => (s, .bad 0x12 (at_ b) 0)
  | none =>
    match (if need.own then deviceOnly L va n else none) with
    | some b => (s, .bad 0x11 (at_ b) 0)
    | none =>
      match translate s q L.ctx va with
      | (s1, .fail c log) =>
        (match log with | some pa => errorResponse s1 q.die L.ctx pa ea.toNat (some L.id) 2 | none => s1, .bad c ea 0)
      | (s1, .ok pa e) =>
        if !need.leafOk e then (s1, .bad 0x11 ea 0)
        else if !(physOk s1 pa && physOk s1 (pa + n - 1)) then
          (errorResponse s1 q.die L.ctx pa ea.toNat (some L.id) source, .bad 0x11 ea 0)
        else
          match (if need.always || (need.colour && (leafTagged e || leafCell e)) then colourBad s1 pa n (colourOf ea) else none) with
          | some g => (s1, .bad 0x14 (at_ (va + (g * 16 - pa))) (colourAt s1 (physLoc (g * 16))))
          | none =>
            match (if need.reads then poisonFirst s1 (physLoc pa) n else none) with
            | some g => (s1, .bad 0x60 (at_ (va + (g * 16 - pa))) 0)
            | none => (s1, .ok pa e)

/-- A write performed through a translation: the bytes, and the dirty state of the entry (R200). -/
def globalWrite (s : State) (q : Asker) (ctx va pa : Nat) (bs : List Byte) : State :=
  markDirty (writeBytes s (physLoc pa) bs) q ctx va pa

/-- A device access to a launch's own area (R426), granule by granule; such accesses carry no colour and make no tag
check. -/
def deviceXlat (s : State) (d ctx va : Nat) (w : Bool) : State × Option Nat :=
  match translate s (.unit d) ctx va with
  | (s1, .fail _ _) => (s1, none)
  | (s1, .ok pa e) => if (if w then leafW e else leafR e) && physOk s1 pa then (s1, some pa) else (s1, none)

/-- Write bytes to a device area; bytes whose translation fails are lost and the write answers false. -/
def deviceWriteLoop (d ctx : Nat) : Nat → Nat → List Byte → State → State × Bool
  | 0, _, _, s => (s, true)
  | fuel + 1, va, bs, s =>
    match bs with
    | [] => (s, true)
    | _ =>
      let k := min bs.length (16 - va % 16)
      match deviceXlat s d ctx va true with
      | (s1, none) => (s1, false)
      | (s1, some pa) => deviceWriteLoop d ctx fuel (va + k) (bs.drop k) (globalWrite s1 (.unit d) ctx va pa (bs.take k))

/-- Every granule of a range has a usable translation for a device access, by the tables as they stand: an old buffered translation
is not taken (R199). DESIGN CHOICE, log entry 87 (unsafe). -/
def deviceReach (s : State) (d ctx va n : Nat) (w : Bool) : Bool :=
  (granules va n).all fun g =>
    match walk s d ctx (g * 16) with
    | .leaf _ e size => (if w then leafW e else leafR e) && physOk s (paOf e size (g * 16))
    | _ => false

/-- The physical address that the first granule without a usable translation led to, for the log of its error response; 0
where it led to none (R374, R428). -/
def deviceBad (s : State) (d ctx va n : Nat) (w : Bool) : Nat :=
  ((granules va n).findSome? fun g =>
    match walk s d ctx (g * 16) with
    | .leaf _ e size =>
      if (if w then leafW e else leafR e) && physOk s (paOf e size (g * 16)) then none else some (paOf e size (g * 16))
    | .malformed (some pa) => some pa
    | _ => some 0).getD 0

/-- Where a device access that cannot be made reached a physical address that it may not use, or a malformed entry with one (R374): the
physical address, its byte of the range, and the source that the event names (R428). A read of the device's own outside the launch's
areas is shown as one of a device area. DESIGN CHOICE, log entry 90 (unsafe). -/
def deviceLogged (s : State) (d ctx va n : Nat) (w : Bool) : Option (Nat × Nat × Nat) :=
  (granules va n).findSome? fun g =>
    match walk s d ctx (g * 16) with
    | .leaf _ e size =>
      if (if w then leafW e else leafR e) && !physOk s (paOf e size (g * 16)) then some (paOf e size (g * 16), g * 16 - va, 4) else none
    | .malformed (some pa) => some (pa, g * 16 - va, 2)
    | _ => none

/-- The address that a device access could not use is logged (R374). -/
def logRefused (s : State) (d ctx : Nat) (ea : Dbl) (n : Nat) (w : Bool) (launch : Option Nat) : State :=
  match deviceLogged s d ctx (vaOf ea) n w with
  | some (pa, off, source) => errorResponse s d ctx pa (ea + BitVec.ofNat 64 off).toNat launch source
  | none => s

/-- Write bytes to a device area of a launch, whole or not at all. -/
def deviceWrite (s : State) (d ctx va : Nat) (bs : List Byte) : State × Bool :=
  if deviceReach s d ctx va bs.length true then deviceWriteLoop d ctx (bs.length + 1) va bs s else (s, false)

/-- What a device read gives: the bytes; no usable translation (R426); or an uncorrectable error (R372). -/
inductive DRead where
  | ok (bs : List Byte)
  | away
  | error
  deriving DecidableEq, Repr

/-- The bytes read, where they were. -/
def DRead.bytes : DRead → Option (List Byte)
  | .ok bs => some bs
  | _ => none

/-- Read bytes of a device area, one aligned granule at a time (R32). -/
def deviceReadLoop (d ctx : Nat) : Nat → Nat → Nat → State → State × DRead
  | 0, _, _, s => (s, .ok [])
  | fuel + 1, va, n, s =>
    if n = 0 then (s, .ok [])
    else
      let k := min n (16 - va % 16)
      match deviceXlat s d ctx va false with
      | (s1, none) => (s1, .away)
      | (s1, some pa) =>
        if poisonedAt s1 (physLoc pa) k then (s1, .error)
        else match deviceReadLoop d ctx fuel (va + k) (n - k) s1 with
          | (s2, .ok bs) => (s2, .ok (readBytes s1 (physLoc pa) k ++ bs))
          | x => x

def deviceRead (s : State) (d ctx va n : Nat) : State × DRead := deviceReadLoop d ctx (n + 1) va n s

end Sys2Proof.Machine
end

