-- ==== Sys2Proof/Machine/Leases.lean ====
section
/-! DEFINITION. Residency of leased ranges and device areas, and residency requests (R88, R426). -/

namespace Sys2Proof.Machine

/-- Every page of a range has a valid leaf with the permissions of a lease; bytes that an entry of the given list covers are
not waited for (R87, R88). The search goes leaf by leaf. -/
def residentFrom (s : State) (L : Launch) (demand : List Lease) (e : Lease) : Nat → Nat → Bool
  | 0, _ => false
  | fuel + 1, va =>
    let stop := e.base + e.size
    if stop ≤ va then true
    else
      match demand.find? fun l => decide (l.base ≤ va) && decide (va < l.base + l.size) with
      | some l => residentFrom s L demand e fuel (l.base + l.size)
      | none =>
        match walk s L.die L.ctx va with
        | .leaf _ x size =>
          if (!e.r || leafR x) && (!e.w || leafW x) && (!e.x || leafX x) then residentFrom s L demand e fuel ((va / size + 1) * size)
          else false
        | _ => false

/-- A lease entry that is waited for is resident, demand bytes apart (R87, R88). -/
def rangeResident (s : State) (L : Launch) (e : Lease) : Bool :=
  e.demand || residentFrom s L (L.leases.filter Lease.demand) e (e.size / 4096 + L.leases.length + 3) e.base

/-- A device area is resident, demand entries over it or not (R31, R426). -/
def areaResident (s : State) (L : Launch) (e : Lease) : Bool := residentFrom s L [] e (e.size / 4096 + 3) e.base

/-- The ranges that a launch waits for, with the index that a request names (R426, R428). -/
def awaited (L : Launch) : List (Nat × Lease) :=
  (L.leases.mapIdx fun i e => (i, e)) ++ deviceAreas L.desc

/-- The awaited ranges that are not resident. -/
def missing (s : State) (L : Launch) : List (Nat × Lease) := (awaited L).filter fun x =>
  !(if x.1 < 0xF0 then rangeResident s L x.2 else areaResident s L x.2)

/-- Address and size as a residency request gives them: those of the entry, or of an area rounded out to 4 KiB. Reserved bits of
`lse.base` are shown as they stand. DESIGN CHOICE, log entry 86 (unsafe). -/
def requestRange (i : Nat) (e : Lease) : Nat × Nat :=
  if i < 0xF0 then (e.raw, e.size)
  else (e.raw / 4096 * 4096 + (if e.r then 1 else 0) + (if e.w then 2 else 0),
        roundUp (e.raw + e.size) 4096 - e.raw / 4096 * 4096)

/-- A request for a device area has not been answered: what needs the area waits for LEASE_ACK (R426). -/
def areaAsked (s : State) (id i : Nat) : Bool := (launchD s id).requests.any fun r => r.index == i && r.answer == 0

/-- Post a residency request, unless one for this range is waiting for its answer (R88, R428), or no event can be posted: what
needs the range waits, and asks again (R418). -/
def postRequest (s : State) (id i : Nat) (e : Lease) : State :=
  let L := launchD s id
  if (L.requests.any fun r => r.index == i && r.answer == 0) || !eventRoom s L.die then s
  else
    let n := (dieOf s L.die).requests
    let s1 := modDie s L.die fun d => { d with requests := (n + 1) % 2 ^ 32 }
    let s2 := modLaunch s1 id fun L => { L with requests := L.requests.filter (fun r => r.index != i) ++ [{ num := n, index := i }] }
    postEvent s2 L.die 1 L.ctx (some id)
      [(0x10, 8, L.addr.toNat), (0x18, 4, n), (0x1C, 1, i), (0x20, 8, (requestRange i e).1), (0x28, 8, (requestRange i e).2),
       (0x30, 4, L.take)]

/-- A device access of n bytes to an area of a launch cannot be made: a request for the area is posted, and the access waits (R426);
a physical address that it may not use is logged with it (R374). -/
def needArea (s : State) (id i d : Nat) (ea : Dbl) (n : Nat) (w : Bool) : State :=
  match (deviceAreas (launchD s id).desc).find? fun x => x.1 == i with
  | some (_, e) =>
    if areaAsked s id i || !eventRoom s (launchD s id).die then s
    else logRefused (postRequest s id i e) d (launchD s id).ctx ea n w (some id)
  | none => s

end Sys2Proof.Machine
end

