-- ==== Sys2Proof/Machine/Trace.lean ====
section
/-! DEFINITION. Trace frames and records (R390 to R393). -/

namespace Sys2Proof.Machine

/-- A delta in 7-bit groups, least significant first, in the fewest bytes (R392). -/
def deltaBytes : Nat → Nat → List Byte
  | 0, _ => []
  | fuel + 1, x =>
    if x < 128 then [BitVec.ofNat 8 x] else BitVec.ofNat 8 (x % 128 + 128) :: deltaBytes fuel (x / 128)

/-- The slot number of a gang: 0–63, or 64 for the landing slot (R391). -/
def slotNumber (g : Gang) : Nat :=
  match g.slot with
  | some (.normal sch pos) => sch * 16 + pos
  | _ => 64

/-- The held region at a depth from the top; 0xFFFF where there is none (R377). -/
def regionAt (g : Gang) (i : Nat) : Nat := (g.regions[i]?).getD 0xFFFF

/-- The five gang bytes of a record (R391). -/
def gangBytes (g : Gang) : List Byte := leOf 1 (slotNumber g) ++ leOf 2 (regionAt g 0) ++ leOf 2 (regionAt g 1)

/-- A device write at an offset of the trace buffer, which may fail; a failure loses the bytes and posts an error response (R426). -/
def traceWrite (s : State) (L : Launch) (d off : Nat) (bs : List Byte) : State :=
  let va := vaOf L.desc.trace + off
  match deviceWrite s d L.ctx va bs with
  | (s1, true) => s1
  | (s1, false) => errorResponse s1 d L.ctx (deviceBad s d L.ctx va bs.length true) (L.desc.trace + BitVec.ofNat 64 off).toNat (some L.id) 4

/-- Offset of a frame slot in the buffer (R390). -/
def frameBase (slot : Nat) : Nat := 4096 * slot

/-- Close the open frame of a core: `fh.used` is written (R390). -/
def closeFrame (s : State) (L : Launch) (core : Nat) : State :=
  match fget L.frames core with
  | none => s
  | some f =>
    modLaunch (traceWrite s L (coreDie core) (frameBase f.slot + 0x0E) (leOf 2 f.used)) L.id fun x =>
      { x with frames := fdel x.frames core }

/-- Open a frame on a core: the header, every other byte zero (R390). -/
def openFrame (s : State) (L : Launch) (core : Nat) : State × Frame :=
  let now := timeOf s core
  let f : Frame := { seq := L.nextFrame, slot := L.nextFrame % L.desc.ntrace, last := now }
  let hdr := recordOf 4096 [(0, 8, now), (8, 4, L.nextFrame), (0x0C, 2, coreField s core), (0x10, 4, fgetD L.lost core 0)]
  (modLaunch (traceWrite s L (coreDie core) (frameBase f.slot) hdr) L.id fun x =>
    { x with nextFrame := (x.nextFrame + 1) % 2 ^ 32, frames := fput x.frames core f, lost := fdel x.lost core }, f)

/-- The bytes of a record at a time, after `last` (R391, R392). -/
def recordBytes (type now last : Nat) (gang payload : List Byte) : List Byte :=
  let delta := now - last
  if delta < 2 ^ 28 - 1 then leOf 1 type ++ deltaBytes 4 delta ++ gang ++ payload
  else leOf 1 1 ++ leOf 8 now ++ leOf 1 type ++ deltaBytes 4 0 ++ gang ++ payload

/-- Append a record to a core's open frame, opening one and closing a full one as needed (R390). -/
def appendRecord (s : State) (L0 : Launch) (core type : Nat) (gang payload : List Byte) : State :=
  let now := timeOf s core
  let s1 :=
    match fget L0.frames core with
    | none => s
    | some f => if 0x20 + f.used + (recordBytes type now f.last gang payload).length ≤ 4096 then s else closeFrame s L0 core
  let L1 := launchD s1 L0.id
  let (s2, f) := match fget L1.frames core with
    | some f => (s1, f)
    | none => openFrame s1 L1 core
  let bs := recordBytes type now f.last gang payload
  modLaunch (traceWrite s2 L0 (coreDie core) (frameBase f.slot + 0x20 + f.used) bs) L0.id fun x =>
    { x with frames := fput x.frames core { f with used := f.used + bs.length, last := now } }

/-- A core drops a record and counts it, saturating (R390). DESIGN CHOICE, log entry 31 (safe). -/
def dropRecord (L : Launch) (core : Nat) : Launch :=
  { L with lost := fput L.lost core (min (fgetD L.lost core 0 + 1) (2 ^ 32 - 1)) }

/-- A record of a launch that is traced: written, or dropped where the core generates records faster than its frames can
be written, which a free value decides (R390). DESIGN CHOICE, log entry 31 (safe). -/
def traceOn (s : State) (launch core type : Nat) (gang payload : List Byte) : State :=
  match launchOf s launch with
  | none => s
  | some L =>
    if L.desc.ntrace = 0 then s
    else
      match pick s 2 with
      | (0, s1) => appendRecord s1 L core type gang payload
      | (_, s1) => modLaunch s1 launch fun x => dropRecord x core

/-- Append a record about a gang. -/
def traceGang (s : State) (g : Gang) (type : Nat) (payload : List Byte) : State :=
  traceOn s g.launch g.core type (gangBytes g) payload

end Sys2Proof.Machine
end

