-- ==== Sys2Proof/Machine/Ops.lean ====
section
/-! DEFINITION. The shared operations of an instruction's life: who issues, how it completes and the gang moves past it
(R50, R51, R118), how a gang comes to wait (R367), taking an exception and returning from one (R355 to R360), and
escalation (R364). -/

namespace Sys2Proof.Machine

/-- The gang whose instruction issues, with its clause. DESIGN CHOICE, log entry 63 (safe). -/
def issuer (s : State) : Option (Gang × ClauseRun) :=
  match s.issuing with
  | none => none
  | some id =>
    match gangOf s id with
    | none => none
    | some g =>
      match g.clause with
      | none => none
      | some c => some (g, c)

/-- The instruction word under way. -/
def instrPc (c : ClauseRun) : Dbl := pcAt c.h c.idx

/-- The clause ends without a transfer, or is skipped (R118): the entry goes on at the next clause. -/
def fallThrough (g : Gang) (h : Dbl) (n : Nat) : Gang :=
  withFrontier { g with clause := none } (replaceTop g [{ topEntry g with pc := nextHeader h n, target := false }])

/-- Past the instruction of a clause: the next one, or the end of the clause (R51, R118). -/
def stepPast (g : Gang) (c : ClauseRun) : Gang :=
  if c.idx + 1 < c.words.length then
    { g with clause := some { c with idx := c.idx + 1, redo := none, counted := false, stream := [], hits := [], retired := false }, wait := .none }
  else fallThrough { g with wait := .none } c.h c.words.length

/-- The gang after an instruction that took its full effect at once: it counts, retires, and the gang moves past it. -/
def completed (g : Gang) (c : ClauseRun) (cls : Cls) : Gang :=
  stepPast (retire (countDone (countUp g c cls) c cls) c) c

/-- The issue is over, with this gang in its new state. -/
def issued (s : State) (g : Gang) : State := { setGang s g with issuing := none }

/-- The gang waits, within its instruction, at a blocking point with a stall reason and a wake condition (R367); the
lanes still to be done are kept. -/
def blockIn (g : Gang) (c : ClauseRun) (lanes : Word) (stall : Nat) (cond : Cond) (now : Nat) : Gang :=
  { g with clause := some { c with redo := some lanes, counted := true }, wait := .blocked stall cond now, gate := none, wakeOrder := none }

/-- Trap vector of a level (R357). -/
def vectorOf (d : Desc) (n : Nat) : Dbl := if n = 1 then d.tvec1 else d.tvec2

/-- `%gstate` takes a value whose fields are in range and whose reserved bits are zero (R260). -/
def gstateOk (v : Word) : Bool :=
  let sw := bits v.toNat 0 7
  let rw := bits v.toNat 8 6
  decide (4 ≤ sw) && decide (sw ≤ 64) && decide (1 ≤ rw) && decide (rw ≤ 32) && (v &&& 0xFFFEC080) == 0

/-- Base of a gang's save area for a level (R359). -/
def saveBase (s : State) (g : Gang) (n : Nat) : Dbl :=
  let d := (launchD s g.launch).desc
  if g.task = 0 then
    d.save + BitVec.ofNat 64 (1024 * ((g.cluster * d.blocks + g.rank) * d.gangs + g.index) + 512 * (n - 1))
  else
    (((taskOf s g.task).map Task.frame).getD 0) - 1024#64 + BitVec.ofNat 64 (512 * (n - 1))

/-- A fault as it is raised: cause, deferred or not, PC, the value of R356, lanes failed and lanes done; and the colour
that a mismatching granule held (R387). -/
structure FaultInfo where
  cause : Nat
  deferred : Bool := false
  pc : Dbl
  loc : Dbl := 0
  lanes : Word := 0
  done : Word := 0
  colour : Nat := 0
  deriving DecidableEq, Repr

/-- The fault record of a level (R358). -/
def FaultInfo.record (f : FaultInfo) : FaultRec :=
  { cause := BitVec.ofNat 32 (f.cause + if f.deferred then 256 else 0), pc := f.pc.lo, pch := f.pc.hi,
    loc := f.loc.lo, loch := f.loc.hi, lanes := f.lanes, done := f.done }

/-- A trap enters level n (R357): the record, the banked state, the handler's frontier, and the banked pair of R359 in
every lane. -/
def trapGang (s : State) (g : Gang) (f : FaultInfo) (b : Bank) : Gang :=
  let n := g.level + 1
  let d := (launchD s g.launch).desc
  let base := saveBase s g n
  let g1 : Gang := { g with
    threads := mapLanesFrom allLanes (fun l t => setSave n t (base + BitVec.ofNat 64 (16 * l))) 0 g.threads,
    level := n, clause := none, fetched := none, pending := none, wait := .none, under := .none, record := none, ready := none, gate := none }
  let kept := { b with under := g.under, record := g.record, ready := g.ready }
  let g2 : Gang := if n = 1 then { g1 with rec1 := f.record, bank1 := some kept } else { g1 with rec2 := f.record, bank2 := some kept }
  withFrontier g2 [{ pc := BitVec.ofNat 64 ((vectorOf d n).toNat % 2 ^ 60), prio := 63, mask := (topEntry g).mask, target := true }]

/-- The launch begins to end with a status (R97 step 1): it leaves LEASE_WAIT or READY, and places no further cluster.
What decided first stands. -/
def beginEnd (s : State) (id status cause : Nat) (pc loc : Dbl) : State :=
  modLaunch s id fun L =>
    if L.ending.isSome || L.state == .done then L
    else { L with ending := some status, cause := cause, pc := pc, loc := loc }

/-- The kill record of an escalation (R364). DEDUCED, log entry 49 (safe). -/
def killRecord (s : State) (g : Gang) (f : FaultInfo) : List Byte :=
  recordOf 64 [(0, 8, (launchD s g.launch).addr.toNat), (8, 4, g.cluster), (0x0C, 4, g.task.toNat), (0x10, 1, g.rank),
    (0x11, 1, g.index), (0x12, 1, g.rec1.cause.toNat), (0x13, 1, g.rec2.cause.toNat),
    (0x14, 2, f.cause + if f.deferred then 256 else 0), (0x18, 4, g.rec1.pc.toNat), (0x1C, 4, g.rec1.pch.toNat),
    (0x20, 4, g.rec2.pc.toNat), (0x24, 4, g.rec2.pch.toNat), (0x28, 8, f.pc.toNat), (0x30, 8, f.loc.toNat),
    (0x38, 4, f.lanes.toNat)]

/-- A trappable fault that cannot enter a level (R364): the gang stops at once, its launch ends with KILLED, and the kill
record waits for the launch's end (R415 step 1). -/
def escalate (s : State) (g : Gang) (f : FaultInfo) : State :=
  let s1 := beginEnd (setGang s { g with wait := .stopped, pending := none, gate := none }) g.launch 8 0x7F f.pc f.loc
  modLaunch s1 g.launch fun L => if L.kill.isSome then L else { L with kill := some (killRecord s g f) }

/-- The tag record of a mismatch that faults (R387); that of a deferred fault is written when the copy meets it.
DEDUCED, log entry 33 (unsafe). -/
def traceTag (s : State) (g : Gang) (f : FaultInfo) : State :=
  if f.cause = 0x14 ∧ f.deferred = false then traceGang s g 6 (leOf 8 f.loc.toNat ++ leOf 1 f.colour ++ leOf 1 0) else s

/-- TAKING AN EXCEPTION: a trappable fault enters the next level when there is one and its vector is not 0, and escalates
otherwise (R357, R364). The issue, if there was one, is over. -/
def takeTrap (s : State) (g : Gang) (f : FaultInfo) (b : Bank) : State :=
  let s0 := traceTag { s with issuing := none } g f
  if g.level < 2 ∧ vectorOf (launchD s g.launch).desc (g.level + 1) ≠ 0 then
    traceGang (setGang s0 (trapGang s g f b)) g 5
      (leOf 2 (f.cause + if f.deferred then 256 else 0) ++ leOf 1 (g.level + 1) ++ leOf 8 f.pc.toNat)
  else escalate s0 g f

/-- What is banked when an instruction faults: the clause at that instruction, with the mask it ran under. -/
def bankAt (g : Gang) (c : ClauseRun) : Bank :=
  { frontier := g.frontier, clause := some { c with redo := some (activeMask c), counted := false }, wait := .none,
    copy := none, copyLane := 0 }

/-- The lanes for which the instruction had taken effect before it was executed again (R355, R358); a window fault that is taken again
keeps them too. DESIGN CHOICE, log entry 87 (unsafe). -/
def doneBefore (c : ClauseRun) : Word := c.act &&& ~~~(activeMask c)

/-- A precise trappable fault at the instruction under way (R355). -/
def faultAt (s : State) (g : Gang) (c : ClauseRun) (cause : Nat) (loc : Dbl) (lanes done : Word) : State :=
  takeTrap s g { cause := cause, pc := instrPc c, loc := loc, lanes := lanes, done := done ||| doneBefore c } (bankAt g c)

/-- The fault record and the bank of a level. -/
def recOf (g : Gang) (n : Nat) : FaultRec := if n = 2 then g.rec2 else g.rec1
def bankOf (g : Gang) (n : Nat) : Option Bank := if n = 2 then g.bank2 else g.bank1
def clearBank (g : Gang) (n : Nat) : Gang := if n = 2 then { g with bank2 := none } else { g with bank1 := none }

/-- A wait without the lanes that need it no longer (R360). -/
def Cond.minus (done : Word) : Cond → Cond
  | .unfinished n lanes => .unfinished n (lanes &&& ~~~done)
  | .invisible n lanes => .invisible n (lanes &&& ~~~done)
  | .sealRoom lanes => .sealRoom (lanes &&& ~~~done)
  | c => c

/-- The lanes for which `tret` performs a banked instruction again: those of the clause's mask, or of the wait that it resumes, that are
not in `%tdone` (R360). -/
def againMask (b : Bank) (c : ClauseRun) (done : Word) : Word := (if b.wait = .none then c.act else activeMask c) &&& ~~~done

/-- The class of the instruction under way (R53). -/
def clsAt (c : ClauseRun) : Cls :=
  match decodeWord (wordOf c) with
  | .ok i => clsOf i
  | .error _ => .none

/-- THE RETURN FROM AN EXCEPTION (R360): the handler's frontier goes; the banked frontier, position and wait come back;
the lanes in `%tdone` of the level left are not done again, and where none is left the instruction is complete.
DEDUCED, log entry 56 (unsafe). -/
def leaveTrap (g : Gang) (b : Bank) : Gang :=
  let n := g.level
  let g1 := clearBank (withFrontier { g with
    level := n - 1, clause := none, fetched := none, pending := none, wait := .none, under := b.under, record := b.record, ready := b.ready } b.frontier) n
  match b.clause, b.wait with
  | none, w => { g1 with wait := w }
  | some c, .blocked st .resumed t => { g1 with clause := some c, wait := .blocked st .resumed t }
  | some c, w =>
    if b.late then { g1 with clause := some c, wait := w } else
    let again := againMask b c (recOf g n).done
    if again = 0 then
      stepPast (retire { (if c.counted then countDone g1 c (clsAt c) else g1) with record := none, ready := none } c) c
    else { g1 with clause := some { c with redo := some again }, wait := b.wait.mapCond (Cond.minus (recOf g n).done),
                   record := b.record.filter fun r => inMask again r.1, ready := b.ready.filter fun r => inMask again r.lane }

/-- The part of an instruction shared by all: the gang that issues, the wait of R53 when its flag is at 63, and the waits for
outstanding accesses of the gang (R54, R320, R321, R396). DESIGN CHOICE, log entry 63 (safe). -/
def issue (s : State) (cls : Cls) (k : Gang → ClauseRun → State) : Host.Outcome State Fault Refusal :=
  match issuer s with
  | none => .fault .noIssuer
  | some (g, c) => if flagFull g c cls || (heldAt s g c).isSome then .next { s with issuing := none } else .next (k g c)

/-- An instruction whose whole effect is a change of its gang (R138): the window check of its operands in the active
lanes, all or nothing; then the change, and the gang moves past it. -/
def issueGang (s : State) (cls : Cls) (os : List Opnd) (f : Gang → Word → Gang) : Host.Outcome State Fault Refusal :=
  issue s cls fun g c =>
    match windowFail g (activeMask c) os with
    | some (i, lanes) => faultAt s g c 0x03 (BitVec.ofNat 64 i) lanes 0
    | none => issued s (completed (f g (activeMask c)) c cls)

/-- An instruction that acts in each active lane on that lane alone (R8). -/
def issueLanes (s : State) (cls : Cls) (os : List Opnd) (f : Nat → Thread → Thread) : Host.Outcome State Fault Refusal :=
  issueGang s cls os fun g A => mapLanes A (fun _ t => f g.level t) g

end Sys2Proof.Machine
end

