-- ==== Sys2Proof/Machine/Access.lean ====
section
/-! DEFINITION. Where the pooled and stack apertures lead, and the checks of an access there (R188 to R190, R203, R205). -/

namespace Sys2Proof.Machine

/-- The block of a rank of the gang's cluster. -/
def blockOfRank (s : State) (g : Gang) (rank : Nat) : Option Block :=
  (clusterOf s g.clusterId).bind fun c => (c.blocks[rank]?).bind (blockOf s)

/-- Where a pooled address of a gang leads (R188, R189): none is the aperture-bounds fault. The size of another rank is
looked at only when the access arrives there (R109). -/
def pooledLoc (s : State) (g : Gang) (ea : Dbl) (n : Nat) (arrived : Bool) : Option Loc :=
  let rank := bits ea.toNat 20 4
  let off := bits ea.toNat 0 20
  if bits ea.toNat 24 20 != 0 then none
  else if g.task != 0 then
    if rank == 0 && off + n ≤ g.priv.size then some ⟨.priv g.id, off⟩ else none
  else
    match blockOfRank s g rank with
    | none => none
    | some b =>
      if rank == g.rank || arrived then (if off + n ≤ b.pad.size then some ⟨.scratch b.id, off⟩ else none)
      else some ⟨.scratch b.id, off⟩

/-- Where a stack address of a lane leads (R190). -/
def stackLoc (g : Gang) (lane : Nat) (ea : Dbl) (n : Nat) : Option Loc :=
  let named := bit ea.toNat 25
  let ln := bits ea.toNat 20 5
  let off := bits ea.toNat 0 20
  let slabLane := if named then ln else lane
  if bits ea.toNat 26 18 != 0 || (!named && ln != 0) then none
  else if g.slab < off + n || inSpillSlot g slabLane off n then none
  else some ⟨.stack g.id, slabLane * 2 ^ 20 + off⟩

/-- Where an address of either on-core aperture leads; the global window leads nowhere here. -/
def onCoreLoc (s : State) (g : Gang) (lane : Nat) (ea : Dbl) (n : Nat) (arrived : Bool) : Option Loc :=
  match apertureOf ea with
  | .pooled => pooledLoc s g ea n arrived
  | .stack => stackLoc g lane ea n
  | .global => none

/-- The first granule of an on-core range whose colour does not match, where the launch tags (R202, R203). -/
def spaceColourBad (s : State) (l : Loc) (n colour : Nat) : Option Nat :=
  if (spaceOf s l.place).tagged then
    (granules l.off n).find? fun k => !(colour == colourAt s ⟨l.place, k * 16⟩ && colour != 15)
  else none

/-- What a lane's access meets at its on-core target (R205 stage 2): the place, or the cause, the first faulting byte and
the colour held there. -/
def arriveOnCore (s : State) (g : Gang) (lane : Nat) (ea : Dbl) (n : Nat) (reads colour : Bool) : Except LaneFail Loc :=
  match onCoreLoc s g lane ea n true with
  | none => .error ⟨lane, 0x15, ea, 0⟩
  | some l =>
    match (if colour then spaceColourBad s l n (colourOf ea) else none) with
    | some k => .error ⟨lane, 0x14, ea + BitVec.ofNat 64 (k * 16 - l.off), colourAt s ⟨l.place, k * 16⟩⟩
    | none =>
      match (if reads then poisonFirst s l n else none) with
      | some k => .error ⟨lane, 0x60, ea + BitVec.ofNat 64 (k * 16 - l.off), 0⟩
      | none => .ok l

/-- Stage 1 of an access (R196 checks 1 to 3, R205, R251): canonical, aligned, an aperture allowed, own bounds. -/
def stage1 (s : State) (g : Gang) (lane : Nat) (base : Dbl) (off : Int) (n : Nat) (aligned : Nat) (pooled stack global : Bool) :
    Except LaneFail Dbl :=
  match effAddr base off with
  | none => .error ⟨lane, 0x13, shownAddr base off, 0⟩
  | some ea =>
    if ea.toNat % aligned != 0 then .error ⟨lane, 0x16, ea, 0⟩
    else
      match apertureOf ea with
      | .global => if global then .ok ea else .error ⟨lane, 0x15, ea, 0⟩
      | .pooled => if pooled && (pooledLoc s g ea n false).isSome then .ok ea else .error ⟨lane, 0x15, ea, 0⟩
      | .stack => if stack && (stackLoc g lane ea n).isSome then .ok ea else .error ⟨lane, 0x15, ea, 0⟩

/-- The failing lanes among results per lane. -/
def failsOf {α : Type} : List (Except LaneFail α) → List LaneFail
  | [] => []
  | .error e :: r => e :: failsOf r
  | .ok _ :: r => failsOf r

/-- The failure that governs (R205, R365): the lowest lane with 0x12 or 0x60 if any lane has one, else the lowest lane. -/
def governing (fs : List LaneFail) : Option LaneFail :=
  match fs.find? fun f => f.cause == 0x12 || f.cause == 0x60 with
  | some f => some f
  | none => fs.head?

/-- The lanes that failed. -/
def failMask (fs : List LaneFail) : Word := maskOf (fs.map LaneFail.lane)

end Sys2Proof.Machine
end

