-- ==== Sys2Proof/Machine/Alu.lean ====
section
/-! DEFINITION. The values that the integer instructions compute (R140 to R148), as functions of their operand values. -/

namespace Sys2Proof.Machine

/-- R140, R141: shifts by a whole 32-bit amount. -/
def shlW (a b : Word) : Word := if b.toNat < 32 then a <<< b.toNat else 0
def shrW (a b : Word) : Word := if b.toNat < 32 then a >>> b.toNat else 0
def sarW (a b : Word) : Word := a.sshiftRight (min b.toNat 31)
/-- R140: rotates take the amount modulo 32. -/
def rolW (a b : Word) : Word := a.rotateLeft (b.toNat % 32)
def rorW (a b : Word) : Word := a.rotateRight (b.toNat % 32)

/-- Bits of a word from the least significant. -/
def bitsUp (a : Word) : List Bool := lanes32.map a.getLsbD

/-- The length of the run of zero bits at the head of a list. -/
def zeroRun : List Bool → Nat
  | [] => 0
  | b :: bs => if b then 0 else zeroRun bs + 1

/-- R140: counts of bits, and the reversal. -/
def clzW (a : Word) : Word := BitVec.ofNat 32 (zeroRun (bitsUp a).reverse)
def ctzW (a : Word) : Word := BitVec.ofNat 32 (zeroRun (bitsUp a))
def popcW (a : Word) : Word := BitVec.ofNat 32 ((bitsUp a).filter id).length
def brevW (a : Word) : Word := maskOf ((lanesOf a).map fun i => 31 - i)

/-- R140: absolute value, wrapping. -/
def absW (a : Word) : Word := wrap32 (a.toInt.natAbs : Int)
def minS (a b : Word) : Word := if a.toInt ≤ b.toInt then a else b
def maxS (a b : Word) : Word := if a.toInt ≥ b.toInt then a else b
def minN (a b : Word) : Word := if a.toNat ≤ b.toNat then a else b
def maxN (a b : Word) : Word := if a.toNat ≥ b.toNat then a else b

/-- R142: products. -/
def mulD (a b : Word) : Dbl := wrap64 (a.toInt * b.toInt)
def mulH (a b : Word) : Word := (mulD a b).hi
def mulHN (a b : Word) : Word := BitVec.ofNat 32 (a.toNat * b.toNat / 2 ^ 32)
def shlDbl (a : Dbl) (b : Word) : Dbl := if b.toNat < 64 then a <<< b.toNat else 0
def shrDbl (a : Dbl) (b : Word) : Dbl := if b.toNat < 64 then a >>> b.toNat else 0

/-- R143: quotient and remainder of signed operands. -/
def quoS (a b : Word) : Word := if b = 0 then 0xFFFFFFFF else wrap32 (a.toInt.tdiv b.toInt)
def remS (a b : Word) : Word := if b = 0 then a else wrap32 (a.toInt.tmod b.toInt)
/-- R143: quotient and remainder of natural operands. -/
def quoN (a b : Word) : Word := if b = 0 then 0xFFFFFFFF else BitVec.ofNat 32 (a.toNat / b.toNat)
def remN (a b : Word) : Word := if b = 0 then a else BitVec.ofNat 32 (a.toNat % b.toNat)

/-- R144: the field's position and length. -/
def fieldPos (b : Word) : Nat := bits b.toNat 0 8
def fieldLen (b : Word) : Nat := min (bits b.toNat 8 8) 32
def bfeN (a b : Word) : Word := BitVec.ofNat 32 (bits a.toNat (fieldPos b) (fieldLen b))
/-- R144: bits beyond the word are copies of bit 31. -/
def bfeS (a b : Word) : Word :=
  if fieldLen b = 0 then 0
  else wrap32 (sext (wrapN (fieldLen b) (a.toInt / 2 ^ fieldPos b)) (fieldLen b))
def fieldMask (b : Word) : Word := BitVec.ofNat 32 ((2 ^ fieldLen b - 1) * 2 ^ fieldPos b)
def bfiW (d a b : Word) : Word := (d &&& ~~~fieldMask b) ||| (BitVec.ofNat 32 (a.toNat * 2 ^ fieldPos b) &&& fieldMask b)

/-- R145: imm12, sign-extended. -/
def imm12S (i : Nat) : Word := wrap32 (sext i 12)
/-- R147: the constants of `movi` and `movhi`. -/
def moviW (i : Nat) : Word := wrap32 (sext i 19)
def movhiW (d : Word) (i : Nat) : Word := (BitVec.ofNat 32 (i * 2 ^ 13)) ||| (d &&& 0x1FFF)

end Sys2Proof.Machine
end

