-- ==== Sys2Proof/Machine/Order.lean ====
section
/-! DEFINITION. Outstanding accesses: which of a thread's accesses may be performed before earlier ones (R309, R311 to R314,
R324), and how one is performed at its target. -/

namespace Sys2Proof.Machine

/-- Bytes of an atomic's target. -/
def atomSize (fn : Nat) : Nat := if fn = 12 then 8 else 4

/-- The new value of a word atomic (R250); `b2` is the register after b. -/
def atomNew (fn : Nat) (old b b2 : Word) : Word :=
  match fn with
  | 0 => old + b
  | 1 => minS old b
  | 2 => maxS old b
  | 3 => minN old b
  | 4 => maxN old b
  | 5 => old &&& b
  | 6 => old ||| b
  | 7 => old ^^^ b
  | 8 => b
  | 9 => if b.toNat ≤ old.toNat then 0 else old + 1
  | _ => if old = b then b2 else old

/-- What a word or double atomic writes, from what its target holds and its operand: a register, or the pair of `cas` and of
`add.d` (R250). -/
def atomValue (fn : Nat) (old : Nat) (b : Dbl) : Nat :=
  if fn = 12 then (BitVec.ofNat 64 old + b).toNat else (atomNew fn (BitVec.ofNat 32 old) b.lo b.hi).toNat

/-- The value that a load of a size puts into its register (R204). -/
def loadValue (size : Nat) (signed : Bool) (x : Nat) : Word :=
  if signed then wrap32 (sext x (8 * size)) else BitVec.ofNat 32 x

/-! ### Cells -/

/-- The states of a cell (R41). -/
def cellValue : Nat := 0
def cellRunning : Nat := 1
def cellSuspended : Nat := 2
def cellEvaluating : Nat := 3

/-- The bit of the tag byte at which a cell's state stands (R41). -/
def cellShift (pa : Nat) : Nat := if pa % 16 < 8 then 0 else 2
def cellState (s : State) (pa : Nat) : Nat := bits (tagAt s (physLoc pa)) (cellShift pa) 2
def cellPayload (s : State) (pa : Nat) : Dbl := BitVec.ofNat 64 (readNat s (physLoc pa) 8)

/-- The fields of the payload of a cell that is not VALUE (R41). -/
def consumersOf (p : Dbl) : Nat := bits p.toNat 48 16
def waitersOf (p : Dbl) : Nat := bits p.toNat 32 16
def handleOf (p : Dbl) : Word := p.lo

/-- The word that `probe` reads (R343). -/
def probeWord (s : State) (pa : Nat) : Word :=
  let st := cellState s pa
  let p := cellPayload s pa
  BitVec.ofNat 32 ((if st = cellValue then 0 else consumersOf p * 65536) + colourAt s (physLoc pa) * 16
    + (if st != cellValue && (taskOf s (handleOf p)).isSome then 4 else 0) + st)

/-! ### Order -/

/-- An access reads. -/
def Flight.loads (f : Flight) : Bool := f.op.fetches

/-- What an access counts as in the order of a thread (R311): a load; an atomic without return gives no value that could change, and
counts as a relaxed write (R309, R326, R327). -/
def Flight.returns (f : Flight) : Bool := match f.op with | .atom _ ret _ _ _ => ret | op => op.fetches

/-- Bytes of an access. -/
def Flight.size (f : Flight) : Nat :=
  match f.op with
  | .load n _ _ _ _ => n
  | .store n _ _ _ => n
  | .atom fn _ _ _ _ => atomSize fn
  | .bar _ _ _ _ | .tagSet _ | .tagSetr _ _ | .tagGet _ _ => 16
  | _ => 8

/-- Two accesses touch a byte in common. -/
def Flight.meets (e f : Flight) : Bool :=
  e.loc.place == f.loc.place && decide (e.loc.off < f.loc.off + f.size) && decide (f.loc.off < e.loc.off + e.size)

/-- The later of two accesses of one thread to different addresses may be performed first (R311), in the weaker column of
the two (R314). What U adds to R holds under R312 because no instruction issues before the registers it reads are
written. -/
def mayPass (e l : Flight) : Bool :=
  let kind := max e.kind l.kind
  decide (kind = 2) || (decide (kind = 1) && !(e.returns && l.stores))

/-- A load may return bytes of its own thread's earlier store before the store is performed, on R and U pages and in
scratchpad (R309). -/
def forwards (e l : Flight) : Bool :=
  (match e.op with | .store _ _ _ _ => true | _ => false)
    && (match l.op with | .load _ _ _ _ _ => true | _ => false)
    && e.kind != 0 && l.kind != 0

/-- The core that holds a scratchpad. -/
def placeCore (s : State) : Place → Option Nat
  | .scratch b => (blockOf s b).map Block.core
  | _ => none

/-- Both accesses write into the scratchpad of one core other than the gang's own (R324). -/
def sameRemote (s : State) (core : Nat) (e f : Flight) : Bool :=
  e.stores && f.stores && match placeCore s e.loc.place with
    | some k => k != core && placeCore s f.loc.place == some k
    | none => false

/-- An outstanding access, of the same instruction or an earlier one, keeps a later access from being performed (R311, R313,
R320, R324): accesses of a thread to the same bytes keep their order, forwarding apart; and so do those of one instruction's lanes,
the stores of a release, and writes into the scratchpad of one other core. -/
def keepsBack (s : State) (core : Nat) (same : Bool) (e f : Flight) : Bool :=
  if e.lane == f.lane then (if e.meets f then !forwards e f else !mayPass e f || sameRemote s core e f)
  else same && (e.meets f || e.rel || sameRemote s core e f)

/-- The virtual channel on which an access leaves the module (R325, R421): writes to S pages and writes that carry a release have
one of their own. -/
def Flight.channel (f : Flight) : Nat := if f.stores && !f.loads && (f.kind == 0 || f.rel) then channelOrdered else channelRequest

/-- An access can reach its target: it stays on the module, or its channel and that of its answer are free (R325). -/
def Flight.travels (s : State) (f : Flight) : Bool :=
  match f.loc.place with
  | .phys => linkOpen s f.loc.off f.channel && linkOpen s f.loc.off channelResponse
  | _ => true

/-- An access that follows these outstanding ones can be performed now; `i` is the place of its instruction. -/
def performable (s : State) (core : Nat) (earlier : List (Nat × Flight)) (i : Nat) (f : Flight) : Bool :=
  f.travels s && !(earlier.any fun x => keepsBack s core (x.1 == i) x.2 f)

/-! ### Performing -/

/-- A byte of a store of the thread that has not been performed yet, or else the byte at its place (R205, R309). -/
def ownByte (s : State) (es : List Flight) (l : Loc) : Byte :=
  match es.reverse.find? fun e => e.loc.place == l.place && decide (e.loc.off ≤ l.off) && decide (l.off < e.loc.off + e.size) with
  | some e => BitVec.ofNat 8 (e.data / 256 ^ (l.off - e.loc.off))
  | none => readByte s l

/-- What a load of a lane reads: what stands at the place, under its own thread's earlier stores still outstanding. -/
def readOwn (s : State) (earlier : List (Nat × Flight)) (lane : Nat) (l : Loc) (n : Nat) : Nat :=
  match (earlier.map Prod.snd).filter fun e => e.lane == lane && e.stores && !e.loads with
  | [] => readNat s l n
  | es => natOf ((List.range n).map fun i => ownByte s es ⟨l.place, l.off + i⟩)

/-- Write physical registers with consecutive words of a number. -/
def putPhys (x : Nat) : List Nat → Thread → Thread
  | [], t => t
  | r :: rs, t => putPhys (x / 2 ^ 32) rs (wrPhys t r (BitVec.ofNat 32 x))

/-- A write of an outstanding access performed at its place (R200): through the entry that translated it where that still stands,
and otherwise with the dirty bit of its leaf set at once. -/
def writePlace (s : State) (g : Gang) (f : Flight) (bs : List Byte) : State :=
  let s1 := writeBytes s f.loc bs
  match f.loc.place, f.leaf with
  | .phys, some (at_, e) =>
    if (found s1 (.core g.core) (launchD s g.launch).ctx (vaOf f.ea)).any fun x => paOf x.leaf x.size (vaOf f.ea) == f.loc.off then
      markDirty s1 (.core g.core) (launchD s g.launch).ctx (vaOf f.ea) f.loc.off
    else if leafDirty e then s1
    else writeNat s1 (physLoc at_) 8 ((BitVec.ofNat 64 (readNat s1 (physLoc at_) 8) ||| 0x800#64).toNat)
  | _, _ => s1

/-- What an outstanding access does when it is performed (R205, R250, R343, R386), and what it adds to the store stream (R397). -/
def performFlight (s : State) (g : Gang) (earlier : List (Nat × Flight)) (f : Flight) :
    State × List (Nat × Nat × Nat × Nat) :=
  let put := fun (t : State) (x : Nat) => modGang t g.id fun y => modThread y f.lane (putPhys x f.dst)
  match f.op with
  | .load size _ signed _ _ =>
    let x := readOwn s earlier f.lane f.loc size
    (put s (if size ≤ 4 then (loadValue size signed x).toNat else x), [])
  | .store size _ _ _ => (writePlace s g f (leOf size f.data), [])
  | .atom fn ret _ _ _ =>
    let n := atomSize fn
    let old := readNat s f.loc n
    let new := atomValue fn old (BitVec.ofNat 64 f.data)
    let s1 := writePlace s g f (leOf n new)
    (if ret then put s1 old else s1, [(f.lane, f.ea.toNat, n, new)])
  | .probe _ _ => (put s (probeWord s f.loc.off).toNat, [])
  | .tagGet _ _ => (put s (tagAt s f.loc &&& f.data), [])
  | _ => (s, [])

/-- An access has been performed: it is outstanding no longer, and what it wrote joins its instruction's stream. -/
def Passed.without (p : Passed) (f : Flight) (st : List (Nat × Nat × Nat × Nat)) : Passed :=
  { p with flights := p.flights.erase f, stream := st.foldr streamIn p.stream }

/-- The accesses of an instruction that the gang has moved past have all been performed: its flag falls (R53), and what can
retire does (R396). -/
def settlePassed (g : Gang) (p : Passed) : Gang :=
  retireHead g.passed (match p.flights.isEmpty, p.flag with
    | true, some k => { g with completing := g.completing ++ [k] }
    | _, _ => g)

/-- Take an access off the list of the instruction in place i. -/
def takeFlight (g : Gang) (i : Nat) (f : Flight) (st : List (Nat × Nat × Nat × Nat)) : Gang :=
  match g.passed[i]? with
  | some p => settlePassed { g with passed := setAt g.passed i (p.without f st) } (p.without f st)
  | none => { g with
      pending := g.pending.map fun p => { p with flights := p.flights.erase f },
      clause := g.clause.map fun c => { c with stream := st.foldr streamIn c.stream } }

/-- The k-th outstanding access of a gang is performed, if nothing keeps it back. -/
def performNth (s : State) (id k : Nat) : State :=
  match gangOf s id with
  | none => s
  | some g =>
    match (outstanding g)[k]? with
    | none => s
    | some (i, f) =>
      let earlier := (outstanding g).take k
      if performable s g.core earlier i f then
        let (s1, st) := performFlight s g earlier f
        modGang s1 id fun x => takeFlight x i f st
      else s

/-- The outstanding accesses of a gang that can be performed now, by their places in the list. -/
def readyFlights (s : State) (g : Gang) : List Nat :=
  (List.range (outstanding g).length).filter fun k =>
    match (outstanding g)[k]? with
    | some (i, f) => performable s g.core ((outstanding g).take k) i f
    | none => false

/-- The oldest n outstanding accesses of a gang are performed in their order. -/
def drainLoop (id : Nat) : Nat → State → State
  | 0, s => s
  | n + 1, s =>
    match (gangOf s id).map fun g => (g, outstanding g) with
    | some (g, (i, f) :: _) =>
      let (s1, st) := performFlight s g [] f
      drainLoop id n (modGang s1 id fun x => takeFlight x i f st)
    | _ => s

/-- Everything that a gang has outstanding is performed, in order, before what follows. -/
def drainGang (s : State) (id : Nat) : State := drainLoop id (((gangOf s id).map fun g => (outstanding g).length).getD 0) s

/-- Every gang with an outstanding access that satisfies p performs what it has outstanding. -/
def drainWhere (s : State) (p : Gang → Flight → Bool) : State :=
  (s.gangs.filter fun g => (outstanding g).any fun x => p g x.2).foldl (fun t g => drainGang t g.id) s

end Sys2Proof.Machine
end

