-- ==== Sys2Proof/Machine/Log.lean ====
section
/-! DEFINITION. Record and replay (R398 to R402, R411 to R413): arbitration units, chunks, gates, sync records and
divergences. -/

namespace Sys2Proof.Machine

/-- A gang's 20-bit id (R398). -/
def gangLogId (s : State) (g : Gang) : Nat :=
  if g.task = 0 then
    let d := (launchD s g.launch).desc
    (g.cluster * d.blocks + g.rank) * d.gangs + g.index
  else 0x80000 + ((taskOf s g.task).map Task.ordinal).getD 0

/-- The unit word and the `ch.where` of an arbitration unit (R399, R400). -/
structure UnitId where
  word : Nat
  place : Nat
  deriving DecidableEq, Repr

/-- L2 slices of a die (R11). -/
def slicesOf (die : Nat) : Nat := if die % 2 = 0 then 80 else 48

/-- The atomic unit of the slice that homes a physical address. -/
def sliceUnit (pa : Nat) : UnitId :=
  let die := pa / 2 ^ 46
  ⟨2 ^ 28 + die * 2 ^ 22 + Config.l2Slice (pa / 128) % slicesOf die, 0⟩

/-- The atomic unit of a scratchpad bank: the core's die, the rank, the granule index mod 32; `ch.where` is `%cluster`. -/
def bankUnit (s : State) (core rank cluster off : Nat) : UnitId :=
  ⟨2 * 2 ^ 28 + dieId s (coreDie core) * 2 ^ 22 + rank * 2 ^ 18 + off / 16 % 32, cluster⟩

/-- The unit that serialises an operation of a gang at a place: none for a stack slab. -/
def unitAt (s : State) (g : Gang) (l : Loc) : Option UnitId :=
  match l.place with
  | .phys => some (sliceUnit l.off)
  | .scratch b => (blockOf s b).map fun k => bankUnit s k.core k.rank g.cluster l.off
  | .priv _ => some (bankUnit s g.core 0 g.cluster l.off)
  | .stack _ => none

/-- The launch's spawn counter. -/
def spawnUnit (s : State) (L : Launch) : UnitId := ⟨3 * 2 ^ 28 + dieId s L.die * 2 ^ 22, 0⟩

def modLog (s : State) (id : Nat) (f : RLog → RLog) : State := modLaunch s id fun L => { L with log := f L.log }

/-- The bytes of a chunk (R400, R411). -/
def chunkBytes (c : Chunk) : List Byte :=
  let body : List Byte :=
    if c.unit / 2 ^ 28 = 4 then c.syncs.flatten
    else c.runs.flatMap fun r => leOf 4 (r.1 * 4096 + r.2)
  let n := if c.unit / 2 ^ 28 = 4 then c.syncs.length else c.runs.length
  leOf 4 c.unit ++ leOf 4 c.place ++ leOf 4 c.seq ++ leOf 2 n ++ leOf 2 0 ++ body ++ List.replicate (240 - body.length) 0

/-- Close a chunk: it takes the next chunk index (R411), or the log is full (R400). Bytes that cannot be written are
lost, and logging stops (R426). -/
def closeChunk (s : State) (L : Launch) (c : Chunk) : State :=
  let put := fun (r : RLog) => { r with chunks := r.chunks.map fun x =>
    if x.unit = c.unit ∧ x.place = c.place then { x with seq := x.seq + 1, runs := [], syncs := [] } else x }
  if L.log.full then modLog s L.id put
  else if L.desc.nrlog < 256 * (L.log.written + 2) then modLog s L.id fun r => { put r with full := true }
  else
    match deviceWrite s L.die L.ctx (vaOf L.desc.rlog + 256 * (L.log.written + 1)) (chunkBytes c) with
    | (s1, true) => modLog s1 L.id fun r => { put r with written := r.written + 1 }
    | (s1, false) =>
      let off := 256 * (L.log.written + 1)
      errorResponse (modLog s1 L.id fun r => { put r with full := true }) L.die L.ctx
        (deviceBad s L.die L.ctx (vaOf L.desc.rlog + off) 256 true) (L.desc.rlog + BitVec.ofNat 64 off).toNat (some L.id) 4

/-- The open chunk of a unit. -/
def chunkOf (r : RLog) (u : UnitId) : Option Chunk := r.chunks.find? fun c => c.unit == u.word && c.place == u.place

/-- The chunk of a unit, opened if there is none. -/
def openChunk (s : State) (id : Nat) (u : UnitId) : State :=
  modLog s id fun r =>
    if (chunkOf r u).isSome then r else { r with chunks := r.chunks ++ [{ unit := u.word, place := u.place, seq := 0 }] }

/-- One more operation of a gang in a unit's runs; none where the chunk has no room for it (R399, R400). -/
def addRun (gid : Nat) (c : Chunk) : Option Chunk :=
  match c.runs.getLast? with
  | some (g, n) =>
    if g = gid ∧ n < 4095 then some { c with runs := c.runs.dropLast ++ [(g, n + 1)] }
    else if c.runs.length < 60 then some { c with runs := c.runs ++ [(gid, 1)] } else none
  | none => some { c with runs := [(gid, 1)] }

def putChunk (s : State) (id : Nat) (c : Chunk) : State :=
  modLog s id fun r => { r with chunks := r.chunks.map fun x => if x.unit = c.unit ∧ x.place = c.place then c else x }

/-- A chunk of runs can take no further operation (R399, R400). -/
def Chunk.filled (c : Chunk) : Bool := decide (60 ≤ c.runs.length) && (c.runs.getLast?.map fun r => r.2 == 4095).getD false

/-- A chunk takes a run; it closes when that fills it (R411). -/
def putRun (s : State) (id : Nat) (c : Chunk) : State :=
  if c.filled then closeChunk (putChunk s id c) (launchD s id) c else putChunk s id c

/-- Record one operation admitted at a unit (R399). -/
def recordRun (s : State) (id : Nat) (u : UnitId) (gid : Nat) : State :=
  let s1 := openChunk s id u
  match chunkOf (launchD s1 id).log u with
  | none => s1
  | some c =>
    match addRun gid c with
    | some c' => putRun s1 id c'
    | none =>
      let s2 := closeChunk s1 (launchD s1 id) c
      match (chunkOf (launchD s2 id).log u).bind (addRun gid) with
      | some c' => putRun s2 id c'
      | none => s2

/-- A sync record (R399). -/
def syncRecord (s : State) (g : Gang) (op fn : Nat) : List Byte :=
  recordOf 32 [(0, 1, op), (1, 1, fn), (4, 4, gangLogId s g), (8, 8, g.retcnt), (0x10, 8, g.sthash.toNat),
    (0x18, 8, timeOf s g.core)]

/-- Log a sync record: a kind-4 chunk names the die on which its first record was retired, and closes with its seventh
record (R400, R411). -/
def recordSync (s : State) (g : Gang) (op fn : Nat) : State :=
  let gid := gangLogId s g
  let L := launchD s g.launch
  let open_ := L.log.chunks.find? fun c => c.unit / 2 ^ 28 == 4 && c.place == gid
  let die := dieId s (coreDie g.core)
  let c : Chunk := match open_ with
    | some c => if c.syncs.isEmpty then { c with unit := 4 * 2 ^ 28 + die * 2 ^ 22 } else c
    | none => { unit := 4 * 2 ^ 28 + die * 2 ^ 22, place := gid, seq := 0 }
  let c' := { c with syncs := c.syncs ++ [syncRecord s g op fn] }
  let s1 := modLog s g.launch fun r =>
    { r with chunks := (r.chunks.filter fun x => !(x.unit / 2 ^ 28 == 4 && x.place == gid)) ++ [c'] }
  if c'.syncs.length < 7 then s1 else closeChunk s1 (launchD s1 g.launch) c'

/-- A word of the replay log, read as a device access; 0 where it cannot be read. -/
def logWord (s : State) (L : Launch) (off n : Nat) : Nat :=
  match walk s L.die L.ctx (vaOf L.desc.rlog + off) with
  | .leaf _ e size => readNat s (physLoc (paOf e size (vaOf L.desc.rlog + off))) n
  | _ => 0

/-- The pages of the log area can be read. -/
def logReached (s : State) (L : Launch) : Bool := deviceReach s L.die L.ctx (vaOf L.desc.rlog) L.desc.nrlog false

/-- The log area can be read, and no request for it awaits its answer; otherwise the access waits for the area (R426). -/
def logReadable (s : State) (L : Launch) : Bool := !areaAsked s L.id 0xF5 && logReached s L

/-- A request for the log area is still to be posted, and can be (R418, R426); a launch that is ending asks no more. -/
def mustAskLog (s : State) (L : Launch) : Bool :=
  L.desc.replaying && L.ending.isNone && !L.log.diverged && !areaAsked s L.id 0xF5 && !logReached s L && eventRoom s L.die

/-- An operation waits at a gate that cannot read the log: a request for it is posted (R426). -/
def needLog (s : State) (g : Gang) : State :=
  let L := launchD s g.launch
  if L.desc.replaying && L.ending.isNone && !L.log.diverged && !logReadable s L then
    needArea s g.launch 0xF5 L.die L.desc.rlog L.desc.nrlog false
  else s

/-- The entries of a unit in the log, over the chunk indices from i on (R400). -/
def unitEntries (s : State) (L : Launch) (p : Nat → Nat → Bool) (words : Nat) : Nat → Nat → List Nat
  | 0, _ => []
  | k + 1, i =>
    let base := 256 * (i + 1)
    (if p (logWord s L base 4) (logWord s L (base + 4) 4) then
      (List.range (logWord s L (base + 0x0C) 2)).map fun j => base + 0x10 + words * j
    else []) ++ unitEntries s L p words k (i + 1)

def logChunks (s : State) (L : Launch) : Nat := min (logWord s L 4 4) (L.desc.nrlog / 256 - 1)

/-- The gang that a unit's log names for the operation after `k` admissions (R401). -/
def runAt : List (Nat × Nat) → Nat → Option Nat
  | [], _ => none
  | (g, n) :: r, k => if k < n then some g else runAt r (k - n)

/-- The address of the log's first granule under an uncorrectable error that a read of it meets (R372, R426). -/
def logPoison (s : State) (L : Launch) (off n : Nat) : Option Dbl :=
  match walk s L.die L.ctx (vaOf L.desc.rlog + off) with
  | .leaf _ e size =>
    if poisonedAt s (physLoc (paOf e size (vaOf L.desc.rlog + off))) n then some (L.desc.rlog + BitVec.ofNat 64 off) else none
  | _ => none

/-- The error that the search for a unit's entries meets in one chunk: in its header, or in the entries of that unit. -/
def chunkPoison (s : State) (L : Launch) (p : Nat → Nat → Bool) (words base : Nat) : Option Dbl :=
  match logPoison s L base 16 with
  | some va => some va
  | none =>
    if p (logWord s L base 4) (logWord s L (base + 4) 4) then
      (List.range ((words * logWord s L (base + 0x0C) 2 + 15) / 16)).findSome? fun k => logPoison s L (base + 0x10 + 16 * k) 16
    else none

/-- The error that the search of the log for a unit's entries meets. DESIGN CHOICE, log entry 89 (unsafe). -/
def logError (s : State) (L : Launch) (p : Nat → Nat → Bool) (words : Nat) : Option Dbl :=
  match logPoison s L 0 16 with
  | some va => some va
  | none => (List.range (logChunks s L)).findSome? fun i => chunkPoison s L p words (256 * (i + 1))

/-- What a gate says to an operation; `error` where the log cannot be read for an uncorrectable error at an address. -/
inductive Admit where
  | go
  | waits
  | beyond
  | error (va : Dbl)
  deriving DecidableEq, Repr

def gateOf (r : RLog) (u : UnitId) : Option Gate := r.gates.find? fun x => x.unit == u.word && x.place == u.place

/-- An operation waits at this gate. -/
def waitsAt (u : UnitId) : Option (Nat × Nat × Nat × Nat) → Bool
  | some (w, p, _) => w == u.word && p == u.place
  | none => false

/-- The operations that wait at a gate of a launch (R402), those of gangs and the arrivals of engine commands: the core that
issued each, since when, and its order. -/
def gateQueue (s : State) (launch : Nat) (u : UnitId) : List (Nat × Nat × Nat) :=
  let at_ := fun (core : Nat) (x : Option (Nat × Nat × Nat × Nat)) =>
    if waitsAt u x then (x.map fun y => (core, y.2.2.1, y.2.2.2)) else none
  (s.gangs.filter fun g => g.launch == launch).filterMap (fun g => at_ g.core g.gate)
    ++ s.cores.flatMap fun k => (k.2.engine.cmds.filter fun c => c.launch == launch).filterMap fun c => at_ k.1 c.gate

/-- An opened gate admits operations in the order in which they arrived (R402): none that waits there came before. A spawn that waits
at its cell's slice has passed the spawn counter. -/
def inTurn (s : State) (launch : Nat) (u : UnitId) (gate : Option (Nat × Nat × Nat × Nat)) : Bool :=
  let q := (gateQueue s launch u).map fun x => x.2.2
  match gate with
  | some (w, p, _, n) => if w = u.word ∧ p = u.place then q.all fun k => decide (n ≤ k) else u.word / 2 ^ 28 == 3 || q.isEmpty
  | none => q.isEmpty

/-- Whether a unit admits an operation of a gang now (R399, R401, R402): outside replay always, and once a gate has opened in the
order of arrival. A launch that is ending does not wait for a log that it cannot read. -/
def admits (s : State) (g : Gang) (u : UnitId) : Admit :=
  let L := launchD s g.launch
  if !L.desc.replaying then .go
  else if L.log.diverged then (if inTurn s g.launch u g.gate then .go else .waits)
  else if !logReadable s L then (if L.ending.isSome then .go else .waits)
  else
    match logError s L (fun w p => w == u.word && p == u.place) 4 with
    | some va => .error va
    | none =>
      let es := (unitEntries s L (fun w p => w == u.word && p == u.place) 4 (logChunks s L) 0).map fun off =>
        (logWord s L off 4 / 4096, logWord s L off 4 % 4096)
      match runAt es (((gateOf L.log u).map Gate.admitted).getD 0) with
      | none => .beyond
      | some gid => if gid = gangLogId s g then .go else .waits

/-- An operation that a core issued comes to wait at a gate, behind those that wait there (R402); one that waits already keeps
its place. -/
def joinGate (s : State) (launch core : Nat) (u : UnitId) (old : Option (Nat × Nat × Nat × Nat)) : Option (Nat × Nat × Nat × Nat) :=
  if waitsAt u old then old
  else some (u.word, u.place, clkOf s core, ((gateQueue s launch u).map fun x => x.2.2).foldl max 0 + 1)

/-- The count of a gate restarts at an admission (R402). -/
def restartGate (u : UnitId) (s : State) (launch : Nat) : State :=
  let again := fun (core : Nat) (x : Option (Nat × Nat × Nat × Nat)) =>
    if waitsAt u x then x.map fun y => (y.1, y.2.1, clkOf s core, y.2.2.2) else x
  { s with
    gangs := s.gangs.map fun g => if g.launch = launch then { g with gate := again g.core g.gate } else g,
    cores := s.cores.map fun k => (k.1, { k.2 with engine := { k.2.engine with
      cmds := k.2.engine.cmds.map fun c => if c.launch = launch then { c with gate := again k.1 c.gate } else c } }) }

/-- An operation of a gang is admitted at a unit: the log takes it, or the gate counts it (R399, R401). -/
def admitted (s : State) (g : Gang) (u : UnitId) : State :=
  let L := launchD s g.launch
  if L.desc.recording then recordRun s g.launch u (gangLogId s g)
  else if L.desc.replaying && !L.log.diverged then
    let s1 := modLog s g.launch fun r =>
      match gateOf r u with
      | none => { r with gates := r.gates ++ [{ unit := u.word, place := u.place, admitted := 1 }] }
      | some _ => { r with gates := r.gates.map fun x =>
          if x.unit = u.word ∧ x.place = u.place then { x with admitted := x.admitted + 1 } else x }
    restartGate u s1 g.launch
  else s

/-- The divergence record (R402). -/
def divRecord (kind gid ret hash sync unit : Nat) : List Byte :=
  recordOf 32 [(0, 4, kind), (4, 4, gid), (8, 8, ret), (0x10, 8, hash), (0x18, 4, sync), (0x1C, 4, unit)]

/-- The first divergence of a launch (R402, R413): every gate opens, `rh.div` is kept for the launch's end, a record is
written to trace, and system software gets an event of type 9. `who` is the gang that detected it, as trace shows it. -/
def diverge (s : State) (launch core : Nat) (who : List Byte) (kind gid ret hash sync unit : Nat) : State :=
  let L := launchD s launch
  if L.log.diverged then s
  else
    let bs := divRecord kind gid ret hash sync unit
    let s1 := traceOn (modLog s launch fun r => { r with diverged := true, div := bs }) launch core 0x0A who (leOf 4 kind)
    postEvent s1 (coreDie core) 9 L.ctx (some launch)
      [(0x10, 32, natOf bs), (0x30, 8, L.addr.toNat), (0x38, 4, L.take)]

/-- A divergence that a gang detects. -/
def gangDiverges (s : State) (g : Gang) (kind unit : Nat) : State :=
  diverge s g.launch g.core (gangBytes g) kind (gangLogId s g) g.retcnt g.sthash.toNat g.syncs unit

/-- A detecting gang halts as a stop of mode 1 (R380, R402), with the stop event of kind 4; the halt is due until the event can
be posted (R418). DEDUCED, log entry 60 (unsafe). -/
def divergeStop (s : State) (g : Gang) (kind unit : Nat) (pc : Dbl) : State :=
  let s1 := gangDiverges s g kind unit
  if !eventRoom s1 (coreDie g.core) then modGang s1 g.id fun x => { x with freed := true, diverges := some (kind, unit, pc) } else
  let s2 := modGang s1 g.id fun x =>
    { x with wait := .blocked 11 .resumed (timeOf s g.core), under := x.wait, freed := true, diverges := none }
  postGangEvent s2 g 5 pc [(0x38, 1, 4), (0x3A, 2, 0xFFFF)]

/-- The error that a gang's comparison with its next sync record meets in the log (R372, R401). -/
def syncError (s : State) (g : Gang) : Option Dbl :=
  logError s (launchD s g.launch) (fun w p => w / 2 ^ 28 == 4 && p == gangLogId s g) 32

/-- The count and hash of a gang's next sync record, at an ordinal (R401). -/
def nextSync (s : State) (L : Launch) (gid k : Nat) : Option (Nat × Nat) :=
  ((unitEntries s L (fun w p => w / 2 ^ 28 == 4 && p == gid) 32 (logChunks s L) 0)[k]?).map fun off =>
    (logWord s L (off + 8) 8, logWord s L (off + 0x10) 8)

/-- A synchronising operation of a gang has completed, and its gang in the state has retired it (R399, R401, R413): at
level 0 it is recorded, or compared; the comparison waits until the log can be read (R426), and an error that it meets there is
raised after it (R372). -/
def syncPoint (s : State) (id op fn : Nat) (pc : Dbl) : State :=
  match gangOf s id with
  | none => s
  | some g =>
    let L := launchD s g.launch
    if g.level != 0 then s
    else if L.desc.recording then
      modGang (recordSync s g op fn) id fun x => { x with syncs := x.syncs + 1 }
    else if L.desc.replaying && !L.log.diverged then
      if !logReadable s L then modGang (needLog s g) id fun x => { x with compare := some (op, fn, pc) }
      else if (syncError s g).isSome then modGang s id fun x => { x with compare := some (op, fn, pc) }
      else match nextSync s L (gangLogId s g) g.syncs with
      | none => divergeStop s g 5 0 pc
      | some (ret, hash) =>
        let a := ret != g.retcnt
        let b := hash != g.sthash.toNat
        if a || b then divergeStop s g (if a && b then 3 else if a then 1 else 2) 0 pc
        else modGang s id fun x => { x with syncs := x.syncs + 1 }
    else modGang s id fun x => { x with syncs := x.syncs + 1 }

/-- An instruction has taken effect for every lane: if it is a synchronising operation, its record is made (R399, R401),
once. Major and fn stand in bits 31:26 and 25:21. -/
def noteSync (s : State) (id : Nat) (c : ClauseRun) : State :=
  if c.retired then s else
  match decodeWord (wordOf c) with
  | .ok i => if syncInstr i then syncPoint s id (wordOf c / 2 ^ 26) (wordOf c / 2 ^ 21 % 32) (instrPc c) else s
  | .error _ => s

/-- The chunks still open at the end, in ascending `ch.unit`, then `ch.where` (R411). -/
def sortChunks : List Chunk → List Chunk
  | [] => []
  | x :: xs => insert x (sortChunks xs)
where
  /-- Insert by unit and place. -/
  insert (x : Chunk) : List Chunk → List Chunk
    | [] => [x]
    | y :: ys => if x.unit < y.unit ∨ (x.unit = y.unit ∧ x.place ≤ y.place) then x :: y :: ys else y :: insert x ys

def closeChunks (id : Nat) : List Chunk → State → State
  | [], s => s
  | c :: cs, s => closeChunks id cs (closeChunk s (launchD s id) c)

/-- Step 4 of R415: open chunks and the header in record mode; the divergence record in replay mode. A launch in record mode
that was rejected has its header written too. DESIGN CHOICE, log entry 75 (unsafe). -/
def closeLog (s : State) (id : Nat) : State :=
  let L := launchD s id
  if L.desc.recording then
    let s1 := closeChunks id (sortChunks (L.log.chunks.filter fun c => !(c.runs.isEmpty && c.syncs.isEmpty))) s
    let L1 := launchD s1 id
    let hdr := recordOf 256 [(0, 4, 1 + if L1.log.full then 2 else 0), (4, 4, L1.log.written)]
    match deviceWrite s1 L.die L.ctx (vaOf L.desc.rlog) hdr with
    | (s2, true) => s2
    | (s2, false) => errorResponse s2 L.die L.ctx (deviceBad s1 L.die L.ctx (vaOf L.desc.rlog) 256 true)
      L.desc.rlog.toNat (some id) 4
  else if L.desc.replaying && L.log.diverged then
    let st := logWord s L 0 4
    (deviceWrite (deviceWrite s L.die L.ctx (vaOf L.desc.rlog + 0x20) L.log.div).1 L.die L.ctx (vaOf L.desc.rlog)
      (leOf 4 (st ||| 4))).1
  else s

end Sys2Proof.Machine
end

