-- ==== Sys2Proof/Machine/Barriers.lean ====
section
/-! DEFINITION. Barrier objects (R239 to R245), and the generations of the block and cluster barriers with the straggler
budget (R247, R425). -/

namespace Sys2Proof.Machine

/-- A barrier object's fields (R239). -/
structure BarObj where
  phase : Bool
  pending : Nat
  expected : Nat
  bal : Word
  stat : Word
  deriving DecidableEq, Repr

/-- A barrier object as it stands; its reserved bits are ignored (R5, R239). -/
def readBar (s : State) (l : Loc) : BarObj :=
  let ctl := readNat s l 4
  { phase := bit ctl 31, pending := bits ctl 16 15, expected := bits ctl 0 15,
    bal := BitVec.ofNat 32 (readNat s { l with off := l.off + 4 } 4),
    stat := BitVec.ofNat 32 (readNat s { l with off := l.off + 8 } 4) &&& 0xF7 }

def BarObj.ctl (o : BarObj) : Nat := (if o.phase then 2 ^ 31 else 0) + o.pending * 65536 + o.expected
def BarObj.hold (o : BarObj) : Bool := o.stat.getLsbD 1

/-- The flip rule, tested after each change other than `bar.init` (R240). -/
def BarObj.test (o : BarObj) : BarObj :=
  if o.pending = 0 ∧ o.bal = 0 ∧ o.hold = false then
    { o with phase := !o.phase, pending := o.expected, stat := 0 }
  else o

/-- A gang in `bar.wait` on an object whose phase now differs from its bit is woken (R246). -/
def Cond.flipped (l : Loc) (phase : Bool) : Cond → Cond
  | .phase m b w => .phase m b (w || (decide (m = l) && phase != b))
  | c => c

/-- Write a barrier object as one change of its granule, its reserved word zero (R5, R239). A change that does not replace
the whole granule leaves its poison (R372). -/
def writeBar (s : State) (l : Loc) (o : BarObj) : State :=
  let s1 := writeBytes (writeBytes s l (leOf 4 o.ctl ++ leOf 4 o.bal.toNat ++ leOf 4 o.stat.toNat)) { l with off := l.off + 12 } (leOf 4 0)
  { s1 with gangs := s1.gangs.map (Gang.mapConds (Cond.flipped l o.phase)) }

/-- `bar.init` (R245): no flip is tested. -/
def barInit (s : State) (l : Loc) (n : Nat) : State :=
  writeBar (writeBytes s l (leOf 16 0)) l { phase := false, pending := n, expected := n, bal := 0, stat := 0 }

/-- An arrival, with the result word of R245: flip << 2 | over << 1 | old phase. -/
def barArrive (s : State) (l : Loc) (hold : Bool) : State × Word :=
  let o := readBar s l
  let ov := o.pending == 0
  let o1 : BarObj := { o with pending := o.pending - 1,
                              stat := o.stat ||| (if ov then 4 else 0) ||| (if hold then 2 else 0) }
  let o2 := o1.test
  (writeBar s l o2, BitVec.ofNat 32 ((if o2.phase != o.phase then 4 else 0) + (if ov then 2 else 0) + (if o.phase then 1 else 0)))

/-- The balance changes by v (R225, R241, R245): a rise clears hold; a change of 0 changes nothing. -/
def barAdd (s : State) (l : Loc) (v : Int) : State :=
  if v = 0 then s
  else
    let o := readBar s l
    writeBar s l ({ o with bal := o.bal + wrap32 v, stat := if 0 < v then o.stat &&& ~~~2#32 else o.stat } : BarObj).test

/-- A copy that counts here stopped at a fault (R233): short, and the channel of the first fault. -/
def barShort (s : State) (l : Loc) (chan : Nat) : State :=
  let o := readBar s l
  writeBar s l ({ o with stat := if o.stat.getLsbD 0 then o.stat
                                 else (o.stat &&& ~~~0xF0#32) ||| 1 ||| BitVec.ofNat 32 (chan * 16) } : BarObj).test

/-- The gangs of a block that have not exited (R247): exited gangs have left the state. -/
def liveGangs (s : State) (b : Nat) : List Nat := (gangsOfBlock s b).map Gang.id

/-- A gang waits at a barrier whose generation has completed. -/
def Gang.passedBarrier (g : Gang) : Bool :=
  match g.wait with
  | .blocked _ (.blkGen true) _ | .blocked _ (.cluGen true) _ => true
  | _ => false

/-- `bar.blk` and `bar.clu` complete for a gang when the generation does: the instruction retires, and is recorded or compared,
then (R399, R413). -/
def syncBarrier (s : State) (id : Nat) : State :=
  match gangOf s id with
  | none => s
  | some g =>
    match g.clause with
    | some c =>
      if g.passedBarrier && !c.retired then
        noteSync (setGang s { retire g c with clause := some { c with retired := true } }) id c
      else s
    | none => s

/-- Gangs in ascending gang id: of two that detect a divergence at once, the lower is the first (R413). -/
def byLogId (s : State) : List Nat → List Nat
  | [] => []
  | x :: xs => insert s x (byLogId s xs)
where
  /-- The gang id of an identifier. -/
  key (s : State) (id : Nat) : Nat := ((gangOf s id).map (gangLogId s)).getD 0
  /-- Insert by gang id. -/
  insert (s : State) (x : Nat) : List Nat → List Nat
    | [] => [x]
    | y :: ys => if key s x ≤ key s y then x :: y :: ys else y :: insert s x ys

/-- The wait at a barrier is over. -/
def Cond.generation (clu : Bool) (c : Cond) : Cond :=
  match c, clu with
  | .blkGen _, false => .blkGen true
  | .cluGen _, true => .cluGen true
  | c, _ => c

/-- The generation completes for the gangs that arrived. -/
def completeGen (clu : Bool) (ids : List Nat) (s : State) : State :=
  let s1 := { s with gangs := s.gangs.map fun g => if ids.contains g.id then g.mapConds (Cond.generation clu) else g }
  (byLogId s ids).foldl syncBarrier s1

/-- Steps of 25 MHz a core can gain or lose from nominal: 1.4 and 0.6 GHz (R425). -/
def maxStep : Int := 12
def minStep : Int := -20

/-- The supply that a step of the clock takes, in mV (R425): 10 mV per 50 MHz from nominal, an odd step rounded up, within
540 to 700 mV. -/
def supplyOf (step : Int) : Nat := (max 540 (min 700 (600 + 10 * ((step + 1) / 2)))).toNat

/-- A core takes a clock step, with its supply, no higher than power management allows (R22, R425). -/
def setStep (step : Int) (k : Core) : Core := { k with step := min step k.cap, supply := supplyOf (min step k.cap) }

/-- The arrivals in the order of their times. -/
def byTime : List (Nat × Nat) → List (Nat × Nat)
  | [] => []
  | x :: xs => insert x (byTime xs)
where
  /-- Insert by time. -/
  insert (x : Nat × Nat) : List (Nat × Nat) → List (Nat × Nat)
    | [] => [x]
    | y :: ys => if x.2 < y.2 then x :: y :: ys else y :: insert x ys

/-- The straggler of a generation: the last core, at least 2,000 ns after the first (R425). -/
def stragglerOf (arr : List (Nat × Nat)) : Option Nat :=
  match (byTime arr).head?, (byTime arr).getLast? with
  | some (_, t0), some (c, t1) => if t0 + 2000 ≤ t1 then some c else none
  | _, _ => none

/-- A core's share in a generation: 64 in a row without straggling return it to nominal (R425). -/
def steady (late : Option Nat) (s : State) (c : Nat) : State :=
  modCore s c fun x =>
    if late = some c then { x with steadyGens := 0 }
    else if 63 ≤ x.steadyGens then { setStep 0 x with steadyGens := 0 }
    else { x with steadyGens := x.steadyGens + 1 }

/-- The block barrier's generation completes when every gang of the block that has not exited has arrived (R247). -/
def checkBlk (s : State) (b : Nat) : State :=
  match blockOf s b with
  | none => s
  | some k =>
    if k.blkArrived.isEmpty || !(liveGangs s b).all k.blkArrived.contains then s
    else modBlock (steady none (completeGen false k.blkArrived s) k.core) b fun k => { k with blkArrived := [] }

/-- The straggler budget at a completion of a cluster generation (R425): a core that straggles twice running gains a step,
and the earliest core of its neighbourhood that can lose one loses it. A core that power management holds down gains none
(R22). -/
def budget (s : State) (k : Cluster) : State :=
  let late := stragglerOf k.arrivals
  let s1 := (k.arrivals.map Prod.fst).foldl (steady late) s
  let s2 :=
    match late with
    | none => s1
    | some c =>
      if k.straggler != some c || min maxStep (coreOf s1 c).cap ≤ (coreOf s1 c).step then s1
      else
        match (byTime k.arrivals).find? fun a => a.1 / 64 == c / 64 && a.1 != c && decide (minStep < (coreOf s1 a.1).step) with
        | none => s1
        | some (e, _) =>
          modCore (modCore s1 c fun x => setStep (x.step + 1) x) e fun x => setStep (x.step - 1) x
  modCluster s2 k.id fun k => { k with arrivals := [], straggler := late }

/-- The block has arrived at the cluster barrier: every gang of it that has not exited has (R247). -/
def blockAtClu (s : State) (b : Nat) : Bool :=
  match blockOf s b with
  | none => true
  | some k => (liveGangs s b).all k.cluArrived.contains

/-- The arrived gangs of a cluster. -/
def cluArrivedGangs (s : State) (k : Cluster) : List Nat := k.blocks.flatMap fun b => ((blockOf s b).map Block.cluArrived).getD []

/-- The cluster barrier's generation completes when every block has arrived (R247). -/
def checkClu (s : State) (cl : Nat) : State :=
  match clusterOf s cl with
  | none => s
  | some k =>
    let ids := cluArrivedGangs s k
    if ids.isEmpty || !k.blocks.all (blockAtClu s) then s
    else
      let s1 := completeGen true ids s
      let s2 := { s1 with blocks := s1.blocks.map fun b => if k.blocks.contains b.id then { b with cluArrived := [] } else b }
      budget s2 k

/-- The time at which a block arrives at the cluster barrier is noted once (R425). -/
def noteArrival (s : State) (cl b core : Nat) : State :=
  if blockAtClu s b then
    modCluster s cl fun k => if k.arrivals.any fun a => a.1 == core then k else { k with arrivals := k.arrivals ++ [(core, timeOf s core)] }
  else s

/-- A gang arrives at the block barrier, or at the cluster barrier. -/
def arriveBlk (s : State) (g : Gang) : State :=
  checkBlk (modBlock s g.block fun b => { b with blkArrived := b.blkArrived ++ [g.id] }) g.block
def arriveClu (s : State) (g : Gang) : State :=
  checkClu (noteArrival (modBlock s g.block fun b => { b with cluArrived := b.cluArrived ++ [g.id] }) g.clusterId g.block g.core) g.clusterId

end Sys2Proof.Machine
end

