-- ==== Sys2Proof/Machine/Cells.lean ====
section
/-! DEFINITION. Cells, waiters, task records and references (R36 to R41, R105, R106, R328 to R348). -/

namespace Sys2Proof.Machine

/-- The tag byte with one cell's state replaced; the other cell's state and the colour stay (R328). -/
def tagWithState (tag pa st : Nat) : Nat := tag - bits tag (cellShift pa) 2 * 2 ^ cellShift pa + st * 2 ^ cellShift pa

/-- Write a cell's eight bytes and its state, in one step (R201, R328). -/
def setCell (s : State) (pa : Nat) (v : Dbl) (st : Nat) : State :=
  putTag (writeNat s (physLoc pa) 8 v.toNat) (physLoc pa) (tagWithState (tagAt s (physLoc pa)) pa st)

/-- The payload of a cell that is not VALUE (R41). -/
def payload (consumers waiters : Nat) (h : Word) : Dbl := BitVec.ofNat 64 (consumers * 2 ^ 48 + waiters * 2 ^ 32 + h.toNat)
/-- The empty waiter queue. -/
def noWaiter : Nat := 0xFFFF

/-- The die whose waiter pool serves a cell: its home die (R338). -/
def poolDie (pa : Nat) : Nat := pa / 2 ^ 46 % 2

/-- The waiter pool has no free record, or none at all (R338, R417). -/
def poolFull (s : State) (d : Nat) : Bool := (mgmtOf s d).pool == 0 || decide (65535 ≤ (dieOf s d).waiters.length)

/-- A gang that waits on cells is woken (R336). -/
def Cond.cellsWoken : Cond → Cond
  | .cells _ => .cells true
  | c => c

/-- A gang is woken at a cell, and takes its place in the order of the wakes (R104, R338). -/
def wakeCells (s : State) (id : Nat) : State :=
  modGang { s with nextId := s.nextId + 1 } id fun g =>
    { g.mapConds Cond.cellsWoken with wakeOrder := if g.wakeOrder.isNone then some s.nextId else g.wakeOrder }

/-- A record of the pool may be free again: the gangs that found none try again (R338, R417). -/
def retryWaiters (s : State) : State := { s with gangs := s.gangs.map (Gang.mapConds Cond.cellsWoken) }

/-- Wake the waiters of a queue in order and free their records (R338). -/
def wakeQueue (d : Nat) : Nat → Nat → State → State
  | 0, _, s => s
  | fuel + 1, i, s =>
    if i = noWaiter then s
    else
      match fget (dieOf s d).waiters i with
      | none => s
      | some w => wakeQueue d fuel w.next (wakeCells (modDie s d fun x => { x with waiters := fdel x.waiters i }) w.gang)

/-- Wake every waiter of a cell; where the pool was full, the gangs that found no record try again (R338). -/
def wakeWaiters (s : State) (pa : Nat) : State :=
  let d := poolDie pa
  let s1 := wakeQueue d 65536 (waitersOf (cellPayload s pa)) s
  if poolFull s d then retryWaiters s1 else s1

/-- A free index of the pool, from a free choice on. -/
def freeIndex (used : Nat → Bool) (n start : Nat) : Nat → Option Nat
  | 0 => none
  | k + 1 => if used ((start + k) % n) then freeIndex used n start k else some ((start + k) % n)

/-- The last record of a queue. -/
def lastWaiter (m : FMap Waiter) : Nat → Nat → Option Nat
  | 0, _ => none
  | fuel + 1, i =>
    match fget m i with
    | none => none
    | some w => if w.next = noWaiter then some i else lastWaiter m fuel w.next

/-- Link a record behind another. -/
def linkWaiter (m : FMap Waiter) (j i : Nat) : FMap Waiter :=
  match fget m j with
  | some w => fput m j { w with next := i }
  | none => m

/-- The gang has a record in the queue of this cell (R336). -/
def hasWaiter (s : State) (pa gang : Nat) : Bool :=
  (dieOf s (poolDie pa)).waiters.any fun w => w.2.gang == gang && w.2.cell == pa

/-- The context of a gang's launch. -/
def ctxOf (s : State) (g : Gang) : Nat := (launchD s g.launch).ctx

/-- A write of the device's own at a cell, or of a tag, leaves the translation that a gang used dirty (R200). -/
def dirtyAt (s : State) (g : Gang) (ea : Dbl) (pa : Nat) : State := markDirty s (.core g.core) (ctxOf s g) (vaOf ea) pa

/-- Append a waiter record for a gang to the queue of the cell at an address, unless it has one; a full pool gives none (R336,
R338). -/
def appendWaiter (s : State) (g : Gang) (ea : Dbl) (pa : Nat) : State :=
  let d := poolDie pa
  if hasWaiter s pa g.id || poolFull s d then s
  else
    let (c, s1) := freeNat s
    match freeIndex (fun i => (fget (dieOf s1 d).waiters i).isSome) 65535 (c % 65535) 65535 with
    | none => s1
    | some i =>
      let head := waitersOf (cellPayload s1 pa)
      let s2 := modDie s1 d fun x => { x with waiters := fput x.waiters i { gang := g.id, cell := pa, ea := ea, next := noWaiter } }
      match lastWaiter (dieOf s1 d).waiters 65536 head with
      | some j => modDie s2 d fun x => { x with waiters := linkWaiter x.waiters j i }
      | none =>
        let p := cellPayload s2 pa
        dirtyAt (setCell s2 pa (payload (consumersOf p) i (handleOf p)) (cellState s2 pa)) g ea pa

/-- Take a waiter record out of its cell's queue (R352): the record before it, or the cell, names the next one instead. -/
def dropWaiter (g : Gang) (d : Nat) (s : State) (i : Nat) : State :=
  match fget (dieOf s d).waiters i with
  | none => s
  | some w =>
    let relink := fun (y : Waiter) => if y.cell = w.cell ∧ y.next = i then { y with next := w.next } else y
    let s1 := modDie s d fun x => { x with waiters := (fdel x.waiters i).map (fun y => (y.1, relink y.2)) }
    let p := cellPayload s w.cell
    if cellState s w.cell != cellValue && waitersOf p == i then
      dirtyAt (setCell s1 w.cell (payload (consumersOf p) w.next (handleOf p)) (cellState s w.cell)) g w.ea w.cell
    else s1

/-- The waiter records of a gang that stops or ends are freed (R352), and gangs that found none try again (R338). -/
def dropWaiters (s : State) (g : Gang) : State :=
  let mine := fun (d : Nat) => ((dieOf s d).waiters.filter fun w => w.2.gang == g.id).map Prod.fst
  if (mine 0).isEmpty && (mine 1).isEmpty then s
  else
    let s1 := (mine 1).foldl (dropWaiter g 1) ((mine 0).foldl (dropWaiter g 0) s)
    if poolFull s 0 || poolFull s 1 then retryWaiters s1 else s1

/-- The flags word of a task record (R37). -/
def taskFlags (t : Task) : Nat :=
  (if t.eval then 2 ^ 17 else 0) + (if t.lazy then 2 ^ 16 else 0) + t.depth * 256 + t.prio * 16 + t.state

/-- The 64 bytes of a task record (R36). -/
def taskBytes (t : Task) : List Byte :=
  recordOf 64 [(0, 8, t.code.toNat), (8, 8, t.frame.toNat), (0x10, 4, t.join), (0x14, 4, taskFlags t),
    (0x18, 8, t.cell.toNat), (0x20, 4, t.fp), (0x24, 4, t.parent.toNat), (0x28, 4, (t.held.getD 0 0).toNat),
    (0x2C, 4, (t.held.getD 1 0).toNat), (0x30, 4, (t.held.getD 2 0).toNat), (0x34, 4, t.nheld)]

/-- A record in a spill ring stands in memory (R105); one that cannot be written now is written once its launch's request for the
ring has been answered (R426). -/
def storeTask (s : State) (t : Task) : State :=
  if 4096 ≤ t.index then
    let L := launchD s t.launch
    let off := 64 * (t.index - 4096)
    let rest := L.spillOwed.filter (· != t.index)
    match (if areaAsked s L.id 0xF3 then (s, false) else deviceWrite s t.die L.ctx (vaOf L.desc.spill + off) (taskBytes t)) with
    | (s1, true) => modLaunch s1 L.id fun x => { x with spillOwed := rest }
    | (s1, false) =>
      needArea (modLaunch s1 L.id fun x => { x with spillOwed := rest ++ [t.index] }) L.id 0xF3 t.die
        (L.desc.spill + BitVec.ofNat 64 off) 64 true
  else s

/-- The records of a launch's spill ring that could not be written are written, where they can be now (R426). -/
def storeOwed (s : State) (id : Nat) : State :=
  (launchD s id).spillOwed.foldl (fun u i => match u.tasks.find? fun t => t.launch == id && t.index == i with
    | some t => storeTask u t
    | none => u) s

/-- Change a task record, in its bank or in its spill ring. -/
def changeTask (s : State) (h : Word) (f : Task → Task) : State :=
  match taskOf s h with
  | none => s
  | some t => storeTask (modTask s h f) (f t)

/-- The parent's `task.join` falls by one, if the parent is current (R331). -/
def joinFalls (s : State) (parent : Word) : State := changeTask s parent fun t => { t with join := t.join - 1 }

/-- A task stops counting in its parent (R331). -/
def endsForParent (s : State) (t : Task) : State :=
  if t.countsIn then joinFalls (changeTask s (mkHandle s t) fun x => { x with countsIn := false }) t.parent else s

/-- A record becomes FREE (R331); its number keeps its generation. -/
def freeTask (s : State) (h : Word) : State := changeTask s h fun t => { t with state := 0 }

/-- Copies of a task that have not completed. -/
def taskCopies (s : State) (h : Word) : Bool :=
  s.copies.any fun c => c.task == h && c.task != 0 && c.state != .complete && c.state != .abandoned

/-- A record whose task has ended becomes FREE once its copies have completed (R331). -/
def settleTask (s : State) (h : Word) : State :=
  match taskOf s h with
  | none => s
  | some t =>
    if (t.state == 5 || (t.state == 6 && (gangOfTask s h).isNone)) && !taskCopies s h then freeTask s h else s

/-- The task that a reclaimed cell names (R345): DORMANT or QUEUED becomes FREE; RUNNING or PARKED becomes RECLAIMING. -/
def reclaimTask (s : State) (h : Word) : State :=
  match taskOf s h with
  | none => s
  | some t =>
    if t.state = 1 ∨ t.state = 2 then freeTask (endsForParent s t) h
    else if t.state = 3 ∨ t.state = 4 then
      let s1 := changeTask s h fun x => { x with state := 6 }
      match gangOfTask s1 h with
      | some g => modGang s1 g.id fun x => { x with stopping := true }
      | none => s1
    else s

/-- A cell becomes VALUE 0 with granule colour 0xF, and its waiters wake (R345, R427). -/
def poisonCell (s : State) (pa : Nat) : State :=
  let s1 := setCell (wakeWaiters s pa) pa 0 cellValue
  writeTag s1 (physLoc pa) (240 + tagAt s1 (physLoc pa) % 16)

/-- Reclamation (R345). -/
def reclaimCell (s : State) (pa : Nat) : State :=
  reclaimTask (poisonCell s pa) (handleOf (cellPayload s pa))

/-- Where a cell stands, for a step of the device itself: translated in the task's context (R348). -/
def cellPlace (s : State) (die ctx : Nat) (ea : Dbl) : State × Option Nat :=
  match translate s (.unit die) ctx (vaOf ea) with
  | (s1, .ok pa e) => (s1, if leafCell e && physOk s1 pa && pa % 8 == 0 then some pa else none)
  | (s1, .fail _ _) => (s1, none)

/-- The place of a task's cell where it is not VALUE and its payload names the task. -/
def ownCell (s : State) (t : Task) : State × Option Nat :=
  if t.cell = 0 then (s, none)
  else
    match cellPlace s t.die (launchD s t.launch).ctx t.cell with
    | (s1, some pa) => (s1, if cellState s1 pa != cellValue && handleOf (cellPayload s1 pa) == mkHandle s1 t then some pa else none)
    | (s1, none) => (s1, none)

/-- A write at a task's cell by the device leaves its translation dirty (R200). -/
def dirtyOwn (s : State) (t : Task) (pa : Nat) : State :=
  markDirty s (.unit t.die) (launchD s t.launch).ctx (vaOf t.cell) pa

/-- A task's cell, where it still names the task, is changed by a step of the device. -/
def atOwnCell (s : State) (t : Task) (f : State → Nat → State) : State :=
  match ownCell s t with
  | (s1, some pa) => dirtyOwn (f s1 pa) t pa
  | (s1, none) => s1

/-- Drop a held reference to a handle (R348), whichever task it names: a list that a program has overwritten may name a task of another
context, whose cell is reached in that task's own context. DESIGN CHOICE, log entry 87 (unsafe). -/
def dropHeld (s : State) (h : Word) : State :=
  match taskOf s h with
  | none => s
  | some t =>
    atOwnCell s t fun s1 pa =>
      let p := cellPayload s1 pa
      if consumersOf p ≤ 1 then reclaimCell s1 pa
      else setCell s1 pa (payload (consumersOf p - 1) (waitersOf p) (handleOf p)) (cellState s1 pa)

/-- Granules of a task's record in its bank are under an uncorrectable error (R372). -/
def recordPoisoned (s : State) (h : Word) (gs : List Nat) : Bool := ((taskOf s h).map fun t => gs.any t.poison.contains).getD false

/-- The address that such an error shows: no address names a record of a bank, so it is open. DEDUCED, log entry 40 (unsafe). -/
def recordErrorAt (s : State) : Dbl × State := (BitVec.ofNat 64 (freeNat s).1, (freeNat s).2)

/-- An entry of the held list; an overflow entry stands at `task.frame` + 4 × (i − 3) (R36), and is read as a device access: one
that cannot be read, or meets an uncorrectable error, is skipped. DESIGN CHOICE, log entry 76 (unsafe). -/
def heldEntry (s : State) (t : Task) (i : Nat) : State × Word :=
  if i < 3 then (s, t.held.getD i 0)
  else
    match deviceRead s t.die (launchD s t.launch).ctx (vaOf t.frame + 4 * (i - 3)) 4 with
    | (s1, .ok bs) => (s1, BitVec.ofNat 32 (natOf bs))
    | (s1, .error) => (s1, 0)
    | (s1, .away) =>
      (logRefused s1 t.die (launchD s t.launch).ctx (t.frame + BitVec.ofNat 64 (4 * (i - 3))) 4 false (some t.launch), 0)

/-- Drop the references of a task from entry i on. -/
def dropAllHeld (t : Task) : Nat → Nat → State → State
  | 0, _, s => s
  | k + 1, i, s => let (s1, h) := heldEntry s t i; dropAllHeld t k (i + 1) (dropHeld s1 h)

/-- The parent chain of a task (R337): at most 15 steps, while the handle is current. -/
def parentChain (s : State) : Nat → Word → List Word
  | 0, _ => []
  | k + 1, h =>
    match taskOf s h with
    | none => []
    | some t => if t.parent = 0 then [] else match taskOf s t.parent with
      | none => []
      | some _ => t.parent :: parentChain s k t.parent

/-- An evaluator starts (R339): the DORMANT task is QUEUED with its eval bit, and counts in its parent. -/
def startEvaluator (s : State) (h : Word) (gang core home : Nat) : State :=
  match taskOf s h with
  | none => s
  | some t =>
    if t.state != 1 then s
    else
      let up := (taskOf s t.parent).isSome
      let s1 := changeTask s h fun x => { x with state := 2, eval := true, origin := core, home := home, loader := gang, countsIn := up }
      if up then changeTask s1 t.parent fun x => { x with join := x.join + 1 } else s1

/-- Spill slots in use: the record numbers of a launch's ring that are not FREE (R106). -/
def spillUsed (s : State) (launch slot : Nat) : Bool :=
  s.tasks.any fun t => t.launch == launch && t.index == 4096 + slot && t.state != 0

/-- The generation a record number takes at its next use (R40): 1 at first, then one more, 63 wrapping to 1.
DEDUCED, log entry 59 (unsafe). -/
def nextGen (s : State) (die nbhd index : Nat) : Nat :=
  match (s.tasks.filter fun t => t.die == die && t.nbhd == nbhd && t.index == index).getLast? with
  | none => 1
  | some t => if 63 ≤ t.gen then 1 else t.gen + 1

/-- The records of the spill ring that can be used (R106). -/
def spillRecords (L : Launch) : Nat := min L.desc.nspill 61440

/-- The pages of the spill ring can be written. -/
def spillReached (s : State) (L : Launch) (die : Nat) : Bool := deviceReach s die L.ctx (vaOf L.desc.spill) (64 * L.desc.nspill) true

/-- A request for the spill ring is still to be posted, and can be (R418, R426). -/
def mustAskSpill (s : State) (L : Launch) (die : Nat) : Bool :=
  spillRecords L != 0 && !areaAsked s L.id 0xF3 && !spillReached s L die && eventRoom s L.die

/-- A record number for a new task (R105, R106): a free one of the bank, else the next free slot of the spill ring.
DESIGN CHOICE, log entry 57 (safe). -/
def findRecord (s : State) (L : Launch) (core : Nat) : State × Option Nat :=
  let die := coreDie core
  let nb := coreNbhd core
  let used := fun i => s.tasks.any fun t => t.die == die && t.nbhd == nb && t.index == i && t.state != 0
  let (c, s1) := freeNat s
  match freeIndex used 4096 (c % 4096) 4096 with
  | some i => (s1, some i)
  | none =>
    let n := spillRecords L
    if !spillReached s1 L die || areaAsked s1 L.id 0xF3 then (if n = 0 then s1 else needArea s1 L.id 0xF3 die L.desc.spill (64 * L.desc.nspill) true, none)
    else
      match (List.range n).find? fun k => !spillUsed s1 L.id ((L.spillNext + k) % n) with
      | none => (s1, none)
      | some k => (s1, some (4096 + (L.spillNext + k) % n))

/-- Write a new task record (R334): an older FREE record of the same number goes. -/
def addTask (s : State) (t : Task) : State :=
  let s1 := { s with tasks := (s.tasks.filter fun x =>
    !(x.die == t.die && x.nbhd == t.nbhd && x.index == t.index && x.state == 0)) ++ [t] }
  let s2 := if 4096 ≤ t.index then
      modLaunch s1 t.launch fun L => { L with spillNext := (t.index - 4096 + 1) % max 1 (min L.desc.nspill 61440) }
    else s1
  storeTask s2 t

end Sys2Proof.Machine
end

