-- ==== Sys2Proof/Machine/Float.lean ====
section
/-! DEFINITION. Number formats, rounding, special values and conversions (R159 to R184): every operation computes its
exact result on integers and narrows once. -/

namespace Sys2Proof.Machine

/-- Flag bits of `%aflags` (R169). -/
def flNV : Word := 1
def flDZ : Word := 2
def flOF : Word := 4
def flUF : Word := 8
def flNX : Word := 16
def flIDZ : Word := 32
def flGOV : Word := 64
def flCBI : Word := 128

/-- The flag if the condition holds. -/
def flag (c : Bool) (f : Word) : Word := if c then f else 0

/-- A floating-point format (R160): exponent and fraction widths, bias, the largest finite pattern, whether it has
infinities, and its canonical NaN (`none`: E2M1 has no NaN). -/
structure Fmt where
  ew : Nat
  fw : Nat
  bias : Nat
  maxFin : Nat
  ieee : Bool
  nan : Option Nat
  deriving DecidableEq, Repr

def fp32 : Fmt := ⟨8, 23, 127, 0x7F7FFFFF, true, some 0x7FC00000⟩
def f16 : Fmt := ⟨5, 10, 15, 0x7BFF, true, some 0x7E00⟩
def bf16 : Fmt := ⟨8, 7, 127, 0x7F7F, true, some 0x7FC0⟩
def e5m2 : Fmt := ⟨5, 2, 15, 0x7B, true, some 0x7E⟩
def e4m3 : Fmt := ⟨4, 3, 7, 0x7E, false, some 0x7F⟩
def e2m1 : Fmt := ⟨2, 1, 1, 0x7, false, none⟩
def fp64 : Fmt := ⟨11, 52, 1023, 0x7FEFFFFFFFFFFFFF, true, some 0x7FF8000000000000⟩

/-- A value of a format: NaN (signalling or not), infinity, or (−1)^neg × m × 2^e (R160, R161). -/
inductive FVal where
  | nan (signalling : Bool)
  | inf (neg : Bool)
  | fin (neg : Bool) (m : Nat) (e : Int)
  deriving DecidableEq, Repr

/-- The sign bit's weight. -/
def Fmt.signBit (f : Fmt) : Nat := 2 ^ (f.ew + f.fw)

/-- The infinity pattern. -/
def Fmt.inf (f : Fmt) : Nat := (2 ^ f.ew - 1) * 2 ^ f.fw

/-- The canonical NaN, or 0 where the format has none. -/
def Fmt.cnan (f : Fmt) : Nat := f.nan.getD 0

/-- Read a pattern (R160). -/
def unpack (f : Fmt) (x : Nat) : FVal :=
  let neg := bit x (f.ew + f.fw)
  let e := bits x f.fw f.ew
  let m := bits x 0 f.fw
  if f.ieee && e == 2 ^ f.ew - 1 then
    if m == 0 then .inf neg else .nan (!bit m (f.fw - 1))
  else if !f.ieee && f.nan.isSome && e == 2 ^ f.ew - 1 && m == 2 ^ f.fw - 1 then .nan false
  else if e == 0 then .fin neg m (1 - (f.bias : Int) - f.fw)
  else .fin neg (m + 2 ^ f.fw) ((e : Int) - f.bias - f.fw)

def FVal.isNan : FVal → Bool
  | .nan _ => true
  | _ => false

def FVal.isSNan : FVal → Bool
  | .nan s => s
  | _ => false

def FVal.isInf : FVal → Bool
  | .inf _ => true
  | _ => false

def FVal.isZero : FVal → Bool
  | .fin _ m _ => m == 0
  | _ => false

def FVal.neg : FVal → Bool
  | .nan _ => false
  | .inf n => n
  | .fin n _ _ => n

def FVal.negate : FVal → FVal
  | .nan s => .nan s
  | .inf n => .inf (!n)
  | .fin n m e => .fin (!n) m e

/-- Where a discarded part stands against half a unit. -/
inductive Rem where
  | exact | below | tie | above
  deriving DecidableEq, Repr

/-- Quotient of m by 2^s and the place of the discarded part; `st` says that a non-zero part lies below m already. -/
def shiftOut (m s : Nat) (st : Bool) : Nat × Rem :=
  if s == 0 then (m, if st then .below else .exact)
  else if Nat.log2 m + 1 < s then (0, if m == 0 && !st then .exact else .below)
  else
    let r := m % 2 ^ s
    let h := 2 ^ (s - 1)
    (m / 2 ^ s, if r == 0 && !st then .exact else if r < h then .below else if r == h && !st then .tie else .above)

/-- Does the mode take the magnitude up (R165)? Modes: 0 rn, 1 rz, 2 ru, 3 rd. -/
def roundsUp (mode : Nat) (neg odd : Bool) (r : Rem) : Bool :=
  match mode with
  | 0 => r == .above || (r == .tie && odd)
  | 1 => false
  | 2 => !neg && r != .exact
  | _ => neg && r != .exact

/-- Round m × 2^e with the exponent range treated as unbounded above (R165): the magnitude pattern, which may lie beyond
the format's range, whether it is inexact, and whether the result is tiny (R167). -/
def roundCore (f : Fmt) (mode : Nat) (neg : Bool) (m : Nat) (e : Int) (st : Bool) : Nat × Bool × Bool :=
  if m == 0 && !st then (0, false, false)
  else
    let k : Int := (Nat.log2 m : Int) + e
    let emin : Int := 1 - (f.bias : Int)
    let at_ := fun (q : Int) =>
      if q ≤ e then (m * 2 ^ (e - q).toNat, (if st then Rem.below else Rem.exact)) else shiftOut m (q - e).toNat st
    let q := max (k - f.fw) (emin - f.fw)
    let (n, r) := at_ q
    let n' := if roundsUp mode neg (n % 2 == 1) r then n + 1 else n
    let (nu, ru) := at_ (k - f.fw)
    let nu' := if roundsUp mode neg (nu % 2 == 1) ru then nu + 1 else nu
    let tiny := decide (k < emin) && !(k == emin - 1 && nu' == 2 ^ (f.fw + 1))
    ((q - (emin - f.fw)).toNat * 2 ^ f.fw + n', r != .exact, tiny)

/-- The sign bit of a pattern. -/
def signed (f : Fmt) (neg : Bool) (x : Nat) : Nat := if neg then x + f.signBit else x

/-- Does an overflow in the mode go to the largest finite value (R166)? -/
def overflowsToMax (mode : Nat) (neg : Bool) : Bool := mode == 1 || (mode == 2 && neg) || (mode == 3 && !neg)

/-- `round(x, fmt, mode)` of a finite x to a format with infinities (R165 to R167). -/
def fpRound (f : Fmt) (mode : Nat) (neg : Bool) (m : Nat) (e : Int) (st : Bool := false) : Nat × Word :=
  let (p, inexact, tiny) := roundCore f mode neg m e st
  if p > f.maxFin then (signed f neg (if overflowsToMax mode neg then f.maxFin else f.inf), flOF ||| flNX)
  else (signed f neg p, flag inexact flNX ||| flag (tiny && inexact) flUF)

/-- The exact sum of two finite values as an integer multiple of 2^e. -/
def exactSum (m1 : Nat) (n1 : Bool) (e1 : Int) (m2 : Nat) (n2 : Bool) (e2 : Int) : Int × Int :=
  let e := min e1 e2
  let i1 : Int := (m1 * 2 ^ (e1 - e).toNat : Nat)
  let i2 : Int := (m2 * 2 ^ (e2 - e).toNat : Nat)
  ((if n1 then -i1 else i1) + (if n2 then -i2 else i2), e)

/-- The flag of signalling operands (R172). -/
def snanFlag (l : List FVal) : Word := flag (l.any FVal.isSNan) flNV

/-- Sum of two values (R168, R172). -/
def fpAddV (f : Fmt) (mode : Nat) (a b : FVal) : Nat × Word :=
  match a, b with
  | .inf na, .inf nb => if na == nb then (signed f na f.inf, 0) else (f.cnan, flNV)
  | .inf na, .fin _ _ _ => (signed f na f.inf, 0)
  | .fin _ _ _, .inf nb => (signed f nb f.inf, 0)
  | .fin na ma ea, .fin nb mb eb =>
    let (s, e) := exactSum ma na ea mb nb eb
    if s == 0 then (signed f (if na == nb then na else mode == 3) 0, 0)
    else fpRound f mode (decide (s < 0)) s.natAbs e
  | _, _ => (f.cnan, 0)

/-- The exact product, or none where it is invalid (0 × ∞). -/
def fpMulV (a b : FVal) : Option FVal :=
  let n := a.neg != b.neg
  match a, b with
  | .inf _, .inf _ => some (.inf n)
  | .inf _, .fin _ m _ => if m == 0 then none else some (.inf n)
  | .fin _ m _, .inf _ => if m == 0 then none else some (.inf n)
  | .fin _ ma ea, .fin _ mb eb => some (.fin n (ma * mb) (ea + eb))
  | _, _ => some (.nan false)

/-- Round an exact value. -/
def fpOfV (f : Fmt) (mode : Nat) : FVal → Nat × Word
  | .nan _ => (f.cnan, 0)
  | .inf n => (signed f n f.inf, 0)
  | .fin n m e => if m == 0 then (signed f n 0, 0) else fpRound f mode n m e

def fpAdd (f : Fmt) (mode a b : Nat) : Nat × Word :=
  let x := unpack f a
  let y := unpack f b
  if x.isNan || y.isNan then (f.cnan, snanFlag [x, y]) else fpAddV f mode x y

def fpSub (f : Fmt) (mode a b : Nat) : Nat × Word :=
  let x := unpack f a
  let y := unpack f b
  if x.isNan || y.isNan then (f.cnan, snanFlag [x, y]) else fpAddV f mode x y.negate

def fpMul (f : Fmt) (mode a b : Nat) : Nat × Word :=
  let x := unpack f a
  let y := unpack f b
  if x.isNan || y.isNan then (f.cnan, snanFlag [x, y])
  else match fpMulV x y with
    | none => (f.cnan, flNV)
    | some v => fpOfV f mode v

/-- d + a × b with one rounding; 0 × ∞ is invalid whatever d holds (R172). -/
def fpFma (f : Fmt) (mode d a b : Nat) : Nat × Word :=
  let x := unpack f a
  let y := unpack f b
  let z := unpack f d
  if x.isNan || y.isNan then (f.cnan, snanFlag [x, y, z])
  else match fpMulV x y with
    | none => (f.cnan, flNV)
    | some p => if z.isNan then (f.cnan, snanFlag [z]) else fpAddV f mode z p

def fpDiv (f : Fmt) (mode a b : Nat) : Nat × Word :=
  let x := unpack f a
  let y := unpack f b
  let n := x.neg != y.neg
  if x.isNan || y.isNan then (f.cnan, snanFlag [x, y])
  else match x, y with
    | .inf _, .inf _ => (f.cnan, flNV)
    | .inf _, _ => (signed f n f.inf, 0)
    | .fin _ _ _, .inf _ => (signed f n 0, 0)
    | .fin _ ma ea, .fin _ mb eb =>
      if mb == 0 then (if ma == 0 then (f.cnan, flNV) else (signed f n f.inf, flDZ))
      else if ma == 0 then (signed f n 0, 0)
      else fpRound f mode n (ma * 2 ^ 64 / mb) (ea - eb - 64) (ma * 2 ^ 64 % mb != 0)
    | _, _ => (f.cnan, 0)

/-- Integer square root, bit by bit from bit n − 1. -/
def isqrtLoop : Nat → Nat → Nat → Nat
  | 0, _, r => r
  | n + 1, x, r => isqrtLoop n x (if (r + 2 ^ n) * (r + 2 ^ n) ≤ x then r + 2 ^ n else r)

/-- floor(√x) for x below 2^256. -/
def isqrt (x : Nat) : Nat := isqrtLoop 128 x 0

def fpSqrt (f : Fmt) (mode a : Nat) : Nat × Word :=
  match unpack f a with
  | .nan s => (f.cnan, flag s flNV)
  | .inf n => if n then (f.cnan, flNV) else (f.inf, 0)
  | .fin n m e =>
    if m == 0 then (signed f n 0, 0)
    else if n then (f.cnan, flNV)
    else
      let odd := e % 2 != 0
      let x := (if odd then 2 * m else m) * 2 ^ 80
      let r := isqrt x
      fpRound f mode false r ((if odd then e - 1 else e) / 2 - 40) (r * r != x)

/-- Order of two values that are not NaN, with −0 equal to +0: −1, 0 or 1. -/
def fpCmp (a b : FVal) : Int :=
  match a, b with
  | .inf na, .inf nb => if na == nb then 0 else if na then -1 else 1
  | .inf na, _ => if na then -1 else 1
  | _, .inf nb => if nb then 1 else -1
  | .fin na ma ea, .fin nb mb eb =>
    let s := (exactSum ma na ea mb (!nb) eb).1
    if s < 0 then -1 else if s == 0 then 0 else 1
  | _, _ => 0

/-- `fmin` and `fmax` (R173): −0 below +0; a single NaN gives the other operand, unchanged. -/
def fpMinMax (f : Fmt) (isMax : Bool) (a b : Nat) : Nat × Word :=
  let x := unpack f a
  let y := unpack f b
  let fl := snanFlag [x, y]
  match x.isNan, y.isNan with
  | true, true => (f.cnan, fl)
  | true, false => (b, fl)
  | false, true => (a, fl)
  | false, false =>
    let c := fpCmp x y
    let aLess := decide (c < 0) || (c == 0 && x.neg && !y.neg)
    (if aLess != isMax then a else b, 0)

/-- Round to an integer in the mode: the magnitude and whether it changed. -/
def roundMag (mode : Nat) (neg : Bool) (m : Nat) (e : Int) : Nat × Bool :=
  if 0 ≤ e then (m * 2 ^ e.toNat, false)
  else
    let (n, r) := shiftOut m (-e).toNat false
    (if roundsUp mode neg (n % 2 == 1) r then n + 1 else n, r != .exact)

/-- `frint` (R175). -/
def fpRint (mode a : Nat) : Nat × Word :=
  match unpack fp32 a with
  | .nan s => (fp32.cnan, flag s flNV)
  | .inf _ => (a, 0)
  | .fin n m e =>
    if m == 0 || decide (0 ≤ e) then (a, 0)
    else (signed fp32 n (fpRound fp32 0 false (roundMag mode n m e).1 0).1, 0)

/-- `ffrac` (R175): a − trunc(a), exact, with the sign of a. -/
def fpFrac (a : Nat) : Nat × Word :=
  match unpack fp32 a with
  | .nan s => (fp32.cnan, flag s flNV)
  | .inf _ => (fp32.cnan, flNV)
  | .fin n m e =>
    if 0 ≤ e then (signed fp32 n 0, 0)
    else (signed fp32 n (fpRound fp32 0 false (m % 2 ^ (-e).toNat) e).1, 0)

/-- `fscale` (R175). -/
def fpScale (a b : Nat) : Nat × Word :=
  match unpack fp32 a with
  | .nan s => (fp32.cnan, flag s flNV)
  | .inf _ => (a, 0)
  | .fin n m e => if m == 0 then (a, 0) else fpRound fp32 0 n m (e + sext b 32)

/-- `fsat` (R175). -/
def fpSat (a : Nat) : Nat × Word :=
  match unpack fp32 a with
  | .nan s => (0, flag s flNV)
  | .inf n => (if n then 0 else 0x3F800000, 0)
  | .fin n m _ => if n || m == 0 then (0, 0) else if a > 0x3F800000 then (0x3F800000, 0) else (a, 0)

/-- `fclass` (R177). -/
def fpClass (a : Nat) : Nat :=
  match unpack fp32 a with
  | .inf n => if n then 1 else 128
  | .nan s => if s then 256 else 512
  | .fin n m _ =>
    if m == 0 then (if n then 8 else 16)
    else if m < 2 ^ 23 then (if n then 4 else 32)
    else if n then 2 else 64

/-- `fcmp.cc` (R178): condition codes 0 eq, 1 ne, 2 lt, 3 le, 4 gt, 5 ge, 6 un, 7 ord. -/
def fpCompare (cc a b : Nat) : Bool × Word :=
  let x := unpack fp32 a
  let y := unpack fp32 b
  let un := x.isNan || y.isNan
  let c := fpCmp x y
  let any := flag un flNV
  match cc with
  | 0 => (!un && c == 0, snanFlag [x, y])
  | 1 => (un || c != 0, snanFlag [x, y])
  | 2 => (!un && decide (c < 0), any)
  | 3 => (!un && decide (c ≤ 0), any)
  | 4 => (!un && decide (c > 0), any)
  | 5 => (!un && decide (c ≥ 0), any)
  | 6 => (un, snanFlag [x, y])
  | _ => (!un, snanFlag [x, y])

/-! ### Conversions (R180 to R184) -/

/-- A finite or special value to a float format of R181, with rounding and saturation. -/
def cvtToFloat (f : Fmt) (mode : Nat) (sat : Bool) (v : FVal) : Nat × Word :=
  match v with
  | .nan s => if f.nan.isSome then (f.cnan, flag s flNV) else (0, flNV)
  | .inf n =>
    if sat then (signed f n f.maxFin, 0)
    else if f.ieee then (signed f n f.inf, 0)
    else if f.nan.isSome then (f.cnan, flNV)
    else (signed f n f.maxFin, flNV)
  | .fin n m e =>
    if m == 0 then (signed f n 0, 0)
    else
      let (p, inexact, tiny) := roundCore f mode n m e false
      if p ≤ f.maxFin then (signed f n p, flag inexact flNX ||| flag (tiny && inexact) flUF)
      else
        let fl := flOF ||| flNX
        if sat || overflowsToMax mode n then (signed f n f.maxFin, fl)
        else if f.ieee then (signed f n f.inf, fl)
        else if f.nan.isSome then (f.cnan, fl)
        else (signed f n f.maxFin, fl)

/-- `cvt.e8m0.f32` (R182). -/
def cvtToE8m0 (mode : Nat) (sat : Bool) (v : FVal) : Nat × Word :=
  match v with
  | .nan _ => (0xFF, flNV)
  | .inf n => if n then (0xFF, flNV) else if sat then (0xFE, 0) else (0xFF, 0)
  | .fin n m e =>
    if m == 0 then (0, flUF)
    else if n then (0xFF, flNV)
    else
      let l := Nat.log2 m
      let j : Int := (l : Int) + e
      let pow := m == 2 ^ l
      let k : Int := match mode with
        | 0 => if 3 * 2 ^ l ≤ 2 * m then j + 1 else j
        | 2 => if pow then j else j + 1
        | _ => j
      if k > 127 then
        if !sat && (mode == 0 || mode == 2) then (0xFF, flOF) else (0xFE, flOF ||| flNX)
      else if k < -127 then (0, flUF ||| flNX)
      else ((k + 127).toNat, flag (!(pow && k == j)) flNX)

/-- The value of an E8M0 code (R162). -/
def e8m0Val (x : Nat) : FVal := if x % 256 == 255 then .nan false else .fin false 1 ((x % 256 : Nat) - 127 : Int)

/-- Conversion to an integer range (R183). -/
def cvtToInt (lo hi : Int) (mode : Nat) (sat_ : Bool) (v : FVal) : Int × Word :=
  match v with
  | .nan _ => (0, flNV)
  | .inf n => (if n then lo else hi, flag (!sat_) flNV)
  | .fin n m e =>
    if e > 64 then (if m == 0 then (0, 0) else (if n then lo else hi, flag (!sat_) flNV))
    else
      let (g, ch) := roundMag mode n m e
      let x : Int := if n then -(g : Int) else g
      if x < lo then (lo, flag (!sat_) flNV ||| flag ch flNX)
      else if x > hi then (hi, flag (!sat_) flNV ||| flag ch flNX)
      else (x, flag ch flNX)

/-- An exact integer as a value. -/
def intVal (x : Int) : FVal := .fin (decide (x < 0)) x.natAbs 0

/-- A value already in a narrower float format, widened to FP32 exactly; a signalling NaN sets nv (R183). -/
def widen (f : Fmt) (x : Nat) : Nat × Word :=
  match unpack f x with
  | .nan s => (fp32.cnan, flag s flNV)
  | v => fpOfV fp32 0 v

/-- An integer pattern of n bits as written to a register: two's complement in 32 bits. -/
def intWord (x : Int) : Nat := wrapN 32 x

/-- The scalar conversion forms (R72, R180 to R183). -/
def cvtScalar (fn mode : Nat) (sat_ : Bool) (a : Nat) : Nat × Word :=
  let v := unpack fp32 a
  let toI := fun lo hi => let (x, fl) := cvtToInt lo hi mode sat_ v; (intWord x, fl)
  match fn with
  | 0x00 => let x := sext a 32; if x == 0 then (0, 0) else fpRound fp32 mode (decide (x < 0)) x.natAbs 0
  | 0x01 => toI (-2147483648) 2147483647
  | 0x02 => widen bf16 (a % 65536)
  | 0x03 => cvtToFloat bf16 mode sat_ v
  | 0x04 => widen f16 (a % 65536)
  | 0x05 => cvtToFloat f16 mode sat_ v
  | 0x06 => fpOfV fp32 0 (intVal (sext a 16))
  | 0x07 => toI (-32768) 32767
  | 0x08 => fpOfV fp32 0 (e8m0Val a)
  | 0x09 => cvtToE8m0 mode sat_ v
  | 0x0A => widen e4m3 (a % 256)
  | 0x0B => cvtToFloat e4m3 mode sat_ v
  | 0x0C => widen e5m2 (a % 256)
  | 0x0D => cvtToFloat e5m2 mode sat_ v
  | 0x0E => widen e2m1 (a % 16)
  | 0x0F => cvtToFloat e2m1 mode sat_ v
  | 0x10 => fpOfV fp32 0 (intVal (sext a 8))
  | 0x11 => toI (-128) 127
  | 0x12 => fpOfV fp32 0 (intVal (a % 256 : Nat))
  | 0x13 => toI 0 255
  | 0x14 => fpOfV fp32 0 (intVal (sext a 4))
  | 0x15 => toI (-8) 7
  | 0x16 => fpOfV fp32 0 (intVal (a % 16 : Nat))
  | _ => toI 0 15

/-! ### Element formats (R42, R218) -/

/-- Bits per element of a format code (R42); CB2 elements are counted as 2 bits. -/
def elemBits (code : Nat) : Nat :=
  match code with
  | 2 | 3 | 6 => 4
  | 7 | 8 | 10 => 16
  | 9 | 11 => 32
  | 12 => 2
  | 14 => 64
  | _ => 8

/-- Is the code an integer format, and its range (R159)? -/
def intRange (code : Nat) : Option (Int × Int) :=
  match code with
  | 0 => some (-128, 127)
  | 1 => some (0, 255)
  | 2 => some (-8, 7)
  | 3 => some (0, 15)
  | 10 => some (-32768, 32767)
  | 11 => some (-2147483648, 2147483647)
  | _ => none

/-- The float format of a code. -/
def floatFmt (code : Nat) : Option Fmt :=
  match code with
  | 4 => some e4m3
  | 5 => some e5m2
  | 6 => some e2m1
  | 7 => some bf16
  | 8 => some f16
  | 9 => some fp32
  | 14 => some fp64
  | _ => none

/-- The integer an element pattern holds, in an integer format. -/
def elemInt (code x : Nat) : Int :=
  match code with
  | 1 | 3 => (x % 2 ^ elemBits code : Nat)
  | _ => sext x (elemBits code)

/-- The value of an element pattern. -/
def elemVal (code x : Nat) : FVal :=
  if code == 13 then e8m0Val x
  else match floatFmt code with
    | some f => unpack f x
    | none => intVal (elemInt code x)

/-- A value to a destination format (R181 to R183): the pattern and the flags. -/
def valTo (code mode : Nat) (sat_ : Bool) (v : FVal) : Nat × Word :=
  if code == 13 then cvtToE8m0 mode sat_ v
  else match floatFmt code, intRange code with
    | some f, _ => if f = fp32 then (match v with
        | .nan s => (fp32.cnan, flag s flNV)
        | w => fpOfV fp32 mode w) else cvtToFloat f mode sat_ v
    | none, some (lo, hi) => let (x, fl) := cvtToInt lo hi mode sat_ v; (wrapN (elemBits code) x, fl)
    | none, none => (0, 0)

/-- Conversion on a copy (R218): integers clamp exactly; everything else passes through FP32, in rn, first. -/
def copyConvert (src dst mode : Nat) (sat_ : Bool) (x : Nat) : Nat × Word :=
  if src == dst then (x, 0)
  else match intRange src, intRange dst with
    | some _, some (lo, hi) => (wrapN (elemBits dst) (sat (elemInt src x) lo hi), 0)
    | _, _ =>
      let (y, f1) := valTo 9 0 false (elemVal src x)
      if dst == 9 then (y, f1)
      else let (z, f2) := valTo dst mode sat_ (unpack fp32 y); (z, f1 ||| f2)

/-! ### The CB2 codebook (R163, R164) -/

/-- The eight coordinates of a code, in half-units, and whether one was saturated (R164). -/
def cbDecode (entry code : Nat) : List Int × Bool :=
  let s0 := ((List.range 7).map (fun i => bits code (i + 1) 1)).sum % 2
  let one := fun (i : Nat) =>
    let s := if i == 0 then s0 else bits code i 1
    let m : Int := (bits entry (4 * i) 4 : Nat)
    (if s == 1 then -m else m) + (bits code 0 1 : Nat)
  let vs := (List.range 8).map one
  (vs.map (fun v => sat v (-7) 7), vs.any (fun v => decide (v < -7) || decide (v > 7)))

/-- Coordinates packed as INT4 (R43, R272). -/
def cbPack (cs : List Int) : Nat := (cs.mapIdx (fun i c => wrapN 4 c * 16 ^ i)).sum

end Sys2Proof.Machine
end

