-- ==== Sys2Proof/Machine/EngineQ.lean ====
section
/-! DEFINITION. The engine's queue: the shapes of its operations, the tiles they touch, which command may start, which
K-chunk may fire, and who holds the claim (R261, R273 to R275, R285 to R287). -/

namespace Sys2Proof.Machine

/-- An engine with every store at zero; what the array has of the dense products stays (R261, R273). -/
def Engine.fresh (e : Engine) (owner : Option Nat) : Engine :=
  { owner := owner, grant := e.grant, lastDense := e.lastDense, lastChunk := e.lastChunk, lastServed := e.lastServed }

/-- A ring of a core (R291). -/
def ringOf (s : State) (core r : Nat) : Option Ring := fget (coreOf s core).engine.rings r
def modRing (s : State) (core r : Nat) (f : Ring → Ring) : State :=
  match ringOf s core r with
  | none => s
  | some x => modCore s core fun k => { k with engine := { k.engine with rings := fput k.engine.rings r (f x) } }

/-- The engine of a core is claimed by a block (R273). -/
def holdsClaim (s : State) (k : Block) : Bool := (coreOf s k.core).engine.owner == some k.id

/-- A ring of a block: of the engine while the block holds the claim, and kept with the block for the copies that run on after it (R236,
R273). DESIGN CHOICE, log entry 91 (unsafe). -/
def blockRing (s : State) (b r : Nat) : Option Ring :=
  (blockOf s b).bind fun k => if holdsClaim s k then ringOf s k.core r else fget k.rings r
def modBlockRing (s : State) (b r : Nat) (f : Ring → Ring) : State :=
  match blockOf s b with
  | none => s
  | some k =>
    if holdsClaim s k then modRing s k.core r f
    else match fget k.rings r with
      | some x => modBlock s b fun y => { y with rings := fput y.rings r (f x) }
      | none => s

def Ring.free (r : Ring) : Nat := r.count - r.entries.length
/-- The slots that the next n entries claimed at the tail take (R292). -/
def Ring.nextSlots (r : Ring) (n : Nat) : List Nat :=
  (((List.range r.count).map fun i => (r.head + r.entries.length + i) % max 1 r.count).filter fun k =>
    !r.entries.any fun e => e.slot == k).take n
def Ring.claim (r : Ring) (n : Nat) : Ring := { r with entries := r.entries ++ (r.nextSlots n).map fun k => { slot := k } }
def Ring.ready (r : Ring) (slot : Nat) : Ring :=
  { r with entries := r.entries.map fun e => if e.slot = slot then { e with ready := true } else e }
def Ring.kill (r : Ring) (slots : List Nat) : Ring :=
  { r with entries := r.entries.map fun e => if slots.contains e.slot && !e.ready then { e with dead := true } else e }

/-- Granules of an engine's store are no longer poisoned (R372): 0 accumulators, 1 scale memory, 2 lattice table, 3 queue
storage. -/
def clearPoison (s : State) (core store : Nat) (gs : List Nat) : State :=
  modCore s core fun k => { k with engine := { k.engine with
    poison := k.engine.poison.filter fun x => !(x.1 == store && gs.contains x.2) } }

/-- Granules of an engine's store that hold poison (R372). -/
def storePoisoned (e : Engine) (store : Nat) (gs : List Nat) : Bool := gs.any fun x => e.poison.contains (store, x)

/-- The class of an operand format (R274): field width F, the largest block side, and K per cell per clk. -/
def mmaClass (fmt : Nat) : Option (Nat × Nat × Nat) :=
  if fmt = 2 ∨ fmt = 3 ∨ fmt = 6 ∨ fmt = 12 then some (4, 128, 4)
  else if fmt = 0 ∨ fmt = 1 ∨ fmt = 4 ∨ fmt = 5 then some (8, 128, 1)
  else if fmt = 7 ∨ fmt = 8 then some (16, 64, 1)
  else if fmt = 9 then some (32, 32, 1)
  else none

/-- Bytes of an entry of a number of elements of a format (R43, R275). -/
def entryBytesOf (fmt elems : Nat) : Nat := elems * elemBits fmt / 8

/-- Cells of one accumulator tile (R275). -/
def tileCells : Nat := 4096

/-- The tiles that n cells from the first cell of a tile touch. -/
def tilesFrom (tile cells : Nat) : List Nat := (List.range (ceilDiv cells tileCells)).map (tile + ·)

/-- The tiles of a mask (R298). -/
def maskTiles (m : Nat) : List Nat := (List.range 16).filter (bit m)

/-- The cells of A when A is read from tiles (R288). -/
def MmaArgs.sourceCells (x : MmaArgs) : Nat := x.m * (x.kc * x.ksteps)

/-- The tiles that a command touches, as source or destination (R285). -/
def EngBody.tiles : EngBody → List Nat
  | .mma x => tilesFrom x.tile (x.m * x.n) ++ (match x.tileA with
      | some t => tilesFrom t x.sourceCells
      | none => [])
  | .drain x => tilesFrom x.tile (x.rows * x.cols)
  | .zero m => maskTiles m
  | .load .. => []

/-- The rings that a command names. -/
def EngBody.rings : EngBody → List Nat
  | .mma x => (if x.tileA.isSome then [] else [x.ringA]) ++ [x.ringB]
  | .drain x => x.ring.toList
  | .zero _ => []
  | .load .. => []

def EngBody.isLoad : EngBody → Bool
  | .load .. => true
  | _ => false

/-- The barrier at which a command arrives (R286, R296). -/
def EngBody.bar : EngBody → Option Nat
  | .mma x => x.bar
  | .drain x => x.bar
  | _ => none

def EngBody.isDrain : EngBody → Bool
  | .drain _ => true
  | _ => false

/-- The K-chunks of a command that are still to fire. -/
def EngCmd.chunksLeft (c : EngCmd) : Nat :=
  match c.body with
  | .mma x => if c.cuts.isEmpty then x.ksteps - c.chunk - (if c.firing then 1 else 0) else 0
  | _ => 0

/-- An array command that has no more work for the array (R285). -/
def EngCmd.arrayDone (c : EngCmd) : Bool :=
  c.started && !c.firing && c.chunksLeft == 0 && (match c.body with | .mma _ => true | _ => false)

/-- An entry at a place counted from the ring's head, when it is ready (R285). -/
def Ring.readyAt (r : Ring) (i : Nat) : Option REntry := (r.entries[i]?).bind fun e => if e.ready then some e else none

/-- The place from the head of the entry that a chunk reads in a ring (R285): `second` is B of a ring that A shares.
DEDUCED, log entry 25 (unsafe). -/
def chunkPlace (r : Ring) (chunk : Nat) (shared second : Bool) : Nat :=
  (if r.keep then (if shared then 2 * chunk else chunk) else 0) + if second then 1 else 0

/-- Where the entry of a chunk stands in queue storage, when it is ready. DEDUCED, log entry 25 (unsafe). -/
def entryAt (e : Engine) (ring chunk : Nat) (shared second : Bool) : Option Nat :=
  (fget e.rings ring).bind fun r => (r.readyAt (chunkPlace r chunk shared second)).map fun x => r.base + x.slot * (16 * r.esize)

/-- A and B come from one ring (R285). -/
def MmaArgs.shared (x : MmaArgs) : Bool := x.tileA.isNone && x.ringA == x.ringB

/-- The entries that the next chunk of an operation reads, when they are ready: that of A, unless A comes from tiles, and
that of B. -/
def chunkEntries (e : Engine) (x : MmaArgs) (chunk : Nat) : Option (Option Nat × Nat) :=
  match (if x.tileA.isSome then some none else (entryAt e x.ringA chunk x.shared false).map some),
        entryAt e x.ringB chunk x.shared x.shared with
  | some a, some b => some (a, b)
  | _, _ => none

/-- The next chunk of a started operation has its entries (R285). -/
def chunkReady (e : Engine) (c : EngCmd) : Bool :=
  c.started && !c.firing && decide (0 < c.chunksLeft) && match c.body with
    | .mma x => (chunkEntries e x c.chunk).isSome
    | _ => false

/-- A chunk is in the array (R261). -/
def Engine.busy (e : Engine) : Bool := e.cmds.any EngCmd.firing
/-- A chunk waits for the array (R261). -/
def Engine.waiting (e : Engine) : Bool := e.cmds.any (chunkReady e)

/-- The entries that a drain takes in its ring (R296). -/
def drainBytes (x : DrainArgs) : Nat := x.rows * x.cols * elemBits x.fmt / 8
def drainRoom (e : Engine) (x : DrainArgs) : Bool :=
  match x.ring with
  | none => true
  | some r => match fget e.rings r with
    | none => false
    | some ring => decide (drainBytes x / (16 * ring.esize) ≤ ring.free)

/-- A queued command may start behind these earlier, incomplete ones (R285, R296). -/
def mayStart (e : Engine) (earlier : List EngCmd) (c : EngCmd) : Bool :=
  !c.started
    && (if c.body.isLoad then earlier.isEmpty
        else earlier.all fun x =>
          !x.body.isLoad && !(x.body.tiles.any c.body.tiles.contains)
            && (x.body.isDrain != c.body.isDrain || x.arrayDone || (x.body.isDrain && x.acted)))
    && match c.body with
      | .drain x => drainRoom e x
      | _ => true

/-- The commands that may start. -/
def startableFrom (e : Engine) (earlier : List EngCmd) : List EngCmd → List EngCmd
  | [] => []
  | c :: cs => (if mayStart e earlier c then [c] else []) ++ startableFrom e (earlier ++ [c]) cs
def startable (e : Engine) : List EngCmd := startableFrom e [] e.cmds

/-- A command whose work is done, or that waits for nothing but its own completion. -/
def EngCmd.completes (c : EngCmd) : Bool :=
  match c.body with
  | .mma _ => c.arrayDone
  | _ => c.started

/-- An arrival releases the completion of every earlier command of the queue (R286, R322), so a command with an arrival completes
after them. -/
def arrivalInTurn (e : Engine) (c : EngCmd) : Bool := c.body.bar.isNone || e.cmds.head?.any fun x => x.id == c.id

/-- The command can go on: it starts, fires, is in the array, or completes. -/
def progresses (e : Engine) (c : EngCmd) : Bool :=
  c.firing || (c.completes && arrivalInTurn e c) || chunkReady e c || (startable e).any fun x => x.id == c.id

/-- Commands of a launch that can go on, on some core. -/
def engineActive (s : State) (launch : Nat) : Bool :=
  s.cores.any fun k => k.2.engine.cmds.any fun c => c.launch == launch && progresses k.2.engine c

/-- A word of the lattice table as a decode reads it while a load may be replacing it (R163, R272): wholly the old entry
or wholly the new one; none under an uncorrectable error (R372). -/
def latticeWord (s : State) (core j : Nat) : Option Word × State :=
  let e := (coreOf s core).engine
  let old := if storePoisoned e 2 [j / 4] then none else some (fgetD e.lattice j 0)
  let new := e.cmds.findSome? fun c => match c.body with
    | .load false first count _ => if c.acted && decide (first ≤ j) && decide (j < first + count)
        then some (BitVec.ofNat 32 (leAt c.data (4 * (j - first)) 4)) else none
    | _ => none
  match new with
  | some w => if (pick s 2).1 = 0 then (old, (pick s 2).2) else (some w, (pick s 2).2)
  | none => (old, s)

/-- The claim of a core's engine is held by this block of a launch's cluster; another's gangs see a table of zeros
(R273). -/
def claims (s : State) (core launch cluster rank : Nat) : Bool :=
  match (coreOf s core).engine.owner.bind (blockOf s) with
  | none => false
  | some b => b.launch == launch && b.rank == rank && ((clusterOf s b.clusterId).map Cluster.index == some cluster)

/-- The lattice table entry that a gang sees (R272, R273). -/
def latticeSeen (s : State) (core launch cluster rank : Nat) (task : Word) (j : Nat) : Option Word × State :=
  if task = 0 ∧ claims s core launch cluster rank = true then latticeWord s core j else (some 0, s)

/-- The table of zeros that a copy decodes from when its gang's block does not hold the claim (R219, R273). -/
def copyTable (s : State) (g : Gang) (m : TMap) : Option (FMap Word × List Nat) :=
  if m.fmt = 12 ∧ bit m.flags 2 = true ∧ !(g.task = 0 ∧ claims s g.core g.launch g.cluster g.rank = true) then some ([], []) else none

/-- The lattice table entry that a copy decodes from (R219, R305); none under an uncorrectable error (R372). -/
def copyLattice (s : State) (c : Copy) (j : Nat) : Option Word × State :=
  match c.table with
  | some (t, p) => (if p.contains (j / 4) then none else some (fgetD t j 0), s)
  | none => latticeWord s c.core j

/-- A claim ends: the copies of its block that have still to decode keep the table as it stands (R236, R305). -/
def keepTables (s : State) (core : Nat) : State :=
  let e := (coreOf s core).engine
  let t := some (e.lattice, (e.poison.filter fun x => x.1 == 2).map Prod.snd)
  { s with copies := s.copies.map fun c => if c.core = core ∧ c.map.fmt = 12 ∧ c.table.isNone then { c with table := t } else c }

end Sys2Proof.Machine
end

