-- ==== Sys2Proof/Machine/Shadows.lean ====
section
/-! DEFINITION. Exact FP32 addition on sum pages: shadows, their values, and the spill area (R253 to R255, R417). -/

namespace Sys2Proof.Machine

/-- A finite FP32 value in units of 2^−149. -/
def units149 (neg : Bool) (m : Nat) (e : Int) : Int := (if neg then -1 else 1) * ((m * 2 ^ (e + 149).toNat : Nat) : Int)

/-- A shadow with an FP32 value added to it (R253); acc wraps modulo 2^376. -/
def Shadow.add (h : Shadow) (w : Nat) : Shadow :=
  match unpack fp32 w with
  | .nan _ => { h with nan := true }
  | .inf n => if n then { h with ninf := true } else { h with pinf := true }
  | .fin n m e => { h with acc := h.acc + BitVec.ofInt 376 (units149 n m e) }

/-- The shadow seeded from a word's FP32 value (R253). -/
def seedShadow (w : Nat) : Shadow := Shadow.add { acc := 0 } w

/-- The value of a word that has a shadow (R254). -/
def Shadow.value (h : Shadow) : Nat :=
  if h.nan || (h.pinf && h.ninf) then fp32.cnan
  else if h.pinf then fp32.inf
  else if h.ninf then signed fp32 true fp32.inf
  else if h.acc = 0 then 0
  else (fpRound fp32 0 (decide (h.acc.toInt < 0)) h.acc.toInt.natAbs (-149)).1

/-- The 48 bytes of a shadow (R253). -/
def Shadow.bytes (h : Shadow) : List Byte :=
  leOf 48 ((if h.nan then 2 ^ 378 else 0) + (if h.ninf then 2 ^ 377 else 0) + (if h.pinf then 2 ^ 376 else 0) + h.acc.toNat)

/-- A shadow read from its 48 bytes. -/
def shadowOf (x used : Nat) : Shadow :=
  { acc := BitVec.ofNat 376 x, nan := bit x 378, ninf := bit x 377, pinf := bit x 376, used := used }

/-- The die and the slice that hold a word's shadow: those of its line (R18, R253). -/
def sameSlice (pa qa : Nat) : Bool :=
  pa / 2 ^ 46 == qa / 2 ^ 46 &&
    Config.l2Slice (pa / 128) % slicesOf (pa / 2 ^ 46) == Config.l2Slice (qa / 128) % slicesOf (qa / 2 ^ 46)

/-! ### Lines of the L2 slices (R11, R18, R227, R256) -/

/-- Lines of 128 bytes that a slice of a die holds: 1.5 MiB, and 5 MiB on Medlar (R11). -/
def sliceLines (die : Nat) : Nat := if die % 2 = 0 then 12288 else 40960

/-- A line leaves its home slice, and wakes every `mwait` that monitors it (R256). -/
def dropLine (s : State) (line : Nat) : State :=
  wakeMwait { s with lines := s.lines.filter (· != line) } (physLoc (128 * line)) 128

/-- The other lines that the slice of a line holds (R18). -/
def sliceMates (s : State) (line : Nat) : List Nat := s.lines.filter fun x => x != line && sameSlice (128 * x) (128 * line)

/-- A line is present at its home slice, most recent first (R227); a full slice gives up another for it, by a free choice. -/
def touchLine (s : State) (line : Nat) : State :=
  let s1 :=
    if s.lines.contains line || decide ((sliceMates s line).length < sliceLines (128 * line / 2 ^ 46)) then s
    else match pickFrom s (sliceMates s line) with
      | (some x, s') => dropLine s' x
      | (none, s') => s'
  { s1 with lines := line :: s1.lines.filter (· != line) }

/-- The shadows a slice holds in its own storage, the word itself apart. -/
def heldShadows (s : State) (pa : Nat) : List (Nat × Shadow) :=
  s.shadows.filter fun x => x.2.spilled.isNone && x.1 != pa && (x.1 / 128 == pa / 128 || sameSlice x.1 pa)

/-- The least recently used of some shadows. -/
def leastUsed : List (Nat × Shadow) → Option (Nat × Shadow)
  | [] => none
  | x :: xs => match leastUsed xs with
    | none => some x
    | some y => some (if x.2.used ≤ y.2.used then x else y)

/-- Where a place of a die's spill area stands (R255, R416). -/
def spillAddr (s : State) (d i : Nat) : Nat := (mgmtOf s d).shadow + 48 * i

/-- A free place in a die's spill area (R255); that of the word in use, which is read back, counts as free. -/
def spillPlace (s : State) (d pa : Nat) : Option Nat :=
  let used := s.shadows.filterMap fun x => if x.1 / 2 ^ 46 = dieId s d ∧ x.1 ≠ pa then x.2.spilled else none
  if (mgmtOf s d).shadow = 0 then none
  else (List.range (min (mgmtOf s d).shsize (used.length + 1))).find? fun i => !used.contains i

/-- Make room for one more shadow at the slice of a word: a full slice writes its least recently used shadow to the spill
area. Where there is no place for it, or the place may not be written, the answer is the address that receives the error
response (R17, R255, R417). The slices of another module's dies have their own spill areas, which this state does not hold:
their shadows always have room here. DESIGN CHOICE, log entry 77 (unsafe). -/
def makeShadowRoom (s : State) (pa : Nat) : Except Nat State :=
  if pa / 2 ^ 46 / 2 ≠ s.module ∨ (heldShadows s pa).length < Config.sliceShadows + 1 then .ok s
  else
    let d := pa / 2 ^ 46 % 2
    match leastUsed (heldShadows s pa), spillPlace s d pa with
    | some (qa, h), some i =>
      let a := spillAddr s d i
      if physOk s a && physOk s (a + 47) then
        let s1 := writeBytes s (physLoc a) h.bytes
        .ok { s1 with shadows := fput s1.shadows qa { h with spilled := some i } }
      else .error a
    | _, _ => .error pa

/-- The shadow of a word as it is used: read back from the spill area where it stands there (R255). -/
def readShadow (s : State) (pa : Nat) (h : Shadow) : Shadow :=
  match h.spilled with
  | none => h
  | some i => shadowOf (readNat s (physLoc (spillAddr s (pa / 2 ^ 46 % 2) i)) 48) h.used

/-- The shadow of a word stands in the spill area under an uncorrectable error (R372). -/
def shadowPoisoned (s : State) (pa : Nat) : Bool :=
  match (fget s.shadows pa).bind Shadow.spilled with
  | some i => poisonedAt s (physLoc (spillAddr s (pa / 2 ^ 46 % 2) i)) 48
  | none => false

/-- The value of a word of a sum page: of its shadow, or of the memory word (R254). -/
def sumValue (s : State) (pa : Nat) : Nat :=
  match fget s.shadows pa with
  | some h => (readShadow s pa h).value
  | none => readNat s (physLoc pa) 4

/-- The shadow of a word, seeded where it has none (R253). -/
def shadowAt (s : State) (pa : Nat) : Shadow :=
  match fget s.shadows pa with
  | some h => readShadow s pa h
  | none => seedShadow (readNat s (physLoc pa) 4)

/-- A word has a shadow in its slice's own storage. -/
def shadowHeld (s : State) (pa : Nat) : Bool := ((fget s.shadows pa).map fun h => h.spilled.isNone).getD false

/-- Add to a word of a sum page (R253): the state, the value before and the value after; or the address of the error response
where a shadow it needs has no room. -/
def addToSum (s : State) (pa w : Nat) : Except Nat (State × Nat × Nat) :=
  let h0 := shadowAt s pa
  match (if shadowHeld s pa then .ok s else makeShadowRoom s pa) with
  | .error a => .error a
  | .ok s1 =>
    let (n, s2) := newId s1
    let h1 := { Shadow.add h0 w with used := n, spilled := none }
    .ok ({ s2 with shadows := fput s2.shadows pa h1 }, h0.value, h1.value)

/-- Retire the shadows of a range of memory: each word's value is written and its shadow freed (R255). -/
def retireShadows (s : State) (lo n : Nat) : State :=
  (s.shadows.filter fun x => decide (lo ≤ x.1) && decide (x.1 < lo + n)).foldl (fun t x =>
    let u := writeNat t (physLoc x.1) 4 (readShadow t x.1 x.2).value
    { u with shadows := fdel u.shadows x.1 }) s

end Sys2Proof.Machine
end

