-- ==== Sys2Proof/Machine/Copies.lean ====
section
/-! DEFINITION. Asynchronous copies: tensor maps and commands, the elements of a box, delivery unit by unit, faults and
abandonment, batches (R209 to R238), and ring entries fed by copies (R287, R292). -/

namespace Sys2Proof.Machine

/-- Read a tensor map's bytes (R212). -/
def parseMap (bs : List Byte) : TMap :=
  { base := BitVec.ofNat 64 (leAt bs 0 8), fmt := leAt bs 8 1, rank := leAt bs 9 1, flags := leAt bs 0xA 1,
    dims := (List.range 5).map fun i => leAt bs (0x10 + 4 * i) 4,
    strides := 0 :: (List.range 4).map fun i => leAt bs (0x28 + 4 * i) 4,
    btab := BitVec.ofNat 64 (leAt bs 0x38 8) }

/-- The reserved fields of a map are zero (R213). -/
def mapReserved (bs : List Byte) : Bool :=
  leAt bs 0xB 5 == 0 && leAt bs 0x24 4 == 0 && leAt bs 0xA 1 < 16

def TMap.dim (m : TMap) (i : Nat) : Nat := m.dims.getD i 0
def TMap.stride (m : TMap) (i : Nat) : Nat := m.strides.getD i 0
def TMap.blockTable (m : TMap) : Bool := bit m.flags 0
def TMap.allColours (m : TMap) : Bool := bit m.flags 1
def TMap.expand (m : TMap) : Bool := bit m.flags 2
def TMap.sumRead (m : TMap) : Bool := bit m.flags 3

/-- A format with four bits an element. -/
def fourBit (fmt : Nat) : Bool := elemBits fmt == 4

/-- A map is valid (R213). -/
def TMap.valid (m : TMap) : Bool :=
  m.base.toNat % 16 == 0 && (!m.blockTable || m.btab.toNat % 8 == 0) && m.fmt < 15 && 1 ≤ m.rank && m.rank ≤ 5
    && (List.range 5).all (fun i => if i < m.rank then 1 ≤ m.dim i else m.dim i == 0)
    && (List.range 5).all (fun i => i == 0 || i < m.rank || m.stride i == 0)
    && (!fourBit m.fmt || m.dim 0 % 2 == 0) && (m.fmt != 12 || m.dim 0 % 8 == 0)
    && (!m.expand || m.fmt == 12) && (!m.sumRead || m.fmt == 9) && (!m.blockTable || 2 ≤ m.rank)

/-- A copy command's fields (R216, R218, R228). -/
structure CopyCmd where
  map : Dbl
  org : List Int
  ext : List Nat
  cvt : Nat
  dst : Nat
  mask : Nat
  ops : List Nat := []
  deriving DecidableEq, Repr

def parseCmd (bs : List Byte) (gen : Bool) : CopyCmd :=
  { map := BitVec.ofNat 64 (leAt bs 0 8),
    org := [sext (leAt bs 8 4) 32, sext (leAt bs 0xC 4) 32, sext (leAt bs 0x10 2) 16, sext (leAt bs 0x12 2) 16,
            sext (leAt bs 0x14 2) 16],
    ext := (List.range 5).map fun i => leAt bs (0x16 + i) 1 + 1,
    cvt := leAt bs 0x1B 1, dst := leAt bs 0x1C 2, mask := leAt bs 0x1E 2,
    ops := if gen then (List.range 16).map fun i => leAt bs (0x20 + 2 * i) 2 else [] }

/-- The scratchpad-side format (R218, R219): expanded CB2 is INT4. -/
def sideFmt (m : TMap) (cvt : Nat) : Nat := if bit cvt 7 then bits cvt 0 4 else if m.expand then 2 else m.fmt

/-- A format may be a copy's destination by R42. -/
def fmtDst (f : Nat) : Bool := f < 14 && f != 12

/-- A micro-program is valid (R228). The end micro-op names no source and no constant, so these fields of it may hold
anything. DEDUCED, log entry 52 (unsafe). -/
def microOk : List Nat → Bool
  | [] => true
  | x :: xs =>
    let op := bits x 12 4
    let d := bits x 8 4
    let k := bits x 0 4
    (d < 5 || (10 ≤ d && d < 15)) &&
    if op = 0 then xs.all (· == 0)
    else op < 11 && (!(op == 1 || op == 2 || op == 3 || op == 9) || k == 0)
      && (!(op == 6 || op == 7) || k != 0) && microOk xs

/-- A command is valid for its map and direction (R216 to R219, R228). -/
def CopyCmd.valid (c : CopyCmd) (m : TMap) (out gen : Bool) (task : Bool) (blocks : Nat) : Bool :=
  let side := sideFmt m c.cvt
  let en := bit c.cvt 7
  (List.range 5).all (fun i => i < m.rank || (c.org.getD i 0 == 0 && c.ext.getD i 1 == 1))
    && (!fourBit m.fmt || c.org.getD 0 0 % 2 == 0)
    && (!(fourBit m.fmt || fourBit side) || c.ext.getD 0 1 % 2 == 0)
    && (m.fmt != 12 || (c.org.getD 0 0 % 8 == 0 && c.ext.getD 0 1 % 8 == 0))
    && (if en then fmtDst side && m.fmt != 12 else c.cvt == 0)
    && (!out || (m.fmt != 12 && m.fmt != 14 && c.dst < 2 ^ 15 && c.mask == 0))
    && (c.dst < 2 ^ 15 || bits c.dst 4 11 == 0)
    && c.mask < 2 ^ 12 && (!task || (c.mask == 0 && c.dst < 2 ^ 15))
    && (List.range 12).all (fun r => !bit c.mask r || r < blocks)
    && (!gen || (microOk c.ops && !fourBit m.fmt && m.fmt != 12))

/-- Elements that are moved together: those that share bytes on either side. -/
def unitElems (m : TMap) (cvt : Nat) : Nat :=
  if m.fmt = 12 then 8 else if fourBit m.fmt || fourBit (sideFmt m cvt) then 2 else 1

/-- Bytes of a unit on the scratchpad side (R217). -/
def unitBytes (m : TMap) (cvt : Nat) : Nat :=
  if m.fmt = 12 then (if m.expand then 4 else 2) else unitElems m cvt * elemBits (sideFmt m cvt) / 8

/-- Elements of a box. -/
def boxElems (ext : List Nat) : Nat := ext.foldl (· * ·) 1

/-- Box indices of element number k (R217). -/
def boxIndex (ext : List Nat) (k : Nat) : List Nat :=
  match ext with
  | [] => []
  | n :: ns => k % n :: boxIndex ns (k / n)

/-- Run a micro-program over registers c0–c4, j0–j4, t0–t4 held in one list (R228). -/
def runMicro : List Nat → List Int → List Int
  | [], r => r
  | x :: xs, r =>
    let op := bits x 12 4
    let d := bits x 8 4
    let sv := r.getD (bits x 4 4) 0
    let k : Int := bits x 0 4
    let dv := r.getD d 0
    if op = 0 then r
    else
      let v : Int := match op with
        | 1 => dv + sv
        | 2 => dv - sv
        | 3 => dv * sv
        | 4 => sv + k
        | 5 => sv * k
        | 6 => sv / k
        | 7 => sv % k
        | 8 => sv * 2 ^ k.toNat
        | 9 => sv
        | _ => sv - k
      runMicro xs (setAt r d (sext (wrapN 32 v) 32))

/-- The coordinates of element number k of a copy's box (R217, R228). -/
def elemCoords (c : Copy) (k : Nat) : List Int :=
  let j := boxIndex c.ext k
  if c.kind = .gen then (runMicro c.ops (c.org ++ j.map Int.ofNat ++ List.replicate 5 0)).take 5
  else c.org.mapIdx fun i x => x + ((j.getD i 0 : Nat) : Int)

/-- An element lies outside the map (R215). -/
def outOfBounds (m : TMap) (xs : List Int) : Bool :=
  (List.range m.rank).any fun i => xs.getD i 0 < 0 || (m.dim i : Int) ≤ xs.getD i 0

/-- Byte offset of coordinate 0 (R214). -/
def off0 (fmt x : Nat) : Nat := if fmt = 12 then 2 * (x / 8) else if fourBit fmt then x / 2 else x * elemBits fmt / 8

/-- Bytes of one element access on the global side. -/
def globalBytes (fmt : Nat) : Nat := if fmt = 12 then 2 else if fourBit fmt then 1 else elemBits fmt / 8

/-- What one element of a copy meets: nothing to access; an access at a physical address; or a fault. -/
inductive ElemAt where
  | nothing
  | at_ (ea : Dbl) (pa : Nat) (leaf : Dbl)
  | bad (cause : Nat) (loc : Dbl) (colour : Nat)
  deriving DecidableEq, Repr

/-- A checked global access of a copy: checks 1 to 8 of R196, with the attributes of R220 and R330. `always` is flags bit 1 of
the map, which checks colours on every page (R221); `sumRead` is flags bit 3. -/
def copyAccess (s : State) (c : Copy) (ea : Dbl) (n : Nat) (w sumRead always : Bool) : State × ElemAt :=
  let L := launchD s c.launch
  if !canonical ea then (s, .bad 0x13 ea 0)
  else if ea.toNat % n != 0 then (s, .bad 0x16 ea 0)
  else if apertureOf ea != .global then (s, .bad 0x15 ea 0)
  else
    match globalAccess s (.core c.core) L ea n
      { r := !w, w := w, reads := !w, always := always, sum := if w || !sumRead then some false else none } 1 with
    | (s1, .bad cause loc col) => (s1, .bad cause loc col)
    | (s1, .ok pa leaf) =>
      if leafCell leaf && cellState s1 (pa / 8 * 8) != cellValue then (s1, .bad 0x11 ea 0)
      else if leafSum leaf && shadowPoisoned s1 pa then (s1, .bad 0x60 ea 0)
      else (s1, .at_ ea pa leaf)

/-- Where element number k lies, with its checks (R214, R215); those of a block-table entry come before those of the element, and show
the element's address (R196, R233, R234). -/
def elemAt (s : State) (c : Copy) (k : Nat) (w : Bool) : State × ElemAt :=
  let m := c.map
  let xs := elemCoords c k
  if outOfBounds m xs then (s, .nothing)
  else
    let last := m.rank - 1
    let inner := off0 m.fmt (xs.getD 0 0).toNat +
      ((List.range 5).map fun i =>
        if i = 0 ∨ m.rank ≤ i ∨ (m.blockTable ∧ i = last) then 0 else (xs.getD i 0).toNat * 16 * m.stride i).sum
    let go := fun (s' : State) (base : Dbl) =>
      match effAddr base inner with
      | none => (s', ElemAt.bad 0x13 (shownAddr base inner) 0)
      | some ea => copyAccess s' c ea (globalBytes m.fmt) w m.sumRead m.allColours
    if m.blockTable then
      match effAddr m.btab (8 * (xs.getD last 0).toNat : Nat) with
      | none => (s, .bad 0x13 (shownAddr m.btab (8 * (xs.getD last 0).toNat : Nat)) 0)
      | some ea =>
        match copyAccess s c ea 8 false false false with
        | (s1, .at_ _ pa _) =>
          let b : Dbl := BitVec.ofNat 64 (readNat s1 (physLoc pa) 8)
          if b = 0 then (s1, .nothing)
          else if b.toNat % 16 != 0 then
            match effAddr b inner with
            | none => (s1, .bad 0x13 (shownAddr b inner) 0)
            | some at_ => (s1, .bad 0x16 at_ 0)
          else go s1 b
        | r => r
    else go s m.base

/-- The pattern an element read gives: from its shadow on a sum page (R220), its nibble in a 4-bit format (R43). -/
def elemPattern (s : State) (c : Copy) (k pa : Nat) (leaf : Dbl) : Nat :=
  let n := globalBytes c.map.fmt
  let x := if leafSum leaf then sumValue s pa else readNat s (physLoc pa) n
  if fourBit c.map.fmt then (if (elemCoords c k).getD 0 0 % 2 == 0 then x % 16 else x / 16) else x

/-- The next unit of a copy in: its scratchpad bytes and flags, or the fault of its first faulting element. -/
def readUnitLoop (c : Copy) : Nat → Nat → State → State × Except (Nat × Dbl × Nat) (Nat × Word)
  | 0, _, s => (s, .ok (0, 0))
  | n + 1, k, s =>
    match elemAt s c k false with
    | (s1, .bad cause loc col) => (s1, .error (cause, loc, col))
    | (s1, r) =>
      let side := sideFmt c.map c.cvt
      let w := elemBits side
      let (x, fl) := match r with
        | .at_ _ pa leaf => copyConvert c.map.fmt side (bits c.cvt 4 2) (bit c.cvt 6) (elemPattern s1 c k pa leaf)
        | _ => (0, 0)
      match readUnitLoop c n (k + 1) s1 with
      | (s2, .ok (y, f2)) => (s2, .ok (x % 2 ^ w + y * 2 ^ w, fl ||| f2))
      | e => e

/-- A CB2 unit: one code, moved as it is or decoded by the core's lattice table (R164, R219). -/
def readCode (s : State) (c : Copy) : State × Except (Nat × Dbl × Nat) (Nat × Word) :=
  match elemAt s c (c.pos * 8) false with
  | (s1, .bad cause loc col) => (s1, .error (cause, loc, col))
  | (s1, .at_ ea pa _) =>
    let code := readNat s1 (physLoc pa) 2
    if c.map.expand then
      match copyLattice s1 c (code / 256) with
      | (none, s2) => (s2, .error (0x60, ea, 0))
      | (some w, s2) =>
        let (cs, satd) := cbDecode w.toNat code
        (s2, .ok (cbPack cs, flag satd flCBI))
    else (s1, .ok (code, 0))
  | (s1, .nothing) => (s1, .ok (0, 0))

def readUnit (s : State) (c : Copy) : State × Except (Nat × Dbl × Nat) (Nat × Word) :=
  if c.map.fmt = 12 then readCode s c
  else readUnitLoop c (unitElems c.map c.cvt) (c.pos * unitElems c.map c.cvt) s

/-- A counted barrier's place in a named rank. -/
def barPlace (c : Copy) (rankBlock : Option Nat) : Option Loc :=
  c.bar.map fun off => match rankBlock with
    | some b => ⟨.scratch b, off⟩
    | none => ⟨.priv c.gang, off⟩

/-- The places a copy delivers to, or for a copy out its issuing side. -/
def copyPlaces (c : Copy) : List (Nat × Option Nat) :=
  if c.ranks.isEmpty then [(0, none)] else c.ranks.map fun r => (r.1, some r.2)

/-- Lower a balance by n counted bytes; a balance that passes zero on the way is tested there (R225, R240). -/
def barLower (s : State) (l : Loc) (n : Nat) : State :=
  let b := (readBar s l).bal.toInt
  if 0 < b ∧ b < n then barAdd (barAdd s l (-b)) l (b - n) else barAdd s l (-(n : Int))

/-- Lower the balance of a copy's counted barrier in one rank. -/
def lowerAt (c : Copy) (n : Nat) (s : State) (r : Nat × Option Nat) : State :=
  match barPlace c r.2 with
  | some l => barLower s l n
  | none => s

/-- Lower the balance of every counted barrier of a copy. -/
def lowerAll (s : State) (c : Copy) (n : Nat) : State := (copyPlaces c).foldl (lowerAt c n) s

/-- The pooled address of an offset of a rank with a colour, as fault records show it (R234). -/
def pooledAddr (colour rank off : Nat) : Dbl := BitVec.ofNat 64 (colour * 2 ^ 60 + 0x0FFFF00000000000 + rank * 2 ^ 20 + off)

/-- Is the destination a ring? -/
def Copy.toRing (c : Copy) : Bool := decide (2 ^ 15 ≤ c.dst)
def Copy.ringId (c : Copy) : Nat := c.dst % 16

/-- Write bytes into a block's queue storage. -/
def writeQueue (s : State) (b off : Nat) (bs : List Byte) : State :=
  match blockOf s b with
  | none => s
  | some x =>
    let s1 := modBlock s b fun k => { k with queue := wrBytes k.queue off bs }
    if holdsClaim s x then clearPoison s1 x.core 3 (wholeGranules off bs.length) else s1

/-- Deliver a unit's bytes at offset `at_` of the box into one rank: its scratchpad, or the ring entries claimed there; an
entry becomes ready with its last byte (R224, R292). -/
def deliverTo (c : Copy) (at_ : Nat) (bs : List Byte) (s : State) (r : Nat × Option Nat) : State :=
  match r.2 with
  | none => writeBytes s ⟨.priv c.gang, 16 * c.dst + at_⟩ bs
  | some b =>
    if c.toRing then
      match blockRing s b c.ringId with
      | none => s
      | some ring =>
        let e := 16 * ring.esize
        let slot := (((c.slots.find? fun x => x.1 == r.1).map Prod.snd).getD []).getD (at_ / e) 0
        let s1 := writeQueue s b (ring.base + slot * e + at_ % e) bs
        if (at_ + bs.length) % e = 0 then modBlockRing s1 b c.ringId fun x => x.ready slot else s1
    else writeBytes s ⟨.scratch b, 16 * c.dst + at_⟩ bs

/-- A destination that a peer's carve has cut off (R109, R233): the pooled address of the byte. -/
def cutOff (s : State) (c : Copy) (at_ n : Nat) : Option Dbl :=
  if c.toRing then none
  else
    (copyPlaces c).findSome? fun r => match r.2 with
      | none => none
      | some b => match blockOf s b with
        | none => some (pooledAddr c.colour r.1 (16 * c.dst + at_))
        | some k => if 16 * c.dst + at_ + n ≤ k.pad.size then none else some (pooledAddr c.colour r.1 (16 * c.dst + at_))

/-- A scratchpad granule of an element that a copy touches has another colour (R203, R221, R233): the pooled address of the
element, and the colour held. -/
def spaceClash (s : State) (c : Copy) (at_ n : Nat) : Option (Dbl × Nat) :=
  if c.toRing then none
  else
    (copyPlaces c).findSome? fun r =>
      let p := match r.2 with | some b => Place.scratch b | none => Place.priv c.gang
      (spaceColourBad s ⟨p, 16 * c.dst + at_⟩ n c.colour).map fun k =>
        (pooledAddr c.colour r.1 (16 * c.dst + at_), colourAt s ⟨p, k * 16⟩)

/-- Flags join the issuing thread's `%aflags`, if the thread has not ended (R218, R238). -/
def joinFlags (s : State) (c : Copy) : State :=
  modGang s c.gang fun g => if inMask g.live c.lane then modThread g c.lane fun t => orFlags t c.aflags else g

/-- A copy has completed or is abandoned: it leaves the state, its flags join, and its task's record is settled. -/
def removeCopy (s : State) (c : Copy) : State :=
  let s1 := joinFlags { s with copies := s.copies.filter fun x => x.id != c.id } c
  if c.task = 0 then s1 else settleTask s1 c.task

/-- Units of a copy in delivered at a rank (R226). -/
def Copy.unitsAt (c : Copy) (rank : Nat) : Nat := c.pos + fgetD c.ahead rank 0

/-- The entries that a copy has claimed in a rank and not made ready (R287, R294), of an entry size in 16-byte units. -/
def Copy.unready (c : Copy) (rank esize : Nat) : List Nat :=
  (((c.slots.find? fun x => x.1 == rank).map Prod.snd).getD []).drop (c.unitsAt rank * unitBytes c.map c.cvt / (16 * esize))

/-- Abandon a copy (R235, R238): the entries it claimed and did not make ready become dead (R287). -/
def abandonCopy (s : State) (c : Copy) : State :=
  let s1 := c.ranks.foldl (fun t x => if c.toRing then modBlockRing t x.2 c.ringId fun r => r.kill (c.unready x.1 r.esize) else t) s
  removeCopy s1 c

/-- The channel of a copy as its barriers and its event name it; for a prefetch, which has none, the value is open.
DEDUCED, log entry 55 (safe). -/
def channelOf (s : State) (c : Copy) : Nat × State := if c.kind = .pf then ((freeNat s).1 % 16, (freeNat s).2) else (c.chan, s)

/-- The event of an abandoned copy whose thread has ended (R236, R428). -/
def postAbandoned (s0 : State) (c : Copy) (cause : Nat) (loc : Dbl) : State :=
  let (ch, s) := channelOf s0 c
  let L := launchD s c.launch
  let level := ((gangOf s c.gang).map Gang.level).getD 0
  postEvent s (coreDie c.core) 7 L.ctx (some c.launch)
    [(0x10, 8, L.addr.toNat), (0x18, 4, L.take), (0x1C, 4, c.cluster), (0x20, 4, c.task.toNat), (0x24, 1, c.rank),
     (0x25, 1, c.index), (0x26, 1, level), (0x28, 2, coreField s c.core), (0x30, 8, c.pc.toNat),
     (0x38, 2, cause + 256), (0x3A, 1, ch), (0x3B, 1, c.lane), (0x40, 8, loc.toNat)]

/-- A copy stops at a deferred fault (R233): its barriers are short and its channel stops; the copy of an ended thread is
abandoned instead (R236). -/
def stopCopy (s : State) (c : Copy) (cause : Nat) (loc : Dbl) (colour : Nat) : State :=
  let s0 := if cause = 0x14 then
      traceOn s c.launch c.core 6 (((gangOf s c.gang).map gangBytes).getD c.who) (leOf 8 loc.toNat ++ leOf 1 colour ++ leOf 1 1)
    else s
  let (ch, s0') := channelOf s0 c
  let s1 := (copyPlaces c).foldl (fun t r => match barPlace c r.2 with | some l => barShort t l ch | none => t) s0'
  if c.orphan then abandonCopy (postAbandoned s1 c cause loc) c
  else
    let (n, s2) := newId s1
    modCopy s2 c.id fun x => { x with state := .stopped cause loc false n }

/-- `%cwp` follows deliveries into the issuing core's own scratchpad (R210). -/
def cwpWord (seq count : Nat) : Word := BitVec.ofNat 32 (seq % 4096 * 2 ^ 20 + count % 2 ^ 20)
def setCwp (s : State) (c : Copy) (count : Nat) : State :=
  match c.seq with
  | none => s
  | some q => modCore s c.core fun k => { k with cwp := fput k.cwp c.chan (cwpWord q count) }

/-- The next unit of a copy in is read, and its destinations are checked as it arrives (R224, R233). -/
def fetchUnit (s : State) (c : Copy) : State × Except (Nat × Dbl × Nat) (List Byte × Word) :=
  let n := unitBytes c.map c.cvt
  let at_ := c.pos * n
  match c.fault, readUnit s c with
  | some e, _ => (s, .error e)
  | none, (s1, .error e) => (s1, .error e)
  | none, (s1, .ok (x, fl)) =>
    match cutOff s1 c at_ n with
    | some loc => (s1, .error (0x15, loc, 0))
    | none =>
      match spaceClash s1 c at_ n with
      | some (loc, held) => (s1, .error (0x14, loc, held))
      | none => (s1, .ok (leOf n x, fl))

/-- A copy in goes on in its new state, or is complete (R224). -/
def advanceCopy (s : State) (c : Copy) : State := if c.pos = c.units then removeCopy s c else modCopy s c.id fun _ => c

/-- One unit of a copy in to one place is delivered (R224, R225). -/
def deliverIn (s : State) (c : Copy) : State × Option (Nat × Dbl × Nat) :=
  let n := unitBytes c.map c.cvt
  match fetchUnit s c with
  | (s1, .error e) => (s1, some e)
  | (s1, .ok (bs, fl)) =>
    let s2 := (copyPlaces c).foldl (deliverTo c (c.pos * n) bs) s1
    (advanceCopy (setCwp (lowerAll s2 c n) c (c.pos * n + n)) { c with pos := c.pos + 1, aflags := c.aflags ||| fl }, none)

/-! ### Scatter copies (R226) -/

/-- Ring entries are claimed in a rank, where the copy needs them. -/
def Copy.claimedAt (c : Copy) (rank : Nat) : Bool := !c.toRing || c.slots.any fun x => x.1 == rank

/-- The copy as it stands at the unit it reads next. -/
def Copy.atRead (c : Copy) : Copy := { c with pos := c.pos + c.buf.length }

/-- Every rank has the oldest units read: they are kept no longer. -/
def Copy.settleRanks : Nat → Copy → Copy
  | 0, c => c
  | n + 1, c =>
    if (copyPlaces c).all fun r => 1 ≤ fgetD c.ahead r.1 0 then
      Copy.settleRanks n { c with pos := c.pos + 1, buf := c.buf.tail, ahead := c.ahead.map fun x => (x.1, x.2 - 1) }
    else c

/-- The next unit of a scatter copy is read, once for all its ranks. -/
def scatterRead (s : State) (c : Copy) : State × Option (Nat × Dbl × Nat) :=
  match fetchUnit s c.atRead with
  | (s1, .error e) => (s1, some e)
  | (s1, .ok (bs, fl)) => (modCopy s1 c.id fun x => { x with buf := c.buf ++ [bs], aflags := c.aflags ||| fl }, none)

/-- A rank of a scatter copy receives the next unit that it lacks. -/
def deliverRank (s : State) (c : Copy) (r : Nat × Option Nat) : State :=
  let n := unitBytes c.map c.cvt
  let at_ := c.unitsAt r.1 * n
  let s1 := lowerAt c n (deliverTo c at_ (c.buf.getD (fgetD c.ahead r.1 0) []) s r) r
  let s2 := if r.1 = c.rank then setCwp s1 c (at_ + n) else s1
  let c' := { c with ahead := fput c.ahead r.1 (fgetD c.ahead r.1 0 + 1) }
  advanceCopy s2 (c'.settleRanks (c'.buf.length + 1))

/-- The ranks of a scatter copy that can receive a unit already read. -/
def behindRanks (c : Copy) : List (Nat × Option Nat) :=
  (copyPlaces c).filter fun r => c.claimedAt r.1 && decide (fgetD c.ahead r.1 0 < c.buf.length)

/-- One move of a scatter copy: by a free choice a unit is read, or a rank receives one (R226). A unit that faults is not looked
at before every rank has what precedes it (R233). -/
def scatterMove (s : State) (c : Copy) : State × Option (Nat × Dbl × Nat) :=
  let reads := decide (c.pos + c.buf.length < c.units) && (c.buf.isEmpty || (scatterRead s c).2.isNone)
  let moves := (if reads then [none] else []) ++ (behindRanks c).map some
  match pickFrom s moves with
  | (some none, s1) => scatterRead s1 c
  | (some (some r), s1) => (deliverRank s1 c r, none)
  | (none, s1) => (s1, none)

/-- What a scatter copy has read for a block is delivered there: a change of the block's size comes after it (R109, R237). -/
def flushRank (block : Nat) : Nat → State → State
  | 0, s => s
  | n + 1, s =>
    match s.copies.find? fun c => (behindRanks c).any fun r => r.2 == some block with
    | none => s
    | some c =>
      match (behindRanks c).find? fun r => r.2 == some block with
      | some r => flushRank block n (deliverRank s c r)
      | none => s

/-- The source of a copy out: its own scratchpad. -/
def sourceLoc (c : Copy) (at_ : Nat) : Loc :=
  match c.ranks with
  | (_, b) :: _ => ⟨.scratch b, 16 * c.dst + at_⟩
  | [] => ⟨.priv c.gang, 16 * c.dst + at_⟩

/-- What the next unit of a copy out meets at its source: a colour that does not match (R233), or an uncorrectable error. -/
def sourceFault (s : State) (c : Copy) : Option (Nat × Dbl × Nat) :=
  let n := unitBytes c.map c.cvt
  let l := sourceLoc c (c.taken * n)
  if c.fault.isSome then c.fault
  else match spaceClash s c (c.taken * n) n with
  | some (loc, held) => some (0x14, loc, held)
  | none => (poisonFirst s l n).map fun k => (0x60, pooledAddr c.colour c.rank (max l.off (k * 16)), 0)

/-- The next unit of a copy out is read from its source (R237). -/
def takeOut (s : State) (c : Copy) : State × Option (Nat × Dbl × Nat) :=
  let n := unitBytes c.map c.cvt
  let l := sourceLoc c (c.taken * n)
  match sourceFault s c with
  | some f => (s, some f)
  | none => (modCopy s c.id fun x => { x with taken := c.taken + 1, buf := c.buf ++ [readBytes s l n] }, none)

/-- Where each element of a unit out goes, or the first fault; nothing is written yet. -/
def placeUnit (c : Copy) : Nat → Nat → State → State × Except (Nat × Dbl × Nat) (List (Option (Dbl × Nat)))
  | 0, _, s => (s, .ok [])
  | n + 1, k, s =>
    match elemAt s c k true with
    | (s1, .bad cause loc col) => (s1, .error (cause, loc, col))
    | (s1, r) =>
      match placeUnit c n (k + 1) s1 with
      | (s2, .ok ps) => (s2, .ok ((match r with | .at_ ea pa _ => some (ea, pa) | _ => none) :: ps))
      | e => e

/-- Write one element of a unit out: a 4-bit element changes its own nibble. -/
def writeElem (c : Copy) (s : State) (k : Nat) (ea : Dbl) (pa x : Nat) : State :=
  let n := globalBytes c.map.fmt
  let v := if fourBit c.map.fmt then
      (if (elemCoords c k).getD 0 0 % 2 == 0 then readNat s (physLoc pa) 1 / 16 * 16 + x % 16
       else readNat s (physLoc pa) 1 % 16 + x % 16 * 16)
    else x
  globalWrite s (.core c.core) (launchD s c.launch).ctx (vaOf ea) pa (leOf n v)

def writeUnit (c : Copy) (src : Nat) : List (Option (Dbl × Nat)) → Nat → Nat → State → Word → State × Word
  | [], _, _, s, fl => (s, fl)
  | p :: ps, i, k, s, fl =>
    let side := sideFmt c.map c.cvt
    let w := elemBits side
    match p with
    | none => writeUnit c src ps (i + 1) (k + 1) s fl
    | some (ea, pa) =>
      let (x, f) := copyConvert side c.map.fmt (bits c.cvt 4 2) (bit c.cvt 6) (bits src (w * i) w)
      writeUnit c src ps (i + 1) (k + 1) (writeElem c s k ea pa x) (fl ||| f)

/-- The oldest unit read of a copy out is performed at its home slices (R224, R225). -/
def performOut (s : State) (c : Copy) : State × Option (Nat × Dbl × Nat) :=
  match c.buf with
  | [] => (s, none)
  | bs :: rest =>
    let u := unitElems c.map c.cvt
    match placeUnit c u (c.pos * u) s with
    | (s1, .error e) => (s1, some e)
    | (s1, .ok ps) =>
      let (s2, fl) := writeUnit c (natOf bs) ps 0 (c.pos * u) s1 0
      let c' := { c with pos := c.pos + 1, buf := rest, aflags := c.aflags ||| fl }
      let s3 := lowerAll (modCopy s2 c.id fun _ => c') c bs.length
      (if c'.pos = c.units then removeCopy s3 c' else s3, none)

/-- The destination side of a copy is complete (R231). -/
def Copy.finished (c : Copy) : Bool := c.kind == .out && c.taken == c.units

/-- A batch is finished, or visible (R231): a copy that has completed is no longer in the state. -/
def batchFinished (s : State) (b : Batch) : Bool :=
  b.copies.all fun i => match copyOf s i with | none => true | some c => c.finished
def batchVisible (s : State) (b : Batch) : Bool := b.copies.all fun i => (copyOf s i).isNone

def unfinished (s : State) (t : Thread) : Nat := (t.batches.filter fun b => !batchFinished s b).length
def invisible (s : State) (t : Thread) : Nat := (t.batches.filter fun b => !batchVisible s b).length

/-- Batches that are visible need no longer be kept. -/
def trimBatches (s : State) (t : Thread) : Thread := { t with batches := t.batches.filter fun b => !batchVisible s b }

/-- The shared issue queue, and the entry reserved for a gang (R230). DEDUCED, log entry 55 (safe). -/
def sharedUsed (s : State) (core : Nat) : Nat := (s.copies.filter fun c => c.core == core && !c.reserved).length
def reservedUsed (s : State) (gang : Nat) : Bool := s.copies.any fun c => c.gang == gang && c.reserved
def entryFree (s : State) (g : Gang) : Bool := sharedUsed s g.core < 128 || !reservedUsed s g.id

/-- The copies of a gang's lanes lose their thread (R236): those stopped are abandoned, the rest run on. -/
def orphanCopies (s : State) (gang : Nat) (lanes : Word) : State :=
  let who := ((gangOf s gang).map gangBytes).getD []
  (s.copies.filter fun c => c.gang == gang && inMask lanes c.lane).foldl (fun t c =>
    match c.state with
    | .stopped cause loc _ _ => abandonCopy (postAbandoned t { c with orphan := true } cause loc) { c with orphan := true }
    | _ => modCopy t c.id fun x => { x with orphan := true, who := who }) s

/-- The rest of a copy out's source is read, up to a unit that cannot be. -/
def takeRest (id : Nat) : Nat → State → State
  | 0, s => s
  | n + 1, s =>
    match copyOf s id with
    | none => s
    | some c =>
      if c.taken = c.units then s
      else match takeOut s c with
        | (s1, none) => takeRest id n s1
        | (s1, some f) => modCopy s1 id fun x => { x with fault := some f }

/-- A private scratchpad is freed: the copies out of it that run on have read it by then (R236, R237). -/
def takePrivate (s : State) (gang : Nat) : State :=
  (s.copies.filter fun c => c.kind == .out && c.gang == gang && c.ranks.isEmpty).foldl
    (fun t c => takeRest c.id (c.units + 1) t) s

end Sys2Proof.Machine
end

