-- ==== Sys2Proof/Machine/Gangs.lean ====
section
/-! DEFINITION. Slots (R100, R110), how a gang waits at a blocking point (R367), and how gangs, tasks, clusters and
launches come to their ends: R24, R97, R129, R273, R289, R345 to R348, R365, R427; stops and watchpoint hits (R380,
R383). -/

namespace Sys2Proof.Machine

/-- Gangs of a core on one scheduler's slots. -/
def onSched (sch : Nat) (g : Gang) : Bool :=
  match g.slot with
  | some (.normal t _) => t == sch
  | _ => false
def schedGangs (s : State) (core sch : Nat) : List Gang := s.gangs.filter fun g => g.core == core && onSched sch g
def landed (g : Gang) : Bool := g.slot == some .landing
def landingGang (s : State) (core : Nat) : Option Gang := s.gangs.find? fun g => g.core == core && landed g
/-- The free slots of a core among its 64. -/
def freeSlots (s : State) (core : Nat) : Nat := 64 - ((List.range 4).map fun i => (schedGangs s core i).length).sum

/-- The scheduler with the fewest resident gangs, the lowest-numbered on a tie (R100). -/
def bestSched (s : State) (core : Nat) : Nat :=
  (List.range 4).foldl (fun b i => if (schedGangs s core i).length < (schedGangs s core b).length then i else b) 0

/-- A slot for an arriving gang (R100); which of a scheduler's free slots is a free choice. -/
def takeSlot (s : State) (core : Nat) : State × Option Slot :=
  let sch := bestSched s core
  let used := (schedGangs s core sch).map fun g => slotNumber g % 16
  match pickFrom s ((List.range 16).filter fun i => !used.contains i) with
  | (some p, s1) => (s1, some (.normal sch p))
  | (none, s1) => (s1, none)

/-- Give a gang a slot, with its place in the order of arrival (R123). -/
def giveSlot (s : State) (id core : Nat) : State :=
  match takeSlot s core with
  | (s1, some sl) => let (n, s2) := newId s1; modGang s2 id fun g => { g with slot := some sl, placed := n }
  | (s1, none) => s1

/-- A gang in a landing slot moves to a free slot (R110). -/
def landingMove (s : State) (core : Nat) : State :=
  match landingGang s core with
  | some g => if 0 < freeSlots s core then giveSlot s g.id core else s
  | none => s

/-- A task's state when its gang blocks or wakes (R331). -/
def parkTask (s : State) (h : Word) : State := changeTask s h fun t => if t.state = 3 then { t with state := 4 } else t
def unparkTask (s : State) (h : Word) : State := changeTask s h fun t => if t.state = 4 then { t with state := 3 } else t

/-- The gang stops at its next reclamation point: its launch is ending, or its task is RECLAIMING (R97, R346). -/
def mustStop (s : State) (g : Gang) : Bool := g.stopping || (launchD s g.launch).ending.isSome

/-- The issuing gang waits within its instruction at a blocking point (R367). -/
def blockAt (s : State) (g : Gang) (c : ClauseRun) (cls : Cls) (lanes : Word) (stall : Nat) (cond : Cond) : State :=
  parkTask { setGang s (blockIn (countUp g c cls) c lanes stall cond (timeOf s g.core)) with issuing := none } g.task

/-- A gang's wait is over. -/
def unblock (s : State) (id : Nat) : State :=
  match gangOf s id with
  | none => s
  | some g => unparkTask (modGang s id fun x => { x with wait := .none }) g.task

/-- The watchpoints of a gang's lanes are released on every core (R129, R384). -/
def releaseWpts (s : State) (gang : Nat) (lanes : Word) : State :=
  { s with cores := s.cores.map fun k =>
      (k.1, { k.2 with wpts := k.2.wpts.filter fun w => !(w.2.gang == gang && inMask lanes w.2.lane) }) }

/-- A block's claim of the engine ends with its last gang and its last command (R273); its rings stay with it for the copies that run
on. -/
def checkClaim (s : State) (b : Nat) : State :=
  match blockOf s b with
  | none => s
  | some k =>
    let e := (coreOf s k.core).engine
    if e.owner = some b ∧ (gangsOfBlock s b).isEmpty ∧ (e.cmds.filter fun x => x.block == b).isEmpty then
      modCore (modBlock (keepTables s k.core) b fun x => { x with rings := e.rings }) k.core fun x => { x with engine := x.engine.fresh none }
    else s

/-- A cluster's carve-outs are freed: its gangs have ended, and no copy and no engine command still needs them (R97,
R129, R273). -/
def clusterIdle (s : State) (k : Cluster) : Bool :=
  !(s.gangs.any fun g => g.clusterId == k.id && g.task == 0)
    && !(s.copies.any fun c => c.ranks.any fun r => k.blocks.contains r.2)
    && k.blocks.all fun b => match blockOf s b with
      | none => true
      | some x => ((coreOf s x.core).engine.cmds.filter fun e => e.block == b).isEmpty

/-- Free what clusters without work hold. -/
def sweepClusters (s : State) : State :=
  let dead := s.clusters.filter (clusterIdle s)
  let ids := dead.flatMap Cluster.blocks
  let s1 := (s.cores.filterMap fun k => k.2.engine.owner).foldl checkClaim s
  { s1 with clusters := s1.clusters.filter fun k => !(dead.map Cluster.id).contains k.id,
            blocks := s1.blocks.filter fun b => !ids.contains b.id }

/-- A block gang has gone: the barriers of its block and its cluster go on without it (R247), and the cluster ends with
its last gang (R94). -/
def leaveBlock (s : State) (g : Gang) : State :=
  let s1 := modBlock s g.block fun b =>
    { b with blkArrived := b.blkArrived.filter (· != g.id), cluArrived := b.cluArrived.filter (· != g.id) }
  let s2 := checkBlk s1 g.block
  let s3 := if ((blockOf s2 g.block).map fun b => b.cluArrived.isEmpty).getD true then s2
    else noteArrival s2 g.clusterId g.block g.core
  let s4 := checkClu s3 g.clusterId
  if s4.gangs.any fun x => x.clusterId == g.clusterId && x.task == 0 then sweepClusters s4
  else
    let clean := ((clusterOf s4 g.clusterId).map Cluster.clean).getD false
    sweepClusters (modLaunch s4 g.launch fun L =>
      { L with ended := L.ended + 1, clean := L.clean + if clean then 1 else 0 })

/-- In replay, the counts of a gang that ends are kept for a divergence record (R402). -/
def keepCounts (s : State) (g : Gang) : State :=
  if (launchD s g.launch).desc.replaying then
    modLaunch s g.launch fun L => { L with finals := L.finals ++ [(gangLogId s g, g.retcnt, g.sthash.toNat, g.syncs)] }
  else s

/-- A gang ends: the accesses it has issued are performed, its copies lose their thread, what they have still to read of a private
scratchpad is read, and its waiter records, watchpoints and slot are free (R129, R236, R346, R352). -/
def removeGang (s0 : State) (id : Nat) : State :=
  let s := drainGang s0 id
  match gangOf s id with
  | none => s
  | some g =>
    let s1 := releaseWpts (takePrivate (orphanCopies (keepCounts (dropWaiters s g) g) id allLanes) id) id allLanes
    let s2 := { s1 with gangs := s1.gangs.filter fun x => x.id != id }
    landingMove (if g.task = 0 then leaveBlock s2 g else s2) g.core

/-- A task's last lane has exited (R347), every access it issued performed first (R351). -/
def taskExit (s0 : State) (g : Gang) : State :=
  let s := drainGang s0 g.id
  match taskOf s g.task with
  | none => removeGang s g.id
  | some t =>
    let s1 := atOwnCell s t fun u pa => setCell (wakeWaiters u pa) pa 0 cellValue
    let s2 := dropAllHeld t t.nheld 0 s1
    let s3 := match taskOf s2 g.task with | some t' => endsForParent s2 t' | none => s2
    settleTask (removeGang (changeTask s3 g.task fun x => { x with state := 5 }) g.id) g.task

/-- A gang stops at a reclamation point (R97, R346): a block gang ends, and its cluster has not run to `exit`; a task
drops its references, stops counting, and gives up its footprint. What it has issued is performed. -/
def stopGang (s0 : State) (g : Gang) : State :=
  let s := drainGang s0 g.id
  if g.task = 0 then removeGang (modCluster { s with issuing := none } g.clusterId fun k => { k with clean := false }) g.id
  else
    match taskOf s g.task with
    | none => removeGang { s with issuing := none } g.id
    | some t =>
      let s1 := changeTask { s with issuing := none } g.task fun x => { x with state := 6 }
      let s2 := dropAllHeld t t.nheld 0 s1
      let s3 := match taskOf s2 g.task with | some t' => endsForParent s2 t' | none => s2
      settleTask (removeGang s3 g.id) g.task

/-- An instruction that waits at a blocking point is one at which a gang that is to stop does so: it never performs it, and raises no
fault there (R97, R346, R352). -/
def unlessStopping (s : State) (run : Host.Outcome State Fault Refusal) : Host.Outcome State Fault Refusal :=
  match issuer s with
  | some (g, _) => if mustStop s g then .next (stopGang { s with issuing := none } g) else run
  | none => run

/-- A task of an ending launch: its cell is reclaimed, and so is it (R97 step 3, R345). -/
def sweepTask (s : State) (t : Task) : State :=
  let s1 := atOwnCell s t poisonCell
  reclaimTask s1 (mkHandle s1 t)

/-- The flag that a discarded table load holds falls (R53, R300). -/
def dropFlag (s : State) (c : EngCmd) : State :=
  match c.flag with
  | some k => modGang s c.gang fun g => { g with completing := g.completing ++ [k] }
  | none => s

/-- A command that its launch's end discards (R289): it has not started. -/
def discards (id : Nat) (c : EngCmd) : Bool := c.launch == id && !c.started

/-- What follows at once when a launch begins to end (R97, R289, R345): its tasks are reclaimed with their cells, and its
engine commands that have not started are discarded. -/
def sweepLaunch (s : State) (id : Nat) : State :=
  let s1 := (s.tasks.filter fun t => t.launch == id && t.state != 0).foldl sweepTask s
  let gone := s1.cores.flatMap fun k => k.2.engine.cmds.filter (discards id)
  let s2 := gone.foldl dropFlag s1
  sweepClusters { s2 with cores := s2.cores.map fun k =>
    (k.1, { k.2 with engine := { k.2.engine with cmds := k.2.engine.cmds.filter fun e => !discards id e } }) }

/-- A launch ends by a cancel, a kill, a refusal or a fatal fault (R97), unless it is ending already. -/
def endLaunch (s : State) (id status cause : Nat) (pc loc : Dbl) : State :=
  let L := launchD s id
  if L.ending.isSome || L.state == .done then s else sweepLaunch (beginEnd s id status cause pc loc) id

/-- A task ends at an access with cause 0x12 or 0x60 (R427). -/
def taskFaultEnd (s0 : State) (g : Gang) (f : FaultInfo) : State :=
  let s := drainGang s0 g.id
  match taskOf s g.task with
  | none => removeGang s g.id
  | some t =>
    let s1 := atOwnCell s t poisonCell
    let s2 := dropAllHeld t t.nheld 0 s1
    let s3 := match taskOf s2 g.task with | some t' => endsForParent s2 t' | none => s2
    let s4 := postGangEvent s3 g 10 f.pc [(0x38, 2, f.cause), (0x40, 8, f.loc.toNat)]
    settleTask (removeGang (changeTask s4 g.task fun x => { x with state := 5 }) g.id) g.task

/-- Cause 0x12 or 0x60 (R90, R365, R372): a task ends, once its event can be posted (R418); a block gang stops where it stands and
its launch ends. -/
def fatal (s : State) (g : Gang) (f : FaultInfo) : State :=
  if g.task = 0 then
    endLaunch (setGang { s with issuing := none } { g with wait := .stopped, pending := none, gate := none }) g.launch
      (if f.cause = 0x12 then 6 else 9) f.cause f.pc f.loc
  else if eventRoom s (coreDie g.core) then taskFaultEnd (setGang { s with issuing := none } g) g f
  else setGang { s with issuing := none } { g with wait := .stopped, pending := none, gate := none, ended := some (f.cause, f.pc, f.loc) }

/-- A fault of whatever cause is raised (R357, R364, R365). -/
def raise (s : State) (g : Gang) (f : FaultInfo) (b : Bank) : State :=
  if f.cause = 0x12 ∨ f.cause = 0x60 then fatal s g f else takeTrap s g f b

/-- A precise fault at the instruction under way; its flag, if it has been raised, is due to fall (R53, R355). -/
def failAt (s : State) (g : Gang) (c : ClauseRun) (cls : Cls) (cause : Nat) (loc : Dbl) (lanes done : Word)
    (colour : Nat := 0) : State :=
  raise s (if c.counted then countDone g c cls else g)
    { cause := cause, pc := instrPc c, loc := loc, lanes := lanes, done := done ||| doneBefore c, colour := colour } (bankAt g c)

/-- A region edge or a watchpoint hit stops the gang after the instruction under way has taken effect (R380, R383). In
mode 0 it is a precise fault; in mode 1 the gang halts past the instruction. `kind` is that of the stop event.
DEDUCED, log entry 33 (unsafe). -/
def takeStop (s : State) (g : Gang) (c : ClauseRun) (kind cause : Nat) (loc : Dbl) (lanes done : Word) (region idx : Nat) :
    State :=
  let g1 := retire g c
  let c1 := { c with retired := true }
  if (launchD s g.launch).stopMode = 0 then
    takeTrap s g1 { cause := cause, pc := instrPc c, loc := loc, lanes := lanes, done := done } (bankAt g1 c1)
  else
    let s1 := setGang { s with issuing := none } { stepPast g1 c1 with wait := .blocked 11 .resumed (timeOf s g.core) }
    let s2 := postGangEvent s1 g1 5 (instrPc c)
      ([(0x38, 1, kind), (0x3A, 2, region)] ++ (if kind = 2 then [(0x3C, 1, idx), (0x40, 8, loc.toNat)] else []))
    parkTask (traceGang s2 g1 7 (leOf 1 kind ++ leOf 8 (instrPc c).toNat)) g.task

/-- A stop that would follow the instruction waits for room for its event (R380, R418): the instruction waits with it. -/
def stopHeld (s : State) (g : Gang) (hits : List Hit) : Bool :=
  !hits.isEmpty && (launchD s g.launch).stopMode != 0 && !eventRoom s (coreDie g.core)

/-- The region stop that awaits a gang at this edge, if any: a halt request, or a breakpoint on its id (R379). -/
def edgeStop (s : State) (g : Gang) (id : Nat) : Option Nat :=
  if g.level != 0 then none
  else if g.haltReq then some 0
  else if (launchD s g.launch).breakpoints.contains id then some 1
  else none

/-- The instruction that issues takes effect, and the gang moves past it. -/
def finish (s : State) (g : Gang) (c : ClauseRun) (cls : Cls) : State := issued s (completed g c cls)

end Sys2Proof.Machine
end

