-- ==== Sys2Proof/Machine/Operands.lean ====
section
/-! DEFINITION. The operand forms: which fields an instruction reads and writes, with the window check of each form, over
a function of the operand values. In each, d, a and b are register fields; every source is read before any destination
is written (R8). Memory operand forms stand in Memory.lean. -/

namespace Sys2Proof.Machine

abbrev Step := Host.Outcome State Fault Refusal

/-- d ← f(a, b) in each active lane. -/
def formRRR (s : State) (cls : Cls) (b a d : Nat) (f : Word → Word → Word) : Step :=
  issueLanes s cls [.reg d, .reg a, .reg b] fun lv t => wrReg lv t d (f (rdReg lv t a) (rdReg lv t b))

/-- d ← f(a, b), with flags. -/
def formFlags (s : State) (cls : Cls) (b a d : Nat) (f : Word → Word → Word × Word) : Step :=
  issueLanes s cls [.reg d, .reg a, .reg b] fun lv t =>
    orFlags (wrReg lv t d (f (rdReg lv t a) (rdReg lv t b)).1) (f (rdReg lv t a) (rdReg lv t b)).2

/-- d ← f(d, a, b): d is a source as well. -/
def formAcc (s : State) (cls : Cls) (b a d : Nat) (f : Word → Word → Word → Word) : Step :=
  issueLanes s cls [.reg d, .reg a, .reg b] fun lv t => wrReg lv t d (f (rdReg lv t d) (rdReg lv t a) (rdReg lv t b))

/-- d ← f(d, a, b), with flags. -/
def formAccFlags (s : State) (cls : Cls) (b a d : Nat) (f : Word → Word → Word → Word × Word) : Step :=
  issueLanes s cls [.reg d, .reg a, .reg b] fun lv t =>
    orFlags (wrReg lv t d (f (rdReg lv t d) (rdReg lv t a) (rdReg lv t b)).1)
      (f (rdReg lv t d) (rdReg lv t a) (rdReg lv t b)).2

/-- d ← f(a). -/
def formRR (s : State) (cls : Cls) (a d : Nat) (f : Word → Word) : Step :=
  issueLanes s cls [.reg d, .reg a] fun lv t => wrReg lv t d (f (rdReg lv t a))

/-- d ← f(a), with flags. -/
def formRRFlags (s : State) (cls : Cls) (a d : Nat) (f : Word → Word × Word) : Step :=
  issueLanes s cls [.reg d, .reg a] fun lv t => orFlags (wrReg lv t d (f (rdReg lv t a)).1) (f (rdReg lv t a)).2

/-- d ← f(d), for a constant. -/
def formR (s : State) (d : Nat) (f : Word → Word) : Step :=
  issueLanes s .none [.reg d] fun lv t => wrReg lv t d (f (rdReg lv t d))

/-- d.d ← f(a, b) of single registers. -/
def formWide64 (s : State) (b a d : Nat) (f : Word → Word → Dbl) : Step :=
  issueLanes s .none [.pair d, .reg a, .reg b] fun lv t => wrPair lv t d (f (rdReg lv t a) (rdReg lv t b))

/-- d.d ← f(a.d, b.d). -/
def formPPP (s : State) (b a d : Nat) (f : Dbl → Dbl → Dbl) : Step :=
  issueLanes s .none [.pair d, .pair a, .pair b] fun lv t => wrPair lv t d (f (rdPair lv t a) (rdPair lv t b))

/-- d.d ← f(a.d, b). -/
def formPPR (s : State) (b a d : Nat) (f : Dbl → Word → Dbl) : Step :=
  issueLanes s .none [.pair d, .pair a, .reg b] fun lv t => wrPair lv t d (f (rdPair lv t a) (rdReg lv t b))

/-- q[d] ← f(a, b). -/
def formCmp (s : State) (b a d : Nat) (f : Word → Word → Bool) : Step :=
  issueLanes s .none [.reg a, .reg b] fun lv t => wrPred t d (f (rdReg lv t a) (rdReg lv t b))

/-- q[d] ← f(a, b), with flags. -/
def formCmpFlags (s : State) (b a d : Nat) (f : Word → Word → Bool × Word) : Step :=
  issueLanes s .none [.reg a, .reg b] fun lv t =>
    orFlags (wrPred t d (f (rdReg lv t a) (rdReg lv t b)).1) (f (rdReg lv t a) (rdReg lv t b)).2

/-- q[d] ← f(q[a], q[b]). -/
def formQQQ (s : State) (b a d : Nat) (f : Bool → Bool → Bool) : Step :=
  issueLanes s .none [] fun _ t => wrPred t d (f (rdPred t a) (rdPred t b))

end Sys2Proof.Machine
end

