-- ==== Sys2Proof/Machine/Control.lean ====
section
/-! DEFINITION. Meanings of the control instructions (R126 to R133) and the trap instructions (R360 to R363). -/

namespace Sys2Proof.Machine

/-- The address of the spill slot that a frontier lacks (R120): no slab holds it, so its address is open.
DESIGN CHOICE, log entry 30 (safe). -/
def lackingSlot (s : State) : Dbl × State := (BitVec.ofNat 64 (freeNat s).1, (freeNat s).2)

/-- The gang after its top entry gives way to others at the end of a clause (R118). -/
def transferred (g : Gang) (c : ClauseRun) (es : List Entry) : Gang :=
  withFrontier { retire g c with clause := none, wait := .none } (replaceTop g es)

/-- A clause ends in a transfer (R118 to R120). `stops` says that its end is a reclamation point (R97). -/
def endClause (s : State) (g : Gang) (c : ClauseRun) (es : List Entry) (stops : Bool) : State :=
  if !spillFits g.slab (replaceTop g es) then
    let (a, s1) := lackingSlot s
    faultAt s1 g c 0x15 a (activeMask c) 0
  else if stops && mustStop s g then stopGang (issued s (transferred g c es)) (transferred g c es)
  else issued s (transferred g c es)

/-- The entry of the lanes that do not transfer (R118). -/
def restEntry (g : Gang) (c : ClauseRun) : Entry :=
  { pc := nextHeader c.h c.words.length, prio := (topEntry g).prio, mask := (topEntry g).mask &&& ~~~(activeMask c) }

/-- R126: the active lanes go to the target at the given priority. -/
def execBra (p o : Nat) (s : State) : Step :=
  issue s .none fun g c =>
    endClause s g c [{ pc := jTarget c.h o, prio := p, mask := activeMask c, target := true }, restEntry g c] true

/-- The link pair that `call` writes (R127). -/
def linkOf (g : Gang) (c : ClauseRun) : Dbl :=
  BitVec.ofNat 64 ((topEntry g).prio % 64 * 2 ^ 58 + (nextHeader c.h c.words.length).toNat % 2 ^ 57)

/-- R127: the link pair g2.d, then as `bra`. -/
def execCall (p o : Nat) (s : State) : Step :=
  issue s .none fun g c =>
    match windowFail g (activeMask c) [.pair 2] with
    | some (i, lanes) => faultAt s g c 0x03 (BitVec.ofNat 64 i) lanes 0
    | none =>
      let g1 := mapLanes (activeMask c) (fun _ t => wrPair g.level t 2 (linkOf g c)) g
      let es := [{ pc := jTarget c.h o, prio := p, mask := activeMask c, target := true }, restEntry g c]
      if !spillFits g.slab (replaceTop g es) then endClause s g c es true else endClause s g1 c es true

/-- The checks of a target that a lane forms (R128). -/
def targetFail (lane : Nat) (t : Dbl) : Except LaneFail Unit :=
  if !canonical t then .error ⟨lane, 0x13, t, 0⟩
  else if apertureOf t != .global then .error ⟨lane, 0x15, t, 0⟩
  else if t.toNat % 4 != 0 then .error ⟨lane, 0x02, t, 0⟩
  else .ok ()

/-- The transfer of each active lane to a target of its own (R118, R128): lanes with equal targets and priorities share
an entry, and nothing happens if a lane's target fails. -/
def transferEach (s : State) (g : Gang) (c : ClauseRun) (tgt : Thread → Dbl × Nat) (stops : Bool) : State :=
  let ls := lanesOf (activeMask c)
  let ts := ls.map fun l => (l, tgt (thr g l))
  match failsOf (ts.map fun x => targetFail x.1 x.2.1) with
  | f :: fs => failAt s g c .none f.cause f.loc (failMask (f :: fs)) 0
  | [] =>
    let pairs := (ts.map Prod.snd).eraseDups
    let es := pairs.map fun p =>
      { pc := p.1, prio := p.2, mask := maskOf ((ts.filter fun x => x.2 == p).map Prod.fst), target := true : Entry }
    endClause s g c (es ++ [restEntry g c]) stops

/-- The target and priority that a link pair holds (R128). -/
def linkTarget (v : Dbl) : Dbl × Nat :=
  (BitVec.ofNat 64 (bits v.toNat 0 57 + (if bit v.toNat 56 then 7 * 2 ^ 57 else 0)), bits v.toNat 58 6)

/-- R128: each active lane returns to the target and priority in g2.d. -/
def execRet (s : State) : Step :=
  issue s .none fun g c =>
    match windowFail g (activeMask c) [.pair 2] with
    | some (i, lanes) => faultAt s g c 0x03 (BitVec.ofNat 64 i) lanes 0
    | none => transferEach s g c (fun t => linkTarget (rdPair g.level t 2)) true

/-- R128: each active lane goes to the address in a pair, its colour bits cleared. -/
def execJmpi (p a : Nat) (s : State) : Step :=
  issue s .none fun g c =>
    match windowFail g (activeMask c) [.pair a] with
    | some (i, lanes) => faultAt s g c 0x03 (BitVec.ofNat 64 i) lanes 0
    | none => transferEach s g c (fun t => (BitVec.ofNat 64 ((rdPair g.level t a).toNat % 2 ^ 60), p)) false

/-- The lanes of an exit retire (R129): what the gang has outstanding is performed, their registers and watchpoints go, and their
copies lose their thread. -/
def retireLanes (s0 : State) (g0 : Gang) (c : ClauseRun) : State :=
  let s := drainGang s0 g0.id
  let g := (gangOf s g0.id).getD g0
  let A := activeMask c
  let g1 := withFrontier { mapLanes A (fun _ _ => {}) (retire g c) with live := g.live &&& ~~~A, clause := none, wait := .none }
    (replaceTop g [restEntry g c])
  releaseWpts (orphanCopies (issued s g1) g.id A) g.id A

/-- R129: waits until the twelve flags are clear, then retires the active lanes; a gang without lanes ends. -/
def execExit (s : State) : Step :=
  issue s .none fun g c =>
    if g.level != 0 then failAt s g c .none 0x11 0 (activeMask c) 0
    else if !flagsClear g 0xFFF then issued s { g with wait := .flags 0xFFF }
    else if g.task != 0 && g.live &&& ~~~(activeMask c) == 0 && recordPoisoned s g.task [1, 2, 3] then
      failAt (recordErrorAt s).2 g c .none 0x60 (recordErrorAt s).1 (activeMask c) 0
    else
      let s1 := retireLanes s g c
      match gangOf s1 g.id with
      | some g1 => if g1.live != 0 then s1 else if g1.task = 0 then removeGang s1 g1.id else taskExit s1 g1
      | none => s1

/-- R130: stops the whole gang with the frontier of R118, posts a halt record, and waits to be resumed; it waits before that while
the record cannot be posted (R418). -/
def execHalt (s : State) : Step :=
  unlessStopping s <| issue s .none fun g c =>
    if !eventRoom s (coreDie g.core) then { s with issuing := none } else
    let g1 := transferred g c [{ topEntry g with pc := nextHeader c.h c.words.length, target := false }]
    let s1 := issued s { g1 with wait := .blocked 11 .resumed (timeOf s g.core) }
    parkTask (postGangEvent s1 g 3 (instrPc c) []) g.task

/-- R131: no effect. -/
def execNop (s : State) : Step := issue s .none fun g c => finish s g c .none

/-- R55: waits in place until every named flag is clear. -/
def execWait (f : Nat) (s : State) : Step :=
  issue s .none fun g c =>
    if flagsClear g f then finish s g c .none else issued s { g with wait := .flags (BitVec.ofNat 32 f) }

/-- R132: the gang gives way to the other gangs of its scheduler, and its aging count returns to 0. -/
def execYield (s : State) : Step :=
  issue s .none fun g c => finish s { g with yielded := true, yieldFor := none, aging := 0 } c .none

/-- R133: a new window base in each active lane; if one is out of range none changes. -/
def setWbase (s : State) (new : Thread → Int) : Step :=
  issue s .none fun g c =>
    match (lanesOf (activeMask c)).filter fun l => new (thr g l) < 0 || 248 < new (thr g l) with
    | [] => finish s (mapLanes (activeMask c) (fun _ t => { t with wbase := (new t).toNat }) g) c .none
    | l :: ls =>
      failAt s g c .none 0x03 (BitVec.ofNat 64 (wrap32 (new (thr g l))).toNat) (maskOf (l :: ls)) 0

def execWbaseRel (n : Nat) (s : State) : Step := setWbase s fun t => (t.wbase : Int) + 8 * sext n 6
/-- R133: the window base becomes the given multiple of eight. -/
def execWbaseAbs (n : Nat) (s : State) : Step := setWbase s fun _ => (8 * (n % 32) : Nat)

/-- R362: cause 0x50 with the trap code; the instruction counts as complete. -/
def execTrap (k : Nat) (s : State) : Step :=
  issue s .none fun g c =>
    let g1 := retire g c
    takeTrap s g1 { cause := 0x50, pc := instrPc c, loc := BitVec.ofNat 64 k, lanes := activeMask c, done := c.act }
      (bankAt g1 { c with retired := true })

/-- R363: with break stops enabled, posts a break record and waits to be resumed, at level 0 (R380); it waits before that while the
record cannot be posted (R418), and stops there when it is to stop (R97). DEDUCED, log entry 32 (unsafe). -/
def execBrk (k : Nat) (s : State) : Step :=
  issue s .none fun g c =>
    if (launchD s g.launch).brkOn && g.level == 0 then
      if mustStop s g then stopGang { s with issuing := none } g
      else if !eventRoom s (coreDie g.core) then { s with issuing := none } else
      let g1 := completed g c .none
      let s1 := postGangEvent (issued s { g1 with wait := .blocked 11 .resumed (timeOf s g.core) }) g 4 (instrPc c) [(0x38, 2, k)]
      parkTask (traceGang s1 g 7 (leOf 1 3 ++ leOf 8 (instrPc c).toNat)) g.task
    else finish s g c .none

/-- The selected flags of a thread (R361). -/
def selected (t : Thread) : Word := t.aflags &&& t.amask &&& 0xFF

/-- R361: the flags that `%amask` selects become the precise fault 0x20, and are cleared. -/
def execTfence (s : State) : Step :=
  issue s .none fun g c =>
    let T := maskOf ((lanesOf (activeMask c)).filter fun l => selected (thr g l) != 0)
    if T = 0 then finish s g c .none
    else
      let f := (lanesOf T).foldl (fun w l => w ||| selected (thr g l)) 0
      let g1 := mapLanes T (fun _ t => { t with aflags := t.aflags &&& ~~~t.amask }) g
      faultAt s g1 c 0x20 (BitVec.ofNat 64 f.toNat) T (activeMask c &&& ~~~T)

/-- The copy for whose deferred fault a level was entered is reissued, or abandoned (R235, R360). -/
def settleCopy (s : State) (b : Bank) (done : Word) : State :=
  match b.copy.bind (copyOf s) with
  | none => s
  | some c =>
    if inMask done b.copyLane then sweepClusters (abandonCopy s c)
    else modCopy s c.id fun x => { x with state := .active, fault := none }

/-- What `tret` resumes has taken effect for every lane of its mask, so it is complete (R360). -/
def bankDone (b : Bank) (done : Word) : Option ClauseRun :=
  match b.clause, b.wait with
  | some _, .blocked _ .resumed _ => none
  | some c, _ => if b.late = false ∧ againMask b c done = 0 then some c else none
  | none, _ => none

/-- The gang after its return: a header that it starts again was reached through `tret` (R48), and what the handler's
clause counted stays counted. DEDUCED, log entry 56 (unsafe). -/
def returned (g : Gang) (c : ClauseRun) (b : Bank) : Gang :=
  let g1 := leaveTrap (retire g c) b
  if b.clause.isSome then g1
  else match g1.frontier with
    | e :: es => { g1 with frontier := { e with target := true } :: es }
    | [] => g1

/-- R360: the return from a trap. -/
def execTret (s : State) : Step :=
  issue s .none fun g c =>
    match g.level, bankOf g g.level with
    | 0, _ => failAt s g c .none 0x11 0 (activeMask c) 0
    | _, none => finish s g c .none
    | n, some b =>
      let s1 := settleCopy (issued s (returned g c b)) b (recOf g n).done
      let s2 := match bankDone b (recOf g n).done with
        | some k => if k.retired then s1 else noteSync s1 g.id k
        | none => s1
      match gangOf s2 g.id with
      | some g2 => if mustStop s2 g2 then stopGang s2 g2 else if g2.blocked then parkTask s2 g2.task else s2
      | none => s2

end Sys2Proof.Machine
end

