-- ==== Sys2Proof/Machine/Watch.lean ====
section
/-! DEFINITION. Watchpoint hits: which accesses hit, and how hits are recorded and delivered (R382, R383). -/

namespace Sys2Proof.Machine

/-- The accessing thread is within a watchpoint's scope of its owner, in the owner's context (R381, R382). -/
def inScope (s : State) (g : Gang) (lane : Nat) (w : Wpt) : Bool :=
  match gangOf s w.gang with
  | none => false
  | some o =>
    let same := o.id == g.id
    (launchD s o.launch).ctx == (launchD s g.launch).ctx &&
    (if w.scope = 0 then same && w.lane == lane
     else if w.scope = 1 || o.task != 0 then same
     else if w.scope = 2 then g.task == 0 && g.block == o.block
     else g.task == 0 && g.clusterId == o.clusterId)

/-- An address as watchpoints compare it: stack addresses in the named form, bits 63:57 ignored (R190, R382). -/
def watchAddr (lane : Nat) (ea : Dbl) : Nat :=
  if apertureOf ea == .stack && !bit ea.toNat 25 then vaOf ea + 2 ^ 25 + lane * 2 ^ 20 else vaOf ea

/-- The first watched byte that an access touches. -/
def touches (w : Wpt) (a n : Nat) : Option Nat :=
  if a < w.addr + w.size ∧ w.addr < a + n then some (max a w.addr) else none

/-- The hits of one access of a lane (R382): none above trap level 0. The address reported is the access's own, moved to the
first watched byte it touches (R383). -/
def hitsOf (s : State) (g : Gang) (lane : Nat) (ea : Dbl) (n : Nat) (write read : Bool) : List Hit :=
  if g.level != 0 then []
  else
    (coreOf s g.core).wpts.filterMap fun x =>
      let w := x.2
      let kind := (write && bit w.kinds 0) || (read && bit w.kinds 1)
      let own := apertureOf ea != .stack || w.gang == g.id
      if kind && own && inScope s g lane w then
        (touches w (watchAddr lane ea) n).map fun b => ⟨lane, x.1, ea + BitVec.ofNat 64 (b - watchAddr lane ea)⟩
      else none

/-- Each hit writes a watch record to trace (R383, R391). -/
def traceHits (s : State) (g : Gang) (hs : List Hit) : State :=
  hs.foldl (fun t h => traceGang t g 8 (leOf 1 h.index ++ leOf 8 h.loc.toNat)) s

/-- One hit comes before another: the lower lane, then the byte touched first (R383). -/
def Hit.before (h k : Hit) : Bool := decide (h.lane < k.lane) || (h.lane == k.lane && decide (h.loc.toNat ≤ k.loc.toNat))

/-- The hit that is reported: the lowest lane's, and of those the one at the first watched byte touched (R383). -/
def lowestHit : List Hit → Option Hit
  | [] => none
  | h :: hs => match lowestHit hs with
    | none => some h
    | some k => some (if h.before k then h else k)

/-- The instruction under way has taken effect for every lane: it retires, its sync record is made, and its hits are
delivered, or else the gang moves past it (R380, R383, R396, R399). -/
def complete (s : State) (g : Gang) (c : ClauseRun) (cls : Cls) : State :=
  let g1 := retire (countDone (countUp g c cls) c cls) c
  match lowestHit c.hits with
  | none => noteSync (issued s (stepPast g1 c)) g.id c
  | some h =>
    let s1 := noteSync (traceHits (issued s g1) g1 c.hits) g.id c
    match gangOf s1 g.id with
    | none => s1
    | some g2 =>
      if g2.blocked then setGang s1 { stepPast g2 c with wait := g2.wait, hits := g2.hits ++ [⟨instrPc c, c.act, c.hits⟩] }
      else takeStop s1 g2 { c with retired := true, hits := [] } 2 0x40 h.loc (maskOf (c.hits.map Hit.lane)) c.act 0xFFFF h.index

/-- The instruction under way faults: hits that its other lanes made stay pending (R383). -/
def keepHits (g : Gang) (c : ClauseRun) (done : Word) : Gang :=
  if c.hits.isEmpty then g else { g with hits := g.hits ++ [⟨instrPc c, done, c.hits⟩] }

/-- A fault at an instruction of which some lanes may have taken effect, and made hits. -/
def failKeeping (s : State) (g : Gang) (c : ClauseRun) (cls : Cls) (fs : List LaneFail) (done : Word) : State :=
  let f := (governing fs).getD ⟨0, 0, 0, 0⟩
  let all := done ||| doneBefore c
  failAt (traceHits s g c.hits) (keepHits g c all) { c with hits := [] } cls f.cause f.loc (failMask fs) all f.colour

/-- The oldest hits that another fault kept back are delivered at a clause start or a blocking point at level 0 (R383):
the record is that of their instruction, and the gang resumes where it stood. -/
def deliverHits (s : State) (g : Gang) : State :=
  match g.hits with
  | [] => s
  | k :: ks =>
    let h := (lowestHit k.hits).getD ⟨0, 0, 0⟩
    let g1 := { g with hits := ks }
    if (launchD s g.launch).stopMode = 0 then
      takeTrap (unparkTask (setGang s g1) g.task) g1
        { cause := 0x40, pc := k.pc, loc := h.loc, lanes := maskOf (k.hits.map Hit.lane), done := k.done }
        { frontier := g.frontier, clause := g.clause, wait := g.wait, copy := none, copyLane := 0, late := true }
    else
      let s1 := postGangEvent (setGang s { g1 with wait := .blocked 11 .resumed (timeOf s g.core), under := g.wait }) g1 5 k.pc
        [(0x38, 1, 2), (0x3A, 2, 0xFFFF), (0x3C, 1, h.index), (0x40, 8, h.loc.toNat)]
      parkTask (traceGang s1 g1 7 (leOf 1 2 ++ leOf 8 k.pc.toNat)) g.task

end Sys2Proof.Machine
end

