-- ==== Sys2Proof/Machine/Memory.lean ====
section
/-! DEFINITION. The accesses that instructions make lane by lane at their targets: stage 1 at the issuing core, stage 2
lane by lane, and what follows when every lane has settled (R196, R205, R244, R245, R250 to R253, R328 to R333, R336,
R341 to R343, R385, R386). The instructions themselves stand in LoadStore.lean, Atomics.lean and Tasks.lean. -/

namespace Sys2Proof.Machine

/-- The class of an access under R53. -/
def AccessOp.cls : AccessOp → Cls
  | .load .. | .take .. | .probe .. | .tagGet .. => .a
  | .store .. | .resolve .. | .tagSet .. | .tagSetr .. => .b
  | .atom _ ret .. => if ret then .a else .b
  | .bar .. | .refAdd .. | .refDrop .. => .none

/-- A lane's window check of some operands, as a failure of R356. -/
def laneWindow (g : Gang) (lane : Nat) (os : List Opnd) : Except LaneFail Unit :=
  match windowBad g.level g.nregs (thr g lane) os with
  | some i => .error ⟨lane, 0x03, BitVec.ofNat 64 i, 0⟩
  | none => .ok ()

/-- The address pair of a lane. -/
def laneAddr (g : Gang) (lane a : Nat) : Dbl := rdPair g.level (thr g lane) a

/-- The offset of a format-M access, in bytes (R204). -/
def offM (off size : Nat) : Int := sext off 10 * size

/-- Stage 1 of an instruction that accesses memory lane by lane: if any lane fails no lane acts, and otherwise the
accesses are on their way. -/
def issueAccess (s : State) (op : AccessOp) (check : State → Gang → Nat → Except LaneFail Unit) : Host.Outcome State Fault Refusal :=
  issue s op.cls fun g c =>
    match failsOf ((lanesOf (activeMask c)).map (check s g)) with
    | f :: fs => failAt s g c op.cls f.cause f.loc (failMask (f :: fs)) 0
    | [] =>
      issued s { countUp g c op.cls with
        clause := some { c with counted := true }, pending := some { op := op, lanes := activeMask c } }

/-- How a lane's access ends: done, with its hits and what it adds to the store stream; outstanding, with the same; not to be
performed yet; failed; waiting for a cell; or held at an order gate. -/
inductive LaneEnd where
  | ok (hits : List Hit) (stream : List (Nat × Nat × Nat × Nat))
  | flies (hits : List Hit) (stream : List (Nat × Nat × Nat × Nat)) (f : Flight)
  | stays
  | fail (f : LaneFail)
  | waits
  | held (u : UnitId)
  deriving DecidableEq, Repr

/-- Write a lane's destination. -/
def putLane (s : State) (id lane : Nat) (f : Thread → Thread) : State := modGang s id fun g => modThread g lane f

/-- Where a lane's access lands: an on-core place, or a physical address with its leaf. -/
inductive Target where
  | core (l : Loc)
  | glob (pa : Nat) (leaf : Dbl)
  deriving DecidableEq, Repr

def Target.loc : Target → Loc
  | .core l => l
  | .glob pa _ => physLoc pa

/-- Stage 2 of a lane's access (R196 checks 4 to 8, R205). -/
def arrive (s : State) (g : Gang) (lane : Nat) (ea : Dbl) (n : Nat) (need : Needs) : State × Except LaneFail Target :=
  match apertureOf ea with
  | .global =>
    match globalAccess s (.core g.core) (launchD s g.launch) ea n need 0 with
    | (s1, .bad cause at_ col) => (s1, .error ⟨lane, cause, at_, col⟩)
    | (s1, .ok pa leaf) => (s1, .ok (.glob pa leaf))
  | _ =>
    match arriveOnCore s g lane ea n need.reads need.colour with
    | .error f => (s, .error f)
    | .ok l => (s, .ok (.core l))

/-- A write performed at a target, with the dirty state of a global one (R200). -/
def writeAt (s : State) (g : Gang) (ea : Dbl) (t : Target) (bs : List Byte) : State :=
  match t with
  | .core l => writeBytes s l bs
  | .glob pa _ => globalWrite s (.core g.core) (ctxOf s g) (vaOf ea) pa bs

/-- The order kind of a target (R310, R311): of its page; scratchpads and stacks order as R pages do. -/
def Target.kind : Target → Nat
  | .core _ => 1
  | .glob _ leaf => bits leaf.toNat 5 2

/-- A target on another module can be reached now (R325). -/
def Target.isOpen (s : State) : Target → Bool
  | .core _ => true
  | .glob pa _ => linkOpen s pa channelRequest && linkOpen s pa channelResponse

/-- The target of a lane's access can be reached now, if the access comes as far as that (R325). -/
def laneOpen (s : State) (g : Gang) (lane : Nat) (ea : Dbl) (n : Nat) (need : Needs) : Bool :=
  match (arrive s g lane ea n need).2 with
  | .ok t => t.isOpen s
  | .error _ => true

/-- The access of the instruction under way can be performed now: no outstanding access of its gang keeps it back (R311). -/
def canPerform (s : State) (g : Gang) (f : Flight) : Bool := performable s g.core (outstanding g) g.passed.length f

/-- A stack access to bytes that can become a spill slot, of which the frontier's next change decides (R120). -/
def spillReach (g : Gang) (f : Flight) : Bool :=
  match f.loc.place with
  | .stack _ => decide (f.loc.off / 2 ^ 20 < 16) && decide (g.slab < f.loc.off % 2 ^ 20 + f.size + 16)
  | _ => false

/-- What an atomic finds at its target can still stop it there: a cell that is not VALUE (R330). -/
def Target.onCell : Target → Bool
  | .glob _ leaf => leafCell leaf
  | .core _ => false

/-- The leaf through which an access of a gang was translated (R200). -/
def leafUsed (s : State) (g : Gang) (ea : Dbl) (t : Target) : Option (Nat × Dbl) :=
  match t with
  | .glob pa _ => ((found s (.core g.core) (ctxOf s g) (vaOf ea)).find? fun e => paOf e.leaf e.size (vaOf ea) == pa).map fun e =>
      (e.leafAt, e.leaf)
  | .core _ => none

/-- An access that has passed its checks stays outstanding, where it may: its registers are known, no spill slot can come to its bytes,
and it is no operation of a launch that records or replays at a unit (R120, R309, R311, R399). The colours that it has passed stand until
it is performed (R201). DEDUCED, log entry 67 (unsafe). -/
def flyOut (s : State) (g : Gang) (t : Target) (f : Flight) (regs : Nat) (hits : List Hit)
    (stream : List (Nat × Nat × Nat × Nat)) : State × LaneEnd :=
  let L := launchD s g.launch
  let plain := match f.op with | .load _ _ _ _ _ | .store _ _ _ _ => true | _ => false
  if f.dst.length != regs || spillReach g f || (!plain && (L.desc.recording || L.desc.replaying)) then (s, .stays)
  else (s, .flies hits stream { f with leaf := leafUsed s g f.ea t })

/-- An access that is performed where it is checked can be performed now: what its gang has outstanding lets it pass (R311, R313), and
its target can be reached (R325). -/
def reachable (s : State) (g : Gang) (lane : Nat) (op : AccessOp) (ea : Dbl) (t : Target) : Bool :=
  canPerform s g { lane := lane, op := op, kind := t.kind, ea := ea, loc := t.loc }

/-- Pass the order gate of the unit that serialises an operation (R399, R401), then perform it: an operation that finds
the log at its end is the divergence of kind 7, and every gate opens (R402). -/
def atUnit (s : State) (g : Gang) (lane : Nat) (l : Loc) (k : State → State × LaneEnd) : State × LaneEnd :=
  match unitAt s g l with
  | none => k s
  | some u =>
    match admits s g u with
    | .waits => (needLog s g, .held u)
    | .go => k (admitted s g u)
    | .error va => (s, .fail ⟨lane, 0x60, va, 0⟩)
    | .beyond =>
      let s1 := gangDiverges s g 7 u.word
      k (modGang s1 g.id fun x => { x with pending := x.pending.map fun p => { p with beyond := some u.word } })

/-- A load of a lane (R205, R319). -/
def laneLoad (s : State) (g : Gang) (fly : Bool) (lane size off : Nat) (signed : Bool) (a d : Nat) : State × LaneEnd :=
  match effAddr (laneAddr g lane a) (offM off size) with
  | none => (s, .fail ⟨lane, 0x13, shownAddr (laneAddr g lane a) (offM off size), 0⟩)
  | some ea =>
    match arrive s g lane ea size { r := true } with
    | (s1, .error f) => (s1, .fail f)
    | (s1, .ok t) =>
      let os : List Opnd := [if size = 8 then .pair d else if size = 16 then .quad d else .reg d]
      let f : Flight := { lane := lane, op := .load size off signed a d, kind := t.kind, ea := ea, loc := t.loc,
                          dst := os.flatMap (Opnd.phys g.level (thr g lane)) }
      let hits := hitsOf s g lane ea size false true
      let x := readOwn s1 (outstanding g) lane t.loc size
      let put := fun (th : Thread) =>
        if size = 8 then wrPair g.level th d (BitVec.ofNat 64 x)
        else if size = 16 then wrQuad th d x
        else wrReg g.level th d (loadValue size signed x)
      if fly then flyOut s1 g t f (if size = 8 then 2 else if size = 16 then 4 else 1) hits []
      else if canPerform s1 g f then (putLane s1 g.id lane put, .ok hits [])
      else (s, .stays)

/-- The data operand of a store (R204). -/
def storeData (g : Gang) (lane size d : Nat) : Nat :=
  let t := thr g lane
  if size = 16 then rdQuad t d
  else if size = 8 then (rdPair g.level t d).toNat
  else (rdReg g.level t d).toNat % 2 ^ (8 * size)

/-- The instruction under way is a release store (R320). -/
def releasing (g : Gang) : Bool :=
  match g.clause.map fun c => decodeWord (wordOf c) with
  | some (.ok (.stRelW _ _ _)) | some (.ok (.stRelD _ _ _)) => true
  | _ => false

/-- A store of a lane (R205, R320). -/
def laneStore (s : State) (g : Gang) (fly : Bool) (lane size off a d : Nat) : State × LaneEnd :=
  match effAddr (laneAddr g lane a) (offM off size) with
  | none => (s, .fail ⟨lane, 0x13, shownAddr (laneAddr g lane a) (offM off size), 0⟩)
  | some ea =>
    match arrive s g lane ea size { w := true, reads := false } with
    | (s1, .error f) => (s1, .fail f)
    | (s1, .ok t) =>
      let x := storeData g lane size d
      let f : Flight := { lane := lane, op := .store size off a d, kind := t.kind, ea := ea, loc := t.loc, data := x,
                          rel := releasing g }
      let hits := hitsOf s g lane ea size true false
      if fly then flyOut s1 g t f 0 hits [(lane, ea.toNat, size, x)]
      else if canPerform s1 g f then (writeAt s1 g ea t (leOf size x), .ok hits [(lane, ea.toNat, size, x)])
      else (s, .stays)

/-- A cell page's double that is not VALUE takes cause 0x11 at an atomic and at `mwait` (R330). -/
def cellBusy (s : State) (t : Target) : Bool :=
  match t with
  | .glob pa leaf => leafCell leaf && cellState s (pa / 8 * 8) != cellValue
  | .core _ => false

/-- The effect of an atomic at its target, once admitted (R250, R252, R253). -/
def atomAct (s : State) (g : Gang) (lane : Nat) (ea : Dbl) (t : Target) (fn : Nat) (ret : Bool) (b d : Nat) : State × LaneEnd :=
  let th := thr g lane
  let hits := hitsOf s g lane ea (atomSize fn) true true
  if fn = 11 then
    if shadowPoisoned s t.loc.off then (s, .fail ⟨lane, 0x60, ea, 0⟩)
    else match addToSum s t.loc.off (rdReg g.level th b).toNat with
    | .error pa =>
      (errorResponse s (coreDie g.core) (ctxOf s g) pa ea.toNat (some g.launch) 5, .fail ⟨lane, 0x11, ea, 0⟩)
    | .ok (s1, old, new) =>
      let s2 := dirtyAt (wakeMwait s1 t.loc 4) g ea t.loc.off
      (if ret then putLane s2 g.id lane fun x => wrReg g.level x d (BitVec.ofNat 32 old) else s2,
       .ok hits [(lane, ea.toNat, 4, new)])
  else if fn = 12 then
    let old : Dbl := BitVec.ofNat 64 (readNat s t.loc 8)
    let new := old + rdPair g.level th b
    let s1 := writeAt s g ea t (leOf 8 new.toNat)
    (if ret then putLane s1 g.id lane fun x => wrPair g.level x d old else s1, .ok hits [(lane, ea.toNat, 8, new.toNat)])
  else
    let old : Word := BitVec.ofNat 32 (readNat s t.loc 4)
    let pair := rdPair g.level th b
    let new := if fn = 10 then atomNew 10 old pair.lo pair.hi else atomNew fn old (rdReg g.level th b) 0
    let s1 := writeAt s g ea t (leOf 4 new.toNat)
    (if ret then putLane s1 g.id lane fun x => wrReg g.level x d old else s1, .ok hits [(lane, ea.toNat, 4, new.toNat)])

/-- The operand of an atomic in one number: a register, or the pair of `cas` and of `add.d` (R250). -/
def atomData (g : Gang) (lane fn b : Nat) : Nat :=
  if fn = 10 ∨ fn = 12 then (rdPair g.level (thr g lane) b).toNat else (rdReg g.level (thr g lane) b).toNat

/-- An atomic of a lane (R251): its attributes, then its unit, then the state of a cell at its target (R330, R399). -/
def laneAtom (s : State) (g : Gang) (fly : Bool) (lane fn : Nat) (ret : Bool) (b a d : Nat) : State × LaneEnd :=
  let ea := laneAddr g lane a
  match arrive s g lane ea (atomSize fn) { r := true, w := true, sum := some (fn == 11) } with
  | (s1, .error f) => (s1, .fail f)
  | (s1, .ok t) =>
    let os : List Opnd := if ret then [if fn = 12 then .pair d else .reg d] else []
    let f : Flight := { lane := lane, op := .atom fn ret b a d, kind := t.kind, ea := ea, loc := t.loc,
                        data := atomData g lane fn b, dst := os.flatMap (Opnd.phys g.level (thr g lane)) }
    if fn == 11 && apertureOf ea != .global then (s1, .fail ⟨lane, 0x11, ea, 0⟩)
    else if fly then
      (if fn == 11 || t.onCell then (s, .stays)
       else flyOut s1 g t f (if ret then (if fn = 12 then 2 else 1) else 0) (hitsOf s1 g lane ea (atomSize fn) true true) [])
    else if !canPerform s1 g f then (s, .stays)
    else atUnit s1 g lane t.loc fun s2 =>
      if cellBusy s2 t then (s2, .fail ⟨lane, 0x11, ea, 0⟩) else atomAct s2 g lane ea t fn ret b d

/-- A barrier instruction of a lane (R244, R245). -/
def laneBar (s : State) (g : Gang) (lane fn b a d : Nat) : State × LaneEnd :=
  let ea := laneAddr g lane a
  match arrive s g lane ea 16 { r := true, w := true, reads := fn != 0 } with
  | (s1, .error f) => (s1, .fail f)
  | (s1, .ok t) =>
    if !reachable s1 g lane (.bar fn b a d) ea t then (s, .stays)
    else atUnit s1 g lane t.loc fun s2 =>
      let v := rdReg g.level (thr g lane) b
      if fn = 0 then (barInit s2 t.loc v.toNat, .ok [] [])
      else if fn = 3 then (barAdd s2 t.loc v.toInt, .ok [] [])
      else
        let (s3, r) := barArrive s2 t.loc (fn == 2)
        (putLane s3 g.id lane fun x => wrReg g.level x d r, .ok [] [])

/-- A cell instruction's stage 2 (R333): its checks, then its step at the home slice. -/
def atCell (s : State) (g : Gang) (lane a : Nat) (w : Bool) (op : AccessOp) (k : State → Dbl → Nat → State × LaneEnd) : State × LaneEnd :=
  let ea := laneAddr g lane a
  match arrive s g lane ea 8 { r := !w, w := w, cell := true } with
  | (s1, .error f) => (s1, .fail f)
  | (s1, .ok t) => if reachable s1 g lane op ea t then atUnit s1 g lane t.loc fun s2 => k s2 ea t.loc.off else (s, .stays)

/-- The cell names the issuer or a task of its parent chain (R337). -/
def selfDependent (s : State) (g : Gang) (h : Word) : Bool :=
  g.task != 0 && (h == g.task || (parentChain s 15 g.task).contains h)

/-- `take` at the home slice (R336). -/
def laneTake (s : State) (g : Gang) (lane a d : Nat) : State × LaneEnd :=
  atCell s g lane a false (.take a d) fun s1 ea pa =>
    let st := cellState s1 pa
    let p := cellPayload s1 pa
    let hits := hitsOf s1 g lane ea 8 false true
    if st = cellValue then (putLane s1 g.id lane fun x => wrPair g.level x d p, .ok hits [])
    else if recordPoisoned s1 (handleOf p) [1] then ((recordErrorAt s1).2, .fail ⟨lane, 0x60, (recordErrorAt s1).1, 0⟩)
    else if selfDependent s1 g (handleOf p) then (s1, .fail ⟨lane, 0x30, ea, 0⟩)
    else if st = cellSuspended then
      (startEvaluator (dirtyAt (setCell s1 pa p cellEvaluating) g ea pa) (handleOf p) g.id g.core (pa / 2 ^ 46), .waits)
    else (s1, .waits)

/-- The issuer is a RECLAIMING task (R341). -/
def reclaiming (s : State) (g : Gang) : Option Task := (taskOf s g.task).bind fun t => if t.state = 6 then some t else none

/-- A value is written to a cell: its waiters wake, and a DORMANT task that it named never runs (R341). -/
def resolveCell (s : State) (pa : Nat) (v : Dbl) : State :=
  if cellState s pa = cellValue then setCell s pa v cellValue
  else
    let h := handleOf (cellPayload s pa)
    let s1 := setCell (wakeWaiters s pa) pa v cellValue
    match taskOf s1 h with
    | some t => if t.state = 1 then freeTask s1 h else s1
    | none => s1

/-- `resolve` of a lane (R341): a reclaiming task's write of its own cell is discarded. -/
def laneResolve (s : State) (g : Gang) (lane b a : Nat) : State × LaneEnd :=
  let ea := laneAddr g lane a
  let own := match reclaiming s g with
    | some t => t.cell != 0 && t.cell.toNat % 2 ^ 60 == ea.toNat % 2 ^ 60
    | none => false
  if own then (s, .ok [] [])
  else
    atCell s g lane a true (.resolve b a) fun s1 ea pa =>
      let v := rdPair g.level (thr g lane) b
      (dirtyAt (resolveCell s1 pa v) g ea pa, .ok (hitsOf s1 g lane ea 8 true false) [(lane, ea.toNat, 8, v.toNat)])

/-- Where overflow entry i of a held list stands (R36, R342), checked as an access of the task. -/
def heldPlace (s : State) (g : Gang) (lane : Nat) (t : Task) (i : Nat) (w : Bool) : State × Except LaneFail (Dbl × Target) :=
  match effAddr t.frame (4 * (i - 3) : Nat) with
  | none => (s, .error ⟨lane, 0x13, shownAddr t.frame (4 * (i - 3) : Nat), 0⟩)
  | some ea =>
    if ea.toNat % 4 != 0 then (s, .error ⟨lane, 0x16, ea, 0⟩)
    else if apertureOf ea != .global then (s, .error ⟨lane, 0x15, ea, 0⟩)
    else
      match arrive s g lane ea 4 { r := !w, w := w, reads := !w } with
      | (s1, .error f) => (s1, .error f)
      | (s1, .ok x) => (s1, .ok (ea, x))

/-- Append a handle to a task's held list (R334, R342): a fault at an overflow word changes nothing. -/
def appendHeld (s : State) (g : Gang) (lane : Nat) (h : Word) : State × Except LaneFail Unit :=
  match taskOf s g.task with
  | none => (s, .ok ())
  | some t =>
    if recordPoisoned s g.task [2, 3] then ((recordErrorAt s).2, .error ⟨lane, 0x60, (recordErrorAt s).1, 0⟩)
    else if t.nheld < 3 then
      (changeTask s g.task fun x => { x with held := setAt (x.held ++ List.replicate (3 - x.held.length) 0) x.nheld h, nheld := x.nheld + 1 },
       .ok ())
    else
      match heldPlace s g lane t t.nheld true with
      | (s1, .error f) => (s1, .error f)
      | (s1, .ok (ea, x)) =>
        (changeTask (writeAt s1 g ea x (leOf 4 h.toNat)) g.task fun x => { x with nheld := x.nheld + 1 }, .ok ())

/-- Read entry i of a held list. -/
def readHeld (s : State) (g : Gang) (lane : Nat) (t : Task) (i : Nat) : State × Except LaneFail Word :=
  if i < 3 then (s, .ok (t.held.getD i 0))
  else
    match heldPlace s g lane t i false with
    | (s1, .error f) => (s1, .error f)
    | (s1, .ok (_, x)) => (s1, .ok (BitVec.ofNat 32 (readNat s1 x.loc 4)))

/-- The first entry that holds a handle, from entry i on. -/
def findHeld (g : Gang) (lane : Nat) (t : Task) (h : Word) : Nat → Nat → State → State × Except LaneFail (Option Nat)
  | 0, _, s => (s, .ok none)
  | k + 1, i, s =>
    match readHeld s g lane t i with
    | (s1, .error f) => (s1, .error f)
    | (s1, .ok v) => if v = h then (s1, .ok (some i)) else findHeld g lane t h k (i + 1) s1

/-- Remove entry i of a task's held list: the last entry takes its place (R342). -/
def removeHeld (s : State) (g : Gang) (lane : Nat) (t : Task) (i : Nat) : State × Except LaneFail Unit :=
  match readHeld s g lane t (t.nheld - 1) with
  | (s1, .error f) => (s1, .error f)
  | (s1, .ok last) =>
    let fewer := fun (u : State) => changeTask u g.task fun x =>
      { x with nheld := x.nheld - 1, held := if x.nheld ≤ 3 then setAt x.held (x.nheld - 1) 0 else x.held }
    if i + 1 = t.nheld then (fewer s1, .ok ())
    else if i < 3 then (fewer (changeTask s1 g.task fun x => { x with held := setAt x.held i last }), .ok ())
    else
      match heldPlace s1 g lane t i true with
      | (s2, .error f) => (s2, .error f)
      | (s2, .ok (ea, x)) => (fewer (writeAt s2 g ea x (leOf 4 last.toNat)), .ok ())

/-- A lane's status, written to its destination. -/
def laneStatus (s : State) (g : Gang) (lane d st : Nat) (hits : List Hit) : State × LaneEnd :=
  (putLane s g.id lane fun x => wrReg g.level x d (BitVec.ofNat 32 st), .ok hits [])

/-- The consumers field of a cell changes (R342). -/
def setConsumers (s : State) (pa n : Nat) : State :=
  let p := cellPayload s pa
  setCell s pa (payload n (waitersOf p) (handleOf p)) (cellState s pa)

/-- `ref.add` at the home slice (R342). -/
def laneRefAdd (s : State) (g : Gang) (lane a d : Nat) : State × LaneEnd :=
  let ea := laneAddr g lane a
  match arrive s g lane ea 8 { r := true, w := true, cell := true } with
  | (s1, .error f) => (s1, .fail f)
  | (s1, .ok t) =>
    if !reachable s1 g lane (.refAdd a d) ea t then (s, .stays)
    else atUnit s1 g lane t.loc fun s2 =>
      let pa := t.loc.off
      let p := cellPayload s2 pa
      let hits := hitsOf s2 g lane ea 8 true true
      if cellState s2 pa = cellValue then laneStatus s2 g lane d 1 hits
      else if consumersOf p = 65535 then laneStatus s2 g lane d 2 hits
      else
        match (if g.task = 0 then (s2, .ok ()) else appendHeld s2 g lane (handleOf p)) with
        | (s3, .error f) => (s3, .fail f)
        | (s3, .ok _) => laneStatus (dirtyAt (setConsumers s3 pa (consumersOf p + 1)) g ea pa) g lane d 0 hits

/-- `ref.drop` at the home slice (R342, R345). -/
def laneRefDrop (s : State) (g : Gang) (lane a d : Nat) : State × LaneEnd :=
  let ea := laneAddr g lane a
  match arrive s g lane ea 8 { r := true, w := true, cell := true } with
  | (s1, .error f) => (s1, .fail f)
  | (s1, .ok t) =>
    if !reachable s1 g lane (.refDrop a d) ea t then (s, .stays)
    else atUnit s1 g lane t.loc fun s2 =>
      let pa := t.loc.off
      let p := cellPayload s2 pa
      let hits := hitsOf s2 g lane ea 8 true true
      let drop := fun (u : State) =>
        if consumersOf p ≤ 1 then laneStatus (dirtyAt (reclaimCell u pa) g ea pa) g lane d 4 hits
        else laneStatus (dirtyAt (setConsumers u pa (consumersOf p - 1)) g ea pa) g lane d 0 hits
      if cellState s2 pa = cellValue then laneStatus s2 g lane d 1 hits
      else
        match taskOf s2 g.task with
        | none => drop s2
        | some tk =>
          if recordPoisoned s2 g.task [2, 3] then ((recordErrorAt s2).2, .fail ⟨lane, 0x60, (recordErrorAt s2).1, 0⟩)
          else match findHeld g lane tk (handleOf p) tk.nheld 0 s2 with
          | (s3, .error f) => (s3, .fail f)
          | (s3, .ok none) => laneStatus s3 g lane d 3 hits
          | (s3, .ok (some i)) =>
            match removeHeld s3 g lane tk i with
            | (s4, .error f) => (s4, .fail f)
            | (s4, .ok _) => drop s4

/-- `probe` at the home slice (R343): a relaxed read. -/
def laneProbe (s : State) (g : Gang) (fly : Bool) (lane a d : Nat) : State × LaneEnd :=
  let ea := laneAddr g lane a
  match arrive s g lane ea 8 { r := true, cell := true } with
  | (s1, .error f) => (s1, .fail f)
  | (s1, .ok t) =>
    let f : Flight := { lane := lane, op := .probe a d, kind := t.kind, ea := ea, loc := t.loc,
                        dst := (Opnd.reg d).phys g.level (thr g lane) }
    let hits := hitsOf s1 g lane ea 8 false true
    if fly then flyOut s1 g t f 1 hits []
    else if !canPerform s1 g f then (s, .stays)
    else atUnit s1 g lane t.loc fun s2 => (putLane s2 g.id lane fun x => wrReg g.level x d (probeWord s2 t.loc.off), .ok hits [])

/-- A tag instruction's granule (R385, R386): where it is, or the cause; `tag.get` reads it (R372). -/
def tagTarget (s : State) (g : Gang) (lane : Nat) (ea : Dbl) (set : Bool) : State × Except LaneFail Target :=
  match arrive s g lane ea 16 { r := !set, w := set, colour := false, reads := !set, tagPage := set } with
  | (s1, .error f) => (s1, .error f)
  | (s1, .ok (.core l)) =>
    if set && !(spaceOf s1 l.place).tagged then (s1, .error ⟨lane, 0x11, ea, 0⟩) else (s1, .ok (.core l))
  | (s1, .ok (.glob pa leaf)) =>
    if set && leafCell leaf && tagAt s1 (physLoc pa) % 16 != 0 then (s1, .error ⟨lane, 0x11, ea, 0⟩)
    else (s1, .ok (.glob pa leaf))

/-- An access touches a granule. -/
def Flight.onGranule (f : Flight) (l : Loc) : Bool :=
  f.loc.place == l.place && decide (f.loc.off < (l.off / 16 + 1) * 16) && decide (l.off / 16 * 16 < f.loc.off + f.size)

/-- Colour one granule; its cell states stay (R385). The accesses that have passed its old colour are performed before (R201). -/
def colourGranule (s0 : State) (g : Gang) (ea : Dbl) (t : Target) : State :=
  let s := drainWhere s0 fun _ f => f.onGranule t.loc
  let s1 := writeTag s t.loc (colourOf ea * 16 + tagAt s t.loc % 16)
  match t with
  | .glob pa _ => dirtyAt s1 g ea pa
  | .core _ => s1

/-- Colour n granules upward from an address, up to the first that fails. -/
def colourRun (g : Gang) (lane : Nat) (base : Dbl) : Nat → Nat → State → State × Option LaneFail
  | 0, _, s => (s, none)
  | k + 1, i, s =>
    match effAddr base (16 * i : Nat) with
    | none => (s, some ⟨lane, 0x13, shownAddr base (16 * i : Nat), 0⟩)
    | some ea =>
      if apertureOf ea != apertureOf base then (s, some ⟨lane, 0x15, ea, 0⟩)
      else
        match tagTarget s g lane ea true with
        | (s1, .error f) => (s1, some f)
        | (s1, .ok t) => colourRun g lane base k (i + 1) (colourGranule s1 g ea t)

/-- The first granule of a tag instruction is not to be reached yet (R311, R325). -/
def tagStays (s : State) (g : Gang) (lane : Nat) (ea : Dbl) (set : Bool) (op : AccessOp) : Bool :=
  match tagTarget s g lane ea set with
  | (s1, .ok t) => !reachable s1 g lane op ea t
  | _ => false

/-- `tag.set` and `tag.setr` of a lane (R385). -/
def laneTagSet (s : State) (g : Gang) (lane a n : Nat) : State × LaneEnd :=
  if n != 0 && tagStays s g lane (laneAddr g lane a) true (.tagSet a) then (s, .stays) else
  match colourRun g lane (laneAddr g lane a) n 0 s with
  | (s1, some f) => (s1, .fail f)
  | (s1, none) => (s1, .ok [] [])

/-- The bits of a granule's tag byte that `tag.get` shows (R386): none of a page or a launch without tags, and no cell states of a
scratchpad. -/
def tagMask (s : State) : Target → Nat
  | .glob _ leaf => if leafTagged leaf || leafCell leaf then 0xFF else 0
  | .core l => if (spaceOf s l.place).tagged then 0xF0 else 0

/-- `tag.get` of a lane (R386). -/
def laneTagGet (s : State) (g : Gang) (fly : Bool) (lane a d : Nat) : State × LaneEnd :=
  let ea := laneAddr g lane a
  match tagTarget s g lane ea false with
  | (s1, .error f) => (s1, .fail f)
  | (s1, .ok t) =>
    let f : Flight := { lane := lane, op := .tagGet a d, kind := t.kind, ea := ea, loc := t.loc, data := tagMask s1 t,
                        dst := (Opnd.reg d).phys g.level (thr g lane) }
    if fly then flyOut s1 g t f 1 [] []
    else if !canPerform s1 g f then (s, .stays)
    else (putLane s1 g.id lane fun x => wrReg g.level x d (BitVec.ofNat 32 (tagAt s1 t.loc &&& tagMask s1 t)), .ok [] [])

/-- The second stage of one lane; with `fly` its access passes its checks and stays outstanding.
DEDUCED, log entry 67 (unsafe). -/
def laneStep (s : State) (g : Gang) (fly : Bool) (lane : Nat) : AccessOp → State × LaneEnd
  | .load size off signed a d => laneLoad s g fly lane size off signed a d
  | .store size off a d => laneStore s g fly lane size off a d
  | .atom fn ret b a d => laneAtom s g fly lane fn ret b a d
  | .bar fn b a d => laneBar s g lane fn b a d
  | .take a d => laneTake s g lane a d
  | .resolve b a => laneResolve s g lane b a
  | .refAdd a d => laneRefAdd s g lane a d
  | .refDrop a d => laneRefDrop s g lane a d
  | .probe a d => laneProbe s g fly lane a d
  | .tagSet a => laneTagSet s g lane a 1
  | .tagSetr b a => laneTagSet s g lane a ((rdReg g.level (thr g lane) b).toNat / 16)
  | .tagGet a d => laneTagGet s g fly lane a d

/-- Change what is under way in a gang's accesses. -/
def modPending (s : State) (id : Nat) (f : Pending → Pending) : State :=
  modGang s id fun g => { g with pending := g.pending.map f }

/-- Add hits to the instruction under way. -/
def addHits (s : State) (id : Nat) (hs : List Hit) : State :=
  modGang s id fun g => { g with clause := g.clause.map fun c => { c with hits := c.hits ++ hs } }

/-- A lane that takes waits at a cell (R336 park): it takes the value if the cell has one now, and otherwise has a waiter
record. -/
def parkLane (id : Nat) (a d : Nat) (s : State) (lane : Nat) : State :=
  match gangOf s id with
  | none => s
  | some g =>
    let ea := laneAddr g lane a
    match arrive s g lane ea 8 { r := true, cell := true } with
    | (s1, .error f) => modPending s1 id fun p => { p with waiting := p.waiting &&& ~~~(bitMask lane), failed := p.failed ++ [f] }
    | (s1, .ok t) =>
      if cellState s1 t.loc.off = cellValue then
        addHits (modPending (putLane s1 id lane fun x => wrPair g.level x d (cellPayload s1 t.loc.off)) id fun p =>
          { p with waiting := p.waiting &&& ~~~(bitMask lane), done := p.done ||| bitMask lane })
          id (hitsOf s1 g lane ea 8 false true)
      else appendWaiter s1 g ea t.loc.off

/-- The lanes of a `take` that wait are parked. -/
def parkLanes (s : State) (id : Nat) (p : Pending) : State :=
  match p.op with
  | .take a d => (lanesOf p.waiting).foldl (parkLane id a d) s
  | _ => s

/-- The halt of a gang that found the replay log at its end is due (R402). -/
def haltDue (beyond : Option Nat) (id : Nat) (pc : Dbl) (s : State) : State :=
  match beyond with
  | some u => modGang s id fun g => { g with diverges := some (7, u, pc) }
  | none => s

/-- What every lane's end leaves of the instruction: a fault, a wait of the lanes that take, its completion, or a gang that
goes on with accesses outstanding (R205, R311, R333, R336, R402). -/
def concludeAccess (s : State) (id : Nat) : State :=
  match gangOf s id with
  | none => s
  | some g =>
    match g.pending, g.clause with
    | some p, some c =>
      let g1 := { g with pending := none }
      let pc := instrPc c
      if !p.failed.isEmpty then haltDue p.beyond id pc (failKeeping s g1 c p.op.cls p.failed p.done)
      else if p.waiting != 0 then haltDue p.beyond id pc (blockAt s g1 c p.op.cls p.waiting 5 (.cells false))
      else if !p.flights.isEmpty then setGang s (stepPast (leaveOut g1 c p.op.cls p.flights) c)
      else
        match p.beyond with
        | some u => divergeStop (complete (setGang s g1) g1 c p.op.cls) ((gangOf s id).getD g1) 7 u pc
        | none => complete (setGang s g1) g1 c p.op.cls
    | _, _ => s

/-- An instruction whose lanes have all settled waits with what follows: for its own accesses outstanding, where a fault, a hit or
a divergence follows; for room for the event of a stop; and for the way to the cells where its lanes are to wait (R205, R325, R336,
R383, R402, R418). -/
def settleWaits (s : State) (g : Gang) (p : Pending) (hits : List Hit) : Bool :=
  (!p.flights.isEmpty && (!p.failed.isEmpty || !hits.isEmpty || p.beyond.isSome))
    || stopHeld s g hits
    || (p.failed.isEmpty && match p.op with
      | .take a _ => (lanesOf p.waiting).any fun l => !laneOpen s g l (laneAddr g l a) 8 { r := true, cell := true }
      | _ => false)

/-- Every lane has settled (R205, R333): a fault is raised, or waiting lanes are parked, or the instruction completes. -/
def settleAccess (s : State) (id : Nat) : State :=
  match gangOf s id with
  | none => s
  | some g => match g.pending with
    | none => s
    | some p =>
      if settleWaits s g p ((g.clause.map ClauseRun.hits).getD []) then s
      else concludeAccess (if p.failed.isEmpty then parkLanes s id p else s) id

/-- What a lane's end changes in the accesses under way. -/
def noteLane (s : State) (id lane : Nat) (e : LaneEnd) : State :=
  let rest := fun (p : Pending) => { p with lanes := p.lanes &&& ~~~(bitMask lane) }
  match e with
  | .ok hs st =>
    addHits (modGang (modPending s id fun p => { rest p with done := p.done ||| bitMask lane }) id fun g =>
      { g with gate := none, clause := g.clause.map fun c => { c with stream := st.foldr streamIn c.stream } }) id hs
  | .flies hs st f =>
    addHits (modGang (modPending s id fun p => { rest p with done := p.done ||| bitMask lane, flights := p.flights ++ [f] }) id fun g =>
      { g with gate := none, clause := g.clause.map fun c => { c with stream := st.foldr streamIn c.stream } }) id hs
  | .stays => s
  | .fail f => modGang (modPending s id fun p => { rest p with failed := p.failed ++ [f] }) id fun g => { g with gate := none }
  | .waits => modGang (modPending s id fun p => { rest p with waiting := p.waiting ||| bitMask lane }) id fun g => { g with gate := none }
  | .held u => modGang s id fun g => { g with gate := joinGate s g.launch g.core u g.gate }

/-- The instructions whose accesses may stay outstanding while the gang goes on: plain loads and stores, `st.rel`, the atomics, `probe`
and `tag.get`; an acquire is performed before the gang goes on (R311, R319, R320). -/
def mayFly : Instr → Bool
  | .ldB _ _ _ | .ldH _ _ _ | .ldW _ _ _ | .ldD _ _ _ | .ldsB _ _ _ | .ldsH _ _ _ | .ldsQ _ _ _ | .stB _ _ _ | .stH _ _ _
  | .stW _ _ _ | .stD _ _ _ | .stQ _ _ _ | .stRelW _ _ _ | .stRelD _ _ _ | .probe _ _
  | .tagGet _ _ => true
  | i => syncInstr i

/-- The instruction under way of a gang is one of them. -/
def flies (g : Gang) : Bool :=
  match g.clause.map fun c => decodeWord (wordOf c) with
  | some (.ok i) => mayFly i
  | _ => false

/-- The access of a gang's lowest remaining lane reaches its target, and is performed there or stays outstanding; when no lane
remains, the instruction settles. -/
def arriveNext (s : State) (id : Nat) (fly : Bool) : State :=
  match gangOf s id with
  | none => s
  | some g =>
    match g.pending with
    | none => s
    | some p =>
      if p.lanes = 0 then settleAccess s id
      else
        let lane := lowest p.lanes
        let (s1, e) := laneStep s g (fly && flies g) lane p.op
        let s2 := noteLane s1 id lane e
        match (gangOf s2 id).bind Gang.pending with
        | some q => if q.lanes = 0 then settleAccess s2 id else s2
        | none => s2

/-- A `take` under way is one that a gang which is to stop never performs (R352). -/
def takesNoMore (s : State) (g : Gang) : Bool :=
  mustStop s g && match g.pending.map Pending.op with | some (.take _ _) => true | _ => false

/-- The next lane of a gang's access arrives, unless the gang is to stop at the instruction. -/
def arriveOrStop (s : State) (id : Nat) (fly : Bool) : State :=
  match gangOf s id with
  | none => s
  | some g => if takesNoMore s g then stopGang s { g with pending := none } else arriveNext s id fly

/-- R205, R309: an access reaches its target. Focus: gang, for the lowest remaining lane of its instruction; gang, 0, 1, where
that access stays outstanding; gang, k + 1, where the k-th outstanding access is performed.
DEDUCED, log entry 67 (unsafe). -/
def execAccessAtTarget (s : State) : Host.Outcome State Fault Refusal :=
  match s.focus with
  | [id] => .next (arriveOrStop s id false)
  | [id, k + 1] => .next (performNth s id k)
  | id :: _ => .next (arriveOrStop s id true)
  | [] => .next s

end Sys2Proof.Machine
end

