-- ==== Sys2Proof/Machine/Atomics.lean ====
section
/-! DEFINITION. Meanings of the atomics (R250 to R253). -/

namespace Sys2Proof.Machine

/-- The register operands of an atomic, for its window check (R251). -/
def atomOpnds (fn : Nat) (ret : Bool) (b a d : Nat) : List Opnd :=
  let bo : Opnd := if fn = 10 ∨ fn = 12 then .pair b else .reg b
  let dl : List Opnd := if ret then (if fn = 12 then [.pair d] else [.reg d]) else []
  [.pair a, bo] ++ dl

/-- Stage 1 of an atomic of a lane (R251). -/
def checkAtom (fn : Nat) (ret : Bool) (b a d : Nat) (s : State) (g : Gang) (lane : Nat) : Except LaneFail Unit :=
  match laneWindow g lane (atomOpnds fn ret b a d) with
  | .error f => .error f
  | .ok _ =>
    match stage1 s g lane (laneAddr g lane a) 0 (atomSize fn) (atomSize fn) true false true with
    | .error f => .error f
    | .ok _ => .ok ()

/-- An atomic in every active lane (R250). -/
def issueAtom (fn : Nat) (ret : Bool) (b a d : Nat) (s : State) : Step :=
  issueAccess s (.atom fn ret b a d) (checkAtom fn ret b a d)

/-- R250: atomic add, returning the old value. -/
def execAtomAdd (b a d : Nat) (s : State) : Step := issueAtom 0 true b a d s

/-- R250: atomic signed minimum, returning the old value. -/
def execAtomMin (b a d : Nat) (s : State) : Step := issueAtom 1 true b a d s

/-- R250: atomic signed maximum, returning the old value. -/
def execAtomMax (b a d : Nat) (s : State) : Step := issueAtom 2 true b a d s

/-- R250: atomic natural minimum, returning the old value. -/
def execAtomMinn (b a d : Nat) (s : State) : Step := issueAtom 3 true b a d s

/-- R250: atomic natural maximum, returning the old value. -/
def execAtomMaxn (b a d : Nat) (s : State) : Step := issueAtom 4 true b a d s

/-- R250: atomic AND, returning the old value. -/
def execAtomAnd (b a d : Nat) (s : State) : Step := issueAtom 5 true b a d s

/-- R250: atomic OR, returning the old value. -/
def execAtomOr (b a d : Nat) (s : State) : Step := issueAtom 6 true b a d s

/-- R250: atomic XOR, returning the old value. -/
def execAtomXor (b a d : Nat) (s : State) : Step := issueAtom 7 true b a d s

/-- R250: atomic exchange, returning the old value. -/
def execAtomXchg (b a d : Nat) (s : State) : Step := issueAtom 8 true b a d s

/-- R250: atomic increment against a bound, returning the old value. -/
def execAtomInc (b a d : Nat) (s : State) : Step := issueAtom 9 true b a d s

/-- R250: atomic add without return. -/
def execAtomAddNr (b a : Nat) (s : State) : Step := issueAtom 0 false b a 0 s

/-- R250: atomic signed minimum without return. -/
def execAtomMinNr (b a : Nat) (s : State) : Step := issueAtom 1 false b a 0 s

/-- R250: atomic signed maximum without return. -/
def execAtomMaxNr (b a : Nat) (s : State) : Step := issueAtom 2 false b a 0 s

/-- R250: atomic natural minimum without return. -/
def execAtomMinnNr (b a : Nat) (s : State) : Step := issueAtom 3 false b a 0 s

/-- R250: atomic natural maximum without return. -/
def execAtomMaxnNr (b a : Nat) (s : State) : Step := issueAtom 4 false b a 0 s

/-- R250: atomic AND without return. -/
def execAtomAndNr (b a : Nat) (s : State) : Step := issueAtom 5 false b a 0 s

/-- R250: atomic OR without return. -/
def execAtomOrNr (b a : Nat) (s : State) : Step := issueAtom 6 false b a 0 s

/-- R250: atomic XOR without return. -/
def execAtomXorNr (b a : Nat) (s : State) : Step := issueAtom 7 false b a 0 s

/-- R250: atomic exchange without return. -/
def execAtomXchgNr (b a : Nat) (s : State) : Step := issueAtom 8 false b a 0 s

/-- R250: atomic increment against a bound without return. -/
def execAtomIncNr (b a : Nat) (s : State) : Step := issueAtom 9 false b a 0 s

/-- R250: compare and swap; the pair b holds the compare value and the new value. -/
def execAtomCas (b a d : Nat) (s : State) : Step := issueAtom 10 true b a d s

/-- R253: exact FP32 addition into the shadow of a word of a sum page. -/
def execAtomFx (b a d : Nat) (s : State) : Step := issueAtom 11 true b a d s

/-- R250: 64-bit add. -/
def execAtomAddD (b a d : Nat) (s : State) : Step := issueAtom 12 true b a d s

/-- R253: exact FP32 addition without return. -/
def execAtomFxNr (b a : Nat) (s : State) : Step := issueAtom 11 false b a 0 s

/-- R250: 64-bit add without return. -/
def execAtomAddDNr (b a : Nat) (s : State) : Step := issueAtom 12 false b a 0 s

end Sys2Proof.Machine
end

