-- ==== Sys2Proof/Machine/Place.lean ====
section
/-! DEFINITION. Carve-outs, where work fits, placement, eviction and the task arena (R29, R38, R98 to R104, R107, R112,
R339, R340, R368, R369). -/

namespace Sys2Proof.Machine

/-- Bytes with their tag share, where the launch tags (R29, R38). -/
def withShare (tagging : Bool) (n : Nat) : Nat := if tagging then n + ceilDiv n 32 else n

/-- A block's carve-out with given scratchpad and queue sizes (R29). -/
def carveBytes (d : Desc) (gangs scratch queue : Nat) : Nat :=
  withShare d.tagging (gangs * 32 * (4 * d.regs + d.stack) + scratch + queue)

/-- The bytes that a resident block occupies. -/
def blockBytes (s : State) (b : Block) : Nat := carveBytes (launchD s b.launch).desc b.gangs b.pad.size b.queueSize

/-- The footprint fields of `task.fp` (R38). -/
def fpRegs (fp : Nat) : Nat := 8 * (bits fp 0 5 + 1)
def fpPriv (fp : Nat) : Nat := 256 * min (bits fp 5 7) 64
def fpStack (fp : Nat) : Nat := 16 * bits fp 12 8
/-- The bytes that a task of a footprint occupies (R38). -/
def footprint (tagging : Bool) (fp : Nat) : Nat := withShare tagging (32 * (4 * fpRegs fp + fpStack fp) + fpPriv fp)

/-- The bytes that a task gang occupies on its core: none while it is displaced (R340). -/
def gangBytes' (s : State) (g : Gang) : Nat :=
  withShare (launchD s g.launch).desc.tagging (32 * (4 * g.nregs + g.slab) + g.priv.size)

/-- Free bytes of a core's array (R98). -/
def freeBytes (s : State) (core : Nat) : Nat :=
  786432 - ((s.blocks.filter fun b => b.core == core).map (blockBytes s)).sum
    - ((s.gangs.filter fun g => g.core == core && g.task != 0 && !g.displaced).map (gangBytes' s)).sum

/-- Work fits on a core (R99). -/
def fits (s : State) (core bytes gangs : Nat) : Bool := decide (bytes ≤ freeBytes s core) && decide (gangs ≤ freeSlots s core)

/-- A launch may use a die (R85): its affinity names it, and it is present. -/
def dieAllowed (s : State) (d : Desc) (die : Nat) : Bool := bit d.affinity die && diePresent s die

/-- A group of cores that a cluster may take (R101): cores, and how many of them it takes, part by part. -/
abbrev Group := List (List Nat × Nat)

/-- The candidate groups of a launch, in order (R15, R101). -/
def groupsOf (s : State) (L : Launch) : List Group :=
  let n := L.desc.blocks
  let one := fun die nb => ([(coresOfNbhd die nb, n)] : Group)
  let all := fun die => (List.range (nbhdsOf die)).map (one die)
  let q := dieAllowed s L.desc 0
  let m := dieAllowed s L.desc 1
  if q && m then
    [[(coresOfNbhd 0 10, n - n / 2), (coresOfNbhd 1 4, n / 2)], [(coresOfNbhd 0 11, n - n / 2), (coresOfNbhd 1 5, n / 2)]]
      ++ all L.die ++ all (1 - L.die)
  else if q then all 0
  else if m then all 1
  else []

/-- The cores a group supplies, if each part can supply its share (R101). -/
def groupCores (s : State) (bytes gangs : Nat) : Group → Option (List Nat)
  | [] => some []
  | (cs, n) :: r =>
    let ok := (cs.filter fun c => fits s c bytes gangs).take n
    if ok.length < n then none else (groupCores s bytes gangs r).map fun rest => ok ++ rest

/-- A new block gang (R57, R62, R116, R377). -/
def newBlockGang (L : Launch) (id cl b rank index core : Nat) (clusterIndex : Nat) : Gang :=
  { id := id, launch := L.id, cluster := clusterIndex, clusterId := cl, block := b, rank := rank, index := index,
    core := core, slot := none, nregs := L.desc.regs, slab := L.desc.stack, threads := List.replicate 32 {},
    live := allLanes,
    frontier := [{ pc := BitVec.ofNat 64 (L.desc.entry.toNat % 2 ^ 60), prio := 0, mask := allLanes, target := true }],
    curClass := L.desc.prio, stack := { size := L.desc.stack, tagged := L.desc.tagging } }

/-- Add a block's gangs in ascending order, each with its slot (R100). -/
def addGangs (L : Launch) (cl b rank core clusterIndex : Nat) : List Nat → State → State
  | [], s => s
  | i :: is, s =>
    let (id, s1) := newId s
    addGangs L cl b rank core clusterIndex is
      (giveSlot { s1 with gangs := s1.gangs ++ [newBlockGang L id cl b rank i core clusterIndex] } id core)

/-- Add the blocks of a cluster, ranks in the order of the cores (R102); the identifiers of the blocks. -/
def addBlocks (L : Launch) (cl clusterIndex : Nat) : Nat → List Nat → State → List Nat × State
  | _, [], s => ([], s)
  | rank, core :: cs, s =>
    let (b, s1) := newId s
    let blk : Block := { id := b, launch := L.id, clusterId := cl, rank := rank, core := core, gangs := L.desc.gangs,
                         pad := { size := L.desc.scratch, tagged := L.desc.tagging }, queueSize := L.desc.queue }
    let (bs, s2) := addBlocks L cl clusterIndex (rank + 1) cs
      (addGangs L cl b rank core clusterIndex (List.range L.desc.gangs) { s1 with blocks := s1.blocks ++ [blk] })
    (b :: bs, s2)

/-- Clusters of a launch. -/
def clustersOf (d : Desc) : Nat := d.gx * d.gy * d.gz

/-- Place the next cluster of a launch, if a group can take it (R84, R101 to R103). -/
def placeCluster (s : State) (id : Nat) : Option State :=
  let L := launchD s id
  let bytes := carveBytes L.desc L.desc.gangs L.desc.scratch L.desc.queue
  match (groupsOf s L).findSome? (groupCores s bytes L.desc.gangs) with
  | none => none
  | some cores =>
    let (cl, s1) := newId s
    let (bs, s2) := addBlocks L cl L.placed 0 cores { s1 with clusters := s1.clusters ++
      [{ id := cl, launch := id, index := L.placed, blocks := [], ready := decide (L.desc.nparam = 0) }] }
    let s3 := modCluster s2 cl fun k => { k with blocks := bs }
    some (modLaunch s3 id fun L =>
      { L with placed := L.placed + 1, cores := (L.cores ++ cores).eraseDups,
               tstart := if L.placed = 0 then s.time else L.tstart,
               state := if L.placed + 1 = clustersOf L.desc then .draining else .running })

/-- Place clusters of a launch while they fit. -/
def placeClusters (id : Nat) : Nat → State → State
  | 0, s => s
  | fuel + 1, s =>
    let L := launchD s id
    if clustersOf L.desc ≤ L.placed then s
    else match placeCluster s id with
      | none => s
      | some s1 => placeClusters id fuel s1

/-- A launch of a lower place in the same queue, with the same priority, has not left READY (R86). -/
def heldBack (s : State) (L : Launch) : Bool :=
  s.launches.any fun M => M.die == L.die && M.queue == L.queue && M.desc.prio == L.desc.prio
    && (decide (M.place < L.place) || (M.place == L.place && decide (M.id < L.id)))
    && (M.state == .taken || M.state == .leaseWait || M.state == .ready) && M.ending.isNone

/-- Insert by a key, the lowest first; equal keys keep their order. -/
def insertKey {α : Type} (key : α → Nat) (x : α) : List α → List α
  | [] => [x]
  | y :: ys => if key x < key y then x :: y :: ys else y :: insertKey key x ys
def sortKey {α : Type} (key : α → Nat) (l : List α) : List α := l.foldl (fun a x => insertKey key x a) []

/-- The launches that are offered an opportunity, in order (R86); a graph's node has its graph's place among those of other queues too.
DESIGN CHOICE, log entry 86 (unsafe). -/
def offered (s : State) : List Launch :=
  sortKey (fun L => 7 - L.desc.prio)
    (sortKey Launch.place (s.launches.filter fun L => (L.state == .ready || L.state == .running) && L.ending.isNone))

/-- Step 4 of R104: a launch that has left READY is held back no more (R86). -/
def placeLaunches (s : State) : State :=
  (offered s).foldl (fun t L => if L.state == .ready && heldBack t L then t else placeClusters L.id 17280 t) s

/-- A new task gang (R39, R335). -/
def newTaskGang (s : State) (t : Task) (id core : Nat) : Gang :=
  let L := launchD s t.launch
  let th : Thread := { regs := fset (fset [] 4 t.frame.lo 0) 5 t.frame.hi 0 }
  { id := id, launch := t.launch, cluster := t.cluster, task := mkHandle s t, core := core, slot := none,
    nregs := fpRegs t.fp, slab := fpStack t.fp, threads := List.replicate 32 th, live := allLanes,
    frontier := [{ pc := BitVec.ofNat 64 (t.code.toNat % 2 ^ 60), prio := 0, mask := allLanes, target := true }],
    curClass := t.prio, stack := { size := fpStack t.fp, tagged := L.desc.tagging },
    priv := { size := fpPriv t.fp, tagged := L.desc.tagging } }

/-- A QUEUED task starts on a core (R331); one whose record cannot be read ends at its first instruction (R372, R427).
DEDUCED, log entry 40 (unsafe). -/
def placeTask (s : State) (t : Task) (core : Nat) : State :=
  let (id, s1) := newId s
  let s2 := changeTask (giveSlot { s1 with gangs := s1.gangs ++ [newTaskGang s1 t id core] } id core) (mkHandle s t) fun x => { x with state := 3 }
  match gangOf s2 id with
  | some g =>
    if t.poison.isEmpty then s2
    else fatal (recordErrorAt s2).2 g { cause := 0x60, pc := (topEntry g).pc, loc := (recordErrorAt s2).1, lanes := g.live }
  | none => s2

/-- The cores in the order in which a task is tried on them (R107). -/
def taskCores (s : State) (t : Task) : List Nat :=
  let die := coreDie t.origin
  let nb := (coresOfNbhd die (coreNbhd t.origin)).filter (· != t.origin)
  let near := t.origin :: nb
  near ++ (coresOfDie die).filter (fun c => !near.contains c)
    ++ (if dieAllowed s (launchD s t.launch).desc (1 - die) then coresOfDie (1 - die) else [])

/-- The cores in the order in which an evaluator is tried on them (R339). -/
def evalCores (s : State) (t : Task) : List Nat :=
  let d := (launchD s t.launch).desc
  let near := t.origin :: (coresOfNbhd (coreDie t.origin) (coreNbhd t.origin)).filter (· != t.origin)
  let home := if t.home / 2 = s.module ∧ dieAllowed s d (t.home % 2) then coresOfDie (t.home % 2) else []
  let rest := (if dieAllowed s d 0 then coresOfDie 0 else []) ++ (if dieAllowed s d 1 then coresOfDie 1 else [])
  near ++ (home ++ rest).filter fun c => !near.contains c

/-- The task's launch goes on. -/
def taskRuns (s : State) (t : Task) : Bool := t.state == 2 && (launchD s t.launch).ending.isNone

/-- Bytes of a task's footprint. -/
def taskNeed (s : State) (t : Task) : Nat := footprint (launchD s t.launch).desc.tagging t.fp

/-- Step 3 of R104: tasks by priority, each priority in order of creation; one that does not fit holds back those of its
launch and priority. -/
def placeTasks : List Task → List (Nat × Nat) → State → State
  | [], _, s => s
  | t :: ts, stuck, s =>
    if stuck.contains (t.launch, t.prio) then placeTasks ts stuck s
    else
      match (taskCores s t).find? fun c => fits s c (taskNeed s t) 1 with
      | some c => placeTasks ts stuck (placeTask s t c)
      | none => placeTasks ts ((t.launch, t.prio) :: stuck) s

def waitingTasks (s : State) : List Task :=
  sortKey (fun t => 7 - t.prio) (sortKey Task.order (s.tasks.filter fun t => taskRuns s t && !t.eval))

/-- Bytes of the arena that an evicted gang's records take: wake record and control image, and the state image of R112 of
a displaced one (R340, R368). -/
def imageBytes (g : Gang) (displaced : Bool) : Nat :=
  1088 + if displaced then roundUp (32 * (4 * g.nregs + g.slab) + g.priv.size) 64 else 0

/-- Parts of a launch's arena that other gangs use. -/
def arenaParts (s : State) (launch id : Nat) : List (Nat × Nat) :=
  (s.gangs.filter fun g => g.launch == launch && g.id != id).filterMap fun g => g.wakeRec.map fun o => (o, imageBytes g g.displaced)

/-- A place in the arena for a gang's images: at its start or behind a part in use. -/
def arenaRoom (s : State) (g : Gang) (displaced : Bool) : Option Nat :=
  let ps := arenaParts s g.launch g.id
  let n := imageBytes g displaced
  (0 :: ps.map fun p => p.1 + p.2).find? fun o =>
    decide (o + n ≤ (launchD s g.launch).desc.narena) && ps.all fun p => decide (o + n ≤ p.1) || decide (p.1 + p.2 ≤ o)

/-- The address that a wait watches, and the value it compares with, as its instruction names them (R369). -/
def waitAddr (g : Gang) : Nat × Nat :=
  match g.clause with
  | none => (0, 0)
  | some c =>
    let l := lowest (activeMask c)
    let at_ := fun a => (laneAddr g l a).toNat
    let v := fun b => (rdReg g.level (thr g l) b).toNat
    match g.wait, decodeWord (wordOf c) with
    | .blocked _ .resumed _, _ => (0, 0)
    | _, .ok (.barWait b a) => (at_ a, v b % 2)
    | _, .ok (.mwait b a _) => (at_ a, v b)
    | _, .ok (.take a _) => (at_ a, 0)
    | _, .ok (.join a) => (at_ a, 0)
    | _, .ok (.spawn a) => (at_ a, 0)
    | _, .ok (.spawnl a) => (at_ a, 0)
    | _, .ok (.cpyWait n) => (0, n)
    | _, .ok (.cpyVis _ n) => (0, n)
    | _, _ => (0, 0)

/-- Stall reason and start of a wait. -/
def waitInfo (w : Wait) : Nat × Nat :=
  match w with
  | .blocked st _ t => (st, t)
  | _ => (0, 0)

/-- The state that a wake record shows (R369, R370). -/
def wakeState (s : State) (g : Gang) : Nat :=
  if (launchD s g.launch).preempt then 2 else if g.woken.isSome then 1 else 0

/-- The 64 bytes of a wake record (R369). -/
def wakeRecord (s : State) (g : Gang) (st image tevict : Nat) : List Byte :=
  recordOf 64 [(0, 8, (waitAddr g).1), (8, 4, (waitAddr g).2), (0x0C, 1, (waitInfo g.wait).1), (0x0D, 1, st),
    (0x0E, 2, coreField s g.core), (0x10, 8, image), (0x18, 4, g.cluster), (0x1C, 4, g.task.toNat), (0x20, 1, g.rank),
    (0x21, 1, g.index), (0x22, 1, g.level), (0x28, 8, (waitInfo g.wait).2), (0x30, 8, tevict)]

/-- Bytes of a gang's images, whose layout the manual does not give. DEDUCED, log entry 62 (unsafe). -/
def imageOf (g : Gang) (n : Nat) : List Byte := (List.range n).map (Config.imageByte g.placed)

/-- The part of the arena at an offset can be written now (R426). -/
def arenaOpen (s : State) (g : Gang) (o n : Nat) : Bool :=
  let L := launchD s g.launch
  !areaAsked s g.launch 0xF2 && deviceReach s (coreDie g.core) L.ctx (vaOf L.desc.arena + o) n true

/-- Write an evicted gang's wake record (R369), whole where its wait has changed or a whole record is still owed, else its state byte;
where the arena cannot be written the write waits for the answer to a request (R426). -/
def writeWake (s : State) (id : Nat) (whole : Bool) : State :=
  match (gangOf s id).bind fun g => g.wakeRec.map fun o => (g, o) with
  | none => s
  | some (g, o) =>
    let L := launchD s g.launch
    let all := whole || g.wakeOwed == some true
    let at_ := o + if all then 0 else 0x0D
    let bs := if all then wakeRecord s g (wakeState s g) (L.desc.arena.toNat + o + 64) g.tEvict else leOf 1 (wakeState s g)
    if arenaOpen s g at_ bs.length then
      modGang (deviceWrite s (coreDie g.core) L.ctx (vaOf L.desc.arena + at_) bs).1 id fun x => { x with wakeOwed := none }
    else
      needArea (modGang s id fun x => { x with wakeOwed := some all }) g.launch 0xF2 (coreDie g.core)
        (L.desc.arena + BitVec.ofNat 64 at_) bs.length true

/-- Write the state byte of an evicted gang's wake record. -/
def writeWakeState (s : State) (id : Nat) : State := writeWake s id false

/-- Write an evicted gang's wake record whole: its wait has changed (R369). -/
def writeWakeRecord (s : State) (id : Nat) : State := writeWake s id true

/-- A write of its wake record that an evicted gang still owes can be made, or its area asked for (R418, R426). -/
def wakeOwing (s : State) (g : Gang) : Bool :=
  g.wakeOwed.isSome && !areaAsked s g.launch 0xF2
    && (arenaOpen s g (g.wakeRec.getD 0) 64 || eventRoom s (launchD s g.launch).die)

/-- The base class of a gang (R123). -/
def baseClass (s : State) (g : Gang) : Nat :=
  if g.task = 0 then (launchD s g.launch).desc.prio else ((taskOf s g.task).map Task.prio).getD 0

/-- Pre-emption wakes `mwait` (R256). -/
def Cond.preempted : Cond → Cond
  | .mwait l _ t => .mwait l true t
  | c => c

/-- The gang waits in `migrate` for a landing slot: it stays resident and keeps its footprint (R111). -/
def landingWait (g : Gang) : Bool :=
  [g.wait, g.under].any fun w => match w with
    | .blocked _ (.landing _ _) _ => true
    | _ => false

/-- The gang can be put out of its slot (R368): it waits at a blocking point. -/
def evictReady (g : Gang) : Bool := g.blocked && g.slot.isSome && !landingWait g

/-- Evict a gang (R368): what it has issued is performed, its records go to the arena, its slot is free, and a displaced task's footprint too; one that was
evicted before may be displaced later (R340). None where the arena has no room or cannot be written now.
DEDUCED, log entry 35 (unsafe). -/
def evictGang (s0 : State) (g0 : Gang) (displaced : Bool) : Option State :=
  let s := drainGang s0 g0.id
  let g := (gangOf s g0.id).getD g0
  let L := launchD s g.launch
  match arenaRoom s g displaced with
  | none => none
  | some o =>
    if !arenaOpen s g o (imageBytes g displaced) then none
    else
      let now := if g.slot.isSome then timeOf s g.core else g.tEvict
      let (s1, _) := deviceWrite s (coreDie g.core) L.ctx (vaOf L.desc.arena + o)
        (wakeRecord s g (wakeState s g) (L.desc.arena.toNat + o + 64) now ++ imageOf g (imageBytes g displaced - 64))
      let s2 := modGang s1 g.id fun x => ({ x with
        slot := none, wakeRec := some o, displaced := displaced, tEvict := now, marked := false, aging := 0, wakeOwed := none,
        curClass := baseClass s x } : Gang).mapConds Cond.preempted
      some (landingMove s2 g.core)

/-- A gang's eviction or displacement waits for the arena: a request for it is posted (R426). -/
def askArena (s : State) (g : Gang) (displaced : Bool) : State :=
  match arenaRoom s g displaced with
  | none => s
  | some o =>
    if arenaOpen s g o (imageBytes g displaced) then s
    else needArea s g.launch 0xF2 (coreDie g.core) ((launchD s g.launch).desc.arena + BitVec.ofNat 64 o) (imageBytes g displaced) true

/-- A task gang that R340 may displace: parked, in its slot or evicted, with its footprint on the core. -/
def displaceable (s : State) (g : Gang) : Bool :=
  g.task != 0 && !g.displaced && (evictReady g || g.slot.isNone)
    && (((taskOf s g.task).map fun t => t.state == 4).getD false)

/-- The task gangs to displace on a core, the loader's own first, then the oldest first (R340). -/
def displaceOrder (s : State) (core loader : Nat) : List Gang :=
  let gs := sortKey Gang.placed (s.gangs.filter fun g => g.core == core && displaceable s g)
  gs.filter (fun g => g.id == loader) ++ gs.filter fun g => g.id != loader

/-- Displace gangs until a core has the bytes; one for whose image the arena has no room stays. -/
def displaceUntil (core bytes : Nat) : List Gang → State → State
  | [], s => s
  | g :: gs, s =>
    if bytes ≤ freeBytes s core then s
    else displaceUntil core bytes gs ((evictGang s g true).getD s)

/-- Gangs of a core that wait at blocking points and can be evicted: task gangs first (R340). -/
def evictable (s : State) (core : Nat) : List Gang :=
  let gs := sortKey Gang.placed (s.gangs.filter fun g => g.core == core && evictReady g && !landed g)
  gs.filter (fun g => g.task != 0) ++ gs.filter fun g => g.task == 0

/-- Evict gangs until a slot of a core is free: a gang in the landing slot moves into the first that becomes free (R110). -/
def evictUntil (core : Nat) : List Gang → State → State
  | [], s => s
  | g :: gs, s => if 0 < freeSlots s core then s else evictUntil core gs ((evictGang s g false).getD s)

/-- The state after room has been made on a core for an evaluator, where what can be displaced and evicted there suffices
(R340). -/
def roomOn (s : State) (t : Task) (c : Nat) : Option State :=
  let s1 := displaceUntil c (taskNeed s t) (displaceOrder s c t.loader) s
  let s2 := evictUntil c (evictable s1 c) s1
  if fits s2 c (taskNeed s t) 1 then some s2 else none

/-- Make room on the first core where it suffices (R340); where it suffices on none, a request is posted for each arena that a
displacement waits for (R426). -/
def makeRoom (s : State) (t : Task) : State × Option Nat :=
  match (evalCores s t).findSome? fun c => (roomOn s t c).map fun u => (u, c) with
  | some (u, c) => (u, some c)
  | none => ((s.gangs.filter (displaceable s)).foldl (fun u g => askArena u g true) s, none)

/-- Step 1 of R104: an evaluator is placed where it fits, and room is made for it where it fits nowhere (R339, R340). -/
def placeEvaluator (s : State) (t : Task) : State :=
  match (evalCores s t).find? fun c => fits s c (taskNeed s t) 1 with
  | some c => placeTask s t c
  | none =>
    match makeRoom s t with
    | (s1, some c) => placeTask s1 t c
    | (s1, none) => s1

/-- The evaluators that wait at an opportunity, in order of creation; the manual gives no order among them.
DESIGN CHOICE, log entry 83 (unsafe). -/
def waitingEvaluators (s : State) : List Task := sortKey Task.order (s.tasks.filter fun t => taskRuns s t && t.eval)

/-- A gang can hold a trap level: it has the banked state of that level and of those below (R369). -/
def holdsLevel (g : Gang) : Nat → Bool
  | 0 => true
  | 1 => g.bank1.isSome
  | 2 => g.bank1.isSome && g.bank2.isSome
  | _ => false

/-- Where an address of a gang's wake record leads, if an object can stand there. -/
def watchPlace (s : State) (g : Gang) (a : Dbl) : Option Loc :=
  match apertureOf a with
  | .pooled => pooledLoc s g a 16 true
  | .stack => none
  | .global => match walk s (coreDie g.core) (launchD s g.launch).ctx (vaOf a) with
    | .leaf _ e size => some (physLoc (paOf e size (vaOf a)))
    | _ => none

/-- A wake condition on another object, and with another compare value (R369). -/
def Cond.withAddr (l : Loc) : Cond → Cond
  | .phase _ b w => .phase l b w
  | .mwait _ w t => .mwait l w t
  | c => c
def Cond.withArg (arg : Nat) : Cond → Cond
  | .phase l _ w => .phase l (arg % 2 == 1) w
  | .unfinished _ ls => .unfinished arg ls
  | .invisible _ ls => .invisible arg ls
  | c => c

/-- The place that a wake record names, where it is not that of the gang's wait: none inside where it leads nowhere. -/
def newPlace (s : State) (g : Gang) (bs : List Byte) : Option (Option Loc) :=
  if leAt bs 0 8 = (waitAddr g).1 then none else some (watchPlace s g (BitVec.ofNat 64 (leAt bs 0 8)))

/-- The values of an evicted gang's wake record, as the device reads them back, name a state that the gang can hold
(R369): no reserved code, an object where it watches one, its own core and identity, and a trap level that it has.
DEDUCED, log entry 62 (unsafe). -/
def wakeOk (s : State) (g : Gang) (bs : List Byte) : Bool :=
  decide (leAt bs 0x0C 1 ≤ 14) && decide (leAt bs 0x0D 1 ≤ 2) && leAt bs 0x0E 2 == coreField s g.core
    && newPlace s g bs != some none
    && holdsLevel g (leAt bs 0x22 1) && leAt bs 0x18 4 == g.cluster && leAt bs 0x1C 4 == g.task.toNat
    && leAt bs 0x20 1 == g.rank && leAt bs 0x21 1 == g.index

/-- The wait that a wake record describes. -/
def wakeWait (s : State) (g : Gang) (bs : List Byte) : Wait :=
  match g.wait with
  | .blocked _ c _ =>
    let c1 := match newPlace s g bs with
      | some (some l) => c.withAddr l
      | _ => c
    .blocked (leAt bs 0x0C 1) (c1.withArg (leAt bs 8 4)) (leAt bs 0x28 8)
  | w => w

/-- A gang resumes from the values of its wake record (R369); `old` is the level that the record showed. -/
def fromWake (s : State) (g : Gang) (bs : List Byte) (old : Nat) : Gang :=
  { g with level := if leAt bs 0x22 1 = old then g.level else leAt bs 0x22 1, wait := wakeWait s g bs }

/-- Frontier entries as an image holds them, from a field on. -/
def imageFrontier (f : Nat → Nat) (at_ : Nat) : List Entry :=
  (List.range (f at_ % 33)).map fun i =>
    { pc := BitVec.ofNat 64 (f (at_ + 4 * i + 1) % 2 ^ 60), prio := f (at_ + 4 * i + 2) % 64,
      mask := BitVec.ofNat 32 (f (at_ + 4 * i + 3)), target := bit (f (at_ + 4 * i + 4)) 0 }

/-- The words of the clause at a header, as the device reads them (R46); none where there is no legal clause. -/
def clauseThere (s : State) (g : Gang) (h : Dbl) : Option (Word × List Word) :=
  let read := fun (a : Nat) => (deviceRead s (coreDie g.core) (launchD s g.launch).ctx a 4).2.bytes.map fun bs => BitVec.ofNat 32 (natOf bs)
  match read (vaOf h) with
  | none => none
  | some hdr =>
    if hdrLegal hdr.toNat then
      ((List.range (hdrLength hdr.toNat + 1)).mapM fun i => read (vaOf h + 4 + 4 * i)).map fun ws => (hdr, ws)
    else none

/-- The position and mask A that a changed image gives a banked state (R357, R369), from a field on: between clauses, or at an
instruction of a clause, whose words are those that the gang had or that stand there now. A position that no clause has keeps no
words. -/
def imageClause (s : State) (g : Gang) (old : Option ClauseRun) (f : Nat → Nat) (at_ : Nat) : Option ClauseRun :=
  let h : Dbl := BitVec.ofNat 64 (f (at_ + 1) % 2 ^ 60)
  let put := fun (c : ClauseRun) => { c with idx := f (at_ + 2), act := BitVec.ofNat 32 (f (at_ + 3)), redo := some (BitVec.ofNat 32 (f (at_ + 4))) }
  let new := fun (_ : Unit) =>
    let x := (clauseThere s g h).getD (0, [])
    put { h := h, hdr := x.1, words := x.2, act := 0 }
  if f at_ % 2 = 0 then none
  else some <| match old with
    | some c => if c.h = h ∧ c.idx = f (at_ + 2) then put c else if c.h = h then put { h := h, hdr := c.hdr, words := c.words, act := 0 } else new ()
    | none => new ()

/-- The wait state that a changed image gives a banked state (R357, R369): none, so that the instruction is executed again, or that which
was banked with another stall reason and start. -/
def imageWait (old : Wait) (f : Nat → Nat) (at_ : Nat) : Wait :=
  match old with
  | .blocked _ c _ => if f at_ % 2 = 0 then .none else .blocked (f (at_ + 1)) c (f (at_ + 2))
  | w => w

/-- What a changed image gives one level's banked state, from a field on. -/
def imageBank (s : State) (g : Gang) (f : Nat → Nat) (at_ : Nat) (b : Bank) : Bank :=
  { b with frontier := imageFrontier f at_, clause := imageClause s g b.clause f (at_ + 200), wait := imageWait b.wait f (at_ + 210) }

/-- A gang resumes from the values of a changed control image (R368, R369): frontier, predicates, window bases, flags, trap level, banked
pairs, the banked interrupted state of each level, `%aflags`, `%amask`, `%gstate` and the region stack.
DEDUCED, log entry 62 (unsafe). -/
def fromImage (s : State) (g : Gang) (bs : List Byte) : Gang :=
  let f := Config.imageField bs
  let word := fun (k l : Nat) => f (1000 * k + l)
  { g with
    frontier := imageFrontier f 0, level := f 11000,
    threads := mapLanesFrom allLanes (fun l t => { t with
      preds := BitVec.ofNat 128 (word 1 l) ||| 1, wbase := word 2 l, aflags := flagBits (BitVec.ofNat 32 (word 3 l)),
      amask := flagBits (BitVec.ofNat 32 (word 4 l)), save1 := BitVec.ofNat 64 (word 5 l), save2 := BitVec.ofNat 64 (word 6 l) }) 0 g.threads,
    flags := (List.range 12).map (word 7),
    gstate := BitVec.ofNat 32 (f 8000), regionDepth := f 8001, regions := (List.range (min 8 (f 8001))).map fun i => f (8002 + i) % 65536,
    bank1 := g.bank1.map (imageBank s g f 9000),
    bank2 := g.bank2.map (imageBank s g f 10000) }

/-- Entries that a gang's frontier can hold: some, each with lanes, no lane in two, and none that has exited (R116, R369). -/
def entriesOk (live : Word) (es : List Entry) : Bool :=
  !es.isEmpty && es.all (fun e => e.mask != 0 && e.mask &&& ~~~live == 0)
    && (List.range es.length).all fun i => (es.drop (i + 1)).all fun e => e.mask &&& ((es[i]?).map Entry.mask).getD 0 == 0

/-- A banked state that a gang can hold: its frontier, and a position within a clause with lanes of that frontier. -/
def bankOk (live : Word) (b : Bank) : Bool :=
  entriesOk live b.frontier && match b.clause with
    | none => true
    | some c => decide (c.idx < c.words.length) && c.act &&& ~~~live == 0 && (c.redo.getD c.act) &&& ~~~c.act == 0
        && match b.wait with | .blocked st _ _ => decide (st ≤ 14) | _ => true

/-- The values of a changed control image name a state that the gang can hold (R369). DEDUCED, log entry 62 (unsafe). -/
def imageOk (g : Gang) : Bool :=
  entriesOk g.live g.frontier && holdsLevel g g.level
    && (g.bank1.map (bankOk g.live)).getD true && (g.bank2.map (bankOk g.live)).getD true
    && g.threads.all (fun t => decide (t.wbase ≤ 248) && t.wbase % 8 == 0) && g.flags.all (fun n => decide (n ≤ 63))
    && gstateOk g.gstate && decide (g.regionDepth ≤ 255)

/-- What a gang reads of its control image: unchanged, changed to a state it can hold, or to one it cannot. -/
def readImage (s : State) (g : Gang) (bs : List Byte) : Option Gang :=
  if bs = imageOf g 1024 then some g else if imageOk (fromImage s g bs) then some (fromImage s g bs) else none

/-- A gang that an opportunity finds woken is placed, or it waits on, as the state of its wake record says (R369, R370). -/
def takeBack (s : State) (g : Gang) (bs : List Byte) (old : Nat) : State :=
  let st := leAt bs 0x0D 1
  if st = 2 then s
  else if st = 0 ∧ g.blocked = true then modGang s g.id fun x => { x with woken := none, wakeOrder := none }
  else giveSlot (modGang s g.id fun _ => { fromWake s g bs old with
    wakeRec := none, displaced := false, woken := none, wakeOrder := none }) g.id g.core

/-- An uncorrectable error meets a gang's read of its own records (R372, R426). -/
def arenaError (s : State) (g : Gang) (va : Nat) : State :=
  fatal s g { cause := 0x60, pc := (g.clause.map instrPc).getD (topEntry g).pc, loc := BitVec.ofNat 64 va, lanes := g.live }

/-- An evicted gang whose wake condition has occurred returns to its core (R104 step 2, R136, R340, R369), from its wake record
and the control image that the record names, once they can be read (R426). DEDUCED, log entry 84 (unsafe). -/
def returnGang (s : State) (g : Gang) : State :=
  let L := launchD s g.launch
  let va := vaOf L.desc.arena + g.wakeRec.getD 0
  if freeSlots s g.core = 0 || (g.displaced && decide (freeBytes s g.core < gangBytes' s g)) || areaAsked s g.launch 0xF2
      || g.wakeOwed.isSome then s
  else
    match deviceRead s (coreDie g.core) L.ctx va 64 with
    | (s1, .away) => needArea s1 g.launch 0xF2 (coreDie g.core) (L.desc.arena + BitVec.ofNat 64 (g.wakeRec.getD 0)) 64 false
    | (s1, .error) => arenaError s1 g va
    | (s1, .ok bs) =>
      if !wakeOk s1 g bs then endLaunch s1 g.launch 8 0x7F 0 0
      else
        match deviceRead s1 (coreDie g.core) L.ctx (leAt bs 0x10 8 % 2 ^ 57) 1024 with
        | (s2, .away) => needArea s2 g.launch 0xF2 (coreDie g.core) (BitVec.ofNat 64 (leAt bs 0x10 8)) 1024 false
        | (s2, .error) => arenaError s2 g (leAt bs 0x10 8)
        | (s2, .ok img) =>
          match readImage s2 g img with
          | none => endLaunch s2 g.launch 8 0x7F 0 0
          | some g1 => takeBack s2 g1 bs g.level

def wokenGangs (s : State) : List Gang :=
  sortKey (fun g => g.woken.getD 0)
    (s.gangs.filter fun g => g.slot.isNone && g.woken.isSome && !(launchD s g.launch).preempt && (launchD s g.launch).ending.isNone)

/-- A woken gang returns, if it still waits for a place. -/
def returnWoken (s : State) (g : Gang) : State :=
  match (wokenGangs s).find? fun x => x.id == g.id with
  | some x => returnGang s x
  | none => s

/-- R104: one placement opportunity. -/
def execPlacementOpportunity (s : State) : Host.Outcome State Fault Refusal :=
  let s1 := (waitingEvaluators s).foldl placeEvaluator s
  let s2 := (wokenGangs s1).foldl returnWoken s1
  let s3 := placeTasks (waitingTasks s2) [] s2
  .next (placeLaunches s3)

/-- Write a cluster's parameters into its blocks (R31). -/
def putParams (bs : List Byte) (s : State) (b : Nat) : State := writeBytes s ⟨.scratch b, 0⟩ bs

/-- The gangs of a cluster whose parameters can never come end: none of them has begun (R97, R426).
DEDUCED, log entry 84 (unsafe). -/
def stopCluster (s : State) (cl : Nat) : State :=
  (s.gangs.filter fun g => g.clusterId == cl && g.task == 0).foldl (fun t g => stopGang t g) s

/-- R31: the parameter copies of a placed cluster complete, and its gangs may issue; where the area cannot be read a
residency request is posted and the cluster waits for its answer (R426), and an uncorrectable error ends the launch (R372).
Focus: cluster. DEDUCED, log entry 84 (unsafe). -/
def execParameterCopy (s : State) : Host.Outcome State Fault Refusal :=
  let cl := s.focus.headD 0
  match clusterOf s cl with
  | none => .next s
  | some k =>
    let L := launchD s k.launch
    if k.ready then .next s
    else if areaAsked s k.launch 0xF0 && L.ending.isNone then .next s
    else
      match deviceRead s L.die L.ctx (vaOf L.desc.param) (16 * L.desc.nparam) with
      | (s1, .ok bs) => .next (modCluster (k.blocks.foldl (putParams bs) s1) cl fun k => { k with ready := true })
      | (s1, .away) => .next (if L.ending.isSome then stopCluster s1 cl else needArea s1 k.launch 0xF0 L.die L.desc.param (16 * L.desc.nparam) false)
      | (s1, .error) => .next (if L.ending.isSome then stopCluster s1 cl else endLaunch s1 k.launch 9 0x60 0 L.desc.param)

end Sys2Proof.Machine
end

