-- ==== Sys2Proof/Machine/BarriersI.lean ====
section
/-! DEFINITION. Meanings of the barrier instructions (R243 to R249), of `mwait` (R256) and of `carve` (R108). -/

namespace Sys2Proof.Machine

/-- Stage 1 of a barrier instruction of a lane (R244, R245). -/
def checkBar (fn b a d : Nat) (s : State) (g : Gang) (lane : Nat) : Except LaneFail Unit :=
  let os : List Opnd := if fn = 0 ∨ fn = 3 then [.pair a, .reg b] else [.pair a, .reg d]
  match laneWindow g lane os with
  | .error f => .error f
  | .ok _ =>
    match stage1 s g lane (laneAddr g lane a) 0 16 16 true false false with
    | .error f => .error f
    | .ok _ =>
      if fn = 0 ∧ 32767 < (rdReg g.level (thr g lane) b).toNat then .error ⟨lane, 0x11, 0, 0⟩ else .ok ()

/-- A barrier instruction that acts in each lane (R245). -/
def issueBar (fn b a d : Nat) (s : State) : Step := issueAccess s (.bar fn b a d) (checkBar fn b a d)

/-- R245: a new barrier object in each active lane. -/
def execBarInit (b a : Nat) (s : State) : Step := issueBar 0 b a 0 s
/-- R245: an arrival of each active lane. -/
def execBarArr (a d : Nat) (s : State) : Step := issueBar 1 0 a d s
/-- R245: an arrival of each active lane that holds the phase until bytes are posted (R241). -/
def execBarArrb (a d : Nat) (s : State) : Step := issueBar 2 0 a d s
/-- R245: each active lane changes the byte balance. -/
def execBarExp (b a : Nat) (s : State) : Step := issueBar 3 b a 0 s

/-- One operation of the whole gang at the unit that serialises it (R399, R401): held at the gate, or performed; at the
end of the replay log the gang stops once it has acted (R402). -/
def gateOnce (s : State) (g : Gang) (c : ClauseRun) (l : Loc) (k : State → Gang → State) : State :=
  match unitAt s g l with
  | none => k s g
  | some u =>
    match admits s g u with
    | .waits => issued (needLog s g) { g with wait := .unit, gate := joinGate s g.launch g.core u g.gate }
    | .go => k (admitted s g u) { g with gate := none }
    | .error va => failAt s { g with gate := none } c .none 0x60 va (bitMask (lowest (activeMask c))) 0
    | .beyond =>
      let s1 := k (gangDiverges s g 7 u.word) { g with gate := none }
      match gangOf s1 g.id with
      | some g1 => divergeStop s1 g1 7 u.word (instrPc c)
      | none => s1

/-- The object that `bar.wait` and `bar.try` look at: the lowest active lane's, with the checks of R244; `k` learns where
it is and whether its phase differs from the bit. -/
def barOnce (s : State) (b a : Nat) (k : State → Gang → ClauseRun → Loc → Bool → State) : Step :=
  issue s .none fun g c =>
    let l := lowest (activeMask c)
    match windowOnce g (activeMask c) [] [.pair a, .reg b] with
    | some (i, lanes) => failAt s g c .none 0x03 (BitVec.ofNat 64 i) lanes 0
    | none =>
      match stage1 s g l (laneAddr g l a) 0 16 16 true false false with
      | .error f => failAt s g c .none f.cause f.loc (bitMask l) 0
      | .ok ea =>
        match arrive s g l ea 16 { r := true } with
        | (s1, .error f) => failAt s1 g c .none f.cause f.loc (bitMask l) 0 f.colour
        | (s1, .ok t) =>
          gateOnce s1 g c t.loc fun s2 g2 =>
            k s2 g2 c t.loc ((readBar s2 t.loc).phase != (rdReg g.level (thr g l) b).getLsbD 0)

/-- R246: returns when the phase differs from the bit; until then the whole gang waits at a blocking point. -/
def execBarWait (b a : Nat) (s : State) : Step :=
  unlessStopping s <| barOnce s b a fun s1 g c l differs =>
    if differs then complete (setGang s1 g) g c .none
    else blockAt s1 g c .none (activeMask c) 4
      (.phase l ((rdReg g.level (thr g (lowest (activeMask c))) b).getLsbD 0) false)

/-- R246: whether the phase differs from the bit, to a predicate of each active lane. -/
def execBarTry (b a d : Nat) (s : State) : Step :=
  barOnce s b a fun s1 g c _ differs =>
    complete (setGang s1 g) (mapLanes (activeMask c) (fun _ t => wrPred t d differs) g) c .none

/-- R247: arrival at the block barrier; the gang waits for the generation. -/
def execBarBlk (s : State) : Step :=
  unlessStopping s <| issue s .none fun g c =>
    if g.task != 0 then failAt s g c .none 0x11 0 (activeMask c) 0
    else arriveBlk (blockAt s g c .none (activeMask c) 4 (.blkGen false)) g

/-- R247: arrival at the cluster barrier; the gang waits for the generation. -/
def execBarClu (s : State) : Step :=
  unlessStopping s <| issue s .none fun g c =>
    if g.task != 0 then failAt s g c .none 0x11 0 (activeMask c) 0
    else arriveClu (blockAt s g c .none (activeMask c) 4 (.cluGen false)) g

/-- The line of a global target is brought to its home slice, where `mwait` monitors it (R256). -/
def monitorLine (s : State) : Target → State
  | .glob pa _ => touchLine s (pa / 128)
  | .core _ => s

/-- The word that `mwait` reads, with the checks of R251 at its target and those of R330. -/
def mwaitRead (s : State) (g : Gang) (lane : Nat) (ea : Dbl) : State × Except LaneFail (Loc × Word) :=
  match arrive s g lane ea 4 { r := true, sum := some false } with
  | (s1, .error f) => (s1, .error f)
  | (s1, .ok t) =>
    if cellBusy s1 t then (s1, .error ⟨lane, 0x11, ea, 0⟩)
    else (monitorLine s1 t, .ok (t.loc, BitVec.ofNat 32 (readNat s1 t.loc 4)))

/-- The gang has the word that its `mwait` waited for, or that it read at once. -/
def mwaitDone (s : State) (g : Gang) (c : ClauseRun) (d : Nat) (v : Word) : State :=
  complete s (mapLanes (activeMask c) (fun _ t => wrReg g.level t d v) g) c .none

/-- R256: reads a word once; if it holds the given value, the gang waits at a blocking point for a write to its granule. -/
def execMwait (b a d : Nat) (s : State) : Step :=
  unlessStopping s <| issue s .none fun g c =>
    let l := lowest (activeMask c)
    match windowOnce g (activeMask c) [.reg d] [.pair a, .reg b] with
    | some (i, lanes) => failAt s g c .none 0x03 (BitVec.ofNat 64 i) lanes 0
    | none =>
      match stage1 s g l (laneAddr g l a) 0 4 4 true false true with
      | .error f => failAt s g c .none f.cause f.loc (bitMask l) 0
      | .ok ea =>
        match mwaitRead s g l ea with
        | (s1, .error f) => failAt s1 g c .none f.cause f.loc (bitMask l) 0 f.colour
        | (s1, .ok (loc, v)) =>
          let c1 := { c with hits := hitsOf s1 g l ea 4 false true }
          if stopHeld s1 g c1.hits then { s with issuing := none }
          else if v != rdReg g.level (thr g l) b then mwaitDone s1 g c1 d v
          else blockAt s1 g c1 .none (activeMask c) 9 (.mwait loc false (clkOf s1 g.core))

/-- R108: the gang presents two sizes and waits for the other gangs of its block. -/
def execCarve (b a d : Nat) (s : State) : Step :=
  unlessStopping s <| issue s .none fun g c =>
    let t := thr g (lowest (activeMask c))
    if g.task != 0 then failAt s g c .none 0x11 0 (activeMask c) 0
    else
      match windowOnce g (activeMask c) [.reg d] [.reg a, .reg b] with
      | some (i, lanes) => failAt s g c .none 0x03 (BitVec.ofNat 64 i) lanes 0
      | none =>
        blockAt s g c .none (activeMask c) 13 (.carve (rdReg g.level t a).toNat (rdReg g.level t b).toNat d false)

/-- What a wait presents to a `carve` that has not been decided. -/
def Wait.presents : Wait → Option (Nat × Nat)
  | .blocked _ (.carve s q _ false) _ => some (s, q)
  | _ => Option.none

/-- What a gang presented; a stop or a trap at the blocking point keeps the arrival. -/
def presented (g : Gang) : Option (Nat × Nat) :=
  ([g.wait, g.under] ++ (g.bank1.map Bank.wait).toList ++ (g.bank2.map Bank.wait).toList).findSome? Wait.presents

/-- The presentations of a block's gangs, by ascending `%gang`, once all of them have arrived. -/
def carveArrived (s : State) (b : Nat) : Option (List (Nat × Nat)) :=
  let ps := (sortKey Gang.index (gangsOfBlock s b)).map presented
  if ps.isEmpty || ps.any Option.isNone then none else some (ps.filterMap id)

/-- A copy of the block has bytes at an offset or above that it has not delivered, or not read as its source (R108).
DEDUCED, log entry 53 (unsafe). -/
def undelivered (s : State) (k : Block) (off : Nat) : Bool :=
  s.copies.any fun c =>
    c.task == 0 && c.kind != .pf && !c.toRing && c.core == k.core && c.ranks.any (fun r => r.2 == k.id)
      && decide ((if c.kind = .out then c.taken else c.unitsAt k.rank) < c.units)
      && decide (off < 16 * c.dst + c.units * unitBytes c.map c.cvt)

/-- The status that needs no further wait (R108): 2, 3 or 4. DEDUCED, log entry 53 (unsafe). -/
def carveRefusal (s : State) (k : Block) (ps : List (Nat × Nat)) : Option Nat :=
  let (sp, q) := ps.headD (0, 0)
  if ps.any (· != (sp, q)) then some 2
  else if sp % 1024 != 0 || q % 1024 != 0 || 786432 < sp then some 3
  else if (coreOf s k.core).engine.owner == some k.id
    && (coreOf s k.core).engine.rings.any (fun r => decide (q < r.2.base + 16 * r.2.esize * r.2.count)) then some 4
  else none

/-- The collective can be decided: every gang has arrived, and no copy stands in the way (R108). -/
def carveReady (s : State) (b : Nat) : Bool :=
  match blockOf s b, carveArrived s b with
  | some k, some ps => (carveRefusal s k ps).isSome || !undelivered s k (ps.headD (0, 0)).1
  | _, _ => false

/-- A byte store cut or grown to a size: bytes below both sizes keep their values and tags; new bytes read zero. -/
def Space.resize (x : Space) (n : Nat) : Space :=
  { x with size := n, bytes := x.bytes.filter (fun y => y.1 < n), tags := x.tags.filter (fun y => 16 * y.1 < n),
           poison := x.poison.filter fun i => 16 * i < n }

/-- The status of a `carve`, with the new sizes in force when it is 0 (R108). -/
def carveDecide (s : State) (k : Block) (ps : List (Nat × Nat)) : State × Nat :=
  match carveRefusal s k ps with
  | some st => (s, st)
  | none =>
    let (sp, q) := ps.headD (0, 0)
    if freeBytes s k.core + blockBytes s k < carveBytes (launchD s k.launch).desc k.gangs sp q then (s, 1)
    else (modBlock s k.id fun x =>
      { x with pad := x.pad.resize sp, queueSize := q, queue := x.queue.filter fun y => y.1 < q }, 0)

/-- The gangs of a block learn the status; each writes it when it resumes (R108). -/
def Cond.carved (st : Nat) : Cond → Cond
  | .carve _ _ d false => .carve st 0 d true
  | c => c

/-- What was on its way to a block's scratchpad and has passed its checks is performed there (R109, R237, R311). -/
def flushBlock (s : State) (b : Nat) : State :=
  flushRank b ((s.copies.map fun c => c.buf.length).sum) (drainWhere s fun _ f => f.loc.place == .scratch b)

/-- R108: the collective is decided. -/
def settleCarve (s0 : State) (b : Nat) : State :=
  let s := flushBlock s0 b
  match blockOf s b, carveArrived s b with
  | some k, some ps =>
    let (s1, st) := carveDecide s k ps
    { s1 with gangs := s1.gangs.map fun g => if g.block == b && g.task == 0 then g.mapConds (Cond.carved st) else g }
  | _, _ => s

end Sys2Proof.Machine
end

