-- ==== Sys2Proof/Machine/Lanes.lean ====
section
/-! DEFINITION. Instructions that act once per active lane, in ascending lane order, each lane's action whole before the
next begins: a fault or a wait stops the instruction at its lane, and the earlier lanes are done (R51, R95, R229, R334,
R381). -/

namespace Sys2Proof.Machine

/-- How a lane's action ends: done, with its hits, and a divergence at which the gang stops once the instruction is
complete; a fault; a wait at a blocking point; held at an order gate; or a wait that is no blocking point. -/
inductive SeqEnd where
  | ok (hits : List Hit) (stop : Option (Nat × Nat))
  | fail (f : LaneFail)
  | block (stall : Nat) (cond : Cond)
  | held (u : UnitId)
  | busy
  deriving DecidableEq, Repr

/-- The instruction waits within itself, with these lanes still to do, for a unit or a gate. -/
def waitUnit (s : State) (g : Gang) (c : ClauseRun) (cls : Cls) (lanes : Word) (gate : Option (Nat × Nat × Nat × Nat)) : State :=
  issued s { countUp g c cls with
    clause := some { c with redo := some lanes, counted := true }, wait := .unit, gate := gate }

/-- The halt of a divergence that an earlier lane met is due, where the instruction does not complete now (R402). -/
def haltLater (stop : Option (Nat × Nat)) (id : Nat) (pc : Dbl) (s : State) : State :=
  match stop with
  | some (kind, unit) => modGang s id fun g => { g with diverges := some (kind, unit, pc) }
  | none => s

/-- Every lane has acted: the instruction completes, and a divergence stops its gang (R402). -/
def seqDone (s : State) (g : Gang) (c : ClauseRun) (cls : Cls) (stop : Option (Nat × Nat)) : State :=
  let s1 := complete s { g with gate := none } c cls
  match stop, gangOf s1 g.id with
  | some (kind, unit), some g1 => divergeStop s1 g1 kind unit (instrPc c)
  | _, _ => s1

/-- Act in the lanes of a list, in order; one whose hit the event of a stop is to tell waits for room for that (R418). -/
def seqLanes (step : State → Gang → Nat → State × SeqEnd) (id : Nat) (cls : Cls) :
    List Nat → Word → Option (Nat × Nat) → State → State
  | [], _, stop, s =>
    match gangOf s id with
    | none => s
    | some g => match g.clause with
      | none => s
      | some c => seqDone s g c cls stop
  | l :: ls, done, stop, s =>
    match gangOf s id with
    | none => s
    | some g => match g.clause with
      | none => s
      | some c =>
        let rest := maskOf (l :: ls)
        let now := fun (t : State) => (gangOf t id).getD g
        let late := haltLater stop id (instrPc c)
        match step s g l with
        | (s1, .ok hs st) => if stopHeld s1 g (c.hits ++ hs) then late (waitUnit s g c cls rest none) else seqLanes step id cls ls (done ||| bitMask l) (if stop.isSome then stop else st) (addHits s1 id hs)
        | (s1, .fail f) => late (failKeeping s1 (now s1) c cls [f] done)
        | (s1, .block stall cond) => late (blockAt s1 (now s1) c cls rest stall cond)
        | (s1, .held u) => late (waitUnit (needLog s1 g) (now s1) c cls rest (joinGate s g.launch g.core u g.gate))
        | (s1, .busy) => late (waitUnit s1 (now s1) c cls rest none)

/-- An instruction that acts lane by lane, whole (R8, R51). -/
def issueSeq (s : State) (cls : Cls) (step : State → Gang → Nat → State × SeqEnd) : Host.Outcome State Fault Refusal :=
  issue s cls fun g c => seqLanes step g.id cls (lanesOf (activeMask c)) 0 none s

end Sys2Proof.Machine
end

