-- ==== Sys2Proof/Machine/CopiesI.lean ====
section
/-! DEFINITION. Meanings of the copy instructions (R222, R223, R228 to R232). -/

namespace Sys2Proof.Machine

/-- The ranks a command names, with their blocks (R216); a task has only its private scratchpad. -/
def namedRanks (s : State) (g : Gang) (mask : Nat) : List (Nat × Nat) :=
  if g.task != 0 then []
  else if mask = 0 then [(g.rank, g.block)]
  else (List.range 12).filterMap fun r => if bit mask r then (blockOfRank s g r).map fun b => (r, b.id) else none

/-- The scratchpads of some ranks, with the rank numbers; a task's private scratchpad stands for rank 0. -/
def rankPlaces (g : Gang) (ranks : List (Nat × Nat)) : List (Nat × Place) :=
  if ranks.isEmpty then [(0, .priv g.id)] else ranks.map fun r => (r.1, .scratch r.2)

/-- The first rank in which a range does not lie within the scratchpad. -/
def rangeBeyond (s : State) (ps : List (Nat × Place)) (off n : Nat) : Option Nat :=
  (ps.find? fun p => (spaceOf s p.2).size < off + n).map Prod.fst

/-- The first rank and granule of a range whose colour does not match (R221). -/
def rangeColour (s : State) (ps : List (Nat × Place)) (off n colour : Nat) : Option (Nat × Nat × Nat) :=
  ps.findSome? fun p => (spaceColourBad s ⟨p.2, off⟩ n colour).map fun k => (p.1, k * 16, colourAt s ⟨p.2, k * 16⟩)

/-- The checks of a barrier word (R222, R223): the barrier's offset, or none. -/
def barrierWord (s : State) (lane colour : Nat) (ps : List (Nat × Place)) (w : Nat) (colours : Bool) :
    Except LaneFail (Option Nat) :=
  let off := bits w 0 20
  if bit w 31 then .ok none
  else if off % 16 != 0 then .error ⟨lane, 0x16, pooledAddr colour (ps.headD (0, .phys)).1 off, 0⟩
  else if bits w 20 11 != 0 then .error ⟨lane, 0x15, pooledAddr colour (ps.headD (0, .phys)).1 off, 0⟩
  else
    match rangeBeyond s ps off 16 with
    | some r => .error ⟨lane, 0x15, pooledAddr colour r off, 0⟩
    | none =>
      match (if colours then rangeColour s ps off 16 colour else none) with
      | some (r, a, held) => .error ⟨lane, 0x14, pooledAddr colour r a, held⟩
      | none => .ok (some off)

/-- Bytes of a copy command (R216, R228). -/
def cmdBytes (kind : CopyKind) : Nat := if kind = .gen then 64 else 32

/-- The command lies in the thread's own rank, private scratchpad or own slab (R216): the bits that must be zero are (R188 to
R190). -/
def commandOwn (g : Gang) (lane : Nat) (ca : Dbl) : Bool :=
  match apertureOf ca with
  | .pooled => bits ca.toNat 24 20 == 0 && bits ca.toNat 20 4 == (if g.task = 0 then g.rank else 0)
  | .stack => bits ca.toNat 26 18 == 0 && bits ca.toNat 20 5 == (if bit ca.toNat 25 then lane else 0)
  | .global => false

/-- Stage 1 of a copy instruction of a lane (R223). -/
def checkCopy (kind : CopyKind) (b a : Nat) (s : State) (g : Gang) (lane : Nat) : Except LaneFail Unit :=
  let ca := laneAddr g lane a
  match laneWindow g lane [.pair a, .reg b] with
  | .error f => .error f
  | .ok _ =>
    if !canonical ca then .error ⟨lane, 0x13, ca, 0⟩
    else if !commandOwn g lane ca then .error ⟨lane, 0x15, ca, 0⟩
    else if ca.toNat % 16 != 0 then .error ⟨lane, 0x16, ca, 0⟩
    else match arriveOnCore s g lane ca (cmdBytes kind) false true with
      | .error f => .error f
      | .ok _ => .ok ()

/-- The destination or source range and its rings, as a command names them (R217, R223, R292); the colours of the range are
checked as the copy moves (R233). -/
def rangeCheck (s : State) (g : Gang) (lane colour : Nat) (ranks : List (Nat × Nat)) (dst size : Nat) : Except LaneFail Unit :=
  let ps := rankPlaces g ranks
  if 2 ^ 15 ≤ dst then
    let ok := ranks.all fun r => match blockOf s r.2 with
      | none => false
      | some k => match ringOf s k.core (dst % 16) with
        | none => false
        | some ring => (coreOf s k.core).engine.owner == some k.id && size % (16 * ring.esize) == 0
    if ok then .ok () else .error ⟨lane, 0x11, 0, 0⟩
  else
    match rangeBeyond s ps (16 * dst) size with
    | some r => .error ⟨lane, 0x15, pooledAddr colour r (16 * dst), 0⟩
    | none => .ok ()

/-- The sequence number of the next copy into the own rank on a channel: one more, modulo 4,096, than the previous one's; with
no copy yet the previous number is the register's reset value 0 (R210). DEDUCED, log entry 58 (unsafe). -/
def nextSeq (s : State) (core ch : Nat) : Nat :=
  (((fget (coreOf s core).chanSeq ch).getD 0) + 1) % 4096

/-- The copy numbers its delivery into the own rank, if it makes one, and the thread keeps the number (R210, R232). -/
def numberCopy (s : State) (g : Gang) (lane : Nat) (c : Copy) : State × Copy :=
  let own := c.kind != .out && c.kind != .pf && !c.toRing && (c.ranks.isEmpty || c.ranks.any fun r => r.1 == g.rank)
  if own then
    let q := nextSeq s g.core c.chan
    (putLane (modCore s g.core fun k => { k with chanSeq := fput k.chanSeq c.chan q }) g.id lane fun t =>
      { t with tickets := fput t.tickets c.chan q }, { c with seq := some q })
  else (s, c)

/-- Post a copy's bytes to each counted barrier (R225). -/
def postAll (s : State) (c : Copy) (n : Nat) : State :=
  (copyPlaces c).foldl (fun t r => match barPlace c r.2 with | some l => barAdd t l n | none => t) s

/-- A copy is issued: it holds an entry, posts its bytes, and belongs to its thread's unsealed copies (R223, R230, R231). -/
def addCopy (s : State) (g : Gang) (lane : Nat) (c : Copy) : State :=
  let (id, s1) := newId s
  let (s2, c2) := numberCopy s1 g lane { c with id := id, reserved := decide (128 ≤ sharedUsed s g.core) }
  let s3 := postAll s2 c2 c2.bytes
  putLane { s3 with copies := s3.copies ++ [c2] } g.id lane fun t => { t with unsealed := t.unsealed ++ [id] }

/-- A copy as a gang's lane issues it at the instruction under way. -/
def baseCopy (g : Gang) (lane : Nat) (kind : CopyKind) (ch : Nat) : Copy :=
  { id := 0, kind := kind, gang := g.id, task := g.task, lane := lane, launch := g.launch, core := g.core, chan := ch,
    pc := ((g.clause.map instrPc).getD 0), cluster := g.cluster, rank := g.rank, index := g.index,
    state := if kind = .pf then .active else .queued }

/-- The copy that a lane's command and map describe, validated (R223). -/
def copyOfCmd (kind : CopyKind) (ch : Nat) (bw : Nat) (s : State) (g : Gang) (lane : Nat) (ca : Dbl) (cmd : CopyCmd)
    (m : TMap) (bs : List Byte) : Except LaneFail Copy :=
  let col := colourOf ca
  let d := (launchD s g.launch).desc
  if !mapReserved bs || !m.valid then .error ⟨lane, 0x11, cmd.map, 0⟩
  else if !cmd.valid m (kind == .out) (kind == .gen) (g.task != 0) d.blocks then .error ⟨lane, 0x11, ca, 0⟩
  else
    let ranks := namedRanks s g cmd.mask
    let units := boxElems cmd.ext / unitElems m cmd.cvt
    let size := units * unitBytes m cmd.cvt
    match barrierWord s lane col (rankPlaces g ranks) bw true with
    | .error f => .error f
    | .ok bar =>
      match rangeCheck s g lane col ranks cmd.dst size with
      | .error f => .error f
      | .ok _ =>
        .ok { baseCopy g lane kind ch with
          map := m, org := cmd.org, ext := cmd.ext, cvt := cmd.cvt, ops := cmd.ops, dst := cmd.dst, ranks := ranks,
          bar := bar, units := units, bytes := size, colour := col }

/-- A copy that has been read and validated is issued, or waits for a queue entry and is kept (R223, R230). -/
def copyAt (s : State) (g : Gang) (lane : Nat) (c : Copy) : State × SeqEnd :=
  if entryFree s g then
    (addCopy (modGang s g.id fun x => { x with ready := none }) g lane { c with table := copyTable s g c.map }, .ok [] none)
  else (modGang s g.id fun x => { x with ready := some c }, .block 6 .copyEntry)

/-- Read a tensor map (R212, R223), in the order of R196. -/
def readMap (s : State) (g : Gang) (lane : Nat) (ma : Dbl) : State × Except LaneFail (List Byte) :=
  match stage1 s g lane ma 0 64 64 false false true with
  | .error f => (s, .error f)
  | .ok ea =>
    match arrive s g lane ea 64 { r := true } with
    | (s1, .error f) => (s1, .error f)
    | (s1, .ok t) => (s1, .ok (readBytes s1 t.loc 64))

/-- Stage 2 of a copy instruction of a lane (R223); one that has waited for a queue entry reads nothing again. -/
def copyLane (kind : CopyKind) (b a ch : Nat) (s : State) (g : Gang) (lane : Nat) : State × SeqEnd :=
  match g.ready with
  | some c => copyAt s g lane c
  | none =>
    let ca := laneAddr g lane a
    match arriveOnCore s g lane ca (cmdBytes kind) true true with
    | .error f => (s, .fail f)
    | .ok l =>
      let cmd := parseCmd (readBytes s l (cmdBytes kind)) (kind == .gen)
      match readMap s g lane cmd.map with
      | (s1, .error f) => (s1, .fail f)
      | (s1, .ok bs) =>
        match copyOfCmd kind ch (rdReg g.level (thr g lane) b).toNat s1 g lane ca cmd (parseMap bs) bs with
        | .error f => (s1, .fail f)
        | .ok c => copyAt s1 g lane c

/-- A copy instruction (R223): stage 1 in every lane, once, then stage 2 lane by lane. -/
def issueCopy (kind : CopyKind) (b a ch : Nat) (s : State) : Host.Outcome State Fault Refusal :=
  issue s .b fun g c =>
    match (if g.ready.isSome then [] else failsOf ((lanesOf (activeMask c)).map (checkCopy kind b a s g))) with
    | f :: fs => failAt s g c .b f.cause f.loc (failMask (f :: fs)) 0 f.colour
    | [] => seqLanes (copyLane kind b a ch) g.id .b (lanesOf (activeMask c)) 0 none s

/-- R223: a copy from global memory into scratchpad or a ring. -/
def execCpyIn (b a ch : Nat) (s : State) : Host.Outcome State Fault Refusal := issueCopy .into b a ch s
/-- R223: a copy from scratchpad to global memory. -/
def execCpyOut (b a ch : Nat) (s : State) : Host.Outcome State Fault Refusal := issueCopy .out b a ch s
/-- R223, R227: a copy in whose reads may merge with those of others. -/
def execCpyMc (b a ch : Nat) (s : State) : Host.Outcome State Fault Refusal := issueCopy .mc b a ch s
/-- R223, R228: a copy in whose coordinates a micro-program forms. -/
def execCpyGen (b a ch : Nat) (s : State) : Host.Outcome State Fault Refusal := issueCopy .gen b a ch s

/-! ### Lines of a prefetch (R229) -/

/-- The part of a prefetch's range that lies in its i-th line: address and bytes. -/
def lineOf (c : Copy) (i : Nat) : Nat × Nat :=
  let v := vaOf c.start
  let lo := max v ((v / 128 + i) * 128)
  (lo, min (v + c.bytes) ((v / 128 + i + 1) * 128) - lo)

/-- The lines of a prefetch that have not counted, ascending. -/
def uncounted (c : Copy) : List Nat :=
  ((List.range (c.units - c.pos)).map (c.pos + ·)).filter fun i => !c.counted.contains i

/-- Lines that have counted from the first on are no longer listed. -/
def Copy.settleLines : Nat → Copy → Copy
  | 0, c => c
  | n + 1, c =>
    if c.counted.contains c.pos then Copy.settleLines n { c with pos := c.pos + 1, counted := c.counted.filter (· != c.pos) } else c

/-- The balance falls by the bytes of a line that is present; the prefetch completes with its last line. -/
def countLine (s : State) (c : Copy) (i : Nat) : State :=
  let c1 := { c with counted := i :: c.counted }
  advanceCopy (lowerAll s c (lineOf c i).2) (c1.settleLines (c1.counted.length + 1))

/-- Where a line of a prefetch lies, with the checks of R229. -/
def lineAccess (s : State) (c : Copy) (i : Nat) : State × GAccess :=
  let va := (lineOf c i).1
  globalAccess s (.core c.core) (launchD s c.launch) (c.start + BitVec.ofNat 64 (va - vaOf c.start)) (lineOf c i).2
    { r := true, colour := false } 1

/-- Lines already present at their home slices count at once. -/
def countPresent (id : Nat) : List Nat → State → State
  | [], s => s
  | i :: is, s =>
    match copyOf s id with
    | none => s
    | some c =>
      match lineAccess s c i with
      | (s1, .ok pa _) => countPresent id is (if s1.lines.contains (pa / 128) then countLine s1 c i else s)
      | (_, .bad _ _ _) => countPresent id is s

/-- Every uncounted line of a prefetch that is present counts. -/
def sweepPresent (s : State) (id : Nat) : State :=
  match copyOf s id with
  | none => s
  | some c => if s.lines.isEmpty then s else countPresent id (uncounted c) s

/-- One lane's prefetch (R229). DEDUCED, log entry 52 (unsafe). Channel 8 stands for none. -/
def prefetchLane (b a d : Nat) (s : State) (g : Gang) (lane : Nat) : State × SeqEnd :=
  let t := thr g lane
  let start := laneAddr g lane a
  let n := (rdReg g.level t b).toNat
  match laneWindow g lane [.pair a, .reg b, .reg d] with
  | .error f => (s, .fail f)
  | .ok _ =>
    if !canonical start then (s, .fail ⟨lane, 0x13, start, 0⟩)
    else if apertureOf start != .global then (s, .fail ⟨lane, 0x15, start, 0⟩)
    else
      let ranks := namedRanks s g 0
      match barrierWord s lane 0 (rankPlaces g ranks) (rdReg g.level t d).toNat false with
      | .error f => (s, .fail f)
      | .ok bar =>
        match firstUnleased (launchD s g.launch) (vaOf start) n true false false with
        | some x => (s, .fail ⟨lane, 0x12, start + BitVec.ofNat 64 (x - vaOf start), 0⟩)
        | none =>
          if n = 0 then (s, .ok [] none)
          else if !entryFree s g then (s, .block 6 .copyEntry)
          else
            let s1 := addCopy s g lane { baseCopy g lane .pf 8 with
              ranks := ranks, bar := bar, bytes := n, start := start,
              units := (vaOf start + n - 1) / 128 - vaOf start / 128 + 1 }
            (sweepPresent s1 s.nextId, .ok [] none)

/-- R229: brings a range into the L2 slices that home it. DEDUCED, log entry 52 (unsafe). -/
def execCpyPf (b a d : Nat) (s : State) : Host.Outcome State Fault Refusal := issueSeq s .b (prefetchLane b a d)

/-- The active lanes of an instruction whose thread meets a condition. -/
def lanesWhere (g : Gang) (A : Word) (p : Thread → Bool) : Word := maskOf ((lanesOf A).filter fun l => p (thr g l))

/-- A thread's unsealed copies become its next batch (R231). -/
def sealBatch (s : State) (t : Thread) : Thread :=
  trimBatches s { t with nextBatch := (t.nextBatch + 1) % 2 ^ 32, unsealed := [],
                         batches := t.batches ++ [{ num := t.nextBatch, copies := t.unsealed }] }

/-- R232: seals a batch in each active lane, once no lane has 15 unfinished ones. -/
def execCpySeal (d : Nat) (s : State) : Host.Outcome State Fault Refusal :=
  issue s .none fun g c =>
    let A := activeMask c
    match windowFail g A [.reg d] with
    | some (i, lanes) => failAt s g c .none 0x03 (BitVec.ofNat 64 i) lanes 0
    | none =>
      let full := lanesWhere g A fun t => decide (15 ≤ unfinished s t)
      if full != 0 then blockAt s g c .none A 6 (.sealRoom full)
      else finish s (mapLanes A (fun _ t => wrReg g.level (sealBatch s t) d (BitVec.ofNat 32 t.nextBatch)) g) c .none

/-- R232: waits until at most n sealed batches are unfinished in each active lane. -/
def execCpyWait (n : Nat) (s : State) : Host.Outcome State Fault Refusal :=
  unlessStopping s <| issue s .none fun g c =>
    let late := lanesWhere g (activeMask c) fun t => decide (n < unfinished s t)
    if late != 0 then blockAt s g c .none (activeMask c) 6 (.unfinished n late) else complete s g c .none

/-- R232: waits until at most n sealed batches are not visible in each active lane; every scope is met at the home slice. -/
def execCpyVis (_ n : Nat) (s : State) : Host.Outcome State Fault Refusal :=
  unlessStopping s <| issue s .none fun g c =>
    let late := lanesWhere g (activeMask c) fun t => decide (n < invisible s t)
    if late != 0 then blockAt s g c .none (activeMask c) 6 (.invisible n late) else complete s g c .none

/-- A copy of a thread is stopped by a deferred fault. -/
def threadStopped (s : State) (gang lane : Nat) : Bool :=
  s.copies.any fun c => c.gang == gang && c.lane == lane && match c.state with | .stopped _ _ _ _ => true | _ => false

/-- The status word of a thread's batches (R232). A number of batches that its field cannot hold reads as an open value.
DESIGN CHOICE, log entry 85 (safe). -/
def batchStatus (s : State) (g : Gang) (lane open_ : Nat) : Word :=
  let t := thr g lane
  let inv := if invisible s t < 16 then invisible s t else open_ % 16
  BitVec.ofNat 32 (t.nextBatch % 65536 * 65536 + (if threadStopped s g.id lane then 512 else 0)
    + (if t.unsealed.isEmpty then 0 else 256) + inv * 16 + unfinished s t)

/-- R232: a thread's batch status, or the ticket of its last copy on a channel. -/
def execCpyStat (k d : Nat) (s : State) : Host.Outcome State Fault Refusal :=
  let (o, s') := freeNat s
  issueGang s' .a [.reg d] fun g A =>
    mapLanes A (fun l t =>
      wrReg g.level t d
        (if bit k 3 then
          match fget t.tickets (k % 8) with
          | some q => BitVec.ofNat 32 (q * 2 ^ 20)
          | none => 0xFFFFFFFF
        else batchStatus s' g l o)) g

end Sys2Proof.Machine
end

