-- ==== Sys2Proof/Machine/CopyEvents.lean ====
section
/-! DEFINITION. Events of the copy unit: channels, rings, delivery, prefetched lines, L2 fills and deferred faults (R209,
R224 to R229, R233 to R236, R292). -/

namespace Sys2Proof.Machine

/-- The copies of a channel, in issue order (R209). -/
def channelCopies (s : State) (core ch : Nat) : List Copy := s.copies.filter fun c => c.core == core && c.chan == ch && c.kind != .pf

/-- R209: the oldest copy of a channel starts. Focus: core, chan. -/
def execCopyChannelStart (s : State) : Host.Outcome State Fault Refusal :=
  match channelCopies s (s.focus.headD 0) (s.focus.getD 1 0) with
  | c :: _ => .next (if c.state = .queued then modCopy s c.id fun x => { x with state := .active } else s)
  | [] => .next s

/-- Entries that a copy takes in a ring (R292). -/
def entriesOf (c : Copy) (r : Ring) : Nat := c.bytes / (16 * r.esize)

/-- The ring that a copy names in a rank, where it has room for the copy's entries. -/
def ringRoom (s : State) (c : Copy) (r : Nat × Nat) : Option Ring :=
  (blockRing s r.2 c.ringId).bind fun ring => if entriesOf c ring ≤ ring.free then some ring else none

/-- The ranks in which a copy can claim its entries now: its channel has reached it, and they have room (R226, R292). -/
def claimRanks (s : State) (c : Copy) : List (Nat × Nat) :=
  if c.state == .active && c.toRing then c.ranks.filter fun r => !c.claimedAt r.1 && (ringRoom s c r).isSome else []

/-- A copy claims its entries in one rank. -/
def claimRank (s : State) (c : Copy) (r : Nat × Nat) : State :=
  match ringRoom s c r with
  | none => s
  | some ring =>
    let slots := c.slots ++ [(r.1, ring.nextSlots (entriesOf c ring))]
    modCopy (modBlockRing s r.2 c.ringId fun x => x.claim (entriesOf c ring)) c.id fun x =>
      { x with slots := slots, claimed := c.ranks.all fun y => slots.any fun z => z.1 == y.1 }

/-- R292: a copy into rings claims its entries in a rank. Focus: copy, rank. -/
def execRingClaim (s : State) : Host.Outcome State Fault Refusal :=
  match copyOf s (s.focus.headD 0) with
  | none => .next s
  | some c =>
    match (claimRanks s c).find? fun r => r.1 == s.focus.getD 1 c.rank with
    | some r => .next (claimRank s c r)
    | none => .next s

/-- A lease violation or an uncorrectable error in a copy: it is abandoned, and its task or launch ends (R233).
DEDUCED, log entry 61 (unsafe). -/
def copyFatal (s : State) (c : Copy) (cause : Nat) (loc : Dbl) : State :=
  let s1 := abandonCopy s c
  match gangOf s1 c.gang with
  | some g => fatal s1 g { cause := cause, pc := c.pc, loc := loc, lanes := bitMask c.lane }
  | none => if c.task = 0 then endLaunch s1 c.launch (if cause = 0x12 then 6 else 9) cause c.pc loc else s1

/-- What a fault met by a copy leads to (R233). DEDUCED, log entry 61 (unsafe). -/
def copyFault (s : State) (c : Copy) (f : Nat × Dbl × Nat) : State :=
  if f.1 = 0x12 ∨ f.1 = 0x60 then copyFatal s c f.1 f.2.1 else stopCopy s c f.1 f.2.1 f.2.2

/-- A copy in that delivers to several ranks. -/
def Copy.scatters (c : Copy) : Bool := c.kind != .out && decide (1 < c.ranks.length)

/-- The copy can move a unit now. -/
def movable (c : Copy) : Bool :=
  c.state == .active && c.kind != .pf && (!c.toRing || c.claimed || (c.scatters && !c.slots.isEmpty))

/-- The virtual channel of a copy's global access (R325): a write to an S page has one of its own. -/
def copyChannel (c : Copy) (leaf : Dbl) : Nat := if c.kind = .out ∧ bits leaf.toNat 5 2 = 0 then channelOrdered else channelRequest

/-- The global element that a copy accesses next can be reached now (R325). -/
def copyTravels (s : State) (c : Copy) : Bool :=
  let c' := if c.kind = .out then c else c.atRead
  c.units ≤ c'.pos || match elemAt s c' (c'.pos * unitElems c.map c.cvt) (c.kind == .out) with
    | (_, .at_ _ pa leaf) => linkOpen s pa (copyChannel c leaf) && linkOpen s pa channelResponse
    | _ => true

/-- One unit of a copy moves: in; or out, where it is a free choice whether the next unit is read or the oldest read one
is performed (R224, R226, R237). -/
def moveUnit (s : State) (c : Copy) : State × Option (Nat × Dbl × Nat) :=
  if c.scatters then scatterMove s c
  else if c.kind != .out then deliverIn s c
  else if c.buf.isEmpty then takeOut s c
  else if c.taken = c.units || (sourceFault s c).isSome then performOut s c
  else if (pick s 2).1 = 0 then takeOut (pick s 2).2 c
  else performOut (pick s 2).2 c

/-- R224: one unit of a copy is delivered or performed, or faults. Focus: copy. -/
def execCopyDelivery (s : State) : Host.Outcome State Fault Refusal :=
  match copyOf s (s.focus.headD 0) with
  | none => .next s
  | some c =>
    if !movable c || !copyTravels s c then .next s
    else
      match moveUnit s c with
      | (s1, none) => .next (sweepClusters s1)
      | (s1, some f) => .next (sweepClusters (copyFault s1 ((copyOf s1 c.id).getD c) f))

/-- R229: a prefetched line is present, and the balance falls by its bytes. Focus: copy. -/
def execPrefetchLinePresent (s : State) : Host.Outcome State Fault Refusal :=
  match copyOf s (s.focus.headD 0) with
  | none => .next s
  | some c =>
    if c.kind != .pf || c.state != .active then .next s
    else
      let i := (uncounted c).headD c.pos
      match c.fault, lineAccess s c i with
      | some f, _ => .next (sweepClusters (copyFault s c f))
      | none, (s1, .bad cause loc col) => .next (sweepClusters (copyFault s1 c (cause, loc, col)))
      | none, (s1, .ok pa _) =>
        if !(linkOpen s1 pa channelRequest && linkOpen s1 pa channelResponse) then .next s
        else .next (sweepClusters (countLine (touchLine s1 (pa / 128)) c i))

/-- R227: a line fill arrives; its slice may give up another line for it (R18). Focus: line. -/
def execL2Fill (s : State) : Host.Outcome State Fault Refusal :=
  let line := s.focus.headD 0
  let others := sliceMates s line
  let (n, s1) := pick s (others.length + 1)
  let s2 := match others[n]? with
    | some x => dropLine s1 x
    | none => s1
  .next (touchLine s2 line)

/-- The physical line that a copy reads next, if it reads one. -/
def readsLine (s : State) (c : Copy) : Option Nat :=
  if movable c && c.kind != .out && decide (c.atRead.pos < c.units) then
    match elemAt s c.atRead (c.atRead.pos * unitElems c.map c.cvt) false with
    | (_, .at_ _ pa _) => some (pa / 128)
    | _ => none
  else none

/-- The deferred faults of a gang that have not been delivered, with the order of their detection. -/
def deferredFaults (s : State) (gang : Nat) : List (Nat × Copy × Nat × Dbl) :=
  s.copies.filterMap fun c =>
    match c.state with
    | .stopped cause loc false n => if c.gang == gang && !c.orphan then some (n, c, cause, loc) else none
    | _ => none

/-- A deferred fault of the gang has been delivered and not yet left (R234). -/
def deferredBusy (g : Gang) : Bool :=
  (g.bank1.map fun b => b.copy.isSome).getD false || (g.bank2.map fun b => b.copy.isSome).getD false

end Sys2Proof.Machine
end

