-- ==== Sys2Proof/Machine/Debug.lean ====
section
/-! DEFINITION. Meanings of the region, mark and watchpoint instructions (R376 to R384, R395). -/

namespace Sys2Proof.Machine

/-- Push a region (R378): at most eight entries are held. -/
def pushRegion (g : Gang) (id : Nat) : Gang := { g with regionDepth := g.regionDepth + 1, regions := (id :: g.regions).take 8 }

/-- Pop a region (R378): a held position that stands for a lost region reads 0xFFFF. -/
def popRegion (g : Gang) : Gang :=
  { g with regionDepth := g.regionDepth - 1, regions := g.regions.tail ++ if 8 ≤ g.regionDepth - 1 then [0xFFFF] else [] }

/-- A region edge after its effect (R378 to R380): its trace record, then the stop that awaits the gang, with the region on top
of the stack after the edge (R428), or the gang moves on. The edge waits while the event of its stop cannot be posted
(R418). -/
def regionEdge (s : State) (g : Gang) (c : ClauseRun) (id type : Nat) (payload : List Byte) : State :=
  if (edgeStop s g id).isSome && (launchD s g.launch).stopMode != 0 && !eventRoom s (coreDie g.core) then { s with issuing := none }
  else
  let s1 := traceGang s g type payload
  match edgeStop s g id with
  | some kind =>
    takeStop s1 (if kind = 0 then { g with haltReq := false } else g) c kind 0x41 (BitVec.ofNat 64 id) (activeMask c) (activeMask c) (regionAt g 0) 0
  | none => finish s1 g c .none

/-- R378: enters a region. -/
def execRegEnter (i : Nat) (s : State) : Host.Outcome State Fault Refusal :=
  issue s .none fun g c =>
    if g.regionDepth = 255 then failAt s g c .none 0x11 0 (activeMask c) 0
    else regionEdge s (pushRegion g i) c i 3 []

/-- R378: leaves a region. -/
def execRegLeave (i : Nat) (s : State) : Host.Outcome State Fault Refusal :=
  issue s .none fun g c =>
    let top := regionAt g 0
    if g.regionDepth = 0 then failAt s g c .none 0x11 0 (activeMask c) 0
    else if top ≠ 0xFFFF ∧ top ≠ i then
      failAt s g c .none 0x11 (BitVec.ofNat 64 (top * 2 ^ 32 + i)) (activeMask c) 0
    else regionEdge s (popRegion g) c i 4 (leOf 2 i)

/-- R395: a mark in the trace. -/
def execTmark (b k : Nat) (s : State) : Host.Outcome State Fault Refusal :=
  issue s .none fun g c =>
    match windowOnce g (activeMask c) [] [.reg b] with
    | some (i, lanes) => failAt s g c .none 0x03 (BitVec.ofNat 64 i) lanes 0
    | none =>
      let v := rdReg g.level (thr g (lowest (activeMask c))) b
      finish (traceGang s g 2 (leOf 1 k ++ leOf 4 v.toNat)) g c .none

/-- The cores on which a watchpoint of a scope is armed (R381). -/
def watchCores (s : State) (g : Gang) (scope : Nat) : List Nat :=
  if scope = 3 ∧ g.task = 0 then
    (((clusterOf s g.clusterId).map Cluster.blocks).getD []).filterMap fun b => (blockOf s b).map Block.core
  else [g.core]

/-- The indices that are free on all of some cores. -/
def freeWatch (s : State) (cores : List Nat) : List Nat :=
  (List.range 16).filter fun i => cores.all fun k => (fget (coreOf s k).wpts i).isNone

/-- Change the watchpoints of some cores. -/
def modWatch (s : State) (cores : List Nat) (f : FMap Wpt → FMap Wpt) : State :=
  cores.foldl (fun t k => modCore t k fun x => { x with wpts := f x.wpts }) s

/-- The watchpoint that a control word and an address name, if they are valid (R381). -/
def watchOf (g : Gang) (lane : Nat) (ea : Dbl) (w : Nat) : Option Wpt :=
  let size := 2 ^ bits w 0 3
  if bits w 3 2 = 0 ∨ bits w 7 25 ≠ 0 ∨ vaOf ea % size ≠ 0 then none
  else some { gang := g.id, lane := lane, scope := bits w 5 2, kinds := bits w 3 2, size := size, addr := watchAddr lane ea }

/-- One lane of `wpt.set` (R381): its status; which free index it takes is open. DESIGN CHOICE, log entry 57 (safe). -/
def wptSetLane (b a d : Nat) (s : State) (g : Gang) (lane : Nat) : State × SeqEnd :=
  let put := fun (t : State) (v : Nat) => (putLane t g.id lane fun x => wrReg g.level x d (BitVec.ofNat 32 v), SeqEnd.ok [] none)
  match watchOf g lane (laneAddr g lane a) (rdReg g.level (thr g lane) b).toNat with
  | none => put s 17
  | some w =>
    let cores := watchCores s g w.scope
    match pickFrom s (freeWatch s cores) with
    | (none, s1) => put s1 16
    | (some i, s1) => put (modWatch s1 cores fun m => fput m i w) i

/-- R381: arms a watchpoint in each active lane. -/
def execWptSet (b a d : Nat) (s : State) : Host.Outcome State Fault Refusal :=
  issue s .none fun g c =>
    let A := activeMask c
    match windowFail g A [.reg d, .pair a, .reg b] with
    | some (i, lanes) => failAt s g c .none 0x03 (BitVec.ofNat 64 i) lanes 0
    | none =>
      match (lanesOf A).filter fun l => !canonical (laneAddr g l a) with
      | l :: ls => failAt s g c .none 0x13 (laneAddr g l a) (maskOf (l :: ls)) 0
      | [] => seqLanes (wptSetLane b a d) g.id .none (lanesOf A) 0 none s

/-- One lane of `wpt.clr` (R384). -/
def wptClrLane (b d : Nat) (s : State) (g : Gang) (lane : Nat) : State × SeqEnd :=
  let i := (rdReg g.level (thr g lane) b).toNat
  let put := fun (t : State) (v : Word) => (putLane t g.id lane fun x => wrReg g.level x d v, SeqEnd.ok [] none)
  match fget (coreOf s g.core).wpts i with
  | some w =>
    if w.gang = g.id ∧ w.lane = lane then put (modWatch s (watchCores s g w.scope) fun m => fdel m i) 0 else put s 1
  | none => put s 1

/-- R384: disarms a watchpoint of its own in each active lane. -/
def execWptClr (b d : Nat) (s : State) : Host.Outcome State Fault Refusal :=
  issue s .none fun g c =>
    match windowFail g (activeMask c) [.reg d, .reg b] with
    | some (i, lanes) => failAt s g c .none 0x03 (BitVec.ofNat 64 i) lanes 0
    | none => seqLanes (wptClrLane b d) g.id .none (lanesOf (activeMask c)) 0 none s

end Sys2Proof.Machine
end

