-- ==== Sys2Proof/Machine/MatMul.lean ====
section
/-! DEFINITION. The arithmetic of the engine: how values enter the array, fold into accumulator cells, and leave through
drains (R275 to R279, R288, R297). -/

namespace Sys2Proof.Machine

/-- Element n of packed bytes (R43). -/
def elemOf (bs : List Byte) (fmt n : Nat) : Nat :=
  if elemBits fmt = 4 then bits (leAt bs (n / 2) 1) (4 * (n % 2)) 4
  else leAt bs (elemBits fmt / 8 * n) (elemBits fmt / 8)

/-- One side of a K-block (R276): 32 integers, the exponent term, whether it holds a NaN or an infinity, and the flags of
its decoding. -/
structure Side where
  q : List Int
  t : Int := 0
  special : Bool := false
  flags : Word := 0
  deriving DecidableEq, Repr

/-- floor(log2 |x|) of a non-zero finite value. -/
def topBit : FVal → Option Int
  | .fin _ m e => if m = 0 then none else some ((Nat.log2 m : Int) + e)
  | _ => none

/-- The largest floor(log2 |x|) of a block, or 0 if all are zero (R276). -/
def blockExp (vs : List FVal) : Int :=
  match vs.filterMap topBit with
  | [] => 0
  | x :: xs => xs.foldl max x

/-- rne(x × 2^k) (R276). -/
def alignTo (k : Int) : FVal → Int
  | .fin n m e => let r : Int := ((roundMag 0 n m (e + k)).1 : Nat); if n then -r else r
  | _ => 0

/-- A block of floats, aligned to its largest element in a field of F bits (R276, R279). -/
def floatSide (F : Nat) (vs : List FVal) : Side :=
  if vs.any fun v => v.isNan || v.isInf then { q := vs.map fun _ => 0, special := true }
  else
    let k : Int := (F : Int) - 2 - blockExp vs
    { q := vs.map (alignTo k), t := -k }

/-- A block of element patterns that are not CB2 codes (R276). -/
def plainSide (fmt F : Nat) (xs : List Nat) : Side :=
  if (floatFmt fmt).isSome then floatSide F (xs.map (elemVal fmt)) else { q := xs.map (elemInt fmt) }

/-- A block of four CB2 codes, 32 coordinates (R164, R276). -/
def codeSide (lattice : Nat → Word) (codes : List Nat) : Side :=
  let ds := codes.map fun c => cbDecode (lattice (c / 256)).toNat c
  { q := ds.flatMap Prod.fst, t := -1, flags := flag (ds.any Prod.snd) flCBI }

/-- The K-block b of row (or column) i of an entry of a chunk of Kc positions (R275). -/
def entrySide (lattice : Nat → Word) (fmt F kc : Nat) (bs : List Byte) (i b : Nat) : Side :=
  let start := i * kc + 32 * b
  if fmt = 12 then codeSide lattice ((List.range 4).map fun n => leAt bs (2 * (start / 8 + n)) 2)
  else plainSide fmt F ((List.range 32).map fun n => elemOf bs fmt (start + n))

/-- A cell through the down-converter, into an element pattern and flags (R288). -/
def downConvert (dcvt fmt : Nat) (cell : Word) : Nat × Word :=
  if bit dcvt 7 then
    match intRange fmt with
    | some (lo, hi) => (wrapN (elemBits fmt) (sat cell.toInt lo hi), 0)
    | none => valTo fmt (bits dcvt 4 2) (bit dcvt 6) (intVal cell.toInt)
  else if fmt = 9 then (cell.toNat, 0)
  else valTo fmt (bits dcvt 4 2) (bit dcvt 6) (unpack fp32 cell.toNat)

/-- The K-block b of row i of an A matrix in tiles (R288), at position k0 of the operation. No rule gives a CB2 code for a
cell: such coordinates are free. -/
def tileSide (free : Nat → Nat) (dcvt fmt F : Nat) (cells : Nat → Word) (start : Nat) : Side :=
  if fmt = 12 then { q := (List.range 32).map fun n => (free (start + n) % 15 : Nat) - 7, t := -1 }
  else
    let ds := (List.range 32).map fun n => downConvert dcvt fmt (cells (start + n))
    let s := plainSide fmt F (ds.map Prod.fst)
    { s with flags := (ds.map Prod.snd).foldl (· ||| ·) 0 }

/-- The exact sum of a K-block (R276). -/
def blockSum (a b : Side) : Int := (List.zipWith (· * ·) a.q b.q).sum

/-- The fold of a K-block into an INT32 cell (R277). -/
def foldInt (acc : Word) (a b : Side) : Word × Word :=
  let r := acc.toInt + blockSum a b
  (wrap32 r, flag (decide (r < -2147483648) || decide (2147483647 < r)) flGOV)

/-- The fold of a K-block into an FP32 cell, with the scale codes of both sides (R276, R278, R279). -/
def foldFp (acc : Word) (a b : Side) (sa sb : Nat) : Word × Word :=
  if a.special || b.special || sa == 255 || sb == 255 then (0x7FC00000, flNV)
  else
    let x := blockSum a b
    let (r, f) := fpAddV fp32 0 (unpack fp32 acc.toNat)
      (.fin (decide (x < 0)) x.natAbs (a.t + b.t + ((sa : Int) - 127) + ((sb : Int) - 127)))
    (BitVec.ofNat 32 r, f)

/-- The group of positions along K that a K-block lies in (R278). -/
def scaleGroup (mode kb : Nat) : Nat := if mode = 1 then kb else kb / 2

/-- The scale code of a row or column at a K-block (R278): 127 stands for 1. -/
def scaleCode (scale : Memory) (mode base rows i kb : Nat) : Nat :=
  if mode = 0 then 127 else (rdByte scale (base + scaleGroup mode kb * rows + i)).toNat

/-- The folds of a chunk's K-blocks into one cell, ascending (R276). -/
def foldCell (x : MmaArgs) (scale : Memory) (i j : Nat) : List Side → List Side → Nat → Word → Word × Word
  | a :: as, b :: bs, kb, acc =>
    let (r, f) := if x.fp then foldFp acc a b (scaleCode scale x.scale x.ascale x.m i kb) (scaleCode scale x.scale x.bscale x.n j kb)
      else foldInt acc a b
    let (r', f') := foldCell x scale i j as bs (kb + 1) r
    (r', f ||| f')
  | _, _, _, acc => (acc, 0)

/-- Fold a chunk into a list of cells, numbered from the operation's first cell (R275, R276). -/
def foldCells (x : MmaArgs) (scale : Memory) (as bs : List (List Side)) (kb : Nat) :
    List Nat → FMap Word → FMap Word × Word
  | [], acc => (acc, 0)
  | n :: ns, acc =>
    let cell := x.tile * tileCells + n
    let (r, f) := foldCell x scale (n / x.n) (n % x.n) (as.getD (n / x.n) []) (bs.getD (n % x.n) []) kb (fgetD acc cell 0)
    let (acc', f') := foldCells x scale as bs kb ns (fset acc cell r 0)
    (acc', f ||| f')

/-- The flags of decoding the operands. -/
def sideFlags (ss : List (List Side)) : Word := (ss.flatMap fun l => l.map Side.flags).foldl (· ||| ·) 0

/-- A chunk of an operation folded into the accumulators (R276 to R279): the operand bytes are those of A, then of B. -/
def foldChunk (x : MmaArgs) (e : Engine) (free : Nat → Nat) (chunk : Nat) (data : List Byte) : FMap Word × Word :=
  let F := ((mmaClass x.afmt).map fun k => k.1).getD 8
  let lattice := fun j => fgetD e.lattice j 0
  let blocks := List.range (x.kc / 32)
  let na := if x.tileA.isSome then 0 else entryBytesOf x.afmt (x.m * x.kc)
  let as := (List.range x.m).map fun i => blocks.map fun b =>
    match x.tileA with
    | some t => tileSide free x.dcvt x.afmt F (fun n => fgetD e.acc (t * tileCells + n) 0)
        (i * (x.kc * x.ksteps) + chunk * x.kc + 32 * b)
    | none => entrySide lattice x.afmt F x.kc (data.take na) i b
  let bs := (List.range x.n).map fun j => blocks.map fun b => entrySide lattice x.bfmt F x.kc (data.drop na) j b
  let (acc, f) := foldCells x e.scale as bs (chunk * (x.kc / 32)) (List.range (x.m * x.n)) e.acc
  (acc, f ||| sideFlags as ||| sideFlags bs)

/-- Zero n cells from a cell on. -/
def zeroCells (acc : FMap Word) (first n : Nat) : FMap Word := acc.filter fun x => x.1 < first || first + n ≤ x.1

/-- A cell's value as a drain reads it (R297). -/
def cellVal (x : DrainArgs) (cell : Word) : FVal := if bit x.mode 3 then intVal cell.toInt else unpack fp32 cell.toNat

/-- A cell converted without MX (R297): equal kinds are copied unchanged. DEDUCED, log entry 28 (unsafe). -/
def drainElem (x : DrainArgs) (cell : Word) : Nat × Word :=
  if (x.fmt = 9 ∧ bit x.mode 3 = false) ∨ (x.fmt = 11 ∧ bit x.mode 3 = true) then (cell.toNat, 0)
  else valTo x.fmt (bits x.mode 0 2) (bit x.mode 2) (cellVal x cell)

/-- The exponent of a destination format's largest binade (R297). -/
def mxEmax (fmt : Nat) : Int := if fmt = 4 then 8 else if fmt = 5 then 15 else if fmt = 6 then 2 else 0

/-- An element of an MX block at scale exponent s (R297). DEDUCED, log entry 28 (unsafe). -/
def mxElem (fmt : Nat) (s : Int) (v : FVal) : Nat × Word :=
  match floatFmt fmt, v with
  | some f, .fin n m e => cvtToFloat f 0 true (.fin n m (e - s))
  | none, .fin n m e =>
    let g : Int := ((roundMag 0 n m (e + (6 - s))).1 : Nat)
    let r : Int := if n then -g else g
    (wrapN 8 (sat r (-128) 127), flag (decide (r < -128) || decide (127 < r)) (flOF ||| flNX))
  | _, _ => (0, 0)

/-- One MX block (R297): its scale, its element patterns and its flags. -/
def mxBlock (fmt : Nat) (vs : List FVal) : Nat × List Nat × Word :=
  if vs.any fun v => v.isNan || v.isInf then
    (0xFF, vs.map fun _ => ((floatFmt fmt).map Fmt.cnan).getD 0, flNV)
  else if vs.all FVal.isZero then (0, vs.map fun _ => 0, 0)
  else
    let s := sat (blockExp vs - mxEmax fmt) (-127) 127
    let es := vs.map (mxElem fmt s)
    ((s + 127).toNat, es.map Prod.fst, (es.map Prod.snd).foldl (· ||| ·) 0)

/-- Patterns of w bits packed densely (R43). -/
def packBytes (w : Nat) (xs : List Nat) : List Byte :=
  if w = 4 then packNibbles xs else xs.flatMap fun x => leOf (w / 8) x
where
  /-- Two elements to a byte, the even index low. -/
  packNibbles : List Nat → List Byte
    | [] => []
    | [x] => [BitVec.ofNat 8 (x % 16)]
    | x :: y :: r => BitVec.ofNat 8 (x % 16 + 16 * (y % 16)) :: packNibbles r

/-- What a drain writes (R296, R297): element bytes, scale bytes, flags. -/
def drainOut (x : DrainArgs) (acc : FMap Word) : List Byte × List Byte × Word :=
  let cell := fun n => fgetD acc (x.tile * tileCells + n) 0
  if x.mx then
    let bs := (List.range (x.rows * x.cols / 32)).map fun b =>
      mxBlock x.fmt ((List.range 32).map fun n => cellVal x (cell (32 * b + n)))
    (packBytes (elemBits x.fmt) (bs.flatMap fun b => b.2.1), bs.map fun b => BitVec.ofNat 8 b.1, (bs.map fun b => b.2.2).foldl (· ||| ·) 0)
  else
    let es := (List.range (x.rows * x.cols)).map fun n => drainElem x (cell n)
    (packBytes (elemBits x.fmt) (es.map Prod.fst), [], (es.map Prod.snd).foldl (· ||| ·) 0)

end Sys2Proof.Machine
end

