-- ==== Sys2Proof/Machine/Ready.lean ====
section
/-! DEFINITION. Where a gang stands between two issues: the clause it has fetched and how that would start (R46 to R50, R53), what is
due before it, the classes of R53, and the instruction that it would issue next (R122, R261). -/

namespace Sys2Proof.Machine

/-- A block gang issues nothing until its cluster's parameters have been copied (R103). -/
def released (s : State) (g : Gang) : Bool := g.task != 0 || ((clusterOf s g.clusterId).map Cluster.ready).getD false

/-- The lanes of the top entry that have not exited. -/
def topLanes (g : Gang) : Word := (topEntry g).mask &&& g.live

/-- Bytes of a clause with its header (R46). -/
def clauseBytes (hdr : Nat) : Nat := 4 * (hdrLength hdr + 2)

/-- The clause crosses a 4 KiB boundary (R46). -/
def crosses (h : Dbl) (hdr : Nat) : Bool := decide (4096 < h.toNat % 4096 + clauseBytes hdr)

/-- The active mask of a clause (R49). -/
def clauseMask (g : Gang) (hdr : Word) : Word :=
  maskOf ((lanesOf (topLanes g)).filter fun l => rdPred (thr g l) (hdrPred hdr.toNat) != hdrNegate hdr.toNat)

/-- What is wrong with a header, where it stands (R46 to R48): the cause, what `%tloc` shows, and the lanes: those that would have
been active under an illegal header, and the whole entry's where the clause would cross a boundary. A header that is both
illegal and crosses is illegal. DEDUCED, log entry 13 (unsafe). DESIGN CHOICE, log entry 74 (unsafe). -/
def headerBad (g : Gang) (f : Fetched) : Option (Nat × Dbl × Word) :=
  if !hdrLegal f.hdr.toNat then
    if (topEntry g).target then some (0x02, f.h, clauseMask g f.hdr)
    else some (0x01, BitVec.ofNat 64 f.hdr.toNat, clauseMask g f.hdr)
  else if crosses f.h f.hdr.toNat then some (0x02, f.h, topLanes g)
  else none

/-- The first word of a clause that is illegal, with its place (R47). -/
def illegalAt (f : Fetched) : Option Nat := firstIllegal (f.words.map BitVec.toNat) 0

/-- A precise fault is due at a clause start (R46 to R48): it is taken before a deferred one (R366). -/
def preciseDue (g : Gang) (f : Fetched) : Bool := (headerBad g f).isSome || (illegalAt f).isSome

/-- The clause may start, or is skipped or faults: its wait mask is clear (R53). A bad header has no wait mask.
DEDUCED, log entry 13 (unsafe). -/
def startsNow (g : Gang) (f : Fetched) : Bool := (headerBad g f).isSome || flagsClear g (hdrWait f.hdr.toNat)

/-- A deferred fault is delivered before the clause starts (R234). DEDUCED, log entry 34 (unsafe). -/
def deferredDue (s : State) (g : Gang) : Bool := !(deferredFaults s g.id).isEmpty && !deferredBusy g

/-- Kept hits are due at a clause start or a blocking point (R383). -/
def hitsDue (g : Gang) : Bool := g.level == 0 && !g.hits.isEmpty

/-- The stop of kept hits waits for room for its event (R383, R418). -/
def hitsHeld (s : State) (g : Gang) : Bool := hitsDue g && (launchD s g.launch).stopMode != 0 && !eventRoom s (coreDie g.core)

/-- The instructions of a scheduler's divider (R139). -/
def divides : Instr → Bool
  | .div _ _ _ | .divn _ _ _ | .rem _ _ _ | .remn _ _ _ => true
  | _ => false

/-- A fetched clause as it would start (R49). -/
def firstRun (g : Gang) (f : Fetched) : ClauseRun := { h := f.h, hdr := f.hdr, words := f.words, act := clauseMask g f.hdr }

/-- What a clause start comes to is not the issue of an instruction: a fault, kept hits, or a clause without a lane. -/
def startsOtherwise (s : State) (g : Gang) (f : Fetched) : Bool :=
  preciseDue g f || deferredDue s g || hitsDue g || clauseMask g f.hdr == 0

/-- The flag that the next instruction counts in has room (R53). -/
def flagRoom (g : Gang) (c : ClauseRun) : Bool :=
  match decodeWord (wordOf c) with
  | .ok i => !flagFull g c (clsOf i)
  | .error _ => true

/-- A comparison or a halt of replay is still due, and the gang does not go on before it (R402). -/
def replayDue (g : Gang) : Bool := g.compare.isSome || g.diverges.isSome

/-- A gang is requested to give up its slot (R368, R370). -/
def evictionAsked (s : State) (g : Gang) : Bool := g.marked || (launchD s g.launch).preempt

/-- The clause run whose next instruction the gang would issue, flags, interlocks and units apart (R122). -/
def nextRun (s : State) (g : Gang) : Option ClauseRun :=
  if g.slot.isNone || g.pending.isSome || !released s g || replayDue g then none
  else match g.clause, g.wait, g.fetched with
    | some c, .none, _ => some c
    | none, .none, some f => if startsNow g f && !startsOtherwise s g f then some (firstRun g f) else none
    | _, _, _ => none

/-- The dense products (R261). -/
def denseInstr : Instr → Bool
  | .wmul _ _ _ | .wmuln _ _ _ | .wmac _ _ _ => true
  | _ => false

/-- A gang waits with a dense product for the array: nothing else holds it (R122, R261). -/
def wantsArray (s : State) (g : Gang) : Bool :=
  match nextRun s g with
  | none => false
  | some c => flagRoom g c && (heldAt s g c).isNone && match decodeWord (wordOf c) with
    | .ok i => denseInstr i
    | .error _ => false

end Sys2Proof.Machine
end

