-- ==== Sys2Proof/Machine/Engine.lean ====
section
/-! DEFINITION. Meanings of the engine's instructions (R273 to R300) and of its events (R261, R285 to R288, R296 to R300). -/

namespace Sys2Proof.Machine

/-- Change a core's engine. -/
def modEngine (s : State) (core : Nat) (f : Engine → Engine) : State := modCore s core fun k => { k with engine := f k.engine }
def engineOf (s : State) (core : Nat) : Engine := (coreOf s core).engine

/-- Change a command of a core's queue, or take it out. -/
def modCmdOf (s : State) (core id : Nat) (f : EngCmd → EngCmd) : State :=
  modEngine s core fun e => { e with cmds := modBy EngCmd.id id f e.cmds }
def dropCmd (s : State) (core id : Nat) : State := modEngine s core fun e => { e with cmds := e.cmds.filter fun c => c.id != id }
def cmdOf (s : State) (core id : Nat) : Option EngCmd := findBy EngCmd.id id (engineOf s core).cmds

/-! ### Issuing -/

/-- The claim (R273): taken afresh, already held, or waited for at a blocking point. A fresh claim finds every store at
zero. DEDUCED, log entry 22 (unsafe). -/
def withClaim (s : State) (g : Gang) (c : ClauseRun) (cls : Cls) (k : State → State) : State :=
  match (engineOf s g.core).owner with
  | none => k (modEngine s g.core fun e => e.fresh (some g.block))
  | some b => if b = g.block then k s else blockAt s g c cls (activeMask c) 3 .claim

/-- A precise fault of an engine instruction: `%tlanes` holds the lowest active lane (R283, R290). -/
def engFault (s : State) (g : Gang) (c : ClauseRun) (cls : Cls) (f : Nat × Dbl × Nat) : State :=
  failAt s g c cls f.1 f.2.1 (bitMask (lowest (activeMask c))) 0 f.2.2

/-- The shared part of the ENG instructions (R290): once for the gang, with the operands of the lowest active lane; a task
faults before any other check, then the window is checked, then the claim is taken (R293).
DEDUCED, log entry 22 (unsafe). -/
def engine (s : State) (cls : Cls) (dst src : List Opnd) (k : State → Gang → ClauseRun → Nat → State) : Step :=
  issue s cls fun g c =>
    if g.task != 0 then engFault s g c cls (0x11, 0, 0)
    else
      match windowOnce g (activeMask c) dst src with
      | some (i, _) => engFault s g c cls (0x03, BitVec.ofNat 64 i, 0)
      | none => withClaim s g c cls fun s1 => k s1 g c (lowest (activeMask c))

/-- The address checks of an own-rank operand (R283, R293): canonical, own rank and bounds, alignment, colour; R293 looks
at the alignment first. -/
def ownRange (s : State) (g : Gang) (ea : Dbl) (n : Nat) (alignFirst : Bool) : Except (Nat × Dbl × Nat) Loc :=
  let mis := ea.toNat % 16 != 0
  if !canonical ea then .error (0x13, ea, 0)
  else if alignFirst && mis then .error (0x16, ea, 0)
  else
    match (if apertureOf ea == .pooled && bits ea.toNat 20 4 == g.rank then pooledLoc s g ea n true else none) with
    | none => .error (0x15, ea, 0)
    | some l =>
      if mis then .error (0x16, ea, 0)
      else match spaceColourBad s l n (colourOf ea) with
        | some k => .error (0x14, ea + BitVec.ofNat 64 (k * 16 - l.off), colourAt s ⟨l.place, k * 16⟩)
        | none => .ok l

/-- An engine read meets an uncorrectable error (R372): the launch of the claiming block ends, with `done.pc` 0 and an
address that the manual leaves open. DESIGN CHOICE, log entry 24 (safe). -/
def engineError (s : State) (launch : Nat) : State := endLaunch (freeNat s).2 launch 9 0x60 0 (BitVec.ofNat 64 (freeNat s).1)

/-- The gang whose engine instruction met it stops where it stands. -/
def engineReadError (s : State) (g : Gang) : State :=
  engineError (setGang { s with issuing := none } { g with wait := .stopped }) g.launch

/-- The queue has room for a command (R285). -/
def queueRoom (s : State) (core : Nat) : Bool := decide ((engineOf s core).cmds.length < 16)

/-- A command enters the queue (R283, R285), and its instruction is complete; the flag of a table load falls later
(R300). -/
def enqueue (s : State) (g : Gang) (c : ClauseRun) (lane : Nat) (body : EngBody) : State :=
  let (id, s1) := newId s
  let cmd : EngCmd := { id := id, gang := g.id, lane := lane, launch := g.launch, block := g.block, index := g.index,
                        pc := instrPc c, body := body, flag := if body.isLoad then clsFlag c.hdr .b else none }
  let s2 := modEngine s1 g.core fun e => { e with cmds := e.cmds ++ [cmd] }
  if body.isLoad then issued s2 (stepPast (retire (countUp g c .b) c) c) else complete s2 g c .b

/-- A command whose operands have been read and found valid enters the queue, or waits for a free entry (R283); it reads
them again when it goes on. -/
def enterQueue (s : State) (g : Gang) (c : ClauseRun) (lane : Nat) (body : EngBody) : State :=
  if queueRoom s g.core then enqueue s g c lane body else waitUnit s g c .b (activeMask c) none

/-- The barrier object of a parameter block or drain descriptor: R244 stage 1 in the own rank, and its colour (R284,
R296). -/
def ownBarrier (s : State) (g : Gang) (ba : Dbl) : Except Nat Nat :=
  if !canonical ba || ba.toNat % 16 != 0 || apertureOf ba != .pooled || bits ba.toNat 20 4 != g.rank then .error 0x11
  else match pooledLoc s g ba 16 true with
    | none => .error 0x15
    | some l => if (spaceColourBad s l 16 (colourOf ba)).isSome then .error 0x14 else .ok l.off

/-- The format word is valid (R281); one with a reserved bit set is not. DESIGN CHOICE, log entry 87 (unsafe). -/
def formatOk (fw : Nat) : Bool :=
  let a := bits fw 0 4
  let b := bits fw 4 4
  let acc := bits fw 8 2
  let sc := bits fw 10 2
  let int := fun k => decide (k < 4)
  (mmaClass a).isSome && mmaClass a == mmaClass b && decide (acc < 2) && decide (sc < 3) && fw / 2 ^ 12 == 0
    && (acc == 1 || (int a && int b && sc == 0)) && ((a != 12 && b != 12) || sc == 2)

/-- A ring is defined with this entry size in bytes (R284). -/
def ringSized (e : Engine) (r bytes : Nat) : Bool :=
  match fget e.rings r with
  | none => false
  | some x => 16 * x.esize == bytes

/-- The decoded parameter block, with the selector applied (R275, R281 to R283). -/
def parseMma (bs : List Byte) (sel fw shape : Nat) (bar : Option Nat) : MmaArgs :=
  let asrc := leAt bs 0 2
  let side := ((mmaClass (bits fw 0 4)).map fun k => k.2.1).getD 1
  { m := side / 2 ^ bits shape 2 2, n := side / 2 ^ bits shape 0 2, kc := 32 * 2 ^ bits shape 4 1,
    afmt := bits fw 0 4, bfmt := bits fw 4 4, fp := bits fw 8 2 == 1, scale := bits fw 10 2,
    tileA := if bit asrc 15 then some ((asrc + bits sel 4 4) % 16) else none,
    ringA := (asrc + bits sel 4 4) % 16, ringB := (leAt bs 2 1 + bits sel 8 4) % 16,
    tile := (leAt bs 3 1 + bits sel 0 4) % 16, ksteps := leAt bs 4 4, ascale := leAt bs 8 2, bscale := leAt bs 0xA 2,
    zero := bit (leAt bs 0xC 4) 0, bar := bar, dcvt := leAt bs 0x18 1 }

/-- The scale bytes that an operation reads of a side (R278). -/
def scaleBytes (x : MmaArgs) (side : Nat) : Nat := ceilDiv (x.kc * x.ksteps) (if x.scale = 1 then 32 else 64) * side

/-- The parameter block is valid, the barrier apart (R282, R284, R288). -/
def mmaOk (e : Engine) (bs : List Byte) (sel : Nat) (x : MmaArgs) : Bool :=
  let cells := x.m * x.n
  bits (leAt bs 0 2) 4 11 == 0 && leAt bs 2 1 < 16 && leAt bs 3 1 < 16 && leAt bs 0xC 4 < 4 && leAt bs 0x18 1 % 16 == 0
    && leAt bs 0x19 7 == 0 && sel < 2 ^ 12 && decide (1 ≤ x.ksteps) && decide (x.ksteps ≤ 65535)
    && decide (x.tile + ceilDiv cells tileCells ≤ 16)
    && ringSized e x.ringB (entryBytesOf x.bfmt (x.n * x.kc))
    && (match x.tileA with
        | none => ringSized e x.ringA (entryBytesOf x.afmt (x.m * x.kc))
        | some t => decide (t * tileCells + x.sourceCells ≤ 65536)
          && !(tilesFrom t x.sourceCells).any (tilesFrom x.tile cells).contains)
    && (x.scale == 0 || (decide (x.ascale + scaleBytes x x.m ≤ 16384) && decide (x.bscale + scaleBytes x x.n ≤ 16384)))

/-- The lanes whose format word differs from the elected lane's (R283). -/
def fmtDiffers (g : Gang) (A : Word) (d : Nat) : List Nat :=
  (lanesOf A).filter fun l => rdReg g.level (thr g l) d != rdReg g.level (thr g (lowest A)) d

/-- The part of `mma` from its parameter block on (R283). -/
def mmaAt (s : State) (g : Gang) (c : ClauseRun) (shape b a fw : Nat) : State :=
  let k := lowest (activeMask c)
  let p := laneAddr g k a
  match ownRange s g p 32 false with
  | .error f => engFault s g c .b f
  | .ok l =>
    if poisonedAt s l 32 then engineReadError s g
    else
      let bs := readBytes s l 32
      let sel := (rdReg g.level (thr g k) b).toNat
      let ba := BitVec.ofNat 64 (leAt bs 0x10 8)
      if !mmaOk (engineOf s g.core) bs sel (parseMma bs sel fw shape none) then engFault s g c .b (0x11, p, 0)
      else if bit (leAt bs 0xC 4) 1 then
        match ownBarrier s g ba with
        | .error 0x14 => engFault s g c .b (0x14, ba, ((pooledLoc s g ba 16 true).map (colourAt s)).getD 0)
        | .error _ => engFault s g c .b (0x11, p, 0)
        | .ok off => enterQueue s g c k (.mma (parseMma bs sel fw shape (some off)))
      else enterQueue s g c k (.mma (parseMma bs sel fw shape none))

/-- R283: queues a matrix multiply-accumulate. -/
def execMma (sh b a d : Nat) (s : State) : Step :=
  issue s .b fun g c =>
    let A := activeMask c
    let fw := (rdReg g.level (thr g (lowest A)) d).toNat
    match windowOnce g A [.reg d] [.pair a, .reg b] with
    | some (i, lanes) => failAt s g c .b 0x03 (BitVec.ofNat 64 i) lanes 0
    | none =>
      if g.task != 0 then engFault s g c .b (0x11, 0, 0)
      else match fmtDiffers g A d with
        | l :: ls => failAt s g c .b 0x22 (BitVec.ofNat 64 (rdReg g.level (thr g l) d).toNat) (maskOf (l :: ls)) 0
        | [] =>
          if !formatOk fw then engFault s g c .b (0x11, 0, 0)
          else withClaim s g c .b fun s1 => mmaAt s1 g c sh b a fw

/-- The decoded drain descriptor (R296). -/
def parseDrain (bs : List Byte) (bar : Option Nat) : DrainArgs :=
  let dst := leAt bs 8 4
  let sd := leAt bs 0xC 4
  { tile := leAt bs 0 1, fmt := leAt bs 1 1 % 16, mx := bit (leAt bs 1 1) 4, mode := leAt bs 2 1, rows := leAt bs 4 2,
    cols := leAt bs 6 2, ring := if bit dst 31 then some (dst % 16) else none, dst := bits dst 0 20,
    scaleMem := bit sd 31, sdst := if bit sd 31 then bits sd 0 14 else bits sd 0 20, bar := bar }

/-- Scale bytes of a drain (R297). -/
def drainScales (x : DrainArgs) : Nat := if x.mx then x.rows * (x.cols / 32) else 0

/-- The descriptor is valid, its barrier and the bounds in scratchpad apart (R296); its reserved bytes are ignored (R5). -/
def drainOk (e : Engine) (bs : List Byte) (x : DrainArgs) : Bool :=
  let dst := leAt bs 8 4
  let sd := leAt bs 0xC 4
  leAt bs 0 1 < 16 && leAt bs 1 1 < 32 && leAt bs 2 1 < 64
    && decide (1 ≤ x.rows) && decide (x.rows ≤ 128) && decide (1 ≤ x.cols) && decide (x.cols ≤ 128)
    && (if bit dst 31 then bits dst 4 27 == 0 else bits dst 20 11 == 0 && dst % 16 == 0)
    && (if bit sd 31 then bits sd 14 17 == 0 else bits sd 20 11 == 0)
    && decide (x.tile * tileCells + x.rows * x.cols ≤ 65536)
    && (if x.mx then (x.fmt == 0 || x.fmt == 4 || x.fmt == 5 || x.fmt == 6) && x.cols % 32 == 0
        else x.fmt == 7 || x.fmt == 8 || x.fmt == 9 || x.fmt == 11)
    && (match x.ring with
        | none => true
        | some r => match fget e.rings r with
          | none => false
          | some ring => drainBytes x % (16 * ring.esize) == 0)
    && (!(x.mx && x.scaleMem) || decide (x.sdst + drainScales x ≤ 16384))

/-- A destination range of a drain in the own rank: bounds, then the colour of the descriptor's address (R296). -/
def drainRange (s : State) (g : Gang) (colour off n : Nat) : Except (Nat × Dbl × Nat) Unit :=
  let l : Loc := ⟨.scratch g.block, off⟩
  if (spaceOf s l.place).size < off + n then .error (0x15, pooledAddr colour g.rank off, 0)
  else match spaceColourBad s l n colour with
    | some k => .error (0x14, pooledAddr colour g.rank (k * 16), colourAt s ⟨l.place, k * 16⟩)
    | none => .ok ()

/-- What a drain writes in scratchpad is in bounds and carries the colour (R296). -/
def drainRanges (s : State) (g : Gang) (colour : Nat) (x : DrainArgs) : Except (Nat × Dbl × Nat) Unit :=
  match (if x.ring.isSome then .ok () else drainRange s g colour x.dst (drainBytes x)) with
  | .error f => .error f
  | .ok _ => if x.mx && !x.scaleMem then drainRange s g colour x.sdst (drainScales x) else .ok ()

/-- The barrier of a drain, if it asks for an arrival. -/
def drainBarrier (s : State) (g : Gang) (p ba : Dbl) (wanted : Bool) : Except (Nat × Dbl × Nat) (Option Nat) :=
  if wanted then
    match ownBarrier s g ba with
    | .error 0x11 => .error (0x11, p, 0)
    | .error e => .error (e, ba, ((pooledLoc s g ba 16 true).map (colourAt s)).getD 0)
    | .ok off => .ok (some off)
  else .ok none

/-- R296: queues a drain. -/
def execMdrain (a : Nat) (s : State) : Step :=
  engine s .b [] [.pair a] fun s1 g c k =>
    let p := laneAddr g k a
    match ownRange s1 g p 32 false with
    | .error f => engFault s1 g c .b f
    | .ok l =>
      if poisonedAt s1 l 32 then engineReadError s1 g
      else
        let bs := readBytes s1 l 32
        let x := parseDrain bs none
        if !drainOk (engineOf s1 g.core) bs x then engFault s1 g c .b (0x11, p, 0)
        else match drainRanges s1 g (colourOf p) x with
          | .error f => engFault s1 g c .b f
          | .ok _ =>
            match drainBarrier s1 g p (BitVec.ofNat 64 (leAt bs 0x10 8)) (bit x.mode 5) with
            | .error f => engFault s1 g c .b f
            | .ok bar => enterQueue s1 g c k (.drain (parseDrain bs bar))

/-- R298: queues zeroing of tiles. -/
def execMzero (b : Nat) (s : State) : Step :=
  engine s .b [] [.reg b] fun s1 g c k =>
    let m := (rdReg g.level (thr g k) b).toNat
    if 65536 ≤ m then engFault s1 g c .b (0x11, 0, 0)
    else enterQueue s1 g c k (.zero m)

/-- The commands of a gang in its core's queue. -/
def gangCmds (s : State) (g : Gang) : List Nat := ((engineOf s g.core).cmds.filter fun x => x.gang == g.id).map EngCmd.id

/-- R299: waits until every engine command that the gang queued before has completed. -/
def execMfence (s : State) : Step :=
  unlessStopping s <| engine s .none [] [] fun s1 g c _ =>
    if (gangCmds s1 g).isEmpty then complete s1 g c .none
    else blockAt s1 g c .none (activeMask c) 3 (.commands (gangCmds s1 g))

/-- Rings overlap in queue storage (R291). -/
def ringsOverlap (base bytes : Nat) (x : Ring) : Bool :=
  decide (base < x.base + 16 * x.esize * x.count) && decide (x.base < base + bytes)

/-- A ring is idle (R291): no entry ready or claimed, and no queued command names it. -/
def ringIdle (e : Engine) (r : Nat) (x : Ring) : Bool :=
  x.entries.all REntry.dead && !(e.cmds.any fun c => c.body.rings.contains r)

/-- R291: defines a ring in queue storage, or undefines it. DEDUCED, log entry 68 (unsafe). -/
def execRingDef (b a r : Nat) (s : State) : Step :=
  engine s .b [] [.reg a, .reg b] fun s1 g c k =>
    let base := (rdReg g.level (thr g k) a).toNat
    let shape := (rdReg g.level (thr g k) b).toNat
    let esize := bits shape 0 12
    let count := bits shape 12 9
    let bytes := 16 * esize * count
    let e := engineOf s1 g.core
    let rings := e.rings.filter fun x => x.1 != r
    let idle := match fget e.rings r with
      | none => true
      | some x => ringIdle e r x
    if base % 256 != 0 || 2 ^ 20 ≤ base || esize = 0 || 256 < count || shape - bits shape 0 21 - bits shape 24 1 * 2 ^ 24 != 0
        || ((blockOf s1 g.block).map Block.queueSize).getD 0 < base + bytes
        || (decide (0 < count) && rings.any fun x => ringsOverlap base bytes x.2) || !idle then
      engFault s1 g c .b (0x11, 0, 0)
    else
      let s2 := modEngine s1 g.core fun e => { e with
        rings := if count = 0 then fdel e.rings r else fput e.rings r { base := base, esize := esize, count := count, keep := bit shape 24 } }
      complete s2 g c .b

/-- Write whole entries into a ring's next slots, ready (R293, R296). -/
def fillRing (s : State) (core block r : Nat) (bs : List Byte) : State :=
  match ringOf s core r with
  | none => s
  | some x =>
    let n := 16 * x.esize
    let slots := x.nextSlots (bs.length / n)
    let s1 := (slots.zip (List.range slots.length)).foldl (fun t p => writeQueue t block (x.base + p.1 * n) ((bs.drop (p.2 * n)).take n)) s
    modRing s1 core r fun y => slots.foldl Ring.ready (y.claim slots.length)

/-- R293: copies n entries from scratchpad into a ring. DEDUCED, log entry 23 (unsafe). -/
def execRingAdv (b a r : Nat) (s : State) : Step :=
  unlessStopping s <| engine s .none [] [.pair a, .reg b] fun s1 g c k =>
    let n := (rdReg g.level (thr g k) b).toNat
    let size := match ringOf s1 g.core r with
      | some x => 16 * x.esize * n
      | none => 0
    match ownRange s1 g (laneAddr g k a) size true with
    | .error f => engFault s1 g c .none f
    | .ok l =>
      match ringOf s1 g.core r with
      | none => engFault s1 g c .none (0x11, 0, 0)
      | some x =>
        if n = 0 ∨ 256 < n ∨ x.count < n then engFault s1 g c .none (0x11, 0, 0)
        else if x.free < n then blockAt s1 g c .none (activeMask c) 8 (.ringRoom r n)
        else if poisonedAt s1 l size then engineReadError s1 g
        else complete (fillRing s1 g.core g.block r (readBytes s1 l size)) g c .none

/-- An operation queued before a number reads a ring (R294). -/
def ringRead (e : Engine) (r bound : Nat) : Bool :=
  e.cmds.any fun c => decide (c.id < bound) && (match c.body with | .mma _ => c.body.rings.contains r | _ => false)

/-- Take the n oldest ready entries out of a ring (R294). -/
def takeReady : Nat → List REntry → List REntry
  | 0, es => es
  | _, [] => []
  | n + 1, e :: es => if e.ready then takeReady n es else e :: takeReady (n + 1) es

/-- R294: frees entries of a keep-mode ring, once the operations queued before have read it. -/
def execRingRel (b r : Nat) (s : State) : Step :=
  engine s .none [] [.reg b] fun s1 g c k =>
    let n := (rdReg g.level (thr g k) b).toNat
    let bound := g.bound.getD s1.nextId
    let g1 := { g with bound := none }
    match ringOf s1 g.core r with
    | none => engFault s1 g1 c .none (0x11, 0, 0)
    | some x =>
      if x.keep = false ∨ n = 0 then engFault s1 g1 c .none (0x11, 0, 0)
      else if ringRead (engineOf s1 g.core) r bound then issued s1 { g with wait := .unit, bound := some bound }
      else if (x.entries.filter REntry.ready).length < n then engFault s1 g1 c .none (0x11, 0, 0)
      else complete (modRing s1 g.core r fun y => { y with entries := takeReady n y.entries, head := y.head + n }) g1 c .none

/-- A copy that has not been abandoned holds a claim on a ring of a block (R294): entries of it that it has not made ready (R292). -/
def ringClaimed (s : State) (block r : Nat) : Bool :=
  match blockRing s block r with
  | none => false
  | some ring => s.copies.any fun c => c.toRing && c.ringId == r && c.ranks.any fun x => x.2 == block && !(c.unready x.1 ring.esize).isEmpty

/-- The operations that a reset of a ring cuts: those started with chunks that have not completed (R287).
DEDUCED, log entry 26 (unsafe). -/
def cutCmd (r : Nat) (c : EngCmd) : EngCmd :=
  if c.started && c.body.rings.contains r && (decide (0 < c.chunksLeft) || c.firing) then { c with cuts := c.cuts ++ [r] } else c

/-- R294: discards every entry of a ring and completes the operations that wait on it.
DEDUCED, log entry 29 (unsafe). -/
def execRingRelRst (r : Nat) (s : State) : Step :=
  engine s .none [] [] fun s1 g c _ =>
    if ringClaimed s1 g.block r then engFault s1 g c .none (0x11, 0, 0)
    else
      let s2 := modRing s1 g.core r fun x => { x with entries := [], head := 0 }
      complete (modEngine s2 g.core fun e => { e with cmds := e.cmds.map (cutCmd r) }) g c .none

/-- The status word of a ring (R295); an undefined ring reads 0. DEDUCED, log entry 29 (unsafe). -/
def ringWord : Option Ring → Word
  | none => 0
  | some x => BitVec.ofNat 32 (x.head % 256 * 2 ^ 24 + (if x.cut then 2 ^ 20 else 0) + (if x.keep then 2 ^ 19 else 0) + 2 ^ 18
      + (x.entries.filter fun e => !e.ready && !e.dead).length * 2 ^ 9 + (x.entries.filter REntry.ready).length)

/-- R295: a ring's status. -/
def execRingStat (r d : Nat) (s : State) : Step :=
  engine s .a [.reg d] [] fun s1 g c _ =>
    complete s1 (mapLanes (activeMask c) (fun _ t => wrReg g.level t d (ringWord (ringOf s1 g.core r))) g) c .a

/-- The selector of a table load (R300): scale memory or not, first entry or offset, count, source bytes. -/
def loadSel (sel : Nat) : Option (Bool × Nat × Nat × Nat) :=
  if bit sel 31 then
    let off := bits sel 0 14
    let n := bits sel 14 15
    if 1 ≤ n ∧ n ≤ 16384 ∧ off % 16 = 0 ∧ n % 16 = 0 ∧ off + n ≤ 16384 ∧ bits sel 29 2 = 0 then some (true, off, n, n) else none
  else
    let first := bits sel 0 8
    let n := bits sel 8 9
    if 1 ≤ n ∧ first + n ≤ 256 ∧ bits sel 17 14 = 0 then some (false, first, n, 4 * n) else none

/-- R300: queues a load of the lattice table or of scale memory. DEDUCED, log entry 23 (unsafe). -/
def execCbld (b a : Nat) (s : State) : Step :=
  engine s .b [] [.pair a, .reg b] fun s1 g c k =>
    let sel := loadSel (rdReg g.level (thr g k) b).toNat
    match ownRange s1 g (laneAddr g k a) ((sel.map fun x => x.2.2.2).getD 0) true with
    | .error f => engFault s1 g c .b f
    | .ok l =>
      match sel with
      | none => engFault s1 g c .b (0x11, 0, 0)
      | some (scale, first, n, _) => enterQueue s1 g c k (.load scale first n l.off)

/-! ### Events -/

/-- Granules of cells: four to a granule. -/
def cellGranules (first n : Nat) : List Nat := granules (4 * first) (4 * n)

/-- An engine read in a command fails (R372): the launch ends, and the command with it.
DESIGN CHOICE, log entry 24 (safe). -/
def cmdError (s : State) (core : Nat) (c : EngCmd) : State :=
  sweepClusters (engineError (dropCmd s core c.id) c.launch)

/-- Zero the cells of tiles; what is written whole is no longer poisoned. -/
def zeroTiles (s : State) (core : Nat) (tiles : List Nat) : State :=
  tiles.foldl (fun t i => clearPoison (modEngine t core fun e => { e with acc := zeroCells e.acc (i * tileCells) tileCells })
    core 0 (cellGranules (i * tileCells) tileCells)) s

/-- Bytes that a drain puts in its block's scratchpad; a carve may have cut it shorter since the descriptor was checked.
DEDUCED, log entry 27 (unsafe). -/
def drainWrite (s : State) (block off : Nat) (bs : List Byte) : State :=
  writeBytes s ⟨.scratch block, off⟩ (bs.take ((spaceOf s (.scratch block)).size - off))

/-- A drain reads its cells, converts them and writes them (R296, R297). DEDUCED, log entry 27 (unsafe). -/
def startDrain (s : State) (core : Nat) (c : EngCmd) (x : DrainArgs) : State :=
  let e := engineOf s core
  let first := x.tile * tileCells
  let n := x.rows * x.cols
  if storePoisoned e 0 (cellGranules first n) then cmdError s core c
  else
    let (bs, scales, f) := drainOut x e.acc
    let s1 := match x.ring with
      | some r => fillRing s core c.block r bs
      | none => drainWrite s c.block x.dst bs
    let s2 :=
      if !x.mx then s1
      else if x.scaleMem then
        clearPoison (modEngine s1 core fun e => { e with scale := wrBytes e.scale x.sdst scales }) core 1 (wholeGranules x.sdst scales.length)
      else drainWrite s1 c.block x.sdst scales
    let s3 := if bit x.mode 4 then modEngine s2 core fun e => { e with acc := zeroCells e.acc first n } else s2
    modCmdOf s3 core c.id fun y => { y with started := true, acted := true, aflags := f }

/-- A table load reads its source, and its flag falls (R300). -/
def startLoad (s : State) (core : Nat) (c : EngCmd) (scale : Bool) (count src : Nat) : State :=
  let n := if scale then count else 4 * count
  let l : Loc := ⟨.scratch c.block, src⟩
  if poisonedAt s l n then cmdError (dropFlag s c) core c
  else modCmdOf (dropFlag s c) core c.id fun y => { y with started := true, acted := true, data := readBytes s l n, flag := none }

/-- R285: a queued command starts. Focus: core, cmd. -/
def execEngineCommandStart (s : State) : Host.Outcome State Fault Refusal :=
  let core := s.focus.headD 0
  match (startable (engineOf s core)).find? fun c => c.id == s.focus.getD 1 0 with
  | none => .next s
  | some c =>
    match c.body with
    | .mma x =>
      let s1 := if x.zero then zeroTiles s core (tilesFrom x.tile (x.m * x.n)) else s
      .next (modCmdOf s1 core c.id fun y => { y with started := true })
    | .drain x => .next (startDrain s core c x)
    | .zero _ => .next (modCmdOf s core c.id fun y => { y with started := true })
    | .load scale _ n src => .next (startLoad s core c scale n src)

/-- A dense product of some gang waits for the array of a core (R261). -/
def denseWaits (s : State) (core : Nat) : Bool := s.gangs.any fun g => g.core == core && wantsArray s g

/-- Clks in which nothing enters the array at a change of mode, and clks after a K-chunk for which waiting dense products come before
the next (R261). -/
def modeGap : Nat := 8
def denseSpan : Nat := 16

/-- A clk lies within a span of clks after another. -/
def within (n : Nat) (since : Option Nat) (now : Nat) : Bool := (since.map fun t => decide (now ≤ t + n)).getD false

/-- The chunk that may fire now: its entries are ready, the array is free and has changed its mode, and no dense product is due before
it (R261, R285). DEDUCED, log entry 19 (unsafe). -/
def firable (s : State) (core : Nat) : Option EngCmd :=
  let e := engineOf s core
  let now := clkOf s core
  if e.busy || within modeGap e.lastDense now || (denseWaits s core && within denseSpan e.lastChunk now) then none
  else e.cmds.find? (chunkReady e)

/-- The operand bytes of a chunk: A's entry, unless A comes from tiles, then B's (R285). -/
def chunkData (s : State) (c : EngCmd) (x : MmaArgs) (a : Option Nat) (b : Nat) : List Byte :=
  let q := ((blockOf s c.block).map Block.queue).getD []
  ((a.map fun o => rdBytes q o (entryBytesOf x.afmt (x.m * x.kc))).getD []) ++ rdBytes q b (entryBytesOf x.bfmt (x.n * x.kc))

/-- The granules of scale memory that n K-blocks of one side read, from a K-block on (R278). -/
def scaleGranules (mode base rows kb n : Nat) : List Nat :=
  if mode = 0 then [] else (List.range n).flatMap fun i => granules (base + scaleGroup mode (kb + i) * rows) rows

/-- The granules of the lattice table that packed CB2 codes read (R164). -/
def codeGranules (bs : List Byte) : List Nat := (List.range (bs.length / 2)).map fun n => leAt bs (2 * n) 2 / 1024

/-- A granule that a chunk reads is poisoned (R372): of queue storage, of the cells, of the scales of its K-blocks, of the lattice
table at its codes. -/
def chunkPoisoned (e : Engine) (c : EngCmd) (x : MmaArgs) (a : Option Nat) (b : Nat) (data : List Byte) : Bool :=
  let blocks := x.kc / 32
  storePoisoned e 3 ((a.map fun o => granules o (entryBytesOf x.afmt (x.m * x.kc))).getD [])
    || storePoisoned e 3 (granules b (entryBytesOf x.bfmt (x.n * x.kc)))
    || storePoisoned e 0 (cellGranules (x.tile * tileCells) (x.m * x.n))
    || (match x.tileA with
        | some t => (List.range x.m).any fun i =>
            storePoisoned e 0 (cellGranules (t * tileCells + i * (x.kc * x.ksteps) + c.chunk * x.kc) x.kc)
        | none => false)
    || storePoisoned e 1 (scaleGranules x.scale x.ascale x.m (c.chunk * blocks) blocks)
    || storePoisoned e 1 (scaleGranules x.scale x.bscale x.n (c.chunk * blocks) blocks)
    || (x.bfmt == 12 && storePoisoned e 2 (codeGranules (data.drop ((a.map fun _ => entryBytesOf x.afmt (x.m * x.kc)).getD 0))))
    || (x.afmt == 12 && a.isSome && storePoisoned e 2 (codeGranules (data.take (entryBytesOf x.afmt (x.m * x.kc)))))

/-- R285: a K-chunk fires, and takes its operands from its entries. Focus: core. -/
def execChunkFire (s : State) : Host.Outcome State Fault Refusal :=
  let core := s.focus.headD 0
  match firable s core with
  | none => .next s
  | some c =>
    match c.body with
    | .mma x =>
      let e := engineOf s core
      match chunkEntries e x c.chunk with
      | none => .next s
      | some (a, b) =>
        let data := chunkData s c x a b
        if chunkPoisoned e c x a b data then .next (cmdError s core c)
        else .next (modCmdOf s core c.id fun y => { y with firing := true, data := data })
    | _ => .next s

/-- The head of a consume-mode ring advances past the entries of a chunk (R285), unless the ring was reset meanwhile.
DEDUCED, log entry 26 (unsafe). -/
def advanceRing (core : Nat) (cuts : List Nat) (s : State) (r : Nat) : State :=
  if cuts.contains r then s
  else modRing s core r fun x => if x.keep then x else { x with entries := x.entries.tail, head := x.head + 1 }

/-- R285: a fired K-chunk is folded (R276), and the heads of consume-mode rings advance. Focus: core. -/
def execKChunkComplete (s : State) : Host.Outcome State Fault Refusal :=
  let core := s.focus.headD 0
  match (engineOf s core).cmds.find? EngCmd.firing with
  | none => .next s
  | some c =>
    match c.body with
    | .mma x =>
      let base := s.fresh
      let s0 := if x.tileA.isSome ∧ x.afmt = 12 then { s with fresh := s.fresh + x.sourceCells + 1 } else s
      let (acc, f) := foldChunk x (engineOf s core) (fun n => Config.freeNat (base + n)) c.chunk c.data
      let s1 := modEngine s0 core fun e => { e with acc := acc, lastChunk := some (clkOf s0 core) }
      let s2 := modCmdOf s1 core c.id fun y => { y with firing := false, chunk := y.chunk + 1, data := [], aflags := y.aflags ||| f }
      .next (c.body.rings.foldl (advanceRing core c.cuts) s2)
    | _ => .next s

/-- The gang of a command, as the replay log names it; it may have ended. -/
def cmdGang (s : State) (core : Nat) (c : EngCmd) : Gang :=
  let b := blockOf s c.block
  { id := c.gang, launch := c.launch, core := core, slot := none, nregs := 0, threads := [], live := 0, frontier := [],
    block := c.block, rank := (b.map Block.rank).getD 0, index := c.index, gate := c.gate,
    cluster := ((b.bind fun k => clusterOf s k.clusterId).map Cluster.index).getD 0 }

/-- The gate at which a command's arrival waits, if it does (R399, R401). -/
def arrivalGate (s : State) (core : Nat) (c : EngCmd) : Option UnitId :=
  match c.body.bar.bind fun off => unitAt s (cmdGang s core c) ⟨.scratch c.block, off⟩ with
  | none => none
  | some u => if admits s (cmdGang s core c) u = .waits then some u else none

/-- A command that is done waits in its queue: its arrival is not in turn (R286). -/
def arrivalWaits (s : State) (core : Nat) (c : EngCmd) : Bool := !arrivalInTurn (engineOf s core) c

/-- A command completes, unless its arrival is held at a gate: it waits there as any operation does (R402). -/
def orJoinGate (s : State) (core : Nat) (c : EngCmd) (k : State) : State :=
  match arrivalGate s core c with
  | none => k
  | some u => modCmdOf (needLog s (cmdGang s core c)) core c.id fun y => { y with gate := joinGate s c.launch core u y.gate }

/-- The engine's arrival at a barrier of its block (R286), through the unit of its bank (R399); at the end of the replay
log its gang is to stop (R402), with the counts it ended with if it has ended. -/
def engineArrive (s : State) (core : Nat) (c : EngCmd) (off : Nat) : State :=
  let l : Loc := ⟨.scratch c.block, off⟩
  let gg := cmdGang s core c
  let act := fun (t : State) => if off + 16 ≤ (spaceOf t l.place).size then (barArrive t l false).1 else t
  match unitAt s gg l with
  | none => act s
  | some u =>
    match admits s gg u with
    | .error va => endLaunch s c.launch 9 0x60 0 va
    | .beyond =>
      match gangOf s c.gang with
      | some g => modGang (act (gangDiverges s g 7 u.word)) c.gang fun x => { x with diverges := some (7, u.word, c.pc) }
      | none =>
        let done := ((launchD s c.launch).finals.find? fun x => x.1 == gangLogId s gg).getD (0, 0, 0, 0)
        act (diverge s c.launch core (gangBytes gg) 7 (gangLogId s gg) done.2.1 done.2.2.1 done.2.2.2 u.word)
    | _ => act (admitted s gg u)

/-- A command completes (R280, R286, R296): its flags join the elected thread's, its arrival is made, and it leaves the
queue. -/
def completeCmd (s : State) (core : Nat) (c : EngCmd) (bar : Option Nat) : State :=
  let s1 := modGang s c.gang fun g => if inMask g.live c.lane then modThread g c.lane fun t => orFlags t c.aflags else g
  let s2 := match bar with
    | some off => engineArrive s1 core c off
    | none => s1
  sweepClusters (dropCmd s2 core c.id)

/-- R286: an operation completes; one that a reset cut sets the ring's cut bit. Focus: core, cmd. -/
def execMmaComplete (s : State) : Host.Outcome State Fault Refusal :=
  let core := s.focus.headD 0
  match cmdOf s core (s.focus.getD 1 0) with
  | none => .next s
  | some c =>
    match c.body with
    | .mma x =>
      if !c.arrayDone || arrivalWaits s core c then .next s
      else
        let s1 := if c.chunk < x.ksteps then c.cuts.foldl (fun t r => modRing t core r fun y => { y with cut := true }) s else s
        .next (orJoinGate s core c (completeCmd s1 core c x.bar))
    | _ => .next s

/-- R296: a drain completes. Focus: core, cmd. -/
def execDrainComplete (s : State) : Host.Outcome State Fault Refusal :=
  let core := s.focus.headD 0
  match cmdOf s core (s.focus.getD 1 0) with
  | none => .next s
  | some c =>
    match c.body with
    | .drain x => .next (if c.started && !arrivalWaits s core c then orJoinGate s core c (completeCmd s core c x.bar) else s)
    | _ => .next s

/-- R298: the tiles of a zeroing are zero. Focus: core, cmd. -/
def execMzeroComplete (s : State) : Host.Outcome State Fault Refusal :=
  let core := s.focus.headD 0
  match cmdOf s core (s.focus.getD 1 0) with
  | none => .next s
  | some c =>
    match c.body with
    | .zero m => .next (if c.started then completeCmd (zeroTiles s core (maskTiles m)) core c none else s)
    | _ => .next s

/-- Entries of a table replaced whole (R300). -/
def putEntries (m : FMap Word) (first : Nat) : List Nat → List Byte → FMap Word
  | [], _ => m
  | i :: is, bs => putEntries (fset m (first + i) (BitVec.ofNat 32 (leAt bs (4 * i) 4)) 0) first is bs

/-- R300: the last byte of a load is in its table. Focus: core, cmd. -/
def execCbldComplete (s : State) : Host.Outcome State Fault Refusal :=
  let core := s.focus.headD 0
  match cmdOf s core (s.focus.getD 1 0) with
  | none => .next s
  | some c =>
    match c.body with
    | .load scale first n _ =>
      if !c.started then .next s
      else if scale then
        .next (completeCmd (clearPoison (modEngine s core fun e => { e with scale := wrBytes e.scale first c.data }) core 1
          (wholeGranules first n)) core c none)
      else
        .next (completeCmd (clearPoison (modEngine s core fun e => { e with lattice := putEntries e.lattice first (List.range n) c.data }) core 2
          (wholeGranules (4 * first) (4 * n))) core c none)
    | _ => .next s

end Sys2Proof.Machine
end

