-- ==== Sys2Proof/Machine/Approx.lean ====
section
/-! DEFINITION. The approximations of R175 and R176. The pattern is fixed for the part and not published: it is the free
constant `Config.approx`, taken wherever it lies within the bound of R176, and the correctly rounded result elsewhere.
Exact results and special cases are computed. Exact values are enclosed by fixed-point numbers whose error is far below
every bound. -/

namespace Sys2Proof.Machine

/-- π × 2^400 and ln 2 × 2^300, rounded down. -/
def piFix : Int :=
  0x3243f6a8885a308d313198a2e03707344a4093822299f31d0082efa98ec4e6c89452821e638d01377be5466cf34e90c6cc0ac
def ln2Fix : Int := 0xb17217f7d1cf79abc9e3b39803f2f6af40f343267298b62d8a0d175b8baafa2be7b876206de

/-- x × 2^e as an integer multiple of 2^−400, rounded down. -/
def scale400 (x e : Int) : Int := if 0 ≤ e + 400 then x * 2 ^ (e + 400).toNat else x / 2 ^ (-(e + 400)).toNat

/-- The bound on an approximation: ulps of the correctly rounded result, or an absolute power of two. -/
inductive Bound where
  | ulps (n : Nat)
  | absolute (e : Int)
  deriving DecidableEq, Repr

/-- The pattern p lies within the bound of every value that c × 2^k encloses, which is at most `err` units of 2^k away; R is the
correctly rounded result. The two units more are what the integers of `scale400` drop. DESIGN CHOICE, log entry 2 (safe). -/
def withinBound (p R : Nat) (c k err : Int) (b : Bound) : Bool :=
  match unpack fp32 p, unpack fp32 R with
  | .fin n m e, .fin _ _ re =>
    let v := scale400 (if n then -(m : Int) else m) e
    let lim := match b with
      | .ulps u => scale400 u re
      | .absolute x => scale400 1 x
    decide ((v - scale400 c k).natAbs + scale400 err k + 2 ≤ lim)
  | _, _ => false

/-- The result near c × 2^k, inexact: the part's pattern if it is within the bound, else the correctly rounded one; the
flags of rounding, nx among them (R166, R167, R176). -/
def approxNear (fn : Nat) (a : Word) (c k err : Int) (b : Bound) : Nat × Word :=
  let (R, fl) := fpRound fp32 0 (decide (c < 0)) c.natAbs k true
  let p := (Config.approx fn a).toNat
  (if withinBound p R c k err b then p else R, fl ||| flNX)

/-- R176: 1/a. -/
def fpRcp (a : Word) : Nat × Word :=
  match unpack fp32 a.toNat with
  | .nan s => (fp32.cnan, flag s flNV)
  | .inf n => (signed fp32 n 0, 0)
  | .fin n m e =>
    if m = 0 then (signed fp32 n fp32.inf, flDZ)
    else if isPow2 m then fpRound fp32 0 n 1 (-((Nat.log2 m : Int) + e))
    else
      let c : Int := 2 ^ 124 / m
      approxNear 0 a (if n then -c else c) (-124 - e) 1 (.ulps 1)

/-- R176: 1/√a. -/
def fpRsqrt (a : Word) : Nat × Word :=
  match unpack fp32 a.toNat with
  | .nan s => (fp32.cnan, flag s flNV)
  | .inf n => if n then (fp32.cnan, flNV) else (0, 0)
  | .fin n m e =>
    if m = 0 then (signed fp32 n fp32.inf, flDZ)
    else if n then (fp32.cnan, flNV)
    else if isPow2 m && ((Nat.log2 m : Int) + e) % 2 == 0 then fpRound fp32 0 false 1 (-(((Nat.log2 m : Int) + e) / 2))
    else
      let odd := e % 2 != 0
      let x := if odd then 2 * m else m
      approxNear 1 a (isqrt (2 ^ 200 / x)) (-100 - (if odd then e - 1 else e) / 2) 2 (.ulps 1)

/-- Sum of a series: term × x / 2^sc / (divisor at i), from i on. -/
def series (x sc : Int) (d : Int → Int) : Nat → Int → Int → Int → Int
  | 0, _, _, acc => acc
  | n + 1, i, t, acc => series x sc d n (i + 1) (t * x / sc / d i) (acc + t)

/-- 2^f for f in units of 2^−300, f below 2^300. -/
def exp2Fix (f : Int) : Int := series (f * ln2Fix / 2 ^ 300) (2 ^ 300) (fun i => i) 70 1 (2 ^ 300) 0

/-- R176: 2^a. -/
def fpExp2 (a : Word) : Nat × Word :=
  match unpack fp32 a.toNat with
  | .nan s => (fp32.cnan, flag s flNV)
  | .inf n => if n then (0, 0) else (fp32.inf, 0)
  | .fin neg m e =>
    let x := if neg then -(m : Int) else m
    let fx := x * 2 ^ (e + 300).toNat
    let n := sat (fx / 2 ^ 300) (-1100) 1100
    if m == 0 || 0 ≤ e || m % 2 ^ (-e).toNat == 0 then fpRound fp32 0 false 1 n
    else approxNear 2 a (exp2Fix (fx % 2 ^ 300)) (n - 300) 4096 (.ulps 2)

/-- Odd powers of z over their exponents: atanh z, in units of 2^−300. -/
def atanhFix (z : Int) : Nat → Int → Int → Int
  | 0, _, _ => 0
  | n + 1, i, t => t / (2 * i + 1) + atanhFix z n (i + 1) (t * z / 2 ^ 300 * z / 2 ^ 300)

/-- R176: log2 a. -/
def fpLog2 (a : Word) : Nat × Word :=
  match unpack fp32 a.toNat with
  | .nan s => (fp32.cnan, flag s flNV)
  | .inf n => if n then (fp32.cnan, flNV) else (fp32.inf, 0)
  | .fin n m e =>
    if m = 0 then (signed fp32 true fp32.inf, flDZ)
    else if n then (fp32.cnan, flNV)
    else
      let k := Nat.log2 m
      let ex : Int := (k : Int) + e
      if isPow2 m then fpRound fp32 0 (decide (ex < 0)) ex.natAbs 0
      else
        let z : Int := ((m : Int) - 2 ^ k) * 2 ^ 300 / ((m : Int) + 2 ^ k)
        let frac : Int := 2 * atanhFix z 100 0 z * 2 ^ 300 / ln2Fix
        approxNear 3 a (ex * 2 ^ 300 + frac) (-300) 4096 (if ex = 0 ∨ ex = -1 then .absolute (-22) else .ulps 2)

/-- sin r and cos r for r in units of 2^−400, from 0 to π/2. -/
def sinFix (r : Int) : Int := series (-(r * r / 2 ^ 400)) (2 ^ 400) (fun i => 2 * i * (2 * i + 1)) 50 1 r 0
def cosFix (r : Int) : Int := series (-(r * r / 2 ^ 400)) (2 ^ 400) (fun i => (2 * i - 1) * (2 * i)) 50 1 (2 ^ 400) 0

/-- sin of a non-negative finite value plus a number of quarter turns, in units of 2^−400. -/
def sinQuarter (m : Nat) (e : Int) (quarters : Int) : Int :=
  let x : Int := m * 2 ^ (e + 400).toNat
  let h : Int := piFix / 2
  let n := x * 2 / piFix + quarters
  let r := x - (x * 2 / piFix) * piFix / 2
  let r := if r < 0 then 0 else if h < r then h else r
  match (n % 4).toNat with
  | 0 => sinFix r
  | 1 => cosFix r
  | 2 => -sinFix r
  | _ => -cosFix r

/-- R176: sin a. -/
def fpSin (a : Word) : Nat × Word :=
  match unpack fp32 a.toNat with
  | .nan s => (fp32.cnan, flag s flNV)
  | .inf _ => (fp32.cnan, flNV)
  | .fin n m e =>
    if m = 0 then (a.toNat, 0)
    else approxNear 4 a (if n then -(sinQuarter m e 0) else sinQuarter m e 0) (-400) (2 ^ 140) (.absolute (-21))

/-- R176: cos a. -/
def fpCos (a : Word) : Nat × Word :=
  match unpack fp32 a.toNat with
  | .nan s => (fp32.cnan, flag s flNV)
  | .inf _ => (fp32.cnan, flNV)
  | .fin _ m e =>
    if m = 0 then (0x3F800000, 0)
    else approxNear 5 a (sinQuarter m e 1) (-400) (2 ^ 140) (.absolute (-21))

end Sys2Proof.Machine
end

