-- ==== Sys2Proof/Machine/FloatI.lean ====
section
/-! DEFINITION. Meanings of the floating-point and conversion instructions (R172 to R184). -/

namespace Sys2Proof.Machine

/-- A computed pattern and its flags, as a word. -/
def asWord (r : Nat × Word) : Word × Word := (BitVec.ofNat 32 r.1, r.2)

/-- R179: the two 16-bit elements computed independently, their flags joined. -/
def paired (f : Nat → Nat × Word) : Word × Word :=
  (BitVec.ofNat 32 ((f 0).1 % 65536 + 65536 * ((f 1).1 % 65536)), (f 0).2 ||| (f 1).2)

/-- Element i of a register of two halves. -/
def half (x : Word) (i : Nat) : Nat := bits x.toNat (16 * i) 16

/-- R172: `fadd`. -/
def execFadd (r b a d : Nat) (s : State) : Step := formFlags s .none b a d fun x y => asWord (fpAdd fp32 r x.toNat y.toNat)

/-- R172: `fsub`. -/
def execFsub (r b a d : Nat) (s : State) : Step := formFlags s .none b a d fun x y => asWord (fpSub fp32 r x.toNat y.toNat)

/-- R172: `fmul`. -/
def execFmul (r b a d : Nat) (s : State) : Step := formFlags s .none b a d fun x y => asWord (fpMul fp32 r x.toNat y.toNat)

/-- R172: d + a × b, one rounding. -/
def execFma (r b a d : Nat) (s : State) : Step := formAccFlags s .none b a d fun z x y => asWord (fpFma fp32 r z.toNat x.toNat y.toNat)

/-- R172: division. -/
def execFdiv (r b a d : Nat) (s : State) : Step := formFlags s .a b a d fun x y => asWord (fpDiv fp32 r x.toNat y.toNat)

/-- R172: square root. -/
def execFsqrt (r a d : Nat) (s : State) : Step := formRRFlags s .a a d fun x => asWord (fpSqrt fp32 r x.toNat)

/-- R173: minimum. -/
def execFmin (b a d : Nat) (s : State) : Step := formFlags s .none b a d fun x y => asWord (fpMinMax fp32 false x.toNat y.toNat)

/-- R173: maximum. -/
def execFmax (b a d : Nat) (s : State) : Step := formFlags s .none b a d fun x y => asWord (fpMinMax fp32 true x.toNat y.toNat)

/-- R175: bit 31 cleared. -/
def execFabs (a d : Nat) (s : State) : Step := formRR s .none a d fun x => x &&& 0x7FFFFFFF

/-- R175: bit 31 inverted. -/
def execFneg (a d : Nat) (s : State) : Step := formRR s .none a d fun x => x ^^^ 0x80000000

/-- R176: `frcp`. -/
def execFrcp (a d : Nat) (s : State) : Step := formRRFlags s .a a d fun x => asWord (fpRcp x)

/-- R176: `frsqrt`. -/
def execFrsqrt (a d : Nat) (s : State) : Step := formRRFlags s .a a d fun x => asWord (fpRsqrt x)

/-- R176: `fexp2`. -/
def execFexp2 (a d : Nat) (s : State) : Step := formRRFlags s .a a d fun x => asWord (fpExp2 x)

/-- R176: `flog2`. -/
def execFlog2 (a d : Nat) (s : State) : Step := formRRFlags s .a a d fun x => asWord (fpLog2 x)

/-- R176: `fsin`. -/
def execFsin (a d : Nat) (s : State) : Step := formRRFlags s .a a d fun x => asWord (fpSin x)

/-- R176: `fcos`. -/
def execFcos (a d : Nat) (s : State) : Step := formRRFlags s .a a d fun x => asWord (fpCos x)

/-- R175, R177: the one-hot class; a signalling NaN sets nv. -/
def execFclass (a d : Nat) (s : State) : Step :=
  formRRFlags s .none a d fun x => (BitVec.ofNat 32 (fpClass x.toNat), snanFlag [unpack fp32 x.toNat])

/-- R175: an integral value in the mode m. -/
def execFrint (m a d : Nat) (s : State) : Step := formRRFlags s .none a d fun x => asWord (fpRint m x.toNat)

/-- R175: the fractional part. -/
def execFfrac (a d : Nat) (s : State) : Step := formRRFlags s .none a d fun x => asWord (fpFrac x.toNat)

/-- R175: a with the sign of b. -/
def execFcopysign (b a d : Nat) (s : State) : Step := formRRR s .none b a d fun x y => (x &&& 0x7FFFFFFF) ||| (y &&& 0x80000000)

/-- R175: a × 2^b. -/
def execFscale (b a d : Nat) (s : State) : Step := formFlags s .none b a d fun x y => asWord (fpScale x.toNat y.toNat)

/-- R175: clamp to 0.0 to 1.0. -/
def execFsat (a d : Nat) (s : State) : Step := formRRFlags s .none a d fun x => asWord (fpSat x.toNat)

/-- R178: q[d] ← a eq b. -/
def execFcmpEq (b a d : Nat) (s : State) : Step := formCmpFlags s b a d fun x y => fpCompare 0 x.toNat y.toNat

/-- R178: q[d] ← a ne b. -/
def execFcmpNe (b a d : Nat) (s : State) : Step := formCmpFlags s b a d fun x y => fpCompare 1 x.toNat y.toNat

/-- R178: q[d] ← a lt b. -/
def execFcmpLt (b a d : Nat) (s : State) : Step := formCmpFlags s b a d fun x y => fpCompare 2 x.toNat y.toNat

/-- R178: q[d] ← a le b. -/
def execFcmpLe (b a d : Nat) (s : State) : Step := formCmpFlags s b a d fun x y => fpCompare 3 x.toNat y.toNat

/-- R178: q[d] ← a gt b. -/
def execFcmpGt (b a d : Nat) (s : State) : Step := formCmpFlags s b a d fun x y => fpCompare 4 x.toNat y.toNat

/-- R178: q[d] ← a ge b. -/
def execFcmpGe (b a d : Nat) (s : State) : Step := formCmpFlags s b a d fun x y => fpCompare 5 x.toNat y.toNat

/-- R178: q[d] ← a un b. -/
def execFcmpUn (b a d : Nat) (s : State) : Step := formCmpFlags s b a d fun x y => fpCompare 6 x.toNat y.toNat

/-- R178: q[d] ← a ord b. -/
def execFcmpOrd (b a d : Nat) (s : State) : Step := formCmpFlags s b a d fun x y => fpCompare 7 x.toNat y.toNat

/-- R179: `hadd2.bf16`. -/
def execHadd2Bf16 (r b a d : Nat) (s : State) : Step := formFlags s .none b a d fun x y => paired fun i => fpAdd bf16 r (half x i) (half y i)

/-- R179: `hsub2.bf16`. -/
def execHsub2Bf16 (r b a d : Nat) (s : State) : Step := formFlags s .none b a d fun x y => paired fun i => fpSub bf16 r (half x i) (half y i)

/-- R179: `hmul2.bf16`. -/
def execHmul2Bf16 (r b a d : Nat) (s : State) : Step := formFlags s .none b a d fun x y => paired fun i => fpMul bf16 r (half x i) (half y i)

/-- R179: `hfma2.bf16`, one rounding. -/
def execHfma2Bf16 (r b a d : Nat) (s : State) : Step := formAccFlags s .none b a d fun z x y => paired fun i => fpFma bf16 r (half z i) (half x i) (half y i)

/-- R179: `hmin2.bf16`. -/
def execHmin2Bf16 (b a d : Nat) (s : State) : Step := formFlags s .none b a d fun x y => paired fun i => fpMinMax bf16 false (half x i) (half y i)

/-- R179: `hmax2.bf16`. -/
def execHmax2Bf16 (b a d : Nat) (s : State) : Step := formFlags s .none b a d fun x y => paired fun i => fpMinMax bf16 true (half x i) (half y i)

/-- R179: `hadd2.f16`. -/
def execHadd2F16 (r b a d : Nat) (s : State) : Step := formFlags s .none b a d fun x y => paired fun i => fpAdd f16 r (half x i) (half y i)

/-- R179: `hsub2.f16`. -/
def execHsub2F16 (r b a d : Nat) (s : State) : Step := formFlags s .none b a d fun x y => paired fun i => fpSub f16 r (half x i) (half y i)

/-- R179: `hmul2.f16`. -/
def execHmul2F16 (r b a d : Nat) (s : State) : Step := formFlags s .none b a d fun x y => paired fun i => fpMul f16 r (half x i) (half y i)

/-- R179: `hfma2.f16`, one rounding. -/
def execHfma2F16 (r b a d : Nat) (s : State) : Step := formAccFlags s .none b a d fun z x y => paired fun i => fpFma f16 r (half z i) (half x i) (half y i)

/-- R179: `hmin2.f16`. -/
def execHmin2F16 (b a d : Nat) (s : State) : Step := formFlags s .none b a d fun x y => paired fun i => fpMinMax f16 false (half x i) (half y i)

/-- R179: `hmax2.f16`. -/
def execHmax2F16 (b a d : Nat) (s : State) : Step := formFlags s .none b a d fun x y => paired fun i => fpMinMax f16 true (half x i) (half y i)

/-- R184: two or four FP32 values to one word of narrow elements of w bits; `src` reads element i. -/
def packElems (n w : Nat) (f : Fmt) (mode : Nat) (sat_ : Bool) (src : Nat → Nat) : Nat × Word :=
  (List.range n).foldl (fun acc i =>
    let r := cvtToFloat f mode sat_ (unpack fp32 (src i))
    (acc.1 + r.1 % 2 ^ w * 2 ^ (w * i), acc.2 ||| r.2)) (0, 0)

/-- R184: the FP32 values of the narrow elements of a word, element i in bits 32i up. -/
def unpackElems (n w : Nat) (f : Fmt) (x : Nat) : Nat × Word :=
  (List.range n).foldl (fun acc i => (acc.1 + (widen f (bits x (w * i) w)).1 * 2 ^ (32 * i), acc.2 ||| (widen f (bits x (w * i) w)).2)) (0, 0)

/-- R72, R180 to R184: the 32 conversion forms. -/
def execCvt (f r s_ a d : Nat) (s : State) : Step :=
  let sat_ := s_ == 1
  let pkPair := fun (fm : Fmt) => issueLanes s .none [.reg d, .pair a] fun lv t =>
    let v := packElems 2 16 fm r sat_ fun i => bits (rdPair lv t a).toNat (32 * i) 32
    orFlags (wrReg lv t d (BitVec.ofNat 32 v.1)) v.2
  let pkQuad := fun (fm : Fmt) => issueLanes s .none [.reg d, .quad a] fun lv t =>
    let v := packElems 4 8 fm r sat_ fun i => bits (rdQuad t a) (32 * i) 32
    orFlags (wrReg lv t d (BitVec.ofNat 32 v.1)) v.2
  let upkPair := fun (fm : Fmt) => issueLanes s .none [.pair d, .reg a] fun lv t =>
    let v := unpackElems 2 16 fm (rdReg lv t a).toNat
    orFlags (wrPair lv t d (BitVec.ofNat 64 v.1)) v.2
  let upkQuad := fun (fm : Fmt) => issueLanes s .none [.quad d, .reg a] fun lv t =>
    let v := unpackElems 4 8 fm (rdReg lv t a).toNat
    orFlags (wrQuad t d v.1) v.2
  match f with
  | 0x18 => pkPair bf16
  | 0x19 => pkPair f16
  | 0x1A => pkQuad e4m3
  | 0x1B => pkQuad e5m2
  | 0x1C => upkPair bf16
  | 0x1D => upkPair f16
  | 0x1E => upkQuad e4m3
  | 0x1F => upkQuad e5m2
  | fn => formRRFlags s .none a d fun x => asWord (cvtScalar fn r sat_ x.toNat)

end Sys2Proof.Machine
end

