-- ==== Sys2Proof/Machine/Int.lean ====
section
/-! DEFINITION. Meanings of the integer, immediate, compare, predicate and gang instructions (R140 to R157). -/

namespace Sys2Proof.Machine

/-- R140: d ← wrap32(a + b). -/
def execAdd (b a d : Nat) (s : State) : Step := formRRR s .none b a d (fun x y => x + y)

/-- R140: d ← wrap32(a − b). -/
def execSub (b a d : Nat) (s : State) : Step := formRRR s .none b a d (fun x y => x - y)

/-- R140: signed minimum. -/
def execMin (b a d : Nat) (s : State) : Step := formRRR s .none b a d (minS)

/-- R140: signed maximum. -/
def execMax (b a d : Nat) (s : State) : Step := formRRR s .none b a d (maxS)

/-- R140: natural minimum. -/
def execMinn (b a d : Nat) (s : State) : Step := formRRR s .none b a d (minN)

/-- R140: natural maximum. -/
def execMaxn (b a d : Nat) (s : State) : Step := formRRR s .none b a d (maxN)

/-- R140: absolute value. -/
def execAbs (a d : Nat) (s : State) : Step := formRR s .none a d (absW)

/-- R140: negation. -/
def execNeg (a d : Nat) (s : State) : Step := formRR s .none a d (fun x => -x)

/-- R140: bitwise AND. -/
def execAnd (b a d : Nat) (s : State) : Step := formRRR s .none b a d (fun x y => x &&& y)

/-- R140: bitwise OR. -/
def execOr (b a d : Nat) (s : State) : Step := formRRR s .none b a d (fun x y => x ||| y)

/-- R140: bitwise XOR. -/
def execXor (b a d : Nat) (s : State) : Step := formRRR s .none b a d (fun x y => x ^^^ y)

/-- R140: a AND NOT b. -/
def execAndn (b a d : Nat) (s : State) : Step := formRRR s .none b a d (fun x y => x &&& ~~~y)

/-- R140: a OR NOT b. -/
def execOrn (b a d : Nat) (s : State) : Step := formRRR s .none b a d (fun x y => x ||| ~~~y)

/-- R140: bitwise NOT. -/
def execNot (a d : Nat) (s : State) : Step := formRR s .none a d (fun x => ~~~x)

/-- R140, R141: left shift. -/
def execShl (b a d : Nat) (s : State) : Step := formRRR s .none b a d (shlW)

/-- R140, R141: logical right shift. -/
def execShr (b a d : Nat) (s : State) : Step := formRRR s .none b a d (shrW)

/-- R140, R141: arithmetic right shift. -/
def execSar (b a d : Nat) (s : State) : Step := formRRR s .none b a d (sarW)

/-- R140: rotate left. -/
def execRol (b a d : Nat) (s : State) : Step := formRRR s .none b a d (rolW)

/-- R140: rotate right. -/
def execRor (b a d : Nat) (s : State) : Step := formRRR s .none b a d (rorW)

/-- R140: leading zero bits. -/
def execClz (a d : Nat) (s : State) : Step := formRR s .none a d (clzW)

/-- R140: trailing zero bits. -/
def execCtz (a d : Nat) (s : State) : Step := formRR s .none a d (ctzW)

/-- R140: set bits. -/
def execPopc (a d : Nat) (s : State) : Step := formRR s .none a d (popcW)

/-- R140: bit reversal. -/
def execBrev (a d : Nat) (s : State) : Step := formRR s .none a d (brevW)

/-- R142: low half of the product. -/
def execMul (b a d : Nat) (s : State) : Step := formRRR s .none b a d (fun x y => x * y)

/-- R142: high half of the signed product. -/
def execMulh (b a d : Nat) (s : State) : Step := formRRR s .none b a d (mulH)

/-- R142: high half of the natural product. -/
def execMulhn (b a d : Nat) (s : State) : Step := formRRR s .none b a d (mulHN)

/-- R142: d ← wrap32(d + a × b). -/
def execMad (b a d : Nat) (s : State) : Step := formAcc s .none b a d fun z x y => z + x * y

/-- R142: the exact signed product, as a pair. -/
def execMulD (b a d : Nat) (s : State) : Step := formWide64 s b a d mulD

/-- R143: signed quotient; a zero divisor sets idz. -/
def execDiv (b a d : Nat) (s : State) : Step := formFlags s .a b a d fun x y => (quoS x y, if y = 0 then 0x20 else 0)

/-- R143: natural quotient; a zero divisor sets idz. -/
def execDivn (b a d : Nat) (s : State) : Step := formFlags s .a b a d fun x y => (quoN x y, if y = 0 then 0x20 else 0)

/-- R143: signed remainder; a zero divisor sets idz. -/
def execRem (b a d : Nat) (s : State) : Step := formFlags s .a b a d fun x y => (remS x y, if y = 0 then 0x20 else 0)

/-- R143: natural remainder; a zero divisor sets idz. -/
def execRemn (b a d : Nat) (s : State) : Step := formFlags s .a b a d fun x y => (remN x y, if y = 0 then 0x20 else 0)

/-- R144: bit field, sign-extended. -/
def execBfe (b a d : Nat) (s : State) : Step := formRRR s .none b a d bfeS

/-- R144: bit field, zero-extended. -/
def execBfen (b a d : Nat) (s : State) : Step := formRRR s .none b a d bfeN

/-- R144: a field of a inserted into d. -/
def execBfi (b a d : Nat) (s : State) : Step := formAcc s .none b a d bfiW

/-- R142: pair add. -/
def execAddD (b a d : Nat) (s : State) : Step := formPPP s b a d fun x y => x + y

/-- R142: pair subtract. -/
def execSubD (b a d : Nat) (s : State) : Step := formPPP s b a d fun x y => x - y

/-- R142: pair left shift. -/
def execShlD (b a d : Nat) (s : State) : Step := formPPR s b a d shlDbl

/-- R142: pair right shift. -/
def execShrD (b a d : Nat) (s : State) : Step := formPPR s b a d shrDbl

/-- R145: d ← wrap32(a + sext(imm12, 12)). -/
def execAddi (i a d : Nat) (s : State) : Step := formRR s .none a d fun x => x + imm12S i

/-- R145: AND with the sign-extended immediate. -/
def execAndi (i a d : Nat) (s : State) : Step := formRR s .none a d fun x => x &&& imm12S i

/-- R145: OR with the zero-extended immediate. -/
def execOri (i a d : Nat) (s : State) : Step := formRR s .none a d fun x => x ||| BitVec.ofNat 32 i

/-- R145: XOR with the zero-extended immediate. -/
def execXori (i a d : Nat) (s : State) : Step := formRR s .none a d fun x => x ^^^ BitVec.ofNat 32 i

/-- R146: shift by an immediate amount. -/
def execShli (n a d : Nat) (s : State) : Step := formRR s .none a d fun x => shlW x (BitVec.ofNat 32 n)

/-- R146: shift by an immediate amount. -/
def execShri (n a d : Nat) (s : State) : Step := formRR s .none a d fun x => shrW x (BitVec.ofNat 32 n)

/-- R146: shift by an immediate amount. -/
def execSari (n a d : Nat) (s : State) : Step := formRR s .none a d fun x => sarW x (BitVec.ofNat 32 n)

/-- R147: the sign-extended 19-bit immediate. -/
def execMovi (i d : Nat) (s : State) : Step := formR s d fun _ => moviW i

/-- R147: bits 31:13 of d. -/
def execMovhi (i d : Nat) (s : State) : Step := formR s d fun x => movhiW x i

/-- R148: q[d] ← a eq b. -/
def execIcmpEq (b a d : Nat) (s : State) : Step := formCmp s b a d fun x y => x == y

/-- R148: q[d] ← a ne b. -/
def execIcmpNe (b a d : Nat) (s : State) : Step := formCmp s b a d fun x y => x != y

/-- R148: q[d] ← a lt b. -/
def execIcmpLt (b a d : Nat) (s : State) : Step := formCmp s b a d fun x y => decide (x.toInt < y.toInt)

/-- R148: q[d] ← a le b. -/
def execIcmpLe (b a d : Nat) (s : State) : Step := formCmp s b a d fun x y => decide (x.toInt ≤ y.toInt)

/-- R148: q[d] ← a gt b. -/
def execIcmpGt (b a d : Nat) (s : State) : Step := formCmp s b a d fun x y => decide (x.toInt > y.toInt)

/-- R148: q[d] ← a ge b. -/
def execIcmpGe (b a d : Nat) (s : State) : Step := formCmp s b a d fun x y => decide (x.toInt ≥ y.toInt)

/-- R148: q[d] ← a ltn b. -/
def execIcmpLtn (b a d : Nat) (s : State) : Step := formCmp s b a d fun x y => decide (x.toNat < y.toNat)

/-- R148: q[d] ← a len b. -/
def execIcmpLen (b a d : Nat) (s : State) : Step := formCmp s b a d fun x y => decide (x.toNat ≤ y.toNat)

/-- R148: q[d] ← a gtn b. -/
def execIcmpGtn (b a d : Nat) (s : State) : Step := formCmp s b a d fun x y => decide (x.toNat > y.toNat)

/-- R148: q[d] ← a gen b. -/
def execIcmpGen (b a d : Nat) (s : State) : Step := formCmp s b a d fun x y => decide (x.toNat ≥ y.toNat)

/-- R149: predicate logic. -/
def execQand (b a d : Nat) (s : State) : Step := formQQQ s b a d fun x y => x && y

/-- R149: predicate logic. -/
def execQor (b a d : Nat) (s : State) : Step := formQQQ s b a d fun x y => x || y

/-- R149: predicate logic. -/
def execQxor (b a d : Nat) (s : State) : Step := formQQQ s b a d fun x y => xor x y

/-- R149: predicate logic. -/
def execQandn (b a d : Nat) (s : State) : Step := formQQQ s b a d fun x y => x && !y

/-- R149: q[d] ← NOT q[a]. -/
def execQnot (a d : Nat) (s : State) : Step := formQQQ s 0 a d fun x _ => !x

/-- R149: q[d] ← v. -/
def execQset (v d : Nat) (s : State) : Step := formQQQ s 0 0 d fun _ _ => v == 1

/-- R149: q[d] ← q[a]. -/
def execQmov (a d : Nat) (s : State) : Step := formQQQ s 0 a d fun x _ => x

/-- R150: d[i] ← q[a + i]. -/
def execQpack (a d : Nat) (s : State) : Step := 
  issueLanes s .none [.reg d] fun lv t => wrReg lv t d (maskOf (lanes32.filter fun i => rdPred t (a + i)))

/-- R150: q[d + i] ← a[i]; the write to `q0` is discarded. -/
def execQunpack (a d : Nat) (s : State) : Step := 
  issueLanes s .none [.reg a] fun lv t => lanes32.foldl (fun u i => wrPred u (d + i) (inMask (rdReg lv t a) i)) t

/-- R151: d ← a where q[b] holds. -/
def execSel (b a d : Nat) (s : State) : Step := 
  issueLanes s .none [.reg d, .reg a] fun lv t => if rdPred t b then wrReg lv t d (rdReg lv t a) else t

/-- The lanes of a mask in which predicate a holds (R152). -/
def ballot (g : Gang) (A : Word) (a : Nat) : List Nat := (lanesOf A).filter fun l => rdPred (thr g l) a

/-- R152: OR of q[a] over the active lanes. -/
def execVoteAny (a d : Nat) (s : State) : Step := 
  issueGang s .none [] fun g A => mapLanes A (fun _ t => wrPred t d (!(ballot g A a).isEmpty)) g

/-- R152: AND of q[a] over the active lanes. -/
def execVoteAll (a d : Nat) (s : State) : Step := 
  issueGang s .none [] fun g A => mapLanes A (fun _ t => wrPred t d ((ballot g A a).length == countLanes A)) g

/-- R152: the number of active lanes in which q[a] holds. -/
def execVoteCnt (a d : Nat) (s : State) : Step := 
  issueGang s .none [.reg d] fun g A => mapLanes A (fun _ t => wrReg g.level t d (BitVec.ofNat 32 (ballot g A a).length)) g

/-- R152: the mask of the active lanes in which q[a] holds. -/
def execVoteBallot (a d : Nat) (s : State) : Step := 
  issueGang s .none [.reg d] fun g A => mapLanes A (fun _ t => wrReg g.level t d (maskOf (ballot g A a))) g

/-- The lane that a shuffle reads: the source lane if it is active, the own lane otherwise (R154). -/
def shflSource (A : Word) (l : Nat) (src : Int) : Nat :=
  if 0 ≤ src ∧ src ≤ 31 ∧ inMask A src.toNat then src.toNat else l

/-- R154: d ← a of the source lane that f gives from the lane and b. -/
def shuffle (b a d : Nat) (f : Nat → Nat → Int) (s : State) : Step :=
  issueGang s .none [.reg d, .reg a, .reg b] fun g A =>
    mapLanes A (fun l t => wrReg g.level t d (rdReg g.level (thr g (shflSource A l (f l (rdReg g.level t b).toNat))) a)) g

/-- R154: the lane b. -/
def execShflIdx (b a d : Nat) (s : State) : Step := shuffle b a d (fun _ y => (y : Int)) s

/-- R154: lane l − b. -/
def execShflUp (b a d : Nat) (s : State) : Step := shuffle b a d (fun l y => (l : Int) - y) s

/-- R154: lane l + b. -/
def execShflDn (b a d : Nat) (s : State) : Step := shuffle b a d (fun l y => (l : Int) + y) s

/-- R154: lane l XOR b. -/
def execShflXor (b a d : Nat) (s : State) : Step := shuffle b a d (fun l y => ((l ^^^ y : Nat) : Int)) s

/-- R155: a of the lane that b names in the lowest active lane. -/
def execBcast (b a d : Nat) (s : State) : Step := 
  issueGang s .none [.reg d, .reg a, .reg b] fun g A =>
    let k := lowest A
    let v := rdReg g.level (thr g (shflSource A k ((rdReg g.level (thr g k) b).toNat : Int))) a
    mapLanes A (fun _ t => wrReg g.level t d v) g

/-- The reduction of a list of values (R156). -/
def reduceWith (f : Word → Word → Word) : List Word → Word
  | [] => 0
  | x :: xs => xs.foldl f x

/-- R156: every active lane receives the reduction of a over the active lanes. -/
def reduce (a d : Nat) (f : Word → Word → Word) (s : State) : Step :=
  issueGang s .none [.reg d, .reg a] fun g A =>
    mapLanes A (fun _ t => wrReg g.level t d (reduceWith f ((lanesOf A).map fun l => rdReg g.level (thr g l) a))) g

/-- R156: `redux.add`. -/
def execReduxAdd (a d : Nat) (s : State) : Step := reduce a d (fun x y => x + y) s

/-- R156: `redux.min`. -/
def execReduxMin (a d : Nat) (s : State) : Step := reduce a d (minS) s

/-- R156: `redux.max`. -/
def execReduxMax (a d : Nat) (s : State) : Step := reduce a d (maxS) s

/-- R156: `redux.minn`. -/
def execReduxMinn (a d : Nat) (s : State) : Step := reduce a d (minN) s

/-- R156: `redux.maxn`. -/
def execReduxMaxn (a d : Nat) (s : State) : Step := reduce a d (maxN) s

/-- R157: the number of active lanes below each lane. -/
def execMrank (d : Nat) (s : State) : Step := 
  issueGang s .none [.reg d] fun g A =>
    mapLanes A (fun l t => wrReg g.level t d (BitVec.ofNat 32 ((lanesOf A).filter fun k => k < l).length)) g

end Sys2Proof.Machine
end

