-- ==== Sys2Proof/Machine/System.lean ====
section
/-! DEFINITION. Special registers (R63 to R65, R134, R135), and the meanings of `sread`, `swrite`, `tlb.inv` and
`dirty.harv` (R206 to R208). -/

namespace Sys2Proof.Machine

/-- `%cstat` of a core (R211). DEDUCED, log entry 55 (safe). -/
def cstat (s : State) (core : Nat) : Word :=
  let mine := s.copies.filter fun c => c.core == core && c.kind != .pf
  let stopped := fun (c : Copy) => match c.state with | .stopped _ _ _ _ => true | _ => false
  let chans := fun (p : Copy → Bool) => ((List.range 8).map fun n => if mine.any fun c => c.chan == n && p c then 2 ^ n else 0).sum
  BitVec.ofNat 32 ((128 - sharedUsed s core) * 65536 + chans stopped * 256 + chans fun _ => true)

/-- A histogram register (R388). On the clks on which a core holds no work every scheduler of it counts bin 0 and the reason
idle. -/
def histogram (s : State) (core n : Nat) : Word :=
  let i := n - 0x440
  let k := coreOf s core
  let quiet := BitVec.ofNat 32 (clkOf s core - k.histBase - k.histClks)
  if 0x4C0 ≤ n then 0
  else if i % 32 < 17 then fgetD k.helig (i / 32 * 32 + i % 32) 0 + if i % 32 = 0 then quiet else 0
  else fgetD k.hstall (i / 32 * 32 + (i % 32 - 17)) 0 + if i % 32 = 31 then quiet else 0

/-- A task of a launch that has been created and has not ended (R94). -/
def taskOpen (t : Task) : Bool := t.state == 1 || t.state == 2 || t.state == 3 || t.state == 4 || t.state == 6

/-- A work counter (R94). -/
def workCounter (s : State) (L : Launch) (n : Nat) : Word :=
  let j := fgetD s.jobs L.ctx {}
  BitVec.ofNat 32 <|
    if n = 0x500 then L.desc.gx * L.desc.gy * L.desc.gz - L.ended
    else if n = 0x501 then L.placed
    else if n = 0x502 then (s.tasks.filter fun t => t.launch == L.id && taskOpen t).length
    else if n = 0x503 then
      match L.node.bind fun x => graphOf s x.1 with
      | some gr => (gr.nodes.filter fun x => x.status.isNone).length
      | none => 0
    else if n = 0x504 then j.pend
    else if n = 0x505 then j.done
    else if n = 0x506 then j.fail
    else 0

/-- A field of a fault record, in the order of R63. -/
def recField (r : FaultRec) (i : Nat) : Word :=
  match i with
  | 0 => r.cause
  | 1 => r.pc
  | 2 => r.pch
  | 3 => r.loc
  | 4 => r.loch
  | 5 => r.lanes
  | _ => r.done

/-- Replace a field of a fault record; bits 31:9 of the cause are reserved (R358). -/
def setRecField (r : FaultRec) (i : Nat) (v : Word) : FaultRec :=
  match i with
  | 0 => { r with cause := v &&& 0x1FF }
  | 1 => { r with pc := v }
  | 2 => { r with pch := v }
  | 3 => { r with loc := v }
  | 4 => { r with loch := v }
  | 5 => { r with lanes := v }
  | _ => { r with done := v }

/-- The value of a special register as a lane's thread sees it (R25, R63, R94, R134, R358, R388). -/
def srValue (s : State) (g : Gang) (lane n : Nat) : Word :=
  let t := thr g lane
  let k := coreOf s g.core
  if n = 0 then BitVec.ofNat 32 lane
  else if n = 1 then BitVec.ofNat 32 g.index
  else if n = 2 then BitVec.ofNat 32 g.rank
  else if n = 3 then BitVec.ofNat 32 g.cluster
  else if n = 4 then BitVec.ofNat 32 (coreNum g.core)
  else if n = 5 then BitVec.ofNat 32 (coreNbhd g.core)
  else if n = 6 then BitVec.ofNat 32 (coreDie g.core)
  else if n = 7 then BitVec.ofNat 32 s.module
  else if n = 8 then g.task
  else if n = 0x100 then BitVec.ofNat 32 (clkOf s g.core)
  else if n = 0x101 then t.hiClk
  else if n = 0x102 then BitVec.ofNat 32 (timeOf s g.core)
  else if n = 0x103 then t.hiTime
  else if n = 0x200 then t.aflags
  else if n = 0x201 then t.amask
  else if n = 0x202 then BitVec.ofNat 32 g.level
  else if 0x210 ≤ n ∧ n ≤ 0x216 then recField g.rec1 (n - 0x210)
  else if 0x220 ≤ n ∧ n ≤ 0x226 then recField g.rec2 (n - 0x220)
  else if 0x300 ≤ n ∧ n ≤ 0x307 then fgetD k.cwp (n - 0x300) 0
  else if n = 0x308 then cstat s g.core
  else if n = 0x400 then BitVec.ofNat 32 g.nregs
  else if n = 0x401 then BitVec.ofNat 32 t.wbase
  else if n = 0x402 then BitVec.ofNat 32 g.retcnt
  else if n = 0x403 then t.hiRet
  else if n = 0x404 then BitVec.ofNat 32 g.sthash.toNat
  else if n = 0x405 then t.hiHash
  else if 0x440 ≤ n ∧ n ≤ 0x4FF then histogram s g.core n
  else if 0x500 ≤ n ∧ n ≤ 0x5FF then workCounter s (launchD s g.launch) n
  else if n = 0x600 then g.gstate
  else 0

/-- A read of a low word latches the high word for the thread (R64). -/
def latchHigh (s : State) (g : Gang) (n : Nat) (t : Thread) : Thread :=
  if n = 0x100 then { t with hiClk := BitVec.ofNat 32 (clkOf s g.core / 2 ^ 32) }
  else if n = 0x102 then { t with hiTime := BitVec.ofNat 32 (timeOf s g.core / 2 ^ 32) }
  else if n = 0x402 then { t with hiRet := BitVec.ofNat 32 (g.retcnt / 2 ^ 32 % 2 ^ 16) }
  else if n = 0x404 then { t with hiHash := BitVec.ofNat 32 (g.sthash.toNat / 2 ^ 32) }
  else t

/-- R134: a special register into a register of each active lane. -/
def execSread (r d : Nat) (s : State) : Step :=
  issueGang s .none [.reg d] fun g A =>
    mapLanes A (fun l t => wrReg g.level (latchHigh s g r t) d (srValue s g l r)) g

/-- A gang-wide register takes the value of the highest active lane (R135, R260, R358). -/
def srWriteGang (n : Nat) (v : Word) (g : Gang) : Gang :=
  if 0x210 ≤ n ∧ n ≤ 0x216 then { g with rec1 := setRecField g.rec1 (n - 0x210) v }
  else if 0x220 ≤ n ∧ n ≤ 0x226 then { g with rec2 := setRecField g.rec2 (n - 0x220) v }
  else if n = 0x600 then (if gstateOk v then { g with gstate := v } else g)
  else g

/-- A thread's own register (R169, R170). -/
def srWriteThread (n : Nat) (v : Word) (t : Thread) : Thread :=
  if n = 0x200 then { t with aflags := flagBits v } else if n = 0x201 then { t with amask := flagBits v } else t

/-- R135: a register of each active lane into a special register; read-only ones are not changed (R65). -/
def execSwrite (r a : Nat) (s : State) : Step :=
  issueGang s .none [.reg a] fun g A =>
    srWriteGang r (rdReg g.level (thr g (highest A)) a)
      (mapLanes A (fun _ t => srWriteThread r (rdReg g.level t a) t) g)

/-- What `tlb.inv` and `dirty.harv` act on: nothing, one range of addresses, or the whole context (R206). -/
inductive InvSet where
  | empty
  | range (lo n : Nat)
  | context
  deriving DecidableEq, Repr

/-- The entries of a context in a set. -/
def InvSet.has (k : InvSet) (ctx : Nat) (e : TlbEntry) : Bool :=
  match k with
  | .empty => false
  | .range lo n => e.overlaps ctx lo n
  | .context => e.ctx == ctx

/-- A range rounded out to 4 KiB. -/
def roundRange (va n : Nat) : InvSet :=
  if n = 0 then .empty else .range (va / 4096 * 4096) (roundUp (va + n) 4096 - va / 4096 * 4096)

/-- The copies of a thread that can still access memory (R207): those stopped by a fault have faulted.
DEDUCED, log entry 71 (unsafe). -/
def threadCopies (s : State) (gang lane : Nat) : Bool :=
  s.copies.any fun c => c.gang == gang && c.lane == lane && match c.state with | .stopped _ _ _ _ => false | _ => true

/-- An access of a context to an address in a set is outstanding. -/
def InvSet.holds (k : InvSet) (s : State) (ctx : Nat) (g : Gang) (f : Flight) : Bool :=
  (launchD s g.launch).ctx == ctx && f.loc.place == .phys && k.has ctx
    { die := 0, ctx := ctx, base := vaOf f.ea, size := f.size, leafAt := 0, leaf := 0 }

/-- `tlb.inv` on a set (R207): the entries go, and the accesses of the context that were translated through them are performed. -/
def invalidateSet (s : State) (k : InvSet) (ctx : Nat) : State :=
  drainWhere (invalidateWhere s (k.has ctx)) fun g f => k.holds s ctx g f

/-- `dirty.harv` on a set (R208). -/
def harvestSet (s : State) (k : InvSet) (ctx : Nat) : State := harvestWhere s (k.has ctx)

/-- The instruction under way takes effect after others of its gang's accesses have been performed. -/
def finishNow (s : State) (id : Nat) (c : ClauseRun) (cls : Cls) : State :=
  match gangOf s id with
  | some g => finish s g c cls
  | none => s

/-- The shared part of `tlb.inv` and `dirty.harv` (R206): once, with the operands of the lowest active lane; `waits` says
that the copies of the issuing thread come first, unless the set is empty. DEDUCED, log entry 71 (unsafe). -/
def invOp (s : State) (os : List Opnd) (addr : Option Nat) (set : Thread → Nat → Nat → InvSet) (waits : Bool)
    (act : State → InvSet → Nat → State) : Step :=
  issue s .none fun g c =>
    let l := lowest (activeMask c)
    match windowOnce g (activeMask c) [] os with
    | some (i, lanes) => faultAt s g c 0x03 (BitVec.ofNat 64 i) lanes 0
    | none =>
      let ea := (addr.map fun a => rdPair g.level (thr g l) a).getD 0
      if !canonical ea then failAt s g c .none 0x13 ea (bitMask l) 0
      else if addr.isSome && apertureOf ea != .global then failAt s g c .none 0x15 ea (bitMask l) 0
      else
        let k := set (thr g l) g.level (vaOf ea)
        if waits && k != .empty && threadCopies s g.id l then issued s { g with wait := .unit }
        else finishNow (act s k (launchD s g.launch).ctx) g.id c .none

/-- R206, R207: the entries of the page that holds the address: every buffered entry, of any size, whose page holds that byte.
DESIGN CHOICE, log entry 87 (unsafe). -/
def execTlbInvPg (a : Nat) (s : State) : Step := invOp s [.pair a] (some a) (fun _ _ va => .range va 1) true invalidateSet
/-- R207: the entries of a range. -/
def execTlbInvRng (b a : Nat) (s : State) : Step :=
  invOp s [.pair a, .reg b] (some a) (fun t lv va => roundRange va (rdReg lv t b).toNat) true invalidateSet
/-- R207: every entry of the context. -/
def execTlbInvCtx (s : State) : Step := invOp s [] none (fun _ _ _ => .context) true invalidateSet
/-- R208: the marks of the page that holds the address. -/
def execDirtyHarvPg (a : Nat) (s : State) : Step := invOp s [.pair a] (some a) (fun _ _ va => .range va 1) false harvestSet
/-- R208: the marks of a range. -/
def execDirtyHarvRng (b a : Nat) (s : State) : Step :=
  invOp s [.pair a, .reg b] (some a) (fun t lv va => roundRange va (rdReg lv t b).toNat) false harvestSet
/-- R208: the marks of the whole context. -/
def execDirtyHarvCtx (s : State) : Step := invOp s [] none (fun _ _ _ => .context) false harvestSet

end Sys2Proof.Machine
end

