-- ==== Sys2Proof/Machine/Tasks.lean ====
section
/-! DEFINITION. Meanings of the task and cell instructions (R106, R111, R332 to R348). -/

namespace Sys2Proof.Machine

/-- Stage 1 of a cell instruction of a lane (R333): windows, canonical form, alignment, the global window. -/
def checkCell (os : List Opnd) (a : Nat) (s : State) (g : Gang) (lane : Nat) : Except LaneFail Unit :=
  match laneWindow g lane os with
  | .error f => .error f
  | .ok _ =>
    match stage1 s g lane (laneAddr g lane a) 0 8 8 false false true with
    | .error f => .error f
    | .ok _ => .ok ()

/-- R336: the value of a cell; lanes whose cells hold none wait. -/
def execTake (a d : Nat) (s : State) : Step := unlessStopping s <| issueAccess s (.take a d) (checkCell [.pair a, .pair d] a)
/-- R341: a value into a cell. -/
def execResolve (b a : Nat) (s : State) : Step := issueAccess s (.resolve b a) (checkCell [.pair a, .pair b] a)
/-- R342: one more consumer of a cell. -/
def execRefAdd (a d : Nat) (s : State) : Step := issueAccess s (.refAdd a d) (checkCell [.pair a, .reg d] a)
/-- R342: one consumer of a cell fewer. -/
def execRefDrop (a d : Nat) (s : State) : Step := issueAccess s (.refDrop a d) (checkCell [.pair a, .reg d] a)
/-- R343: the state word of a cell. -/
def execProbe (a d : Nat) (s : State) : Step := issueAccess s (.probe a d) (checkCell [.pair a, .reg d] a)

/-- Read a task record where a lane's address leads: own scratchpad, private scratchpad or global window (R39, R334). -/
def readRecord (s : State) (g : Gang) (lane : Nat) (ra : Dbl) : State × Except LaneFail (List Byte) :=
  match stage1 s g lane ra 0 64 64 true false true with
  | .error f => (s, .error f)
  | .ok ea =>
    if apertureOf ea == .pooled && g.task == 0 && bits ea.toNat 20 4 != g.rank then (s, .error ⟨lane, 0x15, ea, 0⟩)
    else
      match arrive s g lane ea 64 { r := true } with
      | (s1, .error f) => (s1, .error f)
      | (s1, .ok t) => (s1, .ok (readBytes s1 t.loc 64))

/-- The task that a record describes, made by a gang (R25, R36, R37, R334). -/
def newTask (s : State) (g : Gang) (bs : List Byte) (isLazy : Bool) (index : Nat) : Task :=
  let die := coreDie g.core
  let nb := coreNbhd g.core
  let up := ((taskOf s g.task).map Task.depth).getD 0
  { die := die, nbhd := nb, index := index, gen := nextGen s die nb index, launch := g.launch,
    code := BitVec.ofNat 64 (leAt bs 0 8), frame := BitVec.ofNat 64 (leAt bs 8 8), state := if isLazy then 1 else 2,
    depth := up + 1, prio := bits (leAt bs 0x14 4) 4 3, lazy := isLazy, cell := BitVec.ofNat 64 (leAt bs 0x18 8),
    fp := leAt bs 0x20 4 % 2 ^ 20, parent := g.task, held := [0, 0, 0], order := s.nextId, origin := g.core,
    countsIn := !isLazy && g.task != 0, ordinal := (launchD s g.launch).spawnOrd, cluster := g.cluster }

/-- The faults of a record read, in the order of R334. -/
def recordFail (s : State) (g : Gang) (lane : Nat) (ra : Dbl) (bs : List Byte) (isLazy : Bool) : Option LaneFail :=
  if leAt bs 0 8 % 4 != 0 then some ⟨lane, 0x11, ra, 0⟩
  else if isLazy && leAt bs 0x18 8 == 0 then some ⟨lane, 0x11, ra, 0⟩
  else if 16 ≤ ((taskOf s g.task).map Task.depth).getD 0 then some ⟨lane, 0x31, ra, 0⟩
  else none

/-- The result cell of a new task, with checks 1 to 8 of R196 (R334): where it is, or nothing for no cell. -/
def resultCell (s : State) (g : Gang) (lane : Nat) (cell : Dbl) : State × Except LaneFail (Option Nat) :=
  if cell = 0 then (s, .ok none)
  else
    match stage1 s g lane cell 0 8 8 false false true with
    | .error f => (s, .error f)
    | .ok ea =>
      match arrive s g lane ea 8 { w := true, cell := true } with
      | (s1, .error f) => (s1, .error f)
      | (s1, .ok t) => (s1, .ok (some t.loc.off))

/-- The gate of a unit before an operation of several units: may it go, and does it diverge. -/
def gateCheck (s : State) (g : Gang) (u : Option UnitId) : Admit :=
  match u with
  | none => .go
  | some u => admits s g u

def passGate (s : State) (g : Gang) (u : Option UnitId) : State :=
  match u with
  | none => s
  | some u => admitted s g u

/-- A task comes into being (R329, R334): its cell names it, its record is written, its creator counts it; one of a launch that
is ending is reclaimed at once (R97, R345). -/
def bearTask (s : State) (g : Gang) (t : Task) (pa : Option Nat) : State :=
  let h := mkHandle s t
  let s1 := match pa with
    | none => s
    | some pa => dirtyAt (setCell s pa (payload 1 noWaiter h) (if t.lazy then cellSuspended else cellRunning)) g t.cell pa
  let s2 := addTask (modLaunch { s1 with nextId := s1.nextId + 1 } g.launch fun L => { L with spawnOrd := L.spawnOrd + 1 }) t
  let s3 := if t.countsIn then changeTask s2 g.task fun x => { x with join := x.join + 1 } else s2
  if (launchD s3 g.launch).ending.isSome then sweepTask s3 t else s3

/-- An operation beyond the end of the replay log: the first divergence, of kind 6 at the spawn counter and 7 at an
atomic unit (R401, R402). -/
def spawnBeyond (s : State) (g : Gang) (spawn cell : Option UnitId) : State × Option (Nat × Nat) :=
  let d := fun (kind word : Nat) =>
    (gangDiverges s g kind word, some (kind, word))
  if gateCheck s g spawn = .beyond then d 6 0
  else if gateCheck s g cell = .beyond then d 7 ((cell.map UnitId.word).getD 0)
  else (s, none)

/-- A cell can be reached now (R325). -/
def cellOpen (s : State) (pa : Nat) : Bool := linkOpen s pa channelRequest && linkOpen s pa channelResponse

/-- The part of a lane's spawn after its record has been read and a record number found: the cell's checks, the gates of the spawn
counter and of the cell's slice (R399), and the step at the home slice. A spawn past the end of the log opens every gate (R401, R402). -/
def spawnAt (s : State) (g : Gang) (lane : Nat) (t : Task) : State × SeqEnd :=
  match resultCell s g lane t.cell with
  | (s1, .error f) => (s1, .fail f)
  | (s1, .ok pa) =>
    let su := some (spawnUnit s1 (launchD s1 g.launch))
    let cu := pa.map sliceUnit
    if pa.any fun x => !cellOpen s1 x then (s, .busy)
    else match gateCheck s1 g su, gateCheck s1 g cu with
    | .error va, _ => (s1, .fail ⟨lane, 0x60, va, 0⟩)
    | .go, .error va => (s1, .fail ⟨lane, 0x60, va, 0⟩)
    | .waits, _ => (s1, .held (spawnUnit s1 (launchD s1 g.launch)))
    | .go, .waits => (s1, .held ((cu.getD ⟨0, 0⟩)))
    | _, _ =>
      let (s2, stop) := spawnBeyond s1 g su cu
      let s3 := passGate (passGate s2 g su) g cu
      if pa.any fun x => cellState s3 x != cellValue then (haltLater stop g.id ((g.clause.map instrPc).getD 0) s3, .fail ⟨lane, 0x11, t.cell, 0⟩)
      else match (if g.task = 0 ∨ pa = none then (s3, .ok ()) else appendHeld s3 g lane (mkHandle s3 t)) with
      | (s4, .error f) => (haltLater stop g.id ((g.clause.map instrPc).getD 0) s4, .fail f)
      | (s4, .ok _) =>
        let s5 := bearTask s4 g t pa
        (s5, .ok (if pa.isSome then hitsOf s5 g lane t.cell 8 true true else []) stop)

/-- The record of a lane's task, read and checked once (R39, R334): a lane that came to wait has it already. -/
def laneRecord (isLazy : Bool) (a : Nat) (s : State) (g : Gang) (lane : Nat) : State × Except LaneFail (List Byte) :=
  match g.record with
  | some (l, bs) => if l = lane then (s, .ok bs) else fresh
  | none => fresh
where
  /-- The record as it stands now. -/
  fresh : State × Except LaneFail (List Byte) :=
    match laneWindow g lane [.pair a] with
    | .error f => (s, .error f)
    | .ok _ =>
      match readRecord s g lane (laneAddr g lane a) with
      | (s1, .error f) => (s1, .error f)
      | (s1, .ok bs) =>
        match recordFail s1 g lane (laneAddr g lane a) bs isLazy with
        | some f => (s1, .error f)
        | none => (s1, .ok bs)

/-- The ordinal of the next spawn is one that the logs cannot name (R398). -/
def ordinalOver (L : Launch) : Bool := (L.desc.recording || L.desc.replaying) && decide (2 ^ 19 ≤ L.spawnOrd)

/-- What a gang keeps of a record while it waits. -/
def keepRecord (r : Option (Nat × List Byte)) (id : Nat) (x : State × SeqEnd) : State × SeqEnd :=
  match x with
  | (s, .ok hs st) => (modGang s id fun g => { g with record := none, gate := none }, .ok hs st)
  | (s, .fail f) => (modGang s id fun g => { g with record := none, gate := none }, .fail f)
  | (s, e) => (modGang s id fun g => { g with record := r }, e)

/-- One lane of `spawn` or `spawnl` (R334): an ordinal past the last faults whenever the lane comes to take it.
DEDUCED, log entry 50 (unsafe). -/
def spawnLane (isLazy : Bool) (a : Nat) (s : State) (g : Gang) (lane : Nat) : State × SeqEnd :=
  match laneRecord isLazy a s g lane with
  | (s1, .error f) => (s1, .fail f)
  | (s1, .ok bs) =>
    keepRecord (some (lane, bs)) g.id <|
      if ordinalOver (launchD s1 g.launch) then (s1, .fail ⟨lane, 0x11, 0, 0⟩)
      else match findRecord s1 (launchD s1 g.launch) g.core with
      | (s2, none) => (s2, .block 8 .record)
      | (s2, some i) => spawnAt s2 g lane (newTask s2 g bs isLazy i)

/-- R334: a task that starts at once, for each active lane. -/
def execSpawn (a : Nat) (s : State) : Step := issueSeq s .b (spawnLane false a)
/-- R334: a dormant task with its suspended cell, for each active lane. -/
def execSpawnl (a : Nat) (s : State) : Step := issueSeq s .b (spawnLane true a)

/-- `join` on a cell (R344): complete if it is VALUE, else the gang waits with a waiter record. -/
def joinCell (s : State) (g : Gang) (c : ClauseRun) (a : Nat) : State :=
  let l := lowest (activeMask c)
  match windowOnce g (activeMask c) [] [.pair a] with
  | some (i, lanes) => failAt s g c .none 0x03 (BitVec.ofNat 64 i) lanes 0
  | none =>
    match stage1 s g l (laneAddr g l a) 0 8 8 false false true with
    | .error f => failAt s g c .none f.cause f.loc (bitMask l) 0
    | .ok ea =>
      match arrive s g l ea 8 { r := true, cell := true } with
      | (s1, .error f) => failAt s1 g c .none f.cause f.loc (bitMask l) 0 f.colour
      | (s1, .ok t) =>
        if stopHeld s1 g (hitsOf s1 g l ea 8 false true) then { s with issuing := none }
        else gateOnce s1 g c t.loc fun s2 g2 =>
          if cellState s2 t.loc.off = cellValue then
            complete s2 g2 { c with hits := hitsOf s2 g2 l ea 8 false true } .none
          else blockAt (appendWaiter s2 g2 ea t.loc.off) g2 c .none (activeMask c) 5 (.cells false)

/-- R344: waits for the task's children, or for a cell. -/
def execJoin (a : Nat) (s : State) : Step :=
  unlessStopping s <| issue s .none fun g c =>
    if a = 0 then
      match taskOf s g.task with
      | none => failAt s g c .none 0x11 0 (activeMask c) 0
      | some t =>
        if recordPoisoned s g.task [1] then failAt (recordErrorAt s).2 g c .none 0x60 (recordErrorAt s).1 (activeMask c) 0
        else if t.join = 0 then complete s g c .none else blockAt s g c .none (activeMask c) 5 .joinZero
    else joinCell s g c a

/-- R346: a reclamation point and nothing else. -/
def execReclaim (s : State) : Step :=
  issue s .none fun g c =>
    if mustStop s g then stopGang (finish s g c .none) (completed g c .none) else finish s g c .none

/-- Some lease of the launch covers a byte (R90, R111). -/
def leased (L : Launch) (va : Nat) (demandOnly : Bool) : Bool :=
  (allLeases L).any fun l => decide (l.base ≤ va) && decide (va < l.base + l.size) && (!demandOnly || l.demand)

/-- The die that homes an address, for `migrate` (R111): translated without access or tag check.
DEDUCED, log entry 51 (unsafe). -/
def homeOf (s : State) (g : Gang) (lane : Nat) (a : Dbl) : State × Except LaneFail Nat :=
  let L := launchD s g.launch
  if !canonical a then (s, .error ⟨lane, 0x13, a, 0⟩)
  else if apertureOf a != .global then (s, .error ⟨lane, 0x15, a, 0⟩)
  else if !leased L (vaOf a) false then (s, .error ⟨lane, 0x12, a, 0⟩)
  else
    match translate s (.core g.core) L.ctx (vaOf a) with
    | (s1, .ok pa _) => (s1, .ok (pa / 2 ^ 46))
    | (s1, .fail 0x10 _) => (s1, .error ⟨lane, if leased L (vaOf a) true then 0x10 else 0x11, a, 0⟩)
    | (s1, .fail cause log) =>
      (match log with | some pa => errorResponse s1 (coreDie g.core) L.ctx pa a.toNat (some L.id) 2 | none => s1,
       .error ⟨lane, cause, a, 0⟩)

/-- R111: moves a task gang to the die that homes an address, or says why it stays. DEDUCED, log entry 51 (unsafe). -/
def execMigrate (a d : Nat) (s : State) : Step :=
  unlessStopping s <| issue s .none fun g c =>
    let l := lowest (activeMask c)
    let status := fun (u : State) (n : Nat) =>
      finish u (mapLanes (activeMask c) (fun _ t => wrReg g.level t d (BitVec.ofNat 32 n)) g) c .none
    if g.task = 0 ∨ g.level ≠ 0 then failAt s g c .none 0x11 0 (activeMask c) 0
    else
      match windowOnce g (activeMask c) [.reg d] [.pair a] with
      | some (i, lanes) => failAt s g c .none 0x03 (BitVec.ofNat 64 i) lanes 0
      | none =>
        match homeOf s g l (laneAddr g l a) with
        | (s1, .error f) => failAt s1 g c .none f.cause f.loc (bitMask l) 0
        | (s1, .ok home) =>
          if home = dieId s1 (coreDie g.core) then status s1 1
          else if home / 2 ≠ s1.module ∨ dieAllowed s1 (launchD s1 g.launch).desc (home % 2) = false then status s1 2
          else blockAt s1 g c .none (activeMask c) 10 (.landing (home % 2) d)

/-- Every operation that the gang has issued is done (R111). -/
def settled (s : State) (g : Gang) : Bool :=
  flagsClear g 0xFFF && g.completing.isEmpty && (outstanding g).isEmpty && !s.copies.any fun c => c.gang == g.id

/-- The cores of a die that admit an arriving gang (R110), in the order of R111. -/
def admitting (s : State) (die bytes : Nat) : List Nat :=
  (coresOfDie die).filter fun k => (landingGang s k).isNone && decide (bytes ≤ freeBytes s k)

/-- Where a gang that waits in `migrate` can go now. -/
def landingCore (s : State) (g : Gang) : Option (Nat × Nat) :=
  match g.wait with
  | .blocked _ (.landing die d) _ => if settled s g && g.slot.isSome && !mustStop s g then (admitting s die (gangBytes' s g)).head?.map fun k => (k, d) else none
  | _ => none

/-- R112: the state image of a migrating gang arrives, and the gang goes on there. Focus: gang. -/
def execMigrateMove (s : State) : Step :=
  let id := s.focus.headD 0
  match gangOf s id with
  | none => .next s
  | some g =>
    match landingCore s g, g.clause with
    | some (k, d), some c =>
      let g1 : Gang := mapLanes (activeMask c) (fun _ t => wrReg g.level t d 0) { g with core := k, slot := some .landing }
      let s1 := unparkTask (setGang (releaseWpts s id allLanes) { g1 with wait := .none }) g.task
      let s2 := complete s1 { g1 with wait := .none } c .none
      .next (landingMove (landingMove { s2 with issuing := s.issuing } k) g.core)
    | _, _ => .next s

end Sys2Proof.Machine
end

