-- ==== Sys2Proof/Machine/Wide.lean ====
section
/-! DEFINITION. Meanings of the WIDE instructions (R257 to R272), and the event that admits a dense product to the array
(R261). -/

namespace Sys2Proof.Machine

/-! ### Wide operands -/

/-- A wide operand is checked in every lane that has not exited, a per-lane operand in the active lanes (R257). -/
def checkedIn (A : Word) (l : Nat) : Opnd → Bool
  | .win _ => true
  | _ => inMask A l

/-- The window check of a WIDE instruction (R58, R257): the physical index that failed in the lowest failing lane, and the
failing lanes. DEDUCED, log entry 20 (unsafe). -/
def wideFail (g : Gang) (A : Word) (os : List Opnd) : Option (Nat × Word) :=
  let bad := fun l => windowBad g.level g.nregs (thr g l) (os.filter (checkedIn A l))
  match (liveLanes g).filter fun l => (bad l).isSome with
  | [] => none
  | l :: ls => some ((bad l).getD 0, maskOf (l :: ls))

/-- A WIDE instruction acts once for the gang (R258), after its window check. -/
def issueWide (s : State) (cls : Cls) (os : List Opnd) (k : Gang → ClauseRun → State) : Step :=
  issue s cls fun g c =>
    match wideFail g (activeMask c) os with
    | some (i, lanes) => faultAt s g c 0x03 (BitVec.ofNat 64 i) lanes 0
    | none => k g c

/-- The 2048-bit value of a wide pair (R257). -/
def rdWidePair (g : Gang) (n : Nat) : Nat := if n = 0 then 0 else rdWide g n + 2 ^ 1024 * rdWide g (n + 1)

/-- Write a wide pair modulo 2^2048; the pair field 0 discards it (R257, R264). -/
def wrWidePair (g : Gang) (n v : Nat) : Gang := if n = 0 then g else wrWide (wrWide g n v) (n + 1) (v / 2 ^ 1024)

/-- The slot state (R259): slot width, result width, signed. -/
def slotWidth (g : Gang) : Nat := bits g.gstate.toNat 0 7
def resultWidth (g : Gang) : Nat := bits g.gstate.toNat 8 6
def slotSigned (g : Gang) : Bool := bit g.gstate.toNat 16

/-- `val(x, k)`: signed or natural, as `%gstate` says. -/
def slotVal (g : Gang) (x k : Nat) : Int := if slotSigned g then sext x k else ((x % 2 ^ k : Nat) : Int)

/-! ### Dense products (R261, R264) -/

/-- The scheduler that a gang issues on; a gang in the landing slot issues on scheduler 0. -/
def schedOf (g : Gang) : Nat :=
  match g.slot with
  | some (.normal t _) => t
  | _ => 0

/-- The array admits dense products now (R261): no K-chunk is in it, none is due first, it has changed its mode, and no dense product
has entered it in this clk. DEDUCED, log entry 19 (unsafe). -/
def arrayOpen (s : State) (core : Nat) : Bool :=
  let e := engineOf s core
  let now := clkOf s core
  !e.busy && !within modeGap e.lastChunk now && e.lastDense != some now && (!e.waiting || within denseSpan e.lastChunk now)

/-- The array admits the next dense product of this gang: no other's turn has come (R261). -/
def denseTurn (s : State) (g : Gang) : Bool := ((engineOf s g.core).grant.map fun id => id == g.id).getD true

/-- A dense product enters the array (R261). -/
def enterArray (s : State) (g : Gang) : State :=
  modEngine s g.core fun e => { e with grant := none, lastDense := some (clkOf s g.core), lastServed := schedOf g }

/-- A dense product (R261, R264): it enters the array when that admits it, and does not issue before. -/
def dense (s : State) (b a d : Nat) (f : Gang → Nat) : Step :=
  issueWide s .a (widePair d ++ [.win a, .win b]) fun g c =>
    if arrayOpen s g.core && denseTurn s g then issued (enterArray s g) (completed (wrWidePair g d (f g)) c .a)
    else { s with issuing := none }

/-- R264: the signed product. -/
def execWmul (b a d : Nat) (s : State) : Step :=
  dense s b a d fun g => wrapN 2048 (sext (rdWide g a) 1024 * sext (rdWide g b) 1024)
/-- R264: the natural product. -/
def execWmuln (b a d : Nat) (s : State) : Step := dense s b a d fun g => rdWide g a * rdWide g b
/-- R264: the product added to the pair, modulo 2^2048. -/
def execWmac (b a d : Nat) (s : State) : Step :=
  dense s b a d fun g =>
    wrapN 2048 ((rdWidePair g d : Nat) + slotVal g (rdWide g a) 1024 * slotVal g (rdWide g b) 1024)

/-- The gang of a list that its scheduler would choose: the highest class, then the oldest (R123, R124).
DEDUCED, log entry 16 (unsafe). -/
def foremost : List Gang → Option Gang
  | [] => none
  | x :: xs => match foremost xs with
    | none => some x
    | some y => if y.curClass < x.curClass ∨ (x.curClass = y.curClass ∧ x.placed < y.placed) then some x else some y

/-- The gangs of a core that wait with a dense product; one that is marked for eviction comes after the others (R122, R261). -/
def denseGangs (s : State) (core : Nat) : List Gang :=
  let gs := s.gangs.filter fun g => g.core == core && wantsArray s g
  let first := gs.filter fun g => !evictionAsked s g
  if first.isEmpty then gs else first

/-- The waiting gang that is served next: round robin over the schedulers, after the one last served (R261). -/
def nextDense (s : State) (core : Nat) : Option Gang :=
  let e := engineOf s core
  ((List.range 4).map fun i => (e.lastServed + 1 + i) % 4).findSome? fun t =>
    foremost ((denseGangs s core).filter fun g => schedOf g == t)

/-- The gang whose turn comes now: the array admits dense products, and the gang whose turn it was waits no longer (R261). -/
def denseDue (s : State) (core : Nat) : Option Gang :=
  if arrayOpen s core && !((denseGangs s core).any fun g => (engineOf s core).grant == some g.id) then nextDense s core else none

/-- R261: the array admits a waiting dense product, which its scheduler can select now. Focus: core. -/
def execDenseProductAdmit (s : State) : Host.Outcome State Fault Refusal :=
  let core := s.focus.headD 0
  match denseDue s core with
  | none => .next s
  | some g => .next (modEngine s core fun e => { e with grant := some g.id })

/-! ### Wide arithmetic (R265, R266) -/

/-- wide(d) ← f of the gang. -/
def wideForm (s : State) (os : List Opnd) (d : Nat) (f : Gang → Word → Int) : Step :=
  issueWide s .none (.win d :: os) fun g c => finish s (wrWide g d (wrapN 1024 (f g (activeMask c)))) c .none

/-- R265: the sum modulo 2^1024. -/
def execWadd (b a d : Nat) (s : State) : Step :=
  wideForm s [.win a, .win b] d fun g _ => (rdWide g a : Int) + rdWide g b
/-- R265: the difference modulo 2^1024. -/
def execWsub (b a d : Nat) (s : State) : Step :=
  wideForm s [.win a, .win b] d fun g _ => (rdWide g a : Int) - rdWide g b
/-- R265: the negative modulo 2^1024. -/
def execWneg (a d : Nat) (s : State) : Step := wideForm s [.win a] d fun g _ => -(rdWide g a : Int)

/-- A shift by s bits, to the left where s is not negative, else to the right (R266). -/
def wideShift (v s : Int) : Int :=
  if 0 ≤ s then (if 1024 ≤ s then 0 else v * 2 ^ s.toNat)
  else if s ≤ -1024 then (if v < 0 then -1 else 0) else v / 2 ^ (-s).toNat

/-- The scalar k of the lowest active lane (R266). -/
def scalarOf (g : Gang) (A : Word) (b : Nat) : Nat := (rdReg g.level (thr g (lowest A)) b).toNat

/-- R266: a shift by slots. -/
def execWshs (b a d : Nat) (s : State) : Step :=
  wideForm s [.win a, .reg b] d fun g A =>
    wideShift (slotVal g (rdWide g a) 1024) (sext (scalarOf g A b) 32 * slotWidth g)
/-- R266: a shift by bits. -/
def execWshb (b a d : Nat) (s : State) : Step :=
  wideForm s [.win a, .reg b] d fun g A => wideShift (slotVal g (rdWide g a) 1024) (sext (scalarOf g A b) 32)

/-- R265: the comparison of two wide values into each active lane. -/
def execWcmp (b a d : Nat) (s : State) : Step :=
  issueWide s .none [.reg d, .win a, .win b] fun g c =>
    let x := slotVal g (rdWide g a) 1024
    let y := slotVal g (rdWide g b) 1024
    let r : Word := if x < y then 0xFFFFFFFF else if x = y then 0 else 1
    finish s (mapLanes (activeMask c) (fun _ t => wrReg g.level t d r) g) c .none

/-! ### Packing and extraction (R267 to R270) -/

/-- The term of a lane in `pack`; one at or above bit 1024 vanishes (R267). -/
def packTerm (g : Gang) (a base l : Nat) : Int :=
  if 1024 ≤ slotWidth g * (base + l) then 0
  else slotVal g (rdReg g.level (thr g l) a).toNat 32 * 2 ^ (slotWidth g * (base + l))

/-- R267: adds the elements of the active lanes into their slots. -/
def execPack (b a d : Nat) (s : State) : Step :=
  wideForm s [.reg a, .reg b] d fun g A =>
    (rdWide g d : Int) + ((lanesOf A).map (packTerm g a (bits (scalarOf g A b) 0 16))).sum

/-- The lowest digit of a remainder (R268). -/
def digitOf (signed : Bool) (w : Nat) (rem : Int) : Int :=
  let u := rem % 2 ^ w
  if signed ∧ 2 ^ (w - 1) ≤ u then u - 2 ^ w else u

/-- The first n digits (R268). -/
def digits (signed : Bool) (w : Nat) : Nat → Int → List Int
  | 0, _ => []
  | n + 1, rem => digitOf signed w rem :: digits signed w n ((rem - digitOf signed w rem) / 2 ^ w)

/-- The 32 digits from slot base on, of the source of `extr` and `gchk` (R268): the pair, or in mode 1 the wide register. -/
def slotDigits (g : Gang) (a k : Nat) : List Int :=
  let X := if bit k 16 then slotVal g (rdWide g a) 1024 else slotVal g (rdWidePair g a) 2048
  (digits (slotSigned g) (slotWidth g) (bits k 0 16 + 32) X).drop (bits k 0 16)

/-- The operands of `extr` and `gchk`: the upper half of the pair is one in mode 0 only, and the mode is read where the lowest active lane
can read it (R268). -/
def slotOpnds (g : Gang) (A : Word) (os : List Opnd) (b a : Nat) : List Opnd :=
  let pair := a != 0 && (windowBad g.level g.nregs (thr g (lowest A)) [.reg b]).isNone && !bit (scalarOf g A b) 16
  os ++ [.win a, .reg b] ++ if pair then [.win (a + 1)] else []

/-- `extr` and `gchk` act once for the gang, after the window check (R257, R268). -/
def slotForm (s : State) (os : List Opnd) (b a : Nat) (k : Gang → ClauseRun → List Int → State) : Step :=
  issue s .none fun g c =>
    match wideFail g (activeMask c) (slotOpnds g (activeMask c) os b a) with
    | some (i, lanes) => faultAt s g c 0x03 (BitVec.ofNat 64 i) lanes 0
    | none => k g c (slotDigits g a (scalarOf g (activeMask c) b))

/-- R268: each active lane takes the digit of its slot. -/
def execExtr (b a d : Nat) (s : State) : Step :=
  slotForm s [.reg d] b a fun g c ds =>
    finish s (mapLanes (activeMask c) (fun l t => wrReg g.level t d (wrap32 ((ds[l]?).getD 0))) g) c .none

/-- A digit fits in the result width (R269). -/
def digitFits (g : Gang) (v : Int) : Bool :=
  if slotSigned g then decide (-(2 ^ (resultWidth g - 1)) ≤ v) && decide (v ≤ 2 ^ (resultWidth g - 1) - 1)
  else decide (v ≤ 2 ^ resultWidth g - 1)

/-- R269: a digit that does not fit raises the guard-overflow fault; `%tdone` holds 0. DEDUCED, log entry 21 (unsafe). -/
def execGchk (b a : Nat) (s : State) : Step :=
  slotForm s [] b a fun g c ds =>
    match (lanesOf (activeMask c)).filter fun l => !digitFits g ((ds[l]?).getD 0) with
    | [] => finish s g c .none
    | l :: ls =>
      let base := bits (scalarOf g (activeMask c) b) 0 16
      takeTrap s g { cause := 0x21, pc := instrPc c, loc := mkDbl (BitVec.ofNat 32 (base + l)) (wrap32 ((ds[l]?).getD 0)),
                     lanes := maskOf (l :: ls) } (bankAt g c)

/-- The condition on a slot width (R271). -/
def widthSafe (signed : Bool) (wx wy t w : Nat) : Bool :=
  if signed then decide (t * 2 ^ (wx + wy - 2) < 2 ^ (w - 1)) else decide (t * (2 ^ wx - 1) * (2 ^ wy - 1) < 2 ^ w)

/-- The smallest safe slot width, or 0 (R271). -/
def safeWidth (signed : Bool) (a t : Nat) : Nat :=
  let wx := bits a 0 8
  let wy := bits a 8 8
  if wx = 0 ∨ 32 < wx ∨ wy = 0 ∨ 32 < wy ∨ t = 0 ∨ 65535 < t then 0
  else (((List.range 61).map (· + 4)).find? (widthSafe signed wx wy t)).getD 0

/-- R271: the slot width for element widths and a term count, in each active lane. -/
def execGwid (b a d : Nat) (s : State) : Step :=
  issueGang s .none [.reg d, .reg a, .reg b] fun g A =>
    mapLanes A (fun _ t => wrReg g.level t d
      (BitVec.ofNat 32 (safeWidth (slotSigned g) (rdReg g.level t a).toNat (rdReg g.level t b).toNat))) g

/-- One lane of `cbdec` (R272): the entry is read whole, before or after a load that is under way; `bad` gathers the lanes whose
entry is under an uncorrectable error (R372). -/
def cbdecLane (a d l : Nat) (x : State × Gang × List Nat) : State × Gang × List Nat :=
  let g := x.2.1
  let code := (rdReg g.level (thr g l) a).toNat % 65536
  match latticeSeen x.1 g.core g.launch g.cluster g.rank g.task (code / 256) with
  | (none, s1) => (s1, g, x.2.2 ++ [l])
  | (some w, s1) =>
    let (cs, saturated) := cbDecode w.toNat code
    (s1, modThread g l fun t => orFlags (wrReg g.level t d (BitVec.ofNat 32 (cbPack cs))) (flag saturated flCBI), x.2.2)

/-- R272: decodes one CB2 code per lane. No address names an entry of the table, so that of its error is open.
DESIGN CHOICE, log entry 24 (safe). -/
def execCbdec (a d : Nat) (s : State) : Step :=
  issue s .none fun g c =>
    match windowFail g (activeMask c) [.reg d, .reg a] with
    | some (i, lanes) => faultAt s g c 0x03 (BitVec.ofNat 64 i) lanes 0
    | none =>
      match (lanesOf (activeMask c)).foldl (fun x l => cbdecLane a d l x) (s, g, []) with
      | (s1, g1, []) => finish s1 g1 c .none
      | (s1, _, bad) => failAt (freeNat s1).2 g c .none 0x60 (BitVec.ofNat 64 (freeNat s1).1) (maskOf bad) 0

end Sys2Proof.Machine
end

