-- ==== Sys2Proof/Machine/Sequencer.lean ====
section
/-! DEFINITION. The launch sequencer: queues (R81 to R83), descriptors (R28 to R30), leases at take (R87, R88), graphs
(R33 to R35), completion (R24, R91 to R94, R415) and cancels (R96, R97). -/

namespace Sys2Proof.Machine

/-- A queue record (R81). -/
structure QueueRec where
  ring : Nat
  size : Nat
  enabled : Bool
  ctx : Nat
  head : Nat
  tail : Nat
  deriving DecidableEq, Repr

/-- Where a queue's record stands; none where there is no queue table, or no memory there (R417). A base that is not a multiple of 4 KiB
is used as it stands. DESIGN CHOICE, log entry 86 (unsafe). -/
def queueAt (s : State) (d q : Nat) : Option Nat :=
  let a := (mgmtOf s d).qtab + 64 * q
  if (mgmtOf s d).qtab ≠ 0 ∧ physOk s a then some a else none

def readQueue (s : State) (a : Nat) : QueueRec :=
  { ring := readNat s (physLoc a) 8, size := readNat s (physLoc (a + 8)) 4, enabled := bit (readNat s (physLoc (a + 0xC)) 1) 0,
    ctx := readNat s (physLoc (a + 0xE)) 2, head := readNat s (physLoc (a + 0x10)) 4, tail := readNat s (physLoc (a + 0x14)) 4 }

/-- The record is usable (R82). -/
def QueueRec.valid (r : QueueRec) : Bool :=
  isPow2 r.size && decide (16 ≤ r.size) && decide (r.size ≤ 65536) && r.ring % 64 == 0

/-- Post a queue error (R82, R428). DEDUCED, log entry 45 (unsafe). -/
def queueError (s : State) (d q ctx addr entry reason status take : Nat) : State :=
  postEvent s d 2 ctx none
    [(0x10, 8, addr), (0x18, 4, entry), (0x1C, 1, q), (0x1D, 1, reason), (0x1E, 1, status), (0x20, 4, take)]

/-- A take number for what is not taken as a launch (R428). -/
def noTake : Nat := 0xFFFFFFFF

/-- R82: system software's store of a queue's `lq.tail` is observed. Focus: die, queue, tail. -/
def execSubmitTail (s : State) : Host.Outcome State Fault Refusal :=
  let d := s.focus.headD 0 % 2
  let q := s.focus.getD 1 0 % 64
  let tail := s.focus.getD 2 0 % 2 ^ 32
  match queueAt s d q with
  | none => .next s
  | some a =>
    let s1 := modDie (writeNat (newId s).2 (physLoc (a + 0x14)) 4 tail) d fun x => { x with tails := fput x.tails q tail }
    let r := readQueue s1 a
    .next (if r.enabled && !r.valid then queueError s1 d q r.ctx 0 r.head 5 0xFF noTake else s1)

/-- The fields of a launch descriptor (R28). -/
def parseDesc (bs : List Byte) : Desc :=
  let f := leAt bs
  let a := fun o => (BitVec.ofNat 64 (leAt bs o 8) : Dbl)
  { entry := a 0, gx := f 8 4, gy := f 0xC 4, gz := f 0x10 4, blocks := f 0x14 1, gangs := f 0x15 1, prio := f 0x16 1 % 8,
    affinity := f 0x17 1 % 4, regs := f 0x18 2, scratch := f 0x1C 4, stack := f 0x20 4, queue := f 0x24 4, param := a 0x28,
    lease := a 0x30, nlease := f 0x38 1, flags := f 0x39 1 % 8, nparam := f 0x3A 2, done := a 0x40, tvec1 := a 0x48,
    tvec2 := a 0x50, save := a 0x58, arena := a 0x60, spill := a 0x68, nspill := f 0x70 4, narena := f 0x74 4,
    trace := a 0x78, ntrace := f 0x80 4, rlog := a 0x88, nrlog := f 0x90 4, tag := f 0x98 4, graph := a 0xA0 }

/-- A descriptor passes R30 and R398. -/
def Desc.ok (d : Desc) : Bool :=
  let dim := fun n => decide (1 ≤ n) && decide (n ≤ 0x00FFFFFF)
  let logged := d.recording || d.replaying
  d.entry.toNat % 4 == 0 && dim d.gx && dim d.gy && dim d.gz && decide (d.gx * d.gy * d.gz ≤ 0xFFFFFFFF)
    && decide (1 ≤ d.blocks) && decide (d.blocks ≤ 12) && decide (1 ≤ d.gangs) && decide (d.gangs ≤ 32)
    && decide (8 ≤ d.regs) && decide (d.regs ≤ 256) && d.regs % 8 == 0
    && d.scratch % 1024 == 0 && decide (d.scratch ≤ 786432) && d.queue % 1024 == 0 && d.stack % 16 == 0
    && d.narena % 65536 == 0 && decide (carveBytes d d.gangs d.scratch d.queue ≤ 786432)
    && decide (d.nparam ≤ 256) && decide (d.nparam * 16 ≤ d.scratch) && decide (d.nlease ≤ 32)
    && (d.nspill == 0 || (isPow2 d.nspill && decide (64 ≤ d.nspill) && decide (d.nspill ≤ 65536)))
    && !(d.recording && d.replaying) && d.done.toNat % 64 == 0 && (d.nlease == 0 || d.lease.toNat % 16 == 0)
    && (!logged || (d.rlog.toNat % 4096 == 0 && d.nrlog % 4096 == 0 && decide (8192 ≤ d.nrlog)
      && decide (d.gx * d.gy * d.gz * d.blocks * d.gangs ≤ 2 ^ 19)))
    && (d.ntrace == 0 || d.trace.toNat % 4096 == 0) && (d.narena == 0 || d.arena.toNat % 4096 == 0)
    && (d.nspill == 0 || d.spill.toNat % 64 == 0) && ((d.tvec1 == 0 && d.tvec2 == 0) || d.save.toNat % 16 == 0)

/-- One lease entry (R87): none if it is invalid. Its reserved bits are kept for the request that shows the entry (R428).
DESIGN CHOICE, log entry 86 (unsafe). -/
def parseLease (bs : List Byte) : Option Lease :=
  let b := leAt bs 0 8
  let n := leAt bs 8 8
  if n = 0 ∨ n % 4096 ≠ 0 ∨ canonical (BitVec.ofNat 64 b) = false then none
  else some { base := b % 2 ^ 57 / 4096 * 4096, size := n, r := bit b 0, w := bit b 1, x := bit b 2, demand := bit b 3, raw := b }

/-- An address that a descriptor, a header or a table can have: in the global window (R28, R81). -/
def workAddr (a : Dbl) : Bool := canonical a && apertureOf a == .global

/-- Read bytes of a work record of a context (R83); a physical address that the read may not use is logged (R374). -/
def readWork (s : State) (d ctx : Nat) (a : Dbl) (n : Nat) : State × Option (List Byte) :=
  if workAddr a then
    match deviceRead s d ctx (vaOf a) n with
    | (s1, .ok bs) => (s1, some bs)
    | (s1, .error) => (s1, none)
    | (s1, .away) => (logRefused s1 d ctx a n false none, none)
  else (s, none)

/-- The lease table of a descriptor (R87): none if it cannot be read or an entry is invalid. A table outside the global window cannot be
read. DESIGN CHOICE, log entry 86 (unsafe). -/
def readLeases (s : State) (d ctx : Nat) (x : Desc) : State × Option (List Lease) :=
  if x.nlease = 0 then (s, some [])
  else
    match readWork s d ctx x.lease (16 * x.nlease) with
    | (s1, none) => (s1, none)
    | (s1, some bs) =>
      let es := (List.range x.nlease).map fun i => parseLease (bs.drop (16 * i))
      (s1, if es.any Option.isNone then none else some (es.filterMap id))

/-- The replay log is whole: `rh.state` bit 0 set and bit 1 clear (R401). -/
def logWhole (s : State) (L : Launch) : Bool := bit (logWord s L 0 4) 0 && !bit (logWord s L 0 4) 1

/-- A launch in LEASE_WAIT becomes READY when every awaited range is resident (R84, R88, R426). Otherwise a request is
posted for each missing range. -/
def leaseWait (s : State) (id : Nat) : State :=
  let s1 := modLaunch s id fun L => { L with state := .leaseWait }
  match missing s1 (launchD s1 id) with
  | [] => modLaunch s1 id fun L => { L with state := .ready, requests := [] }
  | m :: ms => (m :: ms).foldl (fun t x => postRequest t id x.1 x.2) s1

/-- The step of a replay launch from TAKEN (R401): `rh.state` is read, once it can be (R426); an uncorrectable error there ends the launch
(R372). DESIGN CHOICE, log entry 89 (unsafe). -/
def replayCheck (s : State) (L : Launch) : State :=
  if areaAsked s L.id 0xF5 then s
  else if !deviceReach s L.die L.ctx (vaOf L.desc.rlog) 4 false then needArea s L.id 0xF5 L.die L.desc.rlog 4 false
  else match logPoison s L 0 4 with
    | some va => beginEnd s L.id 9 0x60 0 va
    | none => if logWhole s L then leaseWait s L.id else beginEnd s L.id 3 0 0 0

/-- A launch that the sequencer has taken goes on (R84): from TAKEN, where a replay launch whose log is not whole ends with
DESC_INVALID (R401); or in LEASE_WAIT. DEDUCED, log entry 48 (unsafe). -/
def leaseCheck (s : State) (id : Nat) : State :=
  let L := launchD s id
  if L.ending.isSome || !(L.state == .taken || L.state == .leaseWait) then s
  else if L.state == .taken && L.desc.replaying then replayCheck s L
  else leaseWait s id

/-- A launch that waits to be admitted posts the requests that it could not post (R88, R418); one that awaits no answer checks its
ranges. One that is ending waits no more (R97). -/
def recheckLease (s : State) (id : Nat) : State :=
  let L := launchD s id
  if L.ending.isSome then s
  else if L.state == .leaseWait && L.requests.any fun r => r.answer == 0 then
    (missing s L).foldl (fun t x => postRequest t id x.1 x.2) s
  else leaseCheck s id

/-- The launches of a die that wait to be admitted look again, and the records of spill rings that are still to be written: an event
that could not be posted may be now (R418, R426). -/
def recheckLeases (s : State) (d : Nat) : State :=
  (s.launches.filter fun L => L.die == d).foldl (fun t L =>
    storeOwed (if L.state == .taken || L.state == .leaseWait then recheckLease t L.id else t) L.id) s

/-- The work counters of a job change (R94): they stand at zero from reset on, and a new root for a context leaves them.
DESIGN CHOICE, log entry 86 (unsafe). -/
def modJob (s : State) (ctx : Nat) (f : Job → Job) : State := { s with jobs := fput s.jobs ctx (f (fgetD s.jobs ctx {})) }
def countFail (s : State) (ctx : Nat) : State := modJob s ctx fun j => { j with fail := (j.fail + 1) % 2 ^ 32 }

/-- Write bytes of a completion record of a context (R83, R91): whether they could be written; a physical address that the write may not
use is logged (R374). An address outside the global window holds no record (R28, R33). -/
def workWrite (s : State) (d ctx : Nat) (a : Dbl) (bs : List Byte) : State × Bool :=
  if workAddr a then
    match deviceWrite s d ctx (vaOf a) bs with
    | (s1, true) => (s1, true)
    | (s1, false) => (logRefused s1 d ctx a bs.length true none, false)
  else (s, false)

/-- The launch as the sequencer has read it, with the status that its descriptor earns at once (R30, R83, R85, R87). -/
def takenLaunch (s : State) (id die take ctx q : Nat) (addr : Dbl) (x : Desc) (node : Option (Nat × Nat)) (place entry since : Nat)
    (header : Dbl) : State × Launch :=
  let L : Launch := { id := id, die := die, take := take, ctx := ctx, addr := addr, queue := q, desc := x, node := node, place := place,
                      entry := entry, since := since }
  if !x.ok || x.graph != header then (s, { L with ending := some 3 })
  else
    match readLeases s die ctx x with
    | (s1, none) => (s1, { L with ending := some 3 })
    | (s1, some ls) =>
      (s1, { L with leases := ls, ending := if dieAllowed s1 x 0 || dieAllowed s1 x 1 then none else some 4 })

/-- Take a launch (R83): its take number, its descriptor, `done.state`, its validation and its leases. The answer says
whether it was taken; otherwise a queue error is posted and nothing of it runs. `place` is its place in its queue's order,
or none for its own; `since` tells when it was submitted, or none for now (R52); `header` is the graph header of a node, and the
address that its queue's entry gave (R428). DEDUCED, log entry 45 (unsafe). A descriptor whose address is not a
multiple of 64 is read where it stands. DESIGN CHOICE, log entry 79 (unsafe). -/
def takeLaunch (s : State) (d q ctx : Nat) (addr : Dbl) (entry : Nat) (node : Option (Nat × Nat)) (place since : Option Nat)
    (header : Dbl) : State × Bool :=
  let take := (dieOf s d).takes
  let s0 := modDie s d fun x => { x with takes := (take + 1) % 2 ^ 32 }
  let refuse := fun (t : State) (reason : Nat) => (countFail (queueError t d q ctx (if node.isSome then header else addr).toNat entry reason 3 take) ctx, false)
  match readWork s0 d ctx addr 256 with
  | (s1, none) => refuse s1 4
  | (s1, some bs) =>
    let x := parseDesc bs
    if x.done.toNat % 64 != 0 then refuse s1 3
    else
      match workWrite s1 d ctx x.done (leOf 4 0) with
      | (s2, false) => refuse s2 6
      | (s2, true) =>
        let (id, s3) := newId s2
        let (s4, L) := takenLaunch s3 id d take ctx q addr x node (place.getD id) entry (since.getD id) header
        (leaseCheck (modJob { s4 with launches := s4.launches ++ [L] } ctx fun j => { j with pend := j.pend + 1 }) id, true)

/-- The nodes without a final record. -/
def nodeStatus (g : Graph) (i : Nat) : Option Nat := (g.nodes[i]?).bind GNode.status
def setNode (s : State) (gid i : Nat) (f : GNode → GNode) : State :=
  modGraph s gid fun g => { g with nodes := match g.nodes[i]? with | some x => setAt g.nodes i (f x) | none => g.nodes }

/-- The nodes reachable from some nodes (R35). -/
def reachFrom (g : Graph) : Nat → List Nat → List Nat
  | 0, r => r
  | n + 1, r => reachFrom g n (r ++ ((r.flatMap fun i => ((g.nodes[i]?).map GNode.succs).getD []).eraseDups.filter fun i => !r.contains i))

/-- The nodes of a graph that have failed, lowest first. -/
def failedNodes (g : Graph) : List Nat := (List.range g.nodes.length).filter fun i => match nodeStatus g i with | some st => st != 0 | none => false

/-- A graph's status (R92). -/
def graphStatus (g : Graph) : Nat :=
  match failedNodes g with
  | [] => 0
  | i :: _ => if bit g.flags 0 then 0 else (nodeStatus g i).getD 0

/-- The bytes of a completion record behind `done.state` (R91). -/
def doneBytes (status tag count tstart tend tasks node cause : Nat) (pc addr : Dbl) : List Byte :=
  (recordOf 64 [(4, 1, status), (8, 4, tag), (0xC, 4, count), (0x10, 8, tstart), (0x18, 8, tend), (0x20, 4, tasks),
    (0x24, 2, node), (0x26, 1, cause), (0x28, 8, pc.toNat), (0x30, 8, addr.toNat)]).drop 4

/-- Write a completion record, `done.state` last (R91). -/
def writeDone (s : State) (d ctx : Nat) (at_ : Dbl) (bs : List Byte) : State × Bool :=
  match workWrite s d ctx (at_ + 4) bs with
  | (s1, true) => workWrite s1 d ctx at_ (leOf 4 1)
  | r => r

/-- A graph whose every node has ended has its record made final (R91 to R93); one that cannot be written is posted as a queue
error, and the graph is final. DESIGN CHOICE, log entry 80 (unsafe). -/
def finishGraph (s : State) (gid : Nat) : State :=
  match graphOf s gid with
  | none => s
  | some g =>
    if g.final || g.nodes.any (fun x => x.status.isNone) then s
    else
      let count := (g.nodes.filter fun x => x.status == some 0).length
      let bs := doneBytes (graphStatus g) g.tag count (g.tstart.getD 0) s.time 0 ((failedNodes g).headD 0xFFFF) 0 0 0
      let (s1, ok) := writeDone s g.die g.ctx g.done bs
      let s2 := modGraph s1 gid fun g => { g with final := true }
      if ok then s2 else queueError s2 g.die g.queue g.ctx g.addr.toNat g.entry 6 (graphStatus g) noTake

/-- A node enters its graph's launch queue (R35): its descriptor is read. The answer is the status with which it fails at
once, if it does. -/
def admitNode (s : State) (gid i : Nat) : State × Option Nat :=
  match graphOf s gid with
  | none => (s, none)
  | some g =>
    let s1 := modGraph (setNode s gid i fun x => { x with queued := true }) gid fun g =>
      { g with tstart := some (g.tstart.getD s.time) }
    match takeLaunch s1 g.die g.queue g.ctx (((g.nodes[i]?).map GNode.launch).getD 0) g.entry (some (gid, i)) (some gid) (some g.since) g.addr with
    | (s2, true) => (s2, none)
    | (s2, false) => (s2, some 3)

/-- The successors' dependence counts fall, in edge-table order; those that reach 0 now are returned (R35). -/
def lowerDeps (gid : Nat) : List Nat → State → State × List Nat
  | [], s => (s, [])
  | i :: is, s =>
    let s1 := setNode s gid i fun x => { x with deps := x.deps - 1 }
    let ready := match (graphOf s gid).bind fun g => g.nodes[i]? with
      | some x => x.deps == 1 && x.status.isNone && !x.queued
      | none => false
    let (s2, r) := lowerDeps gid is s1
    (s2, if ready then i :: r else r)

/-- Admit nodes in order; those that fail at once are returned with their status. -/
def admitNodes (gid : Nat) : List Nat → State → State × List (Nat × Nat)
  | [], s => (s, [])
  | i :: is, s =>
    let (s1, f) := admitNode s gid i
    let (s2, r) := admitNodes gid is s1
    (s2, match f with | some st => (i, st) :: r | none => r)

/-- The completion record of a node that ends without running (R35, R91): its descriptor says where it goes. What keeps the
record from being written is posted as a queue error. -/
def nodeRecord (s : State) (gid i st : Nat) : State :=
  match graphOf s gid with
  | none => s
  | some g =>
    let a := ((g.nodes[i]?).map GNode.launch).getD 0
    let refuse := fun (t : State) (reason : Nat) => queueError t g.die g.queue g.ctx g.addr.toNat g.entry reason st noTake
    match readWork s g.die g.ctx a 256 with
    | (s1, none) => refuse s1 4
    | (s1, some bs) =>
      let x := parseDesc bs
      if x.done.toNat % 64 != 0 then refuse s1 3
      else
        match writeDone s1 g.die g.ctx x.done (doneBytes st x.tag 0 0 s1.time 0 0xFFFF 0 0 0) with
        | (s2, true) => s2
        | (s2, false) => refuse s2 6

/-- A node ends without running: its record is final before it is counted (R93, R94).
DEDUCED, log entry 46 (unsafe). -/
def dropNode (ctx st : Nat) (s : State) (gid i : Nat) : State :=
  countFail (setNode (nodeRecord s gid i st) gid i fun x => { x with status := some st }) ctx

/-- Every node reachable from a failed one is cancelled without running, and counted (R35, R94). -/
def cancelReach (s : State) (gid i : Nat) : State :=
  match graphOf s gid with
  | none => s
  | some g =>
    let rs := (reachFrom g g.nodes.length [i]).filter fun j => j != i && (nodeStatus g j).isNone && !(((g.nodes[j]?).map GNode.queued).getD true)
    rs.foldl (fun t j => dropNode g.ctx 2 t gid j) s

/-- Nodes have ended with these statuses (R35): their successors follow. -/
def nodesEnd (gid : Nat) : Nat → List (Nat × Nat) → State → State
  | 0, _, s => s
  | _ + 1, [], s => s
  | n + 1, (i, st) :: rest, s =>
    let s1 := setNode s gid i fun x => { x with status := some st }
    match graphOf s1 gid with
    | none => s1
    | some g =>
      if st = 0 ∨ bit g.flags 0 then
        let (s2, ready) := lowerDeps gid (((g.nodes[i]?).map GNode.succs).getD []) s1
        let (s3, failed) := admitNodes gid ready s2
        nodesEnd gid n (rest ++ failed) s3
      else nodesEnd gid n rest (cancelReach s1 gid i)

/-- Nodes have ended, and the graph with its last one. -/
def endNodes (s : State) (gid : Nat) (l : List (Nat × Nat)) : State :=
  finishGraph (nodesEnd gid (2 * (((graphOf s gid).map fun g => g.nodes.length).getD 0) + 2) l s) gid

/-- The header of a graph (R33). -/
structure Header where
  nodes : Nat
  flags : Nat
  ntab : Nat
  etab : Nat
  edges : Nat
  tag : Nat
  done : Nat
  deriving DecidableEq, Repr

def parseHeader (bs : List Byte) : Header :=
  { nodes := leAt bs 0 4, flags := leAt bs 4 4 % 2, ntab := leAt bs 8 8, etab := leAt bs 0x10 8, edges := leAt bs 0x18 4,
    tag := leAt bs 0x1C 4, done := leAt bs 0x20 8 }

/-- Nodes that a topological walk reaches (R34). -/
def topoReach (deps : List Nat) (succs : List (List Nat)) : Nat → List Nat → List Nat → List Nat
  | 0, _, seen => seen
  | _ + 1, [], seen => seen
  | n + 1, i :: work, seen =>
    let hit := succs.getD i []
    let deps' := hit.foldl (fun d j => setAt d j (d.getD j 0 - 1)) deps
    let new := hit.eraseDups.filter fun j => deps'.getD j 0 == 0 && deps.getD j 0 != 0
    topoReach deps' succs n (work ++ new) (i :: seen)

/-- The nodes of a graph, if its tables are valid (R34). -/
def graphNodes (h : Header) (nt et : List Byte) : Option (List GNode) :=
  let edge := fun i => leAt et (4 * i) 4 % 4096
  let raw := (List.range h.nodes).map fun i =>
    (leAt nt (16 * i) 8, leAt nt (16 * i + 8) 4, leAt nt (16 * i + 0xC) 2, leAt nt (16 * i + 0xE) 2)
  let succs := raw.map fun r => (List.range r.2.2.1).map fun k => edge (r.2.1 + k)
  let deps := raw.map fun r => r.2.2.2
  let named := fun i => ((List.range h.edges).filter fun k => edge k == i).length
  let ok := raw.all (fun r => decide (r.2.1 + r.2.2.1 ≤ h.edges)) && (List.range h.edges).all (fun k => decide (edge k < h.nodes))
    && (List.range h.nodes).all (fun i => deps.getD i 0 == named i)
    && decide ((topoReach deps succs (h.nodes + 1) ((List.range h.nodes).filter fun i => deps.getD i 0 == 0) []).length = h.nodes)
  if ok then some (List.zipWith3 (fun r ss dp => { launch := BitVec.ofNat 64 r.1, succs := ss, deps := dp }) raw succs deps) else none

/-- The header's own fields are in range (R34). -/
def Header.ok (h : Header) : Bool :=
  decide (1 ≤ h.nodes) && decide (h.nodes ≤ 4096) && decide (h.edges ≤ 65536) && h.ntab % 16 == 0 && h.etab % 4 == 0

/-- Read and validate a graph's tables; a table that cannot be read is not valid. DESIGN CHOICE, log entry 78 (unsafe). -/
def readGraph (s : State) (d ctx : Nat) (h : Header) : State × Option (List GNode) :=
  if !h.ok then (s, none)
  else
    match readWork s d ctx (BitVec.ofNat 64 h.ntab) (16 * h.nodes) with
    | (s1, none) => (s1, none)
    | (s1, some nt) =>
      match (if h.edges = 0 then (s1, some []) else readWork s1 d ctx (BitVec.ofNat 64 h.etab) (4 * h.edges)) with
      | (s2, none) => (s2, none)
      | (s2, some et) => (s2, graphNodes h nt et)

/-- Take a graph (R34, R35, R83): a rejected one has its record written first, and then its job counts it.
DEDUCED, log entry 46 (unsafe). -/
def takeGraph (s : State) (d q ctx : Nat) (addr : Dbl) (entry since : Nat) : State :=
  match readWork s d ctx addr 64 with
  | (s1, none) => queueError s1 d q ctx addr.toNat entry 4 5 noTake
  | (s1, some bs) =>
    let h := parseHeader bs
    if h.done % 64 ≠ 0 then countFail (queueError s1 d q ctx addr.toNat entry 3 5 noTake) ctx
    else
      match readGraph s1 d ctx h with
      | (s2, none) =>
        match writeDone s2 d ctx (BitVec.ofNat 64 h.done) (doneBytes 5 h.tag 0 0 s2.time 0 0xFFFF 0 0 0) with
        | (s3, true) => countFail s3 ctx
        | (s3, false) => countFail (queueError s3 d q ctx addr.toNat entry 6 5 noTake) ctx
      | (s2, some nodes) =>
        let (gid, s3) := newId s2
        let s4 := { s3 with graphs := s3.graphs ++
          [{ id := gid, die := d, ctx := ctx, addr := addr, queue := q, flags := h.flags, tag := h.tag, done := BitVec.ofNat 64 h.done, nodes := nodes,
             entry := entry, since := since }] }
        let (s5, failed) := admitNodes gid ((List.range nodes.length).filter fun i => ((nodes[i]?).map GNode.deps).getD 1 == 0) s4
        endNodes s5 gid failed

/-- The entry that a queue would give next (R82): where the queue record is, its contents, and the observed tail. -/
def nextEntry (s : State) (d q : Nat) : Option (Nat × QueueRec × Nat) :=
  match queueAt s d q, fget (dieOf s d).tails q with
  | some a, some tail =>
    let r := readQueue s a
    if r.enabled && r.valid && r.head != tail then some (a, r, tail) else none
  | _, _ => none

/-- A tail covers an entry (R82). -/
def covers (tail h : Nat) : Bool := decide (0 < (tail + 2 ^ 32 - h) % 2 ^ 32) && decide ((tail + 2 ^ 32 - h) % 2 ^ 32 < 2 ^ 31)

/-- When the tail that covers an entry was written (R82), from the values that the tail had, newest first: the time of the write before
which it did not cover the entry. -/
def submitted (h : Nat) : List (Nat × Word) → Nat
  | [] => 0
  | (id, old) :: r => if covers old.toNat h then submitted h r else id

/-- R83: the sequencer takes the next entry of a queue's ring. Focus: die, queue. An entry that cannot be read, or whose ring slot no
memory backs, counts as of reserved kind; one past `lq.size` has the reason of that, of whatever kind it is.
DESIGN CHOICE, log entry 86 (unsafe). -/
def execTakeEntry (s : State) : Host.Outcome State Fault Refusal :=
  let d := s.focus.headD 0 % 2
  let q := s.focus.getD 1 0 % 64
  match nextEntry s d q with
  | none => .next s
  | some (a, r, tail) =>
    let slot := r.ring + 16 * (r.head % r.size)
    let since := submitted r.head (fgetD s.past ((a + 0x14) / 4) [])
    let s1 := writeNat s (physLoc (a + 0x10)) 4 ((r.head + 1) % 2 ^ 32)
    if !(physOk s slot && physOk s (slot + 15)) then
      .next (queueError (errorResponse s1 d r.ctx slot 0 none 4) d q r.ctx 0 r.head 1 0xFF noTake)
    else if poisonedAt s (physLoc slot) 16 then .next (queueError s1 d q r.ctx 0 r.head 1 0xFF noTake)
    else
      let kind := readNat s (physLoc slot) 4
      let addr : Dbl := BitVec.ofNat 64 (readNat s (physLoc (slot + 8)) 8)
      if r.size < (tail + 2 ^ 32 - r.head) % 2 ^ 32 then .next (queueError s1 d q r.ctx addr.toNat r.head 2 0xFF noTake)
      else if kind = 0 then .next (takeLaunch s1 d q r.ctx addr r.head none none (some since) 0).1
      else if kind = 1 then .next (takeGraph s1 d q r.ctx addr r.head since)
      else .next (queueError s1 d q r.ctx addr.toNat r.head 1 0xFF noTake)

/-- Nothing of a launch remains to be waited for (R24, R97): no gang, no running task, no copy, no engine command. -/
def launchIdle (s : State) (L : Launch) : Bool :=
  !(s.gangs.any fun g => g.launch == L.id)
    && !(s.tasks.any fun t => t.launch == L.id && (t.state == 2 || t.state == 3 || t.state == 4 || t.state == 6))
    && !(s.copies.any fun c => c.launch == L.id)
    && !engineActive s L.id

/-- The launch has come to its end (R24, R97 step 4). -/
def launchOver (s : State) (L : Launch) : Bool :=
  L.state != .done && launchIdle s L && (L.ending.isSome || (L.state == .draining && L.placed == clustersOf L.desc))

/-- Step 5 of R415: dormant tasks are reclaimed, claims and carve-outs released, with the engine commands that nothing can
bring to their end; the clocks of its cores return to nominal (R425). -/
def releaseAll (s : State) (L : Launch) : State :=
  let s1 := (s.tasks.filter fun t => t.launch == L.id && t.state == 1).foldl sweepTask s
  let s2 := sweepClusters { s1 with cores := s1.cores.map fun k =>
    (k.1, { k.2 with engine := { k.2.engine with cmds := k.2.engine.cmds.filter fun e => e.launch != L.id } }) }
  let s3 := L.cores.foldl (fun t c => modCore t c fun k => { setStep 0 k with steadyGens := 0 }) s2
  { s3 with clusters := s3.clusters.filter fun k => k.launch != L.id, blocks := s3.blocks.filter fun b => b.launch != L.id }

/-- Step 1 of R415: the kill record is posted, where its event has room (R418). -/
def postKill (s : State) (id : Nat) : State :=
  let L := launchD s id
  match L.kill with
  | some bs =>
    if eventRoom s L.die then
      modLaunch (postEvent s L.die 6 L.ctx (some id) [(0x10, 64, natOf bs), (0x50, 4, L.take)]) id fun x => { x with kill := none }
    else s
  | none => s

/-- The kill record of a launch has still to reach the event ring (R415 step 1, R418). -/
def killHeld (s : State) (L : Launch) : Bool := L.kill.isSome || (dieOf s L.die).events.any fun e => e.type == 6 && e.launch == some L.id

/-- Steps 2 to 5 of R415. -/
def endSteps (s : State) (L : Launch) : State :=
  let s1 := harvestWhere s fun e => e.ctx == L.ctx
  let s2 := (L.frames.map Prod.fst).foldl (fun t c => closeFrame t (launchD t L.id) c) s1
  releaseAll (closeLog s2 L.id) L

/-- What the completion record of a launch holds (R91). -/
def recordBytesOf (s : State) (L : Launch) : List Byte :=
  doneBytes (L.ending.getD 0) L.desc.tag L.clean L.tstart s.time L.spawnOrd 0xFFFF L.cause L.pc L.loc

/-- Step 7 of R415, once the record has been written or its area refused: the launch is DONE, and its graph and job count it. -/
def endRecord (s : State) (L : Launch) : State :=
  let st := L.ending.getD 0
  let s2 := modLaunch s L.id fun x => { x with state := .done, ending := some st, requests := [], kill := none }
  let s3 := modJob s2 L.ctx fun j =>
    { j with pend := j.pend - 1, done := if st = 0 then (j.done + 1) % 2 ^ 32 else j.done,
             fail := if st = 0 then j.fail else (j.fail + 1) % 2 ^ 32 }
  match L.node with
  | some (gid, i) => endNodes s3 gid [(i, st)]
  | none => s3

/-- Steps 1 to 5 of R415 have been done for a launch: its status stands (R97), and a refusal from before then is no answer about
its record. -/
def closeLaunch (s : State) (L : Launch) : State :=
  modLaunch (endSteps s L) L.id fun x =>
    { x with closed := true, kill := none, ending := some (x.ending.getD 0),
             requests := x.requests.filter fun r => r.index != 0xF1 || r.answer == 0 }

/-- The queue error of a completion record that was refused (R426, R428): a graph's node names the entry of its graph. -/
def refuseRecord (s : State) (L : Launch) : State :=
  queueError s L.die L.queue L.ctx (if L.node.isSome then L.desc.graph else L.addr).toNat L.entry 6 (L.ending.getD 0) L.take

/-- The completion record of a launch that has been closed (R415 step 6, R426): it waits for the answer to a request for its area,
and is not written where that is refused. -/
def recordDue (s : State) (L : Launch) : State :=
  let answer := ((L.requests.find? fun r => r.index == 0xF1).map Request.answer).getD 1
  if answer = 0 then s
  else if answer = 2 then endRecord (refuseRecord s L) L
  else if !deviceReach s L.die L.ctx (vaOf L.desc.done) 64 true then needArea s L.id 0xF1 L.die L.desc.done 64 true
  else match writeDone s L.die L.ctx L.desc.done (recordBytesOf s L) with
    | (s1, true) => endRecord s1 L
    | (s1, false) => needArea s1 L.id 0xF1 L.die L.desc.done 64 true

/-- R415: a launch ends. A kill record that has not reached the event ring (R418) holds it at step 1, and a record that cannot be
written yet (R426) at step 6. Focus: launch. -/
def execLaunchEnd (s : State) : Host.Outcome State Fault Refusal :=
  match launchOf s (s.focus.headD 0) with
  | none => .next s
  | some L =>
    if !launchOver s L then .next s
    else if L.closed then .next (recordDue s L)
    else
      let s1 := postKill s L.id
      if killHeld s1 (launchD s1 L.id) then .next s1
      else
        let s2 := closeLaunch s1 (launchD s1 L.id)
        .next (recordDue s2 (launchD s2 L.id))

/-- What a cancel names (R96): launches by their identifiers, and graph nodes not yet admitted. -/
structure CancelSet where
  launches : List Launch
  nodes : List (Nat × Nat)
  deriving DecidableEq, Repr

/-- The nodes of a graph that have not been admitted and have not ended. -/
def waitingNodes (g : Graph) : List (Nat × Nat) :=
  ((List.range g.nodes.length).filter fun i => match g.nodes[i]? with | some x => !x.queued && x.status.isNone | none => false).map fun i => (g.id, i)

/-- DEDUCED, log entry 47 (unsafe). -/
def namedL (s : State) (ctx : Nat) (addr : Dbl) : CancelSet :=
  ⟨s.launches.filter fun L => L.ctx == ctx && L.state != .done && vaOf L.addr == vaOf addr, []⟩
/-- DEDUCED, log entry 47 (unsafe). -/
def namedG (s : State) (ctx : Nat) (addr : Dbl) : CancelSet :=
  let gs := s.graphs.filter fun g => g.ctx == ctx && vaOf g.addr == vaOf addr
  ⟨s.launches.filter fun L => L.state != .done && (match L.node with | some (g, _) => (gs.map Graph.id).contains g | none => false),
   gs.flatMap waitingNodes⟩
def namedJ (s : State) (ctx : Nat) : CancelSet :=
  ⟨s.launches.filter fun L => L.ctx == ctx && L.state != .done, (s.graphs.filter fun g => g.ctx == ctx).flatMap waitingNodes⟩

/-- The status of a cancel (R96). -/
def CancelSet.status (c : CancelSet) : Nat :=
  if c.launches.isEmpty && c.nodes.isEmpty then 2
  else if c.launches.any (fun L => L.ending.isNone) || !c.nodes.isEmpty then 0 else 1

/-- Cancel what is named (R96, R97). -/
def cancelAll (s : State) (c : CancelSet) : State :=
  let s1 := c.nodes.foldl (fun t x => dropNode (((graphOf t x.1).map Graph.ctx).getD 0) 1 t x.1 x.2) s
  let s2 := c.launches.foldl (fun t L => endLaunch t L.id 1 0 0 0) s1
  (c.nodes.map Prod.fst).eraseDups.foldl finishGraph s2

end Sys2Proof.Machine
end

