-- ==== Sys2Proof/Machine/Work.lean ====
section
/-! DEFINITION. Meanings of the WORK instructions (R95 to R97). -/

namespace Sys2Proof.Machine

/-- Launches of a die that have been taken and have not started (R95). -/
def unstarted (s : State) (d : Nat) : Nat :=
  (s.launches.filter fun L => L.die == d && L.ending.isNone
    && (L.state == .taken || L.state == .leaseWait || L.state == .ready)).length

/-- The context of an enabled queue (R81, R95). -/
def enabledQueue (s : State) (d q : Nat) : Option (Nat × Nat) :=
  (queueAt s d q).bind fun a => if (readQueue s a).enabled then some ((readQueue s a).ctx, (readQueue s a).head) else none

/-- One lane of `launch` (R95). DEDUCED, log entry 50 (unsafe). An enabled queue with an invalid record takes the launch, and a
leased descriptor that cannot be read is a queue error (R83). DESIGN CHOICE, log entry 81 (unsafe). -/
def launchLane (a q : Nat) (s : State) (g : Gang) (lane : Nat) : State × SeqEnd :=
  let addr := laneAddr g lane a
  let d := coreDie g.core
  let L := launchD s g.launch
  if !canonical addr then (s, .fail ⟨lane, 0x13, addr, 0⟩)
  else if apertureOf addr != .global then (s, .fail ⟨lane, 0x15, addr, 0⟩)
  else if addr.toNat % 64 != 0 then (s, .fail ⟨lane, 0x16, addr, 0⟩)
  else
    match enabledQueue s d q with
    | none => (s, .fail ⟨lane, 0x11, addr, 0⟩)
    | some (ctx, head) =>
      if ctx != L.ctx then (s, .fail ⟨lane, 0x11, addr, 0⟩)
      else
        match firstUnleased L (vaOf addr) 256 true false false with
        | some b => (s, .fail ⟨lane, 0x12, addr + BitVec.ofNat 64 (b - vaOf addr), 0⟩)
        | none =>
          if 1024 ≤ unstarted s d then (s, .block 8 .capacity)
          else ((takeLaunch s d q ctx addr head none none none 0).1, .ok [] none)

/-- R95: takes the launch that each active lane names into a queue's order. -/
def execLaunch (q a : Nat) (s : State) : Host.Outcome State Fault Refusal :=
  issue s .b fun g c =>
    match windowFail g (activeMask c) [.pair a] with
    | some (i, lanes) => failAt s g c .b 0x03 (BitVec.ofNat 64 i) lanes 0
    | none => seqLanes (launchLane a q) g.id .b (lanesOf (activeMask c)) 0 none s

/-- One lane of a cancel: the status goes to its register, and what is named is cancelled. -/
def cancelLane (d : Nat) (named : State → Gang → Nat → CancelSet) (s : State) (g : Gang) (lane : Nat) : State × SeqEnd :=
  let k := named s g lane
  (cancelAll (putLane s g.id lane fun t => wrReg g.level t d (BitVec.ofNat 32 k.status)) k, .ok [] none)

/-- A cancel in each active lane (R96); `addr` is the pair that holds the address, if there is one. No lane acts where a lane's
address is not canonical. DESIGN CHOICE, log entry 82 (unsafe). -/
def issueCancel (addr : Option Nat) (d : Nat) (named : State → Gang → Nat → CancelSet) (s : State) :
    Host.Outcome State Fault Refusal :=
  issue s .none fun g c =>
    let A := activeMask c
    match windowFail g A ([.reg d] ++ (addr.map Opnd.pair).toList) with
    | some (i, lanes) => failAt s g c .none 0x03 (BitVec.ofNat 64 i) lanes 0
    | none =>
      let bad := match addr with
        | some a => (lanesOf A).filter fun l => !canonical (laneAddr g l a)
        | none => []
      match bad with
      | l :: ls => failAt s g c .none 0x13 (laneAddr g l (addr.getD 0)) (maskOf (l :: ls)) 0
      | [] => seqLanes (cancelLane d named) g.id .none (lanesOf A) 0 none s

/-- R96: cancels the launches taken from a descriptor address. -/
def execCancelL (a d : Nat) (s : State) : Host.Outcome State Fault Refusal :=
  issueCancel (some a) d (fun t g l => namedL t (ctxOf t g) (laneAddr g l a)) s
/-- R96: cancels the nodes of the graphs taken from a header address. -/
def execCancelG (a d : Nat) (s : State) : Host.Outcome State Fault Refusal :=
  issueCancel (some a) d (fun t g l => namedG t (ctxOf t g) (laneAddr g l a)) s
/-- R96: cancels the job. -/
def execCancelJ (d : Nat) (s : State) : Host.Outcome State Fault Refusal :=
  issueCancel none d (fun t g _ => namedJ t (ctxOf t g)) s

end Sys2Proof.Machine
end

