-- ==== Sys2Proof/Machine/Issue.lean ====
section
/-! DEFINITION. The events of fetch and issue (R44 to R55, R113 to R125), of waking and eviction (R256, R346, R366 to
R370), of sampling (R391) and of a stalled gate (R402). -/

namespace Sys2Proof.Machine

/-! ### Clause fetch -/

/-- The gang stands between two clauses, with nothing that holds it there. -/
def atClauseStart (s : State) (g : Gang) : Bool :=
  g.slot.isSome && s.issuing != some g.id && g.clause.isNone && g.pending.isNone && g.wait == .none && !g.frontier.isEmpty

/-- The clause of the top entry is to be fetched (R113). -/
def canFetch (s : State) (g : Gang) : Bool := atClauseStart s g && g.fetched.isNone && released s g

/-- A fault at a clause header or at a word of a clause that has not started (R114, R355): nothing of it has executed.
DEDUCED, log entry 14 (unsafe). -/
def headerFault (s : State) (g : Gang) (cause : Nat) (pc loc : Dbl) (lanes : Word) : State :=
  raise s g { cause := cause, pc := pc, loc := loc, lanes := lanes }
    { frontier := g.frontier, clause := none, wait := .none, copy := none, copyLane := 0 }

/-- The values that a fetch of a launch may see in a word of code: that which stands there, and those that writes since the
launch was submitted have replaced (R52). DESIGN CHOICE, log entry 64 (unsafe). -/
def codeValues (s : State) (launch pa : Nat) : List Word :=
  BitVec.ofNat 32 (readNat s (physLoc pa) 4)
    :: ((fgetD s.past (pa / 4) []).filter fun x => decide ((launchD s launch).since < x.1)).map Prod.snd

/-- A word of code as it is fetched, chosen among its old and its new values (R52). -/
def codeWord (s : State) (launch pa : Nat) : Word × State :=
  ((pickFrom s (codeValues s launch pa)).1.getD 0, (pickFrom s (codeValues s launch pa)).2)

/-- n words of code from a physical address, each chosen by itself (R52). -/
def codeWords (launch : Nat) : Nat → Nat → State → List Word × State
  | 0, _, s => ([], s)
  | n + 1, pa, s =>
    let (w, s1) := codeWord s launch pa
    let (ws, s2) := codeWords launch n (pa + 4) s1
    (w :: ws, s2)

/-- A read of code finds its copy in the core's instruction cache in error (R12, R372): the first such granule, unless the cache has given
it up since and reads it again, by a free choice. DESIGN CHOICE, log entry 88 (unsafe). -/
def cacheError (s : State) (core pa n : Nat) : State × Option Nat :=
  match (granules pa n).find? (coreOf s core).badCode.contains with
  | none => (s, none)
  | some k =>
    let (x, s1) := pick s 2
    if x = 0 then (modCore s1 core fun y => { y with badCode := y.badCode.filter fun i => !(granules pa n).contains i }, none)
    else (s1, some k)

/-- Bytes of code are read (R113): execute permission in a lease and in the leaf, and no tag check. -/
def fetchAt (s : State) (g : Gang) (h : Dbl) (n : Nat) : State × GAccess :=
  match globalAccess s (.fetch g.core) (launchD s g.launch) h n { x := true, colour := false } 0 with
  | (s1, .ok pa e) =>
    match cacheError s1 g.core pa n with
    | (s2, some k) => (s2, .bad 0x60 (h + BitVec.ofNat 64 (k * 16 - pa)) 0)
    | (s2, none) => (s2, .ok pa e)
  | r => r

/-- The words of a clause whose header has been read. -/
def fetchClause (s : State) (g : Gang) (h : Dbl) (hdr : Word) : State :=
  if !hdrLegal hdr.toNat || crosses h hdr.toNat then modGang s g.id fun x => { x with fetched := some ⟨h, hdr, []⟩ }
  else
    match fetchAt s g h (clauseBytes hdr.toNat) with
    | (s1, .bad cause at_ _) => headerFault s1 g cause h at_ (topLanes g)
    | (s1, .ok pa _) =>
      let (ws, s2) := codeWords g.launch (hdrLength hdr.toNat + 1) (pa + 4) s1
      modGang s2 g.id fun x => { x with fetched := some ⟨h, hdr, ws⟩ }

/-- R113: the clause of the top entry is fetched whole, or a fault is raised at its header (R114); one before the clause is decoded
names the lanes of the whole entry. Focus: gang. DESIGN CHOICE, log entry 74 (unsafe). -/
def execClauseFetch (s : State) : Host.Outcome State Fault Refusal :=
  match gangOf s (s.focus.headD 0) with
  | none => .next s
  | some g =>
    let h := (topEntry g).pc
    if !canFetch s g then .next s
    else if h.toNat % 4 != 0 then .next (headerFault s g 0x02 h h (topLanes g))
    else if !canonical h then .next (headerFault s g 0x13 h h (topLanes g))
    else if apertureOf h != .global then .next (headerFault s g 0x15 h h (topLanes g))
    else
      match fetchAt s g h 4 with
      | (s1, .bad cause at_ _) => .next (headerFault s1 g cause h at_ (topLanes g))
      | (s1, .ok pa _) =>
        let (hdr, s2) := codeWord s1 g.launch pa
        .next (fetchClause s2 g h hdr)

/-! ### Clause start -/

/-- A precise fault is due at the clause start where the gang stands: it is taken first (R366). -/
def preciseFirst (g : Gang) : Bool := (g.fetched.map fun f => startsNow g f && preciseDue g f).getD false

/-- The gang is at a clause start, its clause fetched, or waits at a blocking point (R234, R366); one that is to stop where it waits
takes no fault there (R97, R352). -/
def deliverable (s : State) (g : Gang) : Bool :=
  g.slot.isSome && s.issuing != some g.id && g.pending.isNone
    && ((g.blocked && !mustStop s g) || (g.clause.isNone && g.wait == .none && g.fetched.isSome && !preciseFirst g)) && g.live != 0

/-- R234: the oldest deferred fault of a gang is taken as a trap. Focus: gang. -/
def execDeferredFaultDelivery (s : State) : Host.Outcome State Fault Refusal :=
  match gangOf s (s.focus.headD 0) with
  | none => .next s
  | some g =>
    match firstFault (deferredFaults s g.id) with
    | none => .next s
    | some (_, c, cause, loc) =>
      if deferredBusy g || !deliverable s g then .next s
      else
        let n := (match c.state with | .stopped _ _ _ n => n | _ => 0)
        let s1 := modCopy (unparkTask s g.task) c.id fun x => { x with state := .stopped cause loc true n }
        .next (takeTrap s1 g { cause := cause, deferred := true, pc := c.pc, loc := loc, lanes := bitMask c.lane }
          { frontier := g.frontier, clause := g.clause, wait := g.wait, copy := some c.id, copyLane := c.lane })
where
  /-- The fault detected first. -/
  firstFault : List (Nat × Copy × Nat × Dbl) → Option (Nat × Copy × Nat × Dbl)
    | [] => none
    | x :: xs => match firstFault xs with
      | none => some x
      | some y => some (if x.1 ≤ y.1 then x else y)

/-! ### Issue -/

/-- The instructions that the engine queue takes (R285). -/
def queues : Instr → Bool
  | .mma _ _ _ _ | .mdrain _ | .mzero _ | .cbld _ _ => true
  | _ => false

/-- The divider or the special-function unit of the gang's scheduler accepts an instruction now (R139, R174). -/
def schedulerUnit (s : State) (g : Gang) (i : Instr) : Bool :=
  let k := coreOf s g.core
  if divides i then decide (fgetD k.divFree (schedOf g) 0 ≤ clkOf s g.core)
  else if clsOf.fpLong i then decide (fgetD k.sfuFree (schedOf g) 0 ≤ clkOf s g.core)
  else true

/-- The unit that executes an instruction can accept it (R122): the wide array can a dense product whose turn it is (R261); a full engine queue
cannot, where its claim is the block's own (R273, R285). -/
def unitAccepts (s : State) (g : Gang) (i : Instr) : Bool :=
  schedulerUnit s g i && (!denseInstr i || (arrayOpen s g.core && (engineOf s g.core).grant == some g.id)) && !(queues i && (engineOf s g.core).owner == some g.block && !queueRoom s g.core)

/-- What an instruction reads once, of its lowest active lane, at another module can be reached (R325). -/
def lowestOpen (s : State) (g : Gang) (c : ClauseRun) : Instr → Bool
  | .mwait _ a _ => laneOpen s g (lowest (activeMask c)) (laneAddr g (lowest (activeMask c)) a) 4 { r := true, sum := some false }
  | .join a => a == 0 || laneOpen s g (lowest (activeMask c)) (laneAddr g (lowest (activeMask c)) a) 8 { r := true, cell := true }
  | _ => true

/-- The unit that an instruction waits for can take it now (R122, R207, R285, R294, R401). -/
def unitReady (s : State) (g : Gang) (c : ClauseRun) : Bool :=
  match g.gate with
  | some (w, p, _) => admits s g ⟨w, p⟩ != .waits || mustAskLog s (launchD s g.launch)
  | none =>
    match decodeWord (wordOf c) with
    | .ok (.ringRel _ r) => !ringRead (engineOf s g.core) r (g.bound.getD s.nextId)
    | .ok (.tlbInvPg _) | .ok (.tlbInvRng _ _) | .ok .tlbInvCtx => !threadCopies s g.id (lowest (activeMask c))
    | .ok i => if queues i then queueRoom s g.core else true
    | .error _ => true

/-- The unit of the next instruction can accept it. -/
def unitFree (s : State) (g : Gang) (c : ClauseRun) : Bool :=
  match decodeWord (wordOf c) with
  | .ok i => unitAccepts s g i && lowestOpen s g c i
  | .error _ => true

/-- The next instruction of a clause could issue (R122): its flag has room, no interlock and no wait in place holds it, and its
unit can accept it. -/
def instrReady (s : State) (g : Gang) (c : ClauseRun) : Bool := flagRoom g c && (heldAt s g c).isNone && unitFree s g c

/-- The gang could go on with the clause that has been fetched (R122, R383). -/
def startReady (s : State) (g : Gang) (f : Fetched) : Bool :=
  startsNow g f && if startsOtherwise s g f then preciseDue g f || deferredDue s g || !hitsHeld s g else instrReady s g (firstRun g f)

/-- The gang could issue, `yield` and eviction apart (R122). -/
def couldIssue (s : State) (g : Gang) : Bool :=
  g.slot.isSome && g.pending.isNone && released s g && !replayDue g &&
  match g.clause, g.wait with
  | none, .none => (g.fetched.map (startReady s g)).getD false
  | some c, .none => instrReady s g c
  | some c, .unit => unitReady s g c
  | _, _ => false

/-- The gangs of a scheduler; the gang in the landing slot is one of scheduler 0's (R122). -/
def candidates (s : State) (core sch : Nat) : List Gang := s.gangs.filter fun g => g.core == core && g.slot.isSome && schedOf g == sch

/-- Gangs under `yield` give way while another is among them (R132). DEDUCED, log entry 17 (unsafe). -/
def giveWay (gs : List Gang) : List Gang :=
  let first := gs.filter fun g => !g.yielded
  if first.isEmpty then gs else first

/-- The eligible gangs of a scheduler (R122, R132); one that is marked for eviction is not eligible. -/
def eligible (s : State) (core sch : Nat) : List Gang :=
  giveWay ((candidates s core sch).filter fun g => couldIssue s g && !evictionAsked s g)

/-- The gangs among which a scheduler selects: the eligible ones; where there is none, those marked for eviction that are to come
to a blocking point (R366, R368, R370). DEDUCED, log entry 15 (unsafe). -/
def selectable (s : State) (core sch : Nat) : List Gang :=
  if (eligible s core sch).isEmpty then giveWay ((candidates s core sch).filter (couldIssue s)) else eligible s core sch

/-- The oldest gang of a list: that placed first. -/
def oldest : List Gang → Option Gang
  | [] => none
  | x :: xs => match oldest xs with
    | none => some x
    | some y => if x.placed < y.placed then some x else some y

/-- Why the next instruction of a clause cannot issue (R125): its flag, an interlock or a wait in place, or its unit. -/
def instrStall (s : State) (g : Gang) (c : ClauseRun) : Option Nat :=
  if !flagRoom g c then some 1
  else match heldAt s g c with
    | some r => some r
    | none => if unitFree s g c then none else some 3

/-- Why a fetched clause cannot start (R53, R125). -/
def startStall (s : State) (g : Gang) (f : Fetched) : Option Nat :=
  if !startsNow g f then some 1
  else if startsOtherwise s g f then (if startReady s g f then none else some 11)
  else instrStall s g (firstRun g f)

/-- A gang's stall reason: the first of R125's table that applies. DEDUCED, log entry 38 (unsafe). -/
def stallOf (s : State) (g : Gang) : Nat :=
  match g.wait with
  | .flags _ => 1
  | .unit => 3
  | .blocked st _ _ => if st = 13 ∧ evictionAsked s g = true then 12 else st
  | .stopped => 11
  | .none =>
    if g.pending.isSome then 3
    else match g.clause, g.fetched with
      | none, none => 0
      | none, some f => if released s g then (startStall s g f).getD idleOr else 0
      | some c, _ => (instrStall s g c).getD idleOr
where
  /-- Nothing else holds the gang. -/
  idleOr : Nat := if replayDue g then 11 else if evictionAsked s g then 12 else 14

/-- One more in a histogram counter of a core; the counters are 32 bits and wrap (R124). -/
def bump (m : FMap Word) (k : Nat) : FMap Word := fput m k (fgetD m k 0 + 1)

/-- The histograms of a scheduler count a clk (R124). -/
def countClk (s : State) (core sch : Nat) : State :=
  let n := (eligible s core sch).length
  let st := ((oldest (candidates s core sch)).map (stallOf s)).getD 14
  modCore s core fun k =>
    { k with helig := bump k.helig (32 * sch + min n 16),
             hstall := if n = 0 then bump k.hstall (32 * sch + st) else k.hstall }

/-- A gang under `yield` waits for the gangs that are eligible on the clk after it, and no longer once no other is eligible on a clk
(R132). DEDUCED, log entry 17 (unsafe). -/
def noteYield (others : List Nat) (g : Gang) : Gang :=
  if !g.yielded then g
  else if others.isEmpty then { g with yielded := false, yieldFor := none }
  else { g with yieldFor := some (g.yieldFor.getD others) }

/-- A gang under `yield` waits no longer for a gang that has issued (R132). -/
def yieldPast (chosen : Nat) (g : Gang) : Gang :=
  match g.yieldFor.map fun ids => ids.filter (· != chosen) with
  | none => g
  | some [] => { g with yielded := false, yieldFor := none }
  | some ids => { g with yieldFor := some ids }

/-- An eligible gang that is not selected ages (R123). -/
def ageGang (ids : List Nat) (chosen : Nat) (g : Gang) : Gang :=
  if ids.contains g.id && g.id != chosen then { g with aging := g.aging + 1 } else g

/-- The gangs of a list that have come to a multiple of 256 (R123). -/
def rises (gs : List Gang) (ids : List Nat) (chosen : Nat) : List Work :=
  (gs.filter fun g => ids.contains g.id && g.id != chosen && (g.aging + 1) % 256 == 0).map fun g =>
    .event .agingClassRise [g.id]

/-- The clk for which a divider or a special-function unit accepts nothing more (R139, R174). -/
def unitPeriod : Nat := 4

/-- The divider or the special-function unit of the gang's scheduler takes an instruction (R139, R174). -/
def occupyUnit (s : State) (g : Gang) (i : Instr) : State :=
  let t := clkOf s g.core + unitPeriod
  if divides i then modCore s g.core fun k => { k with divFree := fput k.divFree (schedOf g) t }
  else if clsOf.fpLong i then modCore s g.core fun k => { k with sfuFree := fput k.sfuFree (schedOf g) t }
  else s

/-- Registers of an operand, counted from its first. -/
def Opnd.width (lv : Nat) (o : Opnd) : Nat := ((o.extent lv).map fun x => x.2 + 1 - x.1).getD 0

/-- The writes that an instruction adds to an operand log (R371): one for each register and each predicate.
DEDUCED, log entry 69 (safe). -/
def opWrites (g : Gang) (A : Word) (i : Instr) : List OpWrite :=
  let w := namedBy i
  let lanes := fun (o : Opnd) => lanesOf (match o with | .win _ => g.live | _ => A)
  (w.dst.flatMap fun o => (List.range (o.width g.level)).map fun k =>
      { gang := g.id, pred := false, lanes := (lanes o).filterMap fun l => ((o.phys g.level (thr g l))[k]?).map fun r => (l, r) })
    ++ w.preds.map fun q => { gang := g.id, pred := true, lanes := (lanesOf A).map fun l => (l, q) }

/-- Writes that an operand log holds (R371). -/
def logDepth : Nat := 64

/-- The operand log of the gang's scheduler takes an instruction's writes (R371). -/
def logWrites (s : State) (g : Gang) (c : ClauseRun) (i : Instr) : State :=
  modCore s g.core fun k => { k with
    oplog := fput k.oplog (schedOf g) (((opWrites g (activeMask c) i).reverse ++ fgetD k.oplog (schedOf g) []).take logDepth) }

/-- A gang issues: its aging count and its class start again, it is under `yield` no longer, and those of its scheduler that are wait
for it no longer (R123, R132); its unit and the operand log of its scheduler take the instruction. -/
def startIssue (s : State) (g : Gang) (c : ClauseRun) : State :=
  let s0 := { s with gangs := s.gangs.map fun x => if x.core == g.core && x.slot.isSome && schedOf x == schedOf g then yieldPast g.id x else x }
  let s1 := modGang s0 g.id fun x => { x with aging := 0, curClass := baseClass s g, yielded := false, yieldFor := none }
  let s2 := match decodeWord (wordOf c) with
    | .ok i => logWrites (occupyUnit s1 g i) g c i
    | .error _ => s1
  { s2 with issuing := some g.id }

/-- A clause starts (R47 to R50): its words are decoded, its mask is fixed, and its first instruction issues; or it is
skipped. -/
def beginClause (s : State) (g : Gang) (f : Fetched) : State :=
  match headerBad g f with
  | some (cause, loc, lanes) => headerFault s g cause f.h loc lanes
  | none =>
    match illegalAt f with
    | some k => headerFault s g 0x01 (pcAt f.h k) (BitVec.ofNat 64 ((f.words[k]?).getD 0).toNat) (clauseMask g f.hdr)
    | none =>
      if clauseMask g f.hdr = 0 then setGang s (fallThrough { g with fetched := none } f.h f.words.length)
      else startIssue (setGang s { g with fetched := none, clause := some (firstRun g f) }) g (firstRun g f)

/-- R49: the fetched clause of the top entry starts, unless a precise fault at it is due (R366); what was to be delivered at a
clause start comes next (R234, R383). Focus: gang. -/
def execClauseStart (s : State) : Host.Outcome State Fault Refusal :=
  match gangOf s (s.focus.headD 0) with
  | none => .next s
  | some g =>
    match g.fetched with
    | none => .next s
    | some f =>
      if !atClauseStart s g || !startsNow g f then .next s
      else if preciseDue g f then .next (beginClause s g f)
      else if deferredDue s g then .next { s with agenda := .event .deferredFaultDelivery [g.id] :: s.agenda }
      else if hitsDue g then .next (if hitsHeld s g then s else deliverHits s g)
      else .next (beginClause s g f)

/-- A gang is selected (R123): the other eligible gangs of its scheduler age, and its next instruction issues, or its next clause
starts; an instruction that has issued and waited for its unit goes on. -/
def selectGang (s : State) (core sch : Nat) (g : Gang) : State :=
  let es := eligible s core sch
  let ids := es.map Gang.id
  let mine := (candidates s core sch).map Gang.id
  let s1 := { s with
    gangs := s.gangs.map fun x => if mine.contains x.id then ageGang ids g.id x else x,
    agenda := rises es ids g.id ++ s.agenda }
  match g.clause with
  | some c => if g.wait = .unit then { s1 with issuing := some g.id } else startIssue s1 g c
  | none => { s1 with agenda := .event .clauseStart [g.id] :: s1.agenda }

/-- The gangs of a scheduler under `yield` learn which others are eligible on this clk (R132). -/
def yieldClk (s : State) (core sch : Nat) : State :=
  let others := (((candidates s core sch).filter fun g => couldIssue s g && !evictionAsked s g && !g.yielded)).map Gang.id
  { s with gangs := s.gangs.map fun x => if x.core == core && x.slot.isSome && schedOf x == sch then noteYield others x else x }

/-- A clk of a core passes (R2, R389): its four schedulers select in turn, and cores without work count clks of their own.
DESIGN CHOICE, log entry 43 (safe). -/
def tick (s : State) (core : Nat) : State :=
  let (n, s1) := freeNat s
  let (m, s2) := freeNat s1
  { modCore (passIdle s2 m) core fun k => { k with clk := k.clk + 1, histClks := k.histClks + 1 } with
    time := s2.time + n,
    agenda := [1, 2, 3].map (fun t => .event .issueSelect [core, t]) ++ s2.agenda }

/-- R122: a scheduler selects at most one eligible gang; with scheduler 0 a new clk of the core begins. Focus: core,
sched. -/
def execIssueSelect (s : State) : Host.Outcome State Fault Refusal :=
  let core := s.focus.headD 0
  let sch := s.focus.getD 1 0 % 4
  if !coreExists core then .next s
  else
    let s1 := if sch = 0 then tick s core else s
    let s2 := countClk s1 core sch
    match foremost (selectable s2 core sch) with
    | some g => .next (selectGang (yieldClk s2 core sch) core sch ((gangOf (yieldClk s2 core sch) g.id).getD g))
    | none => .next (yieldClk s2 core sch)

/-- R123: at each multiple of 256 of its aging count a gang's class rises by one, up to 8. Focus: gang. -/
def execAgingClassRise (s : State) : Host.Outcome State Fault Refusal :=
  match gangOf s (s.focus.headD 0) with
  | none => .next s
  | some g =>
    if g.aging = 0 ∨ g.aging % 256 ≠ 0 then .next s
    else .next (setGang s { g with curClass := min 8 (g.curClass + 1) })

/-- Take one occurrence of a number out of a list. -/
def dropOne (k : Nat) : List Nat → List Nat
  | [] => []
  | x :: xs => if x = k then xs else x :: dropOne k xs

/-- R53: a counted instruction completes, in whatever order, and its flag falls by one. Focus: gang. -/
def execInstructionComplete (s : State) : Host.Outcome State Fault Refusal :=
  match gangOf s (s.focus.headD 0) with
  | none => .next s
  | some g =>
    match pickFrom s g.completing with
    | (none, s1) => .next s1
    | (some k, s1) => .next (setGang s1 { setFlagCount g k (flagCount g k - 1) with completing := dropOne k g.completing })

/-- R55: the flags that a gang waits for in place are clear. Focus: gang. -/
def execFlagWaitResume (s : State) : Host.Outcome State Fault Refusal :=
  match gangOf s (s.focus.headD 0) with
  | none => .next s
  | some g =>
    match g.wait with
    | .flags m => .next (if flagsClear g m.toNat then setGang s { g with wait := .none } else s)
    | _ => .next s

/-! ### Waking and eviction -/

/-- The wake condition of a blocking point holds (R367). -/
def condHolds (s : State) (g : Gang) : Cond → Bool
  | .phase l b woken => woken || (readBar s l).phase != b
  | .blkGen done => done
  | .cluGen done => done
  | .mwait _ woken _ => woken
  | .cells woken => woken
  | .joinZero => ((taskOf s g.task).map fun t => t.join == 0).getD true
  | .unfinished n lanes => (lanesOf lanes).all fun l => decide (unfinished s (thr g l) ≤ n)
  | .invisible n lanes => (lanesOf lanes).all fun l => decide (invisible s (thr g l) ≤ n)
  | .sealRoom lanes => (lanesOf lanes).all fun l => decide (unfinished s (thr g l) < 15)
  | .copyEntry => entryFree s g
  | .ringRoom r n => ((ringOf s g.core r).map fun x => decide (n ≤ x.free)).getD true
  | .record => (findRecord s (launchD s g.launch) g.core).2.isSome || mustAskSpill s (launchD s g.launch) (coreDie g.core)
  | .capacity => decide (unstarted s (coreDie g.core) < 1024)
  | .carve _ _ _ done => done || carveReady s g.block
  | .landing die _ => g.slot.isNone && settled s g && !(admitting s die (gangBytes' s g)).isEmpty
  | .claim => match (engineOf s g.core).owner with
    | none => true
    | some b => b == g.block
  | .commands ids => !(engineOf s g.core).cmds.any fun c => ids.contains c.id
  | .resumed => false

/-- The word that a woken `mwait` reads again can be reached (R256, R325). -/
def mwaitOpen (s : State) (g : Gang) : Bool :=
  match g.wait, g.clause with
  | .blocked _ (.mwait _ _ _) _, some c => match decodeWord (wordOf c) with
    | .ok i => lowestOpen s g c i
    | .error _ => true
  | _, _ => true

/-- The wait of an `mwait`, after which a stop may follow (R383). -/
def isMwait : Cond → Bool
  | .mwait _ _ _ => true
  | _ => false

/-- The wake condition that a gang waits for has occurred, and it can go on. -/
def wakes (s : State) (g : Gang) : Bool :=
  match g.wait with
  | .blocked _ c _ => condHolds s g c && mwaitOpen s g && !(isMwait c && stopHeld s g ((g.clause.map ClauseRun.hits).getD []))
  | _ => false

/-- The instruction of a blocking point completes when the wait is over: what needs no more than that (R246, R247, R299). -/
def wakeDone (s : State) (g : Gang) (c : ClauseRun) : State := complete s { g with wait := .none } c .none

/-- `mwait` reads its word again (R256). -/
def wakeMwaitDone (s : State) (g : Gang) (c : ClauseRun) : State :=
  match decodeWord (wordOf c) with
  | .ok (.mwait _ a d) =>
    let l := lowest (activeMask c)
    match mwaitRead s g l (laneAddr g l a) with
    | (s1, .error f) => failAt s1 { g with wait := .none } c .none f.cause f.loc (bitMask l) 0 f.colour
    | (s1, .ok (_, v)) => mwaitDone s1 { g with wait := .none } c d v
  | _ => wakeDone s g c

/-- `carve` writes its status (R108). -/
def wakeCarve (s : State) (g : Gang) (c : ClauseRun) (st d : Nat) : State :=
  wakeDone s (mapLanes (activeMask c) (fun _ t => wrReg g.level t d (BitVec.ofNat 32 st)) g) c

/-- A gang in its slot goes on from a blocking point: its instruction completes, or is issued again for the lanes that
remain. -/
def goOn (s : State) (id : Nat) : State :=
  let s0 := unparkTask s (((gangOf s id).map Gang.task).getD 0)
  match gangOf s0 id with
  | none => s0
  | some g =>
    match g.clause, g.wait with
    | some c, .blocked _ (.phase _ _ _) _ => wakeDone s0 g c
    | some c, .blocked _ (.blkGen _) _ => wakeDone s0 g c
    | some c, .blocked _ (.cluGen _) _ => wakeDone s0 g c
    | some c, .blocked _ (.commands _) _ => wakeDone s0 g c
    | some c, .blocked _ (.mwait _ _ _) _ => wakeMwaitDone s0 g c
    | some c, .blocked _ (.carve st _ d true) _ => wakeCarve s0 g c st d
    | _, _ => setGang s0 { g with wait := .none }

/-- A gang that has no slot is to be placed again (R104, R369), in the order in which its wake came: that of its cell's queue, where
a cell woke it (R338). -/
def markWoken (s : State) (id : Nat) : State :=
  let (n, s1) := newId s
  writeWakeState (modGang s1 id fun g => if g.woken.isSome then g else { g with woken := some (g.wakeOrder.getD n) }) id

/-- A decided `carve` reaches every gang of the block. -/
def settleWait (s : State) (g : Gang) : State :=
  match g.wait with
  | .blocked _ (.carve _ _ _ false) _ => if carveReady s g.block then settleCarve s g.block else s
  | _ => s

/-- A gang is requested to give up its slot, and can (R368, R370). -/
def evicts (s : State) (g : Gang) : Bool := evictionAsked s g && evictReady g

/-- A gang at a blocking point is to be evicted before it goes on (R368): its eviction has been requested, and the arena has room for
its records. -/
def evictsFirst (s : State) (g : Gang) : Bool := evictionAsked s g && !landingWait g && (arenaRoom s g false).isSome

/-- The end of a gang that was stopped for good (R364, R365): a task that a fault ends ends once its event can be posted (R418,
R427). -/
def endStopped (s : State) (g : Gang) : State :=
  match g.ended with
  | some (cause, pc, loc) => if eventRoom s (coreDie g.core) then taskFaultEnd s g { cause := cause, pc := pc, loc := loc } else s
  | none =>
    let s1 := sweepLaunch s g.launch
    match gangOf s1 g.id with
    | some x => stopGang s1 x
    | none => s1

/-- A comparison of replay that waited for the log can be made now, or the log is to be asked for (R401, R426). -/
def compareDue (s : State) (g : Gang) : Bool :=
  let L := launchD s g.launch
  g.compare.isSome && (mustStop s g || L.log.diverged || logReadable s L || mustAskLog s L)

/-- A divergence at which the gang is still to halt (R402): between its instructions, and when the stop's event has room (R418). -/
def divergeDue (s : State) (g : Gang) : Bool :=
  g.diverges.isSome && (mustStop s g || (g.wait != .stopped && g.pending.isNone && s.issuing != some g.id && eventRoom s (coreDie g.core)))

/-- What replay has still to do with a gang is done; a gang that is to stop halts no more, and one whose comparison meets an
uncorrectable error in the log ends (R372). -/
def settleReplay (s : State) (g : Gang) : State :=
  if mustStop s g then setGang s { g with compare := none, diverges := none }
  else match g.compare, g.diverges with
    | some (op, fn, pc), _ =>
      match (if (launchD s g.launch).log.diverged || !logReadable s (launchD s g.launch) then none else syncError s g) with
      | some va => fatal s { g with compare := none } { cause := 0x60, pc := pc, loc := va }
      | none => syncPoint (setGang s { g with compare := none }) g.id op fn pc
    | none, some (kind, unit, pc) => divergeStop s g kind unit pc
    | none, none => s

/-- A gang at a blocking point, or without a slot, that is to stop does so at once (R97, R346). -/
def stopsHere (s : State) (g : Gang) : Bool := mustStop s g && (g.blocked || g.slot.isNone)

/-- R367: a gang at a blocking point stops, goes on, or is marked for placement; one that an escalation or a fatal fault
stopped ends (R364, R365); what replay holds of it is done (R401, R402). Focus: gang. DEDUCED, log entry 34 (unsafe). -/
def execGangWake (s : State) : Host.Outcome State Fault Refusal :=
  let id := s.focus.headD 0
  match gangOf s id with
  | none => .next s
  | some g =>
    if g.wait = .stopped then .next (endStopped s g)
    else if compareDue s g || (g.compare.isNone && divergeDue s g) then .next (settleReplay s g)
    else if stopsHere s g then .next (stopGang s g)
    else if wakeOwing s g then .next (writeWake s id false)
    else if !g.blocked then .next s
    else if replayDue g then .next s
    else if g.slot.isSome && hitsDue g then .next (if hitsHeld s g then s else deliverHits s g)
    else if g.slot.isNone && (wakes s g || deferredDue s g) then .next (if g.woken.isSome then s else markWoken (settleWait s g) id)
    else if g.slot.isSome && wakes s g && !evictsFirst s g then .next (goOn (settleWait s g) id)
    else .next s

/-- R368: a marked gang at a blocking point is evicted, once the arena can be written (R426). Focus: gang.
DEDUCED, log entry 35 (unsafe). -/
def execGangEviction (s : State) : Host.Outcome State Fault Refusal :=
  match gangOf s (s.focus.headD 0) with
  | none => .next s
  | some g =>
    if !evicts s g then .next s
    else match evictGang s g false with
      | some s1 => .next s1
      | none => .next (askArena s g false)

/-- The time limit of an `mwait` in clk (R256). -/
def mwaitLimit : Nat := 2 ^ 20

/-- An `mwait` has waited for its time limit. DEDUCED, log entry 36 (safe). -/
def mwaitOver (s : State) (g : Gang) : Bool :=
  match g.wait with
  | .blocked _ (.mwait _ false t) _ => decide (t + mwaitLimit ≤ clkOf s g.core)
  | _ => false

/-- R256: an `mwait` wakes at its time limit. Focus: gang. -/
def execMwaitTimeout (s : State) : Host.Outcome State Fault Refusal :=
  match gangOf s (s.focus.headD 0) with
  | none => .next s
  | some g =>
    if mwaitOver s g then .next (setGang s { g with wait := g.wait.mapCond Cond.preempted }) else .next s

/-! ### Samples and stalled gates -/

/-- The address at which a gang stands. -/
def pcOf (g : Gang) : Dbl := (g.clause.map instrPc).getD (topEntry g).pc

/-- A sample of one scheduler of a core (R391). DESIGN CHOICE, log entry 39 (safe). -/
def sampleSched (launch core : Nat) (s : State) (sch : Nat) : State :=
  match oldest (candidates s core sch) with
  | some g => traceOn s launch core 9 (gangBytes g) (leOf 1 sch ++ leOf 1 (stallOf s g) ++ leOf 8 (pcOf g).toNat)
  | none => traceOn s launch core 9 (leOf 1 0xFF ++ leOf 2 0xFFFF ++ leOf 2 0xFFFF) (leOf 1 sch ++ leOf 1 14 ++ leOf 8 0)

/-- The sample period of a launch has passed on a core: the number of the new one (R391).
DESIGN CHOICE, log entry 39 (safe). -/
def sampleDue (s : State) (L : Launch) (core : Nat) : Option Nat :=
  let k := timeOf s core / 2 ^ L.samplePeriod
  if L.samplePeriod = 0 ∨ L.desc.ntrace = 0 ∨ L.state = .done ∨ fget L.sampled core = some k then none else some k

/-- R391: each scheduler of a core writes a sample of its oldest gang. Focus: launch, core. -/
def execTraceSample (s : State) : Host.Outcome State Fault Refusal :=
  let core := s.focus.getD 1 0
  match launchOf s (s.focus.headD 0) with
  | none => .next s
  | some L =>
    match sampleDue s L core with
    | none => .next s
    | some k =>
      .next (modLaunch ((List.range 4).foldl (sampleSched L.id core) s) L.id fun x => { x with sampled := fput x.sampled core k })

/-- The time limit of an order gate in clk (R402). -/
def gateLimit : Nat := 2 ^ 24

/-- The operation that has waited at a gate longest (R402): its core, since when, and its order. -/
def longestWait : List (Nat × Nat × Nat) → Option (Nat × Nat × Nat)
  | [] => none
  | x :: xs => match longestWait xs with
    | none => some x
    | some y => some (if x.2.2 ≤ y.2.2 then x else y)

/-- A gate has admitted nothing for the time limit, in the clks of the core that issued the operation that came first (R402).
DEDUCED, log entry 36 (safe). -/
def gateOver (s : State) (launch : Nat) (u : UnitId) : Bool :=
  ((longestWait (gateQueue s launch u)).map fun x => decide (x.2.1 + gateLimit ≤ clkOf s x.1)).getD false

/-- The core on which the first operation at a gate waits, and its gang as trace shows it (R391); an arrival of the engine is shown
as its command's gang. -/
def waitingAt (s : State) (launch : Nat) (u : UnitId) : Option (Nat × List Byte) :=
  (longestWait (gateQueue s launch u)).map fun x =>
    let mine := fun (y : Option (Nat × Nat × Nat × Nat)) => waitsAt u y && (y.map fun z => z.2.2.2) == some x.2.2
    (x.1, match s.gangs.find? fun g => g.launch == launch && mine g.gate with
      | some g => gangBytes g
      | none => (((engineOf s x.1).cmds.find? fun c => c.launch == launch && mine c.gate).map fun c =>
          gangBytes ((gangOf s c.gang).getD (cmdGang s x.1 c))).getD [])

/-- The gang that a gate awaits (R401). -/
def awaitedGang (s : State) (L : Launch) (w p : Nat) : Option Nat :=
  let es := (unitEntries s L (fun x q => x == w && q == p) 4 (logChunks s L) 0).map fun off =>
    (logWord s L off 4 / 4096, logWord s L off 4 % 4096)
  runAt es (((gateOf L.log ⟨w, p⟩).map Gate.admitted).getD 0)

/-- The counts of a gang of a launch by its gang id: as they stand, as they stood when it ended, or 0 (R402). -/
def countsOf (s : State) (L : Launch) (gid : Nat) : Nat × Nat × Nat :=
  match s.gangs.find? fun g => g.launch == L.id && gangLogId s g == gid with
  | some g => (g.retcnt, g.sthash.toNat, g.syncs)
  | none => ((L.finals.find? fun x => x.1 == gid).map Prod.snd).getD (0, 0, 0)

/-- R402: a gate that has admitted nothing for its time limit diverges, and every gate of the launch opens. Focus: launch,
unit, place. -/
def execGateStallDivergence (s : State) : Host.Outcome State Fault Refusal :=
  let w := s.focus.getD 1 0
  let p := s.focus.getD 2 0
  match launchOf s (s.focus.headD 0) with
  | none => .next s
  | some L =>
    if L.log.diverged || !gateOver s L.id ⟨w, p⟩ then .next s
    else
      match waitingAt s L.id ⟨w, p⟩, awaitedGang s L w p with
      | some (core, who), some gid =>
        let (ret, hash, syncs) := countsOf s L gid
        .next (diverge s L.id core who 4 gid ret hash syncs w)
      | _, _ => .next s

end Sys2Proof.Machine
end

