-- ==== Sys2Proof/Machine/LoadStore.lean ====
section
/-! DEFINITION. Meanings of the scratchpad loads and stores (R204, R205), the ordering instructions (R318 to R321) and the
tag instructions (R385, R386). -/

namespace Sys2Proof.Machine

/-- Stage 1 of a load or store of a lane (R205, R319): the address pair's window, the address checks, then the window of
the data extent. -/
def checkLS (size off a : Nat) (data : Opnd) (s : State) (g : Gang) (lane : Nat) : Except LaneFail Unit :=
  match laneWindow g lane [.pair a] with
  | .error f => .error f
  | .ok _ =>
    match stage1 s g lane (laneAddr g lane a) (offM off size) size size true true false with
    | .error f => .error f
    | .ok _ => laneWindow g lane [data]

/-- The operand that holds the data of a size. -/
def dataOpnd (size d : Nat) : Opnd := if size = 16 then .quad d else if size = 8 then .pair d else .reg d

/-- A load of a size (R205). -/
def issueLoad (size off : Nat) (signed : Bool) (a d : Nat) (s : State) : Step :=
  issueAccess s (.load size off signed a d) (checkLS size off a (dataOpnd size d))

/-- A store of a size (R205). -/
def issueStore (size off a d : Nat) (s : State) : Step :=
  issueAccess s (.store size off a d) (checkLS size off a (dataOpnd size d))

/-- R205: load of a zero-extended byte. -/
def execLdB (o a d : Nat) (s : State) : Step := issueLoad 1 o false a d s

/-- R205: load of a zero-extended half. -/
def execLdH (o a d : Nat) (s : State) : Step := issueLoad 2 o false a d s

/-- R205: load of a word. -/
def execLdW (o a d : Nat) (s : State) : Step := issueLoad 4 o false a d s

/-- R205: load of a double into a pair. -/
def execLdD (o a d : Nat) (s : State) : Step := issueLoad 8 o false a d s

/-- R205: load of a sign-extended byte. -/
def execLdsB (o a d : Nat) (s : State) : Step := issueLoad 1 o true a d s

/-- R205: load of a sign-extended half. -/
def execLdsH (o a d : Nat) (s : State) : Step := issueLoad 2 o true a d s

/-- R205: load of a quad. -/
def execLdsQ (o a d : Nat) (s : State) : Step := issueLoad 16 o false a d s

/-- R205: store of a byte. -/
def execStB (o a d : Nat) (s : State) : Step := issueStore 1 o a d s

/-- R205: store of a half. -/
def execStH (o a d : Nat) (s : State) : Step := issueStore 2 o a d s

/-- R205: store of a word. -/
def execStW (o a d : Nat) (s : State) : Step := issueStore 4 o a d s

/-- R205: store of a double from a pair. -/
def execStD (o a d : Nat) (s : State) : Step := issueStore 8 o a d s

/-- R205: store of a quad. -/
def execStQ (o a d : Nat) (s : State) : Step := issueStore 16 o a d s

/-- R319: word load with acquire; its access is performed before the gang issues again, which orders more than any
scope asks. -/
def execLdAcqW (_ a d : Nat) (s : State) : Step := issueLoad 4 0 false a d s

/-- R319: double load with acquire; its access is performed before the gang issues again, which orders more than any
scope asks. -/
def execLdAcqD (_ a d : Nat) (s : State) : Step := issueLoad 8 0 false a d s

/-- R320: word store with release: it waits in place (`heldBy`) and then stores. DEDUCED, log entry 41 (unsafe). -/
def execStRelW (_ a d : Nat) (s : State) : Step := issueStore 4 0 a d s

/-- R320: double store with release. -/
def execStRelD (_ a d : Nat) (s : State) : Step := issueStore 8 0 a d s

/-- A fence (R321): it waits in place while an access that it orders is outstanding (`heldBy`), and then goes past.
DEDUCED, log entry 41 (unsafe). -/
def issueFence (s : State) : Step := issue s .none fun g c => finish s g c .none

/-- R321: acquire fence. -/
def execFenceAcq (_ : Nat) (s : State) : Step := issueFence s

/-- R321: release fence. -/
def execFenceRel (_ : Nat) (s : State) : Step := issueFence s

/-- R321: full fence of scope `.gng`. -/
def execFenceGng (s : State) : Step := issueFence s

/-- R321: full fence of scope `.blk`. -/
def execFenceBlk (s : State) : Step := issueFence s

/-- R321: full fence of scope `.clu`. -/
def execFenceClu (s : State) : Step := issueFence s

/-- R321: full fence of scope `.die`. -/
def execFenceDie (s : State) : Step := issueFence s

/-- R321: full fence of scope `.dev`. -/
def execFenceDev (s : State) : Step := issueFence s

/-- R321: full fence of scope `.dom`. -/
def execFenceDom (s : State) : Step := issueFence s

/-- Stage 1 of a tag instruction (R385, R386): n bytes at a granule. -/
def checkTag (os : List Opnd) (a : Nat) (len : Gang → Nat → Nat) (s : State) (g : Gang) (lane : Nat) : Except LaneFail Unit :=
  match laneWindow g lane os with
  | .error f => .error f
  | .ok _ =>
    match stage1 s g lane (laneAddr g lane a) 0 (len g lane) 16 true true true with
    | .error f => .error f
    | .ok ea => if len g lane % 16 = 0 ∧ len g lane ≤ 65536 then .ok () else .error ⟨lane, 0x11, ea, 0⟩

/-- R385: sets the colour of one granule. -/
def execTagSet (a : Nat) (s : State) : Step :=
  issueAccess s (.tagSet a) (checkTag [.pair a] a fun _ _ => 16)

/-- R386: reads a granule's tag byte. -/
def execTagGet (a d : Nat) (s : State) : Step :=
  issueAccess s (.tagGet a d) (checkTag [.reg d, .pair a] a fun _ _ => 16)

/-- R385: sets the colour of a range of granules. -/
def execTagSetr (b a : Nat) (s : State) : Step :=
  issueAccess s (.tagSetr b a) (checkTag [.pair a, .reg b] a fun g lane => (rdReg g.level (thr g lane) b).toNat)

end Sys2Proof.Machine
end

