-- ==== Sys2Proof/Machine/Mgmt.lean ====
section
/-! DEFINITION. The management window: register writes (R416 to R418) and the commands of R419 and R420. -/

namespace Sys2Proof.Machine

/-- Change the command block of a die. -/
def modCmd (s : State) (d : Nat) (f : Cmd → Cmd) : State := modMgmt s d fun m => { m with cmd := f m.cmd }

/-- A command is performed, with the operands that stood when it was issued, and its final status written (R419): a context beyond
4,095 is an operand out of range. -/
def command (s : State) (f : State → Nat → Cmd → State × Nat) : Host.Outcome State Fault Refusal :=
  let d := s.focus.headD 0 % 2
  let c := (mgmtOf s d).run
  if 4096 ≤ c.ctx then .next (modCmd s d fun x => { x with status := 2 })
  else .next (modCmd (f s d c).1 d fun x => { x with status := (f s d c).2 })

/-- The launches that a command names (R419). -/
def cmdLaunches (s : State) (c : Cmd) : List Launch :=
  s.launches.filter fun L => L.ctx == c.ctx && L.state != .done && vaOf L.addr == c.addr % 2 ^ 57
    && (!bit c.arg 32 || L.take == c.arg % 2 ^ 32)

/-- A gang is the target that a command names. -/
def cmdTarget (c : Cmd) (g : Gang) : Bool :=
  if c.task != 0 then g.task.toNat == c.task
  else g.task == 0 && g.cluster == c.cluster && g.rank == c.rank && g.index == c.gang

/-- The gang that a command names: in the earliest-taken launch that holds it (R419). -/
def targetGang (s : State) (c : Cmd) : Option Gang :=
  (cmdLaunches s c).findSome? fun L => s.gangs.find? fun g => g.launch == L.id && cmdTarget c g

/-- A command on every launch that it names; status 3 when there is none. -/
def onLaunches (s : State) (c : Cmd) (f : State → Nat → State) : State × Nat :=
  match cmdLaunches s c with
  | [] => (s, 3)
  | L :: Ls => (((L :: Ls).map Launch.id).foldl f s, 0)

/-- Rewrite the state byte of the wake records of a launch's evicted gangs (R370). -/
def rewriteWakes (s : State) (launch : Nat) : State :=
  (s.gangs.filter fun g => g.launch == launch && g.wakeRec.isSome).foldl (fun t g => writeWakeState t g.id) s

/-- R88, R419: a residency request is answered. Focus: die. -/
def execLeaseAck (s : State) : Host.Outcome State Fault Refusal :=
  command s fun s d c =>
    let n := c.arg % 2 ^ 32
    if 1 < c.sub then (s, 2)
    else
      match s.launches.find? fun L => L.ctx == c.ctx && L.die == d && L.requests.any fun r => r.num == n && r.answer == 0 with
      | none => (s, 3)
      | some L =>
        let idx := ((L.requests.find? fun r => r.num == n && r.answer == 0).map Request.index).getD 0
        let s1 := modLaunch s L.id fun L => { L with requests := L.requests.map fun r => if r.num = n then { r with answer := c.sub + 1 } else r }
        if c.sub = 0 then (storeOwed (leaseCheck s1 L.id) L.id, 0)
        else if idx = 0xF1 ∧ L.closed = true then (s1, 0)
        else (endLaunch s1 L.id 7 0 0 0, 0)

/-- R370: a launch is marked for pre-emption. Focus: die. -/
def execPreemptMark (s : State) : Host.Outcome State Fault Refusal :=
  command s fun s _ c => onLaunches s c fun t id => rewriteWakes (modLaunch t id fun L => { L with preempt := true }) id

/-- R370: the mark is cleared. Focus: die. -/
def execPreemptClear (s : State) : Host.Outcome State Fault Refusal :=
  command s fun s _ c => onLaunches s c fun t id => rewriteWakes (modLaunch t id fun L => { L with preempt := false }) id

/-- A cancel command (R96, R419): its status goes to `mc.arg`. -/
def cancelCmd (s : State) (named : State → Cmd → CancelSet) : Host.Outcome State Fault Refusal :=
  command s fun s d c => (modCmd (cancelAll s (named s c)) d fun x => { x with arg := (named s c).status }, 0)

/-- R96, R419: as `cancel.l`. Focus: die. -/
def execCmdCancelL (s : State) : Host.Outcome State Fault Refusal := cancelCmd s fun t c => namedL t c.ctx (BitVec.ofNat 64 c.addr)
/-- R96, R419: as `cancel.g`. Focus: die. -/
def execCmdCancelG (s : State) : Host.Outcome State Fault Refusal := cancelCmd s fun t c => namedG t c.ctx (BitVec.ofNat 64 c.addr)
/-- R96, R419: as `cancel.j`. Focus: die. -/
def execCmdCancelJ (s : State) : Host.Outcome State Fault Refusal := cancelCmd s fun t c => namedJ t c.ctx

/-- The entries that SHOOTDOWN and HARVEST name (R419): length 0 names the whole context. -/
def cmdSet (c : Cmd) : InvSet := if c.arg = 0 then .context else roundRange (c.addr % 2 ^ 57) c.arg

/-- R207, R419: as `tlb.inv`. Focus: die. -/
def execShootdown (s : State) : Host.Outcome State Fault Refusal :=
  command s fun s _ c => (invalidateSet s (cmdSet c) c.ctx, 0)
/-- R208, R419: as `dirty.harv`. Focus: die. -/
def execHarvest (s : State) : Host.Outcome State Fault Refusal :=
  command s fun s _ c => (harvestSet s (cmdSet c) c.ctx, 0)

/-- R255, R419: the shadows of a leaf page are written to memory and freed. Focus: die. -/
def execShadowRetire (s : State) : Host.Outcome State Fault Refusal :=
  command s fun s d c =>
    match walk s d c.ctx (c.addr % 2 ^ 57) with
    | .leaf _ e size => (retireShadows s (bits e.toNat 12 40 * 4096 / size * size) size, 0)
    | _ => (s, 3)

/-- R379: a halt request of one gang, or of every gang of the launches named. Focus: die. -/
def execHaltReq (s : State) : Host.Outcome State Fault Refusal :=
  command s fun s _ c =>
    if c.gang = 0xFF then
      onLaunches s c fun t id => { t with gangs := t.gangs.map fun g => if g.launch = id then { g with haltReq := true } else g }
    else
      match targetGang s c with
      | none => (s, 3)
      | some g => (modGang s g.id fun g => { g with haltReq := true }, 0)

/-- R379: the region breakpoints of a launch. Focus: die. -/
def execRegionBp (s : State) : Host.Outcome State Fault Refusal :=
  command s fun s _ c =>
    if 8 < c.sub ∨ c.buf % 64 ≠ 0 ∨ (c.sub ≠ 0 ∧ physOk s c.buf = false) then (s, 2)
    else
      let ids := (List.range c.sub).map fun i => readNat s (physLoc (c.buf + 2 * i)) 2
      onLaunches s c fun t id => modLaunch t id fun L => { L with breakpoints := ids }

/-- R380: the stop mode of a launch. Focus: die. -/
def execStopMode (s : State) : Host.Outcome State Fault Refusal :=
  command s fun s _ c => if 1 < c.sub then (s, 2) else onLaunches s c fun t id => modLaunch t id fun L => { L with stopMode := c.sub }

/-- R363: break stops of a launch. Focus: die. -/
def execBreakEn (s : State) : Host.Outcome State Fault Refusal :=
  command s fun s _ c => if 1 < c.sub then (s, 2) else onLaunches s c fun t id => modLaunch t id fun L => { L with brkOn := c.sub == 1 }

/-- R391: the sample period of a launch. Focus: die. -/
def execSample (s : State) : Host.Outcome State Fault Refusal :=
  command s fun s _ c =>
    if c.sub ≠ 0 ∧ (c.sub < 10 ∨ 24 < c.sub) then (s, 2)
    else onLaunches s c fun t id => modLaunch t id fun L => { L with samplePeriod := c.sub, sampled := [] }

/-- The gang is stopped: by a `halt`, a break or a debug stop (R394). -/
def Gang.stopped (g : Gang) : Bool :=
  match g.wait with
  | .blocked _ .resumed _ => true
  | _ => false

/-- A stopped gang goes on (R130, R363, R380): into the wait on which its stop landed, if there was one. An evicted one is
woken, and its wake record shows the wait that it is in (R369). One that is to stop does so there (R97, R352). DEDUCED, log entry 60 (unsafe). -/
def resumeGang (s : State) (g : Gang) : State :=
  let s1 := modGang s g.id fun x => { x with wait := g.under, under := .none }
  if mustStop s g then stopGang s g
  else if g.under ≠ .none then writeWakeRecord s1 g.id
  else if g.slot.isSome then unparkTask s1 g.task
  else
    let (n, s2) := newId s1
    writeWakeRecord (modGang s2 g.id fun x => { x with woken := some n }) g.id

/-- R394: ends a stop. Focus: die. -/
def execResume (s : State) : Host.Outcome State Fault Refusal :=
  command s fun s _ c =>
    match targetGang s c with
    | none => (s, 3)
    | some g => if g.stopped then (resumeGang s g, 0) else (s, 4)

/-- The core that `mc.core` names. -/
def cmdCore (s : State) (c : Cmd) : Option Nat :=
  let k := bits c.core 10 1 * 1024 + bits c.core 6 4 * 64 + bits c.core 0 4
  if bits c.core 11 5 = s.module ∧ bits c.core 4 2 = 0 ∧ coreExists k = true then some k else none

/-- R388: the histograms of a core are zeroed. Focus: die. -/
def execZeroHist (s : State) : Host.Outcome State Fault Refusal :=
  command s fun s _ c =>
    match cmdCore s c with
    | none => (s, 2)
    | some k => (modCore s k fun x => { x with helig := [], hstall := [], histBase := clkOf s k, histClks := 0 }, 0)

/-- The wake record of a gang as READ_STATE shows it (R420). -/
def stateRecord (s : State) (g : Gang) : List Byte :=
  match g.wakeRec with
  | some o => wakeRecord s g (wakeState s g) ((launchD s g.launch).desc.arena.toNat + o + 64) g.tEvict
  | none => wakeRecord s g 3 0 0

/-- A wide value of words, one per lane. -/
def wideBytes (g : Gang) (f : Thread → Nat) : List Byte := (List.range 32).flatMap fun l => leOf 4 (f (thr g l))

/-- The state image of READ_STATE (R420). -/
def stateImage (s : State) (g : Gang) : List Byte :=
  stateRecord s g ++ leOf 2 g.regionDepth ++ (List.range 8).flatMap (fun i => leOf 2 (regionAt g i))
    ++ leOf 1 g.frontier.length ++ leOf 1 g.level ++ (List.range 12).flatMap (fun k => leOf 1 (flagCount g k))
    ++ ((g.frontier.flatMap entryBytes) ++ List.replicate 512 0).take 512
    ++ (List.range 32).flatMap (fun l => leOf 16 (thr g l).preds.toNat)
    ++ wideBytes g (fun t => t.wbase) ++ wideBytes g (fun t => t.aflags.toNat) ++ List.replicate 32 0
    ++ (List.range g.nregs).flatMap fun i => wideBytes g fun t => (rdPhys t i).toNat

/-- R420: the state image of a stopped or evicted gang. Focus: die. -/
def execReadState (s : State) : Host.Outcome State Fault Refusal :=
  command s fun s _ c =>
    if c.buf % 64 ≠ 0 then (s, 2)
    else
      match targetGang s c with
      | none => (s, 3)
      | some g =>
        let bs := stateImage s g
        if !(g.stopped || g.slot.isNone) then (s, 4)
        else if !(physOk s c.buf && physOk s (c.buf + bs.length - 1)) then (s, 2)
        else (writeBytes s (physLoc c.buf) bs, 0)

/-- R368: eviction of a stopped gang is requested; one that has no slot is evicted already. Focus: die.
DEDUCED, log entry 35 (unsafe). -/
def execEvict (s : State) : Host.Outcome State Fault Refusal :=
  command s fun s _ c =>
    match targetGang s c with
    | none => (s, 3)
    | some g =>
      if !g.stopped then (s, 4) else (modGang s g.id fun x => { x with marked := g.slot.isSome }, 0)

/-- R419: a code that names no command, or an operand out of range, has no effect but status 2. Focus: die. -/
def execUnknownCommand (s : State) : Host.Outcome State Fault Refusal := command s fun s _ _ => (s, 2)

/-- R416: the module number, for both dies. Focus: die, value. -/
def execModuleNumberWrite (s : State) : Host.Outcome State Fault Refusal :=
  let v := s.focus.getD 1 0 % 256
  .next (if v < 32 then { s with module := v } else s)

/-- R418: system software has consumed events. Focus: die, value. -/
def execEventHeadWrite (s : State) : Host.Outcome State Fault Refusal :=
  let d := s.focus.headD 0 % 2
  .next (recheckLeases (drainEvents (modMgmt s d fun m => { m with evhead := s.focus.getD 1 0 % 2 ^ 32 }) d) d)

/-- The event of a command code (R419). -/
def commandEvent (op : Nat) : Instr :=
  match op with
  | 0x01 => .leaseAck
  | 0x02 => .preemptMark
  | 0x03 => .preemptClear
  | 0x04 => .cmdCancelL
  | 0x05 => .cmdCancelG
  | 0x06 => .cmdCancelJ
  | 0x07 => .shootdown
  | 0x08 => .harvest
  | 0x09 => .shadowRetire
  | 0x10 => .haltReq
  | 0x11 => .regionBp
  | 0x12 => .stopMode
  | 0x13 => .resume
  | 0x14 => .breakEn
  | 0x15 => .sample
  | 0x16 => .zeroHist
  | 0x17 => .readState
  | 0x18 => .evict
  | _ => .unknownCommand

/-- A write to a field of the window (R416, R419): read-only, reserved and unlisted offsets keep what they hold. A write of
`mc.op` starts its command with the operands as they stand, unless one is in progress. DEDUCED, log entry 54 (safe). -/
def writeWindow (m : Mgmt) (off v : Nat) : Mgmt :=
  let w := v % 2 ^ 32
  let q := v % 2 ^ 64
  match off with
  | 0x008 => { m with qtab := q }
  | 0x010 => { m with ctxtab := q }
  | 0x018 => { m with pool := q }
  | 0x020 => { m with shadow := q }
  | 0x028 => { m with shsize := w }
  | 0x030 => { m with evring := q }
  | 0x038 => { m with evsize := w }
  | 0x100 => if m.cmd.status = 1 then m else { m with cmd := { m.cmd with op := w, status := 1 }, run := { m.cmd with op := w } }
  | 0x104 => { m with cmd := { m.cmd with ctx := v % 65536 } }
  | 0x106 => { m with cmd := { m.cmd with sub := v % 65536 } }
  | 0x108 => { m with cmd := { m.cmd with addr := q } }
  | 0x110 => { m with cmd := { m.cmd with arg := q } }
  | 0x118 => { m with cmd := { m.cmd with buf := q } }
  | 0x120 => { m with cmd := { m.cmd with cluster := w } }
  | 0x124 => { m with cmd := { m.cmd with task := w } }
  | 0x128 => { m with cmd := { m.cmd with rank := v % 256 } }
  | 0x129 => { m with cmd := { m.cmd with gang := v % 256 } }
  | 0x12A => { m with cmd := { m.cmd with core := v % 65536 } }
  | _ => m

/-- What a write to the window lets go on: events that the ring has room for (R418), launches that wait to post one, and the lanes
that found no waiter record, once the pool has an address (R417). -/
def afterWrite (s : State) (d off : Nat) : State :=
  let s1 := recheckLeases (drainEvents s d) d
  if off = 0x018 then retryWaiters s1 else s1

/-- R416: a write to the management window. Focus: die, off, value. DEDUCED, log entry 54 (safe). -/
def execMgmtRegisterWrite (s : State) : Host.Outcome State Fault Refusal :=
  let d := s.focus.headD 0 % 2
  let off := s.focus.getD 1 0
  let v := s.focus.getD 2 0
  let s1 := afterWrite (modMgmt s d fun m => writeWindow m off v) d off
  .next (if off = 0x100 ∧ (mgmtOf s d).cmd.status ≠ 1 then
      { s1 with agenda := s1.agenda ++ [.event (commandEvent (v % 2 ^ 32)) [d]] }
    else s1)

end Sys2Proof.Machine
end

