-- ==== Sys2Proof/Machine/Outside.lean ====
section
/-! DEFINITION. Events of translation, errors, links, the time base, power and start-up (R22, R195, R200, R371 to R375,
R389, R422 to R424). -/

namespace Sys2Proof.Machine

/-! ### Translation -/

/-- R195: a walk for a core's fetch completes (R115, R198). A leaf fills the buffers; the address of a malformed entry is logged; an
access that needs the walk faults by itself. Focus: core, ctx, va. -/
def execTlbWalk (s : State) : Host.Outcome State Fault Refusal :=
  let q := Asker.fetch (s.focus.headD 0)
  let ctx := s.focus.getD 1 0
  let va := s.focus.getD 2 0
  if !coreExists (s.focus.headD 0) || !(found s q ctx va).isEmpty then .next s
  else
    match translateNew s q ctx va with
    | (s1, .ok _ _) => .next s1
    | (s1, .fail _ (some pa)) => .next (errorResponse s1 q.die ctx pa (generic va) none 2)
    | (s1, .fail _ none) => .next s1

/-- R200: every pending dirty mark is written; the sweep of the period has run. Focus: nothing. -/
def execDirtySweep (s : State) : Host.Outcome State Fault Refusal := .next { harvestWhere s fun _ => true with swept := s.time / 2 ^ 19 }

/-! ### Errors -/

/-- The operand log of a gang's scheduler holds the value of a lane's register or predicate (R371). -/
def inOpLog (s : State) (g : Gang) (pred : Bool) (lane number : Nat) : Bool :=
  (fgetD (coreOf s g.core).oplog (schedOf g) []).any fun w => w.gang == g.id && w.pred == pred && w.lanes.contains (lane, number)

/-- R371: a parity error at the read of a lane's register or predicate: the value is restored from the operand log and the
instruction executed again; a value that is not in the log is cause 0x60. Focus: gang, lane, pred, number (the physical
register, or the predicate). DESIGN CHOICE, log entry 37 (safe). DEDUCED, log entry 69 (safe). -/
def execParityReplay (s : State) : Host.Outcome State Fault Refusal :=
  match gangOf s (s.focus.headD 0) with
  | none => .next s
  | some g =>
    match g.clause with
    | none => .next s
    | some c =>
      if g.pending.isSome || g.wait != .none || s.issuing == some g.id then .next s
      else if inOpLog s g (s.focus.getD 2 0 != 0) (s.focus.getD 1 0) (s.focus.getD 3 0) then .next (countTelemetry s (coreDie g.core) 1)
      else
        let (n, s1) := freeNat s
        .next (failAt s1 g c .none 0x60 (BitVec.ofNat 64 n) (activeMask c) 0)

/-- The on-core byte store that an error names (R372): scratchpad, private scratchpad or stack, with its core.
DEDUCED, log entry 40 (unsafe). -/
def errorPlace (s : State) (kind owner : Nat) : Option (Place × Nat) :=
  if kind = 1 then (blockOf s owner).map fun b => (.scratch owner, b.core)
  else if kind = 2 then (gangOf s owner).map fun g => (.priv owner, g.core)
  else if kind = 3 then (gangOf s owner).map fun g => (.stack owner, g.core)
  else none

/-- The n-th buffered translation of a die is in error. -/
def poisonTlb (s : State) (d n : Nat) : State :=
  match (s.tlb.filter fun e => e.die == d)[n]? with
  | none => s
  | some x => { s with tlb := s.tlb.map fun e => if e = x then { e with poison := true } else e }

/-- A granule of the record that a task's bank holds is in error. -/
def poisonRecord (s : State) (h : Word) (granule : Nat) : State :=
  changeTask s h fun t => { t with poison := if t.poison.contains (granule % 4) then t.poison else granule % 4 :: t.poison }

/-- R372: an error is corrected, or its granule is poisoned. Focus: kind (0 physical memory, 1 scratchpad, 2 private
scratchpad, 3 stack slabs, 4 to 7 accumulators, scale memory, lattice table and queue storage of a core, 8 translation
buffers of a die, 9 the record of a task in its bank, 10 a granule of code in the instruction cache of a core), owner, off, corrected. DEDUCED, log entry 40 (unsafe). DEDUCED, log entry 69 (safe). -/
def execEccError (s : State) : Host.Outcome State Fault Refusal :=
  let kind := s.focus.headD 0
  let owner := s.focus.getD 1 0
  let off := s.focus.getD 2 0
  let corrected := s.focus.getD 3 0 != 0
  let count := fun (t : State) (d : Nat) => countTelemetry t d (if corrected then 0 else 2)
  if kind = 0 then
    match homeDie s off with
    | none => .next s
    | some d => .next (if corrected || !physOk s off then count s d else count (poisonGranule s (physLoc off)) d)
  else if kind ≤ 3 then
    match errorPlace s kind owner with
    | none => .next s
    | some (p, core) => .next (if corrected then count s (coreDie core) else count (poisonGranule s ⟨p, off⟩) (coreDie core))
  else if kind ≤ 7 then
    if !coreExists owner then .next s
    else .next (if corrected then count s (coreDie owner)
      else count (modEngine s owner fun e => { e with poison := if e.poison.contains (kind - 4, off) then e.poison else (kind - 4, off) :: e.poison })
        (coreDie owner))
  else if kind = 8 then .next (if corrected then count s (owner % 2) else count (poisonTlb s (owner % 2) off) (owner % 2))
  else if kind = 9 then
    match taskOf s (BitVec.ofNat 32 owner) with
    | none => .next s
    | some t => .next (if corrected || 4096 ≤ t.index then count s t.die else count (poisonRecord s (BitVec.ofNat 32 owner) off) t.die)
  else if kind = 10 then
    if !coreExists owner then .next s
    else .next (if corrected then count s (coreDie owner)
      else count (modCore s owner fun k => { k with badCode := if k.badCode.contains (off / 16) then k.badCode else off / 16 :: k.badCode })
        (coreDie owner))
  else .next s

/-! ### Links -/

/-- R373: a flit arrives; one whose CRC fails is sent again, which is counted, and until one passes its channel of the port carries
nothing (R325). Focus: die, port, crcOk, channel. -/
def execLinkFlit (s : State) : Host.Outcome State Fault Refusal :=
  let d := s.focus.headD 0 % 2
  let x := (s.focus.getD 1 0 % 10, s.focus.getD 3 0 % 4)
  .next <|
    if s.focus.getD 2 0 != 0 then modDie s d fun k => { k with retrying := k.retrying.filter (· != x) }
    else countTelemetry (modDie s d fun k => { k with retrying := if k.retrying.contains x then k.retrying else x :: k.retrying }) d 3

/-- The address of a lane's access (R186); none where it cannot be formed. -/
def accessAddr (g : Gang) (lane : Nat) : AccessOp → Option Dbl
  | .load size off _ a _ => effAddr (laneAddr g lane a) (sext off 10 * size)
  | .store size off a _ => effAddr (laneAddr g lane a) (sext off 10 * size)
  | .atom _ _ _ a _ => some (laneAddr g lane a)
  | .bar _ _ a _ => some (laneAddr g lane a)
  | .take a _ => some (laneAddr g lane a)
  | .resolve _ a => some (laneAddr g lane a)
  | .refAdd a _ => some (laneAddr g lane a)
  | .refDrop a _ => some (laneAddr g lane a)
  | .probe a _ => some (laneAddr g lane a)
  | .tagSet a => some (laneAddr g lane a)
  | .tagSetr _ a => some (laneAddr g lane a)
  | .tagGet a _ => some (laneAddr g lane a)

/-- The physical address of a lane's access, where it is a global one with a translation. -/
def accessPa (s : State) (g : Gang) (lane : Nat) (op : AccessOp) : Option (Dbl × Nat) :=
  match accessAddr g lane op with
  | none => none
  | some ea =>
    if apertureOf ea != .global then none
    else match walk s (coreDie g.core) (launchD s g.launch).ctx (vaOf ea) with
      | .leaf _ e size => some (ea, paOf e size (vaOf ea))
      | _ => none

/-- An access of a die to a physical address crosses a port of that die: the seam, port 9, to the module's other die, or
one of the nine links to another module (R16, R19). A port in host mode carries no access of a die. -/
def crossesPort (s : State) (die port pa : Nat) : Bool :=
  if port = 9 then pa / 2 ^ 46 / 2 == s.module && pa / 2 ^ 46 % 2 != die
  else domainPort s die port && pa / 2 ^ 46 / 2 != s.module

/-- The lanes of a gang whose accesses may be in flight on a port, with their addresses. -/
def inFlight (s : State) (die port : Nat) (g : Gang) : List (Nat × Dbl × Nat) :=
  match g.pending with
  | none => []
  | some p =>
    if coreDie g.core != die then []
    else (lanesOf p.lanes).filterMap fun l => (accessPa s g l p.op).bind fun x => if crossesPort s die port x.2 then some (l, x.1, x.2) else none

/-- An access that was lost receives the error response (R374): cause 0x11 at its lane. Whether an access that could use
the port was on it is a free choice. -/
def loseLane (id : Nat) (s : State) (x : Nat × Dbl × Nat) : State :=
  let (n, s1) := pick s 2
  if n = 0 then s1
  else
    match gangOf s1 id with
    | none => s1
    | some g =>
      noteLane (errorResponse s1 (coreDie g.core) (launchD s1 g.launch).ctx x.2.2 x.2.1.toNat (some g.launch) 3) id x.1
        (.fail ⟨x.1, 0x11, x.2.1, 0⟩)

/-- The global access of a copy that can be in flight: a line of a prefetch, the element read next, or the element written next. -/
def copyInFlight (s : State) (c : Copy) : Option (Dbl × Nat) :=
  if c.state != .active then none
  else if c.kind = .pf then
    (uncounted c).head?.bind fun i => match (lineAccess s c i).2 with
      | .ok pa _ => some (c.start + BitVec.ofNat 64 ((lineOf c i).1 - vaOf c.start), pa)
      | .bad _ _ _ => none
  else
    let c' := if c.kind = .out then c else c.atRead
    if !movable c || c.units ≤ c'.pos || (c.kind == .out && c.buf.isEmpty) then none
    else match (elemAt s c' (c'.pos * unitElems c.map c.cvt) (c.kind == .out)).2 with
      | .at_ ea pa _ => some (ea, pa)
      | _ => none

/-- A copy whose access was in flight is stopped by the error response (R233, R374); a scatter copy first delivers what it has
read (R226). Whether the access was on the port is a free choice. -/
def loseCopy (die port : Nat) (s : State) (c : Copy) : State :=
  match copyInFlight s c with
  | none => s
  | some (ea, pa) =>
    let (n, s1) := pick s 2
    if coreDie c.core == die && crossesPort s die port pa && n != 0 then
      let s2 := errorResponse s1 die (launchD s1 c.launch).ctx pa ea.toNat (some c.launch) 3
      if c.scatters && !c.buf.isEmpty then modCopy s2 c.id fun x => { x with fault := some (0x11, ea, 0) }
      else copyFault s2 c (0x11, ea, 0)
    else s1

/-- The accesses outstanding on a port whose gangs have moved past them are performed: no precise fault could name them any more.
DEDUCED, log entry 67 (unsafe). -/
def drainPort (s : State) (die port : Nat) : State :=
  drainWhere s fun g f => f.loc.place == .phys && coreDie g.core == die && crossesPort s die port f.loc.off

/-- R373, R374: a link has failed for good: it is reported, and what was in flight on it receives error responses. Focus:
die, port (9 is the seam). -/
def execLinkFailure (s : State) : Host.Outcome State Fault Refusal :=
  let d := s.focus.headD 0 % 2
  let p := s.focus.getD 1 0 % 10
  let s1 := modDie (drainPort s d p) d fun x => { x with
    failedPorts := if x.failedPorts.contains p then x.failedPorts else p :: x.failedPorts,
    retrying := x.retrying.filter fun y => y.1 != p }
  let s2 := errorResponse s1 d 0 0 0 none 3
  let s3 := s2.gangs.foldl (fun t g => (inFlight t d p g).foldl (loseLane g.id) t) s2
  .next (s3.copies.foldl (loseCopy d p) s3)

/-! ### Time and power -/

/-- R389: a sync message moves a core's `%time` by one ns towards a correction of −4 to 4 ns, in the course of 1,000 ns.
Focus: die, core, slew (4 is none). -/
def execTimeSync (s : State) : Host.Outcome State Fault Refusal :=
  let core := s.focus.getD 1 0
  let want : Int := (s.focus.getD 2 0 % 9 : Nat) - 4
  if !coreExists core then .next s
  else
    .next { modCore s core fun k =>
        { k with slew := if k.slew < want then k.slew + 1 else if want < k.slew then k.slew - 1 else k.slew } with
      time := s.time + 1000 }

/-- R22: a core's clock is lowered by a free number of steps, and its supply with it; it is held there (R425) until power management
lifts the cap. Focus: core, lift. DESIGN CHOICE, log entry 8 (unsafe). -/
def execPowerCap (s : State) : Host.Outcome State Fault Refusal :=
  let core := s.focus.headD 0
  if !coreExists core then .next s
  else if s.focus.getD 1 0 != 0 then .next (modCore s core fun k => { k with cap := maxStep })
  else if (coreOf s core).step ≤ minStep then .next s
  else
    let (n, s1) := pick s ((coreOf s core).step - minStep).toNat
    .next (modCore s1 core fun k => setStep (k.step - 1 - n) { k with cap := k.step - 1 - n })

/-! ### Start-up -/

/-- Why a start fails, if it does (R422, R423): the image and the part record are checked, then the self-test, memory
training and link training, each of which has failed (0), passed (1) or not ended (anything else).
DEDUCED, log entry 42 (unsafe). -/
def startFails (b : Boot) (tests : List Nat) : Option Nat :=
  if Config.imageSigned b.flashBody = false then some 1
  else if b.flashVersion < b.recorded then some 2
  else if Config.partSigned b.partRecord = false then some 3
  else if tests.headD 0 = 0 then some 4
  else if tests.getD 1 0 = 0 then some 5
  else if tests.getD 2 0 = 0 then some 6
  else none

/-- A start has failed (R424): the third in a row leads to minimal mode. DEDUCED, log entry 42 (unsafe). -/
def failStart (b : Boot) (reason : Nat) : Boot :=
  { b with fails := min 3 (b.fails + 1), reason := reason, since := none, state := if 2 ≤ b.fails then 2 else 0 }

/-- Every test has passed. -/
def testsPass (tests : List Nat) : Bool := tests.headD 0 == 1 && tests.getD 1 0 == 1 && tests.getD 2 0 == 1

/-- R422: the start at power-good, unless one is under way. The version of an accepted image is recorded. Focus: selfTestOk,
memoryOk, linksOk. -/
def execPowerGood (s : State) : Host.Outcome State Fault Refusal :=
  if s.boot.state ≠ 0 ∨ s.boot.since.isSome then .next s
  else
    match startFails s.boot s.focus with
    | some r =>
      .next { s with boot := failStart (if 3 ≤ r then { s.boot with recorded := s.boot.flashVersion } else s.boot) r }
    | none =>
      if testsPass s.focus then
        .next { s with boot := { s.boot with recorded := s.boot.flashVersion, fails := 0, state := 1, since := none } }
      else .next { s with boot := { s.boot with recorded := s.boot.flashVersion, since := some s.time } }

/-- The time that a start may take, in ns (R422). -/
def startLimit : Nat := 2000000000

/-- R422: a start that is not ready in 2 s fails. Focus: nothing. -/
def execStartTimeout (s : State) : Host.Outcome State Fault Refusal :=
  match s.boot.since with
  | none => .next s
  | some t => .next (if s.boot.state = 0 ∧ t + startLimit ≤ s.time then { s with boot := failStart s.boot 7 } else s)

/-- The module starts again (R424): what start-up resets is at its reset value; memory, its tags, the time base, the
module's flash and the counts of starts stay. -/
def restart (s : State) (b : Boot) : State :=
  { State.reset with mem := s.mem, tags := s.tags, poison := s.poison, time := s.time, fresh := s.fresh,
                     nextId := s.nextId, swept := s.swept, hostPort := s.hostPort, domain := s.domain, agenda := s.agenda, boot := b }

/-- R424: in minimal mode an image is received, checked, written to flash, and the module starts again. One that the check
refuses is not written. Focus: version, body. -/
def execImageReceive (s : State) : Host.Outcome State Fault Refusal :=
  let v := s.focus.headD 0 % 2 ^ 32
  let body := s.focus.getD 1 0
  if s.boot.state = 2 then
    .next { s with boot := { s.boot with state := 3 }, agenda := .event .imageReceive [v, body] :: s.agenda }
  else if s.boot.state = 3 then
    if Config.imageSigned body = true ∧ s.boot.recorded ≤ v then
      .next (restart s { s.boot with state := 0, flashVersion := v, flashBody := body, recorded := v, since := none })
    else .next { s with boot := { s.boot with state := 2 } }
  else .next s

end Sys2Proof.Machine
end

