-- ==== Sys2Proof/Machine/Dispatch.lean ====
section
/-! DEFINITION. The dispatch: one arm per constructor of `Instr`, each one call of that instruction's meaning. -/

namespace Sys2Proof.Machine

def exec (i : Instr) (s : State) : Host.Outcome State Fault Refusal :=
  match i with
  | .bra p o => Sys2Proof.Machine.execBra p o s
  | .call p o => Sys2Proof.Machine.execCall p o s
  | .jmpi p a => Sys2Proof.Machine.execJmpi p a s
  | .wait f => Sys2Proof.Machine.execWait f s
  | .wbaseRel n => Sys2Proof.Machine.execWbaseRel n s
  | .wbaseAbs n => Sys2Proof.Machine.execWbaseAbs n s
  | .trap c => Sys2Proof.Machine.execTrap c s
  | .brk c => Sys2Proof.Machine.execBrk c s
  | .add b a d => Sys2Proof.Machine.execAdd b a d s
  | .sub b a d => Sys2Proof.Machine.execSub b a d s
  | .min b a d => Sys2Proof.Machine.execMin b a d s
  | .max b a d => Sys2Proof.Machine.execMax b a d s
  | .minn b a d => Sys2Proof.Machine.execMinn b a d s
  | .maxn b a d => Sys2Proof.Machine.execMaxn b a d s
  | .abs a d => Sys2Proof.Machine.execAbs a d s
  | .neg a d => Sys2Proof.Machine.execNeg a d s
  | .and b a d => Sys2Proof.Machine.execAnd b a d s
  | .or b a d => Sys2Proof.Machine.execOr b a d s
  | .xor b a d => Sys2Proof.Machine.execXor b a d s
  | .andn b a d => Sys2Proof.Machine.execAndn b a d s
  | .orn b a d => Sys2Proof.Machine.execOrn b a d s
  | .not a d => Sys2Proof.Machine.execNot a d s
  | .shl b a d => Sys2Proof.Machine.execShl b a d s
  | .shr b a d => Sys2Proof.Machine.execShr b a d s
  | .sar b a d => Sys2Proof.Machine.execSar b a d s
  | .rol b a d => Sys2Proof.Machine.execRol b a d s
  | .ror b a d => Sys2Proof.Machine.execRor b a d s
  | .clz a d => Sys2Proof.Machine.execClz a d s
  | .ctz a d => Sys2Proof.Machine.execCtz a d s
  | .popc a d => Sys2Proof.Machine.execPopc a d s
  | .brev a d => Sys2Proof.Machine.execBrev a d s
  | .mul b a d => Sys2Proof.Machine.execMul b a d s
  | .mulh b a d => Sys2Proof.Machine.execMulh b a d s
  | .mulhn b a d => Sys2Proof.Machine.execMulhn b a d s
  | .mad b a d => Sys2Proof.Machine.execMad b a d s
  | .mulD b a d => Sys2Proof.Machine.execMulD b a d s
  | .div b a d => Sys2Proof.Machine.execDiv b a d s
  | .divn b a d => Sys2Proof.Machine.execDivn b a d s
  | .rem b a d => Sys2Proof.Machine.execRem b a d s
  | .remn b a d => Sys2Proof.Machine.execRemn b a d s
  | .bfe b a d => Sys2Proof.Machine.execBfe b a d s
  | .bfen b a d => Sys2Proof.Machine.execBfen b a d s
  | .bfi b a d => Sys2Proof.Machine.execBfi b a d s
  | .addD b a d => Sys2Proof.Machine.execAddD b a d s
  | .subD b a d => Sys2Proof.Machine.execSubD b a d s
  | .shlD b a d => Sys2Proof.Machine.execShlD b a d s
  | .shrD b a d => Sys2Proof.Machine.execShrD b a d s
  | .addi im a d => Sys2Proof.Machine.execAddi im a d s
  | .andi im a d => Sys2Proof.Machine.execAndi im a d s
  | .ori im a d => Sys2Proof.Machine.execOri im a d s
  | .xori im a d => Sys2Proof.Machine.execXori im a d s
  | .shli n a d => Sys2Proof.Machine.execShli n a d s
  | .shri n a d => Sys2Proof.Machine.execShri n a d s
  | .sari n a d => Sys2Proof.Machine.execSari n a d s
  | .movi im d => Sys2Proof.Machine.execMovi im d s
  | .movhi im d => Sys2Proof.Machine.execMovhi im d s
  | .icmpEq b a d => Sys2Proof.Machine.execIcmpEq b a d s
  | .icmpNe b a d => Sys2Proof.Machine.execIcmpNe b a d s
  | .icmpLt b a d => Sys2Proof.Machine.execIcmpLt b a d s
  | .icmpLe b a d => Sys2Proof.Machine.execIcmpLe b a d s
  | .icmpGt b a d => Sys2Proof.Machine.execIcmpGt b a d s
  | .icmpGe b a d => Sys2Proof.Machine.execIcmpGe b a d s
  | .icmpLtn b a d => Sys2Proof.Machine.execIcmpLtn b a d s
  | .icmpLen b a d => Sys2Proof.Machine.execIcmpLen b a d s
  | .icmpGtn b a d => Sys2Proof.Machine.execIcmpGtn b a d s
  | .icmpGen b a d => Sys2Proof.Machine.execIcmpGen b a d s
  | .qand b a d => Sys2Proof.Machine.execQand b a d s
  | .qor b a d => Sys2Proof.Machine.execQor b a d s
  | .qxor b a d => Sys2Proof.Machine.execQxor b a d s
  | .qandn b a d => Sys2Proof.Machine.execQandn b a d s
  | .qnot a d => Sys2Proof.Machine.execQnot a d s
  | .qset v d => Sys2Proof.Machine.execQset v d s
  | .qmov a d => Sys2Proof.Machine.execQmov a d s
  | .qpack a d => Sys2Proof.Machine.execQpack a d s
  | .qunpack a d => Sys2Proof.Machine.execQunpack a d s
  | .sel b a d => Sys2Proof.Machine.execSel b a d s
  | .voteAny a d => Sys2Proof.Machine.execVoteAny a d s
  | .voteAll a d => Sys2Proof.Machine.execVoteAll a d s
  | .voteCnt a d => Sys2Proof.Machine.execVoteCnt a d s
  | .voteBallot a d => Sys2Proof.Machine.execVoteBallot a d s
  | .shflIdx b a d => Sys2Proof.Machine.execShflIdx b a d s
  | .shflUp b a d => Sys2Proof.Machine.execShflUp b a d s
  | .shflDn b a d => Sys2Proof.Machine.execShflDn b a d s
  | .shflXor b a d => Sys2Proof.Machine.execShflXor b a d s
  | .bcast b a d => Sys2Proof.Machine.execBcast b a d s
  | .reduxAdd a d => Sys2Proof.Machine.execReduxAdd a d s
  | .reduxMin a d => Sys2Proof.Machine.execReduxMin a d s
  | .reduxMax a d => Sys2Proof.Machine.execReduxMax a d s
  | .reduxMinn a d => Sys2Proof.Machine.execReduxMinn a d s
  | .reduxMaxn a d => Sys2Proof.Machine.execReduxMaxn a d s
  | .mrank d => Sys2Proof.Machine.execMrank d s
  | .fadd r b a d => Sys2Proof.Machine.execFadd r b a d s
  | .fsub r b a d => Sys2Proof.Machine.execFsub r b a d s
  | .fmul r b a d => Sys2Proof.Machine.execFmul r b a d s
  | .fma r b a d => Sys2Proof.Machine.execFma r b a d s
  | .fdiv r b a d => Sys2Proof.Machine.execFdiv r b a d s
  | .fsqrt r a d => Sys2Proof.Machine.execFsqrt r a d s
  | .fmin b a d => Sys2Proof.Machine.execFmin b a d s
  | .fmax b a d => Sys2Proof.Machine.execFmax b a d s
  | .fabs a d => Sys2Proof.Machine.execFabs a d s
  | .fneg a d => Sys2Proof.Machine.execFneg a d s
  | .frcp a d => Sys2Proof.Machine.execFrcp a d s
  | .frsqrt a d => Sys2Proof.Machine.execFrsqrt a d s
  | .fexp2 a d => Sys2Proof.Machine.execFexp2 a d s
  | .flog2 a d => Sys2Proof.Machine.execFlog2 a d s
  | .fsin a d => Sys2Proof.Machine.execFsin a d s
  | .fcos a d => Sys2Proof.Machine.execFcos a d s
  | .fclass a d => Sys2Proof.Machine.execFclass a d s
  | .frint m a d => Sys2Proof.Machine.execFrint m a d s
  | .ffrac a d => Sys2Proof.Machine.execFfrac a d s
  | .fcopysign b a d => Sys2Proof.Machine.execFcopysign b a d s
  | .fscale b a d => Sys2Proof.Machine.execFscale b a d s
  | .fsat a d => Sys2Proof.Machine.execFsat a d s
  | .fcmpEq b a d => Sys2Proof.Machine.execFcmpEq b a d s
  | .fcmpNe b a d => Sys2Proof.Machine.execFcmpNe b a d s
  | .fcmpLt b a d => Sys2Proof.Machine.execFcmpLt b a d s
  | .fcmpLe b a d => Sys2Proof.Machine.execFcmpLe b a d s
  | .fcmpGt b a d => Sys2Proof.Machine.execFcmpGt b a d s
  | .fcmpGe b a d => Sys2Proof.Machine.execFcmpGe b a d s
  | .fcmpUn b a d => Sys2Proof.Machine.execFcmpUn b a d s
  | .fcmpOrd b a d => Sys2Proof.Machine.execFcmpOrd b a d s
  | .hadd2Bf16 r b a d => Sys2Proof.Machine.execHadd2Bf16 r b a d s
  | .hsub2Bf16 r b a d => Sys2Proof.Machine.execHsub2Bf16 r b a d s
  | .hmul2Bf16 r b a d => Sys2Proof.Machine.execHmul2Bf16 r b a d s
  | .hfma2Bf16 r b a d => Sys2Proof.Machine.execHfma2Bf16 r b a d s
  | .hmin2Bf16 b a d => Sys2Proof.Machine.execHmin2Bf16 b a d s
  | .hmax2Bf16 b a d => Sys2Proof.Machine.execHmax2Bf16 b a d s
  | .hadd2F16 r b a d => Sys2Proof.Machine.execHadd2F16 r b a d s
  | .hsub2F16 r b a d => Sys2Proof.Machine.execHsub2F16 r b a d s
  | .hmul2F16 r b a d => Sys2Proof.Machine.execHmul2F16 r b a d s
  | .hfma2F16 r b a d => Sys2Proof.Machine.execHfma2F16 r b a d s
  | .hmin2F16 b a d => Sys2Proof.Machine.execHmin2F16 b a d s
  | .hmax2F16 b a d => Sys2Proof.Machine.execHmax2F16 b a d s
  | .cvt f r sc a d => Sys2Proof.Machine.execCvt f r sc a d s
  | .ldB o a d => Sys2Proof.Machine.execLdB o a d s
  | .ldH o a d => Sys2Proof.Machine.execLdH o a d s
  | .ldW o a d => Sys2Proof.Machine.execLdW o a d s
  | .ldD o a d => Sys2Proof.Machine.execLdD o a d s
  | .ldsB o a d => Sys2Proof.Machine.execLdsB o a d s
  | .ldsH o a d => Sys2Proof.Machine.execLdsH o a d s
  | .ldsQ o a d => Sys2Proof.Machine.execLdsQ o a d s
  | .stB o a d => Sys2Proof.Machine.execStB o a d s
  | .stH o a d => Sys2Proof.Machine.execStH o a d s
  | .stW o a d => Sys2Proof.Machine.execStW o a d s
  | .stD o a d => Sys2Proof.Machine.execStD o a d s
  | .stQ o a d => Sys2Proof.Machine.execStQ o a d s
  | .ldAcqW sc a d => Sys2Proof.Machine.execLdAcqW sc a d s
  | .ldAcqD sc a d => Sys2Proof.Machine.execLdAcqD sc a d s
  | .stRelW sc a d => Sys2Proof.Machine.execStRelW sc a d s
  | .stRelD sc a d => Sys2Proof.Machine.execStRelD sc a d s
  | .fenceAcq sc => Sys2Proof.Machine.execFenceAcq sc s
  | .fenceRel sc => Sys2Proof.Machine.execFenceRel sc s
  | .atomAdd b a d => Sys2Proof.Machine.execAtomAdd b a d s
  | .atomMin b a d => Sys2Proof.Machine.execAtomMin b a d s
  | .atomMax b a d => Sys2Proof.Machine.execAtomMax b a d s
  | .atomMinn b a d => Sys2Proof.Machine.execAtomMinn b a d s
  | .atomMaxn b a d => Sys2Proof.Machine.execAtomMaxn b a d s
  | .atomAnd b a d => Sys2Proof.Machine.execAtomAnd b a d s
  | .atomOr b a d => Sys2Proof.Machine.execAtomOr b a d s
  | .atomXor b a d => Sys2Proof.Machine.execAtomXor b a d s
  | .atomXchg b a d => Sys2Proof.Machine.execAtomXchg b a d s
  | .atomInc b a d => Sys2Proof.Machine.execAtomInc b a d s
  | .atomAddNr b a => Sys2Proof.Machine.execAtomAddNr b a s
  | .atomMinNr b a => Sys2Proof.Machine.execAtomMinNr b a s
  | .atomMaxNr b a => Sys2Proof.Machine.execAtomMaxNr b a s
  | .atomMinnNr b a => Sys2Proof.Machine.execAtomMinnNr b a s
  | .atomMaxnNr b a => Sys2Proof.Machine.execAtomMaxnNr b a s
  | .atomAndNr b a => Sys2Proof.Machine.execAtomAndNr b a s
  | .atomOrNr b a => Sys2Proof.Machine.execAtomOrNr b a s
  | .atomXorNr b a => Sys2Proof.Machine.execAtomXorNr b a s
  | .atomXchgNr b a => Sys2Proof.Machine.execAtomXchgNr b a s
  | .atomIncNr b a => Sys2Proof.Machine.execAtomIncNr b a s
  | .atomCas b a d => Sys2Proof.Machine.execAtomCas b a d s
  | .atomFx b a d => Sys2Proof.Machine.execAtomFx b a d s
  | .atomAddD b a d => Sys2Proof.Machine.execAtomAddD b a d s
  | .atomFxNr b a => Sys2Proof.Machine.execAtomFxNr b a s
  | .atomAddDNr b a => Sys2Proof.Machine.execAtomAddDNr b a s
  | .cpyIn b a c => Sys2Proof.Machine.execCpyIn b a c s
  | .cpyOut b a c => Sys2Proof.Machine.execCpyOut b a c s
  | .cpyMc b a c => Sys2Proof.Machine.execCpyMc b a c s
  | .cpyGen b a c => Sys2Proof.Machine.execCpyGen b a c s
  | .cpyPf b a d => Sys2Proof.Machine.execCpyPf b a d s
  | .cpySeal d => Sys2Proof.Machine.execCpySeal d s
  | .cpyWait n => Sys2Proof.Machine.execCpyWait n s
  | .cpyVis sc n => Sys2Proof.Machine.execCpyVis sc n s
  | .cpyStat k d => Sys2Proof.Machine.execCpyStat k d s
  | .barInit b a => Sys2Proof.Machine.execBarInit b a s
  | .barArr a d => Sys2Proof.Machine.execBarArr a d s
  | .barArrb a d => Sys2Proof.Machine.execBarArrb a d s
  | .barExp b a => Sys2Proof.Machine.execBarExp b a s
  | .barWait b a => Sys2Proof.Machine.execBarWait b a s
  | .barTry b a d => Sys2Proof.Machine.execBarTry b a d s
  | .carve b a d => Sys2Proof.Machine.execCarve b a d s
  | .mwait b a d => Sys2Proof.Machine.execMwait b a d s
  | .mma sc b a d => Sys2Proof.Machine.execMma sc b a d s
  | .mdrain a => Sys2Proof.Machine.execMdrain a s
  | .mzero b => Sys2Proof.Machine.execMzero b s
  | .ringDef b a r => Sys2Proof.Machine.execRingDef b a r s
  | .ringAdv b a r => Sys2Proof.Machine.execRingAdv b a r s
  | .ringRel b r => Sys2Proof.Machine.execRingRel b r s
  | .ringRelRst r => Sys2Proof.Machine.execRingRelRst r s
  | .ringStat r d => Sys2Proof.Machine.execRingStat r d s
  | .cbld b a => Sys2Proof.Machine.execCbld b a s
  | .wmul b a d => Sys2Proof.Machine.execWmul b a d s
  | .wmuln b a d => Sys2Proof.Machine.execWmuln b a d s
  | .wmac b a d => Sys2Proof.Machine.execWmac b a d s
  | .wadd b a d => Sys2Proof.Machine.execWadd b a d s
  | .wsub b a d => Sys2Proof.Machine.execWsub b a d s
  | .wneg a d => Sys2Proof.Machine.execWneg a d s
  | .wshs b a d => Sys2Proof.Machine.execWshs b a d s
  | .wshb b a d => Sys2Proof.Machine.execWshb b a d s
  | .pack b a d => Sys2Proof.Machine.execPack b a d s
  | .extr b a d => Sys2Proof.Machine.execExtr b a d s
  | .gchk b a => Sys2Proof.Machine.execGchk b a s
  | .gwid b a d => Sys2Proof.Machine.execGwid b a d s
  | .cbdec a d => Sys2Proof.Machine.execCbdec a d s
  | .wcmp b a d => Sys2Proof.Machine.execWcmp b a d s
  | .spawn a => Sys2Proof.Machine.execSpawn a s
  | .spawnl a => Sys2Proof.Machine.execSpawnl a s
  | .take a d => Sys2Proof.Machine.execTake a d s
  | .resolve b a => Sys2Proof.Machine.execResolve b a s
  | .refAdd a d => Sys2Proof.Machine.execRefAdd a d s
  | .refDrop a d => Sys2Proof.Machine.execRefDrop a d s
  | .probe a d => Sys2Proof.Machine.execProbe a d s
  | .join a => Sys2Proof.Machine.execJoin a s
  | .migrate a d => Sys2Proof.Machine.execMigrate a d s
  | .launch q a => Sys2Proof.Machine.execLaunch q a s
  | .cancelL a d => Sys2Proof.Machine.execCancelL a d s
  | .cancelG a d => Sys2Proof.Machine.execCancelG a d s
  | .cancelJ d => Sys2Proof.Machine.execCancelJ d s
  | .regEnter im => Sys2Proof.Machine.execRegEnter im s
  | .regLeave im => Sys2Proof.Machine.execRegLeave im s
  | .tmark b k => Sys2Proof.Machine.execTmark b k s
  | .wptSet b a d => Sys2Proof.Machine.execWptSet b a d s
  | .wptClr b d => Sys2Proof.Machine.execWptClr b d s
  | .tagSet a => Sys2Proof.Machine.execTagSet a s
  | .tagGet a d => Sys2Proof.Machine.execTagGet a d s
  | .tagSetr b a => Sys2Proof.Machine.execTagSetr b a s
  | .sread r d => Sys2Proof.Machine.execSread r d s
  | .swrite r a => Sys2Proof.Machine.execSwrite r a s
  | .tlbInvPg a => Sys2Proof.Machine.execTlbInvPg a s
  | .tlbInvRng b a => Sys2Proof.Machine.execTlbInvRng b a s
  | .dirtyHarvPg a => Sys2Proof.Machine.execDirtyHarvPg a s
  | .dirtyHarvRng b a => Sys2Proof.Machine.execDirtyHarvRng b a s
  | .nop => Sys2Proof.Machine.execNop s
  | .ret => Sys2Proof.Machine.execRet s
  | .exit => Sys2Proof.Machine.execExit s
  | .yield => Sys2Proof.Machine.execYield s
  | .tfence => Sys2Proof.Machine.execTfence s
  | .tret => Sys2Proof.Machine.execTret s
  | .halt => Sys2Proof.Machine.execHalt s
  | .barBlk => Sys2Proof.Machine.execBarBlk s
  | .barClu => Sys2Proof.Machine.execBarClu s
  | .mfence => Sys2Proof.Machine.execMfence s
  | .reclaim => Sys2Proof.Machine.execReclaim s
  | .tlbInvCtx => Sys2Proof.Machine.execTlbInvCtx s
  | .dirtyHarvCtx => Sys2Proof.Machine.execDirtyHarvCtx s
  | .fenceGng => Sys2Proof.Machine.execFenceGng s
  | .fenceBlk => Sys2Proof.Machine.execFenceBlk s
  | .fenceClu => Sys2Proof.Machine.execFenceClu s
  | .fenceDie => Sys2Proof.Machine.execFenceDie s
  | .fenceDev => Sys2Proof.Machine.execFenceDev s
  | .fenceDom => Sys2Proof.Machine.execFenceDom s
  | .submitTail => Sys2Proof.Machine.execSubmitTail s
  | .takeEntry => Sys2Proof.Machine.execTakeEntry s
  | .leaseAck => Sys2Proof.Machine.execLeaseAck s
  | .preemptMark => Sys2Proof.Machine.execPreemptMark s
  | .preemptClear => Sys2Proof.Machine.execPreemptClear s
  | .cmdCancelL => Sys2Proof.Machine.execCmdCancelL s
  | .cmdCancelG => Sys2Proof.Machine.execCmdCancelG s
  | .cmdCancelJ => Sys2Proof.Machine.execCmdCancelJ s
  | .shootdown => Sys2Proof.Machine.execShootdown s
  | .harvest => Sys2Proof.Machine.execHarvest s
  | .shadowRetire => Sys2Proof.Machine.execShadowRetire s
  | .haltReq => Sys2Proof.Machine.execHaltReq s
  | .regionBp => Sys2Proof.Machine.execRegionBp s
  | .stopMode => Sys2Proof.Machine.execStopMode s
  | .resume => Sys2Proof.Machine.execResume s
  | .breakEn => Sys2Proof.Machine.execBreakEn s
  | .sample => Sys2Proof.Machine.execSample s
  | .zeroHist => Sys2Proof.Machine.execZeroHist s
  | .readState => Sys2Proof.Machine.execReadState s
  | .evict => Sys2Proof.Machine.execEvict s
  | .moduleNumberWrite => Sys2Proof.Machine.execModuleNumberWrite s
  | .eventHeadWrite => Sys2Proof.Machine.execEventHeadWrite s
  | .mgmtRegisterWrite => Sys2Proof.Machine.execMgmtRegisterWrite s
  | .placementOpportunity => Sys2Proof.Machine.execPlacementOpportunity s
  | .parameterCopy => Sys2Proof.Machine.execParameterCopy s
  | .launchEnd => Sys2Proof.Machine.execLaunchEnd s
  | .clauseFetch => Sys2Proof.Machine.execClauseFetch s
  | .clauseStart => Sys2Proof.Machine.execClauseStart s
  | .issueSelect => Sys2Proof.Machine.execIssueSelect s
  | .agingClassRise => Sys2Proof.Machine.execAgingClassRise s
  | .instructionComplete => Sys2Proof.Machine.execInstructionComplete s
  | .flagWaitResume => Sys2Proof.Machine.execFlagWaitResume s
  | .accessAtTarget => Sys2Proof.Machine.execAccessAtTarget s
  | .gangWake => Sys2Proof.Machine.execGangWake s
  | .gangEviction => Sys2Proof.Machine.execGangEviction s
  | .deferredFaultDelivery => Sys2Proof.Machine.execDeferredFaultDelivery s
  | .copyChannelStart => Sys2Proof.Machine.execCopyChannelStart s
  | .ringClaim => Sys2Proof.Machine.execRingClaim s
  | .l2Fill => Sys2Proof.Machine.execL2Fill s
  | .copyDelivery => Sys2Proof.Machine.execCopyDelivery s
  | .prefetchLinePresent => Sys2Proof.Machine.execPrefetchLinePresent s
  | .mwaitTimeout => Sys2Proof.Machine.execMwaitTimeout s
  | .denseProductAdmit => Sys2Proof.Machine.execDenseProductAdmit s
  | .engineCommandStart => Sys2Proof.Machine.execEngineCommandStart s
  | .chunkFire => Sys2Proof.Machine.execChunkFire s
  | .mmaComplete => Sys2Proof.Machine.execMmaComplete s
  | .drainComplete => Sys2Proof.Machine.execDrainComplete s
  | .mzeroComplete => Sys2Proof.Machine.execMzeroComplete s
  | .cbldComplete => Sys2Proof.Machine.execCbldComplete s
  | .migrateMove => Sys2Proof.Machine.execMigrateMove s
  | .tlbWalk => Sys2Proof.Machine.execTlbWalk s
  | .dirtySweep => Sys2Proof.Machine.execDirtySweep s
  | .traceSample => Sys2Proof.Machine.execTraceSample s
  | .gateStallDivergence => Sys2Proof.Machine.execGateStallDivergence s
  | .parityReplay => Sys2Proof.Machine.execParityReplay s
  | .eccError => Sys2Proof.Machine.execEccError s
  | .linkFlit => Sys2Proof.Machine.execLinkFlit s
  | .linkFailure => Sys2Proof.Machine.execLinkFailure s
  | .timeSync => Sys2Proof.Machine.execTimeSync s
  | .powerCap => Sys2Proof.Machine.execPowerCap s
  | .powerGood => Sys2Proof.Machine.execPowerGood s
  | .startTimeout => Sys2Proof.Machine.execStartTimeout s
  | .imageReceive => Sys2Proof.Machine.execImageReceive s
  | .kChunkComplete => Sys2Proof.Machine.execKChunkComplete s
  | .unknownCommand => Sys2Proof.Machine.execUnknownCommand s

end Sys2Proof.Machine
end

