-- ==== Sys2Proof/Machine/Enabled.lean ====
section
/-! DEFINITION. What the module does next when no instruction is issuing: which events could happen now, and the choice
among them. Events that come from outside the module (management commands, stores by system software, power, links,
errors, the time base) stand on the agenda, where whoever loads the state puts them. -/

namespace Sys2Proof.Machine

/-- The events of one kind, one for each focus. -/
def eventsOf (i : Instr) (fs : List (List Nat)) : List (Instr × List Nat) := fs.map fun f => (i, f)

/-- The event if a condition holds. -/
def eventIf (c : Bool) (i : Instr) (f : List Nat) : List (Instr × List Nat) := if c then [(i, f)] else []

/-- The accesses of a gang can go on: all have settled, or the next is not held at its gate (R205, R401). -/
def accessReady (s : State) (g : Gang) : Bool :=
  match g.pending with
  | none => false
  | some p =>
    if takesNoMore s g then true
    else if p.lanes = 0 then !settleWaits s g p ((g.clause.map ClauseRun.hits).getD [])
    else match g.gate with
      | some (w, q, _) => admits s g ⟨w, q⟩ != .waits || mustAskLog s (launchD s g.launch)
      | none => true

/-- The access of a gang's next lane may stay outstanding while the gang goes on (R311). -/
def accessFlies (s : State) (g : Gang) : Bool :=
  accessReady s g && flies g && ((g.pending.map fun p => p.lanes != 0).getD false)

/-- The lines of physical memory that a gang's accesses are to reach (R227). -/
def accessLines (s : State) (g : Gang) : List Nat :=
  match g.pending with
  | none => []
  | some p => ((lanesOf p.lanes).filterMap fun l => (accessPa s g l p.op).map fun x => x.2 / 128).eraseDups

/-- The wake condition of a gang without a slot has occurred, and it is not yet among those to be placed again (R104, R338). -/
def wokenNow (s : State) (g : Gang) : Bool :=
  g.blocked && g.slot.isNone && g.woken.isNone && g.wait != .stopped && g.compare.isNone && !divergeDue s g && !stopsHere s g
    && !wakeOwing s g && !replayDue g && (wakes s g || deferredDue s g)

/-- A gang that waits at a blocking point, or was stopped, has something to wake to, or replay has something to do with it
(R367, R402). -/
def wakeDue (s : State) (g : Gang) : Bool :=
  if g.wait = .stopped then g.ended.isNone || eventRoom s (coreDie g.core)
  else compareDue s g || (g.compare.isNone && divergeDue s g) || stopsHere s g || wakeOwing s g || (g.blocked
    && (!replayDue g && ((g.slot.isSome && hitsDue g && !hitsHeld s g)
      || (g.slot.isSome && wakes s g && !evictsFirst s g)
      || wokenNow s g)))

/-- The clause that a gang runs, or has fetched: its header and its words. -/
def clauseAhead (g : Gang) : Option (Dbl × List Word) :=
  match g.clause, g.fetched with
  | some c, _ => some (c.h, c.words)
  | none, some f => some (f.h, f.words)
  | none, none => none

/-- Where a clause may transfer to (R56, R126, R127). -/
def branchTargets (h : Dbl) (ws : List Word) : List Dbl :=
  match ws.getLast?.map fun w => decodeWord w.toNat with
  | some (.ok (.bra _ o)) | some (.ok (.call _ o)) => [jTarget h o]
  | _ => []

/-- Where fetch ahead may look (R115): the next clause in sequence, branch targets, and the PCs of lower frontier entries. -/
def aheadOf (g : Gang) : List Dbl :=
  g.frontier.tail.map Entry.pc ++ match clauseAhead g with
    | some (h, ws) => nextHeader h ws.length :: branchTargets h ws
    | none => []

/-- The pages of code that fetch ahead may translate (R115): leased for execute. -/
def aheadPages (s : State) (g : Gang) : List (List Nat) :=
  ((aheadOf g).filter fun a => match walk s (coreDie g.core) (launchD s g.launch).ctx (vaOf a) with
    | .leaf _ x _ => leafX x && (firstUnleased (launchD s g.launch) (vaOf a) 4 false false true).isNone
    | _ => false).map fun a => [g.core, (launchD s g.launch).ctx, vaOf a]

/-- A gate of a launch has timed out, and the launch has not diverged (R402). -/
def gateStalls (s : State) (launch : Nat) (gate : Option (Nat × Nat × Nat × Nat)) : List (Instr × List Nat) :=
  match gate with
  | some (w, p, _) => eventIf (!(launchD s launch).log.diverged && gateOver s launch ⟨w, p⟩) .gateStallDivergence [launch, w, p]
  | none => []

/-- What a gang can do now. -/
def gangEvents (s : State) (g : Gang) : List (Instr × List Nat) :=
  eventIf (canFetch s g) .clauseFetch [g.id]
    ++ eventIf (!g.completing.isEmpty) .instructionComplete [g.id]
    ++ (match g.wait with | .flags m => eventIf (flagsClear g m.toNat) .flagWaitResume [g.id] | _ => [])
    ++ eventIf (accessReady s g) .accessAtTarget [g.id]
    ++ eventIf (accessFlies s g) .accessAtTarget [g.id, 0, 1]
    ++ eventsOf .accessAtTarget ((readyFlights s g).map fun k => [g.id, k + 1])
    ++ eventsOf .l2Fill (((accessLines s g).filter fun n => !s.lines.contains n).map fun n => [n])
    ++ eventIf (wakeDue s g) .gangWake [g.id]
    ++ eventIf (evicts s g) .gangEviction [g.id]
    ++ eventIf (deferredDue s g && deliverable s g) .deferredFaultDelivery [g.id]
    ++ eventIf (mwaitOver s g) .mwaitTimeout [g.id]
    ++ eventIf (landingCore s g).isSome .migrateMove [g.id]
    ++ gateStalls s g.launch g.gate
    ++ eventsOf .tlbWalk (aheadPages s g)

/-- A command that is done can complete, or comes to wait at the gate of its arrival (R286, R402). -/
def completesNow (s : State) (core : Nat) (c : EngCmd) : Bool :=
  !arrivalWaits s core c && match arrivalGate s core c with
    | none => true
    | some u => !waitsAt u c.gate || mustAskLog s (launchD s c.launch)

/-- What a command of an engine can do now. -/
def cmdEvents (s : State) (core : Nat) (c : EngCmd) : List (Instr × List Nat) :=
  (match c.body with
  | .mma _ => eventIf (c.arrayDone && completesNow s core c) .mmaComplete [core, c.id]
  | .drain _ => eventIf (c.started && completesNow s core c) .drainComplete [core, c.id]
  | .zero _ => eventIf c.started .mzeroComplete [core, c.id]
  | .load _ _ _ _ => eventIf c.started .cbldComplete [core, c.id])
    ++ gateStalls s c.launch c.gate

/-- What a core can do now. -/
def coreEvents (s : State) (core : Nat) : List (Instr × List Nat) :=
  let e := engineOf s core
  eventIf (s.gangs.any fun g => g.core == core && g.slot.isSome) .issueSelect [core, 0]
    ++ eventIf (denseDue s core).isSome .denseProductAdmit [core]
    ++ eventsOf .engineCommandStart ((startable e).map fun c => [core, c.id])
    ++ eventIf (firable s core).isSome .chunkFire [core]
    ++ eventIf e.busy .kChunkComplete [core]
    ++ e.cmds.flatMap (cmdEvents s core)

/-- What a copy can do now. -/
def copyEvents (s : State) (c : Copy) : List (Instr × List Nat) :=
  eventIf (c.state == .queued && ((channelCopies s c.core c.chan).head?.map Copy.id) == some c.id) .copyChannelStart [c.core, c.chan]
    ++ eventsOf .ringClaim ((claimRanks s c).map fun r => [c.id, r.1])
    ++ eventIf (movable c && copyTravels s c) .copyDelivery [c.id]
    ++ eventIf (c.kind == .pf && c.state == .active) .prefetchLinePresent [c.id]
    ++ eventsOf .l2Fill (((readsLine s c).toList.filter fun n => !s.lines.contains n).map fun n => [n])

/-- What a launch can do now. -/
def launchEvents (s : State) (L : Launch) : List (Instr × List Nat) :=
  eventIf (launchOver s L) .launchEnd [L.id]
    ++ eventsOf .traceSample ((L.cores.filter fun k => (sampleDue s L k).isSome).map fun k => [L.id, k])

/-- Work waits for a place (R104). -/
def placeable (s : State) : Bool :=
  !(waitingEvaluators s).isEmpty || !(wokenGangs s).isEmpty || !(waitingTasks s).isEmpty
    || (offered s).any fun L => decide (L.placed < clustersOf L.desc)

/-- The sequencer observes every write to a queue's tail (R82): the tail that a store has left and that it has not yet
observed. -/
def tailSeen (s : State) (d q : Nat) : List (List Nat) :=
  match queueAt s d q with
  | none => []
  | some a =>
    let t := readNat s (physLoc (a + 0x14)) 4
    if fgetD (dieOf s d).tails q 0 = t then [] else [[d, q, t]]

/-- Every queue of the dies present. -/
def allQueues (s : State) : List (Nat × Nat) :=
  if s.boot.state = 0 then [] else
    [0, 1].flatMap fun d => if diePresent s d then (List.range 64).map fun q => (d, q) else []

/-- How the tests of a start can end (R422): all pass, one fails, or they do not end. -/
def startEnds : List (List Nat) := [[1, 1, 1], [0, 1, 1], [1, 0, 1], [1, 1, 0], [2, 2, 2]]

/-- Flits that are being sent again until they pass (R373). -/
def retries (s : State) : List (List Nat) := [0, 1].flatMap fun d => (dieOf s d).retrying.map fun x => [d, x.1, 1, x.2]

/-- The cores that hold work. -/
def busyCores (s : State) : List Nat := (s.gangs.map Gang.core ++ s.cores.map Prod.fst).eraseDups

/-- The events that could happen now. -/
def enabled (s : State) : List (Instr × List Nat) :=
  s.gangs.flatMap (gangEvents s) ++ (busyCores s).flatMap (coreEvents s) ++ s.copies.flatMap (copyEvents s)
    ++ s.launches.flatMap (launchEvents s)
    ++ eventsOf .parameterCopy ((s.clusters.filter fun k => !k.ready).map fun k => [k.id])
    ++ eventIf (placeable s) .placementOpportunity []
    ++ eventsOf .takeEntry (((allQueues s).filter fun f => (nextEntry s f.1 f.2).isSome).map fun f => [f.1, f.2])
    ++ eventsOf .submitTail ((allQueues s).flatMap fun f => tailSeen s f.1 f.2)
    ++ eventsOf .linkFlit (retries s)
    ++ (if s.boot.state = 0 ∧ s.boot.since.isNone then eventsOf .powerGood startEnds else [])
    ++ eventIf ((s.boot.since.map fun t => decide (t + startLimit ≤ s.time)).getD false) .startTimeout []

/-- The period of the sweep of dirty marks (R200), in ns. -/
def sweepPeriod : Nat := 2 ^ 19

/-- A sweep is due: its period has begun (R200). -/
def sweepDue (s : State) : Bool := s.time / sweepPeriod != s.swept

/-- What comes before anything else that could happen: the sweep of dirty marks when its period begins (R200), and gangs without a slot
whose wake has occurred, so that they are placed in the order of their wakes (R104, R338). -/
def first (s : State) : List (Instr × List Nat) :=
  eventIf (sweepDue s) .dirtySweep [] ++ eventsOf .gangWake ((s.gangs.filter (wokenNow s)).map fun g => [g.id])

/-- Time that has come does not pass the next sweep while a dirty mark is pending (R200). -/
def noLater (s : State) (t : Nat) : Nat :=
  if s.tlb.any TlbEntry.pending then min t (max (s.time + 1) ((s.time / sweepPeriod + 1) * sweepPeriod)) else t

/-- Time passes, by a free amount, and the cores that hold no work count clks (R389).
DESIGN CHOICE, log entry 43 (safe). DEDUCED, log entry 65 (unsafe). -/
def idle (s : State) : State :=
  let (n, s1) := freeNat s
  let (m, s2) := freeNat s1
  { passIdle s2 m with time := noLater s2 (s2.time + 1 + n) }

/-- A store of system software through the host adapter (R421); one to bytes that it may not use receives an error response (R17,
R374). DESIGN CHOICE, log entry 72 (unsafe). -/
def hostStore (s : State) (pa : Nat) (bs : List Byte) : State :=
  match (List.range bs.length).find? fun i => !physOk s (pa + i) with
  | some i => errorResponse s 0 0 (pa + i) 0 none 0
  | none => writeBytes (newId s).2 (physLoc pa) bs

/-- What could happen now, the passing of time included, unless something comes before it. -/
def choices (s : State) : List (Option (Instr × List Nat)) :=
  if (first s).isEmpty then (enabled s).map some ++ [none] else (first s).map some

/-- What happens next: the oldest entry of the agenda, else a free choice among what could happen. An event stands with its
focus set. -/
def due (s : State) : State × Option Instr :=
  match s.agenda with
  | .event i f :: r => ({ s with agenda := r, focus := f }, some i)
  | .hostWrite pa bs :: r => (hostStore { s with agenda := r } pa bs, none)
  | .hostMode on :: r => ({ s with agenda := r, hostPort := on }, none)
  | [] =>
    match pickFrom s (choices s) with
    | (some (some (i, f)), s1) => ({ s1 with focus := f }, some i)
    | (_, s1) => (idle s1, none)

/-- A word of the clause under way that names no instruction (R47): the illegal-instruction fault. -/
def illegalWord (s : State) (g : Gang) (c : ClauseRun) : State :=
  faultAt s g c 0x01 (BitVec.ofNat 64 (wordOf c)) (activeMask c) 0

/-- A gang in which one instruction word is about to issue: resident on core 0 of Quince, with 32 threads of 256
registers, alone in its block, cluster and launch. -/
def loneGang (w : Nat) : Gang :=
  { id := 0, launch := 0, core := 0, slot := some (.normal 0 0), nregs := 256, threads := List.replicate 32 {},
    live := allLanes, frontier := [{ pc := 0x1000#64, prio := 0, mask := allLanes }],
    clause := some { h := 0x1000#64, hdr := 0xFF000#32, words := [BitVec.ofNat 32 w], act := allLanes } }

/-- A launch of one cluster of one block of one gang, loaded from outside the machine with the given instruction word as
the next to issue. DESIGN CHOICE, log entry 10 (safe). -/
def loadWord (s : State) (w : Nat) : State :=
  { s with
    issuing := some 0,
    launches := { id := 0, die := 0, take := 0, ctx := 0, addr := 0, queue := 0, state := .draining, placed := 1,
                  desc := { gx := 1, gy := 1, gz := 1, blocks := 1, gangs := 1, regs := 256, affinity := 3 } } :: s.launches,
    clusters := { id := 0, launch := 0, index := 0, blocks := [0], ready := true } :: s.clusters,
    blocks := { id := 0, launch := 0, clusterId := 0, rank := 0, core := 0, gangs := 1, pad := {}, queueSize := 0 } :: s.blocks,
    gangs := loneGang w :: s.gangs }

/-- The clause under way with its current word replaced. -/
def ClauseRun.withWord (c : ClauseRun) (w : Nat) : ClauseRun := { c with words := setAt c.words c.idx (BitVec.ofNat 32 w) }

end Sys2Proof.Machine
end

