-- ==== Sys2Proof/Machine/Step.lean ====
section
/-! DEFINITION. One step: the instruction that is issuing, or else the next event; and the word that issues next. -/

namespace Sys2Proof.Machine

/-- The instruction word under way, decoded and executed. DESIGN CHOICE, log entry 4 (safe). -/
def stepIssued (s : State) : Host.Outcome State Fault Refusal :=
  match issuer s with
  | none => .fault .noIssuer
  | some (g, c) =>
    match decodeWord (wordOf c) with
    | .ok i => exec i s
    | .error _ => .next (illegalWord s g c)

/-- One step of the module. DESIGN CHOICE, log entry 4 (safe). -/
def step (s : State) : Host.Outcome State Fault Refusal :=
  match s.issuing with
  | some _ => stepIssued s
  | none =>
    match due s with
    | (s', some i) => exec i s'
    | (s', none) => .next s'

/-- The state with an instruction word where `step` takes its next instruction from: in the clause of the gang that is
issuing, or else of a gang loaded for it. DESIGN CHOICE, log entry 10 (safe). -/
def State.withFetchWord (s : State) (nbits w : Nat) : State :=
  match issuer s with
  | some (g, c) => setGang s { g with clause := some (c.withWord (w % 2 ^ nbits)) }
  | none => loadWord s (w % 2 ^ nbits)

end Sys2Proof.Machine
end

