-- ==== Sys2Proof/Safety.lean ====
section
/-! DEFINITION. What counts as a safe run, and the terms in which the claims are stated: an instruction that issues, what
an instruction may change beside its own effect, and what it writes in a lane. -/

namespace Sys2Proof

open Sys2Proof.Machine

/-- The outcome is a next state. -/
def Goes (o : Host.Outcome State Fault Refusal) : Prop := ∃ t, o = .next t

/-- The gang `g` issues the next instruction of its clause `c`: the flag that counts the instruction has room (R53), and no
outstanding access holds it (R54, R320, R321). -/
structure Issues (s : State) (cls : Cls) (g : Gang) (c : ClauseRun) : Prop where
  issuer : issuer s = some (g, c)
  room : flagFull g c cls = false
  clear : heldAt s g c = none

/-- The gang `g` is to issue, and its flag, or an outstanding access, holds the instruction (R53, R54, R320, R321). -/
def Held (s : State) (cls : Cls) (g : Gang) (c : ClauseRun) : Prop :=
  issuer s = some (g, c) ∧ (flagFull g c cls = true ∨ heldAt s g c ≠ none)

/-- Nothing but the gang `g` differs from `s`, and `g` has become `g'`: every byte of memory, every tag, block, core,
launch, task and copy, every other gang and the model's own counters stay. -/
structure OnlyGang (s t : State) (g g' : Gang) : Prop where
  rest : { t with issuing := s.issuing, gangs := s.gangs } = s
  issuing : t.issuing = none
  own : gangOf t g.id = some g'
  others : ∀ h, h ≠ g.id → gangOf t h = gangOf s h

/-- The instruction leaves everything of its gang but the threads, the position in the code, the completion flags and the
retirement counters (R53, R396, R397): the spill slots of a long frontier stand in the slabs (R120), and the accesses
outstanding stay outstanding. -/
structure OnlyThreads (g g' : Gang) : Prop where
  rest : { g' with threads := g.threads, clause := g.clause, frontier := g.frontier, wait := g.wait, flags := g.flags,
                   completing := g.completing, retcnt := g.retcnt, sthash := g.sthash, passed := g.passed,
                   stack := { g'.stack with bytes := g.stack.bytes } } = g
  flights : g'.passed.flatMap Passed.flights = g.passed.flatMap Passed.flights
  lanes : g'.threads.length = g.threads.length
  slabs : g'.frontier.length ≤ 16 → g'.stack = g.stack

/-- What happens to the thread of every lane: `F` in the active lanes, nothing in the others (R8, R49). -/
def EachLane (g g' : Gang) (A : Word) (F : Nat → Thread → Thread → Prop) : Prop :=
  ∀ l, l < g.threads.length → if inMask A l then F l (thr g l) (thr g' l) else thr g' l = thr g l

/-- Nothing of a thread but its registers differs. -/
def SameButRegs (u v : Thread) : Prop := { v with regs := u.regs, save1 := u.save1, save2 := u.save2 } = u

/-- A thread with one register field written: field 0 discards the write, every other field of the window, every other
physical register and every other banked pair keeps its value (R57, R359). -/
structure WritesReg (lv : Nat) (u v : Thread) (d : Nat) (x : Word) : Prop where
  reads : ∀ n, rdReg lv v n = if n = d ∧ n ≠ 0 then x else rdReg lv u n
  phys : ∀ i, d = 0 ∨ bankedReg lv d = true ∨ i ≠ u.wbase + d → rdPhys v i = rdPhys u i
  saves : bankedReg lv d = false → v.save1 = u.save1 ∧ v.save2 = u.save2
  rest : SameButRegs u v

/-- A thread with one register pair written, the low word first (R59). -/
structure WritesPair (lv : Nat) (u v : Thread) (d : Nat) (x : Dbl) : Prop where
  reads : ∀ n, n % 2 = 0 → rdPair lv v n = if n = d ∧ n ≠ 0 then x else rdPair lv u n
  phys : ∀ i, d = 0 ∨ bankedPair lv d = true ∨ (i ≠ u.wbase + d ∧ i ≠ u.wbase + d + 1) → rdPhys v i = rdPhys u i
  saves : bankedPair lv d = false → v.save1 = u.save1 ∧ v.save2 = u.save2
  rest : SameButRegs u v

/-- A thread with one predicate written: `q0` discards the write (R62). -/
structure WritesPred (u v : Thread) (d : Nat) (x : Bool) : Prop where
  reads : ∀ n, n < 128 → rdPred v n = if n = d ∧ n ≠ 0 then x else rdPred u n
  rest : { v with preds := u.preds } = u

/-- The same with flags joined to `%aflags` (R170): `W` says the rest of what is written. -/
def WithFlags (u v : Thread) (f : Word) (W : Thread → Thread → Prop) : Prop :=
  v.aflags = u.aflags ||| f ∧ W u { v with aflags := u.aflags }

/-- An instruction that acts on its gang's threads alone. It goes past itself with its effect (`completes`); where an operand
lies outside the window it takes the fault 0x03 with nothing done (`faults`, R58); where its completion flag is at 63, or an
outstanding access holds it, it waits (`waits`, R53, R54). -/
structure LaneResult (i : Instr) (cls : Cls) (os : List Opnd) (F : Gang → Word → Nat → Thread → Thread → Prop) : Prop where
  completes : ∀ s g c, Issues s cls g c → windowFail g (activeMask c) os = none →
    ∃ t g', exec i s = .next t ∧ OnlyGang s t g g' ∧ OnlyThreads g g' ∧ EachLane g g' (activeMask c) (F g (activeMask c))
  faults : ∀ s g c x lanes, Issues s cls g c → windowFail g (activeMask c) os = some (x, lanes) →
    exec i s = .next (faultAt s g c 0x03 (BitVec.ofNat 64 x) lanes 0)
  waits : ∀ s g c, Held s cls g c → exec i s = .next { s with issuing := none }

/-- The rational number that a finite pattern stands for (R160). -/
def FinitePattern (f : Fmt) (x : Nat) (q : ℚ) : Prop :=
  ∃ n m e, unpack f x = .fin n m e ∧ q = (if n then -1 else 1) * m * (2 : ℚ) ^ e

/-- The pattern `r` is the real number `x`, which is not zero, rounded once in a mode to a format that has infinities (R165,
R166): the nearest finite value, ties to the even pattern, or the largest not above it in magnitude, the least not below
it, the largest not above it. An infinity stands for what the mode puts beyond the largest finite value: in mode rn, for
magnitudes from half a unit above that value on. -/
def Rounds (f : Fmt) (mode : Nat) (x : ℝ) (r : Nat) : Prop :=
  r / 2 ^ (f.ew + f.fw) = (if x < 0 then 1 else 0) ∧
  ((∃ v : ℚ, FinitePattern f r v ∧ ∀ y (p : ℚ), FinitePattern f y p →
      (mode = 0 → |x - v| ≤ |x - p| ∧ (|x - v| = |x - p| → p ≠ v → r % 2 = 0) ∧
        |x| < (2 - 1 / 2 ^ (f.fw + 1)) * 2 ^ (2 ^ (f.ew - 1) - 1)) ∧
      (mode = 1 → |(v : ℝ)| ≤ |x| ∧ (|(p : ℝ)| ≤ |x| → |p| ≤ |v|)) ∧
      (mode = 2 → x ≤ v ∧ (x ≤ p → v ≤ p)) ∧ (mode = 3 → v ≤ x ∧ (p ≤ x → p ≤ v))) ∨
    (r % 2 ^ (f.ew + f.fw) = (2 ^ f.ew - 1) * 2 ^ f.fw ∧
      (mode = 0 → (2 - 1 / 2 ^ (f.fw + 1)) * 2 ^ (2 ^ (f.ew - 1) - 1) ≤ |x|) ∧ mode ≠ 1 ∧
      ∀ y (p : ℚ), FinitePattern f y p → (mode = 2 → (p : ℝ) < x) ∧ (mode = 3 → x < p)))

/-- A result that the mode rounds toward zero (R165). -/
def TowardZero (mode : Nat) (t : ℚ) : Prop := mode = 1 ∨ (mode = 2 ∧ t < 0) ∨ (mode = 3 ∧ 0 < t)

/-- The rounded number exceeds the largest finite magnitude of a format that has infinities (R166). -/
def Overflows (f : Fmt) (mode : Nat) (t : ℚ) : Prop :=
  let top : ℚ := 2 ^ (2 ^ (f.ew - 1) - 1)
  (mode = 0 → (2 - 1 / 2 ^ (f.fw + 1)) * top ≤ |t|) ∧ (TowardZero mode t → 2 * top ≤ |t|) ∧
    (mode ≠ 0 → ¬ TowardZero mode t → (2 - 1 / 2 ^ f.fw) * top < |t|)

/-- The number, rounded with the exponent range unbounded, lies below the smallest normal magnitude (R167). -/
def Tiny (f : Fmt) (mode : Nat) (t : ℚ) : Prop :=
  let least : ℚ := 2 ^ (2 - 2 ^ (f.ew - 1) : ℤ)
  (mode = 0 → |t| < (1 - 1 / 2 ^ (f.fw + 2)) * least) ∧ (TowardZero mode t → |t| < least) ∧
    (mode ≠ 0 → ¬ TowardZero mode t → |t| ≤ (1 - 1 / 2 ^ (f.fw + 1)) * least)

/-- A result and its flags are the number `t`, which is not zero, rounded once (R165 to R167): the inexact flag, bit 4, is set
if and only if the result differs from it, the overflow flag, bit 2, where the rounded number exceeds the largest finite
one, the underflow flag, bit 3, where it is tiny and inexact, and no other flag. -/
def RoundsOnce (f : Fmt) (mode : Nat) (t : ℚ) (o : Nat × Word) : Prop :=
  Rounds f mode t o.1 ∧ (o.2.getLsbD 4 = false ↔ FinitePattern f o.1 t) ∧ (o.2.getLsbD 2 = true ↔ Overflows f mode t) ∧
    (o.2.getLsbD 3 = true ↔ Tiny f mode t ∧ ¬ FinitePattern f o.1 t) ∧ o.2 &&& 28 = o.2

/-- The integer that a number rounds to in a mode (R165). -/
def RoundsToInt (mode : Nat) (p : ℚ) (n : ℤ) : Prop :=
  (mode = 0 → |p - n| ≤ 1 / 2 ∧ (|p - n| = 1 / 2 → n % 2 = 0)) ∧
  (mode = 1 → |(n : ℚ)| ≤ |p| ∧ |p| < |(n : ℚ)| + 1 ∧ 0 ≤ p * n) ∧
  (mode = 2 → p ≤ n ∧ (n : ℚ) < p + 1) ∧ (mode = 3 → (n : ℚ) ≤ p ∧ p < n + 1)

/-- The finite value `v`, of pattern `r`, is the number that a mode chooses among the finite values of a format (R165, R181). -/
def RoundsAmong (f : Fmt) (mode : Nat) (x v : ℚ) (r : Nat) : Prop :=
  FinitePattern f r v ∧ ∀ y p, FinitePattern f y p →
    (mode = 0 → |x - v| ≤ |x - p| ∧ (|x - v| = |x - p| → p ≠ v → r % 2 = 0)) ∧
    (mode = 1 → |v| ≤ |x| ∧ 0 ≤ v * x ∧ (|p| ≤ |x| → |p| ≤ |v|)) ∧
    (mode = 2 → (x ≤ p → x ≤ v ∧ v ≤ p)) ∧ (mode = 3 → (p ≤ x → v ≤ x ∧ p ≤ v))

/-- The unit in the last place of an FP32 pattern (R176). -/
def ulp32 (r : Nat) : ℚ := 2 ^ ((max 1 (r / 2 ^ 23 % 2 ^ 8) : Nat) - 150 : ℤ)

/-- Every byte, at every place, reads as before: all of memory, the scratchpads and the stack slabs. -/
def SameBytes (s t : State) : Prop := ∀ l, readByte t l = readByte s l

/-- Every byte outside n bytes at a place reads as before. -/
def SameBytesBut (s t : State) (l : Loc) (n : Nat) : Prop :=
  ∀ m : Loc, m.place = l.place ∧ l.off ≤ m.off ∧ m.off < l.off + n ∨ readByte t m = readByte s m

/-- The place exists: physical memory, the scratchpad of a block, or a store of a gang. -/
def HasPlace (s : State) : Place → Prop
  | .phys => True
  | .scratch b => (blockOf s b).isSome = true
  | .priv g => (gangOf s g).isSome = true
  | .stack g => (gangOf s g).isSome = true

/-- An instruction that accesses memory lane by lane (R205). When every active lane passes the checks of the issuing core its
accesses are on their way, with nothing else of its gang changed but the completion flag (`issues`); when a lane fails,
none acts and the lowest lane's fault is taken (`fails`, R356); where the flag is at 63, or an outstanding access holds the
instruction, it waits (`waits`, R53, R54). -/
structure AccessIssues (i : Instr) (op : AccessOp) (check : State → Gang → Nat → Except LaneFail Unit)
    (runs : State → Gang → Prop := fun _ _ => True) : Prop where
  issues : ∀ s g c, Issues s op.cls g c → runs s g → (∀ l ∈ lanesOf (activeMask c), check s g l = .ok ()) →
    ∃ t g', exec i s = .next t ∧ OnlyGang s t g g' ∧
      g'.pending = some { op := op, lanes := activeMask c, done := 0, failed := [], waiting := 0, beyond := none } ∧
      g'.clause = some { c with counted := true } ∧ { g' with pending := g.pending, clause := g.clause, flags := g.flags } = g
  fails : ∀ s g c f fs, Issues s op.cls g c → runs s g → failsOf ((lanesOf (activeMask c)).map (check s g)) = f :: fs →
    exec i s = .next (failAt s g c op.cls f.cause f.loc (failMask (f :: fs)) 0)
  waits : ∀ s g c, Held s op.cls g c → runs s g → exec i s = .next { s with issuing := none }

/-- Nothing of the state but one gang differs, and of that gang nothing but one lane's thread, which has become `v`. -/
def OnlyThread (s t : State) (g : Gang) (lane : Nat) (v : Thread) : Prop :=
  { t with gangs := s.gangs } = s ∧ (∀ h, h ≠ g.id → gangOf t h = gangOf s h) ∧
    ∃ g', gangOf t g.id = some g' ∧ { g' with threads := g.threads } = g ∧ thr g' lane = v ∧
      ∀ k, k ≠ lane → thr g' k = thr g k

/-- The registers of every gang, with its position, stay. -/
def SameThreads (s t : State) : Prop :=
  ∀ h, (gangOf t h).map (fun g => (g.threads, g.frontier, g.clause, g.level)) =
    (gangOf s h).map fun g => (g.threads, g.frontier, g.clause, g.level)

/-- Every lane of a list acts, in order, each in the state that the lane before it leaves, and each succeeds; the event of a stop
that a hit brings has room (R418). -/
def AllLanes (step : State → Gang → Nat → State × SeqEnd) (id : Nat) : List Nat → State → State → Prop
  | [], s, t => t = s
  | l :: ls, s, t => ∃ g c hits s1, gangOf s id = some g ∧ g.clause = some c ∧ step s g l = (s1, .ok hits none) ∧
      stopHeld s1 g (c.hits ++ hits) = false ∧ AllLanes step id ls (addHits s1 id hits) t

/-- The waiter records of a cell's queue, from one on, in their order (R338). -/
def WaiterChain (m : FMap Waiter) : Nat → List Nat → Prop
  | i, [] => i = noWaiter
  | i, j :: js => i = j ∧ i ≠ noWaiter ∧ ∃ w, fget m i = some w ∧ WaiterChain m w.next js

/-- The granules upward from a base, the i-th first, are coloured one after another, each at its target (R385). -/
def AllGranules (g : Gang) (lane : Nat) (base : Dbl) : List Target → Nat → State → State → Prop
  | [], _, s, t => t = s
  | x :: xs, i, s, t => ∃ ea s1, effAddr base (16 * i : Nat) = some ea ∧ apertureOf ea = apertureOf base ∧
      tagTarget s g lane ea true = (s1, .ok x) ∧ AllGranules g lane base xs (i + 1) (colourGranule s1 g ea x) t

/-- A thread with one physical register written through the window; the banked pair is never meant (R257, R359). -/
structure WritesWin (u v : Thread) (d : Nat) (x : Word) : Prop where
  reads : d ≠ 0 → rdPhys v (u.wbase + d) = x
  phys : ∀ i, d = 0 ∨ i ≠ u.wbase + d → rdPhys v i = rdPhys u i
  rest : { v with regs := u.regs } = u

end Sys2Proof
end

