-- ==== Sys2Proof/Certificates/Slice0/Obligations.lean ====
section
/-! DEFINITION. The statements for the provers: what the instructions and the events do, by the numbered rules of the
spec. A result is stated with its frame: `LaneResult`, `OnlyGang`, `OnlyThreads` and `EachLane` of `Safety.lean` say what
stays. -/

open Sys2Proof Sys2Proof.Machine

/-! ### The integer instructions -/

/-- R140 to R142, R144: the three-register forms, each result as the rule's formula reads, every other register, flag
and byte of memory unchanged (R138). R142, R144: the forms whose destination is a source as well. -/
def Obligations.IntegerResults : Prop :=
  (∀ r ∈ ([
     (Instr.add, fun x y v => v = BitVec.ofInt 32 (x.toInt + y.toInt)),
     (Instr.sub, fun x y v => v = BitVec.ofInt 32 (x.toInt - y.toInt)),
     (Instr.min, fun x y v => v = if x.toInt ≤ y.toInt then x else y),
     (Instr.max, fun x y v => v = if x.toInt ≥ y.toInt then x else y),
     (Instr.minn, fun x y v => v = if x.toNat ≤ y.toNat then x else y),
     (Instr.maxn, fun x y v => v = if x.toNat ≥ y.toNat then x else y),
     (Instr.and, fun x y v => ∀ i < 32, v.getLsbD i = (x.getLsbD i && y.getLsbD i)),
     (Instr.or, fun x y v => ∀ i < 32, v.getLsbD i = (x.getLsbD i || y.getLsbD i)),
     (Instr.xor, fun x y v => ∀ i < 32, v.getLsbD i = (x.getLsbD i != y.getLsbD i)),
     (Instr.andn, fun x y v => ∀ i < 32, v.getLsbD i = (x.getLsbD i && !y.getLsbD i)),
     (Instr.orn, fun x y v => ∀ i < 32, v.getLsbD i = (x.getLsbD i || !y.getLsbD i)),
     (Instr.shl, fun x y v => v = if y.toNat < 32 then BitVec.ofNat 32 (x.toNat * 2 ^ y.toNat) else 0),
     (Instr.shr, fun x y v => v = if y.toNat < 32 then BitVec.ofNat 32 (x.toNat / 2 ^ y.toNat) else 0),
     (Instr.sar, fun x y v => v = BitVec.ofInt 32 (x.toInt / 2 ^ Nat.min y.toNat 31)),
     (Instr.rol, fun x y v => v = BitVec.ofNat 32 (x.toNat * 2 ^ (y.toNat % 32)) ||| BitVec.ofNat 32 (x.toNat / 2 ^ (32 - y.toNat % 32))),
     (Instr.ror, fun x y v => v = BitVec.ofNat 32 (x.toNat / 2 ^ (y.toNat % 32)) ||| BitVec.ofNat 32 (x.toNat * 2 ^ (32 - y.toNat % 32))),
     (Instr.mul, fun x y v => v = BitVec.ofNat 32 (x.toNat * y.toNat)),
     (Instr.mulh, fun x y v => v = BitVec.ofInt 32 (x.toInt * y.toInt / 2 ^ 32)),
     (Instr.mulhn, fun x y v => v = BitVec.ofNat 32 (x.toNat * y.toNat / 2 ^ 32)),
     (Instr.bfen, fun x y v => ∀ i < 32, v.getLsbD i =
       (decide (i < Nat.min (y.toNat / 256 % 256) 32) && decide (y.toNat % 256 + i < 32) && x.getLsbD (y.toNat % 256 + i))),
     (Instr.bfe, fun x y v => ∀ i < 32, v.getLsbD i =
       (decide (0 < y.toNat / 256 % 256) && x.getLsbD (Nat.min (y.toNat % 256 + Nat.min i (y.toNat / 256 % 256 - 1)) 31)))
     ] : List ((Nat → Nat → Nat → Instr) × (Word → Word → Word → Prop))),
   ∀ b a d, LaneResult (r.1 b a d) .none [.reg d, .reg a, .reg b] fun g _ _ u v =>
     ∃ x, r.2 (rdReg g.level u a) (rdReg g.level u b) x ∧ WritesReg g.level u v d x) ∧
  (∀ r ∈ ([
     (Instr.mad, fun z x y v => v = BitVec.ofNat 32 (z.toNat + x.toNat * y.toNat)),
     (Instr.bfi, fun z x y v => ∀ i < 32, v.getLsbD i =
       if y.toNat % 256 ≤ i ∧ i < y.toNat % 256 + Nat.min (y.toNat / 256 % 256) 32 then x.getLsbD (i - y.toNat % 256)
       else z.getLsbD i)
     ] : List ((Nat → Nat → Nat → Instr) × (Word → Word → Word → Word → Prop))),
   ∀ b a d, LaneResult (r.1 b a d) .none [.reg d, .reg a, .reg b] fun g _ _ u v =>
     ∃ x, r.2 (rdReg g.level u d) (rdReg g.level u a) (rdReg g.level u b) x ∧ WritesReg g.level u v d x)

/-- R140: the forms with one source register. R145, R146: the forms with an immediate and a source register. R147: the
constants. -/
def Obligations.UnaryAndConstantResults : Prop :=
  (∀ r ∈ ([
     (Instr.abs, fun x v => v = BitVec.ofInt 32 |x.toInt|),
     (Instr.neg, fun x v => v = BitVec.ofInt 32 (-x.toInt)),
     (Instr.not, fun x v => ∀ i < 32, v.getLsbD i = !x.getLsbD i),
     (Instr.clz, fun x v => v.toNat ≤ 32 ∧ (∀ i < v.toNat, x.getLsbD (31 - i) = false) ∧ (v.toNat < 32 → x.getLsbD (31 - v.toNat) = true)),
     (Instr.ctz, fun x v => v.toNat ≤ 32 ∧ (∀ i < v.toNat, x.getLsbD i = false) ∧ (v.toNat < 32 → x.getLsbD v.toNat = true)),
     (Instr.popc, fun x v => v.toNat = ((List.range 32).filter fun i => x.getLsbD i).length),
     (Instr.brev, fun x v => ∀ i < 32, v.getLsbD i = x.getLsbD (31 - i))
     ] : List ((Nat → Nat → Instr) × (Word → Word → Prop))),
   ∀ a d, LaneResult (r.1 a d) .none [.reg d, .reg a] fun g _ _ u v =>
     ∃ x, r.2 (rdReg g.level u a) x ∧ WritesReg g.level u v d x) ∧
  (∀ r ∈ ([
     (Instr.addi, fun i x v => i < 4096 → v = BitVec.ofInt 32 (x.toInt + if i < 2048 then (i : Int) else i - 4096)),
     (Instr.andi, fun i x v => i < 4096 → v = x &&& BitVec.ofInt 32 (if i < 2048 then (i : Int) else i - 4096)),
     (Instr.ori, fun i x v => v = x ||| BitVec.ofNat 32 i),
     (Instr.xori, fun i x v => v = x ^^^ BitVec.ofNat 32 i),
     (Instr.shli, fun n x v => n < 32 → v = BitVec.ofNat 32 (x.toNat * 2 ^ n)),
     (Instr.shri, fun n x v => n < 32 → v = BitVec.ofNat 32 (x.toNat / 2 ^ n)),
     (Instr.sari, fun n x v => n < 32 → v = BitVec.ofInt 32 (x.toInt / 2 ^ n))
     ] : List ((Nat → Nat → Nat → Instr) × (Nat → Word → Word → Prop))),
   ∀ i a d, LaneResult (r.1 i a d) .none [.reg d, .reg a] fun g _ _ u v =>
     ∃ x, r.2 i (rdReg g.level u a) x ∧ WritesReg g.level u v d x) ∧
  (∀ i d, i < 524288 →
     LaneResult (.movi i d) .none [.reg d] (fun g _ _ u v =>
       WritesReg g.level u v d (BitVec.ofInt 32 (if i < 262144 then (i : Int) else i - 524288))) ∧
     LaneResult (.movhi i d) .none [.reg d] (fun g _ _ u v =>
       ∃ x : Word, x.toNat / 2 ^ 13 = i ∧ x.toNat % 2 ^ 13 = (rdReg g.level u d).toNat % 2 ^ 13 ∧ WritesReg g.level u v d x))

/-- R142: the exact product and the pair forms. -/
def Obligations.PairResults : Prop :=
  ∀ b a d, d % 2 = 0 →
    LaneResult (.mulD b a d) .none [.pair d, .reg a, .reg b] (fun g _ _ u v =>
      WritesPair g.level u v d (BitVec.ofInt 64 ((rdReg g.level u a).toInt * (rdReg g.level u b).toInt))) ∧
    LaneResult (.addD b a d) .none [.pair d, .pair a, .pair b] (fun g _ _ u v =>
      WritesPair g.level u v d (BitVec.ofNat 64 ((rdPair g.level u a).toNat + (rdPair g.level u b).toNat))) ∧
    LaneResult (.subD b a d) .none [.pair d, .pair a, .pair b] (fun g _ _ u v =>
      WritesPair g.level u v d (BitVec.ofInt 64 ((rdPair g.level u a).toNat - (rdPair g.level u b).toNat : Int))) ∧
    LaneResult (.shlD b a d) .none [.pair d, .pair a, .reg b] (fun g _ _ u v =>
      WritesPair g.level u v d (if (rdReg g.level u b).toNat < 64
        then BitVec.ofNat 64 ((rdPair g.level u a).toNat * 2 ^ (rdReg g.level u b).toNat) else 0)) ∧
    LaneResult (.shrD b a d) .none [.pair d, .pair a, .reg b] (fun g _ _ u v =>
      WritesPair g.level u v d (if (rdReg g.level u b).toNat < 64
        then BitVec.ofNat 64 ((rdPair g.level u a).toNat / 2 ^ (rdReg g.level u b).toNat) else 0))

/-- R143: quotients toward zero and remainders with the dividend's sign; a zero divisor gives all ones and the
dividend, and sets the integer divide-by-zero flag, alone of the flags. -/
def Obligations.DivisionResults : Prop :=
  ∀ r ∈ ([
    (Instr.div, fun x y v => v = if y = 0 then 0xFFFFFFFF else BitVec.ofInt 32 (x.toInt.tdiv y.toInt)),
    (Instr.divn, fun x y v => v = if y = 0 then 0xFFFFFFFF else BitVec.ofNat 32 (x.toNat / y.toNat)),
    (Instr.rem, fun x y v => v = if y = 0 then x else BitVec.ofInt 32 (x.toInt - x.toInt.tdiv y.toInt * y.toInt)),
    (Instr.remn, fun x y v => v = if y = 0 then x else BitVec.ofNat 32 (x.toNat % y.toNat))
    ] : List ((Nat → Nat → Nat → Instr) × (Word → Word → Word → Prop))),
  ∀ b a d, LaneResult (r.1 b a d) .a [.reg d, .reg a, .reg b] fun g _ _ u v =>
    ∃ x, r.2 (rdReg g.level u a) (rdReg g.level u b) x ∧
      WithFlags u v (if rdReg g.level u b = 0 then 0x20 else 0) fun u v => WritesReg g.level u v d x

/-- R148: the ten integer compares. -/
def Obligations.CompareResults : Prop :=
  ∀ r ∈ ([
    (Instr.icmpEq, fun x y => x = y), (Instr.icmpNe, fun x y => x ≠ y),
    (Instr.icmpLt, fun x y => x.toInt < y.toInt), (Instr.icmpLe, fun x y => x.toInt ≤ y.toInt),
    (Instr.icmpGt, fun x y => x.toInt > y.toInt), (Instr.icmpGe, fun x y => x.toInt ≥ y.toInt),
    (Instr.icmpLtn, fun x y => x.toNat < y.toNat), (Instr.icmpLen, fun x y => x.toNat ≤ y.toNat),
    (Instr.icmpGtn, fun x y => x.toNat > y.toNat), (Instr.icmpGen, fun x y => x.toNat ≥ y.toNat)
    ] : List ((Nat → Nat → Nat → Instr) × (Word → Word → Prop))),
  ∀ b a d, LaneResult (r.1 b a d) .none [.reg a, .reg b] fun g _ _ u v =>
    ∃ x : Bool, (x = true ↔ r.2 (rdReg g.level u a) (rdReg g.level u b)) ∧ WritesPred u v d x

/-- R149 to R151: the predicate operations. -/
def Obligations.PredicateResults : Prop :=
  (∀ r ∈ ([
    (Instr.qand, fun x y => x && y), (Instr.qor, fun x y => x || y), (Instr.qxor, fun x y => x != y),
    (Instr.qandn, fun x y => x && !y), (fun _ a d => Instr.qnot a d, fun x _ => !x), (fun _ a d => Instr.qmov a d, fun x _ => x),
    (fun _ _ d => Instr.qset 0 d, fun _ _ => false), (fun _ _ d => Instr.qset 1 d, fun _ _ => true)
    ] : List ((Nat → Nat → Nat → Instr) × (Bool → Bool → Bool))),
    ∀ b a d, LaneResult (r.1 b a d) .none [] fun _ _ _ u v => WritesPred u v d (r.2 (rdPred u a) (rdPred u b))) ∧
  (∀ a d, LaneResult (.qpack a d) .none [.reg d] fun g _ _ u v =>
    ∃ x : Word, (∀ i < 32, x.getLsbD i = rdPred u (a + i)) ∧ WritesReg g.level u v d x) ∧
  (∀ a d, d + 32 ≤ 128 → LaneResult (.qunpack a d) .none [.reg a] fun g _ _ u v =>
    { v with preds := u.preds } = u ∧ ∀ n < 128, rdPred v n =
      if d ≤ n ∧ n < d + 32 ∧ n ≠ 0 then (rdReg g.level u a).getLsbD (n - d) else rdPred u n) ∧
  (∀ b a d, LaneResult (.sel b a d) .none [.reg d, .reg a] fun g _ _ u v =>
    if rdPred u b = true then WritesReg g.level u v d (rdReg g.level u a) else v = u)

/-- R152, R153, R157: the votes and the rank, over the active lanes alone. R153 to R155: the exchanges: a lane reads
its source lane if that lane is active, and itself otherwise. R156: the reductions over the active lanes. -/
def Obligations.GangwideResults : Prop :=
  ((∀ a d, LaneResult (.voteAny a d) .none [] fun g A _ u v =>
     ∃ x : Bool, (x = true ↔ ∃ l ∈ lanesOf A, rdPred (thr g l) a = true) ∧ WritesPred u v d x) ∧
   (∀ a d, LaneResult (.voteAll a d) .none [] fun g A _ u v =>
     ∃ x : Bool, (x = true ↔ ∀ l ∈ lanesOf A, rdPred (thr g l) a = true) ∧ WritesPred u v d x) ∧
   (∀ a d, LaneResult (.voteCnt a d) .none [.reg d] fun g A _ u v =>
     ∃ x : Word, x.toNat = ((lanesOf A).filter fun l => rdPred (thr g l) a).length ∧ WritesReg g.level u v d x) ∧
   (∀ a d, LaneResult (.voteBallot a d) .none [.reg d] fun g A _ u v =>
     ∃ x : Word, (∀ l < 32, x.getLsbD l = (inMask A l && rdPred (thr g l) a)) ∧ WritesReg g.level u v d x) ∧
   (∀ d, LaneResult (.mrank d) .none [.reg d] fun g A l u v =>
     ∃ x : Word, x.toNat = ((lanesOf A).filter fun k => k < l).length ∧ WritesReg g.level u v d x)) ∧
  ((∀ r ∈ ([
     (Instr.shflIdx, fun _ y s => s = (y : Int)), (Instr.shflUp, fun l y s => s = (l : Int) - y),
     (Instr.shflDn, fun l y s => s = (l : Int) + y), (Instr.shflXor, fun l y s => s = ((l ^^^ y : Nat) : Int))
     ] : List ((Nat → Nat → Nat → Instr) × (Nat → Nat → Int → Prop))),
     ∀ b a d, LaneResult (r.1 b a d) .none [.reg d, .reg a, .reg b] fun g A l u v =>
       ∃ s : Int, r.2 l (rdReg g.level u b).toNat s ∧
         WritesReg g.level u v d (rdReg g.level (thr g (if 0 ≤ s ∧ s ≤ 31 ∧ inMask A s.toNat = true then s.toNat else l)) a)) ∧
   (∀ b a d, LaneResult (.bcast b a d) .none [.reg d, .reg a, .reg b] fun g A _ u v =>
     ∀ k, (lanesOf A).head? = some k →
       WritesReg g.level u v d (rdReg g.level (thr g
         (if (rdReg g.level (thr g k) b).toNat ≤ 31 ∧ inMask A (rdReg g.level (thr g k) b).toNat = true
          then (rdReg g.level (thr g k) b).toNat else k)) a))) ∧
  ((∀ a d, LaneResult (.reduxAdd a d) .none [.reg d, .reg a] fun g A _ u v =>
     WritesReg g.level u v d (BitVec.ofNat 32 ((lanesOf A).map fun l => (rdReg g.level (thr g l) a).toNat).sum)) ∧
   (∀ r ∈ ([
     (Instr.reduxMin, fun x y => x.toInt ≤ y.toInt), (Instr.reduxMax, fun x y => y.toInt ≤ x.toInt),
     (Instr.reduxMinn, fun x y => x.toNat ≤ y.toNat), (Instr.reduxMaxn, fun x y => y.toNat ≤ x.toNat)
     ] : List ((Nat → Nat → Instr) × (Word → Word → Prop))),
     ∀ a d, LaneResult (r.1 a d) .none [.reg d, .reg a] fun g A _ u v =>
       ∃ k ∈ lanesOf A, (∀ l ∈ lanesOf A, r.2 (rdReg g.level (thr g k) a) (rdReg g.level (thr g l) a)) ∧
         WritesReg g.level u v d (rdReg g.level (thr g k) a)))

/-! ### Floating point -/

/-- R172, R173, R175: the FP32 operations: each result of the operation's own function, its flags joined to `%aflags`.
R175: the values of `frint`, `ffrac`, `fscale` and `fsat`: the integer that the mode chooses, with the operand's sign;
the rest past the integer toward zero; the product with a power of two, rounded once to nearest; the operand clamped
to 0.0 to 1.0; and what a NaN, an infinity and a zero give. The values of the others stand in `FloatSpecialCases` and
`RoundingIsCorrect`, and those of `frcp`, `frsqrt`, `fexp2`, `flog2`, `fsin` and `fcos`, which complete in the same way
(R176), in `ApproximationResults`. -/
def Obligations.FloatResults : Prop :=
  (∀ r ∈ ([(Instr.fadd, fpAdd fp32), (Instr.fsub, fpSub fp32), (Instr.fmul, fpMul fp32)] :
      List ((Nat → Nat → Nat → Nat → Instr) × (Nat → Nat → Nat → Nat × Word))),
    ∀ m b a d, LaneResult (r.1 m b a d) .none [.reg d, .reg a, .reg b] fun g _ _ u v =>
      WithFlags u v (r.2 m (rdReg g.level u a).toNat (rdReg g.level u b).toNat).2 fun u v =>
        WritesReg g.level u v d (BitVec.ofNat 32 (r.2 m (rdReg g.level u a).toNat (rdReg g.level u b).toNat).1)) ∧
  (∀ m b a d, LaneResult (.fma m b a d) .none [.reg d, .reg a, .reg b] fun g _ _ u v =>
    let z := fpFma fp32 m (rdReg g.level u d).toNat (rdReg g.level u a).toNat (rdReg g.level u b).toNat
    WithFlags u v z.2 fun u v => WritesReg g.level u v d (BitVec.ofNat 32 z.1)) ∧
  (∀ m b a d, LaneResult (.fdiv m b a d) .a [.reg d, .reg a, .reg b] fun g _ _ u v =>
    let z := fpDiv fp32 m (rdReg g.level u a).toNat (rdReg g.level u b).toNat
    WithFlags u v z.2 fun u v => WritesReg g.level u v d (BitVec.ofNat 32 z.1)) ∧
  (∀ m a d, LaneResult (.fsqrt m a d) .a [.reg d, .reg a] fun g _ _ u v =>
    let z := fpSqrt fp32 m (rdReg g.level u a).toNat
    WithFlags u v z.2 fun u v => WritesReg g.level u v d (BitVec.ofNat 32 z.1)) ∧
  (∀ r ∈ ([(Instr.fmin, fpMinMax fp32 false), (Instr.fmax, fpMinMax fp32 true), (Instr.fscale, fpScale)] :
      List ((Nat → Nat → Nat → Instr) × (Nat → Nat → Nat × Word))),
    ∀ b a d, LaneResult (r.1 b a d) .none [.reg d, .reg a, .reg b] fun g _ _ u v =>
      WithFlags u v (r.2 (rdReg g.level u a).toNat (rdReg g.level u b).toNat).2 fun u v =>
        WritesReg g.level u v d (BitVec.ofNat 32 (r.2 (rdReg g.level u a).toNat (rdReg g.level u b).toNat).1)) ∧
  (∀ r ∈ ([(fun _ => Instr.ffrac, fun _ => fpFrac), (fun _ => Instr.fsat, fun _ => fpSat), (Instr.frint, fpRint)] :
      List ((Nat → Nat → Nat → Instr) × (Nat → Nat → Nat × Word))),
    ∀ m a d, LaneResult (r.1 m a d) .none [.reg d, .reg a] fun g _ _ u v =>
      WithFlags u v (r.2 m (rdReg g.level u a).toNat).2 fun u v =>
        WritesReg g.level u v d (BitVec.ofNat 32 (r.2 m (rdReg g.level u a).toNat).1)) ∧
  (∀ r ∈ ([(Instr.frcp, fpRcp), (Instr.frsqrt, fpRsqrt), (Instr.fexp2, fpExp2), (Instr.flog2, fpLog2), (Instr.fsin, fpSin),
      (Instr.fcos, fpCos)] : List ((Nat → Nat → Instr) × (Word → Nat × Word))),
    ∀ a d, LaneResult (r.1 a d) .a [.reg d, .reg a] fun g _ _ u v =>
      WithFlags u v (r.2 (rdReg g.level u a)).2 fun u v =>
        WritesReg g.level u v d (BitVec.ofNat 32 (r.2 (rdReg g.level u a)).1)) ∧
  (let nan := fun x => x / 2 ^ 23 % 2 ^ 8 = 255 ∧ x % 2 ^ 23 ≠ 0
   let top := fun x => x / 2 ^ 23 % 2 ^ 8 = 255
   ∀ x < 2 ^ 32,
     (nan x → ∀ o ∈ [fpRint 0 x, fpRint 1 x, fpRint 2 x, fpRint 3 x, fpFrac x, fpScale x 0, fpScale x 1],
       o = (0x7FC00000, if x % 2 ^ 23 < 2 ^ 22 then 1 else 0)) ∧
     (nan x → (∀ y, fpScale x y = fpScale x 0) ∧ fpSat x = (0, if x % 2 ^ 23 < 2 ^ 22 then 1 else 0)) ∧
     (top x ∧ ¬ nan x → (∀ m, fpRint m x = (x, 0)) ∧ fpFrac x = (0x7FC00000, 1) ∧ (∀ y, fpScale x y = (x, 0)) ∧
       fpSat x = (if x < 2 ^ 31 then 0x3F800000 else 0, 0)) ∧
     ∀ p, FinitePattern fp32 x p →
       (∀ m < 4, ∃ n : ℤ, fpRint m x = ((fpRint m x).1, 0) ∧ FinitePattern fp32 (fpRint m x).1 n ∧ RoundsToInt m p n ∧
         (fpRint m x).1 / 2 ^ 31 = x / 2 ^ 31) ∧
       (∃ (n : ℤ) (r : ℚ), fpFrac x = ((fpFrac x).1, 0) ∧ FinitePattern fp32 (fpFrac x).1 r ∧ (fpFrac x).1 / 2 ^ 31 = x / 2 ^ 31 ∧
         r = p - n ∧ RoundsToInt 1 p n) ∧
       (∀ y < 2 ^ 32, (p = 0 → fpScale x y = (x, 0)) ∧
         (p ≠ 0 → RoundsOnce fp32 0 (p * 2 ^ (if y < 2 ^ 31 then (y : ℤ) else (y : ℤ) - 2 ^ 32)) (fpScale x y))) ∧
       fpSat x = (if p ≤ 0 then 0 else if 1 < p then 0x3F800000 else x, 0))

/-- R175, R177: the bit operations, which set no flag, and the class mask, which sets nv for a signalling NaN. R178:
the floating-point compares, by the order of the values, with −0 equal to +0: an ordered comparison holds of no NaN
and sets nv for any NaN; the others set nv for a signalling NaN alone. `nan x` and `snan x` read the pattern (R160).
-/
def Obligations.FloatBitsAndCompares : Prop :=
  ((∀ a d, LaneResult (.fabs a d) .none [.reg d, .reg a] fun g _ _ u v =>
     WritesReg g.level u v d (BitVec.ofNat 32 ((rdReg g.level u a).toNat % 2 ^ 31))) ∧
   (∀ a d, LaneResult (.fneg a d) .none [.reg d, .reg a] fun g _ _ u v =>
     WritesReg g.level u v d (BitVec.ofNat 32 ((rdReg g.level u a).toNat + 2 ^ 31))) ∧
   (∀ b a d, LaneResult (.fcopysign b a d) .none [.reg d, .reg a, .reg b] fun g _ _ u v =>
     WritesReg g.level u v d (BitVec.ofNat 32 ((rdReg g.level u a).toNat % 2 ^ 31 + (rdReg g.level u b).toNat / 2 ^ 31 * 2 ^ 31))) ∧
   (∀ a d, LaneResult (.fclass a d) .none [.reg d, .reg a] fun g _ _ u v =>
     let x := (rdReg g.level u a).toNat
     let neg := 2 ^ 31 ≤ x
     let e := x / 2 ^ 23 % 2 ^ 8
     let m := x % 2 ^ 23
     WithFlags u v (if e = 255 ∧ m ≠ 0 ∧ m < 2 ^ 22 then 1 else 0) fun u v => WritesReg g.level u v d (
       if e = 255 then (if m = 0 then (if neg then 1#32 else 128#32) else if 2 ^ 22 ≤ m then 512#32 else 256#32)
       else if e = 0 then (if m = 0 then (if neg then 8#32 else 16#32) else if neg then 4#32 else 32#32)
       else if neg then 2#32 else 64#32))) ∧
  (let nan := fun x : Word => x.toNat / 2 ^ 23 % 2 ^ 8 = 255 ∧ x.toNat % 2 ^ 23 ≠ 0
   let snan := fun x : Word => x.toNat / 2 ^ 23 % 2 ^ 8 = 255 ∧ x.toNat % 2 ^ 23 ≠ 0 ∧ x.toNat % 2 ^ 23 < 2 ^ 22
   let c := fun x y : Word => fpCmp (unpack fp32 x.toNat) (unpack fp32 y.toNat)
   (∀ (x y : Word) p q, FinitePattern fp32 x.toNat p → FinitePattern fp32 y.toNat q →
     (c x y = 0 ↔ p = q) ∧ (c x y < 0 ↔ p < q) ∧ (c x y > 0 ↔ q < p)) ∧
   (∀ (y : Word) q, FinitePattern fp32 y.toNat q →
     c 0x7F800000 y > 0 ∧ c y 0x7F800000 < 0 ∧ c 0xFF800000 y < 0 ∧ c y 0xFF800000 > 0) ∧
   c 0x7F800000 0x7F800000 = 0 ∧ c 0xFF800000 0xFF800000 = 0 ∧ c 0xFF800000 0x7F800000 < 0 ∧ c 0x7F800000 0xFF800000 > 0 ∧
   ∀ r ∈ ([
     (Instr.fcmpEq, (fun x y => ¬ (nan x ∨ nan y) ∧ c x y = 0), false), (Instr.fcmpNe, (fun x y => (nan x ∨ nan y) ∨ c x y ≠ 0), false),
     (Instr.fcmpLt, (fun x y => ¬ (nan x ∨ nan y) ∧ c x y < 0), true), (Instr.fcmpLe, (fun x y => ¬ (nan x ∨ nan y) ∧ c x y ≤ 0), true),
     (Instr.fcmpGt, (fun x y => ¬ (nan x ∨ nan y) ∧ c x y > 0), true), (Instr.fcmpGe, (fun x y => ¬ (nan x ∨ nan y) ∧ c x y ≥ 0), true),
     (Instr.fcmpUn, (fun x y => nan x ∨ nan y), false), (Instr.fcmpOrd, (fun x y => ¬ (nan x ∨ nan y)), false)
     ] : List ((Nat → Nat → Nat → Instr) × (Word → Word → Prop) × Bool)),
   ∀ b a d, LaneResult (r.1 b a d) .none [.reg a, .reg b] fun g _ _ u v =>
     ∃ (x : Bool) (f : Word), (x = true ↔ r.2.1 (rdReg g.level u a) (rdReg g.level u b)) ∧
       (f = 1 ∨ f = 0) ∧
       (f = 1 ↔ if r.2.2 then nan (rdReg g.level u a) ∨ nan (rdReg g.level u b) else snan (rdReg g.level u a) ∨ snan (rdReg g.level u b)) ∧
       WithFlags u v f fun u v => WritesPred u v d x)

/-- R176: the approximations: each completes, with the value and the flags of its function. The special cases and the
exact results are those of the rule, which set no flag beside those it names; a NaN operand gives the canonical NaN;
every other result sets nx. A result of `frcp` and of `frsqrt` that is not exact is the correctly rounded one, or lies
within one ulp of the exact value, an ulp being that of the correctly rounded result. The results of `fexp2`, `flog2`,
`fsin` and `fcos` are those of `approxNear` at the enclosure `c` × 2^`k` ± `err` × 2^`k` that the model computes of
the exact value: the rounded enclosure, or a pattern that lies within the bound of R176 (2 ulp; 2^−22 for `flog2` of
0.5 to 2; 2^−21 for `fsin` and `fcos`) of every value enclosed. The constants and the series of the enclosures agree
with each other far below every bound: 2^1 with 2, sin π/2 with 1, cos π/2 with 0, and 2^(log2 3/2) with 3/2. Which
pattern of those in the bound a result is is a free value of the model (log entry 2). -/
def Obligations.ApproximationResults : Prop :=
  (∀ r ∈ ([(Instr.frcp, fpRcp), (Instr.frsqrt, fpRsqrt), (Instr.fexp2, fpExp2), (Instr.flog2, fpLog2), (Instr.fsin, fpSin),
      (Instr.fcos, fpCos)] : List ((Nat → Nat → Instr) × (Word → Nat × Word))),
    (∀ a d, LaneResult (r.1 a d) .a [.reg d, .reg a] fun g _ _ u v =>
      WithFlags u v (r.2 (rdReg g.level u a)).2 fun u v =>
        WritesReg g.level u v d (BitVec.ofNat 32 (r.2 (rdReg g.level u a)).1)) ∧
    (∀ x : Word, x.toNat / 2 ^ 23 % 2 ^ 8 = 255 → x.toNat % 2 ^ 23 ≠ 0 →
      r.2 x = (0x7FC00000, if x.toNat % 2 ^ 23 < 2 ^ 22 then 1 else 0))) ∧
  (∀ (x : Word) p, FinitePattern fp32 x.toNat p →
    (∀ n : ℤ, p = 2 ^ n ∨ p = -(2 ^ n) → (∃ y, FinitePattern fp32 y (1 / p)) →
      FinitePattern fp32 (fpRcp x).1 (1 / p) ∧ (fpRcp x).2 = 0) ∧
    (p ≠ 0 → (∀ n : ℤ, p ≠ 2 ^ n ∧ p ≠ -(2 ^ n)) → (fpRcp x).2.getLsbD 4 = true ∧ ∃ R, Rounds fp32 0 (1 / p : ℚ) R ∧
      ((fpRcp x).1 = R ∨ ∃ v, FinitePattern fp32 (fpRcp x).1 v ∧ |v - 1 / p| ≤ ulp32 R)) ∧
    (p < 0 → fpRsqrt x = (0x7FC00000, 1) ∧ fpLog2 x = (0x7FC00000, 1)) ∧
    (∀ n : ℤ, p = 4 ^ n → FinitePattern fp32 (fpRsqrt x).1 (2 ^ (-n)) ∧ (fpRsqrt x).2 = 0) ∧
    (0 < p → (∀ n : ℤ, p ≠ 4 ^ n) → (fpRsqrt x).2.getLsbD 4 = true ∧ ∃ R, Rounds fp32 0 (1 / Real.sqrt p) R ∧
      ((fpRsqrt x).1 = R ∨ ∃ v : ℚ, FinitePattern fp32 (fpRsqrt x).1 v ∧ |(v : ℝ) - 1 / Real.sqrt p| ≤ ulp32 R)) ∧
    (∀ n : ℤ, p = n → (-149 ≤ n → n ≤ 127 → FinitePattern fp32 (fpExp2 x).1 (2 ^ n) ∧ (fpExp2 x).2 = 0) ∧
      (127 < n → fpExp2 x = (0x7F800000, 20)) ∧ (n < -149 → fpExp2 x = (0, 24))) ∧
    ((∀ n : ℤ, p ≠ n) → (fpExp2 x).2.getLsbD 4 = true ∧ ∃ y : ℤ, (y : ℚ) = p * 2 ^ 300 ∧
      fpExp2 x = approxNear 2 x (exp2Fix (y % 2 ^ 300)) (max (-1100) (min (y / 2 ^ 300) 1100) - 300) 4096 (.ulps 2)) ∧
    (∀ n : ℤ, p = 2 ^ n → FinitePattern fp32 (fpLog2 x).1 n ∧ (fpLog2 x).2 = 0) ∧
    (0 < p → (∀ n : ℤ, p ≠ 2 ^ n) → (fpLog2 x).2.getLsbD 4 = true ∧ ∀ j : ℤ, (2 : ℚ) ^ j ≤ p → p < 2 ^ (j + 1) →
      ∃ z : ℤ, z = ⌊(p - 2 ^ j) / (p + 2 ^ j) * 2 ^ 300⌋ ∧ fpLog2 x = approxNear 3 x (j * 2 ^ 300 + 2 * atanhFix z 100 0 z * 2 ^ 300 / ln2Fix)
        (-300) 4096 (if 1 / 2 ≤ p ∧ p < 2 then .absolute (-22) else .ulps 2)) ∧
    (p ≠ 0 → (fpSin x).2.getLsbD 4 = true ∧ (fpCos x).2.getLsbD 4 = true ∧ ∃ m e, unpack fp32 x.toNat = .fin (decide (p < 0)) m e ∧
      |p| = m * 2 ^ e ∧ fpSin x = approxNear 4 x (if p < 0 then -(sinQuarter m e 0) else sinQuarter m e 0) (-400) (2 ^ 140) (.absolute (-21)) ∧
      fpCos x = approxNear 5 x (sinQuarter m e 1) (-400) (2 ^ 140) (.absolute (-21)))) ∧
  |exp2Fix (2 ^ 300) - 2 ^ 301| ≤ 4096 ∧ |exp2Fix (2 * atanhFix (2 ^ 300 / 5) 100 0 (2 ^ 300 / 5) * 2 ^ 300 / ln2Fix) - 3 * 2 ^ 299| ≤ 4096 ∧
  |sinFix (piFix / 2) - 2 ^ 400| ≤ 4096 ∧ |cosFix (piFix / 2)| ≤ 4096 ∧
  (∀ (m : ℕ) e q, ∃ n r : ℤ, 0 ≤ r ∧ r ≤ piFix / 2 ∧ (m * 2 ^ (e + 400).toNat : ℤ) = n * piFix / 2 + r ∧
    sinQuarter m e q = if (n + q) % 4 = 0 then sinFix r else if (n + q) % 4 = 1 then cosFix r else if (n + q) % 4 = 2 then -sinFix r else -cosFix r) ∧
  (∀ fn (a : Word) (c k : ℤ) err b,
    let R := fpRound fp32 0 (decide (c < 0)) c.natAbs k true
    let z := approxNear fn a c k err b
    z.2 = R.2 ||| 16 ∧ (z.1 = R.1 ∨ ∃ v w : ℚ, FinitePattern fp32 z.1 v ∧ FinitePattern fp32 R.1 w ∧
      ∀ y : ℚ, |y - c * 2 ^ k| ≤ err * 2 ^ k → |v - y| ≤ (match b with | .ulps n => n * ulp32 R.1 | .absolute e => 2 ^ e))) ∧
  fpRcp 0 = (0x7F800000, 2) ∧ fpRcp 0x80000000 = (0xFF800000, 2) ∧ fpRcp 0x7F800000 = (0, 0) ∧ fpRcp 0xFF800000 = (0x80000000, 0) ∧
  fpRsqrt 0 = (0x7F800000, 2) ∧ fpRsqrt 0x80000000 = (0xFF800000, 2) ∧ fpRsqrt 0x7F800000 = (0, 0) ∧
  fpRsqrt 0xFF800000 = (0x7FC00000, 1) ∧
  fpExp2 0xFF800000 = (0, 0) ∧ fpExp2 0x7F800000 = (0x7F800000, 0) ∧
  fpLog2 0 = (0xFF800000, 2) ∧ fpLog2 0x80000000 = (0xFF800000, 2) ∧ fpLog2 0x7F800000 = (0x7F800000, 0) ∧
  fpSin 0x7F800000 = (0x7FC00000, 1) ∧ fpSin 0xFF800000 = (0x7FC00000, 1) ∧ fpCos 0x7F800000 = (0x7FC00000, 1) ∧
  fpCos 0xFF800000 = (0x7FC00000, 1) ∧ fpSin 0 = (0, 0) ∧ fpSin 0x80000000 = (0x80000000, 0) ∧
  fpCos 0 = (0x3F800000, 0) ∧ fpCos 0x80000000 = (0x3F800000, 0)

/-- R179: the paired BF16 and F16 operations: each half of the result is the operation on that half of the operands,
and the flags of both join. -/
def Obligations.HalfResults : Prop :=
  let lo := fun x : Word => x.toNat % 2 ^ 16
  let hi := fun x : Word => x.toNat / 2 ^ 16
  let two := fun (g : Gang) (d : Nat) (u v : Thread) (p q : Nat × Word) =>
    WithFlags u v (p.2 ||| q.2) fun u v => WritesReg g.level u v d (BitVec.ofNat 32 (p.1 % 2 ^ 16 + 2 ^ 16 * (q.1 % 2 ^ 16)))
  (∀ r ∈ ([(Instr.hadd2Bf16, fpAdd bf16), (Instr.hsub2Bf16, fpSub bf16), (Instr.hmul2Bf16, fpMul bf16),
      (Instr.hadd2F16, fpAdd f16), (Instr.hsub2F16, fpSub f16), (Instr.hmul2F16, fpMul f16),
      (fun _ => Instr.hmin2Bf16, fun _ => fpMinMax bf16 false), (fun _ => Instr.hmax2Bf16, fun _ => fpMinMax bf16 true),
      (fun _ => Instr.hmin2F16, fun _ => fpMinMax f16 false), (fun _ => Instr.hmax2F16, fun _ => fpMinMax f16 true)] :
      List ((Nat → Nat → Nat → Nat → Instr) × (Nat → Nat → Nat → Nat × Word))),
    ∀ m b a d, LaneResult (r.1 m b a d) .none [.reg d, .reg a, .reg b] fun g _ _ u v =>
      two g d u v (r.2 m (lo (rdReg g.level u a)) (lo (rdReg g.level u b))) (r.2 m (hi (rdReg g.level u a)) (hi (rdReg g.level u b)))) ∧
  (∀ r ∈ ([(Instr.hfma2Bf16, fpFma bf16), (Instr.hfma2F16, fpFma f16)] :
      List ((Nat → Nat → Nat → Nat → Instr) × (Nat → Nat → Nat → Nat → Nat × Word))),
    ∀ m b a d, LaneResult (r.1 m b a d) .none [.reg d, .reg a, .reg b] fun g _ _ u v =>
      two g d u v (r.2 m (lo (rdReg g.level u d)) (lo (rdReg g.level u a)) (lo (rdReg g.level u b)))
        (r.2 m (hi (rdReg g.level u d)) (hi (rdReg g.level u a)) (hi (rdReg g.level u b))))

/-- R72, R180 to R184: the conversions: the scalar forms write one register; the packing forms read a pair or a quad
and write one register; the unpacking forms write a pair or a quad. R181: a value to a narrower format is the one that
the mode chooses, with the table's answer beyond the largest finite value, for an infinity and for a NaN. R182: the
power of two of an E8M0 code, and back. R183: an integer is the one the mode chooses, clamped to the range; integers
and narrower formats become FP32 values, rounded once where they need it. The flags are those of the rules; where uf
is set, the value lies below the least normal one. -/
def Obligations.ConversionResults : Prop :=
  (∀ f m s a d, f < 0x18 → LaneResult (.cvt f m s a d) .none [.reg d, .reg a] fun g _ _ u v =>
    let z := cvtScalar f m (s == 1) (rdReg g.level u a).toNat
    WithFlags u v z.2 fun u v => WritesReg g.level u v d (BitVec.ofNat 32 z.1)) ∧
  (∀ r ∈ [(0x18, bf16), (0x19, f16)], ∀ m s a d, LaneResult (.cvt r.1 m s a d) .none [.reg d, .pair a] fun g _ _ u v =>
    let x := (rdPair g.level u a).toNat
    let p := cvtToFloat r.2 m (s == 1) (unpack fp32 (x % 2 ^ 32))
    let q := cvtToFloat r.2 m (s == 1) (unpack fp32 (x / 2 ^ 32))
    WithFlags u v (p.2 ||| q.2) fun u v => WritesReg g.level u v d (BitVec.ofNat 32 (p.1 % 2 ^ 16 + 2 ^ 16 * (q.1 % 2 ^ 16)))) ∧
  (∀ r ∈ [(0x1A, e4m3), (0x1B, e5m2)], ∀ m s a d, LaneResult (.cvt r.1 m s a d) .none [.reg d, .quad a] fun g _ _ u v =>
    let e := fun i => cvtToFloat r.2 m (s == 1) (unpack fp32 (rdQuad u a / 2 ^ (32 * i) % 2 ^ 32))
    WithFlags u v ((e 0).2 ||| (e 1).2 ||| (e 2).2 ||| (e 3).2) fun u v => WritesReg g.level u v d (BitVec.ofNat 32
      ((e 0).1 % 2 ^ 8 + 2 ^ 8 * ((e 1).1 % 2 ^ 8) + 2 ^ 16 * ((e 2).1 % 2 ^ 8) + 2 ^ 24 * ((e 3).1 % 2 ^ 8)))) ∧
  (∀ r ∈ [(0x1C, bf16), (0x1D, f16)], ∀ m s a d, d % 2 = 0 → LaneResult (.cvt r.1 m s a d) .none [.pair d, .reg a] fun g _ _ u v =>
    let x := (rdReg g.level u a).toNat
    let p := widen r.2 (x % 2 ^ 16)
    let q := widen r.2 (x / 2 ^ 16)
    WithFlags u v (p.2 ||| q.2) fun u v => WritesPair g.level u v d (BitVec.ofNat 64 (p.1 + 2 ^ 32 * q.1))) ∧
  (∀ r ∈ [(0x1E, e4m3), (0x1F, e5m2)], ∀ m s a d, d % 4 = 0 → d < 128 → LaneResult (.cvt r.1 m s a d) .none [.quad d, .reg a] fun g _ _ u v =>
    let e := fun i => widen r.2 ((rdReg g.level u a).toNat / 2 ^ (8 * i) % 2 ^ 8)
    WithFlags u v ((e 0).2 ||| (e 1).2 ||| (e 2).2 ||| (e 3).2) fun u v =>
      SameButRegs u v ∧ v.save1 = u.save1 ∧ v.save2 = u.save2 ∧
      (∀ i < 4, d ≠ 0 → rdPhys v (u.wbase + d + i) = BitVec.ofNat 32 (e i).1) ∧
      (∀ k, d = 0 ∨ k < u.wbase + d ∨ u.wbase + d + 4 ≤ k → rdPhys v k = rdPhys u k)) ∧
  (∀ f ∈ [bf16, f16, e5m2, e4m3, e2m1], ∀ x,
    (∀ p, FinitePattern f x p → FinitePattern fp32 (widen f x).1 p ∧ (widen f x).2 = 0) ∧
    (∀ n e, unpack f x = .fin n 0 e → (widen f x).1 = if n then 2 ^ 31 else 0) ∧
    (∀ n, unpack f x = .inf n → widen f x = (if n then 0xFF800000 else 0x7F800000, 0)) ∧
    (∀ sg, unpack f x = .nan sg → widen f x = (0x7FC00000, if sg then 1 else 0))) ∧
  (∀ r ∈ ([(bf16, 0x7F7F, (2 ^ 8 - 1) * 2 ^ 120, 2 ^ 120), (f16, 0x7BFF, 65504, 32), (e5m2, 0x7B, 57344, 8192), (e4m3, 0x7E, 448, 32),
      (e2m1, 7, 6, 2)] : List (Fmt × Nat × ℚ × ℚ)), ∀ m < 4, ∀ sat : Bool,
    let neg := 2 ^ (r.1.ew + r.1.fw)
    let infinite := if r.1 = e4m3 then 0x7F else if r.1 = e2m1 then 7 else (2 ^ r.1.ew - 1) * 2 ^ r.1.fw
    let sign := fun (n : Bool) (y : Nat) => if n ∧ y ≠ 0x7F then y + neg else y
    (∀ sg, cvtToFloat r.1 m sat (.nan sg) = if r.1 = e2m1 then (0, 1) else (r.1.nan.getD 0, if sg then 1 else 0)) ∧
    (∀ n, cvtToFloat r.1 m sat (.inf n) = if sat then (if n then r.2.1 + neg else r.2.1, 0)
      else (sign n infinite, if r.1 = e4m3 ∨ r.1 = e2m1 then 1 else 0)) ∧
    (∀ n e, cvtToFloat r.1 m sat (.fin n 0 e) = (if n then neg else 0, 0)) ∧
    ∀ x p, FinitePattern fp32 x p → p ≠ 0 →
      let o := cvtToFloat r.1 m sat (unpack fp32 x)
      let away := (m = 2 ∧ 0 < p) ∨ (m = 3 ∧ p < 0)
      let beyond := (m = 0 ∧ (r.2.2.1 + r.2.2.2 / 2 < |p| ∨ (r.2.2.1 + r.2.2.2 / 2 = |p| ∧ r.1 ≠ e4m3))) ∨ (away ∧ r.2.2.1 < |p|) ∨
        (m ≠ 0 ∧ ¬ away ∧ r.2.2.1 + r.2.2.2 ≤ |p|)
      (beyond → (sat = true ∨ (m ≠ 0 ∧ ¬ away) → o = (if p < 0 then r.2.1 + neg else r.2.1, 20)) ∧
        (sat = false → m = 0 ∨ away → o = (sign (decide (p < 0)) infinite, 20))) ∧
      (¬ beyond → ∃ v, RoundsAmong r.1 m p v o.1 ∧ o.1 / neg = (if p < 0 then 1 else 0) ∧
        (o.2 = 0 ∨ o.2 = 16 ∨ o.2 = 24) ∧ (o.2 = 0 ↔ v = p) ∧ (o.2 = 24 → |p| < 2 ^ (1 - r.1.bias : ℤ)))) ∧
  (∀ m < 4, ∀ sat : Bool,
    (∀ sg, cvtToE8m0 m sat (.nan sg) = (0xFF, 1)) ∧ cvtToE8m0 m sat (.inf true) = (0xFF, 1) ∧
    cvtToE8m0 m sat (.inf false) = (if sat then 0xFE else 0xFF, 0) ∧
    ∀ x p, FinitePattern fp32 x p →
      (p = 0 → cvtToE8m0 m sat (unpack fp32 x) = (0, 8)) ∧ (p < 0 → cvtToE8m0 m sat (unpack fp32 x) = (0xFF, 1)) ∧
      ∀ j : ℤ, (2 : ℚ) ^ j ≤ p → p < 2 ^ (j + 1) → ∃ k : ℤ,
        k = (if (m = 0 ∧ 3 / 2 * 2 ^ j ≤ p) ∨ (m = 2 ∧ p ≠ 2 ^ j) then j + 1 else j) ∧
        (127 < k → cvtToE8m0 m sat (unpack fp32 x) = if sat = false ∧ (m = 0 ∨ m = 2) then (0xFF, 4) else (0xFE, 20)) ∧
        (k < -127 → cvtToE8m0 m sat (unpack fp32 x) = (0, 24)) ∧
        (-127 ≤ k → k ≤ 127 → cvtToE8m0 m sat (unpack fp32 x) = ((k + 127).toNat, if p = 2 ^ k then 0 else 16))) ∧
  (∀ r ∈ ([(0x01, -2147483648, 2147483647), (0x07, -32768, 32767), (0x11, -128, 127), (0x13, 0, 255), (0x15, -8, 7), (0x17, 0, 15)] :
      List (Nat × ℤ × ℤ)), ∀ m < 4, ∀ sat : Bool, ∀ x < 2 ^ 32,
    let word := fun z : ℤ => (BitVec.ofInt 32 z).toNat
    let nv : Word := if sat then 0 else 1
    (∀ sg, unpack fp32 x = .nan sg → cvtScalar r.1 m sat x = (0, 1)) ∧
    (∀ n, unpack fp32 x = .inf n → cvtScalar r.1 m sat x = (word (if n then r.2.1 else r.2.2), nv)) ∧
    ∀ p, FinitePattern fp32 x p → ∃ n : ℤ, RoundsToInt m p n ∧
      cvtScalar r.1 m sat x = (word (max r.2.1 (min n r.2.2)),
        (if r.2.1 ≤ n ∧ n ≤ r.2.2 then 0 else nv) ||| if p = n then 0 else 16)) ∧
  (∀ m < 4, ∀ sat : Bool, ∀ x : Word,
    cvtScalar 0 m sat 0 = (0, 0) ∧ (x ≠ 0 → RoundsOnce fp32 m x.toInt (cvtScalar 0 m sat x.toNat)) ∧
    (∀ r ∈ ([(0x06, (x.setWidth 16).toInt), (0x10, (x.setWidth 8).toInt), (0x12, ((x.setWidth 8).toNat : ℤ)), (0x14, (x.setWidth 4).toInt),
        (0x16, ((x.setWidth 4).toNat : ℤ))] : List (Nat × ℤ)),
      FinitePattern fp32 (cvtScalar r.1 m sat x.toNat).1 r.2 ∧ (cvtScalar r.1 m sat x.toNat).2 = 0 ∧
        (r.2 = 0 → (cvtScalar r.1 m sat x.toNat).1 = 0)) ∧
    (x.toNat % 256 = 255 → cvtScalar 0x08 m sat x.toNat = (0x7FC00000, 0)) ∧
    (x.toNat % 256 ≠ 255 → FinitePattern fp32 (cvtScalar 0x08 m sat x.toNat).1 (2 ^ ((x.toNat % 256 : Nat) - 127 : ℤ)) ∧
      (cvtScalar 0x08 m sat x.toNat).2 = 0) ∧
    (∀ r ∈ ([(0x02, bf16, 16), (0x04, f16, 16), (0x0A, e4m3, 8), (0x0C, e5m2, 8), (0x0E, e2m1, 4)] : List (Nat × Fmt × Nat)),
      cvtScalar r.1 m sat x.toNat = widen r.2.1 (x.toNat % 2 ^ r.2.2)) ∧
    cvtScalar 0x09 m sat x.toNat = cvtToE8m0 m sat (unpack fp32 x.toNat) ∧
    ∀ r ∈ ([(0x03, bf16), (0x05, f16), (0x0B, e4m3), (0x0D, e5m2), (0x0F, e2m1)] : List (Nat × Fmt)),
      cvtScalar r.1 m sat x.toNat = cvtToFloat r.2 m sat (unpack fp32 x.toNat))

/-- R161, R166, R168, R172, R173: the special cases of the arithmetic, `fma` and the square root among it, on every
format of the arithmetic instructions, and the lesser and the greater of two patterns, with −0 below +0 (`key` orders
them). `nan`, `snan`, `inf` and `zero` read the pattern (R160); `sgn` is its sign. -/
def Obligations.FloatSpecialCases : Prop :=
  ∀ f ∈ [fp32, f16, bf16], ∀ m < 4, ∀ x < 2 ^ (1 + f.ew + f.fw), ∀ y < 2 ^ (1 + f.ew + f.fw), ∀ z < 2 ^ (1 + f.ew + f.fw),
    let top := fun a => a / 2 ^ f.fw % 2 ^ f.ew = 2 ^ f.ew - 1
    let nan := fun a => top a ∧ a % 2 ^ f.fw ≠ 0
    let snan := fun a => nan a ∧ a % 2 ^ f.fw < 2 ^ (f.fw - 1)
    let inf := fun a => top a ∧ a % 2 ^ f.fw = 0
    let zero := fun a => a % 2 ^ (f.ew + f.fw) = 0
    let sgn := fun a => a / 2 ^ (f.ew + f.fw)
    let infinity := fun s => s * 2 ^ (f.ew + f.fw) + (2 ^ f.ew - 1) * 2 ^ f.fw
    let qnan := f.nan.getD 0
    let key : Nat → Int := fun a => if sgn a = 1 then -((a % 2 ^ (f.ew + f.fw) : Nat) : Int) - 1 else (a % 2 ^ (f.ew + f.fw) : Nat)
    (∀ op ∈ [fpAdd f m, fpSub f m, fpMul f m, fpDiv f m],
      (nan x ∨ nan y → (op x y).1 = qnan ∧ ((op x y).2 = 1 ↔ snan x ∨ snan y) ∧ ((op x y).2 = 0 ↔ ¬ (snan x ∨ snan y)))) ∧
    (nan x ∨ nan y → fpFma f m z x y = (qnan, if snan x ∨ snan y ∨ snan z then 1 else 0)) ∧
    ((inf x ∧ zero y) ∨ (zero x ∧ inf y) → fpFma f m z x y = (qnan, 1)) ∧
    (let invalid := (inf x ∧ zero y) ∨ (zero x ∧ inf y)
     let infProduct := (inf x ∨ inf y) ∧ ¬ nan x ∧ ¬ nan y ∧ ¬ invalid
     (¬ nan x → ¬ nan y → ¬ invalid → nan z → fpFma f m z x y = (qnan, if snan z then 1 else 0)) ∧
     (infProduct → inf z → sgn z ≠ (sgn x + sgn y) % 2 → fpFma f m z x y = (qnan, 1)) ∧
     (infProduct → ¬ nan z → ¬ (inf z ∧ sgn z ≠ (sgn x + sgn y) % 2) → fpFma f m z x y = (infinity ((sgn x + sgn y) % 2), 0)) ∧
     (¬ top x → ¬ top y → inf z → fpFma f m z x y = (z, 0)) ∧
     (infProduct → fpMul f m x y = (infinity ((sgn x + sgn y) % 2), 0))) ∧
    (inf x ∧ ¬ top y → fpAdd f m x y = (x, 0) ∧ fpAdd f m y x = (x, 0) ∧ fpSub f m x y = (x, 0) ∧
      fpSub f m y x = (infinity (1 - sgn x), 0) ∧ fpDiv f m x y = (infinity ((sgn x + sgn y) % 2), 0)) ∧
    (nan x → fpSqrt f m x = (qnan, if snan x then 1 else 0)) ∧
    (inf x → fpSqrt f m x = if sgn x = 0 then (x, 0) else (qnan, 1)) ∧
    (inf x ∧ inf y ∧ sgn x ≠ sgn y → fpAdd f m x y = (qnan, 1)) ∧
    (inf x ∧ inf y ∧ sgn x = sgn y → fpAdd f m x y = (x, 0) ∧ fpSub f m x y = (qnan, 1)) ∧
    ((inf x ∧ zero y) ∨ (zero x ∧ inf y) → fpMul f m x y = (qnan, 1)) ∧
    ((inf x ∧ inf y) ∨ (zero x ∧ zero y) → fpDiv f m x y = (qnan, 1)) ∧
    (¬ top x ∧ ¬ zero x ∧ zero y → fpDiv f m x y = (infinity ((sgn x + sgn y) % 2), 2)) ∧
    (¬ top x ∧ inf y → fpDiv f m x y = ((sgn x + sgn y) % 2 * 2 ^ (f.ew + f.fw), 0)) ∧
    (¬ top x ∧ sgn x = 1 ∧ ¬ zero x → fpSqrt f m x = (qnan, 1)) ∧
    (zero x → fpSqrt f m x = (x, 0)) ∧
    (¬ top x ∧ ¬ zero x → fpSub f m x x = (if m = 3 then 2 ^ (f.ew + f.fw) else 0, 0)) ∧
    (∀ b : Bool, (¬ nan x → ¬ nan y → fpMinMax f b x y = (if (if b then key y ≤ key x else key x ≤ key y) then x else y, 0)) ∧
      (nan x → ¬ nan y → (fpMinMax f b x y).1 = y) ∧ (¬ nan x → nan y → (fpMinMax f b x y).1 = x) ∧
      (nan x → nan y → (fpMinMax f b x y).1 = qnan) ∧
      ((fpMinMax f b x y).2 = 1 ↔ snan x ∨ snan y) ∧ ((fpMinMax f b x y).2 = 0 ↔ ¬ (snan x ∨ snan y)))

/-- R165 to R167, R172: the sum, the difference, the product, the quotient, the accumulated product and the square
root of finite operands are the exact result, where that is not zero, rounded once in the mode. The inexact flag is
set if and only if what is delivered differs from it; the overflow flag if and only if the rounded result exceeds the
largest finite magnitude; the underflow flag if and only if it is tiny and inexact; no other flag. A result that is
exactly zero is a zero, and raises none; a square root neither overflows nor underflows. -/
def Obligations.RoundingIsCorrect : Prop :=
  ∀ f ∈ [fp32, f16, bf16], ∀ m < 4, ∀ x y z p q r,
    FinitePattern f x p → FinitePattern f y q → FinitePattern f z r →
      let right := fun (t : ℚ) (o : Nat × Word) => (t ≠ 0 → RoundsOnce f m t o) ∧ (t = 0 → FinitePattern f o.1 0 ∧ o.2 = 0)
      right (p + q) (fpAdd f m x y) ∧ right (p - q) (fpSub f m x y) ∧ right (p * q) (fpMul f m x y) ∧
      (q ≠ 0 → right (p / q) (fpDiv f m x y)) ∧ right (r + p * q) (fpFma f m z x y) ∧
      (0 < p → Rounds f m (Real.sqrt p) (fpSqrt f m x).1 ∧ (fpSqrt f m x).2 &&& 16 = (fpSqrt f m x).2 ∧
        ((fpSqrt f m x).2.getLsbD 4 = false ↔ ∃ v, FinitePattern f (fpSqrt f m x).1 v ∧ v * v = p))

/-! ### Control -/

/-- R131, R318 to R321: `nop` and the fences change nothing of their gang but its position. A fence that goes past
finds none of the accesses it orders outstanding, in its active lanes: `fence.acq` those that read, every other fence
all of them; while one is, it waits in place, with stall reason 3 (engine busy), and a release store does too. R55,
R132, R133: `wait` goes past once its flags are clear, and stays until then; `yield` gives way and its aging count is
0; the window base moves in every active lane, or the fault 0x03 is taken and it moves in none. -/
def Obligations.NoEffectAndWaitResults : Prop :=
  ((∀ i ∈ [Instr.nop, .fenceGng, .fenceBlk, .fenceClu, .fenceDie, .fenceDev, .fenceDom],
     LaneResult i .none [] fun _ _ _ u v => v = u) ∧
   ∀ n, LaneResult (.fenceAcq n) .none [] (fun _ _ _ u v => v = u) ∧ LaneResult (.fenceRel n) .none [] fun _ _ _ u v => v = u) ∧
  (∀ s g c i, decodeWord (wordOf c) = .ok i → g.pending = none →
     let busy := fun reads => ∃ x ∈ outstanding g, inMask (activeMask c) x.2.lane = true ∧ (reads = true → x.2.loads = true)
     (∀ n, i = .fenceAcq n → (heldAt s g c = some 3 ↔ busy true) ∧ (heldAt s g c = none ↔ ¬ busy true)) ∧
     ((∃ n, i = .fenceRel n) ∨ i ∈ [.fenceGng, .fenceBlk, .fenceClu, .fenceDie, .fenceDev, .fenceDom] →
       (heldAt s g c = some 3 ↔ busy false) ∧ (heldAt s g c = none ↔ ¬ busy false)) ∧
     ∀ o a d, i = .stRelW o a d ∨ i = .stRelD o a d → busy false → heldAt s g c = some 2 ∨ heldAt s g c = some 3) ∧
  (∀ s g c, Issues s .none g c →
     (∀ f, flagsClear g f = true →
       ∃ t g', exec (.wait f) s = .next t ∧ OnlyGang s t g g' ∧ OnlyThreads g g' ∧ g'.threads = g.threads) ∧
     (∀ f, flagsClear g f = false →
       ∃ t, exec (.wait f) s = .next t ∧ OnlyGang s t g { g with wait := .flags (BitVec.ofNat 32 f) }) ∧
     (∃ t g', exec .yield s = .next t ∧ OnlyGang s t g g' ∧
       OnlyThreads { g with yielded := true, yieldFor := none, aging := 0 } g' ∧ g'.threads = g.threads) ∧
     ∀ r ∈ ([(Instr.wbaseRel, fun n w => (w : Int) + 8 * (if n < 32 then (n : Int) else (n : Int) - 64)),
         (Instr.wbaseAbs, fun n _ => (8 * (n % 32) : Nat))] : List ((Nat → Instr) × (Nat → Nat → Int))), ∀ n < 64,
       ((∀ l ∈ lanesOf (activeMask c), 0 ≤ r.2 n (thr g l).wbase ∧ r.2 n (thr g l).wbase ≤ 248) →
         ∃ t g', exec (r.1 n) s = .next t ∧ OnlyGang s t g g' ∧ OnlyThreads g g' ∧
           EachLane g g' (activeMask c) fun _ u v => v = { u with wbase := (r.2 n u.wbase).toNat }) ∧
       (∀ l ls, ((lanesOf (activeMask c)).filter fun l => r.2 n (thr g l).wbase < 0 || 248 < r.2 n (thr g l).wbase) = l :: ls →
         exec (r.1 n) s = .next (failAt s g c .none 0x03
           (BitVec.ofNat 64 (BitVec.ofInt 32 (r.2 n (thr g l).wbase)).toNat) (maskOf (l :: ls)) 0)))

/-- R51, R118, R128: past an instruction that is complete the gang stands at the next instruction of its clause, or,
past the last, its top entry goes on at the header after the clause: 4 × (n + 1) bytes on, bits 63:60 zero. R116,
R119: inserting entries keeps the frontier in its order (priority, the highest first, then PC, the lowest first), with
one entry to a PC and a lane in each; a lane stands at a PC afterwards if and only if it stood there before or came
there, and the priority there is the highest of those of the entries merged. -/
def Obligations.PositionAndFrontier : Prop :=
  (∀ (g : Gang) (c : ClauseRun) (cls : Cls),
     (completed g c cls).wait = .none ∧
     (c.idx + 1 < c.words.length →
       (completed g c cls).frontier = g.frontier ∧
       ∃ c', (completed g c cls).clause = some c' ∧ c'.idx = c.idx + 1 ∧ activeMask c' = c.act ∧ c'.words = c.words ∧ c'.h = c.h) ∧
     (c.words.length ≤ c.idx + 1 →
       (completed g c cls).clause = none ∧
       (completed g c cls).frontier = insertEntries g.frontier.tail
         [{ pc := BitVec.ofNat 64 ((c.h.toNat + 4 * (c.words.length + 1)) % 2 ^ 60), prio := (topEntry g).prio,
            mask := (topEntry g).mask, target := false }])) ∧
  (∀ fr es : List Entry,
     fr.Pairwise (fun a b => b.prio < a.prio ∨ (a.prio = b.prio ∧ a.pc.toNat < b.pc.toNat)) →
     fr.Pairwise (fun a b => a.pc ≠ b.pc) → (∀ e ∈ fr, e.mask ≠ 0) →
       (insertEntries fr es).Pairwise (fun a b => b.prio < a.prio ∨ (a.prio = b.prio ∧ a.pc.toNat < b.pc.toNat)) ∧
       (insertEntries fr es).Pairwise (fun a b => a.pc ≠ b.pc) ∧ (∀ e ∈ insertEntries fr es, e.mask ≠ 0) ∧
       (∀ e ∈ insertEntries fr es, (∃ x ∈ fr ++ es, x.mask ≠ 0 ∧ x.pc = e.pc ∧ x.prio = e.prio) ∧
         ∀ x ∈ fr ++ es, x.mask ≠ 0 → x.pc = e.pc → x.prio ≤ e.prio) ∧
       ∀ pc l, (∃ e ∈ insertEntries fr es, e.pc = pc ∧ inMask e.mask l = true) ↔ ∃ e ∈ fr ++ es, e.pc = pc ∧ inMask e.mask l = true)

/-- R126, R127: `bra` moves the active lanes to their target at the priority named, and `call` too, with the link in
g2.d: the priority of the top entry above the address of the next header. The other lanes of the entry go on at the
next header. Where the frontier cannot be held the fault 0x15 is taken at an address that no rule gives (R120, log
entry 30), and a gang that must stop stops (R97). -/
def Obligations.BranchResults : Prop :=
  ∀ s g c p o, Issues s .none g c →
    let next : Dbl := BitVec.ofNat 64 ((c.h.toNat + 4 * (c.words.length + 1)) % 2 ^ 60)
    let es : List Entry := [{ pc := jTarget c.h o, prio := p, mask := activeMask c, target := true },
      { pc := next, prio := (topEntry g).prio, mask := (topEntry g).mask &&& ~~~(activeMask c), target := false }]
    (o < 2 ^ 20 → ((jTarget c.h o).toNat : Int) = ((c.h.toNat : Int) + 4 * (if o < 2 ^ 19 then (o : Int) else (o : Int) - 2 ^ 20)) % 2 ^ 60) ∧
    (spillFits g.slab (insertEntries g.frontier.tail es) = true → mustStop s g = false →
      (∃ t g', exec (.bra p o) s = .next t ∧ OnlyGang s t g g' ∧ OnlyThreads g g' ∧ g'.threads = g.threads ∧
        g'.clause = none ∧ g'.wait = .none ∧ g'.frontier = insertEntries g.frontier.tail es) ∧
      (windowFail g (activeMask c) [.pair 2] = none →
        ∃ t g', exec (.call p o) s = .next t ∧ OnlyGang s t g g' ∧ OnlyThreads g g' ∧
          (EachLane g g' (activeMask c) fun _ u v => WritesPair g.level u v 2
            (BitVec.ofNat 64 ((topEntry g).prio % 64 * 2 ^ 58 + next.toNat % 2 ^ 57))) ∧
          g'.clause = none ∧ g'.wait = .none ∧ g'.frontier = insertEntries g.frontier.tail es)) ∧
    (spillFits g.slab (insertEntries g.frontier.tail es) = true → mustStop s g = true →
      exec (.bra p o) s = .next (stopGang (issued s (transferred g c es)) (transferred g c es)) ∧
      (windowFail g (activeMask c) [.pair 2] = none → ∃ g1 : Gang, { g1 with threads := g.threads } = g ∧
        (EachLane g g1 (activeMask c) fun _ u v => WritesPair g.level u v 2
          (BitVec.ofNat 64 ((topEntry g).prio % 64 * 2 ^ 58 + next.toNat % 2 ^ 57))) ∧
        exec (.call p o) s = .next (stopGang (issued s (transferred g1 c es)) (transferred g1 c es)))) ∧
    (spillFits g.slab (insertEntries g.frontier.tail es) = false →
      exec (.bra p o) s = .next (faultAt (lackingSlot s).2 g c 0x15 (lackingSlot s).1 (activeMask c) 0) ∧
      (windowFail g (activeMask c) [.pair 2] = none →
        exec (.call p o) s = .next (faultAt (lackingSlot s).2 g c 0x15 (lackingSlot s).1 (activeMask c) 0))) ∧
    ∀ x lanes, windowFail g (activeMask c) [.pair 2] = some (x, lanes) →
      exec (.call p o) s = .next (faultAt s g c 0x03 (BitVec.ofNat 64 x) lanes 0)

/-- R118, R128: `ret` moves each active lane to the address and priority that its g2.d holds, and `jmpi` to the
address in its pair with bits 63:60 cleared, at the priority named: lanes with one target share an entry. A target
that is not canonical is the fault 0x13, one not in the global window 0x15, one that is not a multiple of 4 0x02,
before any lane has moved; a pair outside the window is 0x03. Where the frontier cannot be held the fault 0x15 is
taken at an address that no rule gives (R120, log entry 30). At `ret` a gang that must stop stops, its lanes moved
(R97). -/
def Obligations.ReturnResults : Prop :=
  ∀ (i : Instr) (pairNo : Nat) (stops : Bool) (tgt : Dbl → Dbl × Nat),
    (i = .ret ∧ pairNo = 2 ∧ stops = true ∧
      tgt = fun v => (BitVec.ofNat 64 (v.toNat % 2 ^ 57 + if v.getLsbD 56 then 7 * 2 ^ 57 else 0), v.toNat / 2 ^ 58)) ∨
    (∃ p, i = .jmpi p pairNo ∧ stops = false ∧ tgt = fun v => (BitVec.ofNat 64 (v.toNat % 2 ^ 60), p)) →
  (∀ l (t : Dbl), targetFail l t = if t.toNat / 2 ^ 56 % 16 ≠ 0 ∧ t.toNat / 2 ^ 56 % 16 ≠ 15 then .error ⟨l, 0x13, t, 0⟩
    else if apertureOf t ≠ .global then .error ⟨l, 0x15, t, 0⟩ else if t.toNat % 4 ≠ 0 then .error ⟨l, 0x02, t, 0⟩ else .ok ()) ∧
  (∀ s g c x lanes, Issues s .none g c → windowFail g (activeMask c) [.pair pairNo] = some (x, lanes) →
    exec i s = .next (faultAt s g c 0x03 (BitVec.ofNat 64 x) lanes 0)) ∧
  ∀ s g c, Issues s .none g c → windowFail g (activeMask c) [.pair pairNo] = none →
    let goal := fun l => tgt (rdPair g.level (thr g l) pairNo)
    ((∀ l ∈ lanesOf (activeMask c), targetFail l (goal l).1 = .ok ()) → ∃ es : List Entry,
      (∀ l < 32, ∀ pc prio, (∃ e ∈ es, e.pc = pc ∧ e.prio = prio ∧ inMask e.mask l = true) ↔
        inMask (activeMask c) l = true ∧ goal l = (pc, prio)) ∧
      let all := es ++
        [{ pc := BitVec.ofNat 64 ((c.h.toNat + 4 * (c.words.length + 1)) % 2 ^ 60), prio := (topEntry g).prio,
           mask := (topEntry g).mask &&& ~~~(activeMask c), target := false }]
      (spillFits g.slab (insertEntries g.frontier.tail all) = false →
        exec i s = .next (faultAt (lackingSlot s).2 g c 0x15 (lackingSlot s).1 (activeMask c) 0)) ∧
      (spillFits g.slab (insertEntries g.frontier.tail all) = true → stops = true → mustStop s g = true →
        exec i s = .next (stopGang (issued s (transferred g c all)) (transferred g c all)))) ∧
    ((∀ l ∈ lanesOf (activeMask c), targetFail l (goal l).1 = .ok ()) → (stops = true → mustStop s g = false) →
      16 ≤ g.slab ∨ g.frontier.tail.length + (lanesOf (activeMask c)).length + 1 ≤ 16 →
      ∃ t g' es, exec i s = .next t ∧ OnlyGang s t g g' ∧ OnlyThreads g g' ∧ g'.threads = g.threads ∧ g'.clause = none ∧
        g'.wait = .none ∧ g'.frontier = insertEntries g.frontier.tail (es ++
          [{ pc := BitVec.ofNat 64 ((c.h.toNat + 4 * (c.words.length + 1)) % 2 ^ 60), prio := (topEntry g).prio,
             mask := (topEntry g).mask &&& ~~~(activeMask c), target := false }]) ∧
        ∀ l < 32, ∀ pc prio, (∃ e ∈ es, e.pc = pc ∧ e.prio = prio ∧ inMask e.mask l = true) ↔
          inMask (activeMask c) l = true ∧ goal l = (pc, prio)) ∧
    (∀ f fs, failsOf ((lanesOf (activeMask c)).map fun l => targetFail l (goal l).1) = f :: fs →
      exec i s = .next (failAt s g c .none f.cause f.loc (failMask (f :: fs)) 0))

/-- R129: `exit` waits for the twelve flags; then its lanes are gone, with their registers, and the others of the
entry go on; what the gang still has outstanding is performed first, and `u` is the state after that. It is stated for lanes
of which no copy is stopped by a fault (R236 abandons such a copy). Above trap level
0 it is the fault 0x11, and where a task's record that it needs holds an uncorrectable error 0x60 (R372, log entry
40). The gang of the last lane ends. R130, R346, R363: `halt` stops its gang behind its clause, with a halt record;
`brk` stops it behind the instruction where break stops are on, at level 0, with a break record, and has no effect
otherwise; `reclaim` is a reclamation point and nothing else. A gang that is to stop does so at either stop, and
either waits while its event has no room (R418, log entry 66). Where more than one reading is possible, log entry 32
says which the model takes. -/
def Obligations.ExitAndStopResults : Prop :=
  (∀ s g c, Issues s .none g c →
     (g.level = 0 → flagsClear g 0xFFF = false →
       ∃ t, exec .exit s = .next t ∧ OnlyGang s t g { g with wait := .flags 0xFFF }) ∧
     (g.level ≠ 0 → exec .exit s = .next (failAt s g c .none 0x11 0 (activeMask c) 0)) ∧
     (g.level = 0 → flagsClear g 0xFFF = true → g.task ≠ 0 → g.live &&& ~~~(activeMask c) = 0 → recordPoisoned s g.task [1, 2, 3] = true →
       exec .exit s = .next (failAt (recordErrorAt s).2 g c .none 0x60 (recordErrorAt s).1 (activeMask c) 0)) ∧
     (g.level = 0 → flagsClear g 0xFFF = true →
       (g.task = 0 ∨ g.live &&& ~~~(activeMask c) ≠ 0 ∨ recordPoisoned s g.task [1, 2, 3] = false) →
       (∀ u o, u = drainGang s g.id → gangOf u g.id = some o →
         (∀ x ∈ u.copies, x.gang = g.id → ∀ ca lo del n, x.state ≠ .stopped ca lo del n) →
         (outstanding g = [] → u = s) ∧
         ∃ g', gangOf (retireLanes s g c) g.id = some g' ∧
           g'.live = o.live &&& ~~~(activeMask c) ∧ g'.clause = none ∧ g'.wait = .none ∧
           g'.frontier = insertEntries o.frontier.tail
             [{ pc := BitVec.ofNat 64 ((c.h.toNat + 4 * (c.words.length + 1)) % 2 ^ 60), prio := (topEntry o).prio,
                mask := (topEntry o).mask &&& ~~~(activeMask c), target := false }] ∧
           (EachLane o g' (activeMask c) fun _ _ v => v = {}) ∧
           (∀ h, h ≠ g.id → gangOf (retireLanes s g c) h = gangOf u h) ∧
           (retireLanes s g c).mem = u.mem ∧ (retireLanes s g c).tags = u.tags ∧ (retireLanes s g c).blocks = u.blocks) ∧
       ∀ g', gangOf (retireLanes s g c) g.id = some g' →
         (g'.live ≠ 0 → exec .exit s = .next (retireLanes s g c)) ∧
         (g'.live = 0 → g'.task = 0 → exec .exit s = .next (removeGang (retireLanes s g c) g.id)) ∧
         (g'.live = 0 → g'.task ≠ 0 → exec .exit s = .next (taskExit (retireLanes s g c) g')))) ∧
  (∀ s g c, Issues s .none g c →
     (mustStop s g = true → exec .halt s = .next (stopGang { s with issuing := none } g) ∧
       ∀ k, (launchD s g.launch).brkOn = true → g.level = 0 → exec (.brk k) s = .next (stopGang { s with issuing := none } g)) ∧
     (mustStop s g = false → eventRoom s (g.core / 1024) = false → exec .halt s = .next { s with issuing := none } ∧
       ∀ k, (launchD s g.launch).brkOn = true → g.level = 0 → exec (.brk k) s = .next { s with issuing := none }) ∧
     (mustStop s g = false → eventRoom s (g.core / 1024) = true → exec .halt s = .next (
       let g1 : Gang := { transferred g c [{ topEntry g with
           pc := BitVec.ofNat 64 ((c.h.toNat + 4 * (c.words.length + 1)) % 2 ^ 60), target := false }] with
         wait := .blocked 11 .resumed (timeOf s g.core) }
       parkTask (postGangEvent (issued s g1) g 3 (instrPc c) []) g.task)) ∧
     (∀ k, mustStop s g = false → eventRoom s (g.core / 1024) = true → (launchD s g.launch).brkOn = true → g.level = 0 → exec (.brk k) s = .next (
       let g1 : Gang := { completed g c .none with wait := .blocked 11 .resumed (timeOf s g.core) }
       parkTask (traceGang (postGangEvent (issued s g1) g 4 (instrPc c) [(0x38, 2, k)]) g 7
         (leOf 1 3 ++ leOf 8 (instrPc c).toNat)) g.task)) ∧
     (∀ k, (launchD s g.launch).brkOn = false ∨ g.level ≠ 0 →
       ∃ t g', exec (.brk k) s = .next t ∧ OnlyGang s t g g' ∧ OnlyThreads g g' ∧ g'.threads = g.threads) ∧
     (mustStop s g = false →
       ∃ t g', exec .reclaim s = .next t ∧ OnlyGang s t g g' ∧ OnlyThreads g g' ∧ g'.threads = g.threads) ∧
     (mustStop s g = true → exec .reclaim s = .next (stopGang (issued s (completed g c .none)) (completed g c .none))))

/-! ### Exceptions -/

/-- R357 to R359: taking an exception. The level rises by one; its record holds the cause, with bit 8 for a deferred
fault, the PC, the value of R356 and the two masks, the other level's record stays; the position is banked, with what
an interrupted `spawn` or copy has read already (R39, R223); the gang
goes on at the level's vector at priority 63 with the lanes of the top entry; and every thread's banked pair holds the
address of its slot in the save area. Every register and flag, every byte of memory and every other gang stays, when
the launch keeps no trace. R364: where there is no further level, or its vector is 0, the gang stops and its launch
ends with status 8 (KILLED), as cause 0x7F at the PC and address of the fault, unless an end was decided before. Every
other gang and every byte of memory stays. -/
def Obligations.TakingAnException : Prop :=
  (∀ s g f b, (gangOf s g.id).isSome → g.level < 2 → (launchD s g.launch).desc.ntrace = 0 →
     let n := g.level + 1
     let vector := if n = 1 then (launchD s g.launch).desc.tvec1 else (launchD s g.launch).desc.tvec2
     vector ≠ 0 →
     ∃ g', OnlyGang s (takeTrap s g f b) g g' ∧ g'.level = n ∧
       recOf g' n = { cause := BitVec.ofNat 32 (f.cause + if f.deferred then 256 else 0), pc := f.pc.lo, pch := f.pc.hi,
                      loc := f.loc.lo, loch := f.loc.hi, lanes := f.lanes, done := f.done } ∧
       bankOf g' n = some { b with under := g.under, record := g.record, ready := g.ready } ∧ g'.under = .none ∧
       g'.record = none ∧ g'.ready = none ∧ g'.gate = none ∧ (∀ k, k = 1 ∨ k = 2 → k ≠ n → recOf g' k = recOf g k ∧ bankOf g' k = bankOf g k) ∧
       g'.frontier = [{ pc := BitVec.ofNat 64 (vector.toNat % 2 ^ 60), prio := 63, mask := (topEntry g).mask, target := true }] ∧
       g'.clause = none ∧ g'.fetched = none ∧ g'.pending = none ∧ g'.wait = .none ∧
       { g' with level := g.level, rec1 := g.rec1, rec2 := g.rec2, bank1 := g.bank1, bank2 := g.bank2, frontier := g.frontier,
                 clause := g.clause, fetched := g.fetched, pending := g.pending, wait := g.wait, under := g.under,
                 record := g.record, ready := g.ready, gate := g.gate, threads := g.threads } = g ∧
       (∀ l < g.threads.length, l < 32 → saveOf n (thr g' l) = saveBase s g n + BitVec.ofNat 64 (16 * l)) ∧
       (∀ l, { thr g' l with save1 := (thr g l).save1, save2 := (thr g l).save2 } = thr g l) ∧
       (∀ l, (n = 1 → (thr g' l).save2 = (thr g l).save2) ∧ (n = 2 → (thr g' l).save1 = (thr g l).save1))) ∧
  (∀ s g f b, (gangOf s g.id).isSome → (launchD s g.launch).desc.ntrace = 0 →
     g.level ≥ 2 ∨ vectorOf (launchD s g.launch).desc (g.level + 1) = 0 →
     ∃ g', gangOf (takeTrap s g f b) g.id = some g' ∧ g'.wait = .stopped ∧ g'.gate = none ∧ g'.threads = g.threads ∧
       (∀ h, h ≠ g.id → gangOf (takeTrap s g f b) h = gangOf s h) ∧ (takeTrap s g f b).mem = s.mem ∧
       ∀ L, launchOf s g.launch = some L → ∃ L', launchOf (takeTrap s g f b) g.launch = some L' ∧ L'.kill.isSome ∧
         (L.ending = none → L.state ≠ .done → L'.ending = some 8 ∧ L'.cause = 0x7F ∧ L'.pc = f.pc ∧ L'.loc = f.loc) ∧
         (L.ending ≠ none → L'.ending = L.ending))

/-- R355, R361, R362: `trap` takes the exception 0x50 with its code, its instruction complete; `tfence` goes past
where no flag is selected, and otherwise takes 0x20 with the flags that were, in the lanes that had them, which have
lost them. -/
def Obligations.TrapResults : Prop :=
  ∀ s g c, Issues s .none g c →
    (∀ k, ∃ g1, exec (.trap k) s = .next (takeTrap s g1
        { cause := 0x50, pc := instrPc c, loc := BitVec.ofNat 64 k, lanes := activeMask c, done := c.act }
        { frontier := g.frontier, clause := some { c with retired := true, redo := some (activeMask c), counted := false },
          wait := .none, copy := none, copyLane := 0 }) ∧
      OnlyThreads g g1 ∧ g1.threads = g.threads ∧ g1.id = g.id ∧ g1.flags = g.flags) ∧
    ((∀ l ∈ lanesOf (activeMask c), (thr g l).aflags &&& (thr g l).amask &&& 0xFF = 0) →
      ∃ t g', exec .tfence s = .next t ∧ OnlyGang s t g g' ∧ OnlyThreads g g' ∧ g'.threads = g.threads) ∧
    ∀ T, T = maskOf ((lanesOf (activeMask c)).filter fun l => (thr g l).aflags &&& (thr g l).amask &&& 0xFF ≠ 0) → T ≠ 0 →
      ∃ g1 w, exec .tfence s = .next (faultAt s g1 c 0x20 (BitVec.ofNat 64 (w : Word).toNat) T (activeMask c &&& ~~~T)) ∧
        (∀ k, w.getLsbD k = true ↔ ∃ l ∈ lanesOf T, ((thr g l).aflags &&& (thr g l).amask &&& 0xFF).getLsbD k = true) ∧
        { g1 with threads := g.threads } = g ∧ EachLane g g1 T fun _ u v => v = { u with aflags := u.aflags &&& ~~~u.amask }

/-- R360: the return from an exception. The banked frontier comes back and the level falls by one; of the interrupted
instruction the lanes of its clause's mask that are not in `%tdone` are executed again, with what they had read
before, and where none is left the gang stands past it and what it counted is due to fall (R53). A wait that was
interrupted goes on, without the lanes in `%tdone`. A trap taken at a clause start banks no instruction: the header is
fetched again, as one that was transferred to (R48). At level 0 `tret` is the fault 0x11. Stated for a trap that no
copy and no stop caused, in a gang that goes on. Where more than one reading is possible, log entry 56 says which the
model takes. -/
def Obligations.TrapReturn : Prop :=
  ∀ s g c, Issues s .none g c →
    (g.level = 0 → exec .tret s = .next (failAt s g c .none 0x11 0 (activeMask c) 0)) ∧
    (∀ b k, g.level = 1 ∨ g.level = 2 → bankOf g g.level = some b → b.clause = some k → b.copy = none → b.wait = .none →
      b.late = false → b.frontier.length ≤ 16 → mustStop s g = false →
      k.act &&& ~~~(recOf g g.level).done ≠ 0 →
      ∃ t g', exec .tret s = .next t ∧ OnlyGang s t g g' ∧ g'.level = g.level - 1 ∧ g'.frontier = b.frontier ∧
        g'.clause = some { k with redo := some (k.act &&& ~~~(recOf g g.level).done) } ∧ g'.wait = .none ∧
        (∀ x, b.record = some x → inMask (k.act &&& ~~~(recOf g g.level).done) x.1 = true → g'.record = some x) ∧
        bankOf g' g.level = none ∧ g'.threads = g.threads ∧ g'.rec1 = g.rec1 ∧ g'.rec2 = g.rec2 ∧ g'.flags = g.flags ∧
        g'.stack = g.stack) ∧
    (∀ b k, g.level = 1 ∨ g.level = 2 → bankOf g g.level = some b → b.clause = some k → b.copy = none → b.wait = .none →
      b.late = false → b.frontier.length ≤ 16 → mustStop s g = false → k.retired = true →
      k.act &&& ~~~(recOf g g.level).done = 0 →
      ∃ t g', exec .tret s = .next t ∧ OnlyGang s t g g' ∧ g'.level = g.level - 1 ∧ g'.wait = .none ∧
        g'.threads = g.threads ∧ g'.flags = g.flags ∧ g'.record = none ∧ g'.ready = none ∧
        (∀ n, k.counted = true → clsFlag k.hdr (clsAt k) = some n → n ∈ g'.completing) ∧
        (k.idx + 1 < k.words.length → g'.frontier = b.frontier ∧ (g'.clause.map ClauseRun.idx) = some (k.idx + 1)) ∧
        (k.words.length ≤ k.idx + 1 → g'.clause = none)) ∧
    (∀ b e es, g.level = 1 ∨ g.level = 2 → bankOf g g.level = some b → b.clause = none → b.copy = none → b.wait = .none →
      b.frontier = e :: es → b.frontier.length ≤ 16 → mustStop s g = false →
      ∃ t g', exec .tret s = .next t ∧ OnlyGang s t g g' ∧ g'.level = g.level - 1 ∧ g'.frontier = { e with target := true } :: es ∧
        g'.clause = none ∧ g'.fetched = none ∧ g'.wait = .none ∧ bankOf g' g.level = none ∧ g'.threads = g.threads ∧
        g'.rec1 = g.rec1 ∧ g'.rec2 = g.rec2 ∧ g'.flags = g.flags ∧ g'.stack = g.stack) ∧
    ∀ b k stall cond since, g.level = 1 ∨ g.level = 2 → bankOf g g.level = some b → b.clause = some k → b.copy = none →
      b.wait = .blocked stall cond since → cond ≠ .resumed → b.late = false → b.frontier.length ≤ 16 → mustStop s g = false →
      activeMask k &&& ~~~(recOf g g.level).done ≠ 0 →
      ∃ t g', exec .tret s = .next t ∧ gangOf t g.id = some g' ∧ g'.level = g.level - 1 ∧ g'.frontier = b.frontier ∧
        g'.clause = some { k with redo := some (activeMask k &&& ~~~(recOf g g.level).done) } ∧
        g'.wait = .blocked stall (Cond.minus (recOf g g.level).done cond) since ∧ g'.threads = g.threads ∧ t.mem = s.mem

/-! ### Special registers -/

/-- R25, R63 to R65, R94, R134, R169, R210, R211, R358, R388: `sread` writes the register's value in each active lane,
and a read of a low word latches its high word for the thread. The tables give every register: those of the machine's
identity, its counters, the fault records, the copy unit's progress and status, the histograms (on the clks on which
its core holds no work, a scheduler counts bin 0 and the reason idle) and the work counters. Every other number reads
0, and no legal instruction names it (R65). A destination outside the window is the fault 0x03. -/
def Obligations.SpecialReads : Prop :=
  (∀ s g c r d, Issues s .none g c → windowFail g (activeMask c) [.reg d] = none →
    ∃ t g', exec (.sread r d) s = .next t ∧ OnlyGang s t g g' ∧ OnlyThreads g g' ∧
      EachLane g g' (activeMask c) fun l u v => WritesReg g.level (latchHigh s g r u) v d (srValue s g l r)) ∧
  (∀ s g c r d x lanes, Issues s .none g c → windowFail g (activeMask c) [.reg d] = some (x, lanes) →
    exec (.sread r d) s = .next (faultAt s g c 0x03 (BitVec.ofNat 64 x) lanes 0)) ∧
  (∀ s g l r a, ¬ (r ≤ 8 ∨ (0x100 ≤ r ∧ r ≤ 0x103) ∨ (0x200 ≤ r ∧ r ≤ 0x202) ∨ (0x210 ≤ r ∧ r ≤ 0x216) ∨ (0x220 ≤ r ∧ r ≤ 0x226) ∨
      (0x300 ≤ r ∧ r ≤ 0x308) ∨ (0x400 ≤ r ∧ r ≤ 0x405) ∨ (0x440 ≤ r ∧ r ≤ 0x5FF) ∨ r = 0x600) →
    srValue s g l r = 0 ∧ (Instr.sread r a).wf = false ∧ (Instr.swrite r a).wf = false) ∧
  (∀ s g l n x, (n, x) ∈ ([
      (0, BitVec.ofNat 32 l), (1, BitVec.ofNat 32 g.index), (2, BitVec.ofNat 32 g.rank), (3, BitVec.ofNat 32 g.cluster),
      (4, BitVec.ofNat 32 (g.core % 64)), (5, BitVec.ofNat 32 (g.core / 64 % 16)), (6, BitVec.ofNat 32 (g.core / 1024)),
      (7, BitVec.ofNat 32 s.module), (8, g.task), (0x100, BitVec.ofNat 32 (clkOf s g.core)), (0x101, (thr g l).hiClk),
      (0x102, BitVec.ofNat 32 (timeOf s g.core)), (0x103, (thr g l).hiTime), (0x200, (thr g l).aflags), (0x201, (thr g l).amask),
      (0x202, BitVec.ofNat 32 g.level), (0x210, g.rec1.cause), (0x211, g.rec1.pc), (0x212, g.rec1.pch), (0x213, g.rec1.loc),
      (0x214, g.rec1.loch), (0x215, g.rec1.lanes), (0x216, g.rec1.done), (0x220, g.rec2.cause), (0x221, g.rec2.pc),
      (0x222, g.rec2.pch), (0x223, g.rec2.loc), (0x224, g.rec2.loch), (0x225, g.rec2.lanes), (0x226, g.rec2.done),
      (0x400, BitVec.ofNat 32 g.nregs), (0x401, BitVec.ofNat 32 (thr g l).wbase), (0x402, BitVec.ofNat 32 g.retcnt),
      (0x403, (thr g l).hiRet), (0x404, BitVec.ofNat 32 g.sthash.toNat), (0x405, (thr g l).hiHash), (0x600, g.gstate)] : List (Nat × Word)) →
    srValue s g l n = x) ∧
  (∀ s g l,
    let k := coreOf s g.core
    let v := srValue s g l 0x308
    let idle := clkOf s g.core - k.histBase - k.histClks
    (∀ n < 8, srValue s g l (0x300 + n) = fgetD k.cwp n 0) ∧
    (v.toNat / 2 ^ 16 = 128 - sharedUsed s g.core ∧
      ∀ n < 8, (v.getLsbD n = true ↔ ∃ c ∈ s.copies, c.core = g.core ∧ c.kind ≠ .pf ∧ c.chan = n) ∧
        (v.getLsbD (8 + n) = true ↔ ∃ c ∈ s.copies, c.core = g.core ∧ c.kind ≠ .pf ∧ c.chan = n ∧
          ∃ cause loc del at_, c.state = .stopped cause loc del at_)) ∧
    (∀ sch < 4, (∀ e < 17, srValue s g l (0x440 + 32 * sch + e) = fgetD k.helig (32 * sch + e) 0 + if e = 0 then BitVec.ofNat 32 idle else 0) ∧
      ∀ r < 15, srValue s g l (0x451 + 32 * sch + r) = fgetD k.hstall (32 * sch + r) 0 + if r = 14 then BitVec.ofNat 32 idle else 0) ∧
    (∀ n, 0x4C0 ≤ n → n ≤ 0x4FF → srValue s g l n = 0)) ∧
  (∀ s g l,
    let L := launchD s g.launch
    let j := fgetD s.jobs L.ctx {}
    srValue s g l 0x500 = BitVec.ofNat 32 (L.desc.gx * L.desc.gy * L.desc.gz - L.ended) ∧ srValue s g l 0x501 = BitVec.ofNat 32 L.placed ∧
    srValue s g l 0x502 = BitVec.ofNat 32 (s.tasks.filter fun t => t.launch == L.id && [1, 2, 3, 4, 6].contains t.state).length ∧
    (L.node = none → srValue s g l 0x503 = 0) ∧
    (∀ x gr, L.node = some x → graphOf s x.1 = some gr →
      srValue s g l 0x503 = BitVec.ofNat 32 (gr.nodes.filter fun x => x.status.isNone).length) ∧
    srValue s g l 0x504 = BitVec.ofNat 32 j.pend ∧ srValue s g l 0x505 = BitVec.ofNat 32 j.done ∧ srValue s g l 0x506 = BitVec.ofNat 32 j.fail ∧
    ∀ n, 0x507 ≤ n → n ≤ 0x5FF → srValue s g l n = 0) ∧
  (∀ s g t, (latchHigh s g 0x100 t).hiClk = BitVec.ofNat 32 (clkOf s g.core / 2 ^ 32) ∧
    (latchHigh s g 0x102 t).hiTime = BitVec.ofNat 32 (timeOf s g.core / 2 ^ 32) ∧
    (latchHigh s g 0x402 t).hiRet = BitVec.ofNat 32 (g.retcnt / 2 ^ 32 % 2 ^ 16) ∧
    (latchHigh s g 0x404 t).hiHash = BitVec.ofNat 32 (g.sthash.toNat / 2 ^ 32) ∧
    ∀ r, r ≠ 0x100 → r ≠ 0x102 → r ≠ 0x402 → r ≠ 0x404 → latchHigh s g r t = t)

/-- R65, R135, R169, R260, R358: `swrite` writes `%aflags` and `%amask` in each active lane, with the bits that R169
gives them; a field of a fault record (a cause keeps bits 8:0), or `%gstate` where the value is a legal one, from the
highest active lane; and nothing for a register that is read-only or does not exist. A source outside the window is
the fault 0x03. -/
def Obligations.SpecialWrites : Prop :=
  (∀ s g c r a x lanes, Issues s .none g c → windowFail g (activeMask c) [.reg a] = some (x, lanes) →
    exec (.swrite r a) s = .next (faultAt s g c 0x03 (BitVec.ofNat 64 x) lanes 0)) ∧
  ∀ s g c r a, Issues s .none g c → windowFail g (activeMask c) [.reg a] = none →
    let y := rdReg g.level (thr g (highest (activeMask c))) a
    ∃ t g', exec (.swrite r a) s = .next t ∧ OnlyGang s t g g' ∧
      OnlyThreads { g with rec1 := g'.rec1, rec2 := g'.rec2, gstate := g'.gstate } g' ∧
      (EachLane g g' (activeMask c) fun _ u v =>
        v = if r = 0x200 then { u with aflags := rdReg g.level u a &&& 0xFF }
            else if r = 0x201 then { u with amask := rdReg g.level u a &&& 0xFF } else u) ∧
      (gstateOk y = true ↔ 4 ≤ y.toNat % 2 ^ 7 ∧ y.toNat % 2 ^ 7 ≤ 64 ∧ 1 ≤ y.toNat / 2 ^ 8 % 2 ^ 6 ∧ y.toNat / 2 ^ 8 % 2 ^ 6 ≤ 32 ∧
        y &&& 0xFFFEC080 = 0) ∧
      (g'.gstate = if r = 0x600 ∧ gstateOk y = true then y else g.gstate) ∧
      ∀ x ∈ ([(0x210, 0x1FF, fun g => g.rec1.cause), (0x211, 0xFFFFFFFF, fun g => g.rec1.pc), (0x212, 0xFFFFFFFF, fun g => g.rec1.pch),
          (0x213, 0xFFFFFFFF, fun g => g.rec1.loc), (0x214, 0xFFFFFFFF, fun g => g.rec1.loch), (0x215, 0xFFFFFFFF, fun g => g.rec1.lanes),
          (0x216, 0xFFFFFFFF, fun g => g.rec1.done), (0x220, 0x1FF, fun g => g.rec2.cause), (0x221, 0xFFFFFFFF, fun g => g.rec2.pc),
          (0x222, 0xFFFFFFFF, fun g => g.rec2.pch), (0x223, 0xFFFFFFFF, fun g => g.rec2.loc), (0x224, 0xFFFFFFFF, fun g => g.rec2.loch),
          (0x225, 0xFFFFFFFF, fun g => g.rec2.lanes), (0x226, 0xFFFFFFFF, fun g => g.rec2.done)] : List (Nat × Word × (Gang → Word))),
        x.2.2 g' = if r = x.1 then y &&& x.2.1 else x.2.2 g

/-- R206 to R208: `tlb.inv` and `dirty.harv` act once for the gang, on the entries of the page, of the range rounded
out to 4 KiB (none where its length is 0), or of the whole context: each pending mark reaches bit 11 of its leaf,
every other byte stays, and the entries go, or stay with no mark pending (R200, R207, R208); `tlb.inv` waits for the
copies of its thread, unless its set is empty, and what other gangs have outstanding through the entries that go is
performed first. An address that is not canonical is the fault 0x13, one outside the global window 0x15. Where more
than one reading is possible, log entry 71 says which the model takes. -/
def Obligations.TranslationResults : Prop :=
  (∀ s g c a b, Issues s .none g c →
    let k := lowest (activeMask c)
    let ea := rdPair g.level (thr g k) a
    let ctx := (launchD s g.launch).ctx
    let n := (rdReg g.level (thr g k) b).toNat
    let va := ea.toNat % 2 ^ 57
    let range := if n = 0 then InvSet.empty else InvSet.range (va / 4096 * 4096) ((va + n + 4095) / 4096 * 4096 - va / 4096 * 4096)
    (canonical ea = true → apertureOf ea = .global → threadCopies s g.id k = false →
      (windowOnce g (activeMask c) [] [.pair a] = none → exec (.tlbInvPg a) s = .next (finishNow (invalidateSet s (.range va 1) ctx) g.id c .none)) ∧
      (windowOnce g (activeMask c) [] [.pair a, .reg b] = none →
        exec (.tlbInvRng b a) s = .next (finishNow (invalidateSet s range ctx) g.id c .none))) ∧
    (canonical ea = true → apertureOf ea = .global →
      (windowOnce g (activeMask c) [] [.pair a] = none → exec (.dirtyHarvPg a) s = .next (finishNow (harvestSet s (.range va 1) ctx) g.id c .none)) ∧
      (windowOnce g (activeMask c) [] [.pair a, .reg b] = none →
        exec (.dirtyHarvRng b a) s = .next (finishNow (harvestSet s range ctx) g.id c .none))) ∧
    (canonical ea = true → apertureOf ea = .global → threadCopies s g.id k = true → n ≠ 0 → windowOnce g (activeMask c) [] [.pair a, .reg b] = none →
      exec (.tlbInvRng b a) s = .next (issued s { g with wait := .unit })) ∧
    (canonical ea = true → apertureOf ea = .global → n = 0 → windowOnce g (activeMask c) [] [.pair a, .reg b] = none →
      exec (.tlbInvRng b a) s = .next (finishNow (invalidateSet s .empty ctx) g.id c .none)) ∧
    (threadCopies s g.id k = false → exec .tlbInvCtx s = .next (finishNow (invalidateSet s .context ctx) g.id c .none)) ∧
    exec .dirtyHarvCtx s = .next (finishNow (harvestSet s .context ctx) g.id c .none) ∧
    (threadCopies s g.id k = true → exec .tlbInvCtx s = .next (issued s { g with wait := .unit })) ∧
    (windowOnce g (activeMask c) [] [.pair a] = none → canonical ea = false →
      exec (.tlbInvPg a) s = .next (failAt s g c .none 0x13 ea (bitMask k) 0) ∧
      exec (.dirtyHarvPg a) s = .next (failAt s g c .none 0x13 ea (bitMask k) 0)) ∧
    (windowOnce g (activeMask c) [] [.pair a] = none → canonical ea = true → apertureOf ea ≠ .global →
      exec (.tlbInvPg a) s = .next (failAt s g c .none 0x15 ea (bitMask k) 0) ∧
      exec (.dirtyHarvPg a) s = .next (failAt s g c .none 0x15 ea (bitMask k) 0))) ∧
  (∀ s g id c cls, gangOf s id = some g → finishNow s id c cls = finish s g c cls) ∧
  (∀ s k ctx, (∀ e, InvSet.has k ctx e = true ↔ e.ctx = ctx ∧ (k = .context ∨ ∃ lo n, k = .range lo n ∧ e.base < lo + n ∧ lo < e.base + e.size)) ∧
    invalidateSet s k ctx = drainWhere (invalidateWhere s (k.has ctx)) (fun g f => k.holds s ctx g f) ∧ harvestSet s k ctx = harvestWhere s (k.has ctx)) ∧
  ∀ s (p : TlbEntry → Bool), ∀ t ∈ [invalidateWhere s p, harvestWhere s p],
    (∀ e ∈ s.tlb, p e = true → e.pending = true → (readNat t (physLoc e.leafAt) 8).testBit 11 = true) ∧
    (∀ l : Loc, (∀ e ∈ s.tlb, p e = true → e.pending = true → l ≠ physLoc (e.leafAt + 1)) → readByte t l = readByte s l) ∧
    SameThreads s t ∧
    (∀ e, e ∈ (invalidateWhere s p).tlb ↔ e ∈ s.tlb ∧ p e = false) ∧
    (harvestWhere s p).tlb.length = s.tlb.length ∧
    ∀ (i : Nat) e, s.tlb[i]? = some e → ∃ e', (harvestWhere s p).tlb[i]? = some e' ∧ (p e = false → e' = e) ∧
      (p e = true → e'.pending = false ∧ { e' with pending := e.pending, leaf := e.leaf } = e ∧
        e'.leaf = if e.pending then e.leaf ||| 0x800#64 else e.leaf)

/-! ### Memory -/

/-- R3, R308, R309: a write puts its bytes at its place, the first at the lowest address, and every other byte, at
that place or another, reads as before. R3: numbers are little-endian: what is written as n bytes is read as the
number modulo 256^n, and the byte at offset i is worth 256^i. -/
def Obligations.BytesAndNumbers : Prop :=
  (∀ s l bs, HasPlace s l.place →
     (∀ i x, bs[i]? = some x → readByte (writeBytes s l bs) { l with off := l.off + i } = x) ∧
     SameBytesBut s (writeBytes s l bs) l bs.length ∧ SameThreads s (writeBytes s l bs)) ∧
  (∀ s l n x, HasPlace s l.place →
     readNat (writeNat s l n x) l n = x % 256 ^ n ∧
     ∀ i < n, (readByte (writeNat s l n x) { l with off := l.off + i }).toNat = x / 256 ^ i % 256)

/-- Memory and its tags keep their canonical form (strictly rising addresses, no entry of value 0, which is what an
unlisted byte reads as: log entry 1) under every write, and have it after reset. -/
def Obligations.MemoryCanonical : Prop :=
  Memory.wf State.reset.mem = true ∧ Memory.wf State.reset.tags = true ∧
  ∀ s, Memory.wf s.mem = true → Memory.wf s.tags = true →
    (∀ l bs, Memory.wf (writeBytes s l bs).mem = true ∧ Memory.wf (writeBytes s l bs).tags = true) ∧
    (∀ l v, Memory.wf (writeTag s l v).mem = true ∧ Memory.wf (writeTag s l v).tags = true) ∧
    ∀ p, Memory.wf (invalidateWhere s p).mem = true ∧ Memory.wf (harvestWhere s p).mem = true

/-- R186, R188 to R190, R196, R205: the first checks of an access: an address that cannot be formed is 0x13, then one
that is not aligned 0x16, then one in an aperture the instruction does not reach, or outside the bounds of its own,
0x15. R188, R189: the bounds of the pooled aperture: bits 43:24 zero; a rank of the cluster, 11 at most, every byte
below its scratchpad's size, the size of another rank when the access arrives there; a task's own private scratchpad
at rank 0. R190: those of the stack: its zero bits, the slab's size, and no byte in a spill slot in use, of the lane
named or else of its own. R186: an effective address is the sum of the base's low 57 bits, signed, and the offset,
where that sum is again a 57-bit value and the base canonical; the base's colour stays. -/
def Obligations.AddressChecks : Prop :=
  (∀ s g lane base off n k pooled stack global,
     (effAddr base off = none → ∃ a, stage1 s g lane base off n k pooled stack global = .error ⟨lane, 0x13, a, 0⟩) ∧
     ∀ ea, effAddr base off = some ea →
       (ea.toNat % k ≠ 0 → stage1 s g lane base off n k pooled stack global = .error ⟨lane, 0x16, ea, 0⟩) ∧
       (ea.toNat % k = 0 → stage1 s g lane base off n k pooled stack global =
         if (apertureOf ea = .global ∧ global = true) ∨ (apertureOf ea = .pooled ∧ pooled = true ∧ (pooledLoc s g ea n false).isSome) ∨
           (apertureOf ea = .stack ∧ stack = true ∧ (stackLoc g lane ea n).isSome) then .ok ea else .error ⟨lane, 0x15, ea, 0⟩)) ∧
  (∀ s g (ea : Dbl) n arrived,
     let rank := ea.toNat / 2 ^ 20 % 16
     let off := ea.toNat % 2 ^ 20
     (ea.toNat / 2 ^ 24 % 2 ^ 20 ≠ 0 → pooledLoc s g ea n arrived = none) ∧
     (ea.toNat / 2 ^ 24 % 2 ^ 20 = 0 →
       (g.task ≠ 0 → pooledLoc s g ea n arrived = if rank = 0 ∧ off + n ≤ g.priv.size then some ⟨.priv g.id, off⟩ else none) ∧
       (g.task = 0 → (blockOfRank s g rank = none → pooledLoc s g ea n arrived = none) ∧
         ∀ b, blockOfRank s g rank = some b → pooledLoc s g ea n arrived =
           if (rank = g.rank ∨ arrived = true) ∧ b.pad.size < off + n then none else some ⟨.scratch b.id, off⟩))) ∧
  (∀ s g cl rank, clusterOf s g.clusterId = some cl → cl.blocks.length ≤ rank → blockOfRank s g rank = none) ∧
  (∀ s g lane ea n ok colour, pooledLoc s g ea n true = none → apertureOf ea = .pooled →
     arriveOnCore s g lane ea n ok colour = .error ⟨lane, 0x15, ea, 0⟩) ∧
  (∀ g lane (ea : Dbl) n,
     let off := ea.toNat % 2 ^ 20
     let named := ea.toNat / 2 ^ 20 % 32
     let slab := fun l => if inSpillSlot g l off n = true then none else some ⟨.stack g.id, l * 2 ^ 20 + off⟩
     (ea.toNat / 2 ^ 26 % 2 ^ 18 ≠ 0 ∨ g.slab < off + n → stackLoc g lane ea n = none) ∧
     (ea.toNat / 2 ^ 26 % 2 ^ 18 = 0 → off + n ≤ g.slab →
       (ea.toNat / 2 ^ 25 % 2 = 1 → stackLoc g lane ea n = slab named) ∧
       (ea.toNat / 2 ^ 25 % 2 = 0 → stackLoc g lane ea n = if named ≠ 0 then none else slab lane))) ∧
  (∀ g lane off n, inSpillSlot g lane off n = true ↔ lane < g.frontier.length - 16 ∧ g.slab - 16 < off + n ∧ off < g.slab) ∧
  (∀ (base : Dbl) (off : Int),
     let low : Int := if base.toNat % 2 ^ 57 < 2 ^ 56 then (base.toNat % 2 ^ 57 : Nat) else ((base.toNat % 2 ^ 57 : Nat) : Int) - 2 ^ 57
     let formed := canonical base = true ∧ -(2 ^ 56) ≤ low + off ∧ low + off < 2 ^ 56
     (¬ formed → effAddr base off = none) ∧
     (formed → ∃ ea, effAddr base off = some ea ∧ ea.toNat / 2 ^ 60 = base.toNat / 2 ^ 60 ∧ canonical ea = true ∧
       ((ea.toNat % 2 ^ 57 : Nat) : Int) = (low + off) % 2 ^ 57))

/-- R204, R205, R319, R320: the loads and stores issue: their size, their offset in units of the size, and their
register, pair or quad. R245, R250, R251, R253, R333, R336, R341 to R343, R385, R386: the atomics, the barrier, cell
and tag instructions issue; `take` does where its gang is not to stop (R346). -/
def Obligations.AccessesIssue : Prop :=
  (∀ o a d,
     (∀ r ∈ [(Instr.ldB, 1, false), (Instr.ldH, 2, false), (Instr.ldW, 4, false), (Instr.ldsB, 1, true), (Instr.ldsH, 2, true)],
       AccessIssues (r.1 o a d) (.load r.2.1 o r.2.2 a d) (checkLS r.2.1 o a (.reg d))) ∧
     AccessIssues (.ldD o a d) (.load 8 o false a d) (checkLS 8 o a (.pair d)) ∧
     AccessIssues (.ldsQ o a d) (.load 16 o false a d) (checkLS 16 o a (.quad d)) ∧
     (∀ r ∈ [(Instr.stB, 1), (Instr.stH, 2), (Instr.stW, 4)],
       AccessIssues (r.1 o a d) (.store r.2 o a d) (checkLS r.2 o a (.reg d))) ∧
     AccessIssues (.stD o a d) (.store 8 o a d) (checkLS 8 o a (.pair d)) ∧
     AccessIssues (.stQ o a d) (.store 16 o a d) (checkLS 16 o a (.quad d)) ∧
     AccessIssues (.ldAcqW o a d) (.load 4 0 false a d) (checkLS 4 0 a (.reg d)) ∧
     AccessIssues (.ldAcqD o a d) (.load 8 0 false a d) (checkLS 8 0 a (.pair d)) ∧
     AccessIssues (.stRelW o a d) (.store 4 0 a d) (checkLS 4 0 a (.reg d)) ∧
     AccessIssues (.stRelD o a d) (.store 8 0 a d) (checkLS 8 0 a (.pair d))) ∧
  (∀ b a d,
     (∀ r ∈ [(Instr.atomAdd, 0), (Instr.atomMin, 1), (Instr.atomMax, 2), (Instr.atomMinn, 3), (Instr.atomMaxn, 4),
         (Instr.atomAnd, 5), (Instr.atomOr, 6), (Instr.atomXor, 7), (Instr.atomXchg, 8), (Instr.atomInc, 9), (Instr.atomCas, 10),
         (Instr.atomFx, 11), (Instr.atomAddD, 12)],
       AccessIssues (r.1 b a d) (.atom r.2 true b a d) (checkAtom r.2 true b a d)) ∧
     (∀ r ∈ [(Instr.atomAddNr, 0), (Instr.atomMinNr, 1), (Instr.atomMaxNr, 2), (Instr.atomMinnNr, 3), (Instr.atomMaxnNr, 4),
         (Instr.atomAndNr, 5), (Instr.atomOrNr, 6), (Instr.atomXorNr, 7), (Instr.atomXchgNr, 8), (Instr.atomIncNr, 9),
         (Instr.atomFxNr, 11), (Instr.atomAddDNr, 12)],
       AccessIssues (r.1 b a) (.atom r.2 false b a 0) (checkAtom r.2 false b a 0)) ∧
     AccessIssues (.barInit b a) (.bar 0 b a 0) (checkBar 0 b a 0) ∧
     AccessIssues (.barArr a d) (.bar 1 0 a d) (checkBar 1 0 a d) ∧
     AccessIssues (.barArrb a d) (.bar 2 0 a d) (checkBar 2 0 a d) ∧
     AccessIssues (.barExp b a) (.bar 3 b a 0) (checkBar 3 b a 0) ∧
     AccessIssues (.take a d) (.take a d) (checkCell [.pair a, .pair d] a) (fun s g => mustStop s g = false) ∧
     AccessIssues (.resolve b a) (.resolve b a) (checkCell [.pair a, .pair b] a) ∧
     AccessIssues (.refAdd a d) (.refAdd a d) (checkCell [.pair a, .reg d] a) ∧
     AccessIssues (.refDrop a d) (.refDrop a d) (checkCell [.pair a, .reg d] a) ∧
     AccessIssues (.probe a d) (.probe a d) (checkCell [.pair a, .reg d] a) ∧
     AccessIssues (.tagSet a) (.tagSet a) (checkTag [.pair a] a fun _ _ => 16) ∧
     AccessIssues (.tagSetr b a) (.tagSetr b a) (checkTag [.pair a, .reg b] a fun g l => (rdReg g.level (thr g l) b).toNat) ∧
     AccessIssues (.tagGet a d) (.tagGet a d) (checkTag [.reg d, .pair a] a fun _ _ => 16))

/-- R205, R333, R336: each step of an access performs the lowest lane that remains, or, where R311 lets it, leaves
that lane's access outstanding, and notes how it ended; when no lane remains the instruction settles: a fault of any
lane is raised, waiting lanes are parked, the instruction is complete, or its gang goes on with accesses outstanding.
A `take` of a gang that is to stop is performed no more: the gang stops there (R352). An outstanding access is
performed when nothing keeps it back. R309, R311, R313, R320, R324 to R326: what keeps it back: that its target, or
the answer, cannot travel; of its own thread, an access to the same bytes, a load behind a forwarded store apart, and
one that the weaker order of the two pages does not let it pass, where an atomic without return counts as a write
alone; of its own instruction, another lane's access to the same bytes, and any other lane's store of a release; and
of either, a write into the scratchpad of the same other core. Where more than one reading is possible, log entry 67
says which the model takes. -/
def Obligations.AccessSteps : Prop :=
  ∀ s id g, gangOf s id = some g →
    (∀ p fly, g.pending = some p → s.focus = (if fly then [id, 0, 1] else [id]) →
      (mustStop s g = true → (∃ a d, p.op = .take a d) → exec .accessAtTarget s = .next (stopGang s { g with pending := none })) ∧
      (mustStop s g = false ∨ (∀ a d, p.op ≠ .take a d) →
      (p.lanes ≠ 0 →
        let e := laneStep s g (fly && flies g) (lowest p.lanes) p.op
        let s2 := noteLane e.1 id (lowest p.lanes) e.2
        exec .accessAtTarget s = .next (match (gangOf s2 id).bind Gang.pending with
          | some q => if q.lanes = 0 then settleAccess s2 id else s2
          | none => s2)) ∧
      (p.lanes = 0 → exec .accessAtTarget s = .next (settleAccess s id)) ∧
      (∀ c, g.clause = some c → c.hits = [] → p.lanes = 0 →
        let g1 := { g with pending := none }
        (p.flights ≠ [] → p.failed ≠ [] ∨ p.beyond ≠ none → exec .accessAtTarget s = .next s) ∧
        (∀ f fs, p.failed = f :: fs → p.flights = [] → p.beyond = none →
          exec .accessAtTarget s = .next (failKeeping s g1 c p.op.cls (f :: fs) p.done)) ∧
        (p.failed = [] → p.waiting = 0 → p.beyond = none →
          (p.flights = [] → exec .accessAtTarget s = .next (complete (setGang s g1) g1 c p.op.cls)) ∧
          (p.flights ≠ [] → exec .accessAtTarget s = .next (setGang s (stepPast (leaveOut g1 c p.op.cls p.flights) c))))))) ∧
    (∀ k i f, s.focus = [id, k + 1] → (outstanding g)[k]? = some (i, f) →
      let earlier := (outstanding g).take k
      let r := performFlight s g earlier f
      (performable s g.core earlier i f = true →
        exec .accessAtTarget s = .next (modGang r.1 id fun x => takeFlight x i f r.2)) ∧
      (performable s g.core earlier i f = false → exec .accessAtTarget s = .next s) ∧
      (performable s g.core earlier i f = true ↔ f.travels s = true ∧ ∀ j e, (j, e) ∈ earlier →
        (e.lane = f.lane → e.meets f = true → (∃ n o a d, e.op = .store n o a d) ∧ (∃ n o sg a d, f.op = .load n o sg a d) ∧
          e.kind ≠ 0 ∧ f.kind ≠ 0) ∧
        (e.lane = f.lane → e.meets f = false →
          (max e.kind f.kind = 2 ∨ max e.kind f.kind = 1 ∧ (e.returns = false ∨ f.stores = false)) ∧ sameRemote s g.core e f = false) ∧
        (e.lane ≠ f.lane → j = i → e.meets f = false ∧ e.rel = false ∧ sameRemote s g.core e f = false))) ∧
    (∀ f : Flight, (f.travels s = true ↔ (f.loc.place = .phys → linkOpen s f.loc.off f.channel = true ∧ linkOpen s f.loc.off channelResponse = true)) ∧
      (f.returns = true ↔ match f.op with | .atom _ ret _ _ _ => ret = true | .store _ _ _ _ => False | _ => True)) ∧
    (∀ e f, sameRemote s g.core e f = true ↔ e.stores = true ∧ f.stores = true ∧
      ∃ k, placeCore s e.loc.place = some k ∧ placeCore s f.loc.place = some k ∧ k ≠ g.core)

/-- R204, R205, R319: a load of a lane that has passed its checks, with nothing of its gang outstanding: its register
takes the bytes of the place, the first the least significant, extended by zeros or by the sign; its pair or quad
takes 8 or 16 bytes. No byte of memory changes, and no other register. R204, R205, R320: a store of a lane that has
passed its checks: its bytes stand at the address, the least significant first; every other byte reads as before, and
no register changes. `s1` is the state after the checks, translation included (R199). R309, R311: an access that stays
outstanding has not touched a byte or a register yet; it holds the place, the data or the destination registers.
Performed, a store writes its bytes and nothing else, a load writes its registers and nothing else: from the place, or
from the latest earlier store of its own thread to the same bytes that is still outstanding. A store through a leaf whose
entry stands no longer sets the dirty bit of that leaf (R200). On a stack an access stays outstanding only where no
spill slot can come to lie (R120). -/
def Obligations.LoadAndStoreEffects : Prop :=
  (∀ s g lane (size : Nat) off sg a d ea s1 t, gangOf s1 g.id = some g → lane < g.threads.length → size ∈ [1, 2, 4, 8, 16] →
     effAddr (rdPair g.level (thr g lane) a) ((if off % 1024 < 512 then ((off % 1024 : Nat) : Int)
       else ((off % 1024 : Nat) : Int) - 1024) * size) = some ea →
     arrive s g lane ea size { r := true } = (s1, .ok t) →
     (outstanding g = [] → (t.loc.place = .phys → ∀ k, linkOpen s1 t.loc.off k = true) →
       ∃ t1 v hits, laneStep s g false lane (.load size off sg a d) = (t1, .ok hits []) ∧ OnlyThread s1 t1 g lane v ∧
         let x := readNat s1 t.loc size
         (size ≤ 4 → WritesReg g.level (thr g lane) v d
           (if sg then BitVec.ofInt 32 (if x < 2 ^ (8 * size - 1) then (x : Int) else (x : Int) - 2 ^ (8 * size)) else BitVec.ofNat 32 x)) ∧
         (size = 8 → d % 2 = 0 → WritesPair g.level (thr g lane) v d (BitVec.ofNat 64 x)) ∧
         (size = 16 → SameButRegs (thr g lane) v ∧ v.save1 = (thr g lane).save1 ∧ v.save2 = (thr g lane).save2 ∧
           (∀ i < 4, d ≠ 0 → rdPhys v ((thr g lane).wbase + d + i) = BitVec.ofNat 32 (x / 2 ^ (32 * i))) ∧
           ∀ k, d = 0 ∨ k < (thr g lane).wbase + d ∨ (thr g lane).wbase + d + 4 ≤ k → rdPhys v k = rdPhys (thr g lane) k)) ∧
     (d ≠ 0 → g.level = 0 → (∀ x, t.loc.place = .stack x → 16 ≤ t.loc.off / 2 ^ 20 ∨ t.loc.off % 2 ^ 20 + size + 16 ≤ g.slab) →
       ∃ hits f, laneStep s g true lane (.load size off sg a d) = (s1, .flies hits [] f) ∧ f.loc = t.loc ∧ f.lane = lane ∧
         f.op = .load size off sg a d ∧ f.dst = (List.range ((size + 3) / 4)).map fun i => (thr g lane).wbase + d + i)) ∧
  (∀ s g lane (size : Nat) off a d ea s1 t, gangOf s1 g.id = some g → size ∈ [1, 2, 4, 8, 16] →
     effAddr (rdPair g.level (thr g lane) a) ((if off % 1024 < 512 then ((off % 1024 : Nat) : Int)
       else ((off % 1024 : Nat) : Int) - 1024) * size) = some ea →
     arrive s g lane ea size { w := true, reads := false } = (s1, .ok t) →
     let data := if size = 16 then rdQuad (thr g lane) d else if size = 8 then (rdPair g.level (thr g lane) d).toNat
       else (rdReg g.level (thr g lane) d).toNat % 2 ^ (8 * size)
     (outstanding g = [] → (t.loc.place = .phys → ∀ k, linkOpen s1 t.loc.off k = true) →
       ∃ t1 hits, laneStep s g false lane (.store size off a d) = (t1, .ok hits [(lane, ea.toNat, size, data)]) ∧ SameThreads s1 t1 ∧
         SameBytesBut s1 t1 t.loc size ∧ readNat t1 t.loc size = data) ∧
     ((∀ x, t.loc.place = .stack x → 16 ≤ t.loc.off / 2 ^ 20 ∨ t.loc.off % 2 ^ 20 + size + 16 ≤ g.slab) →
       ∃ hits f, laneStep s g true lane (.store size off a d) = (s1, .flies hits [(lane, ea.toNat, size, data)] f) ∧
         f.loc = t.loc ∧ f.lane = lane ∧ f.op = .store size off a d ∧ f.data = data)) ∧
  (∀ s g earlier f, gangOf s g.id = some g →
     let r := performFlight s g earlier f
     (∀ (size : Nat) off a d, f.op = .store size off a d → HasPlace s f.loc.place → f.data < 256 ^ size →
       (f.loc.place = .phys → (found s (.core g.core) (launchD s g.launch).ctx (vaOf f.ea)).any fun e =>
         paOf e.leaf e.size (vaOf f.ea) == f.loc.off) →
       SameThreads s r.1 ∧ SameBytesBut s r.1 f.loc size ∧ readNat r.1 f.loc size = f.data ∧ r.2 = []) ∧
     (∀ (size : Nat) off a d at_ e, f.op = .store size off a d → f.loc.place = .phys → f.leaf = some (at_, e) → e.getLsbD 11 = false →
       (∀ x ∈ found s (.core g.core) (launchD s g.launch).ctx (vaOf f.ea), paOf x.leaf x.size (vaOf f.ea) ≠ f.loc.off) →
       (readNat r.1 (physLoc at_) 8).testBit 11 = true ∧ SameThreads s r.1) ∧
     (∀ (size : Nat) off sg a d x, f.op = .load size off sg a d → f.dst.Nodup → f.lane < g.threads.length →
       ((∀ e ∈ earlier, e.2.lane = f.lane → e.2.stores = true → e.2.meets f = false) ∧ x = readNat s f.loc size ∨
         ∃ j e o b c, earlier.getLast? = some (j, e) ∧ e.lane = f.lane ∧ e.op = .store size o b c ∧ e.loc = f.loc ∧ x = e.data % 256 ^ size) →
       ∃ v, OnlyThread s r.1 g f.lane v ∧ r.2 = [] ∧ { v with regs := (thr g f.lane).regs } = thr g f.lane ∧
         (∀ i k, f.dst[i]? = some k → rdPhys v k = BitVec.ofNat 32 ((if size ≤ 4 then (loadValue size sg x).toNat else x) / 2 ^ (32 * i))) ∧
         ∀ k, k ∉ f.dst → rdPhys v k = rdPhys (thr g f.lane) k))

/-- R250 to R252: an atomic of a lane, whose target has been reached (`s1` is the state after that, translation
included: R199) with nothing of its gang outstanding, and whose launch keeps no log: the word or double there takes
the operation's value in one step, the old value goes to the destination where the form returns it, every other byte
reads as before and no other register changes. The new word of each operation is listed; `cas` takes its compare value
and its new value from the pair; `inc` counts up to its bound. R253: `atom.fx`, in the global window: the operand is
added to the shadow of the word, which the word's value seeds where it has none; the destination takes the value
before; where a shadow it needs has no room the lane takes 0x11 (log entry 77). -/
def Obligations.AtomicEffects : Prop :=
  ∀ s g lane fn ret b a d s1 t, gangOf s1 g.id = some g → lane < g.threads.length → fn ≤ 12 → outstanding g = [] →
    (t.loc.place = .phys → ∀ k, linkOpen s1 t.loc.off k = true) → cellBusy s1 t = false →
    (launchD s1 g.launch).desc.recording = false → (launchD s1 g.launch).desc.replaying = false →
    let n := if fn = 12 then 8 else 4
    let ea := rdPair g.level (thr g lane) a
    arrive s g lane ea n { r := true, w := true, sum := some (fn == 11) } = (s1, .ok t) →
    let Rest := fun t1 => ∀ h k, (h ≠ g.id ∨ k ≠ lane ∨ ret = false) →
      (gangOf t1 h).map (fun x => thr x k) = (gangOf s1 h).map fun x => thr x k
    (fn ≠ 11 → ∃ t1 hits st, laneStep s g false lane (.atom fn ret b a d) = (t1, .ok hits st) ∧ SameBytesBut s1 t1 t.loc n ∧ Rest t1 ∧
      ∃ g', gangOf t1 g.id = some g' ∧
        (fn = 12 → readNat t1 t.loc 8 = (readNat s1 t.loc 8 + (rdPair g.level (thr g lane) b).toNat) % 2 ^ 64 ∧
          (ret = true → d % 2 = 0 → WritesPair g.level (thr g lane) (thr g' lane) d (BitVec.ofNat 64 (readNat s1 t.loc 8)))) ∧
        (fn ≠ 12 → (ret = true → WritesReg g.level (thr g lane) (thr g' lane) d (BitVec.ofNat 32 (readNat s1 t.loc 4))) ∧
          ∀ r ∈ ([
            (0, fun o x _ => o + x), (1, fun o x _ => if o.toInt ≤ x.toInt then o else x),
            (2, fun o x _ => if o.toInt ≥ x.toInt then o else x), (3, fun o x _ => if o.toNat ≤ x.toNat then o else x),
            (4, fun o x _ => if o.toNat ≥ x.toNat then o else x), (5, fun o x _ => o &&& x), (6, fun o x _ => o ||| x),
            (7, fun o x _ => o ^^^ x), (8, fun _ x _ => x), (9, fun o x _ => if o.toNat < x.toNat then o + 1 else 0),
            (10, fun o _ p => if o = p.lo then p.hi else o)] : List (Nat × (Word → Word → Dbl → Word))), fn = r.1 →
          readNat t1 t.loc 4 = (r.2 (BitVec.ofNat 32 (readNat s1 t.loc 4)) (rdReg g.level (thr g lane) b)
            (rdPair g.level (thr g lane) b)).toNat)) ∧
    (fn = 11 → apertureOf ea = .global → shadowPoisoned s1 t.loc.off = false →
      let pa := t.loc.off
      let x := (rdReg g.level (thr g lane) b).toNat
      let before := match fget s1.shadows pa with | some h => readShadow s1 pa h | none => seedShadow (readNat s1 t.loc 4)
      let after := Shadow.add before x
      (∀ s2 old new, addToSum s1 pa x = .ok (s2, old, new) →
        (∃ t1 hits, laneStep s g false lane (.atom fn ret b a d) = (t1, .ok hits [(lane, ea.toNat, 4, after.value)]) ∧
          SameBytes s2 t1 ∧ t1.shadows = s2.shadows ∧ Rest t1 ∧
          (∃ h, fget t1.shadows pa = some h ∧ h.spilled = none ∧ { h with used := after.used, spilled := after.spilled } = after) ∧
          ∃ g', gangOf t1 g.id = some g' ∧ (ret = true → WritesReg g.level (thr g lane) (thr g' lane) d (BitVec.ofNat 32 before.value))) ∧
        (shadowHeld s1 pa = true → SameBytes s1 s2)) ∧
      (∀ at_, addToSum s1 pa x = .error at_ → (laneStep s g false lane (.atom fn ret b a d)).2 = .fail ⟨lane, 0x11, ea, 0⟩))

/-- R253, R254: exact addition on a sum page. A finite value adds its integer of units of 2^−149 to the accumulator
modulo 2^376; a NaN or an infinity sets its bit; the value of a shadow is the exact sum rounded once to nearest, a NaN
where the NaN bit or both infinities are set. Hence the order of finite additions does not matter. -/
def Obligations.ExactAddition : Prop :=
  (∀ h n m e w, unpack fp32 w = .fin n m e → -149 ≤ e →
    Shadow.add h w = { h with acc := h.acc + BitVec.ofInt 376 ((if n then -1 else 1) * ((m : Int) * 2 ^ (e + 149).toNat)) }) ∧
  (∀ h w sg, unpack fp32 w = .nan sg → Shadow.add h w = { h with nan := true }) ∧
  (∀ h w n, unpack fp32 w = .inf n → Shadow.add h w = if n then { h with ninf := true } else { h with pinf := true }) ∧
  (∀ h x y, Shadow.add (Shadow.add h x) y = Shadow.add (Shadow.add h y) x) ∧
  (∀ h : Shadow, h.nan = true ∨ (h.pinf = true ∧ h.ninf = true) → h.value = 0x7FC00000) ∧
  (∀ h : Shadow, h.nan = false → h.pinf = true → h.ninf = false → h.value = 0x7F800000) ∧
  (∀ h : Shadow, h.nan = false → h.pinf = false → h.ninf = true → h.value = 0xFF800000) ∧
  (∀ h : Shadow, h.nan = false → h.pinf = false → h.ninf = false → h.acc = 0 → h.value = 0) ∧
  ∀ h : Shadow, h.nan = false → h.pinf = false → h.ninf = false → h.acc ≠ 0 → Rounds fp32 0 (h.acc.toInt / 2 ^ 149) h.value

/-! ### Barriers -/

/-- R239: a barrier object is two counts of 15 bits and a phase in its first word, its balance and its status in the
next two, and a word of zeros: what is written is read back, reserved bits as zero whatever stands there (R5), and no
byte outside its sixteen changes. R240, R241, R245: an arrival lowers the pending count, but not below 0, where it
sets the over bit; `bar.init` sets count and expected count with phase 0, and tests nothing; the balance changes by
the bytes posted, and a rise takes the hold away; and when a change leaves the count, the balance and the hold 0 the
phase flips, the count is the expected count again and the status is cleared, whether an arrival or a posting made the
change; otherwise nothing flips. R233: a copy's fault sets the short bit and, first of the phase, its channel. The
result of an arrival is flip × 4 + over × 2 + old phase. The barrier instructions of a lane that has reached its
object, in a launch without a log, make these changes, where earlier accesses of the gang let it pass (R311); and
`bar.init`, which reads nothing, is not stopped by an uncorrectable error there (R372). -/
def Obligations.BarrierEffects : Prop :=
  (∀ s l, (readBar s l).pending < 2 ^ 15 ∧ (readBar s l).expected < 2 ^ 15 ∧ (readBar s l).stat &&& 0xF7 = (readBar s l).stat) ∧
  (∀ s l o, HasPlace s l.place → o.pending < 2 ^ 15 → o.expected < 2 ^ 15 →
     readBar (writeBar s l o) l = { o with stat := o.stat &&& 0xF7 } ∧ SameBytesBut s (writeBar s l o) l 16 ∧
     readNat (writeBar s l o) l 4 = (if o.phase then 2 ^ 31 else 0) + o.pending * 2 ^ 16 + o.expected ∧
     readNat (writeBar s l o) { l with off := l.off + 8 } 4 = o.stat.toNat ∧ readNat (writeBar s l o) { l with off := l.off + 12 } 4 = 0) ∧
  (∀ s l, HasPlace s l.place →
     let o := readBar s l
     let flipped : BarObj := { phase := !o.phase, pending := o.expected, expected := o.expected, bal := 0, stat := 0 }
     let old : Word := if o.phase then 1 else 0
     let hold := o.stat.getLsbD 1
     (∀ n, n ≤ 32767 → readBar (barInit s l n) l = { phase := false, pending := n, expected := n, bal := 0, stat := 0 }) ∧
     (o.pending ≤ 1 → o.bal = 0 → hold = false →
       readBar (barArrive s l false).1 l = flipped ∧ (barArrive s l false).2 = old + 4 + if o.pending = 0 then 2 else 0) ∧
     (o.pending ≠ 0 → 1 < o.pending ∨ o.bal ≠ 0 ∨ hold = true →
       readBar (barArrive s l false).1 l = { o with pending := o.pending - 1 } ∧ (barArrive s l false).2 = old) ∧
     (o.pending = 0 → o.bal ≠ 0 ∨ hold = true →
       readBar (barArrive s l false).1 l = { o with stat := o.stat ||| 4 } ∧ (barArrive s l false).2 = old + 2) ∧
     readBar (barArrive s l true).1 l = { o with pending := o.pending - 1, stat := o.stat ||| if o.pending = 0 then 6 else 2 } ∧
     (barArrive s l true).2 = old + (if o.pending = 0 then 2 else 0) ∧
     barAdd s l 0 = s ∧
     (∀ v : Int, v ≠ 0 →
       (o.pending = 0 ∧ o.bal + BitVec.ofInt 32 v = 0 ∧ (hold = false ∨ 0 < v) → readBar (barAdd s l v) l = flipped) ∧
       (0 < o.pending ∨ o.bal + BitVec.ofInt 32 v ≠ 0 ∨ (hold = true ∧ v < 0) →
         readBar (barAdd s l v) l = { o with bal := o.bal + BitVec.ofInt 32 v, stat := if 0 < v then o.stat &&& ~~~2#32 else o.stat })) ∧
     ∀ ch < 16,
       (o.pending = 0 → o.bal = 0 → hold = false → readBar (barShort s l ch) l = flipped) ∧
       (0 < o.pending ∨ o.bal ≠ 0 ∨ hold = true → readBar (barShort s l ch) l =
         { o with stat := if o.stat.getLsbD 0 then o.stat else (o.stat &&& ~~~0xF0#32) ||| 1 ||| BitVec.ofNat 32 (ch * 16) })) ∧
  ∀ s g fly lane fn b a d s1 t, gangOf s1 g.id = some g → lane < g.threads.length → fn < 4 →
    let ea := rdPair g.level (thr g lane) a
    arrive s g lane ea 16 { r := true, w := true, reads := fn != 0 } = (s1, .ok t) →
    (reachable s1 g lane (.bar fn b a d) ea t = false → laneStep s g fly lane (.bar fn b a d) = (s, .stays)) ∧
    (reachable s1 g lane (.bar fn b a d) ea t = true →
    (launchD s1 g.launch).desc.recording = false → (launchD s1 g.launch).desc.replaying = false →
    (fn = 0 → laneStep s g fly lane (.bar fn b a d) = (barInit s1 t.loc (rdReg g.level (thr g lane) b).toNat, .ok [] [])) ∧
    (fn = 3 → laneStep s g fly lane (.bar fn b a d) = (barAdd s1 t.loc (rdReg g.level (thr g lane) b).toInt, .ok [] [])) ∧
    ∀ r ∈ [(1, false), (2, true)], fn = r.1 → ∃ t1, laneStep s g fly lane (.bar r.1 b a d) = (t1, .ok [] []) ∧
      SameBytes (barArrive s1 t.loc r.2).1 t1 ∧
      ∃ g', gangOf t1 g.id = some g' ∧ WritesReg g.level (thr g lane) (thr g' lane) d (barArrive s1 t.loc r.2).2)

/-! ### Waiting -/

/-- R53, R380, R396, R399: an instruction that has taken effect for every lane, with no watchpoint hit: its gang moves
past it and nothing else happens; if it is a synchronising operation, at level 0 and outside a log, its gang counts
it. -/
def Obligations.Completion : Prop :=
  ∀ s g c cls, (gangOf s g.id).isSome → c.hits = [] →
    (∀ i, decodeWord (wordOf c) = .ok i → syncInstr i = false) ∨
      ((launchD s g.launch).desc.recording = false ∧ (launchD s g.launch).desc.replaying = false) →
    ∃ g' n, OnlyGang s (complete s g c cls) g g' ∧ OnlyThreads { g with syncs := n } g' ∧ g'.threads = g.threads ∧
      ((∀ i, decodeWord (wordOf c) = .ok i → syncInstr i = false) → n = g.syncs ∧ complete s g c cls = finish s g c cls) ∧
      (∀ i, decodeWord (wordOf c) = .ok i → syncInstr i = true → n = if g.level = 0 then g.syncs + 1 else g.syncs)

/-- R108, R246, R247, R256, R344, R367: the instructions that wait. `bar.wait` returns where the phase differs from
its bit and else waits at a blocking point; `bar.try` puts the same comparison into a predicate; `bar.blk` and
`bar.clu` arrive and wait for their generation; `mwait` returns a word that differs from its value, and else waits for
a write to its granule, with its line at its home slice; `carve` presents its sizes and waits for its block; `join`
returns where no child is left, or the cell holds its value, and else waits; `migrate` says why its gang stays, or
waits to move. R97, R346, R352: a gang that is to stop does so at these and at the other instructions that can block,
and performs none of them. R383, R418: where a hit is to stop the gang and the event has no room, the instruction waits.
R372: a task record with an uncorrectable error gives 0x60 (log entry 40). Where more than
one reading is possible, log entries 51 and 53 say which the model takes. -/
def Obligations.WaitingResults : Prop :=
  ∀ s g c b a d, Issues s .none g c →
    let A := activeMask c
    let k := lowest A
    let ea := rdPair g.level (thr g k) a
    let bv := rdReg g.level (thr g k) b
    let g2 := { g with gate := none }
    (mustStop s g = true → ∀ i ∈ ([.barWait b a, .barBlk, .barClu, .mwait b a d, .carve b a d, .join a, .take a d, .migrate a d, .cpyWait b,
        .cpyVis a b, .mfence, .ringAdv b a d, .halt] : List Instr), exec i s = .next (stopGang { s with issuing := none } g)) ∧
    (∀ s1 t, windowOnce g A [] [.pair a, .reg b] = none → stage1 s g k ea 0 16 16 true false false = .ok ea →
      arrive s g k ea 16 { r := true } = (s1, .ok t) →
      (launchD s1 g.launch).desc.recording = false → (launchD s1 g.launch).desc.replaying = false →
      exec (.barTry b a d) s =
        .next (complete (setGang s1 g2) (mapLanes A (fun _ t' => wrPred t' d ((readBar s1 t.loc).phase != bv.getLsbD 0)) g2) c .none)) ∧
    (mustStop s g = false →
    (∀ s1 t, windowOnce g A [] [.pair a, .reg b] = none → stage1 s g k ea 0 16 16 true false false = .ok ea →
      arrive s g k ea 16 { r := true } = (s1, .ok t) →
      (launchD s1 g.launch).desc.recording = false → (launchD s1 g.launch).desc.replaying = false →
      ((readBar s1 t.loc).phase ≠ bv.getLsbD 0 → exec (.barWait b a) s = .next (complete (setGang s1 g2) g2 c .none)) ∧
      ((readBar s1 t.loc).phase = bv.getLsbD 0 →
        exec (.barWait b a) s = .next (blockAt s1 g2 c .none A 4 (.phase t.loc (bv.getLsbD 0) false)))) ∧
    (g.task = 0 → exec .barBlk s = .next (arriveBlk (blockAt s g c .none A 4 (.blkGen false)) g) ∧
      exec .barClu s = .next (arriveClu (blockAt s g c .none A 4 (.cluGen false)) g)) ∧
    (g.task ≠ 0 → exec .barBlk s = .next (failAt s g c .none 0x11 0 A 0) ∧ exec .barClu s = .next (failAt s g c .none 0x11 0 A 0) ∧
      exec (.carve b a d) s = .next (failAt s g c .none 0x11 0 A 0)) ∧
    (∀ s1 l v, windowOnce g A [.reg d] [.pair a, .reg b] = none → stage1 s g k ea 0 4 4 true false true = .ok ea →
      mwaitRead s g k ea = (s1, .ok (l, v)) →
      let c1 := { c with hits := hitsOf s1 g k ea 4 false true }
      (stopHeld s1 g c1.hits = true → exec (.mwait b a d) s = .next { s with issuing := none }) ∧
      (stopHeld s1 g c1.hits = false → (v ≠ bv → exec (.mwait b a d) s = .next (complete s1 (mapLanes A (fun _ t => wrReg g.level t d v) g) c1 .none)) ∧
      (v = bv → exec (.mwait b a d) s = .next (blockAt s1 g c1 .none A 9 (.mwait l false (clkOf s1 g.core)))))) ∧
    (∀ s1 t, arrive s g k ea 4 { r := true, sum := some false } = (s1, .ok t) → cellBusy s1 t = false →
      ∃ s2, mwaitRead s g k ea = (s2, .ok (t.loc, BitVec.ofNat 32 (readNat s1 t.loc 4))) ∧ SameBytes s1 s2 ∧
        ∀ pa leaf, t = .glob pa leaf → pa / 128 ∈ s2.lines) ∧
    (g.task = 0 → windowOnce g A [.reg d] [.reg a, .reg b] = none → exec (.carve b a d) s =
      .next (blockAt s g c .none A 13 (.carve (rdReg g.level (thr g k) a).toNat bv.toNat d false))) ∧
    (taskOf s g.task = none → exec (.join 0) s = .next (failAt s g c .none 0x11 0 A 0)) ∧
    (∀ t, taskOf s g.task = some t → recordPoisoned s g.task [1] = true →
      exec (.join 0) s = .next (failAt (recordErrorAt s).2 g c .none 0x60 (recordErrorAt s).1 A 0)) ∧
    (∀ t, taskOf s g.task = some t → recordPoisoned s g.task [1] = false →
      exec (.join 0) s = .next (if t.join = 0 then complete s g c .none else blockAt s g c .none A 5 .joinZero)) ∧
    (∀ s1 t, a ≠ 0 → windowOnce g A [] [.pair a] = none → stage1 s g k ea 0 8 8 false false true = .ok ea →
      arrive s g k ea 8 { r := true, cell := true } = (s1, .ok t) →
      (launchD s1 g.launch).desc.recording = false → (launchD s1 g.launch).desc.replaying = false →
      exec (.join a) s = .next (if stopHeld s1 g (hitsOf s1 g k ea 8 false true) = true then { s with issuing := none }
        else if cellState s1 t.loc.off = 0 then complete s1 g2 { c with hits := hitsOf s1 g2 k ea 8 false true } .none
        else blockAt (appendWaiter s1 g2 ea t.loc.off) g2 c .none A 5 (.cells false))) ∧
    (g.task = 0 ∨ g.level ≠ 0 → exec (.migrate a d) s = .next (failAt s g c .none 0x11 0 A 0)) ∧
    (∀ s1 home, g.task ≠ 0 → g.level = 0 → windowOnce g A [.reg d] [.pair a] = none → homeOf s g k ea = (s1, .ok home) →
      let status := fun n => finish s1 (mapLanes A (fun _ t => wrReg 0 t d (BitVec.ofNat 32 n)) g) c .none
      exec (.migrate a d) s = .next (if home = s1.module * 2 + g.core / 1024 then status 1
        else if home / 2 ≠ s1.module ∨ dieAllowed s1 (launchD s1 g.launch).desc (home % 2) = false then status 2
        else blockAt s1 g c .none A 10 (.landing (home % 2) d))))

/-! ### Cells and tags -/

/-- R41, R201, R328: a cell is a double with two bits of its granule's tag byte: writing one sets both and leaves the
colour, the other cell's state and every other byte of memory. R338, R341: a value resolved stands in its cell, which
is VALUE; the waiters of its queue are woken and their records freed; a dormant task that it named never runs. R333,
R336, R337, R341 to R343, R345: the cell instructions of a lane that has reached its cell, in a launch without a log.
`take` gives the value, or waits, and starts a suspended cell's evaluator, or finds that its own task computes it;
`probe` reads the state word; `resolve` writes the value; `ref.add` and `ref.drop` change the consumers and the held
list of the task that issues them, and say what they found; the last consumer's `ref.drop` reclaims the cell, with
colour 0xF and value 0, and the task it names. A lane that earlier accesses of its gang, or a link, keep from its cell
waits (R311, R325). `probe` may stay outstanding; it then reads the state word when it is performed (R343, log entry
67). R372: an uncorrectable error in a task record gives 0x60 (log entry 40). -/
def Obligations.CellEffects : Prop :=
  (∀ s pa v st, pa % 8 = 0 → st < 4 →
     cellState (setCell s pa v st) pa = st ∧ cellPayload (setCell s pa v st) pa = v ∧
     SameBytesBut s (setCell s pa v st) (physLoc pa) 8 ∧
     (∀ l : Loc, colourAt (setCell s pa v st) l = colourAt s l) ∧
     (∀ qa, qa % 8 = 0 → qa ≠ pa → cellState (setCell s pa v st) qa = cellState s qa) ∧ SameThreads s (setCell s pa v st)) ∧
  (∀ s pa v js, pa % 8 = 0 → cellState s pa ≠ 0 → (∀ tk ∈ s.tasks, tk.index < 4096) → poolDie pa < s.dies.length →
     let m := (dieOf s (poolDie pa)).waiters
     let t := resolveCell s pa v
     js.Nodup → js.length ≤ 65535 → WaiterChain m (waitersOf (cellPayload s pa)) js →
     cellState t pa = 0 ∧ cellPayload t pa = v ∧ SameBytesBut s t (physLoc pa) 8 ∧
     (∀ tk, taskOf s (handleOf (cellPayload s pa)) = some tk → tk.state = 1 → taskOf t (handleOf (cellPayload s pa)) = none) ∧
     ∀ j ∈ js, ∀ w, fget m j = some w → fget (dieOf t (poolDie pa)).waiters j = none ∧
       ∀ g st b τ, gangOf s w.gang = some g → g.wait = .blocked st (.cells b) τ →
         ∃ g', gangOf t w.gang = some g' ∧ g'.wait = .blocked st (.cells true) τ ∧ g'.threads = g.threads) ∧
  (∀ s g fly lane a b d s1 t, gangOf s1 g.id = some g → lane < g.threads.length →
     (launchD s1 g.launch).desc.recording = false → (launchD s1 g.launch).desc.replaying = false →
     let ea := rdPair g.level (thr g lane) a
     (arrive s g lane ea 8 { r := true, cell := true } = (s1, .ok t) →
       (reachable s1 g lane (.take a d) ea t = false → laneStep s g fly lane (.take a d) = (s, .stays)) ∧
       (reachable s1 g lane (.probe a d) ea t = false → laneStep s g false lane (.probe a d) = (s, .stays)) ∧
       (d ≠ 0 → g.level = 0 → (∀ x, t.loc.place ≠ .stack x) → ∃ hits f, laneStep s g true lane (.probe a d) = (s1, .flies hits [] f) ∧
         f.op = .probe a d ∧ f.lane = lane ∧ f.loc = t.loc ∧ f.dst = [(thr g lane).wbase + d])) ∧
     (arrive s g lane ea 8 { w := true, cell := true } = (s1, .ok t) → reclaiming s g = none →
       reachable s1 g lane (.resolve b a) ea t = false → laneStep s g fly lane (.resolve b a) = (s, .stays)) ∧
     (arrive s g lane ea 8 { r := true, w := true, cell := true } = (s1, .ok t) →
       (reachable s1 g lane (.refAdd a d) ea t = false → laneStep s g fly lane (.refAdd a d) = (s, .stays)) ∧
       (reachable s1 g lane (.refDrop a d) ea t = false → laneStep s g fly lane (.refDrop a d) = (s, .stays))) ∧
     ((∀ op, reachable s1 g lane op ea t = true) →
     let pa := t.loc.off
     let p := cellPayload s1 pa
     let dirty := fun u => markDirty u (.core g.core) (launchD u g.launch).ctx (ea.toNat % 2 ^ 57) pa
     (arrive s g lane ea 8 { r := true, cell := true } = (s1, .ok t) →
       (cellState s1 pa = 0 → d % 2 = 0 → ∃ t1 v hits, laneStep s g fly lane (.take a d) = (t1, .ok hits []) ∧
         OnlyThread s1 t1 g lane v ∧ WritesPair g.level (thr g lane) v d p) ∧
       (cellState s1 pa ≠ 0 → recordPoisoned s1 (handleOf p) [1] = true →
         (laneStep s g fly lane (.take a d)).2 = .fail ⟨lane, 0x60, (recordErrorAt s1).1, 0⟩) ∧
       (cellState s1 pa ≠ 0 → recordPoisoned s1 (handleOf p) [1] = false →
         (selfDependent s1 g (handleOf p) = true → laneStep s g fly lane (.take a d) = (s1, .fail ⟨lane, 0x30, ea, 0⟩)) ∧
         (selfDependent s1 g (handleOf p) = false →
           (cellState s1 pa ≠ 2 → laneStep s g fly lane (.take a d) = (s1, .waits)) ∧
           (cellState s1 pa = 2 → laneStep s g fly lane (.take a d) =
             (startEvaluator (dirty (setCell s1 pa p 3)) (handleOf p) g.id g.core (pa / 2 ^ 46), .waits)))) ∧
       (∃ t1 v hits, laneStep s g false lane (.probe a d) = (t1, .ok hits []) ∧ OnlyThread s1 t1 g lane v ∧
         WritesReg g.level (thr g lane) v d (BitVec.ofNat 32 (cellState s1 pa + colourAt s1 (physLoc pa) * 16 +
           if cellState s1 pa = 0 then 0 else p.toNat / 2 ^ 48 * 65536 + if (taskOf s1 p.lo).isSome then 4 else 0)))) ∧
     (arrive s g lane ea 8 { w := true, cell := true } = (s1, .ok t) → reclaiming s g = none →
       ∃ hits st, laneStep s g fly lane (.resolve b a) = (dirty (resolveCell s1 pa (rdPair g.level (thr g lane) b)), .ok hits st) ∧
         st = [(lane, ea.toNat, 8, (rdPair g.level (thr g lane) b).toNat)]) ∧
     (arrive s g lane ea 8 { r := true, w := true, cell := true } = (s1, .ok t) → (∀ tk ∈ s1.tasks, tk.index < 4096) →
       t.loc = physLoc pa → pa % 8 = 0 →
       let status := fun (n : Nat) (r : State × LaneEnd) => ∃ hits v g1, r.2 = .ok hits [] ∧ gangOf r.1 g.id = some g1 ∧
         thr g1 lane = v ∧ WritesReg g.level (thr g lane) v d (BitVec.ofNat 32 n)
       let add := laneStep s g fly lane (.refAdd a d)
       let drop := laneStep s g fly lane (.refDrop a d)
       let heldBy := fun (x : Task) => (List.range x.nheld).map fun i => x.held.getD i 0
       let one := fun (u : State) (q : Dbl) => cellPayload u pa = q ∧ cellState u pa = cellState s1 pa
       let gone := fun (u : State) => cellState u pa = 0 ∧ cellPayload u pa = 0 ∧ colourAt u (physLoc pa) = 15 ∧
         ∀ tk, taskOf s1 (handleOf p) = some tk →
           (tk.state = 1 ∨ tk.state = 2 → taskOf u (handleOf p) = none) ∧
           (tk.state = 3 ∨ tk.state = 4 → (taskOf u (handleOf p)).map Task.state = some 6)
       (cellState s1 pa = 0 → status 1 add ∧ status 1 drop) ∧
       (cellState s1 pa ≠ 0 →
         (p.toNat / 2 ^ 48 = 65535 → status 2 add) ∧
         (g.task = 0 → taskOf s1 0 = none →
           (p.toNat / 2 ^ 48 ≠ 65535 → status 0 add ∧ one add.1 (p + BitVec.ofNat 64 (2 ^ 48))) ∧
           (1 < p.toNat / 2 ^ 48 → status 0 drop ∧ one drop.1 (p - BitVec.ofNat 64 (2 ^ 48))) ∧
           (p.toNat / 2 ^ 48 ≤ 1 → status 4 drop ∧ gone drop.1)) ∧
         ∀ tk, g.task ≠ 0 → taskOf s1 g.task = some tk → recordPoisoned s1 g.task [2, 3] = false →
           (p.toNat / 2 ^ 48 ≠ 65535 → tk.nheld < 3 → status 0 add ∧ one add.1 (p + BitVec.ofNat 64 (2 ^ 48)) ∧
             ∃ tk', taskOf add.1 g.task = some tk' ∧ heldBy tk' = heldBy tk ++ [handleOf p]) ∧
           (tk.nheld ≤ 3 → handleOf p ∉ heldBy tk → status 3 drop ∧ SameBytes s1 drop.1 ∧ one drop.1 p) ∧
           (tk.nheld ≤ 3 → handleOf p ∈ heldBy tk →
             (1 < p.toNat / 2 ^ 48 → status 0 drop ∧ one drop.1 (p - BitVec.ofNat 64 (2 ^ 48)) ∧
               ∃ tk', taskOf drop.1 g.task = some tk' ∧ (heldBy tk').Perm ((heldBy tk).erase (handleOf p))) ∧
             (p.toNat / 2 ^ 48 ≤ 1 → status 4 drop ∧ cellState drop.1 pa = 0 ∧ cellPayload drop.1 pa = 0 ∧
               colourAt drop.1 (physLoc pa) = 15)))))) ∧
  (∀ s g earlier f a d, gangOf s g.id = some g → f.op = .probe a d → f.lane < g.threads.length → f.dst.length = 1 →
     let r := performFlight s g earlier f
     ∃ v, OnlyThread s r.1 g f.lane v ∧ r.2 = [] ∧ { v with regs := (thr g f.lane).regs } = thr g f.lane ∧
       (∀ k ∈ f.dst, rdPhys v k = probeWord s f.loc.off) ∧ ∀ k, k ∉ f.dst → rdPhys v k = rdPhys (thr g f.lane) k)

/-- R385, R386: `tag.set` gives a granule the colour of its address and leaves its cell states and every byte; the
accesses outstanding that had passed the old colour there are performed first (R201), and `u` is the state after that.
`tag.setr` colours as many granules upward from its address as its register has 16 bytes, each in the state that the
one before leaves, and a granule that fails is the lane's fault, the earlier ones coloured; `tag.get` reads the tag byte
of a granule that has tags, in scratchpad its colour alone, and 0 elsewhere, at once or when its access is performed. A
lane that earlier accesses of its gang, or a link, keep from its granule waits (R311, R325). -/
def Obligations.TagEffects : Prop :=
  ∀ s g fly lane a b d,
    let ea := rdPair g.level (thr g lane) a
    (∀ s1 t, gangOf s1 g.id = some g → effAddr ea 0 = some ea → tagTarget s g lane ea true = (s1, .ok t) →
      (reachable s1 g lane (.tagSet a) ea t = false → laneStep s g fly lane (.tagSet a) = (s, .stays)) ∧
      (reachable s1 g lane (.tagSet a) ea t = true →
        let u := drainWhere s1 fun _ f => f.onGranule t.loc
        ((∀ h ∈ s1.gangs, ∀ x ∈ outstanding h, x.2.onGranule t.loc = false) → u = s1) ∧
        ∃ t1, laneStep s g fly lane (.tagSet a) = (t1, .ok [] []) ∧ colourAt t1 t.loc = ea.toNat / 2 ^ 60 ∧
          tagAt t1 t.loc % 16 = tagAt u t.loc % 16 ∧ SameBytes u t1 ∧ SameThreads u t1)) ∧
    (∀ xs t, gangOf s g.id = some g → AllGranules g lane ea xs 0 s t →
      let n := (rdReg g.level (thr g lane) b).toNat / 16
      (n ≠ 0 → tagStays s g lane ea true (.tagSet a) = true → laneStep s g fly lane (.tagSetr b a) = (s, .stays)) ∧
      (n = 0 ∨ tagStays s g lane ea true (.tagSet a) = false →
        (xs.length = n → laneStep s g fly lane (.tagSetr b a) = (t, .ok [] []) ∧
          ((∀ h ∈ s.gangs, outstanding h = []) → SameThreads s t) ∧
          ∀ x ∈ xs, colourAt t x.loc = ea.toNat / 2 ^ 60) ∧
        ∀ e f t1, xs.length < n → effAddr ea (16 * xs.length : Nat) = some e → apertureOf e = apertureOf ea →
          tagTarget t g lane e true = (t1, .error f) → laneStep s g fly lane (.tagSetr b a) = (t1, .fail f))) ∧
    (∀ s1 t, gangOf s1 g.id = some g → lane < g.threads.length → tagTarget s g lane ea false = (s1, .ok t) →
      let x := match t with
        | .glob pa leaf => if leaf.getLsbD 7 || leaf.getLsbD 8 then tagAt s1 (physLoc pa) else 0
        | .core l => if (spaceOf s1 l.place).tagged then tagAt s1 l % 256 / 16 * 16 else 0
      (reachable s1 g lane (.tagGet a d) ea t = false → laneStep s g false lane (.tagGet a d) = (s, .stays)) ∧
      (reachable s1 g lane (.tagGet a d) ea t = true →
        ∃ t1 v, laneStep s g false lane (.tagGet a d) = (t1, .ok [] []) ∧ OnlyThread s1 t1 g lane v ∧
          WritesReg g.level (thr g lane) v d (BitVec.ofNat 32 x)) ∧
      (d ≠ 0 → g.level = 0 → (launchD s1 g.launch).desc.recording = false → (launchD s1 g.launch).desc.replaying = false →
        (∀ k, t.loc.place = .stack k → 16 ≤ t.loc.off / 2 ^ 20 ∨ t.loc.off % 2 ^ 20 + 32 ≤ g.slab) →
        ∃ f, laneStep s g true lane (.tagGet a d) = (s1, .flies [] [] f) ∧ f.op = .tagGet a d ∧ f.lane = lane ∧
          f.dst = [(thr g lane).wbase + d] ∧ ∀ earlier, ∃ v, OnlyThread s1 (performFlight s1 g earlier f).1 g lane v ∧
            rdPhys v ((thr g lane).wbase + d) = BitVec.ofNat 32 x))

/-! ### Lane by lane -/

/-- R8, R51, R95, R96, R222, R223, R228, R229, R334, R381, R384: the instructions whose lanes act in ascending order,
each lane whole: when every active lane's action succeeds, in the state that the lane before it leaves, the
instruction is complete. The action of one lane, where it succeeds: a copy or prefetch is entered with its box, size
and barrier, and a copy that finds no entry waits with what it has read and validated, which is not read again; a
prefetch counts what is present; `spawn` reads and checks its record once (R39, R334), also where it then waits, and
brings a task into being, which its cell names, and an ordinal past the last is 0x11 (R398); `launch` takes its launch;
a cancel writes its status and cancels what it names; `wpt.set` arms a free index, or says that there is none or that
its operands are not valid; `wpt.clr` disarms its lane's own. Where more than one reading is possible, log entries 50,
52, 57, 58, 81 and 82 say which the model takes. -/
def Obligations.LanesInOrder : Prop :=
  (∀ (i : Instr) (cls : Cls) (step : State → Gang → Nat → State × SeqEnd) (ok : State → Gang → Word → Prop),
     (∃ k b a n, (k, i) ∈ [(CopyKind.into, .cpyIn b a n), (.out, .cpyOut b a n), (.mc, .cpyMc b a n), (.gen, .cpyGen b a n)] ∧
       cls = .b ∧ step = copyLane k b a n ∧ ok = fun s g A => g.ready.isSome = true ∨ ∀ l ∈ lanesOf A, checkCopy k b a s g l = .ok ()) ∨
     (∃ b a d, i = .cpyPf b a d ∧ cls = .b ∧ step = prefetchLane b a d ∧ ok = fun _ _ _ => True) ∨
     (∃ a lz, i = (if lz then .spawnl a else .spawn a) ∧ cls = .b ∧ step = spawnLane lz a ∧ ok = fun _ _ _ => True) ∨
     (∃ q a, i = .launch q a ∧ cls = .b ∧ step = launchLane a q ∧ ok = fun _ g A => windowFail g A [.pair a] = none) ∨
     (∃ a d, i = .cancelL a d ∧ cls = .none ∧ step = cancelLane d (fun t g l => namedL t (ctxOf t g) (laneAddr g l a)) ∧
       ok = fun _ g A => windowFail g A [.reg d, .pair a] = none ∧ ∀ l ∈ lanesOf A, canonical (laneAddr g l a) = true) ∨
     (∃ a d, i = .cancelG a d ∧ cls = .none ∧ step = cancelLane d (fun t g l => namedG t (ctxOf t g) (laneAddr g l a)) ∧
       ok = fun _ g A => windowFail g A [.reg d, .pair a] = none ∧ ∀ l ∈ lanesOf A, canonical (laneAddr g l a) = true) ∨
     (∃ d, i = .cancelJ d ∧ cls = .none ∧ step = cancelLane d (fun t g _ => namedJ t (ctxOf t g)) ∧
       ok = fun _ g A => windowFail g A [.reg d] = none) ∨
     (∃ b a d, i = .wptSet b a d ∧ cls = .none ∧ step = wptSetLane b a d ∧
       ok = fun _ g A => windowFail g A [.reg d, .pair a, .reg b] = none ∧ ∀ l ∈ lanesOf A, canonical (laneAddr g l a) = true) ∨
     (∃ b d, i = .wptClr b d ∧ cls = .none ∧ step = wptClrLane b d ∧ ok = fun _ g A => windowFail g A [.reg d, .reg b] = none) →
   ∀ s g c t g1 c1, Issues s cls g c → ok s g (activeMask c) → AllLanes step g.id (lanesOf (activeMask c)) s t →
     gangOf t g.id = some g1 → g1.clause = some c1 → exec i s = .next (complete t { g1 with gate := none } c1 cls)) ∧
  (∀ s g lane b a d n,
     (∀ kind x, g.ready = some x → (gangOf s g.id).isSome = true →
       (entryFree s g = true → ∃ t y g', copyLane kind b a n s g lane = (t, .ok [] none) ∧ t.copies = s.copies ++ [y] ∧
         { y with id := x.id, seq := x.seq, reserved := x.reserved, table := x.table } = x ∧ gangOf t g.id = some g' ∧ g'.ready = none) ∧
       (entryFree s g = false →
         copyLane kind b a n s g lane = (modGang s g.id fun y => { y with ready := some x }, .block 6 .copyEntry))) ∧
     (∀ kind l s1 bs off, n < 8 → g.ready = none →
       arriveOnCore s g lane (laneAddr g lane a) (cmdBytes kind) true true = .ok l →
       let cmd := parseCmd (readBytes s l (cmdBytes kind)) (kind == .gen)
       let m := parseMap bs
       let units := boxElems cmd.ext / unitElems m cmd.cvt
       readMap s g lane cmd.map = (s1, .ok bs) → mapReserved bs = true → m.valid = true →
       cmd.valid m (kind == .out) (kind == .gen) (g.task != 0) (launchD s1 g.launch).desc.blocks = true →
       barrierWord s1 lane (colourOf (laneAddr g lane a)) (rankPlaces g (namedRanks s1 g cmd.mask))
         (rdReg g.level (thr g lane) b).toNat true = .ok off →
       rangeCheck s1 g lane (colourOf (laneAddr g lane a)) (namedRanks s1 g cmd.mask) cmd.dst (units * unitBytes m cmd.cvt) = .ok () →
       kind ≠ .pf →
       (entryFree s1 g = false → ∃ x, copyLane kind b a n s g lane =
         (modGang s1 g.id fun y => { y with ready := some x }, .block 6 .copyEntry)) ∧
       (entryFree s1 g = true → ∃ t x, copyLane kind b a n s g lane = (t, .ok [] none) ∧ t.copies = s1.copies ++ [x] ∧
         x.kind = kind ∧ x.gang = g.id ∧ x.lane = lane ∧ x.chan = n ∧ x.map = m ∧ x.org = cmd.org ∧ x.ext = cmd.ext ∧
         x.cvt = cmd.cvt ∧ x.dst = cmd.dst ∧ x.bar = off ∧ x.units = units ∧ x.bytes = units * unitBytes m cmd.cvt ∧
         x.pos = 0 ∧ x.state = .queued)) ∧
     (windowBad g.level g.nregs (thr g lane) [.pair a, .reg b, .reg d] = none →
       canonical (laneAddr g lane a) = true → apertureOf (laneAddr g lane a) = .global → ∀ off,
       barrierWord s lane 0 (rankPlaces g (namedRanks s g 0)) (rdReg g.level (thr g lane) d).toNat false = .ok off →
       firstUnleased (launchD s g.launch) (vaOf (laneAddr g lane a)) (rdReg g.level (thr g lane) b).toNat true false false = none →
       ((rdReg g.level (thr g lane) b).toNat = 0 → prefetchLane b a d s g lane = (s, .ok [] none)) ∧
       ((rdReg g.level (thr g lane) b).toNat ≠ 0 → entryFree s g = true →
         ∃ t x, prefetchLane b a d s g lane = (sweepPresent t x.id, .ok [] none) ∧ t.copies = s.copies ++ [x] ∧ x.kind = .pf ∧ x.bar = off ∧
           x.bytes = (rdReg g.level (thr g lane) b).toNat ∧ x.start = laneAddr g lane a ∧ x.state = .active ∧
           (s.lines = [] → sweepPresent t x.id = t))) ∧
     (∀ lz bs, g.record = some (lane, bs) → laneRecord lz a s g lane = (s, .ok bs)) ∧
     (∀ lz s1 bs, (∀ x, g.record ≠ some (lane, x)) → windowBad g.level g.nregs (thr g lane) [.pair a] = none →
       readRecord s g lane (laneAddr g lane a) = (s1, .ok bs) → recordFail s1 g lane (laneAddr g lane a) bs lz = none →
       laneRecord lz a s g lane = (s1, .ok bs)) ∧
     (∀ lz s1 bs s2, laneRecord lz a s g lane = (s1, .ok bs) →
       (ordinalOver (launchD s1 g.launch) = true → spawnLane lz a s g lane =
         (modGang s1 g.id fun x => { x with record := none, gate := none }, .fail ⟨lane, 0x11, 0, 0⟩)) ∧
       (ordinalOver (launchD s1 g.launch) = false →
       (findRecord s1 (launchD s1 g.launch) g.core = (s2, none) → spawnLane lz a s g lane =
         (modGang s2 g.id fun x => { x with record := some (lane, bs) }, .block 8 .record)) ∧
       ∀ r s3 s4 pa, findRecord s1 (launchD s1 g.launch) g.core = (s2, some r) →
       let t := newTask s2 g bs lz r
       resultCell s2 g lane t.cell = (s3, .ok pa) →
       (∀ x, pa = some x → cellOpen s3 x = false → spawnLane lz a s g lane =
         (modGang s2 g.id fun y => { y with record := some (lane, bs) }, .busy)) ∧
       ((∀ x, pa = some x → cellOpen s3 x = true ∧ cellState s3 x = 0) →
       (if g.task = 0 ∨ pa = none then s4 = s3 else appendHeld s3 g lane (mkHandle s3 t) = (s4, .ok ())) →
       (launchD s3 g.launch).desc.replaying = false → (launchD s3 g.launch).desc.recording = false →
       (∃ hits, spawnLane lz a s g lane =
         (modGang (bearTask s4 g t pa) g.id fun x => { x with record := none, gate := none }, .ok hits none)) ∧
       ((∀ k ∈ s4.tasks, k.index < 4096) → r < 4096 → (launchD s4 g.launch).ending = none → g.task = 0 → t ∈ (bearTask s4 g t pa).tasks ∧
         ∀ x, pa = some x → x % 8 = 0 → cellState (bearTask s4 g t pa) x = (if lz then 2 else 1) ∧
           cellPayload (bearTask s4 g t pa) x = BitVec.ofNat 64 (2 ^ 48 + 65535 * 2 ^ 32 + (mkHandle s4 t).toNat))))) ∧
     (∀ q ctx head, canonical (laneAddr g lane a) = true → apertureOf (laneAddr g lane a) = .global →
       (laneAddr g lane a).toNat % 64 = 0 → enabledQueue s (g.core / 1024) q = some (ctx, head) → ctx = (launchD s g.launch).ctx →
       firstUnleased (launchD s g.launch) (vaOf (laneAddr g lane a)) 256 true false false = none →
       unstarted s (g.core / 1024) < 1024 →
       launchLane a q s g lane = ((takeLaunch s (g.core / 1024) q ctx (laneAddr g lane a) head none none none 0).1, .ok [] none)) ∧
     (∀ named, cancelLane d named s g lane =
       (cancelAll (putLane s g.id lane fun t => wrReg g.level t d (BitVec.ofNat 32 (named s g lane).status)) (named s g lane),
         .ok [] none)) ∧
     (watchOf g lane (laneAddr g lane a) (rdReg g.level (thr g lane) b).toNat = none →
       wptSetLane b a d s g lane = (putLane s g.id lane fun x => wrReg g.level x d 17, .ok [] none)) ∧
     (∀ w, watchOf g lane (laneAddr g lane a) (rdReg g.level (thr g lane) b).toNat = some w →
       (freeWatch s (watchCores s g w.scope) = [] →
         wptSetLane b a d s g lane = (putLane s g.id lane fun x => wrReg g.level x d 16, .ok [] none)) ∧
       (freeWatch s (watchCores s g w.scope) ≠ [] → ∃ i s1, i ∈ freeWatch s (watchCores s g w.scope) ∧
         { s1 with fresh := s.fresh } = s ∧
         wptSetLane b a d s g lane = (putLane (modWatch s1 (watchCores s g w.scope) fun m => fput m i w) g.id lane
           fun x => wrReg g.level x d (BitVec.ofNat 32 i), .ok [] none))) ∧
     (∀ w, fget (coreOf s g.core).wpts (rdReg g.level (thr g lane) b).toNat = some w → w.gang = g.id → w.lane = lane →
       wptClrLane b d s g lane = (putLane (modWatch s (watchCores s g w.scope) fun m => fdel m (rdReg g.level (thr g lane) b).toNat)
         g.id lane fun x => wrReg g.level x d 0, .ok [] none)) ∧
     ((∀ w, fget (coreOf s g.core).wpts (rdReg g.level (thr g lane) b).toNat = some w → w.gang ≠ g.id ∨ w.lane ≠ lane) →
       wptClrLane b d s g lane = (putLane s g.id lane fun x => wrReg g.level x d 1, .ok [] none)))

/-- R231, R232: `cpy.seal` makes a thread's unsealed copies its next batch and writes the batch's number; `cpy.wait`
and `cpy.vis` return where no lane has more batches unfinished, or not visible, than they name, and else wait; a gang
that is to stop does so there (`WaitingResults`); `cpy.stat` reads a thread's batch status, or the ticket of its last
copy on a channel. -/
def Obligations.BatchResults : Prop :=
  ∀ s g c, Issues s .none g c →
    let A := activeMask c
    (∀ d, windowFail g A [.reg d] = none →
      ((∀ l ∈ lanesOf A, unfinished s (thr g l) < 15) →
        ∃ t g', exec (.cpySeal d) s = .next t ∧ OnlyGang s t g g' ∧ OnlyThreads g g' ∧
          EachLane g g' A fun _ u v => WritesReg g.level (sealBatch s u) v d (BitVec.ofNat 32 u.nextBatch)) ∧
      ∀ L, L = maskOf ((lanesOf A).filter fun l => decide (15 ≤ unfinished s (thr g l))) → L ≠ 0 →
        exec (.cpySeal d) s = .next (blockAt s g c .none A 6 (.sealRoom L))) ∧
    (∀ n, mustStop s g = false → ((∀ l ∈ lanesOf A, unfinished s (thr g l) ≤ n) → exec (.cpyWait n) s = .next (complete s g c .none)) ∧
      ∀ L, L = maskOf ((lanesOf A).filter fun l => decide (n < unfinished s (thr g l))) → L ≠ 0 →
        exec (.cpyWait n) s = .next (blockAt s g c .none A 6 (.unfinished n L))) ∧
    (∀ sc n, mustStop s g = false → ((∀ l ∈ lanesOf A, invisible s (thr g l) ≤ n) → exec (.cpyVis sc n) s = .next (complete s g c .none)) ∧
      ∀ L, L = maskOf ((lanesOf A).filter fun l => decide (n < invisible s (thr g l))) → L ≠ 0 →
        exec (.cpyVis sc n) s = .next (blockAt s g c .none A 6 (.invisible n L))) ∧
    (∀ k d, Issues s .a g c → windowFail g A [.reg d] = none →
      ∃ t g', exec (.cpyStat k d) s = .next t ∧ OnlyGang (freeNat s).2 t g g' ∧ OnlyThreads g g' ∧
        EachLane g g' A fun l u v => WritesReg g.level u v d (if k.testBit 3
          then ((fget u.tickets (k % 8)).map fun q => BitVec.ofNat 32 (q * 2 ^ 20)).getD 0xFFFFFFFF
          else batchStatus s g l (freeNat s).1))

/-! ### The engine -/

/-- R273, R283 to R285, R290 to R296, R298 to R300: the engine's instructions, once for the gang, by a block gang
whose block holds the claim. `mma`, `mdrain`, `mzero` and `cbld` enter a command in the queue when it has room and
what they read is valid; `mfence` waits for its gang's commands; the ring instructions define, fill, free and reset a
ring and read its status. A task takes the fault 0x11, and a gang of another block waits for the claim; a gang that is
to stop does so at `mfence` and `ring.adv` (`WaitingResults`). Where more than one reading is possible, log entries
22, 23 and 29 say which the model takes. -/
def Obligations.EngineResults : Prop :=
  ∀ s g c cls, Issues s cls g c → 
    let A := activeMask c
    let k := lowest A
    let e := engineOf s g.core
    (g.task ≠ 0 → ∀ b a r, cls = .none →
      (mustStop s g = false → exec .mfence s = .next (engFault s g c .none (0x11, 0, 0)) ∧
        exec (.ringAdv b a r) s = .next (engFault s g c .none (0x11, 0, 0))) ∧
      exec (.ringRel b r) s = .next (engFault s g c .none (0x11, 0, 0)) ∧
      exec (.ringRelRst r) s = .next (engFault s g c .none (0x11, 0, 0))) ∧
    (g.task = 0 → ∀ o, e.owner = some o → o ≠ g.block → cls = .none → mustStop s g = false → exec .mfence s = .next (blockAt s g c .none A 3 .claim)) ∧
    (g.task = 0 → e.owner = some g.block →
      (cls = .none → mustStop s g = false → exec .mfence s = .next (if gangCmds s g = [] then complete s g c .none
        else blockAt s g c .none A 3 (.commands (gangCmds s g)))) ∧
      (∀ b, cls = .b → windowOnce g A [] [.reg b] = none → (rdReg g.level (thr g k) b).toNat < 65536 → e.cmds.length < 16 →
        exec (.mzero b) s = .next (enqueue s g c k (.zero (rdReg g.level (thr g k) b).toNat))) ∧
      (∀ a l bar, cls = .b → windowOnce g A [] [.pair a] = none → e.cmds.length < 16 →
        ownRange s g (laneAddr g k a) 32 false = .ok l → poisonedAt s l 32 = false →
        let bs := readBytes s l 32
        drainOk e bs (parseDrain bs none) = true → drainRanges s g (colourOf (laneAddr g k a)) (parseDrain bs none) = .ok () →
        drainBarrier s g (laneAddr g k a) (BitVec.ofNat 64 (leAt bs 0x10 8)) (bit (parseDrain bs none).mode 5) = .ok bar →
        exec (.mdrain a) s = .next (enqueue s g c k (.drain (parseDrain bs bar)))) ∧
      (∀ sh b a d l, cls = .b → windowOnce g A [.reg d] [.pair a, .reg b] = none → e.cmds.length < 16 →
        (∀ j ∈ lanesOf A, rdReg g.level (thr g j) d = rdReg g.level (thr g k) d) →
        let fw := (rdReg g.level (thr g k) d).toNat
        let sel := (rdReg g.level (thr g k) b).toNat
        formatOk fw = true → ownRange s g (laneAddr g k a) 32 false = .ok l → poisonedAt s l 32 = false →
        let bs := readBytes s l 32
        mmaOk e bs sel (parseMma bs sel fw sh none) = true →
        (bit (leAt bs 0xC 4) 1 = false → exec (.mma sh b a d) s = .next (enqueue s g c k (.mma (parseMma bs sel fw sh none)))) ∧
        (∀ off, bit (leAt bs 0xC 4) 1 = true → ownBarrier s g (BitVec.ofNat 64 (leAt bs 0x10 8)) = .ok off →
          exec (.mma sh b a d) s = .next (enqueue s g c k (.mma (parseMma bs sel fw sh (some off)))))) ∧
      (∀ b a sc first n bytes l, cls = .b → windowOnce g A [] [.pair a, .reg b] = none → e.cmds.length < 16 →
        loadSel (rdReg g.level (thr g k) b).toNat = some (sc, first, n, bytes) → ownRange s g (laneAddr g k a) bytes true = .ok l →
        exec (.cbld b a) s = .next (enqueue s g c k (.load sc first n l.off))) ∧
      (∀ r d, cls = .a → windowOnce g A [.reg d] [] = none → exec (.ringStat r d) s =
        .next (complete s (mapLanes A (fun _ t => wrReg g.level t d (ringWord (fget e.rings r))) g) c .a)) ∧
      (∀ r, cls = .none → ringClaimed s g.block r = false → exec (.ringRelRst r) s =
        .next (complete (modEngine (modRing s g.core r fun x => { x with entries := [], head := 0 }) g.core
          fun e => { e with cmds := e.cmds.map (cutCmd r) }) g c .none)) ∧
      (∀ b a r, cls = .b → windowOnce g A [] [.reg a, .reg b] = none →
        let base := (rdReg g.level (thr g k) a).toNat
        let shape := (rdReg g.level (thr g k) b).toNat
        let esize := shape % 2 ^ 12
        let count := shape / 2 ^ 12 % 2 ^ 9
        base % 256 = 0 → base < 2 ^ 20 → esize ≠ 0 → 0 < count → count ≤ 256 → shape / 2 ^ 21 % 8 = 0 → shape < 2 ^ 25 →
        base + 16 * esize * count ≤ ((blockOf s g.block).map Block.queueSize).getD 0 →
        (∀ x ∈ e.rings, x.1 ≠ r → ringsOverlap base (16 * esize * count) x.2 = false) →
        (∀ x, fget e.rings r = some x → ringIdle e r x = true) →
        exec (.ringDef b a r) s = .next (complete (modEngine s g.core fun e => { e with
          rings := fput e.rings r { base := base, esize := esize, count := count, keep := shape.testBit 24 } }) g c .b)) ∧
      (∀ b a r x l, cls = .none → mustStop s g = false → windowOnce g A [] [.pair a, .reg b] = none → fget e.rings r = some x →
        let n := (rdReg g.level (thr g k) b).toNat
        ownRange s g (laneAddr g k a) (16 * x.esize * n) true = .ok l → 1 ≤ n → n ≤ 256 → n ≤ x.count →
        (x.count - x.entries.length < n → exec (.ringAdv b a r) s = .next (blockAt s g c .none A 8 (.ringRoom r n))) ∧
        (n ≤ x.count - x.entries.length → poisonedAt s l (16 * x.esize * n) = false →
          exec (.ringAdv b a r) s = .next (complete (fillRing s g.core g.block r (readBytes s l (16 * x.esize * n))) g c .none))) ∧
      (∀ b r x, cls = .none → windowOnce g A [] [.reg b] = none → fget e.rings r = some x → x.keep = true →
        let n := (rdReg g.level (thr g k) b).toNat
        1 ≤ n → n ≤ (x.entries.filter REntry.ready).length → ringRead e r (g.bound.getD s.nextId) = false →
        exec (.ringRel b r) s = .next (complete (modRing s g.core r fun y => { y with entries := takeReady n y.entries, head := y.head + n })
          { g with bound := none } c .none))) ∧
    (c.hits = [] → (∀ i, decodeWord (wordOf c) = .ok i → syncInstr i = false) → ∀ lane body,
      ∃ x, (engineOf (enqueue s g c lane body) g.core).cmds = e.cmds ++ [x] ∧ x.body = body ∧ x.gang = g.id ∧
      x.lane = lane ∧ x.block = g.block ∧ x.launch = g.launch ∧ x.started = false)

/-! ### WIDE instructions -/

/-- R257, R259 to R269, R271, R272: the WIDE instructions act once for the gang. Wide values are 1,024 bits, one
register of every lane that has not exited, and a wide pair 2,048; `val` of R259 reads one as signed or natural. An
operand outside a window is the fault 0x03. A shift to the right is the floor. A dense product enters the array where
that admits it and no other gang's turn has come, and does not issue otherwise (R122, R261). The digits of `extr` and
`gchk` are natural, or balanced: a negative digit passes a carry of one to the slot above; `gchk` takes 0x21 where one
does not fit the result width, with 0 in `%tdone`. `cbdec` decodes with the table entry of its code, zero where its
block does not hold the claim; an entry with an uncorrectable error is 0x60 (R372, log entry 24). Where more than one
reading is possible, log entries 19, 20 and 21 say which the model takes. -/
def Obligations.WideResults : Prop :=
  let val := fun (g : Gang) (x k : Nat) => if g.gstate.getLsbD 16 ∧ 2 ^ (k - 1) ≤ x % 2 ^ k then ((x % 2 ^ k : Nat) : Int) - 2 ^ k else ((x % 2 ^ k : Nat) : Int)
  let slot : Gang → Nat := fun g => g.gstate.toNat % 2 ^ 7
  let scalar : Gang → Word → Nat → Word := fun g A b => rdReg g.level (thr g (lowest A)) b
  let shift := fun (v n : Int) => if 0 ≤ n then v * 2 ^ n.toNat else v / 2 ^ (-n).toNat
  (∀ b a d, ∀ r ∈ ([
      (.wadd b a d, [.win a, .win b], fun g _ => (rdWide g a : Int) + rdWide g b),
      (.wsub b a d, [.win a, .win b], fun g _ => (rdWide g a : Int) - rdWide g b),
      (.wneg a d, [.win a], fun g _ => -(rdWide g a : Int)),
      (.wshs b a d, [.win a, .reg b], fun g A => shift (val g (rdWide g a) 1024) ((scalar g A b).toInt * slot g)),
      (.wshb b a d, [.win a, .reg b], fun g A => shift (val g (rdWide g a) 1024) (scalar g A b).toInt),
      (.pack b a d, [.reg a, .reg b], fun g A => (rdWide g d : Int) + ((lanesOf A).map fun l =>
        val g (rdReg g.level (thr g l) a).toNat 32 * (2 : Int) ^ ((slot g * ((scalar g A b).toNat % 2 ^ 16 + l) : Nat))).sum)
      ] : List (Instr × List Opnd × (Gang → Word → Int))),
    ∀ s g c, Issues s .none g c → wideFail g (activeMask c) (.win d :: r.2.1) = none →
      ∃ t g', exec r.1 s = .next t ∧ OnlyGang s t g g' ∧ OnlyThreads g g' ∧
        EachLane g g' g.live fun l u v => WritesWin u v d (BitVec.ofInt 32 (r.2.2 g (activeMask c) / 2 ^ (32 * l)))) ∧
  (∀ b a d, ∀ r ∈ ([
      (.wmul b a d, fun g => (BitVec.ofNat 1024 (rdWide g a)).toInt * (BitVec.ofNat 1024 (rdWide g b)).toInt),
      (.wmuln b a d, fun g => (rdWide g a : Int) * rdWide g b),
      (.wmac b a d, fun g => (rdWidePair g d : Int) + val g (rdWide g a) 1024 * val g (rdWide g b) 1024)
      ] : List (Instr × (Gang → Int))),
    ∀ s g c, Issues s .a g c → wideFail g (activeMask c) (widePair d ++ [.win a, .win b]) = none →
      (arrayOpen s g.core = true → (engineOf s g.core).grant = none ∨ (engineOf s g.core).grant = some g.id →
        ∃ g', exec r.1 s = .next (issued (enterArray s g) g') ∧ OnlyThreads g g' ∧
          EachLane g g' g.live fun l u v => ∃ w, WritesWin u w d (BitVec.ofInt 32 (r.2 g / 2 ^ (32 * l))) ∧
            (d ≠ 0 → WritesWin w v (d + 1) (BitVec.ofInt 32 (r.2 g / 2 ^ (1024 + 32 * l)))) ∧ (d = 0 → v = w)) ∧
      (arrayOpen s g.core = false ∨ (∃ id, (engineOf s g.core).grant = some id ∧ id ≠ g.id) →
        exec r.1 s = .next { s with issuing := none })) ∧
  (∀ b a d, ∀ r ∈ ([(.wadd b a d, .none, [.win d, .win a, .win b]), (.wsub b a d, .none, [.win d, .win a, .win b]), (.wneg a d, .none, [.win d, .win a]),
      (.wshs b a d, .none, [.win d, .win a, .reg b]), (.wshb b a d, .none, [.win d, .win a, .reg b]), (.pack b a d, .none, [.win d, .reg a, .reg b]),
      (.wmul b a d, .a, widePair d ++ [.win a, .win b]), (.wmuln b a d, .a, widePair d ++ [.win a, .win b]),
      (.wmac b a d, .a, widePair d ++ [.win a, .win b]), (.wcmp b a d, .none, [.reg d, .win a, .win b])] : List (Instr × Cls × List Opnd)),
    ∀ s g c x lanes, Issues s r.2.1 g c → wideFail g (activeMask c) r.2.2 = some (x, lanes) →
      exec r.1 s = .next (faultAt s g c 0x03 (BitVec.ofNat 64 x) lanes 0)) ∧
  (∀ b a d s g c, Issues s .none g c → wideFail g (activeMask c) [.reg d, .win a, .win b] = none →
    ∃ t g', exec (.wcmp b a d) s = .next t ∧ OnlyGang s t g g' ∧ OnlyThreads g g' ∧ EachLane g g' (activeMask c) fun _ u v =>
      WritesReg g.level u v d (let x := val g (rdWide g a) 1024; let y := val g (rdWide g b) 1024
        if x < y then 0xFFFFFFFF else if x = y then 0 else 1)) ∧
  (∀ b a d s g c, Issues s .none g c →
    let m := scalar g (activeMask c) b
    let ds := slotDigits g a m.toNat
    let A := activeMask c
    let os := fun o : List Opnd => o ++ [.win a, .reg b] ++
      if a ≠ 0 ∧ windowBad g.level g.nregs (thr g (lowest A)) [.reg b] = none ∧ m.getLsbD 16 = false then [.win (a + 1)] else []
    (∀ x lanes, wideFail g A (os [.reg d]) = some (x, lanes) → exec (.extr b a d) s = .next (faultAt s g c 0x03 (BitVec.ofNat 64 x) lanes 0)) ∧
    (∀ x lanes, wideFail g A (os []) = some (x, lanes) → exec (.gchk b a) s = .next (faultAt s g c 0x03 (BitVec.ofNat 64 x) lanes 0)) ∧
    (wideFail g A (os [.reg d]) = none →
      ∃ t g', exec (.extr b a d) s = .next t ∧ OnlyGang s t g g' ∧ OnlyThreads g g' ∧
        EachLane g g' A fun l u v => WritesReg g.level u v d (BitVec.ofInt 32 (ds.getD l 0))) ∧
    (wideFail g A (os []) = none →
      ((∀ l ∈ lanesOf A, digitFits g (ds.getD l 0) = true) →
        ∃ t g', exec (.gchk b a) s = .next t ∧ OnlyGang s t g g' ∧ OnlyThreads g g' ∧ g'.threads = g.threads) ∧
      ∀ l ls, (lanesOf A).filter (fun l => !digitFits g (ds.getD l 0)) = l :: ls →
        let at_ := mkDbl (BitVec.ofNat 32 (m.toNat % 2 ^ 16 + l)) (BitVec.ofInt 32 (ds.getD l 0))
        exec (.gchk b a) s =
          .next (takeTrap s g { cause := 0x21, pc := instrPc c, loc := at_, lanes := maskOf (l :: ls), done := 0 } (bankAt g c)))) ∧
  (∀ g a k l, l < 32 → g.gstate.getLsbD 16 = false → 4 ≤ slot g → (slotDigits g a k).getD l 0 =
    (((if k.testBit 16 then rdWide g a % 2 ^ 1024 else rdWidePair g a % 2 ^ 2048) / 2 ^ (slot g * (k % 2 ^ 16 + l)) % 2 ^ slot g : Nat) : Int)) ∧
  (∀ g a k l, l < 32 → g.gstate.getLsbD 16 = true → 4 ≤ slot g →
    let X := if k.testBit 16 then val g (rdWide g a) 1024 else val g (rdWidePair g a) 2048
    let i := k % 2 ^ 16 + l
    let half : Int := 2 ^ (slot g - 1)
    let carried : Int := ((List.range i).map fun j => half * 2 ^ (slot g * j)).sum
    (slotDigits g a k).getD l 0 = ((X + carried) / 2 ^ (slot g * i) + half) % 2 ^ slot g - half) ∧
  (∀ g v, 1 ≤ g.gstate.toNat / 2 ^ 8 % 2 ^ 6 → (digitFits g v = true ↔
    let rw := g.gstate.toNat / 2 ^ 8 % 2 ^ 6
    if g.gstate.getLsbD 16 then -(2 ^ (rw - 1)) ≤ v ∧ v < 2 ^ (rw - 1) else v < 2 ^ rw)) ∧
  (∀ b a d, LaneResult (.gwid b a d) .none [.reg d, .reg a, .reg b] fun g _ _ u v => ∃ w : Nat,
    WritesReg g.level u v d (BitVec.ofNat 32 w) ∧
    let wx := (rdReg g.level u a).toNat % 2 ^ 8
    let wy := (rdReg g.level u a).toNat / 2 ^ 8 % 2 ^ 8
    let n := (rdReg g.level u b).toNat
    let enough := fun w => if g.gstate.getLsbD 16 then n * 2 ^ (wx + wy - 2) < 2 ^ (w - 1) else n * (2 ^ wx - 1) * (2 ^ wy - 1) < 2 ^ w
    let inRange := 1 ≤ wx ∧ wx ≤ 32 ∧ 1 ≤ wy ∧ wy ≤ 32 ∧ 1 ≤ n ∧ n ≤ 65535
    (w = 0 ∧ (¬ inRange ∨ ∀ x, 4 ≤ x → x ≤ 64 → ¬ enough x)) ∨
      (4 ≤ w ∧ w ≤ 64 ∧ inRange ∧ enough w ∧ ∀ x, 4 ≤ x → x < w → ¬ enough x)) ∧
  (∀ a d s g c, Issues s .none g c → windowFail g (activeMask c) [.reg d, .reg a] = none →
    let own := g.task = 0 ∧ claims s g.core g.launch g.cluster g.rank = true
    let bad := (lanesOf (activeMask c)).filter fun l =>
      (engineOf s g.core).poison.contains (2, (rdReg g.level (thr g l) a).toNat % 2 ^ 16 / 2 ^ 10)
    (own → (engineOf s g.core).cmds = [] → bad ≠ [] → exec (.cbdec a d) s =
      .next (failAt (freeNat s).2 g c .none 0x60 (BitVec.ofNat 64 (freeNat s).1) (maskOf bad) 0)) ∧
    ((own → (engineOf s g.core).cmds = [] ∧ bad = []) →
    ∃ t g', exec (.cbdec a d) s = .next t ∧ OnlyGang s t g g' ∧ OnlyThreads g g' ∧ EachLane g g' (activeMask c) fun _ u v => ∃ w : Word,
      let code := (rdReg g.level u a).toNat % 2 ^ 16
      (own → w = fgetD (engineOf s g.core).lattice (code / 2 ^ 8) 0) ∧ (¬ own → w = 0) ∧
      WithFlags u v (if (cbDecode w.toNat code).2 then 128 else 0) fun u v =>
        WritesReg g.level u v d (BitVec.ofNat 32 (cbPack (cbDecode w.toNat code).1))))

/-! ### Regions and marks -/

/-- R376 to R380, R395: entering a region raises the depth and puts the region on top, and leaving it takes the top
off, where it is that region; at depth 255, at depth 0 or for another region it is the fault 0x11 with nothing done.
An edge writes a trace record and, where a stop awaits the gang, stops it, with the region on top after the edge
(R428); it waits while the event of its stop has no room (R418, log entry 66). A mark is a trace record and nothing
else. -/
def Obligations.RegionResults : Prop :=
  ∀ s g c, Issues s .none g c →
    (∀ i, g.regionDepth ≠ 255 →
      let g1 : Gang := { g with regionDepth := g.regionDepth + 1, regions := (i :: g.regions).take 8 }
      (edgeStop s g i = none → exec (.regEnter i) s = .next (finish (traceGang s g1 3 []) g1 c .none)) ∧
      ((launchD s g.launch).desc.ntrace = 0 → edgeStop s g i = none → (launchOf s g.launch).isSome →
        ∃ t g', exec (.regEnter i) s = .next t ∧ OnlyGang s t g g' ∧ OnlyThreads g1 g' ∧ g'.threads = g.threads) ∧
      ∀ k, edgeStop s g1 i = some k →
        ((launchD s g.launch).stopMode ≠ 0 → eventRoom s (g.core / 1024) = false → exec (.regEnter i) s = .next { s with issuing := none }) ∧
        ((launchD s g.launch).stopMode = 0 ∨ eventRoom s (g.core / 1024) = true → exec (.regEnter i) s = .next (takeStop (traceGang s g1 3 [])
        (if k = 0 then { g1 with haltReq := false } else g1) c k 0x41 (BitVec.ofNat 64 i) (activeMask c) (activeMask c) i 0))) ∧
    (∀ i, g.regionDepth ≠ 0 → ((g.regions[0]?).getD 0xFFFF = i ∨ (g.regions[0]?).getD 0xFFFF = 0xFFFF) →
      let g1 : Gang := { g with regionDepth := g.regionDepth - 1,
                                regions := g.regions.tail ++ if 8 ≤ g.regionDepth - 1 then [0xFFFF] else [] }
      (edgeStop s g1 i = none → exec (.regLeave i) s = .next (finish (traceGang s g1 4 (leOf 2 i)) g1 c .none)) ∧
      ∀ k, edgeStop s g1 i = some k →
        ((launchD s g.launch).stopMode ≠ 0 → eventRoom s (g.core / 1024) = false → exec (.regLeave i) s = .next { s with issuing := none }) ∧
        ((launchD s g.launch).stopMode = 0 ∨ eventRoom s (g.core / 1024) = true → exec (.regLeave i) s = .next (takeStop (traceGang s g1 4 (leOf 2 i))
          (if k = 0 then { g1 with haltReq := false } else g1) c k 0x41 (BitVec.ofNat 64 i) (activeMask c) (activeMask c)
          ((g.regions[1]?).getD 0xFFFF) 0))) ∧
    (∀ i, g.regionDepth = 255 → exec (.regEnter i) s = .next (failAt s g c .none 0x11 0 (activeMask c) 0)) ∧
    (∀ i, g.regionDepth = 0 → exec (.regLeave i) s = .next (failAt s g c .none 0x11 0 (activeMask c) 0)) ∧
    (∀ i j, g.regionDepth ≠ 0 → g.regions[0]? = some j → j ≠ 0xFFFF → j ≠ i →
      exec (.regLeave i) s = .next (failAt s g c .none 0x11 (BitVec.ofNat 64 (j * 2 ^ 32 + i)) (activeMask c) 0)) ∧
    ∀ b k, windowOnce g (activeMask c) [] [.reg b] = none → exec (.tmark b k) s = .next (finish (traceGang s g 2
      (leOf 1 k ++ leOf 4 (rdReg g.level (thr g (lowest (activeMask c))) b).toNat)) g c .none)

/-! ### Fetch and issue -/

/-- R44, R113, R114: the clause of the top entry is fetched: a header address that is not a multiple of 4 is the fault
0x02, one that is not canonical 0x13, one outside the global window 0x15, and what the access to the header or to the
words finds is the fault of that access, all at the header with nothing executed. The words fetched are those of
memory, but for a word that has changed since the launch was submitted, which is its present or a former one, each
word by itself (R52). R12, R372: an uncorrectable error in the core's instruction cache gives 0x60 with the first such
granule, unless the cache has given that copy up and reads the code again. Where more than one reading is possible,
log entries 14, 64, 74 and 88 say which the model takes. -/
def Obligations.ClauseFetch : Prop :=
  ∀ s g, gangOf s (s.focus.headD 0) = some g → canFetch s g = true →
    let h := (topEntry g).pc
    let lanes := (topEntry g).mask &&& g.live
    (h.toNat % 4 ≠ 0 → exec .clauseFetch s = .next (headerFault s g 0x02 h h lanes)) ∧
    (h.toNat % 4 = 0 → canonical h = false → exec .clauseFetch s = .next (headerFault s g 0x13 h h lanes)) ∧
    (h.toNat % 4 = 0 → canonical h = true → apertureOf h ≠ .global → exec .clauseFetch s = .next (headerFault s g 0x15 h h lanes)) ∧
    (h.toNat % 4 = 0 → canonical h = true → apertureOf h = .global →
      (∀ s1 cause a col, fetchAt s g h 4 = (s1, .bad cause a col) → exec .clauseFetch s = .next (headerFault s1 g cause h a lanes)) ∧
      ∀ s1 pa e hdr s2, fetchAt s g h 4 = (s1, .ok pa e) →
        codeWord s1 g.launch pa = (hdr, s2) →
        let n := hdr.toNat / 2 ^ 20 % 16 + 1
        (hdrLegal hdr.toNat = false ∨ 4096 < h.toNat % 4096 + 4 * (n + 1) →
          exec .clauseFetch s = .next (modGang s2 g.id fun x => { x with fetched := some ⟨h, hdr, []⟩ })) ∧
        (hdrLegal hdr.toNat = true → h.toNat % 4096 + 4 * (n + 1) ≤ 4096 →
          (∀ s3 cause a col, fetchAt s2 g h (4 * (n + 1)) = (s3, .bad cause a col) →
            exec .clauseFetch s = .next (headerFault s3 g cause h a lanes)) ∧
          ∀ s3 pa e ws s4, fetchAt s2 g h (4 * (n + 1)) = (s3, .ok pa e) → codeWords g.launch n (pa + 4) s3 = (ws, s4) →
            ws.length = n ∧ exec .clauseFetch s = .next (modGang s4 g.id fun x => { x with fetched := some ⟨h, hdr, ws⟩ }))) ∧
    (∀ u n s1 pa e, globalAccess u (.fetch g.core) (launchD u g.launch) h n { x := true, colour := false } 0 = (s1, .ok pa e) →
      let bad := (granules pa n).filter fun k => (coreOf s1 g.core).badCode.contains k
      (bad = [] → fetchAt u g h n = (s1, .ok pa e)) ∧
      ∀ k, bad.head? = some k → ∃ s2, { s2 with fresh := s1.fresh, cores := s1.cores } = s1 ∧
        (fetchAt u g h n = (s2, .bad 0x60 (h + BitVec.ofNat 64 (k * 16 - pa)) 0) ∧ s2.cores = s1.cores ∨
          fetchAt u g h n = (s2, .ok pa e) ∧ ∀ j ∈ granules pa n, j ∉ (coreOf s2 g.core).badCode)) ∧
    ∀ t id pa n,
      let seen := fun (x : Word) (a : Nat) => x = BitVec.ofNat 32 (readNat t (physLoc a) 4) ∨
        ∃ k, (k, x) ∈ fgetD t.past (a / 4) [] ∧ (launchD t id).since < k
      seen (codeWord t id pa).1 pa ∧ { (codeWord t id pa).2 with fresh := t.fresh } = t ∧
      (codeWords id n pa t).1.length = n ∧ { (codeWords id n pa t).2 with fresh := t.fresh } = t ∧
      ∀ i x, (codeWords id n pa t).1[i]? = some x → seen x (pa + 4 * i)

/-- R45 to R50, R118: a fetched clause starts once its wait mask is clear. Its mask is the lanes of the top entry
whose predicate holds, negated where bit 31 says so; with no lane it is skipped, and otherwise its first instruction
issues: its gang's aging count and class start again (R123), its yield is over, the gangs under `yield` that waited for
it wait for it no more (R132), and the scheduler's units and operand log take the instruction. A reserved flag number is the fault 0x01, or 0x02 where the header was reached by a
transfer, with the lanes that would have been active; a clause that crosses a 4 KiB boundary is 0x02 with the lanes of
the entry; a word that is no instruction is the fault 0x01 at that word, with nothing of the clause executed. R366:
these precise faults come before a deferred fault, which comes before what else stops the gang at a clause start
(R234, R383). Where more than one reading is possible, log entries 13, 14, 34 and 74 say which the model takes. -/
def Obligations.ClauseStart : Prop :=
  ∀ s g f, gangOf s (s.focus.headD 0) = some g → g.fetched = some f → atClauseStart s g = true →
    let hdr := f.hdr.toNat
    let flag := fun k => k < 12 ∨ k = 15
    let legal := flag (hdr / 2 ^ 12 % 16) ∧ flag (hdr / 2 ^ 16 % 16)
    let n := hdr / 2 ^ 20 % 16 + 1
    let crossing := 4096 < f.h.toNat % 4096 + 4 * (n + 1)
    let A := clauseMask g f.hdr
    (∀ l < 32, inMask A l = true ↔ inMask (topEntry g).mask l = true ∧ inMask g.live l = true ∧
      rdPred (thr g l) (hdr / 2 ^ 24 % 128) = decide (hdr < 2 ^ 31)) ∧
    (¬ legal → exec .clauseStart s = .next (headerFault s g (if (topEntry g).target then 0x02 else 0x01) f.h
      (if (topEntry g).target then f.h else BitVec.ofNat 64 hdr) A)) ∧
    (legal → crossing → exec .clauseStart s = .next (headerFault s g 0x02 f.h f.h ((topEntry g).mask &&& g.live))) ∧
    (legal → ¬ crossing → flagsClear g (hdr % 2 ^ 12) = false → exec .clauseStart s = .next s) ∧
    (legal → ¬ crossing → flagsClear g (hdr % 2 ^ 12) = true →
      (∀ k, firstIllegal (f.words.map BitVec.toNat) 0 = some k → exec .clauseStart s =
        .next (headerFault s g 0x01 (pcAt f.h k) (BitVec.ofNat 64 ((f.words[k]?).getD 0).toNat) A)) ∧
      (firstIllegal (f.words.map BitVec.toNat) 0 = none →
        (deferredDue s g = true → exec .clauseStart s = .next { s with agenda := .event .deferredFaultDelivery [g.id] :: s.agenda }) ∧
        (deferredDue s g = false → g.level = 0 → g.hits ≠ [] →
          exec .clauseStart s = .next (if hitsHeld s g = true then s else deliverHits s g)) ∧
        (deferredDue s g = false → g.level ≠ 0 ∨ g.hits = [] →
          (A = 0 → ∃ t g', exec .clauseStart s = .next t ∧
            gangOf t g.id = some g' ∧ OnlyThreads { g with fetched := none } g' ∧ g'.threads = g.threads ∧ g'.clause = none ∧
            g'.frontier = insertEntries g.frontier.tail [{ topEntry g with pc := nextHeader f.h f.words.length, target := false }]) ∧
          (A ≠ 0 → ∃ t, exec .clauseStart s = .next t ∧ t.issuing = some g.id ∧
            { t with issuing := s.issuing, gangs := s.gangs, cores := s.cores } = s ∧
            (∀ x, x.id ≠ g.id → gangOf s x.id = some x → ∃ x', gangOf t x.id = some x' ∧
              let same := x.core = g.core ∧ x.slot.isSome ∧ schedOf x = schedOf g
              (¬ same ∨ x.yieldFor = none → x' = x) ∧ ∀ ids, same → x.yieldFor = some ids →
                let left := ids.filter fun i => i ≠ g.id
                x' = if left = [] then { x with yielded := false, yieldFor := none } else { x with yieldFor := some left }) ∧
            (∀ k, { coreOf t k with divFree := (coreOf s k).divFree, sfuFree := (coreOf s k).sfuFree, oplog := (coreOf s k).oplog } = coreOf s k) ∧
            gangOf t g.id = some { g with fetched := none, clause := some { h := f.h, hdr := f.hdr, words := f.words, act := A },
                                          aging := 0, curClass := baseClass s g, yielded := false, yieldFor := none }))))

/-- R122: a gang of a scheduler is eligible where it could issue and is not marked for eviction, and, under `yield`,
where every such gang is (R132); one could issue the next instruction of its clause where the flag, the interlocks and
waits in place, and the unit let it, the array among the units; a gang that waits or is stopped could not. R122 to R125: a scheduler selects, of
its eligible gangs, one of the highest class, and of those the one placed first; where there is none, one marked for
eviction may go on to its blocking point (log entry 15). When it issues its aging count is 0 again and its class its
base class, an instruction that has issued and waited for its unit apart; every other eligible gang ages by one, and
rises in class at each multiple of 256; no gang of another scheduler, no thread and no byte changes. A gang under
`yield` waits for the gangs that are eligible on the clk after, and no longer where there is none (R132). The
histogram of eligible gangs counts their number; where there is none that of stalls counts the reason of the oldest
gang. With scheduler 0 a clk of the core begins, and the others follow.
Where more than one reading is possible, log entries 15, 16, 17, 19, 38, 43 and 65 say
which the model takes. -/
def Obligations.IssueSelection : Prop :=
  (∀ l g, foremost l = some g → g ∈ l ∧ ∀ x ∈ l, x.curClass < g.curClass ∨ (x.curClass = g.curClass ∧ g.placed ≤ x.placed)) ∧
  (∀ l, foremost l = none ↔ l = []) ∧
  (∀ s core sch,
     let own := fun x => x ∈ s.gangs ∧ x.core = core ∧ x.slot.isSome ∧ schedOf x = sch ∧ couldIssue s x = true ∧ evictionAsked s x = false
     (∀ g, g ∈ eligible s core sch ↔ own g ∧ (g.yielded = true → ∀ x, own x → x.yielded = true)) ∧
     (∀ g, evictionAsked s g = true ↔ g.marked = true ∨ (launchD s g.launch).preempt = true) ∧
     (eligible s core sch ≠ [] → selectable s core sch = eligible s core sch)) ∧
  (∀ s g,
     (∀ c, g.clause = some c → g.wait = .none → (couldIssue s g = true ↔ g.slot.isSome ∧ g.pending = none ∧ released s g = true ∧
       g.compare = none ∧ g.diverges = none ∧ heldAt s g c = none ∧ ∀ i, decodeWord (wordOf c) = .ok i → flagFull g c (clsOf i) = false ∧
         schedulerUnit s g i = true ∧ lowestOpen s g c i = true ∧
         (denseInstr i = true → arrayOpen s g.core = true ∧ (engineOf s g.core).grant = some g.id) ∧ ¬ (queues i = true ∧ (engineOf s g.core).owner = some g.block ∧ 16 ≤ (engineOf s g.core).cmds.length))) ∧
     ((∃ m, g.wait = .flags m) ∨ (∃ st c t, g.wait = .blocked st c t) ∨ g.wait = .stopped ∨ (g.clause = none ∧ g.fetched = none) →
       couldIssue s g = false) ∧
     (∀ m, g.wait = .flags m → stallOf s g = 1) ∧ (g.wait = .unit → stallOf s g = 3) ∧ (g.wait = .stopped → stallOf s g = 11) ∧
     (∀ st c t, g.wait = .blocked st c t → stallOf s g = if st = 13 ∧ evictionAsked s g = true then 12 else st) ∧
     (∀ c, g.wait = .none → g.pending = none → g.clause = some c →
       (flagRoom g c = false → stallOf s g = 1) ∧ (∀ r, flagRoom g c = true → heldAt s g c = some r → stallOf s g = r) ∧
       (flagRoom g c = true → heldAt s g c = none → unitFree s g c = false → stallOf s g = 3)) ∧
     (g.wait = .none → g.pending = none → g.clause = none → g.fetched = none → stallOf s g = 0)) ∧
  ∀ s core sch, s.focus = [core, sch] → sch < 4 → coreExists core = true →
    let s0 := if sch = 0 then tick s core else s
    let s1 := countClk s0 core sch
    let stall := ((oldest (candidates s0 core sch)).map (stallOf s0)).getD 14
    (sch = 0 → s0.gangs = s.gangs ∧ s0.mem = s.mem ∧ (∀ g ∈ s.gangs, g.slot.isSome → g.core = core →
        (coreOf s0 core).clk + s0.idleClk = (coreOf s core).clk + s.idleClk + 1) ∧
      s0.agenda = [.event .issueSelect [core, 1], .event .issueSelect [core, 2], .event .issueSelect [core, 3]] ++ s.agenda) ∧
    (∀ i, fgetD (coreOf s1 core).helig i 0 = fgetD (coreOf s0 core).helig i 0 +
      if i = 32 * sch + Nat.min (eligible s0 core sch).length 16 then 1 else 0) ∧
    (∀ i, fgetD (coreOf s1 core).hstall i 0 = fgetD (coreOf s0 core).hstall i 0 +
      if eligible s0 core sch = [] ∧ i = 32 * sch + stall then 1 else 0) ∧
    (foremost (selectable s1 core sch) = none → ∃ t, exec .issueSelect s = .next t ∧ t.issuing = s.issuing ∧ t.agenda = s0.agenda ∧
      t.mem = s.mem ∧ ∀ i, (gangOf t i).map (fun x => (x.threads, x.clause, x.aging)) = (gangOf s i).map fun x => (x.threads, x.clause, x.aging)) ∧
    let u := yieldClk s1 core sch
    (let others := ((candidates s1 core sch).filter fun g => couldIssue s1 g && !evictionAsked s1 g && !g.yielded).map Gang.id
     u.mem = s.mem ∧ ∀ x, gangOf s1 x.id = some x → ∃ y, gangOf u x.id = some y ∧
       (x ∉ candidates s1 core sch ∨ x.yielded = false → y = x) ∧
       (x ∈ candidates s1 core sch → x.yielded = true → y = if others = [] then { x with yielded := false, yieldFor := none }
         else { x with yieldFor := some (x.yieldFor.getD others) })) ∧
    ∀ g, foremost (selectable s1 core sch) = some g → gangOf s g.id = some g →
      ∃ t g', exec .issueSelect s = .next t ∧ gangOf t g.id = some g' ∧ t.mem = s.mem ∧ g'.threads = g.threads ∧ g'.clause = g.clause ∧
        (g.clause.isSome → t.issuing = some g.id) ∧
        (g.clause.isSome → g.wait ≠ .unit → g'.aging = 0 ∧ g'.curClass = baseClass s g ∧ g'.yielded = false) ∧
        (g.clause.isSome → g.wait = .unit → g'.aging = g.aging ∧ g'.curClass = g.curClass) ∧
        (g.clause = none → t.issuing = s.issuing ∧ t.agenda.head? = some (.event .clauseStart [g.id]) ∧ g'.aging = g.aging) ∧
        ∀ x, x.id ≠ g.id → gangOf s x.id = some x →
          let older := x.id ∈ (eligible u core sch).map Gang.id
          (∀ y ∈ eligible u core sch, y.id = x.id → (y.aging + 1) % 256 = 0 → .event .agingClassRise [x.id] ∈ t.agenda) ∧
          ∃ x', gangOf t x.id = some x' ∧ { x' with aging := x.aging, yielded := x.yielded, yieldFor := x.yieldFor } = x ∧
            x'.aging = x.aging + if older then 1 else 0

/-- R53, R55, R123: the events of one gang between its instructions. At each multiple of 256 of its aging count its
class rises by one, up to 8; a counted instruction that completes lowers its flag by one; a gang that waits for flags
goes on when they are clear. R97, R234, R256, R261, R367, R368, R391, R402, R426: the events of a gang that waits. A
blocked gang, or one without a slot, whose launch ends stops; one whose wake record could not be written has it
written; one in its slot whose condition holds goes on, unless it is to be evicted first; one without a slot is marked
for placement; an `mwait` ends at its limit of 2^20 clk; a gang asked to gives up its slot, once what it has issued is
performed, with its threads kept, or asks for the arena; the first deferred fault is taken as a trap; a waiting
`migrate` goes on in the landing slot of its new core with status 0; the next dense product, round robin over the
schedulers after the one last served, has its turn when the array admits it; each scheduler's oldest gang is sampled
once in each period; a gate that admitted nothing for 2^24 clk diverges. R371: a parity error is replayed where the
operand log holds the value, and is 0x60 at an address the spec leaves open otherwise (log entries 37 and 69). Where
more than one reading is possible, log entries 19, 34, 35, 36, 39 and 60 say which the model takes. -/
def Obligations.GangEvents : Prop :=
  (∀ s g, gangOf s (s.focus.headD 0) = some g →
     (g.aging ≠ 0 → g.aging % 256 = 0 → exec .agingClassRise s = .next (setGang s { g with curClass := Nat.min 8 (g.curClass + 1) })) ∧
     (g.completing ≠ [] → ∃ t g' k, exec .instructionComplete s = .next t ∧ k ∈ g.completing ∧ gangOf t g.id = some g' ∧
       { t with gangs := s.gangs, fresh := s.fresh } = s ∧ (∀ h, h ≠ g.id → gangOf t h = gangOf s h) ∧
       { g' with flags := g.flags, completing := g.completing } = g ∧ g'.completing.length + 1 = g.completing.length ∧
       (g.flags.length = 12 → k < 12 → flagCount g' k = flagCount g k - 1 ∧ ∀ j, j ≠ k → flagCount g' j = flagCount g j)) ∧
     ∀ m, g.wait = .flags m →
       (flagsClear g m.toNat = true → exec .flagWaitResume s = .next (setGang s { g with wait := .none })) ∧
       (flagsClear g m.toNat = false → exec .flagWaitResume s = .next s)) ∧
  (∀ s,
     (∀ g, gangOf s (s.focus.headD 0) = some g →
       (g.wait = .stopped → exec .gangWake s = .next (endStopped s g)) ∧
       (g.wait ≠ .stopped → (compareDue s g = true ∨ g.compare = none ∧ divergeDue s g = true) → exec .gangWake s = .next (settleReplay s g)) ∧
       (g.slot = none → g.wait ≠ .stopped → g.compare = none → g.diverges = none → mustStop s g = true → exec .gangWake s = .next (stopGang s g)) ∧
       (g.blocked = true → g.compare = none → g.diverges = none →
         (mustStop s g = true → exec .gangWake s = .next (stopGang s g)) ∧
         (mustStop s g = false → wakeOwing s g = true → exec .gangWake s = .next (writeWake s g.id false)) ∧
         (mustStop s g = false → wakeOwing s g = false →
           (g.slot.isSome → g.level = 0 → g.hits ≠ [] → exec .gangWake s = .next (if hitsHeld s g = true then s else deliverHits s g)) ∧
           (g.slot.isSome → (g.level ≠ 0 ∨ g.hits = []) → wakes s g = true → evictsFirst s g = false →
             exec .gangWake s = .next (goOn (settleWait s g) g.id) ∧
             ∀ c st t, taskOf s g.task = none → g.clause = some c →
               g.wait = .blocked st (.blkGen true) t ∨ g.wait = .blocked st (.cluGen true) t ∨ (∃ l b w, g.wait = .blocked st (.phase l b w) t) →
               exec .gangWake s = .next (complete s { g with wait := .none } c .none)) ∧
           (g.slot = none → g.woken = none → (wakes s g = true ∨ deferredDue s g = true) →
             exec .gangWake s = .next (markWoken (settleWait s g) g.id)))) ∧
       (∀ l t τ, g.wait = .blocked 9 (.mwait l false t) τ → t + 2 ^ 20 ≤ clkOf s g.core →
         exec .mwaitTimeout s = .next (setGang s { g with wait := .blocked 9 (.mwait l true t) τ })) ∧
       ((g.marked = true ∨ (launchD s g.launch).preempt = true) → evictReady g = true →
         (∀ u, evictGang s g false = some u → exec .gangEviction s = .next u ∧
           ∀ o, gangOf (drainGang s g.id) g.id = some o → (outstanding g = [] → o = g) ∧
             ∃ g', gangOf u g.id = some g' ∧ g'.slot = none ∧ g'.marked = false ∧ g'.threads = o.threads ∧ g'.clause = o.clause) ∧
         (evictGang s g false = none → exec .gangEviction s = .next (askArena s g false))) ∧
       (∀ n c cause loc, deferredFaults s g.id = [(n, c, cause, loc)] → deferredBusy g = false → deliverable s g = true →
         c.state = .stopped cause loc false n → exec .deferredFaultDelivery s = .next (takeTrap
           (modCopy (unparkTask s g.task) c.id fun x => { x with state := .stopped cause loc true n }) g
           { cause := cause, deferred := true, pc := c.pc, loc := loc, lanes := bitMask c.lane }
           { frontier := g.frontier, clause := g.clause, wait := g.wait, copy := some c.id, copyLane := c.lane })) ∧
       (∀ k d c st die t, g.wait = .blocked st (.landing die d) t → settled s g = true → g.slot.isSome → mustStop s g = false →
         (admitting s die (gangBytes' s g)).head? = some k → g.clause = some c → c.hits = [] →
         (∀ i, decodeWord (wordOf c) = .ok i → syncInstr i = false) →
         ∃ t g', exec .migrateMove s = .next t ∧ t.issuing = s.issuing ∧ gangOf t g.id = some g' ∧ g'.core = k ∧ g'.slot.isSome ∧
           g'.wait = .none ∧ g'.task = g.task ∧ EachLane g g' (activeMask c) fun _ u v => WritesReg g.level u v d 0) ∧
       (∀ c lane pred number, s.focus = [g.id, lane, pred, number] → g.clause = some c → g.pending = none → g.wait = .none →
         s.issuing ≠ some g.id →
         let kept := ∃ w ∈ fgetD (coreOf s g.core).oplog (schedOf g) [], w.gang = g.id ∧ w.pred = decide (pred ≠ 0) ∧ (lane, number) ∈ w.lanes
         (kept → exec .parityReplay s = .next (countTelemetry s (g.core / 1024) 1)) ∧
         (¬ kept → exec .parityReplay s =
           .next (failAt (freeNat s).2 g c .none 0x60 (BitVec.ofNat 64 (freeNat s).1) (activeMask c) 0)))) ∧
     (∀ g core, s.focus = [core] → arrayOpen s core = true → (∀ x ∈ denseGangs s core, (engineOf s core).grant ≠ some x.id) →
       nextDense s core = some g → exec .denseProductAdmit s = .next (modEngine s core fun e => { e with grant := some g.id })) ∧
     (∀ g core, nextDense s core = some g → g ∈ denseGangs s core ∧ ∃ k < 4, schedOf g = ((engineOf s core).lastServed + 1 + k) % 4 ∧
       ∀ j < k, ∀ x ∈ denseGangs s core, schedOf x ≠ ((engineOf s core).lastServed + 1 + j) % 4) ∧
     (∀ L core k, launchOf s (s.focus.headD 0) = some L → s.focus.getD 1 0 = core → sampleDue s L core = some k →
       exec .traceSample s = .next (modLaunch ((List.range 4).foldl (sampleSched L.id core) s) L.id fun x =>
         { x with sampled := fput x.sampled core k })) ∧
     ∀ L w p core who first since gid, launchOf s (s.focus.headD 0) = some L → s.focus.getD 1 0 = w → s.focus.getD 2 0 = p →
       L.log.diverged = false → longestWait (gateQueue s L.id ⟨w, p⟩) = some (core, since, first) → since + 2 ^ 24 ≤ clkOf s core →
       waitingAt s L.id ⟨w, p⟩ = some (core, who) → awaitedGang s L w p = some gid →
       exec .gateStallDivergence s = .next (diverge s L.id core who 4 gid (countsOf s L gid).1
         (countsOf s L gid).2.1 (countsOf s L gid).2.2 w))

/-! ### Copies and the engine at work -/

/-- R18, R209, R217, R218, R224 to R227, R229, R233, R237, R292: the events of the copy unit. The oldest copy of a
channel starts. A copy into rings claims its entries in a rank that has room: as many slots as it needs, all free and
all different, listed as its own and appended to the ring, which is its block's also where the claim has passed on. A copy whose next unit can be reached moves one unit, and
the waits that this ends are over, or it meets a fault, and stops. A unit that is not at fault and has one element is,
coming in, the element of global memory converted to the scratchpad's format, or zero outside the map, and is written
at its place in the scratchpad, the balance falling by its bytes; going out it is first read from the scratchpad, and
later converted and written at its element. A line of a prefetch that is reached counts by its bytes and is present; a
line that faults stops the prefetch. A line that arrives is present, and its slice holds no more lines than it has
room for. Where more than one reading is possible, log entries 57, 61 and 91 say which the model takes. -/
def Obligations.CopyEvents : Prop :=
  ∀ s,
    (∀ c cs, channelCopies s (s.focus.headD 0) (s.focus.getD 1 0) = c :: cs → c.state = .queued →
      exec .copyChannelStart s = .next (modCopy s c.id fun x => { x with state := .active })) ∧
    (∀ c r ring, copyOf s (s.focus.headD 0) = some c → (claimRanks s c).find? (fun r => r.1 == s.focus.getD 1 c.rank) = some r →
      ringRoom s c r = some ring → ∃ slots : List Nat,
        slots.length = entriesOf c ring ∧ slots.Nodup ∧ (∀ k ∈ slots, ∀ e ∈ ring.entries, e.slot ≠ k) ∧
        exec .ringClaim s = .next (modCopy (modBlockRing s r.2 c.ringId fun x =>
            { x with entries := x.entries ++ slots.map fun k => { slot := k } }) c.id fun x =>
          { x with slots := c.slots ++ [(r.1, slots)], claimed := c.ranks.all fun y => (c.slots ++ [(r.1, slots)]).any fun z => z.1 == y.1 })) ∧
    (∀ c, copyOf s (s.focus.headD 0) = some c → movable c = true → copyTravels s c = true →
      (∀ t, moveUnit s c = (t, none) → exec .copyDelivery s = .next (sweepClusters t)) ∧
      ∀ t f, moveUnit s c = (t, some f) → exec .copyDelivery s = .next (sweepClusters (copyFault t ((copyOf t c.id).getD c) f))) ∧
    (∀ c, c.kind ≠ .out → c.ranks.length ≤ 1 → c.toRing = false → c.fault = none → c.map.fmt ≠ 12 → unitElems c.map c.cvt = 1 →
      let n := unitBytes c.map c.cvt
      let place := match c.ranks with | [] => Place.priv c.gang | r :: _ => .scratch r.2
      let done := fun (t : State) (x : Nat) (fl : Word) =>
        (advanceCopy (setCwp (lowerAll (writeBytes t ⟨place, 16 * c.dst + c.pos * n⟩ (leOf n x)) c n) c (c.pos * n + n))
          { c with pos := c.pos + 1, aflags := c.aflags ||| fl }, none)
      ∀ t, cutOff t c (c.pos * n) n = none → spaceClash t c (c.pos * n) n = none →
        (elemAt s c c.pos false = (t, .nothing) → moveUnit s c = done t 0 0) ∧
        ∀ ea pa leaf, elemAt s c c.pos false = (t, .at_ ea pa leaf) →
          let side := sideFmt c.map c.cvt
          let r := copyConvert c.map.fmt side (bits c.cvt 4 2) (bit c.cvt 6) (elemPattern t c c.pos pa leaf)
          moveUnit s c = done t (r.1 % 2 ^ elemBits side) r.2) ∧
    (∀ c, c.kind = .out → unitElems c.map c.cvt = 1 →
      (c.buf = [] → sourceFault s c = none → moveUnit s c = (modCopy s c.id fun x => { x with
        taken := c.taken + 1,
        buf := [readBytes s (sourceLoc c (c.taken * unitBytes c.map c.cvt)) (unitBytes c.map c.cvt)] }, none)) ∧
      ∀ bs rest ea pa leaf t, c.buf = bs :: rest → c.taken = c.units → elemAt s c c.pos true = (t, .at_ ea pa leaf) →
        let side := sideFmt c.map c.cvt
        let r := copyConvert side c.map.fmt (bits c.cvt 4 2) (bit c.cvt 6) (natOf bs % 2 ^ elemBits side)
        let c' := { c with pos := c.pos + 1, buf := rest, aflags := c.aflags ||| r.2 }
        let u := lowerAll (modCopy (writeElem c t c.pos ea pa r.1) c.id fun _ => c') c bs.length
        moveUnit s c = (if c.pos + 1 = c.units then removeCopy u c' else u, none)) ∧
    (∀ c, copyOf s (s.focus.headD 0) = some c → c.kind = .pf → c.state = .active →
      let i := (uncounted c).headD c.pos
      (∀ f, c.fault = some f → exec .prefetchLinePresent s = .next (sweepClusters (copyFault s c f))) ∧
      (∀ t cause loc col, c.fault = none → lineAccess s c i = (t, .bad cause loc col) →
        exec .prefetchLinePresent s = .next (sweepClusters (copyFault t c (cause, loc, col)))) ∧
      ∀ t pa leaf, c.fault = none → lineAccess s c i = (t, .ok pa leaf) → linkOpen t pa channelRequest = true →
        linkOpen t pa channelResponse = true →
        let c1 := { c with counted := i :: c.counted }
        exec .prefetchLinePresent s = .next (sweepClusters (advanceCopy (lowerAll (touchLine t (pa / 128)) c (lineOf c i).2)
          (c1.settleLines (c1.counted.length + 1))))) ∧
    let line := s.focus.headD 0
    ∃ t, exec .l2Fill s = .next t ∧ line ∈ t.lines ∧ t.mem = s.mem ∧ t.copies = s.copies ∧
      (∀ x ∈ t.lines, x = line ∨ x ∈ s.lines) ∧
      ((sliceMates s line).length + (if line ∈ s.lines then 1 else 0) ≤ sliceLines (128 * line / 2 ^ 46) →
        (sliceMates t line).length + 1 ≤ sliceLines (128 * line / 2 ^ 46))

/-- R261, R274 to R280, R285 to R288, R296 to R298, R300, R322, R402: the events of the engine. A command that may
start starts: an operation that asks for it zeroes its cells, a drain converts its cells and writes them, and zeroes
them where it says so, a load reads its source. The foremost ready K-chunk fires with the bytes of its entries; when
it completes, each cell takes its K-blocks in ascending order (for integers, the sum of all products modulo 2^32), no
other cell changes, its clk is kept for the turns of the dense products, and the heads of consume-mode rings advance. A command completes
behind those before it where it arrives: its flags join the thread's, it arrives, and leaves the queue; an operation
that a reset cut sets the rings' cut bits; at a gate of a replay the arrival waits. A zeroing completes with its tiles
zero, a load with its entries in place. Poison in what is read ends the launch, with a free address, and so does
poison in a replayed log. Where more than one reading is
possible, log entries 19, 24 to 28 say which the model takes. -/
def Obligations.EngineEvents : Prop :=
  ∀ s,
    let core := s.focus.headD 0
    let e := engineOf s core
    let cellOf := fun k => fgetD e.acc k 0
    (∀ c, (startable e).find? (fun x => x.id == s.focus.getD 1 0) = some c →
      (∀ m, c.body = .zero m → exec .engineCommandStart s = .next (modCmdOf s core c.id fun y => { y with started := true })) ∧
      (∀ x, c.body = .mma x → x.zero = false →
        exec .engineCommandStart s = .next (modCmdOf s core c.id fun y => { y with started := true })) ∧
      (∀ x, c.body = .mma x → x.zero = true → exec .engineCommandStart s =
        .next (modCmdOf (zeroTiles s core (tilesFrom x.tile (x.m * x.n))) core c.id fun y => { y with started := true })) ∧
      (∀ x, c.body = .drain x → exec .engineCommandStart s = .next (startDrain s core c x)) ∧
      ∀ sc i n src, c.body = .load sc i n src → exec .engineCommandStart s = .next (startLoad s core c sc n src)) ∧
    (∀ tiles k, (k / 4096 ∈ tiles → fgetD (engineOf (zeroTiles s core tiles) core).acc k 0 = 0) ∧
      (k / 4096 ∉ tiles → fgetD (engineOf (zeroTiles s core tiles) core).acc k 0 = cellOf k)) ∧
    (∀ c x, cmdOf s core c.id = some c → c.body = .drain x →
      let first := 4096 * x.tile
      let n := x.rows * x.cols
      let es := (List.range n).map fun k => drainElem x (cellOf (first + k))
      let t := startDrain s core c x
      (storePoisoned e 0 (cellGranules first n) = true → t = cmdError s core c) ∧
      (storePoisoned e 0 (cellGranules first n) = false → x.ring = none → x.mx = false →
        t.mem = s.mem ∧ cmdOf t core c.id = some { c with started := true, acted := true, aflags := (es.map Prod.snd).foldl (· ||| ·) 0 } ∧
        (∀ k, fgetD (engineOf t core).acc k 0 = if bit x.mode 4 = true ∧ first ≤ k ∧ k < first + n then 0 else cellOf k) ∧
        ∀ b, blockOf s c.block = some b → x.fmt ∈ [7, 8, 9, 11] → x.dst + n * (elemBits x.fmt / 8) ≤ b.pad.size →
          readBytes t ⟨.scratch c.block, x.dst⟩ (n * (elemBits x.fmt / 8)) = es.flatMap fun y => leOf (elemBits x.fmt / 8) y.1)) ∧
    (∀ c x a b, firable s core = some c → c.body = .mma x → chunkEntries e x c.chunk = some (a, b) →
      (chunkPoisoned e c x a b (chunkData s c x a b) = true → exec .chunkFire s = .next (cmdError s core c)) ∧
      ∀ k, blockOf s c.block = some k →
        let data := (match a with | some o => rdBytes k.queue o (elemBits x.afmt * (x.m * x.kc) / 8) | none => []) ++
          rdBytes k.queue b (elemBits x.bfmt * (x.n * x.kc) / 8)
        chunkPoisoned e c x a b data = false → exec .chunkFire s = .next (modCmdOf s core c.id fun y =>
          { y with firing := true, data := data })) ∧
    (∀ c x, e.cmds.find? EngCmd.firing = some c → c.body = .mma x → x.tileA = none ∨ x.afmt ≠ 12 →
      let r := foldChunk x e (fun n => Config.freeNat (s.fresh + n)) c.chunk c.data
      exec .kChunkComplete s = .next (c.body.rings.foldl (advanceRing core c.cuts)
        (modCmdOf (modEngine s core fun e => { e with acc := r.1, lastChunk := some (clkOf s core) }) core c.id fun y =>
          { y with firing := false, chunk := y.chunk + 1, data := [], aflags := y.aflags ||| r.2 }))) ∧
    (∀ x free chunk data, x.tileA = none →
      let t := (foldChunk x e free chunk data).1
      let F := ((mmaClass x.afmt).map fun k => k.1).getD 8
      let dataA := data.take (elemBits x.afmt * (x.m * x.kc) / 8)
      let dataB := data.drop (elemBits x.afmt * (x.m * x.kc) / 8)
      (∀ k, k < 4096 * x.tile ∨ 4096 * x.tile + x.m * x.n ≤ k → fgetD t k 0 = cellOf k) ∧
      ∀ i j, i < x.m → j < x.n →
        let k := 4096 * x.tile + i * x.n + j
        let side := fun (fmt : Nat) (bs : List Byte) (n b : Nat) => entrySide (fun l => fgetD e.lattice l 0) fmt F x.kc bs n b
        let code := fun (base rows n b : Nat) => scaleCode e.scale x.scale base rows n (chunk * (x.kc / 32) + b)
        (x.fp = true → fgetD t k 0 = (List.range (x.kc / 32)).foldl (fun acc b =>
          (foldFp acc (side x.afmt dataA i b) (side x.bfmt dataB j b) (code x.ascale x.m i b) (code x.bscale x.n j b)).1) (cellOf k)) ∧
        (x.fp = false → x.afmt < 4 → x.bfmt < 4 → x.kc % 32 = 0 → fgetD t k 0 = BitVec.ofInt 32 ((cellOf k).toInt +
          ((List.range x.kc).map fun l => elemInt x.afmt (elemOf dataA x.afmt (i * x.kc + l)) *
            elemInt x.bfmt (elemOf dataB x.bfmt (j * x.kc + l))).sum))) ∧
    (∀ t c, let flags := modGang t c.gang fun g => if inMask g.live c.lane then modThread g c.lane fun y => { y with aflags := y.aflags ||| c.aflags } else g
      completeCmd t core c none = sweepClusters (dropCmd flags core c.id) ∧
      ∀ off b u, blockOf flags c.block = some b → off + 16 ≤ b.pad.size →
        unitAt flags (cmdGang flags core c) ⟨.scratch c.block, off⟩ = some u → admits flags (cmdGang flags core c) u = .go →
        completeCmd t core c (some off) =
          sweepClusters (dropCmd (barArrive (admitted flags (cmdGang flags core c) u) ⟨.scratch c.block, off⟩ false).1 core c.id)) ∧
    (∀ t c off u va, let flags := modGang t c.gang fun g => if inMask g.live c.lane then modThread g c.lane fun y => { y with aflags := y.aflags ||| c.aflags } else g
      unitAt flags (cmdGang flags core c) ⟨.scratch c.block, off⟩ = some u → admits flags (cmdGang flags core c) u = .error va →
        completeCmd t core c (some off) = sweepClusters (dropCmd (endLaunch flags c.launch 9 0x60 0 va) core c.id)) ∧
    (∀ c, cmdOf s core (s.focus.getD 1 0) = some c →
      let orGate := fun (t : State) => match arrivalGate s core c with
        | none => Host.Outcome.next t
        | some u => .next (modCmdOf (needLog s (cmdGang s core c)) core c.id fun y => { y with gate := joinGate s c.launch core u y.gate })
      (∀ x, c.body = .mma x → c.arrayDone = true → arrivalInTurn e c = true →
        (x.ksteps ≤ c.chunk → exec .mmaComplete s = orGate (completeCmd s core c x.bar)) ∧
        (c.chunk < x.ksteps → exec .mmaComplete s =
          orGate (completeCmd (c.cuts.foldl (fun t r => modRing t core r fun y => { y with cut := true }) s) core c x.bar))) ∧
      (∀ x, c.body = .drain x → c.started = true → arrivalInTurn e c = true → exec .drainComplete s = orGate (completeCmd s core c x.bar)) ∧
      (∀ m, c.body = .zero m → c.started = true →
        exec .mzeroComplete s = .next (completeCmd (zeroTiles s core (maskTiles m)) core c none)) ∧
      ∀ sc i n src, c.body = .load sc i n src → c.started = true → ∃ u, exec .cbldComplete s = .next (completeCmd u core c none) ∧
        (sc = true → (engineOf u core).scale = wrBytes e.scale i c.data ∧ (engineOf u core).lattice = e.lattice) ∧
        (sc = false → (engineOf u core).scale = e.scale ∧ ∀ k, fgetD (engineOf u core).lattice k 0 =
          if i ≤ k ∧ k < i + n then BitVec.ofNat 32 (leAt (c.data.drop (4 * (k - i))) 0 4) else fgetD e.lattice k 0)) ∧
    ∀ c x, arrivalInTurn e c = true → x ∈ e.cmds.takeWhile (fun y => y.id != c.id) → c.body.bar = none

/-! ### The management interface -/

/-- R82, R83, R416 to R419: system software's writes. The tail of a queue is observed, and an enabled record that is
unusable is answered with a queue error of reason 5; a queue without a record is left alone. A write of a field of the
management window sets that field to the value, at its width, and no other; an offset without a writable field changes
nothing. A write of a command code, with no command in progress, starts the command with the operands as they stand. A
module number below 32 is taken. After a write, and when the head of the event ring moves, waiting events are written
and launches that wait to post one go on, as do records of spill rings still to be written; with a pool, the lanes that found no waiter record try again. Where more
than one reading is possible, log entries 54 and 66 say which the model takes. -/
def Obligations.ManagementWrites : Prop :=
  (∀ s d, d < 2 → s.dies.length = 2 →
    (∀ q tail, s.focus = [d, q, tail] → q < 64 → tail < 2 ^ 32 →
      (queueAt s d q = none → exec .submitTail s = .next s) ∧
      ∀ a, queueAt s d q = some a →
        let t := modDie (writeNat { s with nextId := s.nextId + 1 } (physLoc (a + 0x14)) 4 tail) d fun x => { x with tails := fput x.tails q tail }
        ((readQueue t a).enabled = false ∨ (readQueue t a).valid = true → exec .submitTail s = .next t) ∧
        ((readQueue t a).enabled = true → (readQueue t a).valid = false →
          exec .submitTail s = .next (queueError t d q (readQueue t a).ctx 0 (readQueue t a).head 5 0xFF 0xFFFFFFFF))) ∧
    (∀ off v, s.focus = [d, off, v] →
      let t := modDie s d fun x => { x with mgmt := writeWindow (mgmtOf s d) off v }
      let u := recheckLeases (drainEvents t d) d
      (off ≠ 0x018 → off ≠ 0x100 → exec .mgmtRegisterWrite s = .next u) ∧
      (off = 0x018 → exec .mgmtRegisterWrite s = .next { u with gangs := u.gangs.map (Gang.mapConds Cond.cellsWoken) }) ∧
      (off = 0x100 → (mgmtOf s d).cmd.status ≠ 1 →
        exec .mgmtRegisterWrite s = .next { u with agenda := u.agenda ++ [.event (commandEvent (v % 2 ^ 32)) [d]] }) ∧
      (off = 0x100 → (mgmtOf s d).cmd.status = 1 → exec .mgmtRegisterWrite s = .next u)) ∧
    (∀ v, s.focus = [d, v] → exec .moduleNumberWrite s = .next (if v % 256 < 32 then { s with module := v % 256 } else s)) ∧
    (∀ v, s.focus = [d, v] → exec .eventHeadWrite s = .next (recheckLeases (drainEvents
      (modDie s d fun x => { x with mgmt := { mgmtOf s d with evhead := v % 2 ^ 32 } }) d) d)) ∧
    ((dieOf s d).events = [] → (∀ L ∈ s.launches, L.spillOwed = [] ∧ (L.die = d → L.state ≠ .taken ∧ L.state ≠ .leaseWait)) →
      recheckLeases (drainEvents s d) d = s)) ∧
  ∀ (m : Mgmt) (v : Nat),
    (∀ q < 2 ^ 64, v % 2 ^ 64 = q → writeWindow m 0x008 v = { m with qtab := q } ∧ writeWindow m 0x010 v = { m with ctxtab := q } ∧
      writeWindow m 0x018 v = { m with pool := q } ∧ writeWindow m 0x020 v = { m with shadow := q } ∧
      writeWindow m 0x030 v = { m with evring := q } ∧ writeWindow m 0x108 v = { m with cmd := { m.cmd with addr := q } } ∧
      writeWindow m 0x110 v = { m with cmd := { m.cmd with arg := q } } ∧ writeWindow m 0x118 v = { m with cmd := { m.cmd with buf := q } }) ∧
    (∀ w < 2 ^ 32, v % 2 ^ 32 = w → writeWindow m 0x028 v = { m with shsize := w } ∧ writeWindow m 0x038 v = { m with evsize := w } ∧
      (m.cmd.status ≠ 1 → writeWindow m 0x100 v =
        { m with cmd := { m.cmd with op := w, status := 1 }, run := { m.cmd with op := w } }) ∧
      (m.cmd.status = 1 → writeWindow m 0x100 v = m) ∧
      writeWindow m 0x120 v = { m with cmd := { m.cmd with cluster := w } } ∧ writeWindow m 0x124 v = { m with cmd := { m.cmd with task := w } }) ∧
    (∀ h < 2 ^ 16, v % 2 ^ 16 = h → writeWindow m 0x104 v = { m with cmd := { m.cmd with ctx := h } } ∧
      writeWindow m 0x106 v = { m with cmd := { m.cmd with sub := h } } ∧ writeWindow m 0x12A v = { m with cmd := { m.cmd with core := h } }) ∧
    (∀ b < 256, v % 256 = b → writeWindow m 0x128 v = { m with cmd := { m.cmd with rank := b } } ∧
      writeWindow m 0x129 v = { m with cmd := { m.cmd with gang := b } }) ∧
    ∀ off, off ∉ [0x008, 0x010, 0x018, 0x020, 0x028, 0x030, 0x038, 0x100, 0x104, 0x106, 0x108, 0x110, 0x118, 0x120, 0x124, 0x128, 0x129, 0x12A] →
      writeWindow m off v = m

/-- R88, R96, R207, R208, R255, R363, R368, R370, R379, R380, R388, R391, R394, R419, R420: the commands of the
management window, with the operands that stood when the command was issued: what each does, and the status it leaves:
0, or 2 for an operand out of range, a context beyond 4,095, a sample period and a number of breakpoints among them,
3 where nothing is named, 4 where the gang
named is not stopped. Where more than one reading is possible, log entries 35, 47, 54 and 60 say which the model
takes. -/
def Obligations.ManagementCommands : Prop :=
  ∀ s d, s.focus = [d] → d < 2 →
    let c := (mgmtOf s d).run
    let named := cmdLaunches s c
    let set := if c.arg = 0 then InvSet.context
      else .range (c.addr % 2 ^ 57 / 4096 * 4096) ((c.addr % 2 ^ 57 + c.arg + 4095) / 4096 * 4096 - c.addr % 2 ^ 57 / 4096 * 4096)
    let ends := fun (t : State) (st : Nat) => Host.Outcome.next (modCmd t d fun x => { x with status := st })
    (4096 ≤ c.ctx → ∀ i ∈ [Instr.leaseAck, .preemptMark, .preemptClear, .cmdCancelL, .cmdCancelG, .cmdCancelJ, .shootdown, .harvest,
        .shadowRetire, .haltReq, .regionBp, .stopMode, .resume, .breakEn, .sample, .zeroHist, .readState, .evict, .unknownCommand],
      exec i s = ends s 2) ∧ (c.ctx < 4096 →
    (∀ i ∈ [Instr.preemptMark, .preemptClear, .stopMode, .breakEn, .sample], c.sub = 0 → named = [] → exec i s = ends s 3) ∧
    (∀ L, named = [L] →
      exec .preemptMark s = ends (rewriteWakes (modLaunch s L.id fun L => { L with preempt := true }) L.id) 0 ∧
      exec .preemptClear s = ends (rewriteWakes (modLaunch s L.id fun L => { L with preempt := false }) L.id) 0 ∧
      (c.sub < 2 → exec .stopMode s = ends (modLaunch s L.id fun L => { L with stopMode := c.sub }) 0 ∧
        exec .breakEn s = ends (modLaunch s L.id fun L => { L with brkOn := c.sub == 1 }) 0) ∧
      (c.sub = 0 ∨ (10 ≤ c.sub ∧ c.sub ≤ 24) →
        exec .sample s = ends (modLaunch s L.id fun L => { L with samplePeriod := c.sub, sampled := [] }) 0) ∧
      (c.sub ≤ 8 → c.buf % 64 = 0 → c.sub = 0 ∨ physOk s c.buf = true → exec .regionBp s =
        ends (modLaunch s L.id fun L => { L with breakpoints := (List.range c.sub).map fun i => readNat s (physLoc (c.buf + 2 * i)) 2 }) 0)) ∧
    (c.sub ≠ 0 → c.sub < 10 ∨ 24 < c.sub → exec .sample s = ends s 2) ∧
    (8 < c.sub ∨ c.buf % 64 ≠ 0 ∨ (c.sub ≠ 0 ∧ physOk s c.buf = false) → exec .regionBp s = ends s 2) ∧
    (c.sub ≤ 8 → c.buf % 64 = 0 → c.sub = 0 ∨ physOk s c.buf = true → named = [] → exec .regionBp s = ends s 3) ∧
    (2 ≤ c.sub → exec .stopMode s = ends s 2 ∧ exec .breakEn s = ends s 2 ∧ exec .leaseAck s = ends s 2) ∧
    (∀ L n idx, c.sub = 0 → c.arg % 2 ^ 32 = n → s.launches = [L] → L.ctx = c.ctx → L.die = d →
      L.requests = [{ num := n, index := idx, answer := 0 }] →
      exec .leaseAck s = ends (storeOwed (leaseCheck (modLaunch s L.id fun L => { L with requests := L.requests.map fun r =>
        if r.num = n then { r with answer := 1 } else r }) L.id) L.id) 0) ∧
    (∀ L n idx, c.sub = 1 → c.arg % 2 ^ 32 = n → s.launches = [L] → L.ctx = c.ctx → L.die = d →
      L.requests = [{ num := n, index := idx, answer := 0 }] →
      let t := modLaunch s L.id fun L => { L with requests := L.requests.map fun r => if r.num = n then { r with answer := 2 } else r }
      exec .leaseAck s = ends (if idx = 0xF1 ∧ L.closed = true then t else endLaunch t L.id 7 0 0 0) 0) ∧
    (s.launches = [] → exec .leaseAck s = ends s (if c.sub < 2 then 3 else 2)) ∧
    (∀ r ∈ ([(Instr.cmdCancelL, namedL s c.ctx (BitVec.ofNat 64 c.addr)), (.cmdCancelG, namedG s c.ctx (BitVec.ofNat 64 c.addr)),
        (.cmdCancelJ, namedJ s c.ctx)] : List (Instr × CancelSet)),
      exec r.1 s = ends (modCmd (cancelAll s r.2) d fun x => { x with arg := r.2.status }) 0) ∧
    (exec .shootdown s = ends (invalidateSet s set c.ctx) 0 ∧ exec .harvest s = ends (harvestSet s set c.ctx) 0) ∧
    (∀ a x size, walk s d c.ctx (c.addr % 2 ^ 57) = .leaf a x size →
      exec .shadowRetire s = ends (retireShadows s (x.toNat / 2 ^ 12 % 2 ^ 40 * 4096 / size * size) size) 0) ∧
    (∀ g, targetGang s c = some g →
      (c.gang ≠ 0xFF → exec .haltReq s = ends (modGang s g.id fun g => { g with haltReq := true }) 0) ∧
      (g.stopped = false → exec .evict s = ends s 4) ∧
      (g.stopped = true → exec .evict s = ends (modGang s g.id fun x => { x with marked := g.slot.isSome }) 0) ∧
      (g.stopped = false → exec .resume s = ends s 4) ∧
      (g.stopped = true → exec .resume s = ends (resumeGang s g) 0 ∧ (mustStop s g = true → resumeGang s g = stopGang s g)) ∧
      (c.buf % 64 = 0 → g.stopped = false → g.slot.isSome → exec .readState s = ends s 4) ∧
      (c.buf % 64 = 0 → (g.stopped = true ∨ g.slot = none) → physOk s c.buf = true →
        physOk s (c.buf + (stateImage s g).length - 1) = true →
        exec .readState s = ends (writeBytes s (physLoc c.buf) (stateImage s g)) 0)) ∧
    (targetGang s c = none → exec .evict s = ends s 3 ∧ exec .resume s = ends s 3 ∧ (c.gang ≠ 0xFF → exec .haltReq s = ends s 3)) ∧
    (c.buf % 64 ≠ 0 → exec .readState s = ends s 2) ∧
    (∀ k, cmdCore s c = some k → exec .zeroHist s = ends (modCore s k fun x =>
      { x with helig := [], hstall := [], histBase := clkOf s k, histClks := 0 }) 0) ∧
    (cmdCore s c = none → exec .zeroHist s = ends s 2) ∧
    ((∀ a x size, walk s d c.ctx (c.addr % 2 ^ 57) ≠ .leaf a x size) → exec .shadowRetire s = ends s 3) ∧
    (c.gang = 0xFF → named = [] → exec .haltReq s = ends s 3) ∧
    (∀ L, c.gang = 0xFF → named = [L] → exec .haltReq s =
      ends { s with gangs := s.gangs.map fun g => if g.launch = L.id then { g with haltReq := true } else g } 0) ∧
    exec .unknownCommand s = ends s 2)

/-- R24, R30, R31, R34, R35, R82 to R85, R87, R88, R91, R92, R94, R104, R339, R415, R426: the sequencer. It takes the
next entry of a queue, a launch or a graph, or answers with the queue error of R83. A launch that is taken has a
number of its own and the take number, its descriptor, and the status that its descriptor or lease table earns; it
becomes READY when no range is awaited. A graph is rejected with its record, or enters and its nodes of depth 0 are
admitted in order. At a placement opportunity evaluators, woken gangs, tasks and launches are placed in that order. A
cluster begins when its parameters are in every block. A launch that is over does the steps of R415: first the kill
event, which must have reached the ring, last its record, which is written whole or asked for: its bytes are those of
R91. R374: a physical address that a read or write of the sequencer may not use is logged. Where more than one reading
is possible, log entries 45, 46, 48, 49, 64, 79, 80, 83, 84 and 86 say which the model takes. -/
def Obligations.SequencerEvents : Prop :=
  (∀ s,
    (∀ d q a r tail, s.focus = [d, q] → d < 2 → q < 64 → nextEntry s d q = some (a, r, tail) →
      let slot := r.ring + 16 * (r.head % r.size)
      let t := writeNat s (physLoc (a + 0x10)) 4 ((r.head + 1) % 2 ^ 32)
      let since := submitted r.head (fgetD s.past ((a + 0x14) / 4) [])
      let kind := readNat s (physLoc slot) 4
      let addr : Dbl := BitVec.ofNat 64 (readNat s (physLoc (slot + 8)) 8)
      (physOk s slot = false ∨ physOk s (slot + 15) = false →
        exec .takeEntry s = .next (queueError (errorResponse t d r.ctx slot 0 none 4) d q r.ctx 0 r.head 1 0xFF 0xFFFFFFFF)) ∧
      (physOk s slot = true → physOk s (slot + 15) = true → poisonedAt s (physLoc slot) 16 = true →
        exec .takeEntry s = .next (queueError t d q r.ctx 0 r.head 1 0xFF 0xFFFFFFFF)) ∧
      (physOk s slot = true → physOk s (slot + 15) = true → poisonedAt s (physLoc slot) 16 = false →
        (r.size < (tail + 2 ^ 32 - r.head) % 2 ^ 32 → exec .takeEntry s = .next (queueError t d q r.ctx addr.toNat r.head 2 0xFF 0xFFFFFFFF)) ∧
        ((tail + 2 ^ 32 - r.head) % 2 ^ 32 ≤ r.size →
          (kind = 0 → exec .takeEntry s = .next (takeLaunch t d q r.ctx addr r.head none none (some since) 0).1) ∧
          (kind = 1 → exec .takeEntry s = .next (takeGraph t d q r.ctx addr r.head since)) ∧
          (1 < kind → exec .takeEntry s = .next (queueError t d q r.ctx addr.toNat r.head 1 0xFF 0xFFFFFFFF))))) ∧
    (∀ h (l : List (Nat × Word)), submitted h l = ((l.find? fun x => !covers x.2.toNat h).map Prod.fst).getD 0) ∧
    (∀ t h, covers t h = true ↔ 0 < (t + 2 ^ 32 - h) % 2 ^ 32 ∧ (t + 2 ^ 32 - h) % 2 ^ 32 < 2 ^ 31) ∧
    (∀ d ctx a n, (workAddr a = false → readWork s d ctx a n = (s, none)) ∧ (workAddr a = true → ∀ t,
      (∀ bs, deviceRead s d ctx (vaOf a) n = (t, .ok bs) → readWork s d ctx a n = (t, some bs)) ∧
      (deviceRead s d ctx (vaOf a) n = (t, .error) → readWork s d ctx a n = (t, none)) ∧
      (deviceRead s d ctx (vaOf a) n = (t, .away) → readWork s d ctx a n = (logRefused t d ctx a n false none, none)))) ∧
    (∀ d q ctx addr entry node place since header,
      let take := (dieOf s d).takes
      let s0 := modDie s d fun x => { x with takes := (take + 1) % 2 ^ 32 }
      let failed := fun (t : State) (reason : Nat) =>
        (modJob (queueError t d q ctx (if node.isSome then header else addr).toNat entry reason 3 take) ctx fun j => { j with fail := (j.fail + 1) % 2 ^ 32 }, false)
      (∀ s1, readWork s0 d ctx addr 256 = (s1, none) → takeLaunch s d q ctx addr entry node place since header = failed s1 4) ∧
      ∀ s1 bs, readWork s0 d ctx addr 256 = (s1, some bs) →
        let x := parseDesc bs
        (x.done.toNat % 64 ≠ 0 → takeLaunch s d q ctx addr entry node place since header = failed s1 3) ∧
        (x.done.toNat % 64 = 0 → workAddr x.done = false → takeLaunch s d q ctx addr entry node place since header = failed s1 6) ∧
        (x.done.toNat % 64 = 0 → workAddr x.done = true → ∀ s2,
          (deviceWrite s1 d ctx (vaOf x.done) [0, 0, 0, 0] = (s2, false) →
            takeLaunch s d q ctx addr entry node place since header = failed (logRefused s2 d ctx x.done 4 true none) 6) ∧
          (deviceWrite s1 d ctx (vaOf x.done) [0, 0, 0, 0] = (s2, true) → ∃ (s3 : State) (L : Launch), L.id = s2.nextId ∧ L.die = d ∧ L.take = take ∧ L.ctx = ctx ∧
            L.addr = addr ∧ L.queue = q ∧ L.desc = x ∧ L.node = node ∧ L.place = place.getD s2.nextId ∧ L.since = since.getD s2.nextId ∧ L.state = .taken ∧
            (let t := { s2 with nextId := s2.nextId + 1 }
             (x.ok = false ∨ x.graph ≠ header → L.ending = some 3) ∧
             (x.ok = true → x.graph = header → (readLeases t d ctx x).2 = none → L.ending = some 3) ∧
             (∀ ls, x.ok = true → x.graph = header → (readLeases t d ctx x).2 = some ls → L.leases = ls ∧
               L.ending = if dieAllowed (readLeases t d ctx x).1 x 0 || dieAllowed (readLeases t d ctx x).1 x 1 then none else some 4)) ∧
            takeLaunch s d q ctx addr entry node place since header =
              (leaseCheck (modJob { s3 with launches := s3.launches ++ [L] } ctx fun j => { j with pend := j.pend + 1 }) L.id, true)))) ∧
    (∀ (L : Launch), launchOf s L.id = some L → L.ending = none → L.state = .leaseWait → missing s L = [] → ∃ t, leaseCheck s L.id = t ∧
      launchOf t L.id = some { L with state := .ready, requests := [] } ∧ t.mem = s.mem ∧ t.gangs = s.gangs) ∧
    (∀ d q ctx addr entry since,
      (∀ s1, readWork s d ctx addr 64 = (s1, none) → takeGraph s d q ctx addr entry since = queueError s1 d q ctx addr.toNat entry 4 5 0xFFFFFFFF) ∧
      ∀ s1 bs, readWork s d ctx addr 64 = (s1, some bs) →
        let h := parseHeader bs
        let failed := fun (t : State) => modJob t ctx fun j => { j with fail := (j.fail + 1) % 2 ^ 32 }
        (h.done % 64 ≠ 0 → takeGraph s d q ctx addr entry since = failed (queueError s1 d q ctx addr.toNat entry 3 5 0xFFFFFFFF)) ∧
        (h.done % 64 = 0 → ∀ s2,
          (readGraph s1 d ctx h = (s2, none) → ∀ s3 ok,
            writeDone s2 d ctx (BitVec.ofNat 64 h.done) (doneBytes 5 h.tag 0 0 s2.time 0 0xFFFF 0 0 0) = (s3, ok) →
            takeGraph s d q ctx addr entry since = failed (if ok then s3 else queueError s3 d q ctx addr.toNat entry 6 5 0xFFFFFFFF)) ∧
          ∀ nodes, readGraph s1 d ctx h = (s2, some nodes) →
            let g : Graph := { id := s2.nextId, die := d, ctx := ctx, addr := addr, queue := q, flags := h.flags, tag := h.tag,
                               done := BitVec.ofNat 64 h.done, nodes := nodes, entry := entry, since := since }
            let r := admitNodes g.id ((List.range nodes.length).filter fun i => ((nodes[i]?).map GNode.deps).getD 1 == 0)
              { s2 with nextId := s2.nextId + 1, graphs := s2.graphs ++ [g] }
            takeGraph s d q ctx addr entry since = endNodes r.1 g.id r.2)) ∧
    (let s1 := (waitingEvaluators s).foldl placeEvaluator s
     let s2 := (wokenGangs s1).foldl returnWoken s1
     exec .placementOpportunity s = .next (placeLaunches (placeTasks (waitingTasks s2) [] s2))) ∧
    (∀ k, clusterOf s (s.focus.headD 0) = some k → k.ready = false →
      let L := launchD s k.launch
      (∀ t bs, areaAsked s k.launch 0xF0 = false → deviceRead s L.die L.ctx (vaOf L.desc.param) (16 * L.desc.nparam) = (t, .ok bs) →
        exec .parameterCopy s =
          .next (modCluster (k.blocks.foldl (fun u b => writeBytes u ⟨.scratch b, 0⟩ bs) t) (s.focus.headD 0) fun k => { k with ready := true })) ∧
      (areaAsked s k.launch 0xF0 = true → L.ending = none → exec .parameterCopy s = .next s) ∧
      (∀ t, areaAsked s k.launch 0xF0 = false → L.ending = none →
        (deviceRead s L.die L.ctx (vaOf L.desc.param) (16 * L.desc.nparam) = (t, .away) → exec .parameterCopy s = .next (needArea t k.launch 0xF0 L.die L.desc.param (16 * L.desc.nparam) false)) ∧
        (deviceRead s L.die L.ctx (vaOf L.desc.param) (16 * L.desc.nparam) = (t, .error) →
          exec .parameterCopy s = .next (endLaunch t k.launch 9 0x60 0 L.desc.param)))) ∧
    (∀ L, launchOf s (s.focus.headD 0) = some L → launchOver s L = true →
      (L.closed = true → exec .launchEnd s = .next (recordDue s L)) ∧
      (L.closed = false →
        let s1 := postKill s L.id
        (killHeld s1 (launchD s1 L.id) = true → exec .launchEnd s = .next s1) ∧
        (killHeld s1 (launchD s1 L.id) = false → ∃ u, exec .launchEnd s = .next (recordDue u (launchD u L.id)) ∧
          u = modLaunch (endSteps s1 (launchD s1 L.id)) L.id fun x => { x with
            closed := true, kill := none, ending := some (x.ending.getD 0), requests := x.requests.filter fun r => r.index != 0xF1 || r.answer == 0 }))) ∧
    (∀ id, let L := launchD s id
      (L.kill = none ∨ eventRoom s L.die = false → postKill s id = s) ∧
      ∀ bs, L.kill = some bs → eventRoom s L.die = true → postKill s id =
        modLaunch (postEvent s L.die 6 L.ctx (some id) [(0x10, 64, natOf bs), (0x50, 4, L.take)]) id fun x => { x with kill := none }) ∧
    ∀ L : Launch,
      let marked := harvestWhere s fun e => e.ctx == L.ctx
      (killHeld s L = true ↔ L.kill.isSome = true ∨ ∃ e ∈ (dieOf s L.die).events, e.type = 6 ∧ e.launch = some L.id) ∧
      endSteps s L = releaseAll (closeLog ((L.frames.map Prod.fst).foldl (fun t c => closeFrame t (launchD t L.id) c) marked) L.id) L ∧
      (∀ k ∈ (endSteps s L).clusters, k.launch ≠ L.id) ∧ (∀ b ∈ (endSteps s L).blocks, b.launch ≠ L.id) ∧
      (let st := L.ending.getD 0
       let asked := (L.requests.find? fun r => r.index == 0xF1).map Request.answer
       let bytes := doneBytes st L.desc.tag L.clean L.tstart s.time L.spawnOrd 0xFFFF L.cause L.pc L.loc
       (asked = some 0 → recordDue s L = s) ∧
       (asked = some 2 → recordDue s L =
         endRecord (queueError s L.die L.queue L.ctx (if L.node.isSome then L.desc.graph else L.addr).toNat L.entry 6 st L.take) L) ∧
       (asked = none ∨ asked = some 1 →
         (deviceReach s L.die L.ctx (vaOf L.desc.done) 64 true = false → recordDue s L = needArea s L.id 0xF1 L.die L.desc.done 64 true) ∧
         (deviceReach s L.die L.ctx (vaOf L.desc.done) 64 true = true → ∀ t ok, writeDone s L.die L.ctx L.desc.done bytes = (t, ok) →
           recordDue s L = if ok then endRecord t L else needArea t L.id 0xF1 L.die L.desc.done 64 true)) ∧
       (L.node = none → endRecord s L =
         modJob (modLaunch s L.id fun x => { x with state := .done, ending := some st, requests := [], kill := none }) L.ctx
           fun j => { j with pend := j.pend - 1, done := if st = 0 then (j.done + 1) % 2 ^ 32 else j.done,
                             fail := if st = 0 then j.fail else (j.fail + 1) % 2 ^ 32 }))) ∧
  (∀ status tag count tstart tend tasks node cause pc addr,
    let bs := [0, 0, 0, 0] ++ doneBytes status tag count tstart tend tasks node cause pc addr
    bs.length = 64 ∧ leAt bs 4 1 = status % 2 ^ 8 ∧ leAt bs 5 3 = 0 ∧ leAt bs 8 4 = tag % 2 ^ 32 ∧ leAt bs 0xC 4 = count % 2 ^ 32 ∧
      leAt bs 0x10 8 = tstart % 2 ^ 64 ∧ leAt bs 0x18 8 = tend % 2 ^ 64 ∧ leAt bs 0x20 4 = tasks % 2 ^ 32 ∧ leAt bs 0x24 2 = node % 2 ^ 16 ∧
      leAt bs 0x26 1 = cause % 2 ^ 8 ∧ leAt bs 0x27 1 = 0 ∧ leAt bs 0x28 8 = pc.toNat ∧ leAt bs 0x30 8 = addr.toNat ∧ leAt bs 0x38 8 = 0) ∧
  ∀ s d ctx (at_ : Dbl) bs t ok,
    (workAddr at_ = false → workWrite s d ctx at_ bs = (s, false)) ∧
    (workAddr at_ = true → deviceWrite s d ctx (vaOf at_) bs = (t, ok) →
      workWrite s d ctx at_ bs = if ok then (t, true) else (logRefused t d ctx at_ bs.length true none, false)) ∧
    (workWrite s d ctx (at_ + 4) bs = (t, ok) → writeDone s d ctx at_ bs = if ok then workWrite t d ctx at_ [1, 0, 0, 0] else (t, false))

/-! ### The world outside -/

/-- R22, R195, R198, R200, R325, R372 to R375, R389, R422 to R425: translation, errors, links, the time base, power
and start-up. A walk for a fetch fills the buffers of its neighbourhood and die, or logs the error; a sweep writes
every pending dirty mark, and comes first as soon as its period has begun, which time does not pass while a mark is
pending; a corrected error is counted and one that is not poisons its granule, wherever it is stored; a flit that is
sent again is counted, and holds its channel of the port until one passes; a failed link is reported, and an access or
copy in flight on it may be lost, which is logged and is cause 0x11 of its lane or its copy; only the seam leads to
the module's other die, and a port in host mode (R19) carries no access. A sync
message moves a core's time by at most one ns; a power cap lowers a core's clock, never below its least step, and
its supply, and holds it there until it is lifted; a start succeeds when every test has passed, fails at the first
test that has not, and for good with the third failure; a second power-good changes nothing; a signed image of a
version not older than the recorded one restarts the module with its memory as it was. Where more than one reading is
possible, log entries 8, 18, 40, 42, 43 and 44 say which the model takes. -/
def Obligations.OutsideEvents : Prop :=
  ∀ s,
    (∀ core ctx va, s.focus = [core, ctx, va] → coreExists core = true →
      (found s (.fetch core) ctx va ≠ [] → exec .tlbWalk s = .next s) ∧
      (found s (.fetch core) ctx va = [] →
        (∀ t pa leaf, translateNew s (.fetch core) ctx va = (t, .ok pa leaf) → exec .tlbWalk s = .next t ∧
          ∀ b ∈ [(1, core / 64), (2, core / 1024)], ∃ e ∈ t.tlb, e.level = b.1 ∧ e.holder = b.2 ∧ e.covers (core / 1024) ctx va = true ∧
            e.leaf = leaf ∧ paOf leaf e.size va = pa) ∧
        (∀ t cause pa, translateNew s (.fetch core) ctx va = (t, .fail cause (some pa)) →
          exec .tlbWalk s = .next (errorResponse t (core / 1024) ctx pa (va % 2 ^ 57 + if va.testBit 56 then 7 * 2 ^ 57 else 0) none 2)) ∧
        ∀ t cause, translateNew s (.fetch core) ctx va = (t, .fail cause none) → exec .tlbWalk s = .next t)) ∧
    exec .dirtySweep s = .next { harvestWhere s fun _ => true with swept := s.time / 2 ^ 19 } ∧
    (s.time / 2 ^ 19 ≠ s.swept → (.dirtySweep, []) ∈ first s) ∧
    ((∃ e ∈ s.tlb, e.pending = true) → (idle s).time ≤ (s.time / 2 ^ 19 + 1) * 2 ^ 19) ∧
    (∀ off d, homeDie s off = some d →
      (s.focus = [0, 0, off, 1] → exec .eccError s = .next (countTelemetry s d 0)) ∧
      (s.focus = [0, 0, off, 0] → physOk s off = true → ∃ t, exec .eccError s = .next (countTelemetry t d 2) ∧
        off / 16 ∈ t.poison ∧ t.mem = s.mem)) ∧
    (∀ kind owner off p core, 1 ≤ kind → kind ≤ 3 → errorPlace s kind owner = some (p, core) →
      (s.focus = [kind, owner, off, 1] → exec .eccError s = .next (countTelemetry s (core / 1024) 0)) ∧
      (s.focus = [kind, owner, off, 0] → exec .eccError s = .next (countTelemetry (poisonGranule s ⟨p, off⟩) (core / 1024) 2))) ∧
    (∀ kind core off, 4 ≤ kind → kind ≤ 7 → coreExists core = true → s.focus = [kind, core, off, 0] → ∃ t,
      exec .eccError s = .next (countTelemetry t (core / 1024) 2) ∧ storePoisoned (engineOf t core) (kind - 4) [off] = true ∧ t.mem = s.mem) ∧
    (∀ core off, coreExists core = true → s.focus = [10, core, off, 0] → ∃ t, exec .eccError s = .next (countTelemetry t (core / 1024) 2) ∧
      off / 16 ∈ (coreOf t core).badCode ∧ t.mem = s.mem) ∧
    (∀ h t off, taskOf s h = some t → t.index < 4096 → s.focus = [9, h.toNat, off, 0] →
      exec .eccError s = .next (countTelemetry (changeTask s h fun t =>
        { t with poison := if t.poison.contains (off % 4) then t.poison else off % 4 :: t.poison }) t.die 2)) ∧
    (∀ d p ch, d < 2 → p < 10 → ch < 4 →
      (s.focus = [d, p, 1, ch] → exec .linkFlit s =
        .next (modDie s d fun k => { k with retrying := k.retrying.filter (· != (p, ch)) })) ∧
      (s.focus = [d, p, 0, ch] → exec .linkFlit s = .next (countTelemetry (modDie s d fun k =>
        { k with retrying := if k.retrying.contains (p, ch) then k.retrying else (p, ch) :: k.retrying }) d 3))) ∧
    (∀ d p, s.focus = [d, p] → d < 2 → p < 10 → s.gangs = [] → s.copies = [] → p ∉ (dieOf s d).failedPorts →
      exec .linkFailure s = .next (errorResponse (modDie s d fun x =>
        { x with failedPorts := p :: x.failedPorts, retrying := x.retrying.filter fun y => y.1 != p }) d 0 0 0 none 3)) ∧
    (∀ d p, s.focus = [d, p] → d < 2 → p < 10 → p ∉ (dieOf s d).failedPorts →
      let r := errorResponse (modDie s d fun x =>
        { x with failedPorts := p :: x.failedPorts, retrying := x.retrying.filter fun y => y.1 != p }) d 0 0 0 none 3
      let r' := { r with fresh := s.fresh + 1 }
      (∀ g l ea pa, s.gangs = [g] → s.copies = [] → outstanding g = [] → inFlight r d p g = [(l, ea, pa)] →
        exec .linkFailure s = .next (if Config.freeNat s.fresh % 2 = 0 then r' else
          noteLane (errorResponse r' d (launchD s g.launch).ctx pa ea.toNat (some g.launch) 3) g.id l (.fail ⟨l, 0x11, ea, 0⟩))) ∧
      ∀ c ea pa, s.gangs = [] → s.copies = [c] → coreDie c.core = d → copyInFlight r c = some (ea, pa) → crossesPort r d p pa = true →
        let u := errorResponse r' d (launchD s c.launch).ctx pa ea.toNat (some c.launch) 3
        exec .linkFailure s = .next (if Config.freeNat s.fresh % 2 = 0 then r'
          else if c.scatters = true ∧ c.buf ≠ [] then modCopy u c.id fun x => { x with fault := some (0x11, ea, 0) }
          else copyFault u c (0x11, ea, 0))) ∧
    (∀ d port g q l ea pa, g.pending = some q → coreDie g.core = d →
      ((l, ea, pa) ∈ inFlight s d port g ↔ l ∈ lanesOf q.lanes ∧ accessPa s g l q.op = some (ea, pa) ∧ crossesPort s d port pa = true)) ∧
    (∀ d < 2, ∀ pa, (crossesPort s d 9 pa = true ↔ pa / 2 ^ 46 = 2 * s.module + (1 - d)) ∧
      (s.hostPort = true → crossesPort s 0 0 pa = false) ∧ ∀ p < 9, pa / 2 ^ 47 = s.module → crossesPort s d p pa = false) ∧
    (∀ d core slew, s.focus = [d, core, slew] → coreExists core = true → slew < 9 → ∃ t, exec .timeSync s = .next t ∧
      t.time = s.time + 1000 ∧ (∀ k, k ≠ core → coreOf t k = coreOf s k) ∧ { coreOf t core with slew := (coreOf s core).slew } = coreOf s core ∧
      (let x := (coreOf s core).slew
       (x < (slew : Int) - 4 → (coreOf t core).slew = x + 1) ∧ (x = (slew : Int) - 4 → (coreOf t core).slew = x) ∧
       ((slew : Int) - 4 < x → (coreOf t core).slew = x - 1))) ∧
    (∀ core, s.focus = [core, 0] → coreExists core = true → -20 < (coreOf s core).step → ∃ t, exec .powerCap s = .next t ∧
      -20 ≤ (coreOf t core).step ∧ (coreOf t core).step < (coreOf s core).step ∧ (coreOf t core).cap = (coreOf t core).step ∧
      ((coreOf t core).supply : Int) = max 540 (min 700 (600 + 10 * (((coreOf t core).step + 1) / 2))) ∧
      ∀ k, k ≠ core → coreOf t k = coreOf s k) ∧
    (∀ core, s.focus = [core, 1] → coreExists core = true → exec .powerCap s = .next (modCore s core fun k => { k with cap := 12 })) ∧
    (∀ step k, (setStep step k).step ≤ k.cap ∧ ((setStep step k).step = step ∨ (setStep step k).step = k.cap)) ∧
    (s.boot.state ≠ 0 ∨ s.boot.since.isSome → exec .powerGood s = .next s) ∧
    (s.boot.state = 0 → s.boot.since = none → s.focus = [1, 1, 1] → Config.imageSigned s.boot.flashBody = true → s.boot.recorded ≤ s.boot.flashVersion →
      Config.partSigned s.boot.partRecord = true →
      exec .powerGood s = .next { s with boot := { s.boot with recorded := s.boot.flashVersion, fails := 0, state := 1, since := none } }) ∧
    (s.boot.state = 0 → s.boot.since = none → startFails s.boot s.focus = none → testsPass s.focus = false →
      exec .powerGood s = .next { s with boot := { s.boot with recorded := s.boot.flashVersion, since := some s.time } }) ∧
    (∀ r, s.boot.state = 0 → s.boot.since = none → startFails s.boot s.focus = some r → ∃ b, exec .powerGood s = .next { s with boot := b } ∧ b.reason = r ∧
      b.since = none ∧ b.fails = Nat.min 3 (s.boot.fails + 1) ∧ b.state = if 2 ≤ s.boot.fails then 2 else 0) ∧
    (∀ t, s.boot.state = 0 → s.boot.since = some t → t + 2000000000 ≤ s.time → ∃ b, exec .startTimeout s = .next { s with boot := b } ∧
      b.reason = 7 ∧ b.fails = Nat.min 3 (s.boot.fails + 1) ∧ b.state = if 2 ≤ s.boot.fails then 2 else 0) ∧
    (∀ v body, s.focus = [v, body] → v < 2 ^ 32 → s.boot.state = 2 → exec .imageReceive s =
      .next { s with boot := { s.boot with state := 3 }, agenda := .event .imageReceive [v, body] :: s.agenda }) ∧
    (∀ v body, s.focus = [v, body] → v < 2 ^ 32 → s.boot.state = 3 →
      (Config.imageSigned body = true → s.boot.recorded ≤ v → ∃ t, exec .imageReceive s = .next t ∧ t.mem = s.mem ∧ t.tags = s.tags ∧
        t.boot = { s.boot with state := 0, flashVersion := v, flashBody := body, recorded := v, since := none } ∧
        t.gangs = [] ∧ t.launches = [] ∧ t.tlb = [] ∧ t.dies = [{}, {}]) ∧
      (Config.imageSigned body = false ∨ v < s.boot.recorded →
        exec .imageReceive s = .next { s with boot := { s.boot with state := 2 } }))

/-! ### The machine -/

/-- What reset leaves: nothing runs and nothing is queued (R422), `mg.status` says that the module is starting (R423),
`mg.module` is 0 (R416), `%clk` is 0 (R389), and the histograms (R388) and the copy registers (R211) of a core are
zero. The model's own choices, which no rule gives: that the other fields of the management windows are 0 (log entry
5), that the time base reads 0 (log entry 6, since R389 fixes no origin), that memory reads zero (log entry 1), and
what else a core holds (log entry 8). -/
def Obligations.ResetState : Prop :=
  State.reset.gangs = [] ∧ State.reset.launches = [] ∧ State.reset.tasks = [] ∧ State.reset.copies = [] ∧ State.reset.tlb = [] ∧
    State.reset.boot.state = 0 ∧ State.reset.boot.fails = 0 ∧ State.reset.boot.reason = 0 ∧ State.reset.time = 0 ∧
    State.reset.module = 0 ∧ (∀ d, mgmtOf State.reset d = {}) ∧ (∀ k, clkOf State.reset k = 0) ∧
    (∀ k, coreOf State.reset k = {}) ∧ ∀ l, readByte State.reset l = 0

/-- R44, R45, R47, R56 to R75: words written out from the encoding tables, a few of each kind of format. -/
def Obligations.WordsOfTheSpec : Prop :=
  ∀ r ∈ ([
    (0x11C14206, .shl 5 4 6), (0x14A18287, .div 6 5 7), (0x1BFFC183, .addi 4095 3 3), (0x2A07C204, .sari 31 4 4),
    (0x2C0B3C05, .movi 0x1678 5), (0x38A00085, .qset 1 5), (0x48414202, .fcmpLt 5 4 2), (0x4C614206, .hfma2Bf16 0 5 4 6),
    (0x78400303, .barArrb 6 3), (0x80400000, .mfence), (0x80A00080, .ringRelRst 0), (0x80624400, .ringDef 9 8 0)
    ] : List (Nat × Instr)),
  decodeWord r.1 = .ok r.2

/-- R47: for every word i of the instruction set, with every operand at every value that makes it legal, decoding its
encoding gives it back; a device's event has no word. -/
def Obligations.EncodeThenDecode : Prop :=
  ∀ i : Instr, i.wf = true → (encode i ≠ 0 → encode i < 2 ^ 32 ∧ decodeWord (encode i) = .ok i) ∧
    (encode i = 0 → ∀ w, decodeWord w ≠ .ok i)

/-- R47: the converse: a word that decodes is the encoding of a legal instruction, so that no bit of it is left
unread; a word of an unassigned major is illegal. -/
def Obligations.DecodeThenEncode : Prop :=
  (∀ w < 2 ^ 32, ∀ i, decodeWord w = .ok i → i.wf = true ∧ encode i = w) ∧
  ∀ w < 2 ^ 32, w < 2 ^ 26 ∨ 0x26 * 2 ^ 26 ≤ w → ∀ i, decodeWord w ≠ .ok i

/-- R17, R47, R51, R113, R374: a step at a gang that issues runs the instruction that the word at its PC decodes to,
or takes the illegal-instruction fault; with none issuing it performs what stands on the agenda, or else an event that
comes before all others, or one of those that could happen, or lets time pass. `wordOf` is the word at the PC. That
order is the model's choice (log entry 4). A store of the host's goes to memory, or receives the error response where
it may not be used, and the host's choice of the mode of its port takes effect (R19, log entry 72). -/
def Obligations.StepRunsDecoded : Prop :=
  (∀ s g c, issuer s = some (g, c) →
    (∀ i, decodeWord (wordOf c) = .ok i → step s = exec i s) ∧
    (∀ e, decodeWord (wordOf c) = .error e → step s = .next (faultAt s g c 0x01 (BitVec.ofNat 64 (wordOf c)) (activeMask c) 0))) ∧
  (∀ s i f r, s.issuing = none → s.agenda = .event i f :: r → step s = exec i { s with agenda := r, focus := f }) ∧
  (∀ s pa bs r, s.issuing = none → s.agenda = .hostWrite pa bs :: r →
    ((∀ i < bs.length, physOk s (pa + i) = true) →
      step s = .next (writeBytes { s with agenda := r, nextId := s.nextId + 1 } (physLoc pa) bs)) ∧
    ∀ i < bs.length, physOk s (pa + i) = false → (∀ j < i, physOk s (pa + j) = true) →
      step s = .next (errorResponse { s with agenda := r } 0 0 (pa + i) 0 none 0)) ∧
  (∀ s on r, s.issuing = none → s.agenda = .hostMode on :: r → step s = .next { s with agenda := r, hostPort := on }) ∧
  ∀ s, s.issuing = none → s.agenda = [] →
    (∃ i f n, (i, f) ∈ (if first s = [] then enabled s else first s) ∧ step s = exec i { s with focus := f, fresh := n }) ∨
      (first s = [] ∧ ∃ n, step s = .next (idle { s with fresh := n }))

/-- Every word of the instruction set goes on to a next state wherever a gang issues it, and every event always; a
step stops nowhere else. (There is no refusal, and the one fault stands for a state that names no gang to issue.) Log
entry 63. -/
def Obligations.NothingStops : Prop :=
  (∀ i s, (issuer s).isSome → ∃ t, exec i s = .next t) ∧ (∀ i s, encode i = 0 → ∃ t, exec i s = .next t) ∧
  (∀ s, (issuer s).isSome → ∃ t, step s = .next t) ∧
  ∀ s, s.issuing = none → (∀ w ∈ s.agenda, ∀ i f, w = .event i f → encode i = 0) → ∃ t, step s = .next t

/-- Every step keeps the canonical form of memory and of its tags, from every state that has it, reached by a run or
not. -/
def Obligations.StepKeepsMemory : Prop :=
  ∀ s t, Memory.wf s.mem = true → Memory.wf s.tags = true → step s = .next t →
    Memory.wf t.mem = true ∧ Memory.wf t.tags = true
end

