-- ==== Sys2Proof/Laws/Exec.lean ====
section
/-! SUPPORT. The dispatch, one equation per constructor: the meaning that each instruction has. -/

namespace Sys2Proof.Machine

@[simp] theorem exec_bra (p o : Nat) (s : State) : exec (.bra p o) s = execBra p o s := rfl
@[simp] theorem exec_call (p o : Nat) (s : State) : exec (.call p o) s = execCall p o s := rfl
@[simp] theorem exec_jmpi (p a : Nat) (s : State) : exec (.jmpi p a) s = execJmpi p a s := rfl
@[simp] theorem exec_wait (f : Nat) (s : State) : exec (.wait f) s = execWait f s := rfl
@[simp] theorem exec_wbaseRel (n : Nat) (s : State) : exec (.wbaseRel n) s = execWbaseRel n s := rfl
@[simp] theorem exec_wbaseAbs (n : Nat) (s : State) : exec (.wbaseAbs n) s = execWbaseAbs n s := rfl
@[simp] theorem exec_trap (c : Nat) (s : State) : exec (.trap c) s = execTrap c s := rfl
@[simp] theorem exec_brk (c : Nat) (s : State) : exec (.brk c) s = execBrk c s := rfl
@[simp] theorem exec_add (b a d : Nat) (s : State) : exec (.add b a d) s = execAdd b a d s := rfl
@[simp] theorem exec_sub (b a d : Nat) (s : State) : exec (.sub b a d) s = execSub b a d s := rfl
@[simp] theorem exec_min (b a d : Nat) (s : State) : exec (.min b a d) s = execMin b a d s := rfl
@[simp] theorem exec_max (b a d : Nat) (s : State) : exec (.max b a d) s = execMax b a d s := rfl
@[simp] theorem exec_minn (b a d : Nat) (s : State) : exec (.minn b a d) s = execMinn b a d s := rfl
@[simp] theorem exec_maxn (b a d : Nat) (s : State) : exec (.maxn b a d) s = execMaxn b a d s := rfl
@[simp] theorem exec_abs (a d : Nat) (s : State) : exec (.abs a d) s = execAbs a d s := rfl
@[simp] theorem exec_neg (a d : Nat) (s : State) : exec (.neg a d) s = execNeg a d s := rfl
@[simp] theorem exec_and (b a d : Nat) (s : State) : exec (.and b a d) s = execAnd b a d s := rfl
@[simp] theorem exec_or (b a d : Nat) (s : State) : exec (.or b a d) s = execOr b a d s := rfl
@[simp] theorem exec_xor (b a d : Nat) (s : State) : exec (.xor b a d) s = execXor b a d s := rfl
@[simp] theorem exec_andn (b a d : Nat) (s : State) : exec (.andn b a d) s = execAndn b a d s := rfl
@[simp] theorem exec_orn (b a d : Nat) (s : State) : exec (.orn b a d) s = execOrn b a d s := rfl
@[simp] theorem exec_not (a d : Nat) (s : State) : exec (.not a d) s = execNot a d s := rfl
@[simp] theorem exec_shl (b a d : Nat) (s : State) : exec (.shl b a d) s = execShl b a d s := rfl
@[simp] theorem exec_shr (b a d : Nat) (s : State) : exec (.shr b a d) s = execShr b a d s := rfl
@[simp] theorem exec_sar (b a d : Nat) (s : State) : exec (.sar b a d) s = execSar b a d s := rfl
@[simp] theorem exec_rol (b a d : Nat) (s : State) : exec (.rol b a d) s = execRol b a d s := rfl
@[simp] theorem exec_ror (b a d : Nat) (s : State) : exec (.ror b a d) s = execRor b a d s := rfl
@[simp] theorem exec_clz (a d : Nat) (s : State) : exec (.clz a d) s = execClz a d s := rfl
@[simp] theorem exec_ctz (a d : Nat) (s : State) : exec (.ctz a d) s = execCtz a d s := rfl
@[simp] theorem exec_popc (a d : Nat) (s : State) : exec (.popc a d) s = execPopc a d s := rfl
@[simp] theorem exec_brev (a d : Nat) (s : State) : exec (.brev a d) s = execBrev a d s := rfl
@[simp] theorem exec_mul (b a d : Nat) (s : State) : exec (.mul b a d) s = execMul b a d s := rfl
@[simp] theorem exec_mulh (b a d : Nat) (s : State) : exec (.mulh b a d) s = execMulh b a d s := rfl
@[simp] theorem exec_mulhn (b a d : Nat) (s : State) : exec (.mulhn b a d) s = execMulhn b a d s := rfl
@[simp] theorem exec_mad (b a d : Nat) (s : State) : exec (.mad b a d) s = execMad b a d s := rfl
@[simp] theorem exec_mulD (b a d : Nat) (s : State) : exec (.mulD b a d) s = execMulD b a d s := rfl
@[simp] theorem exec_div (b a d : Nat) (s : State) : exec (.div b a d) s = execDiv b a d s := rfl
@[simp] theorem exec_divn (b a d : Nat) (s : State) : exec (.divn b a d) s = execDivn b a d s := rfl
@[simp] theorem exec_rem (b a d : Nat) (s : State) : exec (.rem b a d) s = execRem b a d s := rfl
@[simp] theorem exec_remn (b a d : Nat) (s : State) : exec (.remn b a d) s = execRemn b a d s := rfl
@[simp] theorem exec_bfe (b a d : Nat) (s : State) : exec (.bfe b a d) s = execBfe b a d s := rfl
@[simp] theorem exec_bfen (b a d : Nat) (s : State) : exec (.bfen b a d) s = execBfen b a d s := rfl
@[simp] theorem exec_bfi (b a d : Nat) (s : State) : exec (.bfi b a d) s = execBfi b a d s := rfl
@[simp] theorem exec_addD (b a d : Nat) (s : State) : exec (.addD b a d) s = execAddD b a d s := rfl
@[simp] theorem exec_subD (b a d : Nat) (s : State) : exec (.subD b a d) s = execSubD b a d s := rfl
@[simp] theorem exec_shlD (b a d : Nat) (s : State) : exec (.shlD b a d) s = execShlD b a d s := rfl
@[simp] theorem exec_shrD (b a d : Nat) (s : State) : exec (.shrD b a d) s = execShrD b a d s := rfl
@[simp] theorem exec_addi (im a d : Nat) (s : State) : exec (.addi im a d) s = execAddi im a d s := rfl
@[simp] theorem exec_andi (im a d : Nat) (s : State) : exec (.andi im a d) s = execAndi im a d s := rfl
@[simp] theorem exec_ori (im a d : Nat) (s : State) : exec (.ori im a d) s = execOri im a d s := rfl
@[simp] theorem exec_xori (im a d : Nat) (s : State) : exec (.xori im a d) s = execXori im a d s := rfl
@[simp] theorem exec_shli (n a d : Nat) (s : State) : exec (.shli n a d) s = execShli n a d s := rfl
@[simp] theorem exec_shri (n a d : Nat) (s : State) : exec (.shri n a d) s = execShri n a d s := rfl
@[simp] theorem exec_sari (n a d : Nat) (s : State) : exec (.sari n a d) s = execSari n a d s := rfl
@[simp] theorem exec_movi (im d : Nat) (s : State) : exec (.movi im d) s = execMovi im d s := rfl
@[simp] theorem exec_movhi (im d : Nat) (s : State) : exec (.movhi im d) s = execMovhi im d s := rfl
@[simp] theorem exec_icmpEq (b a d : Nat) (s : State) : exec (.icmpEq b a d) s = execIcmpEq b a d s := rfl
@[simp] theorem exec_icmpNe (b a d : Nat) (s : State) : exec (.icmpNe b a d) s = execIcmpNe b a d s := rfl
@[simp] theorem exec_icmpLt (b a d : Nat) (s : State) : exec (.icmpLt b a d) s = execIcmpLt b a d s := rfl
@[simp] theorem exec_icmpLe (b a d : Nat) (s : State) : exec (.icmpLe b a d) s = execIcmpLe b a d s := rfl
@[simp] theorem exec_icmpGt (b a d : Nat) (s : State) : exec (.icmpGt b a d) s = execIcmpGt b a d s := rfl
@[simp] theorem exec_icmpGe (b a d : Nat) (s : State) : exec (.icmpGe b a d) s = execIcmpGe b a d s := rfl
@[simp] theorem exec_icmpLtn (b a d : Nat) (s : State) : exec (.icmpLtn b a d) s = execIcmpLtn b a d s := rfl
@[simp] theorem exec_icmpLen (b a d : Nat) (s : State) : exec (.icmpLen b a d) s = execIcmpLen b a d s := rfl
@[simp] theorem exec_icmpGtn (b a d : Nat) (s : State) : exec (.icmpGtn b a d) s = execIcmpGtn b a d s := rfl
@[simp] theorem exec_icmpGen (b a d : Nat) (s : State) : exec (.icmpGen b a d) s = execIcmpGen b a d s := rfl
@[simp] theorem exec_qand (b a d : Nat) (s : State) : exec (.qand b a d) s = execQand b a d s := rfl
@[simp] theorem exec_qor (b a d : Nat) (s : State) : exec (.qor b a d) s = execQor b a d s := rfl
@[simp] theorem exec_qxor (b a d : Nat) (s : State) : exec (.qxor b a d) s = execQxor b a d s := rfl
@[simp] theorem exec_qandn (b a d : Nat) (s : State) : exec (.qandn b a d) s = execQandn b a d s := rfl
@[simp] theorem exec_qnot (a d : Nat) (s : State) : exec (.qnot a d) s = execQnot a d s := rfl
@[simp] theorem exec_qset (v d : Nat) (s : State) : exec (.qset v d) s = execQset v d s := rfl
@[simp] theorem exec_qmov (a d : Nat) (s : State) : exec (.qmov a d) s = execQmov a d s := rfl
@[simp] theorem exec_qpack (a d : Nat) (s : State) : exec (.qpack a d) s = execQpack a d s := rfl
@[simp] theorem exec_qunpack (a d : Nat) (s : State) : exec (.qunpack a d) s = execQunpack a d s := rfl
@[simp] theorem exec_sel (b a d : Nat) (s : State) : exec (.sel b a d) s = execSel b a d s := rfl
@[simp] theorem exec_voteAny (a d : Nat) (s : State) : exec (.voteAny a d) s = execVoteAny a d s := rfl
@[simp] theorem exec_voteAll (a d : Nat) (s : State) : exec (.voteAll a d) s = execVoteAll a d s := rfl
@[simp] theorem exec_voteCnt (a d : Nat) (s : State) : exec (.voteCnt a d) s = execVoteCnt a d s := rfl
@[simp] theorem exec_voteBallot (a d : Nat) (s : State) : exec (.voteBallot a d) s = execVoteBallot a d s := rfl
@[simp] theorem exec_shflIdx (b a d : Nat) (s : State) : exec (.shflIdx b a d) s = execShflIdx b a d s := rfl
@[simp] theorem exec_shflUp (b a d : Nat) (s : State) : exec (.shflUp b a d) s = execShflUp b a d s := rfl
@[simp] theorem exec_shflDn (b a d : Nat) (s : State) : exec (.shflDn b a d) s = execShflDn b a d s := rfl
@[simp] theorem exec_shflXor (b a d : Nat) (s : State) : exec (.shflXor b a d) s = execShflXor b a d s := rfl
@[simp] theorem exec_bcast (b a d : Nat) (s : State) : exec (.bcast b a d) s = execBcast b a d s := rfl
@[simp] theorem exec_reduxAdd (a d : Nat) (s : State) : exec (.reduxAdd a d) s = execReduxAdd a d s := rfl
@[simp] theorem exec_reduxMin (a d : Nat) (s : State) : exec (.reduxMin a d) s = execReduxMin a d s := rfl
@[simp] theorem exec_reduxMax (a d : Nat) (s : State) : exec (.reduxMax a d) s = execReduxMax a d s := rfl
@[simp] theorem exec_reduxMinn (a d : Nat) (s : State) : exec (.reduxMinn a d) s = execReduxMinn a d s := rfl
@[simp] theorem exec_reduxMaxn (a d : Nat) (s : State) : exec (.reduxMaxn a d) s = execReduxMaxn a d s := rfl
@[simp] theorem exec_mrank (d : Nat) (s : State) : exec (.mrank d) s = execMrank d s := rfl
@[simp] theorem exec_fadd (r b a d : Nat) (s : State) : exec (.fadd r b a d) s = execFadd r b a d s := rfl
@[simp] theorem exec_fsub (r b a d : Nat) (s : State) : exec (.fsub r b a d) s = execFsub r b a d s := rfl
@[simp] theorem exec_fmul (r b a d : Nat) (s : State) : exec (.fmul r b a d) s = execFmul r b a d s := rfl
@[simp] theorem exec_fma (r b a d : Nat) (s : State) : exec (.fma r b a d) s = execFma r b a d s := rfl
@[simp] theorem exec_fdiv (r b a d : Nat) (s : State) : exec (.fdiv r b a d) s = execFdiv r b a d s := rfl
@[simp] theorem exec_fsqrt (r a d : Nat) (s : State) : exec (.fsqrt r a d) s = execFsqrt r a d s := rfl
@[simp] theorem exec_fmin (b a d : Nat) (s : State) : exec (.fmin b a d) s = execFmin b a d s := rfl
@[simp] theorem exec_fmax (b a d : Nat) (s : State) : exec (.fmax b a d) s = execFmax b a d s := rfl
@[simp] theorem exec_fabs (a d : Nat) (s : State) : exec (.fabs a d) s = execFabs a d s := rfl
@[simp] theorem exec_fneg (a d : Nat) (s : State) : exec (.fneg a d) s = execFneg a d s := rfl
@[simp] theorem exec_frcp (a d : Nat) (s : State) : exec (.frcp a d) s = execFrcp a d s := rfl
@[simp] theorem exec_frsqrt (a d : Nat) (s : State) : exec (.frsqrt a d) s = execFrsqrt a d s := rfl
@[simp] theorem exec_fexp2 (a d : Nat) (s : State) : exec (.fexp2 a d) s = execFexp2 a d s := rfl
@[simp] theorem exec_flog2 (a d : Nat) (s : State) : exec (.flog2 a d) s = execFlog2 a d s := rfl
@[simp] theorem exec_fsin (a d : Nat) (s : State) : exec (.fsin a d) s = execFsin a d s := rfl
@[simp] theorem exec_fcos (a d : Nat) (s : State) : exec (.fcos a d) s = execFcos a d s := rfl
@[simp] theorem exec_fclass (a d : Nat) (s : State) : exec (.fclass a d) s = execFclass a d s := rfl
@[simp] theorem exec_frint (m a d : Nat) (s : State) : exec (.frint m a d) s = execFrint m a d s := rfl
@[simp] theorem exec_ffrac (a d : Nat) (s : State) : exec (.ffrac a d) s = execFfrac a d s := rfl
@[simp] theorem exec_fcopysign (b a d : Nat) (s : State) : exec (.fcopysign b a d) s = execFcopysign b a d s := rfl
@[simp] theorem exec_fscale (b a d : Nat) (s : State) : exec (.fscale b a d) s = execFscale b a d s := rfl
@[simp] theorem exec_fsat (a d : Nat) (s : State) : exec (.fsat a d) s = execFsat a d s := rfl
@[simp] theorem exec_fcmpEq (b a d : Nat) (s : State) : exec (.fcmpEq b a d) s = execFcmpEq b a d s := rfl
@[simp] theorem exec_fcmpNe (b a d : Nat) (s : State) : exec (.fcmpNe b a d) s = execFcmpNe b a d s := rfl
@[simp] theorem exec_fcmpLt (b a d : Nat) (s : State) : exec (.fcmpLt b a d) s = execFcmpLt b a d s := rfl
@[simp] theorem exec_fcmpLe (b a d : Nat) (s : State) : exec (.fcmpLe b a d) s = execFcmpLe b a d s := rfl
@[simp] theorem exec_fcmpGt (b a d : Nat) (s : State) : exec (.fcmpGt b a d) s = execFcmpGt b a d s := rfl
@[simp] theorem exec_fcmpGe (b a d : Nat) (s : State) : exec (.fcmpGe b a d) s = execFcmpGe b a d s := rfl
@[simp] theorem exec_fcmpUn (b a d : Nat) (s : State) : exec (.fcmpUn b a d) s = execFcmpUn b a d s := rfl
@[simp] theorem exec_fcmpOrd (b a d : Nat) (s : State) : exec (.fcmpOrd b a d) s = execFcmpOrd b a d s := rfl
@[simp] theorem exec_hadd2Bf16 (r b a d : Nat) (s : State) : exec (.hadd2Bf16 r b a d) s = execHadd2Bf16 r b a d s := rfl
@[simp] theorem exec_hsub2Bf16 (r b a d : Nat) (s : State) : exec (.hsub2Bf16 r b a d) s = execHsub2Bf16 r b a d s := rfl
@[simp] theorem exec_hmul2Bf16 (r b a d : Nat) (s : State) : exec (.hmul2Bf16 r b a d) s = execHmul2Bf16 r b a d s := rfl
@[simp] theorem exec_hfma2Bf16 (r b a d : Nat) (s : State) : exec (.hfma2Bf16 r b a d) s = execHfma2Bf16 r b a d s := rfl
@[simp] theorem exec_hmin2Bf16 (b a d : Nat) (s : State) : exec (.hmin2Bf16 b a d) s = execHmin2Bf16 b a d s := rfl
@[simp] theorem exec_hmax2Bf16 (b a d : Nat) (s : State) : exec (.hmax2Bf16 b a d) s = execHmax2Bf16 b a d s := rfl
@[simp] theorem exec_hadd2F16 (r b a d : Nat) (s : State) : exec (.hadd2F16 r b a d) s = execHadd2F16 r b a d s := rfl
@[simp] theorem exec_hsub2F16 (r b a d : Nat) (s : State) : exec (.hsub2F16 r b a d) s = execHsub2F16 r b a d s := rfl
@[simp] theorem exec_hmul2F16 (r b a d : Nat) (s : State) : exec (.hmul2F16 r b a d) s = execHmul2F16 r b a d s := rfl
@[simp] theorem exec_hfma2F16 (r b a d : Nat) (s : State) : exec (.hfma2F16 r b a d) s = execHfma2F16 r b a d s := rfl
@[simp] theorem exec_hmin2F16 (b a d : Nat) (s : State) : exec (.hmin2F16 b a d) s = execHmin2F16 b a d s := rfl
@[simp] theorem exec_hmax2F16 (b a d : Nat) (s : State) : exec (.hmax2F16 b a d) s = execHmax2F16 b a d s := rfl
@[simp] theorem exec_cvt (f r sc a d : Nat) (s : State) : exec (.cvt f r sc a d) s = execCvt f r sc a d s := rfl
@[simp] theorem exec_ldB (o a d : Nat) (s : State) : exec (.ldB o a d) s = execLdB o a d s := rfl
@[simp] theorem exec_ldH (o a d : Nat) (s : State) : exec (.ldH o a d) s = execLdH o a d s := rfl
@[simp] theorem exec_ldW (o a d : Nat) (s : State) : exec (.ldW o a d) s = execLdW o a d s := rfl
@[simp] theorem exec_ldD (o a d : Nat) (s : State) : exec (.ldD o a d) s = execLdD o a d s := rfl
@[simp] theorem exec_ldsB (o a d : Nat) (s : State) : exec (.ldsB o a d) s = execLdsB o a d s := rfl
@[simp] theorem exec_ldsH (o a d : Nat) (s : State) : exec (.ldsH o a d) s = execLdsH o a d s := rfl
@[simp] theorem exec_ldsQ (o a d : Nat) (s : State) : exec (.ldsQ o a d) s = execLdsQ o a d s := rfl
@[simp] theorem exec_stB (o a d : Nat) (s : State) : exec (.stB o a d) s = execStB o a d s := rfl
@[simp] theorem exec_stH (o a d : Nat) (s : State) : exec (.stH o a d) s = execStH o a d s := rfl
@[simp] theorem exec_stW (o a d : Nat) (s : State) : exec (.stW o a d) s = execStW o a d s := rfl
@[simp] theorem exec_stD (o a d : Nat) (s : State) : exec (.stD o a d) s = execStD o a d s := rfl
@[simp] theorem exec_stQ (o a d : Nat) (s : State) : exec (.stQ o a d) s = execStQ o a d s := rfl
@[simp] theorem exec_ldAcqW (sc a d : Nat) (s : State) : exec (.ldAcqW sc a d) s = execLdAcqW sc a d s := rfl
@[simp] theorem exec_ldAcqD (sc a d : Nat) (s : State) : exec (.ldAcqD sc a d) s = execLdAcqD sc a d s := rfl
@[simp] theorem exec_stRelW (sc a d : Nat) (s : State) : exec (.stRelW sc a d) s = execStRelW sc a d s := rfl
@[simp] theorem exec_stRelD (sc a d : Nat) (s : State) : exec (.stRelD sc a d) s = execStRelD sc a d s := rfl
@[simp] theorem exec_fenceAcq (sc : Nat) (s : State) : exec (.fenceAcq sc) s = execFenceAcq sc s := rfl
@[simp] theorem exec_fenceRel (sc : Nat) (s : State) : exec (.fenceRel sc) s = execFenceRel sc s := rfl
@[simp] theorem exec_atomAdd (b a d : Nat) (s : State) : exec (.atomAdd b a d) s = execAtomAdd b a d s := rfl
@[simp] theorem exec_atomMin (b a d : Nat) (s : State) : exec (.atomMin b a d) s = execAtomMin b a d s := rfl
@[simp] theorem exec_atomMax (b a d : Nat) (s : State) : exec (.atomMax b a d) s = execAtomMax b a d s := rfl
@[simp] theorem exec_atomMinn (b a d : Nat) (s : State) : exec (.atomMinn b a d) s = execAtomMinn b a d s := rfl
@[simp] theorem exec_atomMaxn (b a d : Nat) (s : State) : exec (.atomMaxn b a d) s = execAtomMaxn b a d s := rfl
@[simp] theorem exec_atomAnd (b a d : Nat) (s : State) : exec (.atomAnd b a d) s = execAtomAnd b a d s := rfl
@[simp] theorem exec_atomOr (b a d : Nat) (s : State) : exec (.atomOr b a d) s = execAtomOr b a d s := rfl
@[simp] theorem exec_atomXor (b a d : Nat) (s : State) : exec (.atomXor b a d) s = execAtomXor b a d s := rfl
@[simp] theorem exec_atomXchg (b a d : Nat) (s : State) : exec (.atomXchg b a d) s = execAtomXchg b a d s := rfl
@[simp] theorem exec_atomInc (b a d : Nat) (s : State) : exec (.atomInc b a d) s = execAtomInc b a d s := rfl
@[simp] theorem exec_atomAddNr (b a : Nat) (s : State) : exec (.atomAddNr b a) s = execAtomAddNr b a s := rfl
@[simp] theorem exec_atomMinNr (b a : Nat) (s : State) : exec (.atomMinNr b a) s = execAtomMinNr b a s := rfl
@[simp] theorem exec_atomMaxNr (b a : Nat) (s : State) : exec (.atomMaxNr b a) s = execAtomMaxNr b a s := rfl
@[simp] theorem exec_atomMinnNr (b a : Nat) (s : State) : exec (.atomMinnNr b a) s = execAtomMinnNr b a s := rfl
@[simp] theorem exec_atomMaxnNr (b a : Nat) (s : State) : exec (.atomMaxnNr b a) s = execAtomMaxnNr b a s := rfl
@[simp] theorem exec_atomAndNr (b a : Nat) (s : State) : exec (.atomAndNr b a) s = execAtomAndNr b a s := rfl
@[simp] theorem exec_atomOrNr (b a : Nat) (s : State) : exec (.atomOrNr b a) s = execAtomOrNr b a s := rfl
@[simp] theorem exec_atomXorNr (b a : Nat) (s : State) : exec (.atomXorNr b a) s = execAtomXorNr b a s := rfl
@[simp] theorem exec_atomXchgNr (b a : Nat) (s : State) : exec (.atomXchgNr b a) s = execAtomXchgNr b a s := rfl
@[simp] theorem exec_atomIncNr (b a : Nat) (s : State) : exec (.atomIncNr b a) s = execAtomIncNr b a s := rfl
@[simp] theorem exec_atomCas (b a d : Nat) (s : State) : exec (.atomCas b a d) s = execAtomCas b a d s := rfl
@[simp] theorem exec_atomFx (b a d : Nat) (s : State) : exec (.atomFx b a d) s = execAtomFx b a d s := rfl
@[simp] theorem exec_atomAddD (b a d : Nat) (s : State) : exec (.atomAddD b a d) s = execAtomAddD b a d s := rfl
@[simp] theorem exec_atomFxNr (b a : Nat) (s : State) : exec (.atomFxNr b a) s = execAtomFxNr b a s := rfl
@[simp] theorem exec_atomAddDNr (b a : Nat) (s : State) : exec (.atomAddDNr b a) s = execAtomAddDNr b a s := rfl
@[simp] theorem exec_cpyIn (b a c : Nat) (s : State) : exec (.cpyIn b a c) s = execCpyIn b a c s := rfl
@[simp] theorem exec_cpyOut (b a c : Nat) (s : State) : exec (.cpyOut b a c) s = execCpyOut b a c s := rfl
@[simp] theorem exec_cpyMc (b a c : Nat) (s : State) : exec (.cpyMc b a c) s = execCpyMc b a c s := rfl
@[simp] theorem exec_cpyGen (b a c : Nat) (s : State) : exec (.cpyGen b a c) s = execCpyGen b a c s := rfl
@[simp] theorem exec_cpyPf (b a d : Nat) (s : State) : exec (.cpyPf b a d) s = execCpyPf b a d s := rfl
@[simp] theorem exec_cpySeal (d : Nat) (s : State) : exec (.cpySeal d) s = execCpySeal d s := rfl
@[simp] theorem exec_cpyWait (n : Nat) (s : State) : exec (.cpyWait n) s = execCpyWait n s := rfl
@[simp] theorem exec_cpyVis (sc n : Nat) (s : State) : exec (.cpyVis sc n) s = execCpyVis sc n s := rfl
@[simp] theorem exec_cpyStat (k d : Nat) (s : State) : exec (.cpyStat k d) s = execCpyStat k d s := rfl
@[simp] theorem exec_barInit (b a : Nat) (s : State) : exec (.barInit b a) s = execBarInit b a s := rfl
@[simp] theorem exec_barArr (a d : Nat) (s : State) : exec (.barArr a d) s = execBarArr a d s := rfl
@[simp] theorem exec_barArrb (a d : Nat) (s : State) : exec (.barArrb a d) s = execBarArrb a d s := rfl
@[simp] theorem exec_barExp (b a : Nat) (s : State) : exec (.barExp b a) s = execBarExp b a s := rfl
@[simp] theorem exec_barWait (b a : Nat) (s : State) : exec (.barWait b a) s = execBarWait b a s := rfl
@[simp] theorem exec_barTry (b a d : Nat) (s : State) : exec (.barTry b a d) s = execBarTry b a d s := rfl
@[simp] theorem exec_carve (b a d : Nat) (s : State) : exec (.carve b a d) s = execCarve b a d s := rfl
@[simp] theorem exec_mwait (b a d : Nat) (s : State) : exec (.mwait b a d) s = execMwait b a d s := rfl
@[simp] theorem exec_mma (sc b a d : Nat) (s : State) : exec (.mma sc b a d) s = execMma sc b a d s := rfl
@[simp] theorem exec_mdrain (a : Nat) (s : State) : exec (.mdrain a) s = execMdrain a s := rfl
@[simp] theorem exec_mzero (b : Nat) (s : State) : exec (.mzero b) s = execMzero b s := rfl
@[simp] theorem exec_ringDef (b a r : Nat) (s : State) : exec (.ringDef b a r) s = execRingDef b a r s := rfl
@[simp] theorem exec_ringAdv (b a r : Nat) (s : State) : exec (.ringAdv b a r) s = execRingAdv b a r s := rfl
@[simp] theorem exec_ringRel (b r : Nat) (s : State) : exec (.ringRel b r) s = execRingRel b r s := rfl
@[simp] theorem exec_ringRelRst (r : Nat) (s : State) : exec (.ringRelRst r) s = execRingRelRst r s := rfl
@[simp] theorem exec_ringStat (r d : Nat) (s : State) : exec (.ringStat r d) s = execRingStat r d s := rfl
@[simp] theorem exec_cbld (b a : Nat) (s : State) : exec (.cbld b a) s = execCbld b a s := rfl
@[simp] theorem exec_wmul (b a d : Nat) (s : State) : exec (.wmul b a d) s = execWmul b a d s := rfl
@[simp] theorem exec_wmuln (b a d : Nat) (s : State) : exec (.wmuln b a d) s = execWmuln b a d s := rfl
@[simp] theorem exec_wmac (b a d : Nat) (s : State) : exec (.wmac b a d) s = execWmac b a d s := rfl
@[simp] theorem exec_wadd (b a d : Nat) (s : State) : exec (.wadd b a d) s = execWadd b a d s := rfl
@[simp] theorem exec_wsub (b a d : Nat) (s : State) : exec (.wsub b a d) s = execWsub b a d s := rfl
@[simp] theorem exec_wneg (a d : Nat) (s : State) : exec (.wneg a d) s = execWneg a d s := rfl
@[simp] theorem exec_wshs (b a d : Nat) (s : State) : exec (.wshs b a d) s = execWshs b a d s := rfl
@[simp] theorem exec_wshb (b a d : Nat) (s : State) : exec (.wshb b a d) s = execWshb b a d s := rfl
@[simp] theorem exec_pack (b a d : Nat) (s : State) : exec (.pack b a d) s = execPack b a d s := rfl
@[simp] theorem exec_extr (b a d : Nat) (s : State) : exec (.extr b a d) s = execExtr b a d s := rfl
@[simp] theorem exec_gchk (b a : Nat) (s : State) : exec (.gchk b a) s = execGchk b a s := rfl
@[simp] theorem exec_gwid (b a d : Nat) (s : State) : exec (.gwid b a d) s = execGwid b a d s := rfl
@[simp] theorem exec_cbdec (a d : Nat) (s : State) : exec (.cbdec a d) s = execCbdec a d s := rfl
@[simp] theorem exec_wcmp (b a d : Nat) (s : State) : exec (.wcmp b a d) s = execWcmp b a d s := rfl
@[simp] theorem exec_spawn (a : Nat) (s : State) : exec (.spawn a) s = execSpawn a s := rfl
@[simp] theorem exec_spawnl (a : Nat) (s : State) : exec (.spawnl a) s = execSpawnl a s := rfl
@[simp] theorem exec_take (a d : Nat) (s : State) : exec (.take a d) s = execTake a d s := rfl
@[simp] theorem exec_resolve (b a : Nat) (s : State) : exec (.resolve b a) s = execResolve b a s := rfl
@[simp] theorem exec_refAdd (a d : Nat) (s : State) : exec (.refAdd a d) s = execRefAdd a d s := rfl
@[simp] theorem exec_refDrop (a d : Nat) (s : State) : exec (.refDrop a d) s = execRefDrop a d s := rfl
@[simp] theorem exec_probe (a d : Nat) (s : State) : exec (.probe a d) s = execProbe a d s := rfl
@[simp] theorem exec_join (a : Nat) (s : State) : exec (.join a) s = execJoin a s := rfl
@[simp] theorem exec_migrate (a d : Nat) (s : State) : exec (.migrate a d) s = execMigrate a d s := rfl
@[simp] theorem exec_launch (q a : Nat) (s : State) : exec (.launch q a) s = execLaunch q a s := rfl
@[simp] theorem exec_cancelL (a d : Nat) (s : State) : exec (.cancelL a d) s = execCancelL a d s := rfl
@[simp] theorem exec_cancelG (a d : Nat) (s : State) : exec (.cancelG a d) s = execCancelG a d s := rfl
@[simp] theorem exec_cancelJ (d : Nat) (s : State) : exec (.cancelJ d) s = execCancelJ d s := rfl
@[simp] theorem exec_regEnter (im : Nat) (s : State) : exec (.regEnter im) s = execRegEnter im s := rfl
@[simp] theorem exec_regLeave (im : Nat) (s : State) : exec (.regLeave im) s = execRegLeave im s := rfl
@[simp] theorem exec_tmark (b k : Nat) (s : State) : exec (.tmark b k) s = execTmark b k s := rfl
@[simp] theorem exec_wptSet (b a d : Nat) (s : State) : exec (.wptSet b a d) s = execWptSet b a d s := rfl
@[simp] theorem exec_wptClr (b d : Nat) (s : State) : exec (.wptClr b d) s = execWptClr b d s := rfl
@[simp] theorem exec_tagSet (a : Nat) (s : State) : exec (.tagSet a) s = execTagSet a s := rfl
@[simp] theorem exec_tagGet (a d : Nat) (s : State) : exec (.tagGet a d) s = execTagGet a d s := rfl
@[simp] theorem exec_tagSetr (b a : Nat) (s : State) : exec (.tagSetr b a) s = execTagSetr b a s := rfl
@[simp] theorem exec_sread (r d : Nat) (s : State) : exec (.sread r d) s = execSread r d s := rfl
@[simp] theorem exec_swrite (r a : Nat) (s : State) : exec (.swrite r a) s = execSwrite r a s := rfl
@[simp] theorem exec_tlbInvPg (a : Nat) (s : State) : exec (.tlbInvPg a) s = execTlbInvPg a s := rfl
@[simp] theorem exec_tlbInvRng (b a : Nat) (s : State) : exec (.tlbInvRng b a) s = execTlbInvRng b a s := rfl
@[simp] theorem exec_dirtyHarvPg (a : Nat) (s : State) : exec (.dirtyHarvPg a) s = execDirtyHarvPg a s := rfl
@[simp] theorem exec_dirtyHarvRng (b a : Nat) (s : State) : exec (.dirtyHarvRng b a) s = execDirtyHarvRng b a s := rfl
@[simp] theorem exec_nop (s : State) : exec .nop s = execNop s := rfl
@[simp] theorem exec_ret (s : State) : exec .ret s = execRet s := rfl
@[simp] theorem exec_exit (s : State) : exec .exit s = execExit s := rfl
@[simp] theorem exec_yield (s : State) : exec .yield s = execYield s := rfl
@[simp] theorem exec_tfence (s : State) : exec .tfence s = execTfence s := rfl
@[simp] theorem exec_tret (s : State) : exec .tret s = execTret s := rfl
@[simp] theorem exec_halt (s : State) : exec .halt s = execHalt s := rfl
@[simp] theorem exec_barBlk (s : State) : exec .barBlk s = execBarBlk s := rfl
@[simp] theorem exec_barClu (s : State) : exec .barClu s = execBarClu s := rfl
@[simp] theorem exec_mfence (s : State) : exec .mfence s = execMfence s := rfl
@[simp] theorem exec_reclaim (s : State) : exec .reclaim s = execReclaim s := rfl
@[simp] theorem exec_tlbInvCtx (s : State) : exec .tlbInvCtx s = execTlbInvCtx s := rfl
@[simp] theorem exec_dirtyHarvCtx (s : State) : exec .dirtyHarvCtx s = execDirtyHarvCtx s := rfl
@[simp] theorem exec_fenceGng (s : State) : exec .fenceGng s = execFenceGng s := rfl
@[simp] theorem exec_fenceBlk (s : State) : exec .fenceBlk s = execFenceBlk s := rfl
@[simp] theorem exec_fenceClu (s : State) : exec .fenceClu s = execFenceClu s := rfl
@[simp] theorem exec_fenceDie (s : State) : exec .fenceDie s = execFenceDie s := rfl
@[simp] theorem exec_fenceDev (s : State) : exec .fenceDev s = execFenceDev s := rfl
@[simp] theorem exec_fenceDom (s : State) : exec .fenceDom s = execFenceDom s := rfl
@[simp] theorem exec_submitTail (s : State) : exec .submitTail s = execSubmitTail s := rfl
@[simp] theorem exec_takeEntry (s : State) : exec .takeEntry s = execTakeEntry s := rfl
@[simp] theorem exec_leaseAck (s : State) : exec .leaseAck s = execLeaseAck s := rfl
@[simp] theorem exec_preemptMark (s : State) : exec .preemptMark s = execPreemptMark s := rfl
@[simp] theorem exec_preemptClear (s : State) : exec .preemptClear s = execPreemptClear s := rfl
@[simp] theorem exec_cmdCancelL (s : State) : exec .cmdCancelL s = execCmdCancelL s := rfl
@[simp] theorem exec_cmdCancelG (s : State) : exec .cmdCancelG s = execCmdCancelG s := rfl
@[simp] theorem exec_cmdCancelJ (s : State) : exec .cmdCancelJ s = execCmdCancelJ s := rfl
@[simp] theorem exec_shootdown (s : State) : exec .shootdown s = execShootdown s := rfl
@[simp] theorem exec_harvest (s : State) : exec .harvest s = execHarvest s := rfl
@[simp] theorem exec_shadowRetire (s : State) : exec .shadowRetire s = execShadowRetire s := rfl
@[simp] theorem exec_haltReq (s : State) : exec .haltReq s = execHaltReq s := rfl
@[simp] theorem exec_regionBp (s : State) : exec .regionBp s = execRegionBp s := rfl
@[simp] theorem exec_stopMode (s : State) : exec .stopMode s = execStopMode s := rfl
@[simp] theorem exec_resume (s : State) : exec .resume s = execResume s := rfl
@[simp] theorem exec_breakEn (s : State) : exec .breakEn s = execBreakEn s := rfl
@[simp] theorem exec_sample (s : State) : exec .sample s = execSample s := rfl
@[simp] theorem exec_zeroHist (s : State) : exec .zeroHist s = execZeroHist s := rfl
@[simp] theorem exec_readState (s : State) : exec .readState s = execReadState s := rfl
@[simp] theorem exec_evict (s : State) : exec .evict s = execEvict s := rfl
@[simp] theorem exec_moduleNumberWrite (s : State) : exec .moduleNumberWrite s = execModuleNumberWrite s := rfl
@[simp] theorem exec_eventHeadWrite (s : State) : exec .eventHeadWrite s = execEventHeadWrite s := rfl
@[simp] theorem exec_mgmtRegisterWrite (s : State) : exec .mgmtRegisterWrite s = execMgmtRegisterWrite s := rfl
@[simp] theorem exec_placementOpportunity (s : State) : exec .placementOpportunity s = execPlacementOpportunity s := rfl
@[simp] theorem exec_parameterCopy (s : State) : exec .parameterCopy s = execParameterCopy s := rfl
@[simp] theorem exec_launchEnd (s : State) : exec .launchEnd s = execLaunchEnd s := rfl
@[simp] theorem exec_clauseFetch (s : State) : exec .clauseFetch s = execClauseFetch s := rfl
@[simp] theorem exec_clauseStart (s : State) : exec .clauseStart s = execClauseStart s := rfl
@[simp] theorem exec_issueSelect (s : State) : exec .issueSelect s = execIssueSelect s := rfl
@[simp] theorem exec_agingClassRise (s : State) : exec .agingClassRise s = execAgingClassRise s := rfl
@[simp] theorem exec_instructionComplete (s : State) : exec .instructionComplete s = execInstructionComplete s := rfl
@[simp] theorem exec_flagWaitResume (s : State) : exec .flagWaitResume s = execFlagWaitResume s := rfl
@[simp] theorem exec_accessAtTarget (s : State) : exec .accessAtTarget s = execAccessAtTarget s := rfl
@[simp] theorem exec_gangWake (s : State) : exec .gangWake s = execGangWake s := rfl
@[simp] theorem exec_gangEviction (s : State) : exec .gangEviction s = execGangEviction s := rfl
@[simp] theorem exec_deferredFaultDelivery (s : State) : exec .deferredFaultDelivery s = execDeferredFaultDelivery s := rfl
@[simp] theorem exec_copyChannelStart (s : State) : exec .copyChannelStart s = execCopyChannelStart s := rfl
@[simp] theorem exec_ringClaim (s : State) : exec .ringClaim s = execRingClaim s := rfl
@[simp] theorem exec_l2Fill (s : State) : exec .l2Fill s = execL2Fill s := rfl
@[simp] theorem exec_copyDelivery (s : State) : exec .copyDelivery s = execCopyDelivery s := rfl
@[simp] theorem exec_prefetchLinePresent (s : State) : exec .prefetchLinePresent s = execPrefetchLinePresent s := rfl
@[simp] theorem exec_mwaitTimeout (s : State) : exec .mwaitTimeout s = execMwaitTimeout s := rfl
@[simp] theorem exec_denseProductAdmit (s : State) : exec .denseProductAdmit s = execDenseProductAdmit s := rfl
@[simp] theorem exec_engineCommandStart (s : State) : exec .engineCommandStart s = execEngineCommandStart s := rfl
@[simp] theorem exec_chunkFire (s : State) : exec .chunkFire s = execChunkFire s := rfl
@[simp] theorem exec_mmaComplete (s : State) : exec .mmaComplete s = execMmaComplete s := rfl
@[simp] theorem exec_drainComplete (s : State) : exec .drainComplete s = execDrainComplete s := rfl
@[simp] theorem exec_mzeroComplete (s : State) : exec .mzeroComplete s = execMzeroComplete s := rfl
@[simp] theorem exec_cbldComplete (s : State) : exec .cbldComplete s = execCbldComplete s := rfl
@[simp] theorem exec_migrateMove (s : State) : exec .migrateMove s = execMigrateMove s := rfl
@[simp] theorem exec_tlbWalk (s : State) : exec .tlbWalk s = execTlbWalk s := rfl
@[simp] theorem exec_dirtySweep (s : State) : exec .dirtySweep s = execDirtySweep s := rfl
@[simp] theorem exec_traceSample (s : State) : exec .traceSample s = execTraceSample s := rfl
@[simp] theorem exec_gateStallDivergence (s : State) : exec .gateStallDivergence s = execGateStallDivergence s := rfl
@[simp] theorem exec_parityReplay (s : State) : exec .parityReplay s = execParityReplay s := rfl
@[simp] theorem exec_eccError (s : State) : exec .eccError s = execEccError s := rfl
@[simp] theorem exec_linkFlit (s : State) : exec .linkFlit s = execLinkFlit s := rfl
@[simp] theorem exec_linkFailure (s : State) : exec .linkFailure s = execLinkFailure s := rfl
@[simp] theorem exec_timeSync (s : State) : exec .timeSync s = execTimeSync s := rfl
@[simp] theorem exec_powerCap (s : State) : exec .powerCap s = execPowerCap s := rfl
@[simp] theorem exec_powerGood (s : State) : exec .powerGood s = execPowerGood s := rfl
@[simp] theorem exec_startTimeout (s : State) : exec .startTimeout s = execStartTimeout s := rfl
@[simp] theorem exec_imageReceive (s : State) : exec .imageReceive s = execImageReceive s := rfl
@[simp] theorem exec_kChunkComplete (s : State) : exec .kChunkComplete s = execKChunkComplete s := rfl
@[simp] theorem exec_unknownCommand (s : State) : exec .unknownCommand s = execUnknownCommand s := rfl

end Sys2Proof.Machine
end

