-- ==== Sys2Proof/Laws/FMap.lean ====
section
/-! SUPPORT. The laws of finite maps and byte stores: a read after a write, and the canonical form that every operation
keeps. -/

namespace Sys2Proof.Machine

@[simp] theorem fget_nil {α : Type} (k : Nat) : fget ([] : FMap α) k = none := rfl

theorem fget_fput {α : Type} (m : FMap α) (k i : Nat) (v : α) :
    fget (fput m k v) i = if i = k then some v else fget m i := by
  induction m with
  | nil => simp [fput, fget]
  | cons p t ih =>
    obtain ⟨k', v'⟩ := p
    simp only [fput]
    split
    · simp [fget]
    · split
      · subst k'
        simp only [fget]
        split <;> simp_all
      · simp only [fget, ih]
        split
        · rw [if_neg (by omega)]
        · rfl

theorem fget_fdel {α : Type} (m : FMap α) (k i : Nat) :
    fget (fdel m k) i = if i = k then none else fget m i := by
  induction m with
  | nil => simp [fdel]
  | cons p t ih =>
    obtain ⟨k', v'⟩ := p
    simp only [fdel]
    split
    · simp only [ih, fget]
      split <;> simp_all
    · simp only [fget, ih]
      split
      · rw [if_neg (by omega)]
      · rfl

theorem fgetD_fset {α : Type} [DecidableEq α] (m : FMap α) (k i : Nat) (v d : α) :
    fgetD (fset m k v d) i d = if i = k then v else fgetD m i d := by
  unfold fset fgetD
  split
  · rw [fget_fdel]; split <;> simp_all
  · rw [fget_fput]; split <;> simp_all

theorem fcanon_mono {α : Type} [DecidableEq α] {d : α} {m : FMap α} {lo lo' : Nat} (h : lo' ≤ lo)
    (hm : fcanon d lo m = true) : fcanon d lo' m = true := by
  cases m with
  | nil => rfl
  | cons p t =>
    obtain ⟨k, v⟩ := p
    simp only [fcanon, Bool.and_eq_true, decide_eq_true_eq] at hm ⊢
    exact ⟨⟨by omega, hm.1.2⟩, hm.2⟩

theorem fcanon_fput {α : Type} [DecidableEq α] {d v : α} (hv : v ≠ d) (k : Nat) :
    ∀ (m : FMap α) (lo : Nat), lo ≤ k → fcanon d lo m = true → fcanon d lo (fput m k v) = true
  | [], lo, hk, _ => by simp [fput, fcanon, hk, hv]
  | (k', v') :: t, lo, hk, h => by
    simp only [fcanon, Bool.and_eq_true, decide_eq_true_eq] at h
    simp only [fput]
    split
    · simp only [fcanon, Bool.and_eq_true, decide_eq_true_eq]
      exact ⟨⟨hk, hv⟩, ⟨by omega, h.1.2⟩, h.2⟩
    · split
      · subst k'
        simp only [fcanon, Bool.and_eq_true, decide_eq_true_eq]
        exact ⟨⟨hk, hv⟩, h.2⟩
      · simp only [fcanon, Bool.and_eq_true, decide_eq_true_eq]
        exact ⟨h.1, fcanon_fput hv k t (k' + 1) (by omega) h.2⟩

theorem fcanon_fdel {α : Type} [DecidableEq α] {d : α} (k : Nat) :
    ∀ (m : FMap α) (lo : Nat), fcanon d lo m = true → fcanon d lo (fdel m k) = true
  | [], _, _ => rfl
  | (k', v') :: t, lo, h => by
    simp only [fcanon, Bool.and_eq_true, decide_eq_true_eq] at h
    simp only [fdel]
    split
    · exact fcanon_mono (by omega) (fcanon_fdel k t (k' + 1) h.2)
    · simp only [fcanon, Bool.and_eq_true, decide_eq_true_eq]
      exact ⟨h.1, fcanon_fdel k t (k' + 1) h.2⟩

/-- Writing a value keeps the canonical form. -/
theorem fcanon_fset {α : Type} [DecidableEq α] {d : α} (m : FMap α) (k : Nat) (v : α) (h : fcanon d 0 m = true) :
    fcanon d 0 (fset m k v d) = true := by
  unfold fset
  split
  · exact fcanon_fdel k m 0 h
  · exact fcanon_fput (by assumption) k m 0 (Nat.zero_le k) h

theorem wrByte_wf (m : FMap Byte) (a : Nat) (b : Byte) (h : Memory.wf m = true) : Memory.wf (wrByte m a b) = true :=
  fcanon_fset m a b h

theorem wrLE_wf : ∀ (n a x : Nat) (m : FMap Byte), Memory.wf m = true → Memory.wf (wrLE m a n x) = true
  | 0, _, _, _, h => h
  | n + 1, a, x, m, h => wrLE_wf n (a + 1) (x / 256) _ (wrByte_wf m a _ h)

theorem wrBytes_wf : ∀ (bs : List Byte) (a : Nat) (m : FMap Byte), Memory.wf m = true → Memory.wf (wrBytes m a bs) = true
  | [], _, _, h => h
  | b :: bs, a, m, h => wrBytes_wf bs (a + 1) _ (wrByte_wf m a b h)

@[simp] theorem rdByte_wrByte (m : FMap Byte) (a i : Nat) (b : Byte) :
    rdByte (wrByte m a b) i = if i = a then b else rdByte m i := fgetD_fset m a i b 0

/-- A byte of a written list, or the old byte outside it. -/
theorem rdByte_wrBytes : ∀ (bs : List Byte) (a i : Nat) (m : FMap Byte),
    rdByte (wrBytes m a bs) i = if a ≤ i ∧ i < a + bs.length then bs.getD (i - a) 0 else rdByte m i
  | [], a, i, m => by simp [wrBytes]
  | b :: bs, a, i, m => by
    simp only [wrBytes, rdByte_wrBytes bs (a + 1) i, rdByte_wrByte, List.length_cons]
    rcases Nat.lt_trichotomy i a with h | h | h
    · rw [if_neg (by omega), if_neg (by omega), if_neg (by omega)]
    · subst h
      rw [if_neg (by omega), if_pos rfl, if_pos (by omega)]
      simp
    · by_cases h2 : i < a + 1 + bs.length
      · rw [if_pos (by omega), if_pos (by omega)]
        obtain ⟨k, rfl⟩ : ∃ k, i = a + 1 + k := ⟨i - (a + 1), by omega⟩
        have e1 : a + 1 + k - (a + 1) = k := by omega
        have e2 : a + 1 + k - a = k + 1 := by omega
        simp [e1, e2]
      · rw [if_neg (by omega), if_neg (by omega), if_neg (by omega)]

/-- A byte of a number written little-endian, or the old byte outside it. -/
theorem rdByte_wrLE : ∀ (n a x i : Nat) (m : FMap Byte),
    rdByte (wrLE m a n x) i = if a ≤ i ∧ i < a + n then BitVec.ofNat 8 (x / 256 ^ (i - a)) else rdByte m i
  | 0, a, x, i, m => by simp [wrLE]
  | n + 1, a, x, i, m => by
    simp only [wrLE, rdByte_wrLE n (a + 1), rdByte_wrByte]
    rcases Nat.lt_trichotomy i a with h | h | h
    · rw [if_neg (by omega), if_neg (by omega), if_neg (by omega)]
    · subst h
      rw [if_neg (by omega), if_pos rfl, if_pos (by omega)]
      simp
    · by_cases h2 : i < a + 1 + n
      · rw [if_pos (by omega), if_pos (by omega)]
        obtain ⟨k, rfl⟩ : ∃ k, i = a + 1 + k := ⟨i - (a + 1), by omega⟩
        have e1 : a + 1 + k - (a + 1) = k := by omega
        have e2 : a + 1 + k - a = k + 1 := by omega
        rw [e1, e2, Nat.pow_succ, Nat.mul_comm (256 ^ k) 256, Nat.div_div_eq_div_mul]
      · rw [if_neg (by omega), if_neg (by omega), if_neg (by omega)]

theorem rdBytes_length : ∀ (n a : Nat) (m : FMap Byte), (rdBytes m a n).length = n
  | 0, _, _ => rfl
  | n + 1, a, m => by simp [rdBytes, rdBytes_length n]

end Sys2Proof.Machine
end

