-- ==== Sys2Proof/Laws/Regs.lean ====
section
/-! SUPPORT. The laws of registers, pairs and predicates: what a write leaves to read. -/

namespace Sys2Proof.Machine

@[simp] theorem lo_mkDbl (lo hi : Word) : Dbl.lo (mkDbl lo hi) = lo := by
  unfold Dbl.lo mkDbl
  rw [BitVec.toNat_append, Nat.shiftLeft_eq]
  apply BitVec.eq_of_toNat_eq
  rw [BitVec.toNat_ofNat, ← Nat.shiftLeft_eq, ← Nat.shiftLeft_add_eq_or_of_lt lo.isLt, Nat.shiftLeft_eq]
  have := lo.isLt
  omega

@[simp] theorem hi_mkDbl (lo hi : Word) : Dbl.hi (mkDbl lo hi) = hi := by
  unfold Dbl.hi mkDbl
  rw [BitVec.toNat_append]
  apply BitVec.eq_of_toNat_eq
  rw [BitVec.toNat_ofNat, ← Nat.shiftLeft_add_eq_or_of_lt lo.isLt, Nat.shiftLeft_eq]
  have := lo.isLt
  have := hi.isLt
  omega

theorem mkDbl_lo_hi (x : Dbl) : mkDbl (Dbl.lo x) (Dbl.hi x) = x := by
  unfold Dbl.hi Dbl.lo mkDbl
  apply BitVec.eq_of_toNat_eq
  have h1 : x.toNat % 4294967296 < 2 ^ 32 := by omega
  have := x.isLt
  rw [BitVec.toNat_append, BitVec.toNat_ofNat, BitVec.toNat_ofNat, ← Nat.shiftLeft_add_eq_or_of_lt h1, Nat.shiftLeft_eq]
  omega

@[simp] theorem rdPhys_wrPhys (t : Thread) (i j : Nat) (v : Word) :
    rdPhys (wrPhys t i v) j = if j = i then v else rdPhys t j := fgetD_fset t.regs i j v 0

@[simp] theorem wrPhys_wbase (t : Thread) (i : Nat) (v : Word) : (wrPhys t i v).wbase = t.wbase := rfl
@[simp] theorem wrPhys_save1 (t : Thread) (i : Nat) (v : Word) : (wrPhys t i v).save1 = t.save1 := rfl
@[simp] theorem wrPhys_save2 (t : Thread) (i : Nat) (v : Word) : (wrPhys t i v).save2 = t.save2 := rfl
@[simp] theorem wrPhys_aflags (t : Thread) (i : Nat) (v : Word) : (wrPhys t i v).aflags = t.aflags := rfl
@[simp] theorem saveOf_wrPhys (lv : Nat) (t : Thread) (i : Nat) (v : Word) : saveOf lv (wrPhys t i v) = saveOf lv t := rfl

@[simp] theorem saveOf_setSave (lv : Nat) (t : Thread) (v : Dbl) : saveOf lv (setSave lv t v) = v := by
  unfold saveOf setSave; split <;> rfl

@[simp] theorem rdPhys_setSave (lv : Nat) (t : Thread) (v : Dbl) (i : Nat) : rdPhys (setSave lv t v) i = rdPhys t i := by
  unfold setSave; split <;> rfl

@[simp] theorem setSave_wbase (lv : Nat) (t : Thread) (v : Dbl) : (setSave lv t v).wbase = t.wbase := by
  unfold setSave; split <;> rfl

@[simp] theorem setSave_aflags (lv : Nat) (t : Thread) (v : Dbl) : (setSave lv t v).aflags = t.aflags := by
  unfold setSave; split <;> rfl

theorem sameButRegs_wrPhys (t : Thread) (i : Nat) (v : Word) : SameButRegs t (wrPhys t i v) := rfl

theorem sameButRegs_setSave (lv : Nat) (t : Thread) (v : Dbl) : SameButRegs t (setSave lv t v) := by
  unfold SameButRegs setSave; split <;> rfl

theorem sameButRegs_wrReg (lv : Nat) (t : Thread) (d : Nat) (v : Word) : SameButRegs t (wrReg lv t d v) := by
  unfold wrReg
  split
  · rfl
  · split
    · exact sameButRegs_setSave lv t _
    · exact sameButRegs_wrPhys t _ v

theorem sameButRegs_wrPair (lv : Nat) (t : Thread) (d : Nat) (v : Dbl) : SameButRegs t (wrPair lv t d v) := by
  unfold wrPair
  split
  · rfl
  · split
    · exact sameButRegs_setSave lv t _
    · rfl

@[simp] theorem wrReg_aflags (lv : Nat) (t : Thread) (d : Nat) (v : Word) : (wrReg lv t d v).aflags = t.aflags := by
  unfold wrReg; split
  · rfl
  · split <;> simp

@[simp] theorem wrReg_wbase (lv : Nat) (t : Thread) (d : Nat) (v : Word) : (wrReg lv t d v).wbase = t.wbase := by
  unfold wrReg; split
  · rfl
  · split <;> simp

@[simp] theorem wrPair_aflags (lv : Nat) (t : Thread) (d : Nat) (v : Dbl) : (wrPair lv t d v).aflags = t.aflags := by
  unfold wrPair; split
  · rfl
  · split <;> simp

/-- A register reads as it was written; field 0 reads zero (R57). -/
theorem rdReg_wrReg (lv : Nat) (t : Thread) (d n : Nat) (v : Word) :
    rdReg lv (wrReg lv t d v) n = if n = d ∧ n ≠ 0 then v else rdReg lv t n := by
  by_cases hn : n = 0
  · simp [hn, rdReg]
  by_cases hd : d = 0
  · simp [wrReg, hd, hn]
  by_cases hb : bankedReg lv d = true
  · have hd' : d = 126 ∨ d = 127 := by simp [bankedReg] at hb; exact hb.2
    have hl : lv ≠ 0 := by simp [bankedReg] at hb; exact hb.1
    by_cases hbn : bankedReg lv n = true
    · have hn' : n = 126 ∨ n = 127 := by simp [bankedReg] at hbn; exact hbn.2
      rcases hd' with rfl | rfl <;> rcases hn' with rfl | rfl <;> simp [rdReg, wrReg, bankedReg, hl]
    · have hne : n ≠ d := by rintro rfl; exact hbn hb
      simp [rdReg, wrReg, hn, hd, hb, hbn, hne]
  · by_cases hbn : bankedReg lv n = true
    · have hne : n ≠ d := by rintro rfl; exact hb hbn
      simp [rdReg, wrReg, hn, hd, hb, hbn, hne]
    · simp [rdReg, wrReg, hn, hd, hb, hbn]

/-- What writing a register leaves (R57, R359). -/
theorem wrReg_writes (lv : Nat) (t : Thread) (d : Nat) (v : Word) : WritesReg lv t (wrReg lv t d v) d v where
  reads n := rdReg_wrReg lv t d n v
  phys i h := by
    unfold wrReg
    split
    · rfl
    · split
      · simp
      · rename_i h0 hb
        rw [rdPhys_wrPhys, if_neg]
        rintro rfl
        rcases h with h | h | h <;> simp_all
  saves h := by
    unfold wrReg
    split
    · exact ⟨rfl, rfl⟩
    · simp [h]
  rest := sameButRegs_wrReg lv t d v

theorem rdPair_wrPair (lv : Nat) (t : Thread) (d n : Nat) (v : Dbl) (hd2 : d % 2 = 0) (hn2 : n % 2 = 0) :
    rdPair lv (wrPair lv t d v) n = if n = d ∧ n ≠ 0 then v else rdPair lv t n := by
  by_cases hn : n = 0
  · simp [hn, rdPair]
  by_cases hd : d = 0
  · simp [wrPair, hd, hn]
  by_cases hb : bankedPair lv d = true
  · by_cases hbn : bankedPair lv n = true
    · have h1 : n = 126 := by simp [bankedPair] at hbn; exact hbn.2
      have h2 : d = 126 := by simp [bankedPair] at hb; exact hb.2
      subst h1 h2
      simp [rdPair, wrPair, hb]
    · have hne : n ≠ d := by rintro rfl; exact hbn hb
      simp [rdPair, wrPair, hn, hd, hb, hbn, hne]
  · by_cases hbn : bankedPair lv n = true
    · have hne : n ≠ d := by rintro rfl; exact hb hbn
      simp [rdPair, wrPair, hn, hd, hb, hbn, hne]
    · by_cases hne : n = d
      · subst hne
        simp [rdPair, wrPair, hn, hbn, mkDbl_lo_hi]
      · have h2 : ¬ t.wbase + n = t.wbase + d + 1 := by omega
        have h3 : ¬ t.wbase + n + 1 = t.wbase + d := by omega
        simp [rdPair, wrPair, hn, hd, hb, hbn, hne, h2, h3]

/-- What writing a pair leaves (R59, R359). -/
theorem wrPair_writes (lv : Nat) (t : Thread) (d : Nat) (v : Dbl) (hd2 : d % 2 = 0) :
    WritesPair lv t (wrPair lv t d v) d v where
  reads n hn := rdPair_wrPair lv t d n v hd2 hn
  phys i h := by
    unfold wrPair
    split
    · rfl
    · split
      · simp
      · rename_i h0 hb
        rw [rdPhys_wrPhys, rdPhys_wrPhys, if_neg, if_neg]
        · rintro rfl; rcases h with h | h | h <;> simp_all
        · rintro rfl; rcases h with h | h | h <;> simp_all
  saves h := by
    unfold wrPair
    split
    · exact ⟨rfl, rfl⟩
    · simp [h]
  rest := sameButRegs_wrPair lv t d v

/-- A predicate reads as it was written; `q0` reads true (R62). -/
theorem rdPred_wrPred (t : Thread) (d n : Nat) (v : Bool) (h : n < 128) :
    rdPred (wrPred t d v) n = if n = d ∧ n ≠ 0 then v else rdPred t n := by
  unfold wrPred
  by_cases hd : d = 0
  · subst hd; by_cases hn : n = 0 <;> simp [hn]
  by_cases hn : n = 0
  · subst hn; simp [rdPred]
  have hbit : (1#128 <<< d).getLsbD n = decide (n = d) := by
    rw [BitVec.getLsbD_shiftLeft]
    by_cases hlt : n < d
    · simp [hlt]; omega
    · have : (1#128).getLsbD (n - d) = decide (n - d = 0) := by simp [BitVec.getLsbD_one]
      simp [h, hlt, this]; omega
  rw [if_neg hd]
  generalize (1#128 <<< d) = m at hbit
  by_cases hne : n = d <;> cases v <;> simp [rdPred, hn, hne, h]
  all_goals simp_all

/-- What writing a predicate leaves (R62). -/
theorem wrPred_writes (t : Thread) (d : Nat) (v : Bool) : WritesPred t (wrPred t d v) d v where
  reads n h := rdPred_wrPred t d n v h
  rest := by unfold wrPred; split <;> rfl

/-- What joining flags leaves (R170). -/
theorem orFlags_with (t v : Thread) (f : Word) (W : Thread → Thread → Prop) (ha : v.aflags = t.aflags) (h : W t v) :
    WithFlags t (orFlags v f) f W := by
  refine ⟨by simp [orFlags, ha], ?_⟩
  have : { orFlags v f with aflags := t.aflags } = v := by cases v; simp_all [orFlags]
  rw [this]; exact h

end Sys2Proof.Machine
end

