-- ==== Sys2Proof/Laws/Issue.lean ====
section
/-! SUPPORT. What issuing an instruction can do, said once: the gang that issues is found, replaced and moved past its
instruction, and nothing else of the state changes. -/

namespace Sys2Proof.Machine

theorem findBy_key {α : Type} {key : α → Nat} {id : Nat} {x : α} : ∀ {l : List α}, findBy key id l = some x → key x = id
  | [], h => by simp [findBy] at h
  | y :: ys, h => by
    simp only [findBy] at h
    split at h
    · cases h; assumption
    · exact findBy_key h

theorem findBy_modBy_ne {α : Type} {key : α → Nat} {id id' : Nat} {f : α → α} (hne : id' ≠ id) (hf : ∀ x, key (f x) = key x ∨ key (f x) = id) :
    ∀ l : List α, findBy key id' (modBy key id f l) = findBy key id' l
  | [] => rfl
  | y :: ys => by
    simp only [modBy, findBy]
    rw [findBy_modBy_ne hne hf ys]
    by_cases h : key y = id
    · have : key (f y) ≠ id' := by rcases hf y with h2 | h2 <;> omega
      have h3 : key y ≠ id' := by omega
      simp [h, this]
      omega
    · simp [h]

theorem findBy_modBy_same {α : Type} {key : α → Nat} {id : Nat} {f : α → α} (hf : ∀ x, key x = id → key (f x) = id) :
    ∀ l : List α, findBy key id (modBy key id f l) = (findBy key id l).map f
  | [] => rfl
  | y :: ys => by
    simp only [modBy, findBy]
    by_cases h : key y = id
    · simp [h, hf y h]
    · simp [h, findBy_modBy_same hf ys]

theorem issuer_gangOf {s : State} {g : Gang} {c : ClauseRun} (h : issuer s = some (g, c)) :
    s.issuing = some g.id ∧ gangOf s g.id = some g ∧ g.clause = some c := by
  unfold issuer at h
  split at h
  · cases h
  · rename_i id hid
    split at h
    · cases h
    · rename_i g' hg
      split at h
      · cases h
      · rename_i c' hc
        obtain ⟨rfl, rfl⟩ : g' = g ∧ c' = c := by simpa using h
        have := findBy_key (key := Gang.id) hg
        subst this
        exact ⟨hid, hg, hc⟩

theorem gangOf_setGang_same {s : State} {g g' : Gang} (h : gangOf s g.id = some g) (hid : g'.id = g.id) :
    gangOf (setGang s g') g.id = some g' := by
  unfold gangOf setGang modGang at *
  simp only
  rw [hid, findBy_modBy_same (fun _ _ => hid), h]
  rfl

theorem gangOf_setGang_ne (s : State) (g' : Gang) {h : Nat} (hne : h ≠ g'.id) : gangOf (setGang s g') h = gangOf s h := by
  unfold gangOf setGang modGang
  exact findBy_modBy_ne hne (fun _ => .inr rfl) s.gangs

/-- The issue ends with the gang in a new state, and nothing else changes. -/
theorem issued_only {s : State} {g g' : Gang} (h : gangOf s g.id = some g) (hid : g'.id = g.id) :
    OnlyGang s (issued s g') g g' where
  rest := rfl
  issuing := rfl
  own := gangOf_setGang_same h hid
  others k hk := gangOf_setGang_ne s g' (by omega)

/-- An instruction issues: what its meaning makes of the gang and its clause is the next state. -/
theorem issue_ok {s : State} {cls : Cls} {g : Gang} {c : ClauseRun} (h : Issues s cls g c) (k : Gang → ClauseRun → State) :
    issue s cls k = .next (k g c) := by
  simp [issue, h.issuer, h.room, h.clear]

/-- An instruction that is held does not issue: nothing changes, and another gang may be selected. -/
theorem issue_held {s : State} {cls : Cls} {g : Gang} {c : ClauseRun} (h : Held s cls g c) (k : Gang → ClauseRun → State) :
    issue s cls k = .next { s with issuing := none } := by
  obtain ⟨h1, h2 | h2⟩ := h
  · simp [issue, h1, h2]
  · simp [issue, h1, Option.isSome_iff_ne_none.mpr h2]

/-- A meaning that issues has a next state, unless the state names no gang that issues. -/
theorem issue_goes (s : State) (cls : Cls) (k : Gang → ClauseRun → State) :
    (∃ t, issue s cls k = .next t) ∨ (issuer s = none ∧ issue s cls k = .fault .noIssuer) := by
  unfold issue
  split
  · rename_i h; exact .inr ⟨h, rfl⟩
  · split
    · exact .inl ⟨_, rfl⟩
    · exact .inl ⟨_, rfl⟩

theorem issueGang_ok {s : State} {cls : Cls} {g : Gang} {c : ClauseRun} {os : List Opnd} (h : Issues s cls g c)
    (hw : windowFail g (activeMask c) os = none) (f : Gang → Word → Gang) :
    issueGang s cls os f = .next (issued s (completed (f g (activeMask c)) c cls)) := by
  simp [issueGang, issue_ok h, hw]

/-! ### Lanes -/

theorem mapLanesFrom_length (A : Word) (f : Nat → Thread → Thread) : ∀ (k : Nat) (ts : List Thread),
    (mapLanesFrom A f k ts).length = ts.length
  | _, [] => rfl
  | k, t :: ts => by simp [mapLanesFrom, mapLanesFrom_length A f (k + 1) ts]

theorem mapLanesFrom_get (A : Word) (f : Nat → Thread → Thread) : ∀ (ts : List Thread) (k l : Nat) (h : l < ts.length),
    (mapLanesFrom A f k ts)[l]? = some (if inMask A (k + l) then f (k + l) ts[l] else ts[l])
  | t :: ts, k, 0, _ => by simp [mapLanesFrom]
  | t :: ts, k, l + 1, h => by
    simp only [mapLanesFrom, List.getElem?_cons_succ]
    rw [mapLanesFrom_get A f ts (k + 1) l (by simpa using h)]
    have e : k + 1 + l = k + (l + 1) := by omega
    simp [e]

theorem thr_mapLanes (A : Word) (f : Nat → Thread → Thread) (g : Gang) (l : Nat) (h : l < g.threads.length) :
    thr (mapLanes A f g) l = if inMask A l then f l (thr g l) else thr g l := by
  unfold thr mapLanes
  simp only
  rw [mapLanesFrom_get A f g.threads 0 l h]
  simp [h]

/-! ### Completion -/

theorem writeSpill_rest : ∀ (es : List Entry) (k : Nat) (g : Gang),
    writeSpill g k es = { g with stack := { g.stack with bytes := (writeSpill g k es).stack.bytes } }
  | [], _, _ => rfl
  | e :: es, k, g => by
    simp only [writeSpill]
    rw [writeSpill_rest es (k + 1)]

theorem withFrontier_rest (g : Gang) (fr : List Entry) :
    withFrontier g fr = { g with frontier := fr, stack := { g.stack with bytes := (withFrontier g fr).stack.bytes } } := by
  unfold withFrontier
  rw [writeSpill_rest]

theorem withFrontier_short (g : Gang) (fr : List Entry) (h : fr.length ≤ 16) : withFrontier g fr = { g with frontier := fr } := by
  unfold withFrontier heldEntries
  rw [List.drop_eq_nil_of_le h]
  rfl

/-- Counting changes the completion flags alone (R53). -/
theorem count_rest (g : Gang) (c : ClauseRun) (cls : Cls) :
    ∃ fl co, countDone (countUp g c cls) c cls = { g with flags := fl, completing := co } := by
  have h1 : ∃ fl, countUp g c cls = { g with flags := fl } := by
    unfold countUp; split
    · split
      · exact ⟨_, rfl⟩
      · exact ⟨_, rfl⟩
    · exact ⟨_, rfl⟩
  obtain ⟨fl, h1⟩ := h1
  rw [h1]
  unfold countDone; split
  · exact ⟨_, _, rfl⟩
  · exact ⟨_, _, rfl⟩

/-- An instruction that retires has its retirement counted, or joins those that wait to, with no access of its own (R396, R397). -/
theorem retire_rest (g : Gang) (c : ClauseRun) :
    ∃ rc sh pa, retire g c = { g with retcnt := rc, sthash := sh, passed := pa } ∧
      pa.flatMap Passed.flights = g.passed.flatMap Passed.flights := by
  unfold retire; split
  · split
    · exact ⟨_, _, _, rfl, rfl⟩
    · exact ⟨_, _, _, rfl, by simp⟩
  · exact ⟨_, _, _, rfl, rfl⟩

/-- Moving past an instruction changes the position alone, and the spill slots of a long frontier (R51, R118, R120). -/
theorem stepPast_rest (g : Gang) (c : ClauseRun) :
    ∃ cl fr bs, stepPast g c = { g with clause := cl, frontier := fr, wait := .none, stack := { g.stack with bytes := bs } } ∧
      (fr.length ≤ 16 → bs = g.stack.bytes) := by
  unfold stepPast fallThrough; split
  · exact ⟨_, g.frontier, g.stack.bytes, rfl, fun _ => rfl⟩
  · rw [withFrontier_rest]
    refine ⟨_, _, _, rfl, fun hl => ?_⟩
    rw [withFrontier_short _ _ hl]

/-- An instruction that is complete leaves its gang past it (R51, R118), and nothing else of the gang changed. -/
theorem completed_only (g : Gang) (c : ClauseRun) (cls : Cls) :
    OnlyThreads g (completed g c cls) ∧ (completed g c cls).threads = g.threads := by
  obtain ⟨fl, co, h1⟩ := count_rest g c cls
  have h : completed g c cls = stepPast (retire { g with flags := fl, completing := co } c) c := congrArg (fun x => stepPast (retire x c) c) h1
  obtain ⟨rc, sh, pa, h2, h3⟩ := retire_rest { g with flags := fl, completing := co } c
  obtain ⟨cl, fr, bs, h4, h5⟩ := stepPast_rest (retire { g with flags := fl, completing := co } c) c
  rw [h, h4]
  rw [h2] at *
  exact ⟨⟨rfl, h3, rfl, fun hl => congrArg (fun b => { g.stack with bytes := b }) (h5 hl)⟩, rfl⟩

@[simp] theorem completed_id (g : Gang) (c : ClauseRun) (cls : Cls) : (completed g c cls).id = g.id := by
  have h := congrArg Gang.id (completed_only g c cls).1.rest
  exact h

/-- The lanes of an instruction that changes its gang's threads and completes. -/
theorem lanes_completed (g g' : Gang) (c : ClauseRun) (cls : Cls) (ht : OnlyThreads g g') (hl : g'.stack = g.stack) :
    OnlyThreads g (completed g' c cls) ∧ (completed g' c cls).threads = g'.threads := by
  obtain ⟨h, h2⟩ := completed_only g' c cls
  refine ⟨⟨?_, h.flights.trans ht.flights, h.lanes.trans ht.lanes, fun hs => (h.slabs hs).trans hl⟩, h2⟩
  have e1 := ht.rest
  have e2 := h.rest
  generalize completed g' c cls = g2 at *
  clear h h2 ht
  cases g; cases g'; cases g2
  simp at *
  simp_all

theorem onlyThreads_mapLanes (A : Word) (f : Nat → Thread → Thread) (g : Gang) : OnlyThreads g (mapLanes A f g) where
  rest := rfl
  flights := rfl
  lanes := mapLanesFrom_length A f 0 g.threads
  slabs _ := rfl

/-- The spec of an instruction whose effect is a change of the active lanes' threads (R8, R138). -/
theorem laneResult_of {i : Instr} {cls : Cls} {os : List Opnd} {F : Gang → Word → Nat → Thread → Thread → Prop}
    (f : Gang → Word → Nat → Thread → Thread)
    (he : ∀ s, exec i s = issueGang s cls os fun g A => mapLanes A (f g A) g)
    (hf : ∀ g A l, l < g.threads.length → inMask A l = true → F g A l (thr g l) (f g A l (thr g l))) :
    LaneResult i cls os F where
  faults s g c x lanes h hw := by rw [he, issueGang, issue_ok h]; simp [hw]
  waits s g c h := by rw [he, issueGang, issue_held h]
  completes s g c h hw := by
    obtain ⟨-, hg, -⟩ := issuer_gangOf h.issuer
    let g1 := mapLanes (activeMask c) (f g (activeMask c)) g
    obtain ⟨h1, h2⟩ := lanes_completed g g1 c cls (onlyThreads_mapLanes _ _ g) rfl
    refine ⟨_, _, (he s).trans (issueGang_ok h hw _), issued_only hg (completed_id g1 c cls), h1, ?_⟩
    intro l hl
    have e : thr (completed g1 c cls) l = thr g1 l := by unfold thr; rw [h2]
    have e2 := thr_mapLanes (activeMask c) (f g (activeMask c)) g l hl
    rw [e, e2]
    split
    · exact hf g _ l hl (by assumption)
    · rfl

end Sys2Proof.Machine
end

