-- ==== Sys2Proof/Laws/Places.lean ====
section
/-! SUPPORT. Writing bytes and tags at a place: what is read back, what stays, and the canonical form of memory. -/

namespace Sys2Proof.Machine

theorem findBy_map {α : Type} {key : α → Nat} {f : α → α} (hf : ∀ x, key (f x) = key x) (id : Nat) :
    ∀ l : List α, findBy key id (l.map f) = (findBy key id l).map f
  | [] => rfl
  | x :: xs => by
    simp only [List.map_cons, findBy, hf]
    split
    · rfl
    · exact findBy_map hf id xs

@[simp] theorem gangOf_wakeMwait (s : State) (l : Loc) (n h : Nat) :
    gangOf (wakeMwait s l n) h = (gangOf s h).map (wakeOn l.place (granules l.off n)) :=
  findBy_map (key := Gang.id) (f := wakeOn l.place (granules l.off n)) (fun _ => rfl) h s.gangs

@[simp] theorem blockOf_wakeMwait (s : State) (l : Loc) (n h : Nat) : blockOf (wakeMwait s l n) h = blockOf s h := rfl

@[simp] theorem spaceOf_wakeMwait (s : State) (l : Loc) (n : Nat) (p : Place) : spaceOf (wakeMwait s l n) p = spaceOf s p := by
  cases p <;> simp [spaceOf, wakeOn, Gang.mapConds, Option.map_map, Function.comp_def]

/-- The wake of `mwait` changes no byte. -/
@[simp] theorem readByte_wakeMwait (s : State) (l m : Loc) (n : Nat) : readByte (wakeMwait s l n) m = readByte s m := by
  unfold readByte bytesAt
  cases h : m.place <;> simp [← h]
  rfl

theorem gangOf_modGang (s : State) (id h : Nat) (f : Gang → Gang) (hf : ∀ x, (f x).id = x.id) :
    gangOf (modGang s id f) h = if h = id then (gangOf s h).map f else gangOf s h := by
  unfold gangOf modGang
  split
  · next e => subst e; exact findBy_modBy_same (key := Gang.id) (fun x hx => (hf x).trans hx) s.gangs
  · next e => exact findBy_modBy_ne (key := Gang.id) e (fun x => Or.inl (hf x)) s.gangs

theorem blockOf_modBlock (s : State) (id h : Nat) (f : Block → Block) (hf : ∀ x, (f x).id = x.id) :
    blockOf (modBlock s id f) h = if h = id then (blockOf s h).map f else blockOf s h := by
  unfold blockOf modBlock
  split
  · next e => subst e; exact findBy_modBy_same (key := Block.id) (fun x hx => (hf x).trans hx) s.blocks
  · next e => exact findBy_modBy_ne (key := Block.id) e (fun x => Or.inl (hf x)) s.blocks

/-- A space is read back where its place exists; every other space stays. -/
theorem spaceOf_setSpace (s : State) (p q : Place) (x : Space) (h : HasPlace s p) (hp : p ≠ .phys) :
    spaceOf (setSpace s p x) q = if q = p then x else spaceOf s q := by
  cases p with
  | phys => exact absurd rfl hp
  | scratch b =>
    obtain ⟨y, hy⟩ := Option.isSome_iff_exists.1 h
    cases q with
    | scratch c =>
      simp only [spaceOf, setSpace]
      rw [blockOf_modBlock]
      · by_cases e : c = b
        · subst e; simp [hy]
        · simp [e]
      · intro; rfl
    | _ => simp [spaceOf, setSpace, modBlock, gangOf]
  | priv b =>
    obtain ⟨y, hy⟩ := Option.isSome_iff_exists.1 h
    cases q with
    | priv c =>
      simp only [spaceOf, setSpace]
      rw [gangOf_modGang]
      · by_cases e : c = b
        · subst e; simp [hy]
        · simp [e]
      · intro; rfl
    | stack c =>
      simp only [spaceOf, setSpace]
      rw [gangOf_modGang]
      · by_cases e : c = b
        · subst e; simp [hy]
        · simp [e]
      · intro; rfl
    | _ => simp [spaceOf, setSpace, modGang, blockOf]
  | stack b =>
    obtain ⟨y, hy⟩ := Option.isSome_iff_exists.1 h
    cases q with
    | stack c =>
      simp only [spaceOf, setSpace]
      rw [gangOf_modGang]
      · by_cases e : c = b
        · subst e; simp [hy]
        · simp [e]
      · intro; rfl
    | priv c =>
      simp only [spaceOf, setSpace]
      rw [gangOf_modGang]
      · by_cases e : c = b
        · subst e; simp [hy]
        · simp [e]
      · intro; rfl
    | _ => simp [spaceOf, setSpace, modGang, blockOf]

theorem bytesAt_setSpace (s : State) (p q : Place) (x : Space) (h : HasPlace s p) (hp : p ≠ .phys) :
    bytesAt (setSpace s p x) q = if q = p then x.bytes else bytesAt s q := by
  cases q with
  | phys =>
    rw [if_neg (Ne.symm hp)]
    cases p <;> rfl
  | _ =>
    simp only [bytesAt, spaceOf_setSpace s p _ x h hp]
    split <;> rfl

/-- The bytes of every place after a write. -/
theorem bytesAt_putBytes (s : State) (l : Loc) (bs : List Byte) (q : Place) (h : HasPlace s l.place) :
    bytesAt (putBytes s l bs) q = if q = l.place then wrBytes (bytesAt s q) l.off bs else bytesAt s q := by
  by_cases hp : l.place = .phys
  · unfold putBytes
    rw [hp]
    cases q <;> simp [bytesAt, spaceOf, blockOf, gangOf]
  · have : putBytes s l bs = setSpace s l.place { spaceOf s l.place with
        bytes := wrBytes (spaceOf s l.place).bytes l.off bs,
        poison := (spaceOf s l.place).poison.filter fun g => !(wholeGranules l.off bs.length).contains g } := by
      unfold putBytes
      split
      · next e => exact absurd e hp
      · rfl
    rw [this, bytesAt_setSpace s _ _ _ h hp]
    split
    · next e =>
      subst e
      cases hq : l.place
      · exact absurd hq hp
      all_goals rfl
    · rfl

/-- One byte after a write: the written byte in the range, the old byte elsewhere. -/
theorem readByte_writeBytes (s : State) (l m : Loc) (bs : List Byte) (h : HasPlace s l.place) :
    readByte (writeBytes s l bs) m =
      if m.place = l.place ∧ l.off ≤ m.off ∧ m.off < l.off + bs.length then bs.getD (m.off - l.off) 0 else readByte s m := by
  unfold writeBytes
  rw [readByte_wakeMwait]
  unfold readByte
  rw [bytesAt_putBytes s l bs _ h]
  by_cases e : m.place = l.place
  · simp [e, rdByte_wrBytes]
  · simp [e]

theorem sameBytesBut_writeBytes (s : State) (l : Loc) (bs : List Byte) (h : HasPlace s l.place) :
    SameBytesBut s (writeBytes s l bs) l bs.length := by
  intro m
  by_cases e : m.place = l.place ∧ l.off ≤ m.off ∧ m.off < l.off + bs.length
  · exact Or.inl e
  · exact Or.inr (by rw [readByte_writeBytes s l m bs h, if_neg e])

/-- A change of a gang that keeps its threads, frontier, clause and level, on every gang with an identifier. -/
theorem sameThreads_modGang (s : State) (id : Nat) (f : Gang → Gang) (hid : ∀ x, (f x).id = x.id)
    (hf : ∀ x, ((f x).threads, (f x).frontier, (f x).clause, (f x).level) = (x.threads, x.frontier, x.clause, x.level)) :
    SameThreads s (modGang s id f) := by
  intro h
  rw [gangOf_modGang s id h f hid]
  split
  · cases gangOf s h <;> simp_all
  · rfl

theorem sameThreads_setSpace (s : State) (p : Place) (x : Space) : SameThreads s (setSpace s p x) := by
  cases p
  · intro h; rfl
  · intro h; rfl
  · exact sameThreads_modGang s _ _ (fun _ => rfl) (fun _ => rfl)
  · exact sameThreads_modGang s _ _ (fun _ => rfl) (fun _ => rfl)

theorem sameThreads_trans {s t u : State} (h : SameThreads s t) (k : SameThreads t u) : SameThreads s u :=
  fun x => (k x).trans (h x)

theorem sameThreads_wakeMwait (s : State) (l : Loc) (n : Nat) : SameThreads s (wakeMwait s l n) := by
  intro h
  rw [gangOf_wakeMwait]
  cases gangOf s h <;> rfl

theorem sameThreads_putBytes (s : State) (l : Loc) (bs : List Byte) : SameThreads s (putBytes s l bs) := by
  unfold putBytes
  split
  · intro h; rfl
  · exact sameThreads_setSpace s _ _

theorem sameThreads_writeBytes (s : State) (l : Loc) (bs : List Byte) : SameThreads s (writeBytes s l bs) :=
  sameThreads_trans (sameThreads_putBytes s l bs) (sameThreads_wakeMwait _ _ _)

@[simp] theorem leOf_length : ∀ n x, (leOf n x).length = n
  | 0, _ => rfl
  | n + 1, x => by simp [leOf, leOf_length n]

theorem leOf_getD : ∀ (n x i : Nat), i < n → (leOf n x).getD i 0 = BitVec.ofNat 8 (x / 256 ^ i)
  | n + 1, x, 0, _ => by simp [leOf]
  | n + 1, x, i + 1, h => by
    have := leOf_getD n (x / 256) i (by omega)
    simp only [leOf, List.getD_cons_succ, this, Nat.div_div_eq_div_mul, Nat.pow_succ, Nat.mul_comm]

theorem rdLE_wrBytes_leOf : ∀ (n x a : Nat) (m : FMap Byte), rdLE (wrBytes m a (leOf n x)) a n = x % 256 ^ n
  | 0, x, a, m => by simp [rdLE, Nat.mod_one]
  | n + 1, x, a, m => by
    have e : wrBytes m a (leOf (n + 1) x) = wrBytes (wrByte m a (BitVec.ofNat 8 x)) (a + 1) (leOf n (x / 256)) := rfl
    rw [rdLE, e, rdByte_wrBytes, if_neg (by omega), rdByte_wrByte, if_pos rfl, rdLE_wrBytes_leOf n, Nat.pow_succ,
      Nat.mul_comm (256 ^ n), Nat.mod_mul]
    simp

theorem readNat_eq (s : State) (l : Loc) (n : Nat) : readNat s l n = rdLE (bytesAt s l.place) l.off n := rfl

@[simp] theorem bytesAt_wakeMwait (s : State) (l : Loc) (n : Nat) (p : Place) : bytesAt (wakeMwait s l n) p = bytesAt s p := by
  cases p
  · rfl
  all_goals simp [bytesAt]

/-- A number that was written is read back. -/
theorem readNat_writeNat (s : State) (l : Loc) (n x : Nat) (h : HasPlace s l.place) :
    readNat (writeNat s l n x) l n = x % 256 ^ n := by
  rw [readNat_eq, writeNat, writeBytes, bytesAt_wakeMwait, bytesAt_putBytes s l _ _ h, if_pos rfl, rdLE_wrBytes_leOf]

theorem rdLE_congr : ∀ (n a b : Nat) (m m' : FMap Byte), (∀ i < n, rdByte m (a + i) = rdByte m' (b + i)) →
    rdLE m a n = rdLE m' b n
  | 0, _, _, _, _, _ => rfl
  | n + 1, a, b, m, m', h => by
    have h0 := h 0 (by omega)
    have := rdLE_congr n (a + 1) (b + 1) m m' fun i hi => by
      have := h (i + 1) (by omega)
      rwa [show a + 1 + i = a + (i + 1) by omega, show b + 1 + i = b + (i + 1) by omega]
    simp only [Nat.add_zero] at h0
    simp only [rdLE, this, h0]

theorem putBytes_wf (s : State) (l : Loc) (bs : List Byte) (hm : Memory.wf s.mem = true) (ht : Memory.wf s.tags = true) :
    Memory.wf (putBytes s l bs).mem = true ∧ Memory.wf (putBytes s l bs).tags = true := by
  unfold putBytes
  split
  · exact ⟨wrBytes_wf _ _ _ hm, ht⟩
  · cases l.place <;> exact ⟨hm, ht⟩

/-- Every write of bytes keeps the canonical form. -/
theorem writeBytes_wf (s : State) (l : Loc) (bs : List Byte) (hm : Memory.wf s.mem = true) (ht : Memory.wf s.tags = true) :
    Memory.wf (writeBytes s l bs).mem = true ∧ Memory.wf (writeBytes s l bs).tags = true :=
  putBytes_wf s l bs hm ht

/-- Every write of a tag keeps the canonical form. -/
theorem writeTag_wf (s : State) (l : Loc) (v : Nat) (hm : Memory.wf s.mem = true) (ht : Memory.wf s.tags = true) :
    Memory.wf (writeTag s l v).mem = true ∧ Memory.wf (writeTag s l v).tags = true := by
  unfold writeTag putTag
  split
  · exact ⟨hm, wrByte_wf _ _ _ ht⟩
  · cases l.place <;> exact ⟨hm, ht⟩

end Sys2Proof.Machine
end

