-- ==== Sys2Proof/Laws/State.lean ====
section
/-! SUPPORT. What each update of the state leaves: one lemma for each field of `State`, and the updated field. -/

namespace Sys2Proof.Machine

/-! `setGang` -/
@[simp] theorem setGang_agenda (s : State) (g : Gang) : (setGang s g).agenda = s.agenda := rfl
@[simp] theorem setGang_issuing (s : State) (g : Gang) : (setGang s g).issuing = s.issuing := rfl
@[simp] theorem setGang_focus (s : State) (g : Gang) : (setGang s g).focus = s.focus := rfl
@[simp] theorem setGang_fresh (s : State) (g : Gang) : (setGang s g).fresh = s.fresh := rfl
@[simp] theorem setGang_nextId (s : State) (g : Gang) : (setGang s g).nextId = s.nextId := rfl
@[simp] theorem setGang_mem (s : State) (g : Gang) : (setGang s g).mem = s.mem := rfl
@[simp] theorem setGang_tags (s : State) (g : Gang) : (setGang s g).tags = s.tags := rfl
@[simp] theorem setGang_past (s : State) (g : Gang) : (setGang s g).past = s.past := rfl
@[simp] theorem setGang_poison (s : State) (g : Gang) : (setGang s g).poison = s.poison := rfl
@[simp] theorem setGang_shadows (s : State) (g : Gang) : (setGang s g).shadows = s.shadows := rfl
@[simp] theorem setGang_tlb (s : State) (g : Gang) : (setGang s g).tlb = s.tlb := rfl
@[simp] theorem setGang_lines (s : State) (g : Gang) : (setGang s g).lines = s.lines := rfl
@[simp] theorem setGang_module (s : State) (g : Gang) : (setGang s g).module = s.module := rfl
@[simp] theorem setGang_hostPort (s : State) (g : Gang) : (setGang s g).hostPort = s.hostPort := rfl
@[simp] theorem setGang_domain (s : State) (g : Gang) : (setGang s g).domain = s.domain := rfl
@[simp] theorem setGang_boot (s : State) (g : Gang) : (setGang s g).boot = s.boot := rfl
@[simp] theorem setGang_dies (s : State) (g : Gang) : (setGang s g).dies = s.dies := rfl
@[simp] theorem setGang_cores (s : State) (g : Gang) : (setGang s g).cores = s.cores := rfl
@[simp] theorem setGang_launches (s : State) (g : Gang) : (setGang s g).launches = s.launches := rfl
@[simp] theorem setGang_graphs (s : State) (g : Gang) : (setGang s g).graphs = s.graphs := rfl
@[simp] theorem setGang_clusters (s : State) (g : Gang) : (setGang s g).clusters = s.clusters := rfl
@[simp] theorem setGang_blocks (s : State) (g : Gang) : (setGang s g).blocks = s.blocks := rfl
@[simp] theorem setGang_gangs (s : State) (g : Gang) : (setGang s g).gangs = modBy Gang.id g.id (fun _ => g) s.gangs := rfl
@[simp] theorem setGang_tasks (s : State) (g : Gang) : (setGang s g).tasks = s.tasks := rfl
@[simp] theorem setGang_copies (s : State) (g : Gang) : (setGang s g).copies = s.copies := rfl
@[simp] theorem setGang_jobs (s : State) (g : Gang) : (setGang s g).jobs = s.jobs := rfl
@[simp] theorem setGang_time (s : State) (g : Gang) : (setGang s g).time = s.time := rfl
@[simp] theorem setGang_idleClk (s : State) (g : Gang) : (setGang s g).idleClk = s.idleClk := rfl
@[simp] theorem setGang_swept (s : State) (g : Gang) : (setGang s g).swept = s.swept := rfl

/-! `modGang` -/
@[simp] theorem modGang_agenda (s : State) (id : Nat) (f : Gang → Gang) : (modGang s id f).agenda = s.agenda := rfl
@[simp] theorem modGang_issuing (s : State) (id : Nat) (f : Gang → Gang) : (modGang s id f).issuing = s.issuing := rfl
@[simp] theorem modGang_focus (s : State) (id : Nat) (f : Gang → Gang) : (modGang s id f).focus = s.focus := rfl
@[simp] theorem modGang_fresh (s : State) (id : Nat) (f : Gang → Gang) : (modGang s id f).fresh = s.fresh := rfl
@[simp] theorem modGang_nextId (s : State) (id : Nat) (f : Gang → Gang) : (modGang s id f).nextId = s.nextId := rfl
@[simp] theorem modGang_mem (s : State) (id : Nat) (f : Gang → Gang) : (modGang s id f).mem = s.mem := rfl
@[simp] theorem modGang_tags (s : State) (id : Nat) (f : Gang → Gang) : (modGang s id f).tags = s.tags := rfl
@[simp] theorem modGang_past (s : State) (id : Nat) (f : Gang → Gang) : (modGang s id f).past = s.past := rfl
@[simp] theorem modGang_poison (s : State) (id : Nat) (f : Gang → Gang) : (modGang s id f).poison = s.poison := rfl
@[simp] theorem modGang_shadows (s : State) (id : Nat) (f : Gang → Gang) : (modGang s id f).shadows = s.shadows := rfl
@[simp] theorem modGang_tlb (s : State) (id : Nat) (f : Gang → Gang) : (modGang s id f).tlb = s.tlb := rfl
@[simp] theorem modGang_lines (s : State) (id : Nat) (f : Gang → Gang) : (modGang s id f).lines = s.lines := rfl
@[simp] theorem modGang_module (s : State) (id : Nat) (f : Gang → Gang) : (modGang s id f).module = s.module := rfl
@[simp] theorem modGang_hostPort (s : State) (id : Nat) (f : Gang → Gang) : (modGang s id f).hostPort = s.hostPort := rfl
@[simp] theorem modGang_domain (s : State) (id : Nat) (f : Gang → Gang) : (modGang s id f).domain = s.domain := rfl
@[simp] theorem modGang_boot (s : State) (id : Nat) (f : Gang → Gang) : (modGang s id f).boot = s.boot := rfl
@[simp] theorem modGang_dies (s : State) (id : Nat) (f : Gang → Gang) : (modGang s id f).dies = s.dies := rfl
@[simp] theorem modGang_cores (s : State) (id : Nat) (f : Gang → Gang) : (modGang s id f).cores = s.cores := rfl
@[simp] theorem modGang_launches (s : State) (id : Nat) (f : Gang → Gang) : (modGang s id f).launches = s.launches := rfl
@[simp] theorem modGang_graphs (s : State) (id : Nat) (f : Gang → Gang) : (modGang s id f).graphs = s.graphs := rfl
@[simp] theorem modGang_clusters (s : State) (id : Nat) (f : Gang → Gang) : (modGang s id f).clusters = s.clusters := rfl
@[simp] theorem modGang_blocks (s : State) (id : Nat) (f : Gang → Gang) : (modGang s id f).blocks = s.blocks := rfl
@[simp] theorem modGang_gangs (s : State) (id : Nat) (f : Gang → Gang) : (modGang s id f).gangs = modBy Gang.id id f s.gangs := rfl
@[simp] theorem modGang_tasks (s : State) (id : Nat) (f : Gang → Gang) : (modGang s id f).tasks = s.tasks := rfl
@[simp] theorem modGang_copies (s : State) (id : Nat) (f : Gang → Gang) : (modGang s id f).copies = s.copies := rfl
@[simp] theorem modGang_jobs (s : State) (id : Nat) (f : Gang → Gang) : (modGang s id f).jobs = s.jobs := rfl
@[simp] theorem modGang_time (s : State) (id : Nat) (f : Gang → Gang) : (modGang s id f).time = s.time := rfl
@[simp] theorem modGang_idleClk (s : State) (id : Nat) (f : Gang → Gang) : (modGang s id f).idleClk = s.idleClk := rfl
@[simp] theorem modGang_swept (s : State) (id : Nat) (f : Gang → Gang) : (modGang s id f).swept = s.swept := rfl

/-! `modBlock` -/
@[simp] theorem modBlock_agenda (s : State) (id : Nat) (f : Block → Block) : (modBlock s id f).agenda = s.agenda := rfl
@[simp] theorem modBlock_issuing (s : State) (id : Nat) (f : Block → Block) : (modBlock s id f).issuing = s.issuing := rfl
@[simp] theorem modBlock_focus (s : State) (id : Nat) (f : Block → Block) : (modBlock s id f).focus = s.focus := rfl
@[simp] theorem modBlock_fresh (s : State) (id : Nat) (f : Block → Block) : (modBlock s id f).fresh = s.fresh := rfl
@[simp] theorem modBlock_nextId (s : State) (id : Nat) (f : Block → Block) : (modBlock s id f).nextId = s.nextId := rfl
@[simp] theorem modBlock_mem (s : State) (id : Nat) (f : Block → Block) : (modBlock s id f).mem = s.mem := rfl
@[simp] theorem modBlock_tags (s : State) (id : Nat) (f : Block → Block) : (modBlock s id f).tags = s.tags := rfl
@[simp] theorem modBlock_past (s : State) (id : Nat) (f : Block → Block) : (modBlock s id f).past = s.past := rfl
@[simp] theorem modBlock_poison (s : State) (id : Nat) (f : Block → Block) : (modBlock s id f).poison = s.poison := rfl
@[simp] theorem modBlock_shadows (s : State) (id : Nat) (f : Block → Block) : (modBlock s id f).shadows = s.shadows := rfl
@[simp] theorem modBlock_tlb (s : State) (id : Nat) (f : Block → Block) : (modBlock s id f).tlb = s.tlb := rfl
@[simp] theorem modBlock_lines (s : State) (id : Nat) (f : Block → Block) : (modBlock s id f).lines = s.lines := rfl
@[simp] theorem modBlock_module (s : State) (id : Nat) (f : Block → Block) : (modBlock s id f).module = s.module := rfl
@[simp] theorem modBlock_hostPort (s : State) (id : Nat) (f : Block → Block) : (modBlock s id f).hostPort = s.hostPort := rfl
@[simp] theorem modBlock_domain (s : State) (id : Nat) (f : Block → Block) : (modBlock s id f).domain = s.domain := rfl
@[simp] theorem modBlock_boot (s : State) (id : Nat) (f : Block → Block) : (modBlock s id f).boot = s.boot := rfl
@[simp] theorem modBlock_dies (s : State) (id : Nat) (f : Block → Block) : (modBlock s id f).dies = s.dies := rfl
@[simp] theorem modBlock_cores (s : State) (id : Nat) (f : Block → Block) : (modBlock s id f).cores = s.cores := rfl
@[simp] theorem modBlock_launches (s : State) (id : Nat) (f : Block → Block) : (modBlock s id f).launches = s.launches := rfl
@[simp] theorem modBlock_graphs (s : State) (id : Nat) (f : Block → Block) : (modBlock s id f).graphs = s.graphs := rfl
@[simp] theorem modBlock_clusters (s : State) (id : Nat) (f : Block → Block) : (modBlock s id f).clusters = s.clusters := rfl
@[simp] theorem modBlock_blocks (s : State) (id : Nat) (f : Block → Block) : (modBlock s id f).blocks = modBy Block.id id f s.blocks := rfl
@[simp] theorem modBlock_gangs (s : State) (id : Nat) (f : Block → Block) : (modBlock s id f).gangs = s.gangs := rfl
@[simp] theorem modBlock_tasks (s : State) (id : Nat) (f : Block → Block) : (modBlock s id f).tasks = s.tasks := rfl
@[simp] theorem modBlock_copies (s : State) (id : Nat) (f : Block → Block) : (modBlock s id f).copies = s.copies := rfl
@[simp] theorem modBlock_jobs (s : State) (id : Nat) (f : Block → Block) : (modBlock s id f).jobs = s.jobs := rfl
@[simp] theorem modBlock_time (s : State) (id : Nat) (f : Block → Block) : (modBlock s id f).time = s.time := rfl
@[simp] theorem modBlock_idleClk (s : State) (id : Nat) (f : Block → Block) : (modBlock s id f).idleClk = s.idleClk := rfl
@[simp] theorem modBlock_swept (s : State) (id : Nat) (f : Block → Block) : (modBlock s id f).swept = s.swept := rfl

/-! `modCluster` -/
@[simp] theorem modCluster_agenda (s : State) (id : Nat) (f : Cluster → Cluster) : (modCluster s id f).agenda = s.agenda := rfl
@[simp] theorem modCluster_issuing (s : State) (id : Nat) (f : Cluster → Cluster) : (modCluster s id f).issuing = s.issuing := rfl
@[simp] theorem modCluster_focus (s : State) (id : Nat) (f : Cluster → Cluster) : (modCluster s id f).focus = s.focus := rfl
@[simp] theorem modCluster_fresh (s : State) (id : Nat) (f : Cluster → Cluster) : (modCluster s id f).fresh = s.fresh := rfl
@[simp] theorem modCluster_nextId (s : State) (id : Nat) (f : Cluster → Cluster) : (modCluster s id f).nextId = s.nextId := rfl
@[simp] theorem modCluster_mem (s : State) (id : Nat) (f : Cluster → Cluster) : (modCluster s id f).mem = s.mem := rfl
@[simp] theorem modCluster_tags (s : State) (id : Nat) (f : Cluster → Cluster) : (modCluster s id f).tags = s.tags := rfl
@[simp] theorem modCluster_past (s : State) (id : Nat) (f : Cluster → Cluster) : (modCluster s id f).past = s.past := rfl
@[simp] theorem modCluster_poison (s : State) (id : Nat) (f : Cluster → Cluster) : (modCluster s id f).poison = s.poison := rfl
@[simp] theorem modCluster_shadows (s : State) (id : Nat) (f : Cluster → Cluster) : (modCluster s id f).shadows = s.shadows := rfl
@[simp] theorem modCluster_tlb (s : State) (id : Nat) (f : Cluster → Cluster) : (modCluster s id f).tlb = s.tlb := rfl
@[simp] theorem modCluster_lines (s : State) (id : Nat) (f : Cluster → Cluster) : (modCluster s id f).lines = s.lines := rfl
@[simp] theorem modCluster_module (s : State) (id : Nat) (f : Cluster → Cluster) : (modCluster s id f).module = s.module := rfl
@[simp] theorem modCluster_hostPort (s : State) (id : Nat) (f : Cluster → Cluster) : (modCluster s id f).hostPort = s.hostPort := rfl
@[simp] theorem modCluster_domain (s : State) (id : Nat) (f : Cluster → Cluster) : (modCluster s id f).domain = s.domain := rfl
@[simp] theorem modCluster_boot (s : State) (id : Nat) (f : Cluster → Cluster) : (modCluster s id f).boot = s.boot := rfl
@[simp] theorem modCluster_dies (s : State) (id : Nat) (f : Cluster → Cluster) : (modCluster s id f).dies = s.dies := rfl
@[simp] theorem modCluster_cores (s : State) (id : Nat) (f : Cluster → Cluster) : (modCluster s id f).cores = s.cores := rfl
@[simp] theorem modCluster_launches (s : State) (id : Nat) (f : Cluster → Cluster) : (modCluster s id f).launches = s.launches := rfl
@[simp] theorem modCluster_graphs (s : State) (id : Nat) (f : Cluster → Cluster) : (modCluster s id f).graphs = s.graphs := rfl
@[simp] theorem modCluster_clusters (s : State) (id : Nat) (f : Cluster → Cluster) : (modCluster s id f).clusters = modBy Cluster.id id f s.clusters := rfl
@[simp] theorem modCluster_blocks (s : State) (id : Nat) (f : Cluster → Cluster) : (modCluster s id f).blocks = s.blocks := rfl
@[simp] theorem modCluster_gangs (s : State) (id : Nat) (f : Cluster → Cluster) : (modCluster s id f).gangs = s.gangs := rfl
@[simp] theorem modCluster_tasks (s : State) (id : Nat) (f : Cluster → Cluster) : (modCluster s id f).tasks = s.tasks := rfl
@[simp] theorem modCluster_copies (s : State) (id : Nat) (f : Cluster → Cluster) : (modCluster s id f).copies = s.copies := rfl
@[simp] theorem modCluster_jobs (s : State) (id : Nat) (f : Cluster → Cluster) : (modCluster s id f).jobs = s.jobs := rfl
@[simp] theorem modCluster_time (s : State) (id : Nat) (f : Cluster → Cluster) : (modCluster s id f).time = s.time := rfl
@[simp] theorem modCluster_idleClk (s : State) (id : Nat) (f : Cluster → Cluster) : (modCluster s id f).idleClk = s.idleClk := rfl
@[simp] theorem modCluster_swept (s : State) (id : Nat) (f : Cluster → Cluster) : (modCluster s id f).swept = s.swept := rfl

/-! `modLaunch` -/
@[simp] theorem modLaunch_agenda (s : State) (id : Nat) (f : Launch → Launch) : (modLaunch s id f).agenda = s.agenda := rfl
@[simp] theorem modLaunch_issuing (s : State) (id : Nat) (f : Launch → Launch) : (modLaunch s id f).issuing = s.issuing := rfl
@[simp] theorem modLaunch_focus (s : State) (id : Nat) (f : Launch → Launch) : (modLaunch s id f).focus = s.focus := rfl
@[simp] theorem modLaunch_fresh (s : State) (id : Nat) (f : Launch → Launch) : (modLaunch s id f).fresh = s.fresh := rfl
@[simp] theorem modLaunch_nextId (s : State) (id : Nat) (f : Launch → Launch) : (modLaunch s id f).nextId = s.nextId := rfl
@[simp] theorem modLaunch_mem (s : State) (id : Nat) (f : Launch → Launch) : (modLaunch s id f).mem = s.mem := rfl
@[simp] theorem modLaunch_tags (s : State) (id : Nat) (f : Launch → Launch) : (modLaunch s id f).tags = s.tags := rfl
@[simp] theorem modLaunch_past (s : State) (id : Nat) (f : Launch → Launch) : (modLaunch s id f).past = s.past := rfl
@[simp] theorem modLaunch_poison (s : State) (id : Nat) (f : Launch → Launch) : (modLaunch s id f).poison = s.poison := rfl
@[simp] theorem modLaunch_shadows (s : State) (id : Nat) (f : Launch → Launch) : (modLaunch s id f).shadows = s.shadows := rfl
@[simp] theorem modLaunch_tlb (s : State) (id : Nat) (f : Launch → Launch) : (modLaunch s id f).tlb = s.tlb := rfl
@[simp] theorem modLaunch_lines (s : State) (id : Nat) (f : Launch → Launch) : (modLaunch s id f).lines = s.lines := rfl
@[simp] theorem modLaunch_module (s : State) (id : Nat) (f : Launch → Launch) : (modLaunch s id f).module = s.module := rfl
@[simp] theorem modLaunch_hostPort (s : State) (id : Nat) (f : Launch → Launch) : (modLaunch s id f).hostPort = s.hostPort := rfl
@[simp] theorem modLaunch_domain (s : State) (id : Nat) (f : Launch → Launch) : (modLaunch s id f).domain = s.domain := rfl
@[simp] theorem modLaunch_boot (s : State) (id : Nat) (f : Launch → Launch) : (modLaunch s id f).boot = s.boot := rfl
@[simp] theorem modLaunch_dies (s : State) (id : Nat) (f : Launch → Launch) : (modLaunch s id f).dies = s.dies := rfl
@[simp] theorem modLaunch_cores (s : State) (id : Nat) (f : Launch → Launch) : (modLaunch s id f).cores = s.cores := rfl
@[simp] theorem modLaunch_launches (s : State) (id : Nat) (f : Launch → Launch) : (modLaunch s id f).launches = modBy Launch.id id f s.launches := rfl
@[simp] theorem modLaunch_graphs (s : State) (id : Nat) (f : Launch → Launch) : (modLaunch s id f).graphs = s.graphs := rfl
@[simp] theorem modLaunch_clusters (s : State) (id : Nat) (f : Launch → Launch) : (modLaunch s id f).clusters = s.clusters := rfl
@[simp] theorem modLaunch_blocks (s : State) (id : Nat) (f : Launch → Launch) : (modLaunch s id f).blocks = s.blocks := rfl
@[simp] theorem modLaunch_gangs (s : State) (id : Nat) (f : Launch → Launch) : (modLaunch s id f).gangs = s.gangs := rfl
@[simp] theorem modLaunch_tasks (s : State) (id : Nat) (f : Launch → Launch) : (modLaunch s id f).tasks = s.tasks := rfl
@[simp] theorem modLaunch_copies (s : State) (id : Nat) (f : Launch → Launch) : (modLaunch s id f).copies = s.copies := rfl
@[simp] theorem modLaunch_jobs (s : State) (id : Nat) (f : Launch → Launch) : (modLaunch s id f).jobs = s.jobs := rfl
@[simp] theorem modLaunch_time (s : State) (id : Nat) (f : Launch → Launch) : (modLaunch s id f).time = s.time := rfl
@[simp] theorem modLaunch_idleClk (s : State) (id : Nat) (f : Launch → Launch) : (modLaunch s id f).idleClk = s.idleClk := rfl
@[simp] theorem modLaunch_swept (s : State) (id : Nat) (f : Launch → Launch) : (modLaunch s id f).swept = s.swept := rfl

/-! `modCopy` -/
@[simp] theorem modCopy_agenda (s : State) (id : Nat) (f : Copy → Copy) : (modCopy s id f).agenda = s.agenda := rfl
@[simp] theorem modCopy_issuing (s : State) (id : Nat) (f : Copy → Copy) : (modCopy s id f).issuing = s.issuing := rfl
@[simp] theorem modCopy_focus (s : State) (id : Nat) (f : Copy → Copy) : (modCopy s id f).focus = s.focus := rfl
@[simp] theorem modCopy_fresh (s : State) (id : Nat) (f : Copy → Copy) : (modCopy s id f).fresh = s.fresh := rfl
@[simp] theorem modCopy_nextId (s : State) (id : Nat) (f : Copy → Copy) : (modCopy s id f).nextId = s.nextId := rfl
@[simp] theorem modCopy_mem (s : State) (id : Nat) (f : Copy → Copy) : (modCopy s id f).mem = s.mem := rfl
@[simp] theorem modCopy_tags (s : State) (id : Nat) (f : Copy → Copy) : (modCopy s id f).tags = s.tags := rfl
@[simp] theorem modCopy_past (s : State) (id : Nat) (f : Copy → Copy) : (modCopy s id f).past = s.past := rfl
@[simp] theorem modCopy_poison (s : State) (id : Nat) (f : Copy → Copy) : (modCopy s id f).poison = s.poison := rfl
@[simp] theorem modCopy_shadows (s : State) (id : Nat) (f : Copy → Copy) : (modCopy s id f).shadows = s.shadows := rfl
@[simp] theorem modCopy_tlb (s : State) (id : Nat) (f : Copy → Copy) : (modCopy s id f).tlb = s.tlb := rfl
@[simp] theorem modCopy_lines (s : State) (id : Nat) (f : Copy → Copy) : (modCopy s id f).lines = s.lines := rfl
@[simp] theorem modCopy_module (s : State) (id : Nat) (f : Copy → Copy) : (modCopy s id f).module = s.module := rfl
@[simp] theorem modCopy_hostPort (s : State) (id : Nat) (f : Copy → Copy) : (modCopy s id f).hostPort = s.hostPort := rfl
@[simp] theorem modCopy_domain (s : State) (id : Nat) (f : Copy → Copy) : (modCopy s id f).domain = s.domain := rfl
@[simp] theorem modCopy_boot (s : State) (id : Nat) (f : Copy → Copy) : (modCopy s id f).boot = s.boot := rfl
@[simp] theorem modCopy_dies (s : State) (id : Nat) (f : Copy → Copy) : (modCopy s id f).dies = s.dies := rfl
@[simp] theorem modCopy_cores (s : State) (id : Nat) (f : Copy → Copy) : (modCopy s id f).cores = s.cores := rfl
@[simp] theorem modCopy_launches (s : State) (id : Nat) (f : Copy → Copy) : (modCopy s id f).launches = s.launches := rfl
@[simp] theorem modCopy_graphs (s : State) (id : Nat) (f : Copy → Copy) : (modCopy s id f).graphs = s.graphs := rfl
@[simp] theorem modCopy_clusters (s : State) (id : Nat) (f : Copy → Copy) : (modCopy s id f).clusters = s.clusters := rfl
@[simp] theorem modCopy_blocks (s : State) (id : Nat) (f : Copy → Copy) : (modCopy s id f).blocks = s.blocks := rfl
@[simp] theorem modCopy_gangs (s : State) (id : Nat) (f : Copy → Copy) : (modCopy s id f).gangs = s.gangs := rfl
@[simp] theorem modCopy_tasks (s : State) (id : Nat) (f : Copy → Copy) : (modCopy s id f).tasks = s.tasks := rfl
@[simp] theorem modCopy_copies (s : State) (id : Nat) (f : Copy → Copy) : (modCopy s id f).copies = modBy Copy.id id f s.copies := rfl
@[simp] theorem modCopy_jobs (s : State) (id : Nat) (f : Copy → Copy) : (modCopy s id f).jobs = s.jobs := rfl
@[simp] theorem modCopy_time (s : State) (id : Nat) (f : Copy → Copy) : (modCopy s id f).time = s.time := rfl
@[simp] theorem modCopy_idleClk (s : State) (id : Nat) (f : Copy → Copy) : (modCopy s id f).idleClk = s.idleClk := rfl
@[simp] theorem modCopy_swept (s : State) (id : Nat) (f : Copy → Copy) : (modCopy s id f).swept = s.swept := rfl

/-! `modGraph` -/
@[simp] theorem modGraph_agenda (s : State) (id : Nat) (f : Graph → Graph) : (modGraph s id f).agenda = s.agenda := rfl
@[simp] theorem modGraph_issuing (s : State) (id : Nat) (f : Graph → Graph) : (modGraph s id f).issuing = s.issuing := rfl
@[simp] theorem modGraph_focus (s : State) (id : Nat) (f : Graph → Graph) : (modGraph s id f).focus = s.focus := rfl
@[simp] theorem modGraph_fresh (s : State) (id : Nat) (f : Graph → Graph) : (modGraph s id f).fresh = s.fresh := rfl
@[simp] theorem modGraph_nextId (s : State) (id : Nat) (f : Graph → Graph) : (modGraph s id f).nextId = s.nextId := rfl
@[simp] theorem modGraph_mem (s : State) (id : Nat) (f : Graph → Graph) : (modGraph s id f).mem = s.mem := rfl
@[simp] theorem modGraph_tags (s : State) (id : Nat) (f : Graph → Graph) : (modGraph s id f).tags = s.tags := rfl
@[simp] theorem modGraph_past (s : State) (id : Nat) (f : Graph → Graph) : (modGraph s id f).past = s.past := rfl
@[simp] theorem modGraph_poison (s : State) (id : Nat) (f : Graph → Graph) : (modGraph s id f).poison = s.poison := rfl
@[simp] theorem modGraph_shadows (s : State) (id : Nat) (f : Graph → Graph) : (modGraph s id f).shadows = s.shadows := rfl
@[simp] theorem modGraph_tlb (s : State) (id : Nat) (f : Graph → Graph) : (modGraph s id f).tlb = s.tlb := rfl
@[simp] theorem modGraph_lines (s : State) (id : Nat) (f : Graph → Graph) : (modGraph s id f).lines = s.lines := rfl
@[simp] theorem modGraph_module (s : State) (id : Nat) (f : Graph → Graph) : (modGraph s id f).module = s.module := rfl
@[simp] theorem modGraph_hostPort (s : State) (id : Nat) (f : Graph → Graph) : (modGraph s id f).hostPort = s.hostPort := rfl
@[simp] theorem modGraph_domain (s : State) (id : Nat) (f : Graph → Graph) : (modGraph s id f).domain = s.domain := rfl
@[simp] theorem modGraph_boot (s : State) (id : Nat) (f : Graph → Graph) : (modGraph s id f).boot = s.boot := rfl
@[simp] theorem modGraph_dies (s : State) (id : Nat) (f : Graph → Graph) : (modGraph s id f).dies = s.dies := rfl
@[simp] theorem modGraph_cores (s : State) (id : Nat) (f : Graph → Graph) : (modGraph s id f).cores = s.cores := rfl
@[simp] theorem modGraph_launches (s : State) (id : Nat) (f : Graph → Graph) : (modGraph s id f).launches = s.launches := rfl
@[simp] theorem modGraph_graphs (s : State) (id : Nat) (f : Graph → Graph) : (modGraph s id f).graphs = modBy Graph.id id f s.graphs := rfl
@[simp] theorem modGraph_clusters (s : State) (id : Nat) (f : Graph → Graph) : (modGraph s id f).clusters = s.clusters := rfl
@[simp] theorem modGraph_blocks (s : State) (id : Nat) (f : Graph → Graph) : (modGraph s id f).blocks = s.blocks := rfl
@[simp] theorem modGraph_gangs (s : State) (id : Nat) (f : Graph → Graph) : (modGraph s id f).gangs = s.gangs := rfl
@[simp] theorem modGraph_tasks (s : State) (id : Nat) (f : Graph → Graph) : (modGraph s id f).tasks = s.tasks := rfl
@[simp] theorem modGraph_copies (s : State) (id : Nat) (f : Graph → Graph) : (modGraph s id f).copies = s.copies := rfl
@[simp] theorem modGraph_jobs (s : State) (id : Nat) (f : Graph → Graph) : (modGraph s id f).jobs = s.jobs := rfl
@[simp] theorem modGraph_time (s : State) (id : Nat) (f : Graph → Graph) : (modGraph s id f).time = s.time := rfl
@[simp] theorem modGraph_idleClk (s : State) (id : Nat) (f : Graph → Graph) : (modGraph s id f).idleClk = s.idleClk := rfl
@[simp] theorem modGraph_swept (s : State) (id : Nat) (f : Graph → Graph) : (modGraph s id f).swept = s.swept := rfl

/-! `modCore` -/
@[simp] theorem modCore_agenda (s : State) (k : Nat) (f : Core → Core) : (modCore s k f).agenda = s.agenda := rfl
@[simp] theorem modCore_issuing (s : State) (k : Nat) (f : Core → Core) : (modCore s k f).issuing = s.issuing := rfl
@[simp] theorem modCore_focus (s : State) (k : Nat) (f : Core → Core) : (modCore s k f).focus = s.focus := rfl
@[simp] theorem modCore_fresh (s : State) (k : Nat) (f : Core → Core) : (modCore s k f).fresh = s.fresh := rfl
@[simp] theorem modCore_nextId (s : State) (k : Nat) (f : Core → Core) : (modCore s k f).nextId = s.nextId := rfl
@[simp] theorem modCore_mem (s : State) (k : Nat) (f : Core → Core) : (modCore s k f).mem = s.mem := rfl
@[simp] theorem modCore_tags (s : State) (k : Nat) (f : Core → Core) : (modCore s k f).tags = s.tags := rfl
@[simp] theorem modCore_past (s : State) (k : Nat) (f : Core → Core) : (modCore s k f).past = s.past := rfl
@[simp] theorem modCore_poison (s : State) (k : Nat) (f : Core → Core) : (modCore s k f).poison = s.poison := rfl
@[simp] theorem modCore_shadows (s : State) (k : Nat) (f : Core → Core) : (modCore s k f).shadows = s.shadows := rfl
@[simp] theorem modCore_tlb (s : State) (k : Nat) (f : Core → Core) : (modCore s k f).tlb = s.tlb := rfl
@[simp] theorem modCore_lines (s : State) (k : Nat) (f : Core → Core) : (modCore s k f).lines = s.lines := rfl
@[simp] theorem modCore_module (s : State) (k : Nat) (f : Core → Core) : (modCore s k f).module = s.module := rfl
@[simp] theorem modCore_hostPort (s : State) (k : Nat) (f : Core → Core) : (modCore s k f).hostPort = s.hostPort := rfl
@[simp] theorem modCore_domain (s : State) (k : Nat) (f : Core → Core) : (modCore s k f).domain = s.domain := rfl
@[simp] theorem modCore_boot (s : State) (k : Nat) (f : Core → Core) : (modCore s k f).boot = s.boot := rfl
@[simp] theorem modCore_dies (s : State) (k : Nat) (f : Core → Core) : (modCore s k f).dies = s.dies := rfl
@[simp] theorem modCore_cores (s : State) (k : Nat) (f : Core → Core) : (modCore s k f).cores = fput s.cores k (f (coreOf s k)) := rfl
@[simp] theorem modCore_launches (s : State) (k : Nat) (f : Core → Core) : (modCore s k f).launches = s.launches := rfl
@[simp] theorem modCore_graphs (s : State) (k : Nat) (f : Core → Core) : (modCore s k f).graphs = s.graphs := rfl
@[simp] theorem modCore_clusters (s : State) (k : Nat) (f : Core → Core) : (modCore s k f).clusters = s.clusters := rfl
@[simp] theorem modCore_blocks (s : State) (k : Nat) (f : Core → Core) : (modCore s k f).blocks = s.blocks := rfl
@[simp] theorem modCore_gangs (s : State) (k : Nat) (f : Core → Core) : (modCore s k f).gangs = s.gangs := rfl
@[simp] theorem modCore_tasks (s : State) (k : Nat) (f : Core → Core) : (modCore s k f).tasks = s.tasks := rfl
@[simp] theorem modCore_copies (s : State) (k : Nat) (f : Core → Core) : (modCore s k f).copies = s.copies := rfl
@[simp] theorem modCore_jobs (s : State) (k : Nat) (f : Core → Core) : (modCore s k f).jobs = s.jobs := rfl
@[simp] theorem modCore_time (s : State) (k : Nat) (f : Core → Core) : (modCore s k f).time = s.time := rfl
@[simp] theorem modCore_idleClk (s : State) (k : Nat) (f : Core → Core) : (modCore s k f).idleClk = s.idleClk := rfl
@[simp] theorem modCore_swept (s : State) (k : Nat) (f : Core → Core) : (modCore s k f).swept = s.swept := rfl

/-! `modDie` -/
@[simp] theorem modDie_agenda (s : State) (d : Nat) (f : Die → Die) : (modDie s d f).agenda = s.agenda := rfl
@[simp] theorem modDie_issuing (s : State) (d : Nat) (f : Die → Die) : (modDie s d f).issuing = s.issuing := rfl
@[simp] theorem modDie_focus (s : State) (d : Nat) (f : Die → Die) : (modDie s d f).focus = s.focus := rfl
@[simp] theorem modDie_fresh (s : State) (d : Nat) (f : Die → Die) : (modDie s d f).fresh = s.fresh := rfl
@[simp] theorem modDie_nextId (s : State) (d : Nat) (f : Die → Die) : (modDie s d f).nextId = s.nextId := rfl
@[simp] theorem modDie_mem (s : State) (d : Nat) (f : Die → Die) : (modDie s d f).mem = s.mem := rfl
@[simp] theorem modDie_tags (s : State) (d : Nat) (f : Die → Die) : (modDie s d f).tags = s.tags := rfl
@[simp] theorem modDie_past (s : State) (d : Nat) (f : Die → Die) : (modDie s d f).past = s.past := rfl
@[simp] theorem modDie_poison (s : State) (d : Nat) (f : Die → Die) : (modDie s d f).poison = s.poison := rfl
@[simp] theorem modDie_shadows (s : State) (d : Nat) (f : Die → Die) : (modDie s d f).shadows = s.shadows := rfl
@[simp] theorem modDie_tlb (s : State) (d : Nat) (f : Die → Die) : (modDie s d f).tlb = s.tlb := rfl
@[simp] theorem modDie_lines (s : State) (d : Nat) (f : Die → Die) : (modDie s d f).lines = s.lines := rfl
@[simp] theorem modDie_module (s : State) (d : Nat) (f : Die → Die) : (modDie s d f).module = s.module := rfl
@[simp] theorem modDie_hostPort (s : State) (d : Nat) (f : Die → Die) : (modDie s d f).hostPort = s.hostPort := rfl
@[simp] theorem modDie_domain (s : State) (d : Nat) (f : Die → Die) : (modDie s d f).domain = s.domain := rfl
@[simp] theorem modDie_boot (s : State) (d : Nat) (f : Die → Die) : (modDie s d f).boot = s.boot := rfl
@[simp] theorem modDie_dies (s : State) (d : Nat) (f : Die → Die) : (modDie s d f).dies = setAt s.dies d (f (dieOf s d)) := rfl
@[simp] theorem modDie_cores (s : State) (d : Nat) (f : Die → Die) : (modDie s d f).cores = s.cores := rfl
@[simp] theorem modDie_launches (s : State) (d : Nat) (f : Die → Die) : (modDie s d f).launches = s.launches := rfl
@[simp] theorem modDie_graphs (s : State) (d : Nat) (f : Die → Die) : (modDie s d f).graphs = s.graphs := rfl
@[simp] theorem modDie_clusters (s : State) (d : Nat) (f : Die → Die) : (modDie s d f).clusters = s.clusters := rfl
@[simp] theorem modDie_blocks (s : State) (d : Nat) (f : Die → Die) : (modDie s d f).blocks = s.blocks := rfl
@[simp] theorem modDie_gangs (s : State) (d : Nat) (f : Die → Die) : (modDie s d f).gangs = s.gangs := rfl
@[simp] theorem modDie_tasks (s : State) (d : Nat) (f : Die → Die) : (modDie s d f).tasks = s.tasks := rfl
@[simp] theorem modDie_copies (s : State) (d : Nat) (f : Die → Die) : (modDie s d f).copies = s.copies := rfl
@[simp] theorem modDie_jobs (s : State) (d : Nat) (f : Die → Die) : (modDie s d f).jobs = s.jobs := rfl
@[simp] theorem modDie_time (s : State) (d : Nat) (f : Die → Die) : (modDie s d f).time = s.time := rfl
@[simp] theorem modDie_idleClk (s : State) (d : Nat) (f : Die → Die) : (modDie s d f).idleClk = s.idleClk := rfl
@[simp] theorem modDie_swept (s : State) (d : Nat) (f : Die → Die) : (modDie s d f).swept = s.swept := rfl

/-! `modMgmt` -/
@[simp] theorem modMgmt_agenda (s : State) (d : Nat) (f : Mgmt → Mgmt) : (modMgmt s d f).agenda = s.agenda := rfl
@[simp] theorem modMgmt_issuing (s : State) (d : Nat) (f : Mgmt → Mgmt) : (modMgmt s d f).issuing = s.issuing := rfl
@[simp] theorem modMgmt_focus (s : State) (d : Nat) (f : Mgmt → Mgmt) : (modMgmt s d f).focus = s.focus := rfl
@[simp] theorem modMgmt_fresh (s : State) (d : Nat) (f : Mgmt → Mgmt) : (modMgmt s d f).fresh = s.fresh := rfl
@[simp] theorem modMgmt_nextId (s : State) (d : Nat) (f : Mgmt → Mgmt) : (modMgmt s d f).nextId = s.nextId := rfl
@[simp] theorem modMgmt_mem (s : State) (d : Nat) (f : Mgmt → Mgmt) : (modMgmt s d f).mem = s.mem := rfl
@[simp] theorem modMgmt_tags (s : State) (d : Nat) (f : Mgmt → Mgmt) : (modMgmt s d f).tags = s.tags := rfl
@[simp] theorem modMgmt_past (s : State) (d : Nat) (f : Mgmt → Mgmt) : (modMgmt s d f).past = s.past := rfl
@[simp] theorem modMgmt_poison (s : State) (d : Nat) (f : Mgmt → Mgmt) : (modMgmt s d f).poison = s.poison := rfl
@[simp] theorem modMgmt_shadows (s : State) (d : Nat) (f : Mgmt → Mgmt) : (modMgmt s d f).shadows = s.shadows := rfl
@[simp] theorem modMgmt_tlb (s : State) (d : Nat) (f : Mgmt → Mgmt) : (modMgmt s d f).tlb = s.tlb := rfl
@[simp] theorem modMgmt_lines (s : State) (d : Nat) (f : Mgmt → Mgmt) : (modMgmt s d f).lines = s.lines := rfl
@[simp] theorem modMgmt_module (s : State) (d : Nat) (f : Mgmt → Mgmt) : (modMgmt s d f).module = s.module := rfl
@[simp] theorem modMgmt_hostPort (s : State) (d : Nat) (f : Mgmt → Mgmt) : (modMgmt s d f).hostPort = s.hostPort := rfl
@[simp] theorem modMgmt_domain (s : State) (d : Nat) (f : Mgmt → Mgmt) : (modMgmt s d f).domain = s.domain := rfl
@[simp] theorem modMgmt_boot (s : State) (d : Nat) (f : Mgmt → Mgmt) : (modMgmt s d f).boot = s.boot := rfl
@[simp] theorem modMgmt_dies (s : State) (d : Nat) (f : Mgmt → Mgmt) : (modMgmt s d f).dies = setAt s.dies d { dieOf s d with mgmt := f (dieOf s d).mgmt } := rfl
@[simp] theorem modMgmt_cores (s : State) (d : Nat) (f : Mgmt → Mgmt) : (modMgmt s d f).cores = s.cores := rfl
@[simp] theorem modMgmt_launches (s : State) (d : Nat) (f : Mgmt → Mgmt) : (modMgmt s d f).launches = s.launches := rfl
@[simp] theorem modMgmt_graphs (s : State) (d : Nat) (f : Mgmt → Mgmt) : (modMgmt s d f).graphs = s.graphs := rfl
@[simp] theorem modMgmt_clusters (s : State) (d : Nat) (f : Mgmt → Mgmt) : (modMgmt s d f).clusters = s.clusters := rfl
@[simp] theorem modMgmt_blocks (s : State) (d : Nat) (f : Mgmt → Mgmt) : (modMgmt s d f).blocks = s.blocks := rfl
@[simp] theorem modMgmt_gangs (s : State) (d : Nat) (f : Mgmt → Mgmt) : (modMgmt s d f).gangs = s.gangs := rfl
@[simp] theorem modMgmt_tasks (s : State) (d : Nat) (f : Mgmt → Mgmt) : (modMgmt s d f).tasks = s.tasks := rfl
@[simp] theorem modMgmt_copies (s : State) (d : Nat) (f : Mgmt → Mgmt) : (modMgmt s d f).copies = s.copies := rfl
@[simp] theorem modMgmt_jobs (s : State) (d : Nat) (f : Mgmt → Mgmt) : (modMgmt s d f).jobs = s.jobs := rfl
@[simp] theorem modMgmt_time (s : State) (d : Nat) (f : Mgmt → Mgmt) : (modMgmt s d f).time = s.time := rfl
@[simp] theorem modMgmt_idleClk (s : State) (d : Nat) (f : Mgmt → Mgmt) : (modMgmt s d f).idleClk = s.idleClk := rfl
@[simp] theorem modMgmt_swept (s : State) (d : Nat) (f : Mgmt → Mgmt) : (modMgmt s d f).swept = s.swept := rfl

/-! `modTask` -/
@[simp] theorem modTask_agenda (s : State) (h : Word) (f : Task → Task) : (modTask s h f).agenda = s.agenda := rfl
@[simp] theorem modTask_issuing (s : State) (h : Word) (f : Task → Task) : (modTask s h f).issuing = s.issuing := rfl
@[simp] theorem modTask_focus (s : State) (h : Word) (f : Task → Task) : (modTask s h f).focus = s.focus := rfl
@[simp] theorem modTask_fresh (s : State) (h : Word) (f : Task → Task) : (modTask s h f).fresh = s.fresh := rfl
@[simp] theorem modTask_nextId (s : State) (h : Word) (f : Task → Task) : (modTask s h f).nextId = s.nextId := rfl
@[simp] theorem modTask_mem (s : State) (h : Word) (f : Task → Task) : (modTask s h f).mem = s.mem := rfl
@[simp] theorem modTask_tags (s : State) (h : Word) (f : Task → Task) : (modTask s h f).tags = s.tags := rfl
@[simp] theorem modTask_past (s : State) (h : Word) (f : Task → Task) : (modTask s h f).past = s.past := rfl
@[simp] theorem modTask_poison (s : State) (h : Word) (f : Task → Task) : (modTask s h f).poison = s.poison := rfl
@[simp] theorem modTask_shadows (s : State) (h : Word) (f : Task → Task) : (modTask s h f).shadows = s.shadows := rfl
@[simp] theorem modTask_tlb (s : State) (h : Word) (f : Task → Task) : (modTask s h f).tlb = s.tlb := rfl
@[simp] theorem modTask_lines (s : State) (h : Word) (f : Task → Task) : (modTask s h f).lines = s.lines := rfl
@[simp] theorem modTask_module (s : State) (h : Word) (f : Task → Task) : (modTask s h f).module = s.module := rfl
@[simp] theorem modTask_hostPort (s : State) (h : Word) (f : Task → Task) : (modTask s h f).hostPort = s.hostPort := rfl
@[simp] theorem modTask_domain (s : State) (h : Word) (f : Task → Task) : (modTask s h f).domain = s.domain := rfl
@[simp] theorem modTask_boot (s : State) (h : Word) (f : Task → Task) : (modTask s h f).boot = s.boot := rfl
@[simp] theorem modTask_dies (s : State) (h : Word) (f : Task → Task) : (modTask s h f).dies = s.dies := rfl
@[simp] theorem modTask_cores (s : State) (h : Word) (f : Task → Task) : (modTask s h f).cores = s.cores := rfl
@[simp] theorem modTask_launches (s : State) (h : Word) (f : Task → Task) : (modTask s h f).launches = s.launches := rfl
@[simp] theorem modTask_graphs (s : State) (h : Word) (f : Task → Task) : (modTask s h f).graphs = s.graphs := rfl
@[simp] theorem modTask_clusters (s : State) (h : Word) (f : Task → Task) : (modTask s h f).clusters = s.clusters := rfl
@[simp] theorem modTask_blocks (s : State) (h : Word) (f : Task → Task) : (modTask s h f).blocks = s.blocks := rfl
@[simp] theorem modTask_gangs (s : State) (h : Word) (f : Task → Task) : (modTask s h f).gangs = s.gangs := rfl
@[simp] theorem modTask_tasks (s : State) (h : Word) (f : Task → Task) : (modTask s h f).tasks = s.tasks.map fun t => if mkHandle s t == h && t.state != 0 then f t else t := rfl
@[simp] theorem modTask_copies (s : State) (h : Word) (f : Task → Task) : (modTask s h f).copies = s.copies := rfl
@[simp] theorem modTask_jobs (s : State) (h : Word) (f : Task → Task) : (modTask s h f).jobs = s.jobs := rfl
@[simp] theorem modTask_time (s : State) (h : Word) (f : Task → Task) : (modTask s h f).time = s.time := rfl
@[simp] theorem modTask_idleClk (s : State) (h : Word) (f : Task → Task) : (modTask s h f).idleClk = s.idleClk := rfl
@[simp] theorem modTask_swept (s : State) (h : Word) (f : Task → Task) : (modTask s h f).swept = s.swept := rfl

/-! `freeNat` -/
@[simp] theorem freeNat_agenda (s : State) : (freeNat s).2.agenda = s.agenda := rfl
@[simp] theorem freeNat_issuing (s : State) : (freeNat s).2.issuing = s.issuing := rfl
@[simp] theorem freeNat_focus (s : State) : (freeNat s).2.focus = s.focus := rfl
@[simp] theorem freeNat_fresh (s : State) : (freeNat s).2.fresh = s.fresh + 1 := rfl
@[simp] theorem freeNat_nextId (s : State) : (freeNat s).2.nextId = s.nextId := rfl
@[simp] theorem freeNat_mem (s : State) : (freeNat s).2.mem = s.mem := rfl
@[simp] theorem freeNat_tags (s : State) : (freeNat s).2.tags = s.tags := rfl
@[simp] theorem freeNat_past (s : State) : (freeNat s).2.past = s.past := rfl
@[simp] theorem freeNat_poison (s : State) : (freeNat s).2.poison = s.poison := rfl
@[simp] theorem freeNat_shadows (s : State) : (freeNat s).2.shadows = s.shadows := rfl
@[simp] theorem freeNat_tlb (s : State) : (freeNat s).2.tlb = s.tlb := rfl
@[simp] theorem freeNat_lines (s : State) : (freeNat s).2.lines = s.lines := rfl
@[simp] theorem freeNat_module (s : State) : (freeNat s).2.module = s.module := rfl
@[simp] theorem freeNat_hostPort (s : State) : (freeNat s).2.hostPort = s.hostPort := rfl
@[simp] theorem freeNat_domain (s : State) : (freeNat s).2.domain = s.domain := rfl
@[simp] theorem freeNat_boot (s : State) : (freeNat s).2.boot = s.boot := rfl
@[simp] theorem freeNat_dies (s : State) : (freeNat s).2.dies = s.dies := rfl
@[simp] theorem freeNat_cores (s : State) : (freeNat s).2.cores = s.cores := rfl
@[simp] theorem freeNat_launches (s : State) : (freeNat s).2.launches = s.launches := rfl
@[simp] theorem freeNat_graphs (s : State) : (freeNat s).2.graphs = s.graphs := rfl
@[simp] theorem freeNat_clusters (s : State) : (freeNat s).2.clusters = s.clusters := rfl
@[simp] theorem freeNat_blocks (s : State) : (freeNat s).2.blocks = s.blocks := rfl
@[simp] theorem freeNat_gangs (s : State) : (freeNat s).2.gangs = s.gangs := rfl
@[simp] theorem freeNat_tasks (s : State) : (freeNat s).2.tasks = s.tasks := rfl
@[simp] theorem freeNat_copies (s : State) : (freeNat s).2.copies = s.copies := rfl
@[simp] theorem freeNat_jobs (s : State) : (freeNat s).2.jobs = s.jobs := rfl
@[simp] theorem freeNat_time (s : State) : (freeNat s).2.time = s.time := rfl
@[simp] theorem freeNat_idleClk (s : State) : (freeNat s).2.idleClk = s.idleClk := rfl
@[simp] theorem freeNat_swept (s : State) : (freeNat s).2.swept = s.swept := rfl

/-! `newId` -/
@[simp] theorem newId_agenda (s : State) : (newId s).2.agenda = s.agenda := rfl
@[simp] theorem newId_issuing (s : State) : (newId s).2.issuing = s.issuing := rfl
@[simp] theorem newId_focus (s : State) : (newId s).2.focus = s.focus := rfl
@[simp] theorem newId_fresh (s : State) : (newId s).2.fresh = s.fresh := rfl
@[simp] theorem newId_nextId (s : State) : (newId s).2.nextId = s.nextId + 1 := rfl
@[simp] theorem newId_mem (s : State) : (newId s).2.mem = s.mem := rfl
@[simp] theorem newId_tags (s : State) : (newId s).2.tags = s.tags := rfl
@[simp] theorem newId_past (s : State) : (newId s).2.past = s.past := rfl
@[simp] theorem newId_poison (s : State) : (newId s).2.poison = s.poison := rfl
@[simp] theorem newId_shadows (s : State) : (newId s).2.shadows = s.shadows := rfl
@[simp] theorem newId_tlb (s : State) : (newId s).2.tlb = s.tlb := rfl
@[simp] theorem newId_lines (s : State) : (newId s).2.lines = s.lines := rfl
@[simp] theorem newId_module (s : State) : (newId s).2.module = s.module := rfl
@[simp] theorem newId_hostPort (s : State) : (newId s).2.hostPort = s.hostPort := rfl
@[simp] theorem newId_domain (s : State) : (newId s).2.domain = s.domain := rfl
@[simp] theorem newId_boot (s : State) : (newId s).2.boot = s.boot := rfl
@[simp] theorem newId_dies (s : State) : (newId s).2.dies = s.dies := rfl
@[simp] theorem newId_cores (s : State) : (newId s).2.cores = s.cores := rfl
@[simp] theorem newId_launches (s : State) : (newId s).2.launches = s.launches := rfl
@[simp] theorem newId_graphs (s : State) : (newId s).2.graphs = s.graphs := rfl
@[simp] theorem newId_clusters (s : State) : (newId s).2.clusters = s.clusters := rfl
@[simp] theorem newId_blocks (s : State) : (newId s).2.blocks = s.blocks := rfl
@[simp] theorem newId_gangs (s : State) : (newId s).2.gangs = s.gangs := rfl
@[simp] theorem newId_tasks (s : State) : (newId s).2.tasks = s.tasks := rfl
@[simp] theorem newId_copies (s : State) : (newId s).2.copies = s.copies := rfl
@[simp] theorem newId_jobs (s : State) : (newId s).2.jobs = s.jobs := rfl
@[simp] theorem newId_time (s : State) : (newId s).2.time = s.time := rfl
@[simp] theorem newId_idleClk (s : State) : (newId s).2.idleClk = s.idleClk := rfl
@[simp] theorem newId_swept (s : State) : (newId s).2.swept = s.swept := rfl

/-! `issued` -/
@[simp] theorem issued_agenda (s : State) (g : Gang) : (issued s g).agenda = s.agenda := rfl
@[simp] theorem issued_issuing (s : State) (g : Gang) : (issued s g).issuing = none := rfl
@[simp] theorem issued_focus (s : State) (g : Gang) : (issued s g).focus = s.focus := rfl
@[simp] theorem issued_fresh (s : State) (g : Gang) : (issued s g).fresh = s.fresh := rfl
@[simp] theorem issued_nextId (s : State) (g : Gang) : (issued s g).nextId = s.nextId := rfl
@[simp] theorem issued_mem (s : State) (g : Gang) : (issued s g).mem = s.mem := rfl
@[simp] theorem issued_tags (s : State) (g : Gang) : (issued s g).tags = s.tags := rfl
@[simp] theorem issued_past (s : State) (g : Gang) : (issued s g).past = s.past := rfl
@[simp] theorem issued_poison (s : State) (g : Gang) : (issued s g).poison = s.poison := rfl
@[simp] theorem issued_shadows (s : State) (g : Gang) : (issued s g).shadows = s.shadows := rfl
@[simp] theorem issued_tlb (s : State) (g : Gang) : (issued s g).tlb = s.tlb := rfl
@[simp] theorem issued_lines (s : State) (g : Gang) : (issued s g).lines = s.lines := rfl
@[simp] theorem issued_module (s : State) (g : Gang) : (issued s g).module = s.module := rfl
@[simp] theorem issued_hostPort (s : State) (g : Gang) : (issued s g).hostPort = s.hostPort := rfl
@[simp] theorem issued_domain (s : State) (g : Gang) : (issued s g).domain = s.domain := rfl
@[simp] theorem issued_boot (s : State) (g : Gang) : (issued s g).boot = s.boot := rfl
@[simp] theorem issued_dies (s : State) (g : Gang) : (issued s g).dies = s.dies := rfl
@[simp] theorem issued_cores (s : State) (g : Gang) : (issued s g).cores = s.cores := rfl
@[simp] theorem issued_launches (s : State) (g : Gang) : (issued s g).launches = s.launches := rfl
@[simp] theorem issued_graphs (s : State) (g : Gang) : (issued s g).graphs = s.graphs := rfl
@[simp] theorem issued_clusters (s : State) (g : Gang) : (issued s g).clusters = s.clusters := rfl
@[simp] theorem issued_blocks (s : State) (g : Gang) : (issued s g).blocks = s.blocks := rfl
@[simp] theorem issued_gangs (s : State) (g : Gang) : (issued s g).gangs = modBy Gang.id g.id (fun _ => g) s.gangs := rfl
@[simp] theorem issued_tasks (s : State) (g : Gang) : (issued s g).tasks = s.tasks := rfl
@[simp] theorem issued_copies (s : State) (g : Gang) : (issued s g).copies = s.copies := rfl
@[simp] theorem issued_jobs (s : State) (g : Gang) : (issued s g).jobs = s.jobs := rfl
@[simp] theorem issued_time (s : State) (g : Gang) : (issued s g).time = s.time := rfl
@[simp] theorem issued_idleClk (s : State) (g : Gang) : (issued s g).idleClk = s.idleClk := rfl
@[simp] theorem issued_swept (s : State) (g : Gang) : (issued s g).swept = s.swept := rfl

/-! The lanes of a gang: what `mapLanes` and `modThread` leave. -/
@[simp] theorem mapLanes_id (A : Word) (F : Nat → Thread → Thread) (g : Gang) : (mapLanes A F g).id = g.id := rfl
@[simp] theorem mapLanes_launch (A : Word) (F : Nat → Thread → Thread) (g : Gang) : (mapLanes A F g).launch = g.launch := rfl
@[simp] theorem mapLanes_cluster (A : Word) (F : Nat → Thread → Thread) (g : Gang) : (mapLanes A F g).cluster = g.cluster := rfl
@[simp] theorem mapLanes_clusterId (A : Word) (F : Nat → Thread → Thread) (g : Gang) : (mapLanes A F g).clusterId = g.clusterId := rfl
@[simp] theorem mapLanes_block (A : Word) (F : Nat → Thread → Thread) (g : Gang) : (mapLanes A F g).block = g.block := rfl
@[simp] theorem mapLanes_rank (A : Word) (F : Nat → Thread → Thread) (g : Gang) : (mapLanes A F g).rank = g.rank := rfl
@[simp] theorem mapLanes_index (A : Word) (F : Nat → Thread → Thread) (g : Gang) : (mapLanes A F g).index = g.index := rfl
@[simp] theorem mapLanes_task (A : Word) (F : Nat → Thread → Thread) (g : Gang) : (mapLanes A F g).task = g.task := rfl
@[simp] theorem mapLanes_core (A : Word) (F : Nat → Thread → Thread) (g : Gang) : (mapLanes A F g).core = g.core := rfl
@[simp] theorem mapLanes_slot (A : Word) (F : Nat → Thread → Thread) (g : Gang) : (mapLanes A F g).slot = g.slot := rfl
@[simp] theorem mapLanes_placed (A : Word) (F : Nat → Thread → Thread) (g : Gang) : (mapLanes A F g).placed = g.placed := rfl
@[simp] theorem mapLanes_nregs (A : Word) (F : Nat → Thread → Thread) (g : Gang) : (mapLanes A F g).nregs = g.nregs := rfl
@[simp] theorem mapLanes_slab (A : Word) (F : Nat → Thread → Thread) (g : Gang) : (mapLanes A F g).slab = g.slab := rfl
@[simp] theorem mapLanes_live (A : Word) (F : Nat → Thread → Thread) (g : Gang) : (mapLanes A F g).live = g.live := rfl
@[simp] theorem mapLanes_frontier (A : Word) (F : Nat → Thread → Thread) (g : Gang) : (mapLanes A F g).frontier = g.frontier := rfl
@[simp] theorem mapLanes_fetched (A : Word) (F : Nat → Thread → Thread) (g : Gang) : (mapLanes A F g).fetched = g.fetched := rfl
@[simp] theorem mapLanes_clause (A : Word) (F : Nat → Thread → Thread) (g : Gang) : (mapLanes A F g).clause = g.clause := rfl
@[simp] theorem mapLanes_pending (A : Word) (F : Nat → Thread → Thread) (g : Gang) : (mapLanes A F g).pending = g.pending := rfl
@[simp] theorem mapLanes_passed (A : Word) (F : Nat → Thread → Thread) (g : Gang) : (mapLanes A F g).passed = g.passed := rfl
@[simp] theorem mapLanes_wait (A : Word) (F : Nat → Thread → Thread) (g : Gang) : (mapLanes A F g).wait = g.wait := rfl
@[simp] theorem mapLanes_flags (A : Word) (F : Nat → Thread → Thread) (g : Gang) : (mapLanes A F g).flags = g.flags := rfl
@[simp] theorem mapLanes_completing (A : Word) (F : Nat → Thread → Thread) (g : Gang) : (mapLanes A F g).completing = g.completing := rfl
@[simp] theorem mapLanes_level (A : Word) (F : Nat → Thread → Thread) (g : Gang) : (mapLanes A F g).level = g.level := rfl
@[simp] theorem mapLanes_rec1 (A : Word) (F : Nat → Thread → Thread) (g : Gang) : (mapLanes A F g).rec1 = g.rec1 := rfl
@[simp] theorem mapLanes_rec2 (A : Word) (F : Nat → Thread → Thread) (g : Gang) : (mapLanes A F g).rec2 = g.rec2 := rfl
@[simp] theorem mapLanes_bank1 (A : Word) (F : Nat → Thread → Thread) (g : Gang) : (mapLanes A F g).bank1 = g.bank1 := rfl
@[simp] theorem mapLanes_bank2 (A : Word) (F : Nat → Thread → Thread) (g : Gang) : (mapLanes A F g).bank2 = g.bank2 := rfl
@[simp] theorem mapLanes_gstate (A : Word) (F : Nat → Thread → Thread) (g : Gang) : (mapLanes A F g).gstate = g.gstate := rfl
@[simp] theorem mapLanes_regionDepth (A : Word) (F : Nat → Thread → Thread) (g : Gang) : (mapLanes A F g).regionDepth = g.regionDepth := rfl
@[simp] theorem mapLanes_regions (A : Word) (F : Nat → Thread → Thread) (g : Gang) : (mapLanes A F g).regions = g.regions := rfl
@[simp] theorem mapLanes_retcnt (A : Word) (F : Nat → Thread → Thread) (g : Gang) : (mapLanes A F g).retcnt = g.retcnt := rfl
@[simp] theorem mapLanes_sthash (A : Word) (F : Nat → Thread → Thread) (g : Gang) : (mapLanes A F g).sthash = g.sthash := rfl
@[simp] theorem mapLanes_aging (A : Word) (F : Nat → Thread → Thread) (g : Gang) : (mapLanes A F g).aging = g.aging := rfl
@[simp] theorem mapLanes_curClass (A : Word) (F : Nat → Thread → Thread) (g : Gang) : (mapLanes A F g).curClass = g.curClass := rfl
@[simp] theorem mapLanes_yielded (A : Word) (F : Nat → Thread → Thread) (g : Gang) : (mapLanes A F g).yielded = g.yielded := rfl
@[simp] theorem mapLanes_yieldFor (A : Word) (F : Nat → Thread → Thread) (g : Gang) : (mapLanes A F g).yieldFor = g.yieldFor := rfl
@[simp] theorem mapLanes_marked (A : Word) (F : Nat → Thread → Thread) (g : Gang) : (mapLanes A F g).marked = g.marked := rfl
@[simp] theorem mapLanes_woken (A : Word) (F : Nat → Thread → Thread) (g : Gang) : (mapLanes A F g).woken = g.woken := rfl
@[simp] theorem mapLanes_wakeRec (A : Word) (F : Nat → Thread → Thread) (g : Gang) : (mapLanes A F g).wakeRec = g.wakeRec := rfl
@[simp] theorem mapLanes_displaced (A : Word) (F : Nat → Thread → Thread) (g : Gang) : (mapLanes A F g).displaced = g.displaced := rfl
@[simp] theorem mapLanes_tEvict (A : Word) (F : Nat → Thread → Thread) (g : Gang) : (mapLanes A F g).tEvict = g.tEvict := rfl
@[simp] theorem mapLanes_haltReq (A : Word) (F : Nat → Thread → Thread) (g : Gang) : (mapLanes A F g).haltReq = g.haltReq := rfl
@[simp] theorem mapLanes_hits (A : Word) (F : Nat → Thread → Thread) (g : Gang) : (mapLanes A F g).hits = g.hits := rfl
@[simp] theorem mapLanes_under (A : Word) (F : Nat → Thread → Thread) (g : Gang) : (mapLanes A F g).under = g.under := rfl
@[simp] theorem mapLanes_stopping (A : Word) (F : Nat → Thread → Thread) (g : Gang) : (mapLanes A F g).stopping = g.stopping := rfl
@[simp] theorem mapLanes_stack (A : Word) (F : Nat → Thread → Thread) (g : Gang) : (mapLanes A F g).stack = g.stack := rfl
@[simp] theorem mapLanes_priv (A : Word) (F : Nat → Thread → Thread) (g : Gang) : (mapLanes A F g).priv = g.priv := rfl
@[simp] theorem mapLanes_syncs (A : Word) (F : Nat → Thread → Thread) (g : Gang) : (mapLanes A F g).syncs = g.syncs := rfl
@[simp] theorem mapLanes_freed (A : Word) (F : Nat → Thread → Thread) (g : Gang) : (mapLanes A F g).freed = g.freed := rfl
@[simp] theorem mapLanes_gate (A : Word) (F : Nat → Thread → Thread) (g : Gang) : (mapLanes A F g).gate = g.gate := rfl
@[simp] theorem mapLanes_compare (A : Word) (F : Nat → Thread → Thread) (g : Gang) : (mapLanes A F g).compare = g.compare := rfl
@[simp] theorem mapLanes_diverges (A : Word) (F : Nat → Thread → Thread) (g : Gang) : (mapLanes A F g).diverges = g.diverges := rfl
@[simp] theorem mapLanes_record (A : Word) (F : Nat → Thread → Thread) (g : Gang) : (mapLanes A F g).record = g.record := rfl
@[simp] theorem mapLanes_wakeOrder (A : Word) (F : Nat → Thread → Thread) (g : Gang) : (mapLanes A F g).wakeOrder = g.wakeOrder := rfl
@[simp] theorem mapLanes_ended (A : Word) (F : Nat → Thread → Thread) (g : Gang) : (mapLanes A F g).ended = g.ended := rfl
@[simp] theorem mapLanes_bound (A : Word) (F : Nat → Thread → Thread) (g : Gang) : (mapLanes A F g).bound = g.bound := rfl
@[simp] theorem modThread_id (g : Gang) (l : Nat) (F : Thread → Thread) : (modThread g l F).id = g.id := rfl
@[simp] theorem modThread_launch (g : Gang) (l : Nat) (F : Thread → Thread) : (modThread g l F).launch = g.launch := rfl
@[simp] theorem modThread_cluster (g : Gang) (l : Nat) (F : Thread → Thread) : (modThread g l F).cluster = g.cluster := rfl
@[simp] theorem modThread_clusterId (g : Gang) (l : Nat) (F : Thread → Thread) : (modThread g l F).clusterId = g.clusterId := rfl
@[simp] theorem modThread_block (g : Gang) (l : Nat) (F : Thread → Thread) : (modThread g l F).block = g.block := rfl
@[simp] theorem modThread_rank (g : Gang) (l : Nat) (F : Thread → Thread) : (modThread g l F).rank = g.rank := rfl
@[simp] theorem modThread_index (g : Gang) (l : Nat) (F : Thread → Thread) : (modThread g l F).index = g.index := rfl
@[simp] theorem modThread_task (g : Gang) (l : Nat) (F : Thread → Thread) : (modThread g l F).task = g.task := rfl
@[simp] theorem modThread_core (g : Gang) (l : Nat) (F : Thread → Thread) : (modThread g l F).core = g.core := rfl
@[simp] theorem modThread_slot (g : Gang) (l : Nat) (F : Thread → Thread) : (modThread g l F).slot = g.slot := rfl
@[simp] theorem modThread_placed (g : Gang) (l : Nat) (F : Thread → Thread) : (modThread g l F).placed = g.placed := rfl
@[simp] theorem modThread_nregs (g : Gang) (l : Nat) (F : Thread → Thread) : (modThread g l F).nregs = g.nregs := rfl
@[simp] theorem modThread_slab (g : Gang) (l : Nat) (F : Thread → Thread) : (modThread g l F).slab = g.slab := rfl
@[simp] theorem modThread_live (g : Gang) (l : Nat) (F : Thread → Thread) : (modThread g l F).live = g.live := rfl
@[simp] theorem modThread_frontier (g : Gang) (l : Nat) (F : Thread → Thread) : (modThread g l F).frontier = g.frontier := rfl
@[simp] theorem modThread_fetched (g : Gang) (l : Nat) (F : Thread → Thread) : (modThread g l F).fetched = g.fetched := rfl
@[simp] theorem modThread_clause (g : Gang) (l : Nat) (F : Thread → Thread) : (modThread g l F).clause = g.clause := rfl
@[simp] theorem modThread_pending (g : Gang) (l : Nat) (F : Thread → Thread) : (modThread g l F).pending = g.pending := rfl
@[simp] theorem modThread_passed (g : Gang) (l : Nat) (F : Thread → Thread) : (modThread g l F).passed = g.passed := rfl
@[simp] theorem modThread_wait (g : Gang) (l : Nat) (F : Thread → Thread) : (modThread g l F).wait = g.wait := rfl
@[simp] theorem modThread_flags (g : Gang) (l : Nat) (F : Thread → Thread) : (modThread g l F).flags = g.flags := rfl
@[simp] theorem modThread_completing (g : Gang) (l : Nat) (F : Thread → Thread) : (modThread g l F).completing = g.completing := rfl
@[simp] theorem modThread_level (g : Gang) (l : Nat) (F : Thread → Thread) : (modThread g l F).level = g.level := rfl
@[simp] theorem modThread_rec1 (g : Gang) (l : Nat) (F : Thread → Thread) : (modThread g l F).rec1 = g.rec1 := rfl
@[simp] theorem modThread_rec2 (g : Gang) (l : Nat) (F : Thread → Thread) : (modThread g l F).rec2 = g.rec2 := rfl
@[simp] theorem modThread_bank1 (g : Gang) (l : Nat) (F : Thread → Thread) : (modThread g l F).bank1 = g.bank1 := rfl
@[simp] theorem modThread_bank2 (g : Gang) (l : Nat) (F : Thread → Thread) : (modThread g l F).bank2 = g.bank2 := rfl
@[simp] theorem modThread_gstate (g : Gang) (l : Nat) (F : Thread → Thread) : (modThread g l F).gstate = g.gstate := rfl
@[simp] theorem modThread_regionDepth (g : Gang) (l : Nat) (F : Thread → Thread) : (modThread g l F).regionDepth = g.regionDepth := rfl
@[simp] theorem modThread_regions (g : Gang) (l : Nat) (F : Thread → Thread) : (modThread g l F).regions = g.regions := rfl
@[simp] theorem modThread_retcnt (g : Gang) (l : Nat) (F : Thread → Thread) : (modThread g l F).retcnt = g.retcnt := rfl
@[simp] theorem modThread_sthash (g : Gang) (l : Nat) (F : Thread → Thread) : (modThread g l F).sthash = g.sthash := rfl
@[simp] theorem modThread_aging (g : Gang) (l : Nat) (F : Thread → Thread) : (modThread g l F).aging = g.aging := rfl
@[simp] theorem modThread_curClass (g : Gang) (l : Nat) (F : Thread → Thread) : (modThread g l F).curClass = g.curClass := rfl
@[simp] theorem modThread_yielded (g : Gang) (l : Nat) (F : Thread → Thread) : (modThread g l F).yielded = g.yielded := rfl
@[simp] theorem modThread_yieldFor (g : Gang) (l : Nat) (F : Thread → Thread) : (modThread g l F).yieldFor = g.yieldFor := rfl
@[simp] theorem modThread_marked (g : Gang) (l : Nat) (F : Thread → Thread) : (modThread g l F).marked = g.marked := rfl
@[simp] theorem modThread_woken (g : Gang) (l : Nat) (F : Thread → Thread) : (modThread g l F).woken = g.woken := rfl
@[simp] theorem modThread_wakeRec (g : Gang) (l : Nat) (F : Thread → Thread) : (modThread g l F).wakeRec = g.wakeRec := rfl
@[simp] theorem modThread_displaced (g : Gang) (l : Nat) (F : Thread → Thread) : (modThread g l F).displaced = g.displaced := rfl
@[simp] theorem modThread_tEvict (g : Gang) (l : Nat) (F : Thread → Thread) : (modThread g l F).tEvict = g.tEvict := rfl
@[simp] theorem modThread_haltReq (g : Gang) (l : Nat) (F : Thread → Thread) : (modThread g l F).haltReq = g.haltReq := rfl
@[simp] theorem modThread_hits (g : Gang) (l : Nat) (F : Thread → Thread) : (modThread g l F).hits = g.hits := rfl
@[simp] theorem modThread_under (g : Gang) (l : Nat) (F : Thread → Thread) : (modThread g l F).under = g.under := rfl
@[simp] theorem modThread_stopping (g : Gang) (l : Nat) (F : Thread → Thread) : (modThread g l F).stopping = g.stopping := rfl
@[simp] theorem modThread_stack (g : Gang) (l : Nat) (F : Thread → Thread) : (modThread g l F).stack = g.stack := rfl
@[simp] theorem modThread_priv (g : Gang) (l : Nat) (F : Thread → Thread) : (modThread g l F).priv = g.priv := rfl
@[simp] theorem modThread_syncs (g : Gang) (l : Nat) (F : Thread → Thread) : (modThread g l F).syncs = g.syncs := rfl
@[simp] theorem modThread_freed (g : Gang) (l : Nat) (F : Thread → Thread) : (modThread g l F).freed = g.freed := rfl
@[simp] theorem modThread_gate (g : Gang) (l : Nat) (F : Thread → Thread) : (modThread g l F).gate = g.gate := rfl
@[simp] theorem modThread_compare (g : Gang) (l : Nat) (F : Thread → Thread) : (modThread g l F).compare = g.compare := rfl
@[simp] theorem modThread_diverges (g : Gang) (l : Nat) (F : Thread → Thread) : (modThread g l F).diverges = g.diverges := rfl
@[simp] theorem modThread_record (g : Gang) (l : Nat) (F : Thread → Thread) : (modThread g l F).record = g.record := rfl
@[simp] theorem modThread_wakeOrder (g : Gang) (l : Nat) (F : Thread → Thread) : (modThread g l F).wakeOrder = g.wakeOrder := rfl
@[simp] theorem modThread_ended (g : Gang) (l : Nat) (F : Thread → Thread) : (modThread g l F).ended = g.ended := rfl
@[simp] theorem modThread_bound (g : Gang) (l : Nat) (F : Thread → Thread) : (modThread g l F).bound = g.bound := rfl

end Sys2Proof.Machine
end

