-- ==== Sys2Proof/Laws/Ops.lean ====
section
/-! SUPPORT. What the shared operations answer: the end of an instruction, the place of an access on its core, and the
canonical form under the settling of translations. -/

namespace Sys2Proof.Machine

/-- An instruction that ends with a gang `g1` of the same name changes nothing else. -/
theorem finish_only {s : State} {cls : Cls} {g : Gang} {c : ClauseRun} (h : Issues s cls g c) (g1 : Gang) (hid : g1.id = g.id)
    (cls' : Cls) : OnlyGang s (finish s g1 c cls') g (completed g1 c cls') :=
  issued_only (issuer_gangOf h.issuer).2.1 (by simp [hid])

@[simp] theorem completed_thr (g : Gang) (c : ClauseRun) (cls : Cls) (l : Nat) : thr (completed g c cls) l = thr g l := by
  unfold thr
  rw [(completed_only g c cls).2]

/-- What `mapLanes` does to a lane is what the instruction does to it. -/
theorem eachLane_completed (g : Gang) (c : ClauseRun) (cls : Cls) (A : Word) (f : Nat → Thread → Thread)
    {F : Nat → Thread → Thread → Prop}
    (hF : ∀ l, l < g.threads.length → inMask A l = true → F l (thr g l) (f l (thr g l))) :
    EachLane g (completed (mapLanes A f g) c cls) A F := by
  intro l hl
  rw [completed_thr, thr_mapLanes _ _ _ _ hl]
  split
  · exact hF l hl (by assumption)
  · rfl

theorem lanes_finish {s : State} {cls : Cls} {g : Gang} {c : ClauseRun} (h : Issues s cls g c) (A : Word)
    (f : Nat → Thread → Thread) (cls' : Cls) :
    OnlyGang s (finish s (mapLanes A f g) c cls') g (completed (mapLanes A f g) c cls') ∧
      OnlyThreads g (completed (mapLanes A f g) c cls') :=
  ⟨finish_only h (mapLanes A f g) rfl _, (lanes_completed g (mapLanes A f g) c cls' (onlyThreads_mapLanes A f g) rfl).1⟩

/-- A location that an access on the gang's core finds exists, and is not physical memory. -/
theorem onCoreLoc_place {s : State} {g : Gang} {lane n : Nat} {ea : Dbl} {l : Loc} (hg : gangOf s g.id = some g)
    (h : onCoreLoc s g lane ea n true = some l) : HasPlace s l.place ∧ l.place ≠ .phys := by
  unfold onCoreLoc at h
  split at h
  · unfold pooledLoc at h
    simp only at h
    split at h
    · cases h
    · split at h
      · split at h
        · cases h; simp [HasPlace, hg]
        · cases h
      · split at h
        · cases h
        · rename_i b hb
          have : blockOf s b.id = some b := by
            unfold blockOfRank at hb
            simp [Option.bind_eq_some_iff] at hb
            obtain ⟨c, hc, x, hx, hy⟩ := hb
            have := findBy_key (key := Block.id) hy
            rw [this]; exact hy
          simp at h
          obtain ⟨_, rfl⟩ := h
          simp [HasPlace, this]
  · unfold stackLoc at h
    simp only at h
    split at h
    · cases h
    · split at h
      all_goals
        rw [Option.ite_none_left_eq_some, Option.some.injEq] at h
        rw [← h.2]
        simp [HasPlace, hg]
  · cases h

/-- The target of an access outside the global window is its place on a core. -/
theorem arrive_core {s : State} {g : Gang} {lane n : Nat} {ea : Dbl} {l : Loc} {need : Needs} (hw : apertureOf ea ≠ .global)
    (h : arriveOnCore s g lane ea n need.reads need.colour = .ok l) : arrive s g lane ea n need = (s, .ok (.core l)) := by
  unfold arrive
  split
  · contradiction
  · rw [h]

/-- Settling the dirty marks of translations keeps memory and tags canonical. -/
theorem settleAll_wf : ∀ (es : List TlbEntry) (s : State), Memory.wf s.mem = true → Memory.wf s.tags = true →
    Memory.wf (settleAll es s).mem = true ∧ Memory.wf (settleAll es s).tags = true
  | [], _, h, ht => ⟨h, ht⟩
  | e :: es, s, h, ht => by
    unfold settleAll
    have : Memory.wf (settleDirty s e).mem = true ∧ Memory.wf (settleDirty s e).tags = true := by
      unfold settleDirty
      split
      · exact writeBytes_wf _ _ _ h ht
      · exact ⟨h, ht⟩
    exact settleAll_wf es _ this.1 this.2

end Sys2Proof.Machine
end

