-- ==== Sys2Proof/Laws/PerInstr.lean ====
section
/-! SUPPORT. What holds of every instruction as syntax: the encoding of a legal one lies in one 32-bit word. -/

open Sys2Proof

/-- Every legal instruction encodes in 32 bits. -/
theorem Sys2Proof.encode_lt (i : Instr) (h : i.wf = true) : encode i < 2 ^ 32 := by
  cases i <;> simp only [Instr.wf, Bool.and_eq_true, decide_eq_true_eq] at h <;> simp only [encode, encRRR] <;> omega

/-- The encoding of a legal instruction fits the word (R44). -/
def Sys2Proof.Laws.EncodesInWord.Statement (i : Instr) : Prop := i.wf = true → encode i < 2 ^ 32

theorem Sys2Proof.Laws.EncodesInWord.bra (a b : Nat) : Sys2Proof.Laws.EncodesInWord.Statement (.bra a b) := encode_lt _
theorem Sys2Proof.Laws.EncodesInWord.call (a b : Nat) : Sys2Proof.Laws.EncodesInWord.Statement (.call a b) := encode_lt _
theorem Sys2Proof.Laws.EncodesInWord.jmpi (a b : Nat) : Sys2Proof.Laws.EncodesInWord.Statement (.jmpi a b) := encode_lt _
theorem Sys2Proof.Laws.EncodesInWord.wait (a : Nat) : Sys2Proof.Laws.EncodesInWord.Statement (.wait a) := encode_lt _
theorem Sys2Proof.Laws.EncodesInWord.wbaseRel (a : Nat) : Sys2Proof.Laws.EncodesInWord.Statement (.wbaseRel a) := encode_lt _
theorem Sys2Proof.Laws.EncodesInWord.wbaseAbs (a : Nat) : Sys2Proof.Laws.EncodesInWord.Statement (.wbaseAbs a) := encode_lt _
theorem Sys2Proof.Laws.EncodesInWord.trap (a : Nat) : Sys2Proof.Laws.EncodesInWord.Statement (.trap a) := encode_lt _
theorem Sys2Proof.Laws.EncodesInWord.brk (a : Nat) : Sys2Proof.Laws.EncodesInWord.Statement (.brk a) := encode_lt _
theorem Sys2Proof.Laws.EncodesInWord.add (a b c : Nat) : Sys2Proof.Laws.EncodesInWord.Statement (.add a b c) := encode_lt _
theorem Sys2Proof.Laws.EncodesInWord.sub (a b c : Nat) : Sys2Proof.Laws.EncodesInWord.Statement (.sub a b c) := encode_lt _
theorem Sys2Proof.Laws.EncodesInWord.min (a b c : Nat) : Sys2Proof.Laws.EncodesInWord.Statement (.min a b c) := encode_lt _
theorem Sys2Proof.Laws.EncodesInWord.max (a b c : Nat) : Sys2Proof.Laws.EncodesInWord.Statement (.max a b c) := encode_lt _
theorem Sys2Proof.Laws.EncodesInWord.minn (a b c : Nat) : Sys2Proof.Laws.EncodesInWord.Statement (.minn a b c) := encode_lt _
theorem Sys2Proof.Laws.EncodesInWord.maxn (a b c : Nat) : Sys2Proof.Laws.EncodesInWord.Statement (.maxn a b c) := encode_lt _
theorem Sys2Proof.Laws.EncodesInWord.abs (a b : Nat) : Sys2Proof.Laws.EncodesInWord.Statement (.abs a b) := encode_lt _
theorem Sys2Proof.Laws.EncodesInWord.neg (a b : Nat) : Sys2Proof.Laws.EncodesInWord.Statement (.neg a b) := encode_lt _
theorem Sys2Proof.Laws.EncodesInWord.and (a b c : Nat) : Sys2Proof.Laws.EncodesInWord.Statement (.and a b c) := encode_lt _
theorem Sys2Proof.Laws.EncodesInWord.or (a b c : Nat) : Sys2Proof.Laws.EncodesInWord.Statement (.or a b c) := encode_lt _
theorem Sys2Proof.Laws.EncodesInWord.xor (a b c : Nat) : Sys2Proof.Laws.EncodesInWord.Statement (.xor a b c) := encode_lt _
theorem Sys2Proof.Laws.EncodesInWord.andn (a b c : Nat) : Sys2Proof.Laws.EncodesInWord.Statement (.andn a b c) := encode_lt _
theorem Sys2Proof.Laws.EncodesInWord.orn (a b c : Nat) : Sys2Proof.Laws.EncodesInWord.Statement (.orn a b c) := encode_lt _
theorem Sys2Proof.Laws.EncodesInWord.not (a b : Nat) : Sys2Proof.Laws.EncodesInWord.Statement (.not a b) := encode_lt _
theorem Sys2Proof.Laws.EncodesInWord.shl (a b c : Nat) : Sys2Proof.Laws.EncodesInWord.Statement (.shl a b c) := encode_lt _
theorem Sys2Proof.Laws.EncodesInWord.shr (a b c : Nat) : Sys2Proof.Laws.EncodesInWord.Statement (.shr a b c) := encode_lt _
theorem Sys2Proof.Laws.EncodesInWord.sar (a b c : Nat) : Sys2Proof.Laws.EncodesInWord.Statement (.sar a b c) := encode_lt _
theorem Sys2Proof.Laws.EncodesInWord.rol (a b c : Nat) : Sys2Proof.Laws.EncodesInWord.Statement (.rol a b c) := encode_lt _
theorem Sys2Proof.Laws.EncodesInWord.ror (a b c : Nat) : Sys2Proof.Laws.EncodesInWord.Statement (.ror a b c) := encode_lt _
theorem Sys2Proof.Laws.EncodesInWord.clz (a b : Nat) : Sys2Proof.Laws.EncodesInWord.Statement (.clz a b) := encode_lt _
theorem Sys2Proof.Laws.EncodesInWord.ctz (a b : Nat) : Sys2Proof.Laws.EncodesInWord.Statement (.ctz a b) := encode_lt _
theorem Sys2Proof.Laws.EncodesInWord.popc (a b : Nat) : Sys2Proof.Laws.EncodesInWord.Statement (.popc a b) := encode_lt _
theorem Sys2Proof.Laws.EncodesInWord.brev (a b : Nat) : Sys2Proof.Laws.EncodesInWord.Statement (.brev a b) := encode_lt _
theorem Sys2Proof.Laws.EncodesInWord.mul (a b c : Nat) : Sys2Proof.Laws.EncodesInWord.Statement (.mul a b c) := encode_lt _
theorem Sys2Proof.Laws.EncodesInWord.mulh (a b c : Nat) : Sys2Proof.Laws.EncodesInWord.Statement (.mulh a b c) := encode_lt _
theorem Sys2Proof.Laws.EncodesInWord.mulhn (a b c : Nat) : Sys2Proof.Laws.EncodesInWord.Statement (.mulhn a b c) := encode_lt _
theorem Sys2Proof.Laws.EncodesInWord.mad (a b c : Nat) : Sys2Proof.Laws.EncodesInWord.Statement (.mad a b c) := encode_lt _
theorem Sys2Proof.Laws.EncodesInWord.mulD (a b c : Nat) : Sys2Proof.Laws.EncodesInWord.Statement (.mulD a b c) := encode_lt _
theorem Sys2Proof.Laws.EncodesInWord.div (a b c : Nat) : Sys2Proof.Laws.EncodesInWord.Statement (.div a b c) := encode_lt _
theorem Sys2Proof.Laws.EncodesInWord.divn (a b c : Nat) : Sys2Proof.Laws.EncodesInWord.Statement (.divn a b c) := encode_lt _
theorem Sys2Proof.Laws.EncodesInWord.rem (a b c : Nat) : Sys2Proof.Laws.EncodesInWord.Statement (.rem a b c) := encode_lt _
theorem Sys2Proof.Laws.EncodesInWord.remn (a b c : Nat) : Sys2Proof.Laws.EncodesInWord.Statement (.remn a b c) := encode_lt _
theorem Sys2Proof.Laws.EncodesInWord.bfe (a b c : Nat) : Sys2Proof.Laws.EncodesInWord.Statement (.bfe a b c) := encode_lt _
theorem Sys2Proof.Laws.EncodesInWord.bfen (a b c : Nat) : Sys2Proof.Laws.EncodesInWord.Statement (.bfen a b c) := encode_lt _
theorem Sys2Proof.Laws.EncodesInWord.bfi (a b c : Nat) : Sys2Proof.Laws.EncodesInWord.Statement (.bfi a b c) := encode_lt _
theorem Sys2Proof.Laws.EncodesInWord.addD (a b c : Nat) : Sys2Proof.Laws.EncodesInWord.Statement (.addD a b c) := encode_lt _
theorem Sys2Proof.Laws.EncodesInWord.subD (a b c : Nat) : Sys2Proof.Laws.EncodesInWord.Statement (.subD a b c) := encode_lt _
theorem Sys2Proof.Laws.EncodesInWord.shlD (a b c : Nat) : Sys2Proof.Laws.EncodesInWord.Statement (.shlD a b c) := encode_lt _
theorem Sys2Proof.Laws.EncodesInWord.shrD (a b c : Nat) : Sys2Proof.Laws.EncodesInWord.Statement (.shrD a b c) := encode_lt _
theorem Sys2Proof.Laws.EncodesInWord.addi (a b c : Nat) : Sys2Proof.Laws.EncodesInWord.Statement (.addi a b c) := encode_lt _
theorem Sys2Proof.Laws.EncodesInWord.andi (a b c : Nat) : Sys2Proof.Laws.EncodesInWord.Statement (.andi a b c) := encode_lt _
theorem Sys2Proof.Laws.EncodesInWord.ori (a b c : Nat) : Sys2Proof.Laws.EncodesInWord.Statement (.ori a b c) := encode_lt _
theorem Sys2Proof.Laws.EncodesInWord.xori (a b c : Nat) : Sys2Proof.Laws.EncodesInWord.Statement (.xori a b c) := encode_lt _
theorem Sys2Proof.Laws.EncodesInWord.shli (a b c : Nat) : Sys2Proof.Laws.EncodesInWord.Statement (.shli a b c) := encode_lt _
theorem Sys2Proof.Laws.EncodesInWord.shri (a b c : Nat) : Sys2Proof.Laws.EncodesInWord.Statement (.shri a b c) := encode_lt _
theorem Sys2Proof.Laws.EncodesInWord.sari (a b c : Nat) : Sys2Proof.Laws.EncodesInWord.Statement (.sari a b c) := encode_lt _
theorem Sys2Proof.Laws.EncodesInWord.movi (a b : Nat) : Sys2Proof.Laws.EncodesInWord.Statement (.movi a b) := encode_lt _
theorem Sys2Proof.Laws.EncodesInWord.movhi (a b : Nat) : Sys2Proof.Laws.EncodesInWord.Statement (.movhi a b) := encode_lt _
theorem Sys2Proof.Laws.EncodesInWord.icmpEq (a b c : Nat) : Sys2Proof.Laws.EncodesInWord.Statement (.icmpEq a b c) := encode_lt _
theorem Sys2Proof.Laws.EncodesInWord.icmpNe (a b c : Nat) : Sys2Proof.Laws.EncodesInWord.Statement (.icmpNe a b c) := encode_lt _
theorem Sys2Proof.Laws.EncodesInWord.icmpLt (a b c : Nat) : Sys2Proof.Laws.EncodesInWord.Statement (.icmpLt a b c) := encode_lt _
theorem Sys2Proof.Laws.EncodesInWord.icmpLe (a b c : Nat) : Sys2Proof.Laws.EncodesInWord.Statement (.icmpLe a b c) := encode_lt _
theorem Sys2Proof.Laws.EncodesInWord.icmpGt (a b c : Nat) : Sys2Proof.Laws.EncodesInWord.Statement (.icmpGt a b c) := encode_lt _
theorem Sys2Proof.Laws.EncodesInWord.icmpGe (a b c : Nat) : Sys2Proof.Laws.EncodesInWord.Statement (.icmpGe a b c) := encode_lt _
theorem Sys2Proof.Laws.EncodesInWord.icmpLtn (a b c : Nat) : Sys2Proof.Laws.EncodesInWord.Statement (.icmpLtn a b c) := encode_lt _
theorem Sys2Proof.Laws.EncodesInWord.icmpLen (a b c : Nat) : Sys2Proof.Laws.EncodesInWord.Statement (.icmpLen a b c) := encode_lt _
theorem Sys2Proof.Laws.EncodesInWord.icmpGtn (a b c : Nat) : Sys2Proof.Laws.EncodesInWord.Statement (.icmpGtn a b c) := encode_lt _
theorem Sys2Proof.Laws.EncodesInWord.icmpGen (a b c : Nat) : Sys2Proof.Laws.EncodesInWord.Statement (.icmpGen a b c) := encode_lt _
theorem Sys2Proof.Laws.EncodesInWord.qand (a b c : Nat) : Sys2Proof.Laws.EncodesInWord.Statement (.qand a b c) := encode_lt _
theorem Sys2Proof.Laws.EncodesInWord.qor (a b c : Nat) : Sys2Proof.Laws.EncodesInWord.Statement (.qor a b c) := encode_lt _
theorem Sys2Proof.Laws.EncodesInWord.qxor (a b c : Nat) : Sys2Proof.Laws.EncodesInWord.Statement (.qxor a b c) := encode_lt _
theorem Sys2Proof.Laws.EncodesInWord.qandn (a b c : Nat) : Sys2Proof.Laws.EncodesInWord.Statement (.qandn a b c) := encode_lt _
theorem Sys2Proof.Laws.EncodesInWord.qnot (a b : Nat) : Sys2Proof.Laws.EncodesInWord.Statement (.qnot a b) := encode_lt _
theorem Sys2Proof.Laws.EncodesInWord.qset (a b : Nat) : Sys2Proof.Laws.EncodesInWord.Statement (.qset a b) := encode_lt _
theorem Sys2Proof.Laws.EncodesInWord.qmov (a b : Nat) : Sys2Proof.Laws.EncodesInWord.Statement (.qmov a b) := encode_lt _
theorem Sys2Proof.Laws.EncodesInWord.qpack (a b : Nat) : Sys2Proof.Laws.EncodesInWord.Statement (.qpack a b) := encode_lt _
theorem Sys2Proof.Laws.EncodesInWord.qunpack (a b : Nat) : Sys2Proof.Laws.EncodesInWord.Statement (.qunpack a b) := encode_lt _
theorem Sys2Proof.Laws.EncodesInWord.sel (a b c : Nat) : Sys2Proof.Laws.EncodesInWord.Statement (.sel a b c) := encode_lt _
theorem Sys2Proof.Laws.EncodesInWord.voteAny (a b : Nat) : Sys2Proof.Laws.EncodesInWord.Statement (.voteAny a b) := encode_lt _
theorem Sys2Proof.Laws.EncodesInWord.voteAll (a b : Nat) : Sys2Proof.Laws.EncodesInWord.Statement (.voteAll a b) := encode_lt _
theorem Sys2Proof.Laws.EncodesInWord.voteCnt (a b : Nat) : Sys2Proof.Laws.EncodesInWord.Statement (.voteCnt a b) := encode_lt _
theorem Sys2Proof.Laws.EncodesInWord.voteBallot (a b : Nat) : Sys2Proof.Laws.EncodesInWord.Statement (.voteBallot a b) := encode_lt _
theorem Sys2Proof.Laws.EncodesInWord.shflIdx (a b c : Nat) : Sys2Proof.Laws.EncodesInWord.Statement (.shflIdx a b c) := encode_lt _
theorem Sys2Proof.Laws.EncodesInWord.shflUp (a b c : Nat) : Sys2Proof.Laws.EncodesInWord.Statement (.shflUp a b c) := encode_lt _
theorem Sys2Proof.Laws.EncodesInWord.shflDn (a b c : Nat) : Sys2Proof.Laws.EncodesInWord.Statement (.shflDn a b c) := encode_lt _
theorem Sys2Proof.Laws.EncodesInWord.shflXor (a b c : Nat) : Sys2Proof.Laws.EncodesInWord.Statement (.shflXor a b c) := encode_lt _
theorem Sys2Proof.Laws.EncodesInWord.bcast (a b c : Nat) : Sys2Proof.Laws.EncodesInWord.Statement (.bcast a b c) := encode_lt _
theorem Sys2Proof.Laws.EncodesInWord.reduxAdd (a b : Nat) : Sys2Proof.Laws.EncodesInWord.Statement (.reduxAdd a b) := encode_lt _
theorem Sys2Proof.Laws.EncodesInWord.reduxMin (a b : Nat) : Sys2Proof.Laws.EncodesInWord.Statement (.reduxMin a b) := encode_lt _
theorem Sys2Proof.Laws.EncodesInWord.reduxMax (a b : Nat) : Sys2Proof.Laws.EncodesInWord.Statement (.reduxMax a b) := encode_lt _
theorem Sys2Proof.Laws.EncodesInWord.reduxMinn (a b : Nat) : Sys2Proof.Laws.EncodesInWord.Statement (.reduxMinn a b) := encode_lt _
theorem Sys2Proof.Laws.EncodesInWord.reduxMaxn (a b : Nat) : Sys2Proof.Laws.EncodesInWord.Statement (.reduxMaxn a b) := encode_lt _
theorem Sys2Proof.Laws.EncodesInWord.mrank (a : Nat) : Sys2Proof.Laws.EncodesInWord.Statement (.mrank a) := encode_lt _
theorem Sys2Proof.Laws.EncodesInWord.fadd (a b c d : Nat) : Sys2Proof.Laws.EncodesInWord.Statement (.fadd a b c d) := encode_lt _
theorem Sys2Proof.Laws.EncodesInWord.fsub (a b c d : Nat) : Sys2Proof.Laws.EncodesInWord.Statement (.fsub a b c d) := encode_lt _
theorem Sys2Proof.Laws.EncodesInWord.fmul (a b c d : Nat) : Sys2Proof.Laws.EncodesInWord.Statement (.fmul a b c d) := encode_lt _
theorem Sys2Proof.Laws.EncodesInWord.fma (a b c d : Nat) : Sys2Proof.Laws.EncodesInWord.Statement (.fma a b c d) := encode_lt _
theorem Sys2Proof.Laws.EncodesInWord.fdiv (a b c d : Nat) : Sys2Proof.Laws.EncodesInWord.Statement (.fdiv a b c d) := encode_lt _
theorem Sys2Proof.Laws.EncodesInWord.fsqrt (a b c : Nat) : Sys2Proof.Laws.EncodesInWord.Statement (.fsqrt a b c) := encode_lt _
theorem Sys2Proof.Laws.EncodesInWord.fmin (a b c : Nat) : Sys2Proof.Laws.EncodesInWord.Statement (.fmin a b c) := encode_lt _
theorem Sys2Proof.Laws.EncodesInWord.fmax (a b c : Nat) : Sys2Proof.Laws.EncodesInWord.Statement (.fmax a b c) := encode_lt _
theorem Sys2Proof.Laws.EncodesInWord.fabs (a b : Nat) : Sys2Proof.Laws.EncodesInWord.Statement (.fabs a b) := encode_lt _
theorem Sys2Proof.Laws.EncodesInWord.fneg (a b : Nat) : Sys2Proof.Laws.EncodesInWord.Statement (.fneg a b) := encode_lt _
theorem Sys2Proof.Laws.EncodesInWord.frcp (a b : Nat) : Sys2Proof.Laws.EncodesInWord.Statement (.frcp a b) := encode_lt _
theorem Sys2Proof.Laws.EncodesInWord.frsqrt (a b : Nat) : Sys2Proof.Laws.EncodesInWord.Statement (.frsqrt a b) := encode_lt _
theorem Sys2Proof.Laws.EncodesInWord.fexp2 (a b : Nat) : Sys2Proof.Laws.EncodesInWord.Statement (.fexp2 a b) := encode_lt _
theorem Sys2Proof.Laws.EncodesInWord.flog2 (a b : Nat) : Sys2Proof.Laws.EncodesInWord.Statement (.flog2 a b) := encode_lt _
theorem Sys2Proof.Laws.EncodesInWord.fsin (a b : Nat) : Sys2Proof.Laws.EncodesInWord.Statement (.fsin a b) := encode_lt _
theorem Sys2Proof.Laws.EncodesInWord.fcos (a b : Nat) : Sys2Proof.Laws.EncodesInWord.Statement (.fcos a b) := encode_lt _
theorem Sys2Proof.Laws.EncodesInWord.fclass (a b : Nat) : Sys2Proof.Laws.EncodesInWord.Statement (.fclass a b) := encode_lt _
theorem Sys2Proof.Laws.EncodesInWord.frint (a b c : Nat) : Sys2Proof.Laws.EncodesInWord.Statement (.frint a b c) := encode_lt _
theorem Sys2Proof.Laws.EncodesInWord.ffrac (a b : Nat) : Sys2Proof.Laws.EncodesInWord.Statement (.ffrac a b) := encode_lt _
theorem Sys2Proof.Laws.EncodesInWord.fcopysign (a b c : Nat) : Sys2Proof.Laws.EncodesInWord.Statement (.fcopysign a b c) := encode_lt _
theorem Sys2Proof.Laws.EncodesInWord.fscale (a b c : Nat) : Sys2Proof.Laws.EncodesInWord.Statement (.fscale a b c) := encode_lt _
theorem Sys2Proof.Laws.EncodesInWord.fsat (a b : Nat) : Sys2Proof.Laws.EncodesInWord.Statement (.fsat a b) := encode_lt _
theorem Sys2Proof.Laws.EncodesInWord.fcmpEq (a b c : Nat) : Sys2Proof.Laws.EncodesInWord.Statement (.fcmpEq a b c) := encode_lt _
theorem Sys2Proof.Laws.EncodesInWord.fcmpNe (a b c : Nat) : Sys2Proof.Laws.EncodesInWord.Statement (.fcmpNe a b c) := encode_lt _
theorem Sys2Proof.Laws.EncodesInWord.fcmpLt (a b c : Nat) : Sys2Proof.Laws.EncodesInWord.Statement (.fcmpLt a b c) := encode_lt _
theorem Sys2Proof.Laws.EncodesInWord.fcmpLe (a b c : Nat) : Sys2Proof.Laws.EncodesInWord.Statement (.fcmpLe a b c) := encode_lt _
theorem Sys2Proof.Laws.EncodesInWord.fcmpGt (a b c : Nat) : Sys2Proof.Laws.EncodesInWord.Statement (.fcmpGt a b c) := encode_lt _
theorem Sys2Proof.Laws.EncodesInWord.fcmpGe (a b c : Nat) : Sys2Proof.Laws.EncodesInWord.Statement (.fcmpGe a b c) := encode_lt _
theorem Sys2Proof.Laws.EncodesInWord.fcmpUn (a b c : Nat) : Sys2Proof.Laws.EncodesInWord.Statement (.fcmpUn a b c) := encode_lt _
theorem Sys2Proof.Laws.EncodesInWord.fcmpOrd (a b c : Nat) : Sys2Proof.Laws.EncodesInWord.Statement (.fcmpOrd a b c) := encode_lt _
theorem Sys2Proof.Laws.EncodesInWord.hadd2Bf16 (a b c d : Nat) : Sys2Proof.Laws.EncodesInWord.Statement (.hadd2Bf16 a b c d) := encode_lt _
theorem Sys2Proof.Laws.EncodesInWord.hsub2Bf16 (a b c d : Nat) : Sys2Proof.Laws.EncodesInWord.Statement (.hsub2Bf16 a b c d) := encode_lt _
theorem Sys2Proof.Laws.EncodesInWord.hmul2Bf16 (a b c d : Nat) : Sys2Proof.Laws.EncodesInWord.Statement (.hmul2Bf16 a b c d) := encode_lt _
theorem Sys2Proof.Laws.EncodesInWord.hfma2Bf16 (a b c d : Nat) : Sys2Proof.Laws.EncodesInWord.Statement (.hfma2Bf16 a b c d) := encode_lt _
theorem Sys2Proof.Laws.EncodesInWord.hmin2Bf16 (a b c : Nat) : Sys2Proof.Laws.EncodesInWord.Statement (.hmin2Bf16 a b c) := encode_lt _
theorem Sys2Proof.Laws.EncodesInWord.hmax2Bf16 (a b c : Nat) : Sys2Proof.Laws.EncodesInWord.Statement (.hmax2Bf16 a b c) := encode_lt _
theorem Sys2Proof.Laws.EncodesInWord.hadd2F16 (a b c d : Nat) : Sys2Proof.Laws.EncodesInWord.Statement (.hadd2F16 a b c d) := encode_lt _
theorem Sys2Proof.Laws.EncodesInWord.hsub2F16 (a b c d : Nat) : Sys2Proof.Laws.EncodesInWord.Statement (.hsub2F16 a b c d) := encode_lt _
theorem Sys2Proof.Laws.EncodesInWord.hmul2F16 (a b c d : Nat) : Sys2Proof.Laws.EncodesInWord.Statement (.hmul2F16 a b c d) := encode_lt _
theorem Sys2Proof.Laws.EncodesInWord.hfma2F16 (a b c d : Nat) : Sys2Proof.Laws.EncodesInWord.Statement (.hfma2F16 a b c d) := encode_lt _
theorem Sys2Proof.Laws.EncodesInWord.hmin2F16 (a b c : Nat) : Sys2Proof.Laws.EncodesInWord.Statement (.hmin2F16 a b c) := encode_lt _
theorem Sys2Proof.Laws.EncodesInWord.hmax2F16 (a b c : Nat) : Sys2Proof.Laws.EncodesInWord.Statement (.hmax2F16 a b c) := encode_lt _
theorem Sys2Proof.Laws.EncodesInWord.cvt (a b c d e : Nat) : Sys2Proof.Laws.EncodesInWord.Statement (.cvt a b c d e) := encode_lt _
theorem Sys2Proof.Laws.EncodesInWord.ldB (a b c : Nat) : Sys2Proof.Laws.EncodesInWord.Statement (.ldB a b c) := encode_lt _
theorem Sys2Proof.Laws.EncodesInWord.ldH (a b c : Nat) : Sys2Proof.Laws.EncodesInWord.Statement (.ldH a b c) := encode_lt _
theorem Sys2Proof.Laws.EncodesInWord.ldW (a b c : Nat) : Sys2Proof.Laws.EncodesInWord.Statement (.ldW a b c) := encode_lt _
theorem Sys2Proof.Laws.EncodesInWord.ldD (a b c : Nat) : Sys2Proof.Laws.EncodesInWord.Statement (.ldD a b c) := encode_lt _
theorem Sys2Proof.Laws.EncodesInWord.ldsB (a b c : Nat) : Sys2Proof.Laws.EncodesInWord.Statement (.ldsB a b c) := encode_lt _
theorem Sys2Proof.Laws.EncodesInWord.ldsH (a b c : Nat) : Sys2Proof.Laws.EncodesInWord.Statement (.ldsH a b c) := encode_lt _
theorem Sys2Proof.Laws.EncodesInWord.ldsQ (a b c : Nat) : Sys2Proof.Laws.EncodesInWord.Statement (.ldsQ a b c) := encode_lt _
theorem Sys2Proof.Laws.EncodesInWord.stB (a b c : Nat) : Sys2Proof.Laws.EncodesInWord.Statement (.stB a b c) := encode_lt _
theorem Sys2Proof.Laws.EncodesInWord.stH (a b c : Nat) : Sys2Proof.Laws.EncodesInWord.Statement (.stH a b c) := encode_lt _
theorem Sys2Proof.Laws.EncodesInWord.stW (a b c : Nat) : Sys2Proof.Laws.EncodesInWord.Statement (.stW a b c) := encode_lt _
theorem Sys2Proof.Laws.EncodesInWord.stD (a b c : Nat) : Sys2Proof.Laws.EncodesInWord.Statement (.stD a b c) := encode_lt _
theorem Sys2Proof.Laws.EncodesInWord.stQ (a b c : Nat) : Sys2Proof.Laws.EncodesInWord.Statement (.stQ a b c) := encode_lt _
theorem Sys2Proof.Laws.EncodesInWord.ldAcqW (a b c : Nat) : Sys2Proof.Laws.EncodesInWord.Statement (.ldAcqW a b c) := encode_lt _
theorem Sys2Proof.Laws.EncodesInWord.ldAcqD (a b c : Nat) : Sys2Proof.Laws.EncodesInWord.Statement (.ldAcqD a b c) := encode_lt _
theorem Sys2Proof.Laws.EncodesInWord.stRelW (a b c : Nat) : Sys2Proof.Laws.EncodesInWord.Statement (.stRelW a b c) := encode_lt _
theorem Sys2Proof.Laws.EncodesInWord.stRelD (a b c : Nat) : Sys2Proof.Laws.EncodesInWord.Statement (.stRelD a b c) := encode_lt _
theorem Sys2Proof.Laws.EncodesInWord.fenceAcq (a : Nat) : Sys2Proof.Laws.EncodesInWord.Statement (.fenceAcq a) := encode_lt _
theorem Sys2Proof.Laws.EncodesInWord.fenceRel (a : Nat) : Sys2Proof.Laws.EncodesInWord.Statement (.fenceRel a) := encode_lt _
theorem Sys2Proof.Laws.EncodesInWord.atomAdd (a b c : Nat) : Sys2Proof.Laws.EncodesInWord.Statement (.atomAdd a b c) := encode_lt _
theorem Sys2Proof.Laws.EncodesInWord.atomMin (a b c : Nat) : Sys2Proof.Laws.EncodesInWord.Statement (.atomMin a b c) := encode_lt _
theorem Sys2Proof.Laws.EncodesInWord.atomMax (a b c : Nat) : Sys2Proof.Laws.EncodesInWord.Statement (.atomMax a b c) := encode_lt _
theorem Sys2Proof.Laws.EncodesInWord.atomMinn (a b c : Nat) : Sys2Proof.Laws.EncodesInWord.Statement (.atomMinn a b c) := encode_lt _
theorem Sys2Proof.Laws.EncodesInWord.atomMaxn (a b c : Nat) : Sys2Proof.Laws.EncodesInWord.Statement (.atomMaxn a b c) := encode_lt _
theorem Sys2Proof.Laws.EncodesInWord.atomAnd (a b c : Nat) : Sys2Proof.Laws.EncodesInWord.Statement (.atomAnd a b c) := encode_lt _
theorem Sys2Proof.Laws.EncodesInWord.atomOr (a b c : Nat) : Sys2Proof.Laws.EncodesInWord.Statement (.atomOr a b c) := encode_lt _
theorem Sys2Proof.Laws.EncodesInWord.atomXor (a b c : Nat) : Sys2Proof.Laws.EncodesInWord.Statement (.atomXor a b c) := encode_lt _
theorem Sys2Proof.Laws.EncodesInWord.atomXchg (a b c : Nat) : Sys2Proof.Laws.EncodesInWord.Statement (.atomXchg a b c) := encode_lt _
theorem Sys2Proof.Laws.EncodesInWord.atomInc (a b c : Nat) : Sys2Proof.Laws.EncodesInWord.Statement (.atomInc a b c) := encode_lt _
theorem Sys2Proof.Laws.EncodesInWord.atomAddNr (a b : Nat) : Sys2Proof.Laws.EncodesInWord.Statement (.atomAddNr a b) := encode_lt _
theorem Sys2Proof.Laws.EncodesInWord.atomMinNr (a b : Nat) : Sys2Proof.Laws.EncodesInWord.Statement (.atomMinNr a b) := encode_lt _
theorem Sys2Proof.Laws.EncodesInWord.atomMaxNr (a b : Nat) : Sys2Proof.Laws.EncodesInWord.Statement (.atomMaxNr a b) := encode_lt _
theorem Sys2Proof.Laws.EncodesInWord.atomMinnNr (a b : Nat) : Sys2Proof.Laws.EncodesInWord.Statement (.atomMinnNr a b) := encode_lt _
theorem Sys2Proof.Laws.EncodesInWord.atomMaxnNr (a b : Nat) : Sys2Proof.Laws.EncodesInWord.Statement (.atomMaxnNr a b) := encode_lt _
theorem Sys2Proof.Laws.EncodesInWord.atomAndNr (a b : Nat) : Sys2Proof.Laws.EncodesInWord.Statement (.atomAndNr a b) := encode_lt _
theorem Sys2Proof.Laws.EncodesInWord.atomOrNr (a b : Nat) : Sys2Proof.Laws.EncodesInWord.Statement (.atomOrNr a b) := encode_lt _
theorem Sys2Proof.Laws.EncodesInWord.atomXorNr (a b : Nat) : Sys2Proof.Laws.EncodesInWord.Statement (.atomXorNr a b) := encode_lt _
theorem Sys2Proof.Laws.EncodesInWord.atomXchgNr (a b : Nat) : Sys2Proof.Laws.EncodesInWord.Statement (.atomXchgNr a b) := encode_lt _
theorem Sys2Proof.Laws.EncodesInWord.atomIncNr (a b : Nat) : Sys2Proof.Laws.EncodesInWord.Statement (.atomIncNr a b) := encode_lt _
theorem Sys2Proof.Laws.EncodesInWord.atomCas (a b c : Nat) : Sys2Proof.Laws.EncodesInWord.Statement (.atomCas a b c) := encode_lt _
theorem Sys2Proof.Laws.EncodesInWord.atomFx (a b c : Nat) : Sys2Proof.Laws.EncodesInWord.Statement (.atomFx a b c) := encode_lt _
theorem Sys2Proof.Laws.EncodesInWord.atomAddD (a b c : Nat) : Sys2Proof.Laws.EncodesInWord.Statement (.atomAddD a b c) := encode_lt _
theorem Sys2Proof.Laws.EncodesInWord.atomFxNr (a b : Nat) : Sys2Proof.Laws.EncodesInWord.Statement (.atomFxNr a b) := encode_lt _
theorem Sys2Proof.Laws.EncodesInWord.atomAddDNr (a b : Nat) : Sys2Proof.Laws.EncodesInWord.Statement (.atomAddDNr a b) := encode_lt _
theorem Sys2Proof.Laws.EncodesInWord.cpyIn (a b c : Nat) : Sys2Proof.Laws.EncodesInWord.Statement (.cpyIn a b c) := encode_lt _
theorem Sys2Proof.Laws.EncodesInWord.cpyOut (a b c : Nat) : Sys2Proof.Laws.EncodesInWord.Statement (.cpyOut a b c) := encode_lt _
theorem Sys2Proof.Laws.EncodesInWord.cpyMc (a b c : Nat) : Sys2Proof.Laws.EncodesInWord.Statement (.cpyMc a b c) := encode_lt _
theorem Sys2Proof.Laws.EncodesInWord.cpyGen (a b c : Nat) : Sys2Proof.Laws.EncodesInWord.Statement (.cpyGen a b c) := encode_lt _
theorem Sys2Proof.Laws.EncodesInWord.cpyPf (a b c : Nat) : Sys2Proof.Laws.EncodesInWord.Statement (.cpyPf a b c) := encode_lt _
theorem Sys2Proof.Laws.EncodesInWord.cpySeal (a : Nat) : Sys2Proof.Laws.EncodesInWord.Statement (.cpySeal a) := encode_lt _
theorem Sys2Proof.Laws.EncodesInWord.cpyWait (a : Nat) : Sys2Proof.Laws.EncodesInWord.Statement (.cpyWait a) := encode_lt _
theorem Sys2Proof.Laws.EncodesInWord.cpyVis (a b : Nat) : Sys2Proof.Laws.EncodesInWord.Statement (.cpyVis a b) := encode_lt _
theorem Sys2Proof.Laws.EncodesInWord.cpyStat (a b : Nat) : Sys2Proof.Laws.EncodesInWord.Statement (.cpyStat a b) := encode_lt _
theorem Sys2Proof.Laws.EncodesInWord.barInit (a b : Nat) : Sys2Proof.Laws.EncodesInWord.Statement (.barInit a b) := encode_lt _
theorem Sys2Proof.Laws.EncodesInWord.barArr (a b : Nat) : Sys2Proof.Laws.EncodesInWord.Statement (.barArr a b) := encode_lt _
theorem Sys2Proof.Laws.EncodesInWord.barArrb (a b : Nat) : Sys2Proof.Laws.EncodesInWord.Statement (.barArrb a b) := encode_lt _
theorem Sys2Proof.Laws.EncodesInWord.barExp (a b : Nat) : Sys2Proof.Laws.EncodesInWord.Statement (.barExp a b) := encode_lt _
theorem Sys2Proof.Laws.EncodesInWord.barWait (a b : Nat) : Sys2Proof.Laws.EncodesInWord.Statement (.barWait a b) := encode_lt _
theorem Sys2Proof.Laws.EncodesInWord.barTry (a b c : Nat) : Sys2Proof.Laws.EncodesInWord.Statement (.barTry a b c) := encode_lt _
theorem Sys2Proof.Laws.EncodesInWord.carve (a b c : Nat) : Sys2Proof.Laws.EncodesInWord.Statement (.carve a b c) := encode_lt _
theorem Sys2Proof.Laws.EncodesInWord.mwait (a b c : Nat) : Sys2Proof.Laws.EncodesInWord.Statement (.mwait a b c) := encode_lt _
theorem Sys2Proof.Laws.EncodesInWord.mma (a b c d : Nat) : Sys2Proof.Laws.EncodesInWord.Statement (.mma a b c d) := encode_lt _
theorem Sys2Proof.Laws.EncodesInWord.mdrain (a : Nat) : Sys2Proof.Laws.EncodesInWord.Statement (.mdrain a) := encode_lt _
theorem Sys2Proof.Laws.EncodesInWord.mzero (a : Nat) : Sys2Proof.Laws.EncodesInWord.Statement (.mzero a) := encode_lt _
theorem Sys2Proof.Laws.EncodesInWord.ringDef (a b c : Nat) : Sys2Proof.Laws.EncodesInWord.Statement (.ringDef a b c) := encode_lt _
theorem Sys2Proof.Laws.EncodesInWord.ringAdv (a b c : Nat) : Sys2Proof.Laws.EncodesInWord.Statement (.ringAdv a b c) := encode_lt _
theorem Sys2Proof.Laws.EncodesInWord.ringRel (a b : Nat) : Sys2Proof.Laws.EncodesInWord.Statement (.ringRel a b) := encode_lt _
theorem Sys2Proof.Laws.EncodesInWord.ringRelRst (a : Nat) : Sys2Proof.Laws.EncodesInWord.Statement (.ringRelRst a) := encode_lt _
theorem Sys2Proof.Laws.EncodesInWord.ringStat (a b : Nat) : Sys2Proof.Laws.EncodesInWord.Statement (.ringStat a b) := encode_lt _
theorem Sys2Proof.Laws.EncodesInWord.cbld (a b : Nat) : Sys2Proof.Laws.EncodesInWord.Statement (.cbld a b) := encode_lt _
theorem Sys2Proof.Laws.EncodesInWord.wmul (a b c : Nat) : Sys2Proof.Laws.EncodesInWord.Statement (.wmul a b c) := encode_lt _
theorem Sys2Proof.Laws.EncodesInWord.wmuln (a b c : Nat) : Sys2Proof.Laws.EncodesInWord.Statement (.wmuln a b c) := encode_lt _
theorem Sys2Proof.Laws.EncodesInWord.wmac (a b c : Nat) : Sys2Proof.Laws.EncodesInWord.Statement (.wmac a b c) := encode_lt _
theorem Sys2Proof.Laws.EncodesInWord.wadd (a b c : Nat) : Sys2Proof.Laws.EncodesInWord.Statement (.wadd a b c) := encode_lt _
theorem Sys2Proof.Laws.EncodesInWord.wsub (a b c : Nat) : Sys2Proof.Laws.EncodesInWord.Statement (.wsub a b c) := encode_lt _
theorem Sys2Proof.Laws.EncodesInWord.wneg (a b : Nat) : Sys2Proof.Laws.EncodesInWord.Statement (.wneg a b) := encode_lt _
theorem Sys2Proof.Laws.EncodesInWord.wshs (a b c : Nat) : Sys2Proof.Laws.EncodesInWord.Statement (.wshs a b c) := encode_lt _
theorem Sys2Proof.Laws.EncodesInWord.wshb (a b c : Nat) : Sys2Proof.Laws.EncodesInWord.Statement (.wshb a b c) := encode_lt _
theorem Sys2Proof.Laws.EncodesInWord.pack (a b c : Nat) : Sys2Proof.Laws.EncodesInWord.Statement (.pack a b c) := encode_lt _
theorem Sys2Proof.Laws.EncodesInWord.extr (a b c : Nat) : Sys2Proof.Laws.EncodesInWord.Statement (.extr a b c) := encode_lt _
theorem Sys2Proof.Laws.EncodesInWord.gchk (a b : Nat) : Sys2Proof.Laws.EncodesInWord.Statement (.gchk a b) := encode_lt _
theorem Sys2Proof.Laws.EncodesInWord.gwid (a b c : Nat) : Sys2Proof.Laws.EncodesInWord.Statement (.gwid a b c) := encode_lt _
theorem Sys2Proof.Laws.EncodesInWord.cbdec (a b : Nat) : Sys2Proof.Laws.EncodesInWord.Statement (.cbdec a b) := encode_lt _
theorem Sys2Proof.Laws.EncodesInWord.wcmp (a b c : Nat) : Sys2Proof.Laws.EncodesInWord.Statement (.wcmp a b c) := encode_lt _
theorem Sys2Proof.Laws.EncodesInWord.spawn (a : Nat) : Sys2Proof.Laws.EncodesInWord.Statement (.spawn a) := encode_lt _
theorem Sys2Proof.Laws.EncodesInWord.spawnl (a : Nat) : Sys2Proof.Laws.EncodesInWord.Statement (.spawnl a) := encode_lt _
theorem Sys2Proof.Laws.EncodesInWord.take (a b : Nat) : Sys2Proof.Laws.EncodesInWord.Statement (.take a b) := encode_lt _
theorem Sys2Proof.Laws.EncodesInWord.resolve (a b : Nat) : Sys2Proof.Laws.EncodesInWord.Statement (.resolve a b) := encode_lt _
theorem Sys2Proof.Laws.EncodesInWord.refAdd (a b : Nat) : Sys2Proof.Laws.EncodesInWord.Statement (.refAdd a b) := encode_lt _
theorem Sys2Proof.Laws.EncodesInWord.refDrop (a b : Nat) : Sys2Proof.Laws.EncodesInWord.Statement (.refDrop a b) := encode_lt _
theorem Sys2Proof.Laws.EncodesInWord.probe (a b : Nat) : Sys2Proof.Laws.EncodesInWord.Statement (.probe a b) := encode_lt _
theorem Sys2Proof.Laws.EncodesInWord.join (a : Nat) : Sys2Proof.Laws.EncodesInWord.Statement (.join a) := encode_lt _
theorem Sys2Proof.Laws.EncodesInWord.migrate (a b : Nat) : Sys2Proof.Laws.EncodesInWord.Statement (.migrate a b) := encode_lt _
theorem Sys2Proof.Laws.EncodesInWord.launch (a b : Nat) : Sys2Proof.Laws.EncodesInWord.Statement (.launch a b) := encode_lt _
theorem Sys2Proof.Laws.EncodesInWord.cancelL (a b : Nat) : Sys2Proof.Laws.EncodesInWord.Statement (.cancelL a b) := encode_lt _
theorem Sys2Proof.Laws.EncodesInWord.cancelG (a b : Nat) : Sys2Proof.Laws.EncodesInWord.Statement (.cancelG a b) := encode_lt _
theorem Sys2Proof.Laws.EncodesInWord.cancelJ (a : Nat) : Sys2Proof.Laws.EncodesInWord.Statement (.cancelJ a) := encode_lt _
theorem Sys2Proof.Laws.EncodesInWord.regEnter (a : Nat) : Sys2Proof.Laws.EncodesInWord.Statement (.regEnter a) := encode_lt _
theorem Sys2Proof.Laws.EncodesInWord.regLeave (a : Nat) : Sys2Proof.Laws.EncodesInWord.Statement (.regLeave a) := encode_lt _
theorem Sys2Proof.Laws.EncodesInWord.tmark (a b : Nat) : Sys2Proof.Laws.EncodesInWord.Statement (.tmark a b) := encode_lt _
theorem Sys2Proof.Laws.EncodesInWord.wptSet (a b c : Nat) : Sys2Proof.Laws.EncodesInWord.Statement (.wptSet a b c) := encode_lt _
theorem Sys2Proof.Laws.EncodesInWord.wptClr (a b : Nat) : Sys2Proof.Laws.EncodesInWord.Statement (.wptClr a b) := encode_lt _
theorem Sys2Proof.Laws.EncodesInWord.tagSet (a : Nat) : Sys2Proof.Laws.EncodesInWord.Statement (.tagSet a) := encode_lt _
theorem Sys2Proof.Laws.EncodesInWord.tagGet (a b : Nat) : Sys2Proof.Laws.EncodesInWord.Statement (.tagGet a b) := encode_lt _
theorem Sys2Proof.Laws.EncodesInWord.tagSetr (a b : Nat) : Sys2Proof.Laws.EncodesInWord.Statement (.tagSetr a b) := encode_lt _
theorem Sys2Proof.Laws.EncodesInWord.sread (a b : Nat) : Sys2Proof.Laws.EncodesInWord.Statement (.sread a b) := encode_lt _
theorem Sys2Proof.Laws.EncodesInWord.swrite (a b : Nat) : Sys2Proof.Laws.EncodesInWord.Statement (.swrite a b) := encode_lt _
theorem Sys2Proof.Laws.EncodesInWord.tlbInvPg (a : Nat) : Sys2Proof.Laws.EncodesInWord.Statement (.tlbInvPg a) := encode_lt _
theorem Sys2Proof.Laws.EncodesInWord.tlbInvRng (a b : Nat) : Sys2Proof.Laws.EncodesInWord.Statement (.tlbInvRng a b) := encode_lt _
theorem Sys2Proof.Laws.EncodesInWord.dirtyHarvPg (a : Nat) : Sys2Proof.Laws.EncodesInWord.Statement (.dirtyHarvPg a) := encode_lt _
theorem Sys2Proof.Laws.EncodesInWord.dirtyHarvRng (a b : Nat) : Sys2Proof.Laws.EncodesInWord.Statement (.dirtyHarvRng a b) := encode_lt _
theorem Sys2Proof.Laws.EncodesInWord.nop : Sys2Proof.Laws.EncodesInWord.Statement .nop := encode_lt _
theorem Sys2Proof.Laws.EncodesInWord.ret : Sys2Proof.Laws.EncodesInWord.Statement .ret := encode_lt _
theorem Sys2Proof.Laws.EncodesInWord.exit : Sys2Proof.Laws.EncodesInWord.Statement .exit := encode_lt _
theorem Sys2Proof.Laws.EncodesInWord.yield : Sys2Proof.Laws.EncodesInWord.Statement .yield := encode_lt _
theorem Sys2Proof.Laws.EncodesInWord.tfence : Sys2Proof.Laws.EncodesInWord.Statement .tfence := encode_lt _
theorem Sys2Proof.Laws.EncodesInWord.tret : Sys2Proof.Laws.EncodesInWord.Statement .tret := encode_lt _
theorem Sys2Proof.Laws.EncodesInWord.halt : Sys2Proof.Laws.EncodesInWord.Statement .halt := encode_lt _
theorem Sys2Proof.Laws.EncodesInWord.barBlk : Sys2Proof.Laws.EncodesInWord.Statement .barBlk := encode_lt _
theorem Sys2Proof.Laws.EncodesInWord.barClu : Sys2Proof.Laws.EncodesInWord.Statement .barClu := encode_lt _
theorem Sys2Proof.Laws.EncodesInWord.mfence : Sys2Proof.Laws.EncodesInWord.Statement .mfence := encode_lt _
theorem Sys2Proof.Laws.EncodesInWord.reclaim : Sys2Proof.Laws.EncodesInWord.Statement .reclaim := encode_lt _
theorem Sys2Proof.Laws.EncodesInWord.tlbInvCtx : Sys2Proof.Laws.EncodesInWord.Statement .tlbInvCtx := encode_lt _
theorem Sys2Proof.Laws.EncodesInWord.dirtyHarvCtx : Sys2Proof.Laws.EncodesInWord.Statement .dirtyHarvCtx := encode_lt _
theorem Sys2Proof.Laws.EncodesInWord.fenceGng : Sys2Proof.Laws.EncodesInWord.Statement .fenceGng := encode_lt _
theorem Sys2Proof.Laws.EncodesInWord.fenceBlk : Sys2Proof.Laws.EncodesInWord.Statement .fenceBlk := encode_lt _
theorem Sys2Proof.Laws.EncodesInWord.fenceClu : Sys2Proof.Laws.EncodesInWord.Statement .fenceClu := encode_lt _
theorem Sys2Proof.Laws.EncodesInWord.fenceDie : Sys2Proof.Laws.EncodesInWord.Statement .fenceDie := encode_lt _
theorem Sys2Proof.Laws.EncodesInWord.fenceDev : Sys2Proof.Laws.EncodesInWord.Statement .fenceDev := encode_lt _
theorem Sys2Proof.Laws.EncodesInWord.fenceDom : Sys2Proof.Laws.EncodesInWord.Statement .fenceDom := encode_lt _
theorem Sys2Proof.Laws.EncodesInWord.submitTail : Sys2Proof.Laws.EncodesInWord.Statement .submitTail := encode_lt _
theorem Sys2Proof.Laws.EncodesInWord.takeEntry : Sys2Proof.Laws.EncodesInWord.Statement .takeEntry := encode_lt _
theorem Sys2Proof.Laws.EncodesInWord.leaseAck : Sys2Proof.Laws.EncodesInWord.Statement .leaseAck := encode_lt _
theorem Sys2Proof.Laws.EncodesInWord.preemptMark : Sys2Proof.Laws.EncodesInWord.Statement .preemptMark := encode_lt _
theorem Sys2Proof.Laws.EncodesInWord.preemptClear : Sys2Proof.Laws.EncodesInWord.Statement .preemptClear := encode_lt _
theorem Sys2Proof.Laws.EncodesInWord.cmdCancelL : Sys2Proof.Laws.EncodesInWord.Statement .cmdCancelL := encode_lt _
theorem Sys2Proof.Laws.EncodesInWord.cmdCancelG : Sys2Proof.Laws.EncodesInWord.Statement .cmdCancelG := encode_lt _
theorem Sys2Proof.Laws.EncodesInWord.cmdCancelJ : Sys2Proof.Laws.EncodesInWord.Statement .cmdCancelJ := encode_lt _
theorem Sys2Proof.Laws.EncodesInWord.shootdown : Sys2Proof.Laws.EncodesInWord.Statement .shootdown := encode_lt _
theorem Sys2Proof.Laws.EncodesInWord.harvest : Sys2Proof.Laws.EncodesInWord.Statement .harvest := encode_lt _
theorem Sys2Proof.Laws.EncodesInWord.shadowRetire : Sys2Proof.Laws.EncodesInWord.Statement .shadowRetire := encode_lt _
theorem Sys2Proof.Laws.EncodesInWord.haltReq : Sys2Proof.Laws.EncodesInWord.Statement .haltReq := encode_lt _
theorem Sys2Proof.Laws.EncodesInWord.regionBp : Sys2Proof.Laws.EncodesInWord.Statement .regionBp := encode_lt _
theorem Sys2Proof.Laws.EncodesInWord.stopMode : Sys2Proof.Laws.EncodesInWord.Statement .stopMode := encode_lt _
theorem Sys2Proof.Laws.EncodesInWord.resume : Sys2Proof.Laws.EncodesInWord.Statement .resume := encode_lt _
theorem Sys2Proof.Laws.EncodesInWord.breakEn : Sys2Proof.Laws.EncodesInWord.Statement .breakEn := encode_lt _
theorem Sys2Proof.Laws.EncodesInWord.sample : Sys2Proof.Laws.EncodesInWord.Statement .sample := encode_lt _
theorem Sys2Proof.Laws.EncodesInWord.zeroHist : Sys2Proof.Laws.EncodesInWord.Statement .zeroHist := encode_lt _
theorem Sys2Proof.Laws.EncodesInWord.readState : Sys2Proof.Laws.EncodesInWord.Statement .readState := encode_lt _
theorem Sys2Proof.Laws.EncodesInWord.evict : Sys2Proof.Laws.EncodesInWord.Statement .evict := encode_lt _
theorem Sys2Proof.Laws.EncodesInWord.moduleNumberWrite : Sys2Proof.Laws.EncodesInWord.Statement .moduleNumberWrite := encode_lt _
theorem Sys2Proof.Laws.EncodesInWord.eventHeadWrite : Sys2Proof.Laws.EncodesInWord.Statement .eventHeadWrite := encode_lt _
theorem Sys2Proof.Laws.EncodesInWord.mgmtRegisterWrite : Sys2Proof.Laws.EncodesInWord.Statement .mgmtRegisterWrite := encode_lt _
theorem Sys2Proof.Laws.EncodesInWord.placementOpportunity : Sys2Proof.Laws.EncodesInWord.Statement .placementOpportunity := encode_lt _
theorem Sys2Proof.Laws.EncodesInWord.parameterCopy : Sys2Proof.Laws.EncodesInWord.Statement .parameterCopy := encode_lt _
theorem Sys2Proof.Laws.EncodesInWord.launchEnd : Sys2Proof.Laws.EncodesInWord.Statement .launchEnd := encode_lt _
theorem Sys2Proof.Laws.EncodesInWord.clauseFetch : Sys2Proof.Laws.EncodesInWord.Statement .clauseFetch := encode_lt _
theorem Sys2Proof.Laws.EncodesInWord.clauseStart : Sys2Proof.Laws.EncodesInWord.Statement .clauseStart := encode_lt _
theorem Sys2Proof.Laws.EncodesInWord.issueSelect : Sys2Proof.Laws.EncodesInWord.Statement .issueSelect := encode_lt _
theorem Sys2Proof.Laws.EncodesInWord.agingClassRise : Sys2Proof.Laws.EncodesInWord.Statement .agingClassRise := encode_lt _
theorem Sys2Proof.Laws.EncodesInWord.instructionComplete : Sys2Proof.Laws.EncodesInWord.Statement .instructionComplete := encode_lt _
theorem Sys2Proof.Laws.EncodesInWord.flagWaitResume : Sys2Proof.Laws.EncodesInWord.Statement .flagWaitResume := encode_lt _
theorem Sys2Proof.Laws.EncodesInWord.accessAtTarget : Sys2Proof.Laws.EncodesInWord.Statement .accessAtTarget := encode_lt _
theorem Sys2Proof.Laws.EncodesInWord.gangWake : Sys2Proof.Laws.EncodesInWord.Statement .gangWake := encode_lt _
theorem Sys2Proof.Laws.EncodesInWord.gangEviction : Sys2Proof.Laws.EncodesInWord.Statement .gangEviction := encode_lt _
theorem Sys2Proof.Laws.EncodesInWord.deferredFaultDelivery : Sys2Proof.Laws.EncodesInWord.Statement .deferredFaultDelivery := encode_lt _
theorem Sys2Proof.Laws.EncodesInWord.copyChannelStart : Sys2Proof.Laws.EncodesInWord.Statement .copyChannelStart := encode_lt _
theorem Sys2Proof.Laws.EncodesInWord.ringClaim : Sys2Proof.Laws.EncodesInWord.Statement .ringClaim := encode_lt _
theorem Sys2Proof.Laws.EncodesInWord.l2Fill : Sys2Proof.Laws.EncodesInWord.Statement .l2Fill := encode_lt _
theorem Sys2Proof.Laws.EncodesInWord.copyDelivery : Sys2Proof.Laws.EncodesInWord.Statement .copyDelivery := encode_lt _
theorem Sys2Proof.Laws.EncodesInWord.prefetchLinePresent : Sys2Proof.Laws.EncodesInWord.Statement .prefetchLinePresent := encode_lt _
theorem Sys2Proof.Laws.EncodesInWord.mwaitTimeout : Sys2Proof.Laws.EncodesInWord.Statement .mwaitTimeout := encode_lt _
theorem Sys2Proof.Laws.EncodesInWord.denseProductAdmit : Sys2Proof.Laws.EncodesInWord.Statement .denseProductAdmit := encode_lt _
theorem Sys2Proof.Laws.EncodesInWord.engineCommandStart : Sys2Proof.Laws.EncodesInWord.Statement .engineCommandStart := encode_lt _
theorem Sys2Proof.Laws.EncodesInWord.chunkFire : Sys2Proof.Laws.EncodesInWord.Statement .chunkFire := encode_lt _
theorem Sys2Proof.Laws.EncodesInWord.mmaComplete : Sys2Proof.Laws.EncodesInWord.Statement .mmaComplete := encode_lt _
theorem Sys2Proof.Laws.EncodesInWord.drainComplete : Sys2Proof.Laws.EncodesInWord.Statement .drainComplete := encode_lt _
theorem Sys2Proof.Laws.EncodesInWord.mzeroComplete : Sys2Proof.Laws.EncodesInWord.Statement .mzeroComplete := encode_lt _
theorem Sys2Proof.Laws.EncodesInWord.cbldComplete : Sys2Proof.Laws.EncodesInWord.Statement .cbldComplete := encode_lt _
theorem Sys2Proof.Laws.EncodesInWord.migrateMove : Sys2Proof.Laws.EncodesInWord.Statement .migrateMove := encode_lt _
theorem Sys2Proof.Laws.EncodesInWord.tlbWalk : Sys2Proof.Laws.EncodesInWord.Statement .tlbWalk := encode_lt _
theorem Sys2Proof.Laws.EncodesInWord.dirtySweep : Sys2Proof.Laws.EncodesInWord.Statement .dirtySweep := encode_lt _
theorem Sys2Proof.Laws.EncodesInWord.traceSample : Sys2Proof.Laws.EncodesInWord.Statement .traceSample := encode_lt _
theorem Sys2Proof.Laws.EncodesInWord.gateStallDivergence : Sys2Proof.Laws.EncodesInWord.Statement .gateStallDivergence := encode_lt _
theorem Sys2Proof.Laws.EncodesInWord.parityReplay : Sys2Proof.Laws.EncodesInWord.Statement .parityReplay := encode_lt _
theorem Sys2Proof.Laws.EncodesInWord.eccError : Sys2Proof.Laws.EncodesInWord.Statement .eccError := encode_lt _
theorem Sys2Proof.Laws.EncodesInWord.linkFlit : Sys2Proof.Laws.EncodesInWord.Statement .linkFlit := encode_lt _
theorem Sys2Proof.Laws.EncodesInWord.linkFailure : Sys2Proof.Laws.EncodesInWord.Statement .linkFailure := encode_lt _
theorem Sys2Proof.Laws.EncodesInWord.timeSync : Sys2Proof.Laws.EncodesInWord.Statement .timeSync := encode_lt _
theorem Sys2Proof.Laws.EncodesInWord.powerCap : Sys2Proof.Laws.EncodesInWord.Statement .powerCap := encode_lt _
theorem Sys2Proof.Laws.EncodesInWord.powerGood : Sys2Proof.Laws.EncodesInWord.Statement .powerGood := encode_lt _
theorem Sys2Proof.Laws.EncodesInWord.startTimeout : Sys2Proof.Laws.EncodesInWord.Statement .startTimeout := encode_lt _
theorem Sys2Proof.Laws.EncodesInWord.imageReceive : Sys2Proof.Laws.EncodesInWord.Statement .imageReceive := encode_lt _
theorem Sys2Proof.Laws.EncodesInWord.kChunkComplete : Sys2Proof.Laws.EncodesInWord.Statement .kChunkComplete := encode_lt _
theorem Sys2Proof.Laws.EncodesInWord.unknownCommand : Sys2Proof.Laws.EncodesInWord.Statement .unknownCommand := encode_lt _
end

