-- ==== Sys2Proof/Tests/Slice0.lean ====
section
/-! SUPPORT. Tests: words written out from the encoding tables, terms that are not well formed, for each statement with
hypotheses states that meet them, and single steps with results worked out by hand from the rules. -/

namespace Sys2Proof.Tests

-- One proof at a time: each waiting thread would reserve a stack of its own.
set_option Elab.async false

open Sys2Proof Sys2Proof.Machine

/-! ### Decoding: words that the rules write out, and words put together by hand from a format (R56) and a family's table. -/

/-- R126 to R135, R207, R208: control and system words. -/
theorem test_words_control :
    decodeWord 0x0C000000 = .ok .nop ∧ decodeWord 0x0C200000 = .ok .ret ∧ decodeWord 0x0C60_0000 = .ok .exit ∧
    decodeWord 0x0D600000 = .ok .halt ∧ decodeWord 0x0C800000 = .ok .yield ∧ decodeWord 0x0CA00009 = .ok (.wait 9) ∧
    decodeWord 0x0CC00002 = .ok (.wbaseRel 2) ∧ decodeWord 0x0CC00045 = .ok (.wbaseAbs 5) ∧
    decodeWord 0x0C40C400 = .ok (.jmpi 3 8) ∧ decodeWord 0x04A00002 = .ok (.bra 10 2) ∧
    decodeWord 0x94000004 = .ok (.sread 0 4) ∧ decodeWord 0x95201009 = .ok (.swrite 0x201 9) ∧
    decodeWord 0x96424300 = .ok (.tlbInvRng 9 6) ∧ decodeWord 0x97800000 = .ok .dirtyHarvCtx := by decide

/-- R140 to R151: integer and predicate words. -/
theorem test_words_integer :
    decodeWord 0x1003050B = .ok (.add 12 10 11) ∧ decodeWord 0x11C14206 = .ok (.shl 5 4 6) ∧
    decodeWord 0x14A18287 = .ok (.div 6 5 7) ∧ decodeWord 0x14E18288 = .ok (.rem 6 5 8) ∧
    decodeWord 0x15614386 = .ok (.bfi 5 7 6) ∧ decodeWord 0x1BFFC183 = .ok (.addi 4095 3 3) ∧
    decodeWord 0x2A07C204 = .ok (.sari 31 4 4) ∧ decodeWord 0x2C0B3C05 = .ok (.movi 0x1678 5) ∧
    decodeWord 0x3048D105 = .ok (.movhi 0x91A2 5) ∧ decodeWord 0x34414201 = .ok (.icmpLt 5 4 1) ∧
    decodeWord 0x38A00085 = .ok (.qset 1 5) ∧ decodeWord 0x38E01003 = .ok (.qpack 32 3) ∧
    decodeWord 0x3C814203 = .ok (.bcast 5 4 3) := by decide

/-- R172 to R184: floating-point words; `cvt` in the RRR format with form, rounding and saturation in b. -/
theorem test_words_float :
    decodeWord 0x40618287 = .ok (.fma 0 6 5 7) ∧ decodeWord 0x4520C203 = .ok (.frint 3 4 3) ∧
    decodeWord 0x48414202 = .ok (.fcmpLt 5 4 2) ∧ decodeWord 0x4C614206 = .ok (.hfma2Bf16 0 5 4 6) ∧
    decodeWord 0x51014206 = .ok (.hadd2F16 1 5 4 6) := by decide

/-- R74, R204, R222, R229, R245: accesses, atomics, copies and barriers. -/
theorem test_words_memory :
    decodeWord 0x5A00820A = .ok (.ldW 2 4 10) ∧ decodeWord 0x70214207 = .ok (.atomFx 5 4 7) ∧
    decodeWord 0x72214200 = .ok (.atomFxNr 5 4) ∧ decodeWord 0x74024303 = .ok (.cpyIn 9 6 3) ∧
    decodeWord 0x74828309 = .ok (.cpyPf 10 6 9) ∧ decodeWord 0x74F00000 = .ok (.cpyVis 4 0) ∧
    decodeWord 0x7502C008 = .ok (.cpyStat 11 8) ∧ decodeWord 0x7902C509 = .ok (.carve 11 10 9) ∧
    decodeWord 0x7922C30A = .ok (.mwait 11 6 10) ∧ decodeWord 0x78400303 = .ok (.barArrb 6 3) ∧
    decodeWord 0x78020300 = .ok (.barInit 8 6) := by decide

/-- R281 to R300, R259 to R272, R329 to R345: engine, WIDE and task words. -/
theorem test_words_units :
    decodeWord 0x7D400304 = .ok (.mma 10 0 6 4) ∧ decodeWord 0x80400000 = .ok .mfence ∧
    decodeWord 0x80624400 = .ok (.ringDef 9 8 0) ∧ decodeWord 0x80A00080 = .ok (.ringRelRst 0) ∧
    decodeWord 0x8561C303 = .ok (.gwid 7 6 3) ∧ decodeWord 0x85800286 = .ok (.cbdec 5 6) ∧
    decodeWord 0x88200200 = .ok (.spawnl 4) ∧ decodeWord 0x88400308 = .ok (.take 6 8) ∧
    decodeWord 0x88628300 = .ok (.resolve 10 6) ∧ decodeWord 0x88A00303 = .ok (.refDrop 6 3) ∧
    decodeWord 0x88C00309 = .ok (.probe 6 9) ∧ decodeWord 0x88E00300 = .ok (.join 6) ∧
    decodeWord 0x89200303 = .ok (.migrate 6 3) := by decide

/-- R47, R60, R67, R69, R70: reserved bits, odd pairs, unassigned codes and majors are no instruction. -/
theorem test_words_illegal :
    decodeWord 0 ≠ .ok .nop ∧ (decodeWord 0).isOk = false ∧ (decodeWord 0x03FFFFFF).isOk = false ∧
    (decodeWord 0x98000000).isOk = false ∧ (decodeWord 0xFFFFFFFF).isOk = false ∧ (decodeWord 0x0C000001).isOk = false ∧
    (decodeWord 0x2B000000).isOk = false ∧ (decodeWord 0x38E01083).isOk = false ∧ (decodeWord 0x88400309).isOk = false ∧
    (decodeWord 0x94009004).isOk = false := by decide

/-! ### Terms that are not well formed: each check of `Instr.wf` refuses one (R47). -/

theorem test_wf_field_widths :
    (Instr.add 128 0 0).wf = false ∧ (Instr.add 0 128 0).wf = false ∧ (Instr.add 0 0 128).wf = false ∧
    (Instr.add 127 127 127).wf = true ∧ (Instr.bra 64 0).wf = false ∧ (Instr.bra 63 0x100000).wf = false ∧
    (Instr.wait 4096).wf = false ∧ (Instr.wbaseRel 64).wf = false ∧ (Instr.wbaseAbs 32).wf = false ∧
    (Instr.addi 4096 0 0).wf = false ∧ (Instr.shli 32 0 0).wf = false ∧ (Instr.movi 0x80000 0).wf = false ∧
    (Instr.qset 2 0).wf = false ∧ (Instr.fadd 4 0 0 0).wf = false ∧ (Instr.ldB 1024 0 0).wf = false ∧
    (Instr.cpyIn 0 0 8).wf = false ∧ (Instr.cpyWait 16).wf = false ∧ (Instr.mma 32 0 0 0).wf = false ∧
    (Instr.ringRel 0 16).wf = false ∧ (Instr.launch 64 0).wf = false ∧ (Instr.regEnter 0x10000).wf = false ∧
    (Instr.cvt 32 0 0 0 0).wf = false ∧ (Instr.trap 4096).wf = false := by decide

theorem test_wf_pairs_and_quads :
    (Instr.addD 5 4 4).wf = false ∧ (Instr.addD 4 5 4).wf = false ∧ (Instr.addD 4 4 5).wf = false ∧
    (Instr.ldW 0 5 0).wf = false ∧ (Instr.ldsQ 0 4 6).wf = false ∧ (Instr.ldsQ 0 4 8).wf = true ∧
    (Instr.cvt 0x18 0 0 5 4).wf = false ∧ (Instr.cvt 0x1A 0 0 6 4).wf = false ∧ (Instr.cvt 0x1C 0 0 4 5).wf = false ∧
    (Instr.cvt 0x1E 0 0 4 6).wf = false := by decide

theorem test_wf_bases_scopes_registers :
    (Instr.qpack 33 1).wf = false ∧ (Instr.qunpack 1 16).wf = false ∧ (Instr.fenceAcq 6).wf = false ∧
    (Instr.cpyVis 7 0).wf = false ∧ (Instr.sread 0x009 1).wf = false ∧ (Instr.swrite 0x700 1).wf = false ∧
    (Instr.sread 0x600 1).wf = true ∧ Instr.powerGood.wf = true := by decide

/-! ### States for the witnesses -/

/-- A clause of one instruction, not counted, with every lane active; `oneLane` has lane 0 alone, `fc` counts in flag 0. -/
def tc : ClauseRun := { h := 0x1000, hdr := 0xFF000, words := [0], act := allLanes }
def oneLane : ClauseRun := { tc with act := 1 }
def fc : ClauseRun := { tc with hdr := 0 }

/-- A gang that issues from a clause, and the module with that gang alone. -/
def tg (c : ClauseRun) : Gang := { loneGang 0 with clause := some c }
def ts (g : Gang) : State := { loadWord State.reset 0 with gangs := [g] }

/-- The same gang with the given registers in every lane; with p registers; with 63 instructions in flag 0. -/
def withRegs (g : Gang) (l : FMap Word) : Gang := { g with threads := List.replicate 32 { regs := l } }
def withP (p : Nat) (g : Gang) : Gang := { g with nregs := p }
def fullFlag (g : Gang) : Gang := { g with flags := 63 :: List.replicate 11 0 }

/-- The launch changed; the module with an agenda's focus. -/
def onLaunch (s : State) (f : Launch → Launch) : State := { s with launches := s.launches.map f }
def focused (s : State) (l : List Nat) : State := { s with focus := l, issuing := none }

/-- The module with page tables: addresses below 1 GiB are mapped to themselves, readable, writable and executable; the
next GiB likewise, with cells. The launch holds a lease of both. -/
def mapped (s : State) : State :=
  onLaunch { s with
    dies := [{ mgmt := { ctxtab := 0x8000, pool := 0x100000 } }, { mgmt := { pool := 0x200000 } }],
    mem := [⟨0x8002, 1⟩, ⟨0x10000, 1⟩, ⟨0x10002, 2⟩, ⟨0x20000, 1⟩, ⟨0x20002, 3⟩, ⟨0x30000, 0x1F⟩, ⟨0x30001, 0x04⟩,
            ⟨0x30008, 0x1F⟩, ⟨0x30009, 0x05⟩, ⟨0x3000B, 0x40⟩] }
    fun L => { L with leases := [{ base := 0, size := 0x80000000, r := true, w := true, x := true }] }

/-- The memory of `mapped` is in canonical form. -/
theorem test_mapped_canonical : Memory.wf (mapped (ts (tg tc))).mem = true := by decide

/-- What the hypotheses of `LaneResult` ask for: a gang that issues, with its operands in the window; and one with 127
registers, for which register 127 lies outside. -/
def LaneMet (cls : Cls) (os : List Opnd) : Prop :=
  (∃ s g c, Issues s cls g c ∧ windowFail g (activeMask c) os = none) ∧
  ∃ s g c x ls, Issues s cls g c ∧ windowFail g (activeMask c) os = some (x, ls)

theorem laneMet_of (cls : Cls) (os : List Opnd) (h1 : flagFull (tg fc) fc cls = false)
    (h2 : windowFail (withP 128 (tg fc)) allLanes os = none) (x : Nat) (h3 : windowFail (withP 127 (tg fc)) allLanes os = some (x, allLanes)) :
    LaneMet cls os :=
  ⟨⟨ts (withP 128 (tg fc)), _, _, ⟨rfl, h1, rfl⟩, h2⟩, ts (withP 127 (tg fc)), _, _, x, allLanes, ⟨rfl, h1, rfl⟩, h3⟩

/-- The flag that counts a class A or B instruction is at 63. -/
def FlagMet (cls : Cls) : Prop := ∃ s g c, issuer s = some (g, c) ∧ flagFull g c cls = true

theorem flagMet_a : FlagMet .a := ⟨ts (fullFlag (tg fc)), _, _, rfl, rfl⟩
theorem flagMet_b : FlagMet .b := ⟨ts (fullFlag (tg fc)), _, _, rfl, rfl⟩

/-! ### Witnesses of the statements' hypotheses -/

theorem witness_IntegerResults : LaneMet .none [.reg 127, .reg 4, .reg 5] ∧ LaneMet .none [.reg 1, .reg 127, .reg 5] ∧
    LaneMet .none [.reg 1, .reg 4, .reg 127] :=
  ⟨laneMet_of _ _ rfl rfl 127 rfl, laneMet_of _ _ rfl rfl 127 rfl, laneMet_of _ _ rfl rfl 127 rfl⟩

theorem witness_UnaryAndConstantResults : LaneMet .none [.reg 127, .reg 4] ∧ LaneMet .none [.reg 127] ∧ 524287 < 524288 ∧
    4095 < 4096 ∧ 31 < 32 :=
  ⟨laneMet_of _ _ rfl rfl 127 rfl, laneMet_of _ _ rfl rfl 127 rfl, by decide⟩

theorem witness_PairResults : 126 % 2 = 0 ∧ LaneMet .none [.pair 126, .reg 4, .reg 5] ∧ LaneMet .none [.pair 126, .pair 4, .pair 6] ∧
    LaneMet .none [.pair 126, .pair 4, .reg 5] :=
  ⟨rfl, laneMet_of _ _ rfl rfl _ rfl, laneMet_of _ _ rfl rfl _ rfl, laneMet_of _ _ rfl rfl _ rfl⟩

theorem witness_DivisionResults : LaneMet .a [.reg 127, .reg 4, .reg 5] ∧ FlagMet .a := ⟨laneMet_of _ _ rfl rfl _ rfl, flagMet_a⟩

theorem witness_CompareResults : LaneMet .none [.reg 127, .reg 5] := laneMet_of _ _ rfl rfl _ rfl

theorem witness_PredicateResults : (∃ s g c, Issues s .none g c ∧ windowFail g (activeMask c) [] = none) ∧ LaneMet .none [.reg 127] ∧
    LaneMet .none [.reg 127, .reg 4] ∧ 96 + 32 ≤ 128 :=
  ⟨⟨ts (tg tc), _, _, ⟨rfl, rfl, rfl⟩, rfl⟩, laneMet_of _ _ rfl rfl _ rfl, laneMet_of _ _ rfl rfl _ rfl, by decide⟩

theorem witness_GangwideResults : (∃ s g c, Issues s .none g c ∧ windowFail g (activeMask c) [] = none) ∧
    LaneMet .none [.reg 127] ∧ LaneMet .none [.reg 127, .reg 4] ∧ LaneMet .none [.reg 127, .reg 4, .reg 5] ∧
    (lanesOf allLanes).head? = some 0 :=
  ⟨⟨ts (tg tc), _, _, ⟨rfl, rfl, rfl⟩, rfl⟩, laneMet_of _ _ rfl rfl _ rfl, laneMet_of _ _ rfl rfl _ rfl, laneMet_of _ _ rfl rfl _ rfl, rfl⟩

theorem witness_FloatResults : LaneMet .none [.reg 127, .reg 4, .reg 5] ∧ LaneMet .a [.reg 127, .reg 4, .reg 5] ∧
    LaneMet .a [.reg 127, .reg 4] ∧ LaneMet .none [.reg 127, .reg 4] ∧ FlagMet .a :=
  ⟨laneMet_of _ _ rfl rfl _ rfl, laneMet_of _ _ rfl rfl _ rfl, laneMet_of _ _ rfl rfl _ rfl, laneMet_of _ _ rfl rfl _ rfl, flagMet_a⟩

theorem witness_FloatBitsAndCompares : LaneMet .none [.reg 127, .reg 4] ∧ LaneMet .none [.reg 127, .reg 4, .reg 5] :=
  ⟨laneMet_of _ _ rfl rfl _ rfl, laneMet_of _ _ rfl rfl _ rfl⟩

/-- The least and the greatest NaN pattern. -/
theorem witness_ApproximationResults : LaneMet .a [.reg 127, .reg 4] ∧ FlagMet .a ∧
    (0x7F800001#32).toNat / 2 ^ 23 % 2 ^ 8 = 255 ∧ (0x7F800001#32).toNat % 2 ^ 23 ≠ 0 ∧
    (0xFFFFFFFF#32).toNat / 2 ^ 23 % 2 ^ 8 = 255 ∧ (0xFFFFFFFF#32).toNat % 2 ^ 23 ≠ 0 :=
  ⟨laneMet_of _ _ rfl rfl _ rfl, flagMet_a, by decide +kernel⟩

/-- 3 lies between 2 and 4, and 2 is a power of two: 3 is none, nor the negative of one; an exponent beyond either end; a
number that is no integer. -/
theorem witness_ApproximationResults_values :
    FinitePattern fp32 0x40400000 3 ∧ (∀ n : ℤ, (3 : ℚ) ≠ 2 ^ n ∧ (3 : ℚ) ≠ -(2 ^ n)) ∧ (∀ n : ℤ, (3 : ℚ) ≠ 4 ^ n) ∧
    (2 : ℚ) ^ (1 : ℤ) ≤ 3 ∧ (3 : ℚ) < 2 ^ (1 + 1 : ℤ) ∧ FinitePattern fp32 0xBF800000 (-1) ∧
    FinitePattern fp32 0x43000000 (128 : ℤ) ∧ FinitePattern fp32 0xC3160000 (-150 : ℤ) ∧ FinitePattern fp32 0x3F000000 (1 / 2) ∧
    (∀ n : ℤ, (1 / 2 : ℚ) ≠ n) := by
  have h2 : ∀ n : ℤ, (3 : ℚ) ≠ 2 ^ n := fun n h => by
    rcases le_or_gt n 1 with hn | hn
    · have := zpow_le_zpow_right₀ (by norm_num : (1 : ℚ) ≤ 2) hn
      rw [← h] at this
      norm_num at this
    · have := zpow_le_zpow_right₀ (by norm_num : (1 : ℚ) ≤ 2) (by omega : (2 : ℤ) ≤ n)
      rw [← h] at this
      norm_num at this
  refine ⟨⟨false, 12582912, -22, by decide +kernel, by norm_num⟩, fun n => ⟨h2 n, fun h => ?_⟩, fun n h => ?_, by norm_num, by norm_num,
    ⟨true, 8388608, -23, by decide +kernel, by norm_num⟩, ⟨false, 8388608, -16, by decide +kernel, by norm_num⟩,
    ⟨true, 9830400, -16, by decide +kernel, by norm_num⟩, ⟨false, 8388608, -24, by decide +kernel, by norm_num⟩, fun n h => ?_⟩
  · have : (0 : ℚ) < 2 ^ n := by positivity
    linarith
  · refine h2 (2 * n) ?_
    rw [h, zpow_mul]
    norm_num
  · have h3 : (2 * n : ℚ) = 1 := by rw [← h]; norm_num
    have h4 : 2 * n = 1 := by exact_mod_cast h3
    omega

theorem witness_HalfResults : LaneMet .none [.reg 127, .reg 4, .reg 5] := laneMet_of _ _ rfl rfl _ rfl

theorem witness_ConversionResults : 0x17 < 0x18 ∧ LaneMet .none [.reg 127, .reg 4] ∧ LaneMet .none [.reg 127, .pair 4] ∧
    LaneMet .none [.reg 127, .quad 4] ∧ LaneMet .none [.pair 126, .reg 4] ∧ LaneMet .none [.quad 124, .reg 4] ∧ 124 % 4 = 0 ∧ 124 < 128 :=
  ⟨by decide, laneMet_of _ _ rfl rfl _ rfl, laneMet_of _ _ rfl rfl _ rfl, laneMet_of _ _ rfl rfl _ rfl, laneMet_of _ _ rfl rfl _ rfl,
   laneMet_of _ _ rfl rfl _ rfl, by decide⟩

/-- FP32 patterns for each case: NaN, signalling NaN, infinities of each sign, zeros, finite values of each sign. -/
theorem witness_FloatSpecialCases :
    let top := fun a : Nat => a / 2 ^ 23 % 2 ^ 8 = 2 ^ 8 - 1
    let frac := fun a : Nat => a % 2 ^ 23
    let low := fun a : Nat => a % 2 ^ 31
    let sgn := fun a : Nat => a / 2 ^ 31
    (top 0x7F800001 ∧ frac 0x7F800001 ≠ 0 ∧ frac 0x7F800001 < 2 ^ 22 ∧ frac 0x7FC00000 = 2 ^ 22) ∧
    (top 0x7F800000 ∧ frac 0x7F800000 = 0 ∧ sgn 0x7F800000 ≠ sgn 0xFF800000 ∧ top 0xFF800000 ∧ frac 0xFF800000 = 0) ∧
    (low 0 = 0 ∧ low 0x80000000 = 0 ∧ sgn 0x80000000 = 1) ∧ (¬ top 0x7F7FFFFF ∧ low 0x7F7FFFFF ≠ 0) ∧
    (¬ top 0x80000001 ∧ sgn 0x80000001 = 1 ∧ low 0x80000001 ≠ 0) ∧ 0xFFFFFFFF < 2 ^ (1 + fp32.ew + fp32.fw) ∧ fp32 ∈ [fp32, f16, bf16] := by
  decide +kernel

/-- 1, 3 and the least subnormal: exact results that are not zero; 1 less 1, which is; and a number in each of the two ranges
beyond the normal magnitudes. -/
theorem witness_RoundingIsCorrect : FinitePattern fp32 0 0 ∧ (1 : ℚ) - 1 = 0 ∧ Overflows fp32 0 (2 ^ 128) ∧ Tiny fp32 0 (1 / 2 ^ 127) ∧ ∃ p q r : ℚ, FinitePattern fp32 0x3F800000 p ∧ FinitePattern fp32 0x40400000 q ∧
    FinitePattern fp32 1 r ∧ p + q ≠ 0 ∧ p - q ≠ 0 ∧ p * q ≠ 0 ∧ q ≠ 0 ∧ p / q ≠ 0 ∧ r + p * q ≠ 0 ∧ 0 < p :=
  ⟨⟨false, 0, -149, by decide +kernel, by norm_num⟩, by norm_num, by norm_num [Overflows, TowardZero, fp32], by norm_num [Tiny, TowardZero, fp32],
   1, 3, 1 / 2 ^ 149, ⟨false, 8388608, -23, by decide +kernel, by norm_num⟩, ⟨false, 12582912, -22, by decide +kernel, by norm_num⟩,
   ⟨false, 1, -149, by decide +kernel, by norm_num⟩, by norm_num⟩

/-- A gang with 17 entries and no slab; the next entry has nowhere to go. -/
def crowded : Gang :=
  { tg tc with frontier := (tg tc).frontier ++ (List.range 16).map fun k => { pc := BitVec.ofNat 64 (0x2000 + 4 * k), prio := 0, mask := 1 } }

/-- A load of lane 0 to the scratchpad that writes g8, and a store beside it, not yet performed. -/
def flLoad : Flight := { lane := 0, op := .load 4 0 false 4 8, kind := 1, ea := 0x0FFFF00000000000, loc := ⟨.scratch 0, 0⟩, dst := [8] }
def flStore (off : Nat) : Flight :=
  { lane := 0, op := .store 4 0 4 8, kind := 1, ea := BitVec.ofNat 64 (0x0FFFF00000000000 + off), loc := ⟨.scratch 0, off⟩, data := 7 }
/-- A gang at one word, that has moved past an instruction with these accesses outstanding. -/
def passing (w : Word) (fs : List Flight) : Gang := { tg { tc with words := [w] } with passed := [{ flights := fs }] }

theorem witness_NoEffectAndWaitResults_held :
    (∀ i ∈ [Instr.fenceAcq 5, .fenceRel 5, .fenceGng, .fenceDom, .stRelW 0 4 8, .stRelD 0 4 8],
      decodeWord (encode i) = .ok i ∧ ∃ s g c, wordOf c = encode i ∧ g.pending = none ∧ heldAt s g c = some 3 ∧
        ∃ x ∈ outstanding g, inMask (activeMask c) x.2.lane = true ∧ x.2.loads = true) ∧
    (∃ s g c, wordOf c = encode (.fenceAcq 0) ∧ g.pending = none ∧ heldAt s g c = none ∧
      (∃ x ∈ outstanding g, inMask (activeMask c) x.2.lane = true) ∧
      ¬ ∃ x ∈ outstanding g, inMask (activeMask c) x.2.lane = true ∧ x.2.loads = true) ∧
    (∃ s g c, wordOf c = encode .fenceDev ∧ g.pending = none ∧ heldAt s g c = none ∧ outstanding g ≠ []) := by
  refine ⟨fun i h => ?_, ⟨State.reset, passing (BitVec.ofNat 32 (encode (.fenceAcq 0))) [flStore 0], { tc with words := [BitVec.ofNat 32 (encode (.fenceAcq 0))] },
      by decide +kernel⟩,
    ⟨State.reset, passing (BitVec.ofNat 32 (encode .fenceDev)) [flStore 0], { tc with words := [BitVec.ofNat 32 (encode .fenceDev)], act := 2 }, by decide +kernel⟩⟩
  have hd : ∀ i ∈ [Instr.fenceAcq 5, .fenceRel 5, .fenceGng, .fenceDom, .stRelW 0 4 8, .stRelD 0 4 8], decodeWord (encode i) = .ok i ∧
      (let c := { tc with words := [BitVec.ofNat 32 (encode i)] }
       let g := passing (BitVec.ofNat 32 (encode i)) [{ flLoad with dst := [12] }]
       wordOf c = encode i ∧ g.pending = none ∧ heldAt State.reset g c = some 3 ∧
        ∃ x ∈ outstanding g, inMask (activeMask c) x.2.lane = true ∧ x.2.loads = true) := by decide +kernel
  exact ⟨(hd i h).1, _, _, _, (hd i h).2⟩

theorem witness_NoEffectAndWaitResults : (∃ s g c, Issues s .none g c ∧ windowFail g (activeMask c) [] = none ∧ flagsClear g 0xFFF = true ∧
      ((∀ l ∈ lanesOf (activeMask c), (0 : Int) ≤ 8 * (31 % 32 : Nat) ∧ (8 * (31 % 32 : Nat) : Int) ≤ 248)) ∧
      (∀ l ∈ lanesOf (activeMask c), (0 : Int) ≤ (thr g l).wbase + 8 * 31 ∧ ((thr g l).wbase : Int) + 8 * 31 ≤ 248) ∧
      ∃ l ls, ((lanesOf (activeMask c)).filter fun l => ((thr g l).wbase : Int) + 8 * (32 - 64) < 0 || 248 < ((thr g l).wbase : Int) + 8 * (32 - 64)) = l :: ls) ∧
    (∃ s g c, Issues s .none g c ∧ flagsClear g 1 = false) :=
  ⟨⟨ts (tg tc), _, _, ⟨rfl, rfl, rfl⟩, rfl, rfl, by decide, by decide, _, _, rfl⟩, ts (fullFlag (tg tc)), _, _, ⟨rfl, rfl, rfl⟩, rfl⟩

theorem witness_PositionAndFrontier : tc.words.length ≤ tc.idx + 1 ∧ ({ tc with words := [0, 0] } : ClauseRun).idx + 1 < 2 ∧
    (let fr : List Entry := [{ pc := 8, prio := 63, mask := 1 }, { pc := 4, prio := 0, mask := 2 }, { pc := 12, prio := 0, mask := 4 }]
     fr.Pairwise (fun a b => b.prio < a.prio ∨ (a.prio = b.prio ∧ a.pc.toNat < b.pc.toNat)) ∧
       fr.Pairwise (fun a b => a.pc ≠ b.pc) ∧ ∀ e ∈ fr, e.mask ≠ 0) := by decide

theorem witness_BranchResults :
    (∃ s g c, Issues s .none g c ∧ 0x7FFFF < 2 ^ 20 ∧ windowFail g (activeMask c) [.pair 2] = none ∧ mustStop s g = false ∧
      spillFits g.slab (insertEntries g.frontier.tail
        [{ pc := jTarget c.h 0x80000, prio := 63, mask := activeMask c, target := true },
         { pc := 0x1008, prio := (topEntry g).prio, mask := (topEntry g).mask &&& ~~~(activeMask c), target := false }]) = true) ∧
    (∃ s g c, Issues s .none g c ∧ windowFail g (activeMask c) [.pair 2] = none ∧ mustStop s g = true ∧
      spillFits g.slab (insertEntries g.frontier.tail
        [{ pc := jTarget c.h 0, prio := 63, mask := activeMask c, target := true },
         { pc := 0x1008, prio := (topEntry g).prio, mask := (topEntry g).mask &&& ~~~(activeMask c), target := false }]) = true) ∧
    (∃ s g c, Issues s .none g c ∧ windowFail g (activeMask c) [.pair 2] = none ∧
      spillFits g.slab (insertEntries g.frontier.tail
        [{ pc := jTarget c.h 0, prio := 63, mask := activeMask c, target := true },
         { pc := 0x1008, prio := (topEntry g).prio, mask := (topEntry g).mask &&& ~~~(activeMask c), target := false }]) = false) ∧
    (∃ s g c x ls, Issues s .none g c ∧ windowFail g (activeMask c) [.pair 2] = some (x, ls)) :=
  ⟨⟨ts (tg tc), _, _, ⟨rfl, rfl, rfl⟩, by decide, rfl, rfl, rfl⟩, ⟨ts { tg tc with stopping := true }, _, _, ⟨rfl, rfl, rfl⟩, rfl, rfl, rfl⟩,
   ⟨ts crowded, _, _, ⟨rfl, rfl, rfl⟩, rfl, by decide +kernel⟩, ts (withP 3 (tg tc)), _, _, 3, allLanes, ⟨rfl, rfl, rfl⟩, rfl⟩

/-- One lane and sixteen bytes of slab in 32 lanes; a target that is no multiple of 4; one in an aperture; one that is not
canonical. -/
theorem witness_ReturnResults :
    (∃ s g c, Issues s .none g c ∧ windowFail g (activeMask c) [.pair 2] = none ∧ mustStop s g = false ∧
      (∀ l ∈ lanesOf (activeMask c), targetFail l (BitVec.ofNat 64 ((rdPair g.level (thr g l) 2).toNat % 2 ^ 57)) = .ok ()) ∧
      g.frontier.tail.length + (lanesOf (activeMask c)).length + 1 ≤ 16) ∧
    (∃ s g c, Issues s .none g c ∧ windowFail g (activeMask c) [.pair 2] = none ∧ mustStop s g = false ∧
      (∀ l ∈ lanesOf (activeMask c), targetFail l (rdPair g.level (thr g l) 2) = .ok ()) ∧ 16 ≤ g.slab) ∧
    (∃ s g c f fs, Issues s .none g c ∧ failsOf ((lanesOf (activeMask c)).map fun l => targetFail l (rdPair g.level (thr g l) 2)) = f :: fs) ∧
    targetFail 0 0xFFFF00000000000 = .error ⟨0, 0x15, 0xFFFF00000000000, 0⟩ ∧ (targetFail 0 0x0100000000000000).isOk = false :=
  ⟨⟨ts (tg oneLane), _, _, ⟨rfl, rfl, rfl⟩, rfl, rfl, by decide, by decide⟩, ⟨ts { tg tc with slab := 16 }, _, _, ⟨rfl, rfl, rfl⟩, rfl, rfl, by decide, by decide⟩,
   ⟨ts (withRegs (tg oneLane) [(2, 2)]), _, _, _, _, ⟨rfl, rfl, rfl⟩, rfl⟩, by decide, by decide⟩

/-- A pair outside the window; one target of all lanes, whose entry has nowhere to go, or has in a gang that must stop. -/
theorem witness_ReturnResults_edges :
    (∃ s g c x ls, Issues s .none g c ∧ windowFail g (activeMask c) [.pair 2] = some (x, ls)) ∧
    (let e : Entry := { pc := 0, prio := 0, mask := allLanes }
     (∀ l < 32, ∀ pc prio, (∃ x ∈ [e], x.pc = pc ∧ x.prio = prio ∧ inMask x.mask l = true) ↔
       inMask (activeMask tc) l = true ∧ ((0 : Dbl), 0) = (pc, prio)) ∧
     (∃ s g c, Issues s .none g c ∧ c = tc ∧ windowFail g (activeMask c) [.pair 2] = none ∧
       (∀ l ∈ lanesOf (activeMask c), rdPair g.level (thr g l) 2 = 0 ∧ targetFail l 0 = .ok ()) ∧
       spillFits g.slab (insertEntries g.frontier.tail ([e] ++ [{ pc := 0x1008, prio := 0, mask := 0, target := false }])) = false) ∧
     ∃ s g c, Issues s .none g c ∧ c = tc ∧ windowFail g (activeMask c) [.pair 2] = none ∧ mustStop s g = true ∧
       (∀ l ∈ lanesOf (activeMask c), rdPair g.level (thr g l) 2 = 0 ∧ targetFail l 0 = .ok ()) ∧
       spillFits g.slab (insertEntries g.frontier.tail ([e] ++ [{ pc := 0x1008, prio := 0, mask := 0, target := false }])) = true) := by
  refine ⟨⟨ts (withP 3 (tg tc)), _, _, 3, allLanes, ⟨rfl, rfl, rfl⟩, rfl⟩, fun l hl pc prio => ?_,
    ⟨ts crowded, _, _, ⟨rfl, rfl, rfl⟩, rfl, rfl, by decide, by decide +kernel⟩,
    ts { tg tc with stopping := true }, _, _, ⟨rfl, rfl, rfl⟩, rfl, rfl, rfl, by decide, rfl⟩
  have h : inMask (activeMask tc) l = true := by revert l; decide
  simp [h, show inMask allLanes l = true from h]

/-- A gang of a task; a task with these granules of its record under an error, and a count of children. -/
def tasked (g : Gang) : Gang := { g with task := 0x00010005 }
def aTask (bad : List Nat) (join : Nat) : Task := { die := 0, nbhd := 0, index := 5, gen := 1, launch := 0, join := join, state := 3, poison := bad }
def withTask (s : State) (bad : List Nat) (join : Nat) : State := { s with tasks := [aTask bad join] }
/-- 256 events wait in die 0. -/
def crammed (s : State) : State :=
  { s with dies := [{ events := List.replicate 256 { type := 3, bytes := [], launch := none } }, {}] }

theorem witness_ExitAndStopResults :
    (∃ s g c, Issues s .none g c ∧ g.level = 0 ∧ flagsClear g 0xFFF = false) ∧ (∃ s g c, Issues s .none g c ∧ g.level ≠ 0) ∧
    (∃ s g c u o, Issues s .none g c ∧ u = drainGang s g.id ∧ gangOf u g.id = some o ∧ u.copies = [] ∧ outstanding g = []) ∧
    (∃ s g c g', Issues s .none g c ∧ g.level = 0 ∧ flagsClear g 0xFFF = true ∧ s.copies = [] ∧
      gangOf (retireLanes s g c) g.id = some g' ∧ g'.live ≠ 0 ∧ mustStop s g = false) ∧
    (∃ s g c g', Issues s .none g c ∧ g.level = 0 ∧ flagsClear g 0xFFF = true ∧
      gangOf (retireLanes s g c) g.id = some g' ∧ g'.live = 0 ∧ g'.task = 0) ∧
    (∃ s g c g', Issues s .none g c ∧ g.level = 0 ∧ flagsClear g 0xFFF = true ∧
      gangOf (retireLanes s g c) g.id = some g' ∧ g'.live = 0 ∧ g'.task ≠ 0 ∧ recordPoisoned s g.task [1, 2, 3] = false) ∧
    (∃ s g c, Issues s .none g c ∧ g.level = 0 ∧ flagsClear g 0xFFF = true ∧ g.task ≠ 0 ∧ g.live &&& ~~~(activeMask c) = 0 ∧
      recordPoisoned s g.task [1, 2, 3] = true) ∧
    (∃ s g c, Issues s .none g c ∧ (launchD s g.launch).brkOn = true ∧ g.level = 0 ∧ mustStop s g = false ∧ eventRoom s (g.core / 1024) = true) ∧
    (∃ s g c, Issues s .none g c ∧ (launchD s g.launch).brkOn = true ∧ g.level = 0 ∧ mustStop s g = false ∧ eventRoom s (g.core / 1024) = false) ∧
    (∃ s g c, Issues s .none g c ∧ (launchD s g.launch).brkOn = false) ∧
    ∃ s g c, Issues s .none g c ∧ mustStop s g = true ∧ (launchD s g.launch).brkOn = true ∧ g.level = 0 :=
  ⟨⟨ts (fullFlag (tg tc)), _, _, ⟨rfl, rfl, rfl⟩, rfl, rfl⟩, ⟨ts { tg tc with level := 1 }, _, _, ⟨rfl, rfl, rfl⟩, by decide⟩,
   ⟨ts (tg oneLane), _, _, _, _, ⟨rfl, rfl, rfl⟩, rfl, rfl, rfl, rfl⟩,
   ⟨ts (tg oneLane), _, _, _, ⟨rfl, rfl, rfl⟩, rfl, rfl, rfl, rfl, by decide, rfl⟩, ⟨ts (tg tc), _, _, _, ⟨rfl, rfl, rfl⟩, rfl, rfl, rfl, rfl, rfl⟩,
   ⟨ts { tg tc with task := 0x10000 }, _, _, _, ⟨rfl, rfl, rfl⟩, rfl, rfl, rfl, rfl, by decide, rfl⟩,
   ⟨withTask (ts (tasked (tg tc))) [3] 0, _, _, ⟨rfl, rfl, rfl⟩, rfl, rfl, by decide, rfl, rfl⟩,
   ⟨onLaunch (ts (tg tc)) fun L => { L with brkOn := true }, _, _, ⟨rfl, rfl, rfl⟩, rfl, rfl, rfl, rfl⟩,
   ⟨onLaunch (crammed (ts (tg tc))) fun L => { L with brkOn := true }, _, _, ⟨rfl, rfl, rfl⟩, rfl, rfl, rfl, by decide +kernel⟩,
   ⟨ts (tg tc), _, _, ⟨rfl, rfl, rfl⟩, rfl⟩,
   onLaunch (ts { tg tc with stopping := true }) fun L => { L with brkOn := true }, _, _, ⟨rfl, rfl, rfl⟩, rfl, rfl, rfl⟩

/-- Vectors at both levels; a level 2 gang, a level whose vector is 0, and a launch whose end is decided. -/
def vectored (g : Gang) : State := onLaunch (ts g) fun L => { L with desc := { L.desc with tvec1 := 0x4000, tvec2 := 0x5000 } }

theorem witness_TakingAnException :
    (let s := vectored (tg tc)
     (gangOf s 0).isSome ∧ (tg tc).level < 2 ∧ (launchD s 0).desc.ntrace = 0 ∧ (launchD s 0).desc.tvec1 ≠ 0) ∧
    (let g : Gang := { tg tc with level := 1 }
     (gangOf (vectored g) 0).isSome ∧ g.level < 2 ∧ (launchD (vectored g) 0).desc.tvec2 ≠ 0) ∧
    (let s := vectored { tg tc with level := 2 }
     (gangOf s 0).isSome ∧ (launchD s 0).desc.ntrace = 0 ∧ (launchOf s 0).isSome ∧ (launchD s 0).ending = none ∧ (launchD s 0).state ≠ .done) ∧
    (let s := onLaunch (ts (tg tc)) fun L => { L with ending := some 2 }
     (gangOf s 0).isSome ∧ vectorOf (launchD s 0).desc 1 = 0 ∧ (launchD s 0).ending ≠ none) := by decide

theorem witness_TrapResults :
    (∃ s g c, Issues s .none g c ∧ ∀ l ∈ lanesOf (activeMask c), (thr g l).aflags &&& (thr g l).amask &&& 0xFF = 0) ∧
    ∃ s g c, Issues s .none g c ∧
      maskOf ((lanesOf (activeMask c)).filter fun l => (thr g l).aflags &&& (thr g l).amask &&& 0xFF ≠ 0) ≠ 0 :=
  ⟨⟨ts (tg tc), _, _, ⟨rfl, rfl, rfl⟩, by decide⟩,
   ts { tg tc with threads := List.replicate 32 { aflags := 0x80, amask := 0x80 } }, _, _, ⟨rfl, rfl, rfl⟩, by decide⟩

/-- A gang at a level whose bank holds an interrupted clause, of which no lane, or every lane, is done. -/
def trapped (level : Nat) (done : Word) (k : ClauseRun) (w : Wait := .none) : Gang :=
  let b : Bank := { frontier := [{ pc := 0x1000, prio := 0, mask := allLanes }], clause := some k, wait := w, copy := none, copyLane := 0 }
  { tg tc with level := level, rec1 := { done := done }, rec2 := { done := done }, bank1 := some b, bank2 := some b }

/-- A gang at level 1 with this clause and this record in its bank. -/
def banked (k : Option ClauseRun) (r : Option (Nat × List Byte)) : Gang :=
  let b : Bank := { frontier := [{ pc := 0x1000, prio := 0, mask := allLanes }], clause := k, wait := .none, copy := none, copyLane := 0, record := r }
  { trapped 1 1 tc with bank1 := some b }

/-- A trap taken at a clause start, a copy's for instance: no instruction is banked; and an interrupted instruction whose lane
has read already. -/
theorem witness_TrapReturn_starts :
    (∃ s g c b e es, Issues s .none g c ∧ g.level = 1 ∧ bankOf g g.level = some b ∧ b.clause = none ∧ b.copy = none ∧ b.wait = .none ∧
      b.frontier = e :: es ∧ b.frontier.length ≤ 16 ∧ mustStop s g = false) ∧
    (∃ s g c b k x, Issues s .none g c ∧ g.level = 1 ∧ bankOf g g.level = some b ∧ b.clause = some k ∧ b.copy = none ∧ b.wait = .none ∧
      b.late = false ∧ b.frontier.length ≤ 16 ∧ mustStop s g = false ∧ b.record = some x ∧
      inMask (k.act &&& ~~~(recOf g g.level).done) x.1 = true) ∧
    ∃ k : ClauseRun, k.retired = true ∧ k.counted = true ∧ clsFlag k.hdr (clsAt k) = some 0 ∧ k.act &&& ~~~allLanes = 0 :=
  ⟨⟨ts (banked none none), _, _, _, _, _, ⟨rfl, rfl, rfl⟩, rfl, rfl, rfl, rfl, rfl, rfl, by decide, rfl⟩,
   ⟨ts (banked (some tc) (some (31, []))), _, _, _, _, _, ⟨rfl, rfl, rfl⟩, rfl, rfl, rfl, rfl, rfl, rfl, by decide, rfl, rfl, by decide⟩,
   { fc with words := [BitVec.ofNat 32 (encode (.div 4 5 6))], retired := true, counted := true }, rfl, rfl, by decide +kernel, by decide⟩

theorem witness_TrapReturn :
    (∃ s g c, Issues s .none g c ∧ g.level = 0) ∧
    (∀ lv ∈ [1, 2], ∃ s g c b k, Issues s .none g c ∧ g.level = lv ∧ bankOf g g.level = some b ∧ b.clause = some k ∧ b.copy = none ∧
      b.wait = .none ∧ b.late = false ∧ b.frontier.length ≤ 16 ∧ mustStop s g = false ∧
      activeMask k &&& ~~~(recOf g g.level).done ≠ 0) ∧
    (∃ s g c b k, Issues s .none g c ∧ g.level = 1 ∧ bankOf g g.level = some b ∧ b.clause = some k ∧ b.copy = none ∧
      b.wait = .none ∧ b.late = false ∧ b.frontier.length ≤ 16 ∧ mustStop s g = false ∧ k.retired = true ∧
      activeMask k &&& ~~~(recOf g g.level).done = 0) ∧
    ∃ s g c b k, Issues s .none g c ∧ g.level = 1 ∧ bankOf g g.level = some b ∧ b.clause = some k ∧ b.copy = none ∧
      b.wait = .blocked 4 (.cells false) 5 ∧ b.late = false ∧ b.frontier.length ≤ 16 ∧ mustStop s g = false ∧
      activeMask k &&& ~~~(recOf g g.level).done ≠ 0 := by
  refine ⟨⟨ts (tg tc), _, _, ⟨rfl, rfl, rfl⟩, rfl⟩, ?_, ⟨ts (trapped 1 allLanes { tc with retired := true }), _, _, _, _, ⟨rfl, rfl, rfl⟩, rfl, rfl, rfl, rfl, rfl,
    rfl, by decide, rfl, rfl, by decide⟩,
    ts (trapped 1 1 tc (.blocked 4 (.cells false) 5)), _, _, _, _, ⟨rfl, rfl, rfl⟩, rfl, rfl, rfl, rfl, rfl, rfl, by decide, rfl, by decide⟩
  intro lv h
  simp only [List.mem_cons, List.not_mem_nil, or_false] at h
  rcases h with rfl | rfl
  · exact ⟨ts (trapped 1 0 tc), _, _, _, _, ⟨rfl, rfl, rfl⟩, rfl, rfl, rfl, rfl, rfl, rfl, by decide, rfl, by decide⟩
  · exact ⟨ts (trapped 2 0 tc), _, _, _, _, ⟨rfl, rfl, rfl⟩, rfl, rfl, rfl, rfl, rfl, rfl, by decide, rfl, by decide⟩

theorem witness_SpecialReads : LaneMet .none [.reg 127] ∧ (∀ r ∈ [9, 0x0FF, 0x104, 0x1FF, 0x203, 0x20F, 0x217, 0x21F, 0x227, 0x2FF, 0x309, 0x3FF,
      0x406, 0x43F, 0x601, 0x7FF], ¬ (r ≤ 8 ∨ (0x100 ≤ r ∧ r ≤ 0x103) ∨ (0x200 ≤ r ∧ r ≤ 0x202) ∨ (0x210 ≤ r ∧ r ≤ 0x216) ∨
      (0x220 ≤ r ∧ r ≤ 0x226) ∨ (0x300 ≤ r ∧ r ≤ 0x308) ∨ (0x400 ≤ r ∧ r ≤ 0x405) ∨ (0x440 ≤ r ∧ r ≤ 0x5FF) ∨ r = 0x600)) ∧ (launchD (ts (tg tc)) 0).node = none ∧
    ∃ s g x gr, (launchD s (g : Gang).launch).node = some x ∧ graphOf s x.1 = some gr :=
  ⟨laneMet_of _ _ rfl rfl _ rfl, by decide, rfl,
   { onLaunch (ts (tg tc)) (fun L => { L with node := some (3, 0) }) with graphs := [{ id := 3, die := 0, ctx := 0, addr := 0, queue := 0, flags := 0, tag := 0, done := 0, nodes := [] }] },
   tg tc, _, _, rfl, rfl⟩

/-- The reset value of `%gstate` is legal, and 0 is not. -/
theorem witness_SpecialWrites : LaneMet .none [.reg 127] ∧
    (∃ s g c, Issues s .none g c ∧ windowFail g (activeMask c) [.reg 127] = none ∧
      gstateOk (rdReg g.level (thr g (highest (activeMask c))) 127) = true) ∧
    ∃ s g c, Issues s .none g c ∧ windowFail g (activeMask c) [.reg 127] = none ∧
      gstateOk (rdReg g.level (thr g (highest (activeMask c))) 127) = false :=
  ⟨laneMet_of _ _ rfl rfl _ rfl, ⟨ts (withRegs (tg tc) [(127, 0x12020)]), _, _, ⟨rfl, rfl, rfl⟩, rfl, by decide⟩, ts (tg tc), _, _, ⟨rfl, rfl, rfl⟩, rfl, by decide⟩

/-- A pending copy of the thread; addresses not canonical and in an aperture. -/
def withCopy (s : State) (x : Copy) : State := { s with copies := [x] }
def aCopy : Copy := { id := 7, kind := .into, gang := 0, lane := 0, launch := 0, core := 0, chan := 3, pc := 0x1004 }

/-- A range of no byte while a copy of the thread runs; an entry to invalidate whose leaf awaits its mark. -/
theorem witness_TranslationResults_sets :
    (∃ s g c, Issues s .none g c ∧ canonical (rdPair g.level (thr g 0) 4) = true ∧ apertureOf (rdPair g.level (thr g 0) 4) = .global ∧
      threadCopies s g.id 0 = true ∧ (rdReg g.level (thr g 0) 6).toNat ≠ 0 ∧ windowOnce g (activeMask c) [] [.pair 4, .reg 6] = none) ∧
    (∃ s g c, Issues s .none g c ∧ canonical (rdPair g.level (thr g 0) 4) = true ∧ apertureOf (rdPair g.level (thr g 0) 4) = .global ∧
      threadCopies s g.id 0 = true ∧ (rdReg g.level (thr g 0) 6).toNat = 0 ∧ windowOnce g (activeMask c) [] [.pair 4, .reg 6] = none) ∧
    ∃ (s : State) (p : TlbEntry → Bool), (∃ e ∈ s.tlb, p e = true ∧ e.pending = true) ∧ (∃ e ∈ s.tlb, p e = true ∧ e.pending = false) ∧
      ∃ e ∈ s.tlb, p e = false :=
  ⟨⟨withCopy (ts (withRegs (tg tc) [(6, 1)])) aCopy, _, _, ⟨rfl, rfl, rfl⟩, rfl, rfl, rfl, by decide, rfl⟩,
   ⟨withCopy (ts (tg tc)) aCopy, _, _, ⟨rfl, rfl, rfl⟩, rfl, rfl, rfl, rfl, rfl⟩,
   { State.reset with tlb := [{ die := 0, ctx := 0, base := 0, size := 4096, leafAt := 0x3000, leaf := 0x1F, pending := true },
       { die := 0, ctx := 0, base := 4096, size := 4096, leafAt := 0x3008, leaf := 0x1F },
       { die := 1, ctx := 7, base := 0, size := 4096, leafAt := 0x4000, leaf := 0x1F }] }, fun e => e.ctx == 0, by decide, by decide, by decide⟩

theorem witness_TranslationResults :
    (∃ s g c, Issues s .none g c ∧ canonical (rdPair g.level (thr g 0) 4) = true ∧ apertureOf (rdPair g.level (thr g 0) 4) = .global ∧
      threadCopies s g.id 0 = false ∧ windowOnce g (activeMask c) [] [.pair 4] = none ∧ windowOnce g (activeMask c) [] [.pair 4, .reg 6] = none) ∧
    (∃ s g c, Issues s .none g c ∧ threadCopies s g.id (lowest (activeMask c)) = true) ∧
    (∃ s g c, Issues s .none g c ∧ windowOnce g (activeMask c) [] [.pair 4] = none ∧ canonical (rdPair g.level (thr g 0) 4) = false) ∧
    ∃ s g c, Issues s .none g c ∧ windowOnce g (activeMask c) [] [.pair 4] = none ∧ canonical (rdPair g.level (thr g 0) 4) = true ∧
      apertureOf (rdPair g.level (thr g 0) 4) ≠ .global :=
  ⟨⟨ts (tg tc), _, _, ⟨rfl, rfl, rfl⟩, rfl, rfl, rfl, rfl, rfl⟩, ⟨withCopy (ts (tg tc)) aCopy, _, _, ⟨rfl, rfl, rfl⟩, rfl⟩,
   ⟨ts (withRegs (tg tc) [(5, 0x01000000)]), _, _, ⟨rfl, rfl, rfl⟩, rfl, by decide⟩,
   ts (withRegs (tg tc) [(5, 0x0FFFF000)]), _, _, ⟨rfl, rfl, rfl⟩, rfl, by decide, by decide⟩

/-- The module with 4,096 bytes of scratchpad in the block and 1,024 bytes of stack to a lane; `g4.d` of the gang points to
the scratchpad, to the stack, to byte 64 below 1 GiB, or to a cell at 1 GiB; `tagged` makes the spaces tagged. -/
def padded (s : State) (tag : Bool) : State := { s with blocks := s.blocks.map fun b => { b with pad := { size := 4096, tagged := tag } } }
def at4 (c : ClauseRun) (lo hi : Word) : Gang :=
  { withRegs (tg c) [(4, lo), (5, hi), (6, 8)] with slab := 1024, stack := { size := 32768, tagged := true } }
def padGang (c : ClauseRun) : Gang := at4 c 0 0x0FFFF000
def stackGang (c : ClauseRun) : Gang := at4 c 0 0x0FFFE000
def globGang (c : ClauseRun) : Gang := at4 c 64 0
def cellGang (c : ClauseRun) : Gang := at4 c 0x40000000 0
def setG6 (x : Word) (g : Gang) : Gang := { g with threads := g.threads.map fun t => { t with regs := fput t.regs 6 x } }
def tp (g : Gang) : State := padded (mapped (ts g)) false
def tagged (g : Gang) : State := padded (mapped (ts g)) true

theorem witness_BytesAndNumbers : HasPlace (tp (padGang tc)) .phys ∧ HasPlace (tp (padGang tc)) (.scratch 0) ∧
    HasPlace (tp (padGang tc)) (.priv 0) ∧ HasPlace (tp (padGang tc)) (.stack 0) ∧ ([5, 6] : List Byte)[1]? = some 6 ∧ 7 < 8 :=
  ⟨trivial, rfl, rfl, rfl, rfl, by decide⟩

theorem witness_MemoryCanonical : Memory.wf (mapped (ts (tg tc))).mem = true ∧ Memory.wf (mapped (ts (tg tc))).tags = true := by decide

/-- The last formable offset and the first beyond it; alignment; each aperture. -/
theorem witness_AddressChecks :
    effAddr 0x00FFFFFFFFFFFFFF 1 = none ∧ effAddr 0x00FFFFFFFFFFFFFF 0 = some 0x00FFFFFFFFFFFFFF ∧ effAddr 0x0100000000000000 0 = none ∧
    (effAddr 0x2 0).map (fun e => e.toNat % 4) = some 2 ∧ (effAddr 0x4 0).map (fun e => e.toNat % 4) = some 0 ∧
    apertureOf 0x4 = .global ∧ apertureOf 0x0FFFF00000000000 = .pooled ∧ apertureOf 0x0FFFE00000000000 = .stack ∧
    (pooledLoc (tp (padGang tc)) (padGang tc) 0x0FFFF00000000FFC 4 false).isSome ∧
    (pooledLoc (tp (padGang tc)) (padGang tc) 0x0FFFF00000001000 4 false).isSome = false ∧
    (stackLoc (stackGang tc) 0 0x0FFFE000000003FC 4).isSome ∧ (stackLoc (stackGang tc) 0 0x0FFFE00000000400 4).isSome = false := by
  decide +kernel

/-- Zero bits that are not; a rank without a block, and the block's own and another's rank; a task; the last byte of a lane's
slab, of another lane's by name, a lane's number where none is named, a spill slot in use and the first lane without one. -/
theorem witness_AddressChecks_bounds :
    (∀ x ∈ [(0x0FFFF00001000000#64).toNat, (0x0FFFF80000000000#64).toNat], x / 2 ^ 24 % 2 ^ 20 ≠ 0) ∧
    blockOfRank (tp (padGang tc)) (padGang tc) 1 = none ∧ (blockOfRank (tp (padGang tc)) (padGang tc) 0).isSome ∧
    (∃ cl, clusterOf (tp (padGang tc)) (padGang tc).clusterId = some cl ∧ cl.blocks.length ≤ 1) ∧
    (blockOfRank (tp { padGang tc with rank := 1 }) { padGang tc with rank := 1 } 0).isSome ∧ (tasked (padGang tc)).task ≠ 0 ∧
    pooledLoc (tp (padGang tc)) (padGang tc) 0x0FFFF00000001000 4 true = none ∧ apertureOf 0x0FFFF00000001000 = .pooled ∧
    (0x0FFFE00004000000#64).toNat / 2 ^ 26 % 2 ^ 18 ≠ 0 ∧ (stackGang tc).slab < (0x0FFFE000000003FD#64).toNat % 2 ^ 20 + 4 ∧
    (∀ x ∈ [(0x0FFFE000000003FC#64).toNat, (0x0FFFE00003F003FC#64).toNat, (0x0FFFE00001F003FC#64).toNat],
      x / 2 ^ 26 % 2 ^ 18 = 0 ∧ x % 2 ^ 20 + 4 ≤ (stackGang tc).slab) ∧
    (0x0FFFE00003F003FC#64).toNat / 2 ^ 25 % 2 = 1 ∧ (0x0FFFE00001F003FC#64).toNat / 2 ^ 25 % 2 = 0 ∧
    (let g : Gang := { crowded with slab := 1024 }
     inSpillSlot g 0 1020 4 = true ∧ inSpillSlot g 0 1004 4 = false ∧ inSpillSlot g 1 1020 4 = false) := by
  decide +kernel

/-- What an access's issue asks for: every lane passes its check; some lane fails it. -/
def AccessMet (op : AccessOp) (check : State → Gang → Nat → Except LaneFail Unit) : Prop :=
  (∃ s g c, Issues s op.cls g c ∧ ∀ l ∈ lanesOf (activeMask c), check s g l = .ok ()) ∧
  ∃ s g c f fs, Issues s op.cls g c ∧ failsOf ((lanesOf (activeMask c)).map (check s g)) = f :: fs

theorem accessMet_of (op : AccessOp) (check : State → Gang → Nat → Except LaneFail Unit) (g h : Gang) (tag : Bool)
    (h1 : issuer (padded (mapped (ts g)) tag) = some (g, oneLane)) (h2 : flagFull g oneLane op.cls = false)
    (h3 : check (padded (mapped (ts g)) tag) g 0 = .ok ()) (h4 : issuer (tp h) = some (h, oneLane)) (h5 : flagFull h oneLane op.cls = false)
    (f : LaneFail) (h6 : check (tp h) h 0 = .error f) (h7 : g.passed = []) (h8 : h.passed = []) : AccessMet op check := by
  have hc : ∀ (s : State) (x : Gang), x.passed = [] → heldAt s x oneLane = none := fun s x hx => by simp [heldAt, hx]
  refine ⟨⟨_, _, _, ⟨h1, h2, hc _ _ h7⟩, ?_⟩, _, _, _, f, [], ⟨h4, h5, hc _ _ h8⟩, ?_⟩
  · intro l hl
    have : l = 0 := by revert hl; show l ∈ [0] → _; simp
    rw [this, h3]
  · show failsOf [check (tp h) h 0] = _
    rw [h6]; rfl

theorem witness_AccessesIssue :
    AccessMet (.load 4 255 false 4 8) (checkLS 4 255 4 (.reg 8)) ∧ AccessMet (.load 16 1 false 4 8) (checkLS 16 1 4 (.quad 8)) ∧
    AccessMet (.store 8 3 4 8) (checkLS 8 3 4 (.pair 8)) ∧ AccessMet (.atom 0 true 6 4 8) (checkAtom 0 true 6 4 8) ∧
    AccessMet (.atom 12 false 6 4 0) (checkAtom 12 false 6 4 0) ∧ AccessMet (.bar 0 6 4 0) (checkBar 0 6 4 0) ∧
    AccessMet (.bar 1 0 4 8) (checkBar 1 0 4 8) ∧ AccessMet (.take 4 8) (checkCell [.pair 4, .pair 8] 4) ∧
    AccessMet (.refAdd 4 8) (checkCell [.pair 4, .reg 8] 4) ∧ AccessMet (.tagSet 4) (checkTag [.pair 4] 4 fun _ _ => 16) ∧
    AccessMet (.tagSetr 7 4) (checkTag [.pair 4, .reg 7] 4 fun g l => (rdReg g.level (thr g l) 7).toNat) ∧
    (∃ s g c, issuer s = some (g, c) ∧ flagFull g c (AccessOp.load 4 0 false 4 8).cls = true) :=
  ⟨accessMet_of _ _ (stackGang oneLane) (at4 oneLane 2 0x0FFFE000) false rfl rfl rfl rfl rfl _ rfl rfl rfl,
   accessMet_of _ _ (padGang oneLane) (globGang oneLane) false rfl rfl rfl rfl rfl _ rfl rfl rfl,
   accessMet_of _ _ (padGang oneLane) (globGang oneLane) false rfl rfl rfl rfl rfl _ rfl rfl rfl,
   accessMet_of _ _ (padGang oneLane) (stackGang oneLane) false rfl rfl rfl rfl rfl _ rfl rfl rfl,
   accessMet_of _ _ (globGang oneLane) (at4 oneLane 4 0) false rfl rfl rfl rfl rfl _ rfl rfl rfl,
   accessMet_of _ _ (padGang oneLane) (at4 oneLane 8 0x0FFFF000) false rfl rfl rfl rfl rfl _ rfl rfl rfl,
   accessMet_of _ _ (padGang oneLane) (at4 oneLane 0x1000 0x0FFFF000) false rfl rfl rfl rfl rfl _ rfl rfl rfl,
   accessMet_of _ _ (cellGang oneLane) (padGang oneLane) false rfl rfl rfl rfl rfl _ rfl rfl rfl,
   accessMet_of _ _ (cellGang oneLane) (at4 oneLane 4 0) false rfl rfl rfl rfl rfl _ rfl rfl rfl,
   accessMet_of _ _ (padGang oneLane) (at4 oneLane 8 0) true rfl rfl rfl rfl rfl _ rfl rfl rfl,
   accessMet_of _ _ (padGang oneLane) (at4 oneLane 8 0) true rfl rfl rfl rfl rfl _ rfl rfl rfl,
   ts (fullFlag (tg fc)), _, _, rfl, rfl⟩

/-- Accesses under way: lanes left; none left; a lane that failed. -/
def pendingGang (lanes : Word) (failed : List LaneFail) : Gang :=
  { stackGang tc with pending := some { op := .load 4 0 false 4 8, lanes := lanes, failed := failed } }

/-- The same with accesses of the instruction still outstanding; two instructions passed, with one access each. -/
def flying (g : Gang) (fl : List Flight) : Gang := { g with pending := g.pending.map fun p => { p with flights := fl } }
def queue2 (e f : Flight) : Gang := { padGang tc with passed := [{ flights := [e] }, { flights := [f] }] }

theorem witness_AccessSteps :
    (∀ fly ∈ [true, false], ∃ s g p, gangOf s 0 = some g ∧ s.focus = (if fly then [0, 0, 1] else [0]) ∧ g.pending = some p ∧ p.lanes ≠ 0) ∧
    (∃ s g p c, gangOf s 0 = some g ∧ s.focus = [0] ∧ g.pending = some p ∧ g.clause = some c ∧ c.hits = [] ∧ p.waiting = 0 ∧ p.failed = [] ∧
      p.beyond = none ∧ p.lanes = 0 ∧ p.flights = []) ∧
    (∃ s g p c, gangOf s 0 = some g ∧ s.focus = [0] ∧ g.pending = some p ∧ g.clause = some c ∧ c.hits = [] ∧ p.waiting = 0 ∧ p.failed = [] ∧
      p.beyond = none ∧ p.lanes = 0 ∧ p.flights ≠ []) ∧
    (∀ fl ∈ [[], [flLoad]], ∃ s g p c f fs, gangOf s 0 = some g ∧ s.focus = [0] ∧ g.pending = some p ∧ g.clause = some c ∧ c.hits = [] ∧
      p.failed = f :: fs ∧ p.lanes = 0 ∧ p.flights = fl ∧ p.beyond = none) ∧
    (∃ s g f, gangOf s 0 = some g ∧ s.focus = [0, 2] ∧ (outstanding g)[1]? = some (1, f) ∧
      performable s g.core ((outstanding g).take 1) 1 f = true) ∧
    ∃ s g f, gangOf s 0 = some g ∧ s.focus = [0, 2] ∧ (outstanding g)[1]? = some (1, f) ∧
      performable s g.core ((outstanding g).take 1) 1 f = false := by
  refine ⟨fun fly h => ?_, ⟨focused (tp (pendingGang 0 [])) [0], _, _, _, rfl, rfl, rfl, rfl, rfl, rfl, rfl, rfl, rfl, rfl⟩,
    ⟨focused (tp (flying (pendingGang 0 []) [flLoad])) [0], _, _, _, rfl, rfl, rfl, rfl, rfl, rfl, rfl, rfl, rfl, by decide⟩,
    fun fl h => ⟨focused (tp (flying (pendingGang 0 [⟨3, 0x16, 2, 0⟩]) fl)) [0], _, _, _, _, _, rfl, rfl, rfl, rfl, rfl, rfl, rfl, rfl, rfl⟩,
    ⟨focused (tp (queue2 (flStore 4) flLoad)) [0, 2], _, flLoad, rfl, rfl, rfl, by decide +kernel⟩,
    ⟨focused (tp (queue2 flLoad (flStore 0))) [0, 2], _, flStore 0, rfl, rfl, rfl, by decide +kernel⟩⟩
  cases fly
  · exact ⟨focused (tp (pendingGang 0x80000000 [])) [0], _, _, rfl, rfl, rfl, by decide⟩
  · exact ⟨focused (tp (pendingGang 0x80000000 [])) [0, 0, 1], _, _, rfl, rfl, rfl, by decide⟩

/-- A gang that is to stop with a `take` under way; a store that its target cannot be reached for, and a release's. -/
theorem witness_AccessSteps_stops :
    (∃ s g p, gangOf s 0 = some g ∧ s.focus = [0] ∧ g.pending = some p ∧ mustStop s g = true ∧ ∃ a d, p.op = .take a d) ∧
    (∃ (s : State) (f : Flight), f.travels s = false ∧ f.loc.place = .phys) ∧ (∃ e : Flight, e.rel = true ∧ e.returns = false) ∧
    ∃ s g e f, sameRemote s (g : Gang).core e f = true :=
  ⟨⟨focused (tp { pendingGang 1 [] with stopping := true, pending := some { op := .take 4 8, lanes := 1 } }) [0], _, _, rfl, rfl, rfl, rfl, 4, 8, rfl⟩,
   ⟨{ State.reset with dies := [{ failedPorts := [0, 1, 2, 3, 4, 5, 6, 7, 8] }, { failedPorts := [0, 1, 2, 3, 4, 5, 6, 7, 8] }] },
     { flStore 0 with loc := ⟨.phys, 2 ^ 47⟩ }, by decide +kernel, rfl⟩, ⟨{ flStore 0 with rel := true }, rfl, rfl⟩,
   tp (padGang tc), { padGang tc with core := 1 }, flStore 0, flStore 4, by decide +kernel⟩

/-- The last double of the scratchpad, the last quad of a slab, a word of global memory; a store and a load of a scratchpad
word performed late, the load from memory and from its thread's own store. -/
theorem witness_LoadAndStoreEffects :
    (∃ s g lane ea l, gangOf s g.id = some g ∧ lane < g.threads.length ∧ outstanding g = [] ∧
      effAddr (rdPair g.level (thr g lane) 4) (((511 % 1024 : Nat) : Int) * 8) = some ea ∧
      arrive s g lane ea 8 { r := true } = (s, .ok (.core l)) ∧ arrive s g lane ea 8 { w := true, reads := false } = (s, .ok (.core l)) ∧
      l.place ≠ .phys ∧ g.level = 0) ∧
    (∃ s g lane ea l, gangOf s g.id = some g ∧ lane < g.threads.length ∧ outstanding g = [] ∧
      effAddr (rdPair g.level (thr g lane) 4) (((63 % 1024 : Nat) : Int) * 16) = some ea ∧ arrive s g lane ea 16 { r := true } = (s, .ok (.core l)) ∧ l.place ≠ .phys) ∧
    (∃ s g ea s1 pa leaf, gangOf s1 g.id = some g ∧ 0 < g.threads.length ∧ outstanding g = [] ∧ effAddr (rdPair g.level (thr g 0) 4) 0 = some ea ∧
      arrive s g 0 ea 4 { r := true } = (s1, .ok (.glob pa leaf)) ∧ (∀ k < 4, linkOpen s1 pa k = true) ∧ leafCell leaf = false ∧ leafSum leaf = false) ∧
    (∃ s g, ∃ f : Flight, gangOf s g.id = some g ∧ f.op = .store 4 0 4 8 ∧ HasPlace s f.loc.place ∧ f.data < 256 ^ 4 ∧ f.loc.place ≠ .phys) ∧
    (∀ earlier ∈ [[], [(0, flStore 4)], [(0, flStore 0)]], ∃ s g, gangOf s g.id = some g ∧ flLoad.op = .load 4 0 false 4 8 ∧ flLoad.dst.Nodup ∧
      flLoad.lane < g.threads.length ∧ ((∀ e ∈ earlier, e.2.lane = flLoad.lane → e.2.stores = true → e.2.meets flLoad = false) ∨
        ∃ j e o b c, earlier.getLast? = some (j, e) ∧ e.lane = flLoad.lane ∧ e.op = .store 4 o b c ∧ e.loc = flLoad.loc)) ∧
    (1 ∈ [1, 2, 4, 8, 16] ∧ 16 ∈ [1, 2, 4, 8, 16]) := by
  refine ⟨⟨tp (padGang tc), padGang tc, 31, 0x0FFFF00000000FF8, ⟨.scratch 0, 0xFF8⟩, rfl, by decide, rfl, by decide +kernel, rfl, rfl, by decide, rfl⟩,
    ⟨tp (stackGang tc), stackGang tc, 31, 0x0FFFE000000003F0, ⟨.stack 0, 31 * 2 ^ 20 + 0x3F0⟩, rfl, by decide, rfl, by decide +kernel, rfl, by decide⟩,
    ⟨tp (globGang tc), globGang tc, 64, (arrive (tp (globGang tc)) (globGang tc) 0 64 4 { r := true }).1, 64, 0x41F, rfl, by decide, rfl, by decide +kernel,
      rfl, by decide +kernel, by decide, by decide⟩,
    ⟨tp (padGang tc), padGang tc, flStore 0, rfl, rfl, rfl, by decide, by decide⟩,
    fun earlier h => ⟨tp (padGang tc), padGang tc, rfl, rfl, by decide, by decide, ?_⟩, by decide⟩
  simp only [List.mem_cons, List.not_mem_nil, or_false] at h
  rcases h with rfl | rfl | rfl
  · exact .inl (by decide)
  · exact .inl (by decide)
  · exact .inr ⟨0, flStore 0, 0, 4, 8, rfl, rfl, rfl, rfl⟩

/-- A store through a leaf that is not dirty, whose entry stands no longer; a stack access below every spill slot. -/
theorem witness_LoadAndStoreEffects_late :
    (∃ s g, ∃ f : Flight, ∃ at_ e, gangOf s g.id = some g ∧ f.op = .store 4 0 4 8 ∧ f.loc.place = .phys ∧ f.leaf = some (at_, e) ∧ e.getLsbD 11 = false ∧
      ∀ x ∈ found s (.core g.core) (launchD s g.launch).ctx (vaOf f.ea), paOf x.leaf x.size (vaOf f.ea) ≠ f.loc.off) ∧
    (∀ off ∈ [31 * 2 ^ 20 + 0x3F0, 15 * 2 ^ 20 + 0x3E0], 16 ≤ off / 2 ^ 20 ∨ off % 2 ^ 20 + 16 + 16 ≤ (stackGang tc).slab) :=
  ⟨⟨tp (globGang tc), globGang tc, { flStore 0 with ea := 64, loc := ⟨.phys, 64⟩, leaf := some (0x30000, 0x41F) }, 0x30000, 0x41F, rfl, rfl, rfl, rfl,
     by decide, by decide +kernel⟩, by decide⟩

/-- An add to the last word of the scratchpad, and to a word of global memory. -/
theorem witness_AtomicEffects :
    (∃ s g s1 t, s.gangs = s1.gangs ∧ outstanding g = [] ∧ gangOf s1 g.id = some g ∧ 31 < g.threads.length ∧
      arrive s g 31 (rdPair g.level (thr g 31) 4) 4 { r := true, w := true, sum := some false } = (s1, .ok t) ∧ cellBusy s1 t = false ∧
      HasPlace s1 t.loc.place ∧ (launchD s1 g.launch).desc.recording = false ∧ (launchD s1 g.launch).desc.replaying = false) ∧
    (∃ s g s1 t, s.gangs = s1.gangs ∧ outstanding g = [] ∧ gangOf s1 g.id = some g ∧ 0 < g.threads.length ∧
      arrive s g 0 (rdPair g.level (thr g 0) 4) 8 { r := true, w := true, sum := some false } = (s1, .ok t) ∧ cellBusy s1 t = false ∧
      HasPlace s1 t.loc.place ∧ (launchD s1 g.launch).desc.recording = false ∧ (launchD s1 g.launch).desc.replaying = false) ∧ 12 ≠ 11 ∧ 12 ≤ 12 :=
  ⟨⟨tp (at4 tc 0xFFC 0x0FFFF000), at4 tc 0xFFC 0x0FFFF000, _, .core ⟨.scratch 0, 0xFFC⟩, rfl, rfl, rfl, by decide, rfl, rfl, rfl, rfl, rfl⟩,
   ⟨tp (globGang tc), globGang tc, (arrive (tp (globGang tc)) (globGang tc) 0 64 8 { r := true, w := true, sum := some false }).1, .glob 64 0x41F,
    rfl, rfl, rfl, by decide, rfl, rfl, trivial, rfl, rfl⟩, by decide⟩

/-- A page of sums at the start of memory; one shadow, and more of them than its slice holds, with no spill area. -/
def summed (s : State) : State := { s with mem := wrByte s.mem 0x30001 0x06 }
def fullSlice (s : State) : State := { s with shadows := List.replicate (Config.sliceShadows + 1) (68, { acc := 0 }) }

theorem witness_AtomicEffects_sums :
    (∃ s g s1 pa leaf, outstanding g = [] ∧ gangOf s1 g.id = some g ∧ 0 < g.threads.length ∧ (∀ k < 4, linkOpen s1 pa k = true) ∧
      arrive s g 0 (rdPair g.level (thr g 0) 4) 4 { r := true, w := true, sum := some true } = (s1, .ok (.glob pa leaf)) ∧
      cellBusy s1 (.glob pa leaf) = false ∧ apertureOf (rdPair g.level (thr g 0) 4) = .global ∧ shadowPoisoned s1 pa = false) ∧
    (∀ s : State, ∃ s2 old new, addToSum { s with shadows := [(64, { acc := 5 })] } 64 0x3F800000 = .ok (s2, old, new)) ∧
    shadowHeld { State.reset with shadows := [(64, { acc := 5 })] } 64 = true ∧ addToSum (fullSlice State.reset) 64 0x3F800000 = .error 64 := by
  refine ⟨⟨summed (tp (globGang tc)), globGang tc, (arrive (summed (tp (globGang tc))) (globGang tc) 0 64 4 { r := true, w := true, sum := some true }).1,
      64, 0x61F, rfl, rfl, by decide, by decide +kernel, rfl, rfl, by decide, by decide +kernel⟩, fun s => ⟨_, _, _, rfl⟩, rfl, ?_⟩
  have hl : (heldShadows (fullSlice State.reset) 64).length = Config.sliceShadows + 1 := by simp [heldShadows, fullSlice]
  have hf : ∀ n, fget (List.replicate n ((68 : Nat), ({ acc := 0 } : Shadow))) 64 = none := by
    intro n; induction n <;> simp_all [fget, List.replicate_succ]
  have hs : shadowHeld (fullSlice State.reset) 64 = false := by
    show ((fget (List.replicate (Config.sliceShadows + 1) ((68 : Nat), ({ acc := 0 } : Shadow))) 64).map fun h => h.spilled.isNone).getD false = false
    rw [hf]; rfl
  have hp : spillPlace (fullSlice State.reset) 0 64 = none := by simp [spillPlace, fullSlice, State.reset, mgmtOf, dieOf]
  have hr : makeShadowRoom (fullSlice State.reset) 64 = .error 64 := by
    unfold makeShadowRoom
    rw [if_neg (by rintro (h | h); exacts [h rfl, by omega])]
    simp only [show (64 : Nat) / 2 ^ 46 % 2 = 0 from rfl, hp]
    cases leastUsed (heldShadows (fullSlice State.reset) 64) <;> rfl
  simp only [addToSum, hs, hr, Bool.false_eq_true, if_false]

theorem witness_ExactAddition :
    unpack fp32 1 = .fin false 1 (-149) ∧ unpack fp32 0x7F800001 = .nan true ∧ unpack fp32 0xFF800000 = .inf true ∧
    (let h : Shadow := { acc := 0, nan := true }; h.nan = true) ∧ (let h : Shadow := { acc := 0, pinf := true, ninf := true }; h.pinf = true ∧ h.ninf = true) ∧
    (let h : Shadow := { acc := 0, pinf := true }; h.nan = false ∧ h.pinf = true ∧ h.ninf = false) ∧
    (let h : Shadow := { acc := 1 }; h.nan = false ∧ h.pinf = false ∧ h.ninf = false ∧ h.acc ≠ 0) := by decide +kernel

/-- The scratchpad with a barrier object in its first granule. -/
def barred (o : BarObj) (g : Gang) : State := writeBar (tp g) ⟨.scratch 0, 0⟩ o
def barL : Loc := ⟨.scratch 0, 0⟩

theorem witness_BarrierEffects : HasPlace (tp (padGang tc)) barL.place ∧ 32767 < 2 ^ 15 ∧ 65535 < 2 ^ 16 ∧
    (let o := readBar (barred ⟨false, 1, 32767, 0, 0⟩ (padGang tc)) barL
     o.pending = 1 ∧ o.bal = 0 ∧ o.stat.getLsbD 1 = false ∧ o.expected < 2 ^ 15 ∧ 0 < o.pending) ∧
    1 < (readBar (barred ⟨true, 2, 2, 0, 0⟩ (padGang tc)) barL).pending ∧
    (let o := readBar (barred ⟨false, 0, 2, 16, 0⟩ (padGang tc)) barL
     o.pending = 0 ∧ o.bal ≠ 0 ∧ o.bal + BitVec.ofInt 32 (-15) ≠ 0) ∧
    (let o := readBar (barred ⟨false, 0, 2, 16, 2⟩ (padGang tc)) barL
     o.pending = 0 ∧ o.stat.getLsbD 1 = true ∧ (-16 : Int) < 0) ∧
    (let o := readBar (barred ⟨false, 0, 2, 16, 0⟩ (padGang tc)) barL
     o.pending = 0 ∧ o.bal + BitVec.ofInt 32 (-16) = 0 ∧ o.stat.getLsbD 1 = false) ∧
    (let o := readBar (barred ⟨true, 0, 2, 0, 0⟩ (padGang tc)) barL; o.pending = 0 ∧ o.bal = 0 ∧ o.stat.getLsbD 1 = false) ∧
    (∀ rs ∈ [true, false], ∃ s g t, gangOf s g.id = some g ∧ 31 < g.threads.length ∧
      arrive s g 31 (rdPair g.level (thr g 31) 4) 16 { r := true, w := true, reads := rs } = (s, .ok t) ∧
      (∀ fn ∈ [0, 1, 2, 3], reachable s g 31 (.bar fn 6 4 8) (rdPair g.level (thr g 31) 4) t = true) ∧
      (launchD s g.launch).desc.recording = false ∧ (launchD s g.launch).desc.replaying = false) ∧
    ∃ s g t, gangOf s g.id = some g ∧ arrive s g 0 (rdPair g.level (thr g 0) 4) 16 { r := true, w := true, reads := false } = (s, .ok t) ∧
      reachable s g 0 (.bar 0 6 4 8) (rdPair g.level (thr g 0) 4) t = false :=
  ⟨rfl, by decide, by decide, by decide +kernel, by decide +kernel, by decide +kernel, by decide +kernel, by decide +kernel, by decide +kernel,
   fun rs h => ⟨barred ⟨true, 1, 1, 0, 0⟩ (padGang tc), padGang tc, .core barL, rfl, by decide, by cases rs <;> rfl, by decide +kernel, rfl, rfl⟩,
   tp { padGang tc with passed := [{ flights := [flStore 4] }] }, { padGang tc with passed := [{ flights := [flStore 4] }] }, .core barL, rfl, rfl, by decide +kernel⟩

/-- A word that is a synchronising operation, `bar.blk`, and one that is none, `nop`; a launch without a log. -/
theorem witness_Completion : (gangOf (ts (tg tc)) 0).isSome ∧ tc.hits = [] ∧
    (∃ i, decodeWord (wordOf { tc with words := [0x0C000000] }) = .ok i ∧ syncInstr i = false) ∧
    (∃ i, decodeWord (encode .barBlk) = .ok i ∧ syncInstr i = true) ∧
    (launchD (ts (tg tc)) 0).desc.recording = false ∧ (launchD (ts (tg tc)) 0).desc.replaying = false :=
  ⟨rfl, rfl, ⟨.nop, by decide, rfl⟩, ⟨.barBlk, by decide, rfl⟩, rfl, rfl⟩

theorem witness_WaitingResults_bar :
    (∃ s g c s1 t, Issues s .none g c ∧ windowOnce g (activeMask c) [] [.pair 4, .reg 7] = none ∧
      stage1 s g 0 (rdPair g.level (thr g 0) 4) 0 16 16 true false false = .ok (rdPair g.level (thr g 0) 4) ∧
      arrive s g 0 (rdPair g.level (thr g 0) 4) 16 { r := true } = (s1, .ok t) ∧ g.gate = none ∧
      (launchD s1 g.launch).desc.recording = false ∧ (launchD s1 g.launch).desc.replaying = false ∧
      (readBar s1 t.loc).phase ≠ (rdReg g.level (thr g 0) 7).getLsbD 0) ∧
    (∃ s g c s1 t, Issues s .none g c ∧ windowOnce g (activeMask c) [] [.pair 4, .reg 7] = none ∧
      stage1 s g 0 (rdPair g.level (thr g 0) 4) 0 16 16 true false false = .ok (rdPair g.level (thr g 0) 4) ∧
      arrive s g 0 (rdPair g.level (thr g 0) 4) 16 { r := true } = (s1, .ok t) ∧ g.gate = none ∧
      (launchD s1 g.launch).desc.recording = false ∧ (launchD s1 g.launch).desc.replaying = false ∧
      (readBar s1 t.loc).phase = (rdReg g.level (thr g 0) 7).getLsbD 0) :=
  ⟨⟨barred ⟨true, 1, 1, 0, 0⟩ (padGang tc), padGang tc, _, _, .core barL, ⟨rfl, rfl, rfl⟩, rfl, by decide +kernel, rfl, rfl, rfl, rfl, by decide +kernel⟩,
   ⟨barred ⟨false, 1, 1, 0, 0⟩ (padGang tc), padGang tc, _, _, .core barL, ⟨rfl, rfl, rfl⟩, rfl, by decide +kernel, rfl, rfl, rfl, rfl, by decide +kernel⟩⟩

/-- `mwait` on a word that differs from g6 and equals g7. -/
theorem witness_WaitingResults_word :
    ∃ s g c s1 l v, Issues s .none g c ∧ windowOnce g (activeMask c) [.reg 8] [.pair 4, .reg 6] = none ∧
      stage1 s g 0 (rdPair g.level (thr g 0) 4) 0 4 4 true false true = .ok (rdPair g.level (thr g 0) 4) ∧
      mwaitRead s g 0 (rdPair g.level (thr g 0) 4) = (s1, .ok (l, v)) ∧ v ≠ rdReg g.level (thr g 0) 6 ∧ v = rdReg g.level (thr g 0) 7 ∧
      windowOnce g (activeMask c) [.reg 8] [.reg 4, .reg 6] = none ∧ g.task = 0 :=
  ⟨tp (padGang tc), padGang tc, _, _, ⟨.scratch 0, 0⟩, 0, ⟨rfl, rfl, rfl⟩, rfl, by decide +kernel, rfl, by decide, by decide, rfl, rfl⟩

/-- A gang that is to stop; one that is not; a granule that `mwait` reads in the global window. -/
theorem witness_WaitingResults_stops :
    (∃ s g c, Issues s .none g c ∧ mustStop s g = true) ∧ (∃ s g c, Issues s .none g c ∧ mustStop s g = false ∧ g.task = 0 ∧
      windowOnce g (activeMask c) [.reg 8] [.reg 4, .reg 6] = none) ∧
    (∃ s g s1 t, arrive s g 0 (rdPair g.level (thr g 0) 4) 4 { r := true, sum := some false } = (s1, .ok t) ∧ cellBusy s1 t = false ∧
      ∃ pa leaf, t = .glob pa leaf) ∧
    (∃ s g c t, Issues s .none g c ∧ mustStop s g = false ∧ taskOf s g.task = some t ∧ recordPoisoned s g.task [1] = true) ∧
    ∃ s g hits, (hits : List Hit) = hitsOf s g 0 (rdPair g.level (thr g 0) 4) 4 false true ∧ stopHeld s g hits = true :=
  ⟨⟨ts { tg tc with stopping := true }, _, _, ⟨rfl, rfl, rfl⟩, rfl⟩, ⟨ts (tg tc), _, _, ⟨rfl, rfl, rfl⟩, rfl, rfl, rfl⟩,
   ⟨tp (globGang tc), globGang tc, (arrive (tp (globGang tc)) (globGang tc) 0 64 4 { r := true, sum := some false }).1, .glob 64 0x41F, rfl, rfl, 64, 0x41F, rfl⟩,
   ⟨withTask (ts (tasked (tg tc))) [1] 0, _, _, _, ⟨rfl, rfl, rfl⟩, rfl, rfl, rfl⟩,
   onLaunch { crammed (ts (padGang tc)) with cores := [(0, { wpts := [(0, { gang := 0, lane := 0, scope := 0, kinds := 3, size := 4, addr := 0x01FFF00000000000 })] })] }
     fun L => { L with stopMode := 1 }, padGang tc, _, rfl, by decide +kernel⟩

theorem witness_WaitingResults_tasks :
    (∃ s g c, Issues s .none g c ∧ g.task ≠ 0 ∧ taskOf s g.task = none) ∧
    (∃ s g c t, Issues s .none g c ∧ taskOf s g.task = some t ∧ t.join = 0 ∧ recordPoisoned s g.task [1] = false) ∧
    (∃ s g c t, Issues s .none g c ∧ taskOf s g.task = some t ∧ t.join ≠ 0 ∧ recordPoisoned s g.task [1] = false) ∧
    (∃ s g c s1 t, Issues s .none g c ∧ windowOnce g (activeMask c) [] [.pair 4] = none ∧
      stage1 s g 0 (rdPair g.level (thr g 0) 4) 0 8 8 false false true = .ok (rdPair g.level (thr g 0) 4) ∧
      arrive s g 0 (rdPair g.level (thr g 0) 4) 8 { r := true, cell := true } = (s1, .ok t) ∧ g.gate = none) ∧
    ∃ s g c s1 home, Issues s .none g c ∧ g.task ≠ 0 ∧ g.level = 0 ∧ windowOnce g (activeMask c) [.reg 8] [.pair 4] = none ∧
      homeOf s g 0 (rdPair g.level (thr g 0) 4) = (s1, .ok home) :=
  ⟨⟨ts (tasked (tg tc)), _, _, ⟨rfl, rfl, rfl⟩, by decide, rfl⟩, ⟨withTask (ts (tasked (tg tc))) [] 0, _, _, _, ⟨rfl, rfl, rfl⟩, rfl, rfl, rfl⟩,
   ⟨withTask (ts (tasked (tg tc))) [] 4095, _, _, _, ⟨rfl, rfl, rfl⟩, rfl, by decide, rfl⟩,
   ⟨tp (cellGang tc), cellGang tc, _, _, _, ⟨rfl, rfl, rfl⟩, rfl, by decide +kernel, rfl, rfl⟩,
   tp (tasked (globGang tc)), tasked (globGang tc), _, _, 0, ⟨rfl, rfl, rfl⟩, by decide, rfl, rfl, rfl⟩

/-- The cell at 1 GiB in a state, with a payload. -/
def celled (g : Gang) (p : Dbl) (st : Nat) : State := setCell (tp g) 0x40000000 p st
def cellT : Target := .glob 0x40000000 0x4000051F

theorem witness_CellEffects :
    0x40000008 % 8 = 0 ∧ 3 < 4 ∧ 0x40000000 ≠ 0x40000008 ∧
    (∀ st ∈ [0, 1, 2, 3], ∃ s1, arrive (celled (cellGang tc) 0x0001000000000000 st) (cellGang tc) 31 0x40000000 8 { r := true, cell := true } = (s1, .ok cellT)) ∧
    (∀ st ∈ [0, 1, 2, 3], ∃ s1, arrive (celled (cellGang tc) 0xFFFF000000000000 st) (cellGang tc) 31 0x40000000 8 { w := true, cell := true } = (s1, .ok cellT)) ∧
    (∀ st ∈ [0, 1, 2, 3], ∃ s1, arrive (celled (cellGang tc) 0xFFFF000000000000 st) (cellGang tc) 31 0x40000000 8 { r := true, w := true, cell := true } = (s1, .ok cellT)) := by
  refine ⟨rfl, by decide, by decide, ?_, ?_, ?_⟩ <;> intro st h <;> simp only [List.mem_cons, List.not_mem_nil, or_false] at h <;>
    rcases h with rfl | rfl | rfl | rfl <;> exact ⟨_, rfl⟩

/-- The cell with no access of its lane outstanding, or with a store to it. -/
theorem witness_CellEffects_order :
    (∀ op, reachable (celled (cellGang tc) 0 0) (cellGang tc) 31 op 0x40000000 cellT = true) ∧
    (let g : Gang := { cellGang tc with passed := [{ flights := [{ flStore 0 with ea := 0x40000000, loc := ⟨.phys, 0x40000000⟩ }] }] }
     ∀ op ∈ [AccessOp.take 4 8, .probe 4 8, .resolve 6 4, .refAdd 4 8, .refDrop 4 8],
       reachable (celled g 0 0) g 0 op 0x40000000 cellT = false) ∧
    (cellGang tc).level = 0 ∧ reclaiming (celled (cellGang tc) 0 0) (cellGang tc) = none ∧ (∀ x, cellT.loc.place ≠ .stack x) ∧
    ∃ s g, ∃ f : Flight, gangOf s g.id = some g ∧ f.op = .probe 4 8 ∧ f.lane < g.threads.length ∧ f.dst.length = 1 :=
  ⟨fun op => by
     have hm : (0x40000000 / 2 ^ 46 / 2 == (celled (cellGang tc) 0 0).module) = true := by decide +kernel
     have hl : ∀ k, linkOpen (celled (cellGang tc) 0 0) 0x40000000 k = true := fun k => by unfold linkOpen; rw [hm]; rfl
     have ho : outstanding (cellGang tc) = [] := rfl
     unfold reachable canPerform performable
     rw [ho]
     simp only [Flight.travels, cellT, Target.loc, physLoc, hl, List.any_nil, Bool.not_false, Bool.and_self],
   by decide +kernel, rfl, rfl, fun x => by simp [cellT, Target.loc, physLoc],
   celled (cellGang tc) 0 0, cellGang tc, { flLoad with op := .probe 4 8, ea := 0x40000000, loc := ⟨.phys, 0x40000000⟩ }, rfl, rfl, by decide, rfl⟩

/-- The cell at 1 GiB suspended, with two waiters in records 0 and 65,534, and a dormant task; a gang of it waits. -/
def queuedCell : State :=
  { celled { cellGang tc with wait := .blocked 5 (.cells false) 7 } 0x00010000_00010005 2 with
    dies := [{ mgmt := { ctxtab := 0x8000, pool := 0x100000 }, waiters := [(0, { gang := 0, cell := 0x40000000, next := 65534 }),
      (65534, { gang := 0, cell := 0x40000000, next := 65535 })] }, {}],
    tasks := [{ aTask [] 0 with state := 1 }] }

theorem witness_CellEffects_waiters :
    cellState queuedCell 0x40000000 ≠ 0 ∧ (∀ tk ∈ queuedCell.tasks, tk.index < 4096) ∧ poolDie 0x40000000 < queuedCell.dies.length ∧
    [0, 65534].Nodup ∧ WaiterChain (dieOf queuedCell (poolDie 0x40000000)).waiters (waitersOf (cellPayload queuedCell 0x40000000)) [0, 65534] ∧
    (taskOf queuedCell (handleOf (cellPayload queuedCell 0x40000000))).map Task.state = some 1 ∧
    (gangOf queuedCell 0).map Gang.wait = some (.blocked 5 (.cells false) 7) := by
  refine ⟨by decide +kernel, by decide, by decide, by decide, ?_, by decide +kernel, by decide +kernel⟩
  have h : waitersOf (cellPayload queuedCell 0x40000000) = 0 := by decide +kernel
  rw [h]
  exact ⟨rfl, by decide, { gang := 0, cell := 0x40000000, next := 65534 }, rfl, rfl, by decide, { gang := 0, cell := 0x40000000, next := 65535 }, rfl, rfl⟩

/-- A task that holds the cell's task once, or not; one whose record is under an error; a cell with no room for a consumer. -/
def holding (held : List Word) (bad : List Nat) (n : Nat) : State :=
  { celled (tasked (cellGang tc)) (BitVec.ofNat 64 (n * 2 ^ 48 + 0x00020007)) 1 with
    tasks := [{ aTask bad 0 with held := held, nheld := held.length }, { aTask [] 0 with index := 7, gen := 2, state := 3 }] }

theorem witness_CellEffects_held :
    (let s := holding [0x00020007] [] 1; let p := cellPayload s 0x40000000
     (taskOf s 0x00010005).map (fun t => (t.nheld, (List.range t.nheld).map fun i => t.held.getD i 0)) = some (1, [handleOf p]) ∧
     recordPoisoned s 0x00010005 [2, 3] = false ∧ cellState s 0x40000000 ≠ 0 ∧ p.toNat / 2 ^ 48 ≤ 1 ∧ (taskOf s (handleOf p)).map Task.state = some 3) ∧
    (let s := holding [0, 0x00020007, 0] [] 65534; let p := cellPayload s 0x40000000
     (taskOf s 0x00010005).map Task.nheld = some 3 ∧ 1 < p.toNat / 2 ^ 48 ∧ p.toNat / 2 ^ 48 ≠ 65535) ∧
    (let s := holding [] [] 2; (taskOf s 0x00010005).map Task.nheld = some 0) ∧
    (let s := { holding [] [] 2 with tasks := [{ aTask [1] 0 with index := 7, gen := 2 }] }; let p := cellPayload s 0x40000000
     cellState s 0x40000000 ≠ 0 ∧ recordPoisoned s (handleOf p) [1] = true) ∧
    (∃ s1, arrive (holding [] [] 2) (tasked (cellGang tc)) 0 0x40000000 8 { r := true, cell := true } = (s1, .ok cellT) ∧ cellT.isOpen s1 = true ∧
      gangOf s1 0 = some (tasked (cellGang tc)) ∧ recordPoisoned s1 (handleOf (cellPayload s1 0x40000000)) [1] = false) := by
  refine ⟨by decide +kernel, by decide +kernel, by decide +kernel, by decide +kernel, _, rfl, rfl, rfl, rfl⟩

theorem witness_CellEffects_states :
    (∀ st ∈ [0, 1, 2, 3], cellState (celled (cellGang tc) 0 st) 0x40000000 = st) ∧
    (let s := celled (tasked (cellGang tc)) 0x00010005 2; selfDependent s (tasked (cellGang tc)) (handleOf (cellPayload s 0x40000000)) = true) ∧
    (let s := celled (cellGang tc) 0 2; selfDependent s (cellGang tc) (handleOf (cellPayload s 0x40000000)) = false ∧
      taskOf s 0 = none ∧ reclaiming s (cellGang tc) = none ∧ (gangOf s 0).isSome ∧ (launchD s 0).desc.recording = false ∧ (launchD s 0).desc.replaying = false) ∧
    (cellPayload (celled (cellGang tc) 0xFFFF000000000000 1) 0x40000000).toNat / 2 ^ 48 = 65535 ∧
    1 < (cellPayload (celled (cellGang tc) 0x0002000000000000 1) 0x40000000).toNat / 2 ^ 48 := by decide +kernel

/-- `tag.setr` over no granule, and over one with the second beyond the lane's slab. -/
theorem witness_TagEffects_ranges :
    (∃ s g xs t, gangOf s g.id = some g ∧ AllGranules g 0 (rdPair g.level (thr g 0) 4) xs 0 s t ∧ xs.length = (rdReg g.level (thr g 0) 7).toNat / 16) ∧
    (∃ s g xs t, gangOf s g.id = some g ∧ AllGranules g 0 (rdPair g.level (thr g 0) 4) xs 0 s t ∧ xs.length = 1 ∧ 1 = (rdReg g.level (thr g 0) 6).toNat / 16) ∧
    ∃ s g xs t e f t1, gangOf s g.id = some g ∧ AllGranules g 0 (rdPair g.level (thr g 0) 4) xs 0 s t ∧
      xs.length < (rdReg g.level (thr g 0) 6).toNat / 16 ∧ effAddr (rdPair g.level (thr g 0) 4) (16 * xs.length : Nat) = some e ∧
      apertureOf e = apertureOf (rdPair g.level (thr g 0) 4) ∧ tagTarget t g 0 e true = (t1, .error f) :=
  ⟨⟨tagged (padGang tc), padGang tc, [], _, rfl, rfl, rfl⟩,
   ⟨tagged (setG6 16 (padGang tc)), setG6 16 (padGang tc), [.core ⟨.scratch 0, 0⟩], _, rfl, ⟨_, _, rfl, rfl, rfl, rfl⟩, rfl, by decide +kernel⟩,
   tagged (setG6 32 (at4 tc 0xFF0 0x0FFFF000)), setG6 32 (at4 tc 0xFF0 0x0FFFF000), [.core ⟨.scratch 0, 0xFF0⟩], _, 0x0FFFF00000001000, _, _, rfl, ⟨_, _, rfl, rfl, rfl, rfl⟩,
     by decide +kernel, rfl, rfl, rfl⟩

theorem witness_TagEffects :
    (∃ s g lane s1 t, gangOf s1 g.id = some g ∧ lane < g.threads.length ∧ HasPlace s1 t.loc.place ∧
      effAddr (rdPair g.level (thr g lane) 4) 0 = some (rdPair g.level (thr g lane) 4) ∧
      tagTarget s g lane (rdPair g.level (thr g lane) 4) true = (s1, .ok t)) ∧
    (∃ s g lane s1 t, gangOf s1 g.id = some g ∧ lane < g.threads.length ∧ HasPlace s1 t.loc.place ∧
      effAddr (rdPair g.level (thr g lane) 4) 0 = some (rdPair g.level (thr g lane) 4) ∧
      tagTarget s g lane (rdPair g.level (thr g lane) 4) true = (s1, .ok t)) ∧
    ∃ s g lane s1 t, gangOf s1 g.id = some g ∧ lane < g.threads.length ∧ HasPlace s1 t.loc.place ∧
      tagTarget s g lane (rdPair g.level (thr g lane) 4) false = (s1, .ok t) :=
  ⟨⟨tagged (padGang tc), padGang tc, 31, tagged (padGang tc), .core ⟨.scratch 0, 0⟩, rfl, by decide, rfl, by decide +kernel, rfl⟩,
   ⟨tp (cellGang tc), cellGang tc, 0, (tagTarget (tp (cellGang tc)) (cellGang tc) 0 0x40000000 true).1, cellT, rfl, by decide, trivial, by decide +kernel, rfl⟩,
   tp (globGang tc), globGang tc, 31, (tagTarget (tp (globGang tc)) (globGang tc) 31 64 false).1, .glob 64 0x41F, rfl, by decide, trivial, rfl⟩

/-- A granule that the lane's outstanding store touches, and one with nothing outstanding; the last bytes of a slab whose colour
is read without waiting. -/
theorem witness_TagEffects_order :
    (let g : Gang := { padGang tc with passed := [{ flights := [flStore 4] }] }
     reachable (tagged g) g 0 (.tagSet 4) (rdPair g.level (thr g 0) 4) (.core barL) = false ∧
     reachable (tagged g) g 0 (.tagGet 4 8) (rdPair g.level (thr g 0) 4) (.core barL) = false ∧
     tagStays (tagged g) g 0 (rdPair g.level (thr g 0) 4) true (.tagSet 4) = true) ∧
    (let g := padGang tc
     reachable (tagged g) g 31 (.tagSet 4) (rdPair g.level (thr g 31) 4) (.core barL) = true ∧
     reachable (tagged g) g 31 (.tagGet 4 8) (rdPair g.level (thr g 31) 4) (.core barL) = true ∧
     tagStays (tagged g) g 31 (rdPair g.level (thr g 31) 4) true (.tagSet 4) = false ∧
     (∀ h ∈ (tagged g).gangs, outstanding h = []) ∧ g.level = 0 ∧ (launchD (tagged g) 0).desc.recording = false ∧
     (launchD (tagged g) 0).desc.replaying = false ∧ ∀ k, barL.place = .stack k → False) ∧
    (31 * 2 ^ 20 + 1023) / 2 ^ 20 = 31 ∧ 992 % 2 ^ 20 + 32 ≤ (stackGang tc).slab := by
  refine ⟨by decide +kernel, ⟨by decide +kernel, by decide +kernel, by decide +kernel, by decide +kernel, rfl, rfl, rfl, fun k h => by cases h⟩, by decide, by decide⟩

/-! #### Lane by lane -/

/-- One lane's action succeeds, and its gang still has its clause. -/
def SeqMet (cls : Cls) (step : State → Gang → Nat → State × SeqEnd) (ok : State → Gang → Word → Prop) : Prop :=
  ∃ s g c t g1 c1, Issues s cls g c ∧ ok s g (activeMask c) ∧ AllLanes step g.id (lanesOf (activeMask c)) s t ∧
    gangOf t g.id = some g1 ∧ g1.clause = some c1

/-- What lane 0 answers, and the clause its gang then has. -/
def laneAnswer (step : State → Gang → Nat → State × SeqEnd) (s : State) (g : Gang) : SeqEnd × Bool :=
  let r := step s g 0
  (r.2, ((gangOf (addHits r.1 g.id []) g.id).bind Gang.clause).isSome)

theorem seqMet_of (cls : Cls) (step : State → Gang → Nat → State × SeqEnd) (ok : State → Gang → Word → Prop) (s : State) (g : Gang)
    (h1 : issuer s = some (g, oneLane)) (h2 : flagFull g oneLane cls = false) (h3 : ok s g 1) (h4 : gangOf s g.id = some g)
    (h5 : g.clause = some oneLane) (h6 : laneAnswer step s g = (.ok [] none, true)) (hp : g.passed = []) : SeqMet cls step ok := by
  have ha : (step s g 0).2 = .ok [] none := (Prod.ext_iff.1 h6).1
  obtain ⟨c1, h7⟩ := Option.isSome_iff_exists.1 (Prod.ext_iff.1 h6).2
  obtain ⟨g1, h8, h9⟩ := Option.bind_eq_some_iff.1 h7
  exact ⟨s, g, oneLane, _, g1, c1, ⟨h1, h2, by simp [heldAt, hp]⟩, h3, ⟨g, oneLane, [], (step s g 0).1, h4, h5, Prod.ext rfl ha, rfl, rfl⟩, h8, h9⟩

/-- A copy command in the scratchpad for the map at 0x1000: one element at 0x2000. -/
def copying (g : Gang) : State :=
  let s := tp g
  { s with mem := [⟨0x1001, 0x20⟩, ⟨0x1009, 1⟩, ⟨0x1010, 1⟩] ++ s.mem,
           blocks := s.blocks.map fun b => { b with pad := { b.pad with bytes := [⟨1, 0x10⟩] } } }

/-- A queue 0 that is enabled, of context 0, on die 0. -/
def queued (g : Gang) : State :=
  let s := mapped (ts g)
  { s with mem := s.mem.take 1 ++ [⟨0x900C, 1⟩] ++ s.mem.drop 1, dies := s.dies.map fun d => { d with mgmt := { d.mgmt with qtab := 0x9000 } } }

/-- The first n watchpoints of core 0 are armed. -/
def watched (n : Nat) (g : Gang) : State :=
  { tp g with cores := [(0, { wpts := (List.range n).map fun i => (i, { gang := 0, lane := 0, scope := 0, kinds := 1, size := 1, addr := 0 }) })] }

/-- A task record at the start of the scratchpad, with its result cell at 1 GiB. -/
def recorded (g : Gang) : State :=
  let s := celled g 0 cellValue
  { s with blocks := s.blocks.map fun b => { b with pad := { b.pad with bytes := [⟨0x1B, 0x40⟩] } } }

theorem witness_LanesInOrder_copies : ∀ k ∈ [CopyKind.into, .out, .mc, .gen],
    SeqMet .b (copyLane k 7 4 3) fun s g A => ∀ l ∈ lanesOf A, checkCopy k 7 4 s g l = .ok () := by
  have h : ∀ l ∈ lanesOf 1, l = 0 := by decide
  intro k hk
  simp only [List.mem_cons, List.not_mem_nil, or_false] at hk
  rcases hk with rfl | rfl | rfl | rfl <;>
    exact seqMet_of _ _ _ (copying (padGang oneLane)) (padGang oneLane) rfl rfl (fun l hl => h l hl ▸ by rfl) rfl rfl (by decide +kernel) rfl

theorem witness_LanesInOrder_others :
    SeqMet .b (prefetchLane 6 4 7) (fun _ _ _ => True) ∧ SeqMet .b (prefetchLane 7 4 7) (fun _ _ _ => True) ∧
    SeqMet .b (launchLane 4 0) (fun _ g A => windowFail g A [.pair 4] = none) ∧
    SeqMet .none (cancelLane 8 fun t g l => namedL t (ctxOf t g) (laneAddr g l 4))
      (fun _ g A => windowFail g A [.reg 8, .pair 4] = none ∧ ∀ l ∈ lanesOf A, canonical (laneAddr g l 4) = true) ∧
    SeqMet .none (cancelLane 8 fun t g l => namedG t (ctxOf t g) (laneAddr g l 4))
      (fun _ g A => windowFail g A [.reg 8, .pair 4] = none ∧ ∀ l ∈ lanesOf A, canonical (laneAddr g l 4) = true) ∧
    SeqMet .none (cancelLane 8 fun t g _ => namedJ t (ctxOf t g)) (fun _ g A => windowFail g A [.reg 8] = none) ∧
    (∀ n ∈ [15, 16], SeqMet .none (wptSetLane 6 4 8)
      (fun s g A => (freeWatch s [0]).length = 16 - n ∧ windowFail g A [.reg 8, .pair 4, .reg 6] = none ∧
        ∀ l ∈ lanesOf A, canonical (laneAddr g l 4) = true)) ∧
    SeqMet .none (wptSetLane 7 4 8)
      (fun _ g A => windowFail g A [.reg 8, .pair 4, .reg 7] = none ∧ ∀ l ∈ lanesOf A, canonical (laneAddr g l 4) = true) ∧
    SeqMet .none (wptClrLane 6 8) (fun _ g A => windowFail g A [.reg 8, .reg 6] = none) := by
  have h : ∀ l ∈ lanesOf 1, l = 0 := by decide
  exact
  ⟨seqMet_of _ _ _ (tp (globGang oneLane)) (globGang oneLane) rfl rfl trivial rfl rfl (by decide +kernel) rfl,
   seqMet_of _ _ _ (tp (globGang oneLane)) (globGang oneLane) rfl rfl trivial rfl rfl (by decide +kernel) rfl,
   seqMet_of _ _ _ (queued (globGang oneLane)) (globGang oneLane) rfl rfl rfl rfl rfl (by decide +kernel) rfl,
   seqMet_of _ _ _ (tp (globGang oneLane)) (globGang oneLane) rfl rfl ⟨rfl, fun l hl => h l hl ▸ by rfl⟩ rfl rfl (by decide +kernel) rfl,
   seqMet_of _ _ _ (tp (globGang oneLane)) (globGang oneLane) rfl rfl ⟨rfl, fun l hl => h l hl ▸ by rfl⟩ rfl rfl (by decide +kernel) rfl,
   seqMet_of _ _ _ (tp (globGang oneLane)) (globGang oneLane) rfl rfl rfl rfl rfl (by decide +kernel) rfl,
   fun n hn => by
     have hw : ∀ n ∈ [15, 16], laneAnswer (wptSetLane 6 4 8) (watched n (globGang oneLane)) (globGang oneLane) = (.ok [] none, true) ∧
         (freeWatch (watched n (globGang oneLane)) [0]).length = 16 - n := by decide +kernel
     exact seqMet_of _ _ _ (watched n (globGang oneLane)) (globGang oneLane) rfl rfl ⟨(hw n hn).2, rfl, fun l hl => h l hl ▸ by rfl⟩ rfl rfl (hw n hn).1 rfl,
   seqMet_of _ _ _ (tp (globGang oneLane)) (globGang oneLane) rfl rfl ⟨rfl, fun l hl => h l hl ▸ by rfl⟩ rfl rfl (by decide +kernel) rfl,
   seqMet_of _ _ _ (tp (globGang oneLane)) (globGang oneLane) rfl rfl rfl rfl rfl (by decide +kernel) rfl⟩

theorem freeIndex_lt (used : Nat → Bool) (n start : Nat) (hn : 0 < n) : ∀ k r, freeIndex used n start k = some r → r < n
  | 0, r, h => by simp [freeIndex] at h
  | k + 1, r, h => by
      simp only [freeIndex] at h
      split at h
      · exact freeIndex_lt used n start hn k r h
      · cases h; exact Nat.mod_lt _ hn

theorem addTask_eq (s : State) (t : Task) (hi : ¬ 4096 ≤ t.index) : (addTask s t).gangs = s.gangs ∧ (addTask s t).launches = s.launches := by
  unfold addTask storeTask
  simp only [if_neg hi, and_self]

theorem markDirty_keeps (s : State) (q : Asker) (ctx va pa : Nat) :
    (markDirty s q ctx va pa).launches = s.launches ∧ SameThreads s (markDirty s q ctx va pa) := by
  unfold markDirty
  split
  · split <;> exact ⟨rfl, fun _ => rfl⟩
  · split
    · split
      · exact ⟨rfl, sameThreads_writeBytes _ _ _⟩
      · exact ⟨rfl, fun _ => rfl⟩
    · exact ⟨rfl, fun _ => rfl⟩

theorem dirtyCell_keeps (s : State) (pa : Nat) (v : Dbl) (st : Nat) (g : Gang) (ea : Dbl) :
    (dirtyAt (setCell s pa v st) g ea pa).launches = s.launches ∧ SameThreads s (dirtyAt (setCell s pa v st) g ea pa) := by
  have h := markDirty_keeps (setCell s pa v st) (.core g.core) (ctxOf (setCell s pa v st) g) (vaOf ea) pa
  exact ⟨h.1, sameThreads_trans (sameThreads_writeBytes s _ _) h.2⟩

/-- The write of a task's new cell, where it has one. -/
def birthCell (s : State) (g : Gang) (t : Task) (pa : Option Nat) : State := match pa with
  | none => s
  | some pa => dirtyAt (setCell s pa (payload 1 noWaiter (mkHandle s t)) (if t.lazy then cellSuspended else cellRunning)) g t.cell pa

theorem birthCell_keeps (s : State) (g : Gang) (t : Task) (pa : Option Nat) :
    (birthCell s g t pa).launches = s.launches ∧ SameThreads s (birthCell s g t pa) := by
  unfold birthCell
  split
  · exact ⟨rfl, fun _ => rfl⟩
  · exact dirtyCell_keeps s _ _ _ g t.cell

theorem modBy_ending (f : Launch → Launch) (hi : ∀ L, (f L).id = L.id) (he : ∀ L, (f L).ending = L.ending) (j k : Nat) :
    ∀ l : List Launch, (findBy Launch.id k (modBy Launch.id j f l)).map Launch.ending = (findBy Launch.id k l).map Launch.ending
  | [] => rfl
  | x :: xs => by
      simp only [modBy, findBy]
      by_cases h : x.id = j <;> simp only [h, if_true, if_false, hi] <;> split <;> simp_all [modBy_ending f hi he j k xs]

/-- What a task's birth leaves of the gangs is what its cell's write leaves, where it is in the bank, no task counts it and
its launch is not ending. -/
theorem bearTask_gangs (s : State) (g : Gang) (t : Task) (pa : Option Nat) (hi : ¬ 4096 ≤ t.index) (hc : t.countsIn = false)
    (he : (launchD s g.launch).ending = none) : (bearTask s g t pa).gangs = (birthCell s g t pa).gangs := by
  have hl : ∀ u : State, u.launches = modBy Launch.id g.launch (fun L => { L with spawnOrd := L.spawnOrd + 1 }) s.launches →
      (launchD u g.launch).ending = none := by
    intro u hu
    have := modBy_ending (fun L => { L with spawnOrd := L.spawnOrd + 1 }) (fun _ => rfl) (fun _ => rfl) g.launch g.launch s.launches
    revert he this
    unfold launchD launchOf
    rw [hu]
    cases findBy Launch.id g.launch s.launches <;>
      cases findBy Launch.id g.launch (modBy Launch.id g.launch (fun L => { L with spawnOrd := L.spawnOrd + 1 }) s.launches) <;> simp_all
  have hb : bearTask s g t pa = let s2 := addTask (modLaunch { birthCell s g t pa with nextId := (birthCell s g t pa).nextId + 1 } g.launch
      fun L => { L with spawnOrd := L.spawnOrd + 1 }) t; if (launchD s2 g.launch).ending.isSome then sweepTask s2 t else s2 := by
    unfold bearTask
    simp only [hc, Bool.false_eq_true, if_false]
    rfl
  rw [hb]
  have ha := addTask_eq (modLaunch { birthCell s g t pa with nextId := (birthCell s g t pa).nextId + 1 } g.launch
    fun L => { L with spawnOrd := L.spawnOrd + 1 }) t hi
  simp only [hl _ (ha.2.trans (by rw [modLaunch_launches]; exact congrArg _ (birthCell_keeps s g t pa).1)), Option.isSome_none, Bool.false_eq_true, if_false]
  exact ha.1

theorem findRecord_index (s : State) (L : Launch) (core : Nat) (h : s.tasks = []) : ∃ i, i < 4096 ∧ findRecord s L core = ((freeNat s).2, some i) := by
  obtain ⟨i, hi⟩ : ∃ i, freeIndex (fun i => s.tasks.any fun t => t.die == coreDie core && t.nbhd == coreNbhd core && t.index == i && t.state != 0) 4096
      ((freeNat s).1 % 4096) 4096 = some i := by
    rw [h]; exact ⟨_, rfl⟩
  refine ⟨i, freeIndex_lt _ _ _ (by decide) _ _ hi, ?_⟩
  unfold findRecord
  simp only [hi]

theorem spawnLane_met (lz : Bool) (a : Nat) (s s1 s3 : State) (g : Gang) (bs : List Byte) (pa : Option Nat) (u : Unit)
    (h1 : laneWindow g 0 [.pair a] = .ok u) (h2 : readRecord s g 0 (laneAddr g 0 a) = (s1, .ok bs))
    (h3 : recordFail s1 g 0 (laneAddr g 0 a) bs lz = none) (h4 : s1.tasks = [])
    (h5 : ∀ i, resultCell (freeNat s1).2 g 0 (newTask (freeNat s1).2 g bs lz i).cell = (s3, .ok pa)) (h6 : g.task = 0) (h7 : g.level = 1)
    (h8 : (launchD s3 g.launch).desc.replaying = false) (h9 : (launchD s3 g.launch).desc.recording = false)
    (h10 : ((gangOf s3 g.id).bind Gang.clause).isSome = true) (h11 : g.record = none)
    (h12 : (pa.any fun x => cellState s3 x != cellValue) = false) (h13 : (launchD s3 g.launch).ending = none)
    (h14 : ordinalOver (launchD s1 g.launch) = false) (h15 : (pa.any fun x => !cellOpen s3 x) = false) :
    laneAnswer (spawnLane lz a) s g = (.ok [] none, true) := by
  obtain ⟨i, hi, hf⟩ := findRecord_index s1 (launchD s1 g.launch) g.core h4
  have hg : ∀ x, gateCheck s3 g x = .go := fun x => by
    cases x
    · rfl
    · simp [gateCheck, admits, h8]
  have hp : ∀ x, passGate s3 g x = s3 := fun x => by
    cases x
    · rfl
    · simp [passGate, admitted, h8, h9]
  have hh : ∀ t ea, hitsOf t g 0 ea 8 true true = [] := fun t ea => by simp [hitsOf, h7]
  have hr : laneRecord lz a s g 0 = (s1, .ok bs) := by simp only [laneRecord, h11, laneRecord.fresh, h1, h2, h3]
  have hs : spawnLane lz a s g 0 =
      (modGang (bearTask s3 g (newTask (freeNat s1).2 g bs lz i) pa) g.id fun g => { g with record := none, gate := none }, .ok [] none) := by
    simp only [spawnLane, hr, hf, h14, h15, spawnAt, h5, h6, hg, true_or, if_true, spawnBeyond, reduceCtorEq, if_false, hp, h12, Bool.false_eq_true, hh,
      ite_self, keepRecord]
  have hb := bearTask_gangs s3 g (newTask (freeNat s1).2 g bs lz i) pa (Nat.not_le.2 hi) (by simp [newTask, h6]) h13
  unfold laneAnswer
  simp only [hs]
  refine Prod.ext rfl ?_
  have hk : SameThreads s3 (bearTask s3 g (newTask (freeNat s1).2 g bs lz i) pa) := by
    intro x
    unfold gangOf
    rw [hb]
    exact (birthCell_keeps s3 g (newTask (freeNat s1).2 g bs lz i) pa).2 x
  have hx := hk g.id
  have hz : ((gangOf (bearTask s3 g (newTask (freeNat s1).2 g bs lz i) pa) g.id).bind Gang.clause).isSome = true := by
    revert hx h10
    cases gangOf s3 g.id <;> cases gangOf (bearTask s3 g (newTask (freeNat s1).2 g bs lz i) pa) g.id <;> simp_all
  revert hz
  show _ → ((gangOf (addHits _ g.id []) g.id).bind Gang.clause).isSome = true
  unfold addHits
  rw [gangOf_modGang, if_pos rfl, gangOf_modGang, if_pos rfl]
  · cases gangOf (bearTask s3 g (newTask (freeNat s1).2 g bs lz i) pa) g.id <;> simp
  · exact fun _ => rfl
  · exact fun _ => rfl

/-- A gang above trap level 0, whose accesses watchpoints do not hit. -/
def spawning : Gang := { padGang oneLane with level := 1 }

def recordBytes : List Byte := readBytes (recorded spawning) ⟨.scratch 0, 0⟩ 64

theorem recordBytes_cell : BitVec.ofNat 64 (leAt recordBytes 0x18 8) = 0x40000000 := by decide +kernel

theorem recordCell_found : ∃ t, resultCell (freeNat (recorded spawning)).2 spawning 0 0x40000000 = (t, .ok (some 0x40000000)) ∧
    (launchD t 0).desc.replaying = false ∧ (launchD t 0).desc.recording = false ∧ ((gangOf t 0).bind Gang.clause).isSome = true ∧
    cellState t 0x40000000 = cellValue ∧ (launchD t 0).ending = none ∧ cellOpen t 0x40000000 = true :=
  ⟨_, rfl, rfl, rfl, rfl, by decide +kernel, rfl, by decide +kernel⟩

theorem witness_LanesInOrder_spawns (lz : Bool) : SeqMet .b (spawnLane lz 4) (fun _ _ _ => True) := by
  obtain ⟨t, h, h8, h9, h10, h12, h13, h15⟩ := recordCell_found
  refine seqMet_of _ _ _ (recorded spawning) spawning rfl rfl trivial rfl rfl
    (spawnLane_met lz 4 _ _ t spawning recordBytes (some 0x40000000) () rfl rfl (by cases lz <;> rfl) rfl (fun i => ?_) rfl rfl h8 h9 h10 rfl (by simp [h12]) h13
      (by decide +kernel) (by simp [h15])) rfl
  show resultCell _ spawning 0 (BitVec.ofNat 64 (leAt recordBytes 0x18 8)) = _
  rw [recordBytes_cell]
  exact h

/-- The first n records of neighbourhood 0 of die 0 are in use. -/
def fullBank (n : Nat) (s : State) : State := { s with tasks := (List.range n).map fun i => { aTask [] 0 with index := i } }

theorem fullBank_used (n : Nat) (s : State) (i : Nat) (hi : i < n) :
    ((fullBank n s).tasks.any fun t => t.die == coreDie 0 && t.nbhd == coreNbhd 0 && t.index == i && t.state != 0) = true := by
  rw [List.any_eq_true]
  exact ⟨{ aTask [] 0 with index := i }, List.mem_map.2 ⟨i, List.mem_range.2 hi, rfl⟩, by simp [aTask, coreDie, coreNbhd]⟩

theorem freeIndex_none (used : Nat → Bool) (n start : Nat) (hn : 0 < n) (h : ∀ i < n, used i = true) : ∀ k, freeIndex used n start k = none
  | 0 => rfl
  | k + 1 => by rw [freeIndex, if_pos (h _ (Nat.mod_lt _ hn)), freeIndex_none used n start hn h k]

theorem findRecord_full (s : State) (L : Launch) (h : spillRecords L = 0) : (findRecord (fullBank 4096 s) L 0).2 = none := by
  have hf := freeIndex_none _ 4096 ((freeNat (fullBank 4096 s)).1 % 4096) (by decide) (fullBank_used 4096 s) 4096
  unfold findRecord
  simp only [hf, h]
  split <;> simp

/-- A record read before a wait; a full bank; a task that notes its evaluation; a queue; no watchpoint, a free one, none
free, one that is the lane's own; a prefetch of no byte and of one. -/
theorem witness_LanesInOrder_actions :
    (let g : Gang := { tg tc with record := some (3, [1]) }; g.record = some (3, [1]) ∧ ∀ x, g.record ≠ some (0, x)) ∧
    (∃ s s1 g bs t, laneRecord false 4 s g 0 = (s1, .ok bs) ∧ findRecord s1 (launchD s1 g.launch) g.core = (t, none)) ∧
    (∃ s g t, g.task ≠ 0 ∧ taskOf s g.task ≠ none ∧ appendHeld s g 0 0x00020007 = (t, .ok ())) ∧
    (let g := globGang oneLane; let s := queued g
     canonical (laneAddr g 0 4) = true ∧ apertureOf (laneAddr g 0 4) = .global ∧ (laneAddr g 0 4).toNat % 64 = 0 ∧
     (enabledQueue s (g.core / 1024) 0).isSome = true ∧ firstUnleased (launchD s g.launch) (vaOf (laneAddr g 0 4)) 256 true false false = none ∧
     unstarted s (g.core / 1024) < 1024) ∧
    (watchOf (tg tc) 0 4 0 = none ∧ (watchOf (tg tc) 0 4 8).isSome = true ∧
     freeWatch (watched 15 (tg tc)) [0] ≠ [] ∧ freeWatch (watched 16 (tg tc)) [0] = []) ∧
    ((fget (coreOf (watched 1 (tg tc)) 0).wpts 0).map (fun w => (w.gang, w.lane)) = some (0, 0) ∧ fget (coreOf (watched 1 (tg tc)) 0).wpts 5 = none) ∧
    (∀ b ∈ [7, 6], let g := withP 128 (globGang oneLane); let s := tp g
     windowBad g.level g.nregs (thr g 0) [.pair 4, .reg b, .reg 10] = none ∧
     barrierWord s 0 0 (rankPlaces g (namedRanks s g 0)) 0x80000000 false = .ok none ∧ entryFree s g = true ∧
     firstUnleased (launchD s g.launch) (vaOf (laneAddr g 0 4)) (rdReg g.level (thr g 0) b).toNat true false false = none) := by
  have hk : ∀ (s : State) (g : Gang), g.record = some (0, []) → laneRecord false 4 s g 0 = (s, .ok []) := by
    intro s g h
    simp [laneRecord, h]
  have hw : ∀ n, (findRecord (fullBank n (ts (tg tc))) (launchD (ts (tg tc)) 0) 0).2 = none →
      ∃ s s1 g bs t, laneRecord false 4 s g 0 = (s1, .ok bs) ∧ findRecord s1 (launchD s1 g.launch) g.core = (t, none) :=
    fun n h => ⟨fullBank n (ts (tg tc)), _, { tg tc with record := some (0, []) }, [], _, hk _ _ rfl, Prod.ext rfl h⟩
  refine ⟨⟨rfl, by simp⟩, hw 4096 (findRecord_full _ _ rfl),
    ⟨withTask (ts (tasked (tg tc))) [] 0, tasked (tg tc), _, by decide, by decide, rfl⟩, by decide +kernel, by decide +kernel, by decide +kernel, ?_⟩
  intro b h
  simp only [List.mem_cons, List.not_mem_nil, or_false] at h
  rcases h with rfl | rfl <;> decide +kernel

/-- A copy made ready before a wait, with room in the queue and without; a cell that cannot be reached; a launch that has no
ordinal left for its logs. -/
theorem witness_LanesInOrder_again :
    (∃ s g x, (g : Gang).ready = some x ∧ (gangOf s g.id).isSome = true ∧ entryFree s g = true) ∧
    (∃ s g x, (g : Gang).ready = some x ∧ (gangOf s g.id).isSome = true ∧ entryFree s g = false) ∧
    (∃ s x, cellOpen s x = false) ∧ ∃ L, ordinalOver L = true ∧ L.spawnOrd = 2 ^ 19 :=
  ⟨⟨ts { tg tc with ready := some aCopy }, { tg tc with ready := some aCopy }, aCopy, rfl, rfl, by decide +kernel⟩,
   ⟨{ ts { tg tc with ready := some aCopy } with copies := { aCopy with reserved := true } :: List.replicate 128 aCopy }, { tg tc with ready := some aCopy }, aCopy, rfl, rfl, by decide +kernel⟩,
   ⟨{ State.reset with dies := [{ failedPorts := [0, 1, 2, 3, 4, 5, 6, 7, 8] }, { failedPorts := [0, 1, 2, 3, 4, 5, 6, 7, 8] }] }, 2 ^ 47, by decide +kernel⟩,
   { launchD (ts (tg tc)) 0 with desc := { nrlog := 512, flags := 4 }, spawnOrd := 2 ^ 19 }, by decide +kernel, rfl⟩

/-! #### Batches and the engine -/

/-- A gang whose threads have n batches of the copy 7, unfinished. -/
def batched (n : Nat) (g : Gang) : Gang :=
  { g with threads := List.replicate 32 { batches := List.replicate n { num := 0, copies := [7] }, tickets := [(3, 1)] } }

theorem witness_BatchResults :
    (∀ n ∈ [0, 14], ∃ s g c, Issues s .none g c ∧ windowFail g (activeMask c) [.reg 127] = none ∧ ∀ l ∈ lanesOf (activeMask c), unfinished s (thr g l) < 15) ∧
    (∀ n ∈ [0, 15], ∃ s g c, Issues s .none g c ∧ windowFail g (activeMask c) [.reg 127] = none ∧
      maskOf ((lanesOf (activeMask c)).filter fun l => decide (15 ≤ unfinished s (thr g l))) = if n = 15 then allLanes else 0) ∧
    (∀ n ∈ [0, 14, 15], ∃ s g c, Issues s .none g c ∧ Issues s .a g c ∧ mustStop s g = false ∧ (∀ l ∈ lanesOf (activeMask c), unfinished s (thr g l) ≤ n ∧ invisible s (thr g l) ≤ n)) ∧
    (∀ n ∈ [0, 14], ∃ s g c, Issues s .none g c ∧ mustStop s g = false ∧
      maskOf ((lanesOf (activeMask c)).filter fun l => decide (n < unfinished s (thr g l))) ≠ 0 ∧
      maskOf ((lanesOf (activeMask c)).filter fun l => decide (n < invisible s (thr g l))) ≠ 0) := by
  have hu : ∀ n ∈ [0, 14, 15], ∀ l ∈ lanesOf allLanes, unfinished (withCopy (ts (batched n (tg tc))) aCopy) (thr (batched n (tg tc)) l) = n ∧
      invisible (withCopy (ts (batched n (tg tc))) aCopy) (thr (batched n (tg tc)) l) = n := by decide +kernel
  refine ⟨fun n h => ?_, fun n h => ?_, fun n h => ?_, fun n h => ?_⟩
  · have hm : n ∈ [0, 14, 15] := by revert h; simp; omega
    refine ⟨withCopy (ts (batched n (tg tc))) aCopy, batched n (tg tc), tc, ⟨rfl, rfl, rfl⟩, ?_, fun l hl => ?_⟩
    · revert h; simp only [List.mem_cons, List.not_mem_nil, or_false]; rintro (rfl | rfl) <;> rfl
    · rw [(hu n hm l hl).1]; revert h; simp; omega
  · refine ⟨withCopy (ts (batched n (tg tc))) aCopy, batched n (tg tc), tc, ⟨rfl, rfl, rfl⟩, ?_⟩
    revert h; simp only [List.mem_cons, List.not_mem_nil, or_false]; rintro (rfl | rfl) <;> exact ⟨rfl, by decide +kernel⟩
  · exact ⟨withCopy (ts (batched n (tg tc))) aCopy, batched n (tg tc), tc, ⟨rfl, rfl, rfl⟩, ⟨rfl, rfl, rfl⟩, rfl, fun l hl => ⟨(hu n h l hl).1.le, (hu n h l hl).2.le⟩⟩
  · refine ⟨withCopy (ts (batched (n + 1) (tg tc))) aCopy, batched (n + 1) (tg tc), tc, ⟨rfl, rfl, rfl⟩, rfl, ?_⟩
    revert h; simp only [List.mem_cons, List.not_mem_nil, or_false]; rintro (rfl | rfl) <;> decide +kernel

/-- The gang's block holds the claim of its core's engine, which has the given rings; the scratchpad begins with some bytes. -/
def engined (rings : FMap Ring) (cmds : List EngCmd) (bytes : Memory) (g : Gang) : State :=
  let s := tp g
  { s with blocks := s.blocks.map fun b => { b with queueSize := 0x40000, pad := { b.pad with bytes := bytes } },
           cores := [(0, { engine := { owner := some 0, rings := rings, cmds := cmds } })] }
def aRing (keep : Bool) (n : Nat) : Ring := { base := 0, esize := 256, count := 2, keep := keep, entries := (List.range n).map fun i => ⟨i, true, false⟩ }
/-- A gang that holds `g4.d` at scratchpad byte 0, 0x199 (FP32 by FP32) in g9 and 1 in g10. -/
def engGang (c : ClauseRun) : Gang := withRegs (tg c) [(4, 0), (5, 0x0FFFF000), (9, 0x199), (10, 1), (11, 0x80004010), (12, 0x1001), (13, 0x10000)]
def barBytes : Memory := [⟨0x10, 0x40⟩, ⟨0x15, 0xF0⟩, ⟨0x16, 0xFF⟩, ⟨0x17, 0x0F⟩]
/-- The command that a lane has queued. -/
def aCmd (b : EngBody) : EngCmd := { id := 9, gang := 0, lane := 0, launch := 0, block := 0, body := b }

/-- Rings 0 and 1 of two entries, both filled; empty; of keep mode. -/
def full2 : FMap Ring := [(0, aRing false 2), (1, aRing false 2)]
def empty2 : FMap Ring := [(0, aRing false 0), (1, aRing false 0)]
def keep2 : FMap Ring := [(0, aRing true 2), (1, aRing true 2)]
/-- A parameter block (B from ring 1, one step), with and without a barrier; a drain of one cell of FP32 to byte 0. -/
def mmaBytes : Memory := [⟨2, 1⟩, ⟨4, 1⟩]
def mmaBarBytes : Memory := [⟨2, 1⟩, ⟨4, 1⟩, ⟨0xC, 2⟩] ++ barBytes
def drainBytesOf (mode : Byte) : Memory := [⟨1, 9⟩, ⟨2, mode⟩, ⟨4, 1⟩, ⟨6, 1⟩] ++ barBytes

theorem witness_EngineResults_queue :
    (∃ s g c cls, Issues s cls g c ∧ g.task ≠ 0 ∧ cls = .none ∧ mustStop s g = false) ∧
    (∃ s g c o, Issues s .none g c ∧ g.task = 0 ∧ (engineOf s g.core).owner = some o ∧ o ≠ g.block ∧ mustStop s g = false) ∧
    (∀ cls ∈ [Cls.none, .a, .b], ∃ s g c, Issues s cls g c ∧ g.task = 0 ∧ (engineOf s g.core).owner = some g.block ∧ (engineOf s g.core).cmds.length < 16 ∧
      mustStop s g = false ∧ windowOnce g (activeMask c) [] [.pair 4, .reg 10] = none ∧ windowOnce g (activeMask c) [.reg 9] [.pair 4, .reg 10] = none ∧
      (rdReg g.level (thr g 0) 10).toNat < 65536) ∧
    (∃ s g l, ownRange s g (laneAddr g 0 4) 32 false = .ok l ∧ poisonedAt s l 32 = false ∧
      (let bs := readBytes s l 32
       mmaOk (engineOf s g.core) bs 0 (parseMma bs 0 0x199 0 none) = true ∧ bit (leAt bs 0xC 4) 1 = false)) ∧
    (∃ s g l off, ownRange s g (laneAddr g 0 4) 32 false = .ok l ∧ poisonedAt s l 32 = false ∧
      (let bs := readBytes s l 32
       mmaOk (engineOf s g.core) bs 0 (parseMma bs 0 0x199 0 none) = true ∧ bit (leAt bs 0xC 4) 1 = true ∧
       ownBarrier s g (BitVec.ofNat 64 (leAt bs 0x10 8)) = .ok off)) ∧ formatOk 0x199 = true ∧
    (∀ mode ∈ [0, 0x20], ∃ s g l bar, ownRange s g (laneAddr g 0 4) 32 false = .ok l ∧ poisonedAt s l 32 = false ∧
      (let bs := readBytes s l 32
       drainOk (engineOf s g.core) bs (parseDrain bs none) = true ∧
       drainRanges s g (colourOf (laneAddr g 0 4)) (parseDrain bs none) = .ok () ∧
       drainBarrier s g (laneAddr g 0 4) (BitVec.ofNat 64 (leAt bs 0x10 8)) (bit (parseDrain bs none).mode 5) = .ok bar)) := by
  refine ⟨⟨ts (tasked (tg tc)), _, _, _, ⟨rfl, rfl, rfl⟩, by decide, rfl, rfl⟩,
    ⟨engined full2 [] [] { engGang tc with block := 1 }, _, _, 0, ⟨rfl, rfl, rfl⟩, rfl, rfl, by decide, rfl⟩, ?_,
    ⟨engined full2 [] mmaBytes (engGang tc), engGang tc, ⟨.scratch 0, 0⟩, by decide +kernel, rfl, by decide +kernel⟩,
    ⟨engined full2 [] mmaBarBytes (engGang tc), engGang tc, ⟨.scratch 0, 0⟩, 0x40, by decide +kernel, rfl, by decide +kernel⟩, by decide, ?_⟩
  · intro cls h
    exact ⟨engined full2 [] [] (engGang tc), engGang tc, tc, ⟨rfl, by revert h; simp only [List.mem_cons, List.not_mem_nil, or_false]; rintro (rfl | rfl | rfl) <;> rfl, rfl⟩,
      rfl, rfl, by decide, rfl, rfl, rfl, by decide⟩
  · intro mode h
    simp only [List.mem_cons, List.not_mem_nil, or_false] at h
    rcases h with rfl | rfl
    · exact ⟨engined full2 [] (drainBytesOf 0) (engGang tc), engGang tc, ⟨.scratch 0, 0⟩, none, by decide +kernel, rfl, by decide +kernel⟩
    · exact ⟨engined full2 [] (drainBytesOf 0x20) (engGang tc), engGang tc, ⟨.scratch 0, 0⟩, some 0x40, by decide +kernel, rfl, by decide +kernel⟩

/-- A table load's selectors, first and last values; a ring defined beside another; ring 0 filled, and without room; an
entry released. -/
theorem witness_EngineResults_rings :
    (∀ sel ∈ [0x80040000, 0x90000000, 0x100, 0x1FF, 0x10000], ∃ x, loadSel sel = some x) ∧
    (∃ s g l, ownRange s g (laneAddr g 0 4) 16 true = .ok l) ∧
    (∃ s g c, Issues s .b g c ∧ windowOnce g (activeMask c) [] [.reg 13, .reg 12] = none ∧ fget (engineOf s g.core).rings 2 = none ∧
      (∀ x ∈ (engineOf s g.core).rings, x.1 ≠ 2 → ringsOverlap (rdReg g.level (thr g 0) 13).toNat 16 x.2 = false) ∧
      (rdReg g.level (thr g 0) 13).toNat % 256 = 0 ∧ (rdReg g.level (thr g 0) 12).toNat < 2 ^ 25 ∧
      (rdReg g.level (thr g 0) 13).toNat + 16 ≤ ((blockOf s g.block).map Block.queueSize).getD 0) ∧
    (∃ s, ∃ g : Gang, ∃ l x, fget (engineOf s g.core).rings 0 = some x ∧ ownRange s g (laneAddr g 0 4) (16 * x.esize * 1) true = .ok l ∧ x.count - x.entries.length < 1) ∧
    (∃ s, ∃ g : Gang, ∃ l x, fget (engineOf s g.core).rings 0 = some x ∧ ownRange s g (laneAddr g 0 4) (16 * x.esize * 1) true = .ok l ∧ 1 ≤ x.count - x.entries.length ∧
      poisonedAt s l (16 * x.esize * 1) = false) ∧
    (∃ s, ∃ g : Gang, ∃ x, fget (engineOf s g.core).rings 0 = some x ∧ x.keep = true ∧ 2 ≤ (x.entries.filter REntry.ready).length ∧
      ringRead (engineOf s g.core) 0 (g.bound.getD s.nextId) = false ∧ ringClaimed s g.block 0 = false) ∧
    (∃ e x, fget e.rings 0 = some x ∧ ringIdle e 0 x = true) := by
  refine ⟨fun sel h => ?_, ⟨engined full2 [] [] (engGang tc), engGang tc, ⟨.scratch 0, 0⟩, by decide +kernel⟩,
    ⟨engined full2 [] [] (engGang tc), engGang tc, tc, ⟨rfl, rfl, rfl⟩, rfl, rfl, by decide +kernel, by decide +kernel, by decide +kernel, by decide +kernel⟩,
    ⟨engined full2 [] [] (engGang tc), engGang tc, ⟨.scratch 0, 0⟩, aRing false 2, rfl, by decide +kernel, by decide⟩,
    ⟨engined empty2 [] [] (engGang tc), engGang tc, ⟨.scratch 0, 0⟩, aRing false 0, rfl, by decide +kernel, by decide, by decide +kernel⟩,
    ⟨engined keep2 [] [] (engGang tc), engGang tc, aRing true 2, rfl, rfl, by decide, rfl, rfl⟩,
    ⟨{ rings := empty2 }, aRing false 0, rfl, rfl⟩⟩
  exact Option.isSome_iff_exists.1 (by revert sel; decide +kernel)

/-- `%gstate` with slots of 32 bits, results of 8, unsigned; wide register 1 all zero or all ones. -/
def slotted (gs w : Word) (g : Gang) : Gang := { withRegs g [(1, w)] with gstate := gs }
def badLattice (g : Gang) : State :=
  let s := engined full2 [] [] g
  { s with cores := s.cores.map fun k => (k.1, { k.2 with engine := { k.2.engine with poison := [(2, 0)] } }) }
/-- The engine of core 0 busy with a chunk; waiting with a full window. -/
def busyEngine (g : Gang) : State := engined full2 [{ aCmd (.zero 0) with started := true, firing := true }] [] g

/-- A product of a gang has been granted the wide array. -/
def granted (id : Nat) (g : Gang) : State := modEngine (engined full2 [] [] g) g.core fun e => { e with grant := some id }

/-- Slots of 32 bits, signed, the least and the greatest digit that a result of 8 bits holds and the first beyond each; a
lattice with and without an uncorrectable error; a gang whose block does not hold the claim. -/
theorem witness_WideResults_digits :
    (let g := slotted 0x10820 0 (tg tc)
     g.gstate.getLsbD 16 = true ∧ 4 ≤ g.gstate.toNat % 2 ^ 7 ∧ 1 ≤ g.gstate.toNat / 2 ^ 8 % 2 ^ 6 ∧ digitFits g 127 = true ∧ digitFits g (-128) = true ∧
     digitFits g 128 = false ∧ digitFits g (-129) = false) ∧
    (let g := slotted 0x820 0 (tg tc); g.gstate.getLsbD 16 = false ∧ digitFits g 255 = true ∧ digitFits g 256 = false) ∧
    (∃ s g c, Issues s .none g c ∧ windowFail g (activeMask c) [.reg 127, .reg 4] = none ∧ g.task = 0 ∧ claims s g.core g.launch g.cluster g.rank = true ∧
      (engineOf s g.core).cmds = [] ∧ ((lanesOf (activeMask c)).filter fun l =>
        (engineOf s g.core).poison.contains (2, (rdReg g.level (thr g l) 4).toNat % 2 ^ 16 / 2 ^ 10)) ≠ []) ∧
    ∃ s g c, Issues s .none g c ∧ windowFail g (activeMask c) [.reg 127, .reg 4] = none ∧
      ¬ (g.task = 0 ∧ claims s g.core g.launch g.cluster g.rank = true) := by
  refine ⟨by decide +kernel, by decide +kernel, ⟨badLattice (withP 128 (tg tc)), _, _, ⟨rfl, rfl, rfl⟩, rfl, rfl, by decide +kernel, rfl, by decide +kernel⟩,
    ts (withP 128 (tg tc)), _, _, ⟨rfl, rfl, rfl⟩, rfl, by decide +kernel⟩

theorem witness_WideResults :
    (∃ s g c, Issues s .none g c ∧ wideFail g (activeMask c) [.win 127, .win 1, .win 2] = none ∧ wideFail g (activeMask c) [.win 127, .reg 1, .reg 2] = none ∧
      wideFail g (activeMask c) [.reg 127, .win 1, .win 2] = none ∧ windowFail g (activeMask c) [.reg 127, .reg 1] = none) ∧
    (∀ d ∈ [0, 126], (∃ s g c, Issues s .a g c ∧ wideFail g (activeMask c) (widePair d ++ [.win 1, .win 2]) = none ∧
        arrayOpen s g.core = true ∧ (engineOf s g.core).grant = none) ∧
      (∃ s g c, Issues s .a g c ∧ wideFail g (activeMask c) (widePair d ++ [.win 1, .win 2]) = none ∧ arrayOpen s g.core = true ∧
        (engineOf s g.core).grant = some g.id) ∧
      (∃ s g c, Issues s .a g c ∧ wideFail g (activeMask c) (widePair d ++ [.win 1, .win 2]) = none ∧ arrayOpen s g.core = false) ∧
      ∃ s g c, Issues s .a g c ∧ wideFail g (activeMask c) (widePair d ++ [.win 1, .win 2]) = none ∧ (engineOf s g.core).grant = some 9 ∧ 9 ≠ g.id) ∧
    (∃ s g c, Issues s .none g c ∧ wideFail g (activeMask c) [.reg 8, .win 126, .reg 7, .win (126 + 1)] = none ∧
      wideFail g (activeMask c) [.win 126, .reg 7, .win (126 + 1)] = none ∧ windowBad g.level g.nregs (thr g (lowest (activeMask c))) [.reg 7] = none ∧ ∀ l ∈ lanesOf (activeMask c), digitFits g ((slotDigits g 126 0).getD l 0) = true) ∧
    (∃ s g c l ls, Issues s .none g c ∧ wideFail g (activeMask c) [.win 1, .reg 7, .win (1 + 1)] = none ∧
      (lanesOf (activeMask c)).filter (fun l => !digitFits g ((slotDigits g 1 0).getD l 0)) = l :: ls) ∧
    (31 < 32 ∧ (0x820#32).getLsbD 16 = false ∧ 4 ≤ (0x820#32).toNat % 2 ^ 7) ∧
    ∃ s g c, Issues s .none g c ∧ windowFail g (activeMask c) [.reg 127, .reg 4] = none ∧ g.task = 0 ∧
      claims s g.core g.launch g.cluster g.rank = true ∧ (engineOf s g.core).cmds = [] := by
  have hf : (lanesOf allLanes).filter (fun l => !digitFits (slotted 0x820 0xFFFFFFFF (tg tc)) ((slotDigits (slotted 0x820 0xFFFFFFFF (tg tc)) 1 0).getD l 0)) ≠ [] := by
    decide +kernel
  obtain ⟨l, ls, hl⟩ := List.exists_cons_of_ne_nil hf
  refine ⟨⟨ts (withP 128 (tg tc)), _, _, ⟨rfl, rfl, rfl⟩, rfl, rfl, rfl, rfl⟩, ?_,
    ⟨ts (slotted 0x820 0 (withP 128 (tg tc))), slotted 0x820 0 (withP 128 (tg tc)), _, ⟨rfl, rfl, rfl⟩, rfl, rfl, rfl, by decide +kernel⟩,
    ⟨ts (slotted 0x820 0xFFFFFFFF (tg tc)), _, _, l, ls, ⟨rfl, rfl, rfl⟩, rfl, hl⟩, by decide,
    ⟨engined full2 [] [] (withP 128 (tg tc)), withP 128 (tg tc), _, ⟨rfl, rfl, rfl⟩, rfl, rfl, by decide +kernel, rfl⟩⟩
  intro d h
  simp only [List.mem_cons, List.not_mem_nil, or_false] at h
  rcases h with rfl | rfl <;>
  exact ⟨⟨ts (withP 128 (tg tc)), _, _, ⟨rfl, rfl, rfl⟩, rfl, rfl, rfl⟩, ⟨granted 0 (withP 128 (tg tc)), _, _, ⟨rfl, rfl, rfl⟩, rfl, rfl, rfl⟩,
    ⟨busyEngine (withP 128 (tg tc)), _, _, ⟨rfl, rfl, rfl⟩, rfl, by decide +kernel⟩, ⟨granted 9 (withP 128 (tg tc)), _, _, ⟨rfl, rfl, rfl⟩, rfl, rfl, by decide⟩⟩

/-- A wide register outside the window, for each shape of operands: the second of a slot's pair alone, too. -/
theorem witness_WideResults_window :
    (∀ os ∈ [[.win 127, .win 1, .win 2], [.win 127, .win 1], [.win 127, .win 1, .reg 2], [.win 127, .reg 1, .reg 2], [.reg 127, .win 1, .win 2],
        [.reg 127, .win 1, .reg 2]], ∃ s g c x ls, Issues s .none g c ∧ wideFail g (activeMask c) os = some (x, ls)) ∧
    (∃ s g c x ls, Issues s .a g c ∧ wideFail g (activeMask c) (widePair 126 ++ [.win 1, .win 2]) = some (x, ls)) ∧
    (∃ s g c x ls, Issues s .none g c ∧ windowBad g.level g.nregs (thr g (lowest (activeMask c))) [.reg 7] = none ∧
      wideFail g (activeMask c) [.reg 8, .win 126, .reg 7, .win (126 + 1)] = some (x, ls)) ∧
    ∃ s g c x ls, Issues s .none g c ∧ wideFail g (activeMask c) [.win 126, .reg 7, .win (126 + 1)] = some (x, ls) :=
  ⟨fun os h => by
     have hw : ∀ os ∈ [[.win 127, .win 1, .win 2], [.win 127, .win 1], [.win 127, .win 1, .reg 2], [.win 127, .reg 1, .reg 2], [.reg 127, .win 1, .win 2],
        [.reg 127, .win 1, .reg 2]], wideFail (withP 127 (tg tc)) (activeMask tc) os = some (127, allLanes) := by decide +kernel
     exact ⟨ts (withP 127 (tg tc)), _, _, 127, allLanes, ⟨rfl, rfl, rfl⟩, hw os h⟩,
   ⟨ts (withP 127 (tg tc)), _, _, 127, allLanes, ⟨rfl, rfl, rfl⟩, by decide +kernel⟩,
   ⟨ts (withP 127 (tg tc)), _, _, 127, allLanes, ⟨rfl, rfl, rfl⟩, rfl, by decide +kernel⟩,
   ts (withP 127 (tg tc)), _, _, 127, allLanes, ⟨rfl, rfl, rfl⟩, by decide +kernel⟩

/-- Depths 0, 1, 254 and 255; the innermost region 3; a stop at an edge in each mode. -/
def regioned (n : Nat) (g : Gang) : Gang := { g with regionDepth := n, regions := [3, 3, 3, 3, 3, 3, 3, 3] }

theorem witness_RegionResults :
    (∀ n ∈ [0, 254], ∃ s g c, Issues s .none g c ∧ g.regionDepth = n ∧ g.regionDepth ≠ 255 ∧ edgeStop s g 3 = none ∧
      (launchD s g.launch).desc.ntrace = 0 ∧ (launchOf s g.launch).isSome) ∧
    (∃ s g c k, Issues s .none g c ∧ g.regionDepth ≠ 255 ∧ edgeStop s g 3 = some k ∧ (launchD s g.launch).stopMode = 0) ∧
    (∃ s g c k, Issues s .none g c ∧ g.regionDepth ≠ 255 ∧ edgeStop s g 3 = some k ∧ (launchD s g.launch).stopMode ≠ 0 ∧ eventRoom s (g.core / 1024) = false) ∧
    (∃ s g c k, Issues s .none g c ∧ g.regionDepth = 1 ∧ (g.regions[0]?).getD 0xFFFF = 3 ∧ edgeStop s g 3 = some k ∧ eventRoom s (g.core / 1024) = true) ∧
    (∀ n ∈ [1, 8, 255], ∃ s g c, Issues s .none g c ∧ g.regionDepth = n ∧ g.regionDepth ≠ 0 ∧ (g.regions[0]?).getD 0xFFFF = 3 ∧ edgeStop s g 3 = none) ∧
    (∃ s g c, Issues s .none g c ∧ g.regionDepth = 255) ∧ (∃ s g c, Issues s .none g c ∧ g.regionDepth = 0) ∧
    (∃ s g c j, Issues s .none g c ∧ g.regionDepth ≠ 0 ∧ g.regions[0]? = some j ∧ j ≠ 0xFFFF ∧ j ≠ 4) ∧
    ∃ s g c, Issues s .none g c ∧ windowOnce g (activeMask c) [] [.reg 127] = none := by
  refine ⟨fun n h => ?_, ⟨ts { tg tc with haltReq := true }, _, _, _, ⟨rfl, rfl, rfl⟩, by decide, rfl, rfl⟩,
    ⟨onLaunch (crammed (ts (tg tc))) fun L => { L with stopMode := 1, breakpoints := [3] }, _, _, _, ⟨rfl, rfl, rfl⟩, by decide, rfl, by decide, by decide +kernel⟩,
    ⟨ts { regioned 1 (tg tc) with haltReq := true }, _, _, _, ⟨rfl, rfl, rfl⟩, rfl, rfl, rfl, rfl⟩, fun n h => ?_,
    ⟨ts (regioned 255 (tg tc)), _, _, ⟨rfl, rfl, rfl⟩, rfl⟩, ⟨ts (tg tc), _, _, ⟨rfl, rfl, rfl⟩, rfl⟩,
    ⟨ts (regioned 1 (tg tc)), _, _, _, ⟨rfl, rfl, rfl⟩, by decide, rfl, by decide, by decide⟩, ⟨ts (withP 128 (tg tc)), _, _, ⟨rfl, rfl, rfl⟩, rfl⟩⟩
  all_goals simp only [List.mem_cons, List.not_mem_nil, or_false] at h
  · rcases h with rfl | rfl <;> exact ⟨ts (regioned _ (tg tc)), _, _, ⟨rfl, rfl, rfl⟩, rfl, by decide, rfl, rfl, rfl⟩
  · rcases h with rfl | rfl | rfl <;> exact ⟨ts (regioned _ (tg tc)), _, _, ⟨rfl, rfl, rfl⟩, rfl, by decide, rfl, rfl⟩

/-! #### Fetch, issue, and the events -/

/-- A gang at a clause start, its top entry at an address, reached by a transfer or not. -/
def startGang (pc : Dbl) (tgt : Bool) : Gang :=
  { loneGang 0 with clause := none, frontier := [{ pc := pc, prio := 0, mask := allLanes, target := tgt }] }
/-- The module with that gang, its addresses mapped, and a header at 0x1000; `short` leases 4 bytes from there only. -/
def starting (hdr : Memory) (g : Gang) : State := focused { mapped (ts g) with mem := hdr ++ (mapped (ts g)).mem } [0]
def short (s : State) : State := onLaunch s fun L => { L with leases := [{ base := 0, size := 0x1004, r := true, w := true, x := true }] }
def fetched1 (f : State → State) : State := (fetchAt (f (starting [] (startGang 0x1000 false))) (startGang 0x1000 false) 0x1000 4).1
def fetched2 (f : State → State) : State := (codeWord (fetched1 f) 0 0x1000).2

/-- For each clause: a state and a gang that can fetch, and what its accesses answer there; `fetched1` and `fetched2` are
the states that the access to the header and the fetch of its word leave. -/
theorem witness_ClauseFetch :
    (∀ h, ∃ s g, gangOf s (s.focus.headD 0) = some g ∧ canFetch s g = true ∧ (topEntry g).pc = h) ∧
    (0x1002#64).toNat % 4 ≠ 0 ∧ canonical 0x0100000000000000 = false ∧ apertureOf 0x0FFFF00000000000 ≠ .global ∧
    hdrLegal 0xC000 = false ∧ 4096 < 0x1FFC % 4096 + 4 * (1 + 1) ∧ hdrLegal 0 = true ∧
    ∃ (t : State) (w : Word), (5, w) ∈ fgetD t.past (0x1000 / 4) [] ∧ (launchD t 0).since < 5 := by
  exact ⟨fun h => ⟨starting [] (startGang h false), startGang h false, rfl, rfl, rfl⟩, by decide, by decide, by decide, rfl, by decide, rfl,
    { ts (tg tc) with past := [(0x400, [(5, 7)])] }, 7, by decide, by decide⟩

theorem codeWord_one (s : State) (launch pa : Nat) (w : Word) (h : codeValues s launch pa = [w]) : (codeWord s launch pa).1 = w := by
  have hp : (pick s 1).1 = 0 := rfl
  unfold codeWord pickFrom
  rw [h, List.length_singleton, hp]
  rfl

theorem witness_ClauseFetch_accesses :
    (fetchAt (starting [] (startGang 0x80000000 false)) (startGang 0x80000000 false) 0x80000000 4).2 = .bad 0x12 0x80000000 0 ∧
    ((fetchAt (starting [⟨0x1001, 0xC0⟩] (startGang 0x1000 false)) (startGang 0x1000 false) 0x1000 4).2 = .ok 0x1000 0x41F ∧
      (codeWord (fetchAt (starting [⟨0x1001, 0xC0⟩] (startGang 0x1000 false)) (startGang 0x1000 false) 0x1000 4).1 0 0x1000).1 = 0xC000) ∧
    ((fetchAt (starting [] (startGang 0x1000 false)) (startGang 0x1000 false) 0x1000 4).2 = .ok 0x1000 0x41F ∧
      (codeWord (fetched1 id) 0 0x1000).1 = 0 ∧
      (fetchAt (fetched2 id) (startGang 0x1000 false) 0x1000 8).2 = .ok 0x1000 0x41F) ∧
    (fetchAt (short (starting [] (startGang 0x1000 false))) (startGang 0x1000 false) 0x1000 4).2 = .ok 0x1000 0x41F ∧
    (codeWord (fetched1 short) 0 0x1000).1 = 0 ∧
    (fetchAt (fetched2 short) (startGang 0x1000 false) 0x1000 8).2 = .bad 0x12 0x1004 0 := by
  refine ⟨by decide +kernel, ⟨by decide +kernel, codeWord_one _ _ _ _ (by decide +kernel)⟩,
    ⟨by decide +kernel, codeWord_one _ _ _ _ (by decide +kernel), by decide +kernel⟩, by decide +kernel,
    codeWord_one _ _ _ _ (by decide +kernel), by decide +kernel⟩

/-- A header in a line of the core's instruction cache that is in error, and in none. -/
theorem witness_ClauseFetch_cache :
    (let s := starting [] (startGang 0x1000 false)
     (globalAccess s (.fetch 0) (launchD s 0) 0x1000 4 { x := true, colour := false } 0).2 = .ok 0x1000 0x41F ∧
     (granules 0x1000 4).filter (fun k => (coreOf s 0).badCode.contains k) = []) ∧
    (let s := { starting [] (startGang 0x1000 false) with cores := [(0, { badCode := [0x100] })] }
     (globalAccess s (.fetch 0) (launchD s 0) 0x1000 4 { x := true, colour := false } 0).2 = .ok 0x1000 0x41F ∧
     ((granules 0x1000 4).filter fun k => (coreOf s 0).badCode.contains k).head? = some 0x100) := by decide +kernel

/-- A gang whose clause has been fetched, with a header and one word. -/
def readyGang (hdr : Word) (w : Word) (h : Dbl) (tgt : Bool) : Gang := { startGang h tgt with fetched := some { h := h, hdr := hdr, words := [w] } }

/-- A copy of four bytes from 0x2000, or from beyond the leases, to scratchpad byte 0; a copy that has been stopped. -/
def moving (base : Dbl) : Copy :=
  { aCopy with state := .active, map := { base := base, fmt := 9, rank := 1, flags := 0, dims := [1, 0, 0, 0, 0], strides := [0, 0, 0, 0, 0], btab := 0 },
               org := [0, 0, 0, 0, 0], ext := [1, 1, 1, 1, 1], ranks := [(0, 0)], units := 1, bytes := 4 }
def stoppedCopy : Copy := { aCopy with state := .stopped 0x12 64 false 1 }

/-- A deferred fault, and a kept hit, at a clause start. -/
theorem witness_ClauseStart_due :
    (∃ s g f, gangOf s (s.focus.headD 0) = some g ∧ g.fetched = some f ∧ atClauseStart s g = true ∧ deferredDue s g = true ∧
      firstIllegal (f.words.map BitVec.toNat) 0 = none) ∧
    ∃ s g f, gangOf s (s.focus.headD 0) = some g ∧ g.fetched = some f ∧ atClauseStart s g = true ∧ deferredDue s g = false ∧ g.level = 0 ∧ g.hits ≠ [] :=
  ⟨⟨focused (withCopy (ts (readyGang 0xFF000 0x0C000000 0x1000 false)) stoppedCopy) [0], _, _, rfl, rfl, rfl, rfl, by decide⟩,
   focused (ts { readyGang 0xFF000 0x0C000000 0x1000 false with hits := [{ hits := [⟨0, 0, 64⟩], done := 1, pc := 0x1000 }] }) [0], _, _, rfl, rfl, rfl, rfl, rfl, by decide⟩

theorem witness_ClauseStart :
    (∀ hdr h tgt, ∃ s g f, gangOf s (s.focus.headD 0) = some g ∧ g.fetched = some f ∧ f.hdr = hdr ∧ f.h = h ∧ (topEntry g).target = tgt ∧
      atClauseStart s g = true ∧ deferredDue s g = false ∧ g.hits = []) ∧
    (¬ (0xC000 / 2 ^ 12 % 16 < 12 ∨ 0xC000 / 2 ^ 12 % 16 = 15) ∧ (0xBF000 / 2 ^ 12 % 16 = 15 ∧ 0xBF000 / 2 ^ 16 % 16 < 12)) ∧
    (4096 < 0x1FFC % 4096 + 4 * (1 + 1) ∧ ¬ 4096 < 0x1FF8 % 4096 + 4 * (1 + 1)) ∧
    flagsClear (fullFlag (tg tc)) 1 = false ∧ flagsClear (fullFlag (tg tc)) 2 = true ∧
    firstIllegal [0x0C000000, 0] 0 = some 1 ∧ firstIllegal [0x0C000000] 0 = none ∧
    clauseMask (startGang 0x1000 false) 0x80000000 = 0 ∧ clauseMask (startGang 0x1000 false) 0 ≠ 0 :=
  ⟨fun hdr h tgt => ⟨focused (ts (readyGang hdr 0x0C000000 h tgt)) [0], _, _, rfl, rfl, rfl, rfl, rfl, rfl, rfl, rfl⟩, by decide, by decide, rfl, rfl,
   by decide, by decide, by decide +kernel, by decide +kernel⟩

/-- Gangs of one scheduler that gave way to the gang that starts its clause: to it alone, and to another too. -/
theorem witness_ClauseStart_yields : ∀ ids ∈ [[0], [0, 5]], ∃ s g x, gangOf s g.id = some g ∧ x.id ≠ g.id ∧ gangOf s x.id = some x ∧ x.core = g.core ∧
    x.slot.isSome ∧ schedOf x = schedOf g ∧ x.yieldFor = some ids := by
  intro ids _
  let x : Gang := { readyGang 0xFF000 0x0C000000 0x1000 false with id := 1, slot := some (.normal 0 1), yielded := true, yieldFor := some ids }
  exact ⟨{ ts (readyGang 0xFF000 0x0C000000 0x1000 false) with gangs := [readyGang 0xFF000 0x0C000000 0x1000 false, x] }, readyGang 0xFF000 0x0C000000 0x1000 false,
    x, rfl, Nat.one_ne_zero, rfl, rfl, rfl, rfl, rfl⟩

/-- A gang of a scheduler at a `nop`; two of them, the older in a lower class. -/
def atNop (sch : Nat) : Gang := { tg { tc with words := [0x0C000000] } with slot := some (.normal sch 0) }
def twoGangs : State :=
  let s := focused (ts { atNop 0 with curClass := 3, placed := 5, aging := 255 }) [0, 1]
  { s with gangs := s.gangs ++ s.gangs.map fun g => { g with id := 1, slot := some (.normal 0 1), curClass := 4, placed := 6 } }

theorem witness_IssueSelection :
    (∃ l g, foremost l = some g) ∧ (∃ l, foremost l = none ∧ l = []) ∧
    (∃ s core sch g, s.focus = [core, sch] ∧ 0 < sch ∧ sch < 4 ∧ coreExists core = true ∧ eligible s core sch ≠ [] ∧
      foremost (selectable (countClk s core sch) core sch) = some g ∧ gangOf s g.id = some g ∧ g.clause.isSome = true) ∧
    (∃ s core g, s.focus = [core, 0] ∧ coreExists core = true ∧ eligible (tick s core) core 0 ≠ [] ∧
      foremost (selectable (countClk (tick s core) core 0) core 0) = some g ∧ gangOf s g.id = some g ∧ g.clause.isSome = true) ∧
    (∃ s core sch g, s.focus = [core, sch] ∧ sch = 3 ∧ coreExists core = true ∧
      foremost (selectable (countClk s core sch) core sch) = some g ∧ gangOf s g.id = some g ∧ g.clause = none) ∧
    (∃ s core sch g, s.focus = [core, sch] ∧ sch = 3 ∧ coreExists core = true ∧ eligible s core sch = [] ∧ evictionAsked s g = true ∧
      foremost (selectable (countClk s core sch) core sch) = some g) ∧
    (∃ s core sch, s.focus = [core, sch] ∧ sch = 3 ∧ coreExists core = true ∧ foremost (selectable (countClk s core sch) core sch) = none) ∧
    (∃ s x, (eligible s 0 0).length = 2 ∧ x ∈ eligible s 0 0 ∧ (x.aging + 1) % 256 = 0) ∧
    (∃ s core sch g, s.focus = [core, sch] ∧ sch = 3 ∧ coreExists core = true ∧
      foremost (selectable (countClk s core sch) core sch) = some g ∧ gangOf s g.id = some g ∧ g.clause.isSome = true ∧ g.wait = .unit) ∧
    ∃ s core sch x, coreExists core = true ∧ sch < 4 ∧ x ∈ candidates s core sch ∧ x.yielded = true := by
  refine ⟨⟨[tg tc], tg tc, rfl⟩, ⟨[], rfl, rfl⟩,
    ⟨focused (ts (atNop 3)) [0, 3], 0, 3, _, rfl, by decide, by decide, rfl, by decide +kernel, rfl, rfl, rfl⟩,
    ⟨focused (ts (atNop 0)) [0, 0], 0, atNop 0, rfl, rfl, by decide +kernel, by decide +kernel, rfl, rfl⟩,
    ⟨focused (ts { readyGang 0 0x0C000000 0x1000 false with slot := some (.normal 3 0) }) [0, 3], 0, 3, _, rfl, rfl, rfl, rfl, rfl, rfl⟩,
    ⟨focused (ts { atNop 3 with marked := true }) [0, 3], 0, 3, _, rfl, rfl, rfl, rfl, rfl, rfl⟩,
    ⟨focused (ts (tg tc)) [0, 3], 0, 3, rfl, rfl, rfl, rfl⟩, ⟨twoGangs, { atNop 0 with curClass := 3, placed := 5, aging := 255 }, by decide +kernel⟩,
    ⟨focused (ts { atNop 3 with wait := .unit }) [0, 3], 0, 3, _, rfl, rfl, rfl, rfl, rfl, rfl, rfl⟩,
    ⟨ts { atNop 3 with yielded := true }, 0, 3, { atNop 3 with yielded := true }, rfl, by decide, by decide +kernel, rfl⟩⟩

/-- A gang in each state that could not issue, and that could, with the reason of its stall. -/
theorem witness_IssueSelection_stalls :
    (∃ s g c, g.clause = some c ∧ g.wait = .none ∧ couldIssue s g = true) ∧ (∃ s g c, g.clause = some c ∧ g.wait = .none ∧ couldIssue s g = false) ∧
    (∃ s g c, g.wait = .none ∧ g.pending = none ∧ g.clause = some c ∧ flagRoom g c = false ∧ stallOf s g = 1) ∧
    (∃ s g c, g.wait = .none ∧ g.pending = none ∧ g.clause = some c ∧ flagRoom g c = true ∧ heldAt s g c = some 3) ∧
    (∃ s g t, g.wait = .blocked 13 (.claim) t ∧ evictionAsked s g = true ∧ stallOf s g = 12) ∧ (∃ g : Gang, g.wait = .stopped ∧ couldIssue (ts g) g = false) ∧
    (∃ s g c, g.wait = .none ∧ g.pending = none ∧ g.clause = some c ∧ flagRoom g c = true ∧ heldAt s g c = none ∧ unitFree s g c = false) ∧
    ∃ g : Gang, g.wait = .none ∧ g.pending = none ∧ g.clause = none ∧ g.fetched = none :=
  ⟨⟨ts (atNop 0), atNop 0, _, rfl, rfl, by decide +kernel⟩, ⟨State.reset, { atNop 0 with pending := some { op := .probe 4 8, lanes := 1 } }, _, rfl, rfl, rfl⟩,
   ⟨State.reset, fullFlag (tg { fc with words := [BitVec.ofNat 32 (encode (.div 4 4 4))] }), { fc with words := [BitVec.ofNat 32 (encode (.div 4 4 4))] }, rfl, rfl, rfl, by decide +kernel, by decide +kernel⟩,
   ⟨State.reset, passing (BitVec.ofNat 32 (encode .fenceDev)) [flStore 0], { tc with words := [BitVec.ofNat 32 (encode .fenceDev)] }, rfl, rfl, rfl, by decide +kernel, by decide +kernel⟩,
   ⟨State.reset, { tg tc with wait := .blocked 13 .claim 5, marked := true }, 5, rfl, rfl, rfl⟩, ⟨{ tg tc with wait := .stopped }, rfl, rfl⟩,
   ⟨busyEngine (tg { tc with words := [BitVec.ofNat 32 (encode (.wmul 2 1 4))] }), tg { tc with words := [BitVec.ofNat 32 (encode (.wmul 2 1 4))] },
     { tc with words := [BitVec.ofNat 32 (encode (.wmul 2 1 4))] }, rfl, rfl, rfl, by decide +kernel, by decide +kernel, by decide +kernel⟩,
   ⟨{ tg tc with clause := none }, rfl, rfl, rfl, rfl⟩⟩

/-- A gang that waits, in its slot or out of it; a launch that ends. -/
def waitingGang (k : Cond) : Gang := { tg tc with wait := .blocked 9 k 5 }
def outOfSlot (g : Gang) : Gang := { g with slot := none }
def ends (s : State) : State := onLaunch s fun L => { L with ending := some 4 }
/-- The launch has a megabyte of arena at 1 MiB, a log, and a request to be pre-empted. -/
def withArena (s : State) : State :=
  onLaunch s fun L => { L with preempt := true, desc := { L.desc with arena := 0x100000, narena := 0x100000, rlog := 0x40000, nrlog := 512 } }
/-- A log whose one chunk names gang 0 for one operation of unit 0. -/
def logged (s : State) : State :=
  let t := withArena s
  { t with mem := t.mem ++ [⟨0x40004, 1⟩, ⟨0x4010C, 1⟩, ⟨0x40110, 1⟩], cores := [(0, { clk := 2 ^ 24 + 5 })] }

theorem witness_GangEvents_simple :
    (∃ s g, gangOf s (s.focus.headD 0) = some g ∧ g.aging ≠ 0 ∧ g.aging % 256 = 0) ∧
    (∃ s g, gangOf s (s.focus.headD 0) = some g ∧ g.completing ≠ [] ∧ g.flags.length = 12 ∧ 11 ∈ g.completing ∧ 11 < 12) ∧
    (∃ s g m, gangOf s (s.focus.headD 0) = some g ∧ g.wait = .flags m ∧ flagsClear g m.toNat = true) ∧
    (∃ s g m, gangOf s (s.focus.headD 0) = some g ∧ g.wait = .flags m ∧ flagsClear g m.toNat = false) ∧
    (∃ s g l t, gangOf s (s.focus.headD 0) = some g ∧ g.wait = .blocked 9 (.mwait l false t) t ∧ t + 2 ^ 20 ≤ clkOf s g.core) ∧
    (∃ s g, gangOf s (s.focus.headD 0) = some g ∧ evictReady g = true ∧ evictGang s g false = none ∧ (launchD s g.launch).preempt = true) ∧
    (∃ s g c, gangOf s (s.focus.headD 0) = some g ∧ s.focus = [g.id, 0, 1, 3] ∧ g.clause = some c ∧ g.pending = none ∧ g.wait = .none ∧ s.issuing ≠ some g.id ∧
      ∃ w ∈ fgetD (coreOf s g.core).oplog (schedOf g) [], w.gang = g.id ∧ w.pred = true ∧ (0, 3) ∈ w.lanes) ∧
    (∃ s g c, gangOf s (s.focus.headD 0) = some g ∧ s.focus = [g.id, 0, 0, 7] ∧ g.clause = some c ∧ g.pending = none ∧ g.wait = .none ∧ s.issuing ≠ some g.id ∧
      fgetD (coreOf s g.core).oplog (schedOf g) [] = []) ∧
    (∃ s g, s.focus = [0] ∧ arrayOpen s 0 = true ∧ (∀ x ∈ denseGangs s 0, (engineOf s 0).grant ≠ some x.id) ∧ nextDense s 0 = some g) :=
  ⟨⟨focused (ts { tg tc with aging := 256 }) [0], _, rfl, by decide, by decide⟩,
   ⟨focused (ts { tg tc with completing := [11, 3] }) [0], _, rfl, by decide, rfl, by decide, by decide⟩,
   ⟨focused (ts { tg tc with wait := .flags 0xFFF }) [0], _, 0xFFF, rfl, rfl, rfl⟩,
   ⟨focused (ts { fullFlag (tg tc) with wait := .flags 1 }) [0], _, 1, rfl, rfl, rfl⟩,
   ⟨focused (logged (ts (waitingGang (.mwait barL false 5)))) [0], _, barL, 5, rfl, rfl, by decide +kernel⟩,
   ⟨focused (onLaunch (ts (waitingGang (.blkGen false))) fun L => { L with preempt := true }) [0], _, rfl, rfl, by rfl, rfl⟩,
   ⟨{ focused (ts (tg tc)) [0, 0, 1, 3] with cores := [(0, { oplog := [(schedOf (tg tc), [{ gang := 0, pred := true, lanes := [(0, 3)] }])] })] },
    _, _, rfl, rfl, rfl, rfl, rfl, by decide, _, List.mem_singleton.2 rfl, rfl, rfl, by decide⟩,
   ⟨focused (ts (tg tc)) [0, 0, 0, 7], _, _, rfl, rfl, rfl, rfl, rfl, by decide, rfl⟩,
   ⟨focused (ts (tg { tc with words := [BitVec.ofNat 32 (encode (.wmul 2 1 4))] })) [0], tg { tc with words := [BitVec.ofNat 32 (encode (.wmul 2 1 4))] },
    rfl, by decide +kernel⟩⟩

/-- A gang that a fatal fault stopped; a comparison and a divergence that are due; a gang that waits and is to stop, has a
kept hit, is woken, or is woken out of its slot. -/
theorem witness_GangEvents_wake :
    (∃ s g, gangOf s (s.focus.headD 0) = some g ∧ g.wait = .stopped) ∧
    (∃ s g, gangOf s (s.focus.headD 0) = some g ∧ g.wait ≠ .stopped ∧ compareDue s g = true) ∧
    (∃ s g, gangOf s (s.focus.headD 0) = some g ∧ g.wait ≠ .stopped ∧ g.compare = none ∧ divergeDue s g = true) ∧
    (∃ s g, gangOf s (s.focus.headD 0) = some g ∧ g.blocked = true ∧ g.compare = none ∧ g.diverges = none ∧ mustStop s g = true) ∧
    (∃ s g, gangOf s (s.focus.headD 0) = some g ∧ g.blocked = true ∧ g.compare = none ∧ g.diverges = none ∧ mustStop s g = false ∧ g.slot.isSome ∧
      g.level = 0 ∧ g.hits ≠ []) ∧
    (∃ s g c, gangOf s (s.focus.headD 0) = some g ∧ g.blocked = true ∧ g.compare = none ∧ g.diverges = none ∧ mustStop s g = false ∧ g.slot.isSome ∧
      g.hits = [] ∧ wakes s g = true ∧ evictsFirst s g = false ∧ taskOf s g.task = none ∧ g.clause = some c) ∧
    ∃ s g, gangOf s (s.focus.headD 0) = some g ∧ g.blocked = true ∧ g.compare = none ∧ g.diverges = none ∧ mustStop s g = false ∧ g.slot = none ∧
      g.woken = none ∧ wakes s g = true :=
  ⟨⟨focused (ts { tg tc with wait := .stopped }) [0], _, rfl, rfl⟩,
   ⟨focused (ends (ts { tg tc with compare := some (1, 2, 0x1000) })) [0], _, rfl, by decide, rfl⟩,
   ⟨focused (ts { tg tc with diverges := some (6, 0, 0x1000) }) [0], _, rfl, by decide, rfl, rfl⟩,
   ⟨focused (ends (ts (waitingGang (.blkGen false)))) [0], _, rfl, rfl, rfl, rfl, rfl⟩,
   ⟨focused (ts { waitingGang (.blkGen false) with hits := [{ hits := [⟨0, 0, 64⟩], done := 1, pc := 0x1000 }] }) [0], _, rfl, rfl, rfl, rfl, rfl, rfl, rfl, by decide⟩,
   ⟨focused (ts (waitingGang (.blkGen true))) [0], _, _, rfl, rfl, rfl, rfl, rfl, rfl, rfl, rfl, rfl, rfl, rfl⟩,
   focused (ts (outOfSlot (waitingGang (.blkGen true)))) [0], _, rfl, rfl, rfl, rfl, rfl, rfl, rfl, rfl⟩

/-- A gang without a slot that must stop, and one that a wake has left with a record to write. -/
theorem witness_GangEvents_owed :
    (∃ s g, gangOf s (s.focus.headD 0) = some g ∧ g.slot = none ∧ g.wait ≠ .stopped ∧ g.compare = none ∧ g.diverges = none ∧ mustStop s g = true) ∧
    (∃ s g, gangOf s (s.focus.headD 0) = some g ∧ g.blocked = true ∧ g.compare = none ∧ g.diverges = none ∧ mustStop s g = false ∧
      wakeOwing s g = true) ∧
    ∃ s g o, gangOf (drainGang s (g : Gang).id) g.id = some o ∧ outstanding g = [] :=
  ⟨⟨focused (ends (ts (outOfSlot (waitingGang (.blkGen false))))) [0], _, rfl, rfl, by decide, rfl, rfl, by decide +kernel⟩,
   ⟨focused (ts { outOfSlot (waitingGang (.blkGen true)) with wakeOwed := some false }) [0], _, rfl, rfl, rfl, rfl, rfl, by decide +kernel⟩,
   ts (tg tc), tg tc, tg tc, rfl, rfl⟩

theorem witness_GangEvents_rest :
    (∃ s g n c cause loc, gangOf s (s.focus.headD 0) = some g ∧ deferredFaults s g.id = [(n, c, cause, loc)] ∧ deferredBusy g = false ∧
      deliverable s g = true ∧ c.state = .stopped cause loc false n) ∧
    (∃ L core k, sampleDue (logged (ts (tg tc))) L core = some k) ∧
    (let s := focused (withArena (mapped (ts (waitingGang (.blkGen false))))) [0]; let g := waitingGang (.blkGen false)
     gangOf s 0 = some g ∧ evictReady g = true ∧ (evictGang s g false).isSome = true) ∧
    (let g := { tg { tc with words := [0x0C000000] } with wait := .blocked 6 (.landing 1 8) 5 }
     settled (ts g) g = true ∧ g.slot.isSome ∧ mustStop (ts g) g = false ∧ (admitting (ts g) 1 (gangBytes' (ts g) g)).head?.isSome = true ∧
     (g.clause.map fun c => (c.hits.isEmpty, (decodeWord (wordOf c)).toOption.map syncInstr)) = some (true, some false)) ∧
    (let g := { tg tc with gate := some (0, 0, 5, 1) }; let s := logged (mapped (ts g))
     longestWait (gateQueue s 0 ⟨0, 0⟩) = some (0, 5, 1) ∧ 5 + 2 ^ 24 ≤ clkOf s 0 ∧ (launchD s 0).log.diverged = false ∧
     (waitingAt s 0 ⟨0, 0⟩).map Prod.fst = some 0 ∧ awaitedGang s (launchD s 0) 0 0 = some 0) := by
  refine ⟨⟨focused (withCopy (ts (readyGang 0xFF000 0x0C000000 0x1000 false)) stoppedCopy) [0], _, _, _, _, _, rfl, rfl, rfl, by decide +kernel, rfl⟩,
    ⟨{ launchD (logged (ts (tg tc))) 0 with samplePeriod := 10, desc := { ntrace := 64 } }, 0, 0, by decide +kernel⟩, ⟨rfl, rfl, by decide +kernel⟩,
    ⟨by decide +kernel, by decide +kernel, by decide +kernel, by decide +kernel, by decide +kernel⟩,
    ⟨by decide +kernel, by decide +kernel, rfl, by decide +kernel, by decide +kernel⟩⟩

/-- The module with one copy of a gang; a copy into ring 0; a prefetch of two lines, from its start. -/
def copied (base : Dbl) (f : Copy → Copy) : State := focused (withCopy (tp (tg tc)) (f (moving base))) [7]
def intoRing (n : Nat) : State :=
  focused (withCopy (engined empty2 [] [] (engGang tc)) { moving 0x2000 with dst := 2 ^ 15, bytes := n }) [7, 0]
def fetching (start : Dbl) (x : Copy) : Copy := { x with kind := .pf, ranks := [], start := start, bytes := 256, units := 2 }
def outward (taken : Nat) (buf : List (List Byte)) (x : Copy) : Copy := { x with kind := .out, taken := taken, buf := buf }

/-- A channel whose oldest copy is queued; a copy into a ring with room for one entry, and for the two that fit exactly; a
copy whose unit is moved, and one that meets a fault. -/
theorem witness_CopyEvents :
    (∃ s c cs, channelCopies s (s.focus.headD 0) (s.focus.getD 1 0) = c :: cs ∧ c.state = .queued) ∧
    (∀ n ∈ [4096, 8192], ∃ s c r ring, copyOf s (s.focus.headD 0) = some c ∧ (claimRanks s c).find? (fun r => r.1 == s.focus.getD 1 c.rank) = some r ∧
      ringRoom s c r = some ring ∧ entriesOf c ring = n / 4096) ∧
    (∃ s c, copyOf s (s.focus.headD 0) = some c ∧ movable c = true ∧ copyTravels s c = true ∧ (moveUnit s c).2 = none) ∧
    (∃ s c, copyOf s (s.focus.headD 0) = some c ∧ movable c = true ∧ copyTravels s c = true ∧ (moveUnit s c).2.isSome = true) := by
  refine ⟨⟨focused (withCopy (ts (tg tc)) aCopy) [0, 3], _, _, rfl, rfl⟩, fun n h => ⟨intoRing n, { moving 0x2000 with dst := 2 ^ 15, bytes := n }, (0, 0), aRing false 0, ?_⟩,
    ⟨copied 0x2000 id, moving 0x2000, rfl, rfl, by decide +kernel⟩, ⟨copied 0x80000000 id, moving 0x80000000, rfl, rfl, by decide +kernel⟩⟩
  simp only [List.mem_cons, List.not_mem_nil, or_false] at h
  rcases h with rfl | rfl <;> decide +kernel

/-- One unit in, of an element and outside the map; one unit out, read from its source, and then written. -/
theorem witness_CopyEvents_units :
    (let c := { moving 0x2000 with ranks := [] }
     (c.kind ≠ .out ∧ c.ranks.length ≤ 1 ∧ c.toRing = false ∧ c.fault = none ∧ c.map.fmt ≠ 12 ∧ unitElems c.map c.cvt = 1) ∧
       cutOff (copied 0x2000 id) c 0 4 = none ∧ spaceClash (copied 0x2000 id) c 0 4 = none) ∧
    (let c := moving 0x2000; let s := copied 0x2000 id
     (c.kind ≠ .out ∧ c.ranks.length ≤ 1 ∧ c.toRing = false ∧ c.fault = none ∧ c.map.fmt ≠ 12 ∧ unitElems c.map c.cvt = 1) ∧
       cutOff s c 0 4 = none ∧ spaceClash s c 0 4 = none ∧ (elemAt s c 0 false).2 = .at_ 0x2000 0x2000 0x41F) ∧
    (let c := { moving 0x2000 with org := [1, 0, 0, 0, 0] }; let s := copied 0x2000 id
     cutOff s c 0 4 = none ∧ spaceClash s c 0 4 = none ∧ (elemAt s c 0 false).2 = .nothing) ∧
    (let c := outward 0 [] (moving 0x2000); c.kind = .out ∧ unitElems c.map c.cvt = 1 ∧ c.buf = [] ∧ sourceFault (copied 0x2000 id) c = none) ∧
    (let c := outward 1 [[1, 2, 3, 4]] (moving 0x2000); c.kind = .out ∧ unitElems c.map c.cvt = 1 ∧ c.buf = [[1, 2, 3, 4]] ∧ c.taken = c.units ∧
      (elemAt (copied 0x2000 id) c c.pos true).2 = .at_ 0x2000 0x2000 0x41F) := by decide +kernel

/-- Prefetches: the first line, and the last byte before a page's end with its second line; a read that was lost; a line outside the leases. -/
theorem witness_CopyEvents_lines :
    (∀ x ∈ [(64, 0, 64), (0xFFF, 0, 0xFFF), (64, 1, 128)], let f := fun y : Copy => { fetching (BitVec.ofNat 64 x.1) y with pos := x.2.1 }
     let s := copied 0x2000 f; let c := f (moving 0x2000); let a := lineAccess s c ((uncounted c).headD c.pos)
     copyOf s (s.focus.headD 0) = some c ∧ c.kind = .pf ∧ c.state = .active ∧ c.fault = none ∧ a.2 = .ok x.2.2 0x41F ∧
       linkOpen a.1 x.2.2 channelRequest = true ∧ linkOpen a.1 x.2.2 channelResponse = true) ∧
    (∃ s c f, copyOf s (s.focus.headD 0) = some c ∧ c.kind = .pf ∧ c.state = .active ∧ c.fault = some f) ∧
    (∃ s c cause loc col, copyOf s (s.focus.headD 0) = some c ∧ c.kind = .pf ∧ c.state = .active ∧ c.fault = none ∧
      (lineAccess s c ((uncounted c).headD c.pos)).2 = .bad cause loc col) ∧
    (∃ s : State, let line := s.focus.headD 0; line ∈ s.lines ∧ (sliceMates s line).length + (if line ∈ s.lines then 1 else 0) ≤ sliceLines (128 * line / 2 ^ 46)) ∧
    ∃ s : State, let line := s.focus.headD 0; line ∉ s.lines ∧ (sliceMates s line).length + (if line ∈ s.lines then 1 else 0) ≤ sliceLines (128 * line / 2 ^ 46) := by
  refine ⟨by decide +kernel, ⟨copied 0x2000 fun x => { fetching 64 x with fault := some (0x60, 64, 0) }, _, _, rfl, rfl, rfl, rfl⟩,
    ⟨copied 0x2000 (fetching 0x80000000), fetching 0x80000000 (moving 0x2000), 0x12, 0x80000000, 0, by decide +kernel⟩,
    ⟨{ State.reset with lines := [7], focus := [7] }, by decide +kernel⟩, ⟨{ State.reset with focus := [7] }, by decide +kernel⟩⟩

/-- An operation of FP32 tiles by rings 0 and 1, of one chunk; a drain of one cell to byte 0. -/
def mmaArgs (zero : Bool) : MmaArgs :=
  { m := 32, n := 32, kc := 32, afmt := 9, bfmt := 9, fp := true, scale := 0, tileA := none, ringA := 0, ringB := 1, tile := 0, ksteps := 1,
    ascale := 0, bscale := 0, zero := zero, bar := none, dcvt := 0 }
def drainArgs (bar : Option Nat) : DrainArgs :=
  { tile := 0, fmt := 9, mx := false, mode := 0, rows := 1, cols := 1, ring := none, dst := 0, scaleMem := false, sdst := 0, bar := bar }

theorem witness_EngineEvents_start : ∀ b ∈ [EngBody.zero 1, .mma (mmaArgs false), .mma (mmaArgs true), .drain (drainArgs none), .load true 0 16 0],
    ∃ s c, s.focus = [0, 9] ∧ (startable (engineOf s 0)).find? (fun x => x.id == s.focus.getD 1 0) = some c ∧ c.body = b := by
  intro b h
  refine ⟨focused (engined full2 [aCmd b] [] (engGang tc)) [0, 9], aCmd b, rfl, ?_, rfl⟩
  simp only [List.mem_cons, List.not_mem_nil, or_false] at h
  rcases h with rfl | rfl | rfl | rfl | rfl <;> decide +kernel

/-- An engine whose poisoned granules are given; an operation of `NAT8` tiles. -/
def spoiled (ps : List (Nat × Nat)) (s : State) : State := modEngine s 0 fun e => { e with poison := ps }
def natArgs : MmaArgs := { mmaArgs false with afmt := 0, bfmt := 0, fp := false }
def drainCmd (bar : Option Nat) : EngCmd := { aCmd (.drain (drainArgs bar)) with started := true }
def mmaDone (chunk : Nat) (bar : Option Nat) : EngCmd :=
  { aCmd (.mma { mmaArgs false with bar := bar }) with started := true, chunk := chunk, cuts := if chunk = 0 then [0] else [] }

/-- A drain whose cells are poisoned, and of as many bytes as fit its block; a chunk that fires, poisoned or not, and
completes, of floating-point values and integers, with its first and its last cell. -/
theorem witness_EngineEvents :
    (let c := aCmd (.drain (drainArgs none)); let s := engined full2 [c] [] (engGang tc); let x := drainArgs none
     cmdOf s 0 c.id = some c ∧ c.body = .drain x ∧ storePoisoned (engineOf (spoiled [(0, 0)] s) 0) 0 (cellGranules 0 1) = true ∧
     storePoisoned (engineOf s 0) 0 (cellGranules 0 1) = false ∧ x.ring = none ∧ x.mx = false ∧ (blockOf s c.block).isSome = true ∧ x.fmt ∈ [7, 8, 9, 11] ∧
     ∀ b ∈ s.blocks, { drainArgs none with dst := b.pad.size - 4 }.dst + 1 * (elemBits x.fmt / 8) ≤ b.pad.size) ∧
    (let c := { aCmd (.mma (mmaArgs false)) with started := true }; let s := engined full2 [c] [] (engGang tc)
     firable s 0 = some c ∧ chunkEntries (engineOf s 0) (mmaArgs false) c.chunk = some (some 0, 0) ∧ (blockOf s c.block).isSome = true ∧
     chunkPoisoned (engineOf s 0) c (mmaArgs false) (some 0) 0 (chunkData s c (mmaArgs false) (some 0) 0) = false ∧ firable (spoiled [(3, 0)] s) 0 = some c ∧
     chunkPoisoned (engineOf (spoiled [(3, 0)] s) 0) c (mmaArgs false) (some 0) 0 (chunkData (spoiled [(3, 0)] s) c (mmaArgs false) (some 0) 0) = true) ∧
    (let c := { aCmd (.mma (mmaArgs false)) with started := true, firing := true }; let s := engined full2 [c] [] (engGang tc)
     (engineOf s 0).cmds.find? EngCmd.firing = some c ∧ (mmaArgs false).tileA = none) ∧
    (0 < 32 ∧ 31 < (mmaArgs false).m ∧ 31 < (mmaArgs false).n ∧ (mmaArgs false).fp = true ∧ natArgs.fp = false ∧ natArgs.afmt < 4 ∧
     natArgs.bfmt < 4 ∧ natArgs.kc % 32 = 0 ∧ natArgs.tileA = none) := by
  decide +kernel

/-- An arrival whose launch replays a log that is in error where its unit stands. -/
theorem witness_EngineEvents_log :
    let s0 := onLaunch (logged (engined full2 [] barBytes (engGang tc))) fun L => { L with desc := { L.desc with flags := 4 } }
    let s := { s0 with poison := [0x4010] }
    (unitAt s (cmdGang s 0 (drainCmd (some 0x10))) ⟨.scratch (drainCmd (some 0x10)).block, 0x10⟩).map (fun u =>
      match admits s (cmdGang s 0 (drainCmd (some 0x10))) u with
      | .error _ => true
      | _ => false) = some true := by
  decide +kernel

/-- Completions: at an arrival, in turn; of an operation with all its chunks and one that a reset cut; of a drain; behind another command. -/
theorem witness_EngineEvents_ends :
    (let s := engined full2 [] barBytes (engGang tc); let c := drainCmd (some 0x10)
     (blockOf s c.block).isSome = true ∧ (∀ b ∈ s.blocks, 0x10 + 16 ≤ b.pad.size) ∧ (unitAt s (cmdGang s 0 c) ⟨.scratch c.block, 0x10⟩).isSome = true ∧
     ∀ u, unitAt s (cmdGang s 0 c) ⟨.scratch c.block, 0x10⟩ = some u → admits s (cmdGang s 0 c) u = .go) ∧
    (∀ bar ∈ [none, some 0x10], ∀ chunk ∈ [0, 1], let c := mmaDone chunk bar; let s := focused (engined full2 [c] barBytes (engGang tc)) [0, 9]
     cmdOf s 0 (s.focus.getD 1 0) = some c ∧ c.arrayDone = true ∧ arrivalInTurn (engineOf s 0) c = true) ∧
    (∀ bar ∈ [none, some 0x10], let c := drainCmd bar; let s := focused (engined full2 [c] barBytes (engGang tc)) [0, 9]
     cmdOf s 0 (s.focus.getD 1 0) = some c ∧ c.started = true ∧ arrivalInTurn (engineOf s 0) c = true) ∧
    (∀ b ∈ [EngBody.zero 0, .zero 65535, .load true 0 16 0, .load false 255 1 0], let c := { aCmd b with started := true }
     let s := focused (engined full2 [c] [] (engGang tc)) [0, 9]; cmdOf s 0 (s.focus.getD 1 0) = some c ∧ c.body = b ∧ c.started = true) ∧
    (let x := { drainCmd none with id := 8 }; let s := engined full2 [x, drainCmd none] [] (engGang tc)
     arrivalInTurn (engineOf s 0) (drainCmd none) = true ∧ x ∈ (engineOf s 0).cmds.takeWhile (fun y => y.id != (drainCmd none).id)) := by
  decide +kernel

/-- The module whose queue table has an enabled record of a legal size, or of none; its window's registers as given. -/
def queueing (size tail : Byte) (s : State) : State :=
  { s with dies := [{ mgmt := { qtab := 0x9000 } }, {}],
           mem := [⟨0x9009, size⟩, ⟨0x900C, 1⟩] ++ (if tail = 0 then [] else [⟨0x9014, tail⟩]) }
def withCmd (c : Cmd) (s : State) : State := { s with dies := [{ mgmt := { cmd := c, run := c } }, {}], focus := [0] }

/-- A queue's tail, of a usable record, an unusable one, a disabled one, and of no record; writes of the window, at its first
and its last field and beside them; a command when one is in progress, and when none is. -/
theorem witness_ManagementWrites :
    (∀ z ∈ [0, 1], ∃ s, s.dies.length = 2 ∧ s.focus = [0, 0, 2 ^ 32 - 1] ∧ queueAt s 0 0 = some 0x9000 ∧
      (let t := modDie (writeNat { s with nextId := s.nextId + 1 } (physLoc (0x9000 + 0x14)) 4 (2 ^ 32 - 1)) 0 fun x => { x with tails := fput x.tails 0 (2 ^ 32 - 1) }
       (readQueue t 0x9000).enabled = true ∧ (readQueue t 0x9000).valid = decide (z = 1))) ∧
    (∃ s, s.dies.length = 2 ∧ s.focus = [1, 63, 0] ∧ queueAt s 1 63 = none) ∧
    (∀ off ∈ [0, 0x008, 0x018, 0x100, 0x104, 0x12A, 0x12C], ∃ s, s.dies.length = 2 ∧ s.focus = [1, off, 7] ∧ (mgmtOf s 1).cmd.status ≠ 1) ∧
    (∃ s, s.dies.length = 2 ∧ s.focus = [0, 0x100, 3] ∧ (mgmtOf s 0).cmd.status = 1) ∧
    (∀ v ∈ [0, 31, 32, 2 ^ 32 - 1], ∃ s : State, s.dies.length = 2 ∧ s.focus = [0, v]) ∧
    (∃ s, s.dies.length = 2 ∧ (dieOf s 0).events = [] ∧ s.launches ≠ [] ∧ ∀ L ∈ s.launches, L.spillOwed = [] ∧ (L.die = 0 → L.state ≠ .taken ∧ L.state ≠ .leaseWait)) ∧
    (0 < 2 ^ 64 ∧ 0 < 2 ^ 32 ∧ 0 < 2 ^ 16 ∧ 0 < 256) ∧
    (∃ m : Mgmt, m.cmd.status = 1) ∧ 0x12C ∉ [0x008, 0x010, 0x018, 0x020, 0x028, 0x030, 0x038, 0x100, 0x104, 0x106, 0x108, 0x110, 0x118, 0x120, 0x124, 0x128, 0x129, 0x12A] := by
  refine ⟨fun z h => ?_, ⟨focused State.reset [1, 63, 0], by decide +kernel⟩,
    fun off _ => ⟨focused State.reset [1, off, 7], rfl, rfl, Nat.zero_ne_one⟩, ⟨{ withCmd { status := 1 } State.reset with focus := [0, 0x100, 3] }, rfl, rfl, rfl⟩,
    fun v _ => ⟨focused State.reset [0, v], rfl, rfl⟩, ⟨ts (tg tc), by decide +kernel⟩, by decide, ⟨{ cmd := { status := 1 } }, rfl⟩, by decide⟩
  simp only [List.mem_cons, List.not_mem_nil, or_false] at h
  rcases h with rfl | rfl
  · exact ⟨focused (queueing 7 0 State.reset) [0, 0, 2 ^ 32 - 1], rfl, rfl, rfl, by decide +kernel⟩
  · exact ⟨focused (queueing 1 0 State.reset) [0, 0, 2 ^ 32 - 1], rfl, rfl, rfl, by decide +kernel⟩

/-- A resumable gang; a launch with a residency request. -/
def stoppedGang : Gang := { tg tc with wait := .blocked 10 .resumed 5 }
def asking (idx : Nat) (s : State) : State := onLaunch s fun L => { L with requests := [{ num := 7, index := idx, answer := 0 }] }

/-- Commands that name a launch, with the operands of each at their bounds; that name none; and one of a context beyond 4,095. -/
theorem witness_ManagementCommands :
    (∀ x ∈ [4095, 4096], ∃ s : State, s.focus = [0] ∧ (mgmtOf s 0).run.ctx = x ∧ (mgmtOf s 0).run.sub = 0 ∧ cmdLaunches s (mgmtOf s 0).run = []) ∧
    (∀ k ∈ [0, 1, 2, 8, 9, 10, 24], ∃ s L, s.focus = [0] ∧ (mgmtOf s 0).run.ctx = 0 ∧ cmdLaunches s (mgmtOf s 0).run = [L] ∧
      (mgmtOf s 0).run.sub = k ∧ (mgmtOf s 0).run.buf % 64 = 0 ∧ physOk s (mgmtOf s 0).run.buf = true) ∧
    (∃ s L, s.focus = [0] ∧ cmdLaunches s (mgmtOf s 0).run = [L] ∧ (mgmtOf s 0).run.gang = 0xFF) ∧
    (∃ s : State, s.focus = [0] ∧ cmdLaunches s (mgmtOf s 0).run = [] ∧ (mgmtOf s 0).run.gang = 0xFF) ∧
    (∀ x ∈ [(0, 0), (1, 0), (1, 0xF1)], ∃ s L, s.focus = [0] ∧ s.launches = [L] ∧ L.ctx = (mgmtOf s 0).run.ctx ∧ L.die = 0 ∧ (mgmtOf s 0).run.sub = x.1 ∧
      (mgmtOf s 0).run.arg % 2 ^ 32 = 7 ∧ L.requests = [{ num := 7, index := x.2, answer := 0 }]) ∧
    (∃ s : State, s.focus = [0] ∧ s.launches = []) ∧
    (∃ s, s.focus = [0] ∧ walk s 0 (mgmtOf s 0).run.ctx ((mgmtOf s 0).run.addr % 2 ^ 57) = .leaf 0x30000 0x41F (2 ^ 30)) ∧
    (∃ s, s.focus = [0] ∧ walk s 0 (mgmtOf s 0).run.ctx ((mgmtOf s 0).run.addr % 2 ^ 57) = .none) ∧
    (∃ s g, s.focus = [0] ∧ targetGang s (mgmtOf s 0).run = some g ∧ (mgmtOf s 0).run.gang ≠ 0xFF ∧ g.stopped = false ∧ g.slot.isSome ∧ (mgmtOf s 0).run.buf % 64 = 0) ∧
    (∃ s g, s.focus = [0] ∧ targetGang s (mgmtOf s 0).run = some g ∧ g.stopped = true ∧ (mgmtOf s 0).run.buf % 64 = 0 ∧ physOk s (mgmtOf s 0).run.buf = true ∧
      physOk s ((mgmtOf s 0).run.buf + (stateImage s g).length - 1) = true) ∧
    (∃ s, s.focus = [0] ∧ targetGang s (mgmtOf s 0).run = none ∧ (mgmtOf s 0).run.gang ≠ 0xFF ∧ (mgmtOf s 0).run.buf % 64 ≠ 0) ∧
    (∃ s k, s.focus = [0] ∧ cmdCore s (mgmtOf s 0).run = some k) ∧ ∃ s : State, s.focus = [0] ∧ cmdCore s (mgmtOf s 0).run = none := by
  refine ⟨fun x _ => ⟨withCmd { ctx := x, addr := 1 } (ts (tg tc)), rfl, rfl, rfl, ?_⟩,
    fun k hk => ⟨withCmd { sub := k } (ts (tg tc)), launchD (ts (tg tc)) 0, rfl, rfl, by decide +revert +kernel, rfl, rfl, by decide +revert +kernel⟩,
    ⟨withCmd { gang := 0xFF } (ts (tg tc)), launchD (ts (tg tc)) 0, rfl, by decide +kernel⟩, ⟨withCmd { gang := 0xFF } State.reset, by decide +kernel⟩,
    fun x hx => ⟨withCmd { arg := 7, sub := x.1 } (asking x.2 (ts (tg tc))), launchD (asking x.2 (ts (tg tc))) 0, rfl, rfl, rfl, rfl, rfl, rfl, rfl⟩,
    ⟨withCmd {} State.reset, rfl, rfl⟩,
    ⟨focused { mapped (ts (tg tc)) with dies := [{ mgmt := { ctxtab := 0x8000, run := { addr := 64 } } }, {}] } [0], rfl, by decide +kernel⟩,
    ⟨focused { mapped (ts (tg tc)) with dies := [{ mgmt := { ctxtab := 0x8000, run := { addr := 2 ^ 31 } } }, {}] } [0], rfl, by decide +kernel⟩,
    ⟨withCmd {} (ts (tg tc)), tg tc, by decide +kernel⟩,
    ⟨withCmd {} (ts stoppedGang), stoppedGang, rfl, rfl, rfl, rfl, rfl, by decide +kernel⟩, ⟨withCmd { buf := 1 } State.reset, rfl, rfl, by decide⟩,
    ⟨withCmd {} State.reset, 0, rfl, rfl⟩, ⟨withCmd { core := 0x800 } State.reset, rfl, rfl⟩⟩
  simp only [List.mem_cons, List.not_mem_nil, or_false] at *
  rename_i h
  rcases h with rfl | rfl <;> decide +kernel

/-- Operands at the bounds of `SAMPLE` and of `REGION_BP`, at the values beyond them, and with no breakpoint and no buffer; a
`RESUME` of a gang that must stop. -/
theorem witness_ManagementCommands_bounds :
    (∀ k ∈ [1, 9, 25, 255], k ≠ 0 ∧ (k < 10 ∨ 24 < k)) ∧
    (∃ s L, s.focus = [0] ∧ cmdLaunches s (mgmtOf s 0).run = [L] ∧ (mgmtOf s 0).run.sub = 0 ∧ (mgmtOf s 0).run.buf % 64 = 0 ∧
      physOk s (mgmtOf s 0).run.buf = false) ∧
    (∃ s : State, s.focus = [0] ∧ cmdLaunches s (mgmtOf s 0).run = [] ∧ (mgmtOf s 0).run.sub = 8 ∧ (mgmtOf s 0).run.buf % 64 = 0 ∧
      physOk s (mgmtOf s 0).run.buf = true) ∧
    (∀ c ∈ [({ sub := 9 } : Cmd), { sub := 1, buf := 63 }, { sub := 1, buf := 2 ^ 47 }], let s := withCmd c State.reset
      8 < (mgmtOf s 0).run.sub ∨ (mgmtOf s 0).run.buf % 64 ≠ 0 ∨ ((mgmtOf s 0).run.sub ≠ 0 ∧ physOk s (mgmtOf s 0).run.buf = false)) ∧
    ∃ s g, s.focus = [0] ∧ targetGang s (mgmtOf s 0).run = some g ∧ g.stopped = true ∧ mustStop s g = true :=
  ⟨by decide, ⟨withCmd { buf := 2 ^ 47 } (ts (tg tc)), launchD (ts (tg tc)) 0, rfl, rfl, rfl, by decide, by decide +kernel⟩,
   ⟨withCmd { sub := 8 } State.reset, rfl, rfl, rfl, rfl, by decide +kernel⟩, by decide +kernel,
   withCmd {} (ends (ts stoppedGang)), stoppedGang, rfl, rfl, rfl, rfl⟩

/-- The queue has a tail that the sequencer has observed; its ring stands at an address. -/
def tailed (tail : Nat) (ring : Memory) (s : State) : State :=
  let t := queueing 1 0 s
  { t with mem := ring ++ t.mem, dies := t.dies.map fun d => { d with tails := [(0, tail)] } }

/-- The page tables with these bytes above them; a die that takes an entry; a descriptor at 0x40000 that is legal, of one cluster of one gang. -/
def stocked (ms : Memory) : State := { mapped (ts (tg tc)) with mem := (mapped (ts (tg tc))).mem ++ ms }
def taking (ms : Memory) : State := modDie (stocked ms) 0 fun x => { x with takes := ((dieOf (stocked ms) 0).takes + 1) % 2 ^ 32 }
def legalDesc : Memory := [⟨0x40008, 1⟩, ⟨0x4000C, 1⟩, ⟨0x40010, 1⟩, ⟨0x40014, 1⟩, ⟨0x40015, 1⟩, ⟨0x40018, 8⟩]

/-- Entries of a queue: its ring beyond memory, of each kind, with the tail at its furthest and beyond. -/
theorem witness_SequencerEvents :
    (∃ s a r tail, nextEntry s 0 0 = some (a, r, tail) ∧ physOk s (r.ring + 16 * (r.head % r.size)) = false) ∧
    (∃ s a r tail, nextEntry s 0 0 = some (a, r, tail) ∧
      (let slot := r.ring + 16 * (r.head % r.size)
       physOk s slot = true ∧ physOk s (slot + 15) = true ∧ poisonedAt s (physLoc slot) 16 = true)) ∧
    (∀ k ∈ [0, 1, 2], ∃ s a r tail, nextEntry s 0 0 = some (a, r, tail) ∧
      (let slot := r.ring + 16 * (r.head % r.size)
       physOk s slot = true ∧ physOk s (slot + 15) = true ∧ poisonedAt s (physLoc slot) 16 = false ∧ (tail + 2 ^ 32 - r.head) % 2 ^ 32 ≤ r.size ∧ readNat s (physLoc slot) 4 = k)) ∧
    (∃ s a r tail, nextEntry s 0 0 = some (a, r, tail) ∧ physOk s (r.ring + 16 * (r.head % r.size)) = true ∧
      poisonedAt s (physLoc (r.ring + 16 * (r.head % r.size))) 16 = false ∧ r.size < (tail + 2 ^ 32 - r.head) % 2 ^ 32) := by
  refine ⟨⟨tailed 1 [⟨0x9007, 1⟩] { State.reset with mem := [] }, 0x9000, ⟨2 ^ 56, 256, true, 0, 0, 0⟩, 1, by decide +kernel⟩,
    ⟨{ tailed 1 [] State.reset with poison := [0] }, 0x9000, ⟨0, 256, true, 0, 0, 0⟩, 1, by decide +kernel⟩, fun k h => ?_,
    ⟨tailed 257 [] State.reset, 0x9000, ⟨0, 256, true, 0, 0, 0⟩, 257, by decide +kernel⟩⟩
  simp only [List.mem_cons, List.not_mem_nil, or_false] at h
  rcases h with rfl | rfl | rfl
  · exact ⟨tailed 256 [] State.reset, 0x9000, ⟨0, 256, true, 0, 0, 0⟩, 256, by decide +kernel⟩
  · exact ⟨tailed 256 [⟨0, 1⟩] State.reset, 0x9000, ⟨0, 256, true, 0, 0, 0⟩, 256, by decide +kernel⟩
  · exact ⟨tailed 256 [⟨0, 2⟩] State.reset, 0x9000, ⟨0, 256, true, 0, 0, 0⟩, 256, by decide +kernel⟩

/-- Descriptors: one that cannot be read; whose record is misaligned, in an aperture, and where nothing is mapped; an illegal and a
legal one; one whose lease table cannot be read. -/
theorem witness_SequencerEvents_launches :
    (readWork (taking []) 0 0 0x80000000 256).2 = none ∧
    (∀ x ∈ ([([⟨0x40040, 1⟩], 1), ([⟨0x40045, 0xF0⟩, ⟨0x40046, 0xFF⟩, ⟨0x40047, 0x0F⟩], 0x0FFFF00000000000), ([⟨0x40043, 0x80⟩], 0x80000000), ([], 0), (legalDesc, 0)] :
      List (Memory × Dbl)), let r := readWork (taking x.1) 0 0 0x40000 256; r.2.isSome ∧ ∀ bs ∈ r.2,
        let d := parseDesc bs
        d.done = x.2 ∧ (d.done.toNat % 64 ≠ 0 ↔ x.2 = 1) ∧ (workAddr d.done = false ↔ x.2 = 0x0FFFF00000000000) ∧
        (d.done.toNat % 64 = 0 → workAddr d.done = true → (deviceWrite r.1 0 0 (vaOf d.done) [0, 0, 0, 0]).2 = decide (x.2 = 0)) ∧
        d.ok = decide (x.1 = legalDesc) ∧ d.graph = 0 ∧ (readLeases r.1 0 0 d).2 = some []) ∧
    (let r := readWork (taking (legalDesc ++ [⟨0x40033, 0x80⟩, ⟨0x40038, 1⟩])) 0 0 0x40000 256; r.2.isSome ∧ ∀ bs ∈ r.2,
      (parseDesc bs).ok = true ∧ (parseDesc bs).graph = 0 ∧ (readLeases r.1 0 0 (parseDesc bs)).2 = none) ∧
    (let s := onLaunch (mapped (ts (tg tc))) fun L => { L with state := .leaseWait }
     let L := launchD s 0
     launchOf s L.id = some L ∧ L.ending = none ∧ L.state = .leaseWait ∧ missing s L = []) := by decide +kernel

/-- Graph headers: one that cannot be read; whose record is misaligned; one that is rejected; one of a node. -/
theorem witness_SequencerEvents_graphs :
    (readWork (stocked []) 0 0 0x80000000 64).2 = none ∧
    (∀ x ∈ ([([⟨0x40020, 1⟩], 1), ([], 0), ([⟨0x40000, 1⟩], 0)] : List (Memory × Nat)),
      let r := readWork (stocked x.1) 0 0 0x40000 64; r.2.isSome ∧ ∀ bs ∈ r.2,
        let h := parseHeader bs
        h.done % 64 = x.2 ∧ ((readGraph r.1 0 0 h).2.isSome ↔ x.1 = [⟨0x40000, 1⟩]) ∧
        (x.1 = [] → (writeDone (readGraph r.1 0 0 h).1 0 0 (BitVec.ofNat 64 h.done) (doneBytes 5 h.tag 0 0 0 0 0xFFFF 0 0 0)).2 = true)) ∧
    (let r := readWork (stocked [⟨0x40023, 0x80⟩]) 0 0 0x40000 64; r.2.isSome ∧ ∀ bs ∈ r.2,
      let h := parseHeader bs
      h.done % 64 = 0 ∧ (readGraph r.1 0 0 h).2 = none ∧
        (writeDone (readGraph r.1 0 0 h).1 0 0 (BitVec.ofNat 64 h.done) (doneBytes 5 h.tag 0 0 0 0 0xFFFF 0 0 0)).2 = false) := by decide +kernel

/-- A cluster whose parameters are read, may not be, are in error, and are awaited. -/
def unready (n : Nat) (s : State) : State :=
  { onLaunch s (fun L => { L with desc := { L.desc with nparam := n } }) with
    clusters := [{ id := 0, launch := 0, index := 0, blocks := [0], ready := false }], focus := [0] }
/-- A launch of which nothing runs. -/
def idleLaunch (f : Launch → Launch) : State :=
  onLaunch (focused { mapped (ts (tg tc)) with gangs := [], blocks := [], clusters := [] } [0]) fun L => f { L with ending := some 4 }

theorem witness_SequencerEvents_ends :
    (∀ x ∈ [(unready 0 (ts (tg tc)), DRead.ok []), (unready 1 (ts (tg tc)), .away), (unready 1 { mapped (ts (tg tc)) with poison := [0] }, .error)],
      (clusterOf x.1 (x.1.focus.headD 0)).isSome ∧ ∀ k ∈ clusterOf x.1 (x.1.focus.headD 0), k.ready = false ∧ areaAsked x.1 k.launch 0xF0 = false ∧
        (launchD x.1 k.launch).ending = none ∧ (deviceRead x.1 0 0 (vaOf (launchD x.1 k.launch).desc.param) (16 * (launchD x.1 k.launch).desc.nparam)).2 = x.2) ∧
    (let s := unready 1 (asking 0xF0 (ts (tg tc)))
     ∀ k ∈ clusterOf s (s.focus.headD 0), k.ready = false ∧ areaAsked s k.launch 0xF0 = true ∧ (launchD s k.launch).ending = none) ∧
    (∀ f ∈ [(fun L => { L with closed := true } : Launch → Launch), id, fun L => { L with kill := some [1] }], let s := idleLaunch f
     launchOf s (s.focus.headD 0) = some (launchD s 0) ∧ launchOver s (launchD s 0) = true ∧ eventRoom s 0 = true) ∧
    (let s0 := idleLaunch fun L => { L with kill := some [1] }
     let s := { s0 with dies := s0.dies.map fun d => { d with events := List.replicate 256 { type := 6, bytes := [] } } }
     launchOf s (s.focus.headD 0) = some (launchD s 0) ∧ launchOver s (launchD s 0) = true ∧ (launchD s 0).closed = false ∧
       (launchD s 0).kill.isSome ∧ eventRoom s (launchD s 0).die = false) ∧
    (∀ e ∈ [true, false], let s0 := idleLaunch fun L => { L with kill := some [1] }
     let s := if e then s0 else { s0 with dies := s0.dies.map fun d => { d with events := List.replicate 256 { type := 6, bytes := [] } } }
     eventRoom s (launchD s 0).die = e ∧ killHeld s (launchD s 0) = true) ∧ killHeld (idleLaunch id) (launchD (idleLaunch id) 0) = false ∧
    (∀ a ∈ [none, some 0, some 1, some 2], let L := { launchD (idleLaunch id) 0 with requests := a.toList.map fun x => { num := 0, index := 0xF1, answer := x } }
     (L.requests.find? fun r => r.index == 0xF1).map Request.answer = a ∧ L.node = none) ∧
    (deviceReach (idleLaunch id) 0 0 0 64 true = true ∧ deviceReach (idleLaunch id) 0 0 0x80000000 64 true = false) ∧
    ((workWrite (stocked []) 0 0 4 [7]).2 = true ∧ (workWrite (stocked []) 0 0 0x80000000 [7]).2 = false ∧
      (deviceRead (stocked []) 0 0 0x80000000 64).2 = .away ∧ (deviceRead { stocked [] with poison := [4] } 0 0 64 64).2 = .error) ∧
    ((deviceWrite (stocked []) 0 0 4 [7]).2 = true ∧ (deviceWrite (stocked []) 0 0 0x80000000 [7]).2 = false) := by decide +kernel

/-- The module of `mapped` with the first GiB in the memory of die 1; the seam of die 0 fails. -/
def crossing (g : Gang) : State :=
  let s := mapped (ts g)
  focused { s with mem := wrByte s.mem 0x30005 0x40 } [0, 9]

/-- A walk for a fetch that finds a translation buffered; that finds one in the tables; that finds none there, or a table where
memory is not. -/
theorem witness_OutsideEvents_walks :
    (let s := focused (translateNew (mapped (ts (tg tc))) (.fetch 0) 0 64).1 [0, 0, 64]
     coreExists 0 = true ∧ found s (.fetch 0) 0 64 ≠ []) ∧
    (let s := focused (mapped (ts (tg tc))) [0, 0, 64]
     found s (.fetch 0) 0 64 = [] ∧ (translateNew s (.fetch 0) 0 64).2 = .ok 64 0x41F) ∧
    (let s := focused (mapped (ts (tg tc))) [0, 0, 2 ^ 31]
     found s (.fetch 0) 0 (2 ^ 31) = [] ∧ (translateNew s (.fetch 0) 0 (2 ^ 31)).2 = .fail 0x10 none) ∧
    (let s := focused { mapped (ts (tg tc)) with mem := wrByte (mapped (ts (tg tc))).mem 0x10005 0x80 } [0, 0, 64]
     found s (.fetch 0) 0 64 = [] ∧ (translateNew s (.fetch 0) 0 64).2 = .fail 0x11 (some (2 ^ 47 + 0x20000))) := by decide +kernel

/-- Errors of memory, of each storage of a core, of each store of an engine, of a task's record. -/
theorem witness_OutsideEvents_errors :
    (∀ ok ∈ [0, 1], ∃ s, homeDie s 64 = some 0 ∧ s.focus = [0, 0, 64, ok] ∧ physOk s 64 = true) ∧
    (∀ kind ∈ [1, 2, 3], ∀ ok ∈ [0, 1], (errorPlace (focused (ts (tg tc)) [kind, 0, 0, ok]) kind 0).isSome) ∧
    (∀ kind ∈ [4, 5, 6, 7], 4 ≤ kind ∧ kind ≤ 7 ∧ coreExists 0 = true ∧ (focused State.reset [kind, 0, 0, 0]).focus = [kind, 0, 0, 0]) ∧
    (let s := focused (withTask (ts (tasked (tg tc))) [] 0) [9, 0x00010005, 3, 0]
     (taskOf s 0x00010005).isSome ∧ ∀ t ∈ taskOf s 0x00010005, t.index < 4096) := by
  refine ⟨fun ok _ => ⟨focused State.reset [0, 0, 64, ok], rfl, rfl, ?_⟩, by decide +kernel, by decide +kernel, by decide +kernel⟩
  have h : physOk (focused State.reset [0, 0, 64, 0]) 64 = true := by decide +kernel
  exact h

/-- A sweep that is due, and a mark that waits for one; an error in a line of an instruction cache; an access of a lane, and one of
a copy, in flight on the seam when it fails. -/
theorem witness_OutsideEvents_links :
    (∃ s : State, s.time / 2 ^ 19 ≠ s.swept) ∧ (∃ s : State, ∃ e ∈ s.tlb, e.pending = true) ∧
    (coreExists 0 = true ∧ (focused State.reset [10, 0, 0x1000, 0]).focus = [10, 0, 0x1000, 0]) ∧
    (let g : Gang := { globGang tc with pending := some { op := .load 4 0 false 4 8, lanes := 1 } }
     let s := crossing g
     let r := errorResponse (modDie s 0 fun x => { x with failedPorts := 9 :: x.failedPorts, retrying := x.retrying.filter fun y => y.1 != 9 }) 0 0 0 0 none 3
     s.focus = [0, 9] ∧ s.gangs = [g] ∧ s.copies = [] ∧ outstanding g = [] ∧ 9 ∉ (dieOf s 0).failedPorts ∧
       inFlight r 0 9 g = [(0, 64, 2 ^ 46 + 64)] ∧ crossesPort s 0 9 (2 ^ 46 + 64) = true) ∧
    (let s0 := withCopy (crossing (tg tc)) (moving 0x2000)
     let s := { s0 with gangs := [] }
     let r := errorResponse (modDie s 0 fun x => { x with failedPorts := 9 :: x.failedPorts, retrying := x.retrying.filter fun y => y.1 != 9 }) 0 0 0 0 none 3
     s.copies = [moving 0x2000] ∧ coreDie (moving 0x2000).core = 0 ∧ copyInFlight r (moving 0x2000) = some (0x2000, 2 ^ 46 + 0x2000) ∧
       crossesPort r 0 9 (2 ^ 46 + 0x2000) = true ∧ ¬ ((moving 0x2000).scatters = true ∧ (moving 0x2000).buf ≠ [])) ∧
    ∃ s : State, s.hostPort = true := by
  refine ⟨⟨{ State.reset with time := 2 ^ 19 }, by decide⟩,
    ⟨{ State.reset with tlb := [{ die := 0, ctx := 0, base := 0, size := 4096, leafAt := 0x3000, leaf := 0x1F, pending := true }] }, _, List.mem_singleton.2 rfl, rfl⟩,
    ⟨rfl, rfl⟩, ⟨rfl, rfl, rfl, rfl, by decide, by decide +kernel, by decide +kernel⟩,
    ⟨rfl, rfl, by decide +kernel, by decide +kernel, by decide⟩, { State.reset with hostPort := true }, rfl⟩

theorem witness_OutsideEvents :
    (∀ p ∈ [0, 9], ∀ ch ∈ [0, 3], ∀ ok ∈ [0, 1], 1 < 2 ∧ p < 10 ∧ ch < 4 ∧ (focused State.reset [1, p, ok, ch]).focus = [1, p, ok, ch]) ∧
    (∃ s : State, s.focus = [1, 9] ∧ s.gangs = [] ∧ s.copies = [] ∧ 9 ∉ (dieOf s 1).failedPorts) ∧
    (∀ x ∈ [(-4 : Int), 0, 4], ∀ slew < 9, ∃ s, s.focus = [0, 0, slew] ∧ coreExists 0 = true ∧ (coreOf s 0).slew = x) ∧
    (∃ s, s.focus = [0, 0] ∧ coreExists 0 = true ∧ (coreOf s 0).step = -19) ∧ (∃ s : State, s.focus = [0, 1]) ∧
    (∃ s : State, s.boot.state ≠ 0) ∧ (∃ s : State, s.boot.since.isSome) ∧
    (Config.imageSigned 0 = true → Config.partSigned 0 = true → ∃ s : State, s.boot.state = 0 ∧ s.boot.since = none ∧ s.focus = [1, 1, 1] ∧
      Config.imageSigned s.boot.flashBody = true ∧ s.boot.recorded ≤ s.boot.flashVersion ∧ Config.partSigned s.boot.partRecord = true) ∧
    (Config.imageSigned 0 = true → Config.partSigned 0 = true → ∃ s : State, s.boot.state = 0 ∧ s.boot.since = none ∧
      startFails s.boot s.focus = none ∧ testsPass s.focus = false) ∧
    (∃ (s : State) (r : Nat), s.boot.state = 0 ∧ s.boot.since = none ∧ startFails s.boot s.focus = some r) ∧
    (∃ (s : State) (t : Nat), s.boot.state = 0 ∧ s.boot.since = some t ∧ t + 2000000000 ≤ s.time) ∧
    (∃ s : State, s.focus = [2 ^ 32 - 1, 0] ∧ s.boot.state = 2) ∧
    (∃ s : State, s.focus = [2 ^ 32 - 1, 0] ∧ s.boot.state = 3 ∧ s.boot.recorded ≤ 2 ^ 32 - 1) ∧
    ∃ s : State, s.focus = [0, 0] ∧ s.boot.state = 3 ∧ 0 < s.boot.recorded := by
  refine ⟨by decide, ⟨focused State.reset [1, 9], rfl, rfl, rfl, by decide⟩,
    fun x _ slew _ => ⟨{ focused State.reset [0, 0, slew] with cores := [(0, { slew := x })] }, rfl, rfl, rfl⟩,
    ⟨{ focused State.reset [0, 0] with cores := [(0, { step := -19 })] }, rfl, rfl, rfl⟩, ⟨focused State.reset [0, 1], rfl⟩,
    ⟨{ State.reset with boot := { state := 1 } }, by decide⟩, ⟨{ State.reset with boot := { since := some 5 } }, rfl⟩,
    fun h k => ⟨focused State.reset [1, 1, 1], rfl, rfl, rfl, h, Nat.le_refl 0, k⟩,
    fun h k => ⟨focused State.reset [1, 1, 2], rfl, rfl, by simp [startFails, focused, State.reset, h, k], rfl⟩, ?_,
    ⟨{ State.reset with boot := { since := some 5 }, time := 2000000005 }, 5, rfl, rfl, by decide⟩,
    ⟨{ focused State.reset [2 ^ 32 - 1, 0] with boot := { state := 2 } }, rfl, rfl⟩,
    ⟨{ focused State.reset [2 ^ 32 - 1, 0] with boot := { state := 3 } }, rfl, rfl, by decide⟩,
    ⟨{ focused State.reset [0, 0] with boot := { state := 3, recorded := 1 } }, rfl, rfl, by decide⟩⟩
  cases h : Config.imageSigned 0
  · exact ⟨State.reset, 1, rfl, rfl, by simp [startFails, State.reset, h]⟩
  · exact ⟨{ State.reset with boot := { recorded := 1 } }, 2, rfl, rfl, by simp [startFails, h]⟩

/-- Each shape of word with its operands at a boundary; an event, which has no word. -/
theorem witness_EncodeThenDecode : (Instr.bra 63 0xFFFFF).wf = true ∧ encode (.bra 63 0xFFFFF) ≠ 0 ∧ (Instr.ldsQ 1023 126 124).wf = true ∧
    Instr.issueSelect.wf = true ∧ encode .issueSelect = 0 ∧
    0x97800000 < 2 ^ 32 ∧ decodeWord 0x97800000 = .ok .dirtyHarvCtx ∧ (0x26 * 2 ^ 26 ≤ 0xFFFFFFFF ∧ 0xFFFFFFFF < 2 ^ 32) := by decide

/-- A gang at a `nop`, at an illegal word, and with an event and a host's write on the agenda. -/
theorem witness_StepRunsDecoded :
    (∃ s g c i, issuer s = some (g, c) ∧ decodeWord (wordOf c) = .ok i) ∧ (∃ s g c e, issuer s = some (g, c) ∧ decodeWord (wordOf c) = .error e) ∧
    (∃ (s : State) (i : Instr) (f : List Nat) (r : List Work), s.issuing = none ∧ s.agenda = .event i f :: r) ∧
    (∃ s pa bs r, s.issuing = none ∧ s.agenda = .hostWrite pa bs :: r ∧ bs.length = 1 ∧ ∀ i < bs.length, physOk s (pa + i) = true) ∧
    (∃ s pa bs r, s.issuing = none ∧ s.agenda = .hostWrite pa bs :: r ∧ bs.length = 1 ∧ physOk s (pa + 0) = false) ∧
    (∃ (s : State) (on : Bool) (r : List Work), s.issuing = none ∧ s.agenda = .hostMode on :: r) ∧
    (∃ s : State, s.issuing = none ∧ s.agenda = [] ∧ first s ≠ []) ∧ ∃ s : State, s.issuing = none ∧ s.agenda = [] ∧ first s = [] := by
  refine ⟨⟨ts (tg { tc with words := [0x0C000000] }), _, _, .nop, rfl, by decide⟩, ⟨ts (tg tc), _, _, _, rfl, rfl⟩,
    ⟨{ State.reset with agenda := [.event .issueSelect [0, 0]] }, _, _, _, rfl, rfl⟩,
    ⟨{ State.reset with agenda := [.hostWrite 64 [1]] }, 64, [1], [], by decide +kernel⟩,
    ⟨{ State.reset with agenda := [.hostWrite (2 ^ 47) [1]] }, 2 ^ 47, [1], [], by decide +kernel⟩,
    ⟨{ State.reset with agenda := [.hostMode true] }, _, _, rfl, rfl⟩, ⟨{ State.reset with time := 2 ^ 19 }, rfl, rfl, by decide +kernel⟩, State.reset, rfl, rfl, rfl⟩

theorem witness_NothingStops : (∃ s, (issuer s).isSome = true) ∧ encode .tlbWalk = 0 ∧
    ∃ s : State, s.issuing = none ∧ s.agenda ≠ [] ∧ ∀ w ∈ s.agenda, ∀ i f, w = .event i f → encode i = 0 :=
  ⟨⟨ts (tg tc), rfl⟩, rfl, { State.reset with agenda := [.event .issueSelect [0, 0]] }, rfl, by decide, by
    intro w hw i f h
    simp only [List.mem_cons, List.not_mem_nil, or_false] at hw
    rw [hw] at h
    cases h
    rfl⟩

/-- A step from a state whose memory is canonical: a `nop`. -/
theorem witness_StepKeepsMemory : Memory.wf (mapped (ts (tg { tc with words := [0x0C000000] }))).mem = true ∧
    Memory.wf (mapped (ts (tg { tc with words := [0x0C000000] }))).tags = true ∧ (issuer (mapped (ts (tg { tc with words := [0x0C000000] })))).isSome = true := by
  decide

/-! ### Single steps: results that the rules work out, or worked out by hand from them -/

/-- Lane 0 of a gang with the given registers after one instruction: its thread. -/
def lane0 (i : Instr) (regs : FMap Word) : Thread :=
  match exec i (ts (withRegs (tg oneLane) regs)) with
  | .next t => ((gangOf t 0).map fun g => thr g 0).getD {}
  | _ => {}
def result (i : Instr) (regs : FMap Word) (d : Nat) : Word := rdReg 0 (lane0 i regs) d

/-- The worked case of R8. -/
theorem test_add_source_is_destination : result (.add 5 5 5) [(5, 0xFFFFFFFF)] 5 = 0xFFFFFFFE := by decide +kernel
/-- The worked case of R141. -/
theorem test_shifts_beyond_the_width : result (.shl 5 4 6) [(4, 0x80000001), (5, 33)] 6 = 0 ∧ result (.shr 5 4 7) [(4, 0x80000001), (5, 33)] 7 = 0 ∧
    result (.sar 5 4 8) [(4, 0x80000001), (5, 33)] 8 = 0xFFFFFFFF ∧ result (.rol 5 4 9) [(4, 0x80000001), (5, 33)] 9 = 3 ∧
    result (.ror 5 4 10) [(4, 0x80000001), (5, 33)] 10 = 0xC0000000 := by decide +kernel
/-- R141: the most negative number has no absolute value but itself. -/
theorem test_abs_of_the_least : result (.abs 4 5) [(4, 0x80000000)] 5 = 0x80000000 := by decide +kernel
/-- The worked case of R143: truncation toward zero, the sign of the dividend, division by zero, the one overflow. -/
theorem test_division : result (.div 6 5 7) [(5, 7), (6, 0xFFFFFFFE)] 7 = 0xFFFFFFFD ∧ result (.rem 6 5 8) [(5, 0xFFFFFFF9), (6, 2)] 8 = 0xFFFFFFFF ∧
    result (.div 6 5 7) [(5, 0x80000000), (6, 0xFFFFFFFF)] 7 = 0x80000000 ∧ result (.rem 6 5 8) [(5, 0x80000000), (6, 0xFFFFFFFF)] 8 = 0 := by
  decide +kernel
/-- The worked case of R144. -/
theorem test_bit_fields : result (.bfen 5 4 8) [(4, 0xABCD), (5, 0x804)] 8 = 0xBC ∧ result (.bfe 5 4 9) [(4, 0xABCD), (5, 0x804)] 9 = 0xFFFFFFBC ∧
    result (.bfi 5 7 6) [(6, 0x11111111), (7, 0xEE), (5, 0x804)] 6 = 0x11111EE1 := by decide +kernel
/-- The worked case of R147: the two halves of a constant. -/
theorem test_constant : result (.movi 0x1678 5) [] 5 = 0x1678 ∧ result (.movhi 0x91A2 5) [(5, 0x1678)] 5 = 0x12345678 := by decide +kernel
/-- R145: the immediate is signed. -/
theorem test_addi_minus_one : result (.addi 4095 3 3) [(3, 0)] 3 = 0xFFFFFFFF := by decide +kernel
/-- The worked case of R174: the product is not rounded before the sum; and the same by `fmul`, where it is. -/
theorem test_fma_rounds_once : result (.fma 0 6 5 7) [(5, 0x3F800001), (6, 0x3F7FFFFE), (7, 0xBF800000)] 7 = 0xA8800000 ∧
    result (.fmul 0 6 5 8) [(5, 0x3F800001), (6, 0x3F7FFFFE)] 8 = 0x3F800000 := by decide +kernel
/-- The worked case of R179: infinity in one half, a tie to even with nx in the other. -/
theorem test_half_pairs : result (.hadd2Bf16 0 5 4 6) [(4, 0x3F803F80), (5, 0x3B807F80)] 6 = 0x3F807F80 ∧
    (lane0 (.hadd2Bf16 0 5 4 6) [(4, 0x3F803F80), (5, 0x3B807F80)]).aflags = 16 := by decide +kernel
/-- R172: infinity less infinity is the canonical NaN; a finite number by zero is infinite, with the sign of both. -/
theorem test_special_cases : result (.fsub 0 5 4 6) [(4, 0x7F800000), (5, 0x7F800000)] 6 = 0x7FC00000 ∧
    result (.fdiv 0 5 4 6) [(4, 0xBF800000), (5, 0)] 6 = 0xFF800000 := by decide +kernel
/-- The worked case of R272 is tested on code 0x1213 with entry 0x12 at 0x01152031 in the engine of the gang's block. -/
theorem test_cbdec :
    (match exec (.cbdec 5 6) (let s := engined [] [] [] (withRegs (tg oneLane) [(5, 0x1213)])
        { s with cores := s.cores.map fun k => (k.1, { k.2 with engine := { k.2.engine with lattice := [(0x12, 0x01152031)] } }) }) with
      | .next t => ((gangOf t 0).map fun g => rdReg 0 (thr g 0) 6)
      | _ => none) = some 0x122C31E2 := by decide +kernel
/-- The worked case of R184, two of its rows: 65,538.0 to FP16 overflows to infinity, and toward zero with saturation to the
greatest finite number; of and nx. -/
theorem test_conversions : decodeWord 0x54A00206 = .ok (.cvt 5 0 0 4 6) ∧ result (.cvt 5 0 0 4 6) [(4, 0x47800100)] 6 = 0x7C00 ∧
    (lane0 (.cvt 5 0 0 4 6) [(4, 0x47800100)]).aflags = 0x14 := by decide +kernel
/-- R170: `frint.rd` of -1.5 is -2; a comparison with NaN is false. -/
theorem test_rounding_mode : result (.frint 3 4 3) [(4, 0xBFC00000)] 3 = 0xC0000000 ∧
    rdPred (lane0 (.fcmpLt 5 4 2) [(4, 0x7FC00000), (5, 0)]) 2 = false := by decide +kernel
/-- The worked case of R128: four lanes with two targets make two entries. -/
theorem test_jmpi_gathers_targets :
    (match exec (.jmpi 3 8) (ts { withRegs (tg { tc with act := 0xF }) [(8, 0x1000)] with
        threads := setAt (List.replicate 32 { regs := [(8, 0x1000)] }) 2 { regs := [(8, 0x2000)] } }) with
      | .next t => ((gangOf t 0).map fun g => (g.frontier.filter fun e => e.prio == 3).map fun e => (e.pc, e.mask))
      | _ => none) = some [(0x1000, 0xB), (0x2000, 4)] := by decide +kernel
/-- The worked case of R58: register 24 of a window at 40 lies outside 64 registers, in the PC's fault 0x03; g0 reads 0. -/
theorem test_window : windowBad 0 64 { wbase := 40 } [.reg 24] = some 64 ∧ windowBad 0 64 { wbase := 40 } [.reg 23] = none ∧
    result (.add 0 5 5) [(5, 7)] 5 = 7 ∧ result (.add 5 5 0) [(5, 7)] 0 = 0 := by decide +kernel

end Sys2Proof.Tests
end

section
/-! The priority frontier (R116 to R119) and where an instruction that is complete leaves its gang (R51, R118). -/

namespace Sys2Proof.Machine

/-! ### The order of entries (R116) -/

theorem Entry.before_iff (a b : Entry) :
    a.before b = true ↔ b.prio < a.prio ∨ (a.prio = b.prio ∧ a.pc.toNat < b.pc.toNat) := by
  simp [Entry.before]

theorem Entry.before_trans {a b c : Entry} (hab : a.before b = true) (hbc : b.before c = true) : a.before c = true := by
  rw [Entry.before_iff] at *; omega

/-- Two entries at different PCs stand in one order or the other. -/
theorem Entry.before_of_not_before {a b : Entry} (hpc : a.pc ≠ b.pc) (h : ¬ a.before b = true) : b.before a = true := by
  have hne : a.pc.toNat ≠ b.pc.toNat := fun hn => hpc (BitVec.eq_of_toNat_eq hn)
  rw [Entry.before_iff] at *; omega

/-! ### Putting an entry at its place -/

theorem placeEntry_perm (e : Entry) : ∀ fr : List Entry, (placeEntry e fr).Perm (e :: fr)
  | [] => .refl _
  | x :: xs => by
    unfold placeEntry
    split
    · exact .refl _
    · exact ((placeEntry_perm e xs).cons x).trans (.swap e x xs)

@[simp] theorem mem_placeEntry {e x : Entry} {fr : List Entry} : x ∈ placeEntry e fr ↔ x = e ∨ x ∈ fr := by
  rw [(placeEntry_perm e fr).mem_iff, List.mem_cons]

theorem placeEntry_pairwise_before {e : Entry} : ∀ {fr : List Entry}, fr.Pairwise (fun a b => a.before b = true) →
    (∀ x ∈ fr, e.pc ≠ x.pc) → (placeEntry e fr).Pairwise fun a b => a.before b = true
  | [], _, _ => List.pairwise_singleton _ _
  | x :: xs, hord, hpc => by
    obtain ⟨hx, hxs⟩ := List.pairwise_cons.mp hord
    obtain ⟨hex, hexs⟩ := List.forall_mem_cons.mp hpc
    unfold placeEntry
    split
    case isTrue he =>
      exact List.pairwise_cons.mpr ⟨List.forall_mem_cons.mpr ⟨he, fun y hy => Entry.before_trans he (hx y hy)⟩, hord⟩
    case isFalse he =>
      refine List.pairwise_cons.mpr ⟨fun y hy => ?_, placeEntry_pairwise_before hxs hexs⟩
      obtain rfl | hy := mem_placeEntry.mp hy
      · exact Entry.before_of_not_before hex he
      · exact hx y hy

/-! ### Inserting one entry (R119) -/

/-- What an entry x of the frontier and an entry inserted at its PC make. -/
def mergedEntry (x e : Entry) : Entry :=
  { pc := e.pc, prio := max x.prio e.prio, mask := x.mask ||| e.mask, target := x.target || e.target }

/-- What inserting an entry can do: the entry, at a new PC, or what it and the entry at its PC make, is put at its place
among the entries at other PCs. -/
theorem insertEntry_cases (fr : List Entry) (e : Entry) :
    ∃ m, insertEntry fr e = placeEntry m (fr.filter fun y => y.pc != e.pc) ∧ m.pc = e.pc ∧
      ((m = e ∧ ∀ x ∈ fr, x.pc ≠ e.pc) ∨ ∃ x ∈ fr, x.pc = e.pc ∧ m = mergedEntry x e) := by
  unfold insertEntry
  split
  case h_1 hnone =>
    have hnew : ∀ x ∈ fr, x.pc ≠ e.pc := by simpa using hnone
    have hall : (fr.filter fun y => y.pc != e.pc) = fr := by simpa [List.filter_eq_self] using hnew
    exact ⟨e, by rw [hall], rfl, .inl ⟨rfl, hnew⟩⟩
  case h_2 x hsome =>
    exact ⟨mergedEntry x e, rfl, rfl, .inr ⟨x, List.mem_of_find?_eq_some hsome, by simpa using List.find?_some hsome, rfl⟩⟩

/-- A mask is not empty if and only if a lane is in it. -/
theorem mask_ne_zero_iff (m : Word) : m ≠ 0 ↔ ∃ l, inMask m l = true := by
  refine ⟨fun hm => ?_, fun ⟨l, hl⟩ hm => ?_⟩
  · by_contra hno
    exact hm (BitVec.eq_of_getLsbD_eq fun l _ => by simpa [inMask] using not_exists.mp hno l)
  · simp [hm, inMask] at hl

@[simp] theorem inMask_or (m n : Word) (l : Nat) : inMask (m ||| n) l = (inMask m l || inMask n l) :=
  BitVec.getLsbD_or

/-! ### The form of a frontier, and what it is the merge of -/

/-- A lane stands at a PC under one of these entries. -/
def StandsAt (es : List Entry) (pc : Dbl) (l : Nat) : Prop := ∃ e ∈ es, e.pc = pc ∧ inMask e.mask l = true

/-- The priorities of the entries at a PC, of those with a lane. -/
def priosAt (es : List Entry) (pc : Dbl) : Set Nat := {p | ∃ e ∈ es, e.mask ≠ 0 ∧ e.pc = pc ∧ e.prio = p}

/-- A frontier in its order, with one entry to a PC and a lane in each (R116, R119). -/
structure FrontierForm (fr : List Entry) : Prop where
  order : fr.Pairwise fun a b => a.before b = true
  onePc : fr.Pairwise fun a b => a.pc ≠ b.pc
  lanes : ∀ e ∈ fr, e.mask ≠ 0

/-- A frontier is what a list of entries merges into. -/
structure MergeOf (es fr : List Entry) : Prop where
  form : FrontierForm fr
  stands : ∀ pc l, StandsAt fr pc l ↔ StandsAt es pc l
  prio : ∀ e ∈ fr, IsGreatest (priosAt es e.pc) e.prio

@[simp] theorem standsAt_append (xs ys : List Entry) (pc : Dbl) (l : Nat) :
    StandsAt (xs ++ ys) pc l ↔ StandsAt xs pc l ∨ StandsAt ys pc l := by
  simp [StandsAt, or_and_right, exists_or]

@[simp] theorem standsAt_singleton (e : Entry) (pc : Dbl) (l : Nat) :
    StandsAt [e] pc l ↔ e.pc = pc ∧ inMask e.mask l = true := by
  simp [StandsAt]

/-- Where PCs are held once each, the entry at a PC is the only one. -/
theorem eq_of_pc_eq {fr : List Entry} {x y : Entry} (hone : fr.Pairwise fun a b => a.pc ≠ b.pc) (hx : x ∈ fr) (hy : y ∈ fr)
    (hpc : x.pc = y.pc) : x = y :=
  List.inj_on_of_nodup_map (List.pairwise_map.mpr hone) hx hy hpc

theorem standsAt_of_mem {fr : List Entry} {x : Entry} (hx : x ∈ fr) (hone : fr.Pairwise fun a b => a.pc ≠ b.pc) (l : Nat) :
    StandsAt fr x.pc l ↔ inMask x.mask l = true := by
  refine ⟨fun ⟨y, hy, hpc, hl⟩ => ?_, fun hl => ⟨x, hx, rfl, hl⟩⟩
  exact eq_of_pc_eq hone hy hx hpc ▸ hl

theorem mem_priosAt {es : List Entry} {pc : Dbl} {p : Nat} :
    p ∈ priosAt es pc ↔ ∃ e ∈ es, e.mask ≠ 0 ∧ e.pc = pc ∧ e.prio = p :=
  .rfl

theorem priosAt_append (xs ys : List Entry) (pc : Dbl) : priosAt (xs ++ ys) pc = priosAt xs pc ∪ priosAt ys pc := by
  ext p
  simp only [mem_priosAt, List.mem_append, or_and_right, exists_or, Set.mem_union]

theorem priosAt_singleton_ne {e : Entry} {pc : Dbl} (h : e.pc ≠ pc) : priosAt [e] pc = ∅ := by
  simp [priosAt, h]

theorem priosAt_singleton_empty {e : Entry} (h : e.mask = 0) (pc : Dbl) : priosAt [e] pc = ∅ := by
  simp [priosAt, h]

theorem priosAt_singleton_self {e : Entry} (h : e.mask ≠ 0) : priosAt [e] e.pc = {e.prio} := by
  ext p
  simp only [mem_priosAt, List.mem_singleton, exists_eq_left, h, not_false_eq_true, ne_eq, true_and, Set.mem_singleton_iff,
    eq_comm (a := p)]

/-- A PC where no lane stands has no priority. -/
theorem priosAt_eq_empty {es : List Entry} {pc : Dbl} (h : ∀ l, ¬ StandsAt es pc l) : priosAt es pc = ∅ := by
  refine Set.eq_empty_iff_forall_notMem.mpr fun p ⟨x, hx, hmask, hpc, _⟩ => ?_
  obtain ⟨l, hl⟩ := (mask_ne_zero_iff _).mp hmask
  exact h l ⟨x, hx, hpc, hl⟩

theorem priosAt_of_mem {fr : List Entry} {x : Entry} (hf : FrontierForm fr) (hx : x ∈ fr) : priosAt fr x.pc = {x.prio} := by
  refine Set.eq_singleton_iff_unique_mem.mpr ⟨⟨x, hx, hf.lanes x hx, rfl, rfl⟩, ?_⟩
  rintro _ ⟨y, hy, -, hpc, rfl⟩
  rw [eq_of_pc_eq hf.onePc hy hx hpc]

/-- A frontier of the form is the merge of itself. -/
theorem mergeOf_self {fr : List Entry} (hf : FrontierForm fr) : MergeOf fr fr where
  form := hf
  stands _ _ := .rfl
  prio _ he := priosAt_of_mem hf he ▸ isGreatest_singleton

/-- An entry with no lane adds nothing (R116). -/
theorem mergeOf_append_empty {es fr : List Entry} {e : Entry} (h : MergeOf es fr) (he : e.mask = 0) :
    MergeOf (es ++ [e]) fr where
  form := h.form
  stands pc l := by simp [h.stands, he, inMask]
  prio x hx := by simpa [priosAt_append, priosAt_singleton_empty he] using h.prio x hx

/-! ### Inserting entries one after the other -/

@[simp] theorem insertEntries_nil (fr : List Entry) : insertEntries fr [] = fr := rfl

theorem insertEntries_cons_empty (fr : List Entry) {e : Entry} (he : e.mask = 0) (es : List Entry) :
    insertEntries fr (e :: es) = insertEntries fr es := by
  rw [insertEntries, List.filter_cons_of_neg (by simpa using he), insertEntries]

theorem insertEntries_cons_lanes (fr : List Entry) {e : Entry} (he : e.mask ≠ 0) (es : List Entry) :
    insertEntries fr (e :: es) = insertEntries (insertEntry fr e) es := by
  rw [insertEntries, List.filter_cons_of_pos (by simpa using he), List.foldl_cons, insertEntries]

/-! ### Each insertion keeps the form and merges one entry more -/

theorem insertEntry_form {fr : List Entry} {e : Entry} (hf : FrontierForm fr) (he : e.mask ≠ 0) :
    FrontierForm (insertEntry fr e) := by
  obtain ⟨m, hins, hpc, hm⟩ := insertEntry_cases fr e
  have hne : ∀ x ∈ fr.filter (fun y => y.pc != e.pc), m.pc ≠ x.pc := by
    intro x hx
    rw [hpc]
    exact fun h => by simp [h] at hx
  have hmask : m.mask ≠ 0 := by
    obtain ⟨l, hl⟩ := (mask_ne_zero_iff _).mp he
    refine (mask_ne_zero_iff _).mpr ⟨l, ?_⟩
    obtain ⟨rfl, -⟩ | ⟨x, -, -, rfl⟩ := hm
    · exact hl
    · simp [mergedEntry, hl]
  rw [hins]
  refine ⟨placeEntry_pairwise_before (hf.order.filter _) hne, ?_, fun x hx => ?_⟩
  · exact ((placeEntry_perm m _).pairwise_iff fun h => h.symm).mpr (List.pairwise_cons.mpr ⟨hne, hf.onePc.filter _⟩)
  · obtain rfl | hx := mem_placeEntry.mp hx
    · exact hmask
    · exact hf.lanes x (List.mem_of_mem_filter hx)

/-- The lanes at a PC after an insertion are those that stood there and those that came (R119). -/
theorem standsAt_insertEntry {fr : List Entry} (hone : fr.Pairwise fun a b => a.pc ≠ b.pc) (e : Entry) (pc : Dbl) (l : Nat) :
    StandsAt (insertEntry fr e) pc l ↔ StandsAt fr pc l ∨ (e.pc = pc ∧ inMask e.mask l = true) := by
  obtain ⟨m, hins, hpc, hm⟩ := insertEntry_cases fr e
  have hsplit : StandsAt (insertEntry fr e) pc l ↔ (e.pc = pc ∧ inMask m.mask l = true) ∨ (e.pc ≠ pc ∧ StandsAt fr pc l) := by
    simp only [hins, StandsAt, mem_placeEntry, List.mem_filter, bne_iff_ne]
    constructor
    · rintro ⟨x, rfl | ⟨hx, hxe⟩, hxpc, hl⟩
      · exact .inl ⟨hpc ▸ hxpc, hl⟩
      · exact .inr ⟨fun h => hxe (hxpc.trans h.symm), x, hx, hxpc, hl⟩
    · rintro (⟨rfl, hl⟩ | ⟨hne, x, hx, rfl, hl⟩)
      · exact ⟨m, .inl rfl, hpc, hl⟩
      · exact ⟨x, .inr ⟨hx, hne.symm⟩, rfl, hl⟩
  rw [hsplit]
  by_cases hepc : e.pc = pc
  case neg => simp [hepc]
  subst hepc
  obtain ⟨rfl, hnew⟩ | ⟨x, hx, hxe, rfl⟩ := hm
  · have hno : ¬ StandsAt fr m.pc l := fun ⟨x, hx, hxpc, _⟩ => hnew x hx hxpc
    simp [hno]
  · simp [mergedEntry, ← hxe, standsAt_of_mem hx hone]

theorem mergeOf_insertEntry {es fr : List Entry} {e : Entry} (h : MergeOf es fr) (he : e.mask ≠ 0) :
    MergeOf (es ++ [e]) (insertEntry fr e) where
  form := insertEntry_form h.form he
  stands pc l := by simp [standsAt_insertEntry h.form.onePc, h.stands]
  prio y hy := by
    obtain ⟨m, hins, hpc, hm⟩ := insertEntry_cases fr e
    rw [priosAt_append]
    rw [hins, mem_placeEntry, List.mem_filter, bne_iff_ne] at hy
    obtain rfl | ⟨hy, hne⟩ := hy
    · rw [hpc, priosAt_singleton_self he]
      obtain ⟨rfl, hnew⟩ | ⟨x, hx, hxe, rfl⟩ := hm
      · have hempty : priosAt es y.pc = ∅ :=
          priosAt_eq_empty fun l hl => by
            obtain ⟨x, hx, hxpc, -⟩ := (h.stands _ l).mpr hl
            exact hnew x hx hxpc
        simp [hempty]
      · exact (hxe ▸ h.prio x hx).union isGreatest_singleton
    · simpa [priosAt_singleton_ne hne.symm] using h.prio y hy

theorem mergeOf_insertEntries {es fr : List Entry} (h : MergeOf es fr) (new : List Entry) :
    MergeOf (es ++ new) (insertEntries fr new) := by
  induction new generalizing es fr with
  | nil => simpa using h
  | cons e new ih =>
    rw [List.append_cons]
    by_cases he : e.mask = 0
    · exact insertEntries_cons_empty fr he new ▸ ih (mergeOf_append_empty h he)
    · exact insertEntries_cons_lanes fr he new ▸ ih (mergeOf_insertEntry h he)

/-! ### Past an instruction that is complete (R51, R118) -/

/-- Counting and retiring leave the frontier, so what completes an instruction is the move past it. -/
theorem completed_eq_stepPast (g : Gang) (c : ClauseRun) (cls : Cls) :
    ∃ g1, completed g c cls = stepPast g1 c ∧ g1.frontier = g.frontier := by
  obtain ⟨fl, co, hcount⟩ := count_rest g c cls
  obtain ⟨rc, sh, pa, hretire, -⟩ := retire_rest { g with flags := fl, completing := co } c
  exact ⟨_, rfl, by rw [hcount, hretire]⟩

/-- Within its clause the gang stands at the next instruction. -/
theorem stepPast_of_lt {c : ClauseRun} (g : Gang) (h : c.idx + 1 < c.words.length) :
    stepPast g c = { g with
      clause := some { c with idx := c.idx + 1, redo := none, counted := false, stream := [], hits := [], retired := false }
      wait := .none } :=
  if_pos h

/-- Past the last instruction the clause is over, and the top entry goes on at the header after it. -/
theorem stepPast_of_le {c : ClauseRun} (g : Gang) (h : c.words.length ≤ c.idx + 1) :
    (stepPast g c).wait = .none ∧ (stepPast g c).clause = none ∧
      (stepPast g c).frontier =
        insertEntries g.frontier.tail [{ topEntry g with pc := nextHeader c.h c.words.length, target := false }] := by
  have he : stepPast g c = fallThrough { g with wait := .none } c.h c.words.length := if_neg (by omega)
  rw [he, fallThrough, withFrontier_rest]
  exact ⟨rfl, rfl, rfl⟩

/-- Settles O16: the position by the two cases of `stepPast`, the frontier by one insertion after the other, each of
which keeps the form and merges one entry more. -/
theorem positionAndFrontier : Obligations.PositionAndFrontier := by
  unfold Obligations.PositionAndFrontier
  refine ⟨fun g c cls => ?_, fun fr es hord hone hlanes => ?_⟩
  · obtain ⟨g1, hstep, hfr⟩ := completed_eq_stepPast g c cls
    have htop : topEntry g1 = topEntry g := by rw [topEntry, topEntry, hfr]
    rw [hstep, ← hfr, ← htop]
    obtain hlt | hle := Nat.lt_or_ge (c.idx + 1) c.words.length
    · rw [stepPast_of_lt g1 hlt]
      exact ⟨rfl, fun _ => ⟨rfl, _, rfl, rfl, rfl, rfl, rfl⟩, fun hle => absurd hlt (Nat.not_lt.mpr hle)⟩
    · obtain ⟨hwait, hclause, hfrontier⟩ := stepPast_of_le g1 hle
      exact ⟨hwait, fun hlt => absurd hlt (Nat.not_lt.mpr hle), fun _ => ⟨hclause, hfrontier⟩⟩
  · have hform : FrontierForm fr := ⟨by simpa only [Entry.before_iff] using hord, hone, hlanes⟩
    obtain ⟨⟨hord', hone', hlanes'⟩, hstands, hprio⟩ := mergeOf_insertEntries (mergeOf_self hform) es
    refine ⟨by simpa only [Entry.before_iff] using hord', hone', hlanes', fun e he => ?_, hstands⟩
    obtain ⟨hmem, hmax⟩ := hprio e he
    exact ⟨hmem, fun x hx hmask hpc => hmax ⟨x, hx, hmask, hpc, rfl⟩⟩

end Sys2Proof.Machine
end

section
/-! Instructions that write one register, or one predicate, in each active lane (R8, R57, R62). -/

namespace Sys2Proof.Machine

/-- An instruction that writes one register in each active lane, of a value that may depend on the whole gang: `F` holds
in the lane when it holds of every thread with that register written. -/
theorem laneResult_wrReg {i : Instr} {os : List Opnd} {d : Nat} {F : Gang → Word → Nat → Thread → Thread → Prop}
    (val : Gang → Word → Nat → Thread → Word)
    (he : ∀ s, exec i s = issueGang s .none os fun g A => mapLanes A (fun l t => wrReg g.level t d (val g A l t)) g)
    (hF : ∀ g A l v, inMask A l = true → WritesReg g.level (thr g l) v d (val g A l (thr g l)) → F g A l (thr g l) v) :
    LaneResult i .none os F :=
  laneResult_of (fun g A l t => wrReg g.level t d (val g A l t)) he fun g A l _ hl =>
    hF g A l _ hl (wrReg_writes g.level (thr g l) d _)

/-- The same of an instruction that writes one predicate. -/
theorem laneResult_wrPred {i : Instr} {os : List Opnd} {d : Nat} {F : Gang → Word → Nat → Thread → Thread → Prop}
    (val : Gang → Word → Nat → Thread → Bool)
    (he : ∀ s, exec i s = issueGang s .none os fun g A => mapLanes A (fun l t => wrPred t d (val g A l t)) g)
    (hF : ∀ g A l v, inMask A l = true → WritesPred (thr g l) v d (val g A l (thr g l)) → F g A l (thr g l) v) :
    LaneResult i .none os F :=
  laneResult_of (fun g A l t => wrPred t d (val g A l t)) he fun g A l _ hl =>
    hF g A l _ hl (wrPred_writes (thr g l) d _)

end Sys2Proof.Machine
end

section
/-! The three-register integer instructions (R140 to R144): the value of each as its rule reads. -/

namespace Sys2Proof.Machine

/-! ### The operand forms with three registers -/

/-- The instruction is `d ← f(a, b)` for a function whose value on any two words is as `P` says. -/
def ComputesRRR (i : Nat → Nat → Nat → Instr) (P : Word → Word → Word → Prop) : Prop :=
  ∃ f, (∀ b a d s, exec (i b a d) s = formRRR s .none b a d f) ∧ ∀ x y, P x y (f x y)

theorem ComputesRRR.laneResult {i : Nat → Nat → Nat → Instr} {P : Word → Word → Word → Prop} (h : ComputesRRR i P)
    (b a d : Nat) : LaneResult (i b a d) .none [.reg d, .reg a, .reg b] fun g _ _ u v =>
      ∃ x, P (rdReg g.level u a) (rdReg g.level u b) x ∧ WritesReg g.level u v d x := by
  obtain ⟨f, he, hP⟩ := h
  exact laneResult_wrReg (fun g _ _ t => f (rdReg g.level t a) (rdReg g.level t b)) (he b a d) fun _ _ _ _ _ hv =>
    ⟨_, hP _ _, hv⟩

/-- The instruction is `d ← f(d, a, b)` for a function whose value on any three words is as `P` says. -/
def ComputesAcc (i : Nat → Nat → Nat → Instr) (P : Word → Word → Word → Word → Prop) : Prop :=
  ∃ f, (∀ b a d s, exec (i b a d) s = formAcc s .none b a d f) ∧ ∀ z x y, P z x y (f z x y)

theorem ComputesAcc.laneResult {i : Nat → Nat → Nat → Instr} {P : Word → Word → Word → Word → Prop} (h : ComputesAcc i P)
    (b a d : Nat) : LaneResult (i b a d) .none [.reg d, .reg a, .reg b] fun g _ _ u v =>
      ∃ x, P (rdReg g.level u d) (rdReg g.level u a) (rdReg g.level u b) x ∧ WritesReg g.level u v d x := by
  obtain ⟨f, he, hP⟩ := h
  exact laneResult_wrReg (fun g _ _ t => f (rdReg g.level t d) (rdReg g.level t a) (rdReg g.level t b)) (he b a d)
    fun _ _ _ _ _ hv => ⟨_, hP _ _ _, hv⟩

/-! ### Sums, products and logic (R140, R142) -/

theorem add_eq_ofInt (x y : Word) : x + y = BitVec.ofInt 32 (x.toInt + y.toInt) := by
  rw [BitVec.ofInt_add, BitVec.ofInt_toInt, BitVec.ofInt_toInt]

theorem sub_eq_ofInt (x y : Word) : x - y = BitVec.ofInt 32 (x.toInt - y.toInt) := by
  rw [Int.sub_eq_add_neg, BitVec.ofInt_add, BitVec.ofInt_neg, BitVec.ofInt_toInt, BitVec.ofInt_toInt, BitVec.sub_eq_add_neg]

theorem mul_eq_ofNat (x y : Word) : x * y = BitVec.ofNat 32 (x.toNat * y.toNat) := by
  rw [BitVec.ofNat_mul, BitVec.ofNat_toNat, BitVec.ofNat_toNat, BitVec.setWidth_eq, BitVec.setWidth_eq]

theorem mad_eq_ofNat (z x y : Word) : z + x * y = BitVec.ofNat 32 (z.toNat + x.toNat * y.toNat) := by
  rw [BitVec.ofNat_add, ← mul_eq_ofNat, BitVec.ofNat_toNat, BitVec.setWidth_eq]

/-- The upper half of a 64-bit pattern is that of the integer it stands for. -/
theorem hi_wrap64 (p : Int) : (wrap64 p).hi = BitVec.ofInt 32 (p / 2 ^ 32) := by
  apply BitVec.eq_of_toNat_eq
  simp only [wrap64, Dbl.hi, BitVec.toNat_ofNat, BitVec.toNat_ofInt]
  omega

theorem mulH_eq_ofInt (x y : Word) : mulH x y = BitVec.ofInt 32 (x.toInt * y.toInt / 2 ^ 32) := hi_wrap64 _

theorem getLsbD_andNot (x y : Word) (i : Nat) (h : i < 32) : (x &&& ~~~y).getLsbD i = (x.getLsbD i && !y.getLsbD i) := by
  simp [h]

theorem getLsbD_orNot (x y : Word) (i : Nat) (h : i < 32) : (x ||| ~~~y).getLsbD i = (x.getLsbD i || !y.getLsbD i) := by
  simp [h]

/-! ### Shifts and rotates (R140, R141) -/

theorem shiftLeft_eq_ofNat (x : Word) (n : Nat) : x <<< n = BitVec.ofNat 32 (x.toNat * 2 ^ n) := by
  rw [← Nat.shiftLeft_eq]
  rfl


theorem shiftRight_eq_ofNat (x : Word) (n : Nat) : x >>> n = BitVec.ofNat 32 (x.toNat / 2 ^ n) := by
  apply BitVec.eq_of_toNat_eq
  rw [BitVec.toNat_ushiftRight, Nat.shiftRight_eq_div_pow, BitVec.toNat_ofNat,
    Nat.mod_eq_of_lt ((Nat.div_le_self _ _).trans_lt x.isLt)]

theorem shlW_eq (x y : Word) : shlW x y = if y.toNat < 32 then BitVec.ofNat 32 (x.toNat * 2 ^ y.toNat) else 0 := by
  rw [shlW, shiftLeft_eq_ofNat]

theorem shrW_eq (x y : Word) : shrW x y = if y.toNat < 32 then BitVec.ofNat 32 (x.toNat / 2 ^ y.toNat) else 0 := by
  rw [shrW, shiftRight_eq_ofNat]

theorem sarW_eq (x y : Word) : sarW x y = BitVec.ofInt 32 (x.toInt / 2 ^ Nat.min y.toNat 31) := by
  rw [sarW, BitVec.sshiftRight, Int.shiftRight_eq_div_pow, Nat.cast_pow]
  rfl

theorem rolW_eq (x y : Word) : rolW x y =
    BitVec.ofNat 32 (x.toNat * 2 ^ (y.toNat % 32)) ||| BitVec.ofNat 32 (x.toNat / 2 ^ (32 - y.toNat % 32)) := by
  rw [rolW, BitVec.rotateLeft_def, Nat.mod_mod, shiftLeft_eq_ofNat, shiftRight_eq_ofNat]

theorem rorW_eq (x y : Word) : rorW x y =
    BitVec.ofNat 32 (x.toNat / 2 ^ (y.toNat % 32)) ||| BitVec.ofNat 32 (x.toNat * 2 ^ (32 - y.toNat % 32)) := by
  rw [rorW, BitVec.rotateRight_def, Nat.mod_mod, shiftLeft_eq_ofNat, shiftRight_eq_ofNat]

/-! ### Bit fields (R144) -/

theorem fieldPos_eq (y : Word) : fieldPos y = y.toNat % 256 := by simp [fieldPos, bits]

theorem fieldLen_eq (y : Word) : fieldLen y = Nat.min (y.toNat / 256 % 256) 32 := rfl

theorem fieldLen_eq_zero_iff (y : Word) : fieldLen y = 0 ↔ y.toNat / 256 % 256 = 0 := by
  rw [fieldLen, bits]
  omega

/-- A bit of a field of n bits from bit `pos`. -/
theorem testBit_bits (x pos n i : Nat) : (bits x pos n).testBit i = (decide (i < n) && x.testBit (pos + i)) := by
  rw [bits, Nat.testBit_mod_two_pow, Nat.testBit_div_two_pow, Nat.add_comm]

theorem getLsbD_bfeN (x y : Word) (i : Nat) (h : i < 32) : (bfeN x y).getLsbD i =
    (decide (i < Nat.min (y.toNat / 256 % 256) 32) && decide (y.toNat % 256 + i < 32) && x.getLsbD (y.toNat % 256 + i)) := by
  rw [bfeN, BitVec.getLsbD_ofNat, testBit_bits, fieldPos_eq, fieldLen_eq, BitVec.testBit_toNat]
  by_cases hin : y.toNat % 256 + i < 32
  · simp [h, hin]
  · simp [BitVec.getLsbD_of_ge x _ (Nat.le_of_not_lt hin)]

/-- A pattern of n bits, sign-extended, is the integer that the pattern stands for (R7). -/
theorem sext_toNat {n : Nat} (x : BitVec n) (hn : 0 < n) : sext x.toNat n = x.toInt := by
  have hpow : 2 ^ n = 2 * 2 ^ (n - 1) := by rw [← Nat.pow_succ']; congr 1; omega
  rw [sext, BitVec.toInt_eq_toNat_cond, Nat.mod_eq_of_lt x.isLt]
  by_cases hx : x.toNat < 2 ^ (n - 1)
  · rw [if_pos hx, if_pos (by omega)]
  · rw [if_neg hx, if_neg (by omega), Nat.cast_pow]
    rfl

/-- The low bits of an integer wrapped to w bits are the integer wrapped to fewer. -/
theorem setWidth_ofInt_of_le {n w : Nat} (h : n ≤ w) (q : Int) : (BitVec.ofInt w q).setWidth n = BitVec.ofInt n q := by
  apply BitVec.eq_of_toNat_eq
  rw [BitVec.toNat_setWidth, BitVec.toNat_ofInt, BitVec.toNat_ofInt]
  have hpos : (0 : Int) < (2 ^ w : Nat) := by positivity
  have hdvd : ((2 ^ n : Nat) : Int) ∣ (2 ^ w : Nat) := Int.natCast_dvd_natCast.2 (Nat.pow_dvd_pow 2 h)
  apply Int.ofNat_inj.1
  rw [Int.natCast_mod, Int.toNat_of_nonneg (Int.emod_nonneg _ hpos.ne'), Int.emod_emod_of_dvd _ hdvd,
    Int.toNat_of_nonneg (Int.emod_nonneg _ (by positivity))]

/-- A signed field that is not empty: the arithmetic shift by its position, cut to its length and sign-extended. -/
theorem bfeS_eq_signExtend (x y : Word) (h : fieldLen y ≠ 0) :
    bfeS x y = ((x.sshiftRight (fieldPos y)).setWidth (fieldLen y)).signExtend 32 := by
  have hle : fieldLen y ≤ 32 := Nat.min_le_right _ _
  have hq : x.toInt / 2 ^ fieldPos y = x.toInt >>> fieldPos y := by rw [Int.shiftRight_eq_div_pow, Nat.cast_pow]; rfl
  have hwrap : wrapN (fieldLen y) (x.toInt >>> fieldPos y) =
      ((x.sshiftRight (fieldPos y)).setWidth (fieldLen y)).toNat := by
    rw [BitVec.sshiftRight, setWidth_ofInt_of_le hle, BitVec.toNat_ofInt]
    rfl
  rw [bfeS, if_neg h, hq, hwrap, sext_toNat _ (Nat.pos_of_ne_zero h)]
  rfl

/-- A bit of an arithmetic right shift: bits past the word are copies of bit 31. -/
theorem getLsbD_sshiftRight_min (x : Word) (pos i : Nat) (h : i < 32) :
    (x.sshiftRight pos).getLsbD i = x.getLsbD (Nat.min (pos + i) 31) := by
  rw [BitVec.getLsbD_sshiftRight]
  by_cases hin : pos + i < 32
  · simp [h, hin, show Nat.min (pos + i) 31 = pos + i from Nat.min_eq_left (by omega)]
  · simp [h, hin, show Nat.min (pos + i) 31 = 31 from Nat.min_eq_right (by omega), BitVec.msb_eq_getLsbD_last]

/-- A bit of the low n bits sign-extended: bits past them are copies of the last. -/
theorem getLsbD_signExtend_setWidth (x : Word) {n : Nat} (hn : n ≠ 0) (i : Nat) (h : i < 32) :
    ((x.setWidth n).signExtend 32).getLsbD i = x.getLsbD (Nat.min i (n - 1)) := by
  rw [BitVec.getLsbD_signExtend]
  by_cases hin : i < n
  · simp [h, hin, show Nat.min i (n - 1) = i from Nat.min_eq_left (by omega)]
  · simp [h, hin, show Nat.min i (n - 1) = n - 1 from Nat.min_eq_right (by omega), BitVec.msb_eq_getLsbD_last,
      Nat.pos_of_ne_zero hn]

theorem getLsbD_bfeS (x y : Word) (i : Nat) (h : i < 32) : (bfeS x y).getLsbD i =
    (decide (0 < y.toNat / 256 % 256) &&
      x.getLsbD (Nat.min (y.toNat % 256 + Nat.min i (y.toNat / 256 % 256 - 1)) 31)) := by
  by_cases hlen : fieldLen y = 0
  · simp [bfeS, hlen, (fieldLen_eq_zero_iff y).1 hlen]
  · have hpos : 0 < y.toNat / 256 % 256 := Nat.pos_of_ne_zero (mt (fieldLen_eq_zero_iff y).2 hlen)
    have hlast : Nat.min i (fieldLen y - 1) = Nat.min i (y.toNat / 256 % 256 - 1) := by
      change min i (min (y.toNat / 256 % 256) 32 - 1) = min i (y.toNat / 256 % 256 - 1)
      omega
    rw [bfeS_eq_signExtend x y hlen, getLsbD_signExtend_setWidth _ hlen i h, hlast,
      getLsbD_sshiftRight_min _ _ _ ((Nat.min_le_left _ _).trans_lt h), fieldPos_eq, decide_eq_true hpos, Bool.true_and]

theorem getLsbD_fieldMask (y : Word) (i : Nat) (h : i < 32) : (fieldMask y).getLsbD i =
    decide (y.toNat % 256 ≤ i ∧ i < y.toNat % 256 + Nat.min (y.toNat / 256 % 256) 32) := by
  rw [fieldMask, fieldPos_eq, fieldLen_eq, BitVec.getLsbD_ofNat, Nat.testBit_mul_two_pow, Nat.testBit_two_pow_sub_one,
    decide_eq_true h, Bool.true_and, ← Bool.decide_and]
  exact decide_eq_decide.2 (by omega)

theorem getLsbD_bfiW (z x y : Word) (i : Nat) (h : i < 32) : (bfiW z x y).getLsbD i =
    if y.toNat % 256 ≤ i ∧ i < y.toNat % 256 + Nat.min (y.toNat / 256 % 256) 32 then x.getLsbD (i - y.toNat % 256)
    else z.getLsbD i := by
  rw [bfiW, BitVec.getLsbD_or, BitVec.getLsbD_and, BitVec.getLsbD_and, BitVec.getLsbD_not, getLsbD_fieldMask y i h,
    BitVec.getLsbD_ofNat, fieldPos_eq, Nat.testBit_mul_two_pow, BitVec.testBit_toNat]
  by_cases hin : y.toNat % 256 ≤ i ∧ i < y.toNat % 256 + Nat.min (y.toNat / 256 % 256) 32
  · simp [h, hin]
  · simp [h, hin]

/-- Settles O1: each instruction is an operand form over a function of words, and each function has the value that its
rule gives; the frame is that of writing one register in each active lane. -/
theorem integerResults : Obligations.IntegerResults := by
  unfold Obligations.IntegerResults
  refine ⟨fun r hr => ComputesRRR.laneResult ?_, fun r hr => ComputesAcc.laneResult ?_⟩
  · revert r
    simp only [List.forall_mem_cons, List.not_mem_nil, IsEmpty.forall_iff, implies_true, and_true]
    exact
      ⟨⟨_, exec_add, add_eq_ofInt⟩,
       ⟨_, exec_sub, sub_eq_ofInt⟩,
       ⟨minS, exec_min, fun _ _ => rfl⟩,
       ⟨maxS, exec_max, fun _ _ => rfl⟩,
       ⟨minN, exec_minn, fun _ _ => rfl⟩,
       ⟨maxN, exec_maxn, fun _ _ => rfl⟩,
       ⟨_, exec_and, fun _ _ _ _ => BitVec.getLsbD_and⟩,
       ⟨_, exec_or, fun _ _ _ _ => BitVec.getLsbD_or⟩,
       ⟨_, exec_xor, fun _ _ _ _ => BitVec.getLsbD_xor⟩,
       ⟨_, exec_andn, getLsbD_andNot⟩,
       ⟨_, exec_orn, getLsbD_orNot⟩,
       ⟨_, exec_shl, shlW_eq⟩,
       ⟨_, exec_shr, shrW_eq⟩,
       ⟨_, exec_sar, sarW_eq⟩,
       ⟨_, exec_rol, rolW_eq⟩,
       ⟨_, exec_ror, rorW_eq⟩,
       ⟨_, exec_mul, mul_eq_ofNat⟩,
       ⟨_, exec_mulh, mulH_eq_ofInt⟩,
       ⟨mulHN, exec_mulhn, fun _ _ => rfl⟩,
       ⟨_, exec_bfen, getLsbD_bfeN⟩,
       ⟨_, exec_bfe, getLsbD_bfeS⟩⟩
  · revert r
    simp only [List.forall_mem_cons, List.not_mem_nil, IsEmpty.forall_iff, implies_true, and_true]
    exact ⟨⟨_, exec_mad, mad_eq_ofNat⟩, ⟨_, exec_bfi, getLsbD_bfiW⟩⟩

end Sys2Proof.Machine
end

section
/-! The votes, the exchanges and the reductions over the active lanes (R152 to R157). -/

namespace Sys2Proof.Machine

/-! ### The lanes of a mask -/

theorem inMask_lt {A : Word} {l : Nat} (h : inMask A l = true) : l < 32 := BitVec.lt_of_getLsbD h

@[simp] theorem mem_lanesOf {A : Word} {l : Nat} : l ∈ lanesOf A ↔ inMask A l = true := by
  rw [lanesOf, lanes32, List.mem_filter, List.mem_range, and_iff_right_of_imp inMask_lt]

theorem length_filter_lanesOf_le (A : Word) (p : Nat → Bool) : ((lanesOf A).filter p).length ≤ 32 :=
  (List.length_filter_le p _).trans ((List.length_filter_le (inMask A) lanes32).trans_eq List.length_range)

/-- A count of lanes fits a word. -/
theorem toNat_ofNat_countLanes (A : Word) (p : Nat → Bool) :
    (BitVec.ofNat 32 ((lanesOf A).filter p).length).toNat = ((lanesOf A).filter p).length :=
  Nat.mod_eq_of_lt ((length_filter_lanesOf_le A p).trans_lt (by decide))

theorem lowest_eq_of_head? {A : Word} {k : Nat} (h : (lanesOf A).head? = some k) : lowest A = k := by
  rw [lowest, h, Option.getD_some]

theorem inMask_bitMask {k l : Nat} (hl : l < 32) : inMask (bitMask k) l = true ↔ l = k := by
  rw [inMask, bitMask, BitVec.getLsbD_shiftLeft, BitVec.getLsbD_one]
  simp only [Bool.and_eq_true, Bool.not_eq_true', decide_eq_true_eq, decide_eq_false_iff_not]
  omega

theorem inMask_foldl_bitMask {l : Nat} (hl : l < 32) (ls : List Nat) (m : Word) :
    inMask (ls.foldl (fun m k => m ||| bitMask k) m) l = true ↔ inMask m l = true ∨ l ∈ ls := by
  induction ls generalizing m with
  | nil => simp
  | cons k ks ih => rw [List.foldl_cons, ih, inMask_or, Bool.or_eq_true, inMask_bitMask hl, or_assoc, List.mem_cons]

/-- The mask of a list of lanes holds the lanes of the list. -/
theorem inMask_maskOf {l : Nat} (hl : l < 32) (ls : List Nat) : inMask (maskOf ls) l = true ↔ l ∈ ls := by
  rw [maskOf, inMask_foldl_bitMask hl]
  simp [inMask]

/-! ### The votes (R152) -/

theorem mem_ballot {g : Gang} {A : Word} {a l : Nat} :
    l ∈ ballot g A a ↔ inMask A l = true ∧ rdPred (thr g l) a = true := by
  rw [ballot, List.mem_filter, mem_lanesOf]

theorem ballot_nonempty_iff (g : Gang) (A : Word) (a : Nat) :
    (!(ballot g A a).isEmpty) = true ↔ ∃ l ∈ lanesOf A, rdPred (thr g l) a = true := by
  simp [List.filter_eq_nil_iff, ballot]

theorem ballot_full_iff (g : Gang) (A : Word) (a : Nat) :
    ((ballot g A a).length == countLanes A) = true ↔ ∀ l ∈ lanesOf A, rdPred (thr g l) a = true := by
  rw [beq_iff_eq, ballot, countLanes, List.length_filter_eq_length_iff]

theorem inMask_maskOf_ballot (g : Gang) (A : Word) (a : Nat) {l : Nat} (hl : l < 32) :
    inMask (maskOf (ballot g A a)) l = (inMask A l && rdPred (thr g l) a) := by
  rw [Bool.eq_iff_iff, inMask_maskOf hl, mem_ballot, Bool.and_eq_true]

/-! ### The exchanges (R154, R155) -/

/-- The instruction is a shuffle whose source lane, given from a lane's number and its `b`, is as `P` says. -/
def Shuffles (i : Nat → Nat → Nat → Instr) (P : Nat → Nat → Int → Prop) : Prop :=
  ∃ f, (∀ b a d s, exec (i b a d) s = shuffle b a d f s) ∧ ∀ l y, P l y (f l y)

theorem Shuffles.laneResult {i : Nat → Nat → Nat → Instr} {P : Nat → Nat → Int → Prop} (h : Shuffles i P) (b a d : Nat) :
    LaneResult (i b a d) .none [.reg d, .reg a, .reg b] fun g A l u v =>
      ∃ s : Int, P l (rdReg g.level u b).toNat s ∧
        WritesReg g.level u v d (rdReg g.level (thr g (if 0 ≤ s ∧ s ≤ 31 ∧ inMask A s.toNat = true then s.toNat else l)) a) := by
  obtain ⟨f, he, hP⟩ := h
  exact laneResult_wrReg (fun g A l t => rdReg g.level (thr g (shflSource A l (f l (rdReg g.level t b).toNat))) a) (he b a d)
    fun _ _ _ _ _ hv => ⟨_, hP _ _, hv⟩

theorem shflSource_natCast (A : Word) (k y : Nat) :
    shflSource A k y = if y ≤ 31 ∧ inMask A y = true then y else k := by
  simp [shflSource]

theorem laneResult_bcast (b a d : Nat) :
    LaneResult (.bcast b a d) .none [.reg d, .reg a, .reg b] fun g A _ u v =>
      ∀ k, (lanesOf A).head? = some k →
        WritesReg g.level u v d (rdReg g.level (thr g
          (if (rdReg g.level (thr g k) b).toNat ≤ 31 ∧ inMask A (rdReg g.level (thr g k) b).toNat = true
           then (rdReg g.level (thr g k) b).toNat else k)) a) :=
  laneResult_wrReg
    (fun g A _ _ => rdReg g.level (thr g (shflSource A (lowest A) (rdReg g.level (thr g (lowest A)) b).toNat)) a)
    (exec_bcast b a d) fun g A l v _ hv k hk => by
      rwa [lowest_eq_of_head? hk, shflSource_natCast] at hv

/-! ### The reductions (R156) -/

theorem foldl_add_eq_ofNat (xs : List Word) (x : Word) :
    xs.foldl (fun x y => x + y) x = BitVec.ofNat 32 (x.toNat + (xs.map BitVec.toNat).sum) := by
  induction xs generalizing x with
  | nil => simp
  | cons y ys ih => 
    rw [List.foldl_cons, ih, List.map_cons, List.sum_cons, ← Nat.add_assoc, BitVec.ofNat_add, BitVec.ofNat_add,
      BitVec.ofNat_add, BitVec.ofNat_toNat, BitVec.ofNat_toNat, BitVec.ofNat_toNat]
    simp only [BitVec.setWidth_eq]

/-- The sum of words is that of the numbers, wrapped. -/
theorem reduceWith_add (xs : List Word) :
    reduceWith (fun x y => x + y) xs = BitVec.ofNat 32 (xs.map BitVec.toNat).sum := by
  cases xs with
  | nil => rfl
  | cons x xs => exact foldl_add_eq_ofNat xs x

/-- A function answers the one of two words that comes first in `R`. -/
def Chooses (f : Word → Word → Word) (R : Word → Word → Prop) : Prop :=
  ∀ x y, (f x y = x ∧ R x y) ∨ (f x y = y ∧ R y x)

theorem chooses_ite {R : Word → Word → Prop} [DecidableRel R] (total : ∀ x y, R x y ∨ R y x) :
    Chooses (fun x y => if R x y then x else y) R := fun x y => by
  by_cases h : R x y
  · exact .inl ⟨if_pos h, h⟩
  · exact .inr ⟨if_neg h, (total x y).resolve_left h⟩

theorem minS_chooses : Chooses minS fun x y => x.toInt ≤ y.toInt := chooses_ite fun x y => le_total x.toInt y.toInt
theorem maxS_chooses : Chooses maxS fun x y => y.toInt ≤ x.toInt := chooses_ite fun x y => le_total y.toInt x.toInt
theorem minN_chooses : Chooses minN fun x y => x.toNat ≤ y.toNat := chooses_ite fun x y => le_total x.toNat y.toNat
theorem maxN_chooses : Chooses maxN fun x y => y.toNat ≤ x.toNat := chooses_ite fun x y => le_total y.toNat x.toNat

/-- Folding the choice gives one of the words, which comes before them all. -/
theorem Chooses.foldl {f : Word → Word → Word} {R : Word → Word → Prop} (hf : Chooses f R) (trans : IsTrans Word R)
    (xs : List Word) (x : Word) : xs.foldl f x ∈ x :: xs ∧ ∀ y ∈ x :: xs, R (xs.foldl f x) y := by
  induction xs generalizing x with
  | nil => simpa using (hf x x).elim And.right And.right
  | cons y ys ih =>
    obtain ⟨hmem, hfirst⟩ := ih (f x y)
    have hhead := hfirst _ List.mem_cons_self
    have htail := fun z hz => hfirst z (List.mem_cons_of_mem _ hz)
    rw [List.foldl_cons]
    simp only [List.mem_cons, forall_eq_or_imp] at hmem ⊢
    obtain ⟨hx, hxy⟩ | ⟨hy, hyx⟩ := hf x y
    · rw [hx] at hhead hmem htail ⊢
      exact ⟨hmem.imp_right .inr, hhead, trans.trans _ _ _ hhead hxy, htail⟩
    · rw [hy] at hhead hmem htail ⊢
      exact ⟨.inr hmem, trans.trans _ _ _ hhead hyx, hhead, htail⟩

theorem Chooses.reduceWith {f : Word → Word → Word} {R : Word → Word → Prop} (hf : Chooses f R) (trans : IsTrans Word R)
    {xs : List Word} (hne : xs ≠ []) : reduceWith f xs ∈ xs ∧ ∀ y ∈ xs, R (reduceWith f xs) y := by
  obtain ⟨x, ys, rfl⟩ := List.exists_cons_of_ne_nil hne
  exact hf.foldl trans ys x

/-- The instruction is a reduction by the choice of a first word in `R`. -/
def Reduces (i : Nat → Nat → Instr) (R : Word → Word → Prop) : Prop :=
  IsTrans Word R ∧ ∃ f, (∀ a d s, exec (i a d) s = reduce a d f s) ∧ Chooses f R

theorem Reduces.laneResult {i : Nat → Nat → Instr} {R : Word → Word → Prop} (h : Reduces i R) (a d : Nat) :
    LaneResult (i a d) .none [.reg d, .reg a] fun g A _ u v =>
      ∃ k ∈ lanesOf A, (∀ l ∈ lanesOf A, R (rdReg g.level (thr g k) a) (rdReg g.level (thr g l) a)) ∧
        WritesReg g.level u v d (rdReg g.level (thr g k) a) := by
  obtain ⟨trans, f, he, hf⟩ := h
  refine laneResult_wrReg (fun g A _ _ => reduceWith f ((lanesOf A).map fun l => rdReg g.level (thr g l) a)) (he a d)
    fun g A l v hl hv => ?_
  have hne : (lanesOf A).map (fun l => rdReg g.level (thr g l) a) ≠ [] :=
    List.ne_nil_of_mem (List.mem_map_of_mem (mem_lanesOf.2 hl))
  obtain ⟨hmem, hfirst⟩ := hf.reduceWith trans hne
  obtain ⟨k, hk, heq⟩ := List.mem_map.1 hmem
  rw [← heq] at hv hfirst
  exact ⟨k, hk, fun m hm => hfirst _ (List.mem_map_of_mem hm), hv⟩

theorem laneResult_reduxAdd (a d : Nat) :
    LaneResult (.reduxAdd a d) .none [.reg d, .reg a] fun g A _ u v =>
      WritesReg g.level u v d (BitVec.ofNat 32 ((lanesOf A).map fun l => (rdReg g.level (thr g l) a).toNat).sum) :=
  laneResult_wrReg (fun g A _ _ => reduceWith (fun x y => x + y) ((lanesOf A).map fun l => rdReg g.level (thr g l) a))
    (exec_reduxAdd a d) fun g A l v _ hv => by
      rwa [reduceWith_add, List.map_map] at hv

/-- Settles O7: every lane's write is of a value worked out from the gang as it stood, and that value is the vote, the
exchange or the reduction of the active lanes. -/
theorem gangwideResults : Obligations.GangwideResults := by
  unfold Obligations.GangwideResults
  refine ⟨⟨fun a d => ?voteAny, fun a d => ?voteAll, fun a d => ?voteCnt, fun a d => ?voteBallot, fun d => ?mrank⟩,
    ⟨fun r hr => Shuffles.laneResult ?shuffles, laneResult_bcast⟩, laneResult_reduxAdd, fun r hr => Reduces.laneResult ?reduces⟩
  case voteAny =>
    exact laneResult_wrPred _ (exec_voteAny a d) fun g A _ _ _ hv => ⟨_, ballot_nonempty_iff g A a, hv⟩
  case voteAll =>
    exact laneResult_wrPred _ (exec_voteAll a d) fun g A _ _ _ hv => ⟨_, ballot_full_iff g A a, hv⟩
  case voteCnt =>
    exact laneResult_wrReg _ (exec_voteCnt a d) fun _ A _ _ _ hv => ⟨_, toNat_ofNat_countLanes A _, hv⟩
  case voteBallot =>
    exact laneResult_wrReg _ (exec_voteBallot a d) fun g A _ _ _ hv => ⟨_, fun _ => inMask_maskOf_ballot g A a, hv⟩
  case mrank =>
    exact laneResult_wrReg _ (exec_mrank d) fun _ A _ _ _ hv => ⟨_, toNat_ofNat_countLanes A _, hv⟩
  case shuffles =>
    revert r
    simp only [List.forall_mem_cons, List.not_mem_nil, IsEmpty.forall_iff, implies_true, and_true]
    exact ⟨⟨_, exec_shflIdx, fun _ _ => rfl⟩, ⟨_, exec_shflUp, fun _ _ => rfl⟩, ⟨_, exec_shflDn, fun _ _ => rfl⟩,
      ⟨_, exec_shflXor, fun _ _ => rfl⟩⟩
  case reduces =>
    revert r
    simp only [List.forall_mem_cons, List.not_mem_nil, IsEmpty.forall_iff, implies_true, and_true]
    exact ⟨⟨⟨fun _ _ _ => le_trans⟩, minS, exec_reduxMin, minS_chooses⟩,
      ⟨⟨fun _ _ _ h k => k.trans h⟩, maxS, exec_reduxMax, maxS_chooses⟩,
      ⟨⟨fun _ _ _ => le_trans⟩, minN, exec_reduxMinn, minN_chooses⟩,
      ⟨⟨fun _ _ _ h k => k.trans h⟩, maxN, exec_reduxMaxn, maxN_chooses⟩⟩

end Sys2Proof.Machine
end

section
/-! The special cases of the arithmetic, and the order of the patterns of a format (R160, R161, R168, R172, R173). -/

namespace Sys2Proof.Machine

/-! ### The fields of a pattern (R160) -/

/-- A format of the arithmetic instructions: it has infinities, and neither field is empty. -/
structure Fmt.Arithmetic (f : Fmt) : Prop where
  ieee : f.ieee = true
  ew_pos : 0 < f.ew
  fw_pos : 0 < f.fw

theorem arithmetic_formats : ∀ f ∈ [fp32, f16, bf16], f.Arithmetic := by
  simp only [List.forall_mem_cons, List.not_mem_nil, IsEmpty.forall_iff, implies_true, and_true]
  exact ⟨⟨rfl, by decide, by decide⟩, ⟨rfl, by decide, by decide⟩, ⟨rfl, by decide, by decide⟩⟩

/-- The number has no bits beyond the format's. -/
def Fmt.IsPattern (f : Fmt) (a : Nat) : Prop := a < 2 ^ (1 + f.ew + f.fw)

/-- The sign, 0 or 1 of a pattern. -/
def Fmt.sgn (f : Fmt) (a : Nat) : Nat := a / 2 ^ (f.ew + f.fw)

/-- The exponent and the fraction, read as one number. -/
def Fmt.mag (f : Fmt) (a : Nat) : Nat := a % 2 ^ (f.ew + f.fw)

def Fmt.expField (f : Fmt) (a : Nat) : Nat := a / 2 ^ f.fw % 2 ^ f.ew

def Fmt.frac (f : Fmt) (a : Nat) : Nat := a % 2 ^ f.fw

/-- The exponent field is all ones: an infinity or a NaN. -/
def Fmt.Top (f : Fmt) (a : Nat) : Prop := f.expField a = 2 ^ f.ew - 1
def Fmt.Nan (f : Fmt) (a : Nat) : Prop := f.Top a ∧ f.frac a ≠ 0
def Fmt.SNan (f : Fmt) (a : Nat) : Prop := f.Nan a ∧ f.frac a < 2 ^ (f.fw - 1)
def Fmt.Inf (f : Fmt) (a : Nat) : Prop := f.Top a ∧ f.frac a = 0
def Fmt.Zero (f : Fmt) (a : Nat) : Prop := f.mag a = 0

/-- 0 × ∞. -/
def Fmt.InvalidProduct (f : Fmt) (a b : Nat) : Prop := (f.Inf a ∧ f.Zero b) ∨ (f.Zero a ∧ f.Inf b)
/-- A product that is valid and infinite. -/
def Fmt.InfProduct (f : Fmt) (a b : Nat) : Prop := (f.Inf a ∨ f.Inf b) ∧ ¬ f.Nan a ∧ ¬ f.Nan b ∧ ¬ f.InvalidProduct a b

/-- The sign as `unpack` keeps it. -/
def Fmt.neg (f : Fmt) (a : Nat) : Bool := bit a (f.ew + f.fw)

/-- The significand, with the leading one of a normal number. -/
def Fmt.sig (f : Fmt) (a : Nat) : Nat := f.frac a + if f.expField a = 0 then 0 else 2 ^ f.fw

/-- The weight of the significand's last bit, in powers of two above the least subnormal. -/
def Fmt.shift (f : Fmt) (a : Nat) : Nat := f.expField a - 1

section
variable {f : Fmt} {a b : Nat}

theorem Fmt.sgn_lt_two (h : f.IsPattern a) : f.sgn a < 2 := by
  refine Nat.div_lt_of_lt_mul ?_
  rwa [mul_comm, ← pow_succ', show f.ew + f.fw + 1 = 1 + f.ew + f.fw by omega]

theorem Fmt.sgn_mul_add_mag (f : Fmt) (a : Nat) : f.sgn a * 2 ^ (f.ew + f.fw) + f.mag a = a := Nat.div_add_mod' _ _

theorem Fmt.frac_lt (f : Fmt) (a : Nat) : f.frac a < 2 ^ f.fw := Nat.mod_lt _ (by positivity)

theorem Fmt.mag_eq (f : Fmt) (a : Nat) : f.mag a = f.expField a * 2 ^ f.fw + f.frac a := by
  simp only [Fmt.mag, Fmt.expField, Fmt.frac]
  rw [add_comm f.ew, pow_add, Nat.mod_mul, mul_comm, add_comm]

theorem Fmt.neg_eq (h : f.IsPattern a) : f.neg a = decide (f.sgn a = 1) := by
  have := Fmt.sgn_lt_two h
  change (f.sgn a % 2 == 1) = decide (f.sgn a = 1)
  interval_cases f.sgn a <;> rfl

theorem Fmt.mag_of_inf (h : f.Inf a) : f.mag a = f.inf := by
  obtain ⟨htop, hfrac⟩ := h
  rw [f.mag_eq, htop, hfrac]
  rfl

/-- A finite pattern lies below the infinities. -/
theorem Fmt.mag_lt_inf (h : ¬ f.Top a) : f.mag a < f.inf := by
  have he : f.expField a < 2 ^ f.ew := Nat.mod_lt _ (by positivity)
  have hle : f.expField a + 1 ≤ 2 ^ f.ew - 1 := by
    unfold Fmt.Top at h
    omega
  have hf := f.frac_lt a
  calc f.mag a = f.expField a * 2 ^ f.fw + f.frac a := f.mag_eq a
    _ < (f.expField a + 1) * 2 ^ f.fw := by rw [add_one_mul]; omega
    _ ≤ f.inf := Nat.mul_le_mul_right _ hle

theorem Fmt.Zero.not_top (hf : f.Arithmetic) (h : f.Zero a) : ¬ f.Top a := by
  intro htop
  have hpos : 0 < 2 ^ f.fw := by positivity
  have hew := Nat.one_lt_two_pow hf.ew_pos.ne'
  unfold Fmt.Zero at h
  rw [f.mag_eq, htop] at h
  have := Nat.mul_pos (show 0 < 2 ^ f.ew - 1 by omega) hpos
  omega

theorem Fmt.Inf.not_nan (h : f.Inf a) : ¬ f.Nan a := fun hn => hn.2 h.2

theorem Fmt.not_nan_of_not_top (h : ¬ f.Top a) : ¬ f.Nan a := fun hn => h hn.1

theorem Fmt.nan_or_inf (h : f.Top a) : f.Nan a ∨ f.Inf a := by
  by_cases hz : f.frac a = 0
  · exact .inr ⟨h, hz⟩
  · exact .inl ⟨h, hz⟩

theorem Fmt.sig_eq_zero_iff : f.sig a = 0 ↔ f.Zero a := by
  have hpos : 0 < 2 ^ f.fw := by positivity
  unfold Fmt.Zero Fmt.sig
  rw [f.mag_eq]
  split
  · simp_all
  · rename_i he
    have := Nat.mul_pos (Nat.pos_of_ne_zero he) hpos
    omega

/-! ### What a pattern reads as (R160, R161) -/

theorem unpack_of_nan (hf : f.Arithmetic) (h : f.Nan a) : unpack f a = .nan (decide (f.frac a < 2 ^ (f.fw - 1))) := by
  obtain ⟨htop, hfrac⟩ := h
  have hlt := f.frac_lt a
  have hhalf : 2 ^ f.fw = 2 ^ (f.fw - 1) * 2 := by rw [← pow_succ, Nat.sub_add_cancel hf.fw_pos]
  simp only [Fmt.Top, Fmt.expField, Fmt.frac] at *
  simp only [unpack, bits, pow_zero, Nat.div_one, hf.ieee, htop, bit, Bool.true_and, beq_self_eq_true, if_true,
    beq_eq_false_iff_ne.2 hfrac]
  have hdiv : a % 2 ^ f.fw / 2 ^ (f.fw - 1) < 2 := Nat.div_lt_of_lt_mul (hhalf ▸ hlt)
  by_cases hs : a % 2 ^ f.fw < 2 ^ (f.fw - 1)
  · simp [hs, Nat.div_eq_of_lt hs]
  · have : a % 2 ^ f.fw / 2 ^ (f.fw - 1) = 1 := by
      have := Nat.div_pos (not_lt.1 hs) (by positivity)
      omega
    simp [hs, this]

theorem unpack_of_inf (hf : f.Arithmetic) (h : f.Inf a) : unpack f a = .inf (f.neg a) := by
  obtain ⟨htop, hfrac⟩ := h
  simp only [Fmt.Top, Fmt.expField, Fmt.frac] at *
  simp [unpack, bits, hf.ieee, htop, hfrac, Fmt.neg]

theorem unpack_of_not_top (hf : f.Arithmetic) (h : ¬ f.Top a) :
    unpack f a = .fin (f.neg a) (f.sig a) (f.shift a + (1 - (f.bias : Int) - f.fw)) := by
  simp only [Fmt.Top, Fmt.expField] at h
  simp only [unpack, bits, hf.ieee, Fmt.neg, Fmt.sig, Fmt.shift, Fmt.frac, Fmt.expField, pow_zero, Nat.div_one]
  by_cases he : a / 2 ^ f.fw % 2 ^ f.ew = 0
  · rw [he] at h
    simp [he, h]
  · have h1 : 1 ≤ a / 2 ^ f.fw % 2 ^ f.ew := Nat.one_le_iff_ne_zero.2 he
    simp only [h, he, beq_iff_eq, Bool.true_and, Bool.not_true, Bool.false_and, if_false, Nat.cast_sub h1, FVal.fin.injEq,
      true_and, Bool.false_eq_true]
    omega

/-! ### Signs of results -/

theorem Fmt.neg_bne_neg (ha : f.IsPattern a) (hb : f.IsPattern b) :
    (f.neg a != f.neg b) = decide ((f.sgn a + f.sgn b) % 2 = 1) := by
  have := Fmt.sgn_lt_two ha
  have := Fmt.sgn_lt_two hb
  rw [Fmt.neg_eq ha, Fmt.neg_eq hb]
  interval_cases f.sgn a <;> interval_cases f.sgn b <;> rfl

theorem Fmt.not_neg (h : f.IsPattern a) : (!f.neg a) = decide (1 - f.sgn a = 1) := by
  have := Fmt.sgn_lt_two h
  rw [Fmt.neg_eq h]
  interval_cases f.sgn a <;> rfl

theorem signed_decide {s : Nat} (h : s < 2) (p : Nat) : signed f (decide (s = 1)) p = s * 2 ^ (f.ew + f.fw) + p := by
  interval_cases s <;> simp [signed, Fmt.signBit, add_comm]

theorem signed_bne (ha : f.IsPattern a) (hb : f.IsPattern b) (p : Nat) :
    signed f (f.neg a != f.neg b) p = (f.sgn a + f.sgn b) % 2 * 2 ^ (f.ew + f.fw) + p := by
  rw [Fmt.neg_bne_neg ha hb, signed_decide (Nat.mod_lt _ two_pos)]

theorem signed_not_neg (h : f.IsPattern a) (p : Nat) : signed f (!f.neg a) p = (1 - f.sgn a) * 2 ^ (f.ew + f.fw) + p := by
  rw [Fmt.not_neg h, signed_decide (by omega)]

/-- The pattern is its sign and its magnitude. -/
theorem signed_neg_mag (h : f.IsPattern a) : signed f (f.neg a) (f.mag a) = a := by
  rw [Fmt.neg_eq h, signed_decide (Fmt.sgn_lt_two h), f.sgn_mul_add_mag]

theorem signed_neg_inf (h : f.IsPattern a) (hi : f.Inf a) : signed f (f.neg a) f.inf = a := by
  rw [← Fmt.mag_of_inf hi, signed_neg_mag h]

theorem signed_neg_zero (h : f.IsPattern a) (hz : f.Zero a) : signed f (f.neg a) 0 = a := by
  rw [← hz, signed_neg_mag h]

theorem Fmt.neg_eq_neg_iff (ha : f.IsPattern a) (hb : f.IsPattern b) : f.neg a = f.neg b ↔ f.sgn a = f.sgn b := by
  have := Fmt.sgn_lt_two ha
  have := Fmt.sgn_lt_two hb
  rw [Fmt.neg_eq ha, Fmt.neg_eq hb, decide_eq_decide]
  omega

theorem Fmt.neg_eq_bne_iff {c : Nat} (ha : f.IsPattern a) (hb : f.IsPattern b) (hc : f.IsPattern c) :
    f.neg c = (f.neg a != f.neg b) ↔ f.sgn c = (f.sgn a + f.sgn b) % 2 := by
  have := Fmt.sgn_lt_two hc
  rw [Fmt.neg_bne_neg ha hb, Fmt.neg_eq hc, decide_eq_decide]
  omega

/-! ### The flag of signalling operands (R161, R172) -/

theorem isNan_unpack (hf : f.Arithmetic) (a : Nat) : (unpack f a).isNan = true ↔ f.Nan a := by
  by_cases ht : f.Top a
  · obtain hn | hi := Fmt.nan_or_inf ht
    · simp [unpack_of_nan hf hn, FVal.isNan, hn]
    · simp [unpack_of_inf hf hi, FVal.isNan, hi.not_nan]
  · simp [unpack_of_not_top hf ht, FVal.isNan, Fmt.Nan, ht]

theorem isSNan_unpack (hf : f.Arithmetic) (a : Nat) : (unpack f a).isSNan = true ↔ f.SNan a := by
  by_cases ht : f.Top a
  · obtain hn | hi := Fmt.nan_or_inf ht
    · simp [unpack_of_nan hf hn, FVal.isSNan, Fmt.SNan, hn]
    · simp [unpack_of_inf hf hi, FVal.isSNan, Fmt.SNan, hi.not_nan]
  · simp [unpack_of_not_top hf ht, FVal.isSNan, Fmt.SNan, Fmt.Nan, ht]

theorem snanFlag_eq_ite {xs : List FVal} {P : Prop} {_ : Decidable P} (h : xs.any FVal.isSNan = true ↔ P) :
    snanFlag xs = if P then 1 else 0 := by
  simp only [snanFlag, flag, h, flNV]

theorem snanFlag_pair (hf : f.Arithmetic) (a b : Nat) : let w := snanFlag [unpack f a, unpack f b]
    (w = 1 ↔ f.SNan a ∨ f.SNan b) ∧ (w = 0 ↔ ¬ (f.SNan a ∨ f.SNan b)) := by
  have hany : [unpack f a, unpack f b].any FVal.isSNan = true ↔ f.SNan a ∨ f.SNan b := by simp [isSNan_unpack hf]
  rw [← hany]
  cases h : [unpack f a, unpack f b].any FVal.isSNan <;> simp [snanFlag, flag, flNV, h]

/-! ### The order of the patterns (R173) -/

/-- The value of a finite pattern's magnitude, as a multiple of the least subnormal. -/
def Fmt.units (f : Fmt) (a : Nat) : Nat := f.sig a * 2 ^ f.shift a

/-- The place of a pattern in the order in which −0 stands just below +0. -/
def Fmt.key (f : Fmt) (a : Nat) : Int := if f.sgn a = 1 then -(f.mag a : Int) - 1 else f.mag a

theorem Fmt.key_injective (ha : f.IsPattern a) (hb : f.IsPattern b) (h : f.key a = f.key b) : a = b := by
  have := Fmt.sgn_lt_two ha
  have := Fmt.sgn_lt_two hb
  obtain ⟨hs, hm⟩ : f.sgn a = f.sgn b ∧ f.mag a = f.mag b := by
    unfold Fmt.key at h
    split at h <;> split at h <;> omega
  rw [← f.sgn_mul_add_mag a, ← f.sgn_mul_add_mag b, hs, hm]

theorem Fmt.units_lt_pow (f : Fmt) (a : Nat) : f.units a < 2 ^ (f.fw + f.expField a) := by
  have hfrac := f.frac_lt a
  unfold Fmt.units Fmt.sig Fmt.shift
  split
  next he => simpa [he] using hfrac
  next he =>
    calc (f.frac a + 2 ^ f.fw) * 2 ^ (f.expField a - 1) < 2 ^ (f.fw + 1) * 2 ^ (f.expField a - 1) := by
          refine Nat.mul_lt_mul_of_pos_right ?_ (by positivity)
          rw [pow_succ]
          omega
      _ = 2 ^ (f.fw + f.expField a) := by
          rw [← pow_add]
          congr 1
          omega

theorem Fmt.pow_le_units (h : f.expField a ≠ 0) : 2 ^ (f.fw + (f.expField a - 1)) ≤ f.units a := by
  unfold Fmt.units Fmt.sig Fmt.shift
  rw [if_neg h, pow_add]
  exact Nat.mul_le_mul_right _ (Nat.le_add_left _ _)

/-- The encoding keeps the order: by the exponents, and where they are equal by the fractions. -/
theorem Fmt.units_lt_of_mag_lt (h : f.mag a < f.mag b) : f.units a < f.units b := by
  have hfa := f.frac_lt a
  have hfb := f.frac_lt b
  rw [f.mag_eq, f.mag_eq b] at h
  obtain he | he | he := lt_trichotomy (f.expField a) (f.expField b)
  · calc f.units a < 2 ^ (f.fw + f.expField a) := f.units_lt_pow a
      _ ≤ 2 ^ (f.fw + (f.expField b - 1)) := Nat.pow_le_pow_right (by norm_num) (by omega)
      _ ≤ f.units b := Fmt.pow_le_units (by omega)
  · unfold Fmt.units Fmt.sig Fmt.shift
    rw [he] at h ⊢
    exact Nat.mul_lt_mul_of_pos_right (by omega) (by positivity)
  · have : (f.expField b + 1) * 2 ^ f.fw ≤ f.expField a * 2 ^ f.fw := Nat.mul_le_mul_right _ he
    rw [add_one_mul] at this
    omega

theorem Fmt.units_eq_of_mag_eq (h : f.mag a = f.mag b) : f.units a = f.units b := by
  have he : f.expField a = f.expField b := by
    have hdiv : ∀ c, f.expField c = f.mag c / 2 ^ f.fw := fun c => by
      rw [f.mag_eq, mul_comm, Nat.mul_add_div (by positivity), Nat.div_eq_of_lt (f.frac_lt c), add_zero]
    rw [hdiv, hdiv, h]
  have hfrac : f.frac a = f.frac b := by
    rw [f.mag_eq, f.mag_eq b, he] at h
    omega
  simp only [Fmt.units, Fmt.sig, Fmt.shift, he, hfrac]

/-- A sign and a magnitude, as the integer they stand for. -/
def withSign (neg : Bool) (u : Nat) : Int := if neg then -u else u

theorem withSign_not (n : Bool) (u : Nat) : withSign (!n) u = -withSign n u := by
  cases n <;> simp [withSign]

theorem withSign_mul_pow (n : Bool) (u k : Nat) : withSign n u * 2 ^ k = withSign n (u * 2 ^ k) := by
  cases n <;> simp [withSign]

theorem exactSum_fst (m1 m2 : Nat) (n1 n2 : Bool) (e1 e2 : Int) : (exactSum m1 n1 e1 m2 n2 e2).1 =
    withSign n1 (m1 * 2 ^ (e1 - min e1 e2).toNat) + withSign n2 (m2 * 2 ^ (e2 - min e1 e2).toNat) := rfl

/-- The comparison of two finite values is that of their integers at one weight. -/
theorem fpCmp_fin (na nb : Bool) (ma mb i j : Nat) (c : Int) :
    fpCmp (.fin na ma (i + c)) (.fin nb mb (j + c)) = (withSign na (ma * 2 ^ i) - withSign nb (mb * 2 ^ j)).sign := by
  have hi : (i + c - min (i + c) (j + c)).toNat + min i j = i := by omega
  have hj : (j + c - min (i + c) (j + c)).toNat + min i j = j := by omega
  have hsum : withSign na (ma * 2 ^ i) - withSign nb (mb * 2 ^ j) =
      (exactSum ma na (i + c) mb (!nb) (j + c)).1 * 2 ^ min i j := by
    rw [exactSum_fst, withSign_not, add_mul, neg_mul, withSign_mul_pow, withSign_mul_pow, mul_assoc, mul_assoc, ← pow_add,
      ← pow_add, hi, hj, sub_eq_add_neg]
  rw [hsum, Int.sign_mul, Int.sign_eq_one_of_pos (by positivity : (0 : Int) < 2 ^ min i j), mul_one]
  simp only [fpCmp]
  generalize (exactSum ma na (i + c) mb (!nb) (j + c)).1 = s
  obtain h | rfl | h := lt_trichotomy s 0
  · simp [h, Int.sign_eq_neg_one_of_neg h]
  · simp
  · simp [h.not_gt, h.ne', Int.sign_eq_one_of_pos h]

theorem fpCmp_unpack_fin (hf : f.Arithmetic) (ha : ¬ f.Top a) (hb : ¬ f.Top b) :
    fpCmp (unpack f a) (unpack f b) = (withSign (f.neg a) (f.units a) - withSign (f.neg b) (f.units b)).sign := by
  rw [unpack_of_not_top hf ha, unpack_of_not_top hf hb, fpCmp_fin]
  rfl

theorem Fmt.key_eq (h : f.IsPattern a) : f.key a = if f.neg a then -(f.mag a : Int) - 1 else f.mag a := by
  simp only [Fmt.key, Fmt.neg_eq h, decide_eq_true_eq]

/-- The test by which `fpMinMax` puts the first of two values below the second. -/
def FVal.below (x y : FVal) : Bool := decide (fpCmp x y < 0) || (fpCmp x y == 0 && x.neg && !y.neg)

theorem FVal.below_iff (x y : FVal) :
    x.below y = true ↔ fpCmp x y < 0 ∨ fpCmp x y = 0 ∧ x.neg = true ∧ y.neg = false := by
  simp [FVal.below, and_assoc]

/-- On patterns that are not NaN the test is the order of `key`: an infinity lies beyond every finite magnitude, and the finite
magnitudes stand in the order of their values. -/
theorem below_unpack_iff (hf : f.Arithmetic) (ha : f.IsPattern a) (hb : f.IsPattern b)
    (hna : ¬ f.Nan a) (hnb : ¬ f.Nan b) : (unpack f a).below (unpack f b) = true ↔ f.key a < f.key b := by
  rw [FVal.below_iff, Fmt.key_eq ha, Fmt.key_eq hb]
  by_cases hta : f.Top a <;> by_cases htb : f.Top b
  · have hia := (Fmt.nan_or_inf hta).resolve_left hna
    have hib := (Fmt.nan_or_inf htb).resolve_left hnb
    rw [unpack_of_inf hf hia, unpack_of_inf hf hib, Fmt.mag_of_inf hia, Fmt.mag_of_inf hib]
    cases f.neg a <;> cases f.neg b <;> simp [fpCmp, FVal.neg]
    omega
  · have hia := (Fmt.nan_or_inf hta).resolve_left hna
    have hlt := Fmt.mag_lt_inf htb
    rw [unpack_of_inf hf hia, unpack_of_not_top hf htb, Fmt.mag_of_inf hia]
    cases f.neg a <;> cases f.neg b <;> simp [fpCmp, FVal.neg] <;> omega
  · have hib := (Fmt.nan_or_inf htb).resolve_left hnb
    have hlt := Fmt.mag_lt_inf hta
    rw [unpack_of_inf hf hib, unpack_of_not_top hf hta, Fmt.mag_of_inf hib]
    cases f.neg a <;> cases f.neg b <;> simp [fpCmp, FVal.neg] <;> omega
  · have hlt : f.mag a < f.mag b → f.units a < f.units b := Fmt.units_lt_of_mag_lt
    have hgt : f.mag b < f.mag a → f.units b < f.units a := Fmt.units_lt_of_mag_lt
    have heq : f.mag a = f.mag b → f.units a = f.units b := Fmt.units_eq_of_mag_eq
    rw [fpCmp_unpack_fin hf hta htb, Int.sign_neg_iff, Int.sign_eq_zero_iff_zero, unpack_of_not_top hf hta, unpack_of_not_top hf htb]
    cases f.neg a <;> cases f.neg b <;> simp [withSign, FVal.neg] <;> omega

/-! ### The operations on operands that hold a NaN (R161, R172) -/

section
variable {x y z : Nat} (hf : f.Arithmetic) (m : Nat)
include hf

theorem isNan_unpack_eq_false (h : ¬ f.Nan x) : (unpack f x).isNan = false := by
  rwa [← Bool.not_eq_true, isNan_unpack hf]

theorem isNan_or_isNan (h : f.Nan x ∨ f.Nan y) : ((unpack f x).isNan || (unpack f y).isNan) = true := by
  rwa [Bool.or_eq_true, isNan_unpack hf, isNan_unpack hf]

theorem arithmetic_of_nan (h : f.Nan x ∨ f.Nan y) :
    ∀ op ∈ [fpAdd f m, fpSub f m, fpMul f m, fpDiv f m], op x y = (f.cnan, snanFlag [unpack f x, unpack f y]) := by
  simp [fpAdd, fpSub, fpMul, fpDiv, isNan_or_isNan hf h]

theorem fpFma_of_nan {_ : Decidable (f.SNan x ∨ f.SNan y ∨ f.SNan z)} (h : f.Nan x ∨ f.Nan y) :
    fpFma f m z x y = (f.cnan, if f.SNan x ∨ f.SNan y ∨ f.SNan z then 1 else 0) := by
  simp only [fpFma, isNan_or_isNan hf h, if_true]
  rw [snanFlag_eq_ite]
  simp [isSNan_unpack hf]

theorem fpSqrt_of_nan {_ : Decidable (f.SNan x)} (h : f.Nan x) : fpSqrt f m x = (f.cnan, if f.SNan x then 1 else 0) := by
  have hs : f.SNan x ↔ f.frac x < 2 ^ (f.fw - 1) := and_iff_right h
  simp [fpSqrt, unpack_of_nan hf h, flag, flNV, hs]

/-! ### The operations on numbers and infinities (R168, R172) -/

theorem fpAdd_of_not_nan (hx : ¬ f.Nan x) (hy : ¬ f.Nan y) : fpAdd f m x y = fpAddV f m (unpack f x) (unpack f y) := by
  simp [fpAdd, isNan_unpack_eq_false hf hx, isNan_unpack_eq_false hf hy]

theorem fpSub_of_not_nan (hx : ¬ f.Nan x) (hy : ¬ f.Nan y) : fpSub f m x y = fpAddV f m (unpack f x) (unpack f y).negate := by
  simp [fpSub, isNan_unpack_eq_false hf hx, isNan_unpack_eq_false hf hy]

theorem unpack_of_zero (h : f.Zero x) : unpack f x = .fin (f.neg x) 0 (f.shift x + (1 - (f.bias : Int) - f.fw)) := by
  rw [unpack_of_not_top hf (h.not_top hf), Fmt.sig_eq_zero_iff.2 h]

theorem Fmt.Zero.not_nan (h : f.Zero x) : ¬ f.Nan x := fun hn => h.not_top hf hn.1

/-! ### Sums (R168, R172) -/

section
variable (hx : f.IsPattern x) (hix : f.Inf x)
include hx hix

theorem fpAdd_inf_left (hty : ¬ f.Top y) : fpAdd f m x y = (x, 0) := by
  rw [fpAdd_of_not_nan hf m hix.not_nan (Fmt.not_nan_of_not_top hty), unpack_of_inf hf hix, unpack_of_not_top hf hty, fpAddV,
    signed_neg_inf hx hix]

theorem fpAdd_inf_right (hty : ¬ f.Top y) : fpAdd f m y x = (x, 0) := by
  rw [fpAdd_of_not_nan hf m (Fmt.not_nan_of_not_top hty) hix.not_nan, unpack_of_inf hf hix, unpack_of_not_top hf hty, fpAddV,
    signed_neg_inf hx hix]

theorem fpSub_inf_left (hty : ¬ f.Top y) : fpSub f m x y = (x, 0) := by
  rw [fpSub_of_not_nan hf m hix.not_nan (Fmt.not_nan_of_not_top hty), unpack_of_inf hf hix, unpack_of_not_top hf hty, FVal.negate,
    fpAddV, signed_neg_inf hx hix]

theorem fpSub_inf_right (hty : ¬ f.Top y) : fpSub f m y x = ((1 - f.sgn x) * 2 ^ (f.ew + f.fw) + f.inf, 0) := by
  rw [fpSub_of_not_nan hf m (Fmt.not_nan_of_not_top hty) hix.not_nan, unpack_of_inf hf hix, unpack_of_not_top hf hty, FVal.negate,
    fpAddV, signed_not_neg hx]

theorem fpAdd_inf_inf_of_ne (hy : f.IsPattern y) (hiy : f.Inf y) (h : f.sgn x ≠ f.sgn y) : fpAdd f m x y = (f.cnan, 1) := by
  have hne : f.neg x ≠ f.neg y := mt (Fmt.neg_eq_neg_iff hx hy).1 h
  simp [fpAdd_of_not_nan hf m hix.not_nan hiy.not_nan, unpack_of_inf hf hix, unpack_of_inf hf hiy, fpAddV, hne, flNV]

theorem fpAdd_inf_inf_of_eq (hy : f.IsPattern y) (hiy : f.Inf y) (h : f.sgn x = f.sgn y) :
    fpAdd f m x y = (x, 0) ∧ fpSub f m x y = (f.cnan, 1) := by
  have heq : f.neg y = f.neg x := ((Fmt.neg_eq_neg_iff hx hy).2 h).symm
  constructor
  · simp [fpAdd_of_not_nan hf m hix.not_nan hiy.not_nan, unpack_of_inf hf hix, unpack_of_inf hf hiy, fpAddV, heq,
      signed_neg_inf hx hix]
  · simp [fpSub_of_not_nan hf m hix.not_nan hiy.not_nan, unpack_of_inf hf hix, unpack_of_inf hf hiy, fpAddV, FVal.negate, heq, flNV]

end

/-- Equal finite operands have opposite signs in the sum that the difference is. -/
theorem fpSub_self (ht : ¬ f.Top x) : fpSub f m x x = (if m = 3 then 2 ^ (f.ew + f.fw) else 0, 0) := by
  have hn := Fmt.not_nan_of_not_top ht
  rw [fpSub_of_not_nan hf m hn hn, unpack_of_not_top hf ht, FVal.negate, fpAddV]
  cases f.neg x <;> simp [exactSum, signed, Fmt.signBit]

/-! ### Products, alone and accumulated (R172) -/

theorem not_nan_of_invalid (h : f.InvalidProduct x y) : ¬ f.Nan x ∧ ¬ f.Nan y := by
  obtain ⟨hx, hy⟩ | ⟨hx, hy⟩ := h
  · exact ⟨hx.not_nan, hy.not_nan hf⟩
  · exact ⟨hx.not_nan hf, hy.not_nan⟩

theorem fpMulV_of_invalid (h : f.InvalidProduct x y) : fpMulV (unpack f x) (unpack f y) = none := by
  obtain ⟨hx, hy⟩ | ⟨hx, hy⟩ := h
  · simp [unpack_of_inf hf hx, unpack_of_zero hf hy, fpMulV]
  · simp [unpack_of_zero hf hx, unpack_of_inf hf hy, fpMulV]

theorem fpMulV_of_inf (h : f.InfProduct x y) : fpMulV (unpack f x) (unpack f y) = some (.inf (f.neg x != f.neg y)) := by
  obtain ⟨hinf, hnx, hny, hvalid⟩ := h
  by_cases htx : f.Top x
  · have hx := (Fmt.nan_or_inf htx).resolve_left hnx
    by_cases hty : f.Top y
    · have hy := (Fmt.nan_or_inf hty).resolve_left hny
      simp [unpack_of_inf hf hx, unpack_of_inf hf hy, fpMulV, FVal.neg]
    · have hsig : f.sig y ≠ 0 := fun h0 => hvalid (.inl ⟨hx, Fmt.sig_eq_zero_iff.1 h0⟩)
      simp [unpack_of_inf hf hx, unpack_of_not_top hf hty, fpMulV, FVal.neg, hsig]
  · have hy := hinf.resolve_left fun hx => htx hx.1
    have hsig : f.sig x ≠ 0 := fun h0 => hvalid (.inr ⟨Fmt.sig_eq_zero_iff.1 h0, hy⟩)
    simp [unpack_of_not_top hf htx, unpack_of_inf hf hy, fpMulV, FVal.neg, hsig]

theorem exists_fpMulV_of_finite (htx : ¬ f.Top x) (hty : ¬ f.Top y) :
    ∃ n k e, fpMulV (unpack f x) (unpack f y) = some (.fin n k e) := by
  rw [unpack_of_not_top hf htx, unpack_of_not_top hf hty]
  exact ⟨_, _, _, rfl⟩

theorem fpMul_of_invalid (h : f.InvalidProduct x y) : fpMul f m x y = (f.cnan, 1) := by
  obtain ⟨hx, hy⟩ := not_nan_of_invalid hf h
  simp [fpMul, isNan_unpack_eq_false hf hx, isNan_unpack_eq_false hf hy, fpMulV_of_invalid hf h, flNV]

theorem fpMul_of_infProduct (hx : f.IsPattern x) (hy : f.IsPattern y) (h : f.InfProduct x y) :
    fpMul f m x y = ((f.sgn x + f.sgn y) % 2 * 2 ^ (f.ew + f.fw) + f.inf, 0) := by
  have ⟨_, hnx, hny, _⟩ := h
  simp [fpMul, isNan_unpack_eq_false hf hnx, isNan_unpack_eq_false hf hny, fpMulV_of_inf hf h, fpOfV, signed_bne hx hy]

theorem fpFma_of_invalid (h : f.InvalidProduct x y) : fpFma f m z x y = (f.cnan, 1) := by
  obtain ⟨hx, hy⟩ := not_nan_of_invalid hf h
  simp [fpFma, isNan_unpack_eq_false hf hx, isNan_unpack_eq_false hf hy, fpMulV_of_invalid hf h, flNV]

/-- Once the product is known, the accumulation is one sum. -/
theorem fpFma_of_product {p : FVal} (hx : ¬ f.Nan x) (hy : ¬ f.Nan y) (hp : fpMulV (unpack f x) (unpack f y) = some p) :
    fpFma f m z x y = if (unpack f z).isNan then (f.cnan, snanFlag [unpack f z]) else fpAddV f m (unpack f z) p := by
  simp [fpFma, isNan_unpack_eq_false hf hx, isNan_unpack_eq_false hf hy, hp]

theorem fpFma_of_nan_addend {_ : Decidable (f.SNan z)} (hx : ¬ f.Nan x) (hy : ¬ f.Nan y) (h : ¬ f.InvalidProduct x y)
    (hz : f.Nan z) : fpFma f m z x y = (f.cnan, if f.SNan z then 1 else 0) := by
  have hp : ∃ p, fpMulV (unpack f x) (unpack f y) = some p := by
    by_cases hi : f.Inf x ∨ f.Inf y
    · exact ⟨_, fpMulV_of_inf hf ⟨hi, hx, hy, h⟩⟩
    · obtain ⟨hix, hiy⟩ := not_or.1 hi
      obtain ⟨n, k, e, hp⟩ := exists_fpMulV_of_finite hf (fun ht => (Fmt.nan_or_inf ht).elim hx hix)
        (fun ht => (Fmt.nan_or_inf ht).elim hy hiy)
      exact ⟨_, hp⟩
  obtain ⟨p, hp⟩ := hp
  rw [fpFma_of_product hf m hx hy hp, if_pos ((isNan_unpack hf z).2 hz), snanFlag_eq_ite]
  simp [isSNan_unpack hf]

theorem fpFma_of_inf_addend (hz : f.IsPattern z) (htx : ¬ f.Top x) (hty : ¬ f.Top y) (hi : f.Inf z) :
    fpFma f m z x y = (z, 0) := by
  obtain ⟨n, k, e, hp⟩ := exists_fpMulV_of_finite hf htx hty
  rw [fpFma_of_product hf m (Fmt.not_nan_of_not_top htx) (Fmt.not_nan_of_not_top hty) hp, isNan_unpack_eq_false hf hi.not_nan,
    unpack_of_inf hf hi, fpAddV, signed_neg_inf hz hi]
  rfl

section
variable (hx : f.IsPattern x) (hy : f.IsPattern y) (hz : f.IsPattern z) (h : f.InfProduct x y)
include hx hy hz h

theorem fpFma_of_infProduct_of_ne (hi : f.Inf z) (hne : f.sgn z ≠ (f.sgn x + f.sgn y) % 2) : fpFma f m z x y = (f.cnan, 1) := by
  have hne' : f.neg z ≠ (f.neg x != f.neg y) := mt (Fmt.neg_eq_bne_iff hx hy hz).1 hne
  have ⟨_, hnx, hny, _⟩ := h
  rw [fpFma_of_product hf m hnx hny (fpMulV_of_inf hf h), isNan_unpack_eq_false hf hi.not_nan, unpack_of_inf hf hi, fpAddV,
    beq_eq_false_iff_ne.2 hne']
  rfl

theorem fpFma_of_infProduct (hn : ¬ f.Nan z) (hs : ¬ (f.Inf z ∧ f.sgn z ≠ (f.sgn x + f.sgn y) % 2)) :
    fpFma f m z x y = ((f.sgn x + f.sgn y) % 2 * 2 ^ (f.ew + f.fw) + f.inf, 0) := by
  have ⟨_, hnx, hny, _⟩ := h
  rw [fpFma_of_product hf m hnx hny (fpMulV_of_inf hf h), isNan_unpack_eq_false hf hn, ← signed_bne hx hy]
  by_cases ht : f.Top z
  · have hi := (Fmt.nan_or_inf ht).resolve_left hn
    have heq : f.neg z = (f.neg x != f.neg y) := (Fmt.neg_eq_bne_iff hx hy hz).2 (not_not.1 fun hne => hs ⟨hi, hne⟩)
    simp [unpack_of_inf hf hi, fpAddV, heq]
  · simp [unpack_of_not_top hf ht, fpAddV]

end

/-! ### Quotients (R172) -/

theorem fpDiv_inf_left (hx : f.IsPattern x) (hy : f.IsPattern y) (hix : f.Inf x) (hty : ¬ f.Top y) :
    fpDiv f m x y = ((f.sgn x + f.sgn y) % 2 * 2 ^ (f.ew + f.fw) + f.inf, 0) := by
  simp [fpDiv, unpack_of_inf hf hix, unpack_of_not_top hf hty, FVal.isNan, FVal.neg, signed_bne hx hy]

theorem fpDiv_inf_right (hx : f.IsPattern x) (hy : f.IsPattern y) (htx : ¬ f.Top x) (hiy : f.Inf y) :
    fpDiv f m x y = ((f.sgn x + f.sgn y) % 2 * 2 ^ (f.ew + f.fw), 0) := by
  simp [fpDiv, unpack_of_not_top hf htx, unpack_of_inf hf hiy, FVal.isNan, FVal.neg, signed_bne hx hy]

theorem fpDiv_of_invalid (h : (f.Inf x ∧ f.Inf y) ∨ (f.Zero x ∧ f.Zero y)) : fpDiv f m x y = (f.cnan, 1) := by
  obtain ⟨hx, hy⟩ | ⟨hx, hy⟩ := h
  · simp [fpDiv, unpack_of_inf hf hx, unpack_of_inf hf hy, FVal.isNan, flNV]
  · simp [fpDiv, unpack_of_zero hf hx, unpack_of_zero hf hy, FVal.isNan, flNV]

theorem fpDiv_by_zero (hx : f.IsPattern x) (hy : f.IsPattern y) (htx : ¬ f.Top x) (hnz : ¬ f.Zero x) (hzy : f.Zero y) :
    fpDiv f m x y = ((f.sgn x + f.sgn y) % 2 * 2 ^ (f.ew + f.fw) + f.inf, 2) := by
  have hsig : f.sig x ≠ 0 := mt Fmt.sig_eq_zero_iff.1 hnz
  simp [fpDiv, unpack_of_not_top hf htx, unpack_of_zero hf hzy, FVal.isNan, FVal.neg, hsig, flDZ, signed_bne hx hy]

/-! ### Square roots (R172) -/

theorem fpSqrt_of_inf (hx : f.IsPattern x) (hi : f.Inf x) : fpSqrt f m x = if f.sgn x = 0 then (x, 0) else (f.cnan, 1) := by
  have := Fmt.sgn_lt_two hx
  have hval := signed_neg_inf hx hi
  rw [Fmt.neg_eq hx] at hval
  simp only [fpSqrt, unpack_of_inf hf hi, Fmt.neg_eq hx]
  obtain hs | hs : f.sgn x = 0 ∨ f.sgn x = 1 := by omega
  · simpa [hs, signed] using hval
  · simp [hs, flNV]

theorem fpSqrt_of_zero (hx : f.IsPattern x) (hz : f.Zero x) : fpSqrt f m x = (x, 0) := by
  simp [fpSqrt, unpack_of_zero hf hz, signed_neg_zero hx hz]

theorem fpSqrt_of_negative (hx : f.IsPattern x) (ht : ¬ f.Top x) (hs : f.sgn x = 1) (hnz : ¬ f.Zero x) :
    fpSqrt f m x = (f.cnan, 1) := by
  have hsig : f.sig x ≠ 0 := mt Fmt.sig_eq_zero_iff.1 hnz
  simp [fpSqrt, unpack_of_not_top hf ht, hsig, Fmt.neg_eq hx, hs, flNV]

/-! ### The lesser and the greater (R173) -/

theorem fpMinMax_of_not_nan (isMax : Bool) (hx : ¬ f.Nan x) (hy : ¬ f.Nan y) :
    fpMinMax f isMax x y = (if (unpack f x).below (unpack f y) != isMax then x else y, 0) := by
  simp only [fpMinMax, isNan_unpack_eq_false hf hx, isNan_unpack_eq_false hf hy]
  rfl

theorem fpMinMax_order {isMax : Bool} (hx : f.IsPattern x) (hy : f.IsPattern y) (hnx : ¬ f.Nan x) (hny : ¬ f.Nan y) :
    fpMinMax f isMax x y = (if (if isMax then f.key y ≤ f.key x else f.key x ≤ f.key y) then x else y, 0) := by
  have hbelow := below_unpack_iff hf hx hy hnx hny
  rw [fpMinMax_of_not_nan hf isMax hnx hny]
  congr 1
  cases isMax
  case true =>
    have hiff : ((unpack f x).below (unpack f y) != true) = true ↔ f.key y ≤ f.key x := by
      rw [← not_lt, ← hbelow]
      simp
    simp only [hiff, if_true]
  case false =>
    obtain hlt | heq | hgt := lt_trichotomy (f.key x) (f.key y)
    · simp [hbelow.2 hlt, hlt.le]
    · simp [Fmt.key_injective hx hy heq]
    · have hb : ¬ (unpack f x).below (unpack f y) = true := fun hb => hgt.not_gt (hbelow.1 hb)
      simp [hb, hgt.not_ge]

theorem fpMinMax_nan_left (isMax : Bool) (hnx : f.Nan x) (hny : ¬ f.Nan y) : (fpMinMax f isMax x y).1 = y := by
  simp [fpMinMax, (isNan_unpack hf x).2 hnx, isNan_unpack_eq_false hf hny]

theorem fpMinMax_nan_right (isMax : Bool) (hnx : ¬ f.Nan x) (hny : f.Nan y) : (fpMinMax f isMax x y).1 = x := by
  simp [fpMinMax, isNan_unpack_eq_false hf hnx, (isNan_unpack hf y).2 hny]

theorem fpMinMax_nan_nan (isMax : Bool) (hnx : f.Nan x) (hny : f.Nan y) : (fpMinMax f isMax x y).1 = f.cnan := by
  simp [fpMinMax, (isNan_unpack hf x).2 hnx, (isNan_unpack hf y).2 hny]

theorem fpMinMax_flags (isMax : Bool) (x y : Nat) : (fpMinMax f isMax x y).2 = snanFlag [unpack f x, unpack f y] := by
  by_cases hnx : f.Nan x <;> by_cases hny : f.Nan y
  · simp [fpMinMax, (isNan_unpack hf x).2 hnx, (isNan_unpack hf y).2 hny]
  · simp [fpMinMax, (isNan_unpack hf x).2 hnx, isNan_unpack_eq_false hf hny]
  · simp [fpMinMax, isNan_unpack_eq_false hf hnx, (isNan_unpack hf y).2 hny]
  · have hquiet : ¬ (f.SNan x ∨ f.SNan y) := fun h => h.elim (fun hs => hnx hs.1) fun hs => hny hs.1
    rw [fpMinMax_of_not_nan hf isMax hnx hny, (snanFlag_pair hf x y).2.2 hquiet]

end
end

/-- Settles O13: each special case from what the operands read as, and the lesser and the greater from the order of `key`. -/
theorem floatSpecialCases : Obligations.FloatSpecialCases := by
  unfold Obligations.FloatSpecialCases
  intro f hmem m _ x hx y hy z hz
  have hf := arithmetic_formats f hmem
  refine ⟨fun op hop h => ?nan, fpFma_of_nan hf m, fpFma_of_invalid hf m,
    ⟨fpFma_of_nan_addend hf m, fun h => fpFma_of_infProduct_of_ne hf m hx hy hz h, fun h => fpFma_of_infProduct hf m hx hy hz h,
      fpFma_of_inf_addend hf m hz, fpMul_of_infProduct hf m hx hy⟩,
    fun ⟨hi, ht⟩ => ⟨fpAdd_inf_left hf m hx hi ht, fpAdd_inf_right hf m hx hi ht, fpSub_inf_left hf m hx hi ht,
      fpSub_inf_right hf m hx hi ht, fpDiv_inf_left hf m hx hy hi ht⟩,
    fpSqrt_of_nan hf m, fpSqrt_of_inf hf m hx, fun ⟨hix, hiy, h⟩ => fpAdd_inf_inf_of_ne hf m hx hix hy hiy h,
    fun ⟨hix, hiy, h⟩ => fpAdd_inf_inf_of_eq hf m hx hix hy hiy h, fpMul_of_invalid hf m, fpDiv_of_invalid hf m,
    fun ⟨ht, hnz, hzy⟩ => fpDiv_by_zero hf m hx hy ht hnz hzy, fun ⟨ht, hi⟩ => fpDiv_inf_right hf m hx hy ht hi,
    fun ⟨ht, hs, hnz⟩ => fpSqrt_of_negative hf m hx ht hs hnz, fpSqrt_of_zero hf m hx, fun ⟨ht, _⟩ => fpSub_self hf m ht,
    fun b => ⟨fpMinMax_order hf hx hy, fpMinMax_nan_left hf b, fpMinMax_nan_right hf b, fpMinMax_nan_nan hf b, ?flags⟩⟩
  case nan =>
    rw [arithmetic_of_nan hf m h op hop]
    exact ⟨rfl, snanFlag_pair hf x y⟩
  case flags =>
    rw [fpMinMax_flags hf]
    exact snanFlag_pair hf x y

end Sys2Proof.Machine
end

section
/-! The encoder and the decoder (R44, R47, R56 to R75): a word is the sum of its fields at their places. -/

namespace Sys2Proof

/-! ### Reading a field of a sum -/

theorem add_div_of_low {x y p : Nat} (h : x % p + y < p) : (x + y) / p = x / p := by
  have hp : 0 < p := by omega
  rw [Nat.add_div hp, Nat.div_eq_of_lt (by omega : y < p), Nat.mod_eq_of_lt (by omega : y < p), if_neg (by omega), Nat.add_zero]

theorem add_mod_of_high {x y q : Nat} (h : x % q = 0) (hy : y < q) : (x + y) % q = y := by
  rw [Nat.add_mod, h, Nat.zero_add, Nat.mod_mod, Nat.mod_eq_of_lt hy]

theorem add_mul_div_place {x y p : Nat} (hp : 0 < p) : (x + y * p) / p = x / p + y :=
  Nat.add_mul_div_right x y hp

/-- What stands above a field does not reach it. -/
theorem add_mul_div_mod {x y k p q : Nat} (hp : 0 < p) (hk : k % (p * q) = 0) : (x + y * k) / p % q = x / p % q := by
  obtain ⟨c, rfl⟩ := Nat.dvd_of_mod_eq_zero hk
  rw [show x + y * (p * q * c) = x + (y * c * q) * p by ring, Nat.add_mul_div_right _ _ hp, Nat.add_mul_mod_self_right]

theorem add_mul_mod {x y k q : Nat} (hk : k % q = 0) : (x + y * k) % q = x % q := by
  obtain ⟨c, rfl⟩ := Nat.dvd_of_mod_eq_zero hk
  rw [show x + y * (q * c) = x + (y * c) * q by ring, Nat.add_mul_mod_self_right]

/-! ### Reading a field of the RRR form (R67) -/

section
variable {m f b a d : Nat}

theorem encRRR_major (hm : m < 64) (hf : f < 32) (hb : b < 128) (ha : a < 128) (hd : d < 128) :
    encRRR m f b a d / 67108864 % 64 = m := by
  unfold encRRR
  omega

theorem encRRR_fn (hf : f < 32) (hb : b < 128) (ha : a < 128) (hd : d < 128) :
    encRRR m f b a d / 2097152 % 32 = f := by
  unfold encRRR
  omega

theorem encRRR_b (hb : b < 128) (ha : a < 128) (hd : d < 128) : encRRR m f b a d / 16384 % 128 = b := by
  unfold encRRR
  omega

theorem encRRR_a (ha : a < 128) (hd : d < 128) : encRRR m f b a d / 128 % 128 = a := by
  unfold encRRR
  omega

theorem encRRR_d (hd : d < 128) : encRRR m f b a d % 128 = d := by
  unfold encRRR
  omega

/-- The parts of fn, where a form splits it. -/
theorem encRRR_mode (hf : f < 32) (hb : b < 128) (ha : a < 128) (hd : d < 128) :
    encRRR m f b a d / 16777216 % 4 = f / 8 ∧ encRRR m f b a d / 2097152 % 8 = f % 8 ∧
      encRRR m f b a d / 4194304 % 4 = f / 2 % 4 ∧ encRRR m f b a d / 2097152 % 2 = f % 2 := by
  unfold encRRR
  omega

theorem encRRR_fn_b (hf : f % 2 = 0) (hb : b < 128) (ha : a < 128) (hd : d < 128) :
    encRRR m f b a d / 16384 % 256 = b := by
  unfold encRRR
  omega

theorem encRRR_zero : encRRR m f 0 0 0 % 2097152 = 0 := by
  unfold encRRR
  omega

theorem encRRR_b_zero : encRRR m f b 0 0 % 16384 = 0 := by
  unfold encRRR
  omega

theorem encRRR_zero_ba (hd : d < 128) : encRRR m f 0 0 d / 128 % 16384 = 0 := by
  unfold encRRR
  omega

theorem encRRR_even_zero (hf : f % 2 = 0) : encRRR m f 0 0 0 % 4194304 = 0 := by
  unfold encRRR
  omega

end

/-! ### Decoding what was encoded -/

/-- The part of the instruction set that an instruction belongs to, by its major opcode; the device's events have none. -/
def Instr.chapter : Instr → Fin 9
  | .bra .. | .call .. | .nop .. | .ret .. | .jmpi .. | .exit .. | .yield .. | .wait .. | .wbaseRel .. | .wbaseAbs ..
  | .trap .. | .tfence .. | .tret .. | .brk .. | .halt .. | .add .. | .sub .. | .min .. | .max .. | .minn ..
  | .maxn .. | .abs .. | .neg .. | .and .. | .or .. | .xor .. | .andn .. | .orn .. | .not .. | .shl .. | .shr ..
  | .sar .. | .rol .. | .ror .. | .clz .. | .ctz .. | .popc .. | .brev .. | .mul .. | .mulh .. | .mulhn .. | .mad ..
  | .mulD .. | .div .. | .divn .. | .rem .. | .remn .. | .bfe .. | .bfen .. | .bfi .. | .addD .. | .subD .. | .shlD ..
  | .shrD .. => 1
  | .addi .. | .andi .. | .ori .. | .xori .. | .shli .. | .shri .. | .sari .. | .movi .. | .movhi .. | .icmpEq ..
  | .icmpNe .. | .icmpLt .. | .icmpLe .. | .icmpGt .. | .icmpGe .. | .icmpLtn .. | .icmpLen .. | .icmpGtn ..
  | .icmpGen .. | .qand .. | .qor .. | .qxor .. | .qandn .. | .qnot .. | .qset .. | .qmov .. | .qpack .. | .qunpack ..
  | .sel .. | .voteAny .. | .voteAll .. | .voteCnt .. | .voteBallot .. | .shflIdx .. | .shflUp .. | .shflDn ..
  | .shflXor .. | .bcast .. | .reduxAdd .. | .reduxMin .. | .reduxMax .. | .reduxMinn .. | .reduxMaxn .. | .mrank .. => 2
  | .fadd .. | .fsub .. | .fmul .. | .fma .. | .fdiv .. | .fsqrt .. | .fmin .. | .fmax .. | .fabs .. | .fneg ..
  | .frcp .. | .frsqrt .. | .fexp2 .. | .flog2 .. | .fsin .. | .fcos .. | .fclass .. | .frint .. | .ffrac ..
  | .fcopysign .. | .fscale .. | .fsat .. => 3
  | .fcmpEq .. | .fcmpNe .. | .fcmpLt .. | .fcmpLe .. | .fcmpGt .. | .fcmpGe .. | .fcmpUn .. | .fcmpOrd ..
  | .hadd2Bf16 .. | .hsub2Bf16 .. | .hmul2Bf16 .. | .hfma2Bf16 .. | .hmin2Bf16 .. | .hmax2Bf16 .. | .hadd2F16 ..
  | .hsub2F16 .. | .hmul2F16 .. | .hfma2F16 .. | .hmin2F16 .. | .hmax2F16 .. | .cvt .. => 8
  | .ldB .. | .ldH .. | .ldW .. | .ldD .. | .ldsB .. | .ldsH .. | .ldsQ .. | .stB .. | .stH .. | .stW .. | .stD ..
  | .stQ .. => 4
  | .ldAcqW .. | .ldAcqD .. | .stRelW .. | .stRelD .. | .fenceGng .. | .fenceBlk .. | .fenceClu .. | .fenceDie ..
  | .fenceDev .. | .fenceDom .. | .fenceAcq .. | .fenceRel .. | .atomAdd .. | .atomMin .. | .atomMax .. | .atomMinn ..
  | .atomMaxn .. | .atomAnd .. | .atomOr .. | .atomXor .. | .atomXchg .. | .atomInc .. | .atomAddNr .. | .atomMinNr ..
  | .atomMaxNr .. | .atomMinnNr .. | .atomMaxnNr .. | .atomAndNr .. | .atomOrNr .. | .atomXorNr .. | .atomXchgNr ..
  | .atomIncNr .. | .atomCas .. | .atomFx .. | .atomAddD .. | .atomFxNr .. | .atomAddDNr .. => 5
  | .cpyIn .. | .cpyOut .. | .cpyMc .. | .cpyGen .. | .cpyPf .. | .cpySeal .. | .cpyWait .. | .cpyVis .. | .cpyStat ..
  | .barInit .. | .barArr .. | .barArrb .. | .barExp .. | .barWait .. | .barTry .. | .barBlk .. | .barClu ..
  | .carve .. | .mwait .. | .mma .. | .mdrain .. | .mzero .. | .mfence .. | .ringDef .. | .ringAdv .. | .ringRel ..
  | .ringRelRst .. | .ringStat .. | .cbld .. | .wmul .. | .wmuln .. | .wmac .. | .wadd .. | .wsub .. | .wneg ..
  | .wshs .. | .wshb .. | .pack .. | .extr .. | .gchk .. | .gwid .. | .cbdec .. | .wcmp .. => 6
  | .submitTail .. | .takeEntry .. | .leaseAck .. | .preemptMark .. | .preemptClear .. | .cmdCancelL ..
  | .cmdCancelG .. | .cmdCancelJ .. | .shootdown .. | .harvest .. | .shadowRetire .. | .haltReq .. | .regionBp ..
  | .stopMode .. | .resume .. | .breakEn .. | .sample .. | .zeroHist .. | .readState .. | .evict ..
  | .moduleNumberWrite .. | .eventHeadWrite .. | .mgmtRegisterWrite .. | .placementOpportunity .. | .parameterCopy ..
  | .launchEnd .. | .clauseFetch .. | .clauseStart .. | .issueSelect .. | .agingClassRise .. | .instructionComplete ..
  | .flagWaitResume .. | .accessAtTarget .. | .gangWake .. | .gangEviction .. | .deferredFaultDelivery ..
  | .copyChannelStart .. | .ringClaim .. | .l2Fill .. | .copyDelivery .. | .prefetchLinePresent .. | .mwaitTimeout ..
  | .denseProductAdmit .. | .engineCommandStart .. | .chunkFire .. | .mmaComplete .. | .drainComplete ..
  | .mzeroComplete .. | .cbldComplete .. | .migrateMove .. | .tlbWalk .. | .dirtySweep .. | .traceSample ..
  | .gateStallDivergence .. | .parityReplay .. | .eccError .. | .linkFlit .. | .linkFailure .. | .timeSync ..
  | .powerCap .. | .powerGood .. | .startTimeout .. | .imageReceive .. | .kChunkComplete .. | .unknownCommand .. => 0
  | _ => 7

theorem decodeRaw_encode_control_integer {i : Instr} (hk : i.chapter = 1) (h : i.wf = true) :
    decodeRaw (encode i) = .ok i := by
  cases i
  all_goals cases hk
  all_goals
    simp only [Instr.wf, Bool.and_eq_true, decide_eq_true_eq] at h
    simp (disch := omega) only [encode, encRRR_major, encRRR_fn, encRRR_b, encRRR_a, encRRR_d, encRRR_zero, decodeRaw,
      decodeMajor01, decodeMajor02, decodeMajor03, decodeMajor04, decodeMajor05, add_div_of_low, add_mod_of_high,
      add_mul_div_place, add_mul_mod, Nat.reduceDiv, Nat.reduceMod, if_true, and_self]

theorem decodeRaw_encode_immediate_predicate {i : Instr} (hk : i.chapter = 2) (h : i.wf = true) :
    decodeRaw (encode i) = .ok i := by
  cases i
  all_goals cases hk
  all_goals
    simp only [Instr.wf, Bool.and_eq_true, decide_eq_true_eq] at h
    simp (disch := omega) only [encode, encRRR_major, encRRR_fn, encRRR_b, encRRR_a, encRRR_d, encRRR_zero_ba,
      decodeRaw, decodeMajor06, decodeMajor07, decodeMajor08, decodeMajor09, decodeMajor0A, decodeMajor0B,
      decodeMajor0C, decodeMajor0D, decodeMajor0E, decodeMajor0F, add_div_of_low, add_mod_of_high, add_mul_div_place,
      Nat.reduceDiv, Nat.reduceMod, if_true]

theorem decodeRaw_encode_float {i : Instr} (hk : i.chapter = 3) (h : i.wf = true) :
    decodeRaw (encode i) = .ok i := by
  cases i
  all_goals cases hk
  all_goals
    simp only [Instr.wf, Bool.and_eq_true, decide_eq_true_eq] at h
    simp (disch := omega) only [encode, encRRR_major, encRRR_fn, encRRR_b, encRRR_a, encRRR_d, encRRR_mode, decodeRaw,
      decodeMajor10, decodeMajor11, add_div_of_low,
      add_mod_of_high, add_mul_div_place, add_mul_div_mod, Nat.reduceDiv, Nat.reduceMod, if_true]

theorem decodeRaw_encode_compare_half {i : Instr} (hk : i.chapter = 8) (h : i.wf = true) :
    decodeRaw (encode i) = .ok i := by
  cases i
  all_goals cases hk
  all_goals
    simp only [Instr.wf, Bool.and_eq_true, decide_eq_true_eq] at h
    simp (disch := omega) only [encode, encRRR_major, encRRR_fn, encRRR_b, encRRR_a, encRRR_d, encRRR_mode, decodeRaw,
      decodeMajor12, decodeMajor13, decodeMajor14, decodeMajor15, add_div_of_low,
      add_mod_of_high, add_mul_div_place, add_mul_div_mod, Nat.reduceDiv, Nat.reduceMod, if_true]

theorem decodeRaw_encode_load_store {i : Instr} (hk : i.chapter = 4) (h : i.wf = true) :
    decodeRaw (encode i) = .ok i := by
  cases i
  all_goals cases hk
  all_goals
    simp only [Instr.wf, Bool.and_eq_true, decide_eq_true_eq] at h
    simp (disch := omega) only [encode, decodeRaw, decodeMajor16, decodeMajor17, decodeMajor18, decodeMajor19,
      add_div_of_low, add_mod_of_high, add_mul_div_place, Nat.reduceDiv, Nat.reduceMod, if_true]

theorem decodeRaw_encode_order_atomic {i : Instr} (hk : i.chapter = 5) (h : i.wf = true) :
    decodeRaw (encode i) = .ok i := by
  cases i
  all_goals cases hk
  all_goals
    simp only [Instr.wf, Bool.and_eq_true, decide_eq_true_eq] at h
    simp (disch := omega) only [encode, encRRR_major, encRRR_fn, encRRR_b, encRRR_a, encRRR_d, decodeRaw, decodeFence,
      decodeMajor1A, decodeMajor1B, decodeMajor1C, add_div_of_low, add_mod_of_high, add_mul_div_place,
      add_mul_div_mod, add_mul_mod, Nat.reduceDiv, Nat.reduceMod, if_true]

theorem decodeRaw_encode_copy_engine {i : Instr} (hk : i.chapter = 6) (h : i.wf = true) :
    decodeRaw (encode i) = .ok i := by
  cases i
  all_goals cases hk
  all_goals
    simp only [Instr.wf, Bool.and_eq_true, decide_eq_true_eq] at h
    simp (disch := omega) only [encode, encRRR_major, encRRR_fn, encRRR_b, encRRR_a, encRRR_d, encRRR_zero,
      encRRR_b_zero, encRRR_zero_ba, decodeRaw, decodeMajor1D, decodeMajor1E, decodeMajor1F, decodeMajor20,
      decodeMajor21, add_div_of_low, add_mod_of_high, add_mul_div_place, add_mul_div_mod, add_mul_mod, Nat.reduceDiv,
      Nat.reduceMod, if_true, and_self]

theorem decodeRaw_encode_task_system {i : Instr} (hk : i.chapter = 7) (h : i.wf = true) :
    decodeRaw (encode i) = .ok i := by
  cases i
  all_goals cases hk
  all_goals
    simp only [Instr.wf, Bool.and_eq_true, decide_eq_true_eq] at h
    simp (disch := omega) only [encode, encRRR_major, encRRR_fn, encRRR_b, encRRR_a, encRRR_d, encRRR_mode,
      encRRR_fn_b, encRRR_zero, encRRR_zero_ba, encRRR_even_zero, decodeRaw, decodeMajor22, decodeMajor23,
      decodeMajor24, decodeMajor25, add_div_of_low, add_mod_of_high, add_mul_div_place, add_mul_div_mod, add_mul_mod,
      Nat.reduceDiv, Nat.reduceMod, if_true, and_self]

theorem decodeRaw_encode {i : Instr} (h : i.wf = true) (hne : encode i ≠ 0) : decodeRaw (encode i) = .ok i := by
  have hk : i.chapter ≠ 0 := by
    intro hk
    cases i
    all_goals cases hk
    all_goals exact hne rfl
  have hcases : ∀ k : Fin 9, k ≠ 0 → k = 1 ∨ k = 2 ∨ k = 3 ∨ k = 4 ∨ k = 5 ∨ k = 6 ∨ k = 7 ∨ k = 8 := by decide
  obtain hk | hk | hk | hk | hk | hk | hk | hk := hcases i.chapter hk
  · exact decodeRaw_encode_control_integer hk h
  · exact decodeRaw_encode_immediate_predicate hk h
  · exact decodeRaw_encode_float hk h
  · exact decodeRaw_encode_load_store hk h
  · exact decodeRaw_encode_order_atomic hk h
  · exact decodeRaw_encode_copy_engine hk h
  · exact decodeRaw_encode_task_system hk h
  · exact decodeRaw_encode_compare_half hk h

/-! ### Encoding what was decoded -/

/-- What a major's decoder reads of a word fills all of its 32 bits again: no bit is left unread. -/
def Refills (m : Nat) (dec : Nat → Except Reject Instr) : Prop :=
  ∀ w i, w / 67108864 % 64 = m → dec w = .ok i → encode i = w % 2 ^ 32

theorem refills_control_integer :
    Refills 1 decodeMajor01 ∧ Refills 2 decodeMajor02 ∧ Refills 3 decodeMajor03 ∧ Refills 4 decodeMajor04 ∧
    Refills 5 decodeMajor05 := by
  refine ⟨?_, ?_, ?_, ?_, ?_⟩
  all_goals
    intro w i hw h
    simp only [decodeMajor01, decodeMajor02, decodeMajor03, decodeMajor04, decodeMajor05] at h
    repeat' split at h
  all_goals cases h
  all_goals
    simp only [encode, encRRR]
    omega

theorem refills_immediate_predicate :
    Refills 6 decodeMajor06 ∧ Refills 7 decodeMajor07 ∧ Refills 8 decodeMajor08 ∧ Refills 9 decodeMajor09 ∧
    Refills 10 decodeMajor0A ∧ Refills 11 decodeMajor0B ∧ Refills 12 decodeMajor0C ∧ Refills 13 decodeMajor0D ∧
    Refills 14 decodeMajor0E ∧ Refills 15 decodeMajor0F := by
  refine ⟨?_, ?_, ?_, ?_, ?_, ?_, ?_, ?_, ?_, ?_⟩
  all_goals
    intro w i hw h
    simp only [decodeMajor06, decodeMajor07, decodeMajor08, decodeMajor09, decodeMajor0A, decodeMajor0B,
      decodeMajor0C, decodeMajor0D, decodeMajor0E, decodeMajor0F] at h
    repeat' split at h
  all_goals cases h
  all_goals
    simp only [encode, encRRR]
    omega

theorem refills_float :
    Refills 16 decodeMajor10 ∧ Refills 17 decodeMajor11 ∧ Refills 18 decodeMajor12 ∧ Refills 19 decodeMajor13 ∧
    Refills 20 decodeMajor14 ∧ Refills 21 decodeMajor15 := by
  refine ⟨?_, ?_, ?_, ?_, ?_, ?_⟩
  all_goals
    intro w i hw h
    simp only [decodeMajor10, decodeMajor11, decodeMajor12, decodeMajor13, decodeMajor14, decodeMajor15] at h
    repeat' split at h
  all_goals cases h
  all_goals
    simp only [encode, encRRR]
    omega

theorem refills_load_store :
    Refills 22 decodeMajor16 ∧ Refills 23 decodeMajor17 ∧ Refills 24 decodeMajor18 ∧ Refills 25 decodeMajor19 := by
  refine ⟨?_, ?_, ?_, ?_⟩
  all_goals
    intro w i hw h
    simp only [decodeMajor16, decodeMajor17, decodeMajor18, decodeMajor19] at h
    repeat' split at h
  all_goals cases h
  all_goals
    simp only [encode]
    omega

theorem refills_order_atomic :
    Refills 26 decodeMajor1A ∧ Refills 27 decodeMajor1B ∧ Refills 28 decodeMajor1C := by
  refine ⟨?_, ?_, ?_⟩
  all_goals
    intro w i hw h
    simp only [decodeMajor1A, decodeMajor1B, decodeMajor1C, decodeFence] at h
    repeat' split at h
  all_goals cases h
  all_goals
    simp only [encode, encRRR]
    omega

theorem refills_copy_engine :
    Refills 29 decodeMajor1D ∧ Refills 30 decodeMajor1E ∧ Refills 31 decodeMajor1F ∧ Refills 32 decodeMajor20 ∧
    Refills 33 decodeMajor21 := by
  refine ⟨?_, ?_, ?_, ?_, ?_⟩
  all_goals
    intro w i hw h
    simp only [decodeMajor1D, decodeMajor1E, decodeMajor1F, decodeMajor20, decodeMajor21] at h
    repeat' split at h
  all_goals cases h
  all_goals
    simp only [encode, encRRR]
    omega

theorem refills_task_system :
    Refills 34 decodeMajor22 ∧ Refills 35 decodeMajor23 ∧ Refills 36 decodeMajor24 ∧ Refills 37 decodeMajor25 := by
  refine ⟨?_, ?_, ?_, ?_⟩
  all_goals
    intro w i hw h
    simp only [decodeMajor22, decodeMajor23, decodeMajor24, decodeMajor25] at h
    repeat' split at h
  all_goals cases h
  all_goals
    simp only [encode, encRRR]
    omega

theorem encode_of_decodeRaw {w : Nat} {i : Instr} (h : decodeRaw w = .ok i) : encode i = w % 2 ^ 32 := by
  obtain ⟨r01, r02, r03, r04, r05⟩ := refills_control_integer
  obtain ⟨r06, r07, r08, r09, r0A, r0B, r0C, r0D, r0E, r0F⟩ := refills_immediate_predicate
  obtain ⟨r10, r11, r12, r13, r14, r15⟩ := refills_float
  obtain ⟨r16, r17, r18, r19⟩ := refills_load_store
  obtain ⟨r1A, r1B, r1C⟩ := refills_order_atomic
  obtain ⟨r1D, r1E, r1F, r20, r21⟩ := refills_copy_engine
  obtain ⟨r22, r23, r24, r25⟩ := refills_task_system
  unfold decodeRaw at h
  split at h
  case h_38 => cases h
  all_goals rename_i hm
  exacts [r01 _ _ hm h, r02 _ _ hm h, r03 _ _ hm h, r04 _ _ hm h, r05 _ _ hm h, r06 _ _ hm h, r07 _ _ hm h,
    r08 _ _ hm h, r09 _ _ hm h, r0A _ _ hm h, r0B _ _ hm h, r0C _ _ hm h, r0D _ _ hm h, r0E _ _ hm h, r0F _ _ hm h,
    r10 _ _ hm h, r11 _ _ hm h, r12 _ _ hm h, r13 _ _ hm h, r14 _ _ hm h, r15 _ _ hm h, r16 _ _ hm h, r17 _ _ hm h,
    r18 _ _ hm h, r19 _ _ hm h, r1A _ _ hm h, r1B _ _ hm h, r1C _ _ hm h, r1D _ _ hm h, r1E _ _ hm h, r1F _ _ hm h,
    r20 _ _ hm h, r21 _ _ hm h, r22 _ _ hm h, r23 _ _ hm h, r24 _ _ hm h, r25 _ _ hm h]

theorem decodeRaw_of_unassigned {w : Nat} (hw : w < 2 ^ 32) (h : w < 2 ^ 26 ∨ 0x26 * 2 ^ 26 ≤ w) :
    decodeRaw w = .error .major := by
  unfold decodeRaw
  split
  case h_38 => rfl
  all_goals omega

/-- A word whose major is 0 is no instruction, so that what decodes does not encode to 0. -/
theorem encode_ne_zero_of_decodeRaw {w : Nat} {i : Instr} (h : decodeRaw w = .ok i) : encode i ≠ 0 := by
  rw [encode_of_decodeRaw h]
  intro hz
  have hm : w / 67108864 % 64 = 0 := by omega
  unfold decodeRaw at h
  rw [hm] at h
  cases h

/-- A word decodes to what its fields say, where that is a legal instruction (R47). -/
theorem decodeWord_eq_ok {w : Nat} {i : Instr} : decodeWord w = .ok i ↔ decodeRaw w = .ok i ∧ i.wf = true := by
  unfold decodeWord
  cases hraw : decodeRaw w with
  | error e => simp
  | ok j =>
    by_cases hwf : j.wf = true
    · simp only [hwf, if_true, Except.ok.injEq, iff_self_and]
      exact fun hj => hj ▸ hwf
    · simp only [hwf, Bool.false_eq_true, if_false, reduceCtorEq, Except.ok.injEq, false_iff, not_and]
      exact fun hj hi => hwf (hj ▸ hi)

end Sys2Proof

namespace Sys2Proof.Machine

-- One proof at a time: each waiting thread would reserve a stack of its own.
set_option Elab.async false

/-- Settles O56: each field of an encoded word is read back at its place; a word that decodes has a major, an event none. -/
theorem encodeThenDecode : Obligations.EncodeThenDecode := by
  unfold Obligations.EncodeThenDecode
  intro i hwf
  exact ⟨fun hne => ⟨encode_lt i hwf, decodeWord_eq_ok.2 ⟨decodeRaw_encode hwf hne, hwf⟩⟩,
    fun hz w hw => encode_ne_zero_of_decodeRaw (decodeWord_eq_ok.1 hw).1 hz⟩

/-- Settles O57: what a major's decoder reads fills the word again, and a word without a major is refused. -/
theorem decodeThenEncode : Obligations.DecodeThenEncode := by
  unfold Obligations.DecodeThenEncode
  refine ⟨fun w hw i h => ?_, fun w hw hm i h => ?_⟩
  · obtain ⟨hraw, hwf⟩ := decodeWord_eq_ok.1 h
    exact ⟨hwf, (encode_of_decodeRaw hraw).trans (Nat.mod_eq_of_lt hw)⟩
  · have hraw := (decodeWord_eq_ok.1 h).1
    rw [decodeRaw_of_unassigned hw hm] at hraw
    cases hraw

end Sys2Proof.Machine
end

section
/-! Reset, the words of the encoding tables, and the step (R17, R47, R113, R374, R422). -/

namespace Sys2Proof.Machine

-- One proof at a time: each waiting thread would reserve a stack of its own.
set_option Elab.async false

/-- Settles O54: every field of the state after reset is written out. -/
theorem resetState : Obligations.ResetState := by
  unfold Obligations.ResetState
  refine ⟨rfl, rfl, rfl, rfl, rfl, rfl, rfl, rfl, rfl, rfl, fun d => ?_, fun k => rfl, fun k => rfl, fun l => ?_⟩
  · obtain _ | _ | d := d <;> rfl
  · obtain ⟨p, off⟩ := l
    cases p <;> rfl

/-- Settles O55: each word is decoded by its major's table. -/
theorem wordsOfTheSpec : Obligations.WordsOfTheSpec := by
  unfold Obligations.WordsOfTheSpec
  decide

/-! ### The step -/

theorem step_of_issuer {s : State} {g : Gang} {c : ClauseRun} (h : issuer s = some (g, c)) : step s = stepIssued s := by
  rw [step, (issuer_gangOf h).1]

theorem step_of_due_event {s t : State} {i : Instr} (h : s.issuing = none) (hd : due s = (t, some i)) : step s = exec i t := by
  rw [step, h, hd]

theorem step_of_due_none {s t : State} (h : s.issuing = none) (hd : due s = (t, none)) : step s = .next t := by
  rw [step, h, hd]

/-- A free choice of an element moves the counter of free choices alone. -/
theorem pickFrom_spec {α : Type} (s : State) {l : List α} (hl : l ≠ []) :
    ∃ x ∈ l, ∃ n, pickFrom s l = (some x, { s with fresh := n }) := by
  have hpos : 0 < l.length := List.length_pos_iff.2 hl
  have hpick : ∃ k < l.length, ∃ n, pick s l.length = (k, { s with fresh := n }) := by
    unfold pick
    split
    · exact ⟨0, hpos, s.fresh, rfl⟩
    · exact ⟨_, Nat.mod_lt _ hpos, s.fresh + 1, rfl⟩
  obtain ⟨k, hk, n, hpick⟩ := hpick
  exact ⟨l[k], List.getElem_mem hk, n, by simp [pickFrom, hpick, hk]⟩

theorem mem_choices {s : State} {x : Option (Instr × List Nat)} (h : x ∈ choices s) :
    (∃ e ∈ if first s = [] then enabled s else first s, x = some e) ∨ (first s = [] ∧ x = none) := by
  unfold choices at h
  by_cases hf : first s = []
  · simp only [hf, List.isEmpty_nil, if_true, List.mem_append, List.mem_map, List.mem_singleton] at h
    obtain ⟨e, he, rfl⟩ | rfl := h
    · exact .inl ⟨e, by simpa [hf] using he, rfl⟩
    · exact .inr ⟨hf, rfl⟩
  · simp only [List.isEmpty_iff, hf, if_false, List.mem_map] at h
    obtain ⟨e, he, rfl⟩ := h
    exact .inl ⟨e, by simpa [hf] using he, rfl⟩

theorem choices_ne_nil (s : State) : choices s ≠ [] := by
  unfold choices
  split <;> simp_all

/-- With nothing on the agenda one of the events that could happen is due, or time passes. -/
theorem due_of_agenda_nil {s : State} (h : s.agenda = []) :
    (∃ i f n, (i, f) ∈ (if first s = [] then enabled s else first s) ∧ due s = ({ s with focus := f, fresh := n }, some i)) ∨
      (first s = [] ∧ ∃ n, due s = (idle { s with fresh := n }, none)) := by
  obtain ⟨x, hx, n, hpick⟩ := pickFrom_spec s (choices_ne_nil s)
  obtain ⟨⟨i, f⟩, he, rfl⟩ | ⟨hf, rfl⟩ := mem_choices hx
  · exact .inl ⟨i, f, n, he, by simp [due, h, hpick]⟩
  · exact .inr ⟨hf, n, by simp [due, h, hpick]⟩

/-- The host's store finds the first byte that it may not use (R17). -/
theorem hostStore_of_not_ok {s : State} {pa : Nat} {bs : List Byte} {i : Nat} (hi : i < bs.length)
    (hbad : physOk s (pa + i) = false) (hok : ∀ j < i, physOk s (pa + j) = true) :
    hostStore s pa bs = errorResponse s 0 0 (pa + i) 0 none 0 := by
  have hfind : (List.range bs.length).find? (fun i => !physOk s (pa + i)) = some i := by
    rw [List.find?_range_eq_some]
    exact ⟨by simp [hbad], List.mem_range.2 hi, fun j hj => by simp [hok j hj]⟩
  simp [hostStore, hfind]

theorem hostStore_of_ok {s : State} {pa : Nat} {bs : List Byte} (hok : ∀ i < bs.length, physOk s (pa + i) = true) :
    hostStore s pa bs = writeBytes { s with nextId := s.nextId + 1 } (physLoc pa) bs := by
  have hfind : (List.range bs.length).find? (fun i => !physOk s (pa + i)) = none := by
    rw [List.find?_eq_none]
    intro i hi
    simp [hok i (List.mem_range.1 hi)]
  simp [hostStore, hfind, newId]

/-- Settles O58: the word at the PC, or what is due, by the cases of the agenda. -/
theorem stepRunsDecoded : Obligations.StepRunsDecoded := by
  unfold Obligations.StepRunsDecoded
  refine ⟨fun s g c h => ⟨fun i hi => ?_, fun e he => ?_⟩, fun s i f r hs ha => ?_, fun s pa bs r hs ha => ?_,
    fun s on r hs ha => ?_, fun s hs ha => ?_⟩
  · rw [step_of_issuer h]
    simp [stepIssued, h, hi]
  · rw [step_of_issuer h]
    simp [stepIssued, h, he, illegalWord]
  · exact step_of_due_event hs (by rw [due, ha])
  · have hstep : step s = .next (hostStore { s with agenda := r } pa bs) := step_of_due_none hs (by rw [due, ha])
    rw [hstep]
    exact ⟨fun hok => congrArg _ (hostStore_of_ok hok), fun i hi hbad hok => congrArg _ (hostStore_of_not_ok hi hbad hok)⟩
  · exact step_of_due_none hs (by rw [due, ha])
  · obtain ⟨i, f, n, he, hd⟩ | ⟨hf, n, hd⟩ := due_of_agenda_nil ha
    · exact .inl ⟨i, f, n, he, step_of_due_event hs hd⟩
    · exact .inr ⟨hf, n, step_of_due_none hs hd⟩

end Sys2Proof.Machine
end

section
/-! Instructions that act in each active lane on that lane alone (R8): the remaining integer forms and the predicates
(R140 to R151). -/

namespace Sys2Proof.Machine

-- One proof at a time: each waiting thread would reserve a stack of its own.
set_option Elab.async false

/-- An instruction that acts on each active lane's thread alone does there what its function does to any thread. -/
theorem laneResult_lanes {i : Instr} {cls : Cls} {os : List Opnd} {F : Gang → Word → Nat → Thread → Thread → Prop}
    (f : Nat → Thread → Thread) (he : ∀ s, exec i s = issueLanes s cls os f) (hF : ∀ g A l u, F g A l u (f g.level u)) :
    LaneResult i cls os F :=
  laneResult_of (fun g _ _ t => f g.level t) he fun g A l _ _ => hF g A l (thr g l)

/-- What writing a register and joining flags leaves (R57, R170). -/
theorem orFlags_wrReg_with (lv : Nat) (u : Thread) (d : Nat) (x w : Word) :
    WithFlags u (orFlags (wrReg lv u d x) w) w fun u v => WritesReg lv u v d x :=
  orFlags_with u _ _ _ (wrReg_aflags ..) (wrReg_writes ..)

/-! ### The operand forms -/

/-- The instruction is `d ← f(a)` for a function whose value on any word is as `P` says. -/
def ComputesRR (i : Nat → Nat → Instr) (P : Word → Word → Prop) : Prop :=
  ∃ f, (∀ a d s, exec (i a d) s = formRR s .none a d f) ∧ ∀ x, P x (f x)

theorem ComputesRR.laneResult {i : Nat → Nat → Instr} {P : Word → Word → Prop} (h : ComputesRR i P) (a d : Nat) :
    LaneResult (i a d) .none [.reg d, .reg a] fun g _ _ u v =>
      ∃ x, P (rdReg g.level u a) x ∧ WritesReg g.level u v d x := by
  obtain ⟨f, he, hP⟩ := h
  exact laneResult_lanes _ (he a d) fun g _ _ u => ⟨_, hP _, wrReg_writes ..⟩

/-- The instruction is `d ← f(a, b)`, with flags, for a function whose value on any two words is as `P` says. -/
def ComputesFlags (i : Nat → Nat → Nat → Instr) (P : Word → Word → Word → Prop) (w : Word → Word → Word) : Prop :=
  ∃ f : Word → Word → Word, (∀ b a d s, exec (i b a d) s = formFlags s .a b a d fun x y => (f x y, w x y)) ∧ ∀ x y, P x y (f x y)

theorem ComputesFlags.laneResult {i : Nat → Nat → Nat → Instr} {P : Word → Word → Word → Prop} {w : Word → Word → Word}
    (h : ComputesFlags i P w) (b a d : Nat) : LaneResult (i b a d) .a [.reg d, .reg a, .reg b] fun g _ _ u v =>
      ∃ x, P (rdReg g.level u a) (rdReg g.level u b) x ∧
        WithFlags u v (w (rdReg g.level u a) (rdReg g.level u b)) fun u v => WritesReg g.level u v d x := by
  obtain ⟨f, he, hP⟩ := h
  exact laneResult_lanes _ (he b a d) fun g _ _ u => ⟨_, hP _ _, orFlags_wrReg_with ..⟩

/-- The instruction is `q[d] ← f(a, b)` for the relation `P`. -/
def Compares (i : Nat → Nat → Nat → Instr) (P : Word → Word → Prop) : Prop :=
  ∃ f, (∀ b a d s, exec (i b a d) s = formCmp s b a d f) ∧ ∀ x y, f x y = true ↔ P x y

theorem Compares.laneResult {i : Nat → Nat → Nat → Instr} {P : Word → Word → Prop} (h : Compares i P) (b a d : Nat) :
    LaneResult (i b a d) .none [.reg a, .reg b] fun g _ _ u v =>
      ∃ x : Bool, (x = true ↔ P (rdReg g.level u a) (rdReg g.level u b)) ∧ WritesPred u v d x := by
  obtain ⟨f, he, hP⟩ := h
  exact laneResult_lanes _ (he b a d) fun g _ _ u => ⟨_, hP _ _, wrPred_writes ..⟩

/-- The instruction is `d ← f(d)`. -/
theorem laneResult_formR {i : Instr} {d : Nat} {f : Word → Word} {F : Gang → Word → Nat → Thread → Thread → Prop}
    (he : ∀ s, exec i s = formR s d f) (hF : ∀ g A l u, F g A l u (wrReg g.level u d (f (rdReg g.level u d)))) :
    LaneResult i .none [.reg d] F :=
  laneResult_lanes _ he hF

/-- The instruction is `d.d ← f(a.d, b.d)`. -/
theorem laneResult_formPPP {i : Instr} {b a d : Nat} {f f' : Dbl → Dbl → Dbl} (hd : d % 2 = 0)
    (he : ∀ s, exec i s = formPPP s b a d f) (hf : ∀ x y, f x y = f' x y) :
    LaneResult i .none [.pair d, .pair a, .pair b] fun g _ _ u v =>
      WritesPair g.level u v d (f' (rdPair g.level u a) (rdPair g.level u b)) :=
  laneResult_lanes _ he fun g _ _ u => hf _ _ ▸ wrPair_writes g.level u d _ hd

/-- The instruction is `d.d ← f(a.d, b)`. -/
theorem laneResult_formPPR {i : Instr} {b a d : Nat} {f f' : Dbl → Word → Dbl} (hd : d % 2 = 0)
    (he : ∀ s, exec i s = formPPR s b a d f) (hf : ∀ x y, f x y = f' x y) :
    LaneResult i .none [.pair d, .pair a, .reg b] fun g _ _ u v =>
      WritesPair g.level u v d (f' (rdPair g.level u a) (rdReg g.level u b)) :=
  laneResult_lanes _ he fun g _ _ u => hf _ _ ▸ wrPair_writes g.level u d _ hd

/-- The instruction is `d.d ← f(a, b)`. -/
theorem laneResult_formWide64 {i : Instr} {b a d : Nat} {f : Word → Word → Dbl} (hd : d % 2 = 0)
    (he : ∀ s, exec i s = formWide64 s b a d f) :
    LaneResult i .none [.pair d, .reg a, .reg b] fun g _ _ u v =>
      WritesPair g.level u v d (f (rdReg g.level u a) (rdReg g.level u b)) :=
  laneResult_lanes _ he fun g _ _ u => wrPair_writes g.level u d _ hd

/-! ### One source (R140) -/

theorem natAbs_eq_ofInt (x : Word) : absW x = BitVec.ofInt 32 |x.toInt| := by
  rw [absW, wrap32, Int.abs_eq_natAbs]

theorem neg_eq_ofInt (x : Word) : -x = BitVec.ofInt 32 (-x.toInt) := by
  rw [BitVec.ofInt_neg, BitVec.ofInt_toInt]

theorem zeroRun_le (bs : List Bool) : zeroRun bs ≤ bs.length := by
  induction bs with
  | nil => exact Nat.le_refl 0
  | cons b bs ih => cases b <;> simp [zeroRun, ih]

/-- The run is of zero bits, and a bit that follows it is one. -/
theorem zeroRun_spec (bs : List Bool) :
    (∀ i < zeroRun bs, bs[i]? = some false) ∧ (zeroRun bs < bs.length → bs[zeroRun bs]? = some true) := by
  induction bs with
  | nil => simp [zeroRun]
  | cons b bs ih =>
    cases b
    case true => simp [zeroRun]
    case false =>
      refine ⟨fun i hi => ?_, fun h => ?_⟩
      · cases i with
        | zero => rfl
        | succ i => exact ih.1 i (by simpa [zeroRun] using hi)
      · have hlt : zeroRun bs < bs.length := by simpa [zeroRun] using h
        simpa [zeroRun] using ih.2 hlt

@[simp] theorem bitsUp_length (x : Word) : (bitsUp x).length = 32 := by simp [bitsUp, lanes32]

theorem bitsUp_getElem? (x : Word) {i : Nat} (h : i < 32) : (bitsUp x)[i]? = some (x.getLsbD i) := by
  simp [bitsUp, lanes32, h]

theorem bitsUp_reverse_getElem? (x : Word) {i : Nat} (h : i < 32) : (bitsUp x).reverse[i]? = some (x.getLsbD (31 - i)) := by
  rw [List.getElem?_reverse (by simpa using h), bitsUp_length, bitsUp_getElem? x (by omega)]

/-- A count of leading or trailing zeros, from the bits in the order in which they are counted. -/
theorem zeroRun_word (bs : List Bool) (hl : bs.length = 32) (f : Nat → Bool) (hf : ∀ i < 32, bs[i]? = some (f i)) :
    let v := BitVec.ofNat 32 (zeroRun bs)
    v.toNat ≤ 32 ∧ (∀ i < v.toNat, f i = false) ∧ (v.toNat < 32 → f v.toNat = true) := by
  have hle := zeroRun_le bs
  obtain ⟨hz, ho⟩ := zeroRun_spec bs
  have hv : (BitVec.ofNat 32 (zeroRun bs)).toNat = zeroRun bs := by
    rw [BitVec.toNat_ofNat]
    omega
  simp only [hv]
  refine ⟨by omega, fun i hi => ?_, fun hlt => ?_⟩
  · simpa [hf i (by omega)] using hz i hi
  · simpa [hf _ hlt] using ho (by omega)

theorem popcW_toNat (x : Word) : (popcW x).toNat = ((List.range 32).filter fun i => x.getLsbD i).length := by
  have hlen : ((bitsUp x).filter id).length = ((List.range 32).filter fun i => x.getLsbD i).length := by
    rw [bitsUp, lanes32, List.filter_map, List.length_map]
    rfl
  have hle : ((List.range 32).filter fun i => x.getLsbD i).length ≤ 32 :=
    (List.length_filter_le _ _).trans (List.length_range (n := 32)).le
  rw [popcW, hlen, BitVec.toNat_ofNat]
  omega

theorem getLsbD_brevW (x : Word) (i : Nat) (h : i < 32) : (brevW x).getLsbD i = x.getLsbD (31 - i) := by
  rw [Bool.eq_iff_iff]
  refine (inMask_maskOf h _).trans ⟨fun hm => ?_, fun hx => ?_⟩
  · obtain ⟨k, hk, rfl⟩ := List.mem_map.1 hm
    have hk32 := inMask_lt (mem_lanesOf.1 hk)
    rw [show 31 - (31 - k) = k by omega]
    exact mem_lanesOf.1 hk
  · exact List.mem_map.2 ⟨31 - i, mem_lanesOf.2 hx, by omega⟩

/-! ### Immediates and constants (R145 to R147) -/

theorem sext_of_lt {i n : Nat} (h : i < 2 ^ n) : sext i n = if i < 2 ^ (n - 1) then (i : Int) else i - 2 ^ n := by
  simp [sext, Nat.mod_eq_of_lt h]

theorem imm12S_eq {i : Nat} (h : i < 4096) : imm12S i = BitVec.ofInt 32 (if i < 2048 then (i : Int) else i - 4096) :=
  congrArg _ (sext_of_lt (n := 12) h)

theorem moviW_eq {i : Nat} (h : i < 524288) : moviW i = BitVec.ofInt 32 (if i < 262144 then (i : Int) else i - 524288) :=
  congrArg _ (sext_of_lt (n := 19) h)

theorem toNat_movhiW (x : Word) {i : Nat} (h : i < 524288) : (movhiW x i).toNat = i * 2 ^ 13 + x.toNat % 2 ^ 13 := by
  have hmask : x.toNat &&& 0x1FFF = x.toNat % 2 ^ 13 := Nat.and_two_pow_sub_one_eq_mod x.toNat 13
  have hi : i * 2 ^ 13 % 2 ^ 32 = i * 2 ^ 13 := Nat.mod_eq_of_lt (by omega)
  have hlow : x.toNat % 2 ^ 13 < 2 ^ 13 := Nat.mod_lt _ (by norm_num)
  rw [movhiW, BitVec.toNat_or, BitVec.toNat_and, BitVec.toNat_ofNat, hi]
  rw [show (0x1FFF : Word).toNat = 0x1FFF from rfl, hmask, ← Nat.shiftLeft_eq, Nat.shiftLeft_add_eq_or_of_lt hlow]

/-- Shifts by a constant amount below 32. -/
theorem toNat_ofNat_of_lt {n : Nat} (h : n < 32) : (BitVec.ofNat 32 n).toNat = n := by
  rw [BitVec.toNat_ofNat]
  omega

/-- Settles O2: each instruction is `d ← f(a)` or `d ← f(d)` for a function of words, which has the rule's value. -/
theorem unaryAndConstantResults : Obligations.UnaryAndConstantResults := by
  unfold Obligations.UnaryAndConstantResults
  refine ⟨fun r hr => ComputesRR.laneResult ?_, fun r hr i => ComputesRR.laneResult (i := r.1 i) (P := r.2 i) ?_,
    fun i d hi => ⟨?_, ?_⟩⟩
  · revert r
    simp only [List.forall_mem_cons, List.not_mem_nil, IsEmpty.forall_iff, implies_true, and_true]
    exact
      ⟨⟨_, exec_abs, natAbs_eq_ofInt⟩, ⟨_, exec_neg, neg_eq_ofInt⟩, ⟨_, exec_not, fun x i hi => by simp [hi]⟩,
       ⟨_, exec_clz, fun x => zeroRun_word _ (by simp) _ fun i hi => bitsUp_reverse_getElem? x hi⟩,
       ⟨_, exec_ctz, fun x => zeroRun_word _ (by simp) _ fun i hi => bitsUp_getElem? x hi⟩,
       ⟨_, exec_popc, popcW_toNat⟩, ⟨_, exec_brev, getLsbD_brevW⟩⟩
  · revert r
    simp only [List.forall_mem_cons, List.not_mem_nil, IsEmpty.forall_iff, implies_true, and_true]
    exact
      ⟨⟨_, exec_addi i, fun x hi => by rw [imm12S_eq hi, BitVec.ofInt_add, BitVec.ofInt_toInt]⟩,
       ⟨_, exec_andi i, fun x hi => by rw [imm12S_eq hi]⟩, ⟨_, exec_ori i, fun x => rfl⟩, ⟨_, exec_xori i, fun x => rfl⟩,
       ⟨_, exec_shli i, fun x hi => by rw [shlW_eq, toNat_ofNat_of_lt hi, if_pos hi]⟩,
       ⟨_, exec_shri i, fun x hi => by rw [shrW_eq, toNat_ofNat_of_lt hi, if_pos hi]⟩,
       ⟨_, exec_sari i, fun x hi => by
         rw [sarW_eq, toNat_ofNat_of_lt hi, show Nat.min i 31 = i from Nat.min_eq_left (by omega)]⟩⟩
  · refine laneResult_formR (exec_movi i d) fun _ _ _ u => ?_
    rw [← moviW_eq hi]
    exact wrReg_writes ..
  · refine laneResult_formR (exec_movhi i d) fun g _ _ u => ⟨movhiW (rdReg g.level u d) i, ?_, ?_, wrReg_writes ..⟩
    · rw [toNat_movhiW _ hi]
      omega
    · rw [toNat_movhiW _ hi]
      omega

/-! ### Pairs (R142) -/

theorem dbl_add_eq_ofNat (x y : Dbl) : x + y = BitVec.ofNat 64 (x.toNat + y.toNat) := by
  rw [BitVec.ofNat_add, BitVec.ofNat_toNat, BitVec.ofNat_toNat, BitVec.setWidth_eq, BitVec.setWidth_eq]

theorem dbl_sub_eq_ofInt (x y : Dbl) : x - y = BitVec.ofInt 64 (x.toNat - y.toNat : Int) := by
  rw [Int.sub_eq_add_neg, BitVec.ofInt_add, BitVec.ofInt_neg, BitVec.ofInt_natCast, BitVec.ofInt_natCast, BitVec.ofNat_toNat,
    BitVec.ofNat_toNat, BitVec.setWidth_eq, BitVec.setWidth_eq, BitVec.sub_eq_add_neg]

theorem shlDbl_eq (x : Dbl) (y : Word) : shlDbl x y = if y.toNat < 64 then BitVec.ofNat 64 (x.toNat * 2 ^ y.toNat) else 0 := by
  unfold shlDbl
  congr 1
  apply BitVec.eq_of_toNat_eq
  rw [BitVec.toNat_shiftLeft, BitVec.toNat_ofNat, Nat.shiftLeft_eq]

theorem shrDbl_eq (x : Dbl) (y : Word) : shrDbl x y = if y.toNat < 64 then BitVec.ofNat 64 (x.toNat / 2 ^ y.toNat) else 0 := by
  unfold shrDbl
  congr 1
  apply BitVec.eq_of_toNat_eq
  rw [BitVec.toNat_ushiftRight, BitVec.toNat_ofNat, Nat.shiftRight_eq_div_pow]
  exact (Nat.mod_eq_of_lt ((Nat.div_le_self _ _).trans_lt x.isLt)).symm

/-- Settles O3: each pair form writes one pair, of the value that its rule gives. -/
theorem pairResults : Obligations.PairResults := by
  unfold Obligations.PairResults
  intro b a d hd
  exact ⟨laneResult_formWide64 hd (exec_mulD b a d), laneResult_formPPP hd (exec_addD b a d) dbl_add_eq_ofNat,
    laneResult_formPPP hd (exec_subD b a d) dbl_sub_eq_ofInt, laneResult_formPPR hd (exec_shlD b a d) shlDbl_eq,
    laneResult_formPPR hd (exec_shrD b a d) shrDbl_eq⟩

/-! ### Division (R143) -/

theorem remS_eq (x y : Word) : remS x y = if y = 0 then x else BitVec.ofInt 32 (x.toInt - x.toInt.tdiv y.toInt * y.toInt) := by
  rw [remS, wrap32, Int.tmod_def, Int.mul_comm y.toInt]

theorem remN_eq (x y : Word) : remN x y = if y = 0 then x else BitVec.ofNat 32 (x.toNat % y.toNat) := rfl

/-- Settles O4: quotients and remainders are values of functions of words; the flag is that of a zero divisor. -/
theorem divisionResults : Obligations.DivisionResults := by
  unfold Obligations.DivisionResults
  refine fun r hr => ComputesFlags.laneResult (w := fun _ y => if y = 0 then 0x20 else 0) ?_
  revert r
  simp only [List.forall_mem_cons, List.not_mem_nil, IsEmpty.forall_iff, implies_true, and_true]
  exact ⟨⟨quoS, exec_div, fun _ _ => rfl⟩, ⟨quoN, exec_divn, fun _ _ => rfl⟩, ⟨remS, exec_rem, remS_eq⟩,
    ⟨remN, exec_remn, remN_eq⟩⟩

/-- Settles O5: each compare writes whether its relation holds. -/
theorem compareResults : Obligations.CompareResults := by
  unfold Obligations.CompareResults
  refine fun r hr => Compares.laneResult ?_
  revert r
  simp only [List.forall_mem_cons, List.not_mem_nil, IsEmpty.forall_iff, implies_true, and_true]
  exact
    ⟨⟨_, exec_icmpEq, fun _ _ => beq_iff_eq⟩, ⟨_, exec_icmpNe, fun _ _ => bne_iff_ne⟩,
     ⟨_, exec_icmpLt, fun _ _ => decide_eq_true_iff⟩, ⟨_, exec_icmpLe, fun _ _ => decide_eq_true_iff⟩,
     ⟨_, exec_icmpGt, fun _ _ => decide_eq_true_iff⟩, ⟨_, exec_icmpGe, fun _ _ => decide_eq_true_iff⟩,
     ⟨_, exec_icmpLtn, fun _ _ => decide_eq_true_iff⟩, ⟨_, exec_icmpLen, fun _ _ => decide_eq_true_iff⟩,
     ⟨_, exec_icmpGtn, fun _ _ => decide_eq_true_iff⟩, ⟨_, exec_icmpGen, fun _ _ => decide_eq_true_iff⟩⟩

/-! ### Predicates (R149 to R151) -/

/-- Writing predicates one after another from a base changes the predicates alone, those of the base's range. -/
theorem foldl_wrPred_range (f : Nat → Bool) (d : Nat) (u : Thread) (n : Nat) :
    let v := (List.range n).foldl (fun u i => wrPred u (d + i) (f i)) u
    { v with preds := u.preds } = u ∧
      ∀ k < 128, rdPred v k = if d ≤ k ∧ k < d + n ∧ k ≠ 0 then f (k - d) else rdPred u k := by
  induction n with
  | zero => exact ⟨rfl, fun k _ => by rw [if_neg (by omega)]; rfl⟩
  | succ n ih =>
    obtain ⟨hrest, hread⟩ := ih
    simp only [List.range_succ, List.foldl_append, List.foldl_cons, List.foldl_nil]
    generalize (List.range n).foldl (fun u i => wrPred u (d + i) (f i)) u = v at hrest hread
    have hw := wrPred_writes v (d + n) (f n)
    refine ⟨?_, fun k hk => ?_⟩
    · have h1 := congrArg (fun t : Thread => { t with preds := u.preds }) hw.rest
      exact h1.trans hrest
    · rw [hw.reads k hk, hread k hk]
      by_cases hkn : k = d + n ∧ k ≠ 0
      · rw [if_pos hkn, if_pos (by omega), hkn.1, Nat.add_sub_cancel_left]
      · rw [if_neg hkn]
        exact if_congr (by omega) rfl rfl

theorem getLsbD_maskOf_filter (p : Nat → Bool) (i : Nat) (h : i < 32) : (maskOf (lanes32.filter p)).getLsbD i = p i := by
  rw [Bool.eq_iff_iff]
  refine (inMask_maskOf h _).trans ?_
  simp [lanes32, h]

/-- The instruction is `q[d] ← f(q[a'], q[b'])`, which is a function of two predicates that it need not name. -/
theorem laneResult_formQQQ {i : Instr} {b a d b' a' : Nat} {f f' : Bool → Bool → Bool}
    (he : ∀ s, exec i s = formQQQ s b' a' d f') (hf : ∀ t, f' (rdPred t a') (rdPred t b') = f (rdPred t a) (rdPred t b)) :
    LaneResult i .none [] fun _ _ _ u v => WritesPred u v d (f (rdPred u a) (rdPred u b)) :=
  laneResult_lanes _ he fun _ _ _ u => hf u ▸ wrPred_writes ..

/-- Settles O6: one predicate written, one register written, or 32 predicates one after another. -/
theorem predicateResults : Obligations.PredicateResults := by
  unfold Obligations.PredicateResults
  refine ⟨?_, fun a d => laneResult_lanes _ (exec_qpack a d) fun g _ _ u =>
      ⟨_, fun i hi => getLsbD_maskOf_filter _ i hi, wrReg_writes ..⟩,
    fun a d _ => laneResult_lanes _ (exec_qunpack a d) fun g _ _ u => foldl_wrPred_range _ d u 32,
    fun b a d => laneResult_lanes _ (exec_sel b a d) fun g _ _ u => ?_⟩
  · simp only [List.forall_mem_cons, List.not_mem_nil, IsEmpty.forall_iff, implies_true, and_true]
    exact
      ⟨fun b a d => laneResult_formQQQ (exec_qand b a d) fun _ => rfl, fun b a d => laneResult_formQQQ (exec_qor b a d) fun _ => rfl,
       fun b a d => laneResult_formQQQ (exec_qxor b a d) fun _ => rfl,
       fun b a d => laneResult_formQQQ (f := fun x y => x && !y) (exec_qandn b a d) fun _ => rfl,
       fun b a d => laneResult_formQQQ (b := b) (f := fun x _ => !x) (exec_qnot a d) fun _ => rfl,
       fun b a d => laneResult_formQQQ (b := b) (f := fun x _ => x) (exec_qmov a d) fun _ => rfl,
       fun b a d => laneResult_formQQQ (b := b) (a := a) (f := fun _ _ => false) (exec_qset 0 d) fun _ => rfl,
       fun b a d => laneResult_formQQQ (b := b) (a := a) (f := fun _ _ => true) (exec_qset 1 d) fun _ => rfl⟩
  · by_cases hb : rdPred u b = true
    · simpa only [hb, if_true] using wrReg_writes ..
    · simp only [hb, if_false, Bool.false_eq_true]

end Sys2Proof.Machine
end

section

/-!
# Every step keeps memory canonical, and nothing stops

Memory and its tags are written in two places of the model, `putBytes` and `putTag`; every other function reaches them
through these or leaves them alone. So each function that returns a state keeps the canonical form, by the lemmas of the
functions that it calls, in the order in which the model defines them. Where the result is an outcome the lemma says
besides that it is a next state, unless nothing issues: the same walk over the model settles that no step stops.
-/

namespace Sys2Proof.Machine

-- One proof at a time: each waiting thread would reserve a stack of its own.
set_option Elab.async false

/-- The canonical form of memory and of its tags (log entry 1). -/
def Canonical (s : State) : Prop := Memory.wf s.mem = true ∧ Memory.wf s.tags = true

/-- What the machine does in state `s` goes on to a next state, which is canonical where `s` is. -/
def GoesOn (s : State) (o : Host.Outcome State Fault Refusal) : Prop := ∃ t, o = .next t ∧ (Canonical s → Canonical t)

/-- It goes on, or nothing issues in `s`. -/
def Runs (s : State) (o : Host.Outcome State Fault Refusal) : Prop := GoesOn s o ∨ issuer s = none ∧ o = .fault .noIssuer

@[simp] theorem goes_next {s t} : GoesOn s (.next t) ↔ (Canonical s → Canonical t) := by
  simp [GoesOn]

theorem runs_of_goes {s o} (h : GoesOn s o) : Runs s o := .inl h

theorem runs_next {s t} (h : Canonical s → Canonical t) : Runs s (.next t) := .inl (goes_next.2 h)

/-- What a fold over a list applies keeps the form, so the fold does. -/
theorem canonical_foldl {α : Type} {f : State → α → State} (hf : ∀ s x, Canonical s → Canonical (f s x)) (l : List α)
    {s} (h : Canonical s) : Canonical (l.foldl f s) := by
  induction l generalizing s with
  | nil => exact h
  | cons x xs ih => exact ih (hf s x h)

/-- The same, of a fold that carries a value beside the state. -/
theorem canonical_foldl_fst {α β : Type} {f : State × β → α → State × β}
    (hf : ∀ p x, Canonical p.1 → Canonical (f p x).1) (l : List α) {p} (h : Canonical p.1) : Canonical (l.foldl f p).1 := by
  induction l generalizing p with
  | nil => exact h
  | cons x xs ih => exact ih (hf p x h)

/-- What runs in a state with the same issuer runs. -/
theorem runs_of_runs {s u o} (hi : issuer u = issuer s) (hc : Canonical s → Canonical u) (h : Runs u o) : Runs s o := by
  obtain ⟨t, ht, hct⟩ | ⟨hn, ho⟩ := h
  · exact .inl ⟨t, ht, fun hs => hct (hc hs)⟩
  · exact .inr ⟨hi ▸ hn, ho⟩

theorem runs_issue {s cls k} (hk : Canonical s → ∀ g c, Canonical (k g c)) : Runs s (issue s cls k) := by
  unfold issue
  cases hi : issuer s with
  | none => exact .inr ⟨hi, rfl⟩
  | some p =>
    obtain ⟨g, c⟩ := p
    dsimp only
    split
    · exact runs_next fun h => h
    · exact runs_next fun h => hk h g c

theorem canonical_freeNat {s} (h : Canonical s) : Canonical (freeNat s).2 := h

theorem canonical_lackingSlot {s} (h : Canonical s) : Canonical (lackingSlot s).2 := h

theorem canonical_pick {s} (h : Canonical s) (n) : Canonical (pick s n).2 := by
  grind [pick, Canonical]

theorem canonical_modLaunch {s} (h : Canonical s) (id f) : Canonical (modLaunch s id f) := h

theorem canonical_wakeMwait {s} (h : Canonical s) (l n) : Canonical (wakeMwait s l n) := h

theorem canonical_modBlock {s} (h : Canonical s) (id f) : Canonical (modBlock s id f) := h

theorem canonical_modGang {s} (h : Canonical s) (id f) : Canonical (modGang s id f) := h

theorem canonical_setSpace {s} (h : Canonical s) (p x) : Canonical (setSpace s p x) := by
  unfold setSpace
  grind [Canonical, canonical_modBlock, canonical_modGang]

theorem canonical_putBytes {s} (h : Canonical s) (l bs) : Canonical (putBytes s l bs) := putBytes_wf s l bs h.1 h.2

theorem canonical_writeBytes {s} (h : Canonical s) (l bs) : Canonical (writeBytes s l bs) := by
  grind [writeBytes, canonical_wakeMwait, canonical_putBytes]

theorem canonical_writeNat {s} (h : Canonical s) (l n x) : Canonical (writeNat s l n x) := by
  grind [writeNat, canonical_writeBytes]

theorem canonical_pickFrom {α : Type} {s} (h : Canonical s) (l : List α) : Canonical (pickFrom s l).2 := canonical_pick h _

theorem canonical_settleDirty {s} (h : Canonical s) (e) : Canonical (settleDirty s e) := by
  grind [settleDirty, canonical_writeNat]

theorem canonical_evictEntry {s} (h : Canonical s) (e) : Canonical (evictEntry s e) := by
  grind [evictEntry, Canonical, canonical_settleDirty]

theorem canonical_putEntry {s} (h : Canonical s) (e b) : Canonical (putEntry e s b) := by
  grind [putEntry, Canonical, canonical_pickFrom, canonical_evictEntry]

theorem canonical_fillTlb {s} (h : Canonical s) (q ctx va at_ size entry) :
    Canonical (fillTlb s q ctx va at_ size entry) := by
  grind [fillTlb, canonical_foldl, canonical_writeNat, canonical_putEntry]

theorem canonical_translateNew {s} (h : Canonical s) (q ctx va) : Canonical (translateNew s q ctx va).1 := by
  grind [translateNew, canonical_fillTlb]

theorem canonical_useEntry {s} (h : Canonical s) (q va e) : Canonical (useEntry s q va e).1 := by
  grind [useEntry, canonical_foldl, canonical_putEntry]

theorem canonical_translate {s} (h : Canonical s) (q ctx va) : Canonical (translate s q ctx va).1 := by
  grind [translate, canonical_translateNew, canonical_useEntry, canonical_pick]

theorem canonical_deviceXlat {s} (h : Canonical s) (d ctx va w) : Canonical (deviceXlat s d ctx va w).1 := by
  grind [deviceXlat, canonical_translate]

theorem canonical_markDirty {s} (h : Canonical s) (q ctx va pa) : Canonical (markDirty s q ctx va pa) := by
  grind [markDirty, Canonical, canonical_writeNat]

theorem canonical_globalWrite {s} (h : Canonical s) (q ctx va pa bs) : Canonical (globalWrite s q ctx va pa bs) := by
  grind [globalWrite, canonical_markDirty, canonical_writeBytes]

theorem canonical_deviceWriteLoop {s} (h : Canonical s) (d ctx n va bs) : Canonical (deviceWriteLoop d ctx n va bs s).1 := by
  induction n generalizing s va bs with
  | zero => exact h
  | succ n ih =>
    have hx := canonical_deviceXlat h d ctx va true
    unfold deviceWriteLoop
    split
    · exact h
    · split <;> rename_i he
      · rwa [he] at hx
      · rw [he] at hx
        exact ih (canonical_globalWrite hx _ _ _ _ _) _ _

theorem canonical_deviceWrite {s} (h : Canonical s) (d ctx va bs) : Canonical (deviceWrite s d ctx va bs).1 := by
  grind [deviceWrite, canonical_deviceWriteLoop]

theorem canonical_modDie {s} (h : Canonical s) (d f) : Canonical (modDie s d f) := h

theorem canonical_modMgmt {s} (h : Canonical s) (d f) : Canonical (modMgmt s d f) := h

theorem canonical_drainEvent {s} (h : Canonical s) (d) : Canonical (drainEvent s d) := by
  grind [drainEvent, canonical_modDie, canonical_modMgmt, canonical_writeBytes]

theorem canonical_drainEventsLoop {s} (h : Canonical s) (d n) : Canonical (drainEventsLoop d n s) := by
  induction n generalizing s with
  | zero => exact h
  | succ n ih => exact ih (canonical_drainEvent h d)

theorem canonical_drainEvents {s} (h : Canonical s) (d) : Canonical (drainEvents s d) := by
  grind [drainEvents, canonical_drainEventsLoop]

theorem canonical_postEvent {s} (h : Canonical s) (d type ctx launch payload) :
    Canonical (postEvent s d type ctx launch payload) := by
  grind [postEvent, canonical_drainEvents, canonical_modDie, canonical_modMgmt]

theorem canonical_errorResponse {s} (h : Canonical s) (d ctx pa ea launch source) :
    Canonical (errorResponse s d ctx pa ea launch source) := by
  grind [errorResponse, canonical_postEvent]

theorem canonical_traceWrite {s} (h : Canonical s) (L d off bs) : Canonical (traceWrite s L d off bs) := by
  grind [traceWrite, canonical_deviceWrite, canonical_errorResponse]

theorem canonical_closeFrame {s} (h : Canonical s) (L core) : Canonical (closeFrame s L core) := by
  grind [closeFrame, canonical_modLaunch, canonical_traceWrite]

theorem canonical_openFrame {s} (h : Canonical s) (L core) : Canonical (openFrame s L core).1 := by
  grind [openFrame, canonical_modLaunch, canonical_traceWrite]

theorem canonical_appendRecord {s} (h : Canonical s) (L0 core type gang payload) :
    Canonical (appendRecord s L0 core type gang payload) := by
  grind [appendRecord, canonical_closeFrame, canonical_openFrame, canonical_modLaunch, canonical_traceWrite]

theorem canonical_traceOn {s} (h : Canonical s) (launch core type gang payload) :
    Canonical (traceOn s launch core type gang payload) := by
  grind [traceOn, canonical_pick, canonical_appendRecord, canonical_modLaunch]

theorem canonical_traceGang {s} (h : Canonical s) (g type payload) : Canonical (traceGang s g type payload) := by
  grind [traceGang, canonical_traceOn]

theorem canonical_traceTag {s} (h : Canonical s) (g f) : Canonical (traceTag s g f) := by
  grind [traceTag, canonical_traceGang]

theorem canonical_setGang {s} (h : Canonical s) (g) : Canonical (setGang s g) := h

theorem canonical_beginEnd {s} (h : Canonical s) (id status cause pc loc) :
    Canonical (beginEnd s id status cause pc loc) := h

theorem canonical_escalate {s} (h : Canonical s) (g f) : Canonical (escalate s g f) := h

theorem canonical_takeTrap {s} (h : Canonical s) (g f b) : Canonical (takeTrap s g f b) := by
  grind [takeTrap, Canonical, canonical_traceTag, canonical_traceGang, canonical_setGang, canonical_escalate]

theorem canonical_faultAt {s} (h : Canonical s) (g c cause loc lanes done) :
    Canonical (faultAt s g c cause loc lanes done) := by
  grind [faultAt, canonical_takeTrap]

theorem canonical_writePlace {s} (h : Canonical s) (g f bs) : Canonical (writePlace s g f bs) := by
  grind [writePlace, canonical_writeBytes, canonical_markDirty, canonical_writeNat]

theorem canonical_performFlight {s} (h : Canonical s) (g earlier f) : Canonical (performFlight s g earlier f).1 := by
  grind [performFlight, canonical_modGang, canonical_writePlace]

theorem canonical_drainLoop {s} (h : Canonical s) (id n) : Canonical (drainLoop id n s) := by
  induction n generalizing s with
  | zero => exact h
  | succ n ih => grind [drainLoop, canonical_performFlight, canonical_modGang]

theorem canonical_drainGang {s} (h : Canonical s) (id) : Canonical (drainGang s id) := by
  grind [drainGang, canonical_drainLoop]

theorem canonical_releaseWpts {s} (h : Canonical s) (gang lanes) : Canonical (releaseWpts s gang lanes) := h

theorem canonical_modCopy {s} (h : Canonical s) (id f) : Canonical (modCopy s id f) := h

theorem canonical_takeOut {s} (h : Canonical s) (c) : Canonical (takeOut s c).1 := by
  grind [takeOut, canonical_modCopy]

theorem canonical_takeRest {s} (h : Canonical s) (id n) : Canonical (takeRest id n s) := by
  induction n generalizing s with
  | zero => exact h
  | succ n ih => grind [takeRest, canonical_takeOut, canonical_modCopy]

theorem canonical_takePrivate {s} (h : Canonical s) (gang) : Canonical (takePrivate s gang) := by
  grind [takePrivate, canonical_foldl, canonical_takeRest]

theorem canonical_setCore {s} (h : Canonical s) (c x) : Canonical (setCore s c x) := h

theorem canonical_modCore {s} (h : Canonical s) (c f) : Canonical (modCore s c f) := h

theorem canonical_modRing {s} (h : Canonical s) (core r f) : Canonical (modRing s core r f) := by
  grind [modRing, canonical_modCore]

theorem canonical_modBlockRing {s} (h : Canonical s) (b r f) : Canonical (modBlockRing s b r f) := by
  grind [modBlockRing, canonical_modRing, canonical_modBlock]

theorem canonical_joinFlags {s} (h : Canonical s) (c) : Canonical (joinFlags s c) := h

theorem canonical_logRefused {s} (h : Canonical s) (d ctx ea n w launch) :
    Canonical (logRefused s d ctx ea n w launch) := by
  grind [logRefused, canonical_errorResponse]

theorem canonical_postRequest {s} (h : Canonical s) (id i e) : Canonical (postRequest s id i e) := by
  grind [postRequest, canonical_modDie, canonical_modLaunch, canonical_postEvent]

theorem canonical_needArea {s} (h : Canonical s) (id i d ea n w) : Canonical (needArea s id i d ea n w) := by
  grind [needArea, canonical_logRefused, canonical_postRequest]

theorem canonical_storeTask {s} (h : Canonical s) (t) : Canonical (storeTask s t) := by
  grind [storeTask, canonical_deviceWrite, canonical_modLaunch, canonical_needArea]

theorem canonical_modTask {s} (h : Canonical s) (x1 f) : Canonical (modTask s x1 f) := h

theorem canonical_changeTask {s} (h : Canonical s) (x1 f) : Canonical (changeTask s x1 f) := by
  grind [changeTask, canonical_storeTask, canonical_modTask]

theorem canonical_freeTask {s} (h : Canonical s) (x1) : Canonical (freeTask s x1) := by
  grind [freeTask, canonical_changeTask]

theorem canonical_settleTask {s} (h : Canonical s) (x1) : Canonical (settleTask s x1) := by
  grind [settleTask, canonical_freeTask]

theorem canonical_removeCopy {s} (h : Canonical s) (c) : Canonical (removeCopy s c) := by
  grind [removeCopy, Canonical, canonical_joinFlags, canonical_settleTask]

theorem canonical_abandonCopy {s} (h : Canonical s) (c) : Canonical (abandonCopy s c) := by
  grind [abandonCopy, canonical_foldl, canonical_modBlockRing, canonical_removeCopy]

theorem canonical_channelOf {s} (h : Canonical s) (c) : Canonical (channelOf s c).2 := by
  grind [channelOf, canonical_freeNat]

theorem canonical_postAbandoned {s} (h : Canonical s) (c cause loc) : Canonical (postAbandoned s c cause loc) := by
  grind [postAbandoned, canonical_channelOf, canonical_postEvent]

theorem canonical_orphanCopies {s} (h : Canonical s) (gang lanes) : Canonical (orphanCopies s gang lanes) := by
  grind [orphanCopies, canonical_foldl, canonical_abandonCopy, canonical_postAbandoned, canonical_modCopy]

theorem canonical_keepCounts {s} (h : Canonical s) (g) : Canonical (keepCounts s g) := by
  grind [keepCounts, canonical_modLaunch]

theorem canonical_dirtyAt {s} (h : Canonical s) (g ea pa) : Canonical (dirtyAt s g ea pa) := by
  grind [dirtyAt, canonical_markDirty]

theorem canonical_putTag {s} (h : Canonical s) (l v) : Canonical (putTag s l v) := writeTag_wf s l v h.1 h.2

theorem canonical_setCell {s} (h : Canonical s) (pa v st) : Canonical (setCell s pa v st) := by
  grind [setCell, canonical_putTag, canonical_writeNat]

theorem canonical_dropWaiter {s} (h : Canonical s) (g d i) : Canonical (dropWaiter g d s i) := by
  grind [dropWaiter, canonical_modDie, canonical_dirtyAt, canonical_setCell]

theorem canonical_retryWaiters {s} (h : Canonical s) : Canonical (retryWaiters s) := h

theorem canonical_dropWaiters {s} (h : Canonical s) (g) : Canonical (dropWaiters s g) := by
  grind [dropWaiters, canonical_foldl, canonical_dropWaiter, canonical_retryWaiters]

theorem canonical_takeSlot {s} (h : Canonical s) (core) : Canonical (takeSlot s core).1 := by
  grind [takeSlot, canonical_pickFrom]

theorem canonical_newId {s} (h : Canonical s) : Canonical (newId s).2 := h

theorem canonical_giveSlot {s} (h : Canonical s) (id core) : Canonical (giveSlot s id core) := by
  grind [giveSlot, canonical_takeSlot, canonical_newId, canonical_modGang]

theorem canonical_landingMove {s} (h : Canonical s) (core) : Canonical (landingMove s core) := by
  grind [landingMove, canonical_giveSlot]

theorem canonical_steady {s} (h : Canonical s) (late c) : Canonical (steady late s c) := h

theorem canonical_modLog {s} (h : Canonical s) (id f) : Canonical (modLog s id f) := h

theorem canonical_closeChunk {s} (h : Canonical s) (L c) : Canonical (closeChunk s L c) := by
  grind [closeChunk, canonical_modLog, canonical_deviceWrite, canonical_errorResponse]

theorem canonical_recordSync {s} (h : Canonical s) (g op fn) : Canonical (recordSync s g op fn) := by
  grind [recordSync, canonical_modLog, canonical_closeChunk]

theorem canonical_needLog {s} (h : Canonical s) (g) : Canonical (needLog s g) := by
  grind [needLog, canonical_needArea]

theorem canonical_diverge {s} (h : Canonical s) (launch core who kind gid ret hash sync unit) :
    Canonical (diverge s launch core who kind gid ret hash sync unit) := by
  grind [diverge, canonical_traceOn, canonical_modLog, canonical_postEvent]

theorem canonical_gangDiverges {s} (h : Canonical s) (g kind unit) : Canonical (gangDiverges s g kind unit) := by
  grind [gangDiverges, canonical_diverge]

theorem canonical_postGangEvent {s} (h : Canonical s) (g type pc extra) :
    Canonical (postGangEvent s g type pc extra) := by
  grind [postGangEvent, canonical_postEvent]

theorem canonical_divergeStop {s} (h : Canonical s) (g kind unit pc) : Canonical (divergeStop s g kind unit pc) := by
  grind [divergeStop, canonical_gangDiverges, canonical_modGang, canonical_postGangEvent]

theorem canonical_syncPoint {s} (h : Canonical s) (id op fn pc) : Canonical (syncPoint s id op fn pc) := by
  grind [syncPoint, canonical_modGang, canonical_recordSync, canonical_needLog, canonical_divergeStop]

theorem canonical_noteSync {s} (h : Canonical s) (id c) : Canonical (noteSync s id c) := by
  grind [noteSync, canonical_syncPoint]

theorem canonical_syncBarrier {s} (h : Canonical s) (id) : Canonical (syncBarrier s id) := by
  grind [syncBarrier, canonical_noteSync, canonical_setGang]

theorem canonical_completeGen {s} (h : Canonical s) (clu ids) : Canonical (completeGen clu ids s) := by
  grind [completeGen, Canonical, canonical_foldl, canonical_syncBarrier]

theorem canonical_checkBlk {s} (h : Canonical s) (b) : Canonical (checkBlk s b) := by
  grind [checkBlk, canonical_modBlock, canonical_steady, canonical_completeGen]

theorem canonical_modCluster {s} (h : Canonical s) (id f) : Canonical (modCluster s id f) := h

theorem canonical_noteArrival {s} (h : Canonical s) (cl b core) : Canonical (noteArrival s cl b core) := by
  grind [noteArrival, canonical_modCluster]

theorem canonical_budget {s} (h : Canonical s) (k) : Canonical (budget s k) := by
  grind [budget, canonical_foldl, canonical_steady, canonical_modCore, canonical_modCluster]

theorem canonical_checkClu {s} (h : Canonical s) (cl) : Canonical (checkClu s cl) := by
  grind [checkClu, Canonical, canonical_completeGen, canonical_budget]

theorem canonical_keepTables {s} (h : Canonical s) (core) : Canonical (keepTables s core) := h

theorem canonical_checkClaim {s} (h : Canonical s) (b) : Canonical (checkClaim s b) := by
  grind [checkClaim, canonical_modCore, canonical_modBlock, canonical_keepTables]

theorem canonical_sweepClusters {s} (h : Canonical s) : Canonical (sweepClusters s) := by
  grind [sweepClusters, Canonical, canonical_foldl, canonical_checkClaim]

theorem canonical_leaveBlock {s} (h : Canonical s) (g) : Canonical (leaveBlock s g) := by
  grind [leaveBlock, canonical_modBlock, canonical_checkBlk, canonical_noteArrival, canonical_checkClu,
    canonical_sweepClusters, canonical_modLaunch]

theorem canonical_removeGang {s} (h : Canonical s) (id) : Canonical (removeGang s id) := by
  grind [removeGang, Canonical, canonical_drainGang, canonical_releaseWpts, canonical_takePrivate,
    canonical_orphanCopies, canonical_keepCounts, canonical_dropWaiters, canonical_landingMove, canonical_leaveBlock]

theorem canonical_deviceReadLoop {s} (h : Canonical s) (d ctx n va m) : Canonical (deviceReadLoop d ctx n va m s).1 := by
  induction n generalizing s va m with
  | zero => exact h
  | succ n ih => grind [deviceReadLoop, canonical_deviceXlat]

theorem canonical_deviceRead {s} (h : Canonical s) (d ctx va n) : Canonical (deviceRead s d ctx va n).1 := by
  grind [deviceRead, canonical_deviceReadLoop]

theorem canonical_heldEntry {s} (h : Canonical s) (t i) : Canonical (heldEntry s t i).1 := by
  grind [heldEntry, canonical_deviceRead, canonical_logRefused]

theorem canonical_cellPlace {s} (h : Canonical s) (die ctx ea) : Canonical (cellPlace s die ctx ea).1 := by
  grind [cellPlace, canonical_translate]

theorem canonical_ownCell {s} (h : Canonical s) (t) : Canonical (ownCell s t).1 := by
  grind [ownCell, canonical_cellPlace]

theorem canonical_dirtyOwn {s} (h : Canonical s) (t pa) : Canonical (dirtyOwn s t pa) := by
  grind [dirtyOwn, canonical_markDirty]

theorem canonical_atOwnCell {s} (h : Canonical s) (t) {f} (hf : ∀ u pa, Canonical u → Canonical (f u pa)) :
    Canonical (atOwnCell s t f) := by
  unfold atOwnCell
  grind [canonical_ownCell, canonical_dirtyOwn]

theorem canonical_joinFalls {s} (h : Canonical s) (parent) : Canonical (joinFalls s parent) := by
  grind [joinFalls, canonical_changeTask]

theorem canonical_endsForParent {s} (h : Canonical s) (t) : Canonical (endsForParent s t) := by
  grind [endsForParent, canonical_joinFalls, canonical_changeTask]

theorem canonical_reclaimTask {s} (h : Canonical s) (x1) : Canonical (reclaimTask s x1) := by
  grind [reclaimTask, canonical_freeTask, canonical_endsForParent, canonical_changeTask, canonical_modGang]

theorem canonical_wakeCells {s} (h : Canonical s) (id) : Canonical (wakeCells s id) := h

theorem canonical_wakeQueue {s} (h : Canonical s) (d n i) : Canonical (wakeQueue d n i s) := by
  induction n generalizing s i with
  | zero => exact h
  | succ n ih => grind [wakeQueue, canonical_wakeCells, canonical_modDie]

theorem canonical_wakeWaiters {s} (h : Canonical s) (pa) : Canonical (wakeWaiters s pa) := by
  grind [wakeWaiters, canonical_wakeQueue, canonical_retryWaiters]

theorem canonical_writeTag {s} (h : Canonical s) (l v) : Canonical (writeTag s l v) := by
  grind [writeTag, canonical_wakeMwait, canonical_putTag]

theorem canonical_poisonCell {s} (h : Canonical s) (pa) : Canonical (poisonCell s pa) := by
  grind [poisonCell, canonical_setCell, canonical_wakeWaiters, canonical_writeTag]

theorem canonical_reclaimCell {s} (h : Canonical s) (pa) : Canonical (reclaimCell s pa) := by
  grind [reclaimCell, canonical_reclaimTask, canonical_poisonCell]

theorem canonical_dropHeld {s} (h : Canonical s) (x1) : Canonical (dropHeld s x1) := by
  grind [dropHeld, canonical_atOwnCell, canonical_reclaimCell, canonical_setCell]

theorem canonical_dropAllHeld {s} (h : Canonical s) (t n i) : Canonical (dropAllHeld t n i s) := by
  induction n generalizing s i with
  | zero => exact h
  | succ n ih => exact ih (canonical_dropHeld (canonical_heldEntry h t i) _) _

theorem canonical_stopGang {s} (h : Canonical s) (g) : Canonical (stopGang s g) := by
  grind [stopGang, Canonical, canonical_drainGang, canonical_removeGang, canonical_modCluster, canonical_changeTask,
    canonical_dropAllHeld, canonical_endsForParent, canonical_settleTask]

theorem canonical_issued {s} (h : Canonical s) (g) : Canonical (issued s g) := h

theorem canonical_endClause {s} (h : Canonical s) (g c es stops) : Canonical (endClause s g c es stops) := by
  grind [endClause, canonical_lackingSlot, canonical_faultAt, canonical_stopGang, canonical_issued]

theorem runs_execBra (s p o) : Runs s (execBra p o s) := by
  grind [execBra, runs_next, runs_issue, canonical_endClause]

theorem runs_execCall (s p o) : Runs s (execCall p o s) := by
  grind [execCall, runs_next, runs_issue, canonical_faultAt, canonical_endClause]

theorem canonical_sweepTask {s} (h : Canonical s) (t) : Canonical (sweepTask s t) := by
  grind [sweepTask, canonical_atOwnCell, canonical_poisonCell, canonical_reclaimTask]

theorem canonical_dropFlag {s} (h : Canonical s) (c) : Canonical (dropFlag s c) := by
  grind [dropFlag, canonical_modGang]

theorem canonical_sweepLaunch {s} (h : Canonical s) (id) : Canonical (sweepLaunch s id) := by
  grind [sweepLaunch, Canonical, canonical_foldl, canonical_sweepTask, canonical_dropFlag, canonical_sweepClusters]

theorem canonical_endLaunch {s} (h : Canonical s) (id status cause pc loc) :
    Canonical (endLaunch s id status cause pc loc) := by
  grind [endLaunch, canonical_sweepLaunch, canonical_beginEnd]

theorem canonical_taskFaultEnd {s} (h : Canonical s) (g f) : Canonical (taskFaultEnd s g f) := by
  grind [taskFaultEnd, canonical_drainGang, canonical_removeGang, canonical_atOwnCell, canonical_poisonCell,
    canonical_dropAllHeld, canonical_endsForParent, canonical_postGangEvent, canonical_settleTask,
    canonical_changeTask]

theorem canonical_fatal {s} (h : Canonical s) (g f) : Canonical (fatal s g f) := by
  grind [fatal, Canonical, canonical_endLaunch, canonical_setGang, canonical_taskFaultEnd]

theorem canonical_raise {s} (h : Canonical s) (g f b) : Canonical (raise s g f b) := by
  grind [raise, canonical_fatal, canonical_takeTrap]

theorem canonical_failAt {s} (h : Canonical s) (g c cls cause loc lanes done colour) :
    Canonical (failAt s g c cls cause loc lanes done colour) := by
  grind [failAt, canonical_raise]

theorem canonical_transferEach {s} (h : Canonical s) (g c tgt stops) : Canonical (transferEach s g c tgt stops) := by
  grind [transferEach, canonical_failAt, canonical_endClause]

theorem runs_execJmpi (s p a) : Runs s (execJmpi p a s) := by
  grind [execJmpi, runs_next, runs_issue, canonical_faultAt, canonical_transferEach]

theorem canonical_finish {s} (h : Canonical s) (g c cls) : Canonical (finish s g c cls) := h

theorem runs_execWait (s f) : Runs s (execWait f s) := by
  grind [execWait, runs_next, runs_issue, canonical_finish, canonical_issued]

theorem runs_setWbase (s new) : Runs s (setWbase s new) := by
  grind [setWbase, runs_next, runs_issue, canonical_finish, canonical_failAt]

theorem runs_execTrap (s k) : Runs s (execTrap k s) := by
  grind [execTrap, runs_next, runs_issue, canonical_takeTrap]

theorem canonical_parkTask {s} (h : Canonical s) (x1) : Canonical (parkTask s x1) := by
  grind [parkTask, canonical_changeTask]

theorem runs_execBrk (s k) : Runs s (execBrk k s) := by
  grind [execBrk, Canonical, runs_next, runs_issue, canonical_stopGang, canonical_postGangEvent, canonical_issued,
    canonical_parkTask, canonical_traceGang, canonical_finish]

theorem runs_issueGang (s cls os f) : Runs s (issueGang s cls os f) := by
  grind [issueGang, runs_next, runs_issue, canonical_faultAt, canonical_issued]

theorem runs_issueLanes (s cls os f) : Runs s (issueLanes s cls os f) := by
  grind [issueLanes, runs_next, runs_issueGang]

theorem runs_formRRR (s cls b a d f) : Runs s (formRRR s cls b a d f) := by
  grind [formRRR, runs_next, runs_issueLanes]

theorem runs_formRR (s cls a d f) : Runs s (formRR s cls a d f) := by
  grind [formRR, runs_next, runs_issueLanes]

theorem runs_formAcc (s cls b a d f) : Runs s (formAcc s cls b a d f) := by
  grind [formAcc, runs_next, runs_issueLanes]

theorem runs_formWide64 (s b a d f) : Runs s (formWide64 s b a d f) := by
  grind [formWide64, runs_next, runs_issueLanes]

theorem runs_formFlags (s cls b a d f) : Runs s (formFlags s cls b a d f) := by
  grind [formFlags, runs_next, runs_issueLanes]

theorem runs_formPPP (s b a d f) : Runs s (formPPP s b a d f) := by
  grind [formPPP, runs_next, runs_issueLanes]

theorem runs_formPPR (s b a d f) : Runs s (formPPR s b a d f) := by
  grind [formPPR, runs_next, runs_issueLanes]

theorem runs_formR (s d f) : Runs s (formR s d f) := by
  grind [formR, runs_next, runs_issueLanes]

theorem runs_formCmp (s b a d f) : Runs s (formCmp s b a d f) := by
  grind [formCmp, runs_next, runs_issueLanes]

theorem runs_formQQQ (s b a d f) : Runs s (formQQQ s b a d f) := by
  grind [formQQQ, runs_next, runs_issueLanes]

theorem runs_shuffle (s b a d f) : Runs s (shuffle b a d f s) := by
  grind [shuffle, runs_next, runs_issueGang]

theorem runs_reduce (s a d f) : Runs s (reduce a d f s) := by
  grind [reduce, runs_next, runs_issueGang]

theorem runs_formAccFlags (s cls b a d f) : Runs s (formAccFlags s cls b a d f) := by
  grind [formAccFlags, runs_next, runs_issueLanes]

theorem runs_formRRFlags (s cls a d f) : Runs s (formRRFlags s cls a d f) := by
  grind [formRRFlags, runs_next, runs_issueLanes]

theorem runs_formCmpFlags (s b a d f) : Runs s (formCmpFlags s b a d f) := by
  grind [formCmpFlags, runs_next, runs_issueLanes]

theorem runs_execCvt (s f r s_ a d) : Runs s (execCvt f r s_ a d s) := by
  unfold execCvt
  grind [Canonical, runs_next, runs_issueLanes, runs_formRRFlags]

theorem runs_issueAccess (s op check) : Runs s (issueAccess s op check) := by
  grind [issueAccess, runs_next, runs_issue, canonical_failAt, canonical_issued]

theorem runs_issueLoad (s size off signed a d) : Runs s (issueLoad size off signed a d s) := by
  grind [issueLoad, runs_next, runs_issueAccess]

theorem runs_issueStore (s size off a d) : Runs s (issueStore size off a d s) := by
  grind [issueStore, runs_next, runs_issueAccess]

theorem runs_issueFence (s) : Runs s (issueFence s) := runs_issue fun h _ _ => h

theorem runs_issueAtom (s fn ret b a d) : Runs s (issueAtom fn ret b a d s) := by
  grind [issueAtom, runs_next, runs_issueAccess]

theorem canonical_traceHits {s} (h : Canonical s) (g hs) : Canonical (traceHits s g hs) := by
  grind [traceHits, canonical_foldl, canonical_traceGang]

theorem canonical_takeStop {s} (h : Canonical s) (g c kind cause loc lanes done region idx) :
    Canonical (takeStop s g c kind cause loc lanes done region idx) := by
  grind [takeStop, Canonical, canonical_takeTrap, canonical_setGang, canonical_postGangEvent, canonical_parkTask,
    canonical_traceGang]

theorem canonical_complete {s} (h : Canonical s) (g c cls) : Canonical (complete s g c cls) := by
  grind [complete, canonical_noteSync, canonical_issued, canonical_traceHits, canonical_setGang, canonical_takeStop]

theorem canonical_seqDone {s} (h : Canonical s) (g c cls stop) : Canonical (seqDone s g c cls stop) := by
  unfold seqDone
  grind [Canonical, canonical_complete, canonical_divergeStop]

theorem canonical_haltLater {s} (h : Canonical s) (stop id pc) : Canonical (haltLater stop id pc s) := by
  unfold haltLater
  grind [Canonical, canonical_modGang]

theorem canonical_waitUnit {s} (h : Canonical s) (g c cls lanes gate) :
    Canonical (waitUnit s g c cls lanes gate) := h

theorem canonical_addHits {s} (h : Canonical s) (id hs) : Canonical (addHits s id hs) := h

theorem canonical_failKeeping {s} (h : Canonical s) (g c cls fs done) :
    Canonical (failKeeping s g c cls fs done) := by
  grind [failKeeping, canonical_failAt, canonical_traceHits]

theorem canonical_blockAt {s} (h : Canonical s) (g c cls lanes stall cond) :
    Canonical (blockAt s g c cls lanes stall cond) := by
  grind [blockAt, Canonical, canonical_parkTask, canonical_setGang]

theorem canonical_seqLanes {s} (h : Canonical s) {step : State → Gang → Nat → State × SeqEnd}
    (hstep : ∀ u g l, Canonical u → Canonical (step u g l).1) (id cls ls done stop) :
    Canonical (seqLanes step id cls ls done stop s) := by
  induction ls generalizing s done stop with
  | nil => grind [seqLanes, canonical_seqDone]
  | cons l ls ih =>
    have hnext := fun g => hstep s g l h
    unfold seqLanes
    grind [canonical_haltLater, canonical_waitUnit, canonical_addHits, canonical_failKeeping, canonical_blockAt,
      canonical_needLog]

theorem canonical_putLane {s} (h : Canonical s) (id lane f) : Canonical (putLane s id lane f) := h

theorem canonical_numberCopy {s} (h : Canonical s) (g lane c) : Canonical (numberCopy s g lane c).1 := by
  grind [numberCopy, canonical_putLane, canonical_modCore]

theorem canonical_writeBar {s} (h : Canonical s) (l o) : Canonical (writeBar s l o) := by
  grind [writeBar, Canonical, canonical_writeBytes]

theorem canonical_barAdd {s} (h : Canonical s) (l v) : Canonical (barAdd s l v) := by
  grind [barAdd, canonical_writeBar]

theorem canonical_postAll {s} (h : Canonical s) (c n) : Canonical (postAll s c n) := by
  grind [postAll, canonical_foldl, canonical_barAdd]

theorem canonical_addCopy {s} (h : Canonical s) (g lane c) : Canonical (addCopy s g lane c) := by
  grind [addCopy, Canonical, canonical_newId, canonical_numberCopy, canonical_postAll, canonical_putLane]

theorem canonical_copyAt {s} (h : Canonical s) (g lane c) : Canonical (copyAt s g lane c).1 := by
  grind [copyAt, canonical_addCopy, canonical_modGang]

theorem canonical_globalAccess {s} (h : Canonical s) (q L ea n need source) :
    Canonical (globalAccess s q L ea n need source).1 := by
  grind [globalAccess, canonical_translate, canonical_errorResponse]

theorem canonical_arrive {s} (h : Canonical s) (g lane ea n need) : Canonical (arrive s g lane ea n need).1 := by
  grind [arrive, canonical_globalAccess]

theorem canonical_readMap {s} (h : Canonical s) (g lane ma) : Canonical (readMap s g lane ma).1 := by
  grind [readMap, canonical_arrive]

theorem canonical_copyLane {s} (h : Canonical s) (kind b a ch g lane) :
    Canonical (copyLane kind b a ch s g lane).1 := by
  unfold copyLane
  grind [Canonical, canonical_copyAt, canonical_readMap]

theorem runs_issueCopy (s kind b a ch) : Runs s (issueCopy kind b a ch s) := by
  grind [issueCopy, runs_next, runs_issue, canonical_failAt, canonical_seqLanes, canonical_copyLane]

theorem runs_issueSeq {s cls} {step : State → Gang → Nat → State × SeqEnd}
    (hstep : ∀ u g l, Canonical u → Canonical (step u g l).1) : Runs s (issueSeq s cls step) :=
  runs_issue fun h _ _ => canonical_seqLanes h hstep _ _ _ _ _

theorem canonical_lineAccess {s} (h : Canonical s) (c i) : Canonical (lineAccess s c i).1 := by
  grind [lineAccess, canonical_globalAccess]

theorem canonical_advanceCopy {s} (h : Canonical s) (c) : Canonical (advanceCopy s c) := by
  grind [advanceCopy, canonical_removeCopy, canonical_modCopy]

theorem canonical_barLower {s} (h : Canonical s) (l n) : Canonical (barLower s l n) := by
  grind [barLower, canonical_barAdd]

theorem canonical_lowerAt {s} (h : Canonical s) (c n r) : Canonical (lowerAt c n s r) := by
  grind [lowerAt, canonical_barLower]

theorem canonical_lowerAll {s} (h : Canonical s) (c n) : Canonical (lowerAll s c n) := by
  grind [lowerAll, canonical_foldl, canonical_lowerAt]

theorem canonical_countLine {s} (h : Canonical s) (c i) : Canonical (countLine s c i) := by
  grind [countLine, canonical_advanceCopy, canonical_lowerAll]

theorem canonical_countPresent {s} (h : Canonical s) (id ls) : Canonical (countPresent id ls s) := by
  induction ls generalizing s with
  | nil => exact h
  | cons i is ih => grind [countPresent, canonical_lineAccess, canonical_countLine]

theorem canonical_sweepPresent {s} (h : Canonical s) (id) : Canonical (sweepPresent s id) := by
  grind [sweepPresent, canonical_countPresent]

theorem canonical_prefetchLane {s} (h : Canonical s) (b a d g lane) : Canonical (prefetchLane b a d s g lane).1 := by
  grind [prefetchLane, canonical_addCopy, canonical_sweepPresent]

theorem runs_execCpyPf (s b a d) : Runs s (execCpyPf b a d s) := by
  grind [execCpyPf, runs_next, runs_issueSeq, canonical_prefetchLane]

theorem runs_execCpySeal (s d) : Runs s (execCpySeal d s) := by
  grind [execCpySeal, runs_next, runs_issue, canonical_failAt, canonical_blockAt, canonical_finish]

theorem runs_unlessStopping {s run} (hr : Runs s run) : Runs s (unlessStopping s run) := by
  unfold unlessStopping
  split
  · split
    · refine runs_next fun h => canonical_stopGang ?_ _
      exact h
    · exact hr
  · exact hr

theorem runs_execCpyWait (s n) : Runs s (execCpyWait n s) := by
  grind [execCpyWait, runs_next, runs_unlessStopping, runs_issue, canonical_blockAt, canonical_complete]

theorem runs_execCpyVis (s x_Row2552296290_hygCtx_hyg2 n) : Runs s (execCpyVis x_Row2552296290_hygCtx_hyg2 n s) := by
  grind [execCpyVis, runs_next, runs_unlessStopping, runs_issue, canonical_blockAt, canonical_complete]

theorem runs_execCpyStat (s k d) : Runs s (execCpyStat k d s) := by
  unfold execCpyStat
  exact runs_of_runs rfl (fun h => canonical_freeNat h) (runs_issueGang _ _ _ _)

theorem runs_issueBar (s fn b a d) : Runs s (issueBar fn b a d s) := by
  grind [issueBar, runs_next, runs_issueAccess]

theorem canonical_openChunk {s} (h : Canonical s) (id u) : Canonical (openChunk s id u) := h

theorem canonical_putChunk {s} (h : Canonical s) (id c) : Canonical (putChunk s id c) := h

theorem canonical_putRun {s} (h : Canonical s) (id c) : Canonical (putRun s id c) := by
  grind [putRun, canonical_closeChunk, canonical_putChunk]

theorem canonical_recordRun {s} (h : Canonical s) (id u gid) : Canonical (recordRun s id u gid) := by
  grind [recordRun, canonical_openChunk, canonical_putRun, canonical_closeChunk]

theorem canonical_restartGate {s} (h : Canonical s) (u launch) : Canonical (restartGate u s launch) := h

theorem canonical_admitted {s} (h : Canonical s) (g u) : Canonical (admitted s g u) := by
  grind [admitted, canonical_recordRun, canonical_modLog, canonical_restartGate]

theorem canonical_gateOnce {s} (h : Canonical s) (g c l) {k} (hk : ∀ u x, Canonical u → Canonical (k u x)) :
    Canonical (gateOnce s g c l k) := by
  unfold gateOnce
  grind [canonical_issued, canonical_needLog, canonical_admitted, canonical_failAt, canonical_gangDiverges, canonical_divergeStop]

theorem runs_barOnce (s b a) {k : State → Gang → ClauseRun → Loc → Bool → State}
    (hk : ∀ u g c l x, Canonical u → Canonical (k u g c l x)) : Runs s (barOnce s b a k) := by
  refine runs_issue fun h g c => ?_
  grind [canonical_failAt, canonical_arrive, canonical_gateOnce]

theorem runs_execBarWait (s b a) : Runs s (execBarWait b a s) := by
  grind [execBarWait, runs_next, runs_unlessStopping, runs_barOnce, canonical_complete, canonical_setGang,
    canonical_blockAt]

theorem runs_execBarTry (s b a d) : Runs s (execBarTry b a d s) := by
  grind [execBarTry, runs_next, runs_barOnce, canonical_complete, canonical_setGang]

theorem runs_execCarve (s b a d) : Runs s (execCarve b a d s) := by
  grind [execCarve, runs_next, runs_unlessStopping, runs_issue, canonical_failAt, canonical_blockAt]

theorem canonical_dropLine {s} (h : Canonical s) (line) : Canonical (dropLine s line) := h

theorem canonical_touchLine {s} (h : Canonical s) (line) : Canonical (touchLine s line) := by
  grind [touchLine, Canonical, canonical_pickFrom, canonical_dropLine]

theorem canonical_monitorLine {s} (h : Canonical s) (a__internal_hyg0) :
    Canonical (monitorLine s a__internal_hyg0) := by
  unfold monitorLine
  grind [Canonical, canonical_touchLine]

theorem canonical_mwaitRead {s} (h : Canonical s) (g lane ea) : Canonical (mwaitRead s g lane ea).1 := by
  grind [mwaitRead, canonical_arrive, canonical_monitorLine]

theorem canonical_mwaitDone {s} (h : Canonical s) (g c d v) : Canonical (mwaitDone s g c d v) := by
  grind [mwaitDone, canonical_complete]

theorem runs_execMwait (s b a d) : Runs s (execMwait b a d s) := by
  refine runs_unlessStopping (runs_issue fun h g c => ?_)
  grind [Canonical, canonical_failAt, canonical_mwaitRead, canonical_mwaitDone, canonical_blockAt]

theorem canonical_engFault {s} (h : Canonical s) (g c cls f) : Canonical (engFault s g c cls f) := by
  grind [engFault, canonical_failAt]

theorem canonical_modEngine {s} (h : Canonical s) (core f) : Canonical (modEngine s core f) := h

theorem canonical_withClaim {s} (h : Canonical s) (g c cls) {k} (hk : ∀ u, Canonical u → Canonical (k u)) :
    Canonical (withClaim s g c cls k) := by
  unfold withClaim
  grind [canonical_modEngine, canonical_blockAt]

theorem canonical_engineError {s} (h : Canonical s) (launch) : Canonical (engineError s launch) := by
  grind [engineError, canonical_endLaunch, canonical_freeNat]

theorem canonical_engineReadError {s} (h : Canonical s) (g) : Canonical (engineReadError s g) := by
  grind [engineReadError, Canonical, canonical_engineError, canonical_setGang]

theorem canonical_enqueue {s} (h : Canonical s) (g c lane body) : Canonical (enqueue s g c lane body) := by
  grind [enqueue, canonical_newId, canonical_modEngine, canonical_issued, canonical_complete]

theorem canonical_enterQueue {s} (h : Canonical s) (g c lane body) : Canonical (enterQueue s g c lane body) := by
  grind [enterQueue, canonical_enqueue, canonical_waitUnit]

theorem canonical_mmaAt {s} (h : Canonical s) (g c shape b a fw) : Canonical (mmaAt s g c shape b a fw) := by
  grind [mmaAt, canonical_engFault, canonical_engineReadError, canonical_enterQueue]

theorem runs_execMma (s sh b a d) : Runs s (execMma sh b a d s) := by
  grind [execMma, runs_next, runs_issue, canonical_failAt, canonical_engFault, canonical_withClaim, canonical_mmaAt]

theorem runs_engine (s cls dst src) {k : State → Gang → ClauseRun → Nat → State}
    (hk : ∀ u g c l, Canonical u → Canonical (k u g c l)) : Runs s (engine s cls dst src k) := by
  refine runs_issue fun h g c => ?_
  grind [canonical_engFault, canonical_withClaim]

theorem runs_execMdrain (s a) : Runs s (execMdrain a s) := by
  unfold execMdrain
  grind [Canonical, runs_next, runs_engine, canonical_engFault, canonical_engineReadError, canonical_enterQueue]

theorem runs_execMzero (s b) : Runs s (execMzero b s) := by
  grind [execMzero, runs_next, runs_engine, canonical_engFault, canonical_enterQueue]

theorem runs_execRingDef (s b a r) : Runs s (execRingDef b a r s) := by
  grind [execRingDef, runs_next, runs_engine, canonical_engFault, canonical_modEngine, canonical_complete]

theorem canonical_clearPoison {s} (h : Canonical s) (core store gs) : Canonical (clearPoison s core store gs) := h

theorem canonical_writeQueue {s} (h : Canonical s) (b off bs) : Canonical (writeQueue s b off bs) := by
  grind [writeQueue, canonical_modBlock, canonical_clearPoison]

theorem canonical_fillRing {s} (h : Canonical s) (core block r bs) : Canonical (fillRing s core block r bs) := by
  grind [fillRing, canonical_foldl, canonical_writeQueue, canonical_modRing]

theorem runs_execRingAdv (s b a r) : Runs s (execRingAdv b a r s) := by
  grind [execRingAdv, runs_next, runs_unlessStopping, runs_engine, canonical_engFault, canonical_blockAt,
    canonical_engineReadError, canonical_complete, canonical_fillRing]

theorem runs_execRingRel (s b r) : Runs s (execRingRel b r s) := by
  grind [execRingRel, runs_next, runs_engine, canonical_engFault, canonical_issued, canonical_complete,
    canonical_modRing]

theorem runs_execRingRelRst (s r) : Runs s (execRingRelRst r s) := by
  grind [execRingRelRst, runs_next, runs_engine, canonical_engFault, canonical_modRing, canonical_complete,
    canonical_modEngine]

theorem runs_execRingStat (s r d) : Runs s (execRingStat r d s) := by
  grind [execRingStat, runs_next, runs_engine, canonical_complete]

theorem runs_execCbld (s b a) : Runs s (execCbld b a s) := by
  grind [execCbld, runs_next, runs_engine, canonical_engFault, canonical_enterQueue]

theorem runs_issueWide (s cls os) {k} (hk : Canonical s → ∀ g c, Canonical (k g c)) : Runs s (issueWide s cls os k) := by
  refine runs_issue fun h g c => ?_
  grind [canonical_faultAt]

theorem canonical_enterArray {s} (h : Canonical s) (g) : Canonical (enterArray s g) := h

theorem runs_dense (s b a d f) : Runs s (dense s b a d f) := by
  grind [dense, Canonical, runs_next, runs_issueWide, canonical_issued, canonical_enterArray]

theorem runs_wideForm (s os d f) : Runs s (wideForm s os d f) := by
  grind [wideForm, runs_next, runs_issueWide, canonical_finish]

theorem runs_slotForm (s os b a) {k} (hk : Canonical s → ∀ g c ds, Canonical (k g c ds)) : Runs s (slotForm s os b a k) := by
  refine runs_issue fun h g c => ?_
  grind [canonical_faultAt]

theorem runs_execExtr (s b a d) : Runs s (execExtr b a d s) := by
  grind [execExtr, runs_next, runs_slotForm, canonical_finish]

theorem runs_execGchk (s b a) : Runs s (execGchk b a s) := by
  grind [execGchk, runs_next, runs_slotForm, canonical_finish, canonical_takeTrap]

theorem canonical_latticeWord {s} (h : Canonical s) (core j) : Canonical (latticeWord s core j).2 := by
  grind [latticeWord, canonical_pick]

theorem canonical_latticeSeen {s} (h : Canonical s) (core launch cluster rank task j) :
    Canonical (latticeSeen s core launch cluster rank task j).2 := by
  grind [latticeSeen, canonical_latticeWord]

theorem canonical_cbdecLane {x : State × Gang × List Nat} (h : Canonical x.1) (a d l) : Canonical (cbdecLane a d l x).1 := by
  have hw := canonical_latticeSeen h
  grind [cbdecLane]

theorem runs_execCbdec (s a d) : Runs s (execCbdec a d s) := by
  refine runs_issue fun h g c => ?_
  have hfold : ∀ ls : List Nat, Canonical (ls.foldl (fun x l => cbdecLane a d l x) (s, g, [])).1 := fun ls =>
    canonical_foldl_fst (fun _ _ hx => canonical_cbdecLane hx _ _ _) ls h
  grind [canonical_faultAt, canonical_finish, canonical_failAt, canonical_freeNat]

theorem runs_execWcmp (s b a d) : Runs s (execWcmp b a d s) := by
  grind [execWcmp, runs_next, runs_issueWide, canonical_finish]

theorem canonical_readRecord {s} (h : Canonical s) (g lane ra) : Canonical (readRecord s g lane ra).1 := by
  grind [readRecord, canonical_arrive]

theorem canonical_laneRecord_fresh {s} (h : Canonical s) (isLazy a g lane) :
    Canonical (laneRecord.fresh isLazy a s g lane).1 := by
  grind [laneRecord.fresh, canonical_foldl, canonical_readRecord]

theorem canonical_laneRecord {s} (h : Canonical s) (isLazy a g lane) :
    Canonical (laneRecord isLazy a s g lane).1 := by
  grind [laneRecord, canonical_laneRecord_fresh]

theorem canonical_keepRecord {x : State × SeqEnd} (h : Canonical x.1) (r id) : Canonical (keepRecord r id x).1 := by
  unfold keepRecord
  grind [canonical_modGang]

theorem canonical_findRecord {s} (h : Canonical s) (L core) : Canonical (findRecord s L core).1 := by
  grind [findRecord, canonical_freeNat, canonical_needArea]

theorem canonical_resultCell {s} (h : Canonical s) (g lane cell) : Canonical (resultCell s g lane cell).1 := by
  grind [resultCell, canonical_arrive]

theorem canonical_spawnBeyond {s} (h : Canonical s) (g spawn cell) : Canonical (spawnBeyond s g spawn cell).1 := by
  grind [spawnBeyond, canonical_gangDiverges]

theorem canonical_passGate {s} (h : Canonical s) (g u) : Canonical (passGate s g u) := by
  unfold passGate
  grind [Canonical, canonical_admitted]

theorem canonical_recordErrorAt {s} (h : Canonical s) : Canonical (recordErrorAt s).2 := h

theorem canonical_heldPlace {s} (h : Canonical s) (g lane t i w) : Canonical (heldPlace s g lane t i w).1 := by
  grind [heldPlace, canonical_arrive]

theorem canonical_writeAt {s} (h : Canonical s) (g ea t bs) : Canonical (writeAt s g ea t bs) := by
  unfold writeAt
  grind [Canonical, canonical_writeBytes, canonical_globalWrite]

theorem canonical_appendHeld {s} (h : Canonical s) (g lane x3) : Canonical (appendHeld s g lane x3).1 := by
  grind [appendHeld, canonical_recordErrorAt, canonical_changeTask, canonical_heldPlace, canonical_writeAt]

theorem canonical_addTask {s} (h : Canonical s) (t) : Canonical (addTask s t) := by
  grind [addTask, Canonical, canonical_modLaunch, canonical_storeTask]

theorem canonical_bearTask {s} (h : Canonical s) (g t pa) : Canonical (bearTask s g t pa) := by
  unfold bearTask
  grind [Canonical, canonical_dirtyAt, canonical_setCell, canonical_addTask, canonical_modLaunch,
    canonical_changeTask, canonical_sweepTask]

theorem canonical_spawnAt {s} (h : Canonical s) (g lane t) : Canonical (spawnAt s g lane t).1 := by
  have hcell := canonical_resultCell h g lane t.cell
  unfold spawnAt
  split <;> rename_i hs
  · rwa [hs] at hcell
  · rw [hs] at hcell
    extract_lets su cu
    refine iteInduction (motive := fun p : State × SeqEnd => Canonical p.1) (fun _ => h) fun _ => ?_
    have hs2 := canonical_spawnBeyond hcell g su cu
    cases gateCheck _ g su <;> cases gateCheck _ g cu
    case go.go | go.beyond | beyond.go | beyond.error | beyond.beyond | beyond.waits =>
      grind [canonical_passGate, canonical_haltLater, canonical_appendHeld, canonical_bearTask]
    all_goals exact hcell

theorem canonical_spawnLane {s} (h : Canonical s) (isLazy a g lane) : Canonical (spawnLane isLazy a s g lane).1 := by
  unfold spawnLane
  grind [canonical_laneRecord, canonical_keepRecord, canonical_findRecord, canonical_spawnAt]

theorem runs_execSpawn (s a) : Runs s (execSpawn a s) := by
  grind [execSpawn, runs_next, runs_issueSeq, canonical_spawnLane]

theorem runs_execSpawnl (s a) : Runs s (execSpawnl a s) := by
  grind [execSpawnl, runs_next, runs_issueSeq, canonical_spawnLane]

theorem runs_execTake (s a d) : Runs s (execTake a d s) := by
  grind [execTake, runs_next, runs_unlessStopping, runs_issueAccess]

theorem runs_execResolve (s b a) : Runs s (execResolve b a s) := by
  grind [execResolve, runs_next, runs_issueAccess]

theorem runs_execRefAdd (s a d) : Runs s (execRefAdd a d s) := by
  grind [execRefAdd, runs_next, runs_issueAccess]

theorem runs_execRefDrop (s a d) : Runs s (execRefDrop a d s) := by
  grind [execRefDrop, runs_next, runs_issueAccess]

theorem runs_execProbe (s a d) : Runs s (execProbe a d s) := by
  grind [execProbe, runs_next, runs_issueAccess]

theorem canonical_appendWaiter {s} (h : Canonical s) (g ea pa) : Canonical (appendWaiter s g ea pa) := by
  grind [appendWaiter, canonical_freeNat, canonical_modDie, canonical_dirtyAt, canonical_setCell]

theorem canonical_joinCell {s} (h : Canonical s) (g c a) : Canonical (joinCell s g c a) := by
  grind [joinCell, Canonical, canonical_failAt, canonical_arrive, canonical_gateOnce, canonical_complete,
    canonical_blockAt, canonical_appendWaiter]

theorem runs_execJoin (s a) : Runs s (execJoin a s) := by
  grind [execJoin, runs_next, runs_unlessStopping, runs_issue, canonical_failAt, canonical_recordErrorAt,
    canonical_complete, canonical_blockAt, canonical_joinCell]

theorem canonical_homeOf {s} (h : Canonical s) (g lane a) : Canonical (homeOf s g lane a).1 := by
  grind [homeOf, canonical_translate, canonical_errorResponse]

theorem runs_execMigrate (s a d) : Runs s (execMigrate a d s) := by
  grind [execMigrate, runs_next, runs_unlessStopping, runs_issue, canonical_finish, canonical_failAt,
    canonical_homeOf, canonical_blockAt]

theorem canonical_modJob {s} (h : Canonical s) (ctx f) : Canonical (modJob s ctx f) := h

theorem canonical_countFail {s} (h : Canonical s) (ctx) : Canonical (countFail s ctx) := h

theorem canonical_queueError {s} (h : Canonical s) (d q ctx addr entry reason status take) :
    Canonical (queueError s d q ctx addr entry reason status take) := by
  grind [queueError, canonical_postEvent]

theorem canonical_readWork {s} (h : Canonical s) (d ctx a n) : Canonical (readWork s d ctx a n).1 := by
  grind [readWork, canonical_deviceRead, canonical_logRefused]

theorem canonical_workWrite {s} (h : Canonical s) (d ctx a bs) : Canonical (workWrite s d ctx a bs).1 := by
  grind [workWrite, canonical_deviceWrite, canonical_logRefused]

theorem canonical_readLeases {s} (h : Canonical s) (d ctx x) : Canonical (readLeases s d ctx x).1 := by
  grind [readLeases, canonical_readWork]

theorem canonical_takenLaunch {s} (h : Canonical s) (id die take ctx q addr x node place entry since header) :
    Canonical (takenLaunch s id die take ctx q addr x node place entry since header).1 := by
  grind [takenLaunch, canonical_readLeases]

theorem canonical_leaseWait {s} (h : Canonical s) (id) : Canonical (leaseWait s id) := by
  grind [leaseWait, canonical_foldl, canonical_modLaunch, canonical_postRequest]

theorem canonical_replayCheck {s} (h : Canonical s) (L) : Canonical (replayCheck s L) := by
  grind [replayCheck, canonical_needArea, canonical_beginEnd, canonical_leaseWait]

theorem canonical_leaseCheck {s} (h : Canonical s) (id) : Canonical (leaseCheck s id) := by
  grind [leaseCheck, canonical_replayCheck, canonical_leaseWait]

theorem canonical_takeLaunch {s} (h : Canonical s) (d q ctx addr entry node place since header) :
    Canonical (takeLaunch s d q ctx addr entry node place since header).1 := by
  grind [takeLaunch, Canonical, canonical_modDie, canonical_countFail, canonical_queueError, canonical_readWork,
    canonical_workWrite, canonical_newId, canonical_takenLaunch, canonical_leaseCheck, canonical_modJob]

theorem canonical_launchLane {s} (h : Canonical s) (a q g lane) : Canonical (launchLane a q s g lane).1 := by
  grind [launchLane, canonical_takeLaunch]

theorem runs_execLaunch (s q a) : Runs s (execLaunch q a s) := by
  grind [execLaunch, runs_next, runs_issue, canonical_failAt, canonical_seqLanes, canonical_launchLane]

theorem canonical_modGraph {s} (h : Canonical s) (id f) : Canonical (modGraph s id f) := h

theorem canonical_setNode {s} (h : Canonical s) (gid i f) : Canonical (setNode s gid i f) := h

theorem canonical_writeDone {s} (h : Canonical s) (d ctx at_ bs) : Canonical (writeDone s d ctx at_ bs).1 := by
  grind [writeDone, canonical_workWrite]

theorem canonical_nodeRecord {s} (h : Canonical s) (gid i st) : Canonical (nodeRecord s gid i st) := by
  grind [nodeRecord, canonical_queueError, canonical_readWork, canonical_writeDone]

theorem canonical_dropNode {s} (h : Canonical s) (ctx st gid i) : Canonical (dropNode ctx st s gid i) := by
  grind [dropNode, canonical_countFail, canonical_setNode, canonical_nodeRecord]

theorem canonical_finishGraph {s} (h : Canonical s) (gid) : Canonical (finishGraph s gid) := by
  grind [finishGraph, canonical_writeDone, canonical_modGraph, canonical_queueError]

theorem canonical_cancelAll {s} (h : Canonical s) (c) : Canonical (cancelAll s c) := by
  grind [cancelAll, canonical_foldl, canonical_dropNode, canonical_endLaunch, canonical_finishGraph]

theorem canonical_cancelLane {s} (h : Canonical s) (d named g lane) : Canonical (cancelLane d named s g lane).1 := by
  grind [cancelLane, canonical_cancelAll, canonical_putLane]

theorem runs_issueCancel (s addr d named) : Runs s (issueCancel addr d named s) := by
  grind [issueCancel, runs_next, runs_issue, canonical_failAt, canonical_seqLanes, canonical_cancelLane]

theorem runs_execCancelL (s a d) : Runs s (execCancelL a d s) := by
  grind [execCancelL, runs_next, runs_issueCancel]

theorem runs_execCancelG (s a d) : Runs s (execCancelG a d s) := by
  grind [execCancelG, runs_next, runs_issueCancel]

theorem runs_execCancelJ (s d) : Runs s (execCancelJ d s) := by
  grind [execCancelJ, runs_next, runs_issueCancel]

theorem canonical_regionEdge {s} (h : Canonical s) (g c id type payload) :
    Canonical (regionEdge s g c id type payload) := by
  grind [regionEdge, Canonical, canonical_traceGang, canonical_takeStop, canonical_finish]

theorem runs_execRegEnter (s i) : Runs s (execRegEnter i s) := by
  grind [execRegEnter, runs_next, runs_issue, canonical_failAt, canonical_regionEdge]

theorem runs_execRegLeave (s i) : Runs s (execRegLeave i s) := by
  grind [execRegLeave, runs_next, runs_issue, canonical_failAt, canonical_regionEdge]

theorem runs_execTmark (s b k) : Runs s (execTmark b k s) := by
  grind [execTmark, runs_next, runs_issue, canonical_failAt, canonical_finish, canonical_traceGang]

theorem canonical_modWatch {s} (h : Canonical s) (cores f) : Canonical (modWatch s cores f) := by
  grind [modWatch, canonical_foldl, canonical_modCore]

theorem canonical_wptSetLane {s} (h : Canonical s) (b a d g lane) : Canonical (wptSetLane b a d s g lane).1 := by
  grind [wptSetLane, canonical_putLane, canonical_pickFrom, canonical_modWatch]

theorem runs_execWptSet (s b a d) : Runs s (execWptSet b a d s) := by
  grind [execWptSet, runs_next, runs_issue, canonical_failAt, canonical_seqLanes, canonical_wptSetLane]

theorem canonical_wptClrLane {s} (h : Canonical s) (b d g lane) : Canonical (wptClrLane b d s g lane).1 := by
  grind [wptClrLane, canonical_putLane, canonical_modWatch]

theorem runs_execWptClr (s b d) : Runs s (execWptClr b d s) := by
  grind [execWptClr, runs_next, runs_issue, canonical_failAt, canonical_seqLanes, canonical_wptClrLane]

theorem runs_execTagSet (s a) : Runs s (execTagSet a s) := by
  grind [execTagSet, runs_next, runs_issueAccess]

theorem runs_execTagGet (s a d) : Runs s (execTagGet a d s) := by
  grind [execTagGet, runs_next, runs_issueAccess]

theorem runs_execTagSetr (s b a) : Runs s (execTagSetr b a s) := by
  grind [execTagSetr, runs_next, runs_issueAccess]

theorem canonical_finishNow {s} (h : Canonical s) (id c cls) : Canonical (finishNow s id c cls) := by
  grind [finishNow, canonical_finish]

theorem runs_invOp (s os addr set waits) {act : State → InvSet → Nat → State}
    (hact : ∀ u k ctx, Canonical u → Canonical (act u k ctx)) : Runs s (invOp s os addr set waits act) := by
  refine runs_issue fun h g c => ?_
  grind [canonical_faultAt, canonical_failAt, canonical_issued, canonical_finishNow]

theorem canonical_drainWhere {s} (h : Canonical s) (p) : Canonical (drainWhere s p) := by
  grind [drainWhere, canonical_foldl, canonical_drainGang]

theorem canonical_settleAll {s} (h : Canonical s) (es) : Canonical (settleAll es s) := settleAll_wf es s h.1 h.2

theorem canonical_invalidateWhere {s} (h : Canonical s) (p) : Canonical (invalidateWhere s p) := by
  grind [invalidateWhere, Canonical, canonical_settleAll]

theorem canonical_invalidateSet {s} (h : Canonical s) (k ctx) : Canonical (invalidateSet s k ctx) := by
  grind [invalidateSet, canonical_drainWhere, canonical_invalidateWhere]

theorem runs_execTlbInvPg (s a) : Runs s (execTlbInvPg a s) := by
  grind [execTlbInvPg, runs_next, runs_invOp, canonical_invalidateSet]

theorem runs_execTlbInvRng (s b a) : Runs s (execTlbInvRng b a s) := by
  grind [execTlbInvRng, runs_next, runs_invOp, canonical_invalidateSet]

theorem canonical_harvestWhere {s} (h : Canonical s) (p) : Canonical (harvestWhere s p) := by
  grind [harvestWhere, Canonical, canonical_settleAll]

theorem canonical_harvestSet {s} (h : Canonical s) (k ctx) : Canonical (harvestSet s k ctx) := by
  grind [harvestSet, canonical_harvestWhere]

theorem runs_execDirtyHarvPg (s a) : Runs s (execDirtyHarvPg a s) := by
  grind [execDirtyHarvPg, runs_next, runs_invOp, canonical_harvestSet]

theorem runs_execDirtyHarvRng (s b a) : Runs s (execDirtyHarvRng b a s) := by
  grind [execDirtyHarvRng, runs_next, runs_invOp, canonical_harvestSet]

theorem runs_execNop (s) : Runs s (execNop s) := runs_issue fun h _ _ => h

theorem runs_execRet (s) : Runs s (execRet s) := by
  grind [execRet, runs_next, runs_issue, canonical_faultAt, canonical_transferEach]

theorem canonical_retireLanes {s} (h : Canonical s) (g0 c) : Canonical (retireLanes s g0 c) := by
  grind [retireLanes, canonical_drainGang, canonical_releaseWpts, canonical_orphanCopies, canonical_issued]

theorem canonical_taskExit {s} (h : Canonical s) (g) : Canonical (taskExit s g) := by
  grind [taskExit, canonical_drainGang, canonical_removeGang, canonical_atOwnCell, canonical_setCell,
    canonical_wakeWaiters, canonical_dropAllHeld, canonical_endsForParent, canonical_settleTask, canonical_changeTask]

theorem runs_execExit (s) : Runs s (execExit s) := by
  grind [execExit, runs_next, runs_issue, canonical_failAt, canonical_issued, canonical_recordErrorAt,
    canonical_retireLanes, canonical_removeGang, canonical_taskExit]

theorem runs_execYield (s) : Runs s (execYield s) := runs_issue fun h _ _ => h

theorem runs_execTfence (s) : Runs s (execTfence s) := by
  grind [execTfence, runs_next, canonical_foldl, runs_issue, canonical_finish, canonical_faultAt]

theorem canonical_settleCopy {s} (h : Canonical s) (b done) : Canonical (settleCopy s b done) := by
  grind [settleCopy, canonical_sweepClusters, canonical_abandonCopy, canonical_modCopy]

theorem runs_execTret (s) : Runs s (execTret s) := by
  grind [execTret, runs_next, runs_issue, canonical_failAt, canonical_finish, canonical_settleCopy, canonical_issued,
    canonical_noteSync, canonical_stopGang, canonical_parkTask]

theorem runs_execHalt (s) : Runs s (execHalt s) := by
  grind [execHalt, Canonical, runs_next, runs_unlessStopping, runs_issue, canonical_issued, canonical_parkTask,
    canonical_postGangEvent]

theorem canonical_arriveBlk {s} (h : Canonical s) (g) : Canonical (arriveBlk s g) := by
  grind [arriveBlk, canonical_checkBlk, canonical_modBlock]

theorem runs_execBarBlk (s) : Runs s (execBarBlk s) := by
  grind [execBarBlk, runs_next, runs_unlessStopping, runs_issue, canonical_failAt, canonical_arriveBlk,
    canonical_blockAt]

theorem canonical_arriveClu {s} (h : Canonical s) (g) : Canonical (arriveClu s g) := by
  grind [arriveClu, canonical_checkClu, canonical_noteArrival, canonical_modBlock]

theorem runs_execBarClu (s) : Runs s (execBarClu s) := by
  grind [execBarClu, runs_next, runs_unlessStopping, runs_issue, canonical_failAt, canonical_arriveClu,
    canonical_blockAt]

theorem runs_execMfence (s) : Runs s (execMfence s) := by
  grind [execMfence, runs_next, runs_unlessStopping, runs_engine, canonical_complete, canonical_blockAt]

theorem runs_execReclaim (s) : Runs s (execReclaim s) := by
  grind [execReclaim, runs_next, runs_issue, canonical_stopGang, canonical_finish]

theorem runs_execTlbInvCtx (s) : Runs s (execTlbInvCtx s) := by
  grind [execTlbInvCtx, runs_next, runs_invOp, canonical_invalidateSet]

theorem runs_execDirtyHarvCtx (s) : Runs s (execDirtyHarvCtx s) := by
  grind [execDirtyHarvCtx, runs_next, runs_invOp, canonical_harvestSet]

theorem goes_execSubmitTail (s) : GoesOn s (execSubmitTail s) := by
  grind [execSubmitTail, goes_next, canonical_modDie, canonical_writeNat, canonical_newId, canonical_queueError]

theorem canonical_readGraph {s} (h : Canonical s) (d ctx x3) : Canonical (readGraph s d ctx x3).1 := by
  grind [readGraph, canonical_readWork]

theorem canonical_admitNode {s} (h : Canonical s) (gid i) : Canonical (admitNode s gid i).1 := by
  grind [admitNode, canonical_modGraph, canonical_setNode, canonical_takeLaunch]

theorem canonical_admitNodes {s} (h : Canonical s) (gid is) : Canonical (admitNodes gid is s).1 := by
  induction is generalizing s with
  | nil => exact h
  | cons i is ih => exact ih (canonical_admitNode h gid i)

theorem canonical_lowerDeps {s} (h : Canonical s) (gid is) : Canonical (lowerDeps gid is s).1 := by
  induction is generalizing s with
  | nil => exact h
  | cons i is ih => exact ih (canonical_setNode h gid i _)

theorem canonical_cancelReach {s} (h : Canonical s) (gid i) : Canonical (cancelReach s gid i) := by
  grind [cancelReach, canonical_foldl, canonical_dropNode]

theorem canonical_nodesEnd {s} (h : Canonical s) (gid n ends) : Canonical (nodesEnd gid n ends s) := by
  induction n generalizing s ends with
  | zero => exact h
  | succ n ih =>
    cases ends with
    | nil => exact h
    | cons e rest => grind [nodesEnd, canonical_setNode, canonical_lowerDeps, canonical_admitNodes, canonical_cancelReach]

theorem canonical_endNodes {s} (h : Canonical s) (gid l) : Canonical (endNodes s gid l) := by
  grind [endNodes, canonical_finishGraph, canonical_nodesEnd]

theorem canonical_takeGraph {s} (h : Canonical s) (d q ctx addr entry since) :
    Canonical (takeGraph s d q ctx addr entry since) := by
  grind [takeGraph, Canonical, canonical_readWork, canonical_queueError, canonical_countFail, canonical_readGraph,
    canonical_writeDone, canonical_newId, canonical_admitNodes, canonical_endNodes]

theorem goes_execTakeEntry (s) : GoesOn s (execTakeEntry s) := by
  unfold execTakeEntry
  dsimp only
  split
  · exact goes_next.2 id
  · have hw := fun h l n x => canonical_writeNat (s := s) h l n x
    split_ifs <;> refine goes_next.2 fun h => ?_
    · exact canonical_queueError (canonical_errorResponse (hw h _ _ _) _ _ _ _ _ _) _ _ _ _ _ _ _ _
    · exact canonical_queueError (hw h _ _ _) _ _ _ _ _ _ _ _
    · exact canonical_queueError (hw h _ _ _) _ _ _ _ _ _ _ _
    · exact canonical_takeLaunch (hw h _ _ _) _ _ _ _ _ _ _ _ _
    · exact canonical_takeGraph (hw h _ _ _) _ _ _ _ _ _
    · exact canonical_queueError (hw h _ _ _) _ _ _ _ _ _ _ _

theorem canonical_modCmd {s} (h : Canonical s) (d f) : Canonical (modCmd s d f) := h

theorem goes_command {s} {f : State → Nat → Cmd → State × Nat}
    (hf : ∀ u d c, Canonical u → Canonical (f u d c).1) : GoesOn s (command s f) := by
  unfold command
  grind [goes_next, canonical_modCmd]

theorem canonical_storeOwed {s} (h : Canonical s) (id) : Canonical (storeOwed s id) := by
  grind [storeOwed, canonical_foldl, canonical_storeTask]

theorem goes_execLeaseAck (s) : GoesOn s (execLeaseAck s) := by
  grind [execLeaseAck, goes_next, goes_command, canonical_modLaunch, canonical_storeOwed, canonical_leaseCheck,
    canonical_endLaunch]

theorem canonical_onLaunches {s} (h : Canonical s) (c) {f : State → Nat → State}
    (hf : ∀ u i, Canonical u → Canonical (f u i)) : Canonical (onLaunches s c f).1 := by
  unfold onLaunches
  grind [canonical_foldl]

theorem canonical_writeWake {s} (h : Canonical s) (id whole) : Canonical (writeWake s id whole) := by
  grind [writeWake, canonical_modGang, canonical_deviceWrite, canonical_needArea]

theorem canonical_writeWakeState {s} (h : Canonical s) (id) : Canonical (writeWakeState s id) := by
  grind [writeWakeState, canonical_writeWake]

theorem canonical_rewriteWakes {s} (h : Canonical s) (launch) : Canonical (rewriteWakes s launch) := by
  grind [rewriteWakes, canonical_foldl, canonical_writeWakeState]

theorem goes_execPreemptMark (s) : GoesOn s (execPreemptMark s) := by
  grind [execPreemptMark, goes_next, goes_command, canonical_onLaunches, canonical_rewriteWakes, canonical_modLaunch]

theorem goes_execPreemptClear (s) : GoesOn s (execPreemptClear s) := by
  grind [execPreemptClear, goes_next, goes_command, canonical_onLaunches, canonical_rewriteWakes, canonical_modLaunch]

theorem goes_cancelCmd (s named) : GoesOn s (cancelCmd s named) := by
  grind [cancelCmd, goes_next, goes_command, canonical_modCmd, canonical_cancelAll]

theorem goes_execCmdCancelL (s) : GoesOn s (execCmdCancelL s) := by
  grind [execCmdCancelL, goes_next, goes_cancelCmd]

theorem goes_execCmdCancelG (s) : GoesOn s (execCmdCancelG s) := by
  grind [execCmdCancelG, goes_next, goes_cancelCmd]

theorem goes_execCmdCancelJ (s) : GoesOn s (execCmdCancelJ s) := by
  grind [execCmdCancelJ, goes_next, goes_cancelCmd]

theorem goes_execShootdown (s) : GoesOn s (execShootdown s) := by
  grind [execShootdown, goes_next, goes_command, canonical_invalidateSet]

theorem goes_execHarvest (s) : GoesOn s (execHarvest s) := by
  grind [execHarvest, goes_next, goes_command, canonical_harvestSet]

theorem canonical_retireShadows {s} (h : Canonical s) (lo n) : Canonical (retireShadows s lo n) := by
  grind [retireShadows, Canonical, canonical_foldl, canonical_writeNat]

theorem goes_execShadowRetire (s) : GoesOn s (execShadowRetire s) := by
  grind [execShadowRetire, goes_next, goes_command, canonical_retireShadows]

theorem goes_execHaltReq (s) : GoesOn s (execHaltReq s) := by
  grind [execHaltReq, Canonical, goes_next, goes_command, canonical_onLaunches, canonical_modGang]

theorem goes_execRegionBp (s) : GoesOn s (execRegionBp s) := by
  grind [execRegionBp, goes_next, goes_command, canonical_onLaunches, canonical_modLaunch]

theorem goes_execStopMode (s) : GoesOn s (execStopMode s) := by
  grind [execStopMode, goes_next, goes_command, canonical_onLaunches, canonical_modLaunch]

theorem canonical_writeWakeRecord {s} (h : Canonical s) (id) : Canonical (writeWakeRecord s id) := by
  grind [writeWakeRecord, canonical_writeWake]

theorem canonical_unparkTask {s} (h : Canonical s) (x1) : Canonical (unparkTask s x1) := by
  grind [unparkTask, canonical_changeTask]

theorem canonical_resumeGang {s} (h : Canonical s) (g) : Canonical (resumeGang s g) := by
  grind [resumeGang, canonical_modGang, canonical_stopGang, canonical_writeWakeRecord, canonical_unparkTask,
    canonical_newId]

theorem goes_execResume (s) : GoesOn s (execResume s) := by
  grind [execResume, goes_next, goes_command, canonical_resumeGang]

theorem goes_execBreakEn (s) : GoesOn s (execBreakEn s) := by
  grind [execBreakEn, goes_next, goes_command, canonical_onLaunches, canonical_modLaunch]

theorem goes_execSample (s) : GoesOn s (execSample s) := by
  grind [execSample, goes_next, goes_command, canonical_onLaunches, canonical_modLaunch]

theorem goes_execZeroHist (s) : GoesOn s (execZeroHist s) := by
  grind [execZeroHist, goes_next, goes_command, canonical_modCore]

theorem goes_execReadState (s) : GoesOn s (execReadState s) := by
  grind [execReadState, goes_next, goes_command, canonical_writeBytes]

theorem goes_execEvict (s) : GoesOn s (execEvict s) := by
  grind [execEvict, goes_next, goes_command, canonical_modGang]

theorem goes_execModuleNumberWrite (s) : GoesOn s (execModuleNumberWrite s) := by
  grind [execModuleNumberWrite, Canonical, goes_next]

theorem canonical_recheckLease {s} (h : Canonical s) (id) : Canonical (recheckLease s id) := by
  grind [recheckLease, canonical_foldl, canonical_postRequest, canonical_leaseCheck]

theorem canonical_recheckLeases {s} (h : Canonical s) (d) : Canonical (recheckLeases s d) := by
  grind [recheckLeases, canonical_foldl, canonical_storeOwed, canonical_recheckLease]

theorem goes_execEventHeadWrite (s) : GoesOn s (execEventHeadWrite s) := by
  grind [execEventHeadWrite, goes_next, canonical_recheckLeases, canonical_drainEvents, canonical_modMgmt]

theorem canonical_afterWrite {s} (h : Canonical s) (d off) : Canonical (afterWrite s d off) := by
  grind [afterWrite, canonical_recheckLeases, canonical_drainEvents, canonical_retryWaiters]

theorem goes_execMgmtRegisterWrite (s) : GoesOn s (execMgmtRegisterWrite s) := by
  grind [execMgmtRegisterWrite, Canonical, goes_next, canonical_afterWrite, canonical_modMgmt]

theorem canonical_placeTask {s} (h : Canonical s) (t core) : Canonical (placeTask s t core) := by
  grind [placeTask, Canonical, canonical_newId, canonical_changeTask, canonical_giveSlot, canonical_fatal,
    canonical_recordErrorAt]

theorem canonical_evictGang {s} (h : Canonical s) (g0 displaced) :
    ∀ u, evictGang s g0 displaced = some u → Canonical u := by
  grind [evictGang, canonical_drainGang, canonical_deviceWrite, canonical_modGang, canonical_landingMove]

theorem canonical_displaceUntil {s} (h : Canonical s) (core bytes gs) : Canonical (displaceUntil core bytes gs s) := by
  induction gs generalizing s with
  | nil => exact h
  | cons g gs ih =>
    have hg := canonical_evictGang h g true
    cases he : evictGang s g true <;> grind [displaceUntil]

theorem canonical_evictUntil {s} (h : Canonical s) (core gs) : Canonical (evictUntil core gs s) := by
  induction gs generalizing s with
  | nil => exact h
  | cons g gs ih =>
    have hg := canonical_evictGang h g false
    cases he : evictGang s g false <;> grind [evictUntil]

theorem canonical_roomOn {s} (h : Canonical s) (t c) : ∀ u, roomOn s t c = some u → Canonical u := by
  grind [roomOn, canonical_displaceUntil, canonical_evictUntil]

theorem canonical_askArena {s} (h : Canonical s) (g displaced) : Canonical (askArena s g displaced) := by
  grind [askArena, canonical_needArea]

theorem canonical_makeRoom {s} (h : Canonical s) (t) : Canonical (makeRoom s t).1 := by
  unfold makeRoom
  split
  next u c hu =>
    obtain ⟨k, -, hk⟩ := List.exists_of_findSome?_eq_some hu
    obtain ⟨v, hv, hvu⟩ := Option.map_eq_some_iff.mp hk
    cases hvu
    exact canonical_roomOn h t c u hv
  next => exact canonical_foldl (fun _ _ hu => canonical_askArena hu _ _) _ h

theorem canonical_placeEvaluator {s} (h : Canonical s) (t) : Canonical (placeEvaluator s t) := by
  grind [placeEvaluator, canonical_placeTask, canonical_makeRoom]

theorem canonical_arenaError {s} (h : Canonical s) (g va) : Canonical (arenaError s g va) := by
  grind [arenaError, canonical_fatal]

theorem canonical_takeBack {s} (h : Canonical s) (g bs old) : Canonical (takeBack s g bs old) := by
  grind [takeBack, canonical_modGang, canonical_giveSlot]

theorem canonical_returnGang {s} (h : Canonical s) (g) : Canonical (returnGang s g) := by
  grind [returnGang, canonical_deviceRead, canonical_needArea, canonical_arenaError, canonical_endLaunch,
    canonical_takeBack]

theorem canonical_returnWoken {s} (h : Canonical s) (g) : Canonical (returnWoken s g) := by
  grind [returnWoken, canonical_returnGang]

theorem canonical_placeTasks {s} (h : Canonical s) (ts stuck) : Canonical (placeTasks ts stuck s) := by
  induction ts generalizing s stuck with
  | nil => exact h
  | cons t ts ih => grind [placeTasks, canonical_placeTask]

theorem canonical_addGangs {s} (h : Canonical s) (L cl b rank core k is) : Canonical (addGangs L cl b rank core k is s) := by
  induction is generalizing s with
  | nil => exact h
  | cons i is ih =>
    refine ih (canonical_giveSlot ?_ _ _)
    exact canonical_newId h

theorem canonical_addBlocks {s} (h : Canonical s) (L cl k rank cores) : Canonical (addBlocks L cl k rank cores s).2 := by
  induction cores generalizing s rank with
  | nil => exact h
  | cons core cs ih =>
    refine ih (canonical_addGangs ?_ _ _ _ _ _ _ _) _
    exact canonical_newId h

theorem canonical_placeCluster {s} (h : Canonical s) (id) : ∀ u, placeCluster s id = some u → Canonical u := by
  grind [placeCluster, Canonical, canonical_newId, canonical_addBlocks, canonical_modCluster, canonical_modLaunch]

theorem canonical_placeClusters {s} (h : Canonical s) (id n) : Canonical (placeClusters id n s) := by
  induction n generalizing s with
  | zero => exact h
  | succ n ih => grind [placeClusters, canonical_placeCluster]

theorem canonical_placeLaunches {s} (h : Canonical s) : Canonical (placeLaunches s) := by
  grind [placeLaunches, canonical_foldl, canonical_placeClusters]

theorem goes_execPlacementOpportunity (s) : GoesOn s (execPlacementOpportunity s) := by
  grind [execPlacementOpportunity, goes_next, canonical_foldl, canonical_placeEvaluator, canonical_returnWoken,
    canonical_placeTasks, canonical_placeLaunches]

theorem canonical_putParams {s} (h : Canonical s) (bs b) : Canonical (putParams bs s b) := h

theorem canonical_stopCluster {s} (h : Canonical s) (cl) : Canonical (stopCluster s cl) := by
  grind [stopCluster, canonical_foldl, canonical_stopGang]

theorem goes_execParameterCopy (s) : GoesOn s (execParameterCopy s) := by
  grind [execParameterCopy, goes_next, canonical_foldl, canonical_deviceRead, canonical_modCluster,
    canonical_putParams, canonical_stopCluster, canonical_needArea, canonical_endLaunch]

theorem canonical_endRecord {s} (h : Canonical s) (L) : Canonical (endRecord s L) := by
  grind [endRecord, canonical_modLaunch, canonical_modJob, canonical_endNodes]

theorem canonical_refuseRecord {s} (h : Canonical s) (L) : Canonical (refuseRecord s L) := by
  grind [refuseRecord, canonical_queueError]

theorem canonical_recordDue {s} (h : Canonical s) (L) : Canonical (recordDue s L) := by
  grind [recordDue, canonical_endRecord, canonical_refuseRecord, canonical_needArea, canonical_writeDone]

theorem canonical_postKill {s} (h : Canonical s) (id) : Canonical (postKill s id) := by
  grind [postKill, canonical_modLaunch, canonical_postEvent]

theorem canonical_releaseAll {s} (h : Canonical s) (L) : Canonical (releaseAll s L) := by
  grind [releaseAll, Canonical, canonical_foldl, canonical_sweepTask, canonical_sweepClusters, canonical_modCore]

theorem canonical_closeChunks {s} (h : Canonical s) (id cs) : Canonical (closeChunks id cs s) := by
  induction cs generalizing s with
  | nil => exact h
  | cons c cs ih => exact ih (canonical_closeChunk h _ c)

theorem canonical_closeLog {s} (h : Canonical s) (id) : Canonical (closeLog s id) := by
  grind [closeLog, canonical_closeChunks, canonical_deviceWrite, canonical_errorResponse]

theorem canonical_endSteps {s} (h : Canonical s) (L) : Canonical (endSteps s L) := by
  grind [endSteps, canonical_foldl, canonical_harvestWhere, canonical_closeFrame, canonical_releaseAll,
    canonical_closeLog]

theorem canonical_closeLaunch {s} (h : Canonical s) (L) : Canonical (closeLaunch s L) := by
  grind [closeLaunch, canonical_modLaunch, canonical_endSteps]

theorem goes_execLaunchEnd (s) : GoesOn s (execLaunchEnd s) := by
  grind [execLaunchEnd, goes_next, canonical_recordDue, canonical_postKill, canonical_closeLaunch]

theorem canonical_headerFault {s} (h : Canonical s) (g cause pc loc lanes) :
    Canonical (headerFault s g cause pc loc lanes) := by
  grind [headerFault, canonical_raise]

theorem canonical_cacheError {s} (h : Canonical s) (core pa n) : Canonical (cacheError s core pa n).1 := by
  grind [cacheError, canonical_pick, canonical_modCore]

theorem canonical_fetchAt {s} (h : Canonical s) (g x2 n) : Canonical (fetchAt s g x2 n).1 := by
  grind [fetchAt, canonical_globalAccess, canonical_cacheError]

theorem canonical_codeWord {s} (h : Canonical s) (launch pa) : Canonical (codeWord s launch pa).2 := by
  grind [codeWord, canonical_pickFrom]

theorem canonical_codeWords {s} (h : Canonical s) (launch n pa) : Canonical (codeWords launch n pa s).2 := by
  induction n generalizing s pa with
  | zero => exact h
  | succ n ih => exact ih (canonical_codeWord h launch pa) _

theorem canonical_fetchClause {s} (h : Canonical s) (g x2 hdr) : Canonical (fetchClause s g x2 hdr) := by
  grind [fetchClause, canonical_modGang, canonical_fetchAt, canonical_headerFault, canonical_codeWords]

theorem goes_execClauseFetch (s) : GoesOn s (execClauseFetch s) := by
  grind [execClauseFetch, goes_next, canonical_headerFault, canonical_fetchAt, canonical_codeWord,
    canonical_fetchClause]

theorem canonical_logWrites {s} (h : Canonical s) (g c i) : Canonical (logWrites s g c i) := h

theorem canonical_occupyUnit {s} (h : Canonical s) (g i) : Canonical (occupyUnit s g i) := by
  grind [occupyUnit, canonical_modCore]

theorem canonical_startIssue {s} (h : Canonical s) (g c) : Canonical (startIssue s g c) := by
  grind [startIssue, Canonical, canonical_modGang, canonical_logWrites, canonical_occupyUnit]

theorem canonical_beginClause {s} (h : Canonical s) (g f) : Canonical (beginClause s g f) := by
  grind [beginClause, canonical_headerFault, canonical_setGang, canonical_startIssue]

theorem canonical_deliverHits {s} (h : Canonical s) (g) : Canonical (deliverHits s g) := by
  grind [deliverHits, canonical_takeTrap, canonical_unparkTask, canonical_setGang, canonical_postGangEvent,
    canonical_parkTask, canonical_traceGang]

theorem goes_execClauseStart (s) : GoesOn s (execClauseStart s) := by
  grind [execClauseStart, Canonical, goes_next, canonical_beginClause, canonical_deliverHits]

theorem canonical_passIdle {s} (h : Canonical s) (m) : Canonical (passIdle s m) := by
  grind [passIdle, Canonical, canonical_foldl, canonical_modCore]

theorem canonical_tick {s} (h : Canonical s) (core) : Canonical (tick s core) := by
  grind [tick, Canonical, canonical_freeNat, canonical_modCore, canonical_passIdle]

theorem canonical_countClk {s} (h : Canonical s) (core sch) : Canonical (countClk s core sch) := h

theorem canonical_selectGang {s} (h : Canonical s) (core sch g) : Canonical (selectGang s core sch g) := by
  grind [selectGang, Canonical, canonical_startIssue]

theorem canonical_yieldClk {s} (h : Canonical s) (core sch) : Canonical (yieldClk s core sch) := h

theorem goes_execIssueSelect (s) : GoesOn s (execIssueSelect s) := by
  grind [execIssueSelect, goes_next, canonical_tick, canonical_countClk, canonical_selectGang, canonical_yieldClk]

theorem goes_execAgingClassRise (s) : GoesOn s (execAgingClassRise s) := by
  grind [execAgingClassRise, goes_next, canonical_setGang]

theorem goes_execInstructionComplete (s) : GoesOn s (execInstructionComplete s) := by
  grind [execInstructionComplete, goes_next, canonical_pickFrom, canonical_setGang]

theorem goes_execFlagWaitResume (s) : GoesOn s (execFlagWaitResume s) := by
  grind [execFlagWaitResume, goes_next, canonical_setGang]

theorem canonical_haltDue {s} (h : Canonical s) (beyond id pc) : Canonical (haltDue beyond id pc s) := by
  unfold haltDue
  grind [Canonical, canonical_modGang]

theorem canonical_concludeAccess {s} (h : Canonical s) (id) : Canonical (concludeAccess s id) := by
  grind [concludeAccess, canonical_haltDue, canonical_failKeeping, canonical_blockAt, canonical_setGang,
    canonical_divergeStop, canonical_complete]

theorem canonical_modPending {s} (h : Canonical s) (id f) : Canonical (modPending s id f) := h

theorem canonical_parkLane {s} (h : Canonical s) (id a d lane) : Canonical (parkLane id a d s lane) := by
  grind [parkLane, canonical_arrive, canonical_modPending, canonical_addHits, canonical_putLane,
    canonical_appendWaiter]

theorem canonical_parkLanes {s} (h : Canonical s) (id p) : Canonical (parkLanes s id p) := by
  grind [parkLanes, canonical_foldl, canonical_parkLane]

theorem canonical_settleAccess {s} (h : Canonical s) (id) : Canonical (settleAccess s id) := by
  grind [settleAccess, canonical_concludeAccess, canonical_parkLanes]

theorem canonical_flyOut {s} (h : Canonical s) (g t f regs hits stream) :
    Canonical (flyOut s g t f regs hits stream).1 := by
  grind [flyOut]

theorem canonical_laneLoad {s} (h : Canonical s) (g fly lane size off signed a d) :
    Canonical (laneLoad s g fly lane size off signed a d).1 := by
  grind [laneLoad, canonical_arrive, canonical_flyOut, canonical_putLane]

theorem canonical_laneStore {s} (h : Canonical s) (g fly lane size off a d) :
    Canonical (laneStore s g fly lane size off a d).1 := by
  grind [laneStore, canonical_arrive, canonical_flyOut, canonical_writeAt]

theorem canonical_atUnit {s} (h : Canonical s) (g lane l) {k : State → State × LaneEnd}
    (hk : ∀ u, Canonical u → Canonical (k u).1) : Canonical (atUnit s g lane l k).1 := by
  unfold atUnit
  grind [canonical_needLog, canonical_admitted, canonical_gangDiverges, canonical_modGang]

theorem canonical_makeShadowRoom {s} (h : Canonical s) (pa) : ∀ t, makeShadowRoom s pa = .ok t → Canonical t := by
  grind [makeShadowRoom, Canonical, canonical_writeBytes]

theorem canonical_addToSum {s} (h : Canonical s) (pa w) : ∀ t n, addToSum s pa w = .ok (t, n) → Canonical t := by
  grind [addToSum, Canonical, canonical_makeShadowRoom, canonical_newId]

theorem canonical_atomAct {s} (h : Canonical s) (g lane ea t fn ret b d) :
    Canonical (atomAct s g lane ea t fn ret b d).1 := by
  grind [atomAct, canonical_addToSum, canonical_errorResponse, canonical_dirtyAt, canonical_wakeMwait,
    canonical_putLane, canonical_writeAt]

theorem canonical_laneAtom {s} (h : Canonical s) (g fly lane fn ret b a d) :
    Canonical (laneAtom s g fly lane fn ret b a d).1 := by
  grind [laneAtom, canonical_arrive, canonical_flyOut, canonical_atUnit, canonical_atomAct]

theorem canonical_barInit {s} (h : Canonical s) (l n) : Canonical (barInit s l n) := by
  grind [barInit, canonical_writeBar, canonical_writeBytes]

theorem canonical_barArrive {s} (h : Canonical s) (l hold) : Canonical (barArrive s l hold).1 := by
  grind [barArrive, canonical_writeBar]

theorem canonical_laneBar {s} (h : Canonical s) (g lane fn b a d) : Canonical (laneBar s g lane fn b a d).1 := by
  grind [laneBar, canonical_arrive, canonical_atUnit, canonical_barInit, canonical_barAdd, canonical_barArrive,
    canonical_putLane]

theorem canonical_atCell {s} (h : Canonical s) (g lane a w op) {k : State → Dbl → Nat → State × LaneEnd}
    (hk : ∀ u ea pa, Canonical u → Canonical (k u ea pa).1) : Canonical (atCell s g lane a w op k).1 := by
  unfold atCell
  grind [canonical_arrive, canonical_atUnit]

theorem canonical_startEvaluator {s} (h : Canonical s) (x1 gang core home) :
    Canonical (startEvaluator s x1 gang core home) := by
  grind [startEvaluator, canonical_changeTask]

theorem canonical_laneTake {s} (h : Canonical s) (g lane a d) : Canonical (laneTake s g lane a d).1 := by
  grind [laneTake, canonical_atCell, canonical_putLane, canonical_recordErrorAt, canonical_startEvaluator,
    canonical_dirtyAt, canonical_setCell]

theorem canonical_resolveCell {s} (h : Canonical s) (pa v) : Canonical (resolveCell s pa v) := by
  grind [resolveCell, canonical_setCell, canonical_wakeWaiters, canonical_freeTask]

theorem canonical_laneResolve {s} (h : Canonical s) (g lane b a) : Canonical (laneResolve s g lane b a).1 := by
  grind [laneResolve, canonical_atCell, canonical_dirtyAt, canonical_resolveCell]

theorem canonical_laneStatus {s} (h : Canonical s) (g lane d st hits) :
    Canonical (laneStatus s g lane d st hits).1 := h

theorem canonical_setConsumers {s} (h : Canonical s) (pa n) : Canonical (setConsumers s pa n) := by
  grind [setConsumers, canonical_setCell]

theorem canonical_laneRefAdd {s} (h : Canonical s) (g lane a d) : Canonical (laneRefAdd s g lane a d).1 := by
  grind [laneRefAdd, canonical_arrive, canonical_atUnit, canonical_laneStatus, canonical_appendHeld,
    canonical_dirtyAt, canonical_setConsumers]

theorem canonical_readHeld {s} (h : Canonical s) (g lane t i) : Canonical (readHeld s g lane t i).1 := by
  grind [readHeld, canonical_heldPlace]

theorem canonical_findHeld {s} (h : Canonical s) (g lane t v n i) : Canonical (findHeld g lane t v n i s).1 := by
  induction n generalizing s i with
  | zero => exact h
  | succ n ih => grind [findHeld, canonical_readHeld]

theorem canonical_removeHeld {s} (h : Canonical s) (g lane t i) : Canonical (removeHeld s g lane t i).1 := by
  grind [removeHeld, canonical_readHeld, canonical_changeTask, canonical_heldPlace, canonical_writeAt]

theorem canonical_laneRefDrop {s} (h : Canonical s) (g lane a d) : Canonical (laneRefDrop s g lane a d).1 := by
  have hdrop : ∀ u ea pa p hits, Canonical u → Canonical
      (if consumersOf p ≤ 1 then laneStatus (dirtyAt (reclaimCell u pa) g ea pa) g lane d 4 hits
        else laneStatus (dirtyAt (setConsumers u pa (consumersOf p - 1)) g ea pa) g lane d 0 hits).1 := by
    grind [canonical_laneStatus, canonical_dirtyAt, canonical_reclaimCell, canonical_setConsumers]
  unfold laneRefDrop
  extract_lets ea
  split
  · grind [canonical_arrive]
  · split
    · exact h
    · refine canonical_atUnit (by grind [canonical_arrive]) _ _ _ fun u hu => ?_
      grind [canonical_recordErrorAt, canonical_laneStatus, canonical_findHeld, canonical_removeHeld]

theorem canonical_laneProbe {s} (h : Canonical s) (g fly lane a d) : Canonical (laneProbe s g fly lane a d).1 := by
  grind [laneProbe, canonical_arrive, canonical_flyOut, canonical_atUnit, canonical_putLane]

theorem canonical_tagTarget {s} (h : Canonical s) (g lane ea set) : Canonical (tagTarget s g lane ea set).1 := by
  grind [tagTarget, canonical_arrive]

theorem canonical_colourGranule {s} (h : Canonical s) (g ea t) : Canonical (colourGranule s g ea t) := by
  unfold colourGranule
  grind [Canonical, canonical_drainWhere, canonical_writeTag, canonical_dirtyAt]

theorem canonical_colourRun {s} (h : Canonical s) (g lane base n i) : Canonical (colourRun g lane base n i s).1 := by
  induction n generalizing s i with
  | zero => exact h
  | succ n ih => grind [colourRun, canonical_tagTarget, canonical_colourGranule]

theorem canonical_laneTagSet {s} (h : Canonical s) (g lane a n) : Canonical (laneTagSet s g lane a n).1 := by
  grind [laneTagSet, canonical_colourRun]

theorem canonical_laneTagGet {s} (h : Canonical s) (g fly lane a d) : Canonical (laneTagGet s g fly lane a d).1 := by
  grind [laneTagGet, canonical_tagTarget, canonical_flyOut, canonical_putLane]

theorem canonical_laneStep {s} (h : Canonical s) (g fly lane a__internal_hyg0) :
    Canonical (laneStep s g fly lane a__internal_hyg0).1 := by
  unfold laneStep
  grind [Canonical, canonical_laneLoad, canonical_laneStore, canonical_laneAtom, canonical_laneBar,
    canonical_laneTake, canonical_laneResolve, canonical_laneRefAdd, canonical_laneRefDrop, canonical_laneProbe,
    canonical_laneTagSet, canonical_laneTagGet]

theorem canonical_noteLane {s} (h : Canonical s) (id lane e) : Canonical (noteLane s id lane e) := by
  unfold noteLane
  grind [Canonical, canonical_addHits, canonical_modGang, canonical_modPending]

theorem canonical_arriveNext {s} (h : Canonical s) (id fly) : Canonical (arriveNext s id fly) := by
  grind [arriveNext, canonical_settleAccess, canonical_laneStep, canonical_noteLane]

theorem canonical_arriveOrStop {s} (h : Canonical s) (id fly) : Canonical (arriveOrStop s id fly) := by
  grind [arriveOrStop, canonical_stopGang, canonical_arriveNext]

theorem canonical_performNth {s} (h : Canonical s) (id k) : Canonical (performNth s id k) := by
  grind [performNth, canonical_performFlight, canonical_modGang]

theorem goes_execAccessAtTarget (s) : GoesOn s (execAccessAtTarget s) := by
  grind [execAccessAtTarget, goes_next, canonical_arriveOrStop, canonical_performNth]

theorem canonical_endStopped {s} (h : Canonical s) (g) : Canonical (endStopped s g) := by
  grind [endStopped, canonical_taskFaultEnd, canonical_sweepLaunch, canonical_stopGang]

theorem canonical_settleReplay {s} (h : Canonical s) (g) : Canonical (settleReplay s g) := by
  grind [settleReplay, canonical_setGang, canonical_fatal, canonical_syncPoint, canonical_divergeStop]

theorem canonical_markWoken {s} (h : Canonical s) (id) : Canonical (markWoken s id) := by
  grind [markWoken, canonical_newId, canonical_writeWakeState, canonical_modGang]

theorem canonical_deliverTo {s} (h : Canonical s) (c at_ bs r) : Canonical (deliverTo c at_ bs s r) := by
  grind [deliverTo, canonical_writeBytes, canonical_writeQueue, canonical_modBlockRing]

theorem canonical_setCwp {s} (h : Canonical s) (c count) : Canonical (setCwp s c count) := by
  grind [setCwp, canonical_modCore]

theorem canonical_deliverRank {s} (h : Canonical s) (c r) : Canonical (deliverRank s c r) := by
  grind [deliverRank, canonical_lowerAt, canonical_deliverTo, canonical_setCwp, canonical_advanceCopy]

theorem canonical_flushRank {s} (h : Canonical s) (block n) : Canonical (flushRank block n s) := by
  induction n generalizing s with
  | zero => exact h
  | succ n ih => grind [flushRank, canonical_deliverRank]

theorem canonical_flushBlock {s} (h : Canonical s) (b) : Canonical (flushBlock s b) := by
  grind [flushBlock, canonical_flushRank, canonical_drainWhere]

theorem canonical_carveDecide {s} (h : Canonical s) (k ps) : Canonical (carveDecide s k ps).1 := by
  grind [carveDecide, canonical_modBlock]

theorem canonical_settleCarve {s} (h : Canonical s) (b) : Canonical (settleCarve s b) := by
  grind [settleCarve, Canonical, canonical_flushBlock, canonical_carveDecide]

theorem canonical_settleWait {s} (h : Canonical s) (g) : Canonical (settleWait s g) := by
  grind [settleWait, canonical_settleCarve]

theorem canonical_wakeDone {s} (h : Canonical s) (g c) : Canonical (wakeDone s g c) := by
  grind [wakeDone, canonical_complete]

theorem canonical_wakeMwaitDone {s} (h : Canonical s) (g c) : Canonical (wakeMwaitDone s g c) := by
  grind [wakeMwaitDone, canonical_mwaitRead, canonical_failAt, canonical_mwaitDone, canonical_wakeDone]

theorem canonical_wakeCarve {s} (h : Canonical s) (g c st d) : Canonical (wakeCarve s g c st d) := by
  grind [wakeCarve, canonical_wakeDone]

theorem canonical_goOn {s} (h : Canonical s) (id) : Canonical (goOn s id) := by
  grind [goOn, canonical_unparkTask, canonical_wakeDone, canonical_wakeMwaitDone, canonical_wakeCarve,
    canonical_setGang]

theorem goes_execGangWake (s) : GoesOn s (execGangWake s) := by
  unfold execGangWake
  dsimp only
  split
  · exact goes_next.2 id
  · split_ifs <;> refine goes_next.2 fun h => ?_
    · exact canonical_endStopped h _
    · exact canonical_settleReplay h _
    · exact canonical_stopGang h _
    all_goals grind [canonical_writeWake, canonical_deliverHits, canonical_markWoken, canonical_settleWait, canonical_goOn]

theorem goes_execGangEviction (s) : GoesOn s (execGangEviction s) := by
  grind [execGangEviction, goes_next, canonical_evictGang, canonical_askArena]

theorem goes_execDeferredFaultDelivery (s) : GoesOn s (execDeferredFaultDelivery s) := by
  grind [execDeferredFaultDelivery, goes_next, canonical_modCopy, canonical_unparkTask, canonical_takeTrap]

theorem goes_execCopyChannelStart (s) : GoesOn s (execCopyChannelStart s) := by
  grind [execCopyChannelStart, goes_next, canonical_modCopy]

theorem canonical_claimRank {s} (h : Canonical s) (c r) : Canonical (claimRank s c r) := by
  grind [claimRank, canonical_modCopy, canonical_modBlockRing]

theorem goes_execRingClaim (s) : GoesOn s (execRingClaim s) := by
  grind [execRingClaim, goes_next, canonical_claimRank]

theorem goes_execL2Fill (s) : GoesOn s (execL2Fill s) := by
  grind [execL2Fill, goes_next, canonical_pick, canonical_dropLine, canonical_touchLine]

theorem canonical_copyAccess {s} (h : Canonical s) (c ea n w sumRead always) :
    Canonical (copyAccess s c ea n w sumRead always).1 := by
  grind [copyAccess, canonical_globalAccess]

theorem canonical_elemAt {s} (h : Canonical s) (c k w) : Canonical (elemAt s c k w).1 := by
  grind [elemAt, canonical_copyAccess]

theorem canonical_copyLattice {s} (h : Canonical s) (c j) : Canonical (copyLattice s c j).2 := by
  grind [copyLattice, canonical_latticeWord]

theorem canonical_readCode {s} (h : Canonical s) (c) : Canonical (readCode s c).1 := by
  grind [readCode, canonical_elemAt, canonical_copyLattice]

theorem canonical_readUnitLoop {s} (h : Canonical s) (c n k) : Canonical (readUnitLoop c n k s).1 := by
  induction n generalizing s k with
  | zero => exact h
  | succ n ih =>
    have he := canonical_elemAt h c k false
    unfold readUnitLoop
    split <;> rename_i hs
    · rwa [hs] at he
    · rw [hs] at he
      have hn := ih he (k + 1)
      dsimp only
      split <;> rename_i hr
      · rwa [hr] at hn
      · exact hn

theorem canonical_readUnit {s} (h : Canonical s) (c) : Canonical (readUnit s c).1 := by
  grind [readUnit, canonical_readCode, canonical_readUnitLoop]

theorem canonical_fetchUnit {s} (h : Canonical s) (c) : Canonical (fetchUnit s c).1 := by
  grind [fetchUnit, canonical_readUnit]

theorem canonical_scatterRead {s} (h : Canonical s) (c) : Canonical (scatterRead s c).1 := by
  grind [scatterRead, canonical_fetchUnit, canonical_modCopy]

theorem canonical_scatterMove {s} (h : Canonical s) (c) : Canonical (scatterMove s c).1 := by
  grind [scatterMove, canonical_scatterRead, canonical_pickFrom, canonical_deliverRank]

theorem canonical_deliverIn {s} (h : Canonical s) (c) : Canonical (deliverIn s c).1 := by
  grind [deliverIn, canonical_foldl, canonical_fetchUnit, canonical_deliverTo, canonical_advanceCopy,
    canonical_setCwp, canonical_lowerAll]

theorem canonical_placeUnit {s} (h : Canonical s) (c n k) : Canonical (placeUnit c n k s).1 := by
  induction n generalizing s k with
  | zero => exact h
  | succ n ih =>
    have he := canonical_elemAt h c k true
    unfold placeUnit
    split <;> rename_i hs
    · rwa [hs] at he
    · rw [hs] at he
      have hn := ih he (k + 1)
      split <;> rename_i hr
      · rwa [hr] at hn
      · exact hn

theorem canonical_writeElem {s} (h : Canonical s) (c k ea pa x) : Canonical (writeElem c s k ea pa x) := by
  grind [writeElem, canonical_globalWrite]

theorem canonical_writeUnit {s} (h : Canonical s) (c src ps i k fl) : Canonical (writeUnit c src ps i k s fl).1 := by
  induction ps generalizing s i k fl with
  | nil => exact h
  | cons p ps ih =>
    cases p with
    | none => exact ih h _ _ _
    | some a => exact ih (canonical_writeElem h _ _ _ _ _) _ _ _

theorem canonical_performOut {s} (h : Canonical s) (c) : Canonical (performOut s c).1 := by
  grind [performOut, canonical_placeUnit, canonical_writeUnit, canonical_lowerAll, canonical_modCopy,
    canonical_removeCopy]

theorem canonical_moveUnit {s} (h : Canonical s) (c) : Canonical (moveUnit s c).1 := by
  grind [moveUnit, canonical_scatterMove, canonical_deliverIn, canonical_takeOut, canonical_performOut,
    canonical_pick]

theorem canonical_copyFatal {s} (h : Canonical s) (c cause loc) : Canonical (copyFatal s c cause loc) := by
  grind [copyFatal, canonical_abandonCopy, canonical_fatal, canonical_endLaunch]

theorem canonical_barShort {s} (h : Canonical s) (l chan) : Canonical (barShort s l chan) := by
  grind [barShort, canonical_writeBar]

theorem canonical_stopCopy {s} (h : Canonical s) (c cause loc colour) :
    Canonical (stopCopy s c cause loc colour) := by
  grind [stopCopy, canonical_foldl, canonical_traceOn, canonical_channelOf, canonical_barShort, canonical_abandonCopy,
    canonical_postAbandoned, canonical_newId, canonical_modCopy]

theorem canonical_copyFault {s} (h : Canonical s) (c f) : Canonical (copyFault s c f) := by
  grind [copyFault, canonical_copyFatal, canonical_stopCopy]

theorem goes_execCopyDelivery (s) : GoesOn s (execCopyDelivery s) := by
  grind [execCopyDelivery, goes_next, canonical_moveUnit, canonical_sweepClusters, canonical_copyFault]

theorem goes_execPrefetchLinePresent (s) : GoesOn s (execPrefetchLinePresent s) := by
  grind [execPrefetchLinePresent, goes_next, canonical_lineAccess, canonical_sweepClusters, canonical_copyFault,
    canonical_countLine, canonical_touchLine]

theorem goes_execMwaitTimeout (s) : GoesOn s (execMwaitTimeout s) := by
  grind [execMwaitTimeout, goes_next, canonical_setGang]

theorem goes_execDenseProductAdmit (s) : GoesOn s (execDenseProductAdmit s) := by
  grind [execDenseProductAdmit, goes_next, canonical_modEngine]

theorem canonical_zeroTiles {s} (h : Canonical s) (core tiles) : Canonical (zeroTiles s core tiles) := by
  grind [zeroTiles, canonical_foldl, canonical_clearPoison, canonical_modEngine]

theorem canonical_modCmdOf {s} (h : Canonical s) (core id f) : Canonical (modCmdOf s core id f) := h

theorem canonical_dropCmd {s} (h : Canonical s) (core id) : Canonical (dropCmd s core id) := h

theorem canonical_cmdError {s} (h : Canonical s) (core c) : Canonical (cmdError s core c) := by
  grind [cmdError, canonical_sweepClusters, canonical_engineError, canonical_dropCmd]

theorem canonical_drainWrite {s} (h : Canonical s) (block off bs) : Canonical (drainWrite s block off bs) := h

theorem canonical_startDrain {s} (h : Canonical s) (core c x) : Canonical (startDrain s core c x) := by
  grind [startDrain, canonical_cmdError, canonical_fillRing, canonical_drainWrite, canonical_clearPoison,
    canonical_modEngine, canonical_modCmdOf]

theorem canonical_startLoad {s} (h : Canonical s) (core c scale count src) :
    Canonical (startLoad s core c scale count src) := by
  grind [startLoad, canonical_cmdError, canonical_dropFlag, canonical_modCmdOf]

theorem goes_execEngineCommandStart (s) : GoesOn s (execEngineCommandStart s) := by
  grind [execEngineCommandStart, goes_next, canonical_zeroTiles, canonical_modCmdOf, canonical_startDrain,
    canonical_startLoad]

theorem goes_execChunkFire (s) : GoesOn s (execChunkFire s) := by
  grind [execChunkFire, goes_next, canonical_cmdError, canonical_modCmdOf]

theorem canonical_orJoinGate {s s3} (h : Canonical s) (h3 : Canonical s3) (x1 x2) :
    Canonical (orJoinGate s x1 x2 s3) := by
  grind [orJoinGate, canonical_modCmdOf, canonical_needLog]

theorem canonical_engineArrive {s} (h : Canonical s) (core c off) : Canonical (engineArrive s core c off) := by
  unfold engineArrive
  extract_lets l gg act done
  have hact : ∀ u, Canonical u → Canonical (act u) := fun u hu => by
    unfold act
    split
    · exact canonical_barArrive hu _ _
    · exact hu
  clear_value act done gg l
  cases unitAt s gg l with
  | none => exact hact _ h
  | some u =>
    have hadm : ∀ a : Admit, Canonical
        (match a with
          | .error va => endLaunch s c.launch 9 0x60 0 va
          | .beyond =>
            match gangOf s c.gang with
            | some g => modGang (act (gangDiverges s g 7 u.word)) c.gang fun x => { x with diverges := some (7, u.word, c.pc) }
            | none => act (diverge s c.launch core (gangBytes gg) 7 (gangLogId s gg) done.2.1 done.2.2.1 done.2.2.2 u.word)
          | _ => act (admitted s gg u)) := fun a => by
      cases a with
      | error va => exact canonical_endLaunch h _ _ _ _ _
      | beyond =>
        cases gangOf s c.gang with
        | none => exact hact _ (canonical_diverge h _ _ _ _ _ _ _ _ _)
        | some g => exact canonical_modGang (hact _ (canonical_gangDiverges h _ _ _)) _ _
      | _ => exact hact _ (canonical_admitted h _ _)
    exact hadm _

theorem canonical_completeCmd {s} (h : Canonical s) (core c bar) : Canonical (completeCmd s core c bar) := by
  unfold completeCmd
  grind [Canonical, canonical_modGang, canonical_engineArrive, canonical_sweepClusters, canonical_dropCmd]

theorem goes_execMmaComplete (s) : GoesOn s (execMmaComplete s) := by
  grind [execMmaComplete, goes_next, canonical_foldl, canonical_modRing, canonical_orJoinGate, canonical_completeCmd]

theorem goes_execDrainComplete (s) : GoesOn s (execDrainComplete s) := by
  grind [execDrainComplete, goes_next, canonical_orJoinGate, canonical_completeCmd]

theorem goes_execMzeroComplete (s) : GoesOn s (execMzeroComplete s) := by
  grind [execMzeroComplete, goes_next, canonical_completeCmd, canonical_zeroTiles]

theorem goes_execCbldComplete (s) : GoesOn s (execCbldComplete s) := by
  grind [execCbldComplete, goes_next, canonical_completeCmd, canonical_clearPoison, canonical_modEngine]

theorem goes_execMigrateMove (s) : GoesOn s (execMigrateMove s) := by
  grind [execMigrateMove, Canonical, goes_next, canonical_unparkTask, canonical_setGang, canonical_releaseWpts,
    canonical_complete, canonical_landingMove]

theorem goes_execTlbWalk (s) : GoesOn s (execTlbWalk s) := by
  grind [execTlbWalk, goes_next, canonical_translateNew, canonical_errorResponse]

theorem goes_execDirtySweep (s) : GoesOn s (execDirtySweep s) := by
  grind [execDirtySweep, Canonical, goes_next, canonical_harvestWhere]

theorem canonical_sampleSched {s} (h : Canonical s) (launch core sch) :
    Canonical (sampleSched launch core s sch) := by
  grind [sampleSched, canonical_traceOn]

theorem goes_execTraceSample (s) : GoesOn s (execTraceSample s) := by
  grind [execTraceSample, goes_next, canonical_foldl, canonical_modLaunch, canonical_sampleSched]

theorem goes_execGateStallDivergence (s) : GoesOn s (execGateStallDivergence s) := by
  grind [execGateStallDivergence, goes_next, canonical_diverge]

theorem canonical_countTelemetry {s} (h : Canonical s) (d which) : Canonical (countTelemetry s d which) := h

theorem goes_execParityReplay (s) : GoesOn s (execParityReplay s) := by
  grind [execParityReplay, goes_next, canonical_countTelemetry, canonical_freeNat, canonical_failAt]

theorem canonical_poisonGranule {s} (h : Canonical s) (l) : Canonical (poisonGranule s l) := by
  grind [poisonGranule, Canonical, canonical_setSpace]

theorem canonical_poisonTlb {s} (h : Canonical s) (d n) : Canonical (poisonTlb s d n) := by
  grind [poisonTlb, Canonical]

theorem canonical_poisonRecord {s} (h : Canonical s) (x1 granule) : Canonical (poisonRecord s x1 granule) := by
  grind [poisonRecord, canonical_changeTask]

theorem goes_execEccError (s) : GoesOn s (execEccError s) := by
  grind [execEccError, goes_next, canonical_countTelemetry, canonical_poisonGranule, canonical_modEngine,
    canonical_poisonTlb, canonical_poisonRecord, canonical_modCore]

theorem goes_execLinkFlit (s) : GoesOn s (execLinkFlit s) := by
  grind [execLinkFlit, goes_next, canonical_modDie, canonical_countTelemetry]

theorem canonical_drainPort {s} (h : Canonical s) (die port) : Canonical (drainPort s die port) := by
  grind [drainPort, canonical_drainWhere]

theorem canonical_loseLane {s} (h : Canonical s) (id x) : Canonical (loseLane id s x) := by
  grind [loseLane, canonical_pick, canonical_noteLane, canonical_errorResponse]

theorem canonical_loseCopy {s} (h : Canonical s) (die port c) : Canonical (loseCopy die port s c) := by
  grind [loseCopy, canonical_pick, canonical_errorResponse, canonical_modCopy, canonical_copyFault]

theorem goes_execLinkFailure (s) : GoesOn s (execLinkFailure s) := by
  grind [execLinkFailure, goes_next, canonical_foldl, canonical_modDie, canonical_drainPort, canonical_errorResponse,
    canonical_loseLane, canonical_loseCopy]

theorem goes_execTimeSync (s) : GoesOn s (execTimeSync s) := by
  grind [execTimeSync, Canonical, goes_next, canonical_modCore]

theorem goes_execPowerCap (s) : GoesOn s (execPowerCap s) := by
  grind [execPowerCap, goes_next, canonical_modCore, canonical_pick]

theorem goes_execPowerGood (s) : GoesOn s (execPowerGood s) := by
  grind [execPowerGood, Canonical, goes_next]

theorem goes_execStartTimeout (s) : GoesOn s (execStartTimeout s) := by
  grind [execStartTimeout, Canonical, goes_next]

theorem goes_execImageReceive (s) : GoesOn s (execImageReceive s) := by
  unfold execImageReceive
  dsimp only
  split_ifs <;> exact goes_next.2 id

theorem canonical_advanceRing {s} (h : Canonical s) (core cuts r) : Canonical (advanceRing core cuts s r) := by
  grind [advanceRing, canonical_modRing]

theorem goes_execKChunkComplete (s) : GoesOn s (execKChunkComplete s) := by
  grind [execKChunkComplete, Canonical, goes_next, canonical_foldl, canonical_modEngine, canonical_modCmdOf,
    canonical_advanceRing]

theorem goes_execUnknownCommand (s) : GoesOn s (execUnknownCommand s) := by
  grind [execUnknownCommand, goes_next, goes_command]

theorem canonical_illegalWord {s} (h : Canonical s) (g c) : Canonical (illegalWord s g c) := by
  grind [illegalWord, canonical_faultAt]

theorem canonical_hostStore {s} (h : Canonical s) (pa bs) : Canonical (hostStore s pa bs) := by
  grind [hostStore, canonical_errorResponse, canonical_writeBytes, canonical_newId]

theorem canonical_idle {s} (h : Canonical s) : Canonical (idle s) := by
  grind [idle, Canonical, canonical_freeNat, canonical_passIdle]

theorem canonical_due {s} (h : Canonical s) : Canonical (due s).1 := by
  grind [due, Canonical, canonical_hostStore, canonical_pickFrom, canonical_idle]

/-! ### The instructions and the events -/

theorem chapter_of_encode_zero {i : Instr} (h : encode i = 0) : i.chapter = 0 := by
  cases i
  case submitTail | takeEntry | leaseAck | preemptMark | preemptClear | cmdCancelL | cmdCancelG | cmdCancelJ |
       shootdown | harvest | shadowRetire | haltReq | regionBp | stopMode | resume | breakEn | sample | zeroHist |
       readState | evict | moduleNumberWrite | eventHeadWrite | mgmtRegisterWrite | placementOpportunity |
       parameterCopy | launchEnd | clauseFetch | clauseStart | issueSelect | agingClassRise | instructionComplete |
       flagWaitResume | accessAtTarget | gangWake | gangEviction | deferredFaultDelivery | copyChannelStart |
       ringClaim | l2Fill | copyDelivery | prefetchLinePresent | mwaitTimeout | denseProductAdmit |
       engineCommandStart | chunkFire | mmaComplete | drainComplete | mzeroComplete | cbldComplete | migrateMove |
       tlbWalk | dirtySweep | traceSample | gateStallDivergence | parityReplay | eccError | linkFlit | linkFailure |
       timeSync | powerCap | powerGood | startTimeout | imageReceive | kChunkComplete | unknownCommand => rfl
  all_goals
    simp only [encode, encRRR] at h
    omega

/-- Every event goes on. -/
theorem goes_exec_event {s i} (hi : i.chapter = 0) : GoesOn s (exec i s) := by
  cases i
  case submitTail => exact goes_execSubmitTail ..
  case takeEntry => exact goes_execTakeEntry ..
  case leaseAck => exact goes_execLeaseAck ..
  case preemptMark => exact goes_execPreemptMark ..
  case preemptClear => exact goes_execPreemptClear ..
  case cmdCancelL => exact goes_execCmdCancelL ..
  case cmdCancelG => exact goes_execCmdCancelG ..
  case cmdCancelJ => exact goes_execCmdCancelJ ..
  case shootdown => exact goes_execShootdown ..
  case harvest => exact goes_execHarvest ..
  case shadowRetire => exact goes_execShadowRetire ..
  case haltReq => exact goes_execHaltReq ..
  case regionBp => exact goes_execRegionBp ..
  case stopMode => exact goes_execStopMode ..
  case resume => exact goes_execResume ..
  case breakEn => exact goes_execBreakEn ..
  case sample => exact goes_execSample ..
  case zeroHist => exact goes_execZeroHist ..
  case readState => exact goes_execReadState ..
  case evict => exact goes_execEvict ..
  case moduleNumberWrite => exact goes_execModuleNumberWrite ..
  case eventHeadWrite => exact goes_execEventHeadWrite ..
  case mgmtRegisterWrite => exact goes_execMgmtRegisterWrite ..
  case placementOpportunity => exact goes_execPlacementOpportunity ..
  case parameterCopy => exact goes_execParameterCopy ..
  case launchEnd => exact goes_execLaunchEnd ..
  case clauseFetch => exact goes_execClauseFetch ..
  case clauseStart => exact goes_execClauseStart ..
  case issueSelect => exact goes_execIssueSelect ..
  case agingClassRise => exact goes_execAgingClassRise ..
  case instructionComplete => exact goes_execInstructionComplete ..
  case flagWaitResume => exact goes_execFlagWaitResume ..
  case accessAtTarget => exact goes_execAccessAtTarget ..
  case gangWake => exact goes_execGangWake ..
  case gangEviction => exact goes_execGangEviction ..
  case deferredFaultDelivery => exact goes_execDeferredFaultDelivery ..
  case copyChannelStart => exact goes_execCopyChannelStart ..
  case ringClaim => exact goes_execRingClaim ..
  case l2Fill => exact goes_execL2Fill ..
  case copyDelivery => exact goes_execCopyDelivery ..
  case prefetchLinePresent => exact goes_execPrefetchLinePresent ..
  case mwaitTimeout => exact goes_execMwaitTimeout ..
  case denseProductAdmit => exact goes_execDenseProductAdmit ..
  case engineCommandStart => exact goes_execEngineCommandStart ..
  case chunkFire => exact goes_execChunkFire ..
  case mmaComplete => exact goes_execMmaComplete ..
  case drainComplete => exact goes_execDrainComplete ..
  case mzeroComplete => exact goes_execMzeroComplete ..
  case cbldComplete => exact goes_execCbldComplete ..
  case migrateMove => exact goes_execMigrateMove ..
  case tlbWalk => exact goes_execTlbWalk ..
  case dirtySweep => exact goes_execDirtySweep ..
  case traceSample => exact goes_execTraceSample ..
  case gateStallDivergence => exact goes_execGateStallDivergence ..
  case parityReplay => exact goes_execParityReplay ..
  case eccError => exact goes_execEccError ..
  case linkFlit => exact goes_execLinkFlit ..
  case linkFailure => exact goes_execLinkFailure ..
  case timeSync => exact goes_execTimeSync ..
  case powerCap => exact goes_execPowerCap ..
  case powerGood => exact goes_execPowerGood ..
  case startTimeout => exact goes_execStartTimeout ..
  case imageReceive => exact goes_execImageReceive ..
  case kChunkComplete => exact goes_execKChunkComplete ..
  case unknownCommand => exact goes_execUnknownCommand ..
  all_goals cases hi

theorem runs_exec_control_integer {s i} (hi : i.chapter = 1) : Runs s (exec i s) := by
  cases i
  case bra => exact runs_execBra ..
  case call => exact runs_execCall ..
  case jmpi => exact runs_execJmpi ..
  case wait => exact runs_execWait ..
  case wbaseRel | wbaseAbs =>
    dsimp
    exact runs_setWbase ..
  case trap => exact runs_execTrap ..
  case brk => exact runs_execBrk ..
  case add | sub | min | max | minn | maxn | and | or | xor | andn | orn | shl | shr | sar | rol | ror | mul | mulh |
       mulhn | bfe | bfen =>
    dsimp
    exact runs_formRRR ..
  case abs | neg | not | clz | ctz | popc | brev =>
    dsimp
    exact runs_formRR ..
  case mad | bfi =>
    dsimp
    exact runs_formAcc ..
  case mulD =>
    dsimp
    exact runs_formWide64 ..
  case div | divn | rem | remn =>
    dsimp
    exact runs_formFlags ..
  case addD | subD =>
    dsimp
    exact runs_formPPP ..
  case shlD | shrD =>
    dsimp
    exact runs_formPPR ..
  case nop => exact runs_execNop ..
  case ret => exact runs_execRet ..
  case exit => exact runs_execExit ..
  case yield => exact runs_execYield ..
  case tfence => exact runs_execTfence ..
  case tret => exact runs_execTret ..
  case halt => exact runs_execHalt ..
  all_goals cases hi

theorem runs_exec_immediate_predicate {s i} (hi : i.chapter = 2) : Runs s (exec i s) := by
  cases i
  case addi | andi | ori | xori | shli | shri | sari =>
    dsimp
    exact runs_formRR ..
  case movi | movhi =>
    dsimp
    exact runs_formR ..
  case icmpEq | icmpNe | icmpLt | icmpLe | icmpGt | icmpGe | icmpLtn | icmpLen | icmpGtn | icmpGen =>
    dsimp
    exact runs_formCmp ..
  case qand | qor | qxor | qandn | qnot | qset | qmov =>
    dsimp
    exact runs_formQQQ ..
  case qpack | qunpack | sel =>
    dsimp
    exact runs_issueLanes ..
  case voteAny | voteAll | voteCnt | voteBallot | bcast | mrank =>
    dsimp
    exact runs_issueGang ..
  case shflIdx | shflUp | shflDn | shflXor =>
    dsimp
    exact runs_shuffle ..
  case reduxAdd | reduxMin | reduxMax | reduxMinn | reduxMaxn =>
    dsimp
    exact runs_reduce ..
  all_goals cases hi

theorem runs_exec_float {s i} (hi : i.chapter = 3) : Runs s (exec i s) := by
  cases i
  case fcopysign =>
    dsimp
    exact runs_formRRR ..
  case fabs | fneg =>
    dsimp
    exact runs_formRR ..
  case fadd | fsub | fmul | fdiv | fmin | fmax | fscale =>
    dsimp
    exact runs_formFlags ..
  case fma =>
    dsimp
    exact runs_formAccFlags ..
  case fsqrt | frcp | frsqrt | fexp2 | flog2 | fsin | fcos | fclass | frint | ffrac | fsat =>
    dsimp
    exact runs_formRRFlags ..
  all_goals cases hi

theorem runs_exec_compare_half {s i} (hi : i.chapter = 8) : Runs s (exec i s) := by
  cases i
  case fcmpEq | fcmpNe | fcmpLt | fcmpLe | fcmpGt | fcmpGe | fcmpUn | fcmpOrd =>
    dsimp
    exact runs_formCmpFlags ..
  case hadd2Bf16 | hsub2Bf16 | hmul2Bf16 | hmin2Bf16 | hmax2Bf16 | hadd2F16 | hsub2F16 | hmul2F16 | hmin2F16 | hmax2F16 =>
    dsimp
    exact runs_formFlags ..
  case hfma2Bf16 | hfma2F16 =>
    dsimp
    exact runs_formAccFlags ..
  case cvt => exact runs_execCvt ..
  all_goals cases hi

theorem runs_exec_load_store {s i} (hi : i.chapter = 4) : Runs s (exec i s) := by
  cases i
  case ldB | ldH | ldW | ldD | ldsB | ldsH | ldsQ =>
    dsimp
    exact runs_issueLoad ..
  case stB | stH | stW | stD | stQ =>
    dsimp
    exact runs_issueStore ..
  all_goals cases hi

theorem runs_exec_order_atomic {s i} (hi : i.chapter = 5) : Runs s (exec i s) := by
  cases i
  case ldAcqW | ldAcqD =>
    dsimp
    exact runs_issueLoad ..
  case stRelW | stRelD =>
    dsimp
    exact runs_issueStore ..
  case fenceAcq | fenceRel | fenceGng | fenceBlk | fenceClu | fenceDie | fenceDev | fenceDom =>
    dsimp
    exact runs_issueFence ..
  case atomAdd | atomMin | atomMax | atomMinn | atomMaxn | atomAnd | atomOr | atomXor | atomXchg | atomInc |
       atomAddNr | atomMinNr | atomMaxNr | atomMinnNr | atomMaxnNr | atomAndNr | atomOrNr | atomXorNr | atomXchgNr |
       atomIncNr | atomCas | atomFx | atomAddD | atomFxNr | atomAddDNr =>
    dsimp
    exact runs_issueAtom ..
  all_goals cases hi

theorem runs_exec_copy_engine {s i} (hi : i.chapter = 6) : Runs s (exec i s) := by
  cases i
  case gwid =>
    dsimp
    exact runs_issueGang ..
  case cpyIn | cpyOut | cpyMc | cpyGen =>
    dsimp
    exact runs_issueCopy ..
  case cpyPf => exact runs_execCpyPf ..
  case cpySeal => exact runs_execCpySeal ..
  case cpyWait => exact runs_execCpyWait ..
  case cpyVis k n => exact runs_execCpyVis s k n
  case cpyStat => exact runs_execCpyStat ..
  case barInit | barArr | barArrb | barExp =>
    dsimp
    exact runs_issueBar ..
  case barWait => exact runs_execBarWait ..
  case barTry => exact runs_execBarTry ..
  case carve => exact runs_execCarve ..
  case mwait => exact runs_execMwait ..
  case mma => exact runs_execMma ..
  case mdrain => exact runs_execMdrain ..
  case mzero => exact runs_execMzero ..
  case ringDef => exact runs_execRingDef ..
  case ringAdv => exact runs_execRingAdv ..
  case ringRel => exact runs_execRingRel ..
  case ringRelRst => exact runs_execRingRelRst ..
  case ringStat => exact runs_execRingStat ..
  case cbld => exact runs_execCbld ..
  case wmul | wmuln | wmac =>
    dsimp
    exact runs_dense ..
  case wadd | wsub | wneg | wshs | wshb | pack =>
    dsimp
    exact runs_wideForm ..
  case extr => exact runs_execExtr ..
  case gchk => exact runs_execGchk ..
  case cbdec => exact runs_execCbdec ..
  case wcmp => exact runs_execWcmp ..
  case barBlk => exact runs_execBarBlk ..
  case barClu => exact runs_execBarClu ..
  case mfence => exact runs_execMfence ..
  all_goals cases hi

theorem runs_exec_task_system {s i} (hi : i.chapter = 7) : Runs s (exec i s) := by
  cases i
  case sread | swrite =>
    dsimp
    exact runs_issueGang ..
  case spawn => exact runs_execSpawn ..
  case spawnl => exact runs_execSpawnl ..
  case take => exact runs_execTake ..
  case resolve => exact runs_execResolve ..
  case refAdd => exact runs_execRefAdd ..
  case refDrop => exact runs_execRefDrop ..
  case probe => exact runs_execProbe ..
  case join => exact runs_execJoin ..
  case migrate => exact runs_execMigrate ..
  case launch => exact runs_execLaunch ..
  case cancelL => exact runs_execCancelL ..
  case cancelG => exact runs_execCancelG ..
  case cancelJ => exact runs_execCancelJ ..
  case regEnter => exact runs_execRegEnter ..
  case regLeave => exact runs_execRegLeave ..
  case tmark => exact runs_execTmark ..
  case wptSet => exact runs_execWptSet ..
  case wptClr => exact runs_execWptClr ..
  case tagSet => exact runs_execTagSet ..
  case tagGet => exact runs_execTagGet ..
  case tagSetr => exact runs_execTagSetr ..
  case tlbInvPg => exact runs_execTlbInvPg ..
  case tlbInvRng => exact runs_execTlbInvRng ..
  case dirtyHarvPg => exact runs_execDirtyHarvPg ..
  case dirtyHarvRng => exact runs_execDirtyHarvRng ..
  case reclaim => exact runs_execReclaim ..
  case tlbInvCtx => exact runs_execTlbInvCtx ..
  case dirtyHarvCtx => exact runs_execDirtyHarvCtx ..
  all_goals cases hi

/-- Every instruction and every event runs. -/
theorem runs_exec (s i) : Runs s (exec i s) := by
  have hcases : ∀ k : Fin 9, k = 0 ∨ k = 1 ∨ k = 2 ∨ k = 3 ∨ k = 4 ∨ k = 5 ∨ k = 6 ∨ k = 7 ∨ k = 8 := by decide
  obtain hk | hk | hk | hk | hk | hk | hk | hk | hk := hcases i.chapter
  · exact runs_of_goes (goes_exec_event hk)
  · exact runs_exec_control_integer hk
  · exact runs_exec_immediate_predicate hk
  · exact runs_exec_float hk
  · exact runs_exec_load_store hk
  · exact runs_exec_order_atomic hk
  · exact runs_exec_copy_engine hk
  · exact runs_exec_task_system hk
  · exact runs_exec_compare_half hk

/-! ### The step -/

theorem runs_stepIssued (s) : Runs s (stepIssued s) := by
  unfold stepIssued
  cases hi : issuer s with
  | none => exact .inr ⟨hi, rfl⟩
  | some p =>
    obtain ⟨g, c⟩ := p
    dsimp only
    split
    · exact runs_exec _ _
    · exact runs_next fun h => canonical_illegalWord h g c

theorem exec_eq_next {s : State} (h : (issuer s).isSome) (i : Instr) : ∃ t, exec i s = .next t := by
  obtain ⟨t, ht, -⟩ | ⟨hn, -⟩ := runs_exec s i
  · exact ⟨t, ht⟩
  · simp [hn] at h

theorem exec_event_eq_next {i : Instr} (hi : encode i = 0) (s : State) : ∃ t, exec i s = .next t :=
  (goes_exec_event (chapter_of_encode_zero hi)).imp fun _ h => h.1

theorem canonical_of_runs {s t : State} {o} (h : Canonical s) (hr : Runs s o) (ho : o = .next t) : Canonical t := by
  subst ho
  obtain ⟨u, hu, hc⟩ | ⟨-, hf⟩ := hr
  · cases hu
    exact hc h
  · cases hf

/-- Settles O60: no function of the model but the two that write a byte or a tag touches memory, and these keep its form. -/
theorem stepKeepsMemory : Obligations.StepKeepsMemory := by
  unfold Obligations.StepKeepsMemory
  intro s t hm ht hstep
  have h : Canonical s := ⟨hm, ht⟩
  unfold step at hstep
  split at hstep
  · exact canonical_of_runs h (runs_stepIssued s) hstep
  · have hd : Canonical (due s).1 := canonical_due h
    split at hstep
    next u i he =>
      rw [he] at hd
      exact canonical_of_runs hd (runs_exec u i) hstep
    next u he =>
      rw [he] at hd
      cases hstep
      exact hd

/-- Settles O27. -/
theorem memoryCanonical : Obligations.MemoryCanonical := by
  unfold Obligations.MemoryCanonical
  refine ⟨rfl, rfl, fun s hm ht => ?_⟩
  have h : Canonical s := ⟨hm, ht⟩
  exact ⟨fun l bs => canonical_writeBytes h l bs, fun l v => canonical_writeTag h l v,
    fun p => ⟨(canonical_invalidateWhere h p).1, (canonical_harvestWhere h p).1⟩⟩

/-! ### What is due -/

/-- Entries of which each names an event, and no word of the instruction set. -/
def Events (es : List (Instr × List Nat)) : Prop := ∀ e ∈ es, encode e.1 = 0

@[simp] theorem events_append {es fs : List (Instr × List Nat)} : Events (es ++ fs) ↔ Events es ∧ Events fs :=
  List.forall_mem_append

@[simp] theorem events_eventsOf {i : Instr} {fs : List (List Nat)} (hi : encode i = 0) : Events (eventsOf i fs) := by
  simp [Events, eventsOf, hi]

@[simp] theorem events_eventIf {c : Bool} {i : Instr} {f : List Nat} (hi : encode i = 0) : Events (eventIf c i f) := by
  simp [Events, eventIf, hi]

@[simp] theorem events_nil : Events [] := fun _ he => absurd he List.not_mem_nil

theorem events_flatMap {α : Type} {f : α → List (Instr × List Nat)} (hf : ∀ x, Events (f x)) (l : List α) :
    Events (l.flatMap f) := by
  intro e he
  obtain ⟨x, -, hx⟩ := List.mem_flatMap.1 he
  exact hf x e hx

theorem events_gateStalls (s launch gate) : Events (gateStalls s launch gate) := by
  unfold gateStalls
  split <;> simp (disch := decide)

theorem events_gangEvents (s g) : Events (gangEvents s g) := by
  unfold gangEvents
  split <;> simp (disch := decide) [events_gateStalls]

theorem events_cmdEvents (s core c) : Events (cmdEvents s core c) := by
  unfold cmdEvents
  split <;> simp (disch := decide) [events_gateStalls]

theorem events_first (s) : Events (first s) := by
  simp (disch := decide) [first]

theorem events_enabled (s) : Events (enabled s) := by
  have hcore : ∀ k, Events (coreEvents s k) := fun k => by
    simp (disch := decide) [coreEvents, events_flatMap (events_cmdEvents s k)]
  have hcopy : ∀ c, Events (copyEvents s c) := fun c => by simp (disch := decide) [copyEvents]
  have hlaunch : ∀ L, Events (launchEvents s L) := fun L => by simp (disch := decide) [launchEvents]
  simp (disch := decide) [enabled, events_flatMap (events_gangEvents s), events_flatMap hcore, events_flatMap hcopy,
    events_flatMap hlaunch]
  split <;> simp (disch := decide)

/-- What comes due, where the agenda names events alone, is an event. -/
theorem encode_of_due {s t : State} {i : Instr} (ha : ∀ w ∈ s.agenda, ∀ i f, w = .event i f → encode i = 0)
    (hd : due s = (t, some i)) : encode i = 0 := by
  rcases hs : s.agenda with _ | ⟨w, r⟩
  · obtain ⟨j, f, n, hm, hj⟩ | ⟨-, n, hj⟩ := due_of_agenda_nil hs
    · rw [hd] at hj
      cases hj
      split at hm
      · exact events_enabled s _ hm
      · exact events_first s _ hm
    · rw [hd] at hj
      cases hj
  · cases w <;> rw [due, hs] at hd <;> cases hd
    exact ha _ (by rw [hs]; exact List.mem_cons_self) _ _ rfl

/-- Settles O59: every form of an instruction and every event ends in a next state. -/
theorem nothingStops : Obligations.NothingStops := by
  unfold Obligations.NothingStops
  refine ⟨fun i s h => exec_eq_next h i, fun i s hi => exec_event_eq_next hi s, fun s h => ?_, fun s hs ha => ?_⟩
  · obtain ⟨⟨g, c⟩, hi⟩ := Option.isSome_iff_exists.1 h
    rw [step_of_issuer hi]
    obtain ⟨t, ht, -⟩ | ⟨hn, -⟩ := runs_stepIssued s
    · exact ⟨t, ht⟩
    · simp [hn] at h
  · rcases hd : due s with ⟨t, _ | i⟩
    · exact ⟨t, step_of_due_none hs hd⟩
    · rw [step_of_due_event hs hd]
      exact exec_event_eq_next (encode_of_due ha hd) t

/-- Settles O26. -/
theorem bytesAndNumbers : Obligations.BytesAndNumbers := by
  unfold Obligations.BytesAndNumbers
  refine ⟨fun s l bs h => ⟨fun i x hx => ?_, sameBytesBut_writeBytes s l bs h, sameThreads_writeBytes s l bs⟩,
    fun s l n x h => ⟨readNat_writeNat s l n x h, fun i hi => ?_⟩⟩
  · obtain ⟨hi, hx⟩ := List.getElem?_eq_some_iff.1 hx
    simp [readByte_writeBytes s l _ bs h, hi, hx]
  · rw [writeNat, readByte_writeBytes s l _ _ h]
    simp only [Nat.le_add_right, Nat.add_lt_add_iff_left, leOf_length, hi, and_self, if_true, Nat.add_sub_cancel_left,
      leOf_getD n x i hi, BitVec.toNat_ofNat]

end Sys2Proof.Machine
end

section

/-!
# Control, completion and traps
-/

namespace Sys2Proof.Machine

-- One proof at a time: each waiting thread would reserve a stack of its own.
set_option Elab.async false

/-! ### Completion -/

/-- A gang of one lane at a `bar.blk` that has retired already, as a barrier's generation leaves it (R396). -/
def retiredBarrier : ClauseRun := { h := 0, hdr := 0, words := [BitVec.ofNat 32 (encode .barBlk)], act := 1, retired := true }

def retiredGang : Gang := { id := 1, launch := 1, core := 0, slot := none, nregs := 8, threads := [{}], live := 1, frontier := [] }

/-- Refutes O35: a synchronising operation that had retired before it completes is not counted again. -/
theorem not_completion : ¬ Obligations.Completion := by
  unfold Obligations.Completion
  intro h
  obtain ⟨g', n, honly, hrest, -, -, hcount⟩ :=
    h { State.reset with gangs := [retiredGang] } retiredGang retiredBarrier .none rfl rfl (.inr ⟨rfl, rfl⟩)
  have hsyncs : g'.syncs = n := congrArg Gang.syncs hrest.rest
  have hkept : some g' = some _ := honly.own.symm.trans rfl
  have hn : n = 1 := hcount .barBlk (by decide) rfl
  have hzero : g'.syncs = 0 := by
    injection hkept with hg
    rw [hg]
    decide
  omega

/-! ### Fences, waits and the window base -/

@[simp] theorem windowFail_nil (g : Gang) (A : Word) : windowFail g A [] = none := by
  have h : windowLanes g A [] = [] := List.filter_eq_nil_iff.2 fun _ _ => by simp [windowBad]
  rw [windowFail, h]

theorem onlyGang_issued {s : State} {cls : Cls} {g : Gang} {c : ClauseRun} (h : Issues s cls g c) {g' : Gang}
    (hid : g'.id = g.id) : OnlyGang s (issued s g') g g' :=
  issued_only (issuer_gangOf h.issuer).2.1 hid

/-- An instruction that completes with no effect of its own leaves its gang behind it. -/
theorem finish_unchanged {s : State} {cls : Cls} {g : Gang} {c : ClauseRun} (h : Issues s cls g c) :
    ∃ g', OnlyGang s (finish s g c .none) g g' ∧ OnlyThreads g g' ∧ g'.threads = g.threads :=
  ⟨_, finish_only h g rfl .none, completed_only g c .none⟩

theorem laneResult_fence {i : Instr} (he : ∀ s, exec i s = issueFence s) : LaneResult i .none [] fun _ _ _ u v => v = u where
  completes s g c h _ := by
    obtain ⟨g', honly, ht, hl⟩ := finish_unchanged h
    exact ⟨_, g', by rw [he, issueFence, issue_ok h], honly, ht, fun l _ => by simp [thr, hl]⟩
  faults s g c x lanes h hw := by simp at hw
  waits s g c h := by rw [he, issueFence, issue_held h]

/-- What holds an instruction without operands back: an outstanding access that it waits for (R320). -/
theorem heldAt_of_no_operands {s : State} {g : Gang} {c : ClauseRun} {i : Instr} (hi : decodeWord (wordOf c) = .ok i)
    (hp : g.pending = none) (hs : syncInstr i = false) (ho : operandsOf g (activeMask c) i = [])
    (hr : ∀ r d, i ≠ .sread r d) :
    heldAt s g c = if (outstanding g).any fun x => waitsFor g (activeMask c) x.2 i then some 3 else none := by
  have hord : ordered (launchD s g.launch) i = false := by simp [ordered, hs]
  have hlock : interlocked g (activeMask c) (operandsOf g (activeMask c) i) = false := by simp [interlocked, ho]
  unfold heldAt
  split
  · next he =>
    have hnone : outstanding g = [] := by simp [outstanding, hp, List.isEmpty_iff.1 he]
    simp [hnone]
  · simp only [hi, hord, heldBy, hlock]
    cases i
    case sread r d => exact absurd rfl (hr r d)
    all_goals simp

/-- A release store waits for every access of its lanes, an interlock of its own operands apart (R54, R320). -/
theorem heldAt_of_waitsFor {s : State} {g : Gang} {c : ClauseRun} {i : Instr} (hi : decodeWord (wordOf c) = .ok i)
    (hp : g.pending = none) (hs : syncInstr i = false)
    (hw : ∃ x ∈ outstanding g, waitsFor g (activeMask c) x.2 i = true) : heldAt s g c = some 2 ∨ heldAt s g c = some 3 := by
  have hord : ordered (launchD s g.launch) i = false := by simp [ordered, hs]
  have hany : ((outstanding g).any fun x => waitsFor g (activeMask c) x.2 i) = true := List.any_eq_true.2 hw
  have hpassed : g.passed.isEmpty = false := by
    obtain ⟨x, hx, -⟩ := hw
    cases hps : g.passed with
    | nil => simp [outstanding, hp, hps] at hx
    | cons _ _ => rfl
  simp only [heldAt, hpassed, hi, hord, heldBy, hany]
  by_cases hl : interlocked g (activeMask c) (operandsOf g (activeMask c) i) = true <;> simp [hl]

/-- Settles O15. -/
theorem noEffectAndWaitResults : Obligations.NoEffectAndWaitResults := by
  unfold Obligations.NoEffectAndWaitResults
  refine ⟨⟨?fences, fun n => ⟨laneResult_fence fun _ => rfl, laneResult_fence fun _ => rfl⟩⟩, ?held, ?gang⟩
  case fences =>
    simp only [List.forall_mem_cons, List.not_mem_nil, false_imp_iff, implies_true, and_true]
    exact ⟨laneResult_fence fun _ => rfl, laneResult_fence fun _ => rfl, laneResult_fence fun _ => rfl,
      laneResult_fence fun _ => rfl, laneResult_fence fun _ => rfl, laneResult_fence fun _ => rfl,
      laneResult_fence fun _ => rfl⟩
  case held =>
    intro s g c i hi hp busy
    have hfence (hs : syncInstr i = false) (ho : operandsOf g (activeMask c) i = []) (hr : ∀ r d, i ≠ .sread r d) (reads)
        (hw : ∀ f : Flight, waitsFor g (activeMask c) f i = (inMask (activeMask c) f.lane && (!reads || f.loads))) :
        (heldAt s g c = some 3 ↔ busy reads) ∧ (heldAt s g c = none ↔ ¬ busy reads) := by
      have hbusy : ((outstanding g).any fun x => waitsFor g (activeMask c) x.2 i) = true ↔ busy reads := by
        simp only [List.any_eq_true, hw, busy]
        cases reads <;> simp
      rw [heldAt_of_no_operands hi hp hs ho hr, ← hbusy]
      split <;> simp_all
    refine ⟨fun n h => ?_, fun h => ?_, fun o a d h hbusy => ?_⟩
    · subst h
      exact hfence rfl rfl (fun _ _ => nofun) true fun f => by simp [waitsFor, Flight.loads]
    · simp only [List.mem_cons, List.not_mem_nil, or_false] at h
      obtain ⟨n, rfl⟩ | rfl | rfl | rfl | rfl | rfl | rfl := h
      all_goals exact hfence rfl rfl (fun _ _ => nofun) false fun f => by simp [waitsFor]
    · obtain ⟨x, hx, hlane, -⟩ := hbusy
      obtain rfl | rfl := h
      all_goals exact heldAt_of_waitsFor hi hp rfl ⟨x, hx, hlane⟩
  case gang =>
    intro s g c h
    refine ⟨fun f hf => ?_, fun f hf => ?_, ?_, ?_⟩
    · obtain ⟨g', hg⟩ := finish_unchanged h
      exact ⟨_, g', by rw [exec_wait, execWait, issue_ok h, if_pos hf], hg⟩
    · exact ⟨_, by rw [exec_wait, execWait, issue_ok h, if_neg (by simp [hf])], onlyGang_issued h rfl⟩
    · have honly := finish_only h { g with yielded := true, yieldFor := none, aging := 0 } rfl .none
      exact ⟨_, _, by rw [exec_yield, execYield, issue_ok h], honly, completed_only _ _ _⟩
    · have hbase (i : Instr) (new : Thread → Int) (he : exec i s = setWbase s new) :
          ((∀ l ∈ lanesOf (activeMask c), 0 ≤ new (thr g l) ∧ new (thr g l) ≤ 248) →
            ∃ t g', exec i s = .next t ∧ OnlyGang s t g g' ∧ OnlyThreads g g' ∧
              EachLane g g' (activeMask c) fun _ u v => v = { u with wbase := (new u).toNat }) ∧
          (∀ l ls, ((lanesOf (activeMask c)).filter fun l => new (thr g l) < 0 || 248 < new (thr g l)) = l :: ls →
            exec i s = .next (failAt s g c .none 0x03 (BitVec.ofNat 64 (BitVec.ofInt 32 (new (thr g l))).toNat)
              (maskOf (l :: ls)) 0)) := by
        refine ⟨fun hin => ?_, fun l ls hout => ?_⟩
        · have hnone : ((lanesOf (activeMask c)).filter fun l => new (thr g l) < 0 || 248 < new (thr g l)) = [] :=
            List.filter_eq_nil_iff.2 fun l hl => by
              have := hin l hl
              simp [this]
          obtain ⟨honly, hthreads⟩ := lanes_finish h (activeMask c) (fun _ t => { t with wbase := (new t).toNat }) .none
          exact ⟨_, _, by rw [he, setWbase, issue_ok h, hnone], honly, hthreads, eachLane_completed _ _ _ _ _ fun _ _ _ => rfl⟩
        · rw [he, setWbase, issue_ok h, hout]
          rfl
      simp only [List.forall_mem_cons, List.not_mem_nil, false_imp_iff, implies_true, and_true]
      refine ⟨fun n hn => ?_, fun n _ => hbase (.wbaseAbs n) (fun _ => (8 * (n % 32) : Nat)) rfl⟩
      have hsext : sext n 6 = if n < 32 then (n : Int) else (n : Int) - 64 := sext_of_lt hn
      exact hbase (.wbaseRel n) (fun t => (t.wbase : Int) + 8 * (if n < 32 then (n : Int) else (n : Int) - 64)) (by
        rw [← hsext]
        rfl)

/-! ### `trap` and `tfence` -/

theorem onlyThreads_retire (g : Gang) (c : ClauseRun) : OnlyThreads g (retire g c) := by
  obtain ⟨rc, sh, pa, h, hf⟩ := retire_rest g c
  rw [h]
  exact ⟨rfl, hf, rfl, fun _ => rfl⟩

theorem eachLane_mapLanes {g : Gang} {A : Word} {f : Nat → Thread → Thread} {F : Nat → Thread → Thread → Prop}
    (hF : ∀ l, l < g.threads.length → inMask A l = true → F l (thr g l) (f l (thr g l))) : EachLane g (mapLanes A f g) A F := by
  intro l hl
  rw [thr_mapLanes A f g l hl]
  split
  · next hm => exact hF l hl hm
  · next hm => rfl

theorem getLsbD_foldl_or (f : Nat → Word) (k : Nat) (ls : List Nat) (w : Word) :
    (ls.foldl (fun w l => w ||| f l) w).getLsbD k = true ↔ w.getLsbD k = true ∨ ∃ l ∈ ls, (f l).getLsbD k = true := by
  induction ls generalizing w with
  | nil => simp
  | cons l ls ih => simp [ih, or_assoc]

/-- Settles O21. -/
theorem trapResults : Obligations.TrapResults := by
  unfold Obligations.TrapResults
  intro s g c h
  refine ⟨fun k => ⟨retire g c, ?_, onlyThreads_retire g c, ?_⟩, fun hnone => ?_, fun T hT hne => ?_⟩
  · obtain ⟨rc, sh, pa, hr, -⟩ := retire_rest g c
    rw [exec_trap, execTrap, issue_ok h, hr]
    rfl
  · obtain ⟨rc, sh, pa, hr, -⟩ := retire_rest g c
    rw [hr]
    exact ⟨rfl, rfl, rfl⟩
  · have hlanes : ((lanesOf (activeMask c)).filter fun l => selected (thr g l) != 0) = [] :=
      List.filter_eq_nil_iff.2 fun l hl => by
        have hzero : selected (thr g l) = 0 := hnone l hl
        simp [hzero]
    obtain ⟨g', hg⟩ := finish_unchanged h
    exact ⟨_, g', by rw [exec_tfence, execTfence, issue_ok h, hlanes]; rfl, hg⟩
  · have hlanes : maskOf ((lanesOf (activeMask c)).filter fun l => selected (thr g l) != 0) = T := by
      simp [hT, selected, bne, beq_eq_decide]
    refine ⟨mapLanes T (fun _ t => { t with aflags := t.aflags &&& ~~~t.amask }) g,
      (lanesOf T).foldl (fun w l => w ||| selected (thr g l)) 0, ?_, fun k => ?_, rfl, eachLane_mapLanes fun _ _ _ => rfl⟩
    · rw [exec_tfence, execTfence, issue_ok h, hlanes]
      simp only [hne, if_false]
    · rw [getLsbD_foldl_or]
      simp [selected]

/-! ### Taking an exception -/

/-- A launch without a trace writes none (R391). -/
theorem traceOn_of_untraced {s : State} {launch : Nat} (h : (launchD s launch).desc.ntrace = 0) (core type : Nat)
    (gang payload : List Byte) : traceOn s launch core type gang payload = s := by
  unfold traceOn
  split
  · rfl
  · next L hL => rw [if_pos (by simpa [launchD, hL] using h)]

theorem traceGang_of_untraced {s : State} {g : Gang} (h : (launchD s g.launch).desc.ntrace = 0) (type : Nat)
    (payload : List Byte) : traceGang s g type payload = s :=
  traceOn_of_untraced h _ _ _ _

theorem traceTag_of_untraced {s : State} {g : Gang} (h : (launchD s g.launch).desc.ntrace = 0) (f : FaultInfo) :
    traceTag s g f = s := by
  unfold traceTag
  split
  · exact traceGang_of_untraced h _ _
  · rfl

theorem gangOf_setGang_of_isSome {s : State} {g : Gang} (h : (gangOf s g.id).isSome) : gangOf (setGang s g) g.id = some g := by
  obtain ⟨x, hx⟩ := Option.isSome_iff_exists.1 h
  unfold gangOf setGang modGang at *
  rw [findBy_modBy_same (fun _ _ => rfl), hx]
  rfl

/-- The gang that has entered a trap level, field by field (R357). -/
theorem trapGang_eq (s : State) (g : Gang) (f : FaultInfo) (b : Bank) :
    let n := g.level + 1
    let kept := some { b with under := g.under, record := g.record, ready := g.ready }
    trapGang s g f b = { g with
      threads := mapLanesFrom allLanes (fun l t => setSave n t (saveBase s g n + BitVec.ofNat 64 (16 * l))) 0 g.threads,
      level := n, clause := none, fetched := none, pending := none, wait := .none, under := .none, record := none,
      ready := none, gate := none, rec1 := if n = 1 then f.record else g.rec1, rec2 := if n = 1 then g.rec2 else f.record,
      bank1 := if n = 1 then kept else g.bank1, bank2 := if n = 1 then g.bank2 else kept,
      frontier := [{ pc := BitVec.ofNat 64 ((vectorOf (launchD s g.launch).desc n).toNat % 2 ^ 60), prio := 63,
                     mask := (topEntry g).mask, target := true }] } := by
  intro n kept
  unfold trapGang
  rw [withFrontier_short _ _ (by simp)]
  split
  · next h => simp only [h, n, kept]
  · next h => simp only [n, kept]

theorem takeTrap_eq_setGang {s : State} {g : Gang} (f : FaultInfo) (b : Bank) (hl : g.level < 2)
    (ht : (launchD s g.launch).desc.ntrace = 0) (hv : vectorOf (launchD s g.launch).desc (g.level + 1) ≠ 0) :
    takeTrap s g f b = setGang { s with issuing := none } (trapGang s g f b) := by
  have htrace : (launchD (setGang { s with issuing := none } (trapGang s g f b)) g.launch).desc.ntrace = 0 := ht
  unfold takeTrap
  rw [if_pos ⟨hl, hv⟩, traceTag_of_untraced (s := { s with issuing := none }) ht]
  exact traceGang_of_untraced htrace _ _

theorem takeTrap_eq_escalate {s : State} {g : Gang} (f : FaultInfo) (b : Bank)
    (ht : (launchD s g.launch).desc.ntrace = 0)
    (h : g.level ≥ 2 ∨ vectorOf (launchD s g.launch).desc (g.level + 1) = 0) :
    takeTrap s g f b = escalate { s with issuing := none } g f := by
  unfold takeTrap
  rw [if_neg (by rintro ⟨hl, hv⟩; exact h.elim (by omega) hv), traceTag_of_untraced (s := { s with issuing := none }) ht]

/-- The lanes of a gang that takes an exception: the banked pair of the level holds the address of the lane's slot. -/
theorem thr_saveLanes (g : Gang) (n : Nat) (base : Dbl) (l : Nat) {g' : Gang}
    (h : g'.threads = mapLanesFrom allLanes (fun l t => setSave n t (base + BitVec.ofNat 64 (16 * l))) 0 g.threads) :
    (l < g.threads.length → l < 32 → saveOf n (thr g' l) = base + BitVec.ofNat 64 (16 * l)) ∧
      { thr g' l with save1 := (thr g l).save1, save2 := (thr g l).save2 } = thr g l ∧
      (n = 1 → (thr g' l).save2 = (thr g l).save2) ∧ (n = 2 → (thr g' l).save1 = (thr g l).save1) := by
  have hthr : thr g' l = thr (mapLanes allLanes (fun l t => setSave n t (base + BitVec.ofNat 64 (16 * l))) g) l := by
    simp [thr, h, mapLanes]
  by_cases hl : l < g.threads.length
  · rw [hthr, thr_mapLanes _ _ _ _ hl]
    refine ⟨fun _ h32 => ?_, ?_, fun hn => ?_, fun hn => ?_⟩
    · have hall : inMask allLanes l = true := by
        simp only [inMask, allLanes]
        interval_cases l <;> rfl
      rw [if_pos hall, saveOf, setSave]
      split <;> rfl
    · unfold setSave
      split
      · split <;> rfl
      · rfl
    · subst hn
      split <;> rfl
    · subst hn
      split <;> rfl
  · have hsame : thr g' l = thr g l := by
      have h' : g.threads.length ≤ l := by omega
      rw [hthr, thr, thr, mapLanes, List.getElem?_eq_none h',
        List.getElem?_eq_none (by rw [mapLanesFrom_length]; exact h')]
    exact ⟨fun h => absurd h hl, by rw [hsame], fun _ => by rw [hsame], fun _ => by rw [hsame]⟩

theorem launchOf_modLaunch_same (s : State) {id : Nat} {f : Launch → Launch} (hf : ∀ L, (f L).id = L.id) :
    launchOf (modLaunch s id f) id = (launchOf s id).map f :=
  findBy_modBy_same (fun L hL => (hf L).trans hL) s.launches

/-- The end that an exception decides without a level to go to (R364). -/
theorem launchOf_escalate (s : State) (g : Gang) (f : FaultInfo) {L : Launch} (hL : launchOf s g.launch = some L) :
    ∃ L', launchOf (escalate s g f) g.launch = some L' ∧ L'.kill.isSome ∧
      (L.ending = none → L.state ≠ .done → L'.ending = some 8 ∧ L'.cause = 0x7F ∧ L'.pc = f.pc ∧ L'.loc = f.loc) ∧
      (L.ending ≠ none → L'.ending = L.ending) := by
  unfold escalate beginEnd
  rw [launchOf_modLaunch_same _ (fun L => by split <;> rfl), launchOf_modLaunch_same _ (fun L => by split <;> rfl)]
  have hset : launchOf (setGang s { g with wait := .stopped, pending := none, gate := none }) g.launch = some L := hL
  rw [hset]
  refine ⟨_, rfl, ?_, fun hend hstate => ?_, fun hend => ?_⟩
  · dsimp only
    split <;> split <;> simp_all
  · simp only [hend, beq_eq_false_iff_ne.2 hstate, Option.isSome_none, Bool.or_self, Bool.false_eq_true, if_false]
    split <;> exact ⟨rfl, rfl, rfl, rfl⟩
  · have hsome : L.ending.isSome = true := Option.isSome_iff_ne_none.2 hend
    simp only [hsome, Bool.true_or, if_true]
    split <;> rfl

/-- Settles O20. -/
theorem takingAnException : Obligations.TakingAnException := by
  unfold Obligations.TakingAnException
  refine ⟨?_, fun s g f b hs ht h => ?_⟩
  · intro s g f b hs hl ht n vector hv
    have htrap : takeTrap s g f b = setGang { s with issuing := none } (trapGang s g f b) := takeTrap_eq_setGang f b hl ht hv
    have hgang := trapGang_eq s g f b
    have hid : (trapGang s g f b).id = g.id := by rw [hgang]
    have hown : gangOf (setGang { s with issuing := none } (trapGang s g f b)) g.id = some (trapGang s g f b) := by
      rw [← hid]
      exact gangOf_setGang_of_isSome (by rw [hid]; exact hs)
    have hlevel : g.level = 0 ∨ g.level = 1 := by omega
    refine ⟨trapGang s g f b, ⟨?_, ?_, ?_, fun k hk => ?_⟩, ?_⟩
    · rw [htrap]
      rfl
    · rw [htrap]
      rfl
    · rw [htrap, hown]
    · rw [htrap, gangOf_setGang_ne _ _ (by rw [hid]; exact hk)]
      rfl
    · have hlane := fun l => thr_saveLanes g n (saveBase s g n) l (congrArg Gang.threads hgang)
      refine ⟨by rw [hgang], ?_, ?_, by rw [hgang], by rw [hgang], by rw [hgang], by rw [hgang], fun k hk hkn => ?_,
        by rw [hgang]; rfl, by rw [hgang], by rw [hgang], by rw [hgang], by rw [hgang], ?_, fun l hl h32 => (hlane l).1 hl h32,
        fun l => (hlane l).2.1, fun l => (hlane l).2.2⟩
      · rw [hgang]
        obtain h | h := hlevel <;> simp [recOf, FaultInfo.record, n, h]
      · rw [hgang]
        obtain h | h := hlevel <;> simp [bankOf, n, h]
      · rw [hgang]
        obtain rfl | rfl := hk <;> obtain h | h := hlevel <;> simp_all [recOf, bankOf, n]
      · rw [hgang]
  · have htrap := takeTrap_eq_escalate f b ht h
    have hown : gangOf (escalate { s with issuing := none } g f) g.id =
        some { g with wait := .stopped, pending := none, gate := none } :=
      gangOf_setGang_of_isSome (s := { s with issuing := none }) (g := { g with wait := .stopped, pending := none, gate := none }) hs
    rw [htrap]
    refine ⟨_, hown, rfl, rfl, rfl, fun k hk => ?_, rfl, fun L hL => launchOf_escalate _ g f hL⟩
    exact gangOf_setGang_ne _ _ hk

end Sys2Proof.Machine
end

section

/-!
# The ends of clauses: branches, returns, exits
-/

namespace Sys2Proof.Machine

-- One proof at a time: each waiting thread would reserve a stack of its own.
set_option Elab.async false

/-! ### The end of a clause -/

section
variable {s : State} {g : Gang} {c : ClauseRun} {es : List Entry}

theorem endClause_of_not_fits (h : spillFits g.slab (replaceTop g es) = false) (stops : Bool) :
    endClause s g c es stops = faultAt (lackingSlot s).2 g c 0x15 (lackingSlot s).1 (activeMask c) 0 := by
  simp [endClause, h]

theorem endClause_of_stop (h : spillFits g.slab (replaceTop g es) = true) (hm : mustStop s g = true) :
    endClause s g c es true = stopGang (issued s (transferred g c es)) (transferred g c es) := by
  simp [endClause, h, hm]

theorem endClause_of_fits (h : spillFits g.slab (replaceTop g es) = true) {stops : Bool}
    (hm : stops = true → mustStop s g = false) : endClause s g c es stops = issued s (transferred g c es) := by
  cases stops <;> simp_all [endClause]

end

/-- A gang that has left its clause: its position changes, and the spill slots of a long frontier (R118, R120). -/
theorem transferred_only (g : Gang) (c : ClauseRun) (es : List Entry) :
    OnlyThreads g (transferred g c es) ∧ (transferred g c es).threads = g.threads ∧ (transferred g c es).id = g.id ∧
      (transferred g c es).clause = none ∧ (transferred g c es).wait = .none ∧
      (transferred g c es).frontier = replaceTop g es := by
  obtain ⟨rc, sh, pa, hr, hf⟩ := retire_rest g c
  unfold transferred
  rw [hr, withFrontier_rest]
  exact ⟨⟨rfl, hf, rfl, fun hl => by rw [withFrontier_short _ _ hl]⟩, rfl, rfl, rfl, rfl, rfl⟩

theorem eachLane_of_threads {g g' x : Gang} {A : Word} {F : Nat → Thread → Thread → Prop} (h : g'.threads = x.threads)
    (hx : EachLane g x A F) : EachLane g g' A F := by
  intro l hl
  have hthr : thr g' l = thr x l := by simp only [thr, h]
  rw [hthr]
  exact hx l hl

theorem eachLane_transferred {g : Gang} {c : ClauseRun} {es : List Entry} {A : Word} {f : Nat → Thread → Thread}
    {F : Nat → Thread → Thread → Prop} (hF : ∀ l, l < g.threads.length → inMask A l = true → F l (thr g l) (f l (thr g l))) :
    EachLane g (transferred (mapLanes A f g) c es) A F := by
  obtain ⟨-, hthreads, -⟩ := transferred_only (mapLanes A f g) c es
  exact eachLane_of_threads hthreads (eachLane_mapLanes hF)

/-- A gang whose threads alone have changed leaves its clause as the gang before would. -/
theorem transferred_mapLanes_only (g : Gang) (c : ClauseRun) (es : List Entry) (A : Word) (f : Nat → Thread → Thread) :
    OnlyThreads g (transferred (mapLanes A f g) c es) := by
  obtain ⟨h, -⟩ := transferred_only (mapLanes A f g) c es
  have hl := onlyThreads_mapLanes A f g
  exact ⟨congrArg (fun x : Gang => { x with threads := g.threads }) h.rest, h.flights, h.lanes.trans hl.lanes, h.slabs⟩

theorem toNat_jTarget (h : Dbl) {o : Nat} (ho : o < 2 ^ 20) :
    ((jTarget h o).toNat : Int) = ((h.toNat : Int) + 4 * (if o < 2 ^ 19 then (o : Int) else (o : Int) - 2 ^ 20)) % 2 ^ 60 := by
  rw [jTarget, sext_of_lt ho, wrapN, BitVec.toNat_ofNat]
  norm_num
  split <;> omega

/-- The gang of a call, with the link in `g2.d` of the active lanes (R127). -/
def linked (g : Gang) (c : ClauseRun) : Gang := mapLanes (activeMask c) (fun _ t => wrPair g.level t 2 (linkOf g c)) g

theorem replaceTop_linked (g : Gang) (c : ClauseRun) (es : List Entry) : replaceTop (linked g c) es = replaceTop g es := rfl

theorem mustStop_linked (s : State) (g : Gang) (c : ClauseRun) : mustStop s (linked g c) = mustStop s g := rfl

/-- Settles O17. -/
theorem branchResults : Obligations.BranchResults := by
  unfold Obligations.BranchResults
  intro s g c p o h next es
  have hbra : exec (.bra p o) s = .next (endClause s g c es true) := by
    rw [exec_bra, execBra, issue_ok h]
    rfl
  have hcall (hw : windowFail g (activeMask c) [.pair 2] = none) (hf : spillFits g.slab (replaceTop g es) = true) :
      exec (.call p o) s =
        .next (endClause s (linked g c) c es true) := by
    rw [exec_call, execCall, issue_ok h, hw]
    change Host.Outcome.next (if (!spillFits g.slab (replaceTop g es)) = true then _ else _) = _
    rw [hf]
    rfl
  have hcall' (hw : windowFail g (activeMask c) [.pair 2] = none) (hf : spillFits g.slab (replaceTop g es) = false) :
      exec (.call p o) s = .next (endClause s g c es true) := by
    rw [exec_call, execCall, issue_ok h, hw]
    change Host.Outcome.next (if (!spillFits g.slab (replaceTop g es)) = true then _ else _) = _
    rw [hf]
    rfl
  have hwrites : EachLane g (linked g c) (activeMask c) fun _ u v => WritesPair g.level u v 2 (linkOf g c) :=
    eachLane_mapLanes fun _ _ _ => wrPair_writes _ _ _ _ rfl
  refine ⟨toNat_jTarget c.h, fun hf hm => ⟨?_, fun hw => ?_⟩, fun hf hm => ⟨?_, fun hw => ?_⟩, fun hf => ⟨?_, fun hw => ?_⟩,
    fun x lanes hw => ?_⟩
  · obtain ⟨ht, hthr, hid, hcl, hwt, hfr⟩ := transferred_only g c es
    exact ⟨_, _, by rw [hbra, endClause_of_fits hf fun _ => hm], onlyGang_issued h hid, ht, hthr, hcl, hwt, hfr⟩
  · obtain ⟨-, -, hid, hcl, hwt, hfr⟩ := transferred_only (linked g c) c es
    have hend : endClause s (linked g c) c es true = issued s (transferred (linked g c) c es) :=
      endClause_of_fits (by rw [replaceTop_linked]; exact hf) fun _ => by rw [mustStop_linked, hm]
    exact ⟨_, _, by rw [hcall hw hf, hend], onlyGang_issued h hid, transferred_mapLanes_only g c es _ _,
      eachLane_transferred fun _ _ _ => wrPair_writes _ _ _ _ rfl, hcl, hwt, hfr⟩
  · rw [hbra, endClause_of_stop hf hm]
  · have hend : endClause s (linked g c) c es true =
        stopGang (issued s (transferred (linked g c) c es)) (transferred (linked g c) c es) :=
      endClause_of_stop (by rw [replaceTop_linked]; exact hf) (by rw [mustStop_linked, hm])
    exact ⟨linked g c, rfl, hwrites, by rw [hcall hw hf, hend]⟩
  · rw [hbra, endClause_of_not_fits hf]
  · rw [hcall' hw hf, endClause_of_not_fits hf]
  · rw [exec_call, execCall, issue_ok h, hw]

/-! ### Transfers lane by lane -/

theorem length_eraseDups_le {α : Type} [BEq α] [LawfulBEq α] : ∀ l : List α, l.eraseDups.length ≤ l.length
  | [] => by simp
  | a :: l => by
    rw [List.eraseDups_cons, List.length_cons, List.length_cons]
    exact Nat.succ_le_succ ((length_eraseDups_le _).trans (List.length_filter_le _ _))
termination_by l => l.length
decreasing_by exact Nat.lt_succ_of_le (List.length_filter_le _ _)

theorem length_insertEntry_le (fr : List Entry) (e : Entry) : (insertEntry fr e).length ≤ fr.length + 1 := by
  obtain ⟨m, hm, -⟩ := insertEntry_cases fr e
  rw [hm, (placeEntry_perm m _).length_eq]
  exact Nat.succ_le_succ (List.length_filter_le _ _)

theorem length_insertEntries_le (es fr : List Entry) : (insertEntries fr es).length ≤ fr.length + es.length := by
  have hfold (l : List Entry) : ∀ fr : List Entry, (l.foldl insertEntry fr).length ≤ fr.length + l.length := by
    induction l with
    | nil => simp
    | cons e l ih =>
      intro fr
      have := ih (insertEntry fr e)
      have := length_insertEntry_le fr e
      simp only [List.foldl_cons, List.length_cons]
      omega
  have := hfold (es.filter fun e => e.mask != 0) fr
  have := List.length_filter_le (fun e : Entry => e.mask != 0) es
  unfold insertEntries
  omega

theorem failsOf_eq_nil {α : Type} {rs : List (Except LaneFail α)} : failsOf rs = [] ↔ ∀ r ∈ rs, ∃ x, r = .ok x := by
  induction rs with
  | nil => simp [failsOf]
  | cons r rs ih => cases r <;> simp [failsOf, ih]

/-- The entries that a transfer lane by lane inserts: one for each target, with the lanes that go there (R128). -/
def targetEntries (ls : List Nat) (goal : Nat → Dbl × Nat) : List Entry :=
  (ls.map goal).eraseDups.map fun p =>
    { pc := p.1, prio := p.2, mask := maskOf (ls.filter fun l => goal l == p), target := true }

theorem length_targetEntries_le (ls : List Nat) (goal : Nat → Dbl × Nat) : (targetEntries ls goal).length ≤ ls.length := by
  rw [targetEntries, List.length_map]
  exact (length_eraseDups_le _).trans (List.length_map _).le

theorem mem_targetEntries (A : Word) (goal : Nat → Dbl × Nat) {l : Nat} (hl : l < 32) (pc : Dbl) (prio : Nat) :
    (∃ e ∈ targetEntries (lanesOf A) goal, e.pc = pc ∧ e.prio = prio ∧ inMask e.mask l = true) ↔
      inMask A l = true ∧ goal l = (pc, prio) := by
  constructor
  · rintro ⟨e, he, rfl, rfl, hm⟩
    obtain ⟨p, -, rfl⟩ := List.mem_map.1 he
    obtain ⟨hA, hp⟩ := List.mem_filter.1 ((inMask_maskOf hl _).1 hm)
    exact ⟨mem_lanesOf.1 hA, by simpa using hp⟩
  · rintro ⟨hA, hg⟩
    have hmem := mem_lanesOf.2 hA
    refine ⟨_, List.mem_map.2 ⟨(pc, prio), List.mem_eraseDups.2 (List.mem_map.2 ⟨l, hmem, hg⟩), rfl⟩, rfl, rfl, ?_⟩
    exact (inMask_maskOf hl _).2 (List.mem_filter.2 ⟨hmem, by simp [hg]⟩)

theorem spillFits_iff {slab : Nat} {fr : List Entry} : spillFits slab fr = true ↔ fr.length ≤ 16 ∨ 16 ≤ slab := by
  unfold spillFits
  rw [Bool.or_eq_true]
  exact or_congr decide_eq_true_iff decide_eq_true_iff

section
variable {s : State} {g : Gang} {c : ClauseRun} {tgt : Thread → Dbl × Nat}

theorem transferEach_of_ok (h : ∀ l ∈ lanesOf (activeMask c), targetFail l (tgt (thr g l)).1 = .ok ()) (stops : Bool) :
    transferEach s g c tgt stops =
      endClause s g c (targetEntries (lanesOf (activeMask c)) (fun l => tgt (thr g l)) ++ [restEntry g c]) stops := by
  have hok : failsOf (((lanesOf (activeMask c)).map fun l => (l, tgt (thr g l))).map fun x => targetFail x.1 x.2.1) = [] :=
    failsOf_eq_nil.2 fun r hr => by
      simp only [List.map_map, List.mem_map, Function.comp_apply] at hr
      obtain ⟨l, hl, rfl⟩ := hr
      exact ⟨(), h l hl⟩
  unfold transferEach
  dsimp only
  rw [hok]
  simp only [targetEntries, List.map_map, List.filter_map, Function.comp_def, List.map_id']

theorem transferEach_of_fails {f : LaneFail} {fs : List LaneFail}
    (h : failsOf ((lanesOf (activeMask c)).map fun l => targetFail l (tgt (thr g l)).1) = f :: fs) (stops : Bool) :
    transferEach s g c tgt stops = failAt s g c .none f.cause f.loc (failMask (f :: fs)) 0 := by
  unfold transferEach
  simp only [List.map_map, Function.comp_def, h]

end

theorem targetFail_eq (l : Nat) (t : Dbl) : targetFail l t =
    if t.toNat / 2 ^ 56 % 16 ≠ 0 ∧ t.toNat / 2 ^ 56 % 16 ≠ 15 then .error ⟨l, 0x13, t, 0⟩
    else if apertureOf t ≠ .global then .error ⟨l, 0x15, t, 0⟩ else if t.toNat % 4 ≠ 0 then .error ⟨l, 0x02, t, 0⟩ else .ok () := by
  have hcanon : canonical t = false ↔ t.toNat / 2 ^ 56 % 16 ≠ 0 ∧ t.toNat / 2 ^ 56 % 16 ≠ 15 := by
    by_cases hb : t.toNat / 2 ^ 56 % 2 = 1
    · simp only [canonical, bit, bits, hb, beq_self_eq_true, if_true, beq_eq_false_iff_ne]
      omega
    · simp only [canonical, bit, bits, beq_iff_eq, hb, if_false, beq_eq_false_iff_ne]
      omega
  unfold targetFail
  by_cases hc : canonical t = false
  · rw [if_pos (hcanon.1 hc)]
    simp [hc]
  · rw [if_neg (mt hcanon.2 hc)]
    simp only [Bool.not_eq_false] at hc
    simp [hc]

/-- Settles O18. -/
theorem returnResults : Obligations.ReturnResults := by
  unfold Obligations.ReturnResults
  intro i pairNo stops tgt hi
  have hexec : ∀ s g c, Issues s .none g c →
      (∀ x lanes, windowFail g (activeMask c) [.pair pairNo] = some (x, lanes) →
        exec i s = .next (faultAt s g c 0x03 (BitVec.ofNat 64 x) lanes 0)) ∧
      (windowFail g (activeMask c) [.pair pairNo] = none →
        exec i s = .next (transferEach s g c (fun t => tgt (rdPair g.level t pairNo)) stops)) := by
    intro s g c h
    obtain ⟨rfl, rfl, rfl, rfl⟩ | ⟨p, rfl, rfl, rfl⟩ := hi
    · have hlink : (fun v : Dbl => (BitVec.ofNat 64 (v.toNat % 2 ^ 57 + if v.getLsbD 56 then 7 * 2 ^ 57 else 0), v.toNat / 2 ^ 58)) =
          linkTarget := by
        funext v
        have h58 : v.toNat / 2 ^ 58 % 2 ^ 6 = v.toNat / 2 ^ 58 := by omega
        simp only [linkTarget, bits, bit, pow_zero, Nat.div_one, h58, BitVec.getLsbD, Nat.testBit_eq_decide_div_mod_eq,
          beq_eq_decide]
      rw [hlink]
      exact ⟨fun x lanes hw => by rw [exec_ret, execRet, issue_ok h, hw], fun hw => by rw [exec_ret, execRet, issue_ok h, hw]⟩
    · exact ⟨fun x lanes hw => by rw [exec_jmpi, execJmpi, issue_ok h, hw], fun hw => by rw [exec_jmpi, execJmpi, issue_ok h, hw]⟩
  refine ⟨targetFail_eq, fun s g c x lanes h hw => (hexec s g c h).1 x lanes hw, ?_⟩
  intro s g c h hw goal
  have hrun := (hexec s g c h).2 hw
  obtain ⟨es, hes⟩ : ∃ es, es = targetEntries (lanesOf (activeMask c)) goal ++ [restEntry g c] := ⟨_, rfl⟩
  have hgo (hok : ∀ l ∈ lanesOf (activeMask c), targetFail l (goal l).1 = .ok ()) :
      exec i s = .next (endClause s g c es stops) := by
    rw [hrun, hes]
    exact congrArg _ (transferEach_of_ok hok stops)
  refine ⟨fun hok => ?_, fun hok hstop hroom => ?_, fun f fs hf => ?_⟩
  · refine ⟨targetEntries (lanesOf (activeMask c)) goal, fun l hl => mem_targetEntries _ goal hl, fun hf => ?_, fun hf hs hm => ?_⟩
    · have hf' : spillFits g.slab (replaceTop g es) = false := by
        rw [hes]
        exact hf
      rw [hgo hok, endClause_of_not_fits hf']
    · have hf' : spillFits g.slab (replaceTop g es) = true := by
        rw [hes]
        exact hf
      subst hs
      rw [hgo hok, endClause_of_stop hf' hm, hes]
      rfl
  · have hlen := length_insertEntries_le es g.frontier.tail
    have htargets := length_targetEntries_le (lanesOf (activeMask c)) goal
    have hes' : es.length = (targetEntries (lanesOf (activeMask c)) goal).length + 1 := by rw [hes]; exact List.length_append
    have hf : spillFits g.slab (replaceTop g es) = true := by
      have hheld : (replaceTop g es).length ≤ 16 ∨ 16 ≤ g.slab := by
        unfold replaceTop
        omega
      exact spillFits_iff.2 hheld
    obtain ⟨ht, hthr, hid, hcl, hwt, hfr⟩ := transferred_only g c es
    refine ⟨_, _, targetEntries (lanesOf (activeMask c)) goal, by rw [hgo hok, endClause_of_fits hf hstop],
      onlyGang_issued h hid, ht, hthr, hcl, hwt, ?_, fun l hl => mem_targetEntries _ goal hl⟩
    rw [hfr, hes]
    rfl
  · rw [hrun]
    exact congrArg _ (transferEach_of_fails (tgt := fun t => tgt (rdPair g.level t pairNo)) hf stops)

/-! ### `exit` -/

theorem drainGang_of_none_outstanding {s : State} {g : Gang} (hg : gangOf s g.id = some g) (h : outstanding g = []) :
    drainGang s g.id = s := by
  simp [drainGang, hg, h, drainLoop]

/-- Copies that no fault has stopped are left to go on: the list of copies alone changes (R234). -/
theorem orphanCopies_of_not_stopped {s : State} {gang : Nat}
    (h : ∀ x ∈ s.copies, x.gang = gang → ∀ ca lo del n, x.state ≠ .stopped ca lo del n) (lanes : Word) :
    ∃ cs, orphanCopies s gang lanes = { s with copies := cs } := by
  unfold orphanCopies
  have hmine : ∀ x ∈ s.copies.filter fun c => c.gang == gang && inMask lanes c.lane,
      ∀ ca lo del n, x.state ≠ .stopped ca lo del n := fun x hx => by
    obtain ⟨hmem, hgang⟩ := List.mem_filter.1 hx
    rw [Bool.and_eq_true, beq_iff_eq] at hgang
    exact h x hmem hgang.1
  revert hmine
  generalize s.copies.filter (fun c => c.gang == gang && inMask lanes c.lane) = l
  dsimp only
  generalize (((gangOf s gang).map gangBytes).getD []) = who
  intro hmine
  clear h
  induction l generalizing s with
  | nil => exact ⟨s.copies, rfl⟩
  | cons x l ih =>
    obtain ⟨hx, hl⟩ := List.forall_mem_cons.1 hmine
    rw [List.foldl_cons]
    split
    · next hstop => exact absurd hstop (hx _ _ _ _)
    · obtain ⟨cs, hcs⟩ := ih (s := modCopy s x.id fun x => { x with orphan := true, who := who }) hl
      exact ⟨cs, hcs⟩

/-- The gang whose active lanes have left it (R129). -/
def exited (o : Gang) (c : ClauseRun) : Gang :=
  withFrontier { mapLanes (activeMask c) (fun _ _ => {}) (retire o c) with
    live := o.live &&& ~~~activeMask c, clause := none, wait := .none } (replaceTop o [restEntry o c])

theorem exited_id (o : Gang) (c : ClauseRun) : (exited o c).id = o.id := by
  obtain ⟨rc, sh, pa, hr, -⟩ := retire_rest o c
  rw [exited, withFrontier_rest, hr]
  rfl

theorem exited_fields (o : Gang) (c : ClauseRun) :
    (exited o c).live = o.live &&& ~~~activeMask c ∧ (exited o c).clause = none ∧ (exited o c).wait = .none ∧
      (exited o c).frontier = replaceTop o [restEntry o c] ∧ EachLane o (exited o c) (activeMask c) fun _ _ v => v = {} := by
  obtain ⟨rc, sh, pa, hr, -⟩ := retire_rest o c
  rw [exited, withFrontier_rest, hr]
  refine ⟨rfl, rfl, rfl, rfl, eachLane_of_threads (x := mapLanes (activeMask c) (fun _ _ => {}) o) rfl ?_⟩
  exact eachLane_mapLanes fun _ _ _ => rfl

theorem retireLanes_eq {s u : State} {g o : Gang} {c : ClauseRun} (hu : u = drainGang s g.id) (ho : gangOf u g.id = some o)
    (h : ∀ x ∈ u.copies, x.gang = g.id → ∀ ca lo del n, x.state ≠ .stopped ca lo del n) :
    ∃ cs, retireLanes s g c = releaseWpts { issued u (exited o c) with copies := cs } g.id (activeMask c) := by
  have hid : o.id = g.id := findBy_key ho
  obtain ⟨cs, hcs⟩ := orphanCopies_of_not_stopped (s := issued u (exited o c)) (gang := g.id) h (activeMask c)
  refine ⟨cs, ?_⟩
  have hret : retireLanes s g c =
      releaseWpts (orphanCopies (issued u (exited o c)) o.id (activeMask c)) o.id (activeMask c) := by
    unfold retireLanes
    rw [← hu]
    dsimp only
    rw [ho]
    rfl
  rw [hret, hid, hcs]

/-- Settles O19. -/
theorem exitAndStopResults : Obligations.ExitAndStopResults := by
  unfold Obligations.ExitAndStopResults
  refine ⟨fun s g c h => ?_, fun s g c h => ?_⟩
  · have hexit : exec .exit s = .next _ := issue_ok h _
    have hg := (issuer_gangOf h.issuer).2.1
    refine ⟨fun hl hf => ?_, fun hl => ?_, fun hl hf ht hlive hp => ?_, fun hl hf hrec => ⟨fun u o hu ho hcopies => ?_, ?_⟩⟩
    · refine ⟨_, ?_, onlyGang_issued h (g' := { g with wait := .flags 0xFFF }) rfl⟩
      rw [hexit]
      simp [hl, hf]
    · rw [hexit]
      simp [hl]
    · have hb : (g.task != 0 && g.live &&& ~~~activeMask c == 0 && recordPoisoned s g.task [1, 2, 3]) = true := by
        rw [hp, beq_iff_eq.2 hlive, bne_iff_ne.2 ht]
        rfl
      rw [hexit]
      simp only [hl, hf, hb]
      rfl
    · obtain ⟨cs, hret⟩ := retireLanes_eq (c := c) hu ho hcopies
      have hid : o.id = g.id := findBy_key ho
      obtain ⟨hlive, hcl, hwt, hfr, hlanes⟩ := exited_fields o c
      refine ⟨fun hnone => by rw [hu, drainGang_of_none_outstanding hg hnone], exited o c, ?_, hlive, hcl, hwt, hfr, hlanes,
        fun k hk => ?_, ?_, ?_, ?_⟩
      · rw [hret, ← hid]
        exact gangOf_setGang_same (hid ▸ ho) (exited_id o c)
      · rw [hret]
        exact gangOf_setGang_ne u _ (by rw [exited_id, hid]; exact hk)
      all_goals
        rw [hret]
        rfl
    · have hpast : exec .exit s = .next (match gangOf (retireLanes s g c) g.id with
          | some g1 => if g1.live != 0 then retireLanes s g c
            else if g1.task = 0 then removeGang (retireLanes s g c) g1.id else taskExit (retireLanes s g c) g1
          | none => retireLanes s g c) := by
        have hb : (g.task != 0 && g.live &&& ~~~activeMask c == 0 && recordPoisoned s g.task [1, 2, 3]) = false := by
          obtain ht | hlive | hp := hrec
          · simp only [ht, bne_self_eq_false, Bool.false_and]
          · simp only [beq_eq_false_iff_ne.2 hlive, Bool.and_false, Bool.false_and]
          · simp only [hp, Bool.and_false]
        rw [hexit]
        simp only [hl, hf, hb]
        rfl
      intro g' hg'
      have hid : g'.id = g.id := findBy_key hg'
      rw [hg'] at hpast
      refine ⟨fun hlive => ?_, fun hlive ht => ?_, fun hlive ht => ?_⟩
      · rw [hpast]
        exact congrArg _ (if_pos (bne_iff_ne.2 hlive))
      · rw [hpast]
        refine congrArg _ ((if_neg ?_).trans ((if_pos ht).trans (by rw [hid])))
        simp [hlive]
      · rw [hpast]
        refine congrArg _ ((if_neg ?_).trans (if_neg ht))
        simp [hlive]
  · have hdie : eventRoom s (coreDie g.core) = eventRoom s (g.core / 1024) := rfl
    have hhalt (hm : mustStop s g = false) : exec .halt s = .next (
        if !eventRoom s (coreDie g.core) then { s with issuing := none } else
        parkTask (postGangEvent (issued s { transferred g c [{ topEntry g with
          pc := nextHeader c.h c.words.length, target := false }] with
          wait := .blocked 11 .resumed (timeOf s g.core) }) g 3 (instrPc c) []) g.task) := by
      rw [exec_halt, execHalt, unlessStopping, h.issuer]
      simp only [hm, Bool.false_eq_true, if_false]
      exact issue_ok h _
    have hbrk (k : Nat) : exec (.brk k) s = .next _ := issue_ok h _
    refine ⟨fun hm => ⟨?_, fun k hon hl => ?_⟩, fun hm hroom => ⟨?_, fun k hon hl => ?_⟩, fun hm hroom => ?_,
      fun k hm hroom hon hl => ?_, fun k hoff => ?_, fun hm => ?_, fun hm => ?_⟩
    · rw [exec_halt, execHalt, unlessStopping, h.issuer]
      simp [hm]
    · rw [hbrk]
      simp [hon, hl, hm]
    · rw [hhalt hm]
      simp [hdie, hroom]
    · rw [hbrk]
      simp [hon, hl, hm, hdie, hroom]
    · rw [hhalt hm]
      simp only [hdie, hroom, Bool.not_true, Bool.false_eq_true, if_false]
      rfl
    · rw [hbrk]
      simp [hon, hl, hm, hdie, hroom]
    · obtain ⟨g', hg'⟩ := finish_unchanged h
      refine ⟨_, g', ?_, hg'⟩
      rw [hbrk]
      obtain hoff | hl := hoff <;> simp [*]
    · obtain ⟨g', hg'⟩ := finish_unchanged h
      exact ⟨_, g', by rw [exec_reclaim, execReclaim, issue_ok h, hm]; rfl, hg'⟩
    · rw [exec_reclaim, execReclaim, issue_ok h, hm]
      rfl

end Sys2Proof.Machine
end

section

/-!
# The return from an exception
-/

namespace Sys2Proof.Machine

-- One proof at a time: each waiting thread would reserve a stack of its own.
set_option Elab.async false

/-- A wait that an exception interrupted: a `join` for the task's children. -/
def interruptedJoin : Bank :=
  { clause := some { h := 0, hdr := 0, words := [BitVec.ofNat 32 (encode (.join 0))], act := 1, retired := true },
    frontier := [], wait := .blocked 5 .joinZero 0, copy := none, copyLane := 0 }

/-- A running task whose record stands in the spill ring, in its first slot (R106). -/
def spilledTask : Task := { die := 0, nbhd := 0, index := 4096, gen := 0, launch := 1, state := 3 }

/-- The gang of that task at the `tret` of its handler. -/
def returningGang : Gang :=
  { id := 1, launch := 1, task := 4096, core := 0, slot := none, nregs := 8, threads := [{}], live := 1, frontier := [],
    level := 1, bank1 := some interruptedJoin,
    clause := some { h := 0, hdr := 0, words := [BitVec.ofNat 32 (encode .tret)], act := 1 } }

/-- The module with that gang; the first GiB of its context is mapped to itself, the spill ring in it. -/
def returningState : State :=
  { State.reset with
    gangs := [returningGang], tasks := [spilledTask], issuing := some 1
    launches := [{ id := 1, die := 0, take := 0, ctx := 0, addr := 0, queue := 0, desc := { spill := 0x1000, nspill := 1 } }]
    dies := [{ mgmt := { ctxtab := 0x8000 } }, {}]
    mem := [⟨0x8002, 1⟩, ⟨0x10000, 1⟩, ⟨0x10002, 2⟩, ⟨0x20000, 1⟩, ⟨0x20002, 3⟩, ⟨0x30000, 0x1F⟩, ⟨0x30001, 0x0C⟩] }

/-- The bytes of a state that an instruction goes on to. -/
def memoryAfter : Step → Memory
  | .next t => t.mem
  | _ => []

/-- The gang waits again, so its task is parked, and the parked state is written to the spill ring. -/
theorem memoryAfter_returningState : memoryAfter (exec .tret returningState) ≠ returningState.mem := by
  decide +kernel

/-- Refutes O22: a return to a wait parks the task again, which writes a task record that stands in the spill ring. -/
theorem not_trapReturn : ¬ Obligations.TrapReturn := by
  unfold Obligations.TrapReturn
  intro h
  have issues : Issues returningState .none returningGang
      { h := 0, hdr := 0, words := [BitVec.ofNat 32 (encode .tret)], act := 1 } :=
    ⟨by decide +kernel, by decide +kernel, by decide +kernel⟩
  obtain ⟨-, -, -, -, waits⟩ := h _ _ _ issues
  obtain ⟨t, g', ran, -, -, -, -, -, -, same⟩ := waits interruptedJoin _ 5 .joinZero 0 (.inl rfl) rfl rfl rfl rfl (by decide) rfl
    (by decide) (by decide +kernel) (by decide)
  exact memoryAfter_returningState (by rw [ran]; exact same)

end Sys2Proof.Machine
end

section

/-!
# Rounding

The value of a magnitude pattern is `Fmt.level` units of the least subnormal, strictly increasing in the pattern also beyond
the largest finite one. `roundCore` finds the pattern whose level lies at or just below the number, and goes up by one where
the mode says so; what the obligations say of a rounded result follows from these two facts.
-/

namespace Sys2Proof.Machine

-- One proof at a time: each waiting thread would reserve a stack of its own.
set_option Elab.async false

/-! ### Shifting out a discarded part -/

/-- Where a number stands between two neighbours. -/
def Rem.Holds (lo x hi : ℝ) : Rem → Prop
  | .exact => x = lo
  | .below => lo < x ∧ x - lo < hi - x
  | .tie => lo < x ∧ x - lo = hi - x
  | .above => hi - x < x - lo ∧ x < hi

theorem Rem.Holds.scale {lo x hi c : ℝ} (hc : 0 < c) : ∀ {r : Rem}, r.Holds lo x hi → r.Holds (lo * c) (x * c) (hi * c)
  | .exact, h => by rw [Rem.Holds] at h ⊢; rw [h]
  | .below, ⟨h, k⟩ => ⟨mul_lt_mul_of_pos_right h hc, by simpa [sub_mul] using mul_lt_mul_of_pos_right k hc⟩
  | .tie, ⟨h, k⟩ => ⟨mul_lt_mul_of_pos_right h hc, by rw [← sub_mul, ← sub_mul, k]⟩
  | .above, ⟨h, k⟩ => ⟨by simpa [sub_mul] using mul_lt_mul_of_pos_right h hc, mul_lt_mul_of_pos_right k hc⟩

/-- The number that an integer and a mark of something below it stand for. -/
def Sticky (m : Nat) (st : Bool) (x : ℝ) : Prop := if st then (m : ℝ) < x ∧ x < m + 1 else x = m

theorem Sticky.le {m : Nat} {st : Bool} {x : ℝ} (h : Sticky m st x) : (m : ℝ) ≤ x := by
  unfold Sticky at h
  split at h
  · exact h.1.le
  · exact h.ge

theorem Sticky.lt {m : Nat} {st : Bool} {x : ℝ} (h : Sticky m st x) : x < m + 1 := by
  unfold Sticky at h
  split at h
  · exact h.2
  · rw [h]
    exact lt_add_one _

theorem Sticky.pos {m : Nat} {st : Bool} {x : ℝ} (h : Sticky m st x) (hx : (m == 0 && !st) = false) : 0 < x := by
  unfold Sticky at h
  split at h
  · exact lt_of_le_of_lt (Nat.cast_nonneg m) h.1
  · next hst =>
    rw [h]
    have : m ≠ 0 := by simpa [Bool.not_eq_true _ ▸ hst] using hx
    exact_mod_cast Nat.pos_of_ne_zero this

theorem shiftOut_holds {m s : Nat} {st : Bool} {x : ℝ} (h : Sticky m st x) (hs : s = 0 → st = false) :
    (shiftOut m s st).2.Holds ((shiftOut m s st).1 * 2 ^ s) x (((shiftOut m s st).1 + 1) * 2 ^ s) := by
  unfold shiftOut
  by_cases h0 : s = 0
  · subst h0
    have hst := hs rfl
    subst hst
    simpa [Rem.Holds, Sticky] using h
  have hhalf : (2 : ℝ) ^ s = 2 * 2 ^ (s - 1) := by rw [← pow_succ', Nat.sub_add_cancel (Nat.pos_of_ne_zero h0)]
  simp only [beq_iff_eq, h0, if_false]
  split
  next hlog =>
    have hm : m + 1 ≤ 2 ^ (s - 1) := lt_of_lt_of_le Nat.lt_log2_self (Nat.pow_le_pow_right two_pos (by omega))
    have hmR : (m : ℝ) + 1 ≤ 2 ^ (s - 1) := by exact_mod_cast hm
    cases hz : (m == 0 && !st)
    · have hpos := h.pos hz
      have hlt := h.lt
      simp only [Rem.Holds, Bool.false_eq_true, if_false, Nat.cast_zero]
      constructor <;> linarith
    · obtain ⟨rfl, rfl⟩ : m = 0 ∧ st = false := by simpa using hz
      simpa [Rem.Holds, Sticky] using h
  next =>
    have hm : (m : ℝ) = ((m / 2 ^ s : Nat) : ℝ) * 2 ^ s + ((m % 2 ^ s : Nat) : ℝ) := by exact_mod_cast (Nat.div_add_mod' m _).symm
    have hr : m % 2 ^ s < 2 ^ s := Nat.mod_lt _ (by positivity)
    have hle := h.le
    have hlt := h.lt
    simp only []
    generalize m % 2 ^ s = r at *
    generalize m / 2 ^ s = n at *
    cases st
    · have hx : x = m := h
      simp only [Bool.not_false, Bool.and_true]
      obtain hc | hc | hc := lt_trichotomy r (2 ^ (s - 1))
      · have hcR : (r : ℝ) < 2 ^ (s - 1) := by exact_mod_cast hc
        by_cases hr0 : r = 0
        · subst hr0
          simp only [beq_self_eq_true, if_true, Rem.Holds]
          simpa [hx] using hm
        · have : (0 : ℝ) < r := by exact_mod_cast Nat.pos_of_ne_zero hr0
          simp only [beq_iff_eq, hr0, if_false, hc, if_true, Rem.Holds]
          constructor <;> linarith
      · have hcR : (r : ℝ) = 2 ^ (s - 1) := by exact_mod_cast hc
        have hpos : (0 : ℝ) < 2 ^ (s - 1) := by positivity
        have hne : 2 ^ (s - 1) ≠ 0 := by positivity
        simp only [beq_iff_eq, hc, hne, if_false, lt_irrefl, if_true, Rem.Holds]
        constructor <;> linarith
      · have hcR : (2 : ℝ) ^ (s - 1) < r := by exact_mod_cast hc
        have hrR : (r : ℝ) < 2 ^ s := by exact_mod_cast hr
        simp only [beq_iff_eq, (Nat.zero_le _).trans_lt hc |>.ne', hc.not_gt, hc.ne', if_false, Rem.Holds]
        constructor <;> linarith
    · obtain ⟨h1, h2⟩ : (m : ℝ) < x ∧ x < m + 1 := h
      simp only [Bool.not_true, Bool.and_false, Bool.false_eq_true, if_false]
      by_cases hc : r < 2 ^ (s - 1)
      · have hcR : (r : ℝ) + 1 ≤ 2 ^ (s - 1) := by exact_mod_cast hc
        have : (0 : ℝ) ≤ r := Nat.cast_nonneg r
        simp only [hc, if_true, Rem.Holds]
        constructor <;> linarith
      · have hcR : (2 : ℝ) ^ (s - 1) ≤ r := by exact_mod_cast not_lt.1 hc
        have hrR : (r : ℝ) + 1 ≤ 2 ^ s := by exact_mod_cast hr
        simp only [hc, if_false, Rem.Holds]
        constructor <;> linarith

theorem Rem.Holds.le {lo x hi : ℝ} {r : Rem} (h : r.Holds lo x hi) : lo ≤ x := by
  cases r
  · exact h.ge
  · exact h.1.le
  · exact h.1.le
  · obtain ⟨h1, h2⟩ := h
    linarith

theorem Rem.Holds.lt {lo x hi : ℝ} {r : Rem} (hlt : lo < hi) (h : r.Holds lo x hi) : x < hi := by
  cases r
  · exact h ▸ hlt
  all_goals obtain ⟨h1, h2⟩ := h; linarith

theorem Rem.Holds.exact_iff {lo x hi : ℝ} {r : Rem} (h : r.Holds lo x hi) : r = .exact ↔ x = lo := by
  cases r <;> simp only [reduceCtorEq, true_iff, false_iff]
  · exact h
  · exact h.1.ne'
  · exact h.1.ne'
  · obtain ⟨h1, h2⟩ := h
    intro h3
    linarith

theorem Rem.Holds.half_le_iff {lo x hi : ℝ} {r : Rem} (hlt : lo < hi) (h : r.Holds lo x hi) :
    r = .above ∨ r = .tie ↔ hi - x ≤ x - lo := by
  cases r <;> simp only [reduceCtorEq, or_self, or_true, true_or, true_iff, false_iff, not_le]
  · have : x = lo := h
    linarith
  · exact h.2
  · exact h.2.ge
  · exact h.1.le

/-! ### The digits at a weight -/

/-- The integer part of m × 2^e at the weight 2^q, and what is discarded: the two cases of `roundCore`. -/
def digitsAt (m : Nat) (e : Int) (st : Bool) (q : Int) : Nat × Rem :=
  if q ≤ e then (m * 2 ^ (e - q).toNat, if st then .below else .exact) else shiftOut m (q - e).toNat st

theorem two_zpow_toNat {a b : Int} (h : a ≤ b) : (2 : ℝ) ^ (b - a).toNat * 2 ^ a = 2 ^ b := by
  rw [← zpow_natCast, ← zpow_add₀ two_ne_zero]
  congr 1
  omega

theorem digitsAt_holds {m : Nat} {e q : Int} {st : Bool} {x : ℝ} (h : Sticky m st x) (hq : st = true → e < q) :
    (digitsAt m e st q).2.Holds ((digitsAt m e st q).1 * 2 ^ q) (x * 2 ^ e) (((digitsAt m e st q).1 + 1) * 2 ^ q) := by
  unfold digitsAt
  split
  next hle =>
    obtain rfl : st = false := Bool.eq_false_iff.2 fun hst => hle.not_gt (hq hst)
    have hx : x = m := h
    simp only [Rem.Holds, Bool.false_eq_true, if_false]
    push_cast
    rw [hx, mul_assoc, two_zpow_toNat hle]
  next hlt =>
    have hle : e ≤ q := (not_le.1 hlt).le
    have hs := (shiftOut_holds (s := (q - e).toNat) h fun h0 => absurd (by omega) hlt).scale (zpow_pos two_pos e : (0 : ℝ) < 2 ^ e)
    rwa [mul_assoc, mul_assoc, two_zpow_toNat hle] at hs

/-! ### The levels of the magnitude patterns (R160) -/

/-- The value of a magnitude pattern in units of the least subnormal, as if the format had no largest exponent. -/
def Fmt.level (f : Fmt) (p : Nat) : Nat := if p < 2 ^ f.fw then p else (p % 2 ^ f.fw + 2 ^ f.fw) * 2 ^ (p / 2 ^ f.fw - 1)

section
variable {f : Fmt}

theorem Fmt.level_of_digits {j n : Nat} (hn : n ≤ 2 ^ (f.fw + 1)) (hj : j = 0 ∨ 2 ^ f.fw ≤ n) :
    f.level (j * 2 ^ f.fw + n) = n * 2 ^ j := by
  have hpos : 0 < 2 ^ f.fw := by positivity
  rw [pow_succ] at hn
  unfold Fmt.level
  obtain hlt | hge := lt_or_ge n (2 ^ f.fw)
  · obtain rfl : j = 0 := hj.resolve_right (not_le.2 hlt)
    simp [hlt]
  rw [if_neg (by omega)]
  obtain hlt | heq : n < 2 ^ f.fw * 2 ∨ n = 2 ^ f.fw * 2 := by omega
  · obtain ⟨r, rfl⟩ : ∃ r, n = 2 ^ f.fw + r := ⟨n - 2 ^ f.fw, by omega⟩
    have hr : r < 2 ^ f.fw := by omega
    rw [show j * 2 ^ f.fw + (2 ^ f.fw + r) = r + 2 ^ f.fw * (j + 1) by ring, Nat.add_mul_mod_self_left, Nat.mod_eq_of_lt hr,
      Nat.add_mul_div_left _ _ hpos, Nat.div_eq_of_lt hr, zero_add, Nat.add_sub_cancel, add_comm r]
  · rw [heq, show j * 2 ^ f.fw + 2 ^ f.fw * 2 = 2 ^ f.fw * (j + 2) by ring, Nat.mul_mod_right, Nat.mul_div_cancel_left _ hpos,
      zero_add, show j + 2 - 1 = j + 1 by omega, pow_succ]
    ring

/-- Every pattern is a shift and a significand. -/
theorem Fmt.exists_digits (f : Fmt) (p : Nat) :
    ∃ j n, p = j * 2 ^ f.fw + n ∧ n < 2 ^ (f.fw + 1) ∧ (j = 0 ∨ 2 ^ f.fw ≤ n) := by
  have hpos : 0 < 2 ^ f.fw := by positivity
  have hdiv := Nat.div_add_mod p (2 ^ f.fw)
  have hlt := Nat.mod_lt p hpos
  by_cases h : p < 2 ^ f.fw
  · exact ⟨0, p, by simp, by rw [pow_succ]; omega, .inl rfl⟩
  · obtain ⟨k, hk⟩ : ∃ k, p / 2 ^ f.fw = k + 1 :=
      ⟨p / 2 ^ f.fw - 1, (Nat.sub_add_cancel (Nat.div_pos (not_lt.1 h) hpos)).symm⟩
    refine ⟨k, 2 ^ f.fw + p % 2 ^ f.fw, ?_, by rw [pow_succ]; omega, .inr (by omega)⟩
    rw [hk, mul_add_one, mul_comm] at hdiv
    omega

theorem Fmt.level_lt_succ (f : Fmt) (p : Nat) : f.level p < f.level (p + 1) := by
  obtain ⟨j, n, rfl, hn, hj⟩ := f.exists_digits p
  rw [Fmt.level_of_digits hn.le hj, add_assoc, Fmt.level_of_digits hn (hj.imp_right fun h => h.trans (Nat.le_succ _))]
  exact Nat.mul_lt_mul_of_pos_right (Nat.lt_succ_self n) (by positivity)

theorem Fmt.level_strictMono (f : Fmt) : StrictMono f.level := strictMono_nat_of_lt_succ f.level_lt_succ

theorem Fmt.level_zero (f : Fmt) : f.level 0 = 0 := by simp [Fmt.level]

/-- An integer of few enough digits is a level at every weight. -/
theorem Fmt.exists_level (f : Fmt) (j : Nat) : ∀ n ≤ 2 ^ (f.fw + 1), ∃ p, f.level p = n * 2 ^ j := by
  induction j with
  | zero => exact fun n hn => ⟨0 * 2 ^ f.fw + n, Fmt.level_of_digits hn (.inl rfl)⟩
  | succ j ih =>
    intro n hn
    by_cases h : 2 ^ f.fw ≤ n
    · exact ⟨_, Fmt.level_of_digits hn (.inr h)⟩
    · obtain ⟨p, hp⟩ := ih (2 * n) (by rw [pow_succ]; omega)
      exact ⟨p, by rw [hp, pow_succ]; ring⟩

/-- The weight of the least subnormal. -/
noncomputable def Fmt.ulp (f : Fmt) : ℝ := 2 ^ (1 - (f.bias : Int) - f.fw)

theorem Fmt.ulp_pos (f : Fmt) : 0 < f.ulp := zpow_pos two_pos _

/-- The value of a magnitude pattern. -/
noncomputable def Fmt.value (f : Fmt) (p : Nat) : ℝ := f.level p * f.ulp

theorem Fmt.value_strictMono (f : Fmt) : StrictMono f.value := fun _ _ h =>
  mul_lt_mul_of_pos_right (Nat.cast_lt.2 (f.level_strictMono h)) f.ulp_pos

theorem Fmt.value_zero (f : Fmt) : f.value 0 = 0 := by simp [Fmt.value, Fmt.level_zero]

theorem Fmt.value_nonneg (f : Fmt) (p : Nat) : 0 ≤ f.value p := f.value_zero ▸ f.value_strictMono.monotone (Nat.zero_le p)

theorem Fmt.value_of_digits {q : Int} {n : Nat} (hq : 1 - (f.bias : Int) - f.fw ≤ q) (hn : n ≤ 2 ^ (f.fw + 1))
    (hj : q = 1 - (f.bias : Int) - f.fw ∨ 2 ^ f.fw ≤ n) :
    f.value ((q - (1 - (f.bias : Int) - f.fw)).toNat * 2 ^ f.fw + n) = n * 2 ^ q := by
  rw [Fmt.value, Fmt.level_of_digits hn (hj.imp_left fun h => by omega), Nat.cast_mul, Nat.cast_pow, Nat.cast_ofNat, mul_assoc,
    Fmt.ulp, two_zpow_toNat hq]

end

/-! ### The pattern that a mode chooses (R165) -/

/-- How a mode treats a magnitude of a sign. -/
inductive Direction where
  | nearest | toZero | away

def direction (mode : Nat) (neg : Bool) : Direction :=
  match mode with
  | 0 => .nearest
  | 1 => .toZero
  | 2 => if neg then .toZero else .away
  | _ => if neg then .away else .toZero

/-- The rule of a direction: up from an odd or an even neighbour below. -/
def Direction.up (odd : Bool) (r : Rem) : Direction → Bool
  | .nearest => r == .above || (r == .tie && odd)
  | .toZero => false
  | .away => r != .exact

theorem roundsUp_eq (mode : Nat) (neg odd : Bool) (r : Rem) : roundsUp mode neg odd r = (direction mode neg).up odd r := by
  unfold roundsUp direction
  split
  · rfl
  · rfl
  all_goals cases neg <;> simp [Direction.up]

/-- The magnitude pattern that a direction chooses for a positive number, with no largest exponent. -/
def RoundsMag (f : Fmt) (x : ℝ) (p : Nat) : Direction → Prop
  | .nearest => ∀ y, |x - f.value p| ≤ |x - f.value y| ∧ (|x - f.value p| = |x - f.value y| → y ≠ p → p % 2 = 0)
  | .toZero => f.value p ≤ x ∧ ∀ y, f.value y ≤ x → y ≤ p
  | .away => x ≤ f.value p ∧ ∀ y, x ≤ f.value y → p ≤ y

section
variable {f : Fmt} {x : ℝ} {p : Nat} {r : Rem}

/-- The neighbour below, or the next one where the direction goes up, is the pattern chosen. -/
theorem roundsMag_of_holds (h : r.Holds (f.value p) x (f.value (p + 1))) :
    ∀ d : Direction, RoundsMag f x (if d.up (p % 2 == 1) r then p + 1 else p) d := by
  have hlt := f.value_strictMono (Nat.lt_succ_self p)
  have below : ∀ y, y ≤ p → f.value y ≤ f.value p := fun y hy => f.value_strictMono.monotone hy
  have beyond : ∀ y, p < y → f.value (p + 1) ≤ f.value y := fun y hy => f.value_strictMono.monotone hy
  have hle := h.le
  have hhi := h.lt hlt
  rintro (_ | _ | _)
  case toZero =>
    refine ⟨hle, fun y hy => not_lt.1 fun hpy => ?_⟩
    linarith [beyond y hpy]
  case away =>
    simp only [Direction.up, bne_iff_ne, ne_eq, h.exact_iff]
    split
    next hne => exact ⟨hhi.le, fun y hy => not_lt.1 fun hpy => hne (le_antisymm (hy.trans (below y (Nat.lt_succ_iff.1 hpy))) hle)⟩
    next he =>
      rw [not_not] at he
      exact ⟨he.le, fun y hy => f.value_strictMono.le_iff_le.1 (he ▸ hy)⟩
  case nearest =>
    have hp : |x - f.value p| = x - f.value p := abs_of_nonneg (sub_nonneg.2 hle)
    have hq : |x - f.value (p + 1)| = f.value (p + 1) - x := by rw [abs_sub_comm, abs_of_pos (sub_pos.2 hhi)]
    have lower : ∀ y < p, x - f.value p < |x - f.value y| := fun y hy => by
      have := f.value_strictMono hy
      exact lt_of_lt_of_le (by linarith) (le_abs_self _)
    have upper : ∀ y, p + 1 < y → f.value (p + 1) - x < |x - f.value y| := fun y hy => by
      have := f.value_strictMono hy
      rw [abs_sub_comm]
      exact lt_of_lt_of_le (by linarith) (le_abs_self _)
    have near : ∀ c, c = p ∨ c = p + 1 → |x - f.value c| ≤ x - f.value p → |x - f.value c| ≤ f.value (p + 1) - x →
        (x - f.value p = f.value (p + 1) - x → c % 2 = 0) → RoundsMag f x c .nearest := fun c hc h1 h2 h3 y => by
      obtain hy | rfl | rfl | hy : y < p ∨ y = p ∨ y = p + 1 ∨ p + 1 < y := by omega
      · have := lower y hy
        exact ⟨by linarith, fun h => by linarith⟩
      · rw [hp]
        refine ⟨h1, fun h hne => h3 ?_⟩
        rw [← h, hc.resolve_left (Ne.symm hne), hq]
      · rw [hq]
        refine ⟨h2, fun h hne => h3 ?_⟩
        rw [← h, hc.resolve_right (Ne.symm hne), hp]
      · have := upper y hy
        exact ⟨by linarith, fun h => by linarith⟩
    have lowest : x - f.value p ≤ f.value (p + 1) - x → (x - f.value p = f.value (p + 1) - x → p % 2 = 0) →
        RoundsMag f x p .nearest := fun h1 h2 => near p (.inl rfl) hp.le (hp.trans_le h1) h2
    have highest : f.value (p + 1) - x ≤ x - f.value p → (x - f.value p = f.value (p + 1) - x → (p + 1) % 2 = 0) →
        RoundsMag f x (p + 1) .nearest := fun h1 h2 => near (p + 1) (.inr rfl) (hq.trans_le h1) hq.le h2
    cases r
    case exact =>
      have : x = f.value p := h
      exact lowest (by linarith) fun he => by linarith
    case below => exact lowest h.2.le fun he => absurd he h.2.ne
    case above => exact highest h.1.le fun he => absurd he h.1.ne'
    case tie =>
      obtain hodd | heven := (Nat.mod_two_eq_zero_or_one p).symm
      · simpa [Direction.up, hodd] using highest h.2.ge fun _ => by omega
      · simpa [Direction.up, heven] using lowest h.2.le fun _ => heven

/-- The pattern chosen is the number exactly where nothing was discarded. -/
theorem eq_value_iff_of_holds (h : r.Holds (f.value p) x (f.value (p + 1))) (d : Direction) (odd : Bool) :
    x = f.value (if d.up odd r then p + 1 else p) ↔ r = .exact := by
  have hlt := h.lt (f.value_strictMono (Nat.lt_succ_self p))
  split
  next hup =>
    refine iff_of_false hlt.ne fun hr => ?_
    rw [hr] at hup
    cases d <;> simp [Direction.up] at hup
  · exact h.exact_iff.symm

end

/-! ### What `roundCore` computes -/

/-- The number, rounded in a direction to the format's digits at any exponent, lies below the least normal one (R167). -/
def TinyMag (f : Fmt) (x : ℝ) : Direction → Prop
  | .nearest => x < (1 - 1 / 2 ^ (f.fw + 2)) * 2 ^ (1 - (f.bias : Int))
  | .toZero => x < 2 ^ (1 - (f.bias : Int))
  | .away => x ≤ (1 - 1 / 2 ^ (f.fw + 1)) * 2 ^ (1 - (f.bias : Int))

section
variable {f : Fmt} {x : ℝ}

theorem tinyMag_of_lt_half (h : x < 2 ^ (1 - (f.bias : Int)) / 2) (d : Direction) : TinyMag f x d := by
  have hpos : (0 : ℝ) < 2 ^ (1 - (f.bias : Int)) := zpow_pos two_pos _
  have part : ∀ i : Nat, x < (1 - 1 / 2 ^ (i + 1)) * 2 ^ (1 - (f.bias : Int)) := fun i => by
    have hi : (1 : ℝ) / 2 ^ (i + 1) ≤ 1 / 2 := one_div_le_one_div_of_le two_pos (le_self_pow₀ one_le_two i.succ_ne_zero)
    refine h.trans_le ?_
    rw [div_eq_inv_mul]
    exact mul_le_mul_of_nonneg_right (by linarith) hpos.le
  cases d
  · exact part (f.fw + 1)
  · exact h.trans (by linarith)
  · exact (part f.fw).le

theorem not_tinyMag (h : (2 : ℝ) ^ (1 - (f.bias : Int)) ≤ x) (d : Direction) : ¬ TinyMag f x d := by
  have hpos : (0 : ℝ) < 2 ^ (1 - (f.bias : Int)) := zpow_pos two_pos _
  have part : ∀ i : Nat, (1 - 1 / 2 ^ (i + 1)) * 2 ^ (1 - (f.bias : Int)) < x := fun i => by
    have hi : (0 : ℝ) < 1 / 2 ^ (i + 1) := by positivity
    refine lt_of_lt_of_le ?_ h
    exact mul_lt_of_lt_one_left hpos (by linarith)
  cases d
  · exact (part (f.fw + 1)).not_gt
  · exact h.not_gt
  · exact (part f.fw).not_ge

end

section
variable {f : Fmt} {x w : ℝ} {n : Nat} {r : Rem}

/-- Just below the least normal number it is the last significand of a direction that is not rounded away from it. -/
theorem tinyMag_iff_of_holds (hw : 2 ^ (f.fw + 1) * w = 2 ^ (1 - (f.bias : Int))) (hpos : 0 < w) (hn : n < 2 ^ (f.fw + 1))
    (h : r.Holds (n * w) x ((n + 1) * w)) (d : Direction) :
    (if d.up (n % 2 == 1) r then n + 1 else n) ≠ 2 ^ (f.fw + 1) ↔ TinyMag f x d := by
  have hstep : (n : ℝ) * w < (n + 1) * w := mul_lt_mul_of_pos_right (lt_add_one _) hpos
  have hlt := h.lt hstep
  have hN : (n : ℝ) + 1 ≤ 2 ^ (f.fw + 1) := by exact_mod_cast hn
  have hx : x < 2 ^ (1 - (f.bias : Int)) := hlt.trans_le (hw ▸ mul_le_mul_of_nonneg_right hN hpos.le)
  have hne : (2 : ℝ) ^ (f.fw + 1) ≠ 0 := by positivity
  have away : (1 - 1 / 2 ^ (f.fw + 1)) * (2 : ℝ) ^ (1 - (f.bias : Int)) = (2 ^ (f.fw + 1) - 1) * w := by
    rw [← hw]
    field_simp
  have nearest : (1 - 1 / 2 ^ (f.fw + 2)) * (2 : ℝ) ^ (1 - (f.bias : Int)) = (2 ^ (f.fw + 1) - 1 / 2) * w := by
    rw [← hw, pow_succ _ (f.fw + 1)]
    field_simp
  obtain hsmall | hlast : n + 1 < 2 ^ (f.fw + 1) ∨ n + 1 = 2 ^ (f.fw + 1) := by omega
  · have hN : (n : ℝ) + 1 + 1 ≤ 2 ^ (f.fw + 1) := by exact_mod_cast hsmall
    have hx : x < (2 ^ (f.fw + 1) - 1) * w := hlt.trans_le (mul_le_mul_of_nonneg_right (by linarith) hpos.le)
    refine iff_of_true (by split <;> omega) ?_
    cases d
    case toZero => assumption
    case away => exact (hx.trans_eq away.symm).le
    case nearest => exact (hx.trans (mul_lt_mul_of_pos_right (by linarith) hpos)).trans_eq nearest.symm
  · have hodd : (n % 2 == 1) = true := by
      rw [pow_succ] at hlast
      exact beq_iff_eq.2 (by omega)
    have hN : (n : ℝ) = 2 ^ (f.fw + 1) - 1 := by
      rw [eq_sub_iff_add_eq]
      exact_mod_cast hlast
    rw [← hlast, hodd]
    trans d.up true r = false
    · cases d.up true r <;> simp
    cases d
    case toZero => exact iff_of_true rfl (by assumption)
    case away =>
      rw [TinyMag, away, ← hN]
      simp only [Direction.up, bne_eq_false_iff_eq, h.exact_iff]
      exact ⟨fun he => he.le, fun hle => le_antisymm hle h.le⟩
    case nearest =>
      rw [TinyMag, nearest, ← Bool.not_eq_true, ← not_le]
      have := h.half_le_iff hstep
      simp only [Direction.up, Bool.and_true, Bool.or_eq_true, beq_iff_eq, this, not_iff_not, hN]
      constructor <;> intro _ <;> linarith

end

/-- The exponent of m × 2^e. -/
def expOf (m : Nat) (e : Int) : Int := Nat.log2 m + e

/-- The weight of the last digit that a format keeps at an exponent. -/
def Fmt.weight (f : Fmt) (k : Int) : Int := max (k - f.fw) (1 - (f.bias : Int) - f.fw)

/-- The digits at a weight, rounded. -/
def roundedAt (d : Direction) (m : Nat) (e : Int) (st : Bool) (q : Int) : Nat :=
  if d.up ((digitsAt m e st q).1 % 2 == 1) (digitsAt m e st q).2 then (digitsAt m e st q).1 + 1 else (digitsAt m e st q).1

section
variable {f : Fmt} {mode : Nat} {neg : Bool} {m : Nat} {e : Int} {st : Bool}

theorem roundCore_eq (h : (m == 0 && !st) = false) : roundCore f mode neg m e st =
    ((f.weight (expOf m e) - (1 - (f.bias : Int) - f.fw)).toNat * 2 ^ f.fw +
        roundedAt (direction mode neg) m e st (f.weight (expOf m e)),
      (digitsAt m e st (f.weight (expOf m e))).2 != .exact,
      decide (expOf m e < 1 - (f.bias : Int)) && !(expOf m e == 1 - (f.bias : Int) - 1 &&
        roundedAt (direction mode neg) m e st (expOf m e - f.fw) == 2 ^ (f.fw + 1))) := by
  unfold roundCore
  rw [if_neg (by rw [h]; exact Bool.false_ne_true)]
  simp only [roundedAt, ← roundsUp_eq]
  rfl

/-- A number and the way it is given to `roundCore`: an integer of enough digits where a part below it is only marked. -/
structure Given (f : Fmt) (m : Nat) (e : Int) (st : Bool) (x : ℝ) : Prop where
  sticky : Sticky m st (x / 2 ^ e)
  ne_zero : m ≠ 0
  digits : st = true → f.fw < Nat.log2 m

theorem div_two_zpow_mul (x : ℝ) (e : Int) : x / 2 ^ e * 2 ^ e = x := div_mul_cancel₀ _ (zpow_pos two_pos e).ne'

namespace Given
variable {x : ℝ} (h : Given f m e st x)
include h

theorem nontrivial : (m == 0 && !st) = false := by simp [h.ne_zero]

theorem pow_le : (2 : ℝ) ^ expOf m e ≤ x := by
  have hm : (2 : ℝ) ^ Nat.log2 m ≤ m := by exact_mod_cast Nat.log2_self_le h.ne_zero
  rw [expOf, zpow_add₀ two_ne_zero, zpow_natCast, ← div_two_zpow_mul x e]
  exact mul_le_mul_of_nonneg_right (hm.trans h.sticky.le) (zpow_pos two_pos e).le

theorem lt_pow : x < (2 : ℝ) ^ (expOf m e + 1) := by
  have hm : (m : ℝ) + 1 ≤ 2 ^ (Nat.log2 m + 1) := by exact_mod_cast (Nat.lt_log2_self : m < _)
  rw [expOf, show (Nat.log2 m : Int) + e + 1 = ((Nat.log2 m + 1 : Nat) : Int) + e by push_cast; ring, zpow_add₀ two_ne_zero,
    zpow_natCast, ← div_two_zpow_mul x e]
  exact mul_lt_mul_of_pos_right (h.sticky.lt.trans_le hm) (zpow_pos two_pos e)

theorem pos : 0 < x := (zpow_pos two_pos _).trans_le h.pow_le

/-- The digits at a weight at or above that of the format's last digit. -/
theorem holds {q : Int} (hq : expOf m e - f.fw ≤ q) :
    (digitsAt m e st q).2.Holds ((digitsAt m e st q).1 * 2 ^ q) x (((digitsAt m e st q).1 + 1) * 2 ^ q) := by
  have := digitsAt_holds (e := e) (q := q) h.sticky fun hst => by
    have := h.digits hst
    unfold expOf at hq
    omega
  rwa [div_two_zpow_mul] at this

theorem le_digits {q : Int} (hq : expOf m e - f.fw ≤ q) : (digitsAt m e st q).1 * (2 : ℝ) ^ q ≤ x := (h.holds hq).le

theorem lt_digits {q : Int} (hq : expOf m e - f.fw ≤ q) : x < ((digitsAt m e st q).1 + 1) * (2 : ℝ) ^ q :=
  (h.holds hq).lt (mul_lt_mul_of_pos_right (lt_add_one _) (zpow_pos two_pos q))

theorem digits_lt {q : Int} (hq : expOf m e - f.fw ≤ q) : (digitsAt m e st q).1 < 2 ^ (f.fw + 1) := by
  have h1 : (digitsAt m e st q).1 * (2 : ℝ) ^ q < 2 ^ (f.fw + 1) * 2 ^ q :=
    calc _ ≤ x := h.le_digits hq
      _ < 2 ^ (expOf m e + 1) := h.lt_pow
      _ ≤ 2 ^ (((f.fw + 1 : Nat) : Int) + q) := zpow_le_zpow_right₀ one_le_two (by push_cast; omega)
      _ = _ := by rw [zpow_add₀ two_ne_zero, zpow_natCast]
  exact_mod_cast lt_of_mul_lt_mul_right h1 (zpow_pos two_pos q).le

theorem le_digits_top : 2 ^ f.fw ≤ (digitsAt m e st (expOf m e - f.fw)).1 := by
  have h1 : (2 : ℝ) ^ f.fw * 2 ^ (expOf m e - f.fw) < ((digitsAt m e st (expOf m e - f.fw)).1 + 1) * 2 ^ (expOf m e - f.fw) :=
    calc _ = (2 : ℝ) ^ expOf m e := by rw [← zpow_natCast, ← zpow_add₀ two_ne_zero]; congr 1; ring
      _ ≤ x := h.pow_le
      _ < _ := h.lt_digits le_rfl
  have h2 := lt_of_mul_lt_mul_right h1 (zpow_pos two_pos _).le
  exact Nat.lt_succ_iff.1 (by exact_mod_cast h2)

/-- The pattern at or just below the number. -/
theorem value_floor (n : Nat) (hn : n = (digitsAt m e st (f.weight (expOf m e))).1 ∨
    n = (digitsAt m e st (f.weight (expOf m e))).1 + 1) :
    f.value ((f.weight (expOf m e) - (1 - (f.bias : Int) - f.fw)).toNat * 2 ^ f.fw + n) = n * 2 ^ f.weight (expOf m e) := by
  have hlt := h.digits_lt (q := f.weight (expOf m e)) (le_max_left _ _)
  refine Fmt.value_of_digits (le_max_right _ _) (by omega) ?_
  obtain hq | hq : f.weight (expOf m e) = expOf m e - f.fw ∨ f.weight (expOf m e) = 1 - (f.bias : Int) - f.fw := max_choice _ _
  · have := h.le_digits_top
    rw [hq] at hn ⊢
    exact .inr (by omega)
  · exact .inl hq

theorem roundsMag (hfw : 0 < f.fw) :
    RoundsMag f x (roundCore f mode neg m e st).1 (direction mode neg) ∧
      ((roundCore f mode neg m e st).2.1 = false ↔ x = f.value (roundCore f mode neg m e st).1) := by
  have hh := h.holds (q := f.weight (expOf m e)) (le_max_left _ _)
  have h0 := h.value_floor _ (.inl rfl)
  have h1 := h.value_floor _ (.inr rfl)
  rw [roundCore_eq h.nontrivial]
  unfold roundedAt
  simp only
  generalize (digitsAt m e st (f.weight (expOf m e))).1 = n at *
  generalize (digitsAt m e st (f.weight (expOf m e))).2 = r at *
  generalize (f.weight (expOf m e) - (1 - (f.bias : Int) - f.fw)).toNat = j at *
  rw [Nat.cast_succ] at h1
  rw [← h0, ← h1, ← add_assoc] at hh
  have hparity : (j * 2 ^ f.fw + n) % 2 = n % 2 := by
    obtain ⟨k, hk⟩ : ∃ k, f.fw = k + 1 := ⟨f.fw - 1, by omega⟩
    rw [hk, pow_succ, show j * (2 ^ k * 2) = 2 * (j * 2 ^ k) by ring, Nat.mul_add_mod]
  have hr := roundsMag_of_holds hh (direction mode neg)
  have he := eq_value_iff_of_holds hh (direction mode neg) (n % 2 == 1)
  rw [hparity] at hr
  have hite : (j * 2 ^ f.fw + if (direction mode neg).up (n % 2 == 1) r then n + 1 else n) =
      if (direction mode neg).up (n % 2 == 1) r then j * 2 ^ f.fw + n + 1 else j * 2 ^ f.fw + n := apply_ite _ _ _ _
  rw [hite, he]
  exact ⟨hr, by simp⟩

theorem tiny_iff : (roundCore f mode neg m e st).2.2 = true ↔ TinyMag f x (direction mode neg) := by
  have hh := h.holds (q := expOf m e - f.fw) le_rfl
  have hlt := h.digits_lt (q := expOf m e - f.fw) le_rfl
  have hle := h.pow_le
  have hup := h.lt_pow
  rw [roundCore_eq h.nontrivial]
  simp only [roundedAt, Bool.and_eq_true, decide_eq_true_eq, Bool.not_eq_true', Bool.and_eq_false_iff, beq_eq_false_iff_ne]
  generalize expOf m e = k at *
  generalize direction mode neg = d at *
  generalize (digitsAt m e st (k - f.fw)).1 = n at *
  generalize (digitsAt m e st (k - f.fw)).2 = r at *
  have hhalf : (2 : ℝ) ^ (1 - (f.bias : Int) - 1) = 2 ^ (1 - (f.bias : Int)) / 2 := by rw [zpow_sub_one₀ two_ne_zero]; rfl
  have htop : (0 : ℝ) < 2 ^ (1 - (f.bias : Int)) := zpow_pos two_pos _
  obtain hk | rfl | hk : k < 1 - (f.bias : Int) - 1 ∨ k = 1 - (f.bias : Int) - 1 ∨ 1 - (f.bias : Int) ≤ k := by omega
  · refine iff_of_true ⟨by omega, .inl (by omega)⟩ (tinyMag_of_lt_half ?_ d)
    rw [← hhalf]
    exact hup.trans_le (zpow_le_zpow_right₀ one_le_two (by omega))
  · have hw : (2 : ℝ) ^ (f.fw + 1) * 2 ^ (1 - (f.bias : Int) - 1 - f.fw) = 2 ^ (1 - (f.bias : Int)) := by
      rw [← zpow_natCast, ← zpow_add₀ two_ne_zero]
      congr 1
      push_cast
      ring
    rw [← tinyMag_iff_of_holds hw (zpow_pos two_pos _) hlt hh d]
    simp
  · refine iff_of_false (fun hn => by omega) (not_tinyMag ?_ d)
    exact (zpow_le_zpow_right₀ one_le_two hk).trans hle

end Given

end

end Sys2Proof.Machine
end

section

/-!
# Rounded patterns and their values
-/

namespace Sys2Proof.Machine

-- One proof at a time: each waiting thread would reserve a stack of its own.
set_option Elab.async false

/-! ### Signs -/

/-- A magnitude with its sign. -/
def withNeg {α : Type} [Neg α] (n : Bool) (x : α) : α := if n then -x else x

@[simp] theorem withNeg_false {α : Type} [Neg α] (x : α) : withNeg false x = x := rfl
@[simp] theorem withNeg_true {α : Type} [Neg α] (x : α) : withNeg true x = -x := rfl

theorem cast_withNeg (n : Bool) (x : ℚ) : ((withNeg n x : ℚ) : ℝ) = withNeg n (x : ℝ) := by cases n <;> simp

theorem abs_withNeg {α : Type} [AddCommGroup α] [LinearOrder α] [IsOrderedAddMonoid α] (n : Bool) (x : α) : |withNeg n x| = |x| := by
  cases n <;> simp

theorem abs_withNeg_sub (n : Bool) (x y : ℝ) : |withNeg n x - withNeg n y| = |x - y| := by
  cases n
  · rfl
  · rw [withNeg_true, withNeg_true, neg_sub_neg, abs_sub_comm]

theorem withNeg_eq_mul (n : Bool) (x : ℚ) : withNeg n x = (if n then -1 else 1) * x := by cases n <;> simp

section
variable {f : Fmt} {p : Nat}

/-- The value of a magnitude pattern, as a rational number. -/
def Fmt.rat (f : Fmt) (p : Nat) : ℚ := f.level p * 2 ^ (1 - (f.bias : Int) - f.fw)

theorem Fmt.cast_rat (f : Fmt) (p : Nat) : ((f.rat p : ℚ) : ℝ) = f.value p := by
  simp [Fmt.rat, Fmt.value, Fmt.ulp]

theorem signed_lt (hp : p < 2 ^ (f.ew + f.fw)) (n : Bool) : f.mag (signed f n p) = p ∧ f.neg (signed f n p) = n ∧
    f.sgn (signed f n p) = if n then 1 else 0 := by
  have hpos : 0 < 2 ^ (f.ew + f.fw) := by positivity
  cases n <;> simp [signed, Fmt.signBit, Fmt.mag, Fmt.neg, Fmt.sgn, bit, Nat.mod_eq_of_lt hp, Nat.div_eq_of_lt hp,
    Nat.add_div_right _ hpos]

theorem mag_signed (hp : p < 2 ^ (f.ew + f.fw)) (n : Bool) : f.mag (signed f n p) = p := (signed_lt hp n).1
theorem neg_signed (hp : p < 2 ^ (f.ew + f.fw)) (n : Bool) : f.neg (signed f n p) = n := (signed_lt hp n).2.1
theorem sgn_signed (hp : p < 2 ^ (f.ew + f.fw)) (n : Bool) : f.sgn (signed f n p) = if n then 1 else 0 := (signed_lt hp n).2.2

theorem signed_mod_two (hew : 0 < f.ew) (n : Bool) : signed f n p % 2 = p % 2 := by
  obtain ⟨k, hk⟩ : ∃ k, f.ew + f.fw = k + 1 := ⟨f.ew + f.fw - 1, by omega⟩
  cases n
  · rfl
  · simp only [signed, if_true, Fmt.signBit, hk, pow_succ]
    omega

end

/-! ### The finite patterns of a format -/

/-- A format whose finite patterns are those up to `maxFin`. -/
structure Fmt.Regular (f : Fmt) : Prop where
  ew_pos : 0 < f.ew
  fw_pos : 0 < f.fw
  maxFin_lt : f.maxFin < 2 ^ (f.ew + f.fw)
  finite : ∀ y, f.mag y ≤ f.maxFin → unpack f y = .fin (f.neg y) (f.sig y) (f.shift y + (1 - (f.bias : Int) - f.fw))
  special : ∀ y, f.maxFin < f.mag y → ∀ n m e, unpack f y ≠ .fin n m e

theorem Fmt.level_mag (f : Fmt) (y : Nat) : f.level (f.mag y) = f.sig y * 2 ^ f.shift y := by
  have hfrac := f.frac_lt y
  rw [f.mag_eq]
  unfold Fmt.sig Fmt.shift
  split
  next he => simpa [he] using Fmt.level_of_digits (f := f) (j := 0) (n := f.frac y) (by rw [pow_succ]; omega) (.inl rfl)
  next he =>
    obtain ⟨k, hk⟩ : ∃ k, f.expField y = k + 1 := ⟨f.expField y - 1, by omega⟩
    rw [hk, show (k + 1) * 2 ^ f.fw + f.frac y = k * 2 ^ f.fw + (f.frac y + 2 ^ f.fw) by ring, Nat.add_sub_cancel,
      Fmt.level_of_digits (by rw [pow_succ]; omega) (.inr (by omega))]

/-- The formats with infinities and no other special pattern than NaNs. -/
structure Fmt.Ieee (f : Fmt) : Prop extends f.Arithmetic where
  two_le : 2 ≤ f.ew
  bias : f.bias = 2 ^ (f.ew - 1) - 1
  maxFin : f.maxFin + 1 = f.inf

theorem ieee_formats : ∀ f ∈ [fp32, f16, bf16, e5m2], f.Ieee := by
  simp only [List.forall_mem_cons, List.not_mem_nil, IsEmpty.forall_iff, implies_true, and_true]
  exact ⟨⟨⟨rfl, by decide, by decide⟩, by decide, rfl, rfl⟩, ⟨⟨rfl, by decide, by decide⟩, by decide, rfl, rfl⟩,
    ⟨⟨rfl, by decide, by decide⟩, by decide, rfl, rfl⟩, ⟨⟨rfl, by decide, by decide⟩, by decide, rfl, rfl⟩⟩

theorem Fmt.Ieee.regular {f : Fmt} (hf : f.Ieee) : f.Regular where
  ew_pos := hf.ew_pos
  fw_pos := hf.fw_pos
  maxFin_lt := by
    have h1 : f.inf < 2 ^ (f.ew + f.fw) := by
      rw [Fmt.inf, pow_add]
      exact Nat.mul_lt_mul_of_pos_right (Nat.sub_lt (by positivity) one_pos) (by positivity)
    have := hf.maxFin
    omega
  finite y hy := by
    refine unpack_of_not_top hf.toArithmetic fun ht => ?_
    have h1 := f.mag_eq y
    have h2 := hf.maxFin
    rw [ht] at h1
    unfold Fmt.inf at h2
    omega
  special y hy n m e he := by
    have ht : f.Top y := by
      by_contra ht
      have := Fmt.mag_lt_inf ht
      have := hf.maxFin
      omega
    obtain hn | hi := Fmt.nan_or_inf ht
    · rw [unpack_of_nan hf.toArithmetic hn] at he
      cases he
    · rw [unpack_of_inf hf.toArithmetic hi] at he
      cases he

theorem unpack_of_not_ieee {f : Fmt} (hieee : f.ieee = false) (y : Nat) : unpack f y =
    if f.nan.isSome = true ∧ f.expField y = 2 ^ f.ew - 1 ∧ f.frac y = 2 ^ f.fw - 1 then .nan false
    else .fin (f.neg y) (f.sig y) (f.shift y + (1 - (f.bias : Int) - f.fw)) := by
  have hfields : f.expField y = y / 2 ^ f.fw % 2 ^ f.ew ∧ f.frac y = y % 2 ^ f.fw := ⟨rfl, rfl⟩
  unfold unpack Fmt.sig Fmt.shift Fmt.neg
  simp only [bits, pow_zero, Nat.div_one, hieee, Bool.false_and, Bool.false_eq_true, if_false, Bool.not_false, Bool.true_and,
    Bool.and_eq_true, beq_iff_eq, and_assoc, ← hfields.1, ← hfields.2]
  congr 1
  split
  next he => simp only [he, Nat.cast_zero, zero_add, add_zero, Nat.zero_sub]
  next he =>
    have h1 : 1 ≤ f.expField y := Nat.one_le_iff_ne_zero.2 he
    simp only [FVal.fin.injEq, true_and, Nat.cast_sub h1]
    push_cast
    ring

theorem Fmt.mag_eq_last_iff (f : Fmt) (y : Nat) : f.mag y + 1 = 2 ^ (f.ew + f.fw) ↔
    f.expField y = 2 ^ f.ew - 1 ∧ f.frac y = 2 ^ f.fw - 1 := by
  have hmag := f.mag_eq y
  have hfrac := f.frac_lt y
  have hexp : f.expField y < 2 ^ f.ew := Nat.mod_lt _ (by positivity)
  have hall : (2 ^ f.ew - 1) * 2 ^ f.fw + 2 ^ f.fw = 2 ^ (f.ew + f.fw) := by
    rw [← add_one_mul, Nat.sub_add_cancel (Nat.one_le_two_pow), pow_add]
  constructor
  · intro hlast
    have he : f.expField y = 2 ^ f.ew - 1 := by
      by_contra hne
      have := Nat.mul_le_mul_right (2 ^ f.fw) (show f.expField y + 1 ≤ 2 ^ f.ew - 1 by omega)
      rw [add_one_mul] at this
      omega
    rw [he] at hmag
    exact ⟨he, by omega⟩
  · rintro ⟨he, hfr⟩
    rw [he, hfr] at hmag
    omega

/-- A format without infinities: its one special pattern, where it has one, is that of all ones. -/
theorem Fmt.regular_of_not_ieee {f : Fmt} (hew : 0 < f.ew) (hfw : 0 < f.fw) (hieee : f.ieee = false)
    (hmax : f.maxFin + (if f.nan.isSome then 2 else 1) = 2 ^ (f.ew + f.fw)) : f.Regular where
  ew_pos := hew
  fw_pos := hfw
  maxFin_lt := by split at hmax <;> omega
  finite y hy := by
    rw [unpack_of_not_ieee hieee, if_neg]
    rintro ⟨hn, hones⟩
    have hlast := f.mag_eq_last_iff y |>.2 hones
    rw [if_pos hn] at hmax
    omega
  special y hy n m e := by
    have hlt : f.mag y < 2 ^ (f.ew + f.fw) := Nat.mod_lt _ (by positivity)
    have hn : f.nan.isSome = true := by
      by_contra hn
      rw [if_neg hn] at hmax
      omega
    rw [if_pos hn] at hmax
    rw [unpack_of_not_ieee hieee, if_pos ⟨hn, (f.mag_eq_last_iff y).1 (by omega)⟩]
    simp

theorem regular_formats : ∀ f ∈ [fp32, f16, bf16, e5m2, e4m3, e2m1], f.Regular := by
  simp only [List.forall_mem_cons, List.not_mem_nil, IsEmpty.forall_iff, implies_true, and_true]
  refine ⟨?_, ?_, ?_, ?_, Fmt.regular_of_not_ieee (by decide) (by decide) rfl rfl, Fmt.regular_of_not_ieee (by decide) (by decide) rfl rfl⟩
  all_goals exact (ieee_formats _ (by simp)).regular

section
variable {f : Fmt} (hf : f.Regular)
include hf

theorem Fmt.Regular.unpack_eq_fin_iff {y m : Nat} {n : Bool} {e : Int} : unpack f y = .fin n m e ↔
    f.mag y ≤ f.maxFin ∧ n = f.neg y ∧ m = f.sig y ∧ e = f.shift y + (1 - (f.bias : Int) - f.fw) := by
  by_cases hy : f.mag y ≤ f.maxFin
  · rw [hf.finite y hy, FVal.fin.injEq]
    simp only [hy, true_and, eq_comm]
  · simp only [hf.special y (not_le.1 hy), hy, false_and]

theorem Fmt.Regular.finitePattern_iff {y : Nat} {q : ℚ} :
    FinitePattern f y q ↔ f.mag y ≤ f.maxFin ∧ q = withNeg (f.neg y) (f.rat (f.mag y)) := by
  have hval : f.rat (f.mag y) = f.sig y * (2 : ℚ) ^ (f.shift y + (1 - (f.bias : Int) - f.fw)) := by
    rw [Fmt.rat, Fmt.level_mag, Nat.cast_mul, zpow_add₀ two_ne_zero, zpow_natCast]
    push_cast
    ring
  unfold FinitePattern
  simp only [hf.unpack_eq_fin_iff, withNeg_eq_mul, hval]
  constructor
  · rintro ⟨n, m, e, ⟨hy, rfl, rfl, rfl⟩, rfl⟩
    exact ⟨hy, by ring⟩
  · rintro ⟨hy, rfl⟩
    exact ⟨_, _, _, ⟨hy, rfl, rfl, rfl⟩, by ring⟩

omit hf in
theorem Fmt.rat_nonneg (f : Fmt) (p : Nat) : 0 ≤ f.rat p := by
  unfold Fmt.rat
  positivity

omit hf in
theorem Fmt.rat_mono (f : Fmt) : Monotone f.rat := fun a b h => by
  have := f.value_strictMono.monotone h
  rw [← Fmt.cast_rat, ← Fmt.cast_rat] at this
  exact_mod_cast this

omit hf in
theorem abs_withNeg_rat (n : Bool) (p : Nat) : |withNeg n (f.rat p)| = f.rat p := by
  rw [abs_withNeg, abs_of_nonneg (f.rat_nonneg p)]

theorem Fmt.Regular.abs_le_maxFin {y : Nat} {q : ℚ} (hy : FinitePattern f y q) : |q| ≤ f.rat f.maxFin := by
  obtain ⟨hle, rfl⟩ := hf.finitePattern_iff.1 hy
  rw [abs_withNeg_rat]
  exact f.rat_mono hle

theorem Fmt.Regular.finitePattern_signed {p : Nat} {n : Bool} (hp : p ≤ f.maxFin) :
    FinitePattern f (signed f n p) (withNeg n (f.rat p)) := by
  have hlt := hp.trans_lt hf.maxFin_lt
  rw [hf.finitePattern_iff, mag_signed hlt, neg_signed hlt]
  exact ⟨hp, rfl⟩

end

/-! ### The value that a mode chooses (R165) -/

/-- `v`, of a pattern `r`, is at least as good a choice for `x` as another value `p`. -/
structure IsChoice (mode : Nat) (x v : ℝ) (r : Nat) (p : ℝ) : Prop where
  nearest : mode = 0 → |x - v| ≤ |x - p| ∧ (|x - v| = |x - p| → p ≠ v → r % 2 = 0)
  toZero : mode = 1 → |v| ≤ |x| ∧ 0 ≤ v * x ∧ (|p| ≤ |x| → |p| ≤ |v|)
  up : mode = 2 → x ≤ v ∧ (x ≤ p → v ≤ p)
  down : mode = 3 → v ≤ x ∧ (p ≤ x → p ≤ v)

section
variable {f : Fmt} {x : ℝ} {p : Nat} (hx : 0 < x)
include hx

theorem RoundsMag.nearest_le (h : RoundsMag f x p .nearest) (n s : Bool) (y : Nat) :
    |withNeg n x - withNeg n (f.value p)| ≤ |withNeg n x - withNeg s (f.value y)| ∧
      (|withNeg n x - withNeg n (f.value p)| = |withNeg n x - withNeg s (f.value y)| →
        withNeg s (f.value y) ≠ withNeg n (f.value p) → p % 2 = 0) := by
  obtain ⟨hle, heq⟩ := h y
  rw [abs_withNeg_sub]
  obtain rfl | hs : s = n ∨ s = !n := by cases s <;> cases n <;> simp
  · rw [abs_withNeg_sub]
    exact ⟨hle, fun he hne => heq he fun h => hne (by rw [h])⟩
  · have hy := f.value_nonneg y
    have hopp : |withNeg n x - withNeg s (f.value y)| = x + f.value y := by
      rw [hs, ← abs_of_pos (by linarith : 0 < x + f.value y)]
      cases n
      · simp
      · rw [withNeg_true, Bool.not_true, withNeg_false, abs_sub_comm, sub_neg_eq_add, add_comm]
    obtain ⟨hzero, hpar⟩ := h 0
    rw [f.value_zero, sub_zero, abs_of_pos hx] at hzero hpar
    rw [hopp]
    refine ⟨by linarith, fun he hne => ?_⟩
    have hy0 : f.value y = 0 := by linarith
    refine hpar (by linarith) fun hp => hne ?_
    rw [← hp, hy0, f.value_zero]
    cases n <;> cases s <;> simp

/-- A value on a side of a number toward zero is no larger in magnitude than the one chosen. -/
theorem RoundsMag.toZero_le (h : RoundsMag f x p .toZero) (n s : Bool) (y : Nat) :
    |withNeg n (f.value p)| ≤ |withNeg n x| ∧ 0 ≤ withNeg n (f.value p) * withNeg n x ∧
      (|withNeg s (f.value y)| ≤ |withNeg n x| → |withNeg s (f.value y)| ≤ |withNeg n (f.value p)|) := by
  obtain ⟨hle, hmax⟩ := h
  simp only [abs_withNeg, abs_of_pos hx, abs_of_nonneg (f.value_nonneg _)]
  refine ⟨hle, ?_, fun hy => f.value_strictMono.monotone (hmax y hy)⟩
  have := mul_nonneg (f.value_nonneg p) hx.le
  cases n <;> simpa using this

theorem RoundsMag.isChoice {mode : Nat} {n : Bool} (hew : 0 < f.ew) (h : RoundsMag f x p (direction mode n)) (s : Bool) (y : Nat) :
    IsChoice mode (withNeg n x) (withNeg n (f.value p)) (signed f n p) (withNeg s (f.value y)) where
  nearest hm := by
    subst hm
    rw [signed_mod_two hew]
    exact RoundsMag.nearest_le hx h n s y
  toZero hm := by
    subst hm
    exact RoundsMag.toZero_le hx h n s y
  up hm := by
    subst hm
    have hy := f.value_nonneg y
    have hp := f.value_nonneg p
    cases n
    · obtain ⟨hle, hmin⟩ := h
      refine ⟨hle, fun hxy => ?_⟩
      cases s
      · exact f.value_strictMono.monotone (hmin y hxy)
      · simp only [withNeg_false, withNeg_true] at hxy ⊢
        linarith
    · obtain ⟨hle, hmax⟩ := h
      refine ⟨neg_le_neg hle, fun hxy => ?_⟩
      cases s
      · simp only [withNeg_false, withNeg_true]
        linarith
      · exact neg_le_neg (f.value_strictMono.monotone (hmax y (neg_le_neg_iff.1 hxy)))
  down hm := by
    subst hm
    have hy := f.value_nonneg y
    have hp := f.value_nonneg p
    cases n
    · obtain ⟨hle, hmax⟩ := h
      refine ⟨hle, fun hxy => ?_⟩
      cases s
      · exact f.value_strictMono.monotone (hmax y hxy)
      · simp only [withNeg_false, withNeg_true]
        linarith
    · obtain ⟨hle, hmin⟩ := h
      refine ⟨neg_le_neg hle, fun hxy => ?_⟩
      cases s
      · simp only [withNeg_false, withNeg_true] at hxy ⊢
        linarith
      · exact neg_le_neg (f.value_strictMono.monotone (hmin y (neg_le_neg_iff.1 hxy)))

end

end Sys2Proof.Machine
end

section

/-!
# Results rounded once, and their flags
-/

namespace Sys2Proof.Machine

-- One proof at a time: each waiting thread would reserve a stack of its own.
set_option Elab.async false

/-! ### Results beyond a pattern (R166) -/

section
variable {f : Fmt} {x : ℝ} {p M : Nat}

theorem RoundsMag.lt_iff_nearest (h : RoundsMag f x p .nearest) :
    M < p ↔ f.value M + f.value (M + 1) < 2 * x ∨ f.value M + f.value (M + 1) = 2 * x ∧ M % 2 = 1 := by
  constructor
  · intro hp
    obtain ⟨hle, heq⟩ := h M
    have hstep : f.value (M + 1) ≤ f.value p := f.value_strictMono.monotone hp
    have hlow := f.value_strictMono hp
    have hx : f.value M ≤ x := by
      by_contra hx
      rw [abs_of_neg (by linarith), abs_of_neg (by linarith)] at hle
      linarith
    rw [abs_of_nonneg (sub_nonneg.2 hx)] at hle heq
    have hup := neg_le_abs (x - f.value p)
    obtain hlt | he := lt_or_eq_of_le (show f.value M + f.value (M + 1) ≤ 2 * x by linarith)
    · exact .inl hlt
    · have hp1 : p = M + 1 := f.value_strictMono.injective (by linarith)
      have := heq (by linarith) hp.ne
      exact .inr ⟨he, by omega⟩
  · contrapose!
    intro hp
    obtain ⟨hle, heq⟩ := h (M + 1)
    have hstep : f.value p ≤ f.value M := f.value_strictMono.monotone hp
    have hup := f.value_strictMono (Nat.lt_succ_of_le hp)
    have hx : x ≤ f.value (M + 1) := by
      by_contra hx
      rw [abs_of_pos (by linarith), abs_of_pos (by linarith)] at hle
      linarith
    rw [abs_sub_comm x (f.value (M + 1)), abs_of_nonneg (sub_nonneg.2 hx)] at hle heq
    have hlow := le_abs_self (x - f.value p)
    refine ⟨by linarith, fun he => ?_⟩
    have hpM : p = M := f.value_strictMono.injective (by linarith)
    have := heq (by linarith) (by omega)
    omega

theorem RoundsMag.lt_iff_toZero (h : RoundsMag f x p .toZero) : M < p ↔ f.value (M + 1) ≤ x := by
  obtain ⟨hle, hmax⟩ := h
  exact ⟨fun hp => (f.value_strictMono.monotone hp).trans hle, fun hx => hmax _ hx⟩

theorem RoundsMag.lt_iff_away (h : RoundsMag f x p .away) : M < p ↔ f.value M < x := by
  obtain ⟨hle, hmin⟩ := h
  rw [← not_iff_not, not_lt, not_lt]
  exact ⟨fun hp => hle.trans (f.value_strictMono.monotone hp), hmin M⟩

/-- A number that is a value rounds to it. -/
theorem RoundsMag.eq_of_value {y : Nat} (h : f.value y = x) : ∀ {d : Direction}, RoundsMag f x p d → p = y
  | .nearest, hr => by
    obtain ⟨hle, -⟩ := hr y
    rw [h, sub_self, abs_zero] at hle
    have := abs_eq_zero.1 (le_antisymm hle (abs_nonneg _))
    exact f.value_strictMono.injective (by linarith)
  | .toZero, ⟨hle, hmax⟩ => le_antisymm (f.value_strictMono.le_iff_le.1 (h ▸ hle)) (hmax y h.le)
  | .away, ⟨hle, hmin⟩ => le_antisymm (hmin y h.ge) (f.value_strictMono.le_iff_le.1 (h ▸ hle))

end

/-! ### The range of a format with infinities -/

section
variable {f : Fmt} (hf : f.Ieee)
include hf

theorem Fmt.Ieee.two_pow_ew : 2 ^ f.ew = 2 * (f.bias + 1) := by
  have := hf.two_le
  rw [hf.bias, Nat.sub_add_cancel Nat.one_le_two_pow, ← pow_succ', Nat.sub_add_cancel (by omega)]

theorem Fmt.Ieee.one_le_bias : 1 ≤ f.bias := by
  have := hf.two_le
  have := Nat.pow_le_pow_right (two_pos) (show 1 ≤ f.ew - 1 by omega)
  rw [hf.bias]
  omega

theorem Fmt.Ieee.inf_eq : f.inf = (2 * f.bias) * 2 ^ f.fw + 2 ^ f.fw := by
  rw [Fmt.inf, hf.two_pow_ew, ← add_one_mul]
  rfl

theorem Fmt.Ieee.maxFin_eq : f.maxFin = (2 * f.bias - 1) * 2 ^ f.fw + (2 ^ (f.fw + 1) - 1) := by
  have h1 := hf.maxFin
  have h2 := hf.one_le_bias
  have h3 : 0 < 2 ^ f.fw := by positivity
  rw [hf.inf_eq] at h1
  obtain ⟨k, hk⟩ : ∃ k, 2 * f.bias = k + 1 := ⟨2 * f.bias - 1, by omega⟩
  rw [hk, add_one_mul] at h1
  rw [hk, Nat.add_sub_cancel, pow_succ]
  omega

theorem Fmt.Ieee.maxFin_odd : f.maxFin % 2 = 1 := by
  obtain ⟨k, hk⟩ : ∃ k, f.fw = k + 1 := ⟨f.fw - 1, by have := hf.fw_pos; omega⟩
  have h1 := hf.maxFin
  rw [hf.inf_eq, hk, pow_succ, show 2 * f.bias * (2 ^ k * 2) + 2 ^ k * 2 = 2 * ((2 * f.bias + 1) * 2 ^ k) by ring] at h1
  omega

theorem Fmt.Ieee.value_maxFin : f.value f.maxFin = (2 - 1 / 2 ^ f.fw) * 2 ^ f.bias := by
  have h1 := hf.one_le_bias
  have hpos : (0 : ℝ) < 2 ^ f.fw := by positivity
  rw [hf.maxFin_eq, Fmt.value, Fmt.level_of_digits (Nat.sub_le _ _) (.inr (by rw [pow_succ]; have := Nat.one_le_two_pow (n := f.fw); omega)),
    Fmt.ulp, Nat.cast_mul, Nat.cast_pow, Nat.cast_ofNat, mul_assoc, ← zpow_natCast (2 : ℝ) (2 * f.bias - 1), ← zpow_add₀ two_ne_zero,
    show ((2 * f.bias - 1 : Nat) : Int) + (1 - (f.bias : Int) - f.fw) = f.bias - f.fw by omega, zpow_sub₀ two_ne_zero, zpow_natCast,
    zpow_natCast, Nat.cast_sub Nat.one_le_two_pow]
  push_cast
  rw [pow_succ]
  field_simp

theorem Fmt.Ieee.value_inf : f.value (f.maxFin + 1) = 2 * 2 ^ f.bias := by
  rw [hf.maxFin, hf.inf_eq, Fmt.value, Fmt.level_of_digits (Nat.pow_le_pow_right two_pos (Nat.le_succ _)) (.inr le_rfl), Fmt.ulp,
    Nat.cast_mul, Nat.cast_pow, Nat.cast_ofNat, Nat.cast_pow, Nat.cast_ofNat, ← pow_add, ← zpow_natCast, ← zpow_add₀ two_ne_zero,
    ← pow_succ', ← zpow_natCast (2 : ℝ) (f.bias + 1)]
  congr 1
  push_cast
  ring

theorem Fmt.Ieee.one_le_value_maxFin : 1 ≤ f.value f.maxFin := by
  have hfw : (1 : ℝ) / 2 ^ f.fw ≤ 1 := (div_le_one (by positivity)).2 (one_le_pow₀ one_le_two)
  have hbias : (1 : ℝ) ≤ 2 ^ f.bias := one_le_pow₀ one_le_two
  rw [hf.value_maxFin]
  nlinarith

theorem Fmt.Ieee.least_le_value_maxFin : (2 : ℝ) ^ (1 - (f.bias : Int)) ≤ f.value f.maxFin := by
  have h1 := hf.one_le_bias
  calc (2 : ℝ) ^ (1 - (f.bias : Int)) ≤ 2 ^ (0 : Int) := zpow_le_zpow_right₀ one_le_two (by omega)
    _ = 1 := zpow_zero 2
    _ ≤ _ := hf.one_le_value_maxFin

/-- The rounded magnitude exceeds the largest finite one (R166). -/
def OverMag (f : Fmt) (x : ℝ) : Direction → Prop
  | .nearest => (2 - 1 / 2 ^ (f.fw + 1)) * 2 ^ f.bias ≤ x
  | .toZero => 2 * 2 ^ f.bias ≤ x
  | .away => (2 - 1 / 2 ^ f.fw) * 2 ^ f.bias < x

theorem Fmt.Ieee.overMag_iff {x : ℝ} {p : Nat} : ∀ {d : Direction}, RoundsMag f x p d → (f.maxFin < p ↔ OverMag f x d)
  | .toZero, h => by rw [h.lt_iff_toZero, hf.value_inf, OverMag]
  | .away, h => by rw [h.lt_iff_away, hf.value_maxFin, OverMag]
  | .nearest, h => by
    have hmid : (2 - 1 / 2 ^ f.fw) * 2 ^ f.bias + 2 * (2 : ℝ) ^ f.bias = 2 * ((2 - 1 / 2 ^ (f.fw + 1)) * 2 ^ f.bias) := by
      have : (2 : ℝ) ^ f.fw ≠ 0 := by positivity
      rw [pow_succ]
      field_simp
      ring
    rw [h.lt_iff_nearest, hf.value_inf, hf.value_maxFin, OverMag, hmid]
    simp only [hf.maxFin_odd, and_true]
    rw [← le_iff_lt_or_eq]
    exact mul_le_mul_iff_right₀ two_pos

end

/-! ### Rounding to a format with infinities (R165, R166) -/

theorem overflowsToMax_iff {mode : Nat} (hm : mode < 4) (n : Bool) : overflowsToMax mode n = true ↔ direction mode n = .toZero := by
  interval_cases mode <;> cases n <;> simp [overflowsToMax, direction]

theorem fpRound_eq (f : Fmt) (mode : Nat) (n : Bool) (m : Nat) (e : Int) (st : Bool) : fpRound f mode n m e st =
    if (roundCore f mode n m e st).1 > f.maxFin then
      (signed f n (if overflowsToMax mode n then f.maxFin else f.inf), flOF ||| flNX)
    else (signed f n (roundCore f mode n m e st).1, flag (roundCore f mode n m e st).2.1 flNX |||
      flag ((roundCore f mode n m e st).2.2 && (roundCore f mode n m e st).2.1) flUF) := rfl

theorem withNeg_lt_zero {x : ℝ} (hx : 0 < x) (n : Bool) : withNeg n x < 0 ↔ n = true := by
  cases n <;> simp [hx, hx.le]

section
variable {f : Fmt} (hf : f.Ieee) {x : ℝ} (hx : 0 < x) {p mode : Nat} {n : Bool}
include hx

theorem sign_signed {r : Nat} (hp : r < 2 ^ (f.ew + f.fw)) : signed f n r / 2 ^ (f.ew + f.fw) = if withNeg n x < 0 then 1 else 0 := by
  rw [show signed f n r / 2 ^ (f.ew + f.fw) = f.sgn (signed f n r) from rfl, sgn_signed hp]
  simp only [withNeg_lt_zero hx]

include hf

/-- A value in range is the one of all finite ones that the mode chooses. -/
theorem Fmt.Ieee.rounds_of_le (h : RoundsMag f x p (direction mode n)) (hp : p ≤ f.maxFin) :
    Rounds f mode (withNeg n x) (signed f n p) := by
  refine ⟨sign_signed hx (hp.trans_lt hf.regular.maxFin_lt), .inl ⟨_, hf.regular.finitePattern_signed hp, fun y q hy => ?_⟩⟩
  obtain ⟨-, rfl⟩ := hf.regular.finitePattern_iff.1 hy
  have hc := h.isChoice hx hf.ew_pos (f.neg y) (f.mag y)
  rw [← Fmt.cast_rat, ← Fmt.cast_rat, ← cast_withNeg, ← cast_withNeg] at hc
  refine ⟨fun hm => ?_, fun hm => ?_, fun hm => ?_, fun hm => ?_⟩
  · obtain ⟨hle, heq⟩ := hc.nearest hm
    refine ⟨hle, fun he hne => heq he (by exact_mod_cast hne), ?_⟩
    subst hm
    have := (not_congr (hf.overMag_iff h)).1 hp.not_gt
    rw [abs_withNeg, abs_of_pos hx, ← hf.bias]
    exact not_le.1 this
  · obtain ⟨hle, -, hmax⟩ := hc.toZero hm
    exact ⟨hle, fun hq => by exact_mod_cast hmax hq⟩
  · obtain ⟨hle, hmin⟩ := hc.up hm
    exact ⟨hle, fun hq => by exact_mod_cast hmin hq⟩
  · obtain ⟨hle, hmax⟩ := hc.down hm
    exact ⟨hle, fun hq => by exact_mod_cast hmax hq⟩

/-- Beyond the largest finite value a direction toward zero gives that value. -/
theorem Fmt.Ieee.rounds_maxFin (hm : mode < 4) (hd : direction mode n = .toZero) (hover : f.value f.maxFin < x) :
    Rounds f mode (withNeg n x) (signed f n f.maxFin) := by
  rw [← Fmt.cast_rat] at hover
  have h0 : (0 : ℝ) ≤ f.rat f.maxFin := by
    rw [Fmt.cast_rat]
    exact f.value_nonneg _
  refine ⟨sign_signed hx hf.regular.maxFin_lt, .inl ⟨_, hf.regular.finitePattern_signed le_rfl, fun y q hy => ?_⟩⟩
  have hq := abs_le.1 (hf.regular.abs_le_maxFin hy)
  have hcast : ((withNeg n (f.rat f.maxFin) : ℚ) : ℝ) = withNeg n (f.rat f.maxFin : ℝ) := cast_withNeg _ _
  refine ⟨fun hm => ?_, fun _ => ?_, fun hm => ?_, fun hm => ?_⟩
  · subst hm
    cases hd
  · rw [hcast, abs_withNeg, abs_withNeg, abs_withNeg, abs_of_nonneg h0, abs_of_pos hx]
    refine ⟨hover.le, fun _ => (hf.regular.abs_le_maxFin hy).trans (le_abs_self _)⟩
  · subst hm
    obtain rfl : n = true := by cases n <;> simp_all [direction]
    rw [hcast]
    exact ⟨neg_le_neg hover.le, fun _ => hq.1⟩
  · subst hm
    obtain rfl : n = false := by cases n <;> simp_all [direction]
    rw [hcast]
    exact ⟨hover.le, fun _ => hq.2⟩

/-- Beyond the largest finite value the other directions give an infinity. -/
theorem Fmt.Ieee.rounds_inf (hm : mode < 4) (hd : direction mode n ≠ .toZero) (hover : OverMag f x (direction mode n))
    (hmax : f.value f.maxFin < x) : Rounds f mode (withNeg n x) (signed f n f.inf) := by
  have hlt : f.inf < 2 ^ (f.ew + f.fw) := by
    rw [Fmt.inf, pow_add]
    exact Nat.mul_lt_mul_of_pos_right (Nat.sub_lt (by positivity) one_pos) (by positivity)
  rw [← Fmt.cast_rat] at hmax
  refine ⟨sign_signed hx hlt, .inr ⟨mag_signed hlt n, fun h0 => ?_, fun h1 => ?_, fun y q hy => ⟨fun h2 => ?_, fun h3 => ?_⟩⟩⟩
  · subst h0
    rw [abs_withNeg, abs_of_pos hx, ← hf.bias]
    exact hover
  · subst h1
    exact hd rfl
  · subst h2
    obtain rfl : n = false := by cases n <;> simp_all [direction]
    have hq : (q : ℝ) ≤ f.rat f.maxFin := by exact_mod_cast (abs_le.1 (hf.regular.abs_le_maxFin hy)).2
    exact hq.trans_lt hmax
  · subst h3
    obtain rfl : n = true := by cases n <;> simp_all [direction]
    have hq : -(f.rat f.maxFin : ℝ) ≤ q := by exact_mod_cast (abs_le.1 (hf.regular.abs_le_maxFin hy)).1
    exact (neg_lt_neg hmax).trans_le hq

end

section
variable {f : Fmt} (hf : f.Ieee) {m : Nat} {e : Int} {st : Bool} {x : ℝ} (h : Given f m e st x) {mode : Nat} (hm : mode < 4) (n : Bool)
include hf h

theorem Fmt.Ieee.over_iff : f.maxFin < (roundCore f mode n m e st).1 ↔ OverMag f x (direction mode n) :=
  hf.overMag_iff (h.roundsMag hf.fw_pos).1

theorem Fmt.Ieee.maxFin_lt_of_over (hover : f.maxFin < (roundCore f mode n m e st).1) : f.value f.maxFin < x := by
  have h1 := f.value_strictMono (Nat.lt_succ_self f.maxFin)
  have hr := (h.roundsMag (mode := mode) (neg := n) hf.fw_pos).1
  cases hd : direction mode n <;> rw [hd] at hr
  · have := hr.lt_iff_nearest.1 hover
    obtain h2 | ⟨h2, -⟩ := this <;> linarith
  · exact h1.trans_le (hr.lt_iff_toZero.1 hover)
  · exact hr.lt_iff_away.1 hover

include hm

theorem Fmt.Ieee.rounds_fpRound : Rounds f mode (withNeg n x) (fpRound f mode n m e st).1 := by
  rw [fpRound_eq]
  split
  next hover =>
    have hmax := hf.maxFin_lt_of_over h n hover
    by_cases hd : direction mode n = .toZero
    · rw [if_pos ((overflowsToMax_iff hm n).2 hd)]
      exact hf.rounds_maxFin h.pos hm hd hmax
    · rw [if_neg fun ht => hd ((overflowsToMax_iff hm n).1 ht)]
      exact hf.rounds_inf h.pos hm hd ((hf.over_iff h n).1 hover) hmax
  next hle => exact hf.rounds_of_le h.pos (h.roundsMag hf.fw_pos).1 (not_lt.1 hle)

end

/-! ### The flags (R166, R167) -/

section
variable {f : Fmt} (hf : f.Ieee) {x : ℝ} {t : ℚ} {mode : Nat} {n : Bool} (hm : mode < 4) (hx : 0 < x) (ht : (t : ℝ) = withNeg n x)
include ht hx

theorem abs_cast_eq : ((|t| : ℚ) : ℝ) = x := by rw [Rat.cast_abs, ht, abs_withNeg, abs_of_pos hx]

theorem lt_zero_iff : t < 0 ↔ n = true := by
  rw [← withNeg_lt_zero hx n, ← ht]
  norm_cast

theorem zero_lt_iff : 0 < t ↔ n = false := by
  have : t ≠ 0 := by
    rintro rfl
    have := abs_cast_eq hx ht
    simp at this
    exact hx.ne this
  rw [← Bool.not_eq_true, ← lt_zero_iff hx ht, not_lt]
  exact ⟨le_of_lt, fun h => lt_of_le_of_ne h this.symm⟩

theorem towardZero_iff : TowardZero mode t ↔ mode = 1 ∨ mode = 2 ∧ n = true ∨ mode = 3 ∧ n = false := by
  rw [TowardZero, lt_zero_iff hx ht, zero_lt_iff hx ht]

include hm

/-- Of three conditions the one that belongs to a mode's direction. -/
theorem of_direction_iff {A B C : Prop} {D : Direction → Prop} (hA : A ↔ D .nearest) (hB : B ↔ D .toZero) (hC : C ↔ D .away) :
    (mode = 0 → A) ∧ (TowardZero mode t → B) ∧ (mode ≠ 0 → ¬ TowardZero mode t → C) ↔ D (direction mode n) := by
  rw [towardZero_iff hx ht, hA, hB, hC]
  interval_cases mode <;> cases n <;> simp [direction]

include hf

theorem Fmt.Ieee.overflows_iff : Overflows f mode t ↔ OverMag f x (direction mode n) := by
  have hx' := abs_cast_eq hx ht
  refine of_direction_iff (D := OverMag f x) hm hx ht ?_ ?_ ?_ <;> rw [OverMag, ← hx', ← hf.bias]
  · rw [← Rat.cast_le (K := ℝ)]
    push_cast
    rfl
  · rw [← Rat.cast_le (K := ℝ)]
    push_cast
    rfl
  · rw [← Rat.cast_lt (K := ℝ)]
    push_cast
    rfl

theorem Fmt.Ieee.tiny_iff : Tiny f mode t ↔ TinyMag f x (direction mode n) := by
  have hx' := abs_cast_eq hx ht
  have he : (2 - 2 ^ (f.ew - 1) : ℤ) = 1 - (f.bias : ℤ) := by
    have h1 : (f.bias : ℤ) + 1 = 2 ^ (f.ew - 1) := by
      rw [hf.bias, Nat.cast_sub Nat.one_le_two_pow]
      push_cast
      ring
    omega
  unfold Tiny
  rw [he]
  refine of_direction_iff (D := TinyMag f x) hm hx ht ?_ ?_ ?_ <;> rw [TinyMag, ← hx']
  · rw [← Rat.cast_lt (K := ℝ)]
    push_cast
    rfl
  · rw [← Rat.cast_lt (K := ℝ)]
    push_cast
    rfl
  · rw [← Rat.cast_le (K := ℝ)]
    push_cast
    rfl

end

theorem getLsbD_flags (a b : Bool) : let w := flag a flNX ||| flag b flUF
    w.getLsbD 4 = a ∧ w.getLsbD 2 = false ∧ w.getLsbD 3 = b ∧ w &&& 28 = w := by
  cases a <;> cases b <;> decide

section
variable {f : Fmt} (hf : f.Ieee) {m : Nat} {e : Int} {st : Bool} {x : ℝ} (h : Given f m e st x) {mode : Nat} (hm : mode < 4) {n : Bool}
  {t : ℚ} (ht : (t : ℝ) = withNeg n x)
include hf h hm ht

theorem Fmt.Ieee.roundsOnce_fpRound : RoundsOnce f mode t (fpRound f mode n m e st) := by
  have hround := hf.rounds_fpRound h hm n
  rw [← ht] at hround
  refine ⟨hround, ?_⟩
  rw [hf.overflows_iff hm h.pos ht, hf.tiny_iff hm h.pos ht, ← hf.over_iff h n, ← h.tiny_iff, fpRound_eq]
  split
  next hover =>
    have hbeyond : ∀ r, ¬ FinitePattern f r t := fun r hr => by
      have h1 := hf.maxFin_lt_of_over h n hover
      have h2 : ((|t| : ℚ) : ℝ) ≤ (f.rat f.maxFin : ℚ) := by exact_mod_cast hf.regular.abs_le_maxFin hr
      rw [abs_cast_eq h.pos ht, Fmt.cast_rat] at h2
      exact h1.not_ge h2
    have hnot : ¬ (roundCore f mode n m e st).2.2 = true := by
      rw [h.tiny_iff]
      have h1 := hf.maxFin_lt_of_over h n hover
      refine not_tinyMag (le_trans ?_ h1.le) _
      exact hf.least_le_value_maxFin
    simp only [hbeyond, iff_false, hover, not_false_eq_true, and_true, hnot]
    decide
  next hle =>
    have hrange := not_lt.1 hle
    have hexact : FinitePattern f (signed f n (roundCore f mode n m e st).1) t ↔ (roundCore f mode n m e st).2.1 = false := by
      have hlt := hrange.trans_lt hf.regular.maxFin_lt
      rw [(h.roundsMag hf.fw_pos).2, hf.regular.finitePattern_iff, mag_signed hlt, neg_signed hlt, ← Fmt.cast_rat]
      simp only [hrange, true_and]
      rw [← Rat.cast_inj (α := ℝ), ht, cast_withNeg]
      cases n <;> simp
    obtain ⟨h4, h2, h3, hand⟩ := getLsbD_flags (roundCore f mode n m e st).2.1
      ((roundCore f mode n m e st).2.2 && (roundCore f mode n m e st).2.1)
    simp only [h4, h2, h3, hand, hexact, hle, Bool.false_eq_true, Bool.and_eq_true, Bool.not_eq_false, and_self]

end

end Sys2Proof.Machine
end

section

/-!
# The arithmetic operations round their exact results once
-/

namespace Sys2Proof.Machine

-- One proof at a time: each waiting thread would reserve a stack of its own.
set_option Elab.async false

/-! ### What is given to `fpRound` -/

theorem given_exact {f : Fmt} {m : Nat} (hm : m ≠ 0) (e : Int) : Given f m e false (m * 2 ^ e) where
  sticky := mul_div_cancel_right₀ _ (zpow_pos two_pos e).ne'
  ne_zero := hm
  digits h := by cases h

/-- An integer part of enough digits, with a mark of what lies below it. -/
theorem given_sticky {f : Fmt} {m : Nat} {e : Int} {st : Bool} {x : ℝ} (hs : Sticky m st (x / 2 ^ e)) (hm : 2 ^ (f.fw + 1) ≤ m) :
    Given f m e st x where
  sticky := hs
  ne_zero := by
    have : 0 < 2 ^ (f.fw + 1) := by positivity
    omega
  digits _ := by
    have : 0 < 2 ^ (f.fw + 1) := by positivity
    exact (Nat.le_log2 (by omega)).2 hm

@[simp] theorem withNeg_zero (n : Bool) : withNeg n (0 : ℚ) = 0 := by cases n <;> simp

/-- The number (−1)^n × m × 2^e. -/
def finRat (n : Bool) (m : Nat) (e : Int) : ℚ := withNeg n ((m : ℚ) * 2 ^ e)

theorem cast_finRat (n : Bool) (m : Nat) (e : Int) : ((finRat n m e : ℚ) : ℝ) = withNeg n ((m : ℝ) * 2 ^ e) := by
  rw [finRat, cast_withNeg]
  push_cast
  rfl

theorem Fmt.Ieee.roundsOnce_exact {f : Fmt} (hf : f.Ieee) {mode m : Nat} (hm : mode < 4) (h0 : m ≠ 0) (n : Bool) (e : Int) :
    RoundsOnce f mode (finRat n m e) (fpRound f mode n m e) :=
  hf.roundsOnce_fpRound (given_exact h0 e) hm (cast_finRat n m e)

/-! ### Operands -/

/-- A finite operand: its parts, and the number it stands for. -/
structure Reads (f : Fmt) (x : Nat) (n : Bool) (m : Nat) (e : Int) (p : ℚ) : Prop where
  unpack : unpack f x = .fin n m e
  value : p = finRat n m e
  lt : m < 2 ^ (f.fw + 1)
  le : 1 - (f.bias : Int) - f.fw ≤ e
  max : |p| ≤ f.rat f.maxFin

theorem Fmt.Regular.reads {f : Fmt} (hf : f.Regular) {x : Nat} {p : ℚ} (h : FinitePattern f x p) : ∃ n m e, Reads f x n m e p := by
  have hmax := hf.abs_le_maxFin h
  obtain ⟨n, m, e, hu, hp⟩ := h
  obtain ⟨hy, -, hm, he⟩ := hf.unpack_eq_fin_iff.1 hu
  refine ⟨n, m, e, hu, by rw [hp, finRat, withNeg_eq_mul, mul_assoc], ?_, by omega, hmax⟩
  have := f.frac_lt x
  rw [hm, Fmt.sig, pow_succ]
  split <;> omega

/-- The result and its flags are a number rounded once, or zero. -/
def Right (f : Fmt) (mode : Nat) (t : ℚ) (o : Nat × Word) : Prop :=
  (t ≠ 0 → RoundsOnce f mode t o) ∧ (t = 0 → FinitePattern f o.1 0 ∧ o.2 = 0)

section
variable {f : Fmt} (hf : f.Ieee) {mode : Nat} (hm : mode < 4)
include hf

theorem Fmt.Ieee.finitePattern_zero (n : Bool) : FinitePattern f (signed f n 0) 0 := by
  have h := hf.regular.finitePattern_signed (n := n) (Nat.zero_le _)
  rwa [show withNeg n (f.rat 0) = 0 by cases n <;> simp [Fmt.rat, Fmt.level_zero]] at h

theorem Fmt.Ieee.right_zero {t : ℚ} (ht : t = 0) (n : Bool) : Right f mode t (signed f n 0, 0) :=
  ⟨fun h => absurd ht h, fun _ => ⟨hf.finitePattern_zero n, rfl⟩⟩

include hm

theorem Fmt.Ieee.right_fpRound {m : Nat} {e : Int} {st : Bool} {x : ℝ} {n : Bool} {t : ℚ} (h : Given f m e st x)
    (ht : (t : ℝ) = withNeg n x) : Right f mode t (fpRound f mode n m e st) := by
  refine ⟨fun _ => hf.roundsOnce_fpRound h hm ht, fun h0 => ?_⟩
  have h1 := abs_cast_eq h.pos ht
  have h2 := h.pos
  rw [h0, abs_zero, Rat.cast_zero] at h1
  exact absurd h1 h2.ne

theorem Fmt.Ieee.right_fpOfV (n : Bool) (m : Nat) (e : Int) :
    Right f mode (finRat n m e) (fpOfV f mode (.fin n m e)) := by
  unfold fpOfV
  simp only [beq_iff_eq]
  split
  next h0 => exact hf.right_zero (by simp [finRat, h0]) n
  next h0 => exact hf.right_fpRound hm (given_exact h0 e) (cast_finRat n m e)

end

theorem finRat_decide_natAbs (s e : Int) : finRat (decide (s < 0)) s.natAbs e = s * 2 ^ e := by
  unfold finRat
  obtain h | h := lt_or_ge s 0
  · simp only [h, decide_true, withNeg_true, Nat.cast_natAbs, abs_of_neg h]
    simp
  · simp only [h.not_gt, decide_false, withNeg_false, Nat.cast_natAbs, abs_of_nonneg h]

/-- The exact sum of two values, as an integer at the lower of their weights. -/
theorem exactSum_value (ma mb : Nat) (na nb : Bool) (ea eb : Int) :
    ((exactSum ma na ea mb nb eb).1 : ℚ) * 2 ^ (exactSum ma na ea mb nb eb).2 =
      finRat na ma ea + finRat nb mb eb := by
  have scale : ∀ (m : Nat) (e c : Int), c ≤ e → ((m * 2 ^ (e - c).toNat : Nat) : ℚ) * 2 ^ c = m * 2 ^ e := fun m e c h => by
    push_cast
    rw [mul_assoc, ← zpow_natCast, ← zpow_add₀ two_ne_zero, show ((e - c).toNat : Int) + c = e by omega]
  have h1 := scale ma ea (min ea eb) (min_le_left _ _)
  have h2 := scale mb eb (min ea eb) (min_le_right _ _)
  unfold exactSum
  simp only
  rw [finRat, finRat, ← h1, ← h2]
  cases na <;> cases nb <;> push_cast <;> simp <;> ring

theorem finRat_mul (m m' : Nat) (n n' : Bool) (e e' : Int) : finRat n m e * finRat n' m' e' = finRat (n != n') (m * m') (e + e') := by
  have h : ((m * m' : Nat) : ℚ) * 2 ^ (e + e') = m * 2 ^ e * (m' * 2 ^ e') := by
    rw [zpow_add₀ two_ne_zero]
    push_cast
    ring
  unfold finRat
  rw [h]
  cases n <;> cases n' <;> simp

theorem finRat_not (n : Bool) (m : Nat) (e : Int) : finRat (!n) m e = -finRat n m e := by cases n <;> simp [finRat]

/-- The quotient of two significands, 64 digits past the point, with a mark of its remainder. -/
theorem sticky_div (a b : Nat) (hb : b ≠ 0) : Sticky (a / b) (a % b != 0) ((a : ℝ) / b) := by
  have hpos : (0 : ℝ) < b := Nat.cast_pos.2 (Nat.pos_of_ne_zero hb)
  have hdiv : (a : ℝ) = (a / b : Nat) * b + (a % b : Nat) := by exact_mod_cast (Nat.div_add_mod' a b).symm
  have hlt : ((a % b : Nat) : ℝ) < b := Nat.cast_lt.2 (Nat.mod_lt a (Nat.pos_of_ne_zero hb))
  unfold Sticky
  split
  next hr =>
    have hr0 : (0 : ℝ) < (a % b : Nat) := Nat.cast_pos.2 (Nat.pos_of_ne_zero (by simpa using hr))
    rw [lt_div_iff₀ hpos, div_lt_iff₀ hpos]
    constructor <;> linarith
  next hr =>
    have hr0 : a % b = 0 := by simpa using hr
    rw [hr0, Nat.cast_zero, add_zero] at hdiv
    rw [div_eq_iff hpos.ne']
    exact hdiv

section
variable {f : Fmt} (hf : f.Ieee) {mode : Nat} (hm : mode < 4) {x y z : Nat} {p q r : ℚ} {n n' : Bool} {m m' : Nat} {e e' : Int}
include hf hm

theorem Fmt.Ieee.right_fpAddV : Right f mode (finRat n m e + finRat n' m' e') (fpAddV f mode (.fin n m e) (.fin n' m' e')) := by
  have hs := exactSum_value m m' n n' e e'
  unfold fpAddV
  simp only [beq_iff_eq]
  generalize exactSum m n e m' n' e' = s at *
  rw [← hs, ← finRat_decide_natAbs]
  split
  next h0 => exact hf.right_zero (by simp [finRat, h0]) _
  next h0 => exact hf.right_fpRound hm (given_exact (Int.natAbs_ne_zero.2 h0) s.2) (cast_finRat _ _ _)

theorem Fmt.Ieee.right_fpAdd (hx : Reads f x n m e p) (hy : Reads f y n' m' e' q) : Right f mode (p + q) (fpAdd f mode x y) := by
  rw [hx.value, hy.value]
  have := hf.right_fpAddV hm (n := n) (n' := n') (m := m) (m' := m') (e := e) (e' := e')
  simpa [fpAdd, hx.unpack, hy.unpack, FVal.isNan] using this

theorem Fmt.Ieee.right_fpSub (hx : Reads f x n m e p) (hy : Reads f y n' m' e' q) : Right f mode (p - q) (fpSub f mode x y) := by
  rw [hx.value, hy.value, sub_eq_add_neg, ← finRat_not]
  have := hf.right_fpAddV hm (n := n) (n' := !n') (m := m) (m' := m') (e := e) (e' := e')
  simpa [fpSub, hx.unpack, hy.unpack, FVal.isNan, FVal.negate] using this

theorem Fmt.Ieee.right_fpMul (hx : Reads f x n m e p) (hy : Reads f y n' m' e' q) : Right f mode (p * q) (fpMul f mode x y) := by
  rw [hx.value, hy.value, finRat_mul]
  have := hf.right_fpOfV hm (n != n') (m * m') (e + e')
  simpa [fpMul, hx.unpack, hy.unpack, FVal.isNan, fpMulV, FVal.neg] using this

theorem Fmt.Ieee.right_fpFma {k : Bool} {l : Nat} {i : Int} (hz : Reads f z k l i r) (hx : Reads f x n m e p) (hy : Reads f y n' m' e' q) :
    Right f mode (r + p * q) (fpFma f mode z x y) := by
  rw [hx.value, hy.value, hz.value, finRat_mul]
  have := hf.right_fpAddV hm (n := k) (n' := n != n') (m := l) (m' := m * m') (e := i) (e' := e + e')
  simpa [fpFma, hx.unpack, hy.unpack, hz.unpack, FVal.isNan, fpMulV, FVal.neg] using this

theorem Fmt.Ieee.right_fpDiv (hfw : f.fw ≤ 23) (hx : Reads f x n m e p) (hy : Reads f y n' m' e' q) (hq : q ≠ 0) :
    Right f mode (p / q) (fpDiv f mode x y) := by
  have hm' : m' ≠ 0 := by
    rintro rfl
    exact hq (by simp [hy.value, finRat])
  have hdiv : ((p / q : ℚ) : ℝ) = withNeg (n != n') ((m : ℝ) / m' * 2 ^ (e - e')) := by
    rw [hx.value, hy.value, Rat.cast_div, cast_finRat, cast_finRat, zpow_sub₀ two_ne_zero]
    have : (m : ℝ) * 2 ^ e / (m' * 2 ^ e') = m / m' * (2 ^ e / 2 ^ e') := mul_div_mul_comm _ _ _ _
    rw [← this]
    cases n <;> cases n' <;> simp [neg_div, div_neg]
  unfold fpDiv
  simp only [hx.unpack, hy.unpack, FVal.isNan, FVal.neg, Bool.or_self, Bool.false_eq_true, if_false, beq_iff_eq, hm']
  split
  next h0 => exact hf.right_zero (by simp [hx.value, finRat, h0]) _
  next h0 =>
    refine hf.right_fpRound hm (given_sticky ?_ ?_) hdiv
    · have := sticky_div (m * 2 ^ 64) m' hm'
      rwa [show ((m * 2 ^ 64 : Nat) : ℝ) / m' = m / m' * 2 ^ (e - e') / 2 ^ (e - e' - 64) by
        rw [zpow_sub₀ two_ne_zero (e - e')]
        push_cast
        field_simp
        norm_num] at this
    · have h1 : 2 ^ (f.fw + 1) ≤ 2 ^ 24 := Nat.pow_le_pow_right two_pos (by omega)
      have h2 := hy.lt
      rw [Nat.le_div_iff_mul_le (by omega)]
      calc 2 ^ (f.fw + 1) * m' ≤ 2 ^ 24 * 2 ^ 24 := Nat.mul_le_mul h1 (by omega)
        _ ≤ 1 * 2 ^ 64 := by norm_num
        _ ≤ m * 2 ^ 64 := Nat.mul_le_mul_right _ (by omega)

end

/-! ### The square root -/

/-- The root is bracketed more closely with each bit. -/
theorem isqrtLoop_spec (x : Nat) : ∀ n r, r * r ≤ x → x < (r + 2 ^ n) * (r + 2 ^ n) →
    isqrtLoop n x r * isqrtLoop n x r ≤ x ∧ x < (isqrtLoop n x r + 1) * (isqrtLoop n x r + 1)
  | 0, r, h1, h2 => by simpa [isqrtLoop] using ⟨h1, h2⟩
  | n + 1, r, h1, h2 => by
    unfold isqrtLoop
    rw [pow_succ, mul_two, ← add_assoc] at h2
    split
    next h => exact isqrtLoop_spec x n _ h h2
    next h => exact isqrtLoop_spec x n r h1 (not_le.1 h)

theorem isqrt_eq {x : Nat} (h : x < 2 ^ 256) : isqrt x = Nat.sqrt x := by
  obtain ⟨h1, h2⟩ := isqrtLoop_spec x 128 0 (by simp) (by simpa using h.trans_eq (by norm_num))
  exact Nat.eq_sqrt.2 ⟨h1, h2⟩

/-- The integer part of a root, with a mark of what lies below it. -/
theorem sticky_sqrt (x : Nat) : Sticky (Nat.sqrt x) (Nat.sqrt x * Nat.sqrt x != x) (Real.sqrt x) := by
  have h1 : (Nat.sqrt x : ℝ) ≤ Real.sqrt x := Real.le_sqrt_of_sq_le (by exact_mod_cast Nat.sqrt_le' x)
  have h2 : Real.sqrt x < Nat.sqrt x + 1 := (Real.sqrt_lt' (by positivity)).2 (by exact_mod_cast Nat.lt_succ_sqrt' x)
  unfold Sticky
  split
  next h =>
    refine ⟨lt_of_le_of_ne h1 fun he => ?_, h2⟩
    have h3 : (Nat.sqrt x : ℝ) * Nat.sqrt x = x := by rw [he, Real.mul_self_sqrt (Nat.cast_nonneg x)]
    simp only [bne_iff_ne, ne_eq] at h
    exact h (by exact_mod_cast h3)
  next h =>
    have h3 : Nat.sqrt x * Nat.sqrt x = x := by simpa using h
    have h4 : (x : ℝ) = Nat.sqrt x * Nat.sqrt x := by exact_mod_cast h3.symm
    rw [h4, Real.sqrt_mul_self (Nat.cast_nonneg _)]

/-- A result in the normal range raises the inexact flag alone. -/
theorem fpRound_of_normal {f : Fmt} {mode m : Nat} {e : Int} {st n : Bool} (hover : ¬ f.maxFin < (roundCore f mode n m e st).1)
    (htiny : (roundCore f mode n m e st).2.2 = false) :
    fpRound f mode n m e st = (signed f n (roundCore f mode n m e st).1, flag (roundCore f mode n m e st).2.1 flNX) := by
  rw [fpRound_eq, if_neg hover, htiny]
  simp [flag]

/-- The significand whose root `fpSqrt` takes, at an even weight, with eighty digits more. -/
def sqrtArg (m : Nat) (e : Int) : Nat := (if e % 2 != 0 then 2 * m else m) * 2 ^ 80

/-- The weight of the root's last digit. -/
def sqrtExp (e : Int) : Int := (if e % 2 != 0 then e - 1 else e) / 2 - 40

theorem sqrtArg_value (m : Nat) (e : Int) : (sqrtArg m e : ℝ) * (2 ^ sqrtExp e) ^ 2 = m * 2 ^ e := by
  have hpow : ∀ k : Int, ((2 : ℝ) ^ (k - 40)) ^ 2 * 2 ^ 80 = 2 ^ (2 * k) := fun k => by
    rw [sq, ← zpow_add₀ two_ne_zero, ← zpow_natCast (2 : ℝ) 80, ← zpow_add₀ two_ne_zero]
    congr 1
    push_cast
    ring
  unfold sqrtArg sqrtExp
  by_cases hodd : e % 2 = 0
  · simp only [hodd, bne_self_eq_false, Bool.false_eq_true, if_false]
    have := hpow (e / 2)
    rw [show 2 * (e / 2) = e by omega] at this
    push_cast
    rw [← this]
    ring
  · have hne : (e % 2 != 0) = true := by simpa using hodd
    simp only [hne, if_true]
    have := hpow ((e - 1) / 2)
    rw [show 2 * ((e - 1) / 2) = e - 1 by omega, zpow_sub_one₀ two_ne_zero] at this
    push_cast
    rw [show (2 : ℝ) ^ e = 2 * (2 ^ e * 2⁻¹) by ring, ← this]
    ring

theorem sqrt_value (m : Nat) (e : Int) : Real.sqrt (m * 2 ^ e) = Real.sqrt (sqrtArg m e) * 2 ^ sqrtExp e := by
  rw [← sqrtArg_value, Real.sqrt_mul (Nat.cast_nonneg _), Real.sqrt_sq (zpow_pos two_pos _).le]

theorem sqrtArg_lt {m : Nat} (e : Int) (hm : m < 2 ^ 24) : sqrtArg m e < 2 ^ 105 := by
  unfold sqrtArg
  split <;> omega

theorem le_sqrtArg {m : Nat} (e : Int) (hm : m ≠ 0) : 2 ^ 40 ≤ Nat.sqrt (sqrtArg m e) := by
  rw [Nat.le_sqrt]
  unfold sqrtArg
  split <;> omega

theorem given_sqrt {f : Fmt} (hfw : f.fw ≤ 23) {m : Nat} (e : Int) (hm : m ≠ 0) :
    Given f (Nat.sqrt (sqrtArg m e)) (sqrtExp e) (Nat.sqrt (sqrtArg m e) * Nat.sqrt (sqrtArg m e) != sqrtArg m e)
      (Real.sqrt (m * 2 ^ e)) := by
  refine given_sticky ?_ ((Nat.pow_le_pow_right two_pos (by omega)).trans (le_sqrtArg e hm))
  rw [sqrt_value, mul_div_cancel_right₀ _ (zpow_pos two_pos _).ne']
  exact sticky_sqrt _

section
variable {f : Fmt} (hf : f.Ieee) (hfw : f.fw ≤ 23) (hbias : f.fw < f.bias) {mode : Nat} {x m : Nat} {e : Int} {p : ℚ}
  (hx : Reads f x false m e p) (hp : 0 < p)
include hx hp

theorem Reads.ne_zero : m ≠ 0 := by
  rintro rfl
  rw [hx.value] at hp
  simp [finRat] at hp

omit hp in
theorem Reads.cast_eq : (p : ℝ) = m * 2 ^ e := by rw [hx.value, cast_finRat, withNeg_false]

include hfw

theorem fpSqrt_eq_fpRound : fpSqrt f mode x = fpRound f mode false (Nat.sqrt (sqrtArg m e)) (sqrtExp e)
    (Nat.sqrt (sqrtArg m e) * Nat.sqrt (sqrtArg m e) != sqrtArg m e) := by
  have hlt : sqrtArg m e < 2 ^ 256 := (sqrtArg_lt e (hx.lt.trans_le (Nat.pow_le_pow_right two_pos (by omega)))).trans (by norm_num)
  rw [← isqrt_eq hlt]
  simp only [fpSqrt, hx.unpack, beq_iff_eq, hx.ne_zero hp, if_false, Bool.false_eq_true]
  rfl

theorem given_sqrt_of_reads : Given f (Nat.sqrt (sqrtArg m e)) (sqrtExp e)
    (Nat.sqrt (sqrtArg m e) * Nat.sqrt (sqrtArg m e) != sqrtArg m e) (Real.sqrt p) :=
  hx.cast_eq ▸ given_sqrt hfw e (hx.ne_zero hp)

include hf

theorem sqrt_not_over : ¬ f.maxFin < (roundCore f mode false (Nat.sqrt (sqrtArg m e)) (sqrtExp e)
    (Nat.sqrt (sqrtArg m e) * Nat.sqrt (sqrtArg m e) != sqrtArg m e)).1 := fun hover => by
  have h1 := hf.maxFin_lt_of_over (given_sqrt_of_reads hfw hx hp) false hover
  have h2 : (p : ℝ) ≤ f.value f.maxFin := by
    rw [← Fmt.cast_rat]
    exact_mod_cast (le_abs_self p).trans hx.max
  have h3 := hf.one_le_value_maxFin
  have h4 : f.value f.maxFin ^ 2 < p := (Real.lt_sqrt (by linarith)).1 h1
  nlinarith

include hbias

omit hf in
theorem sqrt_not_tiny : (roundCore f mode false (Nat.sqrt (sqrtArg m e)) (sqrtExp e)
    (Nat.sqrt (sqrtArg m e) * Nat.sqrt (sqrtArg m e) != sqrtArg m e)).2.2 = false := by
  rw [← Bool.not_eq_true, (given_sqrt_of_reads hfw hx hp).tiny_iff]
  refine not_tinyMag (Real.le_sqrt_of_sq_le ?_) _
  rw [hx.cast_eq, ← zpow_natCast, ← zpow_mul]
  have h1 : (1 : ℝ) ≤ m := by exact_mod_cast Nat.one_le_iff_ne_zero.2 (hx.ne_zero hp)
  calc (2 : ℝ) ^ ((1 - (f.bias : Int)) * (2 : Nat)) ≤ 2 ^ e :=
        zpow_le_zpow_right₀ one_le_two (by have := hx.le; push_cast; omega)
    _ ≤ m * 2 ^ e := le_mul_of_one_le_left (zpow_pos two_pos e).le h1

/-- The root is rounded once, and only the inexact flag is raised, where it is not a value of the format. -/
theorem fpSqrt_right (hm : mode < 4) : Rounds f mode (Real.sqrt p) (fpSqrt f mode x).1 ∧
    (fpSqrt f mode x).2 &&& 16 = (fpSqrt f mode x).2 ∧
    ((fpSqrt f mode x).2.getLsbD 4 = false ↔ ∃ v, FinitePattern f (fpSqrt f mode x).1 v ∧ v * v = p) := by
  have hg := given_sqrt_of_reads hfw hx hp
  have hround := hf.rounds_fpRound hg hm false
  have hover := sqrt_not_over hf hfw hx hp (mode := mode)
  have hnormal := fpRound_of_normal hover (sqrt_not_tiny hfw hbias hx hp (mode := mode))
  obtain ⟨-, hexact⟩ := hg.roundsMag (mode := mode) (neg := false) hf.fw_pos
  rw [fpSqrt_eq_fpRound hfw hx hp]
  refine ⟨hround, ?_⟩
  rw [hnormal]
  generalize roundCore f mode false (Nat.sqrt (sqrtArg m e)) (sqrtExp e)
    (Nat.sqrt (sqrtArg m e) * Nat.sqrt (sqrtArg m e) != sqrtArg m e) = c at *
  have hflag : (flag c.2.1 flNX).getLsbD 4 = c.2.1 ∧ flag c.2.1 flNX &&& 16 = flag c.2.1 flNX := by
    cases c.2.1 <;> decide
  have hlt := (not_lt.1 hover).trans_lt hf.regular.maxFin_lt
  simp only [hflag, true_and, hexact, hf.regular.finitePattern_iff, mag_signed hlt, neg_signed hlt, not_lt.1 hover, withNeg_false]
  rw [← Fmt.cast_rat, Real.sqrt_eq_iff_mul_self_eq (by exact_mod_cast hp.le) (by rw [Fmt.cast_rat]; exact f.value_nonneg _)]
  constructor
  · exact fun h => ⟨_, rfl, by exact_mod_cast h.symm⟩
  · rintro ⟨v, rfl, h⟩
    exact_mod_cast h.symm

end

theorem arithmetic_sizes : ∀ f ∈ [fp32, f16, bf16], f.Ieee ∧ f.fw ≤ 23 ∧ f.fw < f.bias := by
  simp only [List.forall_mem_cons, List.not_mem_nil, IsEmpty.forall_iff, implies_true, and_true]
  exact ⟨⟨ieee_formats _ (by simp), by decide, by decide⟩, ⟨ieee_formats _ (by simp), by decide, by decide⟩,
    ⟨ieee_formats _ (by simp), by decide, by decide⟩⟩

/-- Settles O14: each exact result is an integer part with a mark of the rest, which `fpRound` rounds once. -/
theorem roundingIsCorrect : Obligations.RoundingIsCorrect := by
  unfold Obligations.RoundingIsCorrect
  intro f hmem m hm x y z p q r hp hq hr
  obtain ⟨hf, hfw, hbias⟩ := arithmetic_sizes f hmem
  obtain ⟨n, a, e, hx⟩ := hf.regular.reads hp
  obtain ⟨n', b, e', hy⟩ := hf.regular.reads hq
  obtain ⟨k, c, i, hz⟩ := hf.regular.reads hr
  refine ⟨hf.right_fpAdd hm hx hy, hf.right_fpSub hm hx hy, hf.right_fpMul hm hx hy, fun h0 => hf.right_fpDiv hm hfw hx hy h0,
    hf.right_fpFma hm hz hx hy, fun hpos => ?_⟩
  obtain rfl : n = false := by
    refine Bool.eq_false_iff.2 fun hn => hpos.not_ge ?_
    rw [hx.value, finRat, hn, withNeg_true]
    exact neg_nonpos.2 (by positivity)
  exact fpSqrt_right hf hfw hbias hx hpos hm

/-! ### Exact addition (R253, R254) -/

theorem fp32_ieee : fp32.Ieee := ieee_formats _ (by simp)

theorem add_comm_shadow (h : Shadow) (x y : Nat) : Shadow.add (Shadow.add h x) y = Shadow.add (Shadow.add h y) x := by
  unfold Shadow.add
  cases unpack fp32 x <;> cases unpack fp32 y <;> simp only [] <;> (try split_ifs) <;> simp [add_right_comm]

/-- The value of a shadow of finite values is its sum rounded once. -/
theorem rounds_value {h : Shadow} (hn : h.nan = false) (hp : h.pinf = false) (hi : h.ninf = false) (h0 : h.acc ≠ 0) :
    Rounds fp32 0 (h.acc.toInt / 2 ^ 149) h.value := by
  have hne : h.acc.toInt.natAbs ≠ 0 := by
    rw [Int.natAbs_ne_zero]
    exact fun hz => h0 (BitVec.toInt_inj.1 (hz.trans BitVec.toInt_zero.symm))
  have hround := fp32_ieee.rounds_fpRound (given_exact (f := fp32) hne (-149)) (mode := 0) (by decide) (decide (h.acc.toInt < 0))
  rw [← cast_finRat, finRat_decide_natAbs] at hround
  have hval : h.value = (fpRound fp32 0 (decide (h.acc.toInt < 0)) h.acc.toInt.natAbs (-149)).1 := by
    simp only [Shadow.value, hn, hp, hi, Bool.false_and, Bool.or_self, Bool.false_eq_true, if_false, if_neg h0]
  rw [hval]
  convert hround using 1
  push_cast
  rw [zpow_neg]
  rfl

/-- Settles O33: additions act on different fields, or add in a group; the value is one rounding. -/
theorem exactAddition : Obligations.ExactAddition := by
  unfold Obligations.ExactAddition
  refine ⟨fun h n m e w hu _ => ?_, fun h w sg hu => ?_, fun h w n hu => ?_, add_comm_shadow, fun h hv => ?_, fun h hn hp hi => ?_,
    fun h hn hp hi => ?_, fun h hn hp hi h0 => ?_, fun h hn hp hi h0 => rounds_value hn hp hi h0⟩
  · simp [Shadow.add, hu, units149]
  · simp [Shadow.add, hu]
  · simp [Shadow.add, hu]
  · have : (h.nan || (h.pinf && h.ninf)) = true := by simpa using hv
    simp only [Shadow.value, this, if_true]
    rfl
  · simp only [Shadow.value, hn, hp, hi, Bool.and_false, Bool.or_self, Bool.false_eq_true, if_false, if_true]
    rfl
  · simp only [Shadow.value, hn, hp, hi, Bool.false_and, Bool.or_self, Bool.false_eq_true, if_false, if_true]
    rfl
  · simp only [Shadow.value, hn, hp, hi, Bool.false_and, Bool.or_self, Bool.false_eq_true, if_false, if_pos h0]

end Sys2Proof.Machine
end

section

/-!
# The floating-point instructions lane by lane
-/

namespace Sys2Proof.Machine

-- One proof at a time: each waiting thread would reserve a stack of its own.
set_option Elab.async false

/-! ### The operand forms with flags -/

section
variable {i : Instr} {cls : Cls} {b a d : Nat}

theorem laneResult_formRR {f f' : Word → Word} (he : ∀ s, exec i s = formRR s cls a d f) (hf : ∀ x, f x = f' x) :
    LaneResult i cls [.reg d, .reg a] fun g _ _ u v => WritesReg g.level u v d (f' (rdReg g.level u a)) :=
  laneResult_lanes _ he fun g _ _ u => hf (rdReg g.level u a) ▸ wrReg_writes ..

theorem laneResult_formRRR {f f' : Word → Word → Word} (he : ∀ s, exec i s = formRRR s cls b a d f) (hf : ∀ x y, f x y = f' x y) :
    LaneResult i cls [.reg d, .reg a, .reg b] fun g _ _ u v =>
      WritesReg g.level u v d (f' (rdReg g.level u a) (rdReg g.level u b)) :=
  laneResult_lanes _ he fun g _ _ u => hf (rdReg g.level u a) (rdReg g.level u b) ▸ wrReg_writes ..

theorem laneResult_formFlags {f : Word → Word → Word × Word} (he : ∀ s, exec i s = formFlags s cls b a d f) :
    LaneResult i cls [.reg d, .reg a, .reg b] fun g _ _ u v =>
      WithFlags u v (f (rdReg g.level u a) (rdReg g.level u b)).2 fun u v =>
        WritesReg g.level u v d (f (rdReg g.level u a) (rdReg g.level u b)).1 :=
  laneResult_lanes _ he fun _ _ _ _ => orFlags_wrReg_with ..

theorem laneResult_formAccFlags {f : Word → Word → Word → Word × Word} (he : ∀ s, exec i s = formAccFlags s cls b a d f) :
    LaneResult i cls [.reg d, .reg a, .reg b] fun g _ _ u v =>
      WithFlags u v (f (rdReg g.level u d) (rdReg g.level u a) (rdReg g.level u b)).2 fun u v =>
        WritesReg g.level u v d (f (rdReg g.level u d) (rdReg g.level u a) (rdReg g.level u b)).1 :=
  laneResult_lanes _ he fun _ _ _ _ => orFlags_wrReg_with ..

theorem laneResult_formRRFlags {f : Word → Word × Word} (he : ∀ s, exec i s = formRRFlags s cls a d f) :
    LaneResult i cls [.reg d, .reg a] fun g _ _ u v =>
      WithFlags u v (f (rdReg g.level u a)).2 fun u v => WritesReg g.level u v d (f (rdReg g.level u a)).1 :=
  laneResult_lanes _ he fun _ _ _ _ => orFlags_wrReg_with ..

end

/-! ### Paired halves (R179) -/

theorem half_zero (x : Word) : half x 0 = x.toNat % 2 ^ 16 := by simp [half, bits]

theorem half_one (x : Word) : half x 1 = x.toNat / 2 ^ 16 := by
  have := x.isLt
  simp only [half, bits]
  omega

/-- What a paired operation writes: the results of the low and of the high half. -/
def WritesPaired (g : Gang) (d : Nat) (u v : Thread) (p q : Nat × Word) : Prop :=
  WithFlags u v (p.2 ||| q.2) fun u v => WritesReg g.level u v d (BitVec.ofNat 32 (p.1 % 2 ^ 16 + 2 ^ 16 * (q.1 % 2 ^ 16)))

section
variable {i : Instr} {b a d : Nat}

theorem laneResult_paired {r : Nat → Nat → Nat × Word}
    (he : ∀ s, exec i s = formFlags s .none b a d fun x y => paired fun k => r (half x k) (half y k)) :
    LaneResult i .none [.reg d, .reg a, .reg b] fun g _ _ u v =>
      let x := rdReg g.level u a
      let y := rdReg g.level u b
      WritesPaired g d u v (r (x.toNat % 2 ^ 16) (y.toNat % 2 ^ 16)) (r (x.toNat / 2 ^ 16) (y.toNat / 2 ^ 16)) := by
  simp only [← half_zero, ← half_one]
  exact laneResult_formFlags he

theorem laneResult_pairedAcc {r : Nat → Nat → Nat → Nat × Word}
    (he : ∀ s, exec i s = formAccFlags s .none b a d fun z x y => paired fun k => r (half z k) (half x k) (half y k)) :
    LaneResult i .none [.reg d, .reg a, .reg b] fun g _ _ u v =>
      let z := rdReg g.level u d
      let x := rdReg g.level u a
      let y := rdReg g.level u b
      WritesPaired g d u v (r (z.toNat % 2 ^ 16) (x.toNat % 2 ^ 16) (y.toNat % 2 ^ 16))
        (r (z.toNat / 2 ^ 16) (x.toNat / 2 ^ 16) (y.toNat / 2 ^ 16)) := by
  simp only [← half_zero, ← half_one]
  exact laneResult_formAccFlags he

end

/-- Settles O11: `paired` computes on each half. -/
theorem halfResults : Obligations.HalfResults := by
  unfold Obligations.HalfResults
  refine ⟨?_, ?_⟩
  · simp only [List.forall_mem_cons, List.not_mem_nil, IsEmpty.forall_iff, implies_true, and_true]
    exact ⟨fun m b a d => laneResult_paired fun _ => rfl, fun m b a d => laneResult_paired fun _ => rfl,
      fun m b a d => laneResult_paired fun _ => rfl, fun m b a d => laneResult_paired fun _ => rfl,
      fun m b a d => laneResult_paired fun _ => rfl, fun m b a d => laneResult_paired fun _ => rfl,
      fun m b a d => laneResult_paired fun _ => rfl, fun m b a d => laneResult_paired fun _ => rfl,
      fun m b a d => laneResult_paired fun _ => rfl, fun m b a d => laneResult_paired fun _ => rfl⟩
  · simp only [List.forall_mem_cons, List.not_mem_nil, IsEmpty.forall_iff, implies_true, and_true]
    exact ⟨fun m b a d => laneResult_pairedAcc fun _ => rfl, fun m b a d => laneResult_pairedAcc fun _ => rfl⟩

theorem fp32_arithmetic : fp32.Arithmetic := fp32_ieee.toArithmetic

/-- A signalling NaN of FP32, by its fields (R161). -/
def Snan32 (x : Word) : Prop := x.toNat / 2 ^ 23 % 2 ^ 8 = 255 ∧ x.toNat % 2 ^ 23 ≠ 0 ∧ x.toNat % 2 ^ 23 < 2 ^ 22

theorem fp32_snan_iff (x : Word) : fp32.SNan x.toNat ↔ Snan32 x := and_assoc

/-! ### Bit operations and classes (R175, R177) -/

theorem and_low31 (x : Word) : x &&& 0x7FFFFFFF = BitVec.ofNat 32 (x.toNat % 2 ^ 31) := by
  have h : (x &&& 0x7FFFFFFF).toNat = x.toNat % 2 ^ 31 := Nat.and_two_pow_sub_one_eq_mod x.toNat 31
  rw [← h, BitVec.ofNat_toNat, BitVec.setWidth_eq]

theorem xor_sign (x : Word) : x ^^^ 0x80000000 = BitVec.ofNat 32 (x.toNat + 2 ^ 31) := by
  refine BitVec.eq_of_getLsbD_eq fun i hi => ?_
  rw [BitVec.getLsbD_xor, BitVec.getLsbD_ofNat, add_comm, show (0x80000000 : Word) = BitVec.ofNat 32 (2 ^ 31) from rfl,
    BitVec.getLsbD_ofNat, Nat.testBit_two_pow]
  obtain h | rfl : i < 31 ∨ i = 31 := by omega
  · rw [Nat.testBit_two_pow_add_gt h]
    simp [hi, h.ne', BitVec.getLsbD]
  · rw [Nat.testBit_two_pow_add_eq]
    simp [BitVec.getLsbD]

theorem and_sign (y : Word) : (y &&& 0x80000000).toNat = y.toNat / 2 ^ 31 * 2 ^ 31 := by
  have h : (y &&& 0x80000000).toNat = y.toNat &&& 2 ^ 31 := rfl
  have hlt := y.isLt
  rw [h, Nat.and_two_pow, Nat.toNat_testBit]
  omega

theorem or_sign (x y : Word) : (x &&& 0x7FFFFFFF) ||| (y &&& 0x80000000) =
    BitVec.ofNat 32 (x.toNat % 2 ^ 31 + y.toNat / 2 ^ 31 * 2 ^ 31) := by
  refine BitVec.eq_of_toNat_eq ?_
  have hx := x.isLt
  have hy := y.isLt
  rw [BitVec.toNat_or, and_sign, and_low31, BitVec.toNat_ofNat, BitVec.toNat_ofNat, Nat.or_comm, mul_comm (y.toNat / 2 ^ 31),
    ← Nat.two_pow_add_eq_or_of_lt (by omega)]
  omega

/-- The class of a pattern is that of its fields. -/
theorem fpClass_eq (x : Word) : BitVec.ofNat 32 (fpClass x.toNat) =
    let neg := 2 ^ 31 ≤ x.toNat
    let e := x.toNat / 2 ^ 23 % 2 ^ 8
    let m := x.toNat % 2 ^ 23
    if e = 255 then (if m = 0 then (if neg then 1#32 else 128#32) else if 2 ^ 22 ≤ m then 512#32 else 256#32)
    else if e = 0 then (if m = 0 then (if neg then 8#32 else 16#32) else if neg then 4#32 else 32#32)
    else if neg then 2#32 else 64#32 := by
  have hx := x.isLt
  have hneg : fp32.neg x.toNat = decide (2 ^ 31 ≤ x.toNat) := by
    rw [Bool.eq_iff_iff, decide_eq_true_iff]
    change (x.toNat / 2 ^ 31 % 2 == 1) = true ↔ _
    rw [beq_iff_eq]
    omega
  have hpos : (0 : Nat) < 2 ^ 23 := by norm_num
  have hm : x.toNat % 2 ^ 23 < 2 ^ 23 := Nat.mod_lt _ hpos
  simp only
  by_cases he : x.toNat / 2 ^ 23 % 2 ^ 8 = 255
  · rw [if_pos he]
    by_cases hm0 : x.toNat % 2 ^ 23 = 0
    · rw [if_pos hm0, fpClass, unpack_of_inf fp32_arithmetic ⟨he, hm0⟩, hneg]
      simp only [decide_eq_true_eq]
      split <;> rfl
    · have hu : unpack fp32 x.toNat = .nan (decide (x.toNat % 2 ^ 23 < 2 ^ 22)) := unpack_of_nan fp32_arithmetic ⟨he, hm0⟩
      rw [if_neg hm0, fpClass, hu]
      simp only [decide_eq_true_eq]
      by_cases h : x.toNat % 2 ^ 23 < 2 ^ 22
      · rw [if_pos h, if_neg (not_le.2 h)]
      · rw [if_neg h, if_pos (not_lt.1 h)]
  · rw [if_neg he, fpClass, unpack_of_not_top fp32_arithmetic he, hneg]
    simp only [decide_eq_true_eq, beq_iff_eq]
    have hsig : fp32.sig x.toNat = x.toNat % 2 ^ 23 + if x.toNat / 2 ^ 23 % 2 ^ 8 = 0 then 0 else 2 ^ 23 := rfl
    rw [hsig]
    by_cases he0 : x.toNat / 2 ^ 23 % 2 ^ 8 = 0
    · rw [if_pos he0, if_pos he0, add_zero, if_pos hm]
      by_cases hm0 : x.toNat % 2 ^ 23 = 0
      · rw [if_pos hm0, if_pos hm0]
        split <;> rfl
      · rw [if_neg hm0, if_neg hm0]
        split <;> rfl
    · rw [if_neg he0, if_neg he0, if_neg (by omega), if_neg (by omega)]
      split <;> rfl

theorem snanFlag_single (x : Word) : snanFlag [unpack fp32 x.toNat] =
    if x.toNat / 2 ^ 23 % 2 ^ 8 = 255 ∧ x.toNat % 2 ^ 23 ≠ 0 ∧ x.toNat % 2 ^ 23 < 2 ^ 22 then 1 else 0 :=
  snanFlag_eq_ite (by rw [← Snan32, ← fp32_snan_iff, ← isSNan_unpack fp32_arithmetic]; simp)

/-! ### Compares (R178) -/

theorem fp32_nan_iff (x : Word) : fp32.Nan x.toNat ↔ x.toNat / 2 ^ 23 % 2 ^ 8 = 255 ∧ x.toNat % 2 ^ 23 ≠ 0 := Iff.rfl

/-- A finite value is a whole number of units. -/
theorem rat_units (f : Fmt) (x : Nat) : withNeg (f.neg x) (f.rat (f.mag x)) =
    (withSign (f.neg x) (f.units x) : ℚ) * 2 ^ (1 - (f.bias : Int) - f.fw) := by
  rw [Fmt.rat, Fmt.level_mag, Fmt.units]
  cases f.neg x <;> simp [withSign]

theorem fpCmp_sign {x y : Nat} {p q : ℚ} (hp : FinitePattern fp32 x p) (hq : FinitePattern fp32 y q) :
    ∃ d : Int, fpCmp (unpack fp32 x) (unpack fp32 y) = d.sign ∧ p - q = d * 2 ^ (-149 : Int) := by
  have hf := fp32_ieee.regular
  have htop : ∀ {z r}, FinitePattern fp32 z r → ¬ fp32.Top z := fun {z r} h ht => by
    obtain ⟨n, m, e, hu, -⟩ := h
    obtain hn | hi := Fmt.nan_or_inf ht
    · rw [unpack_of_nan fp32_arithmetic hn] at hu
      cases hu
    · rw [unpack_of_inf fp32_arithmetic hi] at hu
      cases hu
  refine ⟨_, fpCmp_unpack_fin fp32_arithmetic (htop hp) (htop hq), ?_⟩
  rw [(hf.finitePattern_iff.1 hp).2, (hf.finitePattern_iff.1 hq).2, rat_units, rat_units, ← sub_mul]
  push_cast
  rfl

theorem isNan_pair (x y : Word) : ((unpack fp32 x.toNat).isNan || (unpack fp32 y.toNat).isNan) = true ↔
    fp32.Nan x.toNat ∨ fp32.Nan y.toNat := by
  rw [Bool.or_eq_true, isNan_unpack fp32_arithmetic, isNan_unpack fp32_arithmetic]

theorem flag_nv (c : Bool) : (flag c flNV = 1 ∨ flag c flNV = 0) ∧ (flag c flNV = 1 ↔ c = true) := by
  cases c <;> decide

theorem wrPred_aflags (t : Thread) (d : Nat) (v : Bool) : (wrPred t d v).aflags = t.aflags := by
  have := congrArg Thread.aflags (wrPred_writes t d v).rest
  exact this

/-- A compare writes a predicate, and sets `nv` for a NaN, or for a signalling one alone. -/
theorem laneResult_fcmp {i : Nat → Nat → Nat → Instr} {cc : Nat} {P : Word → Word → Prop} {ordered : Bool}
    (he : ∀ b a d s, exec (i b a d) s = formCmpFlags s b a d fun x y => fpCompare cc x.toNat y.toNat)
    (hP : ∀ x y : Word, (fpCompare cc x.toNat y.toNat).1 = true ↔ P x y)
    (hF : ∀ x y : Word, (fpCompare cc x.toNat y.toNat).2 =
      if ordered then flag ((unpack fp32 x.toNat).isNan || (unpack fp32 y.toNat).isNan) flNV
      else snanFlag [unpack fp32 x.toNat, unpack fp32 y.toNat]) (b a d : Nat) :
    LaneResult (i b a d) .none [.reg a, .reg b] fun g _ _ u v =>
      ∃ (x : Bool) (f : Word), (x = true ↔ P (rdReg g.level u a) (rdReg g.level u b)) ∧ (f = 1 ∨ f = 0) ∧
        (f = 1 ↔ if ordered then fp32.Nan (rdReg g.level u a).toNat ∨ fp32.Nan (rdReg g.level u b).toNat
          else Snan32 (rdReg g.level u a) ∨ Snan32 (rdReg g.level u b)) ∧
        WithFlags u v f fun u v => WritesPred u v d x := by
  refine laneResult_lanes _ (he b a d) fun g _ _ u => ⟨_, _, hP _ _, ?_, ?_, orFlags_with u _ _ _ ?_ (wrPred_writes ..)⟩
  · rw [hF]
    split
    · exact (flag_nv _).1
    · exact (flag_nv _).1
  · rw [hF]
    split
    · rw [(flag_nv _).2, isNan_pair]
    · rw [← fp32_snan_iff, ← fp32_snan_iff]
      exact (snanFlag_pair fp32_arithmetic _ _).1
  · exact wrPred_aflags u d _

/-- One of the operands is a NaN. -/
def Unordered (x y : Word) : Prop := fp32.Nan x.toNat ∨ fp32.Nan y.toNat

/-- The order of the values of two words. -/
def cmp32 (x y : Word) : Int := fpCmp (unpack fp32 x.toNat) (unpack fp32 y.toNat)

section
variable (x y : Word)

theorem fpCompare_eq : (fpCompare 0 x.toNat y.toNat).1 = true ↔ ¬ Unordered x y ∧ cmp32 x y = 0 := by
  rw [Unordered, ← isNan_pair]
  simp [fpCompare, cmp32]

theorem fpCompare_ne : (fpCompare 1 x.toNat y.toNat).1 = true ↔ Unordered x y ∨ cmp32 x y ≠ 0 := by
  rw [Unordered, ← isNan_pair]
  simp [fpCompare, cmp32]

theorem fpCompare_lt : (fpCompare 2 x.toNat y.toNat).1 = true ↔ ¬ Unordered x y ∧ cmp32 x y < 0 := by
  rw [Unordered, ← isNan_pair]
  simp [fpCompare, cmp32]

theorem fpCompare_le : (fpCompare 3 x.toNat y.toNat).1 = true ↔ ¬ Unordered x y ∧ cmp32 x y ≤ 0 := by
  rw [Unordered, ← isNan_pair]
  simp [fpCompare, cmp32]

theorem fpCompare_gt : (fpCompare 4 x.toNat y.toNat).1 = true ↔ ¬ Unordered x y ∧ cmp32 x y > 0 := by
  rw [Unordered, ← isNan_pair]
  simp [fpCompare, cmp32]

theorem fpCompare_ge : (fpCompare 5 x.toNat y.toNat).1 = true ↔ ¬ Unordered x y ∧ cmp32 x y ≥ 0 := by
  rw [Unordered, ← isNan_pair]
  simp [fpCompare, cmp32]

theorem fpCompare_un : (fpCompare 6 x.toNat y.toNat).1 = true ↔ Unordered x y := by
  rw [Unordered, ← isNan_pair]
  simp [fpCompare]

theorem fpCompare_ord : (fpCompare 7 x.toNat y.toNat).1 = true ↔ ¬ Unordered x y := by
  rw [Unordered, ← isNan_pair]
  simp [fpCompare]

end

theorem fpCmp_inf {y : Nat} {q : ℚ} (h : FinitePattern fp32 y q) :
    fpCmp (.inf false) (unpack fp32 y) > 0 ∧ fpCmp (unpack fp32 y) (.inf false) < 0 ∧
      fpCmp (.inf true) (unpack fp32 y) < 0 ∧ fpCmp (unpack fp32 y) (.inf true) > 0 := by
  obtain ⟨n, m, e, hu, -⟩ := h
  rw [hu]
  exact ⟨by simp [fpCmp], by simp [fpCmp], by simp [fpCmp], by simp [fpCmp]⟩

/-- Settles O9: single bits of patterns, and the order of the values. -/
theorem floatBitsAndCompares : Obligations.FloatBitsAndCompares := by
  unfold Obligations.FloatBitsAndCompares
  refine ⟨⟨fun a d => laneResult_formRR (fun _ => rfl) and_low31, fun a d => laneResult_formRR (fun _ => rfl) xor_sign,
    fun b a d => laneResult_formRRR (fun _ => rfl) or_sign, fun a d => ?_⟩, ?_⟩
  · have h := laneResult_formRRFlags (fun s => exec_fclass a d s)
    simp only [fpClass_eq, snanFlag_single] at h
    exact h
  · refine ⟨fun x y p q hp hq => ?_, fun y q hq => fpCmp_inf hq, by decide, by decide, by decide, by decide, ?_⟩
    · obtain ⟨d, hc, hd⟩ := fpCmp_sign hp hq
      have hw : (0 : ℚ) < 2 ^ (-149 : Int) := zpow_pos two_pos _
      have heq : p = q ↔ d = 0 := by rw [← sub_eq_zero, hd, mul_eq_zero_iff_right hw.ne', Int.cast_eq_zero]
      have hlt : p < q ↔ d < 0 := by
        rw [← sub_neg, hd, ← Int.cast_lt_zero (R := ℚ)]
        exact ⟨fun h => neg_of_mul_neg_left h hw.le, fun h => mul_neg_of_neg_of_pos h hw⟩
      have hgt : q < p ↔ 0 < d := by rw [← sub_pos, hd, mul_pos_iff_of_pos_right hw, Int.cast_pos]
      dsimp only
      rw [heq, hlt, hgt, hc]
      exact ⟨Int.sign_eq_zero_iff_zero, Int.sign_neg_iff, Int.sign_pos_iff⟩
    · simp only [List.forall_mem_cons, List.not_mem_nil, IsEmpty.forall_iff, implies_true, and_true]
      exact ⟨laneResult_fcmp (ordered := false) (fun _ _ _ _ => rfl) fpCompare_eq fun _ _ => rfl,
        laneResult_fcmp (ordered := false) (fun _ _ _ _ => rfl) fpCompare_ne fun _ _ => rfl,
        laneResult_fcmp (ordered := true) (fun _ _ _ _ => rfl) fpCompare_lt fun _ _ => rfl,
        laneResult_fcmp (ordered := true) (fun _ _ _ _ => rfl) fpCompare_le fun _ _ => rfl,
        laneResult_fcmp (ordered := true) (fun _ _ _ _ => rfl) fpCompare_gt fun _ _ => rfl,
        laneResult_fcmp (ordered := true) (fun _ _ _ _ => rfl) fpCompare_ge fun _ _ => rfl,
        laneResult_fcmp (ordered := false) (fun _ _ _ _ => rfl) fpCompare_un fun _ _ => rfl,
        laneResult_fcmp (ordered := false) (fun _ _ _ _ => rfl) fpCompare_ord fun _ _ => rfl⟩

end Sys2Proof.Machine
end

section

/-!
# FP32 results: integral values, fractions, scaling and saturation
-/

namespace Sys2Proof.Machine

-- One proof at a time: each waiting thread would reserve a stack of its own.
set_option Elab.async false

/-! ### Exact results -/

section
variable {f : Fmt} (hf : f.Ieee) {m mode : Nat} {e : Int} (n : Bool)
include hf

omit hf in
/-- An integer of few digits within the range of a format is a value of it. -/
theorem Fmt.exists_rat (hm : m ≤ 2 ^ (f.fw + 1)) (he : 1 - (f.bias : Int) - f.fw ≤ e) (hmax : (m : ℚ) * 2 ^ e ≤ f.rat f.maxFin) :
    ∃ y ≤ f.maxFin, f.rat y = m * 2 ^ e := by
  obtain ⟨y, hy⟩ := f.exists_level (e - (1 - (f.bias : Int) - f.fw)).toNat m hm
  have hrat : f.rat y = m * 2 ^ e := by
    rw [Fmt.rat, hy, Nat.cast_mul, Nat.cast_pow, Nat.cast_ofNat, mul_assoc, ← zpow_natCast, ← zpow_add₀ two_ne_zero]
    congr 2
    omega
  refine ⟨y, ?_, hrat⟩
  rw [← hrat] at hmax
  refine f.value_strictMono.le_iff_le.1 ?_
  rw [← Fmt.cast_rat, ← Fmt.cast_rat]
  exact_mod_cast hmax

/-- A value of the format is delivered as it is, without a flag. -/
theorem Fmt.Ieee.fpRound_of_rat {y : Nat} (hy : y ≤ f.maxFin) (hrat : f.rat y = m * 2 ^ e) :
    fpRound f mode n m e = (signed f n y, 0) := by
  have hval : f.value y = m * 2 ^ e := by
    rw [← Fmt.cast_rat, hrat]
    push_cast
    rfl
  by_cases h0 : m = 0
  · subst h0
    have : y = 0 := f.value_strictMono.injective (by rw [hval, f.value_zero]; simp)
    subst this
    rfl
  · obtain ⟨hr, hexact⟩ := (given_exact h0 e).roundsMag (mode := mode) (neg := n) hf.fw_pos
    have hp := hr.eq_of_value hval
    have hin := hexact.2 (hp.symm ▸ hval.symm)
    rw [fpRound_eq, hp, hin, if_neg (not_lt.2 hy)]
    simp [flag]

end

/-! ### Rounding to an integer (R165) -/

/-- The magnitude that a direction chooses among the integers. -/
def IntMag (x : ℝ) (k : Nat) : Direction → Prop
  | .nearest => 2 * |x - k| ≤ 1 ∧ (2 * |x - k| = 1 → k % 2 = 0)
  | .toZero => (k : ℝ) ≤ x ∧ x < k + 1
  | .away => x ≤ k ∧ (k : ℝ) < x + 1

theorem roundMag_eq (mode : Nat) (neg : Bool) (m : Nat) (e : Int) :
    roundMag mode neg m e = (roundedAt (direction mode neg) m e false 0, (digitsAt m e false 0).2 != .exact) := by
  unfold roundMag roundedAt digitsAt
  by_cases h : 0 ≤ e
  · simp only [h, if_true, sub_zero, Bool.false_eq_true, if_false]
    cases direction mode neg <;> simp [Direction.up]
  · simp only [h, if_false, zero_sub, ← roundsUp_eq]

theorem intMag_of_holds {x : ℝ} {k : Nat} {r : Rem} (h : r.Holds k x (k + 1)) (d : Direction) :
    IntMag x (if d.up (k % 2 == 1) r then k + 1 else k) d := by
  have hlt : (k : ℝ) < k + 1 := lt_add_one _
  have hle := h.le
  have hhi := h.lt hlt
  cases d
  case toZero => exact ⟨hle, hhi⟩
  case away =>
    simp only [Direction.up, bne_iff_ne, ne_eq, h.exact_iff]
    split
    next hne =>
      have := lt_of_le_of_ne hle (Ne.symm hne)
      exact ⟨by push_cast; exact hhi.le, by push_cast; linarith⟩
    next he =>
      rw [not_not] at he
      exact ⟨he.le, by linarith⟩
  case nearest =>
    have down : x - k ≤ 1 / 2 → (x - k = 1 / 2 → k % 2 = 0) → IntMag x k .nearest := fun h1 h2 => by
      have : |x - (k : ℝ)| = x - k := abs_of_nonneg (by linarith)
      exact ⟨by rw [this]; linarith, fun he => h2 (by rw [this] at he; linarith)⟩
    have up : 1 / 2 ≤ x - k → (x - k = 1 / 2 → (k + 1) % 2 = 0) → IntMag x (k + 1) .nearest := fun h1 h2 => by
      have : |x - ((k + 1 : Nat) : ℝ)| = k + 1 - x := by
        push_cast
        rw [abs_of_neg (by linarith)]
        ring
      exact ⟨by rw [this]; linarith, fun he => h2 (by rw [this] at he; linarith)⟩
    cases r
    case exact =>
      have : x = k := h
      exact down (by linarith) fun he => by linarith
    case below => exact down (by linarith [h.2]) fun he => by linarith [h.2]
    case above => exact up (by linarith [h.1]) fun he => by linarith [h.1]
    case tie =>
      obtain hodd | heven := (Nat.mod_two_eq_zero_or_one k).symm
      · simpa [Direction.up, hodd] using up (by linarith [h.2]) fun _ => by omega
      · simpa [Direction.up, heven] using down (by linarith [h.2]) fun _ => heven

theorem eq_int_iff_of_holds {x : ℝ} {k : Nat} {r : Rem} (h : r.Holds k x (k + 1)) (d : Direction) (odd : Bool) :
    x = ((if d.up odd r then k + 1 else k : Nat) : ℝ) ↔ r = .exact := by
  split
  next hup =>
    refine iff_of_false (fun hx => ?_) fun hr => ?_
    · have := h.lt (lt_add_one _)
      push_cast at hx
      exact this.ne hx
    · rw [hr] at hup
      cases d <;> simp [Direction.up] at hup
  · exact h.exact_iff.symm

theorem intMag_roundMag (mode : Nat) (neg : Bool) (m : Nat) (e : Int) :
    IntMag ((m : ℝ) * 2 ^ e) (roundMag mode neg m e).1 (direction mode neg) ∧
      ((roundMag mode neg m e).2 = false ↔ (m : ℝ) * 2 ^ e = (roundMag mode neg m e).1) := by
  have h := digitsAt_holds (m := m) (e := e) (q := 0) (st := false) (x := m) rfl (by simp)
  simp only [zpow_zero, mul_one] at h
  rw [roundMag_eq, roundedAt, eq_int_iff_of_holds h]
  exact ⟨intMag_of_holds h _, by simp⟩

/-- The integer of a magnitude and its sign is the one the mode chooses. -/
theorem roundsToInt_of_intMag {mode m k : Nat} {n : Bool} {e : Int} (h : IntMag ((m : ℝ) * 2 ^ e) k (direction mode n)) :
    RoundsToInt mode (finRat n m e) (withNeg n (k : ℤ)) := by
  have hcast : (((m : ℚ) * 2 ^ e : ℚ) : ℝ) = (m : ℝ) * 2 ^ e := by push_cast; rfl
  have hx : (0 : ℚ) ≤ (m : ℚ) * 2 ^ e := by positivity
  rw [← hcast] at h
  unfold finRat
  generalize (m : ℚ) * 2 ^ e = x at *
  have hk : (0 : ℚ) ≤ k := Nat.cast_nonneg k
  refine ⟨fun hm => ?_, fun hm => ?_, fun hm => ?_, fun hm => ?_⟩
  all_goals subst hm
  · obtain ⟨h1, h2⟩ := h
    have habs : |withNeg n x - ((withNeg n (k : ℤ) : ℤ) : ℚ)| = |x - k| := by
      cases n
      · simp
      · rw [withNeg_true, withNeg_true, ← abs_neg]
        push_cast
        congr 1
        ring
    rw [habs]
    have h1 : 2 * |x - k| ≤ 1 := by exact_mod_cast h1
    refine ⟨by linarith, fun he => ?_⟩
    have he : 2 * |x - k| = 1 := by linarith
    have := h2 (by exact_mod_cast he)
    cases n <;> simp only [withNeg_false, withNeg_true] <;> omega
  · obtain ⟨h1, h2⟩ := h
    have h1 : (k : ℚ) ≤ x := by exact_mod_cast h1
    have h2 : x < k + 1 := by exact_mod_cast h2
    have h3 := mul_nonneg hx hk
    cases n
    · simp only [withNeg_false, Int.cast_natCast, abs_of_nonneg hx, abs_of_nonneg hk]
      exact ⟨h1, h2, h3⟩
    · simp only [withNeg_true, Int.cast_neg, Int.cast_natCast, abs_neg, abs_of_nonneg hx, abs_of_nonneg hk, neg_mul_neg]
      exact ⟨h1, h2, h3⟩
  · cases n
    all_goals
      obtain ⟨h1, h2⟩ := h
      simp only [withNeg_false, withNeg_true, Int.cast_neg, Int.cast_natCast]
    · exact ⟨by exact_mod_cast h1, by exact_mod_cast h2⟩
    · have h1 : (k : ℚ) ≤ x := by exact_mod_cast h1
      have h2 : x < k + 1 := by exact_mod_cast h2
      constructor <;> linarith
  · cases n
    all_goals
      obtain ⟨h1, h2⟩ := h
      simp only [withNeg_false, withNeg_true, Int.cast_neg, Int.cast_natCast]
    · exact ⟨by exact_mod_cast h1, by exact_mod_cast h2⟩
    · have h1 : x ≤ k := by exact_mod_cast h1
      have h2 : (k : ℚ) < x + 1 := by exact_mod_cast h2
      constructor <;> linarith

theorem IntMag.lt {x : ℝ} {k : Nat} : ∀ {d : Direction}, IntMag x k d → (k : ℝ) < x + 1
  | .nearest, ⟨h, _⟩ => by
    have := neg_le_abs (x - k)
    linarith
  | .toZero, ⟨h, _⟩ => by linarith
  | .away, ⟨_, h⟩ => h

/-! ### Finite operands of FP32 -/

theorem pow_le_fp32_max : (2 : ℚ) ^ 126 ≤ fp32.rat fp32.maxFin := by
  have h := fp32_ieee.value_maxFin
  rw [← Fmt.cast_rat] at h
  have h2 : (2 : ℝ) ^ 126 ≤ (fp32.rat fp32.maxFin : ℚ) := by
    rw [h]
    norm_num [fp32]
  exact_mod_cast h2

/-- A small integer, at a weight that FP32 has, is delivered as it is. -/
theorem fpRound32_exact {m : Nat} {e : Int} (hm : m ≤ 2 ^ 24) (he : -149 ≤ e) (hmax : (m : ℚ) * 2 ^ e ≤ 2 ^ 126) (mode : Nat) (n : Bool) :
    ∃ y ≤ fp32.maxFin, fp32.rat y = m * 2 ^ e ∧ fpRound fp32 mode n m e = (signed fp32 n y, 0) := by
  obtain ⟨y, hy, hrat⟩ := Fmt.exists_rat (f := fp32) hm (by simpa [fp32] using he) (hmax.trans pow_le_fp32_max)
  exact ⟨y, hy, hrat, fp32_ieee.fpRound_of_rat n hy hrat⟩

theorem signed_false (f : Fmt) (y : Nat) : signed f false y = y := rfl

theorem sign_eq_of_unpack {x m : Nat} {n : Bool} {e : Int} (hx : x < 2 ^ 32) (h : unpack fp32 x = .fin n m e) :
    x / 2 ^ 31 = if n then 1 else 0 := by
  obtain ⟨-, hn, -⟩ := fp32_ieee.regular.unpack_eq_fin_iff.1 h
  have hpat : fp32.IsPattern x := hx
  have h2 := Fmt.sgn_lt_two hpat
  rw [hn, Fmt.neg_eq hpat]
  change fp32.sgn x = _
  simp only [decide_eq_true_eq]
  split <;> omega

theorem roundsToInt_self (mode : Nat) (k : ℤ) : RoundsToInt mode k k := by
  refine ⟨fun _ => ?_, fun _ => ?_, fun _ => ?_, fun _ => ?_⟩
  · simp
  · exact ⟨le_rfl, lt_add_one _, mul_self_nonneg _⟩
  · exact ⟨le_rfl, lt_add_one _⟩
  · exact ⟨le_rfl, lt_add_one _⟩

section
variable {x : Nat} {n : Bool} {m : Nat} {e : Int} {p : ℚ}

/-- A magnitude delivered with the operand's sign. -/
theorem signed_result (hx : x < 2 ^ 32) (h : unpack fp32 x = .fin n m e) {y : Nat} (hy : y ≤ fp32.maxFin) :
    FinitePattern fp32 (signed fp32 n y) (withNeg n (fp32.rat y)) ∧ signed fp32 n y / 2 ^ 31 = x / 2 ^ 31 := by
  refine ⟨fp32_ieee.regular.finitePattern_signed hy, ?_⟩
  rw [sign_eq_of_unpack hx h]
  exact sgn_signed (f := fp32) (hy.trans_lt fp32_ieee.regular.maxFin_lt) n

/-- A significand below the point is a number below its least power of two above. -/
theorem Reads.mul_lt (h : Reads fp32 x n m e p) (he : e < 0) : (m : ℝ) * 2 ^ e < 2 ^ 23 := by
  have h1 : (m : ℝ) < 2 ^ 24 := by exact_mod_cast h.lt
  have h2 : (2 : ℝ) ^ e ≤ 2 ^ (-1 : Int) := zpow_le_zpow_right₀ one_le_two (by omega)
  calc (m : ℝ) * 2 ^ e ≤ m * 2 ^ (-1 : Int) := mul_le_mul_of_nonneg_left h2 (Nat.cast_nonneg m)
    _ < 2 ^ 24 * 2 ^ (-1 : Int) := mul_lt_mul_of_pos_right h1 (by positivity)
    _ = 2 ^ 23 := by norm_num

theorem finRat_of_nonneg (n : Bool) (m : Nat) (he : 0 ≤ e) : finRat n m e = (withNeg n ((m * 2 ^ e.toNat : Nat) : ℤ) : ℤ) := by
  have : (2 : ℚ) ^ e = 2 ^ e.toNat := by rw [← zpow_natCast, Int.toNat_of_nonneg he]
  rw [finRat, this]
  cases n <;> simp

theorem fpRint_result (hx : x < 2 ^ 32) (hp : FinitePattern fp32 x p) (h : Reads fp32 x n m e p) (mode : Nat) :
    ∃ k : ℤ, fpRint mode x = ((fpRint mode x).1, 0) ∧ FinitePattern fp32 (fpRint mode x).1 k ∧ RoundsToInt mode p k ∧
      (fpRint mode x).1 / 2 ^ 31 = x / 2 ^ 31 := by
  simp only [fpRint, h.unpack, Bool.or_eq_true, beq_iff_eq, decide_eq_true_eq]
  split
  next hint =>
    obtain ⟨k, hk⟩ : ∃ k : ℤ, p = k := by
      obtain h0 | he := hint
      · exact ⟨0, by rw [h.value, h0]; simp [finRat]⟩
      · exact ⟨_, h.value.trans (finRat_of_nonneg n m he)⟩
    exact ⟨k, rfl, hk ▸ hp, hk ▸ roundsToInt_self mode k, rfl⟩
  next hfrac =>
    have he : e < 0 := by
      by_contra hc
      exact hfrac (.inr (by omega))
    obtain ⟨hint, -⟩ := intMag_roundMag mode n m e
    generalize (roundMag mode n m e).1 = k at *
    have hk : k ≤ 2 ^ 23 := by
      have h1 := hint.lt
      have h2 := h.mul_lt he
      have h3 : (k : ℝ) < ((2 ^ 23 + 1 : Nat) : ℝ) := by
        push_cast
        linarith
      exact Nat.lt_succ_iff.1 (Nat.cast_lt.1 h3)
    have hkQ : (k : ℚ) ≤ 2 ^ 23 := by exact_mod_cast hk
    obtain ⟨y, hy, hrat, hround⟩ := fpRound32_exact (m := k) (e := 0) (by omega) (by omega)
      (by rw [zpow_zero, mul_one]; linarith [show (2 : ℚ) ^ 23 ≤ 2 ^ 126 by norm_num]) 0 false
    obtain ⟨hpat, hsign⟩ := signed_result hx h.unpack hy
    rw [zpow_zero, mul_one] at hrat
    rw [hrat] at hpat
    refine ⟨withNeg n (k : ℤ), rfl, ?_, h.value ▸ roundsToInt_of_intMag hint, ?_⟩
    · rw [hround, signed_false]
      cases n <;> simpa using hpat
    · rw [hround, signed_false]
      exact hsign

theorem fpFrac_result (hx : x < 2 ^ 32) (h : Reads fp32 x n m e p) :
    ∃ (k : ℤ) (r : ℚ), fpFrac x = ((fpFrac x).1, 0) ∧ FinitePattern fp32 (fpFrac x).1 r ∧ (fpFrac x).1 / 2 ^ 31 = x / 2 ^ 31 ∧
      r = p - k ∧ RoundsToInt 1 p k := by
  simp only [fpFrac, h.unpack]
  split
  next he =>
    obtain ⟨hpat, hsign⟩ := signed_result hx h.unpack (Nat.zero_le _)
    refine ⟨withNeg n ((m * 2 ^ e.toNat : Nat) : ℤ), 0, rfl, fp32_ieee.finitePattern_zero n, hsign, ?_, ?_⟩
    · rw [h.value, finRat_of_nonneg n m he, sub_self]
    · rw [h.value, finRat_of_nonneg n m he]
      exact roundsToInt_self 1 _
  next he =>
    have hneg : e < 0 := not_le.1 he
    obtain ⟨s, hs⟩ : ∃ s : Nat, e = -(s : ℤ) := ⟨(-e).toNat, by omega⟩
    have hpow : (2 : ℚ) ^ e = 1 / 2 ^ s := by rw [hs, zpow_neg, zpow_natCast, one_div]
    have htoNat : (-e).toNat = s := by omega
    rw [htoNat]
    have hdiv : (m : ℚ) = ((m / 2 ^ s : Nat) : ℚ) * 2 ^ s + ((m % 2 ^ s : Nat) : ℚ) := by exact_mod_cast (Nat.div_add_mod' m _).symm
    have hrem : ((m % 2 ^ s : Nat) : ℚ) < 2 ^ s := by exact_mod_cast Nat.mod_lt m (by positivity)
    have hle : m % 2 ^ s ≤ 2 ^ 24 := (Nat.mod_le _ _).trans h.lt.le
    have hbound : (-149 : ℤ) ≤ e := by simpa [fp32] using h.le
    generalize m % 2 ^ s = r at *
    generalize m / 2 ^ s = k at *
    have hpos : (0 : ℚ) < 2 ^ s := by positivity
    have hfrac : (r : ℚ) * 2 ^ e < 1 := by rwa [hpow, mul_one_div, div_lt_one hpos]
    have hfrac0 : (0 : ℚ) ≤ r * 2 ^ e := by positivity
    obtain ⟨y, hy, hrat, hround⟩ := fpRound32_exact hle hbound (hfrac.le.trans (by norm_num)) 0 false
    obtain ⟨hpat, hsign⟩ := signed_result hx h.unpack hy
    rw [hround, signed_false]
    have hval : (m : ℚ) * 2 ^ e = k + r * 2 ^ e := by
      rw [hdiv, add_mul, hpow]
      field_simp
    refine ⟨withNeg n (k : ℤ), _, rfl, hpat, hsign, ?_, ?_⟩
    · rw [h.value, finRat, hval, hrat]
      cases n <;> simp
    · rw [h.value]
      refine roundsToInt_of_intMag ⟨?_, ?_⟩
      all_goals
        have hvalR := congrArg (fun q : ℚ => (q : ℝ)) hval
        push_cast at hvalR
        rw [hvalR]
      · have : (0 : ℝ) ≤ r * 2 ^ e := by positivity
        linarith
      · have : ((r * 2 ^ e : ℚ) : ℝ) < 1 := by exact_mod_cast hfrac
        push_cast at this
        linarith

theorem fpScale_result {y : Nat} (hy : y < 2 ^ 32) (h : Reads fp32 x n m e p) :
    (p = 0 → fpScale x y = (x, 0)) ∧
      (p ≠ 0 → RoundsOnce fp32 0 (p * 2 ^ (if y < 2 ^ 31 then (y : ℤ) else (y : ℤ) - 2 ^ 32)) (fpScale x y)) := by
  have hp : p = 0 ↔ m = 0 := by
    rw [h.value, finRat]
    have : (2 : ℚ) ^ e ≠ 0 := (zpow_pos two_pos e).ne'
    cases n <;> simp [this]
  simp only [fpScale, h.unpack, beq_iff_eq, ne_eq, hp]
  refine ⟨fun h0 => if_pos h0, fun h0 => ?_⟩
  rw [if_neg h0, h.value, sext_of_lt hy]
  have hscale : ∀ k : ℤ, finRat n m e * 2 ^ k = finRat n m (e + k) := fun k => by
    rw [finRat, finRat, zpow_add₀ two_ne_zero, ← mul_assoc]
    cases n <;> simp
  rw [hscale]
  exact fp32_ieee.roundsOnce_exact (by decide) h0 n _

theorem rat_one : fp32.rat 0x3F800000 = 1 := by
  have h : fp32.level 0x3F800000 = 2 ^ 149 := by decide +kernel
  rw [Fmt.rat, h]
  norm_num [fp32]

theorem fpSat_result (hx : x < 2 ^ 32) (hp : FinitePattern fp32 x p) (h : Reads fp32 x n m e p) :
    fpSat x = (if p ≤ 0 then 0 else if 1 < p then 0x3F800000 else x, 0) := by
  simp only [fpSat, h.unpack, Bool.or_eq_true, beq_iff_eq]
  have hpow : (0 : ℚ) < 2 ^ e := zpow_pos two_pos e
  split
  next h0 =>
    rw [if_pos]
    rw [h.value, finRat]
    obtain rfl | rfl := h0
    · exact neg_nonpos.2 (by positivity)
    · simp
  next h0 =>
    rw [not_or] at h0
    obtain ⟨hn, hm⟩ := h0
    obtain rfl : n = false := by simpa using hn
    have hm1 : (0 : ℚ) < m := by exact_mod_cast Nat.pos_of_ne_zero hm
    have hpos : 0 < p := by
      rw [h.value, finRat, withNeg_false]
      positivity
    rw [if_neg (not_le.2 hpos)]
    have hsign := sign_eq_of_unpack hx h.unpack
    have hmag : fp32.mag x = x := Nat.mod_eq_of_lt (show x < 2 ^ 31 by simp at hsign; omega)
    obtain ⟨-, hval⟩ := fp32_ieee.regular.finitePattern_iff.1 hp
    obtain ⟨-, hneg, -⟩ := fp32_ieee.regular.unpack_eq_fin_iff.1 h.unpack
    rw [← hneg, hmag, withNeg_false] at hval
    have hcmp : 1 < p ↔ 0x3F800000 < x := by
      rw [hval, ← rat_one, ← Rat.cast_lt (K := ℝ), Fmt.cast_rat, Fmt.cast_rat]
      exact fp32.value_strictMono.lt_iff_lt
    simp only [gt_iff_lt, hcmp]
    split <;> rfl

end

/-! ### The instructions (R172 to R176) -/

section
variable {i : Instr} {cls : Cls} {b a d : Nat}

/-- What an FP32 operation writes: its result and its flags. -/
def WritesFp (g : Gang) (d : Nat) (u v : Thread) (z : Nat × Word) : Prop :=
  WithFlags u v z.2 fun u v => WritesReg g.level u v d (BitVec.ofNat 32 z.1)

theorem laneResult_fp2 {r : Nat → Nat → Nat × Word} (he : ∀ s, exec i s = formFlags s cls b a d fun x y => asWord (r x.toNat y.toNat)) :
    LaneResult i cls [.reg d, .reg a, .reg b] fun g _ _ u v =>
      WritesFp g d u v (r (rdReg g.level u a).toNat (rdReg g.level u b).toNat) :=
  laneResult_formFlags he

theorem laneResult_fp1 {r : Nat → Nat × Word} (he : ∀ s, exec i s = formRRFlags s cls a d fun x => asWord (r x.toNat)) :
    LaneResult i cls [.reg d, .reg a] fun g _ _ u v => WritesFp g d u v (r (rdReg g.level u a).toNat) :=
  laneResult_formRRFlags he

theorem laneResult_approx {r : Word → Nat × Word} (he : ∀ s, exec i s = formRRFlags s cls a d fun x => asWord (r x)) :
    LaneResult i cls [.reg d, .reg a] fun g _ _ u v => WritesFp g d u v (r (rdReg g.level u a)) :=
  laneResult_formRRFlags he

theorem laneResult_fma (m b a d : Nat) : LaneResult (.fma m b a d) .none [.reg d, .reg a, .reg b] fun g _ _ u v =>
    WritesFp g d u v (fpFma fp32 m (rdReg g.level u d).toNat (rdReg g.level u a).toNat (rdReg g.level u b).toNat) :=
  laneResult_formAccFlags (exec_fma m b a d)

end

/-- The instruction writes the value and the flags of its approximation (R176). -/
def Approximates (r : (Nat → Nat → Instr) × (Word → Nat × Word)) : Prop :=
  ∀ a d, LaneResult (r.1 a d) .a [.reg d, .reg a] fun g _ _ u v =>
    WithFlags u v (r.2 (rdReg g.level u a)).2 fun u v =>
      WritesReg g.level u v d (BitVec.ofNat 32 (r.2 (rdReg g.level u a)).1)

theorem approximates {i : Nat → Nat → Instr} {r : Word → Nat × Word}
    (he : ∀ a d s, exec (i a d) s = formRRFlags s .a a d fun x => asWord (r x)) : Approximates (i, r) :=
  fun a d => laneResult_approx (he a d)

theorem approximations : ∀ r ∈ [(Instr.frcp, fpRcp), (Instr.frsqrt, fpRsqrt), (Instr.fexp2, fpExp2), (Instr.flog2, fpLog2),
    (Instr.fsin, fpSin), (Instr.fcos, fpCos)], Approximates r := by
  simp only [List.forall_mem_cons, List.not_mem_nil, IsEmpty.forall_iff, implies_true, and_true]
  exact ⟨approximates exec_frcp, approximates exec_frsqrt, approximates exec_fexp2, approximates exec_flog2, approximates exec_fsin,
    approximates exec_fcos⟩

/-- A NaN of FP32 reads as one. -/
theorem unpack_nan32 {x : Nat} (h : x / 2 ^ 23 % 2 ^ 8 = 255 ∧ x % 2 ^ 23 ≠ 0) :
    unpack fp32 x = .nan (decide (x % 2 ^ 23 < 2 ^ 22)) :=
  unpack_of_nan fp32_arithmetic h

theorem unpack_inf32 {x : Nat} (hx : x < 2 ^ 32) (h : x / 2 ^ 23 % 2 ^ 8 = 255 ∧ x % 2 ^ 23 = 0) :
    unpack fp32 x = .inf (!decide (x < 2 ^ 31)) := by
  have hpat : fp32.IsPattern x := hx
  rw [unpack_of_inf fp32_arithmetic h, Fmt.neg_eq hpat]
  have hs : fp32.sgn x = x / 2 ^ 31 := rfl
  rw [hs, ← decide_not, FVal.inf.injEq, decide_eq_decide]
  omega

theorem flag_decide_nv (c : Prop) [Decidable c] : flag (decide c) flNV = if c then 1 else 0 := by
  by_cases h : c <;> simp [flag, flNV, h]

theorem nan_results {x : Nat} (h : x / 2 ^ 23 % 2 ^ 8 = 255 ∧ x % 2 ^ 23 ≠ 0) :
    let o : Nat × Word := (0x7FC00000, if x % 2 ^ 23 < 2 ^ 22 then 1 else 0)
    (∀ m, fpRint m x = o) ∧ fpFrac x = o ∧ (∀ y, fpScale x y = o) ∧ fpSat x = (0, o.2) := by
  have hu := unpack_nan32 h
  have hn : fp32.cnan = 0x7FC00000 := by decide
  simp only [fpRint, fpFrac, fpScale, fpSat, hu, flag_decide_nv, hn, implies_true, and_self]

theorem inf_results {x : Nat} (hx : x < 2 ^ 32) (h : x / 2 ^ 23 % 2 ^ 8 = 255 ∧ x % 2 ^ 23 = 0) :
    (∀ m, fpRint m x = (x, 0)) ∧ fpFrac x = (0x7FC00000, 1) ∧ (∀ y, fpScale x y = (x, 0)) ∧
      fpSat x = (if x < 2 ^ 31 then 0x3F800000 else 0, 0) := by
  have hu := unpack_inf32 hx h
  have hn : fp32.cnan = 0x7FC00000 := by decide
  simp only [fpRint, fpFrac, fpScale, fpSat, hu, hn, flNV, implies_true, true_and, Prod.mk.injEq, and_true, Bool.not_eq_true',
    decide_eq_false_iff_not]
  exact ite_not ..

/-- Settles O8: each form writes its function's value, and the four functions are taken case by case. -/
theorem floatResults : Obligations.FloatResults := by
  unfold Obligations.FloatResults
  refine ⟨?_, laneResult_fma, fun m b a d => laneResult_fp2 fun _ => rfl, fun m a d => laneResult_fp1 fun _ => rfl, ?_, ?_, approximations, ?_⟩
  case refine_4 =>
    intro nan top x hx
    refine ⟨fun hn o ho => ?_, fun hn => ?_, fun ht => ?_, fun p hp => ?_⟩
    · obtain ⟨hrint, hfrac, hscale, -⟩ := nan_results hn
      simp only [List.mem_cons, List.not_mem_nil, or_false, hrint, hfrac, hscale, or_self] at ho
      exact ho
    · obtain ⟨-, -, hscale, hsat⟩ := nan_results hn
      exact ⟨fun y => (hscale y).trans (hscale 0).symm, hsat⟩
    · obtain ⟨htop, hnn⟩ := ht
      exact inf_results hx ⟨htop, by_contra fun h => hnn ⟨htop, h⟩⟩
    · obtain ⟨n, m, e, hr⟩ := fp32_ieee.regular.reads hp
      exact ⟨fun mode _ => fpRint_result hx hp hr mode, fpFrac_result hx hr, fun y hy => fpScale_result hy hr, fpSat_result hx hp hr⟩
  all_goals simp only [List.forall_mem_cons, List.not_mem_nil, IsEmpty.forall_iff, implies_true, and_true]
  · exact ⟨fun m b a d => laneResult_fp2 fun _ => rfl, fun m b a d => laneResult_fp2 fun _ => rfl, fun m b a d => laneResult_fp2 fun _ => rfl⟩
  · exact ⟨fun b a d => laneResult_fp2 fun _ => rfl, fun b a d => laneResult_fp2 fun _ => rfl, fun b a d => laneResult_fp2 fun _ => rfl⟩
  · exact ⟨fun m a d => laneResult_fp1 fun _ => rfl, fun m a d => laneResult_fp1 fun _ => rfl, fun m a d => laneResult_fp1 fun _ => rfl⟩

end Sys2Proof.Machine
end

section

/-!
# Conversions (R180 to R184)
-/

namespace Sys2Proof.Machine

-- One proof at a time: each waiting thread would reserve a stack of its own.
set_option Elab.async false

/-! ### Quads of registers -/

/-- The word at a place of a quad. -/
def quadWord (v i : Nat) : Word := BitVec.ofNat 32 (v / 2 ^ (32 * i))

/-- What writing a quad leaves (R59). -/
theorem wrQuad_writes (u : Thread) (d v : Nat) :
    SameButRegs u (wrQuad u d v) ∧ (wrQuad u d v).save1 = u.save1 ∧ (wrQuad u d v).save2 = u.save2 ∧
      (∀ i < 4, d ≠ 0 → rdPhys (wrQuad u d v) (u.wbase + d + i) = quadWord v i) ∧
      (∀ k, d = 0 ∨ k < u.wbase + d ∨ u.wbase + d + 4 ≤ k → rdPhys (wrQuad u d v) k = rdPhys u k) := by
  unfold wrQuad
  split
  next h0 => exact ⟨rfl, rfl, rfl, fun _ _ h => absurd h0 h, fun _ _ => rfl⟩
  next h0 =>
    refine ⟨rfl, rfl, rfl, fun i hi _ => ?_, fun k hk => ?_⟩
    · interval_cases i <;> simp [quadWord]
    · have hne : ∀ j < 4, k ≠ u.wbase + d + j := fun j hj => by omega
      have h1 := hne 0 (by omega)
      have h2 := hne 1 (by omega)
      have h3 := hne 2 (by omega)
      have h4 := hne 3 (by omega)
      rw [add_zero] at h1
      simp only [rdPhys_wrPhys, h1, h2, h3, h4, if_false]

theorem wrQuad_aflags (u : Thread) (d v : Nat) : (wrQuad u d v).aflags = u.aflags := by
  unfold wrQuad
  split <;> rfl

/-! ### The forms, lane by lane (R184) -/

theorem packElems_two (f : Fmt) (mode : Nat) (s : Bool) (src : Nat → Nat) :
    let e := fun i => cvtToFloat f mode s (unpack fp32 (src i))
    packElems 2 16 f mode s src = ((e 0).1 % 2 ^ 16 + 2 ^ 16 * ((e 1).1 % 2 ^ 16), (e 0).2 ||| (e 1).2) := by
  simp [packElems, List.range_succ, mul_comm]

theorem packElems_four (f : Fmt) (mode : Nat) (s : Bool) (src : Nat → Nat) :
    let e := fun i => cvtToFloat f mode s (unpack fp32 (src i))
    packElems 4 8 f mode s src = ((e 0).1 % 2 ^ 8 + 2 ^ 8 * ((e 1).1 % 2 ^ 8) + 2 ^ 16 * ((e 2).1 % 2 ^ 8) + 2 ^ 24 * ((e 3).1 % 2 ^ 8),
      (e 0).2 ||| (e 1).2 ||| (e 2).2 ||| (e 3).2) := by
  simp [packElems, List.range_succ, mul_comm]

theorem unpackElems_two (f : Fmt) (x : Nat) :
    unpackElems 2 16 f x = ((widen f (bits x 0 16)).1 + 2 ^ 32 * (widen f (bits x 16 16)).1,
      (widen f (bits x 0 16)).2 ||| (widen f (bits x 16 16)).2) := by
  simp [unpackElems, List.range_succ, mul_comm]

theorem unpackElems_four (f : Fmt) (x : Nat) : let e := fun i => widen f (bits x (8 * i) 8)
    unpackElems 4 8 f x = ((e 0).1 + 2 ^ 32 * (e 1).1 + 2 ^ 64 * (e 2).1 + 2 ^ 96 * (e 3).1, (e 0).2 ||| (e 1).2 ||| (e 2).2 ||| (e 3).2) := by
  simp [unpackElems, List.range_succ, mul_comm]

theorem laneResult_cvtScalar {f : Nat} (hf : f < 0x18) (m s a d : Nat) : LaneResult (.cvt f m s a d) .none [.reg d, .reg a] fun g _ _ u v =>
    WritesFp g d u v (cvtScalar f m (s == 1) (rdReg g.level u a).toNat) := by
  refine laneResult_fp1 fun st => ?_
  interval_cases f <;> rfl

section
variable {i : Instr} {m a d : Nat} {s : Bool} {f : Fmt}

theorem laneResult_packPair (he : ∀ st, exec i st = issueLanes st .none [.reg d, .pair a] fun lv t =>
    orFlags (wrReg lv t d (BitVec.ofNat 32 (packElems 2 16 f m s fun k => bits (rdPair lv t a).toNat (32 * k) 32).1))
      (packElems 2 16 f m s fun k => bits (rdPair lv t a).toNat (32 * k) 32).2) :
    LaneResult i .none [.reg d, .pair a] fun g _ _ u v =>
      let p := cvtToFloat f m s (unpack fp32 ((rdPair g.level u a).toNat % 2 ^ 32))
      let q := cvtToFloat f m s (unpack fp32 ((rdPair g.level u a).toNat / 2 ^ 32))
      WritesPaired g d u v p q := by
  refine laneResult_lanes _ he fun g _ _ u => ?_
  have hlo : bits (rdPair g.level u a).toNat (32 * 0) 32 = (rdPair g.level u a).toNat % 2 ^ 32 := by simp [bits]
  have hhi : bits (rdPair g.level u a).toNat (32 * 1) 32 = (rdPair g.level u a).toNat / 2 ^ 32 := by
    have := (rdPair g.level u a).isLt
    simp only [bits]
    omega
  dsimp only
  rw [packElems_two]
  beta_reduce
  rw [hlo, hhi]
  exact orFlags_wrReg_with ..

theorem laneResult_packQuad (he : ∀ st, exec i st = issueLanes st .none [.reg d, .quad a] fun lv t =>
    orFlags (wrReg lv t d (BitVec.ofNat 32 (packElems 4 8 f m s fun k => bits (rdQuad t a) (32 * k) 32).1))
      (packElems 4 8 f m s fun k => bits (rdQuad t a) (32 * k) 32).2) :
    LaneResult i .none [.reg d, .quad a] fun g _ _ u v =>
      let e := fun k => cvtToFloat f m s (unpack fp32 (rdQuad u a / 2 ^ (32 * k) % 2 ^ 32))
      WithFlags u v ((e 0).2 ||| (e 1).2 ||| (e 2).2 ||| (e 3).2) fun u v => WritesReg g.level u v d (BitVec.ofNat 32
        ((e 0).1 % 2 ^ 8 + 2 ^ 8 * ((e 1).1 % 2 ^ 8) + 2 ^ 16 * ((e 2).1 % 2 ^ 8) + 2 ^ 24 * ((e 3).1 % 2 ^ 8))) := by
  refine laneResult_lanes _ he fun g _ _ u => ?_
  dsimp only
  rw [packElems_four]
  exact orFlags_wrReg_with ..

theorem laneResult_unpackPair (hd : d % 2 = 0) (he : ∀ st, exec i st = issueLanes st .none [.pair d, .reg a] fun lv t =>
    orFlags (wrPair lv t d (BitVec.ofNat 64 (unpackElems 2 16 f (rdReg lv t a).toNat).1)) (unpackElems 2 16 f (rdReg lv t a).toNat).2) :
    LaneResult i .none [.pair d, .reg a] fun g _ _ u v =>
      let p := widen f ((rdReg g.level u a).toNat % 2 ^ 16)
      let q := widen f ((rdReg g.level u a).toNat / 2 ^ 16)
      WithFlags u v (p.2 ||| q.2) fun u v => WritesPair g.level u v d (BitVec.ofNat 64 (p.1 + 2 ^ 32 * q.1)) := by
  refine laneResult_lanes _ he fun g _ _ u => ?_
  have hlo := half_zero (rdReg g.level u a)
  have hhi := half_one (rdReg g.level u a)
  unfold half at hlo hhi
  dsimp only
  rw [unpackElems_two, ← hlo, ← hhi]
  exact orFlags_with _ _ _ _ (wrPair_aflags ..) (wrPair_writes _ _ _ _ hd)

theorem laneResult_unpackQuad (he : ∀ st, exec i st = issueLanes st .none [.quad d, .reg a] fun lv t =>
    orFlags (wrQuad t d (unpackElems 4 8 f (rdReg lv t a).toNat).1) (unpackElems 4 8 f (rdReg lv t a).toNat).2)
    (hlt : ∀ x, (widen f x).1 < 2 ^ 32) :
    LaneResult i .none [.quad d, .reg a] fun g _ _ u v =>
      let e := fun k => widen f ((rdReg g.level u a).toNat / 2 ^ (8 * k) % 2 ^ 8)
      WithFlags u v ((e 0).2 ||| (e 1).2 ||| (e 2).2 ||| (e 3).2) fun u v =>
        SameButRegs u v ∧ v.save1 = u.save1 ∧ v.save2 = u.save2 ∧
        (∀ k < 4, d ≠ 0 → rdPhys v (u.wbase + d + k) = BitVec.ofNat 32 (e k).1) ∧
        (∀ k, d = 0 ∨ k < u.wbase + d ∨ u.wbase + d + 4 ≤ k → rdPhys v k = rdPhys u k) := by
  refine laneResult_lanes _ he fun g _ _ u => ?_
  dsimp only
  rw [unpackElems_four]
  refine orFlags_with _ _ _ _ (wrQuad_aflags ..) ?_
  obtain ⟨hrest, h1, h2, hw, hframe⟩ := wrQuad_writes u d ((widen f (bits (rdReg g.level u a).toNat (8 * 0) 8)).1 +
    2 ^ 32 * (widen f (bits (rdReg g.level u a).toNat (8 * 1) 8)).1 + 2 ^ 64 * (widen f (bits (rdReg g.level u a).toNat (8 * 2) 8)).1 +
    2 ^ 96 * (widen f (bits (rdReg g.level u a).toNat (8 * 3) 8)).1)
  refine ⟨hrest, h1, h2, fun k hk h0 => ?_, hframe⟩
  rw [hw k hk h0, quadWord]
  refine BitVec.eq_of_toNat_eq ?_
  rw [BitVec.toNat_ofNat, BitVec.toNat_ofNat]
  have e0 := hlt (bits (rdReg g.level u a).toNat (8 * 0) 8)
  have e1 := hlt (bits (rdReg g.level u a).toNat (8 * 1) 8)
  have e2 := hlt (bits (rdReg g.level u a).toNat (8 * 2) 8)
  have e3 := hlt (bits (rdReg g.level u a).toNat (8 * 3) 8)
  unfold bits at *
  interval_cases k <;> simp only [Nat.reduceMul, Nat.reducePow] at * <;> omega

end

/-! ### Widening (R183) -/

/-- What `widen` needs of a narrower format: its values are values of FP32. -/
structure Fmt.Narrow (f : Fmt) : Prop extends f.Regular where
  fw_le : f.fw ≤ 23
  weight_le : f.bias + f.fw ≤ 150
  max_le : f.rat f.maxFin ≤ fp32.rat fp32.maxFin

theorem rat_le_of_level {f : Fmt} {y a : Nat} {q : ℚ} (h : f.level y = a) (hq : (a : ℚ) * 2 ^ (1 - (f.bias : Int) - f.fw) ≤ q) :
    f.rat y ≤ q := by rwa [Fmt.rat, h]

theorem pow127_le_fp32_max : (255 : ℚ) * 2 ^ 120 ≤ fp32.rat fp32.maxFin := by
  have h := fp32_ieee.value_maxFin
  rw [← Fmt.cast_rat] at h
  have h2 : (255 : ℝ) * 2 ^ 120 ≤ (fp32.rat fp32.maxFin : ℚ) := by
    rw [h]
    norm_num [fp32]
  exact_mod_cast h2

theorem narrow_formats : ∀ f ∈ [bf16, f16, e5m2, e4m3, e2m1], f.Narrow := by
  have regular : ∀ f ∈ [fp32, f16, bf16, e5m2, e4m3, e2m1], f.Regular := regular_formats
  have max : ∀ f ∈ [bf16, f16, e5m2, e4m3, e2m1], f.rat f.maxFin ≤ 255 * 2 ^ 120 := by
    simp only [List.forall_mem_cons, List.not_mem_nil, IsEmpty.forall_iff, implies_true, and_true]
    refine ⟨rat_le_of_level (a := 255 * 2 ^ 253) (by decide +kernel) ?_, rat_le_of_level (a := 65504 * 2 ^ 24) (by decide +kernel) ?_,
      rat_le_of_level (a := 57344 * 2 ^ 16) (by decide +kernel) ?_, rat_le_of_level (a := 448 * 2 ^ 9) (by decide +kernel) ?_,
      rat_le_of_level (a := 12) (by decide +kernel) ?_⟩
    all_goals norm_num [bf16, f16, e5m2, e4m3, e2m1]
  intro f hf
  refine { regular f ?_ with fw_le := ?_, weight_le := ?_, max_le := (max f hf).trans pow127_le_fp32_max }
  · simp only [List.mem_cons, List.not_mem_nil, or_false] at hf ⊢
    tauto
  all_goals revert f; decide

theorem fpOfV_exact {m y : Nat} {e : Int} (n : Bool) (hy : y ≤ fp32.maxFin) (hrat : fp32.rat y = m * 2 ^ e) :
    fpOfV fp32 0 (.fin n m e) = (signed fp32 n y, 0) := by
  unfold fpOfV
  simp only [beq_iff_eq]
  split
  next h0 =>
    rw [h0, Nat.cast_zero, zero_mul] at hrat
    have : y = 0 := fp32.value_strictMono.injective (by rw [← Fmt.cast_rat, hrat, fp32.value_zero, Rat.cast_zero])
    rw [this]
  next => exact fp32_ieee.fpRound_of_rat n hy hrat

section
variable {f : Fmt} (hf : f.Narrow) {x : Nat}
include hf

theorem Fmt.Narrow.exists_rat {n : Bool} {m : Nat} {e : Int} {p : ℚ} (h : Reads f x n m e p) : ∃ y ≤ fp32.maxFin, fp32.rat y = m * 2 ^ e := by
  refine Fmt.exists_rat (h.lt.le.trans (Nat.pow_le_pow_right two_pos (Nat.succ_le_succ hf.fw_le))) ?_ ?_
  · have h1 := h.le
    have h2 := hf.weight_le
    simp only [fp32]
    omega
  · have h1 := h.max
    rw [h.value, finRat, abs_withNeg, abs_of_nonneg (by positivity)] at h1
    exact h1.trans hf.max_le

theorem Fmt.Narrow.widen_eq {p : ℚ} (hp : FinitePattern f x p) :
    ∃ n, ∃ y ≤ fp32.maxFin, widen f x = (signed fp32 n y, 0) ∧ withNeg n (fp32.rat y) = p := by
  obtain ⟨n, m, e, h⟩ := hf.reads hp
  obtain ⟨y, hy, hrat⟩ := hf.exists_rat h
  refine ⟨n, y, hy, ?_, by rw [hrat, ← finRat, ← h.value]⟩
  rw [widen, h.unpack]
  exact fpOfV_exact n hy hrat

theorem Fmt.Narrow.widen_finite {p : ℚ} (hp : FinitePattern f x p) : FinitePattern fp32 (widen f x).1 p ∧ (widen f x).2 = 0 := by
  obtain ⟨n, y, hy, hw, rfl⟩ := hf.widen_eq hp
  rw [hw]
  exact ⟨fp32_ieee.regular.finitePattern_signed hy, rfl⟩

omit hf

theorem widen_zero {n : Bool} {e : Int} (h : unpack f x = .fin n 0 e) : (widen f x).1 = if n then 2 ^ 31 else 0 := by
  rw [widen, h]
  cases n <;> rfl

theorem widen_inf {n : Bool} (h : unpack f x = .inf n) : widen f x = (if n then 0xFF800000 else 0x7F800000, 0) := by
  rw [widen, h]
  cases n <;> rfl

theorem widen_nan {s : Bool} (h : unpack f x = .nan s) : widen f x = (0x7FC00000, if s then 1 else 0) := by
  rw [widen, h]
  cases s <;> rfl

include hf

theorem Fmt.Narrow.widen_lt (x : Nat) : (widen f x).1 < 2 ^ 32 := by
  cases hu : unpack f x with
  | nan s => rw [widen_nan hu]; norm_num
  | inf n => rw [widen_inf hu]; cases n <;> norm_num
  | fin n m e =>
    obtain ⟨n', y, hy, hw, -⟩ := hf.widen_eq ⟨n, m, e, hu, rfl⟩
    have hlt : y < 2 ^ 31 := hy.trans_lt (by decide)
    rw [hw]
    cases n' <;> simp only [signed, Fmt.signBit, fp32] <;> simp <;> omega

end

end Sys2Proof.Machine
end

section

/-!
# Conversions to narrower formats and to integers
-/

namespace Sys2Proof.Machine

-- One proof at a time: each waiting thread would reserve a stack of its own.
set_option Elab.async false

/-! ### To a narrower format (R181) -/

/-- The pattern that stands beyond the largest finite value where nothing saturates. -/
def Fmt.beyond (f : Fmt) (n : Bool) : Nat := if f.ieee then signed f n f.inf else if f.nan.isSome then f.cnan else signed f n f.maxFin

theorem cvtToFloat_fin {f : Fmt} {mode m : Nat} {s n : Bool} {e : Int} (hm : m ≠ 0) : cvtToFloat f mode s (.fin n m e) =
    if (roundCore f mode n m e false).1 ≤ f.maxFin then
      (signed f n (roundCore f mode n m e false).1, flag (roundCore f mode n m e false).2.1 flNX |||
        flag ((roundCore f mode n m e false).2.2 && (roundCore f mode n m e false).2.1) flUF)
    else (if s || overflowsToMax mode n then signed f n f.maxFin else f.beyond n, flOF ||| flNX) := by
  simp only [cvtToFloat, beq_iff_eq, hm, if_false, Fmt.beyond]
  split
  · rfl
  · split
    · rfl
    · split
      · rfl
      · split <;> rfl

/-- The largest finite value of a format and the step past it. -/
structure Fmt.Range (f : Fmt) (max step : ℚ) : Prop where
  rat_maxFin : f.rat f.maxFin = max
  rat_next : f.rat (f.maxFin + 1) = max + step

/-- A rounded magnitude exceeds the largest finite one. -/
def BeyondMag (f : Fmt) (max step x : ℚ) : Direction → Prop
  | .nearest => max + step / 2 < x ∨ max + step / 2 = x ∧ f.maxFin % 2 = 1
  | .toZero => max + step ≤ x
  | .away => max < x

theorem Fmt.Range.beyond_iff {f : Fmt} {max step x : ℚ} (h : f.Range max step) {p : Nat} :
    ∀ {d : Direction}, RoundsMag f (x : ℝ) p d → (f.maxFin < p ↔ BeyondMag f max step x d)
  | .nearest, hr => by
    rw [hr.lt_iff_nearest, BeyondMag, ← Fmt.cast_rat, ← Fmt.cast_rat, h.rat_maxFin, h.rat_next]
    have h1 : (max : ℝ) + ((max + step : ℚ) : ℝ) < 2 * x ↔ max + step / 2 < x := by
      rw [show (max : ℝ) + ((max + step : ℚ) : ℝ) = ((max + (max + step) : ℚ) : ℝ) by push_cast; rfl]
      rw [show (2 : ℝ) * x = ((2 * x : ℚ) : ℝ) by push_cast; rfl, Rat.cast_lt]
      constructor <;> intro _ <;> linarith
    have h2 : (max : ℝ) + ((max + step : ℚ) : ℝ) = 2 * x ↔ max + step / 2 = x := by
      rw [show (max : ℝ) + ((max + step : ℚ) : ℝ) = ((max + (max + step) : ℚ) : ℝ) by push_cast; rfl]
      rw [show (2 : ℝ) * x = ((2 * x : ℚ) : ℝ) by push_cast; rfl, Rat.cast_inj]
      constructor <;> intro _ <;> linarith
    rw [h1, h2]
  | .toZero, hr => by rw [hr.lt_iff_toZero, BeyondMag, ← Fmt.cast_rat, h.rat_next, Rat.cast_le]
  | .away, hr => by rw [hr.lt_iff_away, BeyondMag, ← Fmt.cast_rat, h.rat_maxFin, Rat.cast_lt]

section
variable {f : Fmt} (hf : f.Regular) {mode m : Nat} {e : Int} {n : Bool} (hm : m ≠ 0) {p : ℚ} (hp : p = finRat n m e)
include hm hp

theorem given_rat : Given f m e false ((|p| : ℚ) : ℝ) := by
  have h := given_exact (f := f) hm e
  have : ((|p| : ℚ) : ℝ) = m * 2 ^ e := by
    rw [hp, finRat, abs_withNeg, abs_of_nonneg (by positivity)]
    push_cast
    rfl
  rwa [this]

theorem finRat_lt_zero : p < 0 ↔ n = true := by
  have h : (0 : ℚ) < m * 2 ^ e := mul_pos (Nat.cast_pos.2 (Nat.pos_of_ne_zero hm)) (zpow_pos two_pos e)
  rw [hp, finRat]
  cases n
  · simp [h.le]
  · simpa using h

theorem withNeg_abs : withNeg n |p| = p := by
  have h : (0 : ℚ) ≤ m * 2 ^ e := by positivity
  rw [hp, finRat, abs_withNeg, abs_of_nonneg h]

include hf

/-- A result in range is the value that the mode chooses, with the flags of what was dropped. -/
theorem roundsAmong_of_le (hle : (roundCore f mode n m e false).1 ≤ f.maxFin) :
    RoundsAmong f mode p (withNeg n (f.rat (roundCore f mode n m e false).1)) (signed f n (roundCore f mode n m e false).1) := by
  have hg := given_rat (f := f) hm hp
  obtain ⟨hr, -⟩ := hg.roundsMag (mode := mode) (neg := n) hf.fw_pos
  refine ⟨hf.finitePattern_signed hle, fun y q hy => ?_⟩
  obtain ⟨-, rfl⟩ := hf.finitePattern_iff.1 hy
  have hc := hr.isChoice hg.pos hf.ew_pos (f.neg y) (f.mag y)
  rw [← Fmt.cast_rat, ← Fmt.cast_rat, ← cast_withNeg, ← cast_withNeg, ← cast_withNeg, withNeg_abs hm hp] at hc
  refine ⟨fun h0 => ?_, fun h1 => ?_, fun h2 hq => ?_, fun h3 hq => ?_⟩
  · obtain ⟨ha, hb⟩ := hc.nearest h0
    exact ⟨by exact_mod_cast ha, fun he hne => hb (by exact_mod_cast he) (by exact_mod_cast hne)⟩
  · obtain ⟨ha, hb, hmax⟩ := hc.toZero h1
    exact ⟨by exact_mod_cast ha, by exact_mod_cast hb, fun hq => by exact_mod_cast hmax (by exact_mod_cast hq)⟩
  · obtain ⟨ha, hmin⟩ := hc.up h2
    exact ⟨by exact_mod_cast ha, by exact_mod_cast hmin (by exact_mod_cast hq)⟩
  · obtain ⟨ha, hmax⟩ := hc.down h3
    exact ⟨by exact_mod_cast ha, by exact_mod_cast hmax (by exact_mod_cast hq)⟩

theorem inexact_iff :
    (roundCore f mode n m e false).2.1 = false ↔ withNeg n (f.rat (roundCore f mode n m e false).1) = p := by
  have hg := given_rat (f := f) hm hp
  have hs := withNeg_abs hm hp
  rw [(hg.roundsMag (mode := mode) (neg := n) hf.fw_pos).2, ← Fmt.cast_rat, Rat.cast_inj]
  exact ⟨fun h => by rw [← h, hs], fun h => by rw [← h, abs_withNeg_rat]⟩

/-- A finite value that rounds past the largest one saturates, or gives the pattern beyond. -/
theorem cvtToFloat_beyond (hmode : mode < 4) {max step : ℚ} (hr : f.Range max step) (hb : BeyondMag f max step |p| (direction mode n))
    (s : Bool) :
    (s = true ∨ direction mode n = .toZero → cvtToFloat f mode s (.fin n m e) = (signed f n f.maxFin, 20)) ∧
      (s = false → direction mode n ≠ .toZero → cvtToFloat f mode s (.fin n m e) = (f.beyond n, 20)) := by
  have hg := given_rat (f := f) hm hp
  have hover := (hr.beyond_iff (hg.roundsMag (mode := mode) (neg := n) hf.fw_pos).1).2 hb
  rw [cvtToFloat_fin hm, if_neg (not_le.2 hover)]
  have hsat : (s || overflowsToMax mode n) = true ↔ s = true ∨ direction mode n = .toZero := by
    rw [Bool.or_eq_true, overflowsToMax_iff hmode]
  refine ⟨fun h => by rw [if_pos (hsat.2 h)]; rfl, fun hs hd => ?_⟩
  rw [if_neg (by rw [hsat, hs]; simpa using hd)]
  rfl

/-- A finite value in range is rounded once; the flags tell whether it changed, and whether it is tiny. -/
theorem cvtToFloat_within {max step : ℚ} (hr : f.Range max step) (hb : ¬ BeyondMag f max step |p| (direction mode n)) (s : Bool) :
    let o := cvtToFloat f mode s (.fin n m e)
    ∃ v, RoundsAmong f mode p v o.1 ∧ o.1 / 2 ^ (f.ew + f.fw) = (if p < 0 then 1 else 0) ∧
      (o.2 = 0 ∨ o.2 = 16 ∨ o.2 = 24) ∧ (o.2 = 0 ↔ v = p) ∧ (o.2 = 24 → |p| < 2 ^ (1 - f.bias : ℤ)) := by
  have hg := given_rat (f := f) hm hp
  have hle := not_lt.1 ((not_congr (hr.beyond_iff (hg.roundsMag (mode := mode) (neg := n) hf.fw_pos).1)).2 hb)
  have hsign : signed f n (roundCore f mode n m e false).1 / 2 ^ (f.ew + f.fw) = if p < 0 then 1 else 0 := by
    simp only [finRat_lt_zero hm hp]
    exact sgn_signed (hle.trans_lt hf.maxFin_lt) n
  have hflags : ∀ a b : Bool, let w := flag a flNX ||| flag (b && a) flUF
      (w = 0 ∨ w = 16 ∨ w = 24) ∧ (w = 0 ↔ a = false) ∧ (w = 24 → b = true) := by decide
  obtain ⟨h1, h2, h3⟩ := hflags (roundCore f mode n m e false).2.1 (roundCore f mode n m e false).2.2
  intro o
  have ho : o = _ := (cvtToFloat_fin hm).trans (if_pos hle)
  rw [ho]
  refine ⟨_, roundsAmong_of_le hf hm hp hle, hsign, h1, h2.trans (inexact_iff hf hm hp), fun h => ?_⟩
  by_contra hbig
  refine not_tinyMag (f := f) (x := ((|p| : ℚ) : ℝ)) ?_ (direction mode n) (hg.tiny_iff.1 (h3 h))
  have := (Rat.cast_le (K := ℝ)).2 (not_lt.1 hbig)
  push_cast at this ⊢
  exact this

end

/-! ### To a power of two (R182) -/

/-- A power of two at or below a positive number is that of its leading digit. -/
theorem eq_expOf {m : Nat} {e j : Int} (hm : m ≠ 0) (h1 : (2 : ℚ) ^ j ≤ m * 2 ^ e) (h2 : (m : ℚ) * 2 ^ e < 2 ^ (j + 1)) :
    j = Nat.log2 m + e := by
  have hlo : (2 : ℚ) ^ ((Nat.log2 m : Int) + e) ≤ m * 2 ^ e := by
    rw [zpow_add₀ two_ne_zero, zpow_natCast]
    exact mul_le_mul_of_nonneg_right (by exact_mod_cast Nat.log2_self_le hm) (zpow_pos two_pos e).le
  have hhi : (m : ℚ) * 2 ^ e < 2 ^ ((Nat.log2 m : Int) + e + 1) := by
    rw [show (Nat.log2 m : Int) + e + 1 = ((Nat.log2 m + 1 : Nat) : Int) + e by push_cast; ring, zpow_add₀ two_ne_zero, zpow_natCast]
    exact mul_lt_mul_of_pos_right (by exact_mod_cast (Nat.lt_log2_self : m < _)) (zpow_pos two_pos e)
  have h3 := (zpow_lt_zpow_iff_right₀ one_lt_two).1 (hlo.trans_lt h2)
  have h4 := (zpow_lt_zpow_iff_right₀ one_lt_two).1 (h1.trans_lt hhi)
  omega

/-- The power of two that a mode chooses for a positive number whose leading digit has weight 2^j. -/
def e8m0Exp (mode : Nat) (m : Nat) (j : Int) : Int :=
  match mode with
  | 0 => if 3 * 2 ^ Nat.log2 m ≤ 2 * m then j + 1 else j
  | 2 => if m = 2 ^ Nat.log2 m then j else j + 1
  | _ => j

theorem cvtToE8m0_fin {mode m : Nat} {s : Bool} {e : Int} (hm : m ≠ 0) :
    let k := e8m0Exp mode m (Nat.log2 m + e)
    cvtToE8m0 mode s (.fin false m e) =
      if k > 127 then (if !s && (mode == 0 || mode == 2) then (0xFF, flOF) else (0xFE, flOF ||| flNX))
      else if k < -127 then (0, flUF ||| flNX)
      else ((k + 127).toNat, flag (!(m == 2 ^ Nat.log2 m && k == Nat.log2 m + e)) flNX) := by
  simp only [cvtToE8m0, beq_iff_eq, hm, if_false, Bool.false_eq_true]
  rfl

theorem cvtToE8m0_result {mode m : Nat} (hmode : mode < 4) {s : Bool} {e j : Int} {p : ℚ} (hm : m ≠ 0) (hp : p = m * 2 ^ e)
    (h1 : (2 : ℚ) ^ j ≤ p) (h2 : p < 2 ^ (j + 1)) :
    ∃ k : ℤ, k = (if (mode = 0 ∧ 3 / 2 * 2 ^ j ≤ p) ∨ (mode = 2 ∧ p ≠ 2 ^ j) then j + 1 else j) ∧
      (127 < k → cvtToE8m0 mode s (.fin false m e) = if s = false ∧ (mode = 0 ∨ mode = 2) then (0xFF, 4) else (0xFE, 20)) ∧
      (k < -127 → cvtToE8m0 mode s (.fin false m e) = (0, 24)) ∧
      (-127 ≤ k → k ≤ 127 → cvtToE8m0 mode s (.fin false m e) = ((k + 127).toNat, if p = 2 ^ k then 0 else 16)) := by
  obtain rfl := eq_expOf hm (hp ▸ h1) (hp ▸ h2)
  have hpow : (0 : ℚ) < 2 ^ e := zpow_pos two_pos e
  have hj : (2 : ℚ) ^ ((Nat.log2 m : Int) + e) = 2 ^ Nat.log2 m * 2 ^ e := by rw [zpow_add₀ two_ne_zero, zpow_natCast]
  have hhalf : 3 / 2 * (2 : ℚ) ^ ((Nat.log2 m : Int) + e) ≤ p ↔ 3 * 2 ^ Nat.log2 m ≤ 2 * m := by
    rw [hj, hp, ← mul_assoc, mul_le_mul_iff_left₀ hpow, ← Nat.cast_le (α := ℚ)]
    push_cast
    constructor <;> intro _ <;> linarith
  have hexact : p = 2 ^ ((Nat.log2 m : Int) + e) ↔ m = 2 ^ Nat.log2 m := by
    rw [hj, hp, mul_left_inj' hpow.ne', ← Nat.cast_inj (R := ℚ)]
    push_cast
    rfl
  have hk : e8m0Exp mode m (Nat.log2 m + e) = if (mode = 0 ∧ 3 / 2 * (2 : ℚ) ^ ((Nat.log2 m : Int) + e) ≤ p) ∨
      (mode = 2 ∧ p ≠ 2 ^ ((Nat.log2 m : Int) + e)) then Nat.log2 m + e + 1 else Nat.log2 m + e := by
    simp only [hhalf, ne_eq, hexact]
    interval_cases mode <;> simp [e8m0Exp]
  have hflag : (flag (!(m == 2 ^ Nat.log2 m && e8m0Exp mode m (Nat.log2 m + e) == Nat.log2 m + e)) flNX) =
      if p = 2 ^ e8m0Exp mode m (Nat.log2 m + e) then 0 else 16 := by
    obtain hk | hk : e8m0Exp mode m (Nat.log2 m + e) = Nat.log2 m + e ∨ e8m0Exp mode m (Nat.log2 m + e) = Nat.log2 m + e + 1 := by
      rw [hk]
      split <;> simp
    · rw [hk, if_congr hexact rfl rfl]
      by_cases h : m = 2 ^ Nat.log2 m
      · rw [if_pos h, beq_iff_eq.2 h]
        simp [flag]
      · rw [if_neg h, beq_eq_false_iff_ne.2 h]
        rfl
    · rw [hk, if_neg h2.ne, beq_eq_false_iff_ne.2 (lt_add_one _).ne']
      simp [flag, flNX]
  have hover : (!s && (mode == 0 || mode == 2)) = true ↔ s = false ∧ (mode = 0 ∨ mode = 2) := by simp
  refine ⟨_, hk, fun h => ?_, fun h => ?_, fun h h' => ?_⟩
  · rw [cvtToE8m0_fin hm, if_pos h]
    exact if_congr hover rfl rfl
  · rw [cvtToE8m0_fin hm, if_neg (by omega), if_pos h]
    rfl
  · rw [cvtToE8m0_fin hm, if_neg (by omega), if_neg (by omega), hflag]

/-! ### To an integer (R183) -/

section
variable {z lo hi : ℤ} (nv : Word)

theorem clamp_below (h : z < lo) : max lo (min z hi) = lo ∧ (if lo ≤ z ∧ z ≤ hi then 0 else nv) = nv :=
  ⟨by omega, if_neg (by omega)⟩

theorem clamp_above (h : hi < z) (hle : lo ≤ hi) : max lo (min z hi) = hi ∧ (if lo ≤ z ∧ z ≤ hi then 0 else nv) = nv :=
  ⟨by omega, if_neg (by omega)⟩

theorem clamp_within (h1 : ¬ z < lo) (h2 : ¬ hi < z) : max lo (min z hi) = z ∧ (if lo ≤ z ∧ z ≤ hi then 0 else nv) = 0 :=
  ⟨by omega, if_pos (by omega)⟩

end

theorem cvtToInt_result {lo hi : ℤ} (hlo : -2 ^ 32 ≤ lo) (hlo0 : lo ≤ 0) (hhi0 : 0 ≤ hi) (hhi : hi ≤ 2 ^ 32) (mode : Nat) (s n : Bool)
    (m : Nat) (e : Int) : ∃ k : ℤ, RoundsToInt mode (finRat n m e) k ∧ cvtToInt lo hi mode s (.fin n m e) =
      (max lo (min k hi), (if lo ≤ k ∧ k ≤ hi then 0 else if s then 0 else 1) ||| if finRat n m e = k then 0 else 16) := by
  have hnv : flag (!s) flNV = if s then 0 else 1 := by cases s <;> rfl
  simp only [cvtToInt]
  split
  next he =>
    have hint := finRat_of_nonneg n m (show 0 ≤ e by omega)
    refine ⟨withNeg n ((m * 2 ^ e.toNat : Nat) : ℤ), hint ▸ roundsToInt_self mode _, ?_⟩
    rw [if_pos hint]
    split
    next h0 =>
      have hm : m = 0 := by simpa using h0
      subst hm
      cases n <;> simp [hlo0, hhi0]
    next h0 =>
      have hm : 1 ≤ m := Nat.one_le_iff_ne_zero.2 (by simpa using h0)
      have hbig : 2 ^ 33 ≤ m * 2 ^ e.toNat :=
        calc 2 ^ 33 ≤ 1 * 2 ^ e.toNat := by rw [one_mul]; exact Nat.pow_le_pow_right two_pos (by omega)
          _ ≤ m * 2 ^ e.toNat := Nat.mul_le_mul_right _ hm
      generalize m * 2 ^ e.toNat = b at *
      rw [hnv]
      cases n
      · obtain ⟨hv, hfl⟩ := clamp_above (z := b) (lo := lo) (hi := hi) (if s then 0 else 1) (by omega) (by omega)
        rw [withNeg_false, hv, hfl]
        exact congrArg _ BitVec.or_zero.symm
      · obtain ⟨hv, hfl⟩ := clamp_below (z := -b) (lo := lo) (hi := hi) (if s then 0 else 1) (by omega)
        rw [withNeg_true, hv, hfl]
        exact congrArg _ BitVec.or_zero.symm
  next he =>
    obtain ⟨hmag, hexact⟩ := intMag_roundMag mode n m e
    have hround := roundsToInt_of_intMag hmag
    generalize hk : (roundMag mode n m e) = g at *
    obtain ⟨k, ch⟩ := g
    dsimp only at *
    have hch : flag ch flNX = if finRat n m e = ((withNeg n (k : ℤ) : ℤ) : ℚ) then 0 else 16 := by
      have hiff : finRat n m e = ((withNeg n (k : ℤ) : ℤ) : ℚ) ↔ ch = false := by
        rw [hexact, ← Rat.cast_inj (α := ℝ), cast_finRat]
        cases n <;> simp
      cases ch <;> simp [hiff, flag, flNX]
    refine ⟨withNeg n (k : ℤ), hround, ?_⟩
    rw [← hch, hnv, show (if n then -(k : ℤ) else (k : ℤ)) = withNeg n (k : ℤ) from rfl]
    generalize withNeg n (k : ℤ) = z
    split
    next h =>
      obtain ⟨hv, hfl⟩ := clamp_below (if s then 0 else 1) h
      rw [hv, hfl]
    next h =>
      split
      next h' =>
        obtain ⟨hv, hfl⟩ := clamp_above (if s then 0 else 1) h' (hlo0.trans hhi0)
        rw [hv, hfl]
      next h' =>
        obtain ⟨hv, hfl⟩ := clamp_within (if s then 0 else 1) h h'
        rw [hv, hfl]
        exact congrArg _ BitVec.zero_or.symm

theorem intWord_eq (z : ℤ) : intWord z = (BitVec.ofInt 32 z).toNat := by
  rw [intWord, wrapN, BitVec.toNat_ofInt]

/-! ### From integers and narrower formats (R183) -/

theorem sext_setWidth (x : Word) (n : Nat) (h : 0 < n) : sext x.toNat n = (x.setWidth n).toInt := by
  rw [← sext_toNat _ h, BitVec.toNat_setWidth, sext, sext, Nat.mod_mod]

/-- A small integer is delivered as it is. -/
theorem fpOfV_intVal {k : ℤ} (hk : k.natAbs ≤ 2 ^ 24) :
    FinitePattern fp32 (fpOfV fp32 0 (intVal k)).1 k ∧ (fpOfV fp32 0 (intVal k)).2 = 0 ∧ (k = 0 → (fpOfV fp32 0 (intVal k)).1 = 0) := by
  have hkQ : (k.natAbs : ℚ) ≤ 2 ^ 24 := by exact_mod_cast hk
  obtain ⟨y, hy, hrat, -⟩ := fpRound32_exact (m := k.natAbs) (e := 0) hk (by omega)
    (by rw [zpow_zero, mul_one]; linarith [show (2 : ℚ) ^ 24 ≤ 2 ^ 126 by norm_num]) 0 false
  have hv := fpOfV_exact (decide (k < 0)) hy hrat
  rw [intVal, hv]
  refine ⟨?_, rfl, fun h0 => ?_⟩
  · have h := fp32_ieee.regular.finitePattern_signed (n := decide (k < 0)) hy
    rwa [hrat, ← finRat, finRat_decide_natAbs, zpow_zero, mul_one] at h
  · subst h0
    rw [Int.natAbs_zero, Nat.cast_zero, zero_mul] at hrat
    have : y = 0 := fp32.value_strictMono.injective (by rw [← Fmt.cast_rat, hrat, fp32.value_zero, Rat.cast_zero])
    rw [this]
    rfl

theorem fpOfV_e8m0 {x : Nat} (hx : x % 256 ≠ 255) :
    FinitePattern fp32 (fpOfV fp32 0 (e8m0Val x)).1 (2 ^ ((x % 256 : Nat) - 127 : ℤ)) ∧ (fpOfV fp32 0 (e8m0Val x)).2 = 0 := by
  have hlt : x % 256 < 256 := Nat.mod_lt _ (by decide)
  have hv : e8m0Val x = .fin false 1 ((x % 256 : Nat) - 127 : ℤ) := by simp [e8m0Val, hx]
  have hmax : ((1 : Nat) : ℚ) * 2 ^ ((x % 256 : Nat) - 127 : ℤ) ≤ fp32.rat fp32.maxFin := by
    have h1 : (2 : ℚ) ^ ((x % 256 : Nat) - 127 : ℤ) ≤ 2 ^ (127 : ℤ) := zpow_le_zpow_right₀ one_le_two (by omega)
    have h2 : (2 : ℚ) ^ (127 : ℤ) ≤ 255 * 2 ^ 120 := by norm_num
    rw [Nat.cast_one, one_mul]
    exact h1.trans (h2.trans pow127_le_fp32_max)
  obtain ⟨y, hy, hrat⟩ := Fmt.exists_rat (f := fp32) (m := 1) (e := (x % 256 : Nat) - 127) (by norm_num [fp32]) (by simp only [fp32]; omega) hmax
  rw [hv, fpOfV_exact false hy hrat]
  have h := fp32_ieee.regular.finitePattern_signed (n := false) hy
  rw [hrat] at h
  exact ⟨by simpa using h, rfl⟩

/-! ### The obligation -/

/-- A mode of a sign is toward zero, away from it, or to the nearest. -/
theorem direction_eq {mode : Nat} (hmode : mode < 4) {p : ℚ} {n : Bool} (hneg : p < 0 ↔ n = true) (hpos : 0 < p ↔ n = false) :
    (mode = 0 ↔ direction mode n = .nearest) ∧
      ((mode = 2 ∧ 0 < p) ∨ (mode = 3 ∧ p < 0) ↔ direction mode n = .away) := by
  rw [hneg, hpos]
  interval_cases mode <;> cases n <;> simp [direction]

/-- The values about the ends of the narrow formats, and what stands beyond them. -/
theorem narrow_ranges : bf16.Range ((2 ^ 8 - 1) * 2 ^ 120) (2 ^ 120) ∧ f16.Range 65504 32 ∧ e5m2.Range 57344 8192 ∧ e4m3.Range 448 32 ∧
    e2m1.Range 6 2 := by
  have value : ∀ (f : Fmt) (y a : Nat) (q : ℚ), f.level y = a → (a : ℚ) * 2 ^ (1 - (f.bias : Int) - f.fw) = q → f.rat y = q :=
    fun f y a q h hq => by rwa [Fmt.rat, h]
  refine ⟨⟨value _ _ (255 * 2 ^ 253) _ (by decide +kernel) ?_, value _ _ (2 ^ 128 * 2 ^ 133) _ (by decide +kernel) ?_⟩,
    ⟨value _ _ (65504 * 2 ^ 24) _ (by decide +kernel) ?_, value _ _ (65536 * 2 ^ 24) _ (by decide +kernel) ?_⟩,
    ⟨value _ _ (57344 * 2 ^ 16) _ (by decide +kernel) ?_, value _ _ (65536 * 2 ^ 16) _ (by decide +kernel) ?_⟩,
    ⟨value _ _ (448 * 2 ^ 9) _ (by decide +kernel) ?_, value _ _ (480 * 2 ^ 9) _ (by decide +kernel) ?_⟩,
    ⟨value _ _ 12 _ (by decide +kernel) ?_, value _ _ 16 _ (by decide +kernel) ?_⟩⟩
  all_goals norm_num [bf16, f16, e5m2, e4m3, e2m1]

/-- A mode that rounds the magnitude of `p` up where it is not exact. -/
def Away (mode : Nat) (p : ℚ) : Prop := (mode = 2 ∧ 0 < p) ∨ (mode = 3 ∧ p < 0)

/-- A number that rounds past a largest value (R166, R181). -/
def Beyond (f : Fmt) (mode : Nat) (max step p : ℚ) : Prop :=
  (mode = 0 ∧ (max + step / 2 < |p| ∨ (max + step / 2 = |p| ∧ f ≠ e4m3))) ∨ (Away mode p ∧ max < |p|) ∨
    (mode ≠ 0 ∧ ¬ Away mode p ∧ max + step ≤ |p|)

theorem beyond_iff_mag {f : Fmt} (hodd : f.maxFin % 2 = 1 ↔ f ≠ e4m3) {mode : Nat} (hmode : mode < 4) {max step p : ℚ} {n : Bool}
    (hneg : p < 0 ↔ n = true) (hpos : 0 < p ↔ n = false) : Beyond f mode max step p ↔ BeyondMag f max step |p| (direction mode n) := by
  obtain ⟨h0, ha⟩ := direction_eq hmode hneg hpos
  rw [Beyond, Away, ha, ← hodd, not_congr h0 |> (show mode ≠ 0 ↔ _ from ·), h0]
  cases direction mode n <;> simp [BeyondMag]

/-- The pattern that a conversion gives beyond the largest finite value of a narrow format, where it does not saturate. -/
def narrowBeyond (f : Fmt) (n : Bool) : Nat :=
  let infinite := if f = e4m3 then 0x7F else if f = e2m1 then 7 else (2 ^ f.ew - 1) * 2 ^ f.fw
  if n ∧ infinite ≠ 0x7F then infinite + 2 ^ (f.ew + f.fw) else infinite

theorem beyond_eq : ∀ f ∈ [bf16, f16, e5m2, e4m3, e2m1], ∀ n, f.beyond n = narrowBeyond f n := by decide

theorem maxFin_odd_iff : ∀ f ∈ [bf16, f16, e5m2, e4m3, e2m1], (f.maxFin % 2 = 1 ↔ f ≠ e4m3) := by decide

/-- What a conversion of a finite number gives (R181). -/
theorem cvtToFloat_clause {f : Fmt} (hmem : f ∈ [bf16, f16, e5m2, e4m3, e2m1]) {max step : ℚ} (hr : f.Range max step)
    {mode : Nat} (hmode : mode < 4) (s : Bool) {x : Nat} {p : ℚ} (hp : FinitePattern fp32 x p) (h0 : p ≠ 0) :
    let o := cvtToFloat f mode s (unpack fp32 x)
    (Beyond f mode max step p →
      (s = true ∨ (mode ≠ 0 ∧ ¬ Away mode p) → o = (if p < 0 then f.maxFin + 2 ^ (f.ew + f.fw) else f.maxFin, 20)) ∧
      (s = false → mode = 0 ∨ Away mode p → o = (narrowBeyond f (decide (p < 0)), 20))) ∧
    (¬ Beyond f mode max step p → ∃ v, RoundsAmong f mode p v o.1 ∧ o.1 / 2 ^ (f.ew + f.fw) = (if p < 0 then 1 else 0) ∧
      (o.2 = 0 ∨ o.2 = 16 ∨ o.2 = 24) ∧ (o.2 = 0 ↔ v = p) ∧ (o.2 = 24 → |p| < 2 ^ (1 - f.bias : ℤ))) := by
  obtain ⟨n, m, e, h⟩ := fp32_ieee.regular.reads hp
  have hm : m ≠ 0 := by
    rintro rfl
    exact h0 (by rw [h.value]; simp [finRat])
  have hneg := finRat_lt_zero hm h.value
  have hpos : 0 < p ↔ n = false := by
    rw [← Bool.not_eq_true, ← hneg, not_lt]
    exact ⟨le_of_lt, fun hle => lt_of_le_of_ne hle h0.symm⟩
  have hf := (narrow_formats f hmem).toRegular
  have hodd := maxFin_odd_iff f hmem
  have hn : decide (p < 0) = n := by simp [hneg]
  have hmax : (if p < 0 then f.maxFin + 2 ^ (f.ew + f.fw) else f.maxFin) = signed f n f.maxFin := by
    simp only [hneg]
    rfl
  obtain ⟨hd0, hda⟩ := direction_eq hmode hneg hpos
  have hzero : direction mode n = .toZero ↔ mode ≠ 0 ∧ ¬ Away mode p := by
    rw [Ne, hd0, Away, hda]
    cases direction mode n <;> simp
  rw [beyond_iff_mag hodd hmode hneg hpos, h.unpack, hn, ← hzero, hmax, ← beyond_eq f hmem]
  intro o
  refine ⟨fun hb => ?_, fun hb => cvtToFloat_within hf hm h.value hr hb s⟩
  obtain ⟨h1, h2⟩ := cvtToFloat_beyond hf hm h.value hmode hr hb s
  refine ⟨h1, fun hs hd => h2 hs fun hz => ?_⟩
  obtain ⟨hne, hna⟩ := hzero.1 hz
  exact hd.elim hne hna

/-- What a conversion to an integer range gives (R183). -/
theorem cvtScalar_int {fn : Nat} {lo hi : ℤ} (hlo : -2 ^ 32 ≤ lo) (hlo0 : lo ≤ 0) (hhi0 : 0 ≤ hi) (hhi : hi ≤ 2 ^ 32)
    (hfn : ∀ m s x, cvtScalar fn m s x = (intWord (cvtToInt lo hi m s (unpack fp32 x)).1, (cvtToInt lo hi m s (unpack fp32 x)).2))
    (m : Nat) (s : Bool) (x : Nat) :
    let word := fun z : ℤ => (BitVec.ofInt 32 z).toNat
    let nv : Word := if s then 0 else 1
    (∀ sg, unpack fp32 x = .nan sg → cvtScalar fn m s x = (0, 1)) ∧
    (∀ n, unpack fp32 x = .inf n → cvtScalar fn m s x = (word (if n then lo else hi), nv)) ∧
    ∀ p, FinitePattern fp32 x p → ∃ n : ℤ, RoundsToInt m p n ∧
      cvtScalar fn m s x = (word (max lo (min n hi)), (if lo ≤ n ∧ n ≤ hi then 0 else nv) ||| if p = n then 0 else 16) := by
  refine ⟨fun sg hu => ?_, fun n hu => ?_, fun p hp => ?_⟩
  · rw [hfn, hu]
    rfl
  · rw [hfn, hu, intWord_eq]
    cases s <;> rfl
  · obtain ⟨n, a, e, h⟩ := fp32_ieee.regular.reads hp
    obtain ⟨k, hk, hc⟩ := cvtToInt_result hlo hlo0 hhi0 hhi m s n a e
    rw [h.value]
    exact ⟨k, hk, by rw [hfn, h.unpack, hc, intWord_eq]⟩

theorem cvtToE8m0_clause {m : Nat} (hm : m < 4) (s : Bool) {x : Nat} {p : ℚ} (hp : FinitePattern fp32 x p) :
    (p = 0 → cvtToE8m0 m s (unpack fp32 x) = (0, 8)) ∧ (p < 0 → cvtToE8m0 m s (unpack fp32 x) = (0xFF, 1)) ∧
      ∀ j : ℤ, (2 : ℚ) ^ j ≤ p → p < 2 ^ (j + 1) → ∃ k : ℤ,
        k = (if (m = 0 ∧ 3 / 2 * 2 ^ j ≤ p) ∨ (m = 2 ∧ p ≠ 2 ^ j) then j + 1 else j) ∧
        (127 < k → cvtToE8m0 m s (unpack fp32 x) = if s = false ∧ (m = 0 ∨ m = 2) then (0xFF, 4) else (0xFE, 20)) ∧
        (k < -127 → cvtToE8m0 m s (unpack fp32 x) = (0, 24)) ∧
        (-127 ≤ k → k ≤ 127 → cvtToE8m0 m s (unpack fp32 x) = ((k + 127).toNat, if p = 2 ^ k then 0 else 16)) := by
  obtain ⟨n, a, e, h⟩ := fp32_ieee.regular.reads hp
  have hpow : (0 : ℚ) < 2 ^ e := zpow_pos two_pos e
  rw [h.unpack]
  by_cases ha : a = 0
  · have h0 : p = 0 := by rw [h.value, ha]; simp [finRat]
    subst ha
    refine ⟨fun _ => rfl, fun hlt => absurd h0 hlt.ne, fun j hj _ => ?_⟩
    exact absurd h0 ((zpow_pos two_pos j).trans_le hj).ne'
  · have hne : p ≠ 0 := by
      rw [h.value, finRat]
      cases n <;> simp [ha, hpow.ne']
    have hneg := finRat_lt_zero ha h.value
    refine ⟨fun h0 => absurd h0 hne, fun hlt => ?_, fun j h1 h2 => ?_⟩
    · rw [hneg.1 hlt]
      simp [cvtToE8m0, ha, flNV]
    · have hn : n = false := by
        rw [← Bool.not_eq_true, ← hneg, not_lt]
        exact (zpow_pos two_pos j).le.trans h1
      subst hn
      exact cvtToE8m0_result hm ha h.value h1 h2

theorem setWidth_toInt_natAbs_le (x : Word) {n : Nat} (h : n ≤ 16) : (x.setWidth n).toInt.natAbs ≤ 2 ^ 24 := by
  have h1 := BitVec.two_mul_toInt_lt (x := x.setWidth n)
  have h2 := BitVec.le_two_mul_toInt (x := x.setWidth n)
  have h3 : ((2 ^ n : Nat) : ℤ) ≤ 2 ^ 16 := by exact_mod_cast Nat.pow_le_pow_right two_pos h
  push_cast at h3
  omega

/-- The scalar forms that widen, or that convert an integer (R183). -/
theorem cvtScalar_clause (m : Nat) (hm : m < 4) (s : Bool) (x : Word) :
    cvtScalar 0 m s 0 = (0, 0) ∧ (x ≠ 0 → RoundsOnce fp32 m x.toInt (cvtScalar 0 m s x.toNat)) ∧
    (∀ r ∈ ([(0x06, (x.setWidth 16).toInt), (0x10, (x.setWidth 8).toInt), (0x12, ((x.setWidth 8).toNat : ℤ)), (0x14, (x.setWidth 4).toInt),
        (0x16, ((x.setWidth 4).toNat : ℤ))] : List (Nat × ℤ)),
      FinitePattern fp32 (cvtScalar r.1 m s x.toNat).1 r.2 ∧ (cvtScalar r.1 m s x.toNat).2 = 0 ∧
        (r.2 = 0 → (cvtScalar r.1 m s x.toNat).1 = 0)) := by
  refine ⟨rfl, fun hx => ?_, ?_⟩
  · have hs : sext x.toNat 32 = x.toInt := sext_toNat x (by decide)
    have hne : x.toInt ≠ 0 := fun h => hx (BitVec.toInt_inj.1 (h.trans BitVec.toInt_zero.symm))
    have hc : cvtScalar 0 m s x.toNat = fpRound fp32 m (decide (x.toInt < 0)) x.toInt.natAbs 0 := by
      simp only [cvtScalar, hs, beq_iff_eq, hne, if_false]
    have h := fp32_ieee.roundsOnce_exact hm (Int.natAbs_ne_zero.2 hne) (decide (x.toInt < 0)) 0
    rwa [finRat_decide_natAbs, zpow_zero, mul_one, ← hc] at h
  · have signed : ∀ n, 0 < n → n ≤ 16 → _ := fun n h0 h => fpOfV_intVal (setWidth_toInt_natAbs_le x h)
    have natural : ∀ n ≤ 8, _ := fun n h => fpOfV_intVal (k := ((x.setWidth n).toNat : ℤ)) (by
      have h1 := (x.setWidth n).isLt
      have h2 : 2 ^ n ≤ 2 ^ 8 := Nat.pow_le_pow_right two_pos h
      omega)
    simp only [List.forall_mem_cons, List.not_mem_nil, IsEmpty.forall_iff, implies_true, and_true]
    refine ⟨?_, ?_, ?_, ?_, ?_⟩
    · have h := signed 16 (by decide) (by decide)
      rwa [← sext_setWidth x 16 (by decide)] at h ⊢
    · have h := signed 8 (by decide) (by decide)
      rwa [← sext_setWidth x 8 (by decide)] at h ⊢
    · have h := natural 8 le_rfl
      rwa [BitVec.toNat_setWidth] at h ⊢
    · have h := signed 4 (by decide) (by decide)
      rwa [← sext_setWidth x 4 (by decide)] at h ⊢
    · have h := natural 4 (by decide)
      rwa [BitVec.toNat_setWidth] at h ⊢

/-- Settles O12: each form reads, converts and writes; the conversions are roundings to a format or to an integer. -/
theorem conversionResults : Obligations.ConversionResults := by
  unfold Obligations.ConversionResults
  obtain ⟨hbf16, hf16, he5m2, he4m3, he2m1⟩ := narrow_ranges
  refine ⟨fun f m s a d hf => laneResult_cvtScalar hf m s a d, ?_, ?_, ?_, ?_, fun f hf x => ?_, ?_, fun m hm s => ?_, ?_,
    fun m hm s x => ?_⟩
  case refine_5 =>
    exact ⟨fun p hp => (narrow_formats f hf).widen_finite hp, fun n e hu => widen_zero hu, fun n hu => widen_inf hu, fun sg hu => widen_nan hu⟩
  case refine_7 => exact ⟨fun _ => rfl, rfl, by cases s <;> rfl, fun x p hp => cvtToE8m0_clause hm s hp⟩
  case refine_9 =>
    obtain ⟨h0, h1, h2⟩ := cvtScalar_clause m hm s x
    refine ⟨h0, h1, h2, fun h => ?_, fun h => fpOfV_e8m0 h, ?_, rfl, ?_⟩
    · have hv : e8m0Val x.toNat = .nan false := by simp [e8m0Val, h]
      change fpOfV fp32 0 (e8m0Val x.toNat) = _
      rw [hv]
      rfl
    all_goals simp only [List.forall_mem_cons, List.not_mem_nil, IsEmpty.forall_iff, implies_true, and_true]
    · exact ⟨rfl, rfl, rfl, rfl, rfl⟩
    · exact ⟨rfl, rfl, rfl, rfl, rfl⟩
  all_goals simp only [List.forall_mem_cons, List.not_mem_nil, IsEmpty.forall_iff, implies_true, and_true]
  · exact ⟨fun m s a d => laneResult_packPair fun _ => rfl, fun m s a d => laneResult_packPair fun _ => rfl⟩
  · exact ⟨fun m s a d => laneResult_packQuad fun _ => rfl, fun m s a d => laneResult_packQuad fun _ => rfl⟩
  · exact ⟨fun m s a d hd => laneResult_unpackPair hd fun _ => rfl, fun m s a d hd => laneResult_unpackPair hd fun _ => rfl⟩
  · exact ⟨fun m s a d _ _ => laneResult_unpackQuad (fun _ => rfl) (narrow_formats e4m3 (by simp)).widen_lt,
      fun m s a d _ _ => laneResult_unpackQuad (fun _ => rfl) (narrow_formats e5m2 (by simp)).widen_lt⟩
  · have nan : ∀ f ∈ [bf16, f16, e5m2, e4m3, e2m1], ∀ m s sg, cvtToFloat f m s (.nan sg) =
        if f = e2m1 then (0, 1) else (f.nan.getD 0, if sg then 1 else 0) := by
      simp only [List.forall_mem_cons, List.not_mem_nil, IsEmpty.forall_iff, implies_true, and_true]
      refine ⟨?_, ?_, ?_, ?_, ?_⟩ <;> (intro m s sg; cases sg <;> rfl)
    have inf : ∀ f ∈ [bf16, f16, e5m2, e4m3, e2m1], ∀ m s n, cvtToFloat f m s (.inf n) =
        if s then (if n then f.maxFin + 2 ^ (f.ew + f.fw) else f.maxFin, 0)
        else (narrowBeyond f n, if f = e4m3 ∨ f = e2m1 then 1 else 0) := by
      simp only [List.forall_mem_cons, List.not_mem_nil, IsEmpty.forall_iff, implies_true, and_true]
      refine ⟨?_, ?_, ?_, ?_, ?_⟩ <;> (intro m s n; cases s <;> cases n <;> rfl)
    have zero : ∀ (f : Fmt) m s n e, cvtToFloat f m s (.fin n 0 e) = (if n then 2 ^ (f.ew + f.fw) else 0, 0) := by
      intro f m s n e
      cases n <;> simp [cvtToFloat, signed, Fmt.signBit]
    exact ⟨fun m hm s => ⟨nan bf16 (by simp) m s, inf bf16 (by simp) m s, zero bf16 m s, fun x p hp => cvtToFloat_clause (by simp) hbf16 hm s hp⟩,
      fun m hm s => ⟨nan f16 (by simp) m s, inf f16 (by simp) m s, zero f16 m s, fun x p hp => cvtToFloat_clause (by simp) hf16 hm s hp⟩,
      fun m hm s => ⟨nan e5m2 (by simp) m s, inf e5m2 (by simp) m s, zero e5m2 m s, fun x p hp => cvtToFloat_clause (by simp) he5m2 hm s hp⟩,
      fun m hm s => ⟨nan e4m3 (by simp) m s, inf e4m3 (by simp) m s, zero e4m3 m s, fun x p hp => cvtToFloat_clause (by simp) he4m3 hm s hp⟩,
      fun m hm s => ⟨nan e2m1 (by simp) m s, inf e2m1 (by simp) m s, zero e2m1 m s, fun x p hp => cvtToFloat_clause (by simp) he2m1 hm s hp⟩⟩
  · have int := fun {fn lo hi} => @cvtScalar_int fn lo hi
    exact ⟨fun m _ s x _ => int (by decide) (by decide) (by decide) (by decide) (fun _ _ _ => rfl) m s x,
      fun m _ s x _ => int (by decide) (by decide) (by decide) (by decide) (fun _ _ _ => rfl) m s x,
      fun m _ s x _ => int (by decide) (by decide) (by decide) (by decide) (fun _ _ _ => rfl) m s x,
      fun m _ s x _ => int (by decide) (by decide) (by decide) (by decide) (fun _ _ _ => rfl) m s x,
      fun m _ s x _ => int (by decide) (by decide) (by decide) (by decide) (fun _ _ _ => rfl) m s x,
      fun m _ s x _ => int (by decide) (by decide) (by decide) (by decide) (fun _ _ _ => rfl) m s x⟩

end Sys2Proof.Machine
end

section

/-!
# The approximations (R176)
-/

namespace Sys2Proof.Machine

-- One proof at a time: each waiting thread would reserve a stack of its own.
set_option Elab.async false

/-! ### The bound on a pattern -/

/-- `scale400` is the number in units of 2^−400, rounded down. -/
theorem scale400_floor (x e : ℤ) : (scale400 x e : ℝ) ≤ x * 2 ^ (e + 400) ∧ (x : ℝ) * 2 ^ (e + 400) < scale400 x e + 1 := by
  unfold scale400
  split
  next h =>
    have hpow : (2 : ℝ) ^ (e + 400) = 2 ^ (e + 400).toNat := by rw [← zpow_natCast, Int.toNat_of_nonneg h]
    rw [hpow]
    push_cast
    exact ⟨le_rfl, lt_add_one _⟩
  next h =>
    obtain ⟨s, hs⟩ : ∃ s : Nat, e + 400 = -(s : ℤ) := ⟨(-(e + 400)).toNat, by omega⟩
    have htoNat : (-(e + 400)).toNat = s := by omega
    have hpos : (0 : ℝ) < 2 ^ s := by positivity
    have h1 : ((x / 2 ^ s : ℤ) : ℝ) * 2 ^ s ≤ x := by exact_mod_cast Int.ediv_mul_le x (by positivity : (2 : ℤ) ^ s ≠ 0)
    have h2 : (x : ℝ) < ((x / 2 ^ s : ℤ) + 1) * 2 ^ s := by exact_mod_cast Int.lt_ediv_add_one_mul_self x (by positivity : (0 : ℤ) < 2 ^ s)
    rw [htoNat, hs, zpow_neg, zpow_natCast, ← div_eq_mul_inv, le_div_iff₀ hpos, div_lt_iff₀ hpos]
    exact ⟨h1, h2⟩

/-- Where the unit is no smaller than 2^−400, nothing is rounded. -/
theorem scale400_exact {e : ℤ} (x : ℤ) (h : -400 ≤ e) : (scale400 x e : ℝ) = x * 2 ^ (e + 400) := by
  unfold scale400
  rw [if_pos (by omega)]
  push_cast
  rw [← zpow_natCast, Int.toNat_of_nonneg (by omega)]

/-- The number that a bound stands for, at a correctly rounded result. -/
noncomputable def Bound.toReal (R : Nat) : Bound → ℝ
  | .ulps n => n * (ulp32 R : ℚ)
  | .absolute e => 2 ^ e

theorem ulp32_eq {R m : Nat} {n : Bool} {e : ℤ} (h : unpack fp32 R = .fin n m e) : ulp32 R = 2 ^ e := by
  obtain ⟨-, -, -, he⟩ := fp32_ieee.regular.unpack_eq_fin_iff.1 h
  have hE : fp32.expField R = R / 2 ^ 23 % 2 ^ 8 := rfl
  rw [ulp32, ← hE, he]
  congr 1
  simp only [Fmt.shift, fp32]
  omega

theorem fp32_weight_le {x m : Nat} {n : Bool} {e : ℤ} (h : unpack fp32 x = .fin n m e) : -149 ≤ e := by
  obtain ⟨-, -, -, he⟩ := fp32_ieee.regular.unpack_eq_fin_iff.1 h
  simp only [fp32] at he
  omega

/-- The limit that `withinBound` compares with, at the weight of the rounded result. -/
def Bound.limit (e : ℤ) : Bound → ℤ
  | .ulps u => scale400 u e
  | .absolute x => scale400 1 x

theorem withinBound_iff {p R : Nat} {c k err : ℤ} {b : Bound} : withinBound p R c k err b = true ↔
    ∃ n m e n' m' e', unpack fp32 p = .fin n m e ∧ unpack fp32 R = .fin n' m' e' ∧
      ((scale400 (if n then -(m : ℤ) else m) e - scale400 c k).natAbs : ℤ) + scale400 err k + 2 ≤ b.limit e' := by
  unfold withinBound
  cases hp : unpack fp32 p <;> cases hR : unpack fp32 R <;> simp only [Bool.false_eq_true, reduceCtorEq, false_and, exists_false,
    and_false, FVal.fin.injEq, decide_eq_true_eq]
  case fin.fin n m e n' m' e' =>
    have hb : (match b with | .ulps u => scale400 u e' | .absolute x => scale400 1 x) = b.limit e' := by cases b <;> rfl
    constructor
    · exact fun h => ⟨n, m, e, n', m', e', ⟨rfl, rfl, rfl⟩, ⟨rfl, rfl, rfl⟩, h.trans_eq hb⟩
    · rintro ⟨_, _, _, _, _, _, ⟨rfl, rfl, rfl⟩, ⟨rfl, rfl, rfl⟩, h⟩
      exact h.trans_eq hb.symm

theorem Bound.limit_le {R m : Nat} {n : Bool} {e : ℤ} (h : unpack fp32 R = .fin n m e) (b : Bound) :
    (b.limit e : ℝ) ≤ b.toReal R * 2 ^ (400 : ℤ) := by
  cases b with
  | ulps u =>
    have hw := fp32_weight_le h
    rw [Bound.limit, Bound.toReal, scale400_exact u (by omega), zpow_add₀ two_ne_zero, ulp32_eq h]
    push_cast
    rw [mul_assoc]
  | absolute x =>
    have := (scale400_floor 1 x).1
    rwa [zpow_add₀ two_ne_zero, Int.cast_one, one_mul] at this

/-- A pattern within the bound is a value within the bound of everything enclosed. -/
theorem withinBound_spec {p R : Nat} {c k err : ℤ} {b : Bound} (h : withinBound p R c k err b = true) :
    ∃ v w : ℚ, FinitePattern fp32 p v ∧ FinitePattern fp32 R w ∧
      ∀ y : ℝ, |y - c * 2 ^ k| ≤ err * 2 ^ k → |(v : ℝ) - y| ≤ b.toReal R := by
  obtain ⟨n, m, e, n', m', e', hp, hR, hle⟩ := withinBound_iff.1 h
  refine ⟨_, _, ⟨n, m, e, hp, rfl⟩, ⟨n', m', e', hR, rfl⟩, fun y hy => ?_⟩
  have hv := scale400_exact (if n then -(m : Int) else m) ((by omega : (-400 : ℤ) ≤ -149).trans (fp32_weight_le hp))
  obtain ⟨hc1, hc2⟩ := scale400_floor c k
  obtain ⟨he1, he2⟩ := scale400_floor err k
  have hlim := b.limit_le hR
  have hunit : (0 : ℝ) < 2 ^ (400 : ℤ) := zpow_pos two_pos _
  rw [zpow_add₀ two_ne_zero] at hv hc1 hc2 he1 he2
  generalize (2 : ℝ) ^ (400 : ℤ) = U at *
  generalize scale400 (if n then -(m : Int) else m) e = V at *
  generalize scale400 c k = C at *
  generalize scale400 err k = E at *
  have hval : ((((if n then -1 else 1) * m * (2 : ℚ) ^ e : ℚ)) : ℝ) * U = V := by
    rw [hv]
    cases n <;> push_cast <;> simp <;> ring
  have hsum : |(V : ℝ) - C| + E + 2 ≤ b.toReal R * U := by
    refine le_trans ?_ hlim
    rw [← Int.cast_sub, ← Int.cast_abs, Int.abs_eq_natAbs]
    exact_mod_cast hle
  have hmid : |(C : ℝ) - c * 2 ^ k * U| ≤ 1 := by
    rw [← mul_assoc] at hc1 hc2
    rw [abs_sub_comm, abs_of_nonneg (by linarith)]
    linarith
  have hy' : |c * 2 ^ k * U - y * U| ≤ E + 1 := by
    rw [← sub_mul, abs_mul, abs_of_pos hunit, abs_sub_comm]
    rw [← mul_assoc] at he2
    exact (mul_le_mul_of_nonneg_right hy hunit.le).trans he2.le
  refine le_of_mul_le_mul_right ?_ hunit
  calc _ = |(V : ℝ) - y * U| := by rw [← hval, ← sub_mul, abs_mul, abs_of_pos hunit]
    _ = |((V : ℝ) - C) + ((C : ℝ) - c * 2 ^ k * U) + (c * 2 ^ k * U - y * U)| := by
      congr 1
      ring
    _ ≤ |(V : ℝ) - C| + |(C : ℝ) - c * 2 ^ k * U| + |c * 2 ^ k * U - y * U| := abs_add_three _ _ _
    _ ≤ _ := by linarith

/-! ### A result near an enclosure -/

/-- The correctly rounded result of an enclosure that is not exact. -/
def enclosed (c k : ℤ) : Nat × Word := fpRound fp32 0 (decide (c < 0)) c.natAbs k true

theorem approxNear_eq (fn : Nat) (a : Word) (c k err : ℤ) (b : Bound) : approxNear fn a c k err b =
    (if withinBound (Config.approx fn a).toNat (enclosed c k).1 c k err b then (Config.approx fn a).toNat else (enclosed c k).1,
      (enclosed c k).2 ||| flNX) := rfl

theorem approxNear_flags (fn : Nat) (a : Word) (c k err : ℤ) (b : Bound) :
    (approxNear fn a c k err b).2 = (enclosed c k).2 ||| 16 ∧ (approxNear fn a c k err b).2.getLsbD 4 = true := by
  rw [approxNear_eq]
  refine ⟨rfl, ?_⟩
  rw [BitVec.getLsbD_or, show flNX.getLsbD 4 = true from rfl, Bool.or_true]

/-- The result is the rounded enclosure, or a value within the bound of everything enclosed. -/
theorem approxNear_spec (fn : Nat) (a : Word) (c k err : ℤ) (b : Bound) :
    (approxNear fn a c k err b).1 = (enclosed c k).1 ∨ ∃ v w : ℚ, FinitePattern fp32 (approxNear fn a c k err b).1 v ∧
      FinitePattern fp32 (enclosed c k).1 w ∧ ∀ y : ℝ, |y - c * 2 ^ k| ≤ err * 2 ^ k → |(v : ℝ) - y| ≤ b.toReal (enclosed c k).1 := by
  rw [approxNear_eq]
  cases h : withinBound (Config.approx fn a).toNat (enclosed c k).1 c k err b
  · exact .inl rfl
  · exact .inr (withinBound_spec h)

theorem Bound.toReal_eq (R : Nat) (b : Bound) :
    b.toReal R = ((match b with | .ulps n => n * ulp32 R | .absolute e => 2 ^ e : ℚ) : ℝ) := by
  cases b <;> simp [Bound.toReal]

/-- The same for rational numbers enclosed. -/
theorem approxNear_clause (fn : Nat) (a : Word) (c k : ℤ) (err : ℤ) (b : Bound) :
    let R := fpRound fp32 0 (decide (c < 0)) c.natAbs k true
    let z := approxNear fn a c k err b
    z.2 = R.2 ||| 16 ∧ (z.1 = R.1 ∨ ∃ v w : ℚ, FinitePattern fp32 z.1 v ∧ FinitePattern fp32 R.1 w ∧
      ∀ y : ℚ, |y - c * 2 ^ k| ≤ err * 2 ^ k → |v - y| ≤ (match b with | .ulps n => n * ulp32 R.1 | .absolute e => 2 ^ e)) := by
  refine ⟨(approxNear_flags ..).1, (approxNear_spec fn a c k err b).imp_right ?_⟩
  rintro ⟨v, w, hv, hw, hy⟩
  refine ⟨v, w, hv, hw, fun y hyk => ?_⟩
  have hyR := (Rat.cast_le (K := ℝ)).2 hyk
  push_cast at hyR
  have h := hy y hyR
  rw [Bound.toReal_eq] at h
  exact_mod_cast h

/-- A positive number with its enclosure: the rounded enclosure is the number rounded once. -/
theorem rounds_enclosed {c k : ℤ} {x : ℝ} {n : Bool} (hc : (c < 0) ↔ n = true) (hx : Given fp32 c.natAbs k true x) :
    Rounds fp32 0 (withNeg n x) (enclosed c k).1 := by
  have hd : decide (c < 0) = n := by simp [hc]
  rw [enclosed, hd]
  exact fp32_ieee.rounds_fpRound hx (by decide) n

/-! ### Powers of two -/

theorem isPow2_iff {m : Nat} : isPow2 m = true ↔ m ≠ 0 ∧ 2 ^ Nat.log2 m = m := by
  simp [isPow2]

/-- The numbers that are powers of two are those whose significand is one. -/
theorem eq_two_zpow_iff {m : Nat} (hm : m ≠ 0) {e k : ℤ} : (m : ℚ) * 2 ^ e = 2 ^ k ↔ isPow2 m = true ∧ k = Nat.log2 m + e := by
  rw [isPow2_iff]
  constructor
  · intro h
    have hR : (m : ℝ) * 2 ^ e = 2 ^ k := by
      have := congrArg (fun q : ℚ => (q : ℝ)) h
      push_cast at this
      exact this
    have h1 := (given_exact (f := fp32) hm e).pow_le
    have h2 := (given_exact (f := fp32) hm e).lt_pow
    rw [hR] at h1 h2
    have h1 := (zpow_le_zpow_iff_right₀ (one_lt_two (α := ℝ))).1 h1
    have h2 := (zpow_lt_zpow_iff_right₀ (one_lt_two (α := ℝ))).1 h2
    have hk : k = Nat.log2 m + e := by
      unfold expOf at h1 h2
      omega
    refine ⟨⟨hm, ?_⟩, hk⟩
    rw [hk, zpow_add₀ two_ne_zero, zpow_natCast] at h
    have := mul_right_cancel₀ (zpow_pos (two_pos (α := ℚ)) e).ne' h
    exact_mod_cast this.symm
  · rintro ⟨⟨-, hp⟩, rfl⟩
    rw [zpow_add₀ two_ne_zero, zpow_natCast]
    congr 1
    exact_mod_cast hp.symm

section
variable {x m : Nat} {n : Bool} {e : ℤ} {p : ℚ}

theorem Reads.abs_eq {f : Fmt} (h : Reads f x n m e p) : |p| = m * 2 ^ e := by
  rw [h.value, finRat, abs_withNeg, abs_of_nonneg (by positivity)]

theorem Reads.eq_zero_iff {f : Fmt} (h : Reads f x n m e p) : p = 0 ↔ m = 0 := by
  rw [← abs_eq_zero, h.abs_eq]
  simp [(zpow_pos (two_pos (α := ℚ)) e).ne']

theorem Reads.lt_zero_iff {f : Fmt} (h : Reads f x n m e p) (hm : m ≠ 0) : p < 0 ↔ n = true := by
  rw [← finRat_lt_zero hm h.value]

/-- The weight of the first digit of an FP32 value. -/
theorem Reads.expOf_range (h : Reads fp32 x n m e p) (hm : m ≠ 0) : -149 ≤ expOf m e ∧ expOf m e < 128 := by
  have hle : (-149 : ℤ) ≤ e := by simpa [fp32] using h.le
  refine ⟨by unfold expOf; omega, ?_⟩
  have h1 := (given_exact (f := fp32) hm e).pow_le
  have h2 : ((|p| : ℚ) : ℝ) ≤ fp32.value fp32.maxFin := by
    rw [← Fmt.cast_rat]
    exact_mod_cast h.max
  rw [h.abs_eq, fp32_ieee.value_maxFin] at h2
  push_cast at h2
  have h3 : (2 : ℝ) ^ expOf m e < 2 ^ (128 : ℤ) := (h1.trans h2).trans_lt (by norm_num [fp32])
  exact (zpow_lt_zpow_iff_right₀ one_lt_two).1 h3

/-- A power of two that is a value of FP32 is delivered as it is. -/
theorem fpRound_two_zpow {y : Nat} {q : ℚ} {k : ℤ} (hy : FinitePattern fp32 y q) (hq : |q| = 2 ^ k) (n : Bool) :
    FinitePattern fp32 (fpRound fp32 0 n 1 k).1 (withNeg n (2 ^ k)) ∧ (fpRound fp32 0 n 1 k).2 = 0 := by
  obtain ⟨h1, h2⟩ := fp32_ieee.regular.finitePattern_iff.1 hy
  have hrat : fp32.rat (fp32.mag y) = (1 : Nat) * 2 ^ k := by
    rw [Nat.cast_one, one_mul, ← hq, h2, abs_withNeg_rat]
  rw [fp32_ieee.fpRound_of_rat n h1 hrat]
  have := fp32_ieee.regular.finitePattern_signed (n := n) h1
  rw [hrat, Nat.cast_one, one_mul] at this
  exact ⟨this, rfl⟩

end

/-! ### The reciprocal and the reciprocal of the root -/

/-- A result near a number whose enclosure is its own digits: rounded once, or within the bound. -/
theorem approxNear_ulps {C : Nat} {k : ℤ} {y : ℝ} (h : Given fp32 C k true y) (fn : Nat) (a : Word) (n : Bool) {err : ℤ} (herr : 1 ≤ err) :
    (approxNear fn a (withNeg n (C : ℤ)) k err (.ulps 1)).2.getLsbD 4 = true ∧ ∃ R, Rounds fp32 0 (withNeg n y) R ∧
      ((approxNear fn a (withNeg n (C : ℤ)) k err (.ulps 1)).1 = R ∨ ∃ v : ℚ,
        FinitePattern fp32 (approxNear fn a (withNeg n (C : ℤ)) k err (.ulps 1)).1 v ∧ |(v : ℝ) - withNeg n y| ≤ ulp32 R) := by
  have hC : 0 < C := Nat.pos_of_ne_zero h.ne_zero
  have hneg : withNeg n (C : ℤ) < 0 ↔ n = true := by cases n <;> simp [hC]
  have habs : (withNeg n (C : ℤ)).natAbs = C := by cases n <;> simp
  refine ⟨(approxNear_flags ..).2, _, rounds_enclosed (c := withNeg n (C : ℤ)) (k := k) (x := y) hneg (by rwa [habs]), ?_⟩
  refine (approxNear_spec fn a (withNeg n (C : ℤ)) k err (.ulps 1)).imp_right ?_
  rintro ⟨v, w, hv, -, hy⟩
  have hpow : (0 : ℝ) < 2 ^ k := zpow_pos two_pos k
  have hdist : |y - C * 2 ^ k| ≤ 2 ^ k := by
    have h1 := (le_div_iff₀ hpow).1 h.sticky.le
    have h2 := (div_lt_iff₀ hpow).1 h.sticky.lt
    rw [abs_of_nonneg (by linarith)]
    linarith
  have hle : (2 : ℝ) ^ k ≤ err * 2 ^ k := by
    have : (1 : ℝ) ≤ err := by exact_mod_cast herr
    nlinarith
  have hb := hy (withNeg n y) (by
    have hcast : ((withNeg n (C : ℤ) : ℤ) : ℝ) * 2 ^ k = withNeg n ((C : ℝ) * 2 ^ k) := by cases n <;> simp
    rw [hcast, abs_withNeg_sub]
    exact hdist.trans hle)
  refine ⟨v, hv, hb.trans_eq ?_⟩
  rw [Bound.toReal, Nat.cast_one, one_mul]

section
variable {a : Word} {m : Nat} {n : Bool} {e : ℤ} {p : ℚ} (h : Reads fp32 a.toNat n m e p)
include h

theorem fpRcp_pow2 (hm : m ≠ 0) (hp : isPow2 m = true) : fpRcp a = fpRound fp32 0 n 1 (-((Nat.log2 m : Int) + e)) := by
  simp only [fpRcp, h.unpack, if_neg hm, hp, if_true]

theorem fpRcp_near (hm : m ≠ 0) (hp : ¬ isPow2 m = true) :
    fpRcp a = approxNear 0 a (withNeg n ((2 ^ 124 / m : Nat) : ℤ)) (-124 - e) 1 (.ulps 1) := by
  simp only [fpRcp, h.unpack, if_neg hm, if_neg hp]
  cases n <;> simp

/-- The digits of a reciprocal: they never end where the number is no power of two. -/
theorem given_rcp (hm : m ≠ 0) (hp : ¬ isPow2 m = true) : Given fp32 (2 ^ 124 / m) (-124 - e) true (1 / (m * 2 ^ e)) := by
  have hlt : m < 2 ^ 24 := h.lt
  have hrem : (2 ^ 124 % m != 0) = true := by
    rw [bne_iff_ne]
    intro h0
    obtain ⟨j, -, hj⟩ := (Nat.dvd_prime_pow Nat.prime_two).1 (Nat.dvd_of_mod_eq_zero h0)
    exact hp (isPow2_iff.2 ⟨hm, by rw [hj, Nat.log2_two_pow]⟩)
  refine given_sticky ?_ ?_
  · have hs := sticky_div (2 ^ 124) m hm
    rw [hrem] at hs
    convert hs using 1
    have hm' : (m : ℝ) ≠ 0 := Nat.cast_ne_zero.2 hm
    rw [sub_eq_add_neg, zpow_add₀ two_ne_zero, zpow_neg, zpow_neg, zpow_ofNat]
    push_cast
    field_simp
    norm_num
  · have : 2 ^ 100 ≤ 2 ^ 124 / m := (Nat.le_div_iff_mul_le (Nat.pos_of_ne_zero hm)).2 (by nlinarith)
    exact le_trans (by norm_num [fp32]) this

end

/-- The significand whose root `fpRsqrt` takes, at an even weight. -/
def rsqrtArg (m : Nat) (e : Int) : Nat := if e % 2 != 0 then 2 * m else m

/-- Half that weight. -/
def rsqrtExp (e : Int) : Int := (if e % 2 != 0 then e - 1 else e) / 2

theorem rsqrtArg_value (m : Nat) (e : Int) : (rsqrtArg m e : ℚ) * 2 ^ (2 * rsqrtExp e) = m * 2 ^ e := by
  unfold rsqrtArg rsqrtExp
  by_cases hodd : e % 2 = 0
  · simp only [hodd, bne_self_eq_false, Bool.false_eq_true, if_false]
    congr 2
    omega
  · have hne : (e % 2 != 0) = true := by simpa using hodd
    simp only [hne, if_true]
    rw [show 2 * ((e - 1) / 2) = e - 1 by omega, zpow_sub_one₀ two_ne_zero]
    push_cast
    ring

theorem rsqrtArg_range {m : Nat} (e : Int) (hm : m ≠ 0) (hlt : m < 2 ^ 24) : 0 < rsqrtArg m e ∧ rsqrtArg m e < 2 ^ 25 := by
  unfold rsqrtArg
  split <;> omega

/-- The root ends only where the number is a power of four. -/
theorem sqrt_ne_of_not_pow4 {m : Nat} {e : Int} (hm : m ≠ 0) (hp : ¬ (isPow2 m = true ∧ ((Nat.log2 m : Int) + e) % 2 = 0)) (s : Nat) :
    s ^ 2 * rsqrtArg m e ≠ 2 ^ 200 := by
  intro h
  obtain ⟨j, -, hj⟩ := (Nat.dvd_prime_pow Nat.prime_two).1 (Dvd.intro_left _ h)
  obtain ⟨i, -, hi⟩ := (Nat.dvd_prime_pow Nat.prime_two).1 (((dvd_pow_self s two_ne_zero).mul_right _).trans h.dvd)
  have hsum : 2 * i + j = 200 := by
    rw [hi, hj, ← pow_mul, ← pow_add] at h
    have := Nat.pow_right_injective le_rfl h
    omega
  have hv := rsqrtArg_value m e
  rw [hj, Nat.cast_pow, Nat.cast_ofNat, ← zpow_natCast, ← zpow_add₀ two_ne_zero] at hv
  obtain ⟨h1, h2⟩ := (eq_two_zpow_iff hm).1 hv.symm
  exact hp ⟨h1, by omega⟩

/-- The digits of the reciprocal of a root. -/
theorem given_rsqrt {m : Nat} {e : Int} (hm : m ≠ 0) (hlt : m < 2 ^ 24)
    (hp : ¬ (isPow2 m = true ∧ ((Nat.log2 m : Int) + e) % 2 = 0)) :
    Given fp32 (Nat.sqrt (2 ^ 200 / rsqrtArg m e)) (-100 - rsqrtExp e) true (1 / Real.sqrt (m * 2 ^ e)) := by
  obtain ⟨hx0, hx⟩ := rsqrtArg_range e hm hlt
  have hne := sqrt_ne_of_not_pow4 hm hp (Nat.sqrt (2 ^ 200 / rsqrtArg m e))
  have hroot : Real.sqrt (m * 2 ^ e) = Real.sqrt (rsqrtArg m e) * 2 ^ rsqrtExp e := by
    have hv := congrArg (fun q : ℚ => (q : ℝ)) (rsqrtArg_value m e)
    push_cast at hv
    rw [← hv, two_mul, zpow_add₀ two_ne_zero, ← sq, Real.sqrt_mul (Nat.cast_nonneg _), Real.sqrt_sq (zpow_pos two_pos _).le]
  generalize rsqrtArg m e = x at *
  have hxR : (0 : ℝ) < x := Nat.cast_pos.2 hx0
  refine given_sticky ?_ ?_
  · have hY : 1 / Real.sqrt (m * 2 ^ e) / 2 ^ (-100 - rsqrtExp e) = 2 ^ 100 / Real.sqrt x := by
      have := (Real.sqrt_pos.2 hxR).ne'
      rw [hroot, sub_eq_add_neg, zpow_add₀ two_ne_zero, zpow_neg, zpow_neg, zpow_ofNat]
      field_simp
    rw [hY]
    have hsq : (2 ^ 100 / Real.sqrt x) ^ 2 * x = 2 ^ 200 := by
      rw [div_pow, Real.sq_sqrt hxR.le, ← pow_mul, div_mul_cancel₀ _ hxR.ne']
    have hpos : 0 < 2 ^ 100 / Real.sqrt x := by positivity
    generalize 2 ^ 100 / Real.sqrt x = Y at *
    have h1 : Nat.sqrt (2 ^ 200 / x) ^ 2 * x < 2 ^ 200 :=
      lt_of_le_of_ne ((Nat.mul_le_mul_right x (Nat.sqrt_le' _)).trans (Nat.div_mul_le_self _ _)) hne
    have h2 : 2 ^ 200 < (Nat.sqrt (2 ^ 200 / x) + 1) ^ 2 * x := (Nat.div_lt_iff_lt_mul hx0).1 (Nat.lt_succ_sqrt' _)
    have h1R : (Nat.sqrt (2 ^ 200 / x) : ℝ) ^ 2 * x < Y ^ 2 * x := by
      rw [hsq]
      exact_mod_cast h1
    have h2R : Y ^ 2 * x < ((Nat.sqrt (2 ^ 200 / x) : ℝ) + 1) ^ 2 * x := by
      rw [hsq]
      exact_mod_cast h2
    exact ⟨lt_of_pow_lt_pow_left₀ 2 hpos.le (lt_of_mul_lt_mul_right h1R hxR.le),
      lt_of_pow_lt_pow_left₀ 2 (by positivity) (lt_of_mul_lt_mul_right h2R hxR.le)⟩
  · rw [Nat.le_sqrt, Nat.le_div_iff_mul_le hx0]
    calc 2 ^ (fp32.fw + 1) * 2 ^ (fp32.fw + 1) * x ≤ 2 ^ (fp32.fw + 1) * 2 ^ (fp32.fw + 1) * 2 ^ 25 := Nat.mul_le_mul_left _ hx.le
      _ ≤ 2 ^ 200 := by norm_num [fp32]

section
variable {a : Word} {m : Nat} {e : ℤ} {p : ℚ} (h : Reads fp32 a.toNat false m e p)
include h

theorem fpRsqrt_pow4 (hm : m ≠ 0) (hp : isPow2 m = true) (he : ((Nat.log2 m : Int) + e) % 2 = 0) :
    fpRsqrt a = fpRound fp32 0 false 1 (-(((Nat.log2 m : Int) + e) / 2)) := by
  simp only [fpRsqrt, h.unpack, if_neg hm, hp, he, Bool.false_eq_true, if_false, Bool.true_and, BEq.rfl, if_true]

theorem fpRsqrt_near (hm : m ≠ 0) (hp : ¬ (isPow2 m = true ∧ ((Nat.log2 m : Int) + e) % 2 = 0)) :
    fpRsqrt a = approxNear 1 a (withNeg false (Nat.sqrt (2 ^ 200 / rsqrtArg m e) : ℤ)) (-100 - rsqrtExp e) 2 (.ulps 1) := by
  have hp' : ¬ (isPow2 m && ((Nat.log2 m : Int) + e) % 2 == 0) = true := by simpa using hp
  have hlt : 2 ^ 200 / rsqrtArg m e < 2 ^ 256 := (Nat.div_le_self _ _).trans_lt (by norm_num)
  rw [← isqrt_eq hlt]
  simp only [fpRsqrt, h.unpack, if_neg hm, if_neg hp', Bool.false_eq_true, if_false]
  rfl

end

/-! ### Powers of two of an integer (R176) -/

section
variable {k : ℤ}

theorem fpRound_two_zpow_exact (h1 : -149 ≤ k) (h2 : k ≤ 127) :
    FinitePattern fp32 (fpRound fp32 0 false 1 k).1 (2 ^ k) ∧ (fpRound fp32 0 false 1 k).2 = 0 := by
  have hmax : (2 : ℚ) ^ k ≤ fp32.rat fp32.maxFin :=
    (zpow_le_zpow_right₀ one_le_two h2).trans (le_trans (by norm_num) pow127_le_fp32_max)
  obtain ⟨y, hy, hrat⟩ := Fmt.exists_rat (f := fp32) (m := 1) (e := k) (by decide) (by simpa [fp32] using h1) (by simpa using hmax)
  have hpat := fp32_ieee.regular.finitePattern_signed (n := false) hy
  rw [hrat, Nat.cast_one, one_mul] at hpat
  exact fpRound_two_zpow hpat (abs_of_pos (zpow_pos two_pos k)) false

theorem two_zpow_given (k : ℤ) : Given fp32 1 k false (2 ^ k) := by
  simpa using given_exact (f := fp32) one_ne_zero k

theorem fpRound_two_zpow_over (h : 127 < k) : fpRound fp32 0 false 1 k = (0x7F800000, 20) := by
  have hover : fp32.maxFin < (roundCore fp32 0 false 1 k false).1 := by
    refine (fp32_ieee.over_iff (two_zpow_given k) (mode := 0) false).2 ?_
    have : (2 : ℝ) ^ (128 : ℤ) ≤ 2 ^ k := zpow_le_zpow_right₀ one_le_two (by omega)
    exact le_trans (by norm_num [fp32]) this
  rw [fpRound_eq, if_pos hover]
  decide

theorem fpRound_two_zpow_under (h : k < -149) : fpRound fp32 0 false 1 k = (0, 24) := by
  obtain ⟨hr, hexact⟩ := (two_zpow_given k).roundsMag (mode := 0) (neg := false) fp32_ieee.fw_pos
  have hle : (2 : ℝ) ^ k ≤ 2 ^ (-150 : ℤ) := zpow_le_zpow_right₀ one_le_two (by omega)
  have hulp : fp32.ulp = 2 ^ (-149 : ℤ) := by norm_num [Fmt.ulp, fp32]
  have hz : (roundCore fp32 0 false 1 k false).1 = 0 := by
    refine Nat.eq_zero_of_not_pos fun hp => ?_
    have h1 : fp32.value (0 + 1) = 2 ^ (-149 : ℤ) := by
      have : fp32.level (0 + 1) = 1 := by decide
      rw [Fmt.value, this, Nat.cast_one, one_mul, hulp]
    obtain h2 | ⟨-, h2⟩ := hr.lt_iff_nearest.1 hp
    · rw [h1, fp32.value_zero, zero_add] at h2
      have : (2 : ℝ) ^ (-149 : ℤ) = 2 * 2 ^ (-150 : ℤ) := by norm_num
      linarith
    · omega
  have hinexact : (roundCore fp32 0 false 1 k false).2.1 = true := by
    by_contra hc
    have := hexact.1 (by simpa using hc)
    rw [hz, fp32.value_zero] at this
    exact (zpow_pos (two_pos (α := ℝ)) k).ne' this
  have htiny : (roundCore fp32 0 false 1 k false).2.2 = true := by
    refine (two_zpow_given k).tiny_iff.2 (tinyMag_of_lt_half (hle.trans_lt ?_) _)
    norm_num [fp32]
  rw [fpRound_eq, hz, hinexact, htiny]
  decide

end

section
variable {a : Word} {m : Nat} {n : Bool} {e : ℤ} {p : ℚ} (h : Reads fp32 a.toNat n m e p)
include h

/-- The operand in units of 2^−300. -/
theorem Reads.fixed : (((if n then -(m : ℤ) else m) * 2 ^ (e + 300).toNat : ℤ) : ℚ) = p * 2 ^ 300 := by
  have he : (-149 : ℤ) ≤ e := by simpa [fp32] using h.le
  have hpow : (2 : ℚ) ^ (e + 300).toNat = 2 ^ e * 2 ^ 300 := by
    rw [← zpow_natCast, Int.toNat_of_nonneg (by omega), zpow_add₀ two_ne_zero, zpow_ofNat]
  push_cast
  rw [hpow, h.value]
  generalize (2 : ℚ) ^ 300 = U
  cases n <;> simp [finRat] <;> ring

/-- The test of `fpExp2` finds the integers. -/
theorem Reads.integer_iff : (m == 0 || 0 ≤ e || m % 2 ^ (-e).toNat == 0) = true ↔ ∃ k : ℤ, p = k := by
  simp only [Bool.or_eq_true, beq_iff_eq, decide_eq_true_eq]
  by_cases he : 0 ≤ e
  · exact iff_of_true (.inl (.inr he)) ⟨_, h.value.trans (finRat_of_nonneg n m he)⟩
  obtain ⟨s, hs⟩ : ∃ s : Nat, e = -(s : ℤ) := ⟨(-e).toNat, by omega⟩
  have habs := h.abs_eq
  rw [hs, zpow_neg, zpow_natCast, ← div_eq_mul_inv, eq_div_iff (by positivity)] at habs
  have htoNat : (-e).toNat = s := by omega
  rw [htoNat]
  constructor
  · rintro ((h0 | h0) | h0)
    · exact ⟨0, by rw [h.eq_zero_iff.2 h0, Int.cast_zero]⟩
    · exact absurd h0 he
    · obtain ⟨q, hq⟩ := Nat.dvd_of_mod_eq_zero h0
      have hp : |p| = q := by
        rw [hq] at habs
        push_cast at habs
        have : (0 : ℚ) < 2 ^ s := by positivity
        nlinarith
      obtain hp | hp := eq_or_eq_neg_of_abs_eq hp
      · exact ⟨q, by simpa using hp⟩
      · exact ⟨-q, by simpa using hp⟩
  · rintro ⟨k, rfl⟩
    rw [← Int.cast_abs] at habs
    have hmk : (m : ℤ) = |k| * 2 ^ s := by exact_mod_cast habs.symm
    refine .inr (Nat.mod_eq_zero_of_dvd (Int.natCast_dvd_natCast.1 ?_))
    rw [hmk]
    push_cast
    exact Dvd.intro_left _ rfl

theorem fpExp2_integer {k : ℤ} (hk : p = k) : fpExp2 a = fpRound fp32 0 false 1 (sat k (-1100) 1100) := by
  have hint := h.integer_iff.2 ⟨k, hk⟩
  have hfx := h.fixed
  have hfx : (if n then -(m : ℤ) else m) * 2 ^ (e + 300).toNat = k * 2 ^ 300 := by
    rw [hk] at hfx
    exact_mod_cast hfx
  simp only [fpExp2, h.unpack, hint, if_true, hfx]
  rw [Int.mul_ediv_cancel _ (by positivity)]

theorem fpExp2_near (hk : ∀ k : ℤ, p ≠ k) : ∃ y : ℤ, (y : ℚ) = p * 2 ^ 300 ∧
    fpExp2 a = approxNear 2 a (exp2Fix (y % 2 ^ 300)) (max (-1100) (min (y / 2 ^ 300) 1100) - 300) 4096 (.ulps 2) := by
  have hint : ¬ (m == 0 || 0 ≤ e || m % 2 ^ (-e).toNat == 0) = true := fun hc => (h.integer_iff.1 hc).elim hk
  have hsat : ∀ v : ℤ, sat v (-1100) 1100 = max (-1100) (min v 1100) := fun v => by
    unfold sat
    split_ifs <;> omega
  refine ⟨_, h.fixed, ?_⟩
  simp only [fpExp2, h.unpack, if_neg hint, hsat]

end

/-! ### Logarithms and the circle (R176) -/

section
variable {a : Word} {m : Nat} {e : ℤ} {p : ℚ} (h : Reads fp32 a.toNat false m e p) (hm : m ≠ 0)
include h hm

theorem fpLog2_pow2 (hp : isPow2 m = true) :
    FinitePattern fp32 (fpLog2 a).1 ((Nat.log2 m : ℤ) + e : ℤ) ∧ (fpLog2 a).2 = 0 := by
  obtain ⟨h1, h2⟩ := h.expOf_range hm
  simp only [fpLog2, h.unpack, if_neg hm, hp, Bool.false_eq_true, if_false, if_true]
  change -149 ≤ (Nat.log2 m : ℤ) + e at h1
  change (Nat.log2 m : ℤ) + e < 128 at h2
  generalize (Nat.log2 m : ℤ) + e = k at *
  have hk : k.natAbs ≤ 2 ^ 8 := by omega
  have hkQ : (k.natAbs : ℚ) ≤ 2 ^ 8 := by exact_mod_cast hk
  obtain ⟨y, hy, hrat, hround⟩ := fpRound32_exact (m := k.natAbs) (e := 0) (by omega) (by omega)
    (by rw [zpow_zero, mul_one]; exact hkQ.trans (by norm_num)) 0 (decide (k < 0))
  rw [hround]
  refine ⟨?_, rfl⟩
  have hpat := fp32_ieee.regular.finitePattern_signed (n := decide (k < 0)) hy
  have hv := finRat_decide_natAbs k 0
  rw [finRat, ← hrat, zpow_zero, mul_one] at hv
  rwa [hv] at hpat

theorem expOf_eq_of_bounds {j : ℤ} (h1 : (2 : ℚ) ^ j ≤ p) (h2 : p < 2 ^ (j + 1)) : j = Nat.log2 m + e := by
  have hp : (p : ℝ) = m * 2 ^ e := h.cast_eq
  have h3 := (given_exact (f := fp32) hm e).pow_le
  have h4 := (given_exact (f := fp32) hm e).lt_pow
  rw [← hp] at h3 h4
  have h1 := (Rat.cast_le (K := ℝ)).2 h1
  have h2 := (Rat.cast_lt (K := ℝ)).2 h2
  push_cast at h1 h2
  have h5 := (zpow_lt_zpow_iff_right₀ (one_lt_two (α := ℝ))).1 (h1.trans_lt h4)
  have h6 := (zpow_lt_zpow_iff_right₀ (one_lt_two (α := ℝ))).1 (h3.trans_lt h2)
  unfold expOf at h5 h6
  omega

omit hm in
/-- The argument of the series: a quotient of the significand, rounded down. -/
theorem log2_argument {j : ℤ} (hj : j = Nat.log2 m + e) :
    ⌊(p - 2 ^ j) / (p + 2 ^ j) * 2 ^ 300⌋ = ((m : ℤ) - 2 ^ Nat.log2 m) * 2 ^ 300 / ((m : ℤ) + 2 ^ Nat.log2 m) := by
  have hp : p = m * 2 ^ e := by simpa [finRat] using h.value
  have hjp : (2 : ℚ) ^ j = 2 ^ Nat.log2 m * 2 ^ e := by rw [hj, zpow_add₀ two_ne_zero, zpow_natCast]
  have hquot : (p - 2 ^ j) / (p + 2 ^ j) * 2 ^ 300 =
      (((m : ℤ) - 2 ^ Nat.log2 m) * 2 ^ 300 : ℤ) / ((m + 2 ^ Nat.log2 m : Nat) : ℚ) := by
    have he : (2 : ℚ) ^ e ≠ 0 := (zpow_pos two_pos e).ne'
    rw [Int.cast_mul, Int.cast_pow, Int.cast_ofNat]
    generalize (2 : ℚ) ^ 300 = U
    push_cast
    rw [hp, hjp, ← sub_mul, ← add_mul, mul_div_mul_right _ _ he, div_mul_eq_mul_div]
  rw [hquot, Rat.floor_intCast_div_natCast]
  simp only [Nat.cast_add, Nat.cast_pow, Nat.cast_ofNat]

theorem fpLog2_near (hp : ¬ isPow2 m = true) {j : ℤ} (h1 : (2 : ℚ) ^ j ≤ p) (h2 : p < 2 ^ (j + 1)) :
    ∃ z : ℤ, z = ⌊(p - 2 ^ j) / (p + 2 ^ j) * 2 ^ 300⌋ ∧
      fpLog2 a = approxNear 3 a (j * 2 ^ 300 + 2 * atanhFix z 100 0 z * 2 ^ 300 / ln2Fix) (-300) 4096
        (if 1 / 2 ≤ p ∧ p < 2 then .absolute (-22) else .ulps 2) := by
  have hj := expOf_eq_of_bounds h hm h1 h2
  have hnear : (j = 0 ∨ j = -1) ↔ 1 / 2 ≤ p ∧ p < 2 := by
    constructor
    · rintro (rfl | rfl)
      · norm_num at h1 h2
        exact ⟨by linarith, h2⟩
      · norm_num at h1 h2
        exact ⟨by linarith, by linarith⟩
    · rintro ⟨h3, h4⟩
      have h5 : (2 : ℚ) ^ (-1 : ℤ) < 2 ^ (j + 1) := lt_of_le_of_lt (by simpa using h3) h2
      have h6 : (2 : ℚ) ^ j < 2 ^ (1 : ℤ) := h1.trans_lt (by simpa using h4)
      have h5 := (zpow_lt_zpow_iff_right₀ (one_lt_two (α := ℚ))).1 h5
      have h6 := (zpow_lt_zpow_iff_right₀ (one_lt_two (α := ℚ))).1 h6
      omega
  refine ⟨_, rfl, ?_⟩
  rw [log2_argument h hj]
  simp only [fpLog2, h.unpack, if_neg hm, if_neg hp, Bool.false_eq_true, if_false, ← hj, hnear]

end

section
variable {a : Word} {m : Nat} {n : Bool} {e : ℤ} {p : ℚ} (h : Reads fp32 a.toNat n m e p) (hm : m ≠ 0)
include h hm

theorem fpSin_near : fpSin a = approxNear 4 a (if n then -(sinQuarter m e 0) else sinQuarter m e 0) (-400) (2 ^ 140) (.absolute (-21)) := by
  simp only [fpSin, h.unpack, if_neg hm]

theorem fpCos_near : fpCos a = approxNear 5 a (sinQuarter m e 1) (-400) (2 ^ 140) (.absolute (-21)) := by
  simp only [fpCos, h.unpack, if_neg hm]

end

/-- A position on the circle in quarter turns and a rest below one, with the sine or cosine of the rest (R176). -/
theorem sinQuarter_eq (m : Nat) (e q : ℤ) : ∃ n r : ℤ, 0 ≤ r ∧ r ≤ piFix / 2 ∧ (m * 2 ^ (e + 400).toNat : ℤ) = n * piFix / 2 + r ∧
    sinQuarter m e q = if (n + q) % 4 = 0 then sinFix r else if (n + q) % 4 = 1 then cosFix r else if (n + q) % 4 = 2 then -sinFix r
      else -cosFix r := by
  have heven : piFix = 2 * (piFix / 2) := by decide +kernel
  have hpos : 0 < piFix / 2 := by decide +kernel
  unfold sinQuarter
  generalize (m * 2 ^ (e + 400).toNat : ℤ) = x
  generalize piFix / 2 = h at *
  rw [heven]
  have hn : x * 2 / (2 * h) = x / h := by rw [mul_comm x 2, Int.mul_ediv_mul_of_pos _ _ two_pos]
  have hr : x - x / h * (2 * h) / 2 = x % h := by
    rw [show x / h * (2 * h) = x / h * h * 2 by ring, Int.mul_ediv_cancel _ two_ne_zero, mul_comm]
    exact (Int.emod_def x h).symm
  have h0 := Int.emod_nonneg x hpos.ne'
  have h1 := Int.emod_lt_of_pos x hpos
  refine ⟨x / h, x % h, h0, h1.le, by linarith, ?_⟩
  simp only [hn, hr, if_neg h0.not_gt, if_neg h1.le.not_gt]
  have hq := Int.emod_nonneg (x / h + q) (by norm_num : (4 : ℤ) ≠ 0)
  have hq4 := Int.emod_lt_of_pos (x / h + q) (by norm_num : (0 : ℤ) < 4)
  generalize (x / h + q) % 4 = i at *
  obtain rfl | rfl | rfl | rfl : i = 0 ∨ i = 1 ∨ i = 2 ∨ i = 3 := by omega
  all_goals rfl


/-! ### The statement -/

theorem approx_of_nan {x : Word} (h : x.toNat / 2 ^ 23 % 2 ^ 8 = 255 ∧ x.toNat % 2 ^ 23 ≠ 0) :
    ∀ r ∈ [(Instr.frcp, fpRcp), (Instr.frsqrt, fpRsqrt), (Instr.fexp2, fpExp2), (Instr.flog2, fpLog2), (Instr.fsin, fpSin),
      (Instr.fcos, fpCos)], r.2 x = (0x7FC00000, if x.toNat % 2 ^ 23 < 2 ^ 22 then 1 else 0) := by
  have hu := unpack_nan32 h
  have hn : fp32.cnan = 0x7FC00000 := by decide
  simp only [List.forall_mem_cons, List.not_mem_nil, IsEmpty.forall_iff, implies_true, and_true]
  simp only [fpRcp, fpRsqrt, fpExp2, fpLog2, fpSin, fpCos, hu, flag_decide_nv, hn, and_self]

section
variable {a : Word} {m : Nat} {n : Bool} {e : ℤ} {p : ℚ} (h : Reads fp32 a.toNat n m e p)
include h

theorem Reads.abs_eq_two_zpow_iff (hm : m ≠ 0) {k : ℤ} : p = 2 ^ k ∨ p = -(2 ^ k) ↔ isPow2 m = true ∧ k = Nat.log2 m + e := by
  have hpos : (0 : ℚ) < 2 ^ k := zpow_pos two_pos k
  rw [← eq_two_zpow_iff hm, ← h.abs_eq, ← abs_eq_abs, abs_of_pos hpos]

theorem fpRcp_exact {k : ℤ} (hk : p = 2 ^ k ∨ p = -(2 ^ k)) (hy : ∃ y, FinitePattern fp32 y (1 / p)) :
    FinitePattern fp32 (fpRcp a).1 (1 / p) ∧ (fpRcp a).2 = 0 := by
  have hpos : (0 : ℚ) < 2 ^ k := zpow_pos two_pos k
  have hm : m ≠ 0 := fun h0 => by
    have := h.eq_zero_iff.2 h0
    obtain hk | hk := hk <;> linarith
  obtain ⟨hp2, rfl⟩ := (h.abs_eq_two_zpow_iff hm).1 hk
  obtain ⟨y, hy⟩ := hy
  have hinv : 1 / p = withNeg n (2 ^ (-((Nat.log2 m : ℤ) + e))) := by
    have hv := (eq_two_zpow_iff hm (e := e)).2 ⟨hp2, rfl⟩
    rw [zpow_neg, h.value, finRat, hv]
    cases n <;> simp [div_neg]
  rw [fpRcp_pow2 h hm hp2, hinv]
  rw [hinv] at hy
  exact fpRound_two_zpow hy (by rw [abs_withNeg, abs_of_pos (zpow_pos two_pos _)]) n

theorem fpRcp_inexact (hp : p ≠ 0) (hk : ∀ k : ℤ, p ≠ 2 ^ k ∧ p ≠ -(2 ^ k)) : (fpRcp a).2.getLsbD 4 = true ∧ ∃ R,
    Rounds fp32 0 (1 / p : ℚ) R ∧ ((fpRcp a).1 = R ∨ ∃ v, FinitePattern fp32 (fpRcp a).1 v ∧ |v - 1 / p| ≤ ulp32 R) := by
  have hm : m ≠ 0 := mt h.eq_zero_iff.2 hp
  have hp2 : ¬ isPow2 m = true := fun hc => not_or.2 (hk _) ((h.abs_eq_two_zpow_iff hm).2 ⟨hc, rfl⟩)
  rw [fpRcp_near h hm hp2]
  obtain ⟨hfl, R, hR, hv⟩ := approxNear_ulps (given_rcp h hm hp2) 0 a n le_rfl
  have hinv : withNeg n (1 / ((m : ℝ) * 2 ^ e)) = ((1 / p : ℚ) : ℝ) := by
    rw [Rat.cast_div, Rat.cast_one, h.value, cast_finRat]
    cases n <;> simp [div_neg]
  rw [hinv] at hR hv
  exact ⟨hfl, R, hR, hv.imp_right fun ⟨v, hv, hb⟩ => ⟨v, hv, by exact_mod_cast hb⟩⟩

theorem neg_results (hp : p < 0) : fpRsqrt a = (0x7FC00000, 1) ∧ fpLog2 a = (0x7FC00000, 1) := by
  have hm : m ≠ 0 := mt h.eq_zero_iff.2 hp.ne
  have hn : n = true := (h.lt_zero_iff hm).1 hp
  have hc : fp32.cnan = 0x7FC00000 := by decide
  simp only [fpRsqrt, fpLog2, h.unpack, if_neg hm, hn, if_true, hc, flNV, and_self]

theorem circle_results (hp : p ≠ 0) : (fpSin a).2.getLsbD 4 = true ∧ (fpCos a).2.getLsbD 4 = true ∧ ∃ m e,
    unpack fp32 a.toNat = .fin (decide (p < 0)) m e ∧ |p| = m * 2 ^ e ∧
    fpSin a = approxNear 4 a (if p < 0 then -(sinQuarter m e 0) else sinQuarter m e 0) (-400) (2 ^ 140) (.absolute (-21)) ∧
    fpCos a = approxNear 5 a (sinQuarter m e 1) (-400) (2 ^ 140) (.absolute (-21)) := by
  have hm : m ≠ 0 := mt h.eq_zero_iff.2 hp
  have hneg := h.lt_zero_iff hm
  have hs := fpSin_near h hm
  have hc := fpCos_near h hm
  refine ⟨by rw [hs]; exact (approxNear_flags ..).2, by rw [hc]; exact (approxNear_flags ..).2, m, e, ?_, h.abs_eq, ?_, hc⟩
  · rw [h.unpack]
    cases n <;> simp_all
  · simp only [hs, hneg]

theorem fpExp2_of_integer {k : ℤ} (hk : p = k) : (-149 ≤ k → k ≤ 127 → FinitePattern fp32 (fpExp2 a).1 (2 ^ k) ∧ (fpExp2 a).2 = 0) ∧
    (127 < k → fpExp2 a = (0x7F800000, 20)) ∧ (k < -149 → fpExp2 a = (0, 24)) := by
  rw [fpExp2_integer h hk]
  refine ⟨fun h1 h2 => ?_, fun h1 => ?_, fun h1 => ?_⟩
  · rw [show sat k (-1100) 1100 = k by unfold sat; split_ifs <;> omega]
    exact fpRound_two_zpow_exact h1 h2
  · exact fpRound_two_zpow_over (by unfold sat; split_ifs <;> omega)
  · exact fpRound_two_zpow_under (by unfold sat; split_ifs <;> omega)

end

section
variable {a : Word} {m : Nat} {n : Bool} {e : ℤ} {p : ℚ} (h : Reads fp32 a.toNat n m e p) (hp : 0 < p)
include h hp

/-- A positive operand has a significand and no sign. -/
theorem Reads.of_pos : m ≠ 0 ∧ Reads fp32 a.toNat false m e p := by
  have hm : m ≠ 0 := mt h.eq_zero_iff.2 hp.ne'
  obtain rfl : n = false := by
    have := (h.lt_zero_iff hm).not.1 hp.not_gt
    simpa using this
  exact ⟨hm, h⟩

theorem Reads.eq_two_zpow_iff_of_pos {k : ℤ} : p = 2 ^ k ↔ isPow2 m = true ∧ k = Nat.log2 m + e := by
  obtain ⟨hm, h⟩ := h.of_pos hp
  rw [← eq_two_zpow_iff hm, ← h.abs_eq, abs_of_pos hp]

theorem fpRsqrt_inexact (hk : ∀ k : ℤ, p ≠ 4 ^ k) : (fpRsqrt a).2.getLsbD 4 = true ∧ ∃ R, Rounds fp32 0 (1 / Real.sqrt p) R ∧
    ((fpRsqrt a).1 = R ∨ ∃ v : ℚ, FinitePattern fp32 (fpRsqrt a).1 v ∧ |(v : ℝ) - 1 / Real.sqrt p| ≤ ulp32 R) := by
  obtain ⟨hm, h'⟩ := h.of_pos hp
  have h4 : ¬ (isPow2 m = true ∧ ((Nat.log2 m : Int) + e) % 2 = 0) := by
    rintro ⟨h1, h2⟩
    obtain ⟨k, hk2⟩ := Int.dvd_of_emod_eq_zero h2
    refine hk k ((h'.eq_two_zpow_iff_of_pos hp).2 ⟨h1, hk2.symm⟩ |>.trans ?_)
    rw [zpow_mul]
    norm_num
  rw [fpRsqrt_near h' hm h4, show (p : ℝ) = m * 2 ^ e from h'.cast_eq]
  exact approxNear_ulps (given_rsqrt hm h'.lt h4) 1 a false (by norm_num)

end

theorem fpRsqrt_exact {a : Word} {m : Nat} {n : Bool} {e : ℤ} {p : ℚ} (h : Reads fp32 a.toNat n m e p) {k : ℤ} (hk : p = 4 ^ k) :
    FinitePattern fp32 (fpRsqrt a).1 (2 ^ (-k)) ∧ (fpRsqrt a).2 = 0 := by
  have hp : 0 < p := hk ▸ zpow_pos (by norm_num) k
  obtain ⟨hm, h'⟩ := h.of_pos hp
  have hk2 : p = 2 ^ (2 * k) := by
    rw [hk, zpow_mul]
    norm_num
  obtain ⟨h2, he⟩ := (h'.eq_two_zpow_iff_of_pos hp).1 hk2
  obtain ⟨hlo, hhi⟩ := h'.expOf_range hm
  unfold expOf at hlo hhi
  rw [fpRsqrt_pow4 h' hm h2 (by omega), show ((Nat.log2 m : Int) + e) / 2 = k by omega]
  exact fpRound_two_zpow_exact (by omega) (by omega)

theorem special_results :
    fpRcp 0 = (0x7F800000, 2) ∧ fpRcp 0x80000000 = (0xFF800000, 2) ∧ fpRcp 0x7F800000 = (0, 0) ∧ fpRcp 0xFF800000 = (0x80000000, 0) ∧
    fpRsqrt 0 = (0x7F800000, 2) ∧ fpRsqrt 0x80000000 = (0xFF800000, 2) ∧ fpRsqrt 0x7F800000 = (0, 0) ∧
    fpRsqrt 0xFF800000 = (0x7FC00000, 1) ∧
    fpExp2 0xFF800000 = (0, 0) ∧ fpExp2 0x7F800000 = (0x7F800000, 0) ∧
    fpLog2 0 = (0xFF800000, 2) ∧ fpLog2 0x80000000 = (0xFF800000, 2) ∧ fpLog2 0x7F800000 = (0x7F800000, 0) ∧
    fpSin 0x7F800000 = (0x7FC00000, 1) ∧ fpSin 0xFF800000 = (0x7FC00000, 1) ∧ fpCos 0x7F800000 = (0x7FC00000, 1) ∧
    fpCos 0xFF800000 = (0x7FC00000, 1) ∧ fpSin 0 = (0, 0) ∧ fpSin 0x80000000 = (0x80000000, 0) ∧
    fpCos 0 = (0x3F800000, 0) ∧ fpCos 0x80000000 = (0x3F800000, 0) := by
  refine ⟨?_, ?_, ?_, ?_, ?_, ?_, ?_, ?_, ?_, ?_, ?_, ?_, ?_, ?_, ?_, ?_, ?_, ?_, ?_, ?_, ?_⟩ <;> rfl

theorem series_agree : |exp2Fix (2 ^ 300) - 2 ^ 301| ≤ 4096 ∧
    |exp2Fix (2 * atanhFix (2 ^ 300 / 5) 100 0 (2 ^ 300 / 5) * 2 ^ 300 / ln2Fix) - 3 * 2 ^ 299| ≤ 4096 ∧
    |sinFix (piFix / 2) - 2 ^ 400| ≤ 4096 ∧ |cosFix (piFix / 2)| ≤ 4096 := by
  decide +kernel

/-- Settles O10: the enclosures that are exact digits are taken over the reals, the others through `approxNear_clause`. -/
theorem approximationResults : Obligations.ApproximationResults := by
  unfold Obligations.ApproximationResults
  obtain ⟨hexp, hlog, hsin, hcos⟩ := series_agree
  refine ⟨fun r hr => ⟨approximations r hr, fun x h1 h2 => approx_of_nan ⟨h1, h2⟩ r hr⟩, fun x p hp => ?_, hexp, hlog, hsin, hcos,
    sinQuarter_eq, approxNear_clause, special_results⟩
  obtain ⟨n, m, e, h⟩ := fp32_ieee.regular.reads hp
  refine ⟨fun k hk hy => fpRcp_exact h hk hy, fun h0 hk => fpRcp_inexact h h0 hk, neg_results h, fun k hk => fpRsqrt_exact h hk,
    fun hp hk => fpRsqrt_inexact h hp hk, fun k hk => fpExp2_of_integer h hk, fun hk => ?_, fun k hk => ?_, fun hp hk => ?_,
    circle_results h⟩
  · obtain ⟨y, hy, heq⟩ := fpExp2_near h hk
    exact ⟨by rw [heq]; exact (approxNear_flags ..).2, y, hy, heq⟩
  · have hp : 0 < p := hk ▸ zpow_pos two_pos k
    obtain ⟨hm, h'⟩ := h.of_pos hp
    obtain ⟨h2, rfl⟩ := (h'.eq_two_zpow_iff_of_pos hp).1 hk
    exact fpLog2_pow2 h' hm h2
  · obtain ⟨hm, h'⟩ := h.of_pos hp
    have h2 : ¬ isPow2 m = true := fun hc => hk _ ((h'.eq_two_zpow_iff_of_pos hp).2 ⟨hc, rfl⟩)
    refine ⟨?_, fun j h3 h4 => fpLog2_near h' hm h2 h3 h4⟩
    simp only [fpLog2, h'.unpack, if_neg hm, if_neg h2, Bool.false_eq_true, if_false]
    exact (approxNear_flags ..).2

end Sys2Proof.Machine
end

section

/-!
# Special registers (R64, R65, R135, R169, R358) and the translation instructions (R206 to R208)
-/

namespace Sys2Proof.Machine

-- One proof at a time: each waiting thread would reserve a stack of its own.
set_option Elab.async false

/-! ### Instructions that act on the whole gang -/

/-- An operand outside a window is the fault 0x03 (R57). -/
theorem issueGang_window {s : State} {cls : Cls} {g : Gang} {c : ClauseRun} {os : List Opnd} {x : Nat} {lanes : Word}
    (h : Issues s cls g c) (hw : windowFail g (activeMask c) os = some (x, lanes)) (f : Gang → Word → Gang) :
    issueGang s cls os f = .next (faultAt s g c 0x03 (BitVec.ofNat 64 x) lanes 0) := by
  simp [issueGang, issue_ok h, hw]

/-! ### Reading a special register -/

theorem latchHigh_of_ne {s : State} {g : Gang} {r : Nat} {t : Thread} (h : r ≠ 0x100 ∧ r ≠ 0x102 ∧ r ≠ 0x402 ∧ r ≠ 0x404) :
    latchHigh s g r t = t := by
  obtain ⟨h1, h2, h3, h4⟩ := h
  simp only [latchHigh, if_neg h1, if_neg h2, if_neg h3, if_neg h4]

section
variable (s : State) (g : Gang) (l : Nat) {n : Nat}

theorem srValue_unassigned (h : sregAssigned n = false) : srValue s g l n = 0 := by
  simp only [sregAssigned, Bool.or_eq_false_iff, Bool.and_eq_false_iff, decide_eq_false_iff_not, beq_eq_false_iff_ne, ne_eq] at h
  simp only [srValue]
  repeat rw [if_neg (by omega)]

theorem srValue_progress (h : n < 8) : srValue s g l (0x300 + n) = fgetD (coreOf s g.core).cwp n 0 := by
  simp only [srValue]
  repeat rw [if_neg (by omega)]
  rw [if_pos (by omega), Nat.add_sub_cancel_left]

theorem srValue_histogram (h1 : 0x440 ≤ n) (h2 : n ≤ 0x4FF) : srValue s g l n = histogram s g.core n := by
  simp only [srValue]
  repeat rw [if_neg (by omega)]
  rw [if_pos ⟨h1, h2⟩]

theorem srValue_work (h1 : 0x500 ≤ n) (h2 : n ≤ 0x5FF) : srValue s g l n = workCounter s (launchD s g.launch) n := by
  simp only [srValue]
  repeat rw [if_neg (by omega)]
  rw [if_pos ⟨h1, h2⟩]

end

/-- The registers of the tables whose value is a field (R64). -/
theorem srValue_table (s : State) (g : Gang) (l : Nat) : ∀ y ∈ ([
      (0, BitVec.ofNat 32 l), (1, BitVec.ofNat 32 g.index), (2, BitVec.ofNat 32 g.rank), (3, BitVec.ofNat 32 g.cluster),
      (4, BitVec.ofNat 32 (g.core % 64)), (5, BitVec.ofNat 32 (g.core / 64 % 16)), (6, BitVec.ofNat 32 (g.core / 1024)),
      (7, BitVec.ofNat 32 s.module), (8, g.task), (0x100, BitVec.ofNat 32 (clkOf s g.core)), (0x101, (thr g l).hiClk),
      (0x102, BitVec.ofNat 32 (timeOf s g.core)), (0x103, (thr g l).hiTime), (0x200, (thr g l).aflags), (0x201, (thr g l).amask),
      (0x202, BitVec.ofNat 32 g.level), (0x210, g.rec1.cause), (0x211, g.rec1.pc), (0x212, g.rec1.pch), (0x213, g.rec1.loc),
      (0x214, g.rec1.loch), (0x215, g.rec1.lanes), (0x216, g.rec1.done), (0x220, g.rec2.cause), (0x221, g.rec2.pc),
      (0x222, g.rec2.pch), (0x223, g.rec2.loc), (0x224, g.rec2.loch), (0x225, g.rec2.lanes), (0x226, g.rec2.done),
      (0x400, BitVec.ofNat 32 g.nregs), (0x401, BitVec.ofNat 32 (thr g l).wbase), (0x402, BitVec.ofNat 32 g.retcnt),
      (0x403, (thr g l).hiRet), (0x404, BitVec.ofNat 32 g.sthash.toNat), (0x405, (thr g l).hiHash), (0x600, g.gstate)] :
      List (Nat × Word)), srValue s g l y.1 = y.2 := by
  simp only [List.forall_mem_cons, List.not_mem_nil, IsEmpty.forall_iff, implies_true, and_true]
  refine ⟨?_, ?_, ?_, ?_, ?_, ?_, ?_, ?_, ?_, ?_, ?_, ?_, ?_, ?_, ?_, ?_, ?_, ?_, ?_, ?_, ?_, ?_, ?_, ?_, ?_, ?_, ?_, ?_, ?_, ?_, ?_, ?_, ?_,
    ?_, ?_, ?_, ?_⟩ <;> rfl

/-! ### The copy unit's status (R211) -/

/-- The channels of a core on which a copy that satisfies a test is entered, one bit each. -/
def channelBits (s : State) (core : Nat) (p : Copy → Bool) : Nat :=
  ((List.range 8).map fun n => if (s.copies.filter fun c => c.core == core && c.kind != .pf).any fun c => c.chan == n && p c
    then 2 ^ n else 0).sum

/-- A copy that a fault stopped (R234). -/
def Copy.isStopped (c : Copy) : Bool := match c.state with | .stopped _ _ _ _ => true | _ => false

theorem Copy.isStopped_iff (c : Copy) : c.isStopped = true ↔ ∃ cause loc del at_, c.state = .stopped cause loc del at_ := by
  unfold Copy.isStopped
  cases c.state <;> simp

theorem cstat_eq (s : State) (core : Nat) :
    cstat s core = BitVec.ofNat 32 ((128 - sharedUsed s core) * 65536 + channelBits s core Copy.isStopped * 256 +
      channelBits s core fun _ => true) := rfl

/-- A sum of chosen powers of two: below the next power, with a bit for each that is chosen. -/
theorem sum_two_pow (p : Nat → Bool) (k : Nat) :
    ((List.range k).map fun n => if p n then 2 ^ n else 0).sum < 2 ^ k ∧
      ∀ n < k, ((List.range k).map fun n => if p n then 2 ^ n else 0).sum.testBit n = p n := by
  induction k with
  | zero => simp
  | succ k ih =>
    obtain ⟨hlt, hbits⟩ := ih
    rw [List.range_succ, List.map_append, List.sum_append, List.map_singleton, List.sum_singleton, pow_succ]
    generalize ((List.range k).map fun n => if p n then 2 ^ n else 0).sum = x at *
    refine ⟨by split <;> omega, fun n hn => ?_⟩
    obtain hn | rfl := Nat.lt_succ_iff_lt_or_eq.1 hn
    · rw [← hbits n hn]
      split
      · rw [add_comm, Nat.testBit_two_pow_add_gt hn]
      · rw [add_zero]
    · split
      next h => rw [add_comm, Nat.testBit_two_pow_add_eq, Nat.testBit_lt_two_pow hlt, h, Bool.not_false]
      next h => rw [add_zero, Nat.testBit_lt_two_pow hlt, Bool.eq_false_iff.2 h]

theorem channelBits_lt (s : State) (core : Nat) (p : Copy → Bool) : channelBits s core p < 256 := (sum_two_pow _ 8).1

theorem testBit_channelBits (s : State) (core : Nat) (p : Copy → Bool) {n : Nat} (hn : n < 8) :
    (channelBits s core p).testBit n = true ↔ ∃ c ∈ s.copies, c.core = core ∧ c.kind ≠ .pf ∧ c.chan = n ∧ p c = true := by
  rw [channelBits, (sum_two_pow _ 8).2 n hn]
  simp only [List.any_eq_true, List.mem_filter, Bool.and_eq_true, beq_iff_eq, bne_iff_ne, and_assoc]

theorem cstat_bits (s : State) (core : Nat) :
    (cstat s core).toNat / 2 ^ 16 = 128 - sharedUsed s core ∧
      ∀ n < 8, ((cstat s core).getLsbD n = true ↔ ∃ c ∈ s.copies, c.core = core ∧ c.kind ≠ .pf ∧ c.chan = n) ∧
        ((cstat s core).getLsbD (8 + n) = true ↔ ∃ c ∈ s.copies, c.core = core ∧ c.kind ≠ .pf ∧ c.chan = n ∧
          ∃ cause loc del at_, c.state = .stopped cause loc del at_) := by
  have hb := channelBits_lt s core Copy.isStopped
  have hu := channelBits_lt s core fun _ => true
  have hbits := fun n hn => testBit_channelBits s core Copy.isStopped (n := n) hn
  have hubits := fun n hn => testBit_channelBits s core (fun _ => true) (n := n) hn
  simp only [Copy.isStopped_iff, and_true] at hbits hubits
  have hval : (cstat s core).toNat = 2 ^ 8 * (2 ^ 8 * (128 - sharedUsed s core) + channelBits s core Copy.isStopped) +
      channelBits s core fun _ => true := by
    rw [cstat_eq, BitVec.toNat_ofNat]
    omega
  refine ⟨by omega, fun n hn => ?_⟩
  rw [← hubits n hn, ← hbits n hn, BitVec.getLsbD, BitVec.getLsbD, hval]
  constructor
  · rw [Nat.testBit_two_pow_mul_add _ hu, if_pos hn]
  · rw [Nat.testBit_two_pow_mul_add _ hu, if_neg (by omega), Nat.add_sub_cancel_left, Nat.testBit_two_pow_mul_add _ hb, if_pos hn]

/-! ### The statement on reads -/

theorem histogram_eligible (s : State) (core : Nat) {sch e : Nat} (hs : sch < 4) (he : e < 17) :
    histogram s core (0x440 + 32 * sch + e) = fgetD (coreOf s core).helig (32 * sch + e) 0 +
      if e = 0 then BitVec.ofNat 32 (clkOf s core - (coreOf s core).histBase - (coreOf s core).histClks) else 0 := by
  have h1 : (0x440 + 32 * sch + e - 0x440) % 32 = e := by omega
  have h2 : (0x440 + 32 * sch + e - 0x440) / 32 = sch := by omega
  simp only [histogram, h1, h2, if_neg (show ¬ 0x4C0 ≤ 0x440 + 32 * sch + e by omega), if_pos he, mul_comm sch]

theorem histogram_stalls (s : State) (core : Nat) {sch r : Nat} (hs : sch < 4) (hr : r < 15) :
    histogram s core (0x451 + 32 * sch + r) = fgetD (coreOf s core).hstall (32 * sch + r) 0 +
      if r = 14 then BitVec.ofNat 32 (clkOf s core - (coreOf s core).histBase - (coreOf s core).histClks) else 0 := by
  have h1 : (0x451 + 32 * sch + r - 0x440) % 32 = 17 + r := by omega
  have h2 : (0x451 + 32 * sch + r - 0x440) / 32 = sch := by omega
  have h3 : (17 + r = 31) = (r = 14) := propext (by omega)
  simp only [histogram, h1, h2, h3, if_neg (show ¬ 0x4C0 ≤ 0x451 + 32 * sch + r by omega), if_neg (show ¬ 17 + r < 17 by omega),
    Nat.add_sub_cancel_left, mul_comm sch]

theorem taskOpen_eq_contains : taskOpen = fun t => [1, 2, 3, 4, 6].contains t.state := by
  funext t
  simp only [taskOpen, List.contains_cons, List.contains_nil, Bool.or_false, Bool.or_assoc]

theorem workCounter_nodes (s : State) (L : Launch) : workCounter s L 0x503 =
    BitVec.ofNat 32 (match L.node.bind fun x => graphOf s x.1 with
      | some gr => (gr.nodes.filter fun x => x.status.isNone).length
      | none => 0) := rfl

/-- Settles O23: the table by evaluation, the status and the histograms by their digits. -/
theorem specialReads : Obligations.SpecialReads := by
  unfold Obligations.SpecialReads
  refine ⟨fun s g c r d h hw => ?_, fun s g c r d x lanes h hw => ?_, fun s g l r a hr => ?_,
    fun s g l n x hx => srValue_table s g l (n, x) hx,
    fun s g l => ?_, fun s g l => ?_, fun s g t => ⟨rfl, rfl, rfl, rfl, fun r h1 h2 h3 h4 => latchHigh_of_ne ⟨h1, h2, h3, h4⟩⟩⟩
  · obtain ⟨hg, ht⟩ := lanes_finish h (activeMask c) (fun l t => wrReg g.level (latchHigh s g r t) d (srValue s g l r)) .none
    exact ⟨_, _, (exec_sread r d s).trans (issueGang_ok h hw _), hg, ht, eachLane_completed _ _ _ _ _ fun l _ _ => wrReg_writes ..⟩
  · exact (exec_sread r d s).trans (issueGang_window h hw _)
  · have hn : sregAssigned r = false := by
      simp only [sregAssigned, Bool.or_eq_false_iff, Bool.and_eq_false_iff, decide_eq_false_iff_not, beq_eq_false_iff_ne]
      omega
    exact ⟨srValue_unassigned s g l hn, by simp [Instr.wf, hn], by simp [Instr.wf, hn]⟩
  · intro k v idle
    refine ⟨fun n hn => srValue_progress s g l hn, cstat_bits s g.core, fun sch hs => ⟨fun e he => ?_, fun r hr => ?_⟩, fun n h1 h2 => ?_⟩
    · rw [srValue_histogram s g l (by omega) (by omega), histogram_eligible s g.core hs he]
    · rw [srValue_histogram s g l (by omega) (by omega), histogram_stalls s g.core hs hr]
    · rw [srValue_histogram s g l (by omega) h2, histogram, if_pos h1]
  · intro L j
    refine ⟨rfl, rfl, ?_, fun hn => ?_, fun x gr hn hg => ?_, rfl, rfl, rfl, fun n h1 h2 => ?_⟩
    · rw [srValue_work s g l (by omega) (by omega)]
      simp only [workCounter, taskOpen_eq_contains]
      rfl
    · rw [srValue_work s g l (by omega) (by omega), workCounter_nodes, hn]
      rfl
    · rw [srValue_work s g l (by omega) (by omega), workCounter_nodes, hn, Option.bind_some, hg]
    · rw [srValue_work s g l (by omega) h2, workCounter]
      repeat rw [if_neg (by omega)]
      rfl

/-! ### Writing a special register -/

/-- The bits of a field of a fault record that a write reaches (R358). -/
def recMask (i : Nat) : Word := if i = 0 then 0x1FF else 0xFFFFFFFF

theorem and_ones (v : Word) : v &&& 0xFFFFFFFF = v := BitVec.and_allOnes

theorem recField_setRecField (R : FaultRec) (v : Word) {i j : Nat} (hi : i ≤ 6) (hj : j ≤ 6) :
    recField (setRecField R j v) i = if j = i then v &&& recMask i else recField R i := by
  by_cases h : j = i
  · subst h
    rw [if_pos rfl]
    interval_cases j
    · rfl
    all_goals exact (and_ones v).symm
  · rw [if_neg h]
    interval_cases i <;> interval_cases j <;> simp_all [recField, setRecField]

section
variable (r : Nat) (y : Word) (g : Gang)

theorem srWriteGang_eq : srWriteGang r y g = { g with
    rec1 := if 0x210 ≤ r ∧ r ≤ 0x216 then setRecField g.rec1 (r - 0x210) y else g.rec1
    rec2 := if 0x220 ≤ r ∧ r ≤ 0x226 then setRecField g.rec2 (r - 0x220) y else g.rec2
    gstate := if r = 0x600 ∧ gstateOk y = true then y else g.gstate } := by
  unfold srWriteGang
  by_cases h1 : 0x210 ≤ r ∧ r ≤ 0x216
  · rw [if_pos h1, if_pos h1, if_neg (by omega), if_neg (by omega)]
  by_cases h2 : 0x220 ≤ r ∧ r ≤ 0x226
  · rw [if_neg h1, if_pos h2, if_neg h1, if_pos h2, if_neg (by omega)]
  rw [if_neg h1, if_neg h2, if_neg h1, if_neg h2]
  by_cases h3 : r = 0x600
  · by_cases hy : gstateOk y = true
    · rw [if_pos h3, if_pos hy, if_pos ⟨h3, hy⟩]
    · rw [if_pos h3, if_neg hy, if_neg fun h => hy h.2]
  · rw [if_neg h3, if_neg fun h => h3 h.1]

theorem srWriteGang_mapLanes (A : Word) (f : Nat → Thread → Thread) :
    srWriteGang r y (mapLanes A f g) = mapLanes A f (srWriteGang r y g) := by
  rw [srWriteGang_eq, srWriteGang_eq]
  rfl

theorem srWriteGang_rec1 {i : Nat} (hi : i ≤ 6) :
    recField (srWriteGang r y g).rec1 i = if r = 0x210 + i then y &&& recMask i else recField g.rec1 i := by
  rw [srWriteGang_eq]
  by_cases h : 0x210 ≤ r ∧ r ≤ 0x216
  · have hj : (r - 0x210 = i) = (r = 0x210 + i) := propext (by omega)
    simp only [if_pos h, recField_setRecField _ _ hi (show r - 0x210 ≤ 6 by omega), hj]
  · rw [if_neg (by omega : ¬ r = 0x210 + i)]
    simp only [if_neg h]

theorem srWriteGang_rec2 {i : Nat} (hi : i ≤ 6) :
    recField (srWriteGang r y g).rec2 i = if r = 0x220 + i then y &&& recMask i else recField g.rec2 i := by
  rw [srWriteGang_eq]
  by_cases h : 0x220 ≤ r ∧ r ≤ 0x226
  · have hj : (r - 0x220 = i) = (r = 0x220 + i) := propext (by omega)
    simp only [if_pos h, recField_setRecField _ _ hi (show r - 0x220 ≤ 6 by omega), hj]
  · rw [if_neg (by omega : ¬ r = 0x220 + i)]
    simp only [if_neg h]

end

/-- An instruction that writes fields of its gang and then changes its threads. -/
theorem onlyThreads_fields {g g1 g' : Gang} (h : OnlyThreads g1 g') {r1 r2 : FaultRec} {w : Word}
    (hg1 : g1 = { g with rec1 := r1, rec2 := r2, gstate := w }) :
    g'.rec1 = r1 ∧ g'.rec2 = r2 ∧ g'.gstate = w ∧
      OnlyThreads { g with rec1 := g'.rec1, rec2 := g'.rec2, gstate := g'.gstate } g' := by
  subst hg1
  have h1 : g'.rec1 = r1 := congrArg Gang.rec1 h.rest
  have h2 : g'.rec2 = r2 := congrArg Gang.rec2 h.rest
  have h3 : g'.gstate = w := congrArg Gang.gstate h.rest
  refine ⟨h1, h2, h3, ?_⟩
  rw [h1, h2, h3]
  exact h

theorem gstateOk_iff (y : Word) : gstateOk y = true ↔ 4 ≤ y.toNat % 2 ^ 7 ∧ y.toNat % 2 ^ 7 ≤ 64 ∧ 1 ≤ y.toNat / 2 ^ 8 % 2 ^ 6 ∧
    y.toNat / 2 ^ 8 % 2 ^ 6 ≤ 32 ∧ y &&& 0xFFFEC080 = 0 := by
  have hsw : bits y.toNat 0 7 = y.toNat % 2 ^ 7 := by rw [bits, pow_zero, Nat.div_one]
  have hrw : bits y.toNat 8 6 = y.toNat / 2 ^ 8 % 2 ^ 6 := rfl
  rw [← hsw, ← hrw]
  unfold gstateOk
  generalize bits y.toNat 0 7 = sw, bits y.toNat 8 6 = rw
  simp only [Bool.and_eq_true, decide_eq_true_eq, beq_iff_eq, and_assoc]

/-- Settles O24: the gang's fields first, then each lane's thread. -/
theorem specialWrites : Obligations.SpecialWrites := by
  unfold Obligations.SpecialWrites
  refine ⟨fun s g c r a x lanes h hw => (exec_swrite r a s).trans (issueGang_window h hw _), ?_⟩
  intro s g c r a h hw y
  obtain ⟨-, hg, -⟩ := issuer_gangOf h.issuer
  obtain ⟨g1, hg1⟩ : ∃ g1, g1 = srWriteGang r y g := ⟨_, rfl⟩
  have heq := hg1.trans (srWriteGang_eq r y g)
  have hid : g1.id = g.id := by rw [heq]
  have hthreads : g1.threads = g.threads := by rw [heq]
  have hthr : ∀ l, thr g1 l = thr g l := fun l => by simp only [thr, hthreads]
  obtain ⟨f, hf⟩ : ∃ f : Nat → Thread → Thread, f = fun _ t => srWriteThread r (rdReg g.level t a) t := ⟨_, rfl⟩
  have hmap : mapLanes (activeMask c) f g1 = srWriteGang r y (mapLanes (activeMask c) f g) := by rw [hg1, srWriteGang_mapLanes]
  obtain ⟨ht, -⟩ := lanes_completed g1 (mapLanes (activeMask c) f g1) c .none (onlyThreads_mapLanes ..) rfl
  obtain ⟨h1, h2, h3, honly⟩ := onlyThreads_fields ht heq
  refine ⟨_, completed (mapLanes (activeMask c) f g1) c .none, ?_, issued_only hg ?_, honly, ?_, gstateOk_iff y, h3, ?_⟩
  · rw [exec_swrite, execSwrite, issueGang_ok h hw, hmap, hf]
  · rw [completed_id]
    exact hid
  · have hlanes := eachLane_completed g1 c .none (activeMask c) f
      (F := fun _ u v => v = if r = 0x200 then { u with aflags := rdReg g.level u a &&& 0xFF }
            else if r = 0x201 then { u with amask := rdReg g.level u a &&& 0xFF } else u)
      fun l _ _ => by rw [hf]; rfl
    intro l hl
    have := hlanes l (hthreads ▸ hl)
    rwa [hthr] at this
  · have h1 : (completed (mapLanes (activeMask c) f g1) c .none).rec1 = (srWriteGang r y g).rec1 := by rw [h1, srWriteGang_eq]
    have h2 : (completed (mapLanes (activeMask c) f g1) c .none).rec2 = (srWriteGang r y g).rec2 := by rw [h2, srWriteGang_eq]
    simp only [List.forall_mem_cons, List.not_mem_nil, IsEmpty.forall_iff, implies_true, and_true, h1, h2]
    exact ⟨srWriteGang_rec1 r y g (i := 0) (by omega), srWriteGang_rec1 r y g (i := 1) (by omega),
      srWriteGang_rec1 r y g (i := 2) (by omega), srWriteGang_rec1 r y g (i := 3) (by omega), srWriteGang_rec1 r y g (i := 4) (by omega),
      srWriteGang_rec1 r y g (i := 5) (by omega), srWriteGang_rec1 r y g (i := 6) (by omega), srWriteGang_rec2 r y g (i := 0) (by omega),
      srWriteGang_rec2 r y g (i := 1) (by omega), srWriteGang_rec2 r y g (i := 2) (by omega), srWriteGang_rec2 r y g (i := 3) (by omega),
      srWriteGang_rec2 r y g (i := 4) (by omega), srWriteGang_rec2 r y g (i := 5) (by omega), srWriteGang_rec2 r y g (i := 6) (by omega)⟩

end Sys2Proof.Machine
end

section

/-!
# The translation instructions (R200, R206 to R208)
-/

namespace Sys2Proof.Machine

-- One proof at a time: each waiting thread would reserve a stack of its own.
set_option Elab.async false

/-! ### The bits of a little-endian number -/

theorem testBit_rdLE (m : FMap Byte) {j : Nat} (hj : j < 8) : ∀ (n a i : Nat), i < n →
    (rdLE m a n).testBit (8 * i + j) = (rdByte m (a + i)).getLsbD j
  | n + 1, a, 0, _ => by
    have hb := (rdByte m a).isLt
    rw [rdLE, add_comm, show 256 = 2 ^ 8 from rfl, Nat.testBit_two_pow_mul_add _ hb, if_pos (by omega)]
    simp [BitVec.getLsbD]
  | n + 1, a, i + 1, hi => by
    have hb := (rdByte m a).isLt
    rw [rdLE, add_comm, show 256 = 2 ^ 8 from rfl, Nat.testBit_two_pow_mul_add _ hb, if_neg (by omega),
      show 8 * (i + 1) + j - 8 = 8 * i + j by omega, testBit_rdLE m hj n (a + 1) i (by omega), show a + 1 + i = a + (i + 1) by omega]

theorem testBit_readNat (s : State) (l : Loc) {n i j : Nat} (hi : i < n) (hj : j < 8) :
    (readNat s l n).testBit (8 * i + j) = (readByte s ⟨l.place, l.off + i⟩).getLsbD j :=
  testBit_rdLE _ hj n l.off i hi

/-! ### The dirty bit of a leaf (R200) -/

theorem getLsbD_dirtyMark (k : Nat) : (0x800#64).getLsbD k = decide (k = 11) := by
  rw [show 0x800#64 = BitVec.twoPow 64 11 from rfl, BitVec.getLsbD_twoPow]
  simp only [show 11 < 64 by decide, decide_true, Bool.true_and, eq_comm (a := 11)]

theorem getLsbD_eight (k : Nat) : (8 : Byte).getLsbD k = decide (k = 3) := by
  rw [show (8 : Byte) = BitVec.twoPow 8 3 from rfl, BitVec.getLsbD_twoPow]
  simp only [show 3 < 8 by decide, decide_true, Bool.true_and, eq_comm (a := 3)]

theorem readByte_writeNat_phys (s : State) (a n x : Nat) (p : Place) (o : Nat) : readByte (writeNat s (physLoc a) n x) ⟨p, o⟩ =
    if p = .phys ∧ a ≤ o ∧ o < a + n then (leOf n x).getD (o - a) 0 else readByte s ⟨p, o⟩ := by
  have h := readByte_writeBytes s (physLoc a) ⟨p, o⟩ (leOf n x) trivial
  rw [leOf_length] at h
  exact h

/-- Settling a pending mark sets bit 11 of the leaf, which is bit 3 of its second byte. -/
theorem readByte_settleDirty (s : State) (e : TlbEntry) (l : Loc) : readByte (settleDirty s e) l =
    if e.pending = true ∧ l = physLoc (e.leafAt + 1) then readByte s l ||| 8 else readByte s l := by
  unfold settleDirty
  by_cases hp : e.pending = true
  · obtain ⟨place, off⟩ := l
    rw [if_pos hp, readByte_writeNat_phys]
    simp only [physLoc, hp, true_and, Loc.mk.injEq]
    by_cases hl : place = .phys ∧ e.leafAt ≤ off ∧ off < e.leafAt + 8
    · rw [if_pos hl]
      obtain ⟨rfl, h1, h2⟩ := hl
      obtain ⟨i, rfl⟩ := Nat.exists_eq_add_of_le h1
      have hi : i < 8 := by omega
      have h1 : (e.leafAt + i = e.leafAt + 1) = (i = 1) := propext (by omega)
      simp only [Nat.add_sub_cancel_left, leOf_getD _ _ _ hi, true_and, h1]
      refine BitVec.eq_of_getLsbD_eq fun j hj => ?_
      have hold := testBit_readNat s (physLoc e.leafAt) hi hj
      rw [BitVec.getLsbD_ofNat, show 256 ^ i = 2 ^ (8 * i) from (pow_mul 2 8 i).symm, Nat.testBit_div_two_pow, add_comm j, BitVec.testBit_toNat,
        BitVec.getLsbD_or, getLsbD_dirtyMark, BitVec.getLsbD_ofNat]
      simp only [physLoc] at hold
      simp only [hold, hj, show 8 * i + j < 64 by omega, decide_true, Bool.true_and]
      split
      next h => simp only [BitVec.getLsbD_or, getLsbD_eight, show (8 * i + j = 11) = (j = 3) from propext (by omega)]
      next h => rw [decide_eq_false (by omega), Bool.or_false]
    · rw [if_neg hl, if_neg fun h => hl ⟨h.1, by omega, by omega⟩]
  · rw [if_neg hp, if_neg fun h => hp h.1]

theorem settleDirty_tlb (s : State) (e : TlbEntry) : (settleDirty s e).tlb = s.tlb := by
  unfold settleDirty
  split <;> rfl

theorem sameThreads_settleDirty (s : State) (e : TlbEntry) : SameThreads s (settleDirty s e) := by
  unfold settleDirty
  split
  · exact sameThreads_writeBytes s (physLoc e.leafAt) _
  · exact fun _ => rfl

theorem settleAll_tlb : ∀ (es : List TlbEntry) (s : State), (settleAll es s).tlb = s.tlb
  | [], _ => rfl
  | e :: es, s => (settleAll_tlb es _).trans (settleDirty_tlb s e)

theorem sameThreads_settleAll : ∀ (es : List TlbEntry) (s : State), SameThreads s (settleAll es s)
  | [], _ => fun _ => rfl
  | e :: es, s => sameThreads_trans (sameThreads_settleDirty s e) (sameThreads_settleAll es _)

/-- A bit once set stays; a byte that is no leaf's second is left alone. -/
theorem getLsbD_settleAll : ∀ (es : List TlbEntry) (s : State) (l : Loc),
    ((readByte s l).getLsbD 3 = true → (readByte (settleAll es s) l).getLsbD 3 = true)
  | [], _, _, h => h
  | e :: es, s, l, h => by
    refine getLsbD_settleAll es (settleDirty s e) l ?_
    rw [readByte_settleDirty]
    split
    · rw [BitVec.getLsbD_or, h, Bool.true_or]
    · exact h

theorem settleAll_marks : ∀ (es : List TlbEntry) (s : State), ∀ e ∈ es, e.pending = true →
    (readByte (settleAll es s) (physLoc (e.leafAt + 1))).getLsbD 3 = true
  | x :: es, s, e, he, hp => by
    obtain rfl | he := List.mem_cons.1 he
    · refine getLsbD_settleAll es _ _ ?_
      rw [readByte_settleDirty, if_pos ⟨hp, rfl⟩, BitVec.getLsbD_or, getLsbD_eight]
      simp
    · exact settleAll_marks es _ e he hp

theorem settleAll_other : ∀ (es : List TlbEntry) (s : State) (l : Loc),
    (∀ e ∈ es, e.pending = true → l ≠ physLoc (e.leafAt + 1)) → readByte (settleAll es s) l = readByte s l
  | [], _, _, _ => rfl
  | e :: es, s, l, h => by
    obtain ⟨he, hes⟩ := List.forall_mem_cons.1 h
    refine (settleAll_other es _ l hes).trans ?_
    rw [readByte_settleDirty, if_neg fun hc => he hc.1 hc.2]

/-! ### The statement -/

section
variable {s : State} {g : Gang} {c : ClauseRun} {os : List Opnd} {addr : Option Nat} {set : Thread → Nat → Nat → InvSet} {waits : Bool}
  {act : State → InvSet → Nat → State} (h : Issues s .none g c) (hw : windowOnce g (activeMask c) [] os = none) {ea : Dbl}
  (hea : (addr.map fun a => rdPair g.level (thr g (lowest (activeMask c))) a).getD 0 = ea)
include h hw hea

theorem invOp_not_canonical (hc : canonical ea = false) :
    invOp s os addr set waits act = .next (failAt s g c .none 0x13 ea (bitMask (lowest (activeMask c))) 0) := by
  simp only [invOp, issue_ok h, hw, hea, hc, Bool.not_false, if_true]

theorem invOp_not_global (hc : canonical ea = true) (ha : addr.isSome = true) (hg : apertureOf ea ≠ .global) :
    invOp s os addr set waits act = .next (failAt s g c .none 0x15 ea (bitMask (lowest (activeMask c))) 0) := by
  have hne : (addr.isSome && apertureOf ea != .global) = true := by rw [ha, Bool.true_and, bne_iff_ne]; exact hg
  simp only [invOp, issue_ok h, hw, hea, hc, Bool.not_true, Bool.false_eq_true, if_false, hne, if_true]

variable (hc : canonical ea = true) (hg : (addr.isSome && apertureOf ea != .global) = false) {k : InvSet}
  (hk : set (thr g (lowest (activeMask c))) g.level (vaOf ea) = k)
include hc hg hk

theorem invOp_waits (hwait : (waits && k != .empty && threadCopies s g.id (lowest (activeMask c))) = true) :
    invOp s os addr set waits act = .next (issued s { g with wait := .unit }) := by
  simp only [invOp, issue_ok h, hw, hea, hc, Bool.not_true, Bool.false_eq_true, if_false, hg, hk, hwait, if_true]

theorem invOp_acts (hwait : (waits && k != .empty && threadCopies s g.id (lowest (activeMask c))) = false) :
    invOp s os addr set waits act = .next (finishNow (act s k (launchD s g.launch).ctx) g.id c .none) := by
  simp only [invOp, issue_ok h, hw, hea, hc, Bool.not_true, Bool.false_eq_true, if_false, hg, hk, hwait]

end

/-- What `invalidateWhere` and `harvestWhere` do to memory, both settling the entries they name. -/
theorem settled_bytes (s : State) (p : TlbEntry → Bool) :
    (∀ e ∈ s.tlb, p e = true → e.pending = true → (readNat (settleAll (s.tlb.filter p) s) (physLoc e.leafAt) 8).testBit 11 = true) ∧
    (∀ l : Loc, (∀ e ∈ s.tlb, p e = true → e.pending = true → l ≠ physLoc (e.leafAt + 1)) →
      readByte (settleAll (s.tlb.filter p) s) l = readByte s l) := by
  refine ⟨fun e he hp hpend => ?_, fun l hl => settleAll_other _ _ _ fun e he => hl e (List.mem_filter.1 he).1 (List.mem_filter.1 he).2⟩
  have hbit := testBit_readNat (settleAll (s.tlb.filter p) s) (physLoc e.leafAt) (n := 8) (i := 1) (j := 3) (by omega) (by omega)
  exact hbit.trans (settleAll_marks _ _ e (List.mem_filter.2 ⟨he, hp⟩) hpend)

/-- An entry after its mark has been harvested (R208). -/
def harvested (p : TlbEntry → Bool) (e : TlbEntry) : TlbEntry :=
  if p e then { e with pending := false, leaf := if e.pending then e.leaf ||| 0x800#64 else e.leaf } else e

theorem harvestWhere_tlb (s : State) (p : TlbEntry → Bool) : (harvestWhere s p).tlb = s.tlb.map (harvested p) :=
  congrArg (List.map (harvested p)) (settleAll_tlb (s.tlb.filter p) s)

theorem invSet_has_iff (k : InvSet) (ctx : Nat) (e : TlbEntry) : InvSet.has k ctx e = true ↔
    e.ctx = ctx ∧ (k = .context ∨ ∃ lo n, k = .range lo n ∧ e.base < lo + n ∧ lo < e.base + e.size) := by
  cases k <;> simp [InvSet.has, TlbEntry.overlaps, and_assoc]

theorem finishNow_of_gangOf {s : State} {id : Nat} {g : Gang} (h : gangOf s id = some g) (c : ClauseRun) (cls : Cls) :
    finishNow s id c cls = finish s g c cls := by
  rw [finishNow, h]

theorem windowOnce_nil (g : Gang) (A : Word) : windowOnce g A [] [] = none := by
  have h : ((lanesOf A).filter fun l => (windowBad g.level g.nregs (thr g l) (if l = lowest A then [] ++ [] else [])).isSome) = [] :=
    List.filter_eq_nil_iff.2 fun l _ => by simp [windowBad]
  simp only [windowOnce, h]

/-- Settles O25: each form through what `invOp` answers, the marks by what settling them leaves. -/
theorem translationResults : Obligations.TranslationResults := by
  unfold Obligations.TranslationResults
  refine ⟨fun s g c a b h => ?_, fun s id g c cls hg => finishNow_of_gangOf hg c cls,
    fun s k ctx => ⟨invSet_has_iff k ctx, rfl, rfl⟩, fun s p t ht => ?_⟩
  · intro k ea ctx n va range
    have hrange : roundRange va n = range := rfl
    have hea : ((some a).map fun a => rdPair g.level (thr g (lowest (activeMask c))) a).getD 0 = ea := rfl
    have hglobal : apertureOf ea = .global → ((some a).isSome && apertureOf ea != .global) = false := fun hg => by simp [hg]
    have hidle : threadCopies s g.id k = false → ∀ x : InvSet, (true && x != .empty && threadCopies s g.id k) = false := fun ht x => by
      rw [ht, Bool.and_false]
    have hctx : windowOnce g (activeMask c) [] [] = none := windowOnce_nil g (activeMask c)
    refine ⟨fun hc hg ht => ⟨fun hw => ?_, fun hw => ?_⟩, fun hc hg => ⟨fun hw => ?_, fun hw => ?_⟩, fun hc hg ht hn hw => ?_,
      fun hc hg hn hw => ?_, fun ht => ?_, ?_, fun ht => ?_, fun hw hc => ⟨?_, ?_⟩, fun hw hc hg => ⟨?_, ?_⟩⟩
    · exact (exec_tlbInvPg a s).trans (invOp_acts h hw hea hc (hglobal hg) rfl (hidle ht _))
    · exact (exec_tlbInvRng b a s).trans (invOp_acts h hw hea hc (hglobal hg) hrange (hidle ht _))
    · exact (exec_dirtyHarvPg a s).trans (invOp_acts h hw hea hc (hglobal hg) rfl rfl)
    · exact (exec_dirtyHarvRng b a s).trans (invOp_acts h hw hea hc (hglobal hg) hrange rfl)
    · have hne : (range != .empty) = true := by simp only [range, if_neg hn, bne_iff_ne, ne_eq, reduceCtorEq, not_false_eq_true]
      exact (exec_tlbInvRng b a s).trans (invOp_waits h hw hea hc (hglobal hg) hrange (by rw [hne, ht]; rfl))
    · have hempty : range = .empty := if_pos hn
      exact (exec_tlbInvRng b a s).trans (invOp_acts h hw hea hc (hglobal hg) (hrange.trans hempty) rfl)
    · exact (exec_tlbInvCtx s).trans (invOp_acts (addr := none) (ea := 0) h hctx rfl rfl rfl rfl (hidle ht _))
    · exact (exec_dirtyHarvCtx s).trans (invOp_acts (addr := none) (ea := 0) h hctx rfl rfl rfl rfl rfl)
    · exact (exec_tlbInvCtx s).trans (invOp_waits (addr := none) (ea := 0) h hctx rfl rfl rfl rfl (by rw [ht]; rfl))
    · exact (exec_tlbInvPg a s).trans (invOp_not_canonical h hw hea hc)
    · exact (exec_dirtyHarvPg a s).trans (invOp_not_canonical h hw hea hc)
    · exact (exec_tlbInvPg a s).trans (invOp_not_global h hw hea hc rfl hg)
    · exact (exec_dirtyHarvPg a s).trans (invOp_not_global h hw hea hc rfl hg)
  · obtain ⟨hmarks, hother⟩ := settled_bytes s p
    have hsame := sameThreads_settleAll (s.tlb.filter p) s
    have htlb := settleAll_tlb (s.tlb.filter p) s
    have hinv : ∀ e, e ∈ (invalidateWhere s p).tlb ↔ e ∈ s.tlb ∧ p e = false := fun e => by
      simp only [invalidateWhere, htlb, List.mem_filter, Bool.not_eq_true']
    have hlen : (harvestWhere s p).tlb.length = s.tlb.length := by
      rw [harvestWhere_tlb, List.length_map]
    have hget : ∀ (i : Nat) e, s.tlb[i]? = some e → ∃ e', (harvestWhere s p).tlb[i]? = some e' ∧ (p e = false → e' = e) ∧
        (p e = true → e'.pending = false ∧ { e' with pending := e.pending, leaf := e.leaf } = e ∧
          e'.leaf = if e.pending then e.leaf ||| 0x800#64 else e.leaf) := fun i e he => by
      refine ⟨harvested p e, by simp only [harvestWhere_tlb, List.getElem?_map, he, Option.map_some], fun hp => ?_, fun hp => ?_⟩
      · rw [harvested, if_neg (by simp [hp])]
      · rw [harvested, if_pos hp]
        exact ⟨rfl, rfl, rfl⟩
    simp only [List.mem_cons, List.not_mem_nil, or_false] at ht
    obtain rfl | rfl := ht
    · exact ⟨hmarks, hother, hsame, hinv, hlen, hget⟩
    · exact ⟨hmarks, hother, hsame, hinv, hlen, hget⟩

end Sys2Proof.Machine
end

section

/-!
# Accesses: how they issue (R204, R245, R250)
-/

namespace Sys2Proof.Machine

-- One proof at a time: each waiting thread would reserve a stack of its own.
set_option Elab.async false

/-- Counting up changes the flags of a gang alone (R50). -/
theorem countUp_rest (g : Gang) (c : ClauseRun) (cls : Cls) : ∃ fl, countUp g c cls = { g with flags := fl } := by
  unfold countUp
  split
  · split
    · exact ⟨_, rfl⟩
    · exact ⟨_, rfl⟩
  · exact ⟨_, rfl⟩

theorem failsOf_checks {A : Word} {check : Nat → Except LaneFail Unit} :
    failsOf ((lanesOf A).map check) = [] ↔ ∀ l ∈ lanesOf A, check l = .ok () := by
  rw [failsOf_eq_nil, List.forall_mem_map]
  exact forall₂_congr fun l _ => ⟨fun ⟨_, h⟩ => h, fun h => ⟨_, h⟩⟩

/-- An instruction whose meaning is to issue an access, where it runs. -/
theorem accessIssues_of {i : Instr} {op : AccessOp} {check : State → Gang → Nat → Except LaneFail Unit} {runs : State → Gang → Prop}
    (he : ∀ s g c, issuer s = some (g, c) → runs s g → exec i s = issueAccess s op check) : AccessIssues i op check runs where
  issues s g c h hr hl := by
    obtain ⟨fl, hfl⟩ := countUp_rest g c op.cls
    have hf := failsOf_checks.2 hl
    refine ⟨_, { countUp g c op.cls with clause := some { c with counted := true }, pending := some { op := op, lanes := activeMask c } },
      (he s g c h.issuer hr).trans ?_, issued_only (issuer_gangOf h.issuer).2.1 ?_, rfl, rfl, ?_⟩
    · rw [issueAccess, issue_ok h]
      simp only [hf]
    · rw [hfl]
    · rw [hfl]
  fails s g c f fs h hr hf := by
    rw [he s g c h.issuer hr, issueAccess, issue_ok h]
    simp only [hf]
  waits s g c h hr := by rw [he s g c h.1 hr, issueAccess, issue_held h]

theorem accessIssues {i : Instr} {op : AccessOp} {check : State → Gang → Nat → Except LaneFail Unit} {f : State → Step}
    (he : ∀ s, exec i s = f s) (hf : ∀ s, f s = issueAccess s op check) : AccessIssues i op check :=
  accessIssues_of fun s _ _ _ _ => (he s).trans (hf s)

theorem unlessStopping_goes {s : State} {g : Gang} {c : ClauseRun} (hi : issuer s = some (g, c)) (hm : mustStop s g = false)
    (run : Host.Outcome State Fault Refusal) : unlessStopping s run = run := by
  rw [unlessStopping, hi]
  simp only [hm, Bool.false_eq_true, if_false]

/-- Settles O29: every form is `issueAccess` with its access and its checks. -/
theorem accessesIssue : Obligations.AccessesIssue := by
  unfold Obligations.AccessesIssue
  simp only [List.forall_mem_cons, List.not_mem_nil, IsEmpty.forall_iff, implies_true, and_true]
  refine ⟨fun o a d => ⟨⟨?_, ?_, ?_, ?_, ?_⟩, ?_, ?_, ⟨?_, ?_, ?_⟩, ?_, ?_, ?_, ?_, ?_, ?_⟩,
    fun b a d => ⟨⟨?_, ?_, ?_, ?_, ?_, ?_, ?_, ?_, ?_, ?_, ?_, ?_, ?_⟩, ⟨?_, ?_, ?_, ?_, ?_, ?_, ?_, ?_, ?_, ?_, ?_, ?_⟩,
      ?_, ?_, ?_, ?_, ?_, ?_, ?_, ?_, ?_, ?_, ?_, ?_⟩⟩
  · exact accessIssues (exec_ldB o a d) fun _ => rfl
  · exact accessIssues (exec_ldH o a d) fun _ => rfl
  · exact accessIssues (exec_ldW o a d) fun _ => rfl
  · exact accessIssues (exec_ldsB o a d) fun _ => rfl
  · exact accessIssues (exec_ldsH o a d) fun _ => rfl
  · exact accessIssues (exec_ldD o a d) fun _ => rfl
  · exact accessIssues (exec_ldsQ o a d) fun _ => rfl
  · exact accessIssues (exec_stB o a d) fun _ => rfl
  · exact accessIssues (exec_stH o a d) fun _ => rfl
  · exact accessIssues (exec_stW o a d) fun _ => rfl
  · exact accessIssues (exec_stD o a d) fun _ => rfl
  · exact accessIssues (exec_stQ o a d) fun _ => rfl
  · exact accessIssues (exec_ldAcqW o a d) fun _ => rfl
  · exact accessIssues (exec_ldAcqD o a d) fun _ => rfl
  · exact accessIssues (exec_stRelW o a d) fun _ => rfl
  · exact accessIssues (exec_stRelD o a d) fun _ => rfl
  · exact accessIssues (exec_atomAdd b a d) fun _ => rfl
  · exact accessIssues (exec_atomMin b a d) fun _ => rfl
  · exact accessIssues (exec_atomMax b a d) fun _ => rfl
  · exact accessIssues (exec_atomMinn b a d) fun _ => rfl
  · exact accessIssues (exec_atomMaxn b a d) fun _ => rfl
  · exact accessIssues (exec_atomAnd b a d) fun _ => rfl
  · exact accessIssues (exec_atomOr b a d) fun _ => rfl
  · exact accessIssues (exec_atomXor b a d) fun _ => rfl
  · exact accessIssues (exec_atomXchg b a d) fun _ => rfl
  · exact accessIssues (exec_atomInc b a d) fun _ => rfl
  · exact accessIssues (exec_atomCas b a d) fun _ => rfl
  · exact accessIssues (exec_atomFx b a d) fun _ => rfl
  · exact accessIssues (exec_atomAddD b a d) fun _ => rfl
  · exact accessIssues (exec_atomAddNr b a) fun _ => rfl
  · exact accessIssues (exec_atomMinNr b a) fun _ => rfl
  · exact accessIssues (exec_atomMaxNr b a) fun _ => rfl
  · exact accessIssues (exec_atomMinnNr b a) fun _ => rfl
  · exact accessIssues (exec_atomMaxnNr b a) fun _ => rfl
  · exact accessIssues (exec_atomAndNr b a) fun _ => rfl
  · exact accessIssues (exec_atomOrNr b a) fun _ => rfl
  · exact accessIssues (exec_atomXorNr b a) fun _ => rfl
  · exact accessIssues (exec_atomXchgNr b a) fun _ => rfl
  · exact accessIssues (exec_atomIncNr b a) fun _ => rfl
  · exact accessIssues (exec_atomFxNr b a) fun _ => rfl
  · exact accessIssues (exec_atomAddDNr b a) fun _ => rfl
  · exact accessIssues (exec_barInit b a) fun _ => rfl
  · exact accessIssues (exec_barArr a d) fun _ => rfl
  · exact accessIssues (exec_barArrb a d) fun _ => rfl
  · exact accessIssues (exec_barExp b a) fun _ => rfl
  · exact accessIssues_of fun s g c hi hm => (exec_take a d s).trans (unlessStopping_goes hi hm _)
  · exact accessIssues (exec_resolve b a) fun _ => rfl
  · exact accessIssues (exec_refAdd a d) fun _ => rfl
  · exact accessIssues (exec_refDrop a d) fun _ => rfl
  · exact accessIssues (exec_probe a d) fun _ => rfl
  · exact accessIssues (exec_tagSet a) fun _ => rfl
  · exact accessIssues (exec_tagSetr b a) fun _ => rfl
  · exact accessIssues (exec_tagGet a d) fun _ => rfl

/-! ### The steps of an access (R205, R311 to R326) -/

theorem takesNoMore_iff {s : State} {g : Gang} {p : Pending} (hp : g.pending = some p) :
    takesNoMore s g = true ↔ mustStop s g = true ∧ ∃ a d, p.op = .take a d := by
  unfold takesNoMore
  rw [hp, Option.map_some, Bool.and_eq_true]
  cases p.op <;> simp

theorem execAccessAtTarget_arrives {s : State} {id : Nat} {fly : Bool} (hf : s.focus = if fly then [id, 0, 1] else [id]) :
    execAccessAtTarget s = .next (arriveOrStop s id fly) := by
  cases fly <;> simp only [execAccessAtTarget, hf, Bool.false_eq_true, if_true, if_false]

section
variable {s : State} {id : Nat} {g : Gang} (hg : gangOf s id = some g)
include hg

theorem arriveOrStop_stops {fly : Bool} (h : takesNoMore s g = true) : arriveOrStop s id fly = stopGang s { g with pending := none } := by
  simp only [arriveOrStop, hg, h, if_true]

theorem arriveOrStop_goes {fly : Bool} (h : ¬ takesNoMore s g = true) : arriveOrStop s id fly = arriveNext s id fly := by
  simp only [arriveOrStop, hg, if_neg h]

variable {p : Pending} (hp : g.pending = some p)
include hp

theorem arriveNext_lane {fly : Bool} (hl : p.lanes ≠ 0) : arriveNext s id fly =
    let e := laneStep s g (fly && flies g) (lowest p.lanes) p.op
    let s2 := noteLane e.1 id (lowest p.lanes) e.2
    match (gangOf s2 id).bind Gang.pending with
    | some q => if q.lanes = 0 then settleAccess s2 id else s2
    | none => s2 := by
  simp only [arriveNext, hg, hp, if_neg hl] <;> rfl

theorem arriveNext_settles {fly : Bool} (hl : p.lanes = 0) : arriveNext s id fly = settleAccess s id := by
  simp only [arriveNext, hg, hp, if_pos hl]

variable {c : ClauseRun} (hc : g.clause = some c) (hh : c.hits = [])
include hc hh

theorem settleAccess_held (hf : p.flights ≠ []) (hw : p.failed ≠ [] ∨ p.beyond ≠ none) : settleAccess s id = s := by
  have hfl : p.flights.isEmpty = false := List.isEmpty_eq_false_iff.2 hf
  have hany : (!p.failed.isEmpty || p.beyond.isSome) = true := by
    obtain h | h := hw
    · simp [List.isEmpty_eq_false_iff.2 h]
    · simp [Option.isSome_iff_ne_none.2 h]
  have hw : settleWaits s g p ((g.clause.map ClauseRun.hits).getD []) = true := by
    simp only [settleWaits, hc, Option.map_some, Option.getD_some, hh, List.isEmpty_nil, Bool.not_true, Bool.or_false, hfl, Bool.not_false,
      Bool.true_and, hany, Bool.true_or]
  simp only [settleAccess, hg, hp, hw, if_true]

/-- With nothing outstanding an access without a hit settles: nothing of it waits for a link or an event. -/
theorem settleAccess_concludes (hf : p.flights = [] ∨ p.failed = [] ∧ p.beyond = none) (hw : p.failed ≠ [] ∨ p.waiting = 0) :
    settleAccess s id = concludeAccess s id := by
  have hlanes : p.failed = [] → p.waiting = 0 := fun h0 => hw.resolve_left fun h => h h0
  have hpark : (if p.failed.isEmpty then parkLanes s id p else s) = s := by
    split
    next he =>
      rw [parkLanes, hlanes (List.isEmpty_iff.1 he)]
      cases p.op <;> rfl
    next => rfl
  have hnone : (!p.flights.isEmpty && (!p.failed.isEmpty || p.beyond.isSome)) = false := by
    obtain h | ⟨h1, h2⟩ := hf
    · simp [h]
    · simp [h1, h2]
  have hsw : settleWaits s g p ((g.clause.map ClauseRun.hits).getD []) = false := by
    simp only [settleWaits, hc, Option.map_some, Option.getD_some, hh, stopHeld, List.isEmpty_nil, Bool.not_true, Bool.or_false,
      Bool.false_and, hnone, Bool.false_or]
    cases he : p.failed.isEmpty
    · rfl
    · rw [hlanes (List.isEmpty_iff.1 he)]
      cases p.op <;> rfl
  simp only [settleAccess, hg, hp, hsw, Bool.false_eq_true, if_false, hpark]

theorem settleAccess_fails {f : LaneFail} {fs : List LaneFail} (hf : p.failed = f :: fs) (hfl : p.flights = []) (hb : p.beyond = none) :
    settleAccess s id = failKeeping s { g with pending := none } c p.op.cls (f :: fs) p.done := by
  rw [settleAccess_concludes hg hp hc hh (.inl hfl) (.inl (by simp [hf]))]
  simp only [concludeAccess, hg, hp, hc, hf, List.isEmpty_cons, Bool.not_false, if_true, haltDue, hb]

theorem settleAccess_completes (hf : p.failed = []) (hw : p.waiting = 0) (hb : p.beyond = none) (hfl : p.flights = []) :
    settleAccess s id = complete (setGang s { g with pending := none }) { g with pending := none } c p.op.cls := by
  rw [settleAccess_concludes hg hp hc hh (.inl hfl) (.inr hw)]
  simp only [concludeAccess, hg, hp, hc, hf, hw, hfl, hb, List.isEmpty_nil, Bool.not_true, Bool.false_eq_true, if_false, bne_self_eq_false]

theorem settleAccess_leaves (hf : p.failed = []) (hw : p.waiting = 0) (hb : p.beyond = none) (hfl : p.flights ≠ []) :
    settleAccess s id = setGang s (stepPast (leaveOut { g with pending := none } c p.op.cls p.flights) c) := by
  have hne : p.flights.isEmpty = false := List.isEmpty_eq_false_iff.2 hfl
  rw [settleAccess_concludes hg hp hc hh (.inr ⟨hf, hb⟩) (.inr hw)]
  simp only [concludeAccess, hg, hp, hc, hf, hw, hne, List.isEmpty_nil, Bool.not_true, Bool.not_false, Bool.false_eq_true, if_false,
    bne_self_eq_false, if_true]

end

/-! ### What keeps an outstanding access back (R311, R313, R320, R324) -/

theorem travels_iff (s : State) (f : Flight) : f.travels s = true ↔
    (f.loc.place = .phys → linkOpen s f.loc.off f.channel = true ∧ linkOpen s f.loc.off channelResponse = true) := by
  unfold Flight.travels
  cases f.loc.place <;> simp

theorem returns_iff (f : Flight) : f.returns = true ↔
    match f.op with | .atom _ ret _ _ _ => ret = true | .store _ _ _ _ => False | _ => True := by
  unfold Flight.returns
  cases f.op <;> simp [AccessOp.fetches]

theorem sameRemote_iff (s : State) (core : Nat) (e f : Flight) : sameRemote s core e f = true ↔ e.stores = true ∧ f.stores = true ∧
    ∃ k, placeCore s e.loc.place = some k ∧ placeCore s f.loc.place = some k ∧ k ≠ core := by
  unfold sameRemote
  cases placeCore s e.loc.place
  · simp
  · simp only [Bool.and_eq_true, bne_iff_ne, beq_iff_eq, Option.some.injEq, exists_eq_left', and_assoc, and_comm (a := _ ≠ core), ne_eq]

theorem forwards_iff (e f : Flight) : forwards e f = true ↔
    (∃ n o a d, e.op = .store n o a d) ∧ (∃ n o sg a d, f.op = .load n o sg a d) ∧ e.kind ≠ 0 ∧ f.kind ≠ 0 := by
  unfold forwards
  cases e.op <;> cases f.op <;> simp

theorem mayPass_iff (e f : Flight) : mayPass e f = true ↔
    max e.kind f.kind = 2 ∨ max e.kind f.kind = 1 ∧ (e.returns = false ∨ f.stores = false) := by
  simp only [mayPass, Bool.or_eq_true, Bool.and_eq_true, decide_eq_true_eq, Bool.not_eq_true', Bool.and_eq_false_iff]

theorem keepsBack_eq_false_iff (s : State) (core : Nat) (same : Bool) (e f : Flight) : keepsBack s core same e f = false ↔
    (e.lane = f.lane → e.meets f = true → forwards e f = true) ∧
    (e.lane = f.lane → e.meets f = false → mayPass e f = true ∧ sameRemote s core e f = false) ∧
    (e.lane ≠ f.lane → same = true → e.meets f = false ∧ e.rel = false ∧ sameRemote s core e f = false) := by
  unfold keepsBack
  by_cases hl : e.lane = f.lane
  · cases e.meets f <;> simp [hl]
  · simp [hl, and_assoc]

theorem performable_iff (s : State) (core : Nat) (earlier : List (Nat × Flight)) (i : Nat) (f : Flight) :
    performable s core earlier i f = true ↔ f.travels s = true ∧ ∀ x ∈ earlier, keepsBack s core (x.1 == i) x.2 f = false := by
  rw [performable, Bool.and_eq_true, Bool.not_eq_true', List.any_eq_false]
  simp only [Bool.not_eq_true]

theorem performNth_of_get {s : State} {id k i : Nat} {g : Gang} {f : Flight} (hg : gangOf s id = some g)
    (hk : (outstanding g)[k]? = some (i, f)) : performNth s id k =
    if performable s g.core ((outstanding g).take k) i f then
      modGang (performFlight s g ((outstanding g).take k) f).1 id fun x => takeFlight x i f (performFlight s g ((outstanding g).take k) f).2
    else s := by
  simp only [performNth, hg, hk]

/-- Settles O30: each way of an access to go on, by the function that takes it. -/
theorem accessSteps : Obligations.AccessSteps := by
  unfold Obligations.AccessSteps
  intro s id g hg
  refine ⟨fun p fly hp hf => ?_, fun k i f hf hk => ?_, fun f => ⟨travels_iff s f, (returns_iff f).trans ?_⟩,
    sameRemote_iff s g.core⟩
  · have he : exec .accessAtTarget s = .next (arriveOrStop s id fly) := (exec_accessAtTarget s).trans (execAccessAtTarget_arrives hf)
    rw [he]
    refine ⟨fun hm ht => by rw [arriveOrStop_stops hg ((takesNoMore_iff hp).2 ⟨hm, ht⟩)], fun hgo => ?_⟩
    have hno : ¬ takesNoMore s g = true := fun h => by
      obtain ⟨hm, a, d, ht⟩ := (takesNoMore_iff hp).1 h
      obtain h1 | h1 := hgo
      · simp [h1] at hm
      · exact h1 a d ht
    rw [arriveOrStop_goes hg hno]
    refine ⟨fun hl => congrArg Host.Outcome.next (arriveNext_lane hg hp hl), fun hl => by rw [arriveNext_settles hg hp hl], fun c hc hh hl => ?_⟩
    rw [arriveNext_settles hg hp hl]
    exact ⟨fun h1 h2 => by rw [settleAccess_held hg hp hc hh h1 h2], fun f fs h1 h2 h3 => by rw [settleAccess_fails hg hp hc hh h1 h2 h3],
      fun h1 h2 h3 => ⟨fun h4 => by rw [settleAccess_completes hg hp hc hh h1 h2 h3 h4],
        fun h4 => by rw [settleAccess_leaves hg hp hc hh h1 h2 h3 h4]⟩⟩
  · intro earlier r
    have he : exec .accessAtTarget s = .next (performNth s id k) := by
      rw [exec_accessAtTarget, execAccessAtTarget, hf]
    rw [he, performNth_of_get hg hk]
    refine ⟨fun h => by rw [if_pos h], fun h => by rw [if_neg (by simp [earlier, h])], ?_⟩
    rw [performable_iff]
    simp only [keepsBack_eq_false_iff, forwards_iff, mayPass_iff, beq_iff_eq, Prod.forall]
  · rfl

end Sys2Proof.Machine
end

section

/-!
# Translation (R195 to R200): what it leaves, and the entry it leaves behind
-/

namespace Sys2Proof.Machine

-- One proof at a time: each waiting thread would reserve a stack of its own.
set_option Elab.async false

/-! ### What a translation may change -/

/-- The state `t` with the fields that a translation may change taken from `s`. -/
def untranslated (s t : State) : State :=
  { t with mem := s.mem, past := s.past, poison := s.poison, tlb := s.tlb, fresh := s.fresh, gangs := s.gangs }

/-- The gangs differ in what they wait for alone. -/
def Woken (gs gs' : List Gang) : Prop := ∃ f : Cond → Cond, gs' = gs.map (Gang.mapConds f)

theorem mapCond_id (w : Wait) : w.mapCond id = w := by cases w <;> rfl

theorem mapCond_comp (f h : Cond → Cond) (w : Wait) : (w.mapCond f).mapCond h = w.mapCond (h ∘ f) := by cases w <;> rfl

theorem mapConds_id (g : Gang) : g.mapConds id = g := by
  have h : (fun b : Bank => { b with wait := b.wait.mapCond id }) = id := funext fun b => by rw [mapCond_id]; rfl
  unfold Gang.mapConds
  rw [mapCond_id, mapCond_id, h, Option.map_id, id, id]

theorem mapConds_comp (f h : Cond → Cond) (g : Gang) : (g.mapConds f).mapConds h = g.mapConds (h ∘ f) := by
  simp only [Gang.mapConds, mapCond_comp, Option.map_map, Function.comp_def]

theorem woken_refl (gs : List Gang) : Woken gs gs := ⟨id, (List.map_id'' mapConds_id gs).symm⟩

theorem Woken.trans {gs hs ks : List Gang} (h : Woken gs hs) (k : Woken hs ks) : Woken gs ks := by
  obtain ⟨f, rfl⟩ := h
  obtain ⟨f', rfl⟩ := k
  exact ⟨f' ∘ f, by simp [List.map_map, Function.comp_def, mapConds_comp]⟩

theorem Woken.gangOf {s t : State} (h : Woken s.gangs t.gangs) : ∃ f : Cond → Cond, ∀ id, gangOf t id = (gangOf s id).map (Gang.mapConds f) := by
  obtain ⟨f, hf⟩ := h
  refine ⟨f, fun id => ?_⟩
  rw [Machine.gangOf, hf]
  exact findBy_map (key := Gang.id) (f := Gang.mapConds f) (fun _ => rfl) id s.gangs

theorem Woken.threads {s t : State} (h : Woken s.gangs t.gangs) : SameThreads s t := fun id => by
  obtain ⟨f, hf⟩ := h.gangOf
  rw [hf]
  cases Machine.gangOf s id <;> rfl

/-- Only memory and what hangs on it, the translation buffers, the source of free choices and what gangs wait for have changed. -/
structure Translates (s t : State) : Prop where
  rest : untranslated s t = s
  woken : Woken s.gangs t.gangs

namespace Translates
variable {s t u : State}

theorem of_gangs (hr : untranslated s t = s) (hg : t.gangs = s.gangs) : Translates s t := ⟨hr, hg ▸ woken_refl _⟩

theorem refl (s : State) : Translates s s := of_gangs rfl rfl

theorem trans (h : Translates s t) (k : Translates t u) : Translates s u where
  rest := (congrArg (untranslated s) k.rest).trans h.rest
  woken := h.woken.trans k.woken

theorem launches (h : Translates s t) : t.launches = s.launches := (congrArg State.launches h.rest : (untranslated s t).launches = s.launches)
theorem blocks (h : Translates s t) : t.blocks = s.blocks := (congrArg State.blocks h.rest : (untranslated s t).blocks = s.blocks)
theorem cores (h : Translates s t) : t.cores = s.cores := (congrArg State.cores h.rest : (untranslated s t).cores = s.cores)
theorem dies (h : Translates s t) : t.dies = s.dies := (congrArg State.dies h.rest : (untranslated s t).dies = s.dies)

theorem launchD (h : Translates s t) (id : Nat) : launchD t id = Machine.launchD s id := by
  unfold Machine.launchD launchOf
  rw [h.launches]

end Translates

theorem translates_writeBytes_phys (s : State) (a : Nat) (bs : List Byte) : Translates s (writeBytes s (physLoc a) bs) :=
  ⟨rfl, _, rfl⟩

theorem translates_pick (s : State) (n : Nat) : Translates s (pick s n).2 := by
  unfold pick
  split <;> exact .of_gangs rfl rfl

theorem pick_tlb (s : State) (n : Nat) : (pick s n).2.tlb = s.tlb := by
  unfold pick
  split <;> rfl

theorem translates_tlb (s : State) (es : List TlbEntry) : Translates s { s with tlb := es } := .of_gangs rfl rfl

theorem translates_settleDirty (s : State) (e : TlbEntry) : Translates s (settleDirty s e) := by
  unfold settleDirty
  split
  · exact translates_writeBytes_phys ..
  · exact .refl s

theorem translates_putEntry (e : TlbEntry) (s : State) (b : Nat × Nat) : Translates s (putEntry e s b) := by
  refine Translates.trans (t := _) ?_ (translates_tlb _ _)
  split
  · unfold pickFrom
    split
    next h =>
      obtain ⟨-, rfl⟩ := Prod.mk.inj h
      exact ((translates_pick _ _).trans (translates_settleDirty _ _)).trans (translates_tlb _ _)
    next h =>
      obtain ⟨-, rfl⟩ := Prod.mk.inj h
      exact translates_pick _ _
  · exact .refl s

theorem translates_foldl_putEntry (e : TlbEntry) : ∀ (bs : List (Nat × Nat)) (s : State), Translates s (bs.foldl (putEntry e) s)
  | [], s => .refl s
  | b :: bs, s => (translates_putEntry e s b).trans (translates_foldl_putEntry e bs _)

theorem translates_fillTlb (s : State) (q : Asker) (ctx va at_ size : Nat) (entry : Dbl) :
    Translates s (fillTlb s q ctx va at_ size entry) := by
  refine Translates.trans ?_ (translates_foldl_putEntry _ _ _)
  split
  · exact .refl s
  · exact translates_writeBytes_phys ..

theorem translates_translateNew (s : State) (q : Asker) (ctx va : Nat) : Translates s (translateNew s q ctx va).1 := by
  unfold translateNew
  split
  · exact translates_fillTlb ..
  all_goals exact .refl s

theorem translates_useEntry (s : State) (q : Asker) (va : Nat) (e : TlbEntry) : Translates s (useEntry s q va e).1 := by
  unfold useEntry
  split
  · exact .refl s
  · exact translates_foldl_putEntry ..

/-- A translation is a new walk, or the use of an entry that is found, with a free choice made or not. -/
theorem translate_cases (s : State) (q : Asker) (ctx va : Nat) :
    (∃ t, (t = s ∨ ∃ n, t = (pick s n).2) ∧ translate s q ctx va = translateNew t q ctx va) ∨
    ∃ t, (t = s ∨ ∃ n, t = (pick s n).2) ∧ ∃ e ∈ found s q ctx va, translate s q ctx va = useEntry t q va e := by
  unfold translate
  cases hf : found s q ctx va with
  | nil => exact .inl ⟨s, .inl rfl, rfl⟩
  | cons e es =>
    dsimp only
    split
    · exact .inr ⟨s, .inl rfl, e, List.mem_cons_self, rfl⟩
    · split
      next x hx => exact .inr ⟨_, .inr ⟨_, rfl⟩, x, List.mem_of_getElem? hx, rfl⟩
      · exact .inl ⟨_, .inr ⟨_, rfl⟩, rfl⟩

theorem translates_of_picked {s t : State} (h : t = s ∨ ∃ n, t = (pick s n).2) : Translates s t ∧ t.tlb = s.tlb := by
  obtain rfl | ⟨n, rfl⟩ := h
  · exact ⟨.refl _, rfl⟩
  · exact ⟨translates_pick _ _, pick_tlb _ _⟩

theorem translates_translate (s : State) (q : Asker) (ctx va : Nat) : Translates s (translate s q ctx va).1 := by
  obtain ⟨t, ht, he⟩ | ⟨t, ht, e, -, he⟩ := translate_cases s q ctx va
  · rw [he]
    exact (translates_of_picked ht).1.trans (translates_translateNew ..)
  · rw [he]
    exact (translates_of_picked ht).1.trans (translates_useEntry ..)

/-! ### The entry that a translation leaves (R198) -/

/-- The asker's buffers hold an entry that gives the address. -/
def Buffered (s : State) (q : Asker) (ctx va pa : Nat) : Prop := ∃ e ∈ found s q ctx va, paOf e.leaf e.size va = pa

theorem mem_found {s : State} {q : Asker} {ctx va : Nat} {e : TlbEntry} : e ∈ found s q ctx va ↔
    e ∈ s.tlb ∧ (e.level, e.holder) ∈ q.levels ∧ e.covers q.die ctx va = true := by
  simp only [found, List.mem_flatMap, List.mem_filter, TlbEntry.inBuffer, Bool.and_eq_true, beq_iff_eq]
  constructor
  · rintro ⟨b, hb, he, ⟨h1, h2⟩, hc⟩
    exact ⟨he, by rw [h1, h2]; exact hb, hc⟩
  · rintro ⟨he, hb, hc⟩
    exact ⟨_, hb, he, ⟨rfl, rfl⟩, hc⟩

/-- Putting an entry into one buffer after the other leaves it in the last. -/
theorem mem_tlb_foldl_putEntry (e : TlbEntry) (s : State) (bs : List (Nat × Nat)) (b : Nat × Nat) :
    { e with level := b.1, holder := b.2, pending := false } ∈ ((bs ++ [b]).foldl (putEntry e) s).tlb := by
  rw [List.foldl_append]
  exact List.mem_cons_self

theorem levels_ne_nil (q : Asker) : ∃ b bs, q.levels = b :: bs := by cases q <;> exact ⟨_, _, rfl⟩

theorem buffered_foldl_putEntry {q : Asker} {ctx va : Nat} {e : TlbEntry} {s : State} {b : Nat × Nat} {bs : List (Nat × Nat)}
    (hb : b ∈ q.levels) (hc : e.covers q.die ctx va = true) :
    Buffered ((b :: bs).reverse.foldl (putEntry e) s) q ctx va (paOf e.leaf e.size va) := by
  rw [List.reverse_cons]
  exact ⟨_, mem_found.2 ⟨mem_tlb_foldl_putEntry e s _ b, hb, hc⟩, rfl⟩

theorem pageSize_pos (level : Nat) (grouped : Bool) : 0 < pageSize level grouped := by
  unfold pageSize
  split <;> positivity

theorem leafEnd_size {s : State} {at_ : Nat} {e : Dbl} {level : Nat} {grouped : Bool} {a size : Nat} {x : Dbl}
    (h : leafEnd s at_ e level grouped = .leaf a x size) : 0 < size := by
  simp only [leafEnd] at h
  split_ifs at h
  obtain ⟨-, -, rfl⟩ := WalkEnd.leaf.inj h
  exact pageSize_pos ..

/-- A walk of a table whose lower tables end in leaves of a positive size does so too. -/
theorem walkEntry_size {s : State} {va level table at_ size : Nat} {e : Dbl} {next : Nat → WalkEnd}
    (hnext : ∀ t, next t = .leaf at_ e size → 0 < size) (h : walkLevel.walkEntry s va level table next = .leaf at_ e size) : 0 < size := by
  simp only [walkLevel.walkEntry] at h
  split_ifs at h
  · exact leafEnd_size h
  · exact leafEnd_size h
  · exact hnext _ h

theorem walkLevel_size {s : State} {va at_ size : Nat} {e : Dbl} : ∀ {level table : Nat},
    walkLevel s va level table = .leaf at_ e size → 0 < size
  | 0, _, h => walkEntry_size (fun _ h => by cases h) h
  | _ + 1, _, h => walkEntry_size (fun _ h => walkLevel_size h) h

theorem walk_size {s : State} {d ctx va at_ size : Nat} {e : Dbl} (h : walk s d ctx va = .leaf at_ e size) : 0 < size := by
  unfold walk at h
  split at h
  · cases h
  · split_ifs at h
    exact walkLevel_size h

theorem translateNew_buffered {s : State} {q : Asker} {ctx va pa : Nat} {x : Dbl} (h : (translateNew s q ctx va).2 = .ok pa x) :
    Buffered (translateNew s q ctx va).1 q ctx va pa := by
  unfold translateNew at h ⊢
  split at h
  next at_ e size hw =>
    have hsize := walk_size hw
    cases h
    obtain ⟨b, bs, hq⟩ := levels_ne_nil q
    dsimp only [fillTlb]
    rw [hq]
    refine buffered_foldl_putEntry (e := { die := q.die, ctx := ctx, base := va / size * size, size := size, leafAt := at_, leaf := x })
      (hq ▸ List.mem_cons_self) ?_
    have h1 := Nat.div_mul_le_self va size
    have h2 := Nat.lt_div_mul_add (a := va) hsize
    simp [TlbEntry.covers, h1, h2]
  all_goals cases h

theorem useEntry_buffered {s : State} {q : Asker} {ctx va pa : Nat} {x : Dbl} {e : TlbEntry} (he : e ∈ found s q ctx va)
    (h : (useEntry s q va e).2 = .ok pa x) : Buffered (useEntry s q va e).1 q ctx va pa := by
  obtain ⟨hmem, hlev, hcov⟩ := mem_found.1 he
  unfold useEntry at h ⊢
  split_ifs at h
  next hp =>
    cases h
    rw [if_neg hp]
    obtain hl | ⟨b, bs, hl⟩ : q.levels.filter (fun b => decide (b.1 < e.level)) = [] ∨
        ∃ b bs, q.levels.filter (fun b => decide (b.1 < e.level)) = b :: bs := by
      cases q.levels.filter fun b => decide (b.1 < e.level)
      · exact .inl rfl
      · exact .inr ⟨_, _, rfl⟩
    · rw [hl]
      exact ⟨e, he, rfl⟩
    · have hb : b ∈ q.levels := (List.mem_filter.1 (hl ▸ List.mem_cons_self)).1
      rw [hl]
      exact buffered_foldl_putEntry hb hcov

theorem found_congr {s t : State} (h : t.tlb = s.tlb) (q : Asker) (ctx va : Nat) : found t q ctx va = found s q ctx va := by
  simp only [found, h]

/-- What a translation gives an entry of the asker's buffers gives afterwards. -/
theorem translate_buffered {s : State} {q : Asker} {ctx va pa : Nat} {x : Dbl} (h : (translate s q ctx va).2 = .ok pa x) :
    Buffered (translate s q ctx va).1 q ctx va pa := by
  obtain ⟨t, ht, he⟩ | ⟨t, ht, e, hmem, he⟩ := translate_cases s q ctx va
  · rw [he] at h ⊢
    exact translateNew_buffered h
  · rw [he] at h ⊢
    refine useEntry_buffered ?_ h
    rwa [found_congr (translates_of_picked ht).2]

/-! ### Where an access of a lane arrives (R199, R205) -/

theorem globalAccess_ok {s s1 : State} {q : Asker} {L : Launch} {ea leaf : Dbl} {n src pa : Nat} {need : Needs}
    (h : globalAccess s q L ea n need src = (s1, .ok pa leaf)) : Translates s s1 ∧ Buffered s1 q L.ctx (vaOf ea) pa := by
  have ht := translates_translate s q L.ctx (vaOf ea)
  have hb := fun pa x => translate_buffered (s := s) (q := q) (ctx := L.ctx) (va := vaOf ea) (pa := pa) (x := x)
  unfold globalAccess at h
  dsimp only at h
  split at h
  · cases h
  split at h
  · cases h
  split at h
  · cases h
  next t p e hx =>
    simp only [hx] at ht hb
    split at h
    · cases h
    split at h
    · cases h
    split at h
    · cases h
    split at h
    · cases h
    · cases h
      exact ⟨ht, hb _ _ rfl⟩

section
variable {s s1 : State} {g : Gang} {lane n : Nat} {ea : Dbl} {need : Needs}

theorem arrive_glob {pa : Nat} {leaf : Dbl} (h : arrive s g lane ea n need = (s1, .ok (.glob pa leaf))) :
    Translates s s1 ∧ Buffered s1 (.core g.core) (launchD s g.launch).ctx (vaOf ea) pa := by
  unfold arrive at h
  split at h
  · split at h
    · cases h
    next t p e hx =>
      cases h
      exact globalAccess_ok hx
  · split at h <;> cases h

theorem arrive_core_ok {l : Loc} (h : arrive s g lane ea n need = (s1, .ok (.core l))) :
    s1 = s ∧ onCoreLoc s g lane ea n true = some l := by
  unfold arrive at h
  split at h
  · split at h <;> cases h
  · split at h
    · cases h
    next k hk =>
      cases h
      refine ⟨rfl, ?_⟩
      unfold arriveOnCore at hk
      split at hk
      · cases hk
      next m hm =>
        split at hk
        · cases hk
        split at hk
        · cases hk
        · cases hk
          exact hm

/-- An access that has arrived has changed what a translation may, and its place exists. -/
theorem arrive_ok {t : Target} (h : arrive s g lane ea n need = (s1, .ok t)) (hg : gangOf s1 g.id = some g) :
    Translates s s1 ∧ HasPlace s1 t.loc.place := by
  cases t with
  | glob pa leaf => exact ⟨(arrive_glob h).1, trivial⟩
  | core l =>
    obtain ⟨rfl, hl⟩ := arrive_core_ok h
    exact ⟨.refl _, (onCoreLoc_place hg hl).1⟩

end

/-! ### Writing at a target (R200) -/

/-- A write through an entry that stands in the buffers leaves its mark there, and no byte more. -/
theorem markDirty_buffered {s : State} {q : Asker} {ctx va pa : Nat} (h : Buffered s q ctx va pa) :
    ∃ es, markDirty s q ctx va pa = { s with tlb := es } := by
  obtain ⟨e, he, hpa⟩ := h
  unfold markDirty
  split
  next x hx =>
    split
    · exact ⟨s.tlb, rfl⟩
    · exact ⟨_, rfl⟩
  next hx =>
    have := List.find?_eq_none.1 hx e he
    simp [hpa] at this

theorem sameThreads_refl (s : State) : SameThreads s s := fun _ => rfl

section
variable {s s1 : State} {g : Gang} {lane n : Nat} {ea : Dbl} {need : Needs} {t : Target}

/-- Writing at a target that an access has arrived at writes its bytes; beside them only marks in the buffers change. -/
theorem writeAt_arrived (h : arrive s g lane ea n need = (s1, .ok t)) (bs : List Byte) :
    ∃ es, writeAt s1 g ea t bs = { writeBytes s1 t.loc bs with tlb := es } := by
  cases t with
  | core l => exact ⟨_, rfl⟩
  | glob pa leaf =>
    obtain ⟨ht, hb⟩ := arrive_glob h
    have hb' : Buffered (writeBytes s1 (physLoc pa) bs) (.core g.core) (ctxOf s1 g) (vaOf ea) pa := by
      rw [ctxOf, ht.launchD]
      exact hb
    exact markDirty_buffered hb'

theorem readNat_writeBytes_leOf {s : State} {l : Loc} (h : HasPlace s l.place) {n x : Nat} (hx : x < 256 ^ n) :
    readNat (writeBytes s l (leOf n x)) l n = x :=
  (readNat_writeNat s l n x h).trans (Nat.mod_eq_of_lt hx)

end

end Sys2Proof.Machine
end

section

/-!
# Loads and stores (R200, R204, R205, R309, R311)
-/

namespace Sys2Proof.Machine

-- One proof at a time: each waiting thread would reserve a stack of its own.
set_option Elab.async false

/-! ### Changing one thread -/

theorem setAt_length {α : Type} (v : α) : ∀ (l : List α) (n : Nat), (setAt l n v).length = l.length
  | [], _ => rfl
  | _ :: _, 0 => rfl
  | _ :: t, n + 1 => congrArg Nat.succ (setAt_length v t n)

theorem setAt_getElem? {α : Type} (v : α) : ∀ (l : List α) (n k : Nat), (setAt l n v)[k]? = if k = n ∧ n < l.length then some v else l[k]?
  | [], n, k => by simp [setAt]
  | h :: t, 0, 0 => by simp [setAt]
  | h :: t, 0, k + 1 => by simp [setAt]
  | h :: t, n + 1, 0 => by simp [setAt]
  | h :: t, n + 1, k + 1 => by
    simp only [setAt, List.getElem?_cons_succ, setAt_getElem? v t n k, List.length_cons, Nat.add_right_cancel_iff, Nat.add_lt_add_iff_right]

theorem thr_modThread (g : Gang) (l k : Nat) (f : Thread → Thread) :
    thr (modThread g l f) k = if k = l ∧ l < g.threads.length then f (thr g l) else thr g k := by
  simp only [thr, modThread, setAt_getElem?]
  split <;> rfl

/-- Changing the thread of a lane changes nothing else. -/
theorem onlyThread_modThread {s : State} {g : Gang} {lane : Nat} (hg : gangOf s g.id = some g) (hl : lane < g.threads.length)
    (f : Thread → Thread) : OnlyThread s (modGang s g.id fun y => modThread y lane f) g lane (f (thr g lane)) := by
  refine ⟨rfl, fun h hh => ?_, modThread g lane f, ?_, rfl, ?_, fun k hk => ?_⟩
  · rw [gangOf_modGang _ _ _ _ (modThread_id · lane f), if_neg hh]
  · rw [gangOf_modGang _ _ _ _ (modThread_id · lane f), if_pos rfl, hg]
    rfl
  · rw [thr_modThread, if_pos ⟨rfl, hl⟩]
  · rw [thr_modThread, if_neg fun h => hk h.1]

/-! ### Numbers and their bytes -/

theorem readNat_lt (s : State) (l : Loc) (n : Nat) : readNat s l n < 256 ^ n := by
  have h : ∀ (n a : Nat) (m : FMap Byte), rdLE m a n < 256 ^ n := by
    intro n
    induction n with
    | zero => simp [rdLE]
    | succ n ih =>
      intro a m
      have h1 := (rdByte m a).isLt
      have h2 := ih (a + 1) m
      rw [rdLE, pow_succ]
      omega
  exact h n l.off _

theorem sext_offset (off : Nat) : sext off 10 = if off % 1024 < 512 then ((off % 1024 : Nat) : Int) else ((off % 1024 : Nat) : Int) - 1024 := rfl

/-- The value of a load of at most a word: extended by zeros or by the sign. -/
theorem loadValue_eq {size x : Nat} (hx : x < 2 ^ (8 * size)) (sg : Bool) : loadValue size sg x =
    if sg then BitVec.ofInt 32 (if x < 2 ^ (8 * size - 1) then (x : Int) else (x : Int) - 2 ^ (8 * size)) else BitVec.ofNat 32 x := by
  unfold loadValue
  rw [sext_of_lt hx]
  rfl

/-! ### Quads (R57) -/

theorem rdPhys_wrQuad (t : Thread) (d x k : Nat) : rdPhys (wrQuad t d x) k =
    if d ≠ 0 ∧ t.wbase + d ≤ k ∧ k < t.wbase + d + 4 then BitVec.ofNat 32 (x / 2 ^ (32 * (k - (t.wbase + d)))) else rdPhys t k := by
  unfold wrQuad
  by_cases hd : d = 0
  · simp only [hd, if_true, ne_eq, not_true_eq_false, false_and, if_false]
  simp only [hd, if_false, rdPhys_wrPhys, ne_eq, not_false_eq_true, true_and]
  by_cases hk : t.wbase + d ≤ k ∧ k < t.wbase + d + 4
  · rw [if_pos hk]
    obtain ⟨i, rfl⟩ := Nat.exists_eq_add_of_le hk.1
    have hi : i < 4 := by omega
    rw [Nat.add_sub_cancel_left]
    interval_cases i <;> simp
  · rw [if_neg hk]
    repeat rw [if_neg (by omega)]

theorem sameButRegs_wrQuad (t : Thread) (d x : Nat) : SameButRegs t (wrQuad t d x) ∧ (wrQuad t d x).save1 = t.save1 ∧
    (wrQuad t d x).save2 = t.save2 := by
  unfold wrQuad
  split <;> exact ⟨rfl, rfl, rfl⟩

theorem rdQuad_lt (t : Thread) (d : Nat) : rdQuad t d < 256 ^ 16 := by
  unfold rdQuad
  split
  · positivity
  · have h0 := (rdPhys t (t.wbase + d)).isLt
    have h1 := (rdPhys t (t.wbase + d + 1)).isLt
    have h2 := (rdPhys t (t.wbase + d + 2)).isLt
    have h3 := (rdPhys t (t.wbase + d + 3)).isLt
    omega

/-! ### An access with nothing outstanding, and one that stays outstanding (R311) -/

theorem canPerform_of_none_outstanding {s : State} {g : Gang} {f : Flight} (ho : outstanding g = [])
    (hl : f.loc.place = .phys → ∀ k, linkOpen s f.loc.off k = true) : canPerform s g f = true := by
  rw [canPerform, performable_iff, ho]
  exact ⟨(travels_iff s f).2 fun hp => ⟨hl hp _, hl hp _⟩, fun x hx => by cases hx⟩

theorem spillReach_eq_false {g : Gang} {f : Flight}
    (h : ∀ x, f.loc.place = .stack x → 16 ≤ f.loc.off / 2 ^ 20 ∨ f.loc.off % 2 ^ 20 + f.size + 16 ≤ g.slab) : spillReach g f = false := by
  unfold spillReach
  split
  next x hx =>
    have := h x hx
    rw [Bool.and_eq_false_iff, decide_eq_false_iff_not, decide_eq_false_iff_not]
    omega
  · rfl

/-- A plain load or store that may stay outstanding does. -/
theorem flyOut_plain {s : State} {g : Gang} {t : Target} {f : Flight} {regs : Nat} {hits : List Hit} {stream : List (Nat × Nat × Nat × Nat)}
    (hop : (∃ n o sg a d, f.op = .load n o sg a d) ∨ ∃ n o a d, f.op = .store n o a d) (hd : f.dst.length = regs)
    (hs : spillReach g f = false) : flyOut s g t f regs hits stream = (s, .flies hits stream { f with leaf := leafUsed s g f.ea t }) := by
  have hplain : (match f.op with | .load _ _ _ _ _ | .store _ _ _ _ => true | _ => false) = true := by
    obtain ⟨n, o, sg, a, d, h⟩ | ⟨n, o, a, d, h⟩ := hop <;> rw [h]
  have hne : (f.dst.length != regs) = false := by simp [hd]
  obtain ⟨n, o, sg, a, d, h⟩ | ⟨n, o, a, d, h⟩ := hop <;> simp [flyOut, h, hne, hs]

/-! ### A load of a lane (R205) -/

/-- What a load makes of its lane's thread: its register, pair or quad takes the number read. -/
def loaded (lv size : Nat) (sg : Bool) (d x : Nat) (u : Thread) : Thread :=
  if size = 8 then wrPair lv u d (BitVec.ofNat 64 x) else if size = 16 then wrQuad u d x else wrReg lv u d (loadValue size sg x)

section
variable (lv size : Nat) (sg : Bool) (d x : Nat) (u : Thread)

theorem loaded_word (h : size ≤ 4) (hx : x < 2 ^ (8 * size)) : WritesReg lv u (loaded lv size sg d x u) d
    (if sg then BitVec.ofInt 32 (if x < 2 ^ (8 * size - 1) then (x : Int) else (x : Int) - 2 ^ (8 * size)) else BitVec.ofNat 32 x) := by
  rw [← loadValue_eq hx, loaded, if_neg (by omega), if_neg (by omega)]
  exact wrReg_writes ..

theorem loaded_pair (hd : d % 2 = 0) : WritesPair lv u (loaded lv 8 sg d x u) d (BitVec.ofNat 64 x) :=
  wrPair_writes lv u d _ hd

theorem loaded_quad : let v := loaded lv 16 sg d x u
    SameButRegs u v ∧ v.save1 = u.save1 ∧ v.save2 = u.save2 ∧
      (∀ i < 4, d ≠ 0 → rdPhys v (u.wbase + d + i) = BitVec.ofNat 32 (x / 2 ^ (32 * i))) ∧
      ∀ k, d = 0 ∨ k < u.wbase + d ∨ u.wbase + d + 4 ≤ k → rdPhys v k = rdPhys u k := by
  intro v
  obtain ⟨h1, h2, h3⟩ := sameButRegs_wrQuad u d x
  refine ⟨h1, h2, h3, fun i hi hd => ?_, fun k hk => ?_⟩
  · rw [show v = wrQuad u d x from rfl, rdPhys_wrQuad, if_pos ⟨hd, by omega, by omega⟩, Nat.add_sub_cancel_left]
  · rw [show v = wrQuad u d x from rfl, rdPhys_wrQuad, if_neg (by omega)]

end

section
variable {s s1 : State} {g : Gang} {lane size off a d : Nat} {sg : Bool} {ea : Dbl} {t : Target}

/-- The access of a load (R311). -/
def loadFlight (g : Gang) (lane size off : Nat) (sg : Bool) (a d : Nat) (ea : Dbl) (t : Target) : Flight :=
  { lane := lane, op := .load size off sg a d, kind := t.kind, ea := ea, loc := t.loc,
    dst := ([if size = 8 then .pair d else if size = 16 then .quad d else .reg d] : List Opnd).flatMap (Opnd.phys g.level (thr g lane)) }

section
variable (heff : effAddr (laneAddr g lane a) (offM off size) = some ea) (harr : arrive s g lane ea size { r := true } = (s1, .ok t))
include heff harr

theorem laneLoad_performs (hcan : canPerform s1 g (loadFlight g lane size off sg a d ea t) = true) :
    laneStep s g false lane (.load size off sg a d) =
      (putLane s1 g.id lane (loaded g.level size sg d (readOwn s1 (outstanding g) lane t.loc size)), .ok (hitsOf s g lane ea size false true) []) := by
  have hcan := hcan
  unfold loadFlight at hcan
  simp only [laneStep, laneLoad, heff, harr, Bool.false_eq_true, if_false, hcan, if_true]
  rfl

theorem laneLoad_flies : laneStep s g true lane (.load size off sg a d) =
    flyOut s1 g t (loadFlight g lane size off sg a d ea t) (if size = 8 then 2 else if size = 16 then 4 else 1)
      (hitsOf s g lane ea size false true) [] := by
  simp only [laneStep, laneLoad, heff, harr, if_true]
  rfl

end

theorem loadFlight_dst (hs : size ∈ [1, 2, 4, 8, 16]) (hd : d ≠ 0) (hl : g.level = 0) :
    (loadFlight g lane size off sg a d ea t).dst = (List.range ((size + 3) / 4)).map fun i => (thr g lane).wbase + d + i := by
  simp only [List.mem_cons, List.not_mem_nil, or_false] at hs
  obtain rfl | rfl | rfl | rfl | rfl := hs
  all_goals simp [loadFlight, Opnd.phys, Opnd.extent, hl, hd, bankedReg, bankedPair, show d + 1 + 1 - d = 2 by omega, show d + 3 + 1 - d = 4 by omega]

theorem readOwn_nil (s : State) (lane : Nat) (l : Loc) (n : Nat) : readOwn s [] lane l n = readNat s l n := rfl

end

/-! ### A store of a lane (R205) -/

theorem storeData_lt (g : Gang) (lane d : Nat) {size : Nat} (hs : size ∈ [1, 2, 4, 8, 16]) : storeData g lane size d < 256 ^ size := by
  unfold storeData
  split
  next h =>
    subst h
    exact rdQuad_lt ..
  · split
    next h =>
      subst h
      exact (rdPair g.level (thr g lane) d).isLt
    next h =>
      rw [show (256 : Nat) = 2 ^ 8 from rfl, ← pow_mul]
      exact Nat.mod_lt _ (by positivity)

section
variable {s s1 : State} {g : Gang} {lane size off a d : Nat} {ea : Dbl} {t : Target}

/-- The access of a store (R311). -/
def storeFlight (g : Gang) (lane size off a d : Nat) (ea : Dbl) (t : Target) : Flight :=
  { lane := lane, op := .store size off a d, kind := t.kind, ea := ea, loc := t.loc, data := storeData g lane size d, rel := releasing g }

variable (heff : effAddr (laneAddr g lane a) (offM off size) = some ea)
  (harr : arrive s g lane ea size { w := true, reads := false } = (s1, .ok t))
include heff harr

theorem laneStore_performs (hcan : canPerform s1 g (storeFlight g lane size off a d ea t) = true) :
    laneStep s g false lane (.store size off a d) = (writeAt s1 g ea t (leOf size (storeData g lane size d)),
      .ok (hitsOf s g lane ea size true false) [(lane, ea.toNat, size, storeData g lane size d)]) := by
  have hcan := hcan
  unfold storeFlight at hcan
  simp only [laneStep, laneStore, heff, harr, Bool.false_eq_true, if_false, hcan, if_true]

theorem laneStore_flies : laneStep s g true lane (.store size off a d) =
    flyOut s1 g t (storeFlight g lane size off a d ea t) 0 (hitsOf s g lane ea size true false)
      [(lane, ea.toNat, size, storeData g lane size d)] := by
  simp only [laneStep, laneStore, heff, harr, if_true]
  rfl

end

/-! ### An access that is performed later (R309, R311) -/

theorem rdPhys_putPhys : ∀ (ds : List Nat) (x : Nat) (u : Thread), ds.Nodup →
    (∀ i k, ds[i]? = some k → rdPhys (putPhys x ds u) k = BitVec.ofNat 32 (x / 2 ^ (32 * i))) ∧
      (∀ k, k ∉ ds → rdPhys (putPhys x ds u) k = rdPhys u k) ∧ { putPhys x ds u with regs := u.regs } = u
  | [], x, u, _ => ⟨fun i k h => by simp at h, fun k _ => rfl, rfl⟩
  | r :: rs, x, u, h => by
    obtain ⟨hr, hrs⟩ := List.nodup_cons.1 h
    obtain ⟨h1, h2, h3⟩ := rdPhys_putPhys rs (x / 2 ^ 32) (wrPhys u r (BitVec.ofNat 32 x)) hrs
    refine ⟨fun i k hk => ?_, fun k hk => ?_, congrArg (fun v : Thread => { v with regs := u.regs }) h3⟩
    · cases i with
      | zero =>
        obtain rfl : r = k := by simpa using hk
        rw [putPhys, h2 r hr]
        simp
      | succ i =>
        rw [putPhys, h1 i k (by simpa using hk), Nat.div_div_eq_div_mul, ← pow_add]
        congr 3
        ring
    · rw [List.mem_cons, not_or] at hk
      rw [putPhys, h2 k hk.2, rdPhys_wrPhys, if_neg hk.1]

/-- The bytes of a number, as `natOf` puts them together. -/
theorem natOf_bytes (x : Nat) : ∀ n k : Nat, natOf ((List.range' k n).map fun i => BitVec.ofNat 8 (x / 256 ^ i)) = x / 256 ^ k % 256 ^ n
  | 0, k => by simp [natOf, Nat.mod_one]
  | n + 1, k => by
    rw [List.range'_succ, List.map_cons, natOf, natOf_bytes x n (k + 1), pow_succ 256 n, mul_comm (256 ^ n), Nat.mod_mul, pow_succ,
      Nat.div_div_eq_div_mul]
    simp

theorem natOf_readBytes (s : State) (p : Place) (n : Nat) : ∀ o : Nat,
    natOf ((List.range n).map fun i => readByte s ⟨p, o + i⟩) = readNat s ⟨p, o⟩ n := by
  induction n with
  | zero => exact fun o => rfl
  | succ n ih =>
    intro o
    have hstep : readNat s ⟨p, o⟩ (n + 1) = (readByte s ⟨p, o⟩).toNat + 256 * readNat s ⟨p, o + 1⟩ n := rfl
    rw [hstep, ← ih (o + 1), List.range_succ_eq_map, List.map_cons, List.map_map, natOf]
    congr 3
    refine List.map_congr_left fun i _ => ?_
    simp only [Function.comp_apply, Nat.succ_eq_add_one, show o + 1 + i = o + (i + 1) by omega]


/-- A number of bytes each of which is as in memory is the number in memory. -/
theorem natOf_ownBytes_memory {s : State} {es : List Flight} {l : Loc} {n : Nat}
    (h : ∀ i < n, ownByte s es ⟨l.place, l.off + i⟩ = readByte s ⟨l.place, l.off + i⟩) :
    natOf ((List.range n).map fun i => ownByte s es ⟨l.place, l.off + i⟩) = readNat s l n := by
  rw [List.map_congr_left fun i hi => h i (List.mem_range.1 hi)]
  exact natOf_readBytes s l.place n l.off

/-- A load that no earlier store of its thread touches reads memory. -/
theorem readOwn_of_apart {s : State} {earlier : List (Nat × Flight)} {f : Flight}
    (h : ∀ e ∈ earlier, e.2.lane = f.lane → e.2.stores = true → e.2.meets f = false) :
    readOwn s earlier f.lane f.loc f.size = readNat s f.loc f.size := by
  unfold readOwn
  generalize hes : (earlier.map Prod.snd).filter (fun e => e.lane == f.lane && e.stores && !e.loads) = es
  cases es with
  | nil => rfl
  | cons x xs =>
    refine natOf_ownBytes_memory fun i hi => ?_
    unfold ownByte
    split
    next e he =>
      have hmem := List.mem_of_find?_eq_some he
      have hin := List.find?_some he
      rw [List.mem_reverse, ← hes, List.mem_filter, List.mem_map] at hmem
      obtain ⟨⟨x, hx, rfl⟩, hf⟩ := hmem
      simp only [Bool.and_eq_true, beq_iff_eq, decide_eq_true_eq] at hf hin
      have hm := h x hx hf.1.1 hf.1.2
      obtain ⟨⟨hp, h1⟩, h2⟩ := hin
      simp only [Flight.meets, hp, BEq.rfl, Bool.true_and, Bool.and_eq_false_iff, decide_eq_false_iff_not] at hm
      omega
    · rfl

/-- A load whose latest earlier access is a store of its thread to the same bytes reads what that stores. -/
theorem readOwn_of_last {s : State} {earlier : List (Nat × Flight)} {f e : Flight} {j size o b c : Nat}
    (h : earlier.getLast? = some (j, e)) (hl : e.lane = f.lane) (hop : e.op = .store size o b c) (hloc : e.loc = f.loc) :
    readOwn s earlier f.lane f.loc size = e.data % 256 ^ size := by
  obtain ⟨ys, rfl⟩ := List.getLast?_eq_some_iff.1 h
  have hst : e.stores = true := by rw [Flight.stores, hop]
  have hld : e.loads = false := by rw [Flight.loads, hop]; rfl
  have hsize : e.size = size := by rw [Flight.size, hop]
  have hfilter : ((ys ++ [(j, e)]).map Prod.snd).filter (fun x => x.lane == f.lane && x.stores && !x.loads) =
      (ys.map Prod.snd).filter (fun x => x.lane == f.lane && x.stores && !x.loads) ++ [e] := by
    rw [List.map_append, List.filter_append]
    simp [hl, hst, hld]
  unfold readOwn
  rw [hfilter]
  generalize (ys.map Prod.snd).filter (fun x => x.lane == f.lane && x.stores && !x.loads) = zs
  have hbytes : ∀ i < size, ownByte s (zs ++ [e]) ⟨f.loc.place, f.loc.off + i⟩ = BitVec.ofNat 8 (e.data / 256 ^ i) := fun i hi => by
    have hin : (e.loc.place == f.loc.place && decide (e.loc.off ≤ f.loc.off + i) && decide (f.loc.off + i < e.loc.off + e.size)) = true := by
      simp [hloc, hsize, hi]
    have hoff : f.loc.off + i - e.loc.off = i := by rw [hloc, Nat.add_sub_cancel_left]
    simp only [ownByte, List.reverse_append, List.reverse_singleton, List.singleton_append, List.find?_cons, hin, hoff]
  have hnum : natOf ((List.range size).map fun i => ownByte s (zs ++ [e]) ⟨f.loc.place, f.loc.off + i⟩) = e.data % 256 ^ size := by
    rw [List.map_congr_left fun i hi => hbytes i (List.mem_range.1 hi), List.range_eq_range', natOf_bytes, pow_zero, Nat.div_one]
  cases zs with
  | nil => exact hnum
  | cons z zs => exact hnum

section
variable {s : State} {g : Gang} {earlier : List (Nat × Flight)} {f : Flight}

theorem performFlight_load {size off a d : Nat} {sg : Bool} (hop : f.op = .load size off sg a d) :
    performFlight s g earlier f = (modGang s g.id fun y => modThread y f.lane
      (putPhys (if size ≤ 4 then (loadValue size sg (readOwn s earlier f.lane f.loc size)).toNat
        else readOwn s earlier f.lane f.loc size) f.dst), []) := by
  simp only [performFlight, hop]

theorem performFlight_store {size off a d : Nat} (hop : f.op = .store size off a d) :
    performFlight s g earlier f = (writePlace s g f (leOf size f.data), []) := by
  simp only [performFlight, hop]

/-- A store whose entry still stands leaves its mark there (R200). -/
theorem writePlace_buffered (bs : List Byte)
    (h : f.loc.place = .phys → Buffered s (.core g.core) (launchD s g.launch).ctx (vaOf f.ea) f.loc.off) :
    ∃ es, writePlace s g f bs = { writeBytes s f.loc bs with tlb := es } := by
  unfold writePlace
  dsimp only
  split
  next at_ e hp hl =>
    obtain ⟨loc, hloc⟩ : ∃ pa, f.loc = physLoc pa := ⟨f.loc.off, by rw [physLoc, ← hp]⟩
    have hb : Buffered (writeBytes s f.loc bs) (.core g.core) (launchD s g.launch).ctx (vaOf f.ea) f.loc.off := by
      rw [hloc] at h ⊢
      exact h rfl
    have hany : ((found (writeBytes s f.loc bs) (.core g.core) (launchD s g.launch).ctx (vaOf f.ea)).any fun x =>
        paOf x.leaf x.size (vaOf f.ea) == f.loc.off) = true := by
      obtain ⟨x, hx, hpa⟩ := hb
      exact List.any_eq_true.2 ⟨x, hx, by simp [hpa]⟩
    rw [if_pos hany]
    exact markDirty_buffered hb
  · exact ⟨_, rfl⟩

/-- A store whose entry has gone sets the dirty bit of the leaf itself (R200). -/
theorem writePlace_unbuffered (bs : List Byte) {at_ : Nat} {e : Dbl} (hp : f.loc.place = .phys) (hl : f.leaf = some (at_, e))
    (he : e.getLsbD 11 = false)
    (hf : ∀ x ∈ found s (.core g.core) (launchD s g.launch).ctx (vaOf f.ea), paOf x.leaf x.size (vaOf f.ea) ≠ f.loc.off) :
    (readNat (writePlace s g f bs) (physLoc at_) 8).testBit 11 = true ∧ SameThreads s (writePlace s g f bs) := by
  obtain ⟨pa, hloc⟩ : ∃ pa, f.loc = physLoc pa := ⟨f.loc.off, by rw [physLoc, ← hp]⟩
  have hany : ((found (writeBytes s f.loc bs) (.core g.core) (launchD s g.launch).ctx (vaOf f.ea)).any fun x =>
      paOf x.leaf x.size (vaOf f.ea) == f.loc.off) = false := by
    have hsame : found (writeBytes s f.loc bs) (.core g.core) (launchD s g.launch).ctx (vaOf f.ea) =
        found s (.core g.core) (launchD s g.launch).ctx (vaOf f.ea) := by
      rw [hloc]
      rfl
    rw [hsame, List.any_eq_false]
    exact fun x hx => by simpa using hf x hx
  have heq : writePlace s g f bs = writeNat (writeBytes s f.loc bs) (physLoc at_) 8
      ((BitVec.ofNat 64 (readNat (writeBytes s f.loc bs) (physLoc at_) 8) ||| 0x800#64).toNat) := by
    unfold writePlace
    dsimp only
    rw [hp, hl]
    simp only [hany, Bool.false_eq_true, if_false, leafDirty, he]
  rw [heq]
  refine ⟨?_, sameThreads_trans (sameThreads_writeBytes _ _ _) (sameThreads_writeBytes _ _ _)⟩
  rw [readNat_writeNat _ (physLoc at_) 8 _ trivial, Nat.mod_eq_of_lt (show _ < 256 ^ 8 from BitVec.isLt _), BitVec.testBit_toNat, BitVec.getLsbD_or,
    getLsbD_dirtyMark]
  simp

end

/-- A write that moves nothing but its bytes and marks in the buffers. -/
theorem written_at {s t : State} {l : Loc} {size x : Nat} {es : List TlbEntry} (hl : HasPlace s l.place) (hx : x < 256 ^ size)
    (ht : t = { writeBytes s l (leOf size x) with tlb := es }) :
    SameThreads s t ∧ SameBytesBut s t l size ∧ readNat t l size = x := by
  subst ht
  have hb := sameBytesBut_writeBytes s l (leOf size x) hl
  rw [leOf_length] at hb
  exact ⟨sameThreads_writeBytes s l _, hb, readNat_writeBytes_leOf hl hx⟩


/-- Settles O31: each access first where it arrives, then when it is performed late. -/
theorem loadAndStoreEffects : Obligations.LoadAndStoreEffects := by
  unfold Obligations.LoadAndStoreEffects
  refine ⟨fun s g lane size off sg a d ea s1 t hg hlane hs heff harr => ⟨fun ho hopen => ?_, fun hd hl hstack => ?_⟩,
    fun s g lane size off a d ea s1 t hg hs heff harr => ?_, fun s g earlier f hg => ?_⟩
  · have hcan : canPerform s1 g (loadFlight g lane size off sg a d ea t) = true := canPerform_of_none_outstanding ho hopen
    have hx : readNat s1 t.loc size < 2 ^ (8 * size) := by
      rw [pow_mul]
      exact readNat_lt s1 t.loc size
    refine ⟨_, loaded g.level size sg d (readNat s1 t.loc size) (thr g lane), _, laneLoad_performs heff harr hcan, ?_,
      fun h => loaded_word g.level size sg d _ _ h hx, fun h hd => ?_, fun h => ?_⟩
    · rw [ho, readOwn_nil]
      exact onlyThread_modThread hg hlane _
    · subst h
      exact loaded_pair g.level sg d _ _ hd
    · subst h
      exact loaded_quad g.level sg d _ _
  · have hdst := loadFlight_dst (g := g) (lane := lane) (off := off) (a := a) (sg := sg) (ea := ea) (t := t) hs hd hl
    have hspill : spillReach g (loadFlight g lane size off sg a d ea t) = false := spillReach_eq_false hstack
    refine ⟨_, _, (laneLoad_flies heff harr).trans (flyOut_plain (.inl ⟨_, _, _, _, _, rfl⟩) ?_ hspill), rfl, rfl, rfl, hdst⟩
    rw [hdst, List.length_map, List.length_range]
    simp only [List.mem_cons, List.not_mem_nil, or_false] at hs
    obtain rfl | rfl | rfl | rfl | rfl := hs <;> rfl
  · intro data
    have hdata : data = storeData g lane size d := rfl
    rw [hdata]
    obtain ⟨-, hplace⟩ := arrive_ok harr hg
    refine ⟨fun ho hopen => ?_, fun hstack => ?_⟩
    · have hcan : canPerform s1 g (storeFlight g lane size off a d ea t) = true := canPerform_of_none_outstanding ho hopen
      obtain ⟨es, hw⟩ := writeAt_arrived harr (leOf size (storeData g lane size d))
      exact ⟨_, _, laneStore_performs heff harr hcan, written_at hplace (storeData_lt g lane d hs) hw⟩
    · have hspill : spillReach g (storeFlight g lane size off a d ea t) = false := spillReach_eq_false hstack
      exact ⟨_, _, (laneStore_flies heff harr).trans (flyOut_plain (.inr ⟨_, _, _, _, rfl⟩) rfl hspill), rfl, rfl, rfl, rfl⟩
  · intro r
    refine ⟨fun size off a d hop hplace hdata hfound => ?_, fun size off a d at_ e hop hp hl he hf => ?_,
      fun size off sg a d x hop hnodup hlane hx => ?_⟩
    · have hr : r = (writePlace s g f (leOf size f.data), []) := performFlight_store hop
      have hbuf : f.loc.place = .phys → Buffered s (.core g.core) (launchD s g.launch).ctx (vaOf f.ea) f.loc.off := fun hp => by
        obtain ⟨y, hy, hpa⟩ := List.any_eq_true.1 (hfound hp)
        exact ⟨y, hy, by simpa using hpa⟩
      obtain ⟨es, hw⟩ := writePlace_buffered (leOf size f.data) hbuf
      obtain ⟨h1, h2, h3⟩ := written_at hplace hdata hw
      rw [hr]
      exact ⟨h1, h2, h3, rfl⟩
    · have hr : r = (writePlace s g f (leOf size f.data), []) := performFlight_store hop
      rw [hr]
      exact writePlace_unbuffered _ hp hl he hf
    · have hsize : f.size = size := by rw [Flight.size, hop]
      have hx' : readOwn s earlier f.lane f.loc size = x := by
        obtain ⟨h, rfl⟩ | ⟨j, e, o, b, c, hlast, hlane', hope, hloc, rfl⟩ := hx
        · rw [← hsize]
          exact readOwn_of_apart h
        · exact readOwn_of_last hlast hlane' hope hloc
      have hr : r = _ := performFlight_load hop
      rw [hx'] at hr
      obtain ⟨h1, h2, h3⟩ := rdPhys_putPhys f.dst (if size ≤ 4 then (loadValue size sg x).toNat else x) (thr g f.lane) hnodup
      refine ⟨putPhys (if size ≤ 4 then (loadValue size sg x).toNat else x) f.dst (thr g f.lane), ?_, by rw [hr], h3, h1, h2⟩
      rw [hr]
      exact onlyThread_modThread hg hlane _

end Sys2Proof.Machine
end

section

/-!
# Atomics (R250 to R254)
-/

namespace Sys2Proof.Machine

-- One proof at a time: each waiting thread would reserve a stack of its own.
set_option Elab.async false

/-! ### Changing a thread leaves the bytes -/

theorem bytesAt_putLane (s : State) (id lane : Nat) (f : Thread → Thread) (p : Place) : bytesAt (putLane s id lane f) p = bytesAt s p := by
  have hgang : ∀ h, (gangOf (putLane s id lane f) h).map (fun x => (x.priv, x.stack)) = (gangOf s h).map fun x => (x.priv, x.stack) := fun h => by
    rw [putLane, gangOf_modGang _ _ _ _ (modThread_id · lane f)]
    split
    · cases gangOf s h <;> rfl
    · rfl
  have hpriv : ∀ h, (gangOf (putLane s id lane f) h).map Gang.priv = (gangOf s h).map Gang.priv := fun h => by
    simpa [Option.map_map, Function.comp_def] using congrArg (Option.map Prod.fst) (hgang h)
  have hstack : ∀ h, (gangOf (putLane s id lane f) h).map Gang.stack = (gangOf s h).map Gang.stack := fun h => by
    simpa [Option.map_map, Function.comp_def] using congrArg (Option.map Prod.snd) (hgang h)
  cases p with
  | phys => rfl
  | scratch b => rfl
  | priv h => simp only [bytesAt, spaceOf, hpriv]
  | stack h => simp only [bytesAt, spaceOf, hstack]

theorem readByte_putLane (s : State) (id lane : Nat) (f : Thread → Thread) (l : Loc) : readByte (putLane s id lane f) l = readByte s l := by
  rw [readByte, bytesAt_putLane, readByte]

theorem readNat_putLane (s : State) (id lane : Nat) (f : Thread → Thread) (l : Loc) (n : Nat) :
    readNat (putLane s id lane f) l n = readNat s l n := by
  rw [readNat_eq, bytesAt_putLane, readNat_eq]

theorem sameBytesBut_congr {s t u : State} {l : Loc} {n : Nat} (h : SameBytesBut s t l n) (hu : ∀ m, readByte u m = readByte t m) :
    SameBytesBut s u l n := fun m => by
  rw [hu]
  exact h m

/-! ### The threads after the access of one lane -/

/-- No thread but the one of a lane differs, and that one only where the instruction writes it (`RestKept … b`). -/
def RestKept (s t : State) (id lane : Nat) (writes : Bool) : Prop :=
  ∀ h k, (h ≠ id ∨ k ≠ lane ∨ writes = false) → (gangOf t h).map (fun x => thr x k) = (gangOf s h).map fun x => thr x k

theorem sameThreads_thr {s t : State} (h : SameThreads s t) (id k : Nat) :
    (gangOf t id).map (fun x => thr x k) = (gangOf s id).map fun x => thr x k := by
  have hth : (gangOf t id).map Gang.threads = (gangOf s id).map Gang.threads := by
    simpa [Option.map_map, Function.comp_def] using congrArg (Option.map Prod.fst) (h id)
  calc (gangOf t id).map (fun x => thr x k) = ((gangOf t id).map Gang.threads).map fun l => (l[k]?).getD {} := by
        rw [Option.map_map]; rfl
    _ = _ := by rw [hth, Option.map_map]; rfl

/-- The state with or without the destination written. -/
def answered (s : State) (id lane : Nat) (ret : Bool) (f : Thread → Thread) : State := if ret then putLane s id lane f else s

theorem readByte_answered (s : State) (id lane : Nat) (ret : Bool) (f : Thread → Thread) (l : Loc) :
    readByte (answered s id lane ret f) l = readByte s l := by
  cases ret
  · rfl
  · exact readByte_putLane s id lane f l

theorem readNat_answered (s : State) (id lane : Nat) (ret : Bool) (f : Thread → Thread) (l : Loc) (n : Nat) :
    readNat (answered s id lane ret f) l n = readNat s l n := by
  cases ret
  · rfl
  · exact readNat_putLane s id lane f l n

theorem restKept_answered {s s1 : State} (hs : SameThreads s1 s) (id lane : Nat) (ret : Bool) (f : Thread → Thread) :
    RestKept s1 (answered s id lane ret f) id lane ret := by
  intro h k hk
  rw [← sameThreads_thr hs]
  cases ret with
  | false => rfl
  | true =>
    show (gangOf (putLane s id lane f) h).map (fun x => thr x k) = _
    rw [putLane, gangOf_modGang _ _ _ _ (modThread_id · lane f)]
    split
    next he =>
      have hne : k ≠ lane := by simpa [he] using hk
      simp [Option.map_map, Function.comp_def, thr_modThread, hne]
    · rfl

/-- The gang after its destination is written. -/
theorem gangOf_answered {s s1 : State} {g : Gang} {lane : Nat} (hs : SameThreads s1 s) (hg : gangOf s1 g.id = some g)
    (hl : lane < g.threads.length) (ret : Bool) (f : Thread → Thread) :
    ∃ g', gangOf (answered s g.id lane ret f) g.id = some g' ∧ (ret = true → thr g' lane = f (thr g lane)) := by
  obtain ⟨g1, hg1, hth⟩ : ∃ g1, gangOf s g.id = some g1 ∧ g1.threads = g.threads := by
    have := hs g.id
    rw [hg] at this
    cases hx : gangOf s g.id with
    | none => simp [hx] at this
    | some g1 =>
      simp only [hx, Option.map_some, Option.some.injEq, Prod.mk.injEq] at this
      exact ⟨g1, rfl, this.1⟩
  have hthr : thr g1 lane = thr g lane := by rw [thr, hth, thr]
  cases ret with
  | false => exact ⟨g1, hg1, fun h => by cases h⟩
  | true =>
    refine ⟨modThread g1 lane f, ?_, fun _ => ?_⟩
    · show gangOf (putLane s g.id lane f) g.id = _
      rw [putLane, gangOf_modGang _ _ _ _ (modThread_id · lane f), if_pos rfl, hg1]
      rfl
    · rw [thr_modThread, if_pos ⟨rfl, hth ▸ hl⟩, hthr]

/-! ### A launch without a log lets every access enter its unit (R401) -/

theorem atUnit_unlogged {s : State} {g : Gang} (lane : Nat) (l : Loc) (k : State → State × LaneEnd)
    (hrec : (launchD s g.launch).desc.recording = false) (hrep : (launchD s g.launch).desc.replaying = false) :
    atUnit s g lane l k = k s := by
  have hgo : ∀ u, admits s g u = .go := fun u => by simp [admits, hrep]
  have had : ∀ u, admitted s g u = s := fun u => by simp [admitted, hrec, hrep]
  unfold atUnit
  split
  · rfl
  · rw [hgo, had]

/-! ### The new word (R250) -/

/-- The word that an atomic of a word leaves. -/
def newWord (g : Gang) (lane fn b : Nat) (old : Word) : Word :=
  if fn = 10 then atomNew 10 old (rdPair g.level (thr g lane) b).lo (rdPair g.level (thr g lane) b).hi
  else atomNew fn old (rdReg g.level (thr g lane) b) 0

theorem newWord_inc (g : Gang) (lane b : Nat) (o : Word) :
    newWord g lane 9 b o = if o.toNat < (rdReg g.level (thr g lane) b).toNat then o + 1 else 0 := by
  unfold newWord
  rw [if_neg (by decide)]
  show (if (rdReg g.level (thr g lane) b).toNat ≤ o.toNat then (0 : Word) else o + 1) = _
  split
  next h => rw [if_neg (by omega)]
  next h => rw [if_pos (by omega)]

section
variable {s s1 : State} {g : Gang} {lane fn b a d : Nat} {ret : Bool} {t : Target}
  (hg : gangOf s1 g.id = some g) (hl : lane < g.threads.length) (ho : outstanding g = [])
  (hopen : t.loc.place = .phys → ∀ k, linkOpen s1 t.loc.off k = true) (hbusy : cellBusy s1 t = false)
  (hrec : (launchD s1 g.launch).desc.recording = false) (hrep : (launchD s1 g.launch).desc.replaying = false)
  (harr : arrive s g lane (laneAddr g lane a) (atomSize fn) { r := true, w := true, sum := some (fn == 11) } = (s1, .ok t))

include ho hopen hbusy hrec hrep harr

/-- An atomic that has arrived, with nothing of its gang outstanding, acts. -/
theorem laneAtom_acts (hfx : fn = 11 → apertureOf (laneAddr g lane a) = .global) :
    laneStep s g false lane (.atom fn ret b a d) = atomAct s1 g lane (laneAddr g lane a) t fn ret b d := by
  have hap : (fn == 11 && apertureOf (laneAddr g lane a) != .global) = false := by
    rw [Bool.and_eq_false_iff]
    by_cases h : fn = 11
    · exact .inr (by simp [hfx h])
    · exact .inl (by simp [h])
  have hcan : ∀ f : Flight, f.loc = t.loc → canPerform s1 g f = true := fun f hf =>
    canPerform_of_none_outstanding ho (by rw [hf]; exact hopen)
  simp only [laneStep, laneAtom, harr, hap, Bool.false_eq_true, if_false]
  rw [atUnit_unlogged _ _ _ hrec hrep, hbusy, if_neg Bool.false_ne_true, hcan, Bool.not_true, if_neg Bool.false_ne_true]
  rfl

include hg hl

/-- The atomics of a word other than `fx`. -/
theorem laneAtom_word (h11 : fn ≠ 11) (h12 : fn ≠ 12) :
    ∃ t1 hits st, laneStep s g false lane (.atom fn ret b a d) = (t1, .ok hits st) ∧ SameBytesBut s1 t1 t.loc 4 ∧
      RestKept s1 t1 g.id lane ret ∧ readNat t1 t.loc 4 = (newWord g lane fn b (BitVec.ofNat 32 (readNat s1 t.loc 4))).toNat ∧
      ∃ g', gangOf t1 g.id = some g' ∧
        (ret = true → WritesReg g.level (thr g lane) (thr g' lane) d (BitVec.ofNat 32 (readNat s1 t.loc 4))) := by
  obtain ⟨-, hplace⟩ := arrive_ok harr hg
  let old : Word := BitVec.ofNat 32 (readNat s1 t.loc 4)
  obtain ⟨es, hw⟩ := writeAt_arrived harr (leOf 4 (newWord g lane fn b old).toNat)
  obtain ⟨h1, h2, h3⟩ := written_at hplace (newWord g lane fn b old).isLt hw
  have hact : laneStep s g false lane (.atom fn ret b a d) =
      (answered (writeAt s1 g (laneAddr g lane a) t (leOf 4 (newWord g lane fn b old).toNat)) g.id lane ret (wrReg g.level · d old),
        .ok (hitsOf s1 g lane (laneAddr g lane a) (atomSize fn) true true)
          [(lane, (laneAddr g lane a).toNat, 4, (newWord g lane fn b old).toNat)]) := by
    rw [laneAtom_acts ho hopen hbusy hrec hrep harr fun h => absurd h h11, atomAct, if_neg h11, if_neg h12]
    rfl
  obtain ⟨g', hg', hth⟩ := gangOf_answered h1 hg hl ret (wrReg g.level · d old)
  refine ⟨_, _, _, hact, sameBytesBut_congr h2 (readByte_answered _ _ _ _ _), restKept_answered h1 _ _ _ _,
    (readNat_answered _ _ _ _ _ _ _).trans h3, g', hg', fun h => ?_⟩
  rw [hth h]
  exact wrReg_writes _ _ _ _

end

section
variable {s s1 : State} {g : Gang} {lane b a d : Nat} {ret : Bool} {t : Target}
  (hg : gangOf s1 g.id = some g) (hl : lane < g.threads.length) (ho : outstanding g = [])
  (hopen : t.loc.place = .phys → ∀ k, linkOpen s1 t.loc.off k = true) (hbusy : cellBusy s1 t = false)
  (hrec : (launchD s1 g.launch).desc.recording = false) (hrep : (launchD s1 g.launch).desc.replaying = false)
include hg hl ho hopen hbusy hrec hrep

/-- The addition of a double. -/
theorem laneAtom_double (harr : arrive s g lane (laneAddr g lane a) 8 { r := true, w := true, sum := some false } = (s1, .ok t)) :
    ∃ t1 hits st, laneStep s g false lane (.atom 12 ret b a d) = (t1, .ok hits st) ∧ SameBytesBut s1 t1 t.loc 8 ∧
      RestKept s1 t1 g.id lane ret ∧
      readNat t1 t.loc 8 = (readNat s1 t.loc 8 + (rdPair g.level (thr g lane) b).toNat) % 2 ^ 64 ∧
      ∃ g', gangOf t1 g.id = some g' ∧ (ret = true → d % 2 = 0 →
        WritesPair g.level (thr g lane) (thr g' lane) d (BitVec.ofNat 64 (readNat s1 t.loc 8))) := by
  obtain ⟨-, hplace⟩ := arrive_ok harr hg
  let old : Dbl := BitVec.ofNat 64 (readNat s1 t.loc 8)
  let new : Dbl := old + rdPair g.level (thr g lane) b
  obtain ⟨es, hw⟩ := writeAt_arrived harr (leOf 8 new.toNat)
  obtain ⟨h1, h2, h3⟩ := written_at hplace new.isLt hw
  have hact : laneStep s g false lane (.atom 12 ret b a d) =
      (answered (writeAt s1 g (laneAddr g lane a) t (leOf 8 new.toNat)) g.id lane ret (wrPair g.level · d old),
        .ok (hitsOf s1 g lane (laneAddr g lane a) (atomSize 12) true true) [(lane, (laneAddr g lane a).toNat, 8, new.toNat)]) := by
    rw [laneAtom_acts (fn := 12) ho hopen hbusy hrec hrep harr fun h => by cases h]
    rfl
  obtain ⟨g', hg', hth⟩ := gangOf_answered h1 hg hl ret (wrPair g.level · d old)
  have hnew : new.toNat = (readNat s1 t.loc 8 + (rdPair g.level (thr g lane) b).toNat) % 2 ^ 64 := by
    simp only [new, old, BitVec.toNat_add, BitVec.toNat_ofNat, Nat.mod_add_mod]
  refine ⟨_, _, _, hact, sameBytesBut_congr h2 (readByte_answered _ _ _ _ _), restKept_answered h1 _ _ _ _,
    ((readNat_answered _ _ _ _ _ _ _).trans h3).trans hnew, g', hg', fun h hd => ?_⟩
  rw [hth h]
  exact wrPair_writes _ _ _ _ hd

end

/-! ### Exact addition (R253, R254) -/

/-- An access of the global window arrives at a physical address. -/
theorem arrive_global {s s1 : State} {g : Gang} {lane n : Nat} {ea : Dbl} {need : Needs} {t : Target}
    (h : arrive s g lane ea n need = (s1, .ok t)) (hglob : apertureOf ea = .global) : ∃ pa leaf, t = .glob pa leaf := by
  cases t with
  | glob pa leaf => exact ⟨pa, leaf, rfl⟩
  | core l =>
    unfold arrive at h
    rw [hglob] at h
    split at h
    · split at h <;> cases h
    next hne => exact absurd rfl hne

/-- Making room for a shadow changes bytes, shadows and waits alone. -/
structure Shadowed (s t : State) : Prop where
  tlb : t.tlb = s.tlb
  launches : t.launches = s.launches
  threads : SameThreads s t

theorem shadowed_makeShadowRoom {s t : State} {pa : Nat} (h : makeShadowRoom s pa = .ok t) : Shadowed s t := by
  unfold makeShadowRoom at h
  split at h
  · cases h
    exact ⟨rfl, rfl, sameThreads_refl _⟩
  · dsimp only at h
    split at h
    · split at h
      · cases h
        exact ⟨rfl, rfl, sameThreads_writeBytes _ _ _⟩
      · cases h
    · cases h

/-- What an exact addition leaves: its shadow holds the sum, and the slice's answer is the value before and after. -/
theorem addToSum_ok {s s2 : State} {pa w old new : Nat} (h : addToSum s pa w = .ok (s2, old, new)) :
    Shadowed s s2 ∧ old = (shadowAt s pa).value ∧ new = (Shadow.add (shadowAt s pa) w).value ∧
      (shadowHeld s pa = true → SameBytes s s2) ∧
      ∃ n, fget s2.shadows pa = some { Shadow.add (shadowAt s pa) w with used := n, spilled := none } := by
  unfold addToSum at h
  dsimp only at h
  split at h
  · cases h
  next s' hs' =>
    have hsh : Shadowed s s' ∧ (shadowHeld s pa = true → s' = s) := by
      cases hh : shadowHeld s pa with
      | true =>
        simp only [hh, if_true, Except.ok.injEq] at hs'
        subst hs'
        exact ⟨⟨rfl, rfl, sameThreads_refl _⟩, fun _ => rfl⟩
      | false =>
        simp only [hh, Bool.false_eq_true, if_false] at hs'
        exact ⟨shadowed_makeShadowRoom hs', fun h => by cases h⟩
    obtain ⟨⟨h1, h2, h3⟩, hheld⟩ := hsh
    cases h
    refine ⟨⟨h1, h2, h3⟩, rfl, rfl, fun hh l => ?_, s'.nextId, ?_⟩
    · rw [← hheld hh]
      rfl
    · exact (fget_fput _ _ _ _).trans (if_pos rfl)

section
variable {s s1 : State} {g : Gang} {lane b a d : Nat} {ret : Bool} {t : Target}
  (hg : gangOf s1 g.id = some g) (hl : lane < g.threads.length) (ho : outstanding g = [])
  (hopen : t.loc.place = .phys → ∀ k, linkOpen s1 t.loc.off k = true) (hbusy : cellBusy s1 t = false)
  (hrec : (launchD s1 g.launch).desc.recording = false) (hrep : (launchD s1 g.launch).desc.replaying = false)
  (harr : arrive s g lane (laneAddr g lane a) 4 { r := true, w := true, sum := some true } = (s1, .ok t))
  (hglob : apertureOf (laneAddr g lane a) = .global) (hpois : shadowPoisoned s1 t.loc.off = false)
include ho hopen hbusy hrec hrep harr hglob hpois

theorem laneAtom_noRoom {at_ : Nat} (hadd : addToSum s1 t.loc.off (rdReg g.level (thr g lane) b).toNat = .error at_) :
    (laneStep s g false lane (.atom 11 ret b a d)).2 = .fail ⟨lane, 0x11, laneAddr g lane a, 0⟩ := by
  rw [laneAtom_acts (fn := 11) ho hopen hbusy hrec hrep harr fun _ => hglob]
  simp only [atomAct, if_true, hpois, Bool.false_eq_true, if_false, hadd]

include hg hl

theorem laneAtom_sum {s2 : State} {old new : Nat}
    (hadd : addToSum s1 t.loc.off (rdReg g.level (thr g lane) b).toNat = .ok (s2, old, new)) :
    ∃ t1 hits, laneStep s g false lane (.atom 11 ret b a d) = (t1, .ok hits [(lane, (laneAddr g lane a).toNat, 4, new)]) ∧
      SameBytes s2 t1 ∧ t1.shadows = s2.shadows ∧ RestKept s1 t1 g.id lane ret ∧
      ∃ g', gangOf t1 g.id = some g' ∧ (ret = true → WritesReg g.level (thr g lane) (thr g' lane) d (BitVec.ofNat 32 old)) := by
  obtain ⟨⟨htlb, hlaunch, hthreads⟩, -⟩ := addToSum_ok hadd
  obtain ⟨pa, leaf, rfl⟩ := arrive_global harr hglob
  obtain ⟨htr, hbuf⟩ := arrive_glob harr
  let u := wakeMwait s2 (physLoc pa) 4
  have hctx : ctxOf u g = (launchD s g.launch).ctx := by
    rw [ctxOf, launchD, launchOf, show u.launches = s1.launches from hlaunch, htr.launches]
    rfl
  have hbufu : Buffered u (.core g.core) (ctxOf u g) (vaOf (laneAddr g lane a)) pa := by
    obtain ⟨x, hx, hpa⟩ := hbuf
    refine ⟨x, ?_, hpa⟩
    rwa [hctx, found_congr (show u.tlb = s1.tlb from htlb)]
  obtain ⟨es, hes⟩ : ∃ es, dirtyAt u g (laneAddr g lane a) pa = { u with tlb := es } := markDirty_buffered hbufu
  have hact : laneStep s g false lane (.atom 11 ret b a d) =
      (answered { u with tlb := es } g.id lane ret (wrReg g.level · d (BitVec.ofNat 32 old)),
        .ok (hitsOf s1 g lane (laneAddr g lane a) (atomSize 11) true true) [(lane, (laneAddr g lane a).toNat, 4, new)]) := by
    rw [laneAtom_acts (fn := 11) ho hopen hbusy hrec hrep harr fun _ => hglob, ← hes]
    simp only [atomAct, if_true, hpois, Bool.false_eq_true, if_false, hadd]
    rfl
  have hth : SameThreads s1 { u with tlb := es } := sameThreads_trans hthreads (sameThreads_wakeMwait s2 (physLoc pa) 4)
  obtain ⟨g', hg', hthr⟩ := gangOf_answered hth hg hl ret (wrReg g.level · d (BitVec.ofNat 32 old))
  refine ⟨_, _, hact, fun l => (readByte_answered _ _ _ _ _ _).trans (readByte_wakeMwait s2 (physLoc pa) l 4), ?_,
    restKept_answered hth _ _ _ _, g', hg', fun h => ?_⟩
  · cases ret <;> rfl
  · rw [hthr h]
    exact wrReg_writes _ _ _ _

end

/-- Settles O32: the word, the double and the sum. -/
theorem atomicEffects : Obligations.AtomicEffects := by
  unfold Obligations.AtomicEffects
  intro s g lane fn ret b a d s1 t hg hl hfn ho hopen hbusy hrec hrep n ea harr Rest
  refine ⟨fun h11 => ?_, fun h11 hglob hpois => ?_⟩
  · by_cases h12 : fn = 12
    · subst h12
      obtain ⟨t1, hits, st, h1, h2, h3, h4, g', h5, h6⟩ := laneAtom_double (b := b) (d := d) (ret := ret) hg hl ho hopen hbusy hrec hrep harr
      exact ⟨t1, hits, st, h1, h2, h3, g', h5, fun _ => ⟨h4, h6⟩, fun h => absurd rfl h⟩
    · have hn : n = 4 := if_neg h12
      obtain ⟨t1, hits, st, h1, h2, h3, h4, g', h5, h6⟩ := laneAtom_word (b := b) (d := d) (ret := ret) hg hl ho hopen hbusy hrec hrep harr h11 h12
      refine ⟨t1, hits, st, h1, hn ▸ h2, h3, g', h5, fun h => absurd h h12, fun _ => ⟨h6, ?_⟩⟩
      rw [h4]
      simp only [List.mem_cons, List.not_mem_nil, or_false, forall_eq_or_imp, forall_eq]
      refine ⟨?_, ?_, ?_, ?_, ?_, ?_, ?_, ?_, ?_, ?_, ?_⟩ <;> rintro rfl
      case refine_10 => rw [newWord_inc]
      all_goals rfl
  · subst h11
    intro pa x before after
    have hbefore : before = shadowAt s1 pa := by
      obtain ⟨q, leaf, rfl⟩ := arrive_global harr hglob
      rfl
    refine ⟨fun s2 old new hadd => ?_, fun at_ hadd => laneAtom_noRoom ho hopen hbusy hrec hrep harr hglob hpois hadd⟩
    obtain ⟨-, rfl, rfl, hheld, i, hget⟩ := addToSum_ok hadd
    obtain ⟨t1, hits, h1, h2, h3, h4, g', h5, h6⟩ :=
      laneAtom_sum (d := d) (ret := ret) hg hl ho hopen hbusy hrec hrep harr hglob hpois hadd
    refine ⟨⟨t1, hits, ?_, h2, h3, h4, ⟨_, (congrArg (fget · pa) h3).trans hget, rfl, ?_⟩, g', h5, ?_⟩, hheld⟩
    · rw [show after = Shadow.add (shadowAt s1 pa) x from congrArg (Shadow.add · x) hbefore]
      exact h1
    · rw [show after = Shadow.add (shadowAt s1 pa) x from congrArg (Shadow.add · x) hbefore]
    · rw [hbefore]
      exact h6

end Sys2Proof.Machine
end

section

/-!
# Batches of copies (R231, R232) and the region stack (R377 to R379, R391)
-/

namespace Sys2Proof.Machine

-- One proof at a time: each waiting thread would reserve a stack of its own.
set_option Elab.async false

/-! ### Batches of copies -/

theorem lanesWhere_eq_zero {g : Gang} {A : Word} {p : Thread → Bool} (h : ∀ l ∈ lanesOf A, p (thr g l) = false) : lanesWhere g A p = 0 := by
  rw [lanesWhere, List.filter_eq_nil_iff.2 fun l hl => by simp [h l hl]]
  rfl

/-- An instruction that waits for a number of batches returns where no lane has more, and waits otherwise. -/
theorem issue_batchWait {s : State} {g : Gang} {c : ClauseRun} (hi : Issues s .none g c) (count : Thread → Nat) (n stall : Nat)
    (cond : Word → Cond) (run : Host.Outcome State Fault Refusal)
    (hrun : run = issue s .none fun g c =>
      let late := lanesWhere g (activeMask c) fun t => decide (n < count t)
      if late != 0 then blockAt s g c .none (activeMask c) stall (cond late) else complete s g c .none) :
    ((∀ l ∈ lanesOf (activeMask c), count (thr g l) ≤ n) → run = .next (complete s g c .none)) ∧
    ∀ L, L = maskOf ((lanesOf (activeMask c)).filter fun l => decide (n < count (thr g l))) → L ≠ 0 →
      run = .next (blockAt s g c .none (activeMask c) stall (cond L)) := by
  rw [hrun, issue_ok hi]
  refine ⟨fun h => ?_, fun L hL hne => ?_⟩
  · have hzero : (lanesWhere g (activeMask c) fun t => decide (n < count t)) = 0 :=
      lanesWhere_eq_zero fun l hl => decide_eq_false (by have := h l hl; omega)
    simp [hzero]
  · have hlate : (lanesWhere g (activeMask c) fun t => decide (n < count t)) = L := hL.symm
    simp only [hlate, if_pos (bne_iff_ne.2 hne)]

/-- What `cpy.stat` reads of a thread (R211, R232). -/
def copyWord (s : State) (g : Gang) (k l : Nat) (t : Thread) : Word :=
  if k.testBit 3 then ((fget t.tickets (k % 8)).map fun q => BitVec.ofNat 32 (q * 2 ^ 20)).getD 0xFFFFFFFF
  else batchStatus s g l (freeNat s).1

theorem execCpyStat_eq (k d : Nat) (s : State) : execCpyStat k d s =
    issueGang (freeNat s).2 .a [.reg d] fun g A => mapLanes A (fun l t => wrReg g.level t d (copyWord s g k l t)) g := by
  have hword : ∀ g l (t : Thread), copyWord s g k l t = if bit k 3 then
      match fget t.tickets (k % 8) with
      | some q => BitVec.ofNat 32 (q * 2 ^ 20)
      | none => 0xFFFFFFFF
    else batchStatus (freeNat s).2 g l (freeNat s).1 := fun g l t => by
    have hbit : bit k 3 = k.testBit 3 := (Nat.testBit_eq_decide_div_mod_eq).symm
    rw [copyWord, hbit]
    cases fget t.tickets (k % 8) <;> rfl
  simp only [hword]
  rfl

/-- Settles O40: each of the four instructions of batches. -/
theorem batchResults : Obligations.BatchResults := by
  unfold Obligations.BatchResults
  intro s g c hi A
  refine ⟨fun d hw => ⟨fun h => ?_, fun L hL hne => ?_⟩, fun n hm => ?_, fun sc n hm => ?_, fun k d hia hw => ?_⟩
  · have hzero : (lanesWhere g A fun t => decide (15 ≤ unfinished s t)) = 0 :=
      lanesWhere_eq_zero fun l hl => decide_eq_false (by have := h l hl; omega)
    obtain ⟨h1, h2⟩ := lanes_finish hi A (fun _ t => wrReg g.level (sealBatch s t) d (BitVec.ofNat 32 t.nextBatch)) .none
    refine ⟨_, _, ?_, h1, h2, eachLane_completed g c .none A _ fun l hl hA => wrReg_writes _ _ _ _⟩
    refine (exec_cpySeal d s).trans ((issue_ok hi _).trans ?_)
    simp [hw, A, hzero]
  · have hfull : (lanesWhere g A fun t => decide (15 ≤ unfinished s t)) = L := hL.symm
    refine (exec_cpySeal d s).trans ((issue_ok hi _).trans ?_)
    simp only [hw, A, hfull, if_pos (bne_iff_ne.2 hne)]
  · exact issue_batchWait hi (unfinished s) n 6 (.unfinished n) _ ((exec_cpyWait n s).trans (unlessStopping_goes hi.issuer hm _))
  · exact issue_batchWait hi (invisible s) n 6 (.invisible n) _ ((exec_cpyVis sc n s).trans (unlessStopping_goes hi.issuer hm _))
  · have hi' : Issues (freeNat s).2 .a g c := ⟨hia.issuer, hia.room, hia.clear⟩
    have hexec : exec (.cpyStat k d) s = .next (finish (freeNat s).2 (mapLanes A (fun l t => wrReg g.level t d (copyWord s g k l t)) g) c .a) :=
      (exec_cpyStat k d s).trans ((execCpyStat_eq k d s).trans (issueGang_ok hi' hw _))
    obtain ⟨h1, h2⟩ := lanes_finish hi' A _ .a
    exact ⟨_, _, hexec, h1, h2, eachLane_completed g c .a A _ fun l hl hA => wrReg_writes _ _ _ _⟩

/-! ### Region edges -/

section
variable {s : State} {g : Gang} {c : ClauseRun} {id type : Nat} {payload : List Byte}

theorem regionEdge_goes (h : edgeStop s g id = none) :
    regionEdge s g c id type payload = finish (traceGang s g type payload) g c .none := by
  simp [regionEdge, h]

/-- An edge at which a stop awaits waits while the event of the stop has no room (R418, log entry 66). -/
theorem regionEdge_held {k : Nat} (h : edgeStop s g id = some k) (hm : (launchD s g.launch).stopMode ≠ 0)
    (hr : eventRoom s (g.core / 1024) = false) : regionEdge s g c id type payload = { s with issuing := none } := by
  have hr' : eventRoom s (coreDie g.core) = false := hr
  simp [regionEdge, h, hm, hr']

theorem regionEdge_stops {k : Nat} (h : edgeStop s g id = some k)
    (hr : (launchD s g.launch).stopMode = 0 ∨ eventRoom s (g.core / 1024) = true) : regionEdge s g c id type payload =
      takeStop (traceGang s g type payload) (if k = 0 then { g with haltReq := false } else g) c k 0x41 (BitVec.ofNat 64 id)
        (activeMask c) (activeMask c) (regionAt g 0) 0 := by
  have hheld : ¬ (((edgeStop s g id).isSome && (launchD s g.launch).stopMode != 0 && !eventRoom s (coreDie g.core)) = true) := by
    have hr' : (launchD s g.launch).stopMode = 0 ∨ eventRoom s (coreDie g.core) = true := hr
    obtain h0 | h0 := hr' <;> simp [h0]
  rw [regionEdge, if_neg hheld]
  simp only [h]

end

theorem regionAt_popRegion (g : Gang) : regionAt (popRegion g) 0 = (g.regions[1]?).getD 0xFFFF := by
  unfold regionAt popRegion
  match g.regions with
  | [] | [_] => by_cases h : 8 ≤ g.regionDepth - 1 <;> simp [h]
  | _ :: _ :: _ => simp

/-- A launch without a trace ring gets no record. -/
theorem traceGang_untraced {s : State} {g : Gang} (h : (launchD s g.launch).desc.ntrace = 0) (type : Nat) (payload : List Byte) :
    traceGang s g type payload = s := by
  unfold traceGang traceOn
  split
  · rfl
  next L hL =>
    have hn : L.desc.ntrace = 0 := by
      rwa [launchD, hL] at h
    exact if_pos hn

section
variable {s : State} {g : Gang} {c : ClauseRun} (hi : Issues s .none g c)
include hi

theorem exec_regEnter_of {i : Nat} (hd : g.regionDepth ≠ 255) : exec (.regEnter i) s = .next (regionEdge s (pushRegion g i) c i 3 []) :=
  (exec_regEnter i s).trans ((issue_ok hi _).trans (congrArg _ (if_neg hd)))

theorem exec_regLeave_of {i : Nat} (hd : g.regionDepth ≠ 0)
    (htop : (g.regions[0]?).getD 0xFFFF = i ∨ (g.regions[0]?).getD 0xFFFF = 0xFFFF) :
    exec (.regLeave i) s = .next (regionEdge s (popRegion g) c i 4 (leOf 2 i)) :=
  (exec_regLeave i s).trans ((issue_ok hi _).trans (congrArg _ ((if_neg hd).trans (if_neg fun h => by
    obtain ⟨h1, h2⟩ := h
    exact htop.elim h2 h1))))

end

/-- Settles O43: each edge goes on, waits for room or stops; the faults leave everything; a mark is a record. -/
theorem regionResults : Obligations.RegionResults := by
  unfold Obligations.RegionResults
  intro s g c hi
  refine ⟨fun i hd => ?_, fun i hd htop => ?_, fun i hd => ?_, fun i hd => ?_, fun i j hd htop hj hne => ?_, fun b k hw => ?_⟩
  · have hexec := exec_regEnter_of hi (i := i) hd
    refine ⟨fun h => hexec.trans (congrArg _ (regionEdge_goes h)), fun hn h hL => ?_, fun k h => ⟨fun hm hr => ?_, fun hr => ?_⟩⟩
    · have hgo : exec (.regEnter i) s = .next (finish s (pushRegion g i) c .none) := by
        have hn' : (launchD s (pushRegion g i).launch).desc.ntrace = 0 := hn
        rw [hexec, regionEdge_goes (g := pushRegion g i) h, traceGang_untraced hn']
      obtain ⟨h1, h2⟩ := completed_only (pushRegion g i) c .none
      exact ⟨_, _, hgo, finish_only hi (pushRegion g i) rfl .none, h1, h2⟩
    · exact hexec.trans (congrArg _ (regionEdge_held h hm hr))
    · exact hexec.trans (congrArg _ (regionEdge_stops h hr))
  · have hexec := exec_regLeave_of hi hd htop
    refine ⟨fun h => hexec.trans (congrArg _ (regionEdge_goes h)), fun k h => ⟨fun hm hr => ?_, fun hr => ?_⟩⟩
    · exact hexec.trans (congrArg _ (regionEdge_held h hm hr))
    · rw [← regionAt_popRegion]
      exact hexec.trans (congrArg _ (regionEdge_stops h hr))
  · exact (exec_regEnter i s).trans ((issue_ok hi _).trans (congrArg _ (if_pos hd)))
  · exact (exec_regLeave i s).trans ((issue_ok hi _).trans (congrArg _ (if_pos hd)))
  · have htop' : regionAt g 0 = j := by rw [regionAt, htop, Option.getD_some]
    refine (exec_regLeave i s).trans ((issue_ok hi _).trans ?_)
    simp [hd, htop', hj, hne]
  · refine (exec_tmark b k s).trans ((issue_ok hi _).trans ?_)
    simp only [hw]

end Sys2Proof.Machine
end

section

/-!
# The instructions that wait (R239 to R245, R336 to R346, R110, R320)
-/

namespace Sys2Proof.Machine

-- One proof at a time: each waiting thread would reserve a stack of its own.
set_option Elab.async false

theorem unlessStopping_stops {s : State} {g : Gang} {c : ClauseRun} (hi : issuer s = some (g, c)) (hm : mustStop s g = true)
    (run : Host.Outcome State Fault Refusal) : unlessStopping s run = .next (stopGang { s with issuing := none } g) := by
  rw [unlessStopping, hi]
  simp only [hm, if_true]

/-! ### A place outside the stack has its unit, and a launch without a log lets every access enter it (R401) -/

theorem unitAt_isSome {s : State} {g : Gang} {l : Loc} (hp : HasPlace s l.place) (hs : ∀ k, l.place ≠ .stack k) : (unitAt s g l).isSome = true := by
  unfold unitAt
  cases h : l.place with
  | phys => rfl
  | scratch b =>
    rw [h] at hp
    exact (Option.isSome_map ..).trans hp
  | priv k => rfl
  | stack k => exact absurd h (hs k)

theorem gateOnce_unlogged {s : State} {g : Gang} {c : ClauseRun} {l : Loc} (hu : (unitAt s g l).isSome = true)
    (hrec : (launchD s g.launch).desc.recording = false) (hrep : (launchD s g.launch).desc.replaying = false)
    (k : State → Gang → State) : gateOnce s g c l k = k s { g with gate := none } := by
  obtain ⟨u, hu⟩ := Option.isSome_iff_exists.1 hu
  have hgo : admits s g u = .go := by simp [admits, hrep]
  have had : admitted s g u = s := by simp [admitted, hrec, hrep]
  simp only [gateOnce, hu, hgo, had]

theorem stage1_not_stack {s : State} {g : Gang} {lane n aligned : Nat} {base ea : Dbl} {off : Int} {pooled global : Bool}
    (h : stage1 s g lane base off n aligned pooled false global = .ok ea) : apertureOf ea ≠ .stack := by
  unfold stage1 at h
  intro hst
  split at h
  · cases h
  next x hx =>
    split at h
    · cases h
    · split at h
      next hap =>
        split at h <;> cases h
        rw [hap] at hst
        cases hst
      next hap =>
        split at h <;> cases h
        rw [hap] at hst
        cases hst
      · cases h

theorem pooledLoc_place {s : State} {g : Gang} {ea : Dbl} {n : Nat} {own : Bool} {l : Loc} (h : pooledLoc s g ea n own = some l) :
    ∀ k, l.place ≠ .stack k := by
  unfold pooledLoc at h
  simp only at h
  split at h
  · cases h
  · split at h <;> grind

/-- An access outside the stack arrives at a place outside the stack. -/
theorem arrive_unitAt {s s1 : State} {g : Gang} {lane n : Nat} {ea : Dbl} {need : Needs} {t : Target} (hg : gangOf s g.id = some g)
    (h : arrive s g lane ea n need = (s1, .ok t)) (hs : apertureOf ea ≠ .stack) : (unitAt s1 g t.loc).isSome = true := by
  cases t with
  | glob pa leaf => rfl
  | core l =>
    obtain ⟨rfl, hl⟩ := arrive_core_ok h
    refine unitAt_isSome (onCoreLoc_place hg hl).1 ?_
    unfold onCoreLoc at hl
    split at hl
    · exact pooledLoc_place hl
    next hst => exact absurd hst hs
    · cases hl

/-! ### The line that `mwait` watches (R320) -/

theorem readByte_pick (s : State) (n : Nat) (l : Loc) : readByte (pick s n).2 l = readByte s l := by
  unfold pick
  split <;> rfl

theorem sameBytes_touchLine (s : State) (line : Nat) : SameBytes s (touchLine s line) := by
  intro l
  show readByte (if s.lines.contains line || decide ((sliceMates s line).length < sliceLines (128 * line / 2 ^ 46)) then s
    else match pickFrom s (sliceMates s line) with
      | (some x, s') => dropLine s' x
      | (none, s') => s') l = readByte s l
  split
  · rfl
  · have hpick : readByte (pickFrom s (sliceMates s line)).2 l = readByte s l := readByte_pick s _ l
    split
    next x s' h =>
      rw [h] at hpick
      exact (readByte_wakeMwait _ _ _ _).trans hpick
    next s' h =>
      rw [h] at hpick
      exact hpick

theorem mem_lines_touchLine (s : State) (line : Nat) : line ∈ (touchLine s line).lines := List.mem_cons_self ..

/-! ### The barrier instructions of a gang that wait or try (R244, R245) -/

section
variable {s s1 : State} {g : Gang} {c : ClauseRun} {a b : Nat} {t : Target} (hi : Issues s .none g c)
include hi

theorem barOnce_arrived (hw : windowOnce g (activeMask c) [] [.pair a, .reg b] = none)
    (h1 : stage1 s g (lowest (activeMask c)) (laneAddr g (lowest (activeMask c)) a) 0 16 16 true false false =
      .ok (laneAddr g (lowest (activeMask c)) a))
    (harr : arrive s g (lowest (activeMask c)) (laneAddr g (lowest (activeMask c)) a) 16 { r := true } = (s1, .ok t))
    (hrec : (launchD s1 g.launch).desc.recording = false) (hrep : (launchD s1 g.launch).desc.replaying = false)
    (k : State → Gang → ClauseRun → Loc → Bool → State) :
    barOnce s b a k = .next (k s1 { g with gate := none } c t.loc
      ((readBar s1 t.loc).phase != (rdReg g.level (thr g (lowest (activeMask c))) b).getLsbD 0)) := by
  have hu := arrive_unitAt (issuer_gangOf hi.issuer).2.1 harr (stage1_not_stack h1)
  refine (issue_ok hi _).trans ?_
  simp only [hw, h1, harr, gateOnce_unlogged hu hrec hrep]

theorem joinCell_arrived (hw : windowOnce g (activeMask c) [] [.pair a] = none)
    (h1 : stage1 s g (lowest (activeMask c)) (laneAddr g (lowest (activeMask c)) a) 0 8 8 false false true =
      .ok (laneAddr g (lowest (activeMask c)) a))
    (harr : arrive s g (lowest (activeMask c)) (laneAddr g (lowest (activeMask c)) a) 8 { r := true, cell := true } = (s1, .ok t))
    (hrec : (launchD s1 g.launch).desc.recording = false) (hrep : (launchD s1 g.launch).desc.replaying = false) :
    let ea := laneAddr g (lowest (activeMask c)) a
    let g2 := { g with gate := none }
    joinCell s g c a = if stopHeld s1 g (hitsOf s1 g (lowest (activeMask c)) ea 8 false true) = true then { s with issuing := none }
      else if cellState s1 t.loc.off = 0 then complete s1 g2 { c with hits := hitsOf s1 g2 (lowest (activeMask c)) ea 8 false true } .none
      else blockAt (appendWaiter s1 g2 ea t.loc.off) g2 c .none (activeMask c) 5 (.cells false) := by
  have hu := arrive_unitAt (issuer_gangOf hi.issuer).2.1 harr (stage1_not_stack h1)
  unfold joinCell
  simp only [hw, h1, harr, gateOnce_unlogged hu hrec hrep]
  rfl

end

/-! ### `mwait` and `migrate` -/

theorem mwaitRead_arrived {s s1 : State} {g : Gang} {lane : Nat} {ea : Dbl} {t : Target}
    (harr : arrive s g lane ea 4 { r := true, sum := some false } = (s1, .ok t)) (hb : cellBusy s1 t = false) :
    mwaitRead s g lane ea = (monitorLine s1 t, .ok (t.loc, BitVec.ofNat 32 (readNat s1 t.loc 4))) := by
  simp only [mwaitRead, harr, hb, Bool.false_eq_true, if_false]

/-- Settles O36: each instruction after what it has reached. -/
theorem waitingResults : Obligations.WaitingResults := by
  unfold Obligations.WaitingResults
  intro s g c b a d hi A k ea bv g2
  have hiss := hi.issuer
  refine ⟨fun hm i hmem => ?_, fun s1 t hw h1 harr hrec hrep => ?_, fun hm => ?_⟩
  · simp only [List.mem_cons, List.not_mem_nil, or_false] at hmem
    obtain rfl | rfl | rfl | rfl | rfl | rfl | rfl | rfl | rfl | rfl | rfl | rfl | rfl := hmem
    · exact (exec_barWait b a s).trans (unlessStopping_stops hiss hm _)
    · exact (exec_barBlk s).trans (unlessStopping_stops hiss hm _)
    · exact (exec_barClu s).trans (unlessStopping_stops hiss hm _)
    · exact (exec_mwait b a d s).trans (unlessStopping_stops hiss hm _)
    · exact (exec_carve b a d s).trans (unlessStopping_stops hiss hm _)
    · exact (exec_join a s).trans (unlessStopping_stops hiss hm _)
    · exact (exec_take a d s).trans (unlessStopping_stops hiss hm _)
    · exact (exec_migrate a d s).trans (unlessStopping_stops hiss hm _)
    · exact (exec_cpyWait b s).trans (unlessStopping_stops hiss hm _)
    · exact (exec_cpyVis a b s).trans (unlessStopping_stops hiss hm _)
    · exact (exec_mfence s).trans (unlessStopping_stops hiss hm _)
    · exact (exec_ringAdv b a d s).trans (unlessStopping_stops hiss hm _)
    · exact (exec_halt s).trans (unlessStopping_stops hiss hm _)
  · exact (exec_barTry b a d s).trans (barOnce_arrived hi hw h1 harr hrec hrep _)
  have goes : ∀ {run}, unlessStopping s run = run := unlessStopping_goes hiss hm _
  refine ⟨fun s1 t hw h1 harr hrec hrep => ?_, fun ht => ⟨?_, ?_⟩, fun ht => ⟨?_, ?_, ?_⟩, fun s1 l v hw h1 hr => ?_,
    fun s1 t harr hb => ?_, fun ht hw => ?_, fun ht => ?_, fun t ht hp => ?_, fun t ht hp => ?_, fun s1 t ha hw h1 harr hrec hrep => ?_,
    fun h => ?_, fun s1 home ht hl hw hh => ?_⟩
  · have hexec : exec (.barWait b a) s = _ := (exec_barWait b a s).trans (goes.trans (barOnce_arrived hi hw h1 harr hrec hrep _))
    refine ⟨fun h => hexec.trans (congrArg _ (if_pos (bne_iff_ne.2 h))), fun h => hexec.trans (congrArg _ (if_neg ?_))⟩
    exact fun hne => bne_iff_ne.1 hne h
  · refine (exec_barBlk s).trans (goes.trans ((issue_ok hi _).trans (congrArg _ (if_neg ?_))))
    simp [ht]
  · refine (exec_barClu s).trans (goes.trans ((issue_ok hi _).trans (congrArg _ (if_neg ?_))))
    simp [ht]
  · exact (exec_barBlk s).trans (goes.trans ((issue_ok hi _).trans (congrArg _ (if_pos (bne_iff_ne.2 ht)))))
  · exact (exec_barClu s).trans (goes.trans ((issue_ok hi _).trans (congrArg _ (if_pos (bne_iff_ne.2 ht)))))
  · exact (exec_carve b a d s).trans (goes.trans ((issue_ok hi _).trans (congrArg _ (if_pos (bne_iff_ne.2 ht)))))
  · intro c1
    have hexec : exec (.mwait b a d) s = .next (if stopHeld s1 g c1.hits then { s with issuing := none }
        else if v != bv then complete s1 (mapLanes A (fun _ t => wrReg g.level t d v) g) c1 .none
        else blockAt s1 g c1 .none A 9 (.mwait l false (clkOf s1 g.core))) := by
      refine (exec_mwait b a d s).trans (goes.trans ((issue_ok hi _).trans ?_))
      have h1' : stage1 s g (lowest (activeMask c)) (laneAddr g (lowest (activeMask c)) a) 0 4 4 true false true = .ok ea := h1
      simp only [show windowOnce g (activeMask c) [.reg d] [.pair a, .reg b] = none from hw, h1',
        show mwaitRead s g (lowest (activeMask c)) ea = _ from hr]
      rfl
    refine ⟨fun h => hexec.trans (congrArg _ (if_pos h)), fun h => ⟨fun hv => ?_, fun hv => ?_⟩⟩
    · rw [hexec, if_neg (by simp [h]), if_pos (bne_iff_ne.2 hv)]
    · rw [hexec, if_neg (by simp [h]), if_neg (by simp [hv])]
  · refine ⟨_, mwaitRead_arrived harr hb, ?_, ?_⟩
    · cases t with
      | glob pa leaf => exact sameBytes_touchLine s1 (pa / 128)
      | core l => exact fun l => rfl
    · rintro pa leaf rfl
      exact mem_lines_touchLine s1 (pa / 128)
  · refine (exec_carve b a d s).trans (goes.trans ((issue_ok hi _).trans ?_))
    simp only [ht, bne_self_eq_false, Bool.false_eq_true, if_false,
      show windowOnce g (activeMask c) [.reg d] [.reg a, .reg b] = none from hw]
    rfl
  · refine (exec_join 0 s).trans (goes.trans ((issue_ok hi _).trans ?_))
    simp only [if_true, ht]
    rfl
  · refine (exec_join 0 s).trans (goes.trans ((issue_ok hi _).trans ?_))
    simp only [if_true, ht, hp]
    rfl
  · refine (exec_join 0 s).trans (goes.trans ((issue_ok hi _).trans ?_))
    simp only [if_true, ht, hp, Bool.false_eq_true, if_false]
    rfl
  · refine (exec_join a s).trans (goes.trans ((issue_ok hi _).trans (congrArg _ ((if_neg ha).trans ?_))))
    exact joinCell_arrived hi hw h1 harr hrec hrep
  · exact (exec_migrate a d s).trans (goes.trans ((issue_ok hi _).trans (congrArg _ (if_pos h))))
  · intro status
    refine (exec_migrate a d s).trans (goes.trans ((issue_ok hi _).trans ?_))
    have hcond : ¬ (g.task = 0 ∨ g.level ≠ 0) := fun h => h.elim ht (absurd hl)
    simp only [if_neg hcond, show windowOnce g (activeMask c) [.reg d] [.pair a] = none from hw,
      show homeOf s g (lowest (activeMask c)) (laneAddr g (lowest (activeMask c)) a) = (s1, .ok home) from hh]
    simp only [hl]
    rfl

end Sys2Proof.Machine
end

section

/-!
# Barrier objects (R239 to R245)
-/

namespace Sys2Proof.Machine

-- One proof at a time: each waiting thread would reserve a stack of its own.
set_option Elab.async false

/-! ### A change of what gangs wait for leaves bytes and threads -/

/-- The gangs' conditions changed by a function. -/
def condsMapped (f : Cond → Cond) (s : State) : State := { s with gangs := s.gangs.map (Gang.mapConds f) }

theorem gangOf_condsMapped (f : Cond → Cond) (s : State) (h : Nat) : gangOf (condsMapped f s) h = (gangOf s h).map (Gang.mapConds f) :=
  findBy_map (key := Gang.id) (f := Gang.mapConds f) (fun _ => rfl) h s.gangs

theorem bytesAt_condsMapped (f : Cond → Cond) (s : State) (p : Place) : bytesAt (condsMapped f s) p = bytesAt s p := by
  cases p with
  | phys => rfl
  | scratch b => rfl
  | priv k => simp [bytesAt, spaceOf, gangOf_condsMapped, Option.map_map, Function.comp_def, Gang.mapConds]
  | stack k => simp [bytesAt, spaceOf, gangOf_condsMapped, Option.map_map, Function.comp_def, Gang.mapConds]

theorem readByte_condsMapped (f : Cond → Cond) (s : State) (l : Loc) : readByte (condsMapped f s) l = readByte s l := by
  rw [readByte, bytesAt_condsMapped, readByte]

theorem sameThreads_condsMapped (f : Cond → Cond) (s : State) : SameThreads s (condsMapped f s) := fun h => by
  rw [gangOf_condsMapped]
  cases gangOf s h <;> rfl

/-! ### A place exists after a write -/

theorem hasPlace_setSpace {s : State} {p q : Place} {x : Space} (h : HasPlace s q) : HasPlace (setSpace s p x) q := by
  have hgang : ∀ (id k : Nat) (f : Gang → Gang), (∀ y, (f y).id = y.id) → (gangOf s k).isSome → (gangOf (modGang s id f) k).isSome := fun id k f hf hk => by
    rw [gangOf_modGang _ _ _ _ hf]
    split
    · simpa using hk
    · exact hk
  cases p with
  | phys => exact h
  | scratch b =>
    cases q with
    | phys => trivial
    | scratch c =>
      show (blockOf (modBlock s b fun y => { y with pad := x }) c).isSome = true
      rw [blockOf_modBlock s b c (fun y => { y with pad := x }) fun _ => rfl]
      split
      · exact (Option.isSome_map ..).trans h
      · exact h
    | priv k => exact h
    | stack k => exact h
  | priv b =>
    cases q with
    | phys => trivial
    | scratch c => exact h
    | priv k => exact hgang _ _ _ (fun _ => rfl) h
    | stack k => exact hgang _ _ _ (fun _ => rfl) h
  | stack b =>
    cases q with
    | phys => trivial
    | scratch c => exact h
    | priv k => exact hgang _ _ _ (fun _ => rfl) h
    | stack k => exact hgang _ _ _ (fun _ => rfl) h

theorem hasPlace_condsMapped {f : Cond → Cond} {s : State} {q : Place} (h : HasPlace s q) : HasPlace (condsMapped f s) q := by
  cases q with
  | phys => trivial
  | scratch b => exact h
  | priv k => exact (congrArg Option.isSome (gangOf_condsMapped f s k)).trans ((Option.isSome_map ..).trans h)
  | stack k => exact (congrArg Option.isSome (gangOf_condsMapped f s k)).trans ((Option.isSome_map ..).trans h)

theorem hasPlace_writeBytes {s : State} {l : Loc} {bs : List Byte} {q : Place} (h : HasPlace s q) : HasPlace (writeBytes s l bs) q := by
  refine hasPlace_condsMapped (f := Cond.touched l.place (granules l.off bs.length)) ?_
  unfold putBytes
  split
  · cases q <;> exact h
  · exact hasPlace_setSpace h

/-! ### Numbers from bytes -/

theorem readNat_of_bytes {t : State} {l : Loc} {n x : Nat} (h : ∀ i < n, readByte t ⟨l.place, l.off + i⟩ = (leOf n x).getD i 0) :
    readNat t l n = x % 256 ^ n := by
  rw [readNat_eq, ← rdLE_wrBytes_leOf n x l.off []]
  refine rdLE_congr n _ _ _ _ fun i hi => ?_
  rw [rdByte_wrBytes, leOf_length, if_pos (by omega), Nat.add_sub_cancel_left]
  exact h i hi

/-! ### The layout of a barrier object (R239) -/

/-- The sixteen bytes of a barrier object. -/
def barBytes (o : BarObj) : List Byte := leOf 4 o.ctl ++ leOf 4 o.bal.toNat ++ leOf 4 o.stat.toNat ++ leOf 4 0

theorem readByte_writeBar {s : State} {l : Loc} (h : HasPlace s l.place) (o : BarObj) (m : Loc) : readByte (writeBar s l o) m =
    if m.place = l.place ∧ l.off ≤ m.off ∧ m.off < l.off + 16 then (barBytes o).getD (m.off - l.off) 0 else readByte s m := by
  let bs := leOf 4 o.ctl ++ leOf 4 o.bal.toNat ++ leOf 4 o.stat.toNat
  have hlen : bs.length = 12 := by simp [bs]
  have hwrite : readByte (writeBar s l o) m = readByte (writeBytes (writeBytes s l bs) ⟨l.place, l.off + 12⟩ (leOf 4 0)) m :=
    readByte_condsMapped _ _ _
  rw [hwrite, readByte_writeBytes (writeBytes s l bs) ⟨l.place, l.off + 12⟩ m (leOf 4 0) (hasPlace_writeBytes h), readByte_writeBytes s l m bs h,
    leOf_length, hlen]
  have hbar : barBytes o = bs ++ leOf 4 0 := rfl
  by_cases hp : m.place = l.place
  · by_cases h1 : l.off + 12 ≤ m.off ∧ m.off < l.off + 12 + 4
    · rw [if_pos ⟨hp, h1⟩, if_pos ⟨hp, by omega⟩, hbar, List.getD_append_right _ _ _ _ (by omega), hlen, Nat.sub_sub]
    · rw [if_neg fun h => h1 h.2]
      by_cases h2 : l.off ≤ m.off ∧ m.off < l.off + 12
      · rw [if_pos ⟨hp, h2⟩, if_pos ⟨hp, by omega⟩, hbar, List.getD_append bs _ _ _ (by omega)]
      · rw [if_neg fun h => h2 h.2, if_neg fun h => by omega]
  · simp [hp]

theorem sameBytesBut_writeBar {s : State} {l : Loc} (h : HasPlace s l.place) (o : BarObj) : SameBytesBut s (writeBar s l o) l 16 := fun m => by
  by_cases hm : m.place = l.place ∧ l.off ≤ m.off ∧ m.off < l.off + 16
  · exact .inl hm
  · exact .inr (by rw [readByte_writeBar h, if_neg hm])

theorem sameThreads_writeBar (s : State) (l : Loc) (o : BarObj) : SameThreads s (writeBar s l o) :=
  sameThreads_trans (sameThreads_trans (sameThreads_writeBytes _ _ _) (sameThreads_writeBytes _ _ _)) (sameThreads_condsMapped _ _)

/-- A word of the object is read back. -/
theorem readNat_writeBar {s : State} {l : Loc} (h : HasPlace s l.place) (o : BarObj) {k x : Nat} (hk : k ≤ 12)
    (hx : ∀ i < 4, (barBytes o).getD (k + i) 0 = (leOf 4 x).getD i 0) : readNat (writeBar s l o) ⟨l.place, l.off + k⟩ 4 = x % 2 ^ 32 := by
  refine readNat_of_bytes (x := x) fun i hi => ?_
  rw [readByte_writeBar h, if_pos ⟨rfl, by show l.off ≤ l.off + k + i; omega, by show l.off + k + i < _; omega⟩, ← hx i hi]
  congr 1
  show l.off + k + i - l.off = k + i
  omega

section
variable {s : State} {l : Loc} (h : HasPlace s l.place) (o : BarObj)
include h

theorem readNat_writeBar_ctl : readNat (writeBar s l o) l 4 = o.ctl % 2 ^ 32 :=
  readNat_writeBar h o (k := 0) (by decide) fun i hi => by interval_cases i <;> rfl

theorem readNat_writeBar_bal : readNat (writeBar s l o) { l with off := l.off + 4 } 4 = o.bal.toNat :=
  (readNat_writeBar h o (k := 4) (by decide) fun i hi => by interval_cases i <;> rfl).trans (Nat.mod_eq_of_lt o.bal.isLt)

theorem readNat_writeBar_stat : readNat (writeBar s l o) { l with off := l.off + 8 } 4 = o.stat.toNat :=
  (readNat_writeBar h o (k := 8) (by decide) fun i hi => by interval_cases i <;> rfl).trans (Nat.mod_eq_of_lt o.stat.isLt)

theorem readNat_writeBar_zero : readNat (writeBar s l o) { l with off := l.off + 12 } 4 = 0 :=
  readNat_writeBar h o (k := 12) (x := 0) (by decide) fun i hi => by interval_cases i <;> rfl

/-- What is written is read back, but for the reserved bits of the status. -/
theorem readBar_writeBar (hp : o.pending < 2 ^ 15) (he : o.expected < 2 ^ 15) :
    readBar (writeBar s l o) l = { o with stat := o.stat &&& 0xF7 } := by
  have hctl : o.ctl = (if o.phase then 2 ^ 31 else 0) + o.pending * 2 ^ 16 + o.expected := rfl
  unfold readBar
  rw [readNat_writeBar_ctl h, readNat_writeBar_bal h, readNat_writeBar_stat h, Nat.mod_eq_of_lt (by rw [hctl]; split <;> omega)]
  rcases o with ⟨ph, pe, ex, ba, st⟩
  simp only [BarObj.mk.injEq, BitVec.ofNat_toNat, BitVec.setWidth_eq, and_true]
  simp only at hp he hctl
  rw [hctl]
  refine ⟨?_, ?_, ?_⟩
  · cases ph <;> simp [bit] <;> omega
  · cases ph <;> simp [bits] <;> omega
  · cases ph <;> simp [bits] <;> omega

end

/-! ### The flip rule (R240) -/

/-- The object after its phase has flipped. -/
def flippedBar (o : BarObj) : BarObj := { phase := !o.phase, pending := o.expected, expected := o.expected, bal := 0, stat := 0 }

theorem test_flips {o : BarObj} (hp : o.pending = 0) (hb : o.bal = 0) (hh : o.stat.getLsbD 1 = false) : o.test = flippedBar o := by
  rw [BarObj.test, if_pos ⟨hp, hb, hh⟩, flippedBar, hb]

theorem test_keeps {o : BarObj} (h : 0 < o.pending ∨ o.bal ≠ 0 ∨ o.stat.getLsbD 1 = true) : o.test = o := by
  refine if_neg fun ⟨hp, hb, hh⟩ => ?_
  obtain h | h | h := h
  · omega
  · exact h hb
  · exact Bool.false_ne_true (hh.symm.trans h)

/-- An object that a barrier may hold: its counts in range, its reserved status bits clear. -/
structure BarOk (o : BarObj) : Prop where
  pending : o.pending < 2 ^ 15
  expected : o.expected < 2 ^ 15
  stat : o.stat &&& 0xF7 = o.stat

theorem barOk_readBar (s : State) (l : Loc) : BarOk (readBar s l) where
  pending := Nat.mod_lt _ (by decide)
  expected := Nat.mod_lt _ (by decide)
  stat := by
    show BitVec.ofNat 32 _ &&& 0xF7#32 &&& 0xF7#32 = _
    rw [BitVec.and_assoc]
    rfl

theorem barOk_flippedBar {o : BarObj} (h : BarOk o) : BarOk (flippedBar o) := ⟨h.expected, h.expected, BitVec.zero_and⟩

theorem readBar_writeBar_of_ok {s : State} {l : Loc} (h : HasPlace s l.place) {o : BarObj} (ho : BarOk o) : readBar (writeBar s l o) l = o := by
  rw [readBar_writeBar h o ho.pending ho.expected, ho.stat]

/-! ### Status bits -/

section
variable {x : Word} (hx : x &&& 0xF7 = x)
include hx

theorem stat_or {y : Word} (hy : y &&& 0xF7 = y) : (x ||| y) &&& 0xF7 = x ||| y := by
  rw [BitVec.and_or_distrib_right, hx, hy]

theorem stat_and (y : Word) : (x &&& y) &&& 0xF7 = x &&& y := by
  rw [BitVec.and_assoc, BitVec.and_comm y, ← BitVec.and_assoc, hx]

end

theorem channel_stat {ch : Nat} (h : ch < 16) : (1 ||| BitVec.ofNat 32 (ch * 16) : Word) &&& 0xF7 = 1 ||| BitVec.ofNat 32 (ch * 16) ∧
    (1 ||| BitVec.ofNat 32 (ch * 16) : Word).getLsbD 1 = false := by
  interval_cases ch <;> decide

/-! ### Arrivals, postings and faults (R240, R241, R225, R233) -/

/-- The object that an arrival leaves, before the flip is tested. -/
def arrivedBar (o : BarObj) (hold : Bool) : BarObj :=
  { o with pending := o.pending - 1, stat := o.stat ||| (if o.pending == 0 then 4 else 0) ||| (if hold then 2 else 0) }

/-- The result word of an arrival that leaves an object with the phase `ph` (R245). -/
def arrivalWord (o : BarObj) (ph : Bool) : Word :=
  BitVec.ofNat 32 ((if ph != o.phase then 4 else 0) + (if o.pending == 0 then 2 else 0) + (if o.phase then 1 else 0))

theorem barArrive_eq (s : State) (l : Loc) (hold : Bool) : barArrive s l hold = (writeBar s l (arrivedBar (readBar s l) hold).test,
    arrivalWord (readBar s l) (arrivedBar (readBar s l) hold).test.phase) := rfl

section
variable {o : BarObj}

theorem arrivedBar_flips (hp : o.pending ≤ 1) (hb : o.bal = 0) (hh : o.stat.getLsbD 1 = false) : (arrivedBar o false).test = flippedBar o := by
  have hbit : (arrivedBar o false).stat.getLsbD 1 = false := by
    have hstat : (arrivedBar o false).stat = o.stat ||| if o.pending = 0 then 4 else 0 := by simp [arrivedBar]
    rw [hstat, BitVec.getLsbD_or, hh]
    split <;> rfl
  rw [test_flips (o := arrivedBar o false) (show o.pending - 1 = 0 by omega) hb hbit]
  simp only [flippedBar, arrivedBar]

theorem arrivedBar_counts (h0 : o.pending ≠ 0) (hk : 1 < o.pending ∨ o.bal ≠ 0 ∨ o.stat.getLsbD 1 = true) :
    (arrivedBar o false).test = { o with pending := o.pending - 1 } := by
  have harr : arrivedBar o false = { o with pending := o.pending - 1 } := by simp [arrivedBar, h0]
  rw [harr]
  exact test_keeps (hk.imp (fun hk => show 0 < o.pending - 1 by omega) id)

theorem arrivedBar_over (h0 : o.pending = 0) (hk : o.bal ≠ 0 ∨ o.stat.getLsbD 1 = true) :
    (arrivedBar o false).test = { o with stat := o.stat ||| 4 } := by
  have harr : arrivedBar o false = { o with stat := o.stat ||| 4 } := by simp [arrivedBar, h0]
  rw [harr]
  refine test_keeps (.inr (hk.imp id fun hk => ?_))
  show (o.stat ||| 4#32).getLsbD 1 = true
  rw [BitVec.getLsbD_or, hk, Bool.true_or]

theorem arrivedBar_hold :
    (arrivedBar o true).test = { o with pending := o.pending - 1, stat := o.stat ||| if o.pending = 0 then 6 else 2 } := by
  have harr : arrivedBar o true = { o with pending := o.pending - 1, stat := o.stat ||| if o.pending = 0 then 6 else 2 } := by
    by_cases h0 : o.pending = 0
    · simp [arrivedBar, h0, BitVec.or_assoc]
    · simp [arrivedBar, h0]
  have hbit : (o.stat ||| if o.pending = 0 then 6 else 2).getLsbD 1 = true := by
    rw [BitVec.getLsbD_or]
    split <;> exact Bool.or_true _
  rw [harr]
  exact test_keeps (.inr (.inr hbit))

theorem arrivalWord_flips : arrivalWord o (!o.phase) = (if o.phase then 1 else 0) + 4 + if o.pending = 0 then 2 else 0 := by
  unfold arrivalWord
  by_cases h0 : o.pending = 0 <;> cases o.phase <;> simp [h0]

theorem arrivalWord_keeps : arrivalWord o o.phase = (if o.phase then 1 else 0) + if o.pending = 0 then 2 else 0 := by
  unfold arrivalWord
  by_cases h0 : o.pending = 0 <;> cases o.phase <;> simp [h0]

end

section
variable {s : State} {l : Loc} (h : HasPlace s l.place)

include h

theorem barArrive_flips (hp : (readBar s l).pending ≤ 1) (hb : (readBar s l).bal = 0) (hh : (readBar s l).stat.getLsbD 1 = false) :
    readBar (barArrive s l false).1 l = flippedBar (readBar s l) ∧
      (barArrive s l false).2 = (if (readBar s l).phase then 1 else 0) + 4 + if (readBar s l).pending = 0 then 2 else 0 := by
  rw [barArrive_eq, arrivedBar_flips hp hb hh]
  exact ⟨readBar_writeBar_of_ok h (barOk_flippedBar (barOk_readBar s l)), arrivalWord_flips⟩

theorem barArrive_counts (h0 : (readBar s l).pending ≠ 0)
    (hk : 1 < (readBar s l).pending ∨ (readBar s l).bal ≠ 0 ∨ (readBar s l).stat.getLsbD 1 = true) :
    readBar (barArrive s l false).1 l = { readBar s l with pending := (readBar s l).pending - 1 } ∧
      (barArrive s l false).2 = if (readBar s l).phase then 1 else 0 := by
  obtain ⟨h1, h2, h3⟩ := barOk_readBar s l
  rw [barArrive_eq, arrivedBar_counts h0 hk]
  refine ⟨readBar_writeBar_of_ok h ⟨lt_of_le_of_lt (Nat.sub_le _ _) h1, h2, h3⟩, (arrivalWord_keeps (o := readBar s l)).trans ?_⟩
  rw [if_neg h0]
  exact BitVec.add_zero _

theorem barArrive_over (h0 : (readBar s l).pending = 0) (hk : (readBar s l).bal ≠ 0 ∨ (readBar s l).stat.getLsbD 1 = true) :
    readBar (barArrive s l false).1 l = { readBar s l with stat := (readBar s l).stat ||| 4 } ∧
      (barArrive s l false).2 = (if (readBar s l).phase then 1 else 0) + 2 := by
  obtain ⟨h1, h2, h3⟩ := barOk_readBar s l
  rw [barArrive_eq, arrivedBar_over h0 hk]
  refine ⟨readBar_writeBar_of_ok h ⟨h1, h2, stat_or h3 rfl⟩, (arrivalWord_keeps (o := readBar s l)).trans ?_⟩
  rw [if_pos h0]

theorem barArrive_hold : readBar (barArrive s l true).1 l = { readBar s l with
        pending := (readBar s l).pending - 1, stat := (readBar s l).stat ||| if (readBar s l).pending = 0 then 6 else 2 } ∧
      (barArrive s l true).2 = (if (readBar s l).phase then 1 else 0) + if (readBar s l).pending = 0 then 2 else 0 := by
  obtain ⟨h1, h2, h3⟩ := barOk_readBar s l
  rw [barArrive_eq, arrivedBar_hold]
  exact ⟨readBar_writeBar_of_ok h ⟨lt_of_le_of_lt (Nat.sub_le _ _) h1, h2, stat_or h3 (by split <;> rfl)⟩, arrivalWord_keeps (o := readBar s l)⟩

/-- A posting, or a fault of a copy: the object with its balance and status changed, and the flip tested. -/
theorem readBar_writeBar_test {o : BarObj} (ho : BarOk o) : readBar (writeBar s l o.test) l = o.test := by
  refine readBar_writeBar_of_ok h ?_
  unfold BarObj.test
  split
  · exact ⟨ho.expected, ho.expected, BitVec.zero_and⟩
  · exact ho

theorem barAdd_effect {v : Int} (hv : v ≠ 0) :
    let o := readBar s l
    let hold := o.stat.getLsbD 1
    (o.pending = 0 ∧ o.bal + BitVec.ofInt 32 v = 0 ∧ (hold = false ∨ 0 < v) → readBar (barAdd s l v) l = flippedBar o) ∧
    (0 < o.pending ∨ o.bal + BitVec.ofInt 32 v ≠ 0 ∨ (hold = true ∧ v < 0) →
      readBar (barAdd s l v) l = { o with bal := o.bal + BitVec.ofInt 32 v, stat := if 0 < v then o.stat &&& ~~~2#32 else o.stat }) := by
  intro o hold
  let o1 : BarObj := { o with bal := o.bal + BitVec.ofInt 32 v, stat := if 0 < v then o.stat &&& ~~~2#32 else o.stat }
  obtain ⟨h1, h2, h3⟩ := barOk_readBar s l
  have hok : BarOk o1 := ⟨h1, h2, by
    show (if _ then _ else _) &&& 0xF7#32 = if _ then _ else _
    split
    · exact stat_and h3 _
    · exact h3⟩
  have hadd : readBar (barAdd s l v) l = o1.test := by
    rw [barAdd, if_neg hv]
    exact readBar_writeBar_test h hok
  rw [hadd]
  refine ⟨fun ⟨hp, hb, hh⟩ => ?_, fun hk => test_keeps (hk.imp id (.imp id fun hk => ?_))⟩
  · refine test_flips (o := o1) hp hb ?_
    show (if _ then _ else _ : Word).getLsbD 1 = false
    split
    · rw [BitVec.getLsbD_and]
      exact Bool.and_false _
    next hlt => exact hh.resolve_right hlt
  · show (if _ then _ else _ : Word).getLsbD 1 = true
    rw [if_neg (by omega)]
    exact hk.1

theorem barShort_effect {ch : Nat} (hch : ch < 16) :
    let o := readBar s l
    (o.pending = 0 → o.bal = 0 → o.stat.getLsbD 1 = false → readBar (barShort s l ch) l = flippedBar o) ∧
    (0 < o.pending ∨ o.bal ≠ 0 ∨ o.stat.getLsbD 1 = true → readBar (barShort s l ch) l =
      { o with stat := if o.stat.getLsbD 0 then o.stat else (o.stat &&& ~~~0xF0#32) ||| 1 ||| BitVec.ofNat 32 (ch * 16) }) := by
  intro o
  let st : Word := if o.stat.getLsbD 0 then o.stat else (o.stat &&& ~~~0xF0#32) ||| 1 ||| BitVec.ofNat 32 (ch * 16)
  obtain ⟨h1, h2, h3⟩ := barOk_readBar s l
  obtain ⟨hc1, hc2⟩ := channel_stat hch
  have hst : st &&& 0xF7 = st ∧ st.getLsbD 1 = o.stat.getLsbD 1 := by
    simp only [st]
    split
    · exact ⟨h3, rfl⟩
    · rw [BitVec.or_assoc]
      refine ⟨stat_or (stat_and h3 _) hc1, ?_⟩
      rw [BitVec.getLsbD_or, hc2, Bool.or_false, BitVec.getLsbD_and]
      exact Bool.and_true _
  have hadd : readBar (barShort s l ch) l = ({ o with stat := st } : BarObj).test := readBar_writeBar_test h ⟨h1, h2, hst.1⟩
  rw [hadd]
  exact ⟨fun hp hb hh => test_flips hp hb (hst.2.trans hh), fun hk => test_keeps (hk.imp id (.imp id hst.2.trans))⟩

end

/-! ### The barrier instructions of a lane (R245) -/

section
variable {s s1 : State} {g : Gang} {fly : Bool} {lane fn b a d : Nat} {t : Target}
  (harr : arrive s g lane (laneAddr g lane a) 16 { r := true, w := true, reads := fn != 0 } = (s1, .ok t))
include harr

theorem laneBar_stays (h : reachable s1 g lane (.bar fn b a d) (laneAddr g lane a) t = false) :
    laneStep s g fly lane (.bar fn b a d) = (s, .stays) := by
  simp only [laneStep, laneBar, harr, h, Bool.not_false, if_true]

theorem laneBar_acts (h : reachable s1 g lane (.bar fn b a d) (laneAddr g lane a) t = true)
    (hrec : (launchD s1 g.launch).desc.recording = false) (hrep : (launchD s1 g.launch).desc.replaying = false) :
    laneStep s g fly lane (.bar fn b a d) =
      if fn = 0 then (barInit s1 t.loc (rdReg g.level (thr g lane) b).toNat, .ok [] [])
      else if fn = 3 then (barAdd s1 t.loc (rdReg g.level (thr g lane) b).toInt, .ok [] [])
      else (putLane (barArrive s1 t.loc (fn == 2)).1 g.id lane (wrReg g.level · d (barArrive s1 t.loc (fn == 2)).2), .ok [] []) := by
  simp only [laneStep, laneBar, harr, h, Bool.not_true, Bool.false_eq_true, if_false]
  exact atUnit_unlogged _ _ _ hrec hrep

end

/-- Settles O34: the layout, every change of an object, and the instructions that make them. -/
theorem barrierEffects : Obligations.BarrierEffects := by
  unfold Obligations.BarrierEffects
  refine ⟨fun s l => ?_, fun s l o h hp he => ?_, fun s l h => ?_, fun s g fly lane fn b a d s1 t hg hl hfn => ?_⟩
  · obtain ⟨h1, h2, h3⟩ := barOk_readBar s l
    exact ⟨h1, h2, h3⟩
  · refine ⟨readBar_writeBar h o hp he, sameBytesBut_writeBar h o, (readNat_writeBar_ctl h o).trans (Nat.mod_eq_of_lt ?_),
      readNat_writeBar_stat h o, readNat_writeBar_zero h o⟩
    rw [BarObj.ctl]
    split <;> omega
  · intro o flipped old hold
    have hflipped : flipped = flippedBar o := rfl
    rw [hflipped]
    obtain ⟨h1, h2⟩ := barArrive_hold h
    refine ⟨fun n hn => ?_, barArrive_flips h, barArrive_counts h, barArrive_over h, h1, h2, if_pos rfl, fun v hv => barAdd_effect h hv,
      fun ch hch => barShort_effect h hch⟩
    exact readBar_writeBar_of_ok (hasPlace_writeBytes h) ⟨by show n < _; omega, by show n < _; omega, BitVec.zero_and⟩
  · intro ea harr
    refine ⟨laneBar_stays harr, fun hr hrec hrep => ?_⟩
    have hact := laneBar_acts (fly := fly) harr hr hrec hrep
    refine ⟨fun h0 => by rw [hact, if_pos h0], fun h3 => by rw [hact, if_neg (by omega), if_pos h3], fun r hmem hfr => ?_⟩
    have hfn : fn ≠ 0 ∧ fn ≠ 3 ∧ (fn == 2) = r.2 := by
      simp only [List.mem_cons, List.not_mem_nil, or_false] at hmem
      obtain rfl | rfl := hmem <;> subst hfr <;> decide
    obtain ⟨h0, h3, h2⟩ := hfn
    rw [if_neg h0, if_neg h3, h2] at hact
    subst hfr
    obtain ⟨g', hg', hth⟩ := gangOf_answered (sameThreads_writeBar s1 t.loc (arrivedBar (readBar s1 t.loc) r.2).test) hg hl true
      (wrReg g.level · d (barArrive s1 t.loc r.2).2)
    refine ⟨_, hact, readByte_putLane _ _ _ _, g', hg', ?_⟩
    rw [hth rfl]
    exact wrReg_writes _ _ _ _

end Sys2Proof.Machine
end

section

/-!
# Tags of granules (R201, R385, R386)
-/

namespace Sys2Proof.Machine

-- One proof at a time: each waiting thread would reserve a stack of its own.
set_option Elab.async false

/-! ### What leaves the tags (R201) -/

/-- Tags, launches and the gangs' and blocks' own tags stay; every gang and block stays in the state. -/
structure TagsKept (s t : State) : Prop where
  tags : t.tags = s.tags
  launches : t.launches = s.launches
  gangs : ∀ id, (gangOf t id).map (fun g => (g.priv.tags, g.stack.tags)) = (gangOf s id).map fun g => (g.priv.tags, g.stack.tags)
  blocks : ∀ id, (blockOf t id).map (fun b => b.pad.tags) = (blockOf s id).map fun b => b.pad.tags

namespace TagsKept
variable {s t u : State}

theorem refl (s : State) : TagsKept s s := ⟨rfl, rfl, fun _ => rfl, fun _ => rfl⟩

theorem trans (h : TagsKept s t) (k : TagsKept t u) : TagsKept s u :=
  ⟨k.tags.trans h.tags, k.launches.trans h.launches, fun id => (k.gangs id).trans (h.gangs id), fun id => (k.blocks id).trans (h.blocks id)⟩

theorem gang (h : TagsKept s t) {id : Nat} (hg : (gangOf s id).isSome = true) : (gangOf t id).isSome = true := by
  simpa using (congrArg Option.isSome (h.gangs id)).trans ((Option.isSome_map ..).trans hg)

theorem places (h : TagsKept s t) {p : Place} (hp : HasPlace s p) : HasPlace t p := by
  cases p with
  | phys => trivial
  | scratch b =>
    show (blockOf t b).isSome = true
    rw [← Option.isSome_map (f := fun x : Block => x.pad.tags), h.blocks, Option.isSome_map]
    exact hp
  | priv k => exact h.gang hp
  | stack k => exact h.gang hp

theorem spaceTags (h : TagsKept s t) (p : Place) : (spaceOf t p).tags = (spaceOf s p).tags := by
  have heq : ∀ {α : Type} (f : α → Space) (x y : Option α), x.map (fun a => (f a).tags) = y.map (fun a => (f a).tags) →
      ((x.map f).getD {}).tags = ((y.map f).getD {}).tags := fun f x y hxy => by
    cases x <;> cases y <;> simp_all
  cases p with
  | phys => rfl
  | scratch b => exact heq Block.pad _ _ (h.blocks b)
  | priv k =>
    refine heq Gang.priv _ _ ?_
    simpa [Option.map_map, Function.comp_def] using congrArg (Option.map Prod.fst) (h.gangs k)
  | stack k =>
    refine heq Gang.stack _ _ ?_
    simpa [Option.map_map, Function.comp_def] using congrArg (Option.map Prod.snd) (h.gangs k)

theorem tagAt (h : TagsKept s t) (l : Loc) : tagAt t l = Machine.tagAt s l := by
  unfold Machine.tagAt
  split
  · rw [h.tags]
  · rw [h.spaceTags]

theorem colourAt (h : TagsKept s t) (l : Loc) : colourAt t l = Machine.colourAt s l := by
  rw [Machine.colourAt, h.tagAt, Machine.colourAt]

theorem ctxOf (h : TagsKept s t) (g : Gang) : ctxOf t g = Machine.ctxOf s g := by
  unfold Machine.ctxOf launchD launchOf
  rw [h.launches]

end TagsKept

theorem tagsKept_woken {s t : State} (h : Woken s.gangs t.gangs) (ht : t.tags = s.tags) (hl : t.launches = s.launches)
    (hb : t.blocks = s.blocks) : TagsKept s t := by
  obtain ⟨f, hf⟩ := h.gangOf
  refine ⟨ht, hl, fun id => ?_, fun id => by rw [blockOf, hb, blockOf]⟩
  rw [hf]
  cases gangOf s id <;> rfl

theorem Translates.tagsKept {s t : State} (h : Translates s t) : TagsKept s t :=
  tagsKept_woken h.woken (congrArg State.tags h.rest : (untranslated s t).tags = s.tags) h.launches h.blocks

theorem tagsKept_modGang (s : State) (id : Nat) {f : Gang → Gang} (hid : ∀ x, (f x).id = x.id)
    (hf : ∀ x, gangOf s id = some x → (f x).priv.tags = x.priv.tags ∧ (f x).stack.tags = x.stack.tags) : TagsKept s (modGang s id f) := by
  refine ⟨rfl, rfl, fun h => ?_, fun _ => rfl⟩
  rw [gangOf_modGang _ _ _ _ hid]
  split
  next he =>
    subst he
    cases hx : gangOf s h with
    | none => rfl
    | some x =>
      obtain ⟨h1, h2⟩ := hf x hx
      simp [h1, h2]
  · rfl

theorem tagsKept_setSpace {s : State} {p : Place} {x : Space} (hx : x.tags = (spaceOf s p).tags) : TagsKept s (setSpace s p x) := by
  cases p with
  | phys => exact .refl s
  | scratch b =>
    refine ⟨rfl, rfl, fun _ => rfl, fun h => ?_⟩
    show (blockOf (modBlock s b fun y => { y with pad := x }) h).map _ = _
    rw [blockOf_modBlock s b h (fun y => { y with pad := x }) fun _ => rfl]
    split
    next he =>
      subst he
      cases hb : blockOf s h with
      | none => rfl
      | some y => simpa [spaceOf, hb] using hx
    · rfl
  | priv k => exact tagsKept_modGang s k (fun _ => rfl) fun y hy => ⟨by simpa [spaceOf, hy] using hx, rfl⟩
  | stack k => exact tagsKept_modGang s k (fun _ => rfl) fun y hy => ⟨rfl, by simpa [spaceOf, hy] using hx⟩

theorem tagsKept_wakeMwait (s : State) (l : Loc) (n : Nat) : TagsKept s (wakeMwait s l n) := tagsKept_woken ⟨_, rfl⟩ rfl rfl rfl

theorem tagsKept_writeBytes (s : State) (l : Loc) (bs : List Byte) : TagsKept s (writeBytes s l bs) := by
  refine .trans (t := putBytes s l bs) ?_ (tagsKept_wakeMwait _ _ _)
  unfold putBytes
  split
  · exact ⟨rfl, rfl, fun _ => rfl, fun _ => rfl⟩
  · exact tagsKept_setSpace rfl

theorem tagsKept_markDirty (s : State) (q : Asker) (ctx va pa : Nat) : TagsKept s (markDirty s q ctx va pa) := by
  unfold markDirty
  split
  · split
    · exact .refl s
    · exact ⟨rfl, rfl, fun _ => rfl, fun _ => rfl⟩
  · split
    · split
      · exact tagsKept_writeBytes _ _ _
      · exact .refl s
    · exact .refl s

/-! ### What leaves the entries of the buffers -/

/-- Every entry that stands in the buffers for an address still does. -/
def BuffersKept (s t : State) : Prop := ∀ q ctx va pa, Buffered s q ctx va pa → Buffered t q ctx va pa

theorem buffersKept_of_tlb {s t : State} (h : t.tlb = s.tlb) : BuffersKept s t := fun q ctx va pa ⟨e, he, hpa⟩ =>
  ⟨e, by rwa [found_congr h], hpa⟩

theorem buffersKept_mark (s : State) (e : TlbEntry) :
    BuffersKept s { s with tlb := s.tlb.map fun x => if x = e then { x with pending := true } else x } := by
  intro q ctx va pa ⟨x, hx, hpa⟩
  obtain ⟨b, hb, hmem, hin, hc⟩ : ∃ b ∈ q.levels, x ∈ s.tlb ∧ x.inBuffer b = true ∧ x.covers q.die ctx va = true := by
    simpa [found, List.mem_flatMap, List.mem_filter] using hx
  refine ⟨if x = e then { x with pending := true } else x, ?_, ?_⟩
  · refine List.mem_flatMap.2 ⟨b, hb, List.mem_filter.2 ⟨List.mem_map.2 ⟨x, hmem, rfl⟩, ?_⟩⟩
    rw [Bool.and_eq_true]
    split
    · exact ⟨hin, hc⟩
    · exact ⟨hin, hc⟩
  · split <;> exact hpa

theorem writeBytes_tlb (s : State) (l : Loc) (bs : List Byte) : (writeBytes s l bs).tlb = s.tlb := by
  show (putBytes s l bs).tlb = s.tlb
  unfold putBytes
  split
  · rfl
  · unfold setSpace
    split <;> rfl

theorem buffersKept_writeBytes (s : State) (l : Loc) (bs : List Byte) : BuffersKept s (writeBytes s l bs) :=
  buffersKept_of_tlb (writeBytes_tlb s l bs)

theorem buffersKept_markDirty (s : State) (q : Asker) (ctx va pa : Nat) : BuffersKept s (markDirty s q ctx va pa) := by
  unfold markDirty
  split
  · split
    · exact fun _ _ _ _ h => h
    · exact buffersKept_mark s _
  · split
    · split
      · exact buffersKept_writeBytes _ _ _
      · exact fun _ _ _ _ h => h
    · exact fun _ _ _ _ h => h

/-! ### Performing outstanding accesses (R311) leaves tags and entries -/

/-- Tags, places and entries of the buffers stay. -/
structure Drained (s t : State) : Prop where
  tags : TagsKept s t
  buffers : BuffersKept s t

theorem Drained.refl (s : State) : Drained s s := ⟨.refl s, fun _ _ _ _ h => h⟩

theorem Drained.trans {s t u : State} (h : Drained s t) (k : Drained t u) : Drained s u :=
  ⟨h.tags.trans k.tags, fun q ctx va pa hb => k.buffers q ctx va pa (h.buffers q ctx va pa hb)⟩

theorem drained_writeBytes (s : State) (l : Loc) (bs : List Byte) : Drained s (writeBytes s l bs) :=
  ⟨tagsKept_writeBytes s l bs, buffersKept_writeBytes s l bs⟩

theorem drained_modGang (s : State) (id : Nat) {f : Gang → Gang} (hid : ∀ x, (f x).id = x.id)
    (hf : ∀ x, (f x).priv.tags = x.priv.tags ∧ (f x).stack.tags = x.stack.tags) : Drained s (modGang s id f) :=
  ⟨tagsKept_modGang s id hid fun x _ => hf x, buffersKept_of_tlb rfl⟩

theorem drained_writePlace (s : State) (g : Gang) (f : Flight) (bs : List Byte) : Drained s (writePlace s g f bs) := by
  refine .trans (drained_writeBytes s f.loc bs) ?_
  unfold writePlace
  dsimp only
  split
  · split
    · exact ⟨tagsKept_markDirty _ _ _ _ _, buffersKept_markDirty _ _ _ _ _⟩
    · split
      · exact .refl _
      · exact drained_writeBytes _ _ _
  · exact .refl _

theorem drained_put (s : State) (id lane : Nat) (h : Thread → Thread) : Drained s (modGang s id fun y => modThread y lane h) :=
  drained_modGang s id (modThread_id · lane h) fun _ => ⟨rfl, rfl⟩

theorem drained_performFlight (s : State) (g : Gang) (earlier : List (Nat × Flight)) (f : Flight) :
    Drained s (performFlight s g earlier f).1 := by
  unfold performFlight
  dsimp only
  split
  · exact drained_put _ _ _ _
  · exact drained_writePlace _ _ _ _
  · split
    · exact (drained_writePlace _ _ _ _).trans (drained_put _ _ _ _)
    · exact drained_writePlace _ _ _ _
  · exact drained_put _ _ _ _
  · exact drained_put _ _ _ _
  · exact .refl s

theorem retireHead_keeps : ∀ (ps : List Passed) (g : Gang), (retireHead ps g).id = g.id ∧ (retireHead ps g).priv = g.priv ∧
    (retireHead ps g).stack = g.stack
  | [], g => ⟨rfl, rfl, rfl⟩
  | p :: ps, g => by
    unfold retireHead
    split
    · obtain ⟨h1, h2, h3⟩ := retireHead_keeps ps (if p.counts then retireNow g p.stream else g)
      rw [h1, h2, h3]
      split <;> exact ⟨rfl, rfl, rfl⟩
    · exact ⟨rfl, rfl, rfl⟩

theorem takeFlight_keeps (g : Gang) (i : Nat) (f : Flight) (st : List (Nat × Nat × Nat × Nat)) :
    (takeFlight g i f st).id = g.id ∧ (takeFlight g i f st).priv = g.priv ∧ (takeFlight g i f st).stack = g.stack := by
  unfold takeFlight settlePassed
  split
  · dsimp only
    obtain ⟨h1, h2, h3⟩ := retireHead_keeps _ _
    rw [h1, h2, h3]
    split <;> exact ⟨rfl, rfl, rfl⟩
  · exact ⟨rfl, rfl, rfl⟩

theorem drained_takeFlight (s : State) (id i : Nat) (f : Flight) (st : List (Nat × Nat × Nat × Nat)) :
    Drained s (modGang s id fun x => takeFlight x i f st) :=
  drained_modGang s id (fun x => (takeFlight_keeps x i f st).1) fun x => by
    obtain ⟨-, h2, h3⟩ := takeFlight_keeps x i f st
    rw [h2, h3]
    exact ⟨rfl, rfl⟩

theorem drained_drainLoop (id : Nat) : ∀ (n : Nat) (s : State), Drained s (drainLoop id n s)
  | 0, s => .refl s
  | n + 1, s => by
    unfold drainLoop
    split
    · exact .trans (drained_performFlight s _ [] _) (.trans (drained_takeFlight _ _ _ _ _) (drained_drainLoop id n _))
    · exact .refl s

theorem drained_drainWhere (s : State) (p : Gang → Flight → Bool) : Drained s (drainWhere s p) := by
  unfold drainWhere
  generalize s.gangs.filter _ = gs
  induction gs generalizing s with
  | nil => exact .refl s
  | cons g gs ih => exact .trans (drained_drainLoop g.id _ s) (ih _)

/-- With nothing outstanding there, nothing is performed. -/
theorem drainWhere_none {s : State} {p : Gang → Flight → Bool} (h : ∀ g ∈ s.gangs, ∀ x ∈ outstanding g, p g x.2 = false) :
    drainWhere s p = s := by
  unfold drainWhere
  rw [List.filter_eq_nil_iff.2 fun g hg => by simpa using fun i f hx => h g hg (i, f) hx]
  rfl

/-! ### Writing a tag -/

theorem tagAt_wakeMwait (s : State) (l : Loc) (n : Nat) (m : Loc) : tagAt (wakeMwait s l n) m = tagAt s m := (tagsKept_wakeMwait s l n).tagAt m

theorem tagAt_writeTag {s : State} {l : Loc} (h : HasPlace s l.place) (v : Nat) (m : Loc) :
    tagAt (writeTag s l v) m = if m.place = l.place ∧ m.off / 16 = l.off / 16 then v % 256 else tagAt s m := by
  rw [writeTag, tagAt_wakeMwait]
  by_cases hp : l.place = .phys
  · have hput : putTag s l v = { s with tags := wrByte s.tags (l.off / 16) (BitVec.ofNat 8 v) } := by
      unfold putTag
      rw [hp]
    rw [hput, hp]
    unfold tagAt
    split
    next hm =>
      dsimp only
      rw [rdByte_wrByte]
      by_cases ho : m.off / 16 = l.off / 16 <;> simp [hm, ho]
    next hm => rw [if_neg fun h => hm h.1]; rfl
  · have hput : putTag s l v = setSpace s l.place { spaceOf s l.place with tags := fset (spaceOf s l.place).tags (l.off / 16) (v % 256) 0 } := by
      unfold putTag
      split
      next hq => exact absurd hq hp
      · rfl
    rw [hput]
    unfold tagAt
    split
    next hm =>
      rw [if_neg fun h => hp (h.1.symm.trans hm)]
      congr 2
      unfold setSpace
      split <;> rfl
    next hm =>
      rw [spaceOf_setSpace _ _ _ _ h hp]
      by_cases hq : m.place = l.place
      · rw [if_pos hq]
        dsimp only
        rw [fgetD_fset]
        by_cases ho : m.off / 16 = l.off / 16 <;> simp [hq, ho]
      · rw [if_neg hq, if_neg fun h => hq h.1]

theorem sameBytes_writeTag {s : State} {l : Loc} (h : HasPlace s l.place) (v : Nat) : SameBytes s (writeTag s l v) := fun m => by
  rw [writeTag, readByte_wakeMwait]
  unfold putTag
  split
  · unfold readByte
    cases hm : m.place <;> rfl
  next hp => 
    unfold readByte
    rw [bytesAt_setSpace _ _ _ _ h hp]
    split
    next hq =>
      rw [hq]
      unfold bytesAt
      split
      next hx => exact absurd hx hp
      · rfl
    · rfl

theorem sameThreads_writeTag (s : State) (l : Loc) (v : Nat) : SameThreads s (writeTag s l v) := by
  refine sameThreads_trans ?_ (sameThreads_wakeMwait _ _ _)
  unfold putTag
  split
  · exact fun _ => rfl
  · exact sameThreads_setSpace s _ _

/-! ### Outstanding accesses -/

/-- Nothing is outstanding. -/
def Quiet (s : State) : Prop := ∀ h ∈ s.gangs, outstanding h = []

theorem Quiet.woken {s t : State} (h : Quiet s) (hw : Woken s.gangs t.gangs) : Quiet t := by
  obtain ⟨f, hf⟩ := hw
  intro x hx
  rw [hf] at hx
  obtain ⟨y, hy, rfl⟩ := List.mem_map.1 hx
  exact h y hy

theorem mem_modBy {α : Type} {key : α → Nat} {id : Nat} {f : α → α} {y : α} : ∀ {l : List α}, y ∈ modBy key id f l → ∃ x ∈ l, y = x ∨ y = f x
  | x :: xs, h => by
    rw [modBy, List.mem_cons] at h
    obtain rfl | h := h
    · refine ⟨x, List.mem_cons_self .., ?_⟩
      split
      · exact .inr rfl
      · exact .inl rfl
    · obtain ⟨z, hz, hy⟩ := mem_modBy h
      exact ⟨z, List.mem_cons_of_mem _ hz, hy⟩

theorem Quiet.modGang {s : State} (h : Quiet s) (id : Nat) {f : Gang → Gang} (hf : ∀ x, outstanding (f x) = outstanding x) :
    Quiet (modGang s id f) := fun y hy => by
  obtain ⟨x, hx, rfl | rfl⟩ := mem_modBy hy
  · exact h _ hx
  · rw [hf]
    exact h _ hx

theorem Quiet.writeTag {s : State} (h : Quiet s) (l : Loc) (v : Nat) : Quiet (writeTag s l v) := by
  refine Quiet.woken (s := putTag s l v) ?_ ⟨_, rfl⟩
  unfold putTag
  split
  · exact h
  · unfold setSpace
    split
    · exact h
    · exact h
    · exact h.modGang _ fun _ => rfl
    · exact h.modGang _ fun _ => rfl

/-! ### Reaching a granule and giving it a colour -/

section
variable {s s1 : State} {g : Gang} {lane : Nat} {ea : Dbl} {set : Bool} {t : Target}

theorem arrive_of_tagTarget (h : tagTarget s g lane ea set = (s1, .ok t)) :
    arrive s g lane ea 16 { r := !set, w := set, colour := false, reads := !set, tagPage := set } = (s1, .ok t) := by
  unfold tagTarget at h
  split at h
  · cases h
  next s2 l hx =>
    split at h
    · cases h
    · cases h
      exact hx
  next s2 pa leaf hx =>
    split at h
    · cases h
    · cases h
      exact hx

/-- An access on a core has reached a place that exists, where its gang does. -/
theorem onCoreLoc_hasPlace {n : Nat} {l : Loc} (hg : (gangOf s g.id).isSome = true) (h : onCoreLoc s g lane ea n true = some l) :
    HasPlace s l.place := by
  let s' : State := { s with gangs := g :: s.gangs }
  have hg' : gangOf s' g.id = some g := if_pos rfl
  have hgang : ∀ k, (gangOf s' k).isSome = true → (gangOf s k).isSome = true := fun k hk => by
    by_cases hkg : g.id = k
    · exact hkg ▸ hg
    · have heq : gangOf s' k = gangOf s k := if_neg hkg
      rwa [heq] at hk
  have hp : HasPlace s' l.place := (onCoreLoc_place (s := s') hg' h).1
  revert hp
  cases l.place with
  | phys => exact fun _ => trivial
  | scratch b => exact id
  | priv k => exact hgang k
  | stack k => exact hgang k

/-- What reaching a granule changes, and what stands then. -/
structure Reached (s s1 : State) (g : Gang) (ea : Dbl) (t : Target) : Prop where
  translates : Translates s s1
  place : (gangOf s1 g.id).isSome = true → HasPlace s1 t.loc.place
  buffered : ∀ pa leaf, t = .glob pa leaf → Buffered s1 (.core g.core) (ctxOf s1 g) (vaOf ea) pa

theorem reached_tagTarget (h : tagTarget s g lane ea set = (s1, .ok t)) : Reached s s1 g ea t := by
  have harr := arrive_of_tagTarget h
  cases t with
  | core l =>
    obtain ⟨rfl, hl⟩ := arrive_core_ok harr
    exact ⟨.refl _, fun hg => onCoreLoc_hasPlace hg hl, fun _ _ h => by cases h⟩
  | glob pa leaf =>
    obtain ⟨htr, hb⟩ := arrive_glob harr
    refine ⟨htr, fun _ => trivial, fun pa' leaf' heq => ?_⟩
    cases heq
    rw [htr.tagsKept.ctxOf]
    exact hb

/-- The tag that a granule takes with the colour of an address. -/
def colouredTag (s : State) (ea : Dbl) (l : Loc) : Nat := colourOf ea * 16 + tagAt s l % 16

/-- Colouring a granule writes its tag, after what is outstanding there, and marks its entry (R200, R201). -/
theorem colourGranule_eq (h : Reached s s1 g ea t) :
    let u := drainWhere s1 fun _ f => f.onGranule t.loc
    ∃ es, colourGranule s1 g ea t = { writeTag u t.loc (colouredTag u ea t.loc) with tlb := es } := by
  intro u
  cases t with
  | core l => exact ⟨_, rfl⟩
  | glob pa leaf =>
    have hd : Drained s1 u := drained_drainWhere _ _
    let w := writeTag u (physLoc pa) (colouredTag u ea (physLoc pa))
    have hctx : ctxOf w g = ctxOf s1 g := hd.tags.ctxOf g
    have hb : Buffered w (.core g.core) (ctxOf w g) (vaOf ea) pa := by
      rw [hctx]
      exact hd.buffers _ _ _ _ (h.buffered pa leaf rfl)
    exact markDirty_buffered hb

theorem colourOf_lt (ea : Dbl) : colourOf ea < 16 := by
  have := ea.isLt
  unfold colourOf
  omega

/-- The tags after a granule has taken a colour. -/
theorem tagAt_colourGranule (h : Reached s s1 g ea t) (hg : (gangOf s1 g.id).isSome = true) (m : Loc) :
    tagAt (colourGranule s1 g ea t) m = if m.place = t.loc.place ∧ m.off / 16 = t.loc.off / 16 then
      colourOf ea * 16 + tagAt s1 t.loc % 16 else tagAt s1 m := by
  obtain ⟨es, hes⟩ := colourGranule_eq h
  have hd := drained_drainWhere s1 fun _ f => f.onGranule t.loc
  have hlt := colourOf_lt ea
  rw [hes]
  refine (tagAt_writeTag (hd.tags.places (h.place hg)) _ m).trans ?_
  rw [colouredTag, hd.tags.tagAt, hd.tags.tagAt, Nat.mod_eq_of_lt (by omega)]

theorem colourAt_eq (s : State) (l : Loc) : colourAt s l = tagAt s l / 16 % 16 := rfl

theorem colourAt_colourGranule (h : Reached s s1 g ea t) (hg : (gangOf s1 g.id).isSome = true) (m : Loc) :
    colourAt (colourGranule s1 g ea t) m = if m.place = t.loc.place ∧ m.off / 16 = t.loc.off / 16 then colourOf ea else colourAt s1 m := by
  have hlt := colourOf_lt ea
  rw [colourAt_eq, tagAt_colourGranule h hg]
  split
  · omega
  · rfl

theorem gangOf_colourGranule (h : Reached s s1 g ea t) {id : Nat} (hg : (gangOf s1 id).isSome = true) :
    (gangOf (colourGranule s1 g ea t) id).isSome = true := by
  obtain ⟨es, hes⟩ := colourGranule_eq h
  rw [hes]
  have h1 := (drained_drainWhere s1 fun _ f => f.onGranule t.loc).tags.gang hg
  have h2 := congrArg Option.isSome (sameThreads_writeTag (drainWhere s1 fun _ f => f.onGranule t.loc) t.loc
    (colouredTag (drainWhere s1 fun _ f => f.onGranule t.loc) ea t.loc) id)
  rw [Option.isSome_map, Option.isSome_map] at h2
  exact h2.trans h1

/-- With nothing outstanding no thread changes. -/
theorem quiet_colourGranule (h : Reached s s1 g ea t) (hq : Quiet s1) :
    SameThreads s1 (colourGranule s1 g ea t) ∧ Quiet (colourGranule s1 g ea t) := by
  obtain ⟨es, hes⟩ := colourGranule_eq h
  rw [drainWhere_none fun x hx y hy => by rw [hq x hx] at hy; cases hy] at hes
  rw [hes]
  exact ⟨sameThreads_writeTag _ _ _, hq.writeTag _ _⟩

end

/-! ### A run of granules -/

theorem colourOf_effAddr {base ea : Dbl} {off : Int} (h : effAddr base off = some ea) : colourOf ea = colourOf base := by
  have hb := base.isLt
  unfold effAddr at h
  split at h
  · dsimp only at h
    split at h
    · cases h
    · rw [Option.some.injEq] at h
      subst h
      have hw : wrapN 60 (sext (bits base.toNat 0 57) 57 + off) < 2 ^ 60 := by
        unfold wrapN
        omega
      have hc : bits base.toNat 60 4 = base.toNat / 2 ^ 60 := Nat.mod_eq_of_lt (by omega)
      rw [colourOf, BitVec.toNat_ofNat, hc, colourOf]
      omega
  · cases h

section
variable {g : Gang} {lane : Nat} {base : Dbl}

/-- A run whose granules all succeed goes on behind them. -/
theorem colourRun_all : ∀ {xs : List Target} {i k : Nat} {s t : State}, AllGranules g lane base xs i s t →
    colourRun g lane base (xs.length + k) i s = colourRun g lane base k (i + xs.length) t
  | [], i, k, s, t, h => by
    rw [show t = s from h]
    simp
  | x :: xs, i, k, s, t, ⟨ea, s1, h1, h2, h3, h4⟩ => by
    have hrest := colourRun_all (k := k) h4
    rw [List.length_cons, show xs.length + 1 + k = (xs.length + k) + 1 by omega, colourRun, h1]
    simp only [h2, bne_self_eq_false, Bool.false_eq_true, if_false, h3]
    rw [hrest, show i + 1 + xs.length = i + (xs.length + 1) by omega]

/-- Each granule of a run has the colour of the address then, and one that had it keeps it. -/
theorem colours_all : ∀ {xs : List Target} {i : Nat} {s t : State}, AllGranules g lane base xs i s t → (gangOf s g.id).isSome = true →
    (∀ m, colourAt s m = colourOf base → colourAt t m = colourOf base) ∧ ∀ x ∈ xs, colourAt t x.loc = colourOf base
  | [], i, s, t, h, _ => by
    rw [show t = s from h]
    exact ⟨fun _ h => h, fun x hx => by cases hx⟩
  | x :: xs, i, s, t, ⟨ea, s1, h1, h2, h3, h4⟩, hg => by
    have hr := reached_tagTarget h3
    have hg1 := hr.translates.tagsKept.gang hg
    obtain ⟨hkeep, hall⟩ := colours_all h4 (gangOf_colourGranule hr hg1)
    have hcol := colourOf_effAddr h1
    refine ⟨fun m hm => hkeep m ?_, fun y hy => ?_⟩
    · rw [colourAt_colourGranule hr hg1]
      split
      · exact hcol
      · rw [hr.translates.tagsKept.colourAt]
        exact hm
    · obtain rfl | hy := List.mem_cons.1 hy
      · refine hkeep y.loc ?_
        rw [colourAt_colourGranule hr hg1, if_pos ⟨rfl, rfl⟩]
        exact hcol
      · exact hall y hy

theorem threads_all : ∀ {xs : List Target} {i : Nat} {s t : State}, AllGranules g lane base xs i s t → Quiet s → SameThreads s t
  | [], i, s, t, h, _ => by
    rw [show t = s from h]
    exact sameThreads_refl s
  | x :: xs, i, s, t, ⟨ea, s1, _, _, h3, h4⟩, hq => by
    have hr := reached_tagTarget h3
    obtain ⟨hth, hq'⟩ := quiet_colourGranule hr (hq.woken hr.translates.woken)
    exact sameThreads_trans (sameThreads_trans hr.translates.woken.threads hth) (threads_all h4 hq')

end

/-! ### Reading a tag -/

theorem and_colour (x : Nat) : x &&& 0xF0 = x % 256 / 16 * 16 := by
  have h : ∀ y < 256, y &&& 0xF0 = y / 16 * 16 := by decide +kernel
  rw [show (0xF0 : Nat) = (2 ^ 8 - 1) &&& 0xF0 from rfl, ← Nat.and_assoc, Nat.and_two_pow_sub_one_eq_mod]
  exact h _ (Nat.mod_lt _ (by decide))

/-- What a lane reads of a tag: all of it where its granule has tags, the colour alone in scratchpad, and 0 elsewhere. -/
theorem tagAt_masked (s : State) (t : Target) : tagAt s t.loc &&& tagMask s t = match t with
    | .glob pa leaf => if leaf.getLsbD 7 || leaf.getLsbD 8 then tagAt s (physLoc pa) else 0
    | .core l => if (spaceOf s l.place).tagged then tagAt s l % 256 / 16 * 16 else 0 := by
  cases t with
  | glob pa leaf =>
    show tagAt s (physLoc pa) &&& (if leaf.getLsbD 7 || leaf.getLsbD 8 then 0xFF else 0) = if leaf.getLsbD 7 || leaf.getLsbD 8 then _ else 0
    split
    · rw [show (0xFF : Nat) = 2 ^ 8 - 1 from rfl, Nat.and_two_pow_sub_one_eq_mod]
      exact Nat.mod_eq_of_lt (rdByte s.tags (pa / 16)).isLt
    · exact Nat.and_zero _
  | core l =>
    show tagAt s l &&& (if (spaceOf s l.place).tagged then 0xF0 else 0) = if (spaceOf s l.place).tagged then _ else 0
    split
    · exact and_colour _
    · exact Nat.and_zero _

/-- The access of a `tag.get` (R311). -/
def tagFlight (s1 : State) (g : Gang) (lane a d : Nat) (ea : Dbl) (t : Target) : Flight :=
  { lane := lane, op := .tagGet a d, kind := t.kind, ea := ea, loc := t.loc, data := tagMask s1 t, dst := (Opnd.reg d).phys g.level (thr g lane) }

section
variable {s s1 : State} {g : Gang} {lane a d : Nat} {t : Target} (h : tagTarget s g lane (laneAddr g lane a) false = (s1, .ok t))
include h

theorem laneTagGet_stays (hr : reachable s1 g lane (.tagGet a d) (laneAddr g lane a) t = false) :
    laneStep s g false lane (.tagGet a d) = (s, .stays) := by
  have hcan : canPerform s1 g (tagFlight s1 g lane a d (laneAddr g lane a) t) = false := hr
  unfold tagFlight at hcan
  simp only [laneStep, laneTagGet, h, Bool.false_eq_true, if_false, hcan, Bool.not_false, if_true]

theorem laneTagGet_reads (hr : reachable s1 g lane (.tagGet a d) (laneAddr g lane a) t = true) :
    laneStep s g false lane (.tagGet a d) =
      (putLane s1 g.id lane (wrReg g.level · d (BitVec.ofNat 32 (tagAt s1 t.loc &&& tagMask s1 t))), .ok [] []) := by
  have hcan : canPerform s1 g (tagFlight s1 g lane a d (laneAddr g lane a) t) = true := hr
  unfold tagFlight at hcan
  simp only [laneStep, laneTagGet, h, Bool.false_eq_true, if_false, hcan, Bool.not_true]

theorem laneTagGet_flies : laneStep s g true lane (.tagGet a d) =
    flyOut s1 g t (tagFlight s1 g lane a d (laneAddr g lane a) t) 1 [] [] := by
  simp only [laneStep, laneTagGet, h, if_true]
  rfl

end

theorem tagFlight_dst {s1 : State} {g : Gang} {lane a d : Nat} {ea : Dbl} {t : Target} (hd : d ≠ 0) (hl : g.level = 0) :
    (tagFlight s1 g lane a d ea t).dst = [(thr g lane).wbase + d] := by
  simp [tagFlight, Opnd.phys, Opnd.extent, hl, hd, bankedReg]

/-- Settles O38: one granule, a run of granules, and the reading of a tag. -/
theorem tagEffects : Obligations.TagEffects := by
  unfold Obligations.TagEffects
  intro s g fly lane a b d ea
  refine ⟨fun s1 t hg hea h => ?_, fun xs t hg hall => ?_, fun s1 t hg hl h => ?_⟩
  · have hr := reached_tagTarget h
    have hsome : (gangOf s1 g.id).isSome = true := by rw [hg]; rfl
    have hstays : ∀ r, reachable s1 g lane (.tagSet a) ea t = r → tagStays s g lane ea true (.tagSet a) = !r := fun r hr => by
      rw [tagStays, h, ← hr]
    refine ⟨fun hreach => ?_, fun hreach => ?_⟩
    · simp only [laneStep, laneTagSet]
      rw [if_pos]
      rw [show laneAddr g lane a = ea from rfl, hstays _ hreach]
      rfl
    · intro u
      refine ⟨fun hq => drainWhere_none hq, colourGranule s1 g ea t, ?_⟩
      obtain ⟨es, hes⟩ := colourGranule_eq hr
      have hd : Drained s1 u := drained_drainWhere _ _
      have hplace := hd.tags.places (hr.place hsome)
      refine ⟨?_, ?_, ?_, ?_, ?_⟩
      · have hall : AllGranules g lane ea [t] 0 s (colourGranule s1 g ea t) := ⟨ea, s1, hea, rfl, h, rfl⟩
        have hrun : colourRun g lane ea 1 0 s = (colourGranule s1 g ea t, none) := colourRun_all (k := 0) hall
        simp only [laneStep, laneTagSet]
        rw [if_neg, show laneAddr g lane a = ea from rfl, hrun]
        · rw [show laneAddr g lane a = ea from rfl, hstays _ hreach]
          decide
      · rw [colourAt_colourGranule hr hsome, if_pos ⟨rfl, rfl⟩]
        rfl
      · rw [tagAt_colourGranule hr hsome, if_pos ⟨rfl, rfl⟩, hd.tags.tagAt]
        omega
      · rw [hes]
        exact sameBytes_writeTag hplace _
      · rw [hes]
        exact sameThreads_writeTag _ _ _
  · intro n
    have hsome : (gangOf s g.id).isSome = true := by rw [hg]; rfl
    refine ⟨fun hn hs => ?_, fun hgo => ?_⟩
    · simp only [laneStep, laneTagSet]
      exact if_pos (by rw [Bool.and_eq_true]; exact ⟨bne_iff_ne.2 hn, hs⟩)
    · have hrun : laneStep s g fly lane (.tagSetr b a) = match colourRun g lane ea n 0 s with
          | (s1, some f) => (s1, .fail f)
          | (s1, none) => (s1, .ok [] []) := by
        simp only [laneStep, laneTagSet]
        refine (if_neg ?_).trans rfl
        rw [Bool.and_eq_true]
        rintro ⟨h1, h2⟩
        obtain hgo | hgo := hgo
        · exact bne_iff_ne.1 h1 hgo
        · exact Bool.false_ne_true (hgo.symm.trans h2)
      refine ⟨fun hlen => ⟨?_, threads_all hall, (colours_all hall hsome).2⟩, fun e f t1 hlt he hap hfail => ?_⟩
      · have := colourRun_all (k := 0) hall
        rw [Nat.add_zero, hlen] at this
        rw [hrun, this]
        rfl
      · have := colourRun_all (k := n - xs.length - 1 + 1) hall
        rw [show xs.length + (n - xs.length - 1 + 1) = n by omega, Nat.zero_add, colourRun, he] at this
        simp only [hap, bne_self_eq_false, Bool.false_eq_true, if_false, hfail] at this
        rw [hrun, this]
  · intro x
    have hx : tagAt s1 t.loc &&& tagMask s1 t = x := tagAt_masked s1 t
    refine ⟨laneTagGet_stays h, fun hr => ?_, fun hd hlv hrec hrep hstack => ?_⟩
    · refine ⟨_, _, laneTagGet_reads h hr, onlyThread_modThread hg hl _, ?_⟩
      rw [hx]
      exact wrReg_writes _ _ _ _
    · have hdst := tagFlight_dst (s1 := s1) (lane := lane) (a := a) (ea := ea) (t := t) hd hlv
      have hspill : spillReach g (tagFlight s1 g lane a d ea t) = false := spillReach_eq_false hstack
      refine ⟨{ tagFlight s1 g lane a d ea t with leaf := leafUsed s1 g ea t }, (laneTagGet_flies h).trans ?_, rfl, rfl, hdst,
        fun earlier => ⟨putPhys x [(thr g lane).wbase + d] (thr g lane), ?_, ?_⟩⟩
      · have hlen : ((tagFlight s1 g lane a d ea t).dst.length != 1) = false := by rw [hdst]; rfl
        have hop : (tagFlight s1 g lane a d ea t).op = .tagGet a d := rfl
        simp only [flyOut, show laneAddr g lane a = ea from rfl, hlen, hspill, hop, hrec, hrep]
        rfl
      · have hperf : (performFlight s1 g earlier { tagFlight s1 g lane a d ea t with leaf := leafUsed s1 g ea t }).1 =
            modGang s1 g.id fun y => modThread y lane (putPhys x [(thr g lane).wbase + d]) := by
          rw [← hdst, ← hx]
          rfl
        rw [hperf]
        exact onlyThread_modThread hg hl _
      · show rdPhys (wrPhys (thr g lane) _ _) _ = _
        rw [rdPhys_wrPhys, if_pos rfl]

end Sys2Proof.Machine
end

section

/-!
# The management window: writes (R416 to R418) and commands (R419, R420)
-/

namespace Sys2Proof.Machine

-- One proof at a time: each waiting thread would reserve a stack of its own.
set_option Elab.async false

/-! ### Launches with nothing owed -/

theorem mem_of_findBy {α : Type} {key : α → Nat} {id : Nat} {x : α} : ∀ {l : List α}, findBy key id l = some x → x ∈ l
  | y :: ys, h => by
    rw [findBy] at h
    split at h
    · cases h
      exact List.mem_cons_self ..
    · exact List.mem_cons_of_mem _ (mem_of_findBy h)

theorem storeOwed_nothing {s : State} (h : ∀ L ∈ s.launches, L.spillOwed = []) (id : Nat) : storeOwed s id = s := by
  have hnil : (launchD s id).spillOwed = [] := by
    unfold launchD
    cases hL : launchOf s id with
    | none => rfl
    | some L => exact h L (mem_of_findBy hL)
  rw [storeOwed, hnil]
  rfl

theorem recheckLeases_nothing {s : State} {d : Nat}
    (h : ∀ L ∈ s.launches, L.spillOwed = [] ∧ (L.die = d → L.state ≠ .taken ∧ L.state ≠ .leaseWait)) : recheckLeases s d = s := by
  have hfold : ∀ Ls : List Launch, (∀ L ∈ Ls, L.state ≠ .taken ∧ L.state ≠ .leaseWait) → Ls.foldl (fun t L =>
      storeOwed (if L.state == .taken || L.state == .leaseWait then recheckLease t L.id else t) L.id) s = s := fun Ls => by
    induction Ls with
    | nil => exact fun _ => rfl
    | cons L Ls ih =>
      intro hL
      obtain ⟨h1, h2⟩ := hL L (List.mem_cons_self ..)
      have hskip : (L.state == .taken || L.state == .leaseWait) = false := by
        rw [Bool.or_eq_false_iff, beq_eq_false_iff_ne, beq_eq_false_iff_ne]
        exact ⟨h1, h2⟩
      rw [List.foldl_cons, hskip, if_neg Bool.false_ne_true, storeOwed_nothing fun L hL => (h L hL).1]
      exact ih fun L hL' => hL L (List.mem_cons_of_mem _ hL')
  refine hfold _ fun L hL => ?_
  obtain ⟨h1, h2⟩ := List.mem_filter.1 hL
  exact (h L h1).2 (beq_iff_eq.1 h2)

/-! ### Writes of the window -/

section
variable {s : State} {d : Nat} (hd : d < 2)
include hd

theorem submitTail_at {q tail a : Nat} (hf : s.focus = [d, q, tail]) (hq : q < 64) (ht : tail < 2 ^ 32) (ha : queueAt s d q = some a) :
    let t := modDie (writeNat { s with nextId := s.nextId + 1 } (physLoc (a + 0x14)) 4 tail) d fun x => { x with tails := fput x.tails q tail }
    exec .submitTail s = .next (if (readQueue t a).enabled && !(readQueue t a).valid then
      queueError t d q (readQueue t a).ctx 0 (readQueue t a).head 5 0xFF 0xFFFFFFFF else t) := by
  rw [exec_submitTail, execSubmitTail]
  simp only [hf, List.headD_cons, List.getD_cons_succ, List.getD_cons_zero, Nat.mod_eq_of_lt hd, Nat.mod_eq_of_lt hq, Nat.mod_eq_of_lt ht, ha, newId, noTake]

theorem mgmtRegisterWrite_at {off v : Nat} (hf : s.focus = [d, off, v]) :
    let u := recheckLeases (drainEvents (modDie s d fun x => { x with mgmt := writeWindow (mgmtOf s d) off v }) d) d
    let w := if off = 0x018 then retryWaiters u else u
    exec .mgmtRegisterWrite s = .next (if off = 0x100 ∧ (mgmtOf s d).cmd.status ≠ 1 then
      { w with agenda := w.agenda ++ [.event (commandEvent (v % 2 ^ 32)) [d]] } else w) := by
  rw [exec_mgmtRegisterWrite, execMgmtRegisterWrite]
  simp only [hf, List.headD_cons, List.getD_cons_succ, List.getD_cons_zero, Nat.mod_eq_of_lt hd]
  rfl

end

/-- Settles O50: each write by the equation of its event; a field by its offset. -/
theorem managementWrites : Obligations.ManagementWrites := by
  unfold Obligations.ManagementWrites
  refine ⟨fun s d hd hdies => ⟨fun q tail hf hq ht => ⟨fun hnone => ?_, fun a ha => ?_⟩, fun off v hf => ?_, fun v hf => ?_, fun v hf => ?_,
    fun hev hL => ?_⟩, fun m v => ⟨fun q _ hv => ?_, fun w _ hv => ?_, fun h _ hv => ?_, fun b _ hv => ?_, fun off hoff => ?_⟩⟩
  · rw [exec_submitTail, execSubmitTail]
    simp only [hf, List.headD_cons, List.getD_cons_succ, List.getD_cons_zero, Nat.mod_eq_of_lt hd, Nat.mod_eq_of_lt hq, hnone]
  · intro t
    have hexec := submitTail_at hd hf hq ht ha
    refine ⟨fun h => hexec.trans (congrArg _ (if_neg ?_)), fun h1 h2 => hexec.trans (congrArg _ (if_pos ?_))⟩
    · rw [Bool.and_eq_true, Bool.not_eq_true']
      rintro ⟨h1, h2⟩
      obtain h | h := h
      · exact Bool.false_ne_true (h.symm.trans h1)
      · exact Bool.false_ne_true (h2.symm.trans h)
    · rw [Bool.and_eq_true, Bool.not_eq_true']
      exact ⟨h1, h2⟩
  · intro t u
    have hexec := mgmtRegisterWrite_at hd hf
    refine ⟨fun h1 h2 => ?_, fun h => ?_, fun h hs => ?_, fun h hs => ?_⟩
    · rw [hexec, if_neg fun h => h2 h.1, if_neg h1]
    · rw [hexec, if_neg fun h' => by omega, if_pos h]
      rfl
    · rw [hexec, if_pos ⟨h, hs⟩, if_neg (by omega)]
    · rw [hexec, if_neg fun h' => h'.2 hs, if_neg (by omega)]
  · rw [exec_moduleNumberWrite, execModuleNumberWrite]
    simp only [hf, List.getD_cons_succ, List.getD_cons_zero]
  · rw [exec_eventHeadWrite, execEventHeadWrite]
    simp only [hf, List.headD_cons, List.getD_cons_succ, List.getD_cons_zero, Nat.mod_eq_of_lt hd]
    rfl
  · have hdrain : drainEvents s d = s := by
      rw [drainEvents, hev]
      rfl
    rw [hdrain]
    exact recheckLeases_nothing hL
  · subst hv
    exact ⟨rfl, rfl, rfl, rfl, rfl, rfl, rfl, rfl⟩
  · subst hv
    exact ⟨rfl, rfl, fun hs => if_neg hs, fun hs => if_pos hs, rfl, rfl⟩
  · subst hv
    exact ⟨rfl, rfl, rfl⟩
  · subst hv
    exact ⟨rfl, rfl⟩
  · simp only [List.mem_cons, List.not_mem_nil, or_false, not_or] at hoff
    unfold writeWindow
    split
    case h_19 => rfl
    all_goals omega

end Sys2Proof.Machine
end

section

/-!
# The commands of the management window (R419, R420)
-/

namespace Sys2Proof.Machine

-- One proof at a time: each waiting thread would reserve a stack of its own.
set_option Elab.async false

section
variable {s : State} {d : Nat} (hf : s.focus = [d]) (hd : d < 2)
include hf hd

/-- The state after a command with a status. -/
def commandEnds (t : State) (d st : Nat) : Host.Outcome State Fault Refusal := .next (modCmd t d fun x => { x with status := st })

theorem command_refused (hc : 4096 ≤ (mgmtOf s d).run.ctx) (f : State → Nat → Cmd → State × Nat) : command s f = commandEnds s d 2 := by
  unfold command
  simp only [hf, List.headD_cons, Nat.mod_eq_of_lt hd, if_pos hc]
  rfl

/-- A command with its context in range is performed, and its status written. -/
theorem command_ends (hc : (mgmtOf s d).run.ctx < 4096) {f : State → Nat → Cmd → State × Nat} {t : State} {st : Nat}
    (h : f s d (mgmtOf s d).run = (t, st)) : command s f = commandEnds t d st := by
  unfold command
  simp only [hf, List.headD_cons, Nat.mod_eq_of_lt hd, if_neg (Nat.not_le.2 hc), h]
  rfl

end

theorem onLaunches_none {s : State} {c : Cmd} (h : cmdLaunches s c = []) (f : State → Nat → State) : onLaunches s c f = (s, 3) := by
  rw [onLaunches, h]

theorem onLaunches_one {s : State} {c : Cmd} {L : Launch} (h : cmdLaunches s c = [L]) (f : State → Nat → State) :
    onLaunches s c f = (f s L.id, 0) := by
  rw [onLaunches, h]
  rfl

theorem cmdSet_eq (c : Cmd) : cmdSet c = if c.arg = 0 then InvSet.context
    else .range (c.addr % 2 ^ 57 / 4096 * 4096) ((c.addr % 2 ^ 57 + c.arg + 4095) / 4096 * 4096 - c.addr % 2 ^ 57 / 4096 * 4096) := by
  unfold cmdSet
  split
  · rfl
  next h =>
    rw [roundRange, if_neg h]
    rfl

/-- The lease that an acknowledgement answers, where it is the only one. -/
theorem leaseAck_find {s : State} {L : Launch} {c : Cmd} {d n idx : Nat} (hs : s.launches = [L]) (hctx : L.ctx = c.ctx) (hd : L.die = d)
    (hr : L.requests = [{ num := n, index := idx, answer := 0 }]) :
    (s.launches.find? fun L => L.ctx == c.ctx && L.die == d && L.requests.any fun r => r.num == n && r.answer == 0) = some L ∧
      ((L.requests.find? fun r => r.num == n && r.answer == 0).map Request.index).getD 0 = idx := by
  simp [hs, hctx, hd, hr]

/-- Settles O51: each command by its equation. -/
theorem managementCommands : Obligations.ManagementCommands := by
  unfold Obligations.ManagementCommands
  intro s d hf hd c named set ends
  refine ⟨fun hc i hi => ?_, fun hc => ?_⟩
  · have href : ∀ f, command s f = ends s 2 := command_refused hf hd hc
    have hrefCancel : ∀ named, cancelCmd s named = ends s 2 := fun named => href _
    simp only [List.mem_cons, List.not_mem_nil, or_false] at hi
    obtain rfl | rfl | rfl | rfl | rfl | rfl | rfl | rfl | rfl | rfl | rfl | rfl | rfl | rfl | rfl | rfl | rfl | rfl | rfl := hi
    · exact (exec_leaseAck s).trans (href _)
    · exact (exec_preemptMark s).trans (href _)
    · exact (exec_preemptClear s).trans (href _)
    · exact (exec_cmdCancelL s).trans (hrefCancel _)
    · exact (exec_cmdCancelG s).trans (hrefCancel _)
    · exact (exec_cmdCancelJ s).trans (hrefCancel _)
    · exact (exec_shootdown s).trans (href _)
    · exact (exec_harvest s).trans (href _)
    · exact (exec_shadowRetire s).trans (href _)
    · exact (exec_haltReq s).trans (href _)
    · exact (exec_regionBp s).trans (href _)
    · exact (exec_stopMode s).trans (href _)
    · exact (exec_resume s).trans (href _)
    · exact (exec_breakEn s).trans (href _)
    · exact (exec_sample s).trans (href _)
    · exact (exec_zeroHist s).trans (href _)
    · exact (exec_readState s).trans (href _)
    · exact (exec_evict s).trans (href _)
    · exact (exec_unknownCommand s).trans (href _)
  have hends : ∀ {f : State → Nat → Cmd → State × Nat} {t : State} {st : Nat}, f s d c = (t, st) → command s f = ends t st := command_ends hf hd hc
  have hcancel : ∀ named, cancelCmd s named = ends (modCmd (cancelAll s (named s c)) d fun x => { x with arg := (named s c).status }) 0 :=
    fun named => hends rfl
  refine ⟨fun i hi h0 hn => ?_, fun L hL => ⟨?_, ?_, fun hsub => ⟨?_, ?_⟩, fun hsub => ?_, fun h1 h2 h3 => ?_⟩, fun h1 h2 => ?_, fun h => ?_,
    fun h1 h2 h3 hn => ?_, fun h => ⟨?_, ?_, ?_⟩, fun L n idx h0 hn hs hctx hdie hr => ?_, fun L n idx h0 hn hs hctx hdie hr => ?_, fun hs => ?_,
    fun r hr => ?_, ⟨?_, ?_⟩, fun a x size hw => ?_, fun g hg => ⟨fun hgang => ?_, fun h => ?_, fun h => ?_, fun h => ?_, fun h => ⟨?_, fun hm => ?_⟩,
    fun hb h hslot => ?_, fun hb h h1 h2 => ?_⟩, fun hg => ⟨?_, ?_, fun h => ?_⟩, fun h => ?_, fun k hk => ?_, fun hk => ?_, fun hw => ?_,
    fun h hn => ?_, fun L h hL => ?_, ?_⟩
  · simp only [List.mem_cons, List.not_mem_nil, or_false] at hi
    obtain rfl | rfl | rfl | rfl | rfl := hi
    · exact (exec_preemptMark s).trans (hends (onLaunches_none hn _))
    · exact (exec_preemptClear s).trans (hends (onLaunches_none hn _))
    · exact (exec_stopMode s).trans (hends ((if_neg (by omega)).trans (onLaunches_none hn _)))
    · exact (exec_breakEn s).trans (hends ((if_neg (by omega)).trans (onLaunches_none hn _)))
    · exact (exec_sample s).trans (hends ((if_neg (by omega)).trans (onLaunches_none hn _)))
  · exact (exec_preemptMark s).trans (hends (onLaunches_one hL _))
  · exact (exec_preemptClear s).trans (hends (onLaunches_one hL _))
  · exact (exec_stopMode s).trans (hends ((if_neg (by omega)).trans (onLaunches_one hL _)))
  · exact (exec_breakEn s).trans (hends ((if_neg (by omega)).trans (onLaunches_one hL _)))
  · exact (exec_sample s).trans (hends ((if_neg (by omega)).trans (onLaunches_one hL _)))
  · exact (exec_regionBp s).trans (hends ((if_neg (by grind)).trans (onLaunches_one hL _)))
  · exact (exec_sample s).trans (hends (if_pos ⟨h1, h2⟩))
  · exact (exec_regionBp s).trans (hends (if_pos h))
  · exact (exec_regionBp s).trans (hends ((if_neg (by grind)).trans (onLaunches_none hn _)))
  · exact (exec_stopMode s).trans (hends (if_pos (by omega)))
  · exact (exec_breakEn s).trans (hends (if_pos (by omega)))
  · exact (exec_leaseAck s).trans (hends (if_pos (by omega)))
  · subst hn
    obtain ⟨h1, -⟩ := leaseAck_find (c := c) hs hctx hdie hr
    refine (exec_leaseAck s).trans (hends ((if_neg (by omega)).trans ?_))
    simp only [h1, h0, if_true]
  · intro t
    subst hn
    obtain ⟨h1, h2⟩ := leaseAck_find (c := c) hs hctx hdie hr
    refine (exec_leaseAck s).trans (hends ((if_neg (by omega)).trans ?_))
    simp only [h1, h2, h0, one_ne_zero, if_false]
    split <;> rfl
  · by_cases hsub : c.sub < 2
    · rw [if_pos hsub]
      refine (exec_leaseAck s).trans (hends ((if_neg (by omega)).trans ?_))
      rw [hs]
      rfl
    · rw [if_neg hsub]
      exact (exec_leaseAck s).trans (hends (if_pos (by omega)))
  · simp only [List.mem_cons, List.not_mem_nil, or_false] at hr
    obtain rfl | rfl | rfl := hr
    · exact (exec_cmdCancelL s).trans (hcancel _)
    · exact (exec_cmdCancelG s).trans (hcancel _)
    · exact (exec_cmdCancelJ s).trans (hcancel _)
  · rw [show set = cmdSet c from (cmdSet_eq c).symm]
    exact (exec_shootdown s).trans (hends rfl)
  · rw [show set = cmdSet c from (cmdSet_eq c).symm]
    exact (exec_harvest s).trans (hends rfl)
  · refine (exec_shadowRetire s).trans (hends ?_)
    rw [hw]
    rfl
  · refine (exec_haltReq s).trans (hends ((if_neg hgang).trans ?_))
    rw [hg]
  · refine (exec_evict s).trans (hends ?_)
    simp only [hg, h, Bool.not_false, if_true]
  · refine (exec_evict s).trans (hends ?_)
    simp only [hg, h, Bool.not_true, Bool.false_eq_true, if_false]
  · refine (exec_resume s).trans (hends ?_)
    simp only [hg, h, Bool.false_eq_true, if_false]
  · refine (exec_resume s).trans (hends ?_)
    simp only [hg, h, if_true]
  · simp only [resumeGang, hm, if_true]
  · refine (exec_readState s).trans (hends ((if_neg (by omega)).trans ?_))
    have hslot' : g.slot.isNone = false := by
      cases hx : g.slot
      · rw [hx] at hslot
        cases hslot
      · rfl
    simp only [hg, h, hslot', Bool.or_false, Bool.not_false, if_true]
  · refine (exec_readState s).trans (hends ((if_neg (by omega)).trans ?_))
    have hfree : (g.stopped || g.slot.isNone) = true := by
      obtain h | h := h
      · rw [h, Bool.true_or]
      · rw [h]
        exact Bool.or_true _
    simp only [hg, hfree, h1, h2, Bool.not_true, Bool.false_eq_true, if_false, Bool.and_true]
  · refine (exec_evict s).trans (hends ?_)
    rw [hg]
  · refine (exec_resume s).trans (hends ?_)
    rw [hg]
  · refine (exec_haltReq s).trans (hends ((if_neg h).trans ?_))
    rw [hg]
  · exact (exec_readState s).trans (hends (if_pos h))
  · refine (exec_zeroHist s).trans (hends ?_)
    rw [hk]
  · refine (exec_zeroHist s).trans (hends ?_)
    rw [hk]
  · refine (exec_shadowRetire s).trans (hends ?_)
    split
    next a x size hx => exact absurd hx (hw a x size)
    · rfl
  · exact (exec_haltReq s).trans (hends ((if_pos h).trans (onLaunches_none hn _)))
  · exact (exec_haltReq s).trans (hends ((if_pos h).trans (onLaunches_one hL _)))
  · exact (exec_unknownCommand s).trans (hends rfl)

end Sys2Proof.Machine
end

section

/-!
# Fetching and starting clauses (R44 to R52, R113, R114)
-/

namespace Sys2Proof.Machine

-- One proof at a time: each waiting thread would reserve a stack of its own.
set_option Elab.async false

/-! ### The words of a clause (R52) -/

theorem pick_rest (s : State) (n : Nat) : { (pick s n).2 with fresh := s.fresh } = s := by
  unfold pick
  split <;> rfl

theorem pick_lt {s : State} {n : Nat} (h : n ≠ 0) : (pick s n).1 < n := by
  unfold pick
  split
  · exact Nat.pos_of_ne_zero h
  · exact Nat.mod_lt _ (Nat.pos_of_ne_zero h)

/-- What is picked of a list that is not empty is in it. -/
theorem pickFrom_mem {α : Type} {s : State} {l : List α} (h : l ≠ []) (d : α) : (pickFrom s l).1.getD d ∈ l := by
  have hlt : (pick s l.length).1 < l.length := pick_lt fun h0 => h (List.length_eq_zero_iff.1 h0)
  show (l[(pick s l.length).1]?).getD d ∈ l
  rw [List.getElem?_eq_getElem hlt, Option.getD_some]
  exact List.getElem_mem hlt

theorem codeValues_rest (s : State) (n id pa : Nat) : codeValues { s with fresh := n } id pa = codeValues s id pa := rfl

theorem codeWord_mem (s : State) (id pa : Nat) : (codeWord s id pa).1 ∈ codeValues s id pa := 
  pickFrom_mem (l := codeValues s id pa) (by rw [codeValues]; exact List.cons_ne_nil _ _) _

theorem codeWord_rest (s : State) (id pa : Nat) : { (codeWord s id pa).2 with fresh := s.fresh } = s := pick_rest _ _

/-- A value that a fetch may see is the present one or a former one (R52). -/
theorem mem_codeValues {s : State} {id pa : Nat} {x : Word} (h : x ∈ codeValues s id pa) : x = BitVec.ofNat 32 (readNat s (physLoc pa) 4) ∨
    ∃ k, (k, x) ∈ fgetD s.past (pa / 4) [] ∧ (launchD s id).since < k := by
  obtain h | h := List.mem_cons.1 h
  · exact .inl h
  · obtain ⟨⟨k, y⟩, hy, rfl⟩ := List.mem_map.1 h
    obtain ⟨h1, h2⟩ := List.mem_filter.1 hy
    exact .inr ⟨k, h1, of_decide_eq_true h2⟩

theorem codeValues_of_rest {s t : State} (h : { t with fresh := s.fresh } = s) (id pa : Nat) : codeValues t id pa = codeValues s id pa :=
  (codeValues_rest t s.fresh id pa).symm.trans (congrArg (codeValues · id pa) h)

theorem codeWords_spec (id : Nat) : ∀ (n pa : Nat) (s : State), (codeWords id n pa s).1.length = n ∧
    { (codeWords id n pa s).2 with fresh := s.fresh } = s ∧
    ∀ i x, (codeWords id n pa s).1[i]? = some x → x ∈ codeValues s id (pa + 4 * i)
  | 0, pa, s => ⟨rfl, rfl, fun i x h => by cases h⟩
  | n + 1, pa, s => by
    obtain ⟨h1, h2, h3⟩ := codeWords_spec id n (pa + 4) (codeWord s id pa).2
    have hrest := codeWord_rest s id pa
    refine ⟨congrArg Nat.succ h1, ?_, fun i x hx => ?_⟩
    · exact (congrArg (fun u : State => { u with fresh := s.fresh }) h2).trans hrest
    · cases i with
      | zero =>
        cases hx
        exact codeWord_mem s id pa
      | succ i =>
        rw [← codeValues_of_rest hrest]
        have := h3 i x hx
        rwa [show pa + 4 + 4 * i = pa + 4 * (i + 1) by omega] at this

/-! ### The instruction cache in error (R12, R372) -/

theorem coreOf_modCore (s : State) (c k : Nat) (f : Core → Core) : coreOf (modCore s c f) k = if k = c then f (coreOf s c) else coreOf s k := by
  show fgetD (fput s.cores c (f (coreOf s c))) k {} = _
  unfold fgetD
  rw [fget_fput]
  split <;> rfl

theorem cacheError_none {s : State} {core pa n : Nat} (h : (granules pa n).filter (fun k => (coreOf s core).badCode.contains k) = []) :
    cacheError s core pa n = (s, none) := by
  have hfind : (granules pa n).find? (coreOf s core).badCode.contains = none := by
    rw [List.find?_eq_none]
    exact fun k hk hc => by simpa using List.filter_eq_nil_iff.1 h k hk hc
  rw [cacheError, hfind]

theorem cacheError_some {s : State} {core pa n k : Nat}
    (h : ((granules pa n).filter fun k => (coreOf s core).badCode.contains k).head? = some k) : ∃ s2,
    { s2 with fresh := s.fresh, cores := s.cores } = s ∧ (cacheError s core pa n = (s2, some k) ∧ s2.cores = s.cores ∨
      cacheError s core pa n = (s2, none) ∧ ∀ j ∈ granules pa n, j ∉ (coreOf s2 core).badCode) := by
  have hfind : (granules pa n).find? (coreOf s core).badCode.contains = some k := by
    rw [← List.head?_filter]
    exact h
  have hpick := pick_rest s 2
  have hcores : (pick s 2).2.cores = s.cores := by
    have := congrArg State.cores hpick
    exact this
  by_cases hx : (pick s 2).1 = 0
  · let u := modCore (pick s 2).2 core fun y => { y with badCode := y.badCode.filter fun i => !(granules pa n).contains i }
    refine ⟨u, ?_, .inr ⟨?_, fun j hj hmem => ?_⟩⟩
    · rw [← hcores]
      exact hpick
    · rw [cacheError, hfind]
      simp only [hx, if_true]
      rfl
    · rw [coreOf_modCore, if_pos rfl] at hmem
      have := (List.mem_filter.1 hmem).2
      simp [hj] at this
  · refine ⟨(pick s 2).2, ?_, .inl ⟨?_, hcores⟩⟩
    · rw [← hcores]
      exact hpick
    · rw [cacheError, hfind]
      simp only [hx, if_false]

section
variable {u s1 s2 : State} {g : Gang} {h : Dbl} {n pa : Nat} {e : Dbl}
  (ha : globalAccess u (.fetch g.core) (launchD u g.launch) h n { x := true, colour := false } 0 = (s1, .ok pa e))
include ha

theorem fetchAt_read (hc : cacheError s1 g.core pa n = (s2, none)) : fetchAt u g h n = (s2, .ok pa e) := by
  simp only [fetchAt, ha, hc]

theorem fetchAt_error {k : Nat} (hc : cacheError s1 g.core pa n = (s2, some k)) :
    fetchAt u g h n = (s2, .bad 0x60 (h + BitVec.ofNat 64 (k * 16 - pa)) 0) := by
  simp only [fetchAt, ha, hc]

end

/-! ### Fetching a clause (R113, R114) -/

section
variable {s : State} {g : Gang} (hg : gangOf s (s.focus.headD 0) = some g) (hf : canFetch s g = true)
include hg hf

/-- What a fetch of the clause of the top entry does. -/
theorem clauseFetch_eq : exec .clauseFetch s = .next (
    if (topEntry g).pc.toNat % 4 ≠ 0 then headerFault s g 0x02 (topEntry g).pc (topEntry g).pc (topLanes g)
    else if canonical (topEntry g).pc = false then headerFault s g 0x13 (topEntry g).pc (topEntry g).pc (topLanes g)
    else if apertureOf (topEntry g).pc ≠ .global then headerFault s g 0x15 (topEntry g).pc (topEntry g).pc (topLanes g)
    else match fetchAt s g (topEntry g).pc 4 with
      | (s1, .bad cause at_ _) => headerFault s1 g cause (topEntry g).pc at_ (topLanes g)
      | (s1, .ok pa _) => fetchClause (codeWord s1 g.launch pa).2 g (topEntry g).pc (codeWord s1 g.launch pa).1) := by
  rw [exec_clauseFetch, execClauseFetch]
  simp only [hg, hf, Bool.not_true, Bool.false_eq_true, if_false]
  by_cases h1 : (topEntry g).pc.toNat % 4 = 0
  · by_cases h2 : canonical (topEntry g).pc = true
    · by_cases h3 : apertureOf (topEntry g).pc = .global
      · simp only [h1, h2, h3, bne_self_eq_false, Bool.not_true, Bool.false_eq_true, if_false, ne_eq, not_true_eq_false, Bool.true_eq_false]
        rcases fetchAt s g (topEntry g).pc 4 with ⟨s1, _ | _⟩ <;> rfl
      · simp [h1, h2, h3]
    · simp [h1, h2]
  · simp [h1]

end

theorem crosses_eq (h : Dbl) (hdr : Nat) : crosses h hdr = decide (4096 < h.toNat % 4096 + 4 * (hdr / 2 ^ 20 % 16 + 1 + 1)) := rfl

/-- Settles O44: the faults at the header, the words that are fetched, and the cache. -/
theorem clauseFetch : Obligations.ClauseFetch := by
  unfold Obligations.ClauseFetch
  intro s g hg hf h lanes
  have hexec := clauseFetch_eq hg hf
  refine ⟨fun h1 => ?_, fun h1 h2 => ?_, fun h1 h2 h3 => ?_, fun h1 h2 h3 => ?_, fun u n s1 pa e ha => ⟨fun hb => ?_, fun k hk => ?_⟩,
    fun t id pa n => ?_⟩
  · rw [hexec, if_pos h1]
    rfl
  · rw [hexec, if_neg (not_not.2 h1), if_pos h2]
    rfl
  · rw [hexec, if_neg (not_not.2 h1), if_neg (fun h0 => Bool.false_ne_true (h0.symm.trans h2)), if_pos h3]
    rfl
  · rw [if_neg (not_not.2 h1), if_neg (fun h0 => Bool.false_ne_true (h0.symm.trans h2)), if_neg (not_not.2 h3)] at hexec
    refine ⟨fun s1 cause a col hfetch => ?_, fun s1 pa e hdr s2 hfetch hcode => ?_⟩
    · rw [hexec, hfetch]
      rfl
    · intro n
      have hgo : exec .clauseFetch s = .next (fetchClause s2 g h hdr) := by
        rw [hexec, hfetch]
        show Host.Outcome.next (fetchClause (codeWord s1 g.launch pa).2 g _ (codeWord s1 g.launch pa).1) = _
        rw [hcode]
      refine ⟨fun hbad => ?_, fun hlegal hin => ?_⟩
      · rw [hgo, fetchClause, if_pos]
        rw [Bool.or_eq_true, Bool.not_eq_true', crosses_eq, decide_eq_true_eq]
        exact hbad
      · have hcond : ¬ ((!hdrLegal hdr.toNat || crosses h hdr.toNat) = true) := by
          rw [Bool.or_eq_true, Bool.not_eq_true', crosses_eq, decide_eq_true_eq]
          rintro (h | h)
          · exact Bool.false_ne_true (h.symm.trans hlegal)
          · omega
        rw [fetchClause, if_neg hcond] at hgo
        refine ⟨fun s3 cause a col hf3 => ?_, fun s3 pa e ws s4 hf3 hws => ⟨?_, ?_⟩⟩
        · rw [hgo, show clauseBytes hdr.toNat = 4 * (n + 1) from rfl, hf3]
          rfl
        · obtain ⟨hlen, -⟩ := codeWords_spec g.launch n (pa + 4) s3
          rwa [hws] at hlen
        · rw [hgo, show clauseBytes hdr.toNat = 4 * (n + 1) from rfl, hf3]
          show Host.Outcome.next (modGang (codeWords g.launch n (pa + 4) s3).2 g.id fun x =>
            { x with fetched := some ⟨h, hdr, (codeWords g.launch n (pa + 4) s3).1⟩ }) = _
          rw [hws]
  · exact fetchAt_read ha (cacheError_none hb)
  · obtain ⟨s2, h1, ⟨h2, h3⟩ | ⟨h2, h3⟩⟩ := cacheError_some hk
    · exact ⟨s2, h1, .inl ⟨fetchAt_error ha h2, h3⟩⟩
    · exact ⟨s2, h1, .inr ⟨fetchAt_read ha h2, h3⟩⟩
  · intro seen
    obtain ⟨h1, h2, h3⟩ := codeWords_spec id n pa t
    exact ⟨mem_codeValues (codeWord_mem t id pa), codeWord_rest t id pa, h1, h2, fun i x hx => mem_codeValues (h3 i x hx)⟩

end Sys2Proof.Machine
end

section

/-!
# The start of a clause (R45 to R50, R123, R132)
-/

namespace Sys2Proof.Machine

-- One proof at a time: each waiting thread would reserve a stack of its own.
set_option Elab.async false

/-! ### The fields of a header -/

theorem hdrLegal_iff (h : Nat) : hdrLegal h = true ↔
    (h / 2 ^ 12 % 16 < 12 ∨ h / 2 ^ 12 % 16 = 15) ∧ (h / 2 ^ 16 % 16 < 12 ∨ h / 2 ^ 16 % 16 = 15) := by
  rw [hdrLegal, Bool.and_eq_true, Bool.or_eq_true, Bool.or_eq_true, beq_iff_eq, beq_iff_eq]
  exact and_congr (or_congr decide_eq_true_iff .rfl) (or_congr decide_eq_true_iff .rfl)

theorem hdrNegate_eq {h : Nat} (hh : h < 2 ^ 32) : hdrNegate h = !decide (h < 2 ^ 31) := by
  rw [hdrNegate, Bool.eq_iff_iff, beq_iff_eq, Bool.not_eq_true', decide_eq_false_iff_not]
  omega

/-- The lanes of a clause (R50): those of the top entry whose predicate holds, or does not where the header negates it. -/
theorem inMask_clauseMask (g : Gang) (hdr : Word) {l : Nat} (hl : l < 32) : inMask (clauseMask g hdr) l = true ↔
    inMask (topEntry g).mask l = true ∧ inMask g.live l = true ∧
      rdPred (thr g l) (hdr.toNat / 2 ^ 24 % 128) = decide (hdr.toNat < 2 ^ 31) := by
  have htop : inMask (topLanes g) l = (inMask (topEntry g).mask l && inMask g.live l) := BitVec.getLsbD_and ..
  rw [clauseMask, inMask_maskOf hl, List.mem_filter, lanesOf, List.mem_filter, htop, hdrNegate_eq hdr.isLt, bne_iff_ne, Bool.and_eq_true]
  have hmem : l ∈ lanes32 := List.mem_range.2 hl
  have hpred : hdrPred hdr.toNat = hdr.toNat / 2 ^ 24 % 128 := rfl
  rw [hpred]
  cases rdPred (thr g l) (hdr.toNat / 2 ^ 24 % 128) <;> cases decide (hdr.toNat < 2 ^ 31) <;> simp [hmem]

/-! ### What comes first at a clause start -/

section
variable {g : Gang} {f : Fetched}

theorem headerBad_of_reserved (h : hdrLegal f.hdr.toNat = false) : headerBad g f = some (if (topEntry g).target then 0x02 else 0x01,
    if (topEntry g).target then f.h else BitVec.ofNat 64 f.hdr.toNat, clauseMask g f.hdr) := by
  unfold headerBad
  rw [h]
  cases (topEntry g).target <;> rfl

theorem headerBad_of_crossing (h : hdrLegal f.hdr.toNat = true) (hc : crosses f.h f.hdr.toNat = true) :
    headerBad g f = some (0x02, f.h, topLanes g) := by
  simp [headerBad, h, hc]

theorem headerBad_none (h : hdrLegal f.hdr.toNat = true) (hc : crosses f.h f.hdr.toNat = false) : headerBad g f = none := by
  simp [headerBad, h, hc]

end

section
variable {s : State} {g : Gang} {f : Fetched} (hg : gangOf s (s.focus.headD 0) = some g) (hf : g.fetched = some f)
  (hat : atClauseStart s g = true)
include hg hf hat

theorem clauseStart_waits (hn : startsNow g f = false) : exec .clauseStart s = .next s := by
  rw [exec_clauseStart, execClauseStart]
  simp only [hg, hf, hat, hn, Bool.not_true, Bool.not_false, Bool.or_true, if_true]

variable (hn : startsNow g f = true)
include hn

theorem clauseStart_precise (hp : preciseDue g f = true) : exec .clauseStart s = .next (beginClause s g f) := by
  rw [exec_clauseStart, execClauseStart]
  simp only [hg, hf, hat, hn, hp, Bool.not_true, Bool.or_self, Bool.false_eq_true, if_false, if_true]

theorem clauseStart_deferred (hp : preciseDue g f = false) (hd : deferredDue s g = true) :
    exec .clauseStart s = .next { s with agenda := .event .deferredFaultDelivery [g.id] :: s.agenda } := by
  rw [exec_clauseStart, execClauseStart]
  simp only [hg, hf, hat, hn, hp, hd, Bool.not_true, Bool.or_self, Bool.false_eq_true, if_false, if_true]

theorem clauseStart_hits (hp : preciseDue g f = false) (hd : deferredDue s g = false) (hh : hitsDue g = true) :
    exec .clauseStart s = .next (if hitsHeld s g = true then s else deliverHits s g) := by
  rw [exec_clauseStart, execClauseStart]
  simp only [hg, hf, hat, hn, hp, hd, hh, Bool.not_true, Bool.or_self, Bool.false_eq_true, if_false, if_true]

theorem clauseStart_begins (hp : preciseDue g f = false) (hd : deferredDue s g = false) (hh : hitsDue g = false) :
    exec .clauseStart s = .next (beginClause s g f) := by
  rw [exec_clauseStart, execClauseStart]
  simp only [hg, hf, hat, hn, hp, hd, hh, Bool.not_true, Bool.or_self, Bool.false_eq_true, if_false]

end

/-! ### The first instruction issues (R123, R132) -/

/-- A gang is on the scheduler of another. -/
def sameSched (g x : Gang) : Bool := x.core == g.core && x.slot.isSome && schedOf x == schedOf g

theorem sameSched_iff (g x : Gang) : sameSched g x = true ↔ x.core = g.core ∧ x.slot.isSome ∧ schedOf x = schedOf g := by
  rw [sameSched, Bool.and_eq_true, Bool.and_eq_true, beq_iff_eq, beq_iff_eq, and_assoc]

/-- Every gang of the scheduler that waits under `yield` for the one that issues waits for it no more. -/
def yieldedPast (g : Gang) (s : State) : State :=
  { s with gangs := s.gangs.map fun x => if sameSched g x then yieldPast g.id x else x }

theorem yieldPast_id (c : Nat) (x : Gang) : (yieldPast c x).id = x.id := by
  unfold yieldPast
  split <;> rfl

/-- What an issue leaves of the gangs under `yield`. -/
theorem yieldPast_eq (c : Nat) (x : Gang) : (x.yieldFor = none → yieldPast c x = x) ∧ ∀ ids, x.yieldFor = some ids →
    yieldPast c x = if ids.filter (fun i => i ≠ c) = [] then { x with yielded := false, yieldFor := none }
      else { x with yieldFor := some (ids.filter fun i => i ≠ c) } := by
  refine ⟨fun h => by rw [yieldPast, h]; rfl, fun ids h => ?_⟩
  have hfilter : ids.filter (· != c) = ids.filter fun i => i ≠ c := List.filter_congr fun i _ => by
    by_cases hi : i = c <;> simp [hi]
  rw [yieldPast, h, Option.map_some, hfilter]
  cases ids.filter fun i => i ≠ c <;> simp

/-- It changes a gang's standing under `yield` alone. -/
theorem yieldPast_rest (c : Nat) (x : Gang) : ∃ y z, yieldPast c x = { x with yielded := y, yieldFor := z } := by
  unfold yieldPast
  split
  · exact ⟨x.yielded, x.yieldFor, rfl⟩
  · exact ⟨_, _, rfl⟩
  · exact ⟨x.yielded, _, rfl⟩

theorem gangOf_yieldedPast (g : Gang) (s : State) (id : Nat) :
    gangOf (yieldedPast g s) id = (gangOf s id).map fun x => if sameSched g x then yieldPast g.id x else x :=
  findBy_map (key := Gang.id) (f := fun x => if sameSched g x then yieldPast g.id x else x)
    (fun x => by split <;> simp [yieldPast_id]) id s.gangs

/-- Units and operand logs of cores change, and nothing else. -/
structure UnitsTaken (s t : State) : Prop where
  rest : { t with cores := s.cores } = s
  cores : ∀ k, { coreOf t k with divFree := (coreOf s k).divFree, sfuFree := (coreOf s k).sfuFree, oplog := (coreOf s k).oplog } = coreOf s k

theorem UnitsTaken.refl (s : State) : UnitsTaken s s := ⟨rfl, fun _ => rfl⟩

theorem unitsTaken_modCore (s : State) (c : Nat) {f : Core → Core}
    (hf : ∀ k, { f k with divFree := k.divFree, sfuFree := k.sfuFree, oplog := k.oplog } = k) : UnitsTaken s (modCore s c f) := by
  refine ⟨rfl, fun k => ?_⟩
  rw [coreOf_modCore]
  split
  next h =>
    subst h
    exact hf _
  · rfl

theorem UnitsTaken.trans {s t u : State} (h : UnitsTaken s t) (k : UnitsTaken t u) : UnitsTaken s u where
  rest := (congrArg (fun x : State => { x with cores := s.cores }) k.rest).trans h.rest
  cores i := by
    have h1 := k.cores i
    have h2 := h.cores i
    exact (congrArg (fun x : Core => { x with divFree := (coreOf s i).divFree, sfuFree := (coreOf s i).sfuFree, oplog := (coreOf s i).oplog }) h1).trans h2

theorem unitsTaken_issue (s : State) (g : Gang) (c : ClauseRun) (i : Instr) : UnitsTaken s (logWrites (occupyUnit s g i) g c i) := by
  refine .trans (t := occupyUnit s g i) ?_ (unitsTaken_modCore _ _ fun _ => rfl)
  unfold occupyUnit
  dsimp only
  split
  · exact unitsTaken_modCore _ _ fun _ => rfl
  · split
    · exact unitsTaken_modCore _ _ fun _ => rfl
    · exact .refl s

/-- A gang that issues: its aging count and class start again, and its `yield` is over (R123, R132). -/
def rejuvenated (k : Nat) (x : Gang) : Gang := { x with aging := 0, curClass := k, yielded := false, yieldFor := none }

/-- What the issue of the first instruction leaves. -/
theorem startIssue_eq (s : State) (g : Gang) (c : ClauseRun) : ∃ u, UnitsTaken (modGang (yieldedPast g s) g.id (rejuvenated (baseClass s g))) u ∧
    startIssue s g c = { u with issuing := some g.id } := by
  unfold startIssue
  dsimp only
  split
  next i _ => exact ⟨_, unitsTaken_issue _ g c i, rfl⟩
  · exact ⟨_, .refl _, rfl⟩

theorem gangOf_unitsTaken {s t : State} (h : UnitsTaken s t) (id : Nat) : gangOf t id = gangOf s id := by
  have hgangs : t.gangs = s.gangs := by
    have := congrArg State.gangs h.rest
    exact this
  rw [gangOf, hgangs, gangOf]

/-- The gang that issues, and every other. -/
theorem startIssue_gangs {s : State} {g g1 : Gang} (hg : gangOf s g.id = some g) (hid : g1.id = g.id) (c : ClauseRun) :
    let t := startIssue (setGang s g1) g c
    gangOf t g.id = some (rejuvenated (baseClass s g) g1) ∧
      ∀ x, x.id ≠ g.id → gangOf s x.id = some x → gangOf t x.id = some (if sameSched g x then yieldPast g.id x else x) := by
  intro t
  obtain ⟨u, hu, ht⟩ := startIssue_eq (setGang s g1) g c
  have hgang : ∀ id, gangOf t id = gangOf (modGang (yieldedPast g (setGang s g1)) g.id (rejuvenated (baseClass s g))) id := fun id => by
    show gangOf (startIssue (setGang s g1) g c) id = _
    rw [ht]
    exact gangOf_unitsTaken hu id
  refine ⟨?_, fun x hx hs => ?_⟩
  · rw [hgang, gangOf_modGang _ _ _ (rejuvenated _) fun _ => rfl, if_pos rfl, gangOf_yieldedPast, gangOf_setGang_same hg hid]
    obtain ⟨y, z, hyz⟩ := yieldPast_rest g.id g1
    by_cases hs : sameSched g g1 = true
    · simp only [Option.map_some, if_pos hs, hyz, rejuvenated]
    · simp only [Option.map_some, if_neg hs]
  · rw [hgang, gangOf_modGang _ _ _ (rejuvenated _) fun _ => rfl, if_neg hx, gangOf_yieldedPast, gangOf_setGang_ne _ _ (by rw [hid]; exact hx), hs]
    rfl

/-- A gang whose clause has no lane goes on at the next header (R45). -/
theorem fallThrough_only (g : Gang) (h : Dbl) (n : Nat) : OnlyThreads g (fallThrough g h n) ∧ (fallThrough g h n).threads = g.threads ∧
    (fallThrough g h n).id = g.id ∧ (fallThrough g h n).clause = none ∧
    (fallThrough g h n).frontier = insertEntries g.frontier.tail [{ topEntry g with pc := nextHeader h n, target := false }] := by
  unfold fallThrough
  rw [withFrontier_rest]
  exact ⟨⟨rfl, rfl, rfl, fun hl => by rw [withFrontier_short _ _ hl]⟩, rfl, rfl, rfl, rfl⟩

/-- Settles O45: the mask, the faults in their order, and the start. -/
theorem clauseStart : Obligations.ClauseStart := by
  unfold Obligations.ClauseStart
  intro s g f hg hf hat hdr flag legal n crossing A
  have hlegal : hdrLegal f.hdr.toNat = true ↔ legal := hdrLegal_iff _
  have hcross : crosses f.h f.hdr.toNat = true ↔ crossing := by
    rw [crosses_eq, decide_eq_true_eq]
  have hid : s.focus.headD 0 = g.id := (findBy_key (key := Gang.id) hg).symm
  have hgid : gangOf s g.id = some g := hid ▸ hg
  have hbad_precise : (headerBad g f).isSome = true → exec .clauseStart s = .next (beginClause s g f) := fun h =>
    clauseStart_precise hg hf hat (by rw [startsNow, h, Bool.true_or]) (by rw [preciseDue, h, Bool.true_or])
  refine ⟨fun l hl => inMask_clauseMask g f.hdr hl, fun h => ?_, fun h1 h2 => ?_, fun h1 h2 h3 => ?_, fun h1 h2 h3 => ⟨fun k hk => ?_, fun hk => ?_⟩⟩
  · have hbad := headerBad_of_reserved (g := g) (f := f) (Bool.not_eq_true _ ▸ mt hlegal.1 h)
    rw [hbad_precise (by rw [hbad]; rfl), beginClause, hbad]
  · have hbad := headerBad_of_crossing (g := g) (hlegal.2 h1) (hcross.2 h2)
    rw [hbad_precise (by rw [hbad]; rfl), beginClause, hbad]
    rfl
  all_goals have hbad := headerBad_none (g := g) (hlegal.2 h1) (Bool.not_eq_true _ ▸ mt hcross.1 h2)
  · exact clauseStart_waits hg hf hat (by rw [startsNow, hbad]; exact h3)
  all_goals have hnow : startsNow g f = true := by rw [startsNow, hbad]; exact h3
  · have hprec : preciseDue g f = true := by rw [preciseDue, hbad, illegalAt, hk]; rfl
    rw [clauseStart_precise hg hf hat hnow hprec, beginClause, hbad, illegalAt, hk]
  have hprec : preciseDue g f = false := by rw [preciseDue, hbad, illegalAt, hk]; rfl
  have hbegin : beginClause s g f = if clauseMask g f.hdr = 0 then setGang s (fallThrough { g with fetched := none } f.h f.words.length)
      else startIssue (setGang s { g with fetched := none, clause := some (firstRun g f) }) g (firstRun g f) := by
    rw [beginClause, hbad, illegalAt, hk]
  refine ⟨fun hd => clauseStart_deferred hg hf hat hnow hprec hd, fun hd hl hh => ?_, fun hd hh => ?_⟩
  · refine clauseStart_hits hg hf hat hnow hprec hd ?_
    rw [hitsDue, hl]
    cases hx : g.hits
    · exact absurd hx hh
    · rfl
  · have hnone : hitsDue g = false := by
      rw [hitsDue, Bool.and_eq_false_iff]
      exact hh.imp (fun h => beq_eq_false_iff_ne.2 h) fun h => by rw [h]; rfl
    have hexec := clauseStart_begins hg hf hat hnow hprec hd hnone
    rw [hbegin] at hexec
    refine ⟨fun hA => ?_, fun hA => ?_⟩
    · obtain ⟨h1, h2, h3, h4, h5⟩ := fallThrough_only { g with fetched := none } f.h f.words.length
      rw [if_pos hA] at hexec
      exact ⟨_, _, hexec, gangOf_setGang_same hgid h3, h1, h2, h4, h5⟩
    · let g1 : Gang := { g with fetched := none, clause := some (firstRun g f) }
      rw [if_neg hA] at hexec
      obtain ⟨u, hu, ht⟩ := startIssue_eq (setGang s g1) g (firstRun g f)
      obtain ⟨hown, hothers⟩ := startIssue_gangs hgid (g1 := g1) rfl (firstRun g f)
      refine ⟨_, hexec, by rw [ht], ?_, fun x hx hs => ⟨_, hothers x hx hs, ?_⟩, fun k => ?_, hown⟩
      · rw [ht]
        exact congrArg (fun y : State => { y with issuing := s.issuing, gangs := s.gangs, cores := s.cores }) hu.rest
      · intro same
        have hsame : sameSched g x = true ↔ same := sameSched_iff g x
        obtain ⟨hy1, hy2⟩ := yieldPast_eq g.id x
        refine ⟨fun h => ?_, fun ids hs hids => ?_⟩
        · by_cases hs : same
          · rw [if_pos (hsame.2 hs)]
            exact hy1 (h.resolve_left (not_not.2 hs))
          · exact if_neg (mt hsame.1 hs)
        · intro left
          rw [if_pos (hsame.2 hs)]
          exact hy2 ids hids
      · rw [ht]
        exact hu.cores k

end Sys2Proof.Machine
end

section

/-!
# The engine's instructions, by a block gang whose block holds the claim (R281 to R300)
-/

namespace Sys2Proof.Machine

-- One proof at a time: each waiting thread would reserve a stack of its own.
set_option Elab.async false

theorem withClaim_owned {s : State} {g : Gang} (h : (engineOf s g.core).owner = some g.block) (c : ClauseRun) (cls : Cls) (k : State → State) :
    withClaim s g c cls k = k s := by
  rw [withClaim, h]
  exact if_pos rfl

theorem withClaim_other {s : State} {g : Gang} {o : Nat} (h : (engineOf s g.core).owner = some o) (ho : o ≠ g.block) (c : ClauseRun) (cls : Cls)
    (k : State → State) : withClaim s g c cls k = blockAt s g c cls (activeMask c) 3 .claim := by
  rw [withClaim, h]
  exact if_neg ho

theorem engine_task {s : State} {g : Gang} {c : ClauseRun} {cls : Cls} (hi : Issues s cls g c) (ht : g.task ≠ 0) (dst src : List Opnd)
    (k : State → Gang → ClauseRun → Nat → State) : engine s cls dst src k = .next (engFault s g c cls (0x11, 0, 0)) :=
  (issue_ok hi _).trans (congrArg _ (if_pos (bne_iff_ne.2 ht)))

theorem engine_window {s : State} {g : Gang} {c : ClauseRun} {cls : Cls} {dst src : List Opnd} (hi : Issues s cls g c) (ht : g.task = 0)
    (hw : windowOnce g (activeMask c) dst src = none) (k : State → Gang → ClauseRun → Nat → State) :
    engine s cls dst src k = .next (withClaim s g c cls fun s1 => k s1 g c (lowest (activeMask c))) := by
  refine (issue_ok hi _).trans ?_
  simp only [ht, bne_self_eq_false, Bool.false_eq_true, if_false, hw]

theorem engine_owned {s : State} {g : Gang} {c : ClauseRun} {cls : Cls} {dst src : List Opnd} (hi : Issues s cls g c) (ht : g.task = 0)
    (ho : (engineOf s g.core).owner = some g.block) (hw : windowOnce g (activeMask c) dst src = none)
    (k : State → Gang → ClauseRun → Nat → State) : engine s cls dst src k = .next (k s g c (lowest (activeMask c))) :=
  (engine_window hi ht hw k).trans (congrArg _ (withClaim_owned ho c cls _))

theorem enterQueue_room {s : State} {g : Gang} (h : (engineOf s g.core).cmds.length < 16) (c : ClauseRun) (lane : Nat) (body : EngBody) :
    enterQueue s g c lane body = enqueue s g c lane body :=
  if_pos (decide_eq_true h)

theorem fmtDiffers_nil {g : Gang} {A : Word} {d : Nat} (h : ∀ j ∈ lanesOf A, rdReg g.level (thr g j) d = rdReg g.level (thr g (lowest A)) d) :
    fmtDiffers g A d = [] :=
  List.filter_eq_nil_iff.2 fun j hj => by simp [h j hj]

/-! ### A command that enters stands last in the queue -/

theorem coreOf_setGang (s : State) (g : Gang) (k : Nat) : coreOf (setGang s g) k = coreOf s k := rfl

theorem noteSync_of_not_sync {s : State} {c : ClauseRun} (h : ∀ i, decodeWord (wordOf c) = .ok i → syncInstr i = false) (id : Nat) :
    noteSync s id c = s := by
  unfold noteSync
  by_cases hr : c.retired = true
  · rw [if_pos hr]
  · rw [if_neg hr]
    cases hd : decodeWord (wordOf c) with
    | error => rfl
    | ok i => simp only [h i hd, Bool.false_eq_true, if_false]

theorem complete_unnoted {s : State} {g : Gang} {c : ClauseRun} {cls : Cls} (hh : c.hits = [])
    (h : ∀ i, decodeWord (wordOf c) = .ok i → syncInstr i = false) :
    complete s g c cls = issued s (stepPast (retire (countDone (countUp g c cls) c cls) c) c) := by
  unfold complete
  rw [hh]
  exact noteSync_of_not_sync h g.id

/-- The command that an instruction enters, with its identity (R281). -/
def queuedCmd (s : State) (g : Gang) (c : ClauseRun) (lane : Nat) (body : EngBody) : EngCmd :=
  { id := s.nextId, gang := g.id, lane := lane, launch := g.launch, block := g.block, index := g.index, pc := instrPc c, body := body,
    flag := if body.isLoad then clsFlag c.hdr .b else none }

theorem enqueue_appends (s : State) (g : Gang) {c : ClauseRun} (hh : c.hits = []) (h : ∀ i, decodeWord (wordOf c) = .ok i → syncInstr i = false)
    (lane : Nat) (body : EngBody) :
    ∃ x, (engineOf (enqueue s g c lane body) g.core).cmds = (engineOf s g.core).cmds ++ [x] ∧ x.body = body ∧ x.gang = g.id ∧ x.lane = lane ∧
      x.block = g.block ∧ x.launch = g.launch ∧ x.started = false := by
  have hq : (engineOf (modEngine (newId s).2 g.core fun e => { e with cmds := e.cmds ++ [queuedCmd s g c lane body] }) g.core).cmds
      = (engineOf s g.core).cmds ++ [queuedCmd s g c lane body] := by
    unfold engineOf modEngine
    rw [coreOf_modCore, if_pos rfl]
    rfl
  refine ⟨queuedCmd s g c lane body, Eq.trans ?_ hq, rfl, rfl, rfl, rfl, rfl, rfl⟩
  unfold enqueue queuedCmd
  simp only [complete_unnoted hh h]
  split <;> rfl

/-! ### The shape word of a ring (R291) -/

theorem ringShape_reserved {shape : Nat} (h3 : shape / 2 ^ 21 % 8 = 0) (hlt : shape < 2 ^ 25) :
    shape - bits shape 0 21 - bits shape 24 1 * 2 ^ 24 = 0 := by
  unfold bits
  omega

/-- Settles O41: each instruction past its checks, the claim held; a command's place by `enqueue_appends`. -/
theorem engineResults : Obligations.EngineResults := by
  unfold Obligations.EngineResults
  intro s g c cls hi A k e
  have goes : ∀ {run}, mustStop s g = false → unlessStopping s run = run := fun hm => unlessStopping_goes hi.issuer hm _
  refine ⟨?_, ?_, fun ht ho => ⟨?_, ?_, ?_, ?_, ?_, ?_, ?_, ?_, ?_, ?_⟩, fun hh h lane body => enqueue_appends s g hh h lane body⟩
  · rintro ht b a r rfl
    refine ⟨fun hm => ⟨(exec_mfence s).trans ((goes hm).trans ?_), (exec_ringAdv b a r s).trans ((goes hm).trans ?_)⟩,
      (exec_ringRel b r s).trans ?_, (exec_ringRelRst r s).trans ?_⟩
    all_goals exact engine_task hi ht _ _ _
  · rintro ht o ho hne rfl hm
    refine (exec_mfence s).trans ((goes hm).trans ((engine_window hi ht (windowOnce_nil g _) _).trans (congrArg _ ?_)))
    exact withClaim_other ho hne c .none _
  · rintro rfl hm
    refine (exec_mfence s).trans ((goes hm).trans ((engine_owned hi ht ho (windowOnce_nil g _) _).trans ?_))
    simp only [List.isEmpty_iff]
    rfl
  · rintro b rfl hw hlt hroom
    refine (exec_mzero b s).trans ((engine_owned hi ht ho hw _).trans (congrArg _ ?_))
    exact (if_neg (Nat.not_le.2 hlt)).trans (enterQueue_room hroom c _ _)
  · rintro a l bar rfl hw hroom hl hp bs hok hr hb
    refine (exec_mdrain a s).trans ((engine_owned hi ht ho hw _).trans (congrArg _ ?_))
    simp only [show ownRange s g (laneAddr g (lowest (activeMask c)) a) 32 false = _ from hl, hp,
      show drainOk (engineOf s g.core) (readBytes s l 32) (parseDrain (readBytes s l 32) none) = _ from hok,
      show drainRanges s g (colourOf (laneAddr g (lowest (activeMask c)) a)) (parseDrain (readBytes s l 32) none) = _ from hr,
      show drainBarrier s g (laneAddr g (lowest (activeMask c)) a) (BitVec.ofNat 64 (leAt (readBytes s l 32) 0x10 8))
        (bit (parseDrain (readBytes s l 32) none).mode 5) = _ from hb, Bool.not_true, Bool.false_eq_true, if_false]
    exact enterQueue_room hroom c _ _
  · rintro sh b a d l rfl hw hroom hsame fw sel hf hl hp bs hok
    have hexec : exec (.mma sh b a d) s = .next (mmaAt s g c sh b a fw) := by
      refine (exec_mma sh b a d s).trans ((issue_ok hi _).trans (congrArg _ ?_))
      simp only [show windowOnce g (activeMask c) [.reg d] [.pair a, .reg b] = none from hw, ht, bne_self_eq_false,
        Bool.false_eq_true, if_false, show fmtDiffers g (activeMask c) d = [] from fmtDiffers_nil hsame,
        show formatOk (rdReg g.level (thr g (lowest (activeMask c))) d).toNat = true from hf, Bool.not_true]
      exact withClaim_owned ho c .b _
    rw [hexec]
    unfold mmaAt
    simp only [show ownRange s g (laneAddr g (lowest (activeMask c)) a) 32 false = _ from hl, hp,
      show mmaOk (engineOf s g.core) (readBytes s l 32) (rdReg g.level (thr g (lowest (activeMask c))) b).toNat
        (parseMma (readBytes s l 32) (rdReg g.level (thr g (lowest (activeMask c))) b).toNat fw sh none) = true from hok,
      Bool.not_true, Bool.false_eq_true, if_false]
    refine ⟨fun hbar => congrArg _ ?_, fun off hbar hoff => congrArg _ ?_⟩
    · exact (if_neg (by simpa using hbar)).trans (enterQueue_room hroom c _ _)
    · refine (if_pos hbar).trans ?_
      rw [show ownBarrier s g (BitVec.ofNat 64 (leAt (readBytes s l 32) 0x10 8)) = _ from hoff]
      exact enterQueue_room hroom c _ _
  · rintro b a sc first n bytes l rfl hw hroom hsel hl
    refine (exec_cbld b a s).trans ((engine_owned hi ht ho hw _).trans (congrArg _ ?_))
    have hsel' : loadSel (rdReg g.level (thr g (lowest (activeMask c))) b).toNat = some (sc, first, n, bytes) := hsel
    have hl' : ownRange s g (laneAddr g (lowest (activeMask c)) a) bytes true = .ok l := hl
    simp only [hsel', Option.map_some, Option.getD_some, hl']
    exact enterQueue_room hroom c _ _
  · rintro r d rfl hw
    exact (exec_ringStat r d s).trans (engine_owned hi ht ho hw _)
  · rintro r rfl hcl
    refine (exec_ringRelRst r s).trans ((engine_owned hi ht ho (windowOnce_nil g _) _).trans (congrArg _ ?_))
    exact if_neg (by simp [hcl])
  · rintro b a r rfl hw base shape esize count hb hblt he hc0 hc hres hlt hsize hov hidle
    refine (exec_ringDef b a r s).trans ((engine_owned hi ht ho hw _).trans (congrArg _ ?_))
    have hesize : bits shape 0 12 = esize := by simp only [bits, Nat.pow_zero, Nat.div_one, esize]
    have hcount : bits shape 12 9 = count := rfl
    change (if _ then _ else _) = _
    simp only [show (rdReg g.level (thr g (lowest (activeMask c))) b).toNat = shape from rfl,
      show (rdReg g.level (thr g (lowest (activeMask c))) a).toNat = base from rfl, hesize, hcount, if_neg (Nat.ne_of_gt hc0)]
    have hkeep : bit shape 24 = shape.testBit 24 := (Nat.testBit_eq_decide_div_mod_eq ..).symm
    rw [hkeep]
    refine (if_neg ?_).trans rfl
    simp only [Bool.or_eq_true, not_or, Bool.not_eq_true]
    refine ⟨⟨⟨⟨⟨⟨⟨?_, ?_⟩, ?_⟩, ?_⟩, ?_⟩, ?_⟩, ?_⟩, ?_⟩
    · simp [hb]
    · simpa using hblt
    · simpa using he
    · simpa using hc
    · exact bne_eq_false_iff_eq.2 (ringShape_reserved hres hlt)
    · simpa using hsize
    · rw [decide_eq_true hc0, Bool.true_and, List.any_eq_false]
      intro x hx
      obtain ⟨hmem, hne⟩ := List.mem_filter.1 hx
      exact Bool.eq_false_iff.1 (hov x hmem (bne_iff_ne.1 hne))
    · cases hr : fget e.rings r with
      | none => simp
      | some x => simp [show ringIdle (engineOf s g.core) r x = true from hidle x hr]
  · rintro b a r x l rfl hm hw hx n hl h1 hn hcount
    have hx' : ringOf s g.core r = some x := hx
    have hl' : ownRange s g (laneAddr g (lowest (activeMask c)) a) (16 * x.esize * (rdReg g.level (thr g (lowest (activeMask c))) b).toNat) true
        = .ok l := hl
    have hbad : ¬(n = 0 ∨ 256 < n ∨ x.count < n) := by omega
    refine ⟨fun hfree => ?_, fun hfree hp => ?_⟩
    all_goals
      refine (exec_ringAdv b a r s).trans ((goes hm).trans ((engine_owned hi ht ho hw _).trans (congrArg _ ?_)))
      simp only [hx', hl']
      refine (if_neg hbad).trans ?_
    · exact if_pos hfree
    · refine (if_neg (Nat.not_lt.2 hfree)).trans (if_neg ?_)
      exact Bool.eq_false_iff.1 hp
  · rintro b r x rfl hw hx hkeep n h1 hn hread
    refine (exec_ringRel b r s).trans ((engine_owned hi ht ho hw _).trans (congrArg _ ?_))
    have hx' : ringOf s g.core r = some x := hx
    simp only [hx', hkeep]
    refine (if_neg ?_).trans ((if_neg ?_).trans (if_neg (Nat.not_lt.2 hn)))
    · simpa using Nat.ne_of_gt h1
    · exact Bool.eq_false_iff.1 hread

end Sys2Proof.Machine
end

section

/-!
# Translation walks, errors, links, the time base, power and start-up (R22, R195 to R200, R371 to R375, R389, R422 to R424)
-/

namespace Sys2Proof.Machine

-- One proof at a time: each waiting thread would reserve a stack of its own.
set_option Elab.async false

/-! ### A walk fills every buffer of its asker (R198) -/

/-- Putting an entry into a buffer evicts of that buffer alone. -/
theorem mem_tlb_putEntry_other {e x : TlbEntry} {s : State} {b : Nat × Nat} (hx : x ∈ s.tlb) (hb : x.inBuffer b = false) :
    x ∈ (putEntry e s b).tlb := by
  refine List.mem_cons_of_mem _ ?_
  split
  · split
    next y t hy =>
      have hmem : y.inBuffer b = true := (List.mem_filter.1 (List.mem_of_getElem? (Prod.mk.inj hy).1)).2
      have htlb : t.tlb = s.tlb := (Prod.mk.inj hy).2 ▸ pick_tlb s _
      refine List.mem_filter.2 ⟨?_, ?_⟩
      · rw [settleDirty_tlb, htlb]
        exact hx
      · refine bne_iff_ne.2 fun h => ?_
        rw [h, hmem] at hb
        cases hb
    next t hy =>
      rw [show t.tlb = s.tlb from (Prod.mk.inj hy).2 ▸ pick_tlb s _]
      exact hx
  · exact hx

theorem mem_tlb_fillTlb_fetch (s : State) (core ctx va at_ size : Nat) (leaf : Dbl) :
    ∀ b ∈ [(1, core / 64), (2, core / 1024)],
      { die := core / 1024, ctx := ctx, base := va / size * size, size := size, leafAt := at_, leaf := leaf, level := b.1, holder := b.2 : TlbEntry }
        ∈ (fillTlb s (.fetch core) ctx va at_ size leaf).tlb := by
  intro b hb
  obtain rfl | rfl : b = _ ∨ b = _ := by simpa using hb
  · exact List.mem_cons_self
  · exact mem_tlb_putEntry_other List.mem_cons_self rfl

theorem covers_page {size : Nat} (h : 0 < size) (d ctx va at_ : Nat) (leaf : Dbl) (level holder : Nat) :
    ({ die := d, ctx := ctx, base := va / size * size, size := size, leafAt := at_, leaf := leaf, level := level, holder := holder : TlbEntry }).covers
      d ctx va = true := by
  have h1 := Nat.div_mul_le_self va size
  have h2 := Nat.lt_div_mul_add (a := va) h
  simp [TlbEntry.covers, h1, h2]

theorem translateNew_fetch_entries {s t : State} {core ctx va pa : Nat} {leaf : Dbl} (h : translateNew s (.fetch core) ctx va = (t, .ok pa leaf)) :
    ∀ b ∈ [(1, core / 64), (2, core / 1024)], ∃ e ∈ t.tlb, e.level = b.1 ∧ e.holder = b.2 ∧ e.covers (core / 1024) ctx va = true ∧
      e.leaf = leaf ∧ paOf leaf e.size va = pa := by
  unfold translateNew at h
  split at h
  next at_ e size hw =>
    obtain ⟨rfl, hx⟩ := Prod.mk.inj h
    obtain ⟨rfl, rfl⟩ := Xlat.ok.inj hx
    intro b hb
    exact ⟨_, mem_tlb_fillTlb_fetch s core ctx va at_ size e b hb, rfl, rfl, covers_page (walk_size hw) .., rfl, rfl⟩
  all_goals cases (Prod.mk.inj h).2

theorem tlbWalk_found {s : State} {core ctx va : Nat} (hf : s.focus = [core, ctx, va]) (h : found s (.fetch core) ctx va ≠ []) :
    execTlbWalk s = .next s := by
  unfold execTlbWalk
  rw [hf]
  exact if_pos (by simp [List.isEmpty_eq_false_iff.2 h])

theorem tlbWalk_new {s : State} {core ctx va : Nat} (hf : s.focus = [core, ctx, va]) (hc : coreExists core = true)
    (h : found s (.fetch core) ctx va = []) : execTlbWalk s = match translateNew s (.fetch core) ctx va with
      | (s1, .ok _ _) => .next s1
      | (s1, .fail _ (some pa)) => .next (errorResponse s1 (core / 1024) ctx pa (generic va) none 2)
      | (s1, .fail _ none) => .next s1 := by
  unfold execTlbWalk
  rw [hf]
  refine (if_neg ?_).trans rfl
  simp [hc, h]

/-! ### Time does not pass a sweep that is due (R200) -/

theorem idle_pending {s : State} (h : ∃ e ∈ s.tlb, e.pending = true) : (idle s).time ≤ (s.time / 2 ^ 19 + 1) * 2 ^ 19 := by
  have hp : s.tlb.any TlbEntry.pending = true := List.any_eq_true.2 h
  have hlt : s.time + 1 ≤ (s.time / 2 ^ 19 + 1) * 2 ^ 19 := by omega
  change noLater { s with fresh := s.fresh + 1 + 1 } _ ≤ _
  unfold noLater
  rw [if_pos (show ({ s with fresh := s.fresh + 1 + 1 } : State).tlb.any TlbEntry.pending = true from hp)]
  exact (Nat.min_le_right _ _).trans (max_le hlt le_rfl)

/-! ### Errors (R371, R372) -/

theorem mem_poisonGranule_phys (s : State) (off : Nat) : off / 16 ∈ (poisonGranule s (physLoc off)).poison := by
  change off / 16 ∈ (if s.poison.contains (off / 16) then s.poison else off / 16 :: s.poison)
  split
  next h => exact List.contains_iff_mem.1 h
  · exact List.mem_cons_self

theorem eccError_phys {s : State} {off d c : Nat} (hd : homeDie s off = some d) (hf : s.focus = [0, 0, off, c]) :
    execEccError s = .next (if c != 0 || !physOk s off then countTelemetry s d (if c != 0 then 0 else 2)
      else countTelemetry (poisonGranule s (physLoc off)) d (if c != 0 then 0 else 2)) := by
  unfold execEccError
  rw [hf]
  refine (if_pos rfl).trans ?_
  rw [show homeDie s ([0, 0, off, c].getD 2 0) = some d from hd]
  rfl

theorem eccError_place {s : State} {kind owner off c core : Nat} {p : Place} (h1 : 1 ≤ kind) (h3 : kind ≤ 3)
    (hp : errorPlace s kind owner = some (p, core)) (hf : s.focus = [kind, owner, off, c]) :
    execEccError s = .next (if c != 0 then countTelemetry s (core / 1024) (if c != 0 then 0 else 2)
      else countTelemetry (poisonGranule s ⟨p, off⟩) (core / 1024) (if c != 0 then 0 else 2)) := by
  unfold execEccError
  rw [hf]
  refine (if_neg (Nat.ne_of_gt h1)).trans ((if_pos h3).trans ?_)
  rw [show errorPlace s ([kind, owner, off, c].headD 0) ([kind, owner, off, c].getD 1 0) = some (p, core) from hp]
  rfl

/-- An engine with a granule of one of its stores in error. -/
def withPoison (e : Engine) (x : Nat × Nat) : Engine := { e with poison := if e.poison.contains x then e.poison else x :: e.poison }

theorem storePoisoned_withPoison (e : Engine) (store off : Nat) : storePoisoned (withPoison e (store, off)) store [off] = true := by
  unfold storePoisoned withPoison
  simp only [List.any_cons, List.any_nil, Bool.or_false]
  split
  next h => exact h
  · simp

theorem eccError_engine {s : State} {kind core off : Nat} (h4 : 4 ≤ kind) (h7 : kind ≤ 7) (hc : coreExists core = true)
    (hf : s.focus = [kind, core, off, 0]) :
    execEccError s = .next (countTelemetry (modEngine s core fun e => withPoison e (kind - 4, off)) (core / 1024) 2) := by
  unfold execEccError
  rw [hf]
  refine (if_neg (Nat.ne_of_gt (show 0 < kind by omega))).trans ((if_neg (Nat.not_le.2 h4)).trans ((if_pos h7).trans ?_))
  refine (if_neg ?_).trans rfl
  simp [hc]

/-- A core's instruction cache with a granule of code in error. -/
def withBadCode (k : Core) (granule : Nat) : Core := { k with badCode := if k.badCode.contains granule then k.badCode else granule :: k.badCode }

theorem mem_badCode_withBadCode (k : Core) (granule : Nat) : granule ∈ (withBadCode k granule).badCode := by
  unfold withBadCode
  dsimp only
  split
  next h => exact List.contains_iff_mem.1 h
  · exact List.mem_cons_self

theorem eccError_code {s : State} {core off : Nat} (hc : coreExists core = true) (hf : s.focus = [10, core, off, 0]) :
    execEccError s = .next (countTelemetry (modCore s core fun k => withBadCode k (off / 16)) (core / 1024) 2) := by
  unfold execEccError
  rw [hf]
  refine (if_neg (by simp)).trans ((if_neg (by simp)).trans ((if_neg (by simp)).trans ((if_neg (by simp)).trans ((if_neg (by simp)).trans
    ((if_pos rfl).trans ((if_neg ?_).trans rfl))))))
  simp [hc]

theorem eccError_record {s : State} {h : Word} {t : Task} {off : Nat} (ht : taskOf s h = some t) (hi : t.index < 4096)
    (hf : s.focus = [9, h.toNat, off, 0]) : execEccError s = .next (countTelemetry (poisonRecord s h off) t.die 2) := by
  unfold execEccError
  rw [hf]
  refine (if_neg (by simp)).trans ((if_neg (by simp)).trans ((if_neg (by simp)).trans ((if_neg (by simp)).trans ((if_pos rfl).trans ?_))))
  rw [show BitVec.ofNat 32 ([9, h.toNat, off, 0].getD 1 0) = h from BitVec.ofNat_toNat ..|>.trans (BitVec.setWidth_eq h), ht]
  refine congrArg _ ((if_neg ?_).trans rfl)
  simpa using hi

/-! ### What an event that is posted leaves (R418) -/

/-- The state `t` with the fields that posting an event may change taken from `s`. -/
def unposted (s t : State) : State := { t with mem := s.mem, past := s.past, poison := s.poison, dies := s.dies, gangs := s.gangs }

/-- Only memory, the dies and what gangs wait for have changed. -/
structure Posted (s t : State) : Prop where
  rest : unposted s t = s
  woken : Woken s.gangs t.gangs

namespace Posted
variable {s t u : State}

theorem of_gangs (hr : unposted s t = s) (hg : t.gangs = s.gangs) : Posted s t := ⟨hr, hg ▸ woken_refl _⟩

theorem refl (s : State) : Posted s s := of_gangs rfl rfl

theorem trans (h : Posted s t) (k : Posted t u) : Posted s u where
  rest := (congrArg (unposted s) k.rest).trans h.rest
  woken := h.woken.trans k.woken

theorem launches (h : Posted s t) : t.launches = s.launches := (congrArg State.launches h.rest : (unposted s t).launches = s.launches)
theorem copies (h : Posted s t) : t.copies = s.copies := (congrArg State.copies h.rest : (unposted s t).copies = s.copies)
theorem fresh (h : Posted s t) : t.fresh = s.fresh := (congrArg State.fresh h.rest : (unposted s t).fresh = s.fresh)

theorem launchD (h : Posted s t) (id : Nat) : launchD t id = Machine.launchD s id := by
  unfold Machine.launchD launchOf
  rw [h.launches]

end Posted

theorem posted_modDie (s : State) (d : Nat) (f : Die → Die) : Posted s (modDie s d f) := .of_gangs rfl rfl

theorem posted_modMgmt (s : State) (d : Nat) (f : Mgmt → Mgmt) : Posted s (modMgmt s d f) := .of_gangs rfl rfl

theorem posted_writeBytes (s : State) (a : Nat) (bs : List Byte) : Posted s (writeBytes s (physLoc a) bs) := ⟨rfl, _, rfl⟩

theorem posted_drainEvent (s : State) (d : Nat) : Posted s (drainEvent s d) := by
  unfold drainEvent
  split
  · exact .refl s
  next e es hev =>
    dsimp only
    split
    · exact .refl s
    · refine (posted_modDie s d fun x => { x with events := es }).trans ?_
      split
      · exact (posted_writeBytes _ _ _).trans (posted_modMgmt _ _ _)
      · exact posted_modMgmt _ _ _

theorem posted_drainEventsLoop (d : Nat) : ∀ (n : Nat) (s : State), Posted s (drainEventsLoop d n s)
  | 0, s => .refl s
  | n + 1, s => (posted_drainEvent s d).trans (posted_drainEventsLoop d n _)

theorem posted_postEvent (s : State) (d type ctx : Nat) (launch : Option Nat) (payload : List (Nat × Nat × Nat)) :
    Posted s (postEvent s d type ctx launch payload) := by
  unfold postEvent
  dsimp only
  split
  · exact (posted_modDie _ _ _).trans (posted_drainEventsLoop d _ _)
  · exact posted_modMgmt _ _ _

theorem posted_errorResponse (s : State) (d ctx pa ea : Nat) (launch : Option Nat) (source : Nat) :
    Posted s (errorResponse s d ctx pa ea launch source) := posted_postEvent ..

/-! ### Links (R373, R374) -/

/-- A die's port that has failed for good. -/
def withFailedPort (x : Die) (p : Nat) : Die := { x with failedPorts := p :: x.failedPorts, retrying := x.retrying.filter fun y => y.1 != p }

/-- The state in which the failure of a port has been reported. -/
def portLost (s : State) (d p : Nat) : State := errorResponse (modDie s d fun x => withFailedPort x p) d 0 0 0 none 3

theorem posted_portLost (s : State) (d p : Nat) : Posted s (portLost s d p) := (posted_modDie s d _).trans (posted_errorResponse ..)

theorem linkFailure_reports {s : State} {d p : Nat} (hf : s.focus = [d, p]) (hd : d < 2) (hp : p < 10) (hn : p ∉ (dieOf s d).failedPorts)
    (ho : ∀ g ∈ s.gangs, outstanding g = []) :
    execLinkFailure s = .next (((portLost s d p).gangs.foldl (fun t g => (inFlight t d p g).foldl (loseLane g.id) t) (portLost s d p)).copies.foldl
      (loseCopy d p) ((portLost s d p).gangs.foldl (fun t g => (inFlight t d p g).foldl (loseLane g.id) t) (portLost s d p))) := by
  have hdrain : drainPort s d p = s := drainWhere_none fun g hg x hx => by
    rw [ho g hg] at hx
    cases hx
  have hne : (dieOf s d).failedPorts.contains p = false := by simpa using hn
  have hs1 : (modDie s d fun x => { x with
      failedPorts := if x.failedPorts.contains p then x.failedPorts else p :: x.failedPorts,
      retrying := x.retrying.filter fun y => y.1 != p }) = modDie s d fun x => withFailedPort x p := by
    simp only [modDie, withFailedPort, hne, Bool.false_eq_true, if_false]
  unfold execLinkFailure
  rw [hf]
  simp only [List.headD_cons, List.getD_cons_succ, List.getD_cons_zero, Nat.mod_eq_of_lt hd, Nat.mod_eq_of_lt hp, hdrain, hs1]
  rfl

theorem inFlight_mapConds (s : State) (d p : Nat) (f : Cond → Cond) (g : Gang) : inFlight s d p (g.mapConds f) = inFlight s d p g := rfl

theorem inFlight_die {s : State} {d p : Nat} {g : Gang} {x : Nat × Dbl × Nat} (h : x ∈ inFlight s d p g) : coreDie g.core = d := by
  unfold inFlight at h
  split at h
  · cases h
  · split at h
    · cases h
    next hd => simpa using hd

theorem mem_inFlight {s : State} {d p : Nat} {g : Gang} {q : Pending} (hq : g.pending = some q) (hd : coreDie g.core = d) (l : Nat) (ea : Dbl)
    (pa : Nat) : (l, ea, pa) ∈ inFlight s d p g ↔
      l ∈ lanesOf q.lanes ∧ accessPa s g l q.op = some (ea, pa) ∧ crossesPort s d p pa = true := by
  unfold inFlight
  rw [hq]
  simp only [hd, bne_self_eq_false, Bool.false_eq_true, if_false, List.mem_filterMap, Option.bind_eq_some_iff]
  constructor
  · rintro ⟨l', hl, x, hx, hc⟩
    split at hc
    next hcross =>
      cases hc
      exact ⟨hl, hx, hcross⟩
    · cases hc
  · rintro ⟨hl, hx, hc⟩
    exact ⟨l, hl, (ea, pa), hx, if_pos hc⟩

theorem pick_two (s : State) : pick s 2 = (Config.freeNat s.fresh % 2, { s with fresh := s.fresh + 1 }) := rfl

theorem linkFailure_lane {s : State} {d p l pa : Nat} {g : Gang} {ea : Dbl} (hf : s.focus = [d, p]) (hd : d < 2) (hp : p < 10)
    (hn : p ∉ (dieOf s d).failedPorts) (hg : s.gangs = [g]) (hc : s.copies = []) (ho : outstanding g = [])
    (hfl : inFlight (portLost s d p) d p g = [(l, ea, pa)]) :
    execLinkFailure s = .next (if Config.freeNat s.fresh % 2 = 0 then { portLost s d p with fresh := s.fresh + 1 } else
      noteLane (errorResponse { portLost s d p with fresh := s.fresh + 1 } d (launchD s g.launch).ctx pa ea.toNat (some g.launch) 3) g.id l
        (.fail ⟨l, 0x11, ea, 0⟩)) := by
  rw [linkFailure_reports hf hd hp hn fun g' hg' => by
    rw [hg, List.mem_singleton] at hg'
    exact hg' ▸ ho]
  have hpost := posted_portLost s d p
  generalize portLost s d p = r at hpost hfl ⊢
  obtain ⟨f, hw⟩ := hpost.woken
  rw [hg, List.map_singleton] at hw
  have hgang : gangOf { r with fresh := s.fresh + 1 } g.id = some (g.mapConds f) := by
    unfold gangOf
    rw [show ({ r with fresh := s.fresh + 1 } : State).gangs = [g].map (Gang.mapConds f) from hw, findBy_map (key := Gang.id) (f := Gang.mapConds f) fun _ => rfl]
    simp [findBy]
  have hctx : launchD { r with fresh := s.fresh + 1 } g.launch = launchD s g.launch := hpost.launchD g.launch
  have hcop : ({ r with fresh := s.fresh + 1 } : State).copies = [] := hpost.copies.trans hc
  have hpick : pick r 2 = (Config.freeNat s.fresh % 2, { r with fresh := s.fresh + 1 }) := by rw [pick_two, hpost.fresh]
  have hdie : coreDie g.core = d := inFlight_die (hfl ▸ List.mem_cons_self)
  generalize ({ r with fresh := s.fresh + 1 } : State) = v at hgang hctx hcop hpick ⊢
  have hlose : (inFlight r d p (g.mapConds f)).foldl (loseLane (g.mapConds f).id) r = if Config.freeNat s.fresh % 2 = 0 then v
      else noteLane (errorResponse v d (launchD s g.launch).ctx pa ea.toNat (some g.launch) 3) g.id l (.fail ⟨l, 0x11, ea, 0⟩) := by
    rw [inFlight_mapConds, hfl, List.foldl_cons, List.foldl_nil]
    unfold loseLane
    rw [hpick]
    refine if_congr Iff.rfl rfl ?_
    simp only [show (g.mapConds f).id = g.id from rfl, hgang]
    rw [show (g.mapConds f).core = g.core from rfl, show (g.mapConds f).launch = g.launch from rfl, hdie, hctx]
  rw [hw, List.foldl_cons, List.foldl_nil, hlose]
  refine congrArg _ ?_
  split
  · rw [hcop, List.foldl_nil]
  · rw [show (noteLane (errorResponse v d (launchD s g.launch).ctx pa ea.toNat (some g.launch) 3) g.id l (.fail ⟨l, 0x11, ea, 0⟩)).copies = []
      from (posted_errorResponse ..).copies.trans hcop, List.foldl_nil]

theorem linkFailure_copy {s : State} {d p pa : Nat} {c : Copy} {ea : Dbl} (hf : s.focus = [d, p]) (hd : d < 2) (hp : p < 10)
    (hn : p ∉ (dieOf s d).failedPorts) (hg : s.gangs = []) (hc : s.copies = [c]) (hdie : coreDie c.core = d)
    (hfl : copyInFlight (portLost s d p) c = some (ea, pa)) (hx : crossesPort (portLost s d p) d p pa = true) :
    let u := errorResponse { portLost s d p with fresh := s.fresh + 1 } d (launchD s c.launch).ctx pa ea.toNat (some c.launch) 3
    execLinkFailure s = .next (if Config.freeNat s.fresh % 2 = 0 then { portLost s d p with fresh := s.fresh + 1 }
      else if c.scatters = true ∧ c.buf ≠ [] then modCopy u c.id fun x => { x with fault := some (0x11, ea, 0) }
      else copyFault u c (0x11, ea, 0)) := by
  intro u
  rw [linkFailure_reports hf hd hp hn fun g' hg' => by rw [hg] at hg'; cases hg']
  have hpost := posted_portLost s d p
  have hgangs : (portLost s d p).gangs = [] := by
    obtain ⟨f, hw⟩ := hpost.woken
    rw [hw, hg]
    rfl
  rw [hgangs, List.foldl_nil, hpost.copies, hc, List.foldl_cons, List.foldl_nil]
  refine congrArg _ ?_
  have hctx : launchD { portLost s d p with fresh := s.fresh + 1 } c.launch = launchD s c.launch := hpost.launchD c.launch
  unfold loseCopy
  simp only [hfl, pick_two, hpost.fresh, hdie, hx, hctx, beq_self_eq_true, Bool.true_and, bne_iff_ne]
  by_cases hz : Config.freeNat s.fresh % 2 = 0
  · rw [if_pos hz, if_neg (not_not_intro hz)]
  · rw [if_neg hz, if_pos hz]
    refine if_congr ?_ rfl rfl
    simp

theorem crossesPort_seam {s : State} {d : Nat} (hd : d < 2) (pa : Nat) : crossesPort s d 9 pa = true ↔ pa / 2 ^ 46 = 2 * s.module + (1 - d) := by
  unfold crossesPort
  simp only [if_true, Bool.and_eq_true, beq_iff_eq, bne_iff_ne]
  omega

theorem crossesPort_host {s : State} (h : s.hostPort = true) (pa : Nat) : crossesPort s 0 0 pa = false := by
  simp [crossesPort, domainPort, h]

theorem crossesPort_own {s : State} {p pa : Nat} (hp : p < 9) (h : pa / 2 ^ 47 = s.module) (d : Nat) : crossesPort s d p pa = false := by
  have hm : pa / 2 ^ 46 / 2 = s.module := by omega
  unfold crossesPort
  rw [if_neg (by omega)]
  simp only [hm, bne_self_eq_false, Bool.and_false]

/-! ### Time and power (R22, R389) -/

/-- A core's correction moved by one ns towards the one wanted. -/
def slewed (want : Int) (k : Core) : Core := { k with slew := if k.slew < want then k.slew + 1 else if want < k.slew then k.slew - 1 else k.slew }

theorem timeSync_eq {s : State} {d core slew : Nat} (hf : s.focus = [d, core, slew]) (hc : coreExists core = true) (hs : slew < 9) :
    execTimeSync s = .next { modCore s core (slewed ((slew : Int) - 4)) with time := s.time + 1000 } := by
  unfold execTimeSync
  rw [hf]
  refine (if_neg (by simp [hc])).trans ?_
  rw [show [d, core, slew].getD 2 0 % 9 = slew from Nat.mod_eq_of_lt hs]
  rfl

/-- A core capped n steps below the one before its step. -/
def capped (n : Nat) (k : Core) : Core := setStep (k.step - 1 - n) { k with cap := k.step - 1 - n }

theorem powerCap_eq {s : State} {core : Nat} (hf : s.focus = [core, 0]) (hc : coreExists core = true) (hs : -20 < (coreOf s core).step) :
    ∃ n : Nat, (n : Int) < (coreOf s core).step + 20 ∧ ∃ t, t.cores = s.cores ∧ execPowerCap s = .next (modCore t core (capped n)) := by
  have hexec : execPowerCap s = .next (modCore (pick s ((coreOf s core).step - minStep).toNat).2 core
      (capped (pick s ((coreOf s core).step - minStep).toNat).1)) := by
    unfold execPowerCap
    rw [hf]
    refine (if_neg (by simp [hc])).trans ((if_neg (by simp)).trans ((if_neg (Int.not_le.2 hs)).trans rfl))
  have hm : (((coreOf s core).step - minStep).toNat : Int) = (coreOf s core).step + 20 := by
    unfold minStep
    omega
  have hpos : 0 < ((coreOf s core).step - minStep).toNat := by omega
  refine ⟨_, ?_, _, ?_, hexec⟩
  · have := pick_lt (s := s) (Nat.ne_of_gt hpos)
    omega
  · unfold pick
    split <;> rfl

theorem setStep_step (step : Int) (k : Core) : (setStep step k).step ≤ k.cap ∧ ((setStep step k).step = step ∨ (setStep step k).step = k.cap) :=
  ⟨min_le_right _ _, min_choice step k.cap⟩

/-! ### Start-up (R422 to R424) -/

theorem powerGood_starts {s : State} (h0 : s.boot.state = 0) (h1 : s.boot.since = none) : execPowerGood s = match startFails s.boot s.focus with
    | some r => .next { s with boot := failStart (if 3 ≤ r then { s.boot with recorded := s.boot.flashVersion } else s.boot) r }
    | none => if testsPass s.focus then
        .next { s with boot := { s.boot with recorded := s.boot.flashVersion, fails := 0, state := 1, since := none } }
      else .next { s with boot := { s.boot with recorded := s.boot.flashVersion, since := some s.time } } :=
  (if_neg (by simp [h0, h1])).trans rfl

theorem imageReceive_started {s : State} {v body : Nat} (hf : s.focus = [v, body]) (hv : v < 2 ^ 32) (hs : s.boot.state = 2) :
    execImageReceive s = .next { s with boot := { s.boot with state := 3 }, agenda := .event .imageReceive [v, body] :: s.agenda } := by
  unfold execImageReceive
  rw [hf]
  refine (if_pos hs).trans ?_
  rw [show [v, body].headD 0 % 2 ^ 32 = v from Nat.mod_eq_of_lt hv]
  rfl

theorem imageReceive_checked {s : State} {v body : Nat} (hf : s.focus = [v, body]) (hv : v < 2 ^ 32) (hs : s.boot.state = 3) :
    execImageReceive s = if Config.imageSigned body = true ∧ s.boot.recorded ≤ v then
        .next (restart s { s.boot with state := 0, flashVersion := v, flashBody := body, recorded := v, since := none })
      else .next { s with boot := { s.boot with state := 2 } } := by
  unfold execImageReceive
  rw [hf]
  refine (if_neg (by omega)).trans ((if_pos hs).trans ?_)
  rw [show [v, body].headD 0 % 2 ^ 32 = v from Nat.mod_eq_of_lt hv]
  rfl

/-- Settles O53: each event by what its own lemma says that it does. -/
theorem outsideEvents : Obligations.OutsideEvents := by
  unfold Obligations.OutsideEvents
  intro s
  refine ⟨fun core ctx va hf hc => ⟨fun h => ?_, fun h => ⟨fun t pa leaf ht => ⟨?_, ?_⟩, fun t cause pa ht => ?_, fun t cause ht => ?_⟩⟩, ?_,
    fun h => ?_, fun h => idle_pending h, fun off d hd => ⟨fun hf => ?_, fun hf hok => ?_⟩,
    fun kind owner off p core h1 h3 hp => ⟨fun hf => ?_, fun hf => ?_⟩, fun kind core off h4 h7 hc hf => ?_, fun core off hc hf => ?_,
    fun h t off ht hi hf => ?_, fun d p ch hd hp hch => ⟨fun hf => ?_, fun hf => ?_⟩, fun d p hf hd hp hg hc hn => ?_,
    fun d p hf hd hp hn => ?_, fun d p g q l ea pa hq hd => mem_inFlight hq hd l ea pa,
    fun d hd pa => ⟨crossesPort_seam hd pa, fun h => crossesPort_host h pa, fun p hp h => crossesPort_own hp h d⟩,
    fun d core slew hf hc hs => ?_, fun core hf hc hs => ?_, fun core hf hc => ?_, setStep_step, fun h => ?_, fun h0 h1 hf hi hr hp => ?_,
    fun h0 h1 hr ht => ?_, fun r h0 h1 hr => ?_, fun t h0 h1 ht => ?_, fun v body hf hv hs => ?_, fun v body hf hv hs => ⟨fun hi hr => ?_, fun h => ?_⟩⟩
  · exact (exec_tlbWalk s).trans (tlbWalk_found hf h)
  · refine (exec_tlbWalk s).trans ((tlbWalk_new hf hc h).trans ?_)
    rw [ht]
  · exact translateNew_fetch_entries ht
  · refine (exec_tlbWalk s).trans ((tlbWalk_new hf hc h).trans ?_)
    rw [ht]
    rfl
  · refine (exec_tlbWalk s).trans ((tlbWalk_new hf hc h).trans ?_)
    rw [ht]
  · exact exec_dirtySweep s
  · refine List.mem_append_left _ ?_
    unfold eventIf
    rw [if_pos (show sweepDue s = true from bne_iff_ne.2 h)]
    exact List.mem_cons_self
  · exact (exec_eccError s).trans (eccError_phys hd hf)
  · refine ⟨poisonGranule s (physLoc off), (exec_eccError s).trans ((eccError_phys hd hf).trans ?_), mem_poisonGranule_phys s off, rfl⟩
    rw [hok]
    rfl
  · exact (exec_eccError s).trans (eccError_place h1 h3 hp hf)
  · exact (exec_eccError s).trans (eccError_place h1 h3 hp hf)
  · refine ⟨_, (exec_eccError s).trans (eccError_engine h4 h7 hc hf), ?_, rfl⟩
    unfold engineOf modEngine
    rw [coreOf_modCore, if_pos rfl]
    exact storePoisoned_withPoison ..
  · refine ⟨_, (exec_eccError s).trans (eccError_code hc hf), ?_, rfl⟩
    rw [coreOf_modCore, if_pos rfl]
    exact mem_badCode_withBadCode ..
  · exact (exec_eccError s).trans (eccError_record ht hi hf)
  · refine (exec_linkFlit s).trans ?_
    unfold execLinkFlit
    rw [hf]
    simp only [List.headD_cons, List.getD_cons_succ, List.getD_cons_zero, Nat.mod_eq_of_lt hd, Nat.mod_eq_of_lt hp, Nat.mod_eq_of_lt hch]
    rfl
  · refine (exec_linkFlit s).trans ?_
    unfold execLinkFlit
    rw [hf]
    simp only [List.headD_cons, List.getD_cons_succ, List.getD_cons_zero, Nat.mod_eq_of_lt hd, Nat.mod_eq_of_lt hp, Nat.mod_eq_of_lt hch]
    rfl
  · refine (exec_linkFailure s).trans ((linkFailure_reports hf hd hp hn fun g' hg' => by rw [hg] at hg'; cases hg').trans (congrArg _ ?_))
    have hpost := posted_portLost s d p
    obtain ⟨f, hw⟩ := hpost.woken
    rw [hw, hg, List.map_nil, List.foldl_nil, hpost.copies, hc]
    rfl
  · intro r r'
    exact ⟨fun g l ea pa hg hc ho hfl => (exec_linkFailure s).trans (linkFailure_lane hf hd hp hn hg hc ho hfl),
      fun c ea pa hg hc hdie hfl hx => (exec_linkFailure s).trans (linkFailure_copy hf hd hp hn hg hc hdie hfl hx)⟩
  · have hcore : ∀ k, coreOf { modCore s core (slewed ((slew : Int) - 4)) with time := s.time + 1000 } k
        = if k = core then slewed ((slew : Int) - 4) (coreOf s core) else coreOf s k := fun k => coreOf_modCore s core k _
    refine ⟨_, (exec_timeSync s).trans (timeSync_eq hf hc hs), rfl, fun k hk => ?_, ?_, ?_⟩
    · rw [hcore, if_neg hk]
    · rw [hcore, if_pos rfl]
      rfl
    · rw [hcore, if_pos rfl]
      generalize coreOf s core = k
      unfold slewed
      dsimp only
      refine ⟨fun h => if_pos h, fun h => ?_, fun h => ?_⟩
      · rw [if_neg (by omega), if_neg (by omega)]
      · rw [if_neg (by omega), if_pos h]
  · obtain ⟨n, hn, t, ht, hexec⟩ := powerCap_eq hf hc hs
    have hcore : ∀ k, coreOf (modCore t core (capped n)) k = if k = core then capped n (coreOf s core) else coreOf s k := fun k => by
      rw [coreOf_modCore]
      unfold coreOf
      rw [ht]
    refine ⟨_, (exec_powerCap s).trans hexec, ?_, ?_, ?_, ?_, fun k hk => ?_⟩
    case refine_5 => rw [hcore, if_neg hk]
    all_goals
      rw [hcore, if_pos rfl]
      generalize coreOf s core = k at hs hn ⊢
      simp only [capped, setStep, min_self]
    · omega
    · omega
    · unfold supplyOf
      omega
  · refine (exec_powerCap s).trans ?_
    unfold execPowerCap
    rw [hf]
    exact (if_neg (by simp [hc])).trans rfl
  · exact (exec_powerGood s).trans (if_pos h)
  · have hstart : startFails s.boot s.focus = none := by simp [startFails, hf, hi, hp, Nat.not_lt.2 hr]
    refine (exec_powerGood s).trans ((powerGood_starts h0 h1).trans ?_)
    rw [hstart, hf]
    rfl
  · refine (exec_powerGood s).trans ((powerGood_starts h0 h1).trans ?_)
    rw [hr, ht]
    rfl
  · refine ⟨failStart (if 3 ≤ r then { s.boot with recorded := s.boot.flashVersion } else s.boot) r,
      (exec_powerGood s).trans ((powerGood_starts h0 h1).trans ?_), ?_⟩
    · rw [hr]
    · split <;> exact ⟨rfl, rfl, rfl, rfl⟩
  · refine ⟨failStart s.boot 7, (exec_startTimeout s).trans ?_, rfl, rfl, rfl⟩
    unfold execStartTimeout
    rw [h1]
    exact congrArg _ (if_pos ⟨h0, ht⟩)
  · exact (exec_imageReceive s).trans (imageReceive_started hf hv hs)
  · exact ⟨_, (exec_imageReceive s).trans ((imageReceive_checked hf hv hs).trans (if_pos ⟨hi, hr⟩)), rfl, rfl, rfl, rfl, rfl, rfl, rfl⟩
  · refine (exec_imageReceive s).trans ((imageReceive_checked hf hv hs).trans (if_neg ?_))
    rintro ⟨h1, h2⟩
    obtain h | h := h
    · rw [h] at h1
      cases h1
    · omega

end Sys2Proof.Machine
end

section

/-!
# Events of a gang between its instructions and while it waits (R53, R110 to R114, R123, R321, R346 to R353, R371, R405, R427)
-/

namespace Sys2Proof.Machine

-- One proof at a time: each waiting thread would reserve a stack of its own.
set_option Elab.async false

/-! ### The device's own accesses wake waiting gangs, and change no gang otherwise -/

theorem woken_globalWrite (s : State) (q : Asker) (ctx va pa : Nat) (bs : List Byte) : Woken s.gangs (globalWrite s q ctx va pa bs).gangs := by
  refine Woken.trans (hs := (writeBytes s (physLoc pa) bs).gangs) ⟨_, rfl⟩ ?_
  unfold globalWrite markDirty
  split
  · split <;> exact woken_refl _
  · split
    · split
      · exact ⟨_, rfl⟩
      · exact woken_refl _
    · exact woken_refl _

theorem woken_deviceXlat (s : State) (d ctx va : Nat) (w : Bool) : Woken s.gangs (deviceXlat s d ctx va w).1.gangs := by
  have h := (translates_translate s (.unit d) ctx va).woken
  unfold deviceXlat
  split
  next hx => rwa [hx] at h
  next hx =>
    rw [hx] at h
    split <;> split <;> exact h

theorem woken_deviceWriteLoop (d ctx : Nat) : ∀ (fuel va : Nat) (bs : List Byte) (s : State),
    Woken s.gangs (deviceWriteLoop d ctx fuel va bs s).1.gangs
  | 0, _, _, _ => woken_refl _
  | fuel + 1, va, bs, s => by
    have h := woken_deviceXlat s d ctx va true
    unfold deviceWriteLoop
    split
    · exact woken_refl _
    · dsimp only
      split
      next hx => rwa [hx] at h
      next hx =>
        rw [hx] at h
        exact h.trans ((woken_globalWrite ..).trans (woken_deviceWriteLoop d ctx fuel _ _ _))

theorem woken_deviceWrite (s : State) (d ctx va : Nat) (bs : List Byte) : Woken s.gangs (deviceWrite s d ctx va bs).1.gangs := by
  unfold deviceWrite
  split
  · exact woken_deviceWriteLoop ..
  · exact woken_refl _

theorem woken_postRequest (s : State) (id i : Nat) (e : Lease) : Woken s.gangs (postRequest s id i e).gangs := by
  unfold postRequest
  dsimp only
  split
  · exact woken_refl _
  · exact (posted_postEvent ..).woken

theorem woken_logRefused (s : State) (d ctx : Nat) (ea : Dbl) (n : Nat) (w : Bool) (launch : Option Nat) :
    Woken s.gangs (logRefused s d ctx ea n w launch).gangs := by
  unfold logRefused
  split
  · exact (posted_errorResponse ..).woken
  · exact woken_refl _

theorem woken_needArea (s : State) (id i d : Nat) (ea : Dbl) (n : Nat) (w : Bool) : Woken s.gangs (needArea s id i d ea n w).gangs := by
  unfold needArea
  split
  · split
    · exact woken_refl _
    · exact (woken_postRequest ..).trans (woken_logRefused ..)
  · exact woken_refl _

theorem woken_storeTask (s : State) (t : Task) : Woken s.gangs (storeTask s t).gangs := by
  have h := woken_deviceWrite s t.die (launchD s t.launch).ctx (vaOf (launchD s t.launch).desc.spill + 64 * (t.index - 4096)) (taskBytes t)
  unfold storeTask
  dsimp only
  split
  · split
    next s1 hx =>
      split at hx
      · cases hx
      · rw [hx] at h
        exact h
    next s1 hx =>
      refine Woken.trans (hs := s1.gangs) ?_ (woken_needArea ..)
      split at hx
      · cases hx
        exact woken_refl _
      · rw [hx] at h
        exact h
  · exact woken_refl _

theorem woken_changeTask (s : State) (h : Word) (f : Task → Task) : Woken s.gangs (changeTask s h f).gangs := by
  unfold changeTask
  split
  · exact woken_refl _
  · exact woken_storeTask ..

theorem Woken.isSome {s t : State} (h : Woken s.gangs t.gangs) (id : Nat) : (Machine.gangOf t id).isSome = (Machine.gangOf s id).isSome := by
  obtain ⟨f, hf⟩ := h.gangOf
  rw [hf, Option.isSome_map]

/-! ### A free slot goes to the gang that waits in the landing slot (R110) -/

theorem mem_modBy_key {α : Type} {key : α → Nat} {id : Nat} {f : α → α} {y : α} : ∀ {l : List α},
    y ∈ modBy key id f l → key y = id → ∃ x, y = f x
  | x :: xs, h, hy => by
    rw [modBy, List.mem_cons] at h
    obtain rfl | h := h
    · by_cases hx : key x = id
      · exact ⟨x, if_pos hx⟩
      · exact absurd ((congrArg key (if_neg hx)).symm.trans hy) hx
    · exact mem_modBy_key h hy

theorem takeSlot_only (s : State) (core : Nat) : { (takeSlot s core).1 with fresh := s.fresh } = s := by
  unfold takeSlot
  dsimp only
  split
  next hx => exact (congrArg (fun t : State => { t with fresh := s.fresh }) (Prod.mk.inj hx).2).symm.trans (pick_rest s _)
  next hx => exact (congrArg (fun t : State => { t with fresh := s.fresh }) (Prod.mk.inj hx).2).symm.trans (pick_rest s _)

/-- The gang `x`, with a slot that it has been given or as it was. -/
def SlotGiven (x y : Gang) : Prop := y = x ∨ ∃ sl n, y = { x with slot := some sl, placed := n }

theorem giveSlot_issuing (s : State) (id core : Nat) : (giveSlot s id core).issuing = s.issuing := by
  have h : (takeSlot s core).1.issuing = s.issuing := by
    have := congrArg State.issuing (takeSlot_only s core)
    exact this
  unfold giveSlot
  split
  next hx => rw [hx] at h; exact h
  next hx => rw [hx] at h; exact h

theorem gangOf_giveSlot (s : State) (id core h : Nat) : (h ≠ id → gangOf (giveSlot s id core) h = gangOf s h) ∧
    ∀ x, gangOf s h = some x → ∃ y, gangOf (giveSlot s id core) h = some y ∧ SlotGiven x y := by
  have hg : (takeSlot s core).1.gangs = s.gangs := by
    have := congrArg State.gangs (takeSlot_only s core)
    exact this
  unfold giveSlot
  split
  next s1 sl hx =>
    rw [hx] at hg
    have hgang : gangOf s1 h = gangOf s h := by unfold gangOf; rw [show s1.gangs = s.gangs from hg]
    have hmod := gangOf_modGang (newId s1).2 id h (fun g => { g with slot := some sl, placed := (newId s1).1 }) fun _ => rfl
    refine ⟨fun hne => ?_, fun x hxs => ?_⟩
    · exact (hmod.trans (if_neg hne)).trans hgang
    · by_cases hid : h = id
      · refine ⟨_, hmod.trans ((if_pos hid).trans (congrArg _ (hgang.trans hxs))), .inr ⟨sl, _, rfl⟩⟩
      · exact ⟨x, (hmod.trans (if_neg hid)).trans (hgang.trans hxs), .inl rfl⟩
  next s1 hx =>
    rw [hx] at hg
    have hgang : gangOf s1 h = gangOf s h := by unfold gangOf; rw [show s1.gangs = s.gangs from hg]
    exact ⟨fun _ => hgang, fun x hxs => ⟨x, hgang.trans hxs, .inl rfl⟩⟩

theorem landingMove_issuing (s : State) (core : Nat) : (landingMove s core).issuing = s.issuing := by
  unfold landingMove
  split
  · split
    · exact giveSlot_issuing ..
    · rfl
  · rfl

theorem gangOf_landingMove {s : State} {id : Nat} {x : Gang} (core : Nat) (h : gangOf s id = some x) :
    ∃ y, gangOf (landingMove s core) id = some y ∧ SlotGiven x y := by
  unfold landingMove
  split
  · split
    · exact (gangOf_giveSlot ..).2 x h
    · exact ⟨x, h, .inl rfl⟩
  · exact ⟨x, h, .inl rfl⟩

/-- A gang whose namesakes have no landing slot keeps what it has. -/
theorem gangOf_landingMove_other {s : State} {id core : Nat} (h : ∀ y ∈ s.gangs, y.id = id → landed y = false) :
    gangOf (landingMove s core) id = gangOf s id := by
  unfold landingMove
  split
  next y hy =>
    split
    · refine (gangOf_giveSlot s y.id core id).1 fun hid => ?_
      have hl := List.find?_some hy
      rw [h y (List.mem_of_find?_eq_some hy) hid.symm, Bool.and_false] at hl
      cases hl
    · rfl
  · rfl

theorem SlotGiven.trans {x y z : Gang} (h : SlotGiven x y) (k : SlotGiven y z) : SlotGiven x z := by
  obtain rfl | ⟨sl, n, rfl⟩ := h
  · exact k
  · obtain rfl | ⟨sl', n', rfl⟩ := k
    · exact .inr ⟨sl, n, rfl⟩
    · exact .inr ⟨sl', n', rfl⟩

/-! ### Eviction (R110, R346 to R350) -/

/-- What giving up its slot leaves of a gang. -/
def evicted (s : State) (displaced : Bool) (o now : Nat) (x : Gang) : Gang :=
  ({ x with slot := none, wakeRec := some o, displaced := displaced, tEvict := now, marked := false, aging := 0, wakeOwed := none,
            curClass := baseClass s x } : Gang).mapConds Cond.preempted

theorem evictGang_some {s u : State} {g o : Gang} {displaced : Bool} (h : evictGang s g displaced = some u)
    (ho : gangOf (drainGang s g.id) g.id = some o) :
    ∃ off now s1, Woken (drainGang s g.id).gangs s1.gangs ∧
      u = landingMove (modGang s1 o.id (evicted (drainGang s g.id) displaced off now)) o.core := by
  unfold evictGang at h
  simp only [ho, Option.getD_some] at h
  split at h
  · cases h
  · split at h
    · cases h
    · exact ⟨_, _, _, woken_deviceWrite .., (Option.some.inj h).symm⟩

theorem drainGang_none {s : State} {g : Gang} (hg : gangOf s g.id = some g) (h : outstanding g = []) : drainGang s g.id = s := by
  unfold drainGang
  rw [hg, Option.map_some, h]
  rfl

theorem gangOf_evictGang {s u : State} {g o : Gang} {displaced : Bool} (h : evictGang s g displaced = some u)
    (ho : gangOf (drainGang s g.id) g.id = some o) :
    ∃ g', gangOf u g.id = some g' ∧ g'.slot = none ∧ g'.marked = false ∧ g'.threads = o.threads ∧ g'.clause = o.clause := by
  obtain ⟨off, now, s1, hw, rfl⟩ := evictGang_some h ho
  have hid : o.id = g.id := findBy_key (key := Gang.id) ho
  obtain ⟨f, hf⟩ := hw.gangOf
  have hkeep : ∀ x, (evicted (drainGang s g.id) displaced off now x).id = x.id := fun _ => rfl
  refine ⟨evicted (drainGang s g.id) displaced off now (o.mapConds f), ?_, rfl, rfl, rfl, rfl⟩
  rw [gangOf_landingMove_other, gangOf_modGang _ _ _ _ hkeep, if_pos hid.symm, hf, ho, Option.map_some, Option.map_some]
  intro y hy hyid
  obtain ⟨x, rfl⟩ := mem_modBy_key (key := Gang.id) hy (hyid.trans hid.symm)
  rfl

/-! ### A gang that migrates (R110) -/

/-- The gang in the landing slot of its new core, with status 0 in a register of its active lanes. -/
def migrated (g : Gang) (c : ClauseRun) (k d : Nat) : Gang :=
  { mapLanes (activeMask c) (fun _ t => wrReg g.level t d 0) { g with core := k, slot := some .landing } with wait := .none }

theorem landingCore_of_wait {s : State} {g : Gang} {k d st die t : Nat} (hw : g.wait = .blocked st (.landing die d) t) (hs : settled s g = true)
    (hslot : g.slot.isSome) (hm : mustStop s g = false) (hk : (admitting s die (gangBytes' s g)).head? = some k) :
    landingCore s g = some (k, d) := by
  unfold landingCore
  rw [hw]
  simp only [hs, hslot, hm, hk, Bool.not_false, Bool.and_self, if_true, Option.map_some]

theorem SlotGiven.fields {x y : Gang} (h : SlotGiven x y) (hx : x.slot.isSome) :
    y.core = x.core ∧ y.slot.isSome ∧ y.wait = x.wait ∧ y.task = x.task ∧ y.threads = x.threads := by
  obtain rfl | ⟨sl, n, rfl⟩ := h
  · exact ⟨rfl, hx, rfl, rfl, rfl⟩
  · exact ⟨rfl, rfl, rfl, rfl, rfl⟩

theorem completed_fields (g : Gang) (c : ClauseRun) (cls : Cls) : (completed g c cls).id = g.id ∧ (completed g c cls).core = g.core ∧
    (completed g c cls).slot = g.slot ∧ (completed g c cls).wait = .none ∧ (completed g c cls).task = g.task := by
  obtain ⟨fl, co, hcount⟩ := count_rest g c cls
  obtain ⟨rc, sh, pa, hretire, -⟩ := retire_rest { g with flags := fl, completing := co } c
  obtain ⟨cl, fr, bs, hstep, -⟩ := stepPast_rest { g with flags := fl, completing := co, retcnt := rc, sthash := sh, passed := pa } c
  have h : completed g c cls = _ := (congrArg (fun x => stepPast (retire x c) c) hcount).trans ((congrArg (stepPast · c) hretire).trans hstep)
  rw [h]
  exact ⟨rfl, rfl, rfl, rfl, rfl⟩

theorem migrateMove_eq (s : State) : execMigrateMove s = match gangOf s (s.focus.headD 0) with
    | none => .next s
    | some g =>
      match landingCore s g, g.clause with
      | some (k, d), some c => .next (landingMove (landingMove { complete (unparkTask (setGang (releaseWpts s (s.focus.headD 0) allLanes)
          (migrated g c k d)) g.task) (migrated g c k d) c .none with issuing := s.issuing } k) g.core)
      | _, _ => .next s := rfl

theorem migrateMove_moves {s : State} {g : Gang} {c : ClauseRun} {k d : Nat} (hf : gangOf s (s.focus.headD 0) = some g)
    (hl : landingCore s g = some (k, d)) (hc : g.clause = some c) (hh : c.hits = [])
    (hsync : ∀ i, decodeWord (wordOf c) = .ok i → syncInstr i = false) :
    ∃ t g', execMigrateMove s = .next t ∧ t.issuing = s.issuing ∧ gangOf t g.id = some g' ∧ g'.core = k ∧ g'.slot.isSome ∧
      g'.wait = .none ∧ g'.task = g.task ∧ EachLane g g' (activeMask c) fun _ u v => WritesReg g.level u v d 0 := by
  have hid : g.id = s.focus.headD 0 := findBy_key (key := Gang.id) hf
  rw [← hid] at hf
  have hexec : ∃ s1, Woken (setGang (releaseWpts s g.id allLanes) (migrated g c k d)).gangs s1.gangs ∧
      execMigrateMove s = .next (landingMove (landingMove
        { issued s1 (completed (migrated g c k d) c .none) with issuing := s.issuing } k) g.core) := by
    refine ⟨_, woken_changeTask _ g.task fun t => if t.state = 4 then { t with state := 3 } else t, ?_⟩
    rw [migrateMove_eq, ← hid, hf]
    simp only [hl, hc, complete_unnoted hh hsync]
    rfl
  obtain ⟨s1, hw, hexec⟩ := hexec
  obtain ⟨hcid, hcore, hslot, hwait, htask⟩ := completed_fields (migrated g c k d) c .none
  have hthreads := (completed_only (migrated g c k d) c .none).2
  generalize completed (migrated g c k d) c .none = x at hexec hcid hcore hslot hwait htask hthreads
  have hx : gangOf { issued s1 x with issuing := s.issuing } g.id = some x := by
    have hsome : (gangOf s1 x.id).isSome := by
      rw [hcid, Woken.isSome (s := setGang (releaseWpts s g.id allLanes) (migrated g c k d)) hw]
      exact Option.isSome_iff_exists.2 ⟨_, gangOf_setGang_of_isSome (g := migrated g c k d) (Option.isSome_iff_exists.2 ⟨g, hf⟩)⟩
    exact (congrArg (gangOf (setGang s1 x)) hcid.symm).trans (gangOf_setGang_of_isSome hsome)
  obtain ⟨y, hy, hgy⟩ := gangOf_landingMove k hx
  obtain ⟨z, hz, hgz⟩ := gangOf_landingMove g.core hy
  obtain ⟨zcore, zslot, zwait, ztask, zthreads⟩ := (hgy.trans hgz).fields (hslot ▸ rfl)
  refine ⟨_, z, hexec, ?_, hz, zcore.trans hcore, zslot, zwait.trans hwait, ztask.trans htask, ?_⟩
  · rw [landingMove_issuing, landingMove_issuing]
  · refine eachLane_of_threads (x := mapLanes (activeMask c) (fun _ t => wrReg g.level t d 0) g) (zthreads.trans hthreads) ?_
    exact eachLane_mapLanes fun l _ _ => wrReg_writes g.level (thr g l) d 0

/-! ### The completion flags (R53) -/

theorem mem_dropOne_length {k : Nat} : ∀ {l : List Nat}, k ∈ l → (dropOne k l).length + 1 = l.length
  | x :: xs, h => by
    rw [dropOne]
    by_cases hx : x = k
    · rw [if_pos hx]
      rfl
    · rw [if_neg hx, List.length_cons, List.length_cons, mem_dropOne_length ((List.mem_cons.1 h).resolve_left fun he => hx he.symm)]

theorem flagCount_setFlagCount (g : Gang) (k v j : Nat) :
    flagCount (setFlagCount g k v) j = if j = k ∧ k < g.flags.length then v else flagCount g j := by
  unfold flagCount setFlagCount
  rw [List.getD_eq_getElem?_getD, List.getD_eq_getElem?_getD, setAt_getElem?]
  split <;> rfl

/-- A gang of which one counted instruction has completed. -/
def counted (g : Gang) (k : Nat) : Gang := { setFlagCount g k (flagCount g k - 1) with completing := dropOne k g.completing }

theorem instructionComplete_counts {s : State} {g : Gang} (hf : gangOf s (s.focus.headD 0) = some g) (h : g.completing ≠ []) :
    ∃ k ∈ g.completing, ∃ s1, { s1 with fresh := s.fresh } = s ∧ execInstructionComplete s = .next (setGang s1 (counted g k)) := by
  have hlt : (pick s g.completing.length).1 < g.completing.length := pick_lt fun h0 => h (List.length_eq_zero_iff.1 h0)
  refine ⟨g.completing[(pick s g.completing.length).1], List.getElem_mem hlt, (pick s g.completing.length).2, pick_rest .., ?_⟩
  unfold execInstructionComplete pickFrom
  simp only [hf, List.getElem?_eq_getElem hlt]
  rfl

/-! ### The next dense product (R261) -/

theorem foremost_cons (x : Gang) (xs : List Gang) :
    foremost (x :: xs) = some x ∨ ∃ y, foremost xs = some y ∧ foremost (x :: xs) = some y := by
  rw [foremost]
  cases foremost xs with
  | none => exact .inl rfl
  | some y =>
    dsimp only
    split
    · exact .inl rfl
    · exact .inr ⟨y, rfl, rfl⟩

theorem foremost_mem {g : Gang} : ∀ gs : List Gang, foremost gs = some g → g ∈ gs
  | [] => fun h => absurd h (Option.some_ne_none g).symm
  | x :: xs => fun h => by
    obtain hx | ⟨y, hy, hx⟩ := foremost_cons x xs
    · exact Option.some.inj (hx.symm.trans h) ▸ List.mem_cons_self
    · exact List.mem_cons_of_mem _ (foremost_mem xs (hy.trans (hx.symm.trans h)))

theorem foremost_isSome (x : Gang) (xs : List Gang) : foremost (x :: xs) ≠ none := by
  obtain hx | ⟨y, -, hx⟩ := foremost_cons x xs <;> rw [hx] <;> exact Option.some_ne_none _

theorem nextDense_some {s : State} {core : Nat} {g : Gang} (h : nextDense s core = some g) :
    g ∈ denseGangs s core ∧ ∃ k < 4, schedOf g = ((engineOf s core).lastServed + 1 + k) % 4 ∧
      ∀ j < k, ∀ x ∈ denseGangs s core, schedOf x ≠ ((engineOf s core).lastServed + 1 + j) % 4 := by
  unfold nextDense at h
  rw [List.findSome?_map, List.findSome?_eq_some_iff] at h
  obtain ⟨before, k, after, hr, hk, hnone⟩ := h
  have hlen : before.length = k ∧ k < 4 := by
    have hlt : before.length < (List.range 4).length := by rw [hr]; simp
    have := congrArg (·[before.length]?) hr
    simp only [List.getElem?_append_right le_rfl, Nat.sub_self, List.getElem?_cons_zero, List.getElem?_range (List.length_range ▸ hlt)] at this
    exact ⟨Option.some.inj this, by rw [← Option.some.inj this]; simpa using hlt⟩
  have hg := List.mem_filter.1 (foremost_mem _ hk)
  refine ⟨hg.1, k, hlen.2, beq_iff_eq.1 hg.2, fun j hj x hx heq => ?_⟩
  have hbefore : j ∈ before := by
    have := congrArg (·[j]?) hr
    simp only [List.getElem?_append_left (hlen.1.symm ▸ hj), List.getElem?_range (hj.trans hlen.2)] at this
    exact List.mem_of_getElem? this.symm
  have hempty := hnone j hbefore
  obtain ⟨y, ys, hys⟩ : ∃ y ys, (denseGangs s core).filter (fun g => schedOf g == ((engineOf s core).lastServed + 1 + j) % 4) = y :: ys :=
    List.exists_cons_of_ne_nil (List.ne_nil_of_mem (List.mem_filter.2 ⟨hx, beq_iff_eq.2 heq⟩))
  rw [Function.comp_apply, hys] at hempty
  exact foremost_isSome _ _ hempty

theorem denseDue_next {s : State} {core : Nat} (ho : arrayOpen s core = true)
    (hn : ∀ x ∈ denseGangs s core, (engineOf s core).grant ≠ some x.id) : denseDue s core = nextDense s core := by
  unfold denseDue
  refine if_pos ?_
  rw [ho, Bool.true_and, Bool.not_eq_true', List.any_eq_false]
  exact fun x hx => by simpa using hn x hx

/-! ### A gang that goes on when its condition holds -/

/-- A wait for a generation or a phase: what it waited for is all its instruction had to do. -/
def endsAtOnce (g : Gang) : Prop :=
  ∃ st t, g.wait = .blocked st (.blkGen true) t ∨ g.wait = .blocked st (.cluGen true) t ∨ ∃ l b w, g.wait = .blocked st (.phase l b w) t

theorem goOn_endsAtOnce {s : State} {g : Gang} {c : ClauseRun} (hg : gangOf s g.id = some g) (ht : taskOf s g.task = none) (hc : g.clause = some c)
    (hw : endsAtOnce g) : goOn (settleWait s g) g.id = complete s { g with wait := .none } c .none := by
  have hs : settleWait s g = s := by
    obtain ⟨st, t, h | h | ⟨l, b, w, h⟩⟩ := hw
    all_goals
      unfold settleWait
      rw [h]
  have hu : unparkTask s (((gangOf s g.id).map Gang.task).getD 0) = s := by
    unfold unparkTask changeTask
    rw [hg, Option.map_some, Option.getD_some, ht]
  rw [hs]
  refine Eq.trans ?_ (show wakeDone s g c = _ from rfl)
  unfold goOn
  rw [hu]
  obtain ⟨st, t, h | h | ⟨l, b, w, h⟩⟩ := hw
  all_goals simp only [hg, hc, h]

theorem not_stopped_of_blocked {g : Gang} (h : g.blocked = true) : g.wait ≠ .stopped := fun hw => by
  unfold Gang.blocked at h
  rw [hw] at h
  cases h

/-- With no comparison or divergence to settle, a blocked gang that need not stop and owes no record goes on by its condition (R346). -/
theorem gangWake_blocked {s : State} {g : Gang} (hg : gangOf s (s.focus.headD 0) = some g) (hb : g.blocked = true) (hc : g.compare = none)
    (hd : g.diverges = none) : execGangWake s =
      if mustStop s g then .next (stopGang s g) else if wakeOwing s g then .next (writeWake s g.id false)
      else if g.slot.isSome && hitsDue g then .next (if hitsHeld s g then s else deliverHits s g)
      else if g.slot.isNone && (wakes s g || deferredDue s g) then .next (if g.woken.isSome then s else markWoken (settleWait s g) g.id)
      else if g.slot.isSome && wakes s g && !evictsFirst s g then .next (goOn (settleWait s g) g.id)
      else .next s := by
  have hid : g.id = s.focus.headD 0 := findBy_key (key := Gang.id) hg
  have hcd : compareDue s g = false := by simp [compareDue, hc]
  have hdd : divergeDue s g = false := by simp [divergeDue, hd]
  have hrd : replayDue g = false := by simp [replayDue, hc, hd]
  unfold execGangWake stopsHere
  simp only [hg, hcd, hdd, hrd, if_neg (not_stopped_of_blocked hb), hb, Bool.and_false, Bool.or_false, Bool.false_eq_true, if_false, Bool.true_or,
    Bool.and_true, Bool.not_true, hid]

theorem bne_eq_decide_ne (n : Nat) : (n != 0) = decide (n ≠ 0) := by cases n <;> rfl

/-- Settles O47: each event by what its own lemma says that it does. -/
theorem gangEventsHold : Obligations.GangEvents := by
  unfold Obligations.GangEvents
  refine ⟨fun s g hg => ⟨fun h0 h256 => ?_, fun h => ?_, fun m hm => ⟨fun hcl => ?_, fun hcl => ?_⟩⟩,
    fun s => ⟨fun g hg => have hid : s.focus.headD 0 = g.id := (findBy_key (key := Gang.id) hg).symm; ⟨fun hw => ?_, fun hw h => ?_, fun hsl hw hc hd hm => ?_, fun hb hc hd => ⟨fun hm => ?_, fun hm ho => ?_,
        fun hm ho => ⟨fun hsl hl hh => ?_, fun hsl hh hw he => ?_, fun hsl hwk hw => ?_⟩⟩,
      fun l t τ hw hle => ?_, fun hmk hr => ⟨fun u hu => ⟨?_, fun o ho => ⟨fun hout => ?_, gangOf_evictGang hu ho⟩⟩, fun hnone => ?_⟩,
      fun n c cause loc hdf hbusy hdel hst => ?_, fun k d c st die t hw hs hsl hm hk hc hh hsync => ?_,
      fun c lane pred number hf hc hp hw hi => ?_⟩,
    fun g core hf ho hn hnext => ?_, fun g core h => nextDense_some h, fun L core k hL hcore hk => ?_,
    fun L w p core who first since gid hL hw hp hdv hlong hle hwait hawait => ?_⟩⟩
  · refine (exec_agingClassRise s).trans ?_
    unfold execAgingClassRise
    simp only [hg]
    exact if_neg (by omega)
  · obtain ⟨k, hk, s1, hs1, hexec⟩ := instructionComplete_counts hg h
    have hgangs : ∀ id, gangOf s1 id = gangOf s id := fun id => by
      have : s1.gangs = s.gangs := by
        have := congrArg State.gangs hs1
        exact this
      unfold gangOf
      rw [this]
    have hid : g.id = s.focus.headD 0 := findBy_key (key := Gang.id) hg
    refine ⟨_, counted g k, k, (exec_instructionComplete s).trans hexec, hk, ?_, hs1 ▸ rfl, fun h' hne => ?_, rfl,
      mem_dropOne_length hk, fun hlen hlt => ?_⟩
    · exact gangOf_setGang_of_isSome (g := counted g k) (Option.isSome_iff_exists.2 ⟨g, (hgangs _).trans (hid ▸ hg)⟩)
    · exact (gangOf_setGang_ne s1 (counted g k) hne).trans (hgangs h')
    · have hcount : ∀ j, flagCount (counted g k) j = if j = k ∧ k < g.flags.length then flagCount g k - 1 else flagCount g j :=
        flagCount_setFlagCount g k _
      exact ⟨(hcount k).trans (if_pos ⟨rfl, hlen ▸ hlt⟩), fun j hj => (hcount j).trans (if_neg fun h => hj h.1)⟩
  · refine (exec_flagWaitResume s).trans ?_
    unfold execFlagWaitResume
    simp only [hg, hm, hcl, if_true]
  · refine (exec_flagWaitResume s).trans ?_
    unfold execFlagWaitResume
    simp only [hg, hm, hcl, Bool.false_eq_true, if_false]
  · refine (exec_gangWake s).trans ?_
    unfold execGangWake
    simp only [hg]
    exact if_pos hw
  · refine (exec_gangWake s).trans ?_
    unfold execGangWake
    simp only [hg]
    refine (if_neg hw).trans (if_pos ?_)
    simpa using h
  · refine (exec_gangWake s).trans ?_
    unfold execGangWake
    simp only [hg]
    refine (if_neg hw).trans ((if_neg ?_).trans (if_pos ?_))
    · simp [compareDue, divergeDue, hc, hd]
    · simp [stopsHere, hm, hsl]
  · exact (exec_gangWake s).trans ((gangWake_blocked hg hb hc hd).trans (if_pos hm))
  · exact (exec_gangWake s).trans ((gangWake_blocked hg hb hc hd).trans ((if_neg (Bool.eq_false_iff.1 hm)).trans (if_pos ho)))
  · refine (exec_gangWake s).trans ((gangWake_blocked hg hb hc hd).trans ((if_neg (Bool.eq_false_iff.1 hm)).trans
      ((if_neg (Bool.eq_false_iff.1 ho)).trans (if_pos ?_))))
    simp [hsl, hitsDue, hl, hh]
  · have hexec : exec .gangWake s = .next (goOn (settleWait s g) g.id) := by
      refine (exec_gangWake s).trans ((gangWake_blocked hg hb hc hd).trans ((if_neg (Bool.eq_false_iff.1 hm)).trans
        ((if_neg (Bool.eq_false_iff.1 ho)).trans ((if_neg ?_).trans ((if_neg ?_).trans (if_pos ?_))))))
      · obtain hl | hl := hh <;> simp [hitsDue, hl]
      · simp [Option.isNone_eq_false_iff.2 hsl]
      · simp [hsl, hw, he]
    exact ⟨hexec, fun c st t ht hcl hwait => hexec.trans (congrArg _ (goOn_endsAtOnce (hid ▸ hg) ht hcl ⟨st, t, hwait⟩))⟩
  · refine (exec_gangWake s).trans ((gangWake_blocked hg hb hc hd).trans ((if_neg (Bool.eq_false_iff.1 hm)).trans
      ((if_neg (Bool.eq_false_iff.1 ho)).trans ((if_neg ?_).trans ((if_pos ?_).trans (congrArg _ (if_neg ?_)))))))
    · simp [hsl]
    · simpa [hsl] using hw
    · simp [hwk]
  · refine (exec_mwaitTimeout s).trans ?_
    unfold execMwaitTimeout
    simp only [hg]
    refine (if_pos ?_).trans ?_
    · unfold mwaitOver
      rw [hw]
      exact decide_eq_true hle
    · rw [hw]
      rfl
  · refine (exec_gangEviction s).trans ?_
    unfold execGangEviction
    simp only [hg, hu]
    exact if_neg (by simp [evicts, show evictionAsked s g = true from Bool.or_eq_true_iff.2 hmk, hr])
  · rw [drainGang_none (hid ▸ hg) hout] at ho
    exact Option.some.inj (ho.symm.trans (hid ▸ hg))
  · refine (exec_gangEviction s).trans ?_
    unfold execGangEviction
    simp only [hg, hnone]
    exact if_neg (by simp [evicts, show evictionAsked s g = true from Bool.or_eq_true_iff.2 hmk, hr])
  · refine (exec_deferredFaultDelivery s).trans ?_
    unfold execDeferredFaultDelivery
    simp only [hg, hdf, execDeferredFaultDelivery.firstFault, hbusy, hdel, hst]
    rfl
  · exact (exec_migrateMove s) ▸ migrateMove_moves hg (landingCore_of_wait hw hs hsl hm hk) hc hh hsync
  · have hkept : inOpLog s g (decide (pred ≠ 0)) lane number = true ↔ ∃ w ∈ fgetD (coreOf s g.core).oplog (schedOf g) [], w.gang = g.id ∧
        w.pred = decide (pred ≠ 0) ∧ (lane, number) ∈ w.lanes := by
      simp only [inOpLog, List.any_eq_true, Bool.and_eq_true, beq_iff_eq, List.contains_iff_mem, and_assoc]
    have hexec : exec .parityReplay s = if inOpLog s g (decide (pred ≠ 0)) lane number then .next (countTelemetry s (g.core / 1024) 1)
        else .next (failAt (freeNat s).2 g c .none 0x60 (BitVec.ofNat 64 (freeNat s).1) (activeMask c) 0) := by
      refine (exec_parityReplay s).trans ?_
      unfold execParityReplay
      simp only [hg, hc]
      rw [hf]
      refine (if_neg ?_).trans ?_
      · simp [hp, hw, hi]
      · rw [show ([g.id, lane, pred, number].getD 2 0 != 0) = decide (pred ≠ 0) from bne_eq_decide_ne pred]
        rfl
    exact ⟨fun h => hexec.trans (if_pos (hkept.2 h)), fun h => hexec.trans (if_neg fun hin => h (hkept.1 hin))⟩
  · refine (exec_denseProductAdmit s).trans ?_
    unfold execDenseProductAdmit
    rw [hf]
    simp only [List.headD_cons, denseDue_next ho hn, hnext]
  · refine (exec_traceSample s).trans ?_
    unfold execTraceSample
    simp only [hL, hcore, hk]
  · refine (exec_gateStallDivergence s).trans ?_
    unfold execGateStallDivergence
    simp only [hL, hw, hp, hwait, hawait]
    refine if_neg ?_
    simp [hdv, gateOver, hlong, show since + gateLimit ≤ clkOf s core from hle]

end Sys2Proof.Machine
end

section

/-!
# The sequencer takes entries, places work and ends launches (R31 to R34, R80 to R107, R346, R415)
-/

namespace Sys2Proof.Machine

-- One proof at a time: each waiting thread would reserve a stack of its own.
set_option Elab.async false

/-! ### The fields of a record (R5) -/

theorem natOf_rdBytes (m : FMap Byte) : ∀ n a, natOf (rdBytes m a n) = rdLE m a n
  | 0, _ => rfl
  | n + 1, a => congrArg (fun x => (rdByte m a).toNat + 256 * x) (natOf_rdBytes m n (a + 1))

theorem rdBytes_drop (m : FMap Byte) : ∀ k n a, (rdBytes m a (k + n)).drop k = rdBytes m (a + k) n
  | 0, n, a => by simp
  | k + 1, n, a => by
    rw [Nat.add_right_comm, rdBytes, List.drop_succ_cons, rdBytes_drop m k n (a + 1), Nat.add_right_comm]
    rfl

theorem rdBytes_take (m : FMap Byte) : ∀ k n a, (rdBytes m a (k + n)).take k = rdBytes m a k
  | 0, _, _ => by simp [rdBytes]
  | k + 1, n, a => by
    rw [Nat.add_right_comm, rdBytes, List.take_succ_cons, rdBytes_take m k n (a + 1)]
    rfl

theorem leAt_rdBytes (m : FMap Byte) {n off k : Nat} (h : off + k ≤ n) : leAt (rdBytes m 0 n) off k = rdLE m off k := by
  obtain ⟨r, rfl⟩ := Nat.exists_eq_add_of_le h
  unfold leAt
  rw [Nat.add_assoc, rdBytes_drop, rdBytes_take, natOf_rdBytes, Nat.zero_add]

theorem wrLE_eq_wrBytes : ∀ (n x a : Nat) (m : FMap Byte), wrLE m a n x = wrBytes m a (leOf n x)
  | 0, _, _, _ => rfl
  | n + 1, x, a, _ => wrLE_eq_wrBytes n (x / 256) (a + 1) _

theorem rdLE_wrLE_same (n x a : Nat) (m : FMap Byte) : rdLE (wrLE m a n x) a n = x % 256 ^ n := by
  rw [wrLE_eq_wrBytes, rdLE_wrBytes_leOf]

theorem rdLE_wrLE_other {n a b k : Nat} (h : a + k ≤ b ∨ b + n ≤ a) (x : Nat) (m : FMap Byte) : rdLE (wrLE m b n x) a k = rdLE m a k := by
  refine rdLE_congr k a a _ _ fun i hi => ?_
  rw [rdByte_wrLE]
  exact if_neg (by omega)

theorem rdLE_nil (a : Nat) : ∀ k, rdLE [] a k = 0
  | 0 => rfl
  | k + 1 => by
    rw [rdLE, rdLE_nil (a + 1) k]
    rfl

theorem leAt_doneRecord (m : FMap Byte) {off k : Nat} (h4 : 4 ≤ off) (h : off + k ≤ 64) :
    leAt ([0, 0, 0, 0] ++ (rdBytes m 0 64).drop 4) off k = rdLE m off k := by
  rw [← leAt_rdBytes m h]
  unfold leAt
  obtain ⟨j, rfl⟩ := Nat.exists_eq_add_of_le h4
  rw [← List.drop_drop, ← List.drop_drop]
  rfl

theorem doneBytes_fields (status tag count tstart tend tasks node cause : Nat) (pc addr : Dbl) :
    let bs := [0, 0, 0, 0] ++ doneBytes status tag count tstart tend tasks node cause pc addr
    bs.length = 64 ∧ leAt bs 4 1 = status % 2 ^ 8 ∧ leAt bs 5 3 = 0 ∧ leAt bs 8 4 = tag % 2 ^ 32 ∧ leAt bs 0xC 4 = count % 2 ^ 32 ∧
      leAt bs 0x10 8 = tstart % 2 ^ 64 ∧ leAt bs 0x18 8 = tend % 2 ^ 64 ∧ leAt bs 0x20 4 = tasks % 2 ^ 32 ∧ leAt bs 0x24 2 = node % 2 ^ 16 ∧
      leAt bs 0x26 1 = cause % 2 ^ 8 ∧ leAt bs 0x27 1 = 0 ∧ leAt bs 0x28 8 = pc.toNat ∧ leAt bs 0x30 8 = addr.toNat ∧ leAt bs 0x38 8 = 0 := by
  intro bs
  have hpc : pc.toNat % 256 ^ 8 = pc.toNat := Nat.mod_eq_of_lt pc.isLt
  have haddr : addr.toNat % 256 ^ 8 = addr.toNat := Nat.mod_eq_of_lt addr.isLt
  have hread : ∀ off k, 4 ≤ off → off + k ≤ 64 → leAt bs off k = rdLE _ off k := fun off k h4 h => leAt_doneRecord _ h4 h
  refine ⟨?_, ?_, ?_, ?_, ?_, ?_, ?_, ?_, ?_, ?_, ?_, ?_, ?_, ?_⟩
  case refine_1 => simp [bs, doneBytes, recordOf, rdBytes_length]
  all_goals
    rw [hread _ _ (by decide) (by decide)]
    simp (disch := decide) only [List.foldl_cons, List.foldl_nil, rdLE_wrLE_same, rdLE_wrLE_other, rdLE_nil, hpc, haddr] <;> rfl

/-! ### A queue's next entry (R83) -/

theorem submitted_eq (h : Nat) : ∀ l : List (Nat × Word), submitted h l = ((l.find? fun x => !covers x.2.toNat h).map Prod.fst).getD 0
  | [] => rfl
  | x :: r => by
    rw [submitted]
    by_cases hc : covers x.2.toNat h = true
    · rw [if_pos hc, submitted_eq h r, List.find?_cons_of_neg (by simp [hc])]
    · rw [if_neg hc, List.find?_cons_of_pos (by simp [hc]), Option.map_some, Option.getD_some]

theorem covers_iff (t h : Nat) : covers t h = true ↔ 0 < (t + 2 ^ 32 - h) % 2 ^ 32 ∧ (t + 2 ^ 32 - h) % 2 ^ 32 < 2 ^ 31 := by
  simp only [covers, Bool.and_eq_true, decide_eq_true_eq]

theorem takeEntry_eq {s : State} {d q a tail : Nat} {r : QueueRec} (hf : s.focus = [d, q]) (hd : d < 2) (hq : q < 64)
    (hn : nextEntry s d q = some (a, r, tail)) :
    let slot := r.ring + 16 * (r.head % r.size)
    let t := writeNat s (physLoc (a + 0x10)) 4 ((r.head + 1) % 2 ^ 32)
    let addr : Dbl := BitVec.ofNat 64 (readNat s (physLoc (slot + 8)) 8)
    execTakeEntry s = if !(physOk s slot && physOk s (slot + 15)) then
        .next (queueError (errorResponse t d r.ctx slot 0 none 4) d q r.ctx 0 r.head 1 0xFF 0xFFFFFFFF)
      else if poisonedAt s (physLoc slot) 16 then .next (queueError t d q r.ctx 0 r.head 1 0xFF 0xFFFFFFFF)
      else if r.size < (tail + 2 ^ 32 - r.head) % 2 ^ 32 then .next (queueError t d q r.ctx addr.toNat r.head 2 0xFF 0xFFFFFFFF)
      else if readNat s (physLoc slot) 4 = 0 then
        .next (takeLaunch t d q r.ctx addr r.head none none (some (submitted r.head (fgetD s.past ((a + 0x14) / 4) []))) 0).1
      else if readNat s (physLoc slot) 4 = 1 then .next (takeGraph t d q r.ctx addr r.head (submitted r.head (fgetD s.past ((a + 0x14) / 4) [])))
      else .next (queueError t d q r.ctx addr.toNat r.head 1 0xFF 0xFFFFFFFF) := by
  intro slot t addr
  unfold execTakeEntry
  rw [hf]
  simp only [List.headD_cons, List.getD_cons_succ, List.getD_cons_zero, Nat.mod_eq_of_lt hd, Nat.mod_eq_of_lt hq, hn]
  rfl

/-! ### What the sequencer reads and writes for its work (R31, R346) -/

theorem readWork_refused {a : Dbl} (h : workAddr a = false) (s : State) (d ctx n : Nat) : readWork s d ctx a n = (s, none) :=
  if_neg (Bool.eq_false_iff.1 h)

theorem workWrite_refused {a : Dbl} (h : workAddr a = false) (s : State) (d ctx : Nat) (bs : List Byte) : workWrite s d ctx a bs = (s, false) :=
  if_neg (Bool.eq_false_iff.1 h)

theorem workWrite_device {s t : State} {d ctx : Nat} {a : Dbl} {bs : List Byte} {ok : Bool} (h : workAddr a = true)
    (hw : deviceWrite s d ctx (vaOf a) bs = (t, ok)) :
    workWrite s d ctx a bs = if ok then (t, true) else (logRefused t d ctx a bs.length true none, false) := by
  unfold workWrite
  rw [if_pos h, hw]
  cases ok <;> rfl

theorem writeDone_of_workWrite {s t : State} {d ctx : Nat} {at_ : Dbl} {bs : List Byte} {ok : Bool} (h : workWrite s d ctx (at_ + 4) bs = (t, ok)) :
    writeDone s d ctx at_ bs = if ok then workWrite t d ctx at_ [1, 0, 0, 0] else (t, false) := by
  unfold writeDone
  rw [h]
  cases ok <;> rfl

/-! ### A launch that is taken (R31 to R34, R85 to R91) -/

/-- The state in which a launch has taken its number of the die. -/
def numbered (s : State) (d : Nat) : State := modDie s d fun x => { x with takes := ((dieOf s d).takes + 1) % 2 ^ 32 }

theorem takenLaunch_refused {s : State} {x : Desc} {header : Dbl} (h : x.ok = false ∨ x.graph ≠ header) (id die take ctx q : Nat) (addr : Dbl)
    (node : Option (Nat × Nat)) (place entry since : Nat) : (takenLaunch s id die take ctx q addr x node place entry since header).2.ending = some 3 := by
  unfold takenLaunch
  rw [if_pos (by simpa using h)]

theorem takenLaunch_read {s : State} {x : Desc} {header : Dbl} (hok : x.ok = true) (hgr : x.graph = header) (id die take ctx q : Nat) (addr : Dbl)
    (node : Option (Nat × Nat)) (place entry since : Nat) :
    ((readLeases s die ctx x).2 = none → (takenLaunch s id die take ctx q addr x node place entry since header).2.ending = some 3) ∧
    ∀ ls, (readLeases s die ctx x).2 = some ls → (takenLaunch s id die take ctx q addr x node place entry since header).2.leases = ls ∧
      (takenLaunch s id die take ctx q addr x node place entry since header).2.ending =
        if dieAllowed (readLeases s die ctx x).1 x 0 || dieAllowed (readLeases s die ctx x).1 x 1 then none else some 4 := by
  unfold takenLaunch
  rw [if_neg (by simp [hok, hgr])]
  cases hr : readLeases s die ctx x with
  | mk s1 o => cases o with
    | none => exact ⟨fun _ => rfl, fun ls h => by cases h⟩
    | some ls' =>
      refine ⟨fun h => absurd h (Option.some_ne_none ls'), fun ls h => ?_⟩
      cases h
      exact ⟨rfl, rfl⟩

theorem takenLaunch_fields (s : State) (id die take ctx q : Nat) (addr : Dbl) (x : Desc) (node : Option (Nat × Nat)) (place entry since : Nat)
    (header : Dbl) : ∃ ls e, (takenLaunch s id die take ctx q addr x node place entry since header).2 =
      { id := id, die := die, take := take, ctx := ctx, addr := addr, queue := q, desc := x, node := node, place := place, entry := entry,
        since := since, leases := ls, ending := e } := by
  unfold takenLaunch
  split
  · exact ⟨_, _, rfl⟩
  · split <;> exact ⟨_, _, rfl⟩

/-- How a launch that cannot be taken is answered: with a queue error of status 3, and a failure counted for its context. -/
def takeRefused (t : State) (d q ctx : Nat) (addr : Dbl) (entry reason take : Nat) : State × Bool :=
  (modJob (queueError t d q ctx addr.toNat entry reason 3 take) ctx fun j => { j with fail := (j.fail + 1) % 2 ^ 32 }, false)

section
variable {s s1 s2 : State} {d q ctx : Nat} {addr : Dbl} {entry : Nat} {node : Option (Nat × Nat)} {place since : Option Nat} {header : Dbl} {bs : List Byte}

theorem takeLaunch_unread (h : readWork (numbered s d) d ctx addr 256 = (s1, none)) : takeLaunch s d q ctx addr entry node place since header =
    takeRefused s1 d q ctx (if node.isSome then header else addr) entry 4 (dieOf s d).takes := by
  unfold numbered at h
  simp only [takeLaunch, h]
  rfl

theorem takeLaunch_unaligned (h : readWork (numbered s d) d ctx addr 256 = (s1, some bs)) (hd : (parseDesc bs).done.toNat % 64 ≠ 0) :
    takeLaunch s d q ctx addr entry node place since header =
      takeRefused s1 d q ctx (if node.isSome then header else addr) entry 3 (dieOf s d).takes := by
  unfold numbered at h
  simp only [takeLaunch, h]
  exact if_pos (bne_iff_ne.2 hd)

theorem takeLaunch_unwritten (h : readWork (numbered s d) d ctx addr 256 = (s1, some bs)) (hd : (parseDesc bs).done.toNat % 64 = 0)
    (hw : workWrite s1 d ctx (parseDesc bs).done [0, 0, 0, 0] = (s2, false)) : takeLaunch s d q ctx addr entry node place since header =
      takeRefused s2 d q ctx (if node.isSome then header else addr) entry 6 (dieOf s d).takes := by
  unfold numbered at h
  simp only [takeLaunch, h, show leOf 4 0 = [0, 0, 0, 0] from rfl, hw, hd]
  rfl

theorem takeLaunch_taken (h : readWork (numbered s d) d ctx addr 256 = (s1, some bs)) (hd : (parseDesc bs).done.toNat % 64 = 0)
    (hw : workWrite s1 d ctx (parseDesc bs).done [0, 0, 0, 0] = (s2, true)) :
    let r := takenLaunch (newId s2).2 s2.nextId d (dieOf s d).takes ctx q addr (parseDesc bs) node (place.getD s2.nextId) entry
      (since.getD s2.nextId) header
    takeLaunch s d q ctx addr entry node place since header =
      (leaseCheck (modJob { r.1 with launches := r.1.launches ++ [r.2] } ctx fun j => { j with pend := j.pend + 1 }) s2.nextId, true) := by
  unfold numbered at h
  simp only [takeLaunch, h, show leOf 4 0 = [0, 0, 0, 0] from rfl, hw, hd]
  rfl

end

/-! ### The wait for leased ranges (R85) -/

theorem residentFrom_launches (s : State) (ls : List Launch) (L : Launch) (demand : List Lease) (e : Lease) : ∀ fuel va,
    residentFrom { s with launches := ls } L demand e fuel va = residentFrom s L demand e fuel va
  | 0, _ => rfl
  | fuel + 1, va => by
    simp only [residentFrom, residentFrom_launches s ls L demand e fuel]
    rfl

theorem missing_launches (s : State) (ls : List Launch) (L : Launch) : missing { s with launches := ls } L = missing s L := by
  unfold missing rangeResident areaResident
  simp only [residentFrom_launches]

theorem launchOf_modLaunch {s : State} {L : Launch} (h : launchOf s L.id = some L) (f : Launch → Launch) (hf : ∀ x, (f x).id = x.id) :
    launchOf (modLaunch s L.id f) L.id = some (f L) := by
  unfold launchOf modLaunch at *
  rw [findBy_modBy_same (key := Launch.id) (fun x hx => (hf x).trans hx), h]
  rfl

theorem launchD_of {s : State} {L : Launch} {id : Nat} (h : launchOf s id = some L) : launchD s id = L := by
  unfold launchD
  rw [h]
  rfl

theorem leaseCheck_ready {s : State} {L : Launch} (h : launchOf s L.id = some L) (he : L.ending = none) (hs : L.state = .leaseWait)
    (hm : missing s L = []) : ∃ t, leaseCheck s L.id = t ∧ launchOf t L.id = some { L with state := .ready, requests := [] } ∧
      t.mem = s.mem ∧ t.gangs = s.gangs := by
  have hsame : ({ L with state := .leaseWait } : Launch) = L := by rw [← hs]
  have h1 : launchOf (modLaunch s L.id fun L => { L with state := .leaseWait }) L.id = some L :=
    (launchOf_modLaunch h (fun L => { L with state := .leaseWait }) fun _ => rfl).trans (congrArg some hsame)
  have hmiss : missing (modLaunch s L.id fun L => { L with state := .leaseWait })
      (launchD (modLaunch s L.id fun L => { L with state := .leaseWait }) L.id) = [] := by
    rw [launchD_of h1]
    exact (missing_launches s _ L).trans hm
  refine ⟨modLaunch (modLaunch s L.id fun L => { L with state := .leaseWait }) L.id fun L => { L with state := .ready, requests := [] }, ?_,
    launchOf_modLaunch h1 (fun L => { L with state := .ready, requests := [] }) fun _ => rfl, rfl, rfl⟩
  unfold leaseCheck
  rw [launchD_of h]
  refine (if_neg (by simp [he, hs])).trans ((if_neg (by simp [hs])).trans ?_)
  unfold leaseWait
  simp only [hmiss]

/-! ### A graph that is taken (R98) -/

/-- A failure counted for a context. -/
def failureCounted (t : State) (ctx : Nat) : State := modJob t ctx fun j => { j with fail := (j.fail + 1) % 2 ^ 32 }

section
variable {s s1 s2 s3 : State} {d q ctx : Nat} {addr : Dbl} {entry since : Nat} {bs : List Byte}

theorem takeGraph_unread (h : readWork s d ctx addr 64 = (s1, none)) :
    takeGraph s d q ctx addr entry since = queueError s1 d q ctx addr.toNat entry 4 5 0xFFFFFFFF := by
  simp only [takeGraph, h]
  rfl

theorem takeGraph_unaligned (h : readWork s d ctx addr 64 = (s1, some bs)) (hd : (parseHeader bs).done % 64 ≠ 0) :
    takeGraph s d q ctx addr entry since = failureCounted (queueError s1 d q ctx addr.toNat entry 3 5 0xFFFFFFFF) ctx := by
  simp only [takeGraph, h]
  exact if_pos hd

theorem takeGraph_rejected {ok : Bool} (h : readWork s d ctx addr 64 = (s1, some bs)) (hd : (parseHeader bs).done % 64 = 0)
    (hg : readGraph s1 d ctx (parseHeader bs) = (s2, none))
    (hw : writeDone s2 d ctx (BitVec.ofNat 64 (parseHeader bs).done) (doneBytes 5 (parseHeader bs).tag 0 0 s2.time 0 0xFFFF 0 0 0) = (s3, ok)) :
    takeGraph s d q ctx addr entry since =
      failureCounted (if ok then s3 else queueError s3 d q ctx addr.toNat entry 6 5 0xFFFFFFFF) ctx := by
  simp only [takeGraph, h, hg, hw]
  refine (if_neg (not_not_intro hd)).trans ?_
  cases ok <;> rfl

theorem takeGraph_enters {nodes : List GNode} (h : readWork s d ctx addr 64 = (s1, some bs)) (hd : (parseHeader bs).done % 64 = 0)
    (hg : readGraph s1 d ctx (parseHeader bs) = (s2, some nodes)) :
    let g : Graph := { id := s2.nextId, die := d, ctx := ctx, addr := addr, queue := q, flags := (parseHeader bs).flags, tag := (parseHeader bs).tag,
                       done := BitVec.ofNat 64 (parseHeader bs).done, nodes := nodes, entry := entry, since := since }
    let r := admitNodes g.id ((List.range nodes.length).filter fun i => ((nodes[i]?).map GNode.deps).getD 1 == 0)
      { s2 with nextId := s2.nextId + 1, graphs := s2.graphs ++ [g] }
    takeGraph s d q ctx addr entry since = endNodes r.1 g.id r.2 := by
  simp only [takeGraph, h, hg]
  exact if_neg (not_not_intro hd)

end

/-! ### The end of a launch (R90, R91, R97) -/

theorem launchD_id (s : State) (id : Nat) : (launchD s id).id = id := by
  unfold launchD
  cases h : launchOf s id with
  | none => rfl
  | some L => exact findBy_key (key := Launch.id) h

theorem postKill_stays {s : State} {id : Nat} (h : (launchD s id).kill = none ∨ eventRoom s (launchD s id).die = false) : postKill s id = s := by
  unfold postKill
  dsimp only
  split
  next bs hk =>
    have hr := h.resolve_left (by rw [hk]; exact Option.some_ne_none bs)
    exact if_neg (Bool.eq_false_iff.1 hr)
  · rfl

theorem postKill_posts {s : State} {id : Nat} {bs : List Byte} (hk : (launchD s id).kill = some bs) (hr : eventRoom s (launchD s id).die = true) :
    postKill s id = modLaunch (postEvent s (launchD s id).die 6 (launchD s id).ctx (some id)
      [(0x10, 64, natOf bs), (0x50, 4, (launchD s id).take)]) id fun x => { x with kill := none } := by
  unfold postKill
  simp only [hk, hr, if_true]

theorem killHeld_iff (s : State) (L : Launch) :
    killHeld s L = true ↔ L.kill.isSome = true ∨ ∃ e ∈ (dieOf s L.die).events, e.type = 6 ∧ e.launch = some L.id := by
  simp only [killHeld, Bool.or_eq_true, List.any_eq_true, Bool.and_eq_true, beq_iff_eq]

theorem recordDue_unasked {s t : State} {L : Launch} {ok : Bool}
    (ha : ((L.requests.find? fun r => r.index == 0xF1).map Request.answer).getD 1 = 1) (hr : deviceReach s L.die L.ctx (vaOf L.desc.done) 64 true = true)
    (hw : writeDone s L.die L.ctx L.desc.done (recordBytesOf s L) = (t, ok)) :
    recordDue s L = if ok then endRecord t L else needArea t L.id 0xF1 L.die L.desc.done 64 true := by
  unfold recordDue
  rw [ha, hr, hw]
  cases ok <;> rfl

theorem recordDue_unreached {s : State} {L : Launch} (ha : ((L.requests.find? fun r => r.index == 0xF1).map Request.answer).getD 1 = 1)
    (hr : deviceReach s L.die L.ctx (vaOf L.desc.done) 64 true = false) : recordDue s L = needArea s L.id 0xF1 L.die L.desc.done 64 true := by
  unfold recordDue
  rw [ha, hr]
  rfl

/-- Settles O52: each step of the sequencer by its own lemma. -/
theorem sequencerEventsHold : Obligations.SequencerEvents := by
  unfold Obligations.SequencerEvents
  refine ⟨fun s => ⟨fun d q a r tail hf hd hq hn => ?_, submitted_eq, covers_iff, fun d ctx a n => ⟨fun h => readWork_refused h s d ctx n, fun h t => ?_⟩,
      fun d q ctx addr entry node place since header => ?_, fun L h he hs hm => leaseCheck_ready h he hs hm, fun d q ctx addr entry since => ?_, ?_, fun k hk hr => ?_,
      fun L hL ho => ?_, fun id => ⟨postKill_stays, fun bs => postKill_posts⟩, fun L => ?_⟩,
    doneBytes_fields, fun s d ctx at_ bs t ok => ⟨fun h => workWrite_refused h s d ctx bs, workWrite_device, writeDone_of_workWrite⟩⟩
  · intro slot t since kind addr
    have hexec := (exec_takeEntry s).trans (takeEntry_eq hf hd hq hn)
    refine ⟨fun h => ?_, fun h1 h2 hp => ?_, fun h1 h2 hp => ⟨fun hlt => ?_, fun hle => ⟨fun hk => ?_, fun hk => ?_, fun hk => ?_⟩⟩⟩
    · refine hexec.trans (if_pos ?_)
      obtain h | h := h <;> simp [slot] at h <;> simp [h]
    all_goals refine hexec.trans ((if_neg (by simpa [slot] using And.intro h1 h2)).trans ?_)
    · exact if_pos hp
    all_goals refine (if_neg (Bool.eq_false_iff.1 hp)).trans ?_
    · exact if_pos hlt
    all_goals refine (if_neg (Nat.not_lt.2 hle)).trans ?_
    · exact if_pos hk
    · exact (if_neg (by rw [show readNat s (physLoc slot) 4 = 1 from hk]; decide)).trans (if_pos hk)
    · exact (if_neg (Nat.ne_of_gt (Nat.lt_of_succ_lt hk))).trans (if_neg (Nat.ne_of_gt hk))
  · unfold readWork
    rw [if_pos h]
    exact ⟨fun bs hr => by rw [hr], fun hr => by rw [hr], fun hr => by rw [hr]⟩
  · intro take s0 failed
    refine ⟨fun s1 h => takeLaunch_unread h, fun s1 bs h => ?_⟩
    intro x
    refine ⟨fun hd => takeLaunch_unaligned h hd, fun hd hw => takeLaunch_unwritten h hd (workWrite_refused hw ..), fun hd hw s2 => ⟨fun hdev => ?_, fun hdev => ?_⟩⟩
    · exact takeLaunch_unwritten h hd (workWrite_device hw hdev)
    · have htaken := takeLaunch_taken (q := q) (entry := entry) (node := node) (place := place) (since := since) (header := header) h hd
        (workWrite_device hw hdev)
      obtain ⟨ls, e, hL⟩ := takenLaunch_fields (newId s2).2 s2.nextId d take ctx q addr x node (place.getD s2.nextId) entry (since.getD s2.nextId) header
      have href := fun hx => takenLaunch_refused (s := (newId s2).2) (x := x) (header := header) hx s2.nextId d take ctx q addr node
        (place.getD s2.nextId) entry (since.getD s2.nextId)
      have hread := fun hok hgr => takenLaunch_read (s := (newId s2).2) (x := x) (header := header) hok hgr s2.nextId d take ctx q addr node
        (place.getD s2.nextId) entry (since.getD s2.nextId)
      generalize takenLaunch (newId s2).2 s2.nextId d take ctx q addr x node (place.getD s2.nextId) entry (since.getD s2.nextId) header = r
        at htaken hL href hread
      refine ⟨r.1, r.2, ?_, ?_, ?_, ?_, ?_, ?_, ?_, ?_, ?_, ?_, ?_, ⟨href, fun hok hgr hls => (hread hok hgr).1 hls,
        fun ls hok hgr hls => (hread hok hgr).2 ls hls⟩, ?_⟩
      case refine_12 => exact htaken.trans (by rw [hL])
      all_goals rw [hL]
  · refine ⟨fun s1 h => takeGraph_unread h, fun s1 bs h => ?_⟩
    intro hdr failed
    exact ⟨fun hd => takeGraph_unaligned h hd, fun hd s2 => ⟨fun hg s3 ok hw => takeGraph_rejected h hd hg hw, fun nodes hg => takeGraph_enters h hd hg⟩⟩
  · exact exec_placementOpportunity s
  · intro L
    refine ⟨fun t bs ha hread => ?_, fun ha he => ?_, fun t ha he => ⟨fun hread => ?_, fun hread => ?_⟩⟩
    all_goals
      refine (exec_parameterCopy s).trans ?_
      unfold execParameterCopy
      simp only [hk, hr, ha, Bool.false_eq_true, if_false, Bool.false_and, Bool.true_and]
    · rw [show deviceRead s (launchD s k.launch).die (launchD s k.launch).ctx (vaOf (launchD s k.launch).desc.param)
        (16 * (launchD s k.launch).desc.nparam) = _ from hread]
      rfl
    · exact if_pos (Option.isNone_iff_eq_none.2 he)
    all_goals
      rw [show deviceRead s (launchD s k.launch).die (launchD s k.launch).ctx (vaOf (launchD s k.launch).desc.param)
        (16 * (launchD s k.launch).desc.nparam) = _ from hread]
      exact congrArg _ (if_neg (by rw [show (launchD s k.launch).ending = none from he]; simp))
  · have hover : (!launchOver s L) = false := by rw [ho]; rfl
    have hexec : exec .launchEnd s = if L.closed then .next (recordDue s L) else if killHeld (postKill s L.id) (launchD (postKill s L.id) L.id) then
        .next (postKill s L.id) else .next (recordDue (closeLaunch (postKill s L.id) (launchD (postKill s L.id) L.id))
          (launchD (closeLaunch (postKill s L.id) (launchD (postKill s L.id) L.id)) (launchD (postKill s L.id) L.id).id)) := by
      refine (exec_launchEnd s).trans ?_
      unfold execLaunchEnd
      simp only [hL, hover, Bool.false_eq_true, if_false, launchD_id]
    refine ⟨fun hc => hexec.trans (if_pos hc), fun hc => ?_⟩
    intro s1
    refine ⟨fun hk => hexec.trans ((if_neg (Bool.eq_false_iff.1 hc)).trans (if_pos hk)), fun hk => ⟨_, ?_, rfl⟩⟩
    refine hexec.trans ((if_neg (Bool.eq_false_iff.1 hc)).trans ((if_neg (Bool.eq_false_iff.1 hk)).trans ?_))
    unfold closeLaunch
    rw [launchD_id]
  · refine ⟨killHeld_iff s L, rfl, fun k hk => bne_iff_ne.1 (List.mem_filter.1 hk).2, fun b hb => bne_iff_ne.1 (List.mem_filter.1 hb).2, ?_⟩
    intro st asked bytes
    have hdue : asked = none ∨ asked = some 1 → asked.getD 1 = 1 := by rintro (h | h) <;> rw [h] <;> rfl
    refine ⟨fun h => ?_, fun h => ?_, fun h => ⟨fun hr => recordDue_unreached (hdue h) hr, fun hr t ok hw => recordDue_unasked (hdue h) hr hw⟩, fun h => ?_⟩
    · unfold recordDue
      rw [show ((L.requests.find? fun r => r.index == 0xF1).map Request.answer) = _ from h]
      rfl
    · unfold recordDue
      rw [show ((L.requests.find? fun r => r.index == 0xF1).map Request.answer) = _ from h]
      rfl
    · unfold endRecord
      rw [h]

end Sys2Proof.Machine
end

section

/-!
# Which gang a scheduler selects, and how the others age (R122 to R125, R132)
-/

namespace Sys2Proof.Machine

-- One proof at a time: each waiting thread would reserve a stack of its own.
set_option Elab.async false

/-! ### The gang of the highest class, placed first -/

theorem foremost_cons_eq (x : Gang) (xs : List Gang) : foremost (x :: xs) = match foremost xs with
    | none => some x
    | some y => if y.curClass < x.curClass ∨ (x.curClass = y.curClass ∧ x.placed < y.placed) then some x else some y := rfl

/-- One gang does not come after another (R125). -/
def notAfter (g x : Gang) : Prop := x.curClass < g.curClass ∨ (x.curClass = g.curClass ∧ g.placed ≤ x.placed)

theorem foremost_first {g : Gang} : ∀ l : List Gang, foremost l = some g → ∀ x ∈ l, notAfter g x
  | [], _, _, hx => by cases hx
  | y :: ys, h, x, hx => by
    rw [foremost_cons_eq] at h
    cases hf : foremost ys with
    | none =>
      rw [hf] at h
      have hy : y = g := Option.some.inj h
      have hnil : ys = [] := by
        cases ys with
        | nil => rfl
        | cons z zs => exact absurd hf (foremost_isSome z zs)
      rw [hnil, List.mem_singleton] at hx
      rw [hx, hy]
      exact .inr ⟨rfl, le_rfl⟩
    | some z =>
      have hz := foremost_first ys hf
      rw [hf] at h
      dsimp only at h
      unfold notAfter at hz ⊢
      split at h
      next hlt =>
        obtain rfl := Option.some.inj h
        obtain rfl | hx := List.mem_cons.1 hx
        · omega
        · have := hz x hx
          omega
      next hlt =>
        obtain rfl := Option.some.inj h
        obtain rfl | hx := List.mem_cons.1 hx
        · omega
        · exact hz x hx

theorem foremost_none_iff : ∀ l : List Gang, foremost l = none ↔ l = []
  | [] => ⟨fun _ => rfl, fun _ => rfl⟩
  | x :: xs => ⟨fun h => absurd h (foremost_isSome x xs), fun h => by cases h⟩

/-! ### Eligibility -/

theorem mem_giveWay {gs : List Gang} {g : Gang} : g ∈ giveWay gs ↔ g ∈ gs ∧ (g.yielded = true → ∀ x ∈ gs, x.yielded = true) := by
  unfold giveWay
  dsimp only
  split
  next h =>
    rw [List.isEmpty_iff, List.filter_eq_nil_iff] at h
    exact ⟨fun hg => ⟨hg, fun _ x hx => by simpa using h x hx⟩, fun hg => hg.1⟩
  next h =>
    rw [List.isEmpty_iff] at h
    obtain ⟨y, hy⟩ := List.exists_mem_of_ne_nil _ h
    obtain ⟨hy1, hy2⟩ := List.mem_filter.1 hy
    rw [List.mem_filter]
    refine and_congr_right fun _ => ⟨fun hn hg => ?_, fun hg => ?_⟩
    · rw [hg] at hn
      cases hn
    · cases hgy : g.yielded with
      | false => rfl
      | true =>
        rw [hg hgy y hy1] at hy2
        cases hy2

theorem mem_candidates {s : State} {core sch : Nat} {g : Gang} :
    g ∈ candidates s core sch ↔ g ∈ s.gangs ∧ g.core = core ∧ g.slot.isSome ∧ schedOf g = sch := by
  unfold candidates
  rw [List.mem_filter]
  simp only [Bool.and_eq_true, beq_iff_eq, and_assoc]

theorem mem_own {s : State} {core sch : Nat} {g : Gang} :
    g ∈ ((candidates s core sch).filter fun g => couldIssue s g && !evictionAsked s g) ↔
      g ∈ s.gangs ∧ g.core = core ∧ g.slot.isSome ∧ schedOf g = sch ∧ couldIssue s g = true ∧ evictionAsked s g = false := by
  rw [List.mem_filter, mem_candidates]
  simp only [Bool.and_eq_true, Bool.not_eq_true', and_assoc]

theorem flagRoom_iff (g : Gang) (c : ClauseRun) : flagRoom g c = true ↔ ∀ i, decodeWord (wordOf c) = .ok i → flagFull g c (clsOf i) = false := by
  unfold flagRoom
  cases decodeWord (wordOf c) with
  | error => simp
  | ok i => simp

theorem unitFree_iff (s : State) (g : Gang) (c : ClauseRun) : unitFree s g c = true ↔ ∀ i, decodeWord (wordOf c) = .ok i →
    schedulerUnit s g i = true ∧ lowestOpen s g c i = true ∧ (denseInstr i = true → arrayOpen s g.core = true ∧ (engineOf s g.core).grant = some g.id) ∧
      ¬(queues i = true ∧ (engineOf s g.core).owner = some g.block ∧ 16 ≤ (engineOf s g.core).cmds.length) := by
  unfold unitFree
  cases decodeWord (wordOf c) with
  | error => simp
  | ok i =>
    have hdense : ∀ p : Prop, (denseInstr i = false ∨ p) ↔ (denseInstr i = true → p) := by cases denseInstr i <;> simp
    have hqueue : ((queues i = false ∨ ((engineOf s g.core).owner == some g.block) = false) ∨ (!decide ((engineOf s g.core).cmds.length < 16)) = false) ↔
        ¬(queues i = true ∧ (engineOf s g.core).owner = some g.block ∧ 16 ≤ (engineOf s g.core).cmds.length) := by
      cases queues i <;> simp [or_iff_not_imp_left]
    simp only [Except.ok.injEq, forall_eq', unitAccepts, queueRoom, Bool.and_eq_true, Bool.or_eq_true, Bool.not_eq_true', Bool.and_eq_false_iff,
      beq_iff_eq]
    rw [hdense, hqueue]
    exact ⟨fun ⟨⟨⟨h1, h2⟩, h3⟩, h4⟩ => ⟨h1, h4, h2, h3⟩, fun ⟨h1, h4, h2, h3⟩ => ⟨⟨⟨h1, h2⟩, h3⟩, h4⟩⟩

theorem couldIssue_clause (s : State) (g : Gang) (c : ClauseRun) (hc : g.clause = some c) (hw : g.wait = .none) :
    couldIssue s g = (g.slot.isSome && g.pending.isNone && released s g && !replayDue g && instrReady s g c) := by
  unfold couldIssue
  rw [hc, hw]

theorem couldIssue_waits {s : State} {g : Gang} (h : (∃ m, g.wait = .flags m) ∨ (∃ st c t, g.wait = .blocked st c t) ∨ g.wait = .stopped ∨
    (g.clause = none ∧ g.fetched = none)) : couldIssue s g = false := by
  unfold couldIssue
  rw [Bool.and_eq_false_iff]
  right
  obtain ⟨m, h⟩ | ⟨st, c, t, h⟩ | h | ⟨hc, hf⟩ := h
  · rw [h]; cases g.clause <;> rfl
  · rw [h]; cases g.clause <;> rfl
  · rw [h]; cases g.clause <;> rfl
  · rw [hc, hf]; cases g.wait <;> rfl

/-! ### A clk of the core -/

theorem foldl_modCore_rest (f : Core → Core) : ∀ (cs : List Nat) (s : State), { cs.foldl (fun t c => modCore t c f) s with cores := s.cores } = s
  | [], _ => rfl
  | c :: cs, s => (congrArg (fun t : State => { t with cores := s.cores }) (foldl_modCore_rest f cs (modCore s c f)) :)

theorem coreOf_foldl_modCore (f : Core → Core) (k : Nat) : ∀ (cs : List Nat) (s : State), cs.Nodup →
    coreOf (cs.foldl (fun t c => modCore t c f) s) k = if k ∈ cs then f (coreOf s k) else coreOf s k
  | [], s, _ => by simp
  | c :: cs, s, h => by
    obtain ⟨hc, hcs⟩ := List.nodup_cons.1 h
    rw [List.foldl_cons, coreOf_foldl_modCore f k cs _ hcs, coreOf_modCore]
    by_cases hk : k = c
    · subst hk
      simp [hc]
    · simp [hk]

theorem passIdle_rest (s : State) (m : Nat) : { passIdle s m with cores := s.cores, idleClk := s.idleClk } = s := by
  have h := foldl_modCore_rest (fun k => { k with clk := k.clk - m }) (residentCores s) s
  exact (congrArg (fun t : State => { t with idleClk := s.idleClk }) h :)

/-- With scheduler 0 a clk of the core begins: what changes of the state. -/
theorem tick_rest (s : State) (core : Nat) :
    { tick s core with cores := s.cores, idleClk := s.idleClk, time := s.time, agenda := s.agenda, fresh := s.fresh } = s := by
  have h := passIdle_rest (freeNat (freeNat s).2).2 (freeNat (freeNat s).2).1
  exact (congrArg (fun t : State => { t with time := s.time, agenda := s.agenda, fresh := s.fresh }) h :)

theorem nodup_eraseDups : ∀ l : List Nat, l.eraseDups.Nodup
  | [] => List.nodup_nil
  | a :: l => by
    have : (l.filter fun b => !b == a).length < l.length + 1 := Nat.lt_succ_of_le (List.length_filter_le _ _)
    rw [List.eraseDups_cons, List.nodup_cons]
    refine ⟨fun h => ?_, nodup_eraseDups (l.filter fun b => !b == a)⟩
    rw [List.mem_eraseDups, List.mem_filter] at h
    simp at h
termination_by l => l.length

theorem tick_clk {s : State} {core : Nat} {g : Gang} (hg : g ∈ s.gangs) (hs : g.slot.isSome) (hc : g.core = core) :
    (coreOf (tick s core) core).clk + (tick s core).idleClk = (coreOf s core).clk + s.idleClk + 1 := by
  have hmem : core ∈ residentCores (freeNat (freeNat s).2).2 := by
    unfold residentCores
    rw [List.mem_eraseDups]
    exact List.mem_map.2 ⟨g, List.mem_filter.2 ⟨hg, hs⟩, hc⟩
  have hcore : coreOf (tick s core) core = { coreOf (passIdle (freeNat (freeNat s).2).2 (freeNat (freeNat s).2).1) core with
      clk := (coreOf (passIdle (freeNat (freeNat s).2).2 (freeNat (freeNat s).2).1) core).clk + 1,
      histClks := (coreOf (passIdle (freeNat (freeNat s).2).2 (freeNat (freeNat s).2).1) core).histClks + 1 } := by
    refine (coreOf_modCore (passIdle (freeNat (freeNat s).2).2 (freeNat (freeNat s).2).1) core core
      fun k => { k with clk := k.clk + 1, histClks := k.histClks + 1 }).trans (if_pos rfl)
  have hidle : coreOf (passIdle (freeNat (freeNat s).2).2 (freeNat (freeNat s).2).1) core = { coreOf s core with
      clk := (coreOf s core).clk - (freeNat (freeNat s).2).1 } :=
    (coreOf_foldl_modCore (fun k => { k with clk := k.clk - (freeNat (freeNat s).2).1 }) core (residentCores (freeNat (freeNat s).2).2)
      (freeNat (freeNat s).2).2 (nodup_eraseDups _)).trans (if_pos hmem)
  rw [hcore, hidle, show (tick s core).idleClk = s.idleClk + (freeNat (freeNat s).2).1 from rfl]
  push_cast
  ring

theorem fgetD_bump (m : FMap Word) (k i : Nat) : fgetD (bump m k) i 0 = fgetD m i 0 + if i = k then 1 else 0 := by
  unfold bump fgetD
  rw [fget_fput]
  by_cases h : i = k
  · rw [if_pos h, if_pos h, h]
    rfl
  · rw [if_neg h, if_neg h]
    exact (BitVec.add_zero _).symm

theorem countClk_rest (s : State) (core sch : Nat) : { countClk s core sch with cores := s.cores } = s := rfl

theorem countClk_helig (s : State) (core sch i : Nat) : fgetD (coreOf (countClk s core sch) core).helig i 0 =
    fgetD (coreOf s core).helig i 0 + if i = 32 * sch + Nat.min (eligible s core sch).length 16 then 1 else 0 := by
  unfold countClk
  rw [coreOf_modCore, if_pos rfl]
  exact fgetD_bump ..

theorem countClk_hstall (s : State) (core sch i : Nat) : fgetD (coreOf (countClk s core sch) core).hstall i 0 = fgetD (coreOf s core).hstall i 0 +
    if eligible s core sch = [] ∧ i = 32 * sch + ((oldest (candidates s core sch)).map (stallOf s)).getD 14 then 1 else 0 := by
  unfold countClk
  rw [coreOf_modCore, if_pos rfl]
  simp only [List.length_eq_zero_iff]
  by_cases h : eligible s core sch = []
  · rw [if_pos h, fgetD_bump]
    simp [h]
  · rw [if_neg h]
    simp [h]

/-! ### Giving way (R132) -/

/-- The gang differs in its standing under `yield` alone. -/
def SameButYield (x y : Gang) : Prop := ∃ a b, y = { x with yielded := a, yieldFor := b }

theorem noteYield_rest (others : List Nat) (x : Gang) : SameButYield x (noteYield others x) := by
  unfold noteYield
  split
  · exact ⟨x.yielded, x.yieldFor, rfl⟩
  · split
    · exact ⟨_, _, rfl⟩
    · exact ⟨x.yielded, _, rfl⟩

theorem noteYield_other {x : Gang} (h : x.yielded = false) (others : List Nat) : noteYield others x = x := by
  unfold noteYield
  rw [h]
  rfl

theorem noteYield_yielded {x : Gang} (h : x.yielded = true) (others : List Nat) : noteYield others x =
    if others = [] then { x with yielded := false, yieldFor := none } else { x with yieldFor := some (x.yieldFor.getD others) } := by
  unfold noteYield
  rw [h]
  cases others <;> rfl

/-- What a clk leaves of one gang under `yield`. -/
def clkYield (s : State) (core sch : Nat) (x : Gang) : Gang :=
  if x.core == core && x.slot.isSome && schedOf x == sch then
    noteYield (((candidates s core sch).filter fun g => couldIssue s g && !evictionAsked s g && !g.yielded).map Gang.id) x
  else x

theorem clkYield_rest (s : State) (core sch : Nat) (x : Gang) : SameButYield x (clkYield s core sch x) := by
  unfold clkYield
  split
  · exact noteYield_rest ..
  · exact ⟨x.yielded, x.yieldFor, rfl⟩

theorem SameButYield.id {x y : Gang} (h : SameButYield x y) : y.id = x.id := by
  obtain ⟨a, b, rfl⟩ := h
  rfl

theorem gangOf_map {s t : State} {f : Gang → Gang} (h : t.gangs = s.gangs.map f) (hf : ∀ x, (f x).id = x.id) (id : Nat) :
    gangOf t id = (gangOf s id).map f := by
  unfold gangOf
  rw [h]
  exact findBy_map (key := Gang.id) (f := f) hf id s.gangs

theorem gangOf_yieldClk (s : State) (core sch id : Nat) : gangOf (yieldClk s core sch) id = (gangOf s id).map (clkYield s core sch) :=
  gangOf_map rfl (fun x => (clkYield_rest s core sch x).id) id

/-! ### A gang is selected, and the other eligible gangs age (R123) -/

/-- The other gangs of the scheduler age where they are eligible. -/
def aged (s : State) (core sch chosen : Nat) (x : Gang) : Gang :=
  if ((candidates s core sch).map Gang.id).contains x.id then ageGang ((eligible s core sch).map Gang.id) chosen x else x

theorem eligible_subset {s : State} {core sch : Nat} {g : Gang} (h : g ∈ eligible s core sch) : g ∈ candidates s core sch :=
  (List.mem_filter.1 (mem_giveWay.1 h).1).1

theorem aged_eq (s : State) (core sch chosen : Nat) (x : Gang) : aged s core sch chosen x =
    if x.id ∈ (eligible s core sch).map Gang.id ∧ x.id ≠ chosen then { x with aging := x.aging + 1 } else x := by
  unfold aged ageGang
  by_cases he : x.id ∈ (eligible s core sch).map Gang.id
  · have hc : x.id ∈ (candidates s core sch).map Gang.id := by
      obtain ⟨y, hy, hid⟩ := List.mem_map.1 he
      exact List.mem_map.2 ⟨y, eligible_subset hy, hid⟩
    rw [if_pos (List.contains_iff_mem.2 hc), List.contains_iff_mem.2 he, Bool.true_and]
    simp only [bne_iff_ne, he, true_and]
  · rw [if_neg (c := _ ∧ _) fun h => he h.1, show ((eligible s core sch).map Gang.id).contains x.id = false by simpa using he, Bool.false_and]
    split <;> rfl

theorem aged_id (s : State) (core sch chosen : Nat) (x : Gang) : (aged s core sch chosen x).id = x.id := by
  rw [aged_eq]
  split <;> rfl

/-- The state in which the other gangs of the scheduler have aged. -/
def agedState (s : State) (core sch chosen : Nat) : State :=
  { s with gangs := s.gangs.map (aged s core sch chosen), agenda := rises (eligible s core sch) ((eligible s core sch).map Gang.id) chosen ++ s.agenda }

theorem gangOf_agedState (s : State) (core sch chosen id : Nat) : gangOf (agedState s core sch chosen) id = (gangOf s id).map (aged s core sch chosen) :=
  gangOf_map rfl (aged_id s core sch chosen) id

theorem mem_rises {gs : List Gang} {g : Gang} {chosen : Nat} (hg : g ∈ gs) (hne : g.id ≠ chosen) (h : (g.aging + 1) % 256 = 0) :
    .event .agingClassRise [g.id] ∈ rises gs (gs.map Gang.id) chosen := by
  refine List.mem_map.2 ⟨g, List.mem_filter.2 ⟨hg, ?_⟩, rfl⟩
  rw [List.contains_iff_mem.2 (List.mem_map.2 ⟨g, hg, rfl⟩), h, bne_iff_ne.2 hne]
  rfl

theorem selectGang_eq (s : State) (core sch : Nat) (g : Gang) : selectGang s core sch g = match g.clause with
    | some c => if g.wait = .unit then { agedState s core sch g.id with issuing := some g.id } else startIssue (agedState s core sch g.id) g c
    | none => { agedState s core sch g.id with agenda := .event .clauseStart [g.id] :: (agedState s core sch g.id).agenda } := rfl

theorem gangOf_startIssue (s : State) (g : Gang) (c : ClauseRun) (id : Nat) : gangOf (startIssue s g c) id =
    if id = g.id then ((gangOf s id).map fun x => if sameSched g x then yieldPast g.id x else x).map (rejuvenated (baseClass s g))
    else (gangOf s id).map fun x => if sameSched g x then yieldPast g.id x else x := by
  obtain ⟨u, hu, ht⟩ := startIssue_eq s g c
  rw [ht]
  refine (gangOf_unitsTaken hu id).trans ?_
  rw [gangOf_modGang _ _ _ (rejuvenated _) fun _ => rfl, gangOf_yieldedPast]

theorem startIssue_rest (s : State) (g : Gang) (c : ClauseRun) :
    (startIssue s g c).mem = s.mem ∧ (startIssue s g c).agenda = s.agenda ∧ (startIssue s g c).issuing = some g.id := by
  obtain ⟨u, hu, ht⟩ := startIssue_eq s g c
  have hmem := congrArg State.mem hu.rest
  have hag := congrArg State.agenda hu.rest
  rw [ht]
  exact ⟨hmem, hag, rfl⟩

theorem issueSelect_eq {s : State} {core sch : Nat} (hf : s.focus = [core, sch]) (hs : sch < 4) (hc : coreExists core = true) :
    execIssueSelect s = match foremost (selectable (countClk (if sch = 0 then tick s core else s) core sch) core sch) with
      | some g => .next (selectGang (yieldClk (countClk (if sch = 0 then tick s core else s) core sch) core sch) core sch
          ((gangOf (yieldClk (countClk (if sch = 0 then tick s core else s) core sch) core sch) g.id).getD g))
      | none => .next (yieldClk (countClk (if sch = 0 then tick s core else s) core sch) core sch) := by
  unfold execIssueSelect
  rw [hf]
  simp only [List.headD_cons, List.getD_cons_succ, List.getD_cons_zero, Nat.mod_eq_of_lt hs, hc, Bool.not_true, Bool.false_eq_true, if_false]
    <;> rfl

/-- The gang that is selected. -/
theorem selectGang_chosen {u : State} {g : Gang} (hg : gangOf u g.id = some g) (core sch : Nat) :
    ∃ g', gangOf (selectGang u core sch g) g.id = some g' ∧ (selectGang u core sch g).mem = u.mem ∧ g'.threads = g.threads ∧ g'.clause = g.clause ∧
      (g.clause.isSome → (selectGang u core sch g).issuing = some g.id) ∧
      (g.clause.isSome → g.wait ≠ .unit → g'.aging = 0 ∧ g'.curClass = baseClass u g ∧ g'.yielded = false) ∧
      (g.clause.isSome → g.wait = .unit → g'.aging = g.aging ∧ g'.curClass = g.curClass) ∧
      (g.clause = none → (selectGang u core sch g).issuing = u.issuing ∧
        (selectGang u core sch g).agenda.head? = some (.event .clauseStart [g.id]) ∧ g'.aging = g.aging) := by
  have haged : gangOf (agedState u core sch g.id) g.id = some g := by
    rw [gangOf_agedState, hg, Option.map_some, aged_eq, if_neg fun h => h.2 rfl]
  rw [selectGang_eq]
  cases hc : g.clause with
  | none =>
    refine ⟨g, haged, rfl, rfl, hc, ?_, ?_, ?_, fun _ => ⟨rfl, rfl, rfl⟩⟩
    all_goals
      intro h
      cases h
  | some c =>
    dsimp only
    by_cases hw : g.wait = .unit
    · rw [if_pos hw]
      exact ⟨g, haged, rfl, rfl, hc, fun _ => rfl, fun _ h => absurd hw h, fun _ _ => ⟨rfl, rfl⟩, fun h => absurd h (Option.some_ne_none c)⟩
    · rw [if_neg hw]
      obtain ⟨hmem, -, hiss⟩ := startIssue_rest (agedState u core sch g.id) g c
      have hgang := gangOf_startIssue (agedState u core sch g.id) g c g.id
      rw [if_pos rfl, haged, Option.map_some, Option.map_some] at hgang
      have hsame : SameButYield g (if sameSched g g then yieldPast g.id g else g) := by
        split
        · exact yieldPast_rest ..
        · exact ⟨g.yielded, g.yieldFor, rfl⟩
      generalize (if sameSched g g then yieldPast g.id g else g) = y at hgang hsame
      obtain ⟨a, b, rfl⟩ := hsame
      exact ⟨_, hgang, hmem, rfl, hc, fun _ => hiss, fun _ _ => ⟨rfl, rfl, rfl⟩, fun _ h => absurd h hw, fun h => absurd h (Option.some_ne_none c)⟩

/-- Every other gang. -/
theorem selectGang_other {u : State} {g : Gang} (core sch : Nat) {id : Nat} (hne : id ≠ g.id) : ∀ x, gangOf u id = some x →
    ∃ x', gangOf (selectGang u core sch g) id = some x' ∧ { x' with aging := x.aging, yielded := x.yielded, yieldFor := x.yieldFor } = x ∧
      x'.aging = x.aging + if x.id ∈ (eligible u core sch).map Gang.id then 1 else 0 := by
  intro x hx
  have hid : x.id = id := findBy_key (key := Gang.id) hx
  have hage : ∃ n, aged u core sch g.id x = { x with aging := n } ∧ n = x.aging + if x.id ∈ (eligible u core sch).map Gang.id then 1 else 0 := by
    rw [aged_eq]
    by_cases he : x.id ∈ (eligible u core sch).map Gang.id
    · exact ⟨x.aging + 1, if_pos ⟨he, hid ▸ hne⟩, by rw [if_pos he]⟩
    · exact ⟨x.aging, if_neg fun h => he h.1, by rw [if_neg he]; rfl⟩
  obtain ⟨n, hn, hnv⟩ := hage
  have haged : gangOf (agedState u core sch g.id) id = some { x with aging := n } := by
    rw [gangOf_agedState, hx, Option.map_some, hn]
  rw [selectGang_eq]
  cases hc : g.clause with
  | none => exact ⟨_, haged, rfl, hnv⟩
  | some c =>
    dsimp only
    by_cases hw : g.wait = .unit
    · rw [if_pos hw]
      exact ⟨_, haged, rfl, hnv⟩
    · rw [if_neg hw]
      have hgang := gangOf_startIssue (agedState u core sch g.id) g c id
      rw [if_neg hne, haged, Option.map_some] at hgang
      have hsame : SameButYield { x with aging := n } (if sameSched g { x with aging := n } then yieldPast g.id { x with aging := n } else { x with aging := n }) := by
        split
        · exact yieldPast_rest ..
        · exact ⟨_, _, rfl⟩
      generalize (if sameSched g { x with aging := n } then yieldPast g.id { x with aging := n } else { x with aging := n }) = y at hgang hsame
      obtain ⟨a, b, rfl⟩ := hsame
      exact ⟨_, hgang, rfl, hnv⟩

theorem selectGang_rises {u : State} {g y : Gang} {core sch : Nat} (hy : y ∈ eligible u core sch) (hne : y.id ≠ g.id)
    (h : (y.aging + 1) % 256 = 0) : .event .agingClassRise [y.id] ∈ (selectGang u core sch g).agenda := by
  have hmem : .event .agingClassRise [y.id] ∈ (agedState u core sch g.id).agenda := List.mem_append_left _ (mem_rises hy hne h)
  rw [selectGang_eq]
  cases g.clause with
  | none => exact List.mem_cons_of_mem _ hmem
  | some c =>
    dsimp only
    split
    · exact hmem
    · rw [(startIssue_rest (agedState u core sch g.id) g c).2.1]
      exact hmem

theorem stallOf_clause {s : State} {g : Gang} {c : ClauseRun} (hw : g.wait = .none) (hp : g.pending = none) (hc : g.clause = some c) :
    stallOf s g = (instrStall s g c).getD (stallOf.idleOr s g) := by
  unfold stallOf
  simp only [hw, hp, hc, Option.isSome_none, Bool.false_eq_true, if_false]

theorem baseClass_congr {s t : State} (hl : t.launches = s.launches) (ht : t.tasks = s.tasks) (hm : t.module = s.module) {g g' : Gang}
    (hk : g'.task = g.task) (hn : g'.launch = g.launch) : baseClass t g' = baseClass s g := by
  unfold baseClass launchD launchOf taskOf mkHandle dieId
  rw [hl, ht, hm, hk, hn]

/-- Settles O46: eligibility and stalls by their definitions' branches, the selection by what it leaves of the gang selected and of the others. -/
theorem issueSelection : Obligations.IssueSelection := by
  unfold Obligations.IssueSelection
  refine ⟨fun l g h => ⟨foremost_mem l h, foremost_first l h⟩, foremost_none_iff, fun s core sch => ?_, fun s g => ⟨fun c hc hw => ?_, couldIssue_waits,
    fun m h => ?_, fun h => ?_, fun h => ?_, fun st c t h => ?_, fun c hw hp hc => ⟨fun hr => ?_, fun r hr hh => ?_, fun hr hh hu => ?_⟩, fun hw hp hc hf => ?_⟩,
    fun s core sch hf hs hce => ?_⟩
  · intro own
    refine ⟨fun g => ?_, fun g => ?_, fun h => ?_⟩
    · unfold eligible
      rw [mem_giveWay, mem_own]
      refine and_congr Iff.rfl (imp_congr Iff.rfl (forall_congr' fun x => ?_))
      rw [mem_own]
    · simp only [evictionAsked, Bool.or_eq_true]
    · exact if_neg (by simpa using h)
  · rw [couldIssue_clause s g c hc hw]
    have hrd : (!replayDue g) = true ↔ g.compare = none ∧ g.diverges = none := by simp [replayDue]
    simp only [Bool.and_eq_true, instrReady, flagRoom_iff, unitFree_iff, hrd, Option.isNone_iff_eq_none]
    constructor
    · rintro ⟨⟨⟨⟨hsl, hp⟩, hre⟩, hco, hdi⟩, ⟨hroom, hheld⟩, hunit⟩
      exact ⟨hsl, hp, hre, hco, hdi, hheld, fun i hi => ⟨hroom i hi, hunit i hi⟩⟩
    · rintro ⟨hsl, hp, hre, hco, hdi, hheld, h⟩
      exact ⟨⟨⟨⟨hsl, hp⟩, hre⟩, hco, hdi⟩, ⟨fun i hi => (h i hi).1, hheld⟩, fun i hi => (h i hi).2⟩
  · unfold stallOf; rw [h]
  · unfold stallOf; rw [h]
  · unfold stallOf; rw [h]
  · unfold stallOf; rw [h]
  · rw [stallOf_clause hw hp hc, instrStall, if_pos (by simp [hr])]
    rfl
  · rw [stallOf_clause hw hp hc, instrStall, if_neg (by simp [hr]), hh]
    rfl
  · rw [stallOf_clause hw hp hc, instrStall, if_neg (by simp [hr]), hh]
    simp only [hu, Bool.false_eq_true, if_false, Option.getD_some]
  · unfold stallOf
    simp only [hw, hp, hc, hf, Option.isSome_none, Bool.false_eq_true, if_false]
  · intro s0 s1 stall
    have hexec := (exec_issueSelect s).trans (issueSelect_eq hf hs hce)
    have hrest : { s0 with cores := s.cores, idleClk := s.idleClk, time := s.time, agenda := s.agenda, fresh := s.fresh } = s := by
      change { (if sch = 0 then tick s core else s) with
        cores := s.cores, idleClk := s.idleClk, time := s.time, agenda := s.agenda, fresh := s.fresh } = s
      split
      · exact tick_rest s core
      · rfl
    have hmem : s1.mem = s.mem := by
      have := congrArg State.mem hrest
      exact this
    have hiss : s1.issuing = s.issuing := by
      have := congrArg State.issuing hrest
      exact this
    have hgangs : s1.gangs = s.gangs := by
      have := congrArg State.gangs hrest
      exact this
    have hgang : ∀ id, gangOf s1 id = gangOf s id := fun id => by
      unfold gangOf
      rw [hgangs]
    refine ⟨fun h0 => ⟨hgangs, hmem, fun g hg hsl hc => ?_, ?_⟩, countClk_helig s0 core sch, countClk_hstall s0 core sch, fun hnone => ?_, ?_⟩
    · rw [show s0 = tick s core from if_pos h0]
      exact tick_clk hg hsl hc
    · rw [show s0 = tick s core from if_pos h0]
      rfl
    · refine ⟨yieldClk s1 core sch, hexec.trans (by rw [hnone]), hiss, rfl, hmem, fun i => ?_⟩
      rw [gangOf_yieldClk, hgang]
      cases gangOf s i with
      | none => rfl
      | some x =>
        obtain ⟨a, b, hx⟩ := clkYield_rest s1 core sch x
        rw [Option.map_some, hx]
        rfl
    intro u
    refine ⟨?_, fun g hsel hg => ?_⟩
    · intro others
      refine ⟨hmem, fun x hx => ⟨clkYield s1 core sch x, ?_, fun h => ?_, fun hcand hy => ?_⟩⟩
      · rw [gangOf_yieldClk, hx, Option.map_some]
      · unfold clkYield
        split
        next hc =>
          refine noteYield_other (h.resolve_left fun hn => hn (mem_candidates.2 ⟨mem_of_findBy hx, ?_⟩)) _
          simpa [and_assoc] using hc
        · rfl
      · obtain ⟨-, hcore, hslot, hsched⟩ := mem_candidates.1 hcand
        unfold clkYield
        rw [if_pos (by simp [hcore, hslot, hsched])]
        exact noteYield_yielded hy _
    · have hlaunches : s1.launches = s.launches := by
        have := congrArg State.launches hrest
        exact this
      have htasks : s1.tasks = s.tasks := by
        have := congrArg State.tasks hrest
        exact this
      have hmodule : s1.module = s.module := by
        have := congrArg State.module hrest
        exact this
      obtain ⟨ya, yb, hy⟩ := clkYield_rest s1 core sch g
      have hgu : gangOf u g.id = some { g with yielded := ya, yieldFor := yb } := by
        rw [gangOf_yieldClk, hgang, hg, Option.map_some, hy]
      have hbase : baseClass u { g with yielded := ya, yieldFor := yb } = baseClass s g :=
        baseClass_congr (s := s) (t := u) hlaunches htasks hmodule rfl rfl
      rw [hsel] at hexec
      dsimp only at hexec
      rw [show (gangOf (yieldClk (countClk (if sch = 0 then tick s core else s) core sch) core sch) g.id) = some _ from hgu, Option.getD_some] at hexec
      obtain ⟨g', hg', hm, hth, hcl, hi, hstart, hunit, hnone⟩ := selectGang_chosen (u := u) (g := { g with yielded := ya, yieldFor := yb }) hgu core sch
      refine ⟨_, g', hexec, hg', hm.trans hmem, hth, hcl, hi, fun h1 h2 => ?_, hunit, fun h => ?_, fun x hne hx => ?_⟩
      · obtain ⟨h3, h4, h5⟩ := hstart h1 h2
        exact ⟨h3, h4.trans hbase, h5⟩
      · obtain ⟨h1, h2, h3⟩ := hnone h
        exact ⟨h1.trans hiss, h2, h3⟩
      · intro older
        refine ⟨fun y hy hid h => hid ▸ selectGang_rises hy (fun h => hne (hid.symm.trans h)) h, ?_⟩
        obtain ⟨a, b, hxy⟩ := clkYield_rest s1 core sch x
        have hxu : gangOf u x.id = some { x with yielded := a, yieldFor := b } := by
          rw [gangOf_yieldClk, hgang, hx, Option.map_some, hxy]
        obtain ⟨x', hx', hrestx, hage⟩ := selectGang_other (u := u) (g := { g with yielded := ya, yieldFor := yb }) core sch hne _ hxu
        refine ⟨x', hx', ?_, hage⟩
        exact (congrArg (fun z : Gang => { z with yielded := x.yielded, yieldFor := x.yieldFor }) hrestx :)

end Sys2Proof.Machine
end

section

/-!
# The copy unit's events (R209 to R233, R292)
-/

namespace Sys2Proof.Machine

-- One proof at a time: each waiting thread would reserve a stack of its own.
set_option Elab.async false

/-! ### The slots that a copy claims in a ring (R292) -/

/-- The slots of a ring, from its tail round. -/
def tailRound (r : Ring) : List Nat := (List.range r.count).map fun i => (r.head + r.entries.length + i) % max 1 r.count

/-- The slots of a ring that no entry has, from its tail round. -/
def freeRound (r : Ring) : List Nat := (tailRound r).filter fun k => !r.entries.any fun e => e.slot == k

theorem nodup_tailRound (r : Ring) : (tailRound r).Nodup := by
  refine List.Nodup.map_on ?_ List.nodup_range
  intro i hi j hj h
  have hi := List.mem_range.1 hi
  have hj := List.mem_range.1 hj
  rw [max_eq_right (by omega)] at h
  have hmod : i ≡ j [MOD r.count] := Nat.ModEq.add_left_cancel' _ h
  rw [Nat.ModEq, Nat.mod_eq_of_lt hi, Nat.mod_eq_of_lt hj] at hmod
  exact hmod

theorem length_freeRound (r : Ring) : r.free ≤ (freeRound r).length := by
  have hsplit := List.length_eq_length_filter_add (l := tailRound r) fun k => !r.entries.any fun e => e.slot == k
  have hused : ((tailRound r).filter fun k => !!r.entries.any fun e => e.slot == k).length ≤ r.entries.length := by
    rw [← List.length_map (f := REntry.slot) (as := r.entries)]
    refine (List.Nodup.subperm ((nodup_tailRound r).filter _) fun k hk => ?_).length_le
    have := (List.mem_filter.1 hk).2
    rw [Bool.not_not, List.any_eq_true] at this
    obtain ⟨e, he, heq⟩ := this
    exact List.mem_map.2 ⟨e, he, beq_iff_eq.1 heq⟩
  have hlen : (tailRound r).length = r.count := by rw [tailRound, List.length_map, List.length_range]
  unfold freeRound Ring.free
  omega

theorem nextSlots_length {r : Ring} {n : Nat} (h : n ≤ r.free) : (r.nextSlots n).length = n :=
  List.length_take_of_le (h.trans (length_freeRound r))

theorem nextSlots_nodup (r : Ring) (n : Nat) : (r.nextSlots n).Nodup :=
  (((nodup_tailRound r).filter _).sublist (List.take_sublist n _))

theorem nextSlots_free {r : Ring} {n k : Nat} (h : k ∈ r.nextSlots n) : ∀ e ∈ r.entries, e.slot ≠ k := by
  intro e he heq
  have := (List.mem_filter.1 (List.mem_of_mem_take h)).2
  rw [Bool.not_eq_true', List.any_eq_false] at this
  exact this e he (beq_iff_eq.2 heq)

theorem modBlockRing_congr {s : State} {b r : Nat} {ring : Ring} (h : blockRing s b r = some ring) {f g : Ring → Ring} (hfg : f ring = g ring) :
    modBlockRing s b r f = modBlockRing s b r g := by
  unfold blockRing at h
  unfold modBlockRing
  cases hb : blockOf s b with
  | none => rfl
  | some k =>
    rw [hb, Option.bind_some] at h
    dsimp only
    by_cases hc : holdsClaim s k = true
    · rw [if_pos hc] at h ⊢
      rw [if_pos hc]
      unfold modRing
      simp only [h, hfg]
    · rw [if_neg hc] at h ⊢
      rw [if_neg hc, h]
      simp only [hfg]

theorem ringClaim_claims {s : State} {c : Copy} {r : Nat × Nat} {ring : Ring} (hc : copyOf s (s.focus.headD 0) = some c)
    (hr : (claimRanks s c).find? (fun r => r.1 == s.focus.getD 1 c.rank) = some r) (hring : ringRoom s c r = some ring) :
    ∃ slots : List Nat, slots.length = entriesOf c ring ∧ slots.Nodup ∧ (∀ k ∈ slots, ∀ e ∈ ring.entries, e.slot ≠ k) ∧
      execRingClaim s = .next (modCopy (modBlockRing s r.2 c.ringId fun x => { x with entries := x.entries ++ slots.map fun k => { slot := k } }) c.id
        fun x => { x with slots := c.slots ++ [(r.1, slots)], claimed := c.ranks.all fun y => (c.slots ++ [(r.1, slots)]).any fun z => z.1 == y.1 }) := by
  obtain ⟨hb, hle⟩ : blockRing s r.2 c.ringId = some ring ∧ entriesOf c ring ≤ ring.free := by
    unfold ringRoom at hring
    obtain ⟨x, hx, hif⟩ := Option.bind_eq_some_iff.1 hring
    split at hif
    next hle =>
      cases hif
      exact ⟨hx, hle⟩
    · cases hif
  refine ⟨ring.nextSlots (entriesOf c ring), nextSlots_length hle, nextSlots_nodup .., fun k hk => nextSlots_free hk, ?_⟩
  unfold execRingClaim claimRank
  simp only [hc, hr, hring]
  rw [modBlockRing_congr hb (f := fun x => x.claim (entriesOf c ring))
    (g := fun x => { x with entries := x.entries ++ (ring.nextSlots (entriesOf c ring)).map fun k => { slot := k } }) rfl]

/-! ### A unit is delivered (R224 to R227) -/

theorem scatters_of_le {c : Copy} (h : c.ranks.length ≤ 1) : c.scatters = false := by
  unfold Copy.scatters
  rw [decide_eq_false (Nat.not_lt.2 h), Bool.and_false]

/-- What the one element of a unit gives: its pattern in the scratchpad's format, and its flags. -/
def unitRead (t : State) (c : Copy) : ElemAt → Nat × Word
  | .at_ _ pa leaf =>
    let r := copyConvert c.map.fmt (sideFmt c.map c.cvt) (bits c.cvt 4 2) (bit c.cvt 6) (elemPattern t c c.pos pa leaf)
    (r.1 % 2 ^ elemBits (sideFmt c.map c.cvt), r.2)
  | _ => (0, 0)

theorem or_zero_word (x : Word) : x ||| 0 = x := BitVec.or_zero

theorem readUnit_one {s t : State} {c : Copy} {e : ElemAt} (hfmt : c.map.fmt ≠ 12) (hu : unitElems c.map c.cvt = 1)
    (he : elemAt s c c.pos false = (t, e)) (hok : ∀ cause loc col, e ≠ .bad cause loc col) :
    readUnit s c = (t, .ok (unitRead t c e)) := by
  unfold readUnit
  rw [if_neg hfmt, hu, Nat.mul_one]
  unfold readUnitLoop
  rw [he]
  cases e with
  | bad cause loc col => exact absurd rfl (hok cause loc col)
  | nothing => simp only [readUnitLoop, unitRead, Nat.zero_mod, Nat.zero_mul, Nat.add_zero, or_zero_word]
  | at_ ea pa leaf => simp only [readUnitLoop, unitRead, Nat.zero_mul, Nat.add_zero, or_zero_word]

/-- The scratchpad at which a copy of at most one rank delivers. -/
def onePlace (c : Copy) : Place := match c.ranks with
  | [] => .priv c.gang
  | r :: _ => .scratch r.2

theorem deliver_onePlace {c : Copy} (hr : c.ranks.length ≤ 1) (ht : c.toRing = false) (at_ : Nat) (bs : List Byte) (s : State) :
    (copyPlaces c).foldl (deliverTo c at_ bs) s = writeBytes s ⟨onePlace c, 16 * c.dst + at_⟩ bs := by
  unfold copyPlaces onePlace
  cases hc : c.ranks with
  | nil => rfl
  | cons r rs =>
    cases rs with
    | nil => simp [deliverTo, ht]
    | cons r' rs => simp [hc] at hr

/-- A copy in with one more unit delivered, of n bytes with the value x. -/
def unitDelivered (t : State) (c : Copy) (n x : Nat) (fl : Word) : State :=
  advanceCopy (setCwp (lowerAll (writeBytes t ⟨onePlace c, 16 * c.dst + c.pos * n⟩ (leOf n x)) c n) c (c.pos * n + n))
    { c with pos := c.pos + 1, aflags := c.aflags ||| fl }

theorem moveUnit_in {s t : State} {c : Copy} {e : ElemAt} (hk : c.kind ≠ .out) (hr : c.ranks.length ≤ 1) (ht : c.toRing = false)
    (hf : c.fault = none) (hfmt : c.map.fmt ≠ 12) (hu : unitElems c.map c.cvt = 1)
    (hcut : cutOff t c (c.pos * unitBytes c.map c.cvt) (unitBytes c.map c.cvt) = none)
    (hclash : spaceClash t c (c.pos * unitBytes c.map c.cvt) (unitBytes c.map c.cvt) = none) (he : elemAt s c c.pos false = (t, e))
    (hok : ∀ cause loc col, e ≠ .bad cause loc col) :
    moveUnit s c = (unitDelivered t c (unitBytes c.map c.cvt) (unitRead t c e).1 (unitRead t c e).2, none) := by
  unfold moveUnit
  rw [scatters_of_le hr, if_neg Bool.false_ne_true, if_pos (bne_iff_ne.2 hk)]
  unfold deliverIn fetchUnit unitDelivered
  simp only [hf, readUnit_one hfmt hu he hok, hcut, hclash, deliver_onePlace hr ht]

theorem scatters_out {c : Copy} (h : c.kind = .out) : c.scatters = false := by
  unfold Copy.scatters
  rw [h]
  rfl

theorem moveUnit_takes {s : State} {c : Copy} (hk : c.kind = .out) (hb : c.buf = []) (hf : sourceFault s c = none) :
    moveUnit s c = (modCopy s c.id fun x => { x with
      taken := c.taken + 1,
      buf := [readBytes s (sourceLoc c (c.taken * unitBytes c.map c.cvt)) (unitBytes c.map c.cvt)] }, none) := by
  unfold moveUnit
  rw [scatters_out hk, if_neg Bool.false_ne_true, if_neg (by simp [hk]), if_pos (by simp [hb])]
  unfold takeOut
  simp only [hf, hb, List.nil_append]

theorem moveUnit_performs {s t : State} {c : Copy} {bs : List Byte} {rest : List (List Byte)} {ea : Dbl} {pa : Nat} {leaf : Dbl} (hk : c.kind = .out)
    (hu : unitElems c.map c.cvt = 1) (hb : c.buf = bs :: rest) (htk : c.taken = c.units) (he : elemAt s c c.pos true = (t, .at_ ea pa leaf)) :
    let side := sideFmt c.map c.cvt
    let r := copyConvert side c.map.fmt (bits c.cvt 4 2) (bit c.cvt 6) (natOf bs % 2 ^ elemBits side)
    let c' := { c with pos := c.pos + 1, buf := rest, aflags := c.aflags ||| r.2 }
    let u := lowerAll (modCopy (writeElem c t c.pos ea pa r.1) c.id fun _ => c') c bs.length
    moveUnit s c = (if c.pos + 1 = c.units then removeCopy u c' else u, none) := by
  intro side r c' u
  have hbits : bits (natOf bs) (elemBits side * 0) (elemBits side) = natOf bs % 2 ^ elemBits side := by
    rw [bits, Nat.mul_zero, Nat.pow_zero, Nat.div_one]
  unfold moveUnit
  rw [scatters_out hk, if_neg Bool.false_ne_true, if_neg (by simp [hk]), if_neg (by simp [hb]), if_pos (by simp [htk])]
  have hplace : placeUnit c 1 (c.pos * 1) s = (t, .ok [some (ea, pa)]) := by
    unfold placeUnit
    rw [Nat.mul_one, he]
    rfl
  have hwrite : writeUnit c (natOf bs) [some (ea, pa)] 0 (c.pos * 1) t 0 = (writeElem c t c.pos ea pa r.1, r.2) := by
    simp only [writeUnit, Nat.mul_one, r, side, ← hbits]
    exact congrArg (Prod.mk _) BitVec.zero_or
  have hperform : performOut s c = match bs :: rest with
      | [] => (s, none)
      | bs :: rest => match placeUnit c (unitElems c.map c.cvt) (c.pos * unitElems c.map c.cvt) s with
        | (s1, .error e) => (s1, some e)
        | (s1, .ok ps) =>
          let w := writeUnit c (natOf bs) ps 0 (c.pos * unitElems c.map c.cvt) s1 0
          let c' := { c with pos := c.pos + 1, buf := rest, aflags := c.aflags ||| w.2 }
          (if c'.pos = c.units then removeCopy (lowerAll (modCopy w.1 c.id fun _ => c') c bs.length) c'
            else lowerAll (modCopy w.1 c.id fun _ => c') c bs.length, none) := by
    rw [← hb]
    rfl
  rw [hperform]
  dsimp only
  rw [hu, hplace]
  dsimp only
  rw [hwrite]

/-! ### A line arrives in its slice (R229) -/

theorem mem_dropLine {s : State} {x line : Nat} : x ∈ (dropLine s line).lines ↔ x ∈ s.lines ∧ x ≠ line := by
  change x ∈ s.lines.filter (· != line) ↔ _
  rw [List.mem_filter, bne_iff_ne]

/-- No line has come, and memory and the copies are as they were. -/
structure Thinned (s t : State) : Prop where
  lines : ∀ x ∈ t.lines, x ∈ s.lines
  mem : t.mem = s.mem
  copies : t.copies = s.copies

theorem Thinned.trans {s t u : State} (h : Thinned s t) (k : Thinned t u) : Thinned s u :=
  ⟨fun x hx => h.lines x (k.lines x hx), k.mem.trans h.mem, k.copies.trans h.copies⟩

theorem thinned_dropLine (s : State) (line : Nat) : Thinned s (dropLine s line) := ⟨fun _ hx => (mem_dropLine.1 hx).1, rfl, rfl⟩

theorem sliceMates_dropLine (s : State) (x line : Nat) : sliceMates (dropLine s x) line = (sliceMates s line).filter (· != x) := by
  change (s.lines.filter (· != x)).filter _ = (s.lines.filter _).filter _
  rw [List.filter_filter, List.filter_filter]
  exact List.filter_congr fun y _ => Bool.and_comm ..

theorem sliceMates_dropLine_lt {s : State} {x line : Nat} (h : x ∈ sliceMates s line) :
    (sliceMates (dropLine s x) line).length < (sliceMates s line).length := by
  rw [sliceMates_dropLine]
  exact List.length_filter_lt_length_iff_exists.2 ⟨x, h, by simp⟩

theorem sliceLines_pos (die : Nat) : 0 < sliceLines die := by
  unfold sliceLines
  split <;> decide

theorem pick_lines (s : State) (n : Nat) : (pick s n).2.lines = s.lines := by
  unfold pick
  split <;> rfl

theorem thinned_pick (s : State) (n : Nat) : Thinned s (pick s n).2 := by
  unfold pick
  split <;> exact ⟨fun _ h => h, rfl, rfl⟩

theorem sliceMates_pick (s : State) (n line : Nat) : sliceMates (pick s n).2 line = sliceMates s line := by
  unfold sliceMates
  rw [pick_lines]

/-- The lines of its slice beside a line, with the line itself where it is present. -/
def sliceHeld (s : State) (line : Nat) : Nat := (sliceMates s line).length + if line ∈ s.lines then 1 else 0

theorem sliceHeld_dropLine_le {s : State} {x line : Nat} (h : x ∈ sliceMates s line) : sliceHeld (dropLine s x) line ≤ sliceHeld s line := by
  have hlt := sliceMates_dropLine_lt h
  unfold sliceHeld
  split
  next hl =>
    rw [if_pos (mem_dropLine.1 hl).1]
    omega
  · omega

theorem sliceHeld_pick (s : State) (n line : Nat) : sliceHeld (pick s n).2 line = sliceHeld s line := by
  unfold sliceHeld
  rw [sliceMates_pick, pick_lines]

/-- What stands in the slice before the line is put there. -/
theorem touchLine_eq (s : State) (line : Nat) : ∃ t, Thinned s t ∧ touchLine s line = { t with lines := line :: t.lines.filter (· != line) } ∧
    (sliceHeld s line ≤ sliceLines (128 * line / 2 ^ 46) → (sliceMates t line).length + 1 ≤ sliceLines (128 * line / 2 ^ 46)) := by
  unfold touchLine
  by_cases h : (s.lines.contains line || decide ((sliceMates s line).length < sliceLines (128 * line / 2 ^ 46))) = true
  · rw [if_pos h]
    refine ⟨s, ⟨fun _ h => h, rfl, rfl⟩, rfl, fun hle => ?_⟩
    rw [Bool.or_eq_true, List.contains_iff_mem, decide_eq_true_eq] at h
    unfold sliceHeld at hle
    obtain h | h := h
    · rwa [if_pos h] at hle
    · exact h
  · rw [if_neg h]
    rw [Bool.or_eq_true, decide_eq_true_eq, not_or, not_lt] at h
    have hpos := (sliceLines_pos (128 * line / 2 ^ 46)).trans_le h.2
    have hlt : (pick s (sliceMates s line).length).1 < (sliceMates s line).length := pick_lt (Nat.ne_of_gt hpos)
    have hpick : pickFrom s (sliceMates s line) =
        (some (sliceMates s line)[(pick s (sliceMates s line).length).1], (pick s (sliceMates s line).length).2) := by
      unfold pickFrom
      rw [List.getElem?_eq_getElem hlt]
    rw [hpick]
    refine ⟨_, (thinned_pick ..).trans (thinned_dropLine ..), rfl, fun hle => ?_⟩
    have hdrop := sliceMates_dropLine_lt (s := (pick s (sliceMates s line).length).2) (line := line)
      (x := (sliceMates s line)[(pick s (sliceMates s line).length).1]) (by rw [sliceMates_pick]; exact List.getElem_mem hlt)
    rw [sliceMates_pick] at hdrop
    unfold sliceHeld at hle
    omega

theorem sliceMates_cons (t : State) (line : Nat) : sliceMates { t with lines := line :: t.lines.filter (· != line) } line = sliceMates t line := by
  change (line :: t.lines.filter (· != line)).filter _ = t.lines.filter _
  rw [List.filter_cons_of_neg (by simp), List.filter_filter]
  exact List.filter_congr fun y _ => by cases y != line <;> simp

theorem l2Fill_fills (s : State) : let line := s.focus.headD 0
    ∃ t, execL2Fill s = .next t ∧ line ∈ t.lines ∧ t.mem = s.mem ∧ t.copies = s.copies ∧ (∀ x ∈ t.lines, x = line ∨ x ∈ s.lines) ∧
      (sliceHeld s line ≤ sliceLines (128 * line / 2 ^ 46) → (sliceMates t line).length + 1 ≤ sliceLines (128 * line / 2 ^ 46)) := by
  intro line
  obtain ⟨s2, hthin, hheld, hexec⟩ : ∃ s2, Thinned s s2 ∧ sliceHeld s2 line ≤ sliceHeld s line ∧ execL2Fill s = .next (touchLine s2 line) := by
    unfold execL2Fill
    cases hx : (sliceMates s line)[(pick s ((sliceMates s line).length + 1)).1]? with
    | none =>
      refine ⟨_, thinned_pick s ((sliceMates s line).length + 1), (sliceHeld_pick ..).le, ?_⟩
      simp only [show s.focus.headD 0 = line from rfl, hx]
    | some x =>
      refine ⟨_, (thinned_pick s ((sliceMates s line).length + 1)).trans (thinned_dropLine _ x), ?_, ?_⟩
      · rw [← sliceHeld_pick s ((sliceMates s line).length + 1)]
        exact sliceHeld_dropLine_le (by rw [sliceMates_pick]; exact List.mem_of_getElem? hx)
      · simp only [show s.focus.headD 0 = line from rfl, hx]
  obtain ⟨t, ht, htouch, hroom⟩ := touchLine_eq s2 line
  obtain ⟨hlines, hmem, hcopies⟩ := hthin.trans ht
  refine ⟨_, hexec.trans (congrArg _ htouch), List.mem_cons_self, hmem, hcopies, fun x hx => ?_, fun hle => ?_⟩
  · obtain rfl | hx := List.mem_cons.1 hx
    · exact .inl rfl
    · exact .inr (hlines x (List.mem_filter.1 hx).1)
  · rw [sliceMates_cons]
    exact hroom (hheld.trans hle)

/-- Settles O48: each event of the copy unit by its own lemma. -/
theorem copyEventsHold : Obligations.CopyEvents := by
  unfold Obligations.CopyEvents
  intro s
  refine ⟨fun c cs hcs hq => ?_, fun c r ring hc hr hring => ?_, fun c hc hm ht => ⟨fun t hmv => ?_, fun t f hmv => ?_⟩,
    fun c hk hr ht hf hfmt hu => ?_, fun c hk hu => ⟨fun hb hf => moveUnit_takes hk hb hf, fun bs rest ea pa leaf t hb htk he =>
      moveUnit_performs hk hu hb htk he⟩, fun c hc hk ha => ?_, ?_⟩
  · refine (exec_copyChannelStart s).trans ?_
    unfold execCopyChannelStart
    simp only [hcs, hq, if_true]
  · obtain ⟨slots, h1, h2, h3, h4⟩ := ringClaim_claims hc hr hring
    exact ⟨slots, h1, h2, h3, (exec_ringClaim s).trans h4⟩
  · refine (exec_copyDelivery s).trans ?_
    unfold execCopyDelivery
    simp only [hc, hm, ht, hmv, Bool.not_true, Bool.or_self, Bool.false_eq_true, if_false]
  · refine (exec_copyDelivery s).trans ?_
    unfold execCopyDelivery
    simp only [hc, hm, ht, hmv, Bool.not_true, Bool.or_self, Bool.false_eq_true, if_false]
  · intro n place done t hcut hclash
    have hplace : place = onePlace c := by
      change (match c.ranks with | [] => Place.priv c.gang | r :: _ => .scratch r.2) = onePlace c
      unfold onePlace
      cases c.ranks <;> rfl
    have hdone : ∀ x fl, done t x fl = (unitDelivered t c n x fl, none) := fun x fl => by
      unfold unitDelivered
      rw [← hplace]
    refine ⟨fun he => ?_, fun ea pa leaf he => ?_⟩
    · rw [hdone, moveUnit_in hk hr ht hf hfmt hu hcut hclash he nofun]
      rfl
    · intro side r
      rw [hdone, moveUnit_in hk hr ht hf hfmt hu hcut hclash he nofun]
      rfl
  · intro i
    have hexec : exec .prefetchLinePresent s = match c.fault, lineAccess s c i with
        | some f, _ => .next (sweepClusters (copyFault s c f))
        | none, (s1, .bad cause loc col) => .next (sweepClusters (copyFault s1 c (cause, loc, col)))
        | none, (s1, .ok pa _) => if !(linkOpen s1 pa channelRequest && linkOpen s1 pa channelResponse) then .next s
          else .next (sweepClusters (countLine (touchLine s1 (pa / 128)) c i)) := by
      refine (exec_prefetchLinePresent s).trans ?_
      unfold execPrefetchLinePresent
      rw [hc]
      exact (if_neg (by simp [hk, ha])).trans rfl
    refine ⟨fun f hf => ?_, fun t cause loc col hf hl => ?_, fun t pa leaf hf hl h1 h2 => ?_⟩
    · rw [hexec, hf]
    · rw [hexec, hf, hl]
    · rw [hf, hl] at hexec
      exact hexec.trans ((if_neg (by simp [h1, h2])).trans rfl)
  · intro line
    obtain ⟨t, h1, h⟩ := l2Fill_fills s
    exact ⟨t, (exec_l2Fill s).trans h1, h⟩

end Sys2Proof.Machine
end

section

/-!
# The engine's events (R275 to R300)
-/

namespace Sys2Proof.Machine

-- One proof at a time: each waiting thread would reserve a stack of its own.
set_option Elab.async false

/-! ### Zeroed accumulator cells (R275, R297) -/

theorem fget_filter_key {α : Type} (p : Nat → Bool) (k : Nat) : ∀ m : FMap α, fget (m.filter fun x => p x.1) k = if p k then fget m k else none
  | [] => by simp [fget]
  | (k', v) :: t => by
    rw [List.filter_cons]
    by_cases hp : p k' = true
    · rw [if_pos hp, fget, fget, fget_filter_key p k t]
      by_cases hk : k = k'
      · simp [hk, hp]
      · simp [hk]
    · rw [if_neg hp, fget_filter_key p k t, fget]
      by_cases hk : k = k'
      · simp [hk, hp]
      · simp [hk]

theorem fgetD_zeroCells (acc : FMap Word) (first n k : Nat) :
    fgetD (zeroCells acc first n) k 0 = if first ≤ k ∧ k < first + n then 0 else fgetD acc k 0 := by
  have h := fget_filter_key (fun i => decide (i < first) || decide (first + n ≤ i)) k acc
  unfold fgetD zeroCells
  rw [h]
  by_cases hk : first ≤ k ∧ k < first + n
  · rw [if_pos hk, if_neg (by simp only [Bool.or_eq_true, decide_eq_true_eq]; omega)]
    rfl
  · rw [if_neg hk, if_pos (by simp only [Bool.or_eq_true, decide_eq_true_eq]; omega)]

theorem engineOf_modEngine (s : State) (core : Nat) (f : Engine → Engine) : engineOf (modEngine s core f) core = f (engineOf s core) := by
  unfold engineOf modEngine
  rw [coreOf_modCore, if_pos rfl]

theorem engineOf_clearPoison (s : State) (core store : Nat) (gs : List Nat) : engineOf (clearPoison s core store gs) core =
    { engineOf s core with poison := (engineOf s core).poison.filter fun x => !(x.1 == store && gs.contains x.2) } :=
  engineOf_modEngine s core fun e => { e with poison := e.poison.filter fun x => !(x.1 == store && gs.contains x.2) }

theorem fgetD_zeroTiles (core k : Nat) : ∀ (tiles : List Nat) (s : State), fgetD (engineOf (zeroTiles s core tiles) core).acc k 0 =
    if k / 4096 ∈ tiles then 0 else fgetD (engineOf s core).acc k 0
  | [], s => by simp [zeroTiles]
  | i :: is, s => by
    have h := fgetD_zeroTiles core k is (clearPoison (modEngine s core fun e => { e with acc := zeroCells e.acc (i * tileCells) tileCells })
      core 0 (cellGranules (i * tileCells) tileCells))
    refine h.trans ?_
    rw [engineOf_clearPoison, engineOf_modEngine]
    by_cases hk : k / 4096 ∈ is
    · rw [if_pos hk, if_pos (List.mem_cons_of_mem _ hk)]
    · rw [if_neg hk]
      refine (fgetD_zeroCells ..).trans ?_
      unfold tileCells
      by_cases hi : k / 4096 = i
      · rw [if_pos (by omega), if_pos (by simp [hi])]
      · rw [if_neg (by omega), if_neg (by simp [hi, hk])]

/-! ### A K-chunk folded into the cells (R275 to R279) -/

/-- One cell's fold of one K-block. -/
def foldBlock (x : MmaArgs) (scale : Memory) (i j : Nat) (a b : Side) (kb : Nat) (acc : Word) : Word :=
  (if x.fp then foldFp acc a b (scaleCode scale x.scale x.ascale x.m i kb) (scaleCode scale x.scale x.bscale x.n j kb) else foldInt acc a b).1

theorem foldCell_blocks (x : MmaArgs) (scale : Memory) (i j kb : Nat) (A B : Nat → Side) : ∀ (n s : Nat) (acc : Word),
    (foldCell x scale i j ((List.range' s n).map A) ((List.range' s n).map B) (kb + s) acc).1 =
      (List.range' s n).foldl (fun acc b => foldBlock x scale i j (A b) (B b) (kb + b) acc) acc
  | 0, _, _ => rfl
  | n + 1, s, acc => foldCell_blocks x scale i j kb A B n (s + 1) (foldBlock x scale i j (A s) (B s) (kb + s) acc)

theorem foldCells_cell (x : MmaArgs) (scale : Memory) (as bs : List (List Side)) (kb k : Nat) : ∀ (ns : List Nat) (acc : FMap Word), ns.Nodup →
    (∀ n ∈ ns, k = x.tile * tileCells + n → fgetD (foldCells x scale as bs kb ns acc).1 k 0 =
      (foldCell x scale (n / x.n) (n % x.n) (as.getD (n / x.n) []) (bs.getD (n % x.n) []) kb (fgetD acc k 0)).1) ∧
    ((∀ n ∈ ns, k ≠ x.tile * tileCells + n) → fgetD (foldCells x scale as bs kb ns acc).1 k 0 = fgetD acc k 0)
  | [], acc, _ => ⟨fun n hn => absurd hn List.not_mem_nil, fun _ => rfl⟩
  | n :: ns, acc, hnd => by
    obtain ⟨hn, hns⟩ := List.nodup_cons.1 hnd
    obtain ⟨h1, h2⟩ := foldCells_cell x scale as bs kb k ns (fset acc (x.tile * tileCells + n)
      (foldCell x scale (n / x.n) (n % x.n) (as.getD (n / x.n) []) (bs.getD (n % x.n) []) kb (fgetD acc (x.tile * tileCells + n) 0)).1 0) hns
    refine ⟨fun m hm hk => ?_, fun h => ?_⟩
    · obtain rfl | hm := List.mem_cons.1 hm
      · refine (h2 fun m' hm' hk' => hn ?_).trans ?_
        · rwa [show m = m' by omega]
        · rw [fgetD_fset, if_pos hk, ← hk]
      · refine (h1 m hm hk).trans ?_
        rw [fgetD_fset, if_neg]
        rintro hk'
        exact hn (by rwa [show n = m by omega])
    · refine (h2 fun m hm => h m (List.mem_cons_of_mem _ hm)).trans ?_
      rw [fgetD_fset, if_neg (h n List.mem_cons_self)]

/-- The operands of a K-block from ring entries: of A, and of B. -/
def sideOf (e : Engine) (x : MmaArgs) (fmt : Nat) (bs : List Byte) (n b : Nat) : Side :=
  entrySide (fun l => fgetD e.lattice l 0) fmt (((mmaClass x.afmt).map fun k => k.1).getD 8) x.kc bs n b

theorem foldChunk_acc {x : MmaArgs} (ht : x.tileA = none) (e : Engine) (free : Nat → Nat) (chunk : Nat) (data : List Byte) :
    (foldChunk x e free chunk data).1 = (foldCells x e.scale
      ((List.range x.m).map fun i => (List.range (x.kc / 32)).map (sideOf e x x.afmt (data.take (x.m * x.kc * elemBits x.afmt / 8)) i))
      ((List.range x.n).map fun j => (List.range (x.kc / 32)).map (sideOf e x x.bfmt (data.drop (x.m * x.kc * elemBits x.afmt / 8)) j))
      (chunk * (x.kc / 32)) (List.range (x.m * x.n)) e.acc).1 := by
  unfold foldChunk
  simp only [ht]
  rfl

theorem foldChunk_other {x : MmaArgs} (ht : x.tileA = none) (e : Engine) (free : Nat → Nat) (chunk : Nat) (data : List Byte) {k : Nat}
    (hk : k < 4096 * x.tile ∨ 4096 * x.tile + x.m * x.n ≤ k) : fgetD (foldChunk x e free chunk data).1 k 0 = fgetD e.acc k 0 := by
  rw [foldChunk_acc ht]
  refine (foldCells_cell x e.scale _ _ _ k _ e.acc List.nodup_range).2 fun n hn => ?_
  have := List.mem_range.1 hn
  unfold tileCells
  omega

theorem foldChunk_cell {x : MmaArgs} (ht : x.tileA = none) (e : Engine) (free : Nat → Nat) (chunk : Nat) (data : List Byte) {i j : Nat}
    (hi : i < x.m) (hj : j < x.n) : fgetD (foldChunk x e free chunk data).1 (4096 * x.tile + i * x.n + j) 0 =
      (List.range (x.kc / 32)).foldl (fun acc b => foldBlock x e.scale i j
        (sideOf e x x.afmt (data.take (x.m * x.kc * elemBits x.afmt / 8)) i b) (sideOf e x x.bfmt (data.drop (x.m * x.kc * elemBits x.afmt / 8)) j b)
        (chunk * (x.kc / 32) + b) acc) (fgetD e.acc (4096 * x.tile + i * x.n + j) 0) := by
  have hdiv : (i * x.n + j) / x.n = i := by
    rw [Nat.mul_comm, Nat.mul_add_div (by omega), Nat.div_eq_of_lt hj, Nat.add_zero]
  have hmod : (i * x.n + j) % x.n = j := by rw [Nat.mul_comm, Nat.mul_add_mod, Nat.mod_eq_of_lt hj]
  have hlt : i * x.n + j < x.m * x.n := by nlinarith
  rw [foldChunk_acc ht]
  refine ((foldCells_cell x e.scale _ _ _ _ _ e.acc List.nodup_range).1 (i * x.n + j) (List.mem_range.2 hlt)
    (by unfold tileCells; omega)).trans ?_
  rw [hdiv, hmod, List.getD_eq_getElem?_getD, List.getD_eq_getElem?_getD, List.getElem?_map, List.getElem?_map, List.getElem?_range hi,
    List.getElem?_range hj, Option.map_some, Option.map_some, Option.getD_some, Option.getD_some, List.range_eq_range']
  exact foldCell_blocks x e.scale i j (chunk * (x.kc / 32)) _ _ (x.kc / 32) 0 _

/-- A sum over K, block by block. -/
theorem sum_blocks (f : Nat → Int) : ∀ n, ((List.range n).map fun b => ((List.range 32).map fun l => f (32 * b + l)).sum).sum =
    ((List.range (32 * n)).map f).sum
  | 0 => rfl
  | n + 1 => by
    rw [List.range_succ (n := n), List.map_append, List.sum_append, sum_blocks f n, Nat.mul_succ, List.range_add, List.map_append, List.sum_append,
      List.map_map]
    simp [Function.comp_def]

theorem ofInt_toInt_add (acc : Word) (a b : Int) : BitVec.ofInt 32 ((BitVec.ofInt 32 (acc.toInt + a)).toInt + b) = BitVec.ofInt 32 (acc.toInt + (a + b)) := by
  rw [BitVec.ofInt_add, BitVec.ofInt_toInt, ← BitVec.ofInt_add, Int.add_assoc]

theorem foldInt_foldl (A B : Nat → Side) (acc : Word) : ∀ n : Nat,
    (List.range n).foldl (fun acc b => (foldInt acc (A b) (B b)).1) acc =
      BitVec.ofInt 32 (acc.toInt + ((List.range n).map fun b => blockSum (A b) (B b)).sum)
  | 0 => by simp
  | n + 1 => by
    rw [List.range_succ, List.foldl_append, foldInt_foldl A B acc n, List.map_append, List.sum_append]
    simp only [List.foldl_cons, List.foldl_nil, List.map_cons, List.map_nil, List.sum_cons, List.sum_nil, Int.add_zero]
    exact ofInt_toInt_add acc _ _

theorem floatFmt_int {fmt : Nat} (h : fmt < 4) : floatFmt fmt = none := by
  interval_cases fmt <;> rfl

theorem sideOf_int {e : Engine} {x : MmaArgs} {fmt : Nat} (h : fmt < 4) (bs : List Byte) (n b : Nat) :
    (sideOf e x fmt bs n b).q = (List.range 32).map fun l => elemInt fmt (elemOf bs fmt (n * x.kc + (32 * b + l))) := by
  unfold sideOf entrySide plainSide
  rw [if_neg (by omega), floatFmt_int h]
  simp [Nat.add_assoc, Function.comp_def]

theorem foldChunk_int {x : MmaArgs} (ht : x.tileA = none) (hfp : x.fp = false) (ha : x.afmt < 4) (hb : x.bfmt < 4) (hkc : x.kc % 32 = 0) (e : Engine)
    (free : Nat → Nat) (chunk : Nat) (data : List Byte) {i j : Nat} (hi : i < x.m) (hj : j < x.n) :
    fgetD (foldChunk x e free chunk data).1 (4096 * x.tile + i * x.n + j) 0 = BitVec.ofInt 32 ((fgetD e.acc (4096 * x.tile + i * x.n + j) 0).toInt +
      ((List.range x.kc).map fun l => elemInt x.afmt (elemOf (data.take (x.m * x.kc * elemBits x.afmt / 8)) x.afmt (i * x.kc + l)) *
        elemInt x.bfmt (elemOf (data.drop (x.m * x.kc * elemBits x.afmt / 8)) x.bfmt (j * x.kc + l))).sum) := by
  rw [foldChunk_cell ht e free chunk data hi hj]
  unfold foldBlock
  simp only [hfp, Bool.false_eq_true, if_false]
  rw [foldInt_foldl]
  have hsum := sum_blocks (fun l => elemInt x.afmt (elemOf (data.take (x.m * x.kc * elemBits x.afmt / 8)) x.afmt (i * x.kc + l)) *
    elemInt x.bfmt (elemOf (data.drop (x.m * x.kc * elemBits x.afmt / 8)) x.bfmt (j * x.kc + l))) (x.kc / 32)
  rw [show 32 * (x.kc / 32) = x.kc by omega] at hsum
  rw [← hsum]
  unfold blockSum
  simp only [sideOf_int ha, sideOf_int hb, List.zipWith_map, List.zipWith_self]

/-! ### The drain of a tile (R296, R297) -/

theorem startDrain_poison {s : State} {core : Nat} {c : EngCmd} {x : DrainArgs}
    (h : storePoisoned (engineOf s core) 0 (cellGranules (4096 * x.tile) (x.rows * x.cols)) = true) : startDrain s core c x = cmdError s core c := by
  unfold startDrain
  rw [Nat.mul_comm] at h
  exact if_pos h

/-- The elements that a drain writes, with their flags. -/
def drained (x : DrainArgs) (acc : FMap Word) : List (Nat × Word) :=
  (List.range (x.rows * x.cols)).map fun k => drainElem x (fgetD acc (4096 * x.tile + k) 0)

/-- The engine whose drained cells are zero, where the drain asks for it. -/
def drainZeroed (x : DrainArgs) (t : State) (core : Nat) : State :=
  if bit x.mode 4 then modEngine t core fun e => { e with acc := zeroCells e.acc (x.tile * tileCells) (x.rows * x.cols) } else t

/-- A command whose drain has acted, with its flags. -/
def drainActed (f : Word) (y : EngCmd) : EngCmd := { y with started := true, acted := true, aflags := f }

theorem startDrain_plain {s : State} {core : Nat} {c : EngCmd} {x : DrainArgs}
    (h : storePoisoned (engineOf s core) 0 (cellGranules (4096 * x.tile) (x.rows * x.cols)) = false) (hr : x.ring = none) (hm : x.mx = false) :
    startDrain s core c x = modCmdOf (drainZeroed x (drainWrite s c.block x.dst
      (packBytes (elemBits x.fmt) ((drained x (engineOf s core).acc).map Prod.fst))) core) core c.id
        (drainActed (((drained x (engineOf s core).acc).map Prod.snd).foldl (· ||| ·) 0)) := by
  rw [Nat.mul_comm] at h
  unfold startDrain drainOut
  refine (if_neg (Bool.eq_false_iff.1 h)).trans ?_
  simp only [hr, hm, Bool.false_eq_true, if_false, Bool.not_false, if_true]
  unfold drained drainZeroed tileCells
  rw [Nat.mul_comm x.tile 4096]
  rfl

theorem engineOf_drainWrite (s : State) (block dst core : Nat) (bs : List Byte) : engineOf (drainWrite s block dst bs) core = engineOf s core := rfl

theorem cmdOf_modCmdOf {s : State} {core : Nat} {c : EngCmd} (h : cmdOf s core c.id = some c) {f : EngCmd → EngCmd} (hf : ∀ y, (f y).id = y.id) :
    cmdOf (modCmdOf s core c.id f) core c.id = some (f c) := by
  unfold cmdOf modCmdOf at *
  rw [engineOf_modEngine]
  exact (findBy_modBy_same (key := EngCmd.id) (fun y hy => (hf y).trans hy) _).trans (by rw [h]; rfl)

theorem engineOf_drainZeroed (x : DrainArgs) (t : State) (core : Nat) : engineOf (drainZeroed x t core) core =
    { engineOf t core with
      acc := if bit x.mode 4 then zeroCells (engineOf t core).acc (x.tile * tileCells) (x.rows * x.cols) else (engineOf t core).acc } := by
  unfold drainZeroed
  split
  · rw [engineOf_modEngine]
  · rfl

theorem packBytes_wide {w : Nat} (hw : w ≠ 4) (xs : List Nat) : packBytes w xs = xs.flatMap fun x => leOf (w / 8) x := if_neg hw

theorem length_flatMap_leOf (n : Nat) : ∀ xs : List Nat, (xs.flatMap fun x => leOf n x).length = xs.length * n
  | [] => by simp
  | x :: xs => by
    rw [List.flatMap_cons, List.length_append, leOf_length, length_flatMap_leOf n xs, List.length_cons]
    ring

theorem rdBytes_eq {m : FMap Byte} : ∀ {bs : List Byte} {a : Nat}, (∀ i < bs.length, rdByte m (a + i) = bs.getD i 0) → rdBytes m a bs.length = bs
  | [], _, _ => rfl
  | b :: bs, a, h => by
    rw [List.length_cons, rdBytes, rdBytes_eq (bs := bs) fun i hi => by
      rw [Nat.add_assoc, Nat.add_comm 1 i]
      exact h (i + 1) (Nat.succ_lt_succ hi)]
    exact congrArg (· :: bs) (h 0 (Nat.succ_pos _))

theorem readBytes_writeBytes {s : State} {l : Loc} (h : HasPlace s l.place) (bs : List Byte) : readBytes (writeBytes s l bs) l bs.length = bs := by
  refine rdBytes_eq fun i hi => ?_
  have := readByte_writeBytes s l ⟨l.place, l.off + i⟩ bs h
  rw [if_pos ⟨rfl, Nat.le_add_right _ _, Nat.add_lt_add_left hi _⟩, Nat.add_sub_cancel_left] at this
  exact this

theorem spaceOf_scratch {s : State} {block : Nat} {b : Block} (h : blockOf s block = some b) : spaceOf s (.scratch block) = b.pad :=
  (congrArg (fun o : Option Block => (o.map Block.pad).getD {}) h :)

theorem drainWrite_whole {s : State} {b : Block} {block dst : Nat} {bs : List Byte} (hb : blockOf s block = some b)
    (h : dst + bs.length ≤ b.pad.size) : drainWrite s block dst bs = writeBytes s ⟨.scratch block, dst⟩ bs := by
  unfold drainWrite
  rw [spaceOf_scratch hb]
  exact congrArg _ (List.take_of_length_le (Nat.le_sub_of_add_le (Nat.add_comm dst _ ▸ h)))

/-! ### A command completes (R288, R299, R401, R402) -/

/-- The state in which a command's flags have joined its thread's. -/
def flagsJoined (t : State) (c : EngCmd) : State :=
  modGang t c.gang fun g => if inMask g.live c.lane then modThread g c.lane fun y => { y with aflags := y.aflags ||| c.aflags } else g

theorem completeCmd_eq (t : State) (core : Nat) (c : EngCmd) (bar : Option Nat) : completeCmd t core c bar =
    sweepClusters (dropCmd (match bar with | some off => engineArrive (flagsJoined t c) core c off | none => flagsJoined t c) core c.id) := rfl

theorem translates_deviceXlat (s : State) (d ctx va : Nat) (w : Bool) : Translates s (deviceXlat s d ctx va w).1 := by
  have h := translates_translate s (.unit d) ctx va
  unfold deviceXlat
  split
  next hx => rwa [hx] at h
  next hx =>
    rw [hx] at h
    split <;> split <;> exact h

theorem translates_globalWrite (s : State) (q : Asker) (ctx va pa : Nat) (bs : List Byte) : Translates s (globalWrite s q ctx va pa bs) := by
  refine (translates_writeBytes_phys s pa bs).trans ?_
  unfold globalWrite markDirty
  split
  · split
    · exact .refl _
    · exact translates_tlb _ _
  · split
    · split
      · exact translates_writeBytes_phys ..
      · exact .refl _
    · exact .refl _

theorem translates_deviceWriteLoop (d ctx : Nat) : ∀ (fuel va : Nat) (bs : List Byte) (s : State), Translates s (deviceWriteLoop d ctx fuel va bs s).1
  | 0, _, _, _ => .refl _
  | fuel + 1, va, bs, s => by
    have h := translates_deviceXlat s d ctx va true
    unfold deviceWriteLoop
    split
    · exact .refl _
    · dsimp only
      split
      next hx => rwa [hx] at h
      next hx =>
        rw [hx] at h
        exact h.trans ((translates_globalWrite ..).trans (translates_deviceWriteLoop d ctx fuel _ _ _))

theorem translates_deviceWrite (s : State) (d ctx va : Nat) (bs : List Byte) : Translates s (deviceWrite s d ctx va bs).1 := by
  unfold deviceWrite
  split
  · exact translates_deviceWriteLoop ..
  · exact .refl _

theorem Posted.blocks {s t : State} (h : Posted s t) : t.blocks = s.blocks := (congrArg State.blocks h.rest : (unposted s t).blocks = s.blocks)

theorem closeChunk_blocks (s : State) (L : Launch) (c : Chunk) : (closeChunk s L c).blocks = s.blocks := by
  have h := (translates_deviceWrite s L.die L.ctx (vaOf L.desc.rlog + 256 * (L.log.written + 1)) (chunkBytes c)).blocks
  unfold closeChunk
  dsimp only
  split
  · rfl
  · split
    · rfl
    · split
      next hx =>
        rw [hx] at h
        exact h
      next s1 hx =>
        rw [hx] at h
        exact (posted_errorResponse ..).blocks.trans h

theorem putRun_blocks (s : State) (id : Nat) (c : Chunk) : (putRun s id c).blocks = s.blocks := by
  unfold putRun
  split
  · exact closeChunk_blocks ..
  · rfl

theorem recordRun_blocks (s : State) (id : Nat) (u : UnitId) (gid : Nat) : (recordRun s id u gid).blocks = s.blocks := by
  unfold recordRun
  dsimp only
  split
  · rfl
  · split
    · exact putRun_blocks ..
    · split
      · exact (putRun_blocks ..).trans (closeChunk_blocks ..)
      · exact closeChunk_blocks ..

theorem admitted_blocks (s : State) (g : Gang) (u : UnitId) : (admitted s g u).blocks = s.blocks := by
  unfold admitted
  dsimp only
  split
  · exact recordRun_blocks ..
  · split <;> rfl

theorem engineArrive_go {s : State} {core : Nat} {c : EngCmd} {off : Nat} {b : Block} {u : UnitId} (hb : blockOf s c.block = some b)
    (hsize : off + 16 ≤ b.pad.size) (hu : unitAt s (cmdGang s core c) ⟨.scratch c.block, off⟩ = some u)
    (ha : admits s (cmdGang s core c) u = .go) :
    engineArrive s core c off = (barArrive (admitted s (cmdGang s core c) u) ⟨.scratch c.block, off⟩ false).1 := by
  have hspace : spaceOf (admitted s (cmdGang s core c) u) (.scratch c.block) = b.pad := by
    refine spaceOf_scratch (Eq.trans ?_ hb)
    unfold blockOf
    rw [admitted_blocks]
  unfold engineArrive
  simp only [hu, ha]
  exact if_pos (hspace ▸ hsize)

theorem engineArrive_error {s : State} {core : Nat} {c : EngCmd} {off : Nat} {u : UnitId} {va : Dbl}
    (hu : unitAt s (cmdGang s core c) ⟨.scratch c.block, off⟩ = some u) (ha : admits s (cmdGang s core c) u = .error va) :
    engineArrive s core c off = endLaunch s c.launch 9 0x60 0 va := by
  unfold engineArrive
  simp only [hu, ha]

/-! ### A table load (R300) -/

theorem fgetD_putEntries (first k : Nat) (bs : List Byte) : ∀ (is : List Nat) (m : FMap Word), is.Nodup → fgetD (putEntries m first is bs) k 0 =
    if first ≤ k ∧ k - first ∈ is then BitVec.ofNat 32 (leAt bs (4 * (k - first)) 4) else fgetD m k 0
  | [], m, _ => by simp [putEntries]
  | i :: is, m, h => by
    obtain ⟨hi, his⟩ := List.nodup_cons.1 h
    rw [putEntries, fgetD_putEntries first k bs is _ his, fgetD_fset]
    by_cases hk : first ≤ k ∧ k - first ∈ is
    · rw [if_pos hk, if_pos ⟨hk.1, List.mem_cons_of_mem _ hk.2⟩]
    · rw [if_neg hk]
      by_cases hki : k = first + i
      · rw [if_pos hki, if_pos ⟨by omega, by simp [hki]⟩, show k - first = i by omega]
      · rw [if_neg hki, if_neg]
        rintro ⟨h1, h2⟩
        obtain h2 | h2 := List.mem_cons.1 h2
        · omega
        · exact hk ⟨h1, h2⟩

theorem leAt_drop (bs : List Byte) (o n : Nat) : leAt (bs.drop o) 0 n = leAt bs o n := by
  unfold leAt
  rw [List.drop_zero]

theorem entryBytesOf_eq (fmt n : Nat) : entryBytesOf fmt n = elemBits fmt * n / 8 := by rw [entryBytesOf, Nat.mul_comm]

theorem chunkData_of_block {s : State} {c : EngCmd} {k : Block} (h : blockOf s c.block = some k) (x : MmaArgs) (a : Option Nat) (b : Nat) :
    chunkData s c x a b = (match a with | some o => rdBytes k.queue o (elemBits x.afmt * (x.m * x.kc) / 8) | none => []) ++
      rdBytes k.queue b (elemBits x.bfmt * (x.n * x.kc) / 8) := by
  unfold chunkData
  rw [h, entryBytesOf_eq, entryBytesOf_eq]
  cases a <;> rfl

theorem execChunkFire_eq {s : State} {core : Nat} {c : EngCmd} {x : MmaArgs} {a : Option Nat} {b : Nat} (hcore : s.focus.headD 0 = core)
    (hf : firable s core = some c) (hb : c.body = .mma x) (hent : chunkEntries (engineOf s core) x c.chunk = some (a, b)) :
    execChunkFire s = if chunkPoisoned (engineOf s core) c x a b (chunkData s c x a b) then .next (cmdError s core c)
      else .next (modCmdOf s core c.id fun y => { y with firing := true, data := chunkData s c x a b }) := by
  unfold execChunkFire
  simp only [hcore, hf]
  rw [hb]
  simp only [hent]

theorem execKChunkComplete_eq {s : State} {core : Nat} {c : EngCmd} {x : MmaArgs} (hcore : s.focus.headD 0 = core)
    (hf : (engineOf s core).cmds.find? EngCmd.firing = some c) (hb : c.body = .mma x) (ht : x.tileA = none ∨ x.afmt ≠ 12) :
    execKChunkComplete s = .next (c.body.rings.foldl (advanceRing core c.cuts) (modCmdOf (modEngine s core fun e =>
      { e with acc := (foldChunk x (engineOf s core) (fun n => Config.freeNat (s.fresh + n)) c.chunk c.data).1, lastChunk := some (clkOf s core) })
        core c.id fun y => { y with
          firing := false, chunk := y.chunk + 1, data := [],
          aflags := y.aflags ||| (foldChunk x (engineOf s core) (fun n => Config.freeNat (s.fresh + n)) c.chunk c.data).2 })) := by
  have hs : ¬(x.tileA.isSome = true ∧ x.afmt = 12) := by
    rintro ⟨h1, h2⟩
    obtain h | h := ht
    · rw [h] at h1
      exact Bool.false_ne_true h1
    · exact h h2
  unfold execKChunkComplete
  simp only [hcore, hf]
  rw [hb]
  simp only [if_neg hs]

theorem next_orJoinGate (s : State) (core : Nat) (c : EngCmd) (t : State) :
    (.next (orJoinGate s core c t) : Host.Outcome State Fault Refusal) = match arrivalGate s core c with
      | none => .next t
      | some u => .next (modCmdOf (needLog s (cmdGang s core c)) core c.id fun y => { y with gate := joinGate s c.launch core u y.gate }) := by
  unfold orJoinGate
  cases arrivalGate s core c <;> rfl

theorem arrivalWaits_inTurn {s : State} {core : Nat} {c : EngCmd} (h : arrivalInTurn (engineOf s core) c = true) : arrivalWaits s core c = false := by
  rw [arrivalWaits, h, Bool.not_true]

section Completions

variable {s : State} {core : Nat} {c : EngCmd} (hcore : s.focus.headD 0 = core) (hc : cmdOf s core (s.focus.getD 1 0) = some c)

include hcore hc

theorem execMmaComplete_eq {x : MmaArgs} (hb : c.body = .mma x) (hd : c.arrayDone = true) (ht : arrivalInTurn (engineOf s core) c = true) :
    execMmaComplete s = .next (orJoinGate s core c (completeCmd (if c.chunk < x.ksteps
      then c.cuts.foldl (fun t r => modRing t core r fun y => { y with cut := true }) s else s) core c x.bar)) := by
  unfold execMmaComplete
  simp only [hcore, hc]
  rw [hb]
  simp only [hd, arrivalWaits_inTurn ht, Bool.not_true, Bool.or_self, Bool.false_eq_true, if_false]

theorem execDrainComplete_eq {x : DrainArgs} (hb : c.body = .drain x) (hd : c.started = true) (ht : arrivalInTurn (engineOf s core) c = true) :
    execDrainComplete s = .next (orJoinGate s core c (completeCmd s core c x.bar)) := by
  unfold execDrainComplete
  simp only [hcore, hc]
  rw [hb]
  simp only [hd, arrivalWaits_inTurn ht, Bool.not_false, Bool.and_self, if_true]

theorem execMzeroComplete_eq {m : Nat} (hb : c.body = .zero m) (hd : c.started = true) :
    execMzeroComplete s = .next (completeCmd (zeroTiles s core (maskTiles m)) core c none) := by
  unfold execMzeroComplete
  simp only [hcore, hc]
  rw [hb]
  simp only [hd, if_true]

theorem execCbldComplete_scale {i n src : Nat} (hb : c.body = .load true i n src) (hd : c.started = true) :
    execCbldComplete s = .next (completeCmd (clearPoison (modEngine s core fun e => { e with scale := wrBytes e.scale i c.data }) core 1
      (wholeGranules i n)) core c none) := by
  unfold execCbldComplete
  simp only [hcore, hc]
  rw [hb]
  simp only [hd, Bool.not_true, Bool.false_eq_true, if_false, if_true]

theorem execCbldComplete_lattice {i n src : Nat} (hb : c.body = .load false i n src) (hd : c.started = true) :
    execCbldComplete s = .next (completeCmd (clearPoison (modEngine s core fun e => { e with lattice := putEntries e.lattice i (List.range n) c.data }) core 2
      (wholeGranules (4 * i) (4 * n))) core c none) := by
  unfold execCbldComplete
  simp only [hcore, hc]
  rw [hb]
  simp only [hd, Bool.not_true, Bool.false_eq_true, if_false]

end Completions

theorem fgetD_putEntries_range (i n k : Nat) (bs : List Byte) (m : FMap Word) : fgetD (putEntries m i (List.range n) bs) k 0 =
    if i ≤ k ∧ k < i + n then BitVec.ofNat 32 (leAt (bs.drop (4 * (k - i))) 0 4) else fgetD m k 0 := by
  rw [fgetD_putEntries i k bs _ m List.nodup_range, leAt_drop]
  by_cases h : i ≤ k ∧ k < i + n
  · rw [if_pos h, if_pos ⟨h.1, List.mem_range.2 (by omega)⟩]
  · rw [if_neg h, if_neg]
    rintro ⟨h1, h2⟩
    have := List.mem_range.1 h2
    omega

/-- A command whose arrival is in turn, and that stands behind another, makes none (R299). -/
theorem bar_none_of_behind {e : Engine} {c x : EngCmd} (ht : arrivalInTurn e c = true) (hx : x ∈ e.cmds.takeWhile fun y => y.id != c.id) :
    c.body.bar = none := by
  unfold arrivalInTurn at ht
  obtain h | h := Bool.or_eq_true_iff.1 ht
  · exact Option.isNone_iff_eq_none.1 h
  · exfalso
    cases hl : e.cmds with
    | nil =>
      rw [hl] at hx
      exact List.not_mem_nil hx
    | cons y ys =>
      rw [hl] at hx h
      have hy : (y.id != c.id) = false := by
        have : (y.id == c.id) = true := h
        rw [bne, this]
        rfl
      rw [List.takeWhile_cons, hy] at hx
      exact List.not_mem_nil hx

/-- Settles O49: each event of the engine by its own lemma. -/
theorem engineEventsHold : Obligations.EngineEvents := by
  unfold Obligations.EngineEvents
  intro s core e cellOf
  refine ⟨fun c hc => ?_, fun tiles k => ⟨fun h => ?_, fun h => ?_⟩, fun c x hc hb => ?_, fun c x a b hf hb hent => ⟨fun hp => ?_, fun k hk => ?_⟩,
    fun c x hc hb ht => ?_, fun x free chunk data ht => ?_, fun t c => ?_, fun t c off u va => ?_, fun c hc => ?_, fun c x ht hx => ?_⟩
  · have hexec : execEngineCommandStart s = match c.body with
        | .mma x => .next (modCmdOf (if x.zero then zeroTiles s core (tilesFrom x.tile (x.m * x.n)) else s) core c.id fun y => { y with started := true })
        | .drain x => .next (startDrain s core c x)
        | .zero _ => .next (modCmdOf s core c.id fun y => { y with started := true })
        | .load scale _ n src => .next (startLoad s core c scale n src) := by
      unfold execEngineCommandStart
      simp only [show (startable (engineOf s (s.focus.headD 0))).find? (fun c => c.id == s.focus.getD 1 0) = some c from hc]
        <;> rfl
    refine ⟨fun m hb => ?_, fun x hb hz => ?_, fun x hb hz => ?_, fun x hb => ?_, fun sc i n src hb => ?_⟩
    all_goals
      refine (exec_engineCommandStart s).trans (hexec.trans ?_)
      rw [hb]
    · dsimp only
      rw [hz]
      rfl
    · dsimp only
      rw [hz]
      rfl
  · rw [fgetD_zeroTiles, if_pos h]
  · rw [fgetD_zeroTiles, if_neg h]
  · intro first n es t
    refine ⟨fun hp => startDrain_poison hp, fun hp hr hm => ?_⟩
    have hstart : t = _ := startDrain_plain (c := c) hp hr hm
    have hengine : (engineOf t core).acc = (engineOf (drainZeroed x (drainWrite s c.block x.dst
        (packBytes (elemBits x.fmt) ((drained x (engineOf s core).acc).map Prod.fst))) core) core).acc := by
      rw [hstart]
      unfold modCmdOf
      rw [engineOf_modEngine]
    refine ⟨?_, ?_, fun k => ?_, fun b hbk hfmt hsize => ?_⟩
    · rw [hstart]
      unfold drainZeroed
      split <;> rfl
    · rw [hstart]
      refine (cmdOf_modCmdOf ?_ (f := drainActed _) fun _ => rfl).trans ?_
      · unfold cmdOf
        rw [engineOf_drainZeroed]
        exact hc
      · rfl
    · rw [hengine, engineOf_drainZeroed, engineOf_drainWrite]
      by_cases hz : bit x.mode 4 = true
      · rw [if_pos hz]
        refine (fgetD_zeroCells ..).trans ?_
        simp only [hz, true_and]
        rw [Nat.mul_comm]
        rfl
      · rw [if_neg hz, if_neg fun h => hz h.1]
    · have hw : elemBits x.fmt ≠ 4 := by
        simp only [List.mem_cons, List.not_mem_nil, or_false] at hfmt
        obtain h | h | h | h := hfmt <;> rw [h] <;> decide
      have hpack : packBytes (elemBits x.fmt) ((drained x (engineOf s core).acc).map Prod.fst) = es.flatMap fun y => leOf (elemBits x.fmt / 8) y.1 := by
        rw [packBytes_wide hw, List.flatMap_map]
        rfl
      have hlen : (es.flatMap fun y => leOf (elemBits x.fmt / 8) y.1).length = n * (elemBits x.fmt / 8) := by
        rw [← hpack, packBytes_wide hw, length_flatMap_leOf, List.length_map, drained, List.length_map, List.length_range]
      have hread : readBytes t ⟨.scratch c.block, x.dst⟩ (n * (elemBits x.fmt / 8)) =
          readBytes (drainWrite s c.block x.dst (es.flatMap fun y => leOf (elemBits x.fmt / 8) y.1)) ⟨.scratch c.block, x.dst⟩
            (n * (elemBits x.fmt / 8)) := by
        rw [hstart, hpack]
        unfold drainZeroed
        split <;> rfl
      rw [hread, drainWrite_whole hbk (by rw [hlen]; exact hsize), ← hlen]
      exact readBytes_writeBytes (l := ⟨.scratch c.block, x.dst⟩) (by show (blockOf s c.block).isSome = true; rw [hbk]; rfl) _
  · exact (exec_chunkFire s).trans ((execChunkFire_eq rfl hf hb hent).trans (if_pos hp))
  · intro data hp
    have hdata : chunkData s c x a b = data := chunkData_of_block hk x a b
    refine (exec_chunkFire s).trans ((execChunkFire_eq rfl hf hb hent).trans ?_)
    rw [hdata]
    exact if_neg (Bool.eq_false_iff.1 hp)
  · exact (exec_kChunkComplete s).trans (execKChunkComplete_eq rfl hc hb ht)
  · have hbytes : ∀ m fmt, elemBits fmt * (m * x.kc) / 8 = m * x.kc * elemBits fmt / 8 := fun m fmt => by rw [Nat.mul_comm]
    intro t F dataA dataB
    refine ⟨fun k hk => foldChunk_other ht e free chunk data hk, fun i j hi hj => ?_⟩
    intro k side code
    have hA : dataA = data.take (x.m * x.kc * elemBits x.afmt / 8) := by rw [← hbytes]
    have hB : dataB = data.drop (x.m * x.kc * elemBits x.afmt / 8) := by rw [← hbytes]
    refine ⟨fun hfp => ?_, fun hfp ha hbf hkc => ?_⟩
    · refine (foldChunk_cell ht e free chunk data hi hj).trans ?_
      unfold foldBlock
      simp only [hfp, if_true]
      rw [← hA, ← hB]
      rfl
    · rw [hA, hB]
      exact foldChunk_int ht hfp ha hbf hkc e free chunk data hi hj
  · intro flags
    refine ⟨rfl, fun off b u hb hsize hu ha => ?_⟩
    refine (completeCmd_eq t core c (some off)).trans ?_
    exact congrArg (fun v => sweepClusters (dropCmd v core c.id)) (engineArrive_go (s := flags) hb hsize hu ha)
  · intro flags hu ha
    exact congrArg (fun v => sweepClusters (dropCmd v core c.id)) (engineArrive_error (s := flags) hu ha)
  · intro orGate
    refine ⟨fun x hb hd ht => ⟨fun hk => ?_, fun hk => ?_⟩, fun x hb hd ht => ?_, fun m hb hd => ?_, fun sc i n src hb hd => ?_⟩
    · refine (exec_mmaComplete s).trans ((execMmaComplete_eq rfl hc hb hd ht).trans ?_)
      rw [if_neg (Nat.not_lt.2 hk)]
      exact next_orJoinGate ..
    · refine (exec_mmaComplete s).trans ((execMmaComplete_eq rfl hc hb hd ht).trans ?_)
      rw [if_pos hk]
      exact next_orJoinGate ..
    · exact (exec_drainComplete s).trans ((execDrainComplete_eq rfl hc hb hd ht).trans (next_orJoinGate ..))
    · exact (exec_mzeroComplete s).trans (execMzeroComplete_eq rfl hc hb hd)
    · cases sc
      · refine ⟨_, (exec_cbldComplete s).trans (execCbldComplete_lattice rfl hc hb hd), nofun, fun _ => ⟨?_, fun k => ?_⟩⟩
        · rw [engineOf_clearPoison, engineOf_modEngine]
        · rw [engineOf_clearPoison, engineOf_modEngine]
          exact fgetD_putEntries_range ..
      · refine ⟨_, (exec_cbldComplete s).trans (execCbldComplete_scale rfl hc hb hd), fun _ => ⟨?_, ?_⟩, nofun⟩
        · rw [engineOf_clearPoison, engineOf_modEngine]
        · rw [engineOf_clearPoison, engineOf_modEngine]
  · exact bar_none_of_behind ht hx

end Sys2Proof.Machine
end

section

/-!
# The WIDE instructions (R257 to R272)
-/

namespace Sys2Proof.Machine

-- One proof at a time: each waiting thread would reserve a stack of its own.
set_option Elab.async false

/-! ### Slices of a wide value -/

theorem ofInt_congr {a b q : Int} (h : a = b + 2 ^ 32 * q) : BitVec.ofInt 32 a = BitVec.ofInt 32 b := by
  refine BitVec.eq_of_toNat_eq ?_
  rw [BitVec.toNat_ofInt, BitVec.toNat_ofInt, h]
  norm_num

theorem split_pow {N k : Nat} (h : k + 32 ≤ N) : (2 : Int) ^ N = 2 ^ k * (2 ^ 32 * 2 ^ (N - k - 32)) := by
  rw [← pow_add, ← pow_add, show k + (32 + (N - k - 32)) = N by omega]

/-- A word of a value written modulo 2^N is that word of the value itself. -/
theorem wrapN_slice {N k : Nat} (h : k + 32 ≤ N) (X : Int) : BitVec.ofNat 32 (wrapN N X / 2 ^ k) = BitVec.ofInt 32 (X / 2 ^ k) := by
  have hpos : (0 : Int) < 2 ^ k := by positivity
  have hN : ((2 ^ N : Nat) : Int) = 2 ^ k * (2 ^ 32 * 2 ^ (N - k - 32)) := by
    rw [← split_pow h]
    push_cast
    rfl
  have hne : ((2 ^ N : Nat) : Int) ≠ 0 := by positivity
  have hr : ((wrapN N X : Nat) : Int) = X % (2 ^ N : Nat) := Int.toNat_of_nonneg (Int.emod_nonneg _ hne)
  rw [← BitVec.ofInt_natCast]
  refine ofInt_congr (q := -(2 ^ (N - k - 32) * (X / (2 ^ N : Nat)))) ?_
  rw [Int.natCast_ediv, hr, Int.emod_def]
  push_cast
  rw [split_pow h, show X - 2 ^ k * (2 ^ 32 * 2 ^ (N - k - 32)) * (X / (2 ^ k * (2 ^ 32 * 2 ^ (N - k - 32)))) =
    X + 2 ^ k * -(2 ^ 32 * (2 ^ (N - k - 32) * (X / (2 ^ k * (2 ^ 32 * 2 ^ (N - k - 32)))))) by ring,
    Int.add_mul_ediv_left _ _ hpos.ne']
  ring

/-- A word of a value shifted up past it is zero. -/
theorem ofInt_shifted {n k : Nat} (h : k + 32 ≤ n) (v : Int) : BitVec.ofInt 32 (v * 2 ^ n / 2 ^ k) = 0 := by
  have hpos : (2 : Int) ^ k ≠ 0 := by positivity
  rw [split_pow h, show v * (2 ^ k * (2 ^ 32 * 2 ^ (n - k - 32))) = 2 ^ k * (2 ^ 32 * (v * 2 ^ (n - k - 32))) by ring, Int.mul_ediv_cancel_left _ hpos]
  exact ofInt_congr (a := 2 ^ 32 * (v * 2 ^ (n - k - 32))) (b := 0) (Int.zero_add _).symm

theorem ediv_pow_of_small {v : Int} {n m : Nat} (h1 : -2 ^ n ≤ v) (h2 : v < 2 ^ n) (hnm : n ≤ m) : v / 2 ^ m = if v < 0 then -1 else 0 := by
  have hm : (2 : Int) ^ n ≤ 2 ^ m := pow_le_pow_right₀ (by norm_num) hnm
  by_cases hv : v < 0
  · rw [if_pos hv]
    exact Int.ediv_eq_neg_one_of_neg_of_le hv (by linarith)
  · rw [if_neg hv]
    exact Int.ediv_eq_zero_of_lt (by linarith) (by linarith)

/-- The shift of a wide value, words at or above 1,024 bits apart (R266). -/
theorem wideShift_slice {v n : Int} {k : Nat} (h1 : -2 ^ 1024 ≤ v) (h2 : v < 2 ^ 1024) (hk : k + 32 ≤ 1024) :
    BitVec.ofInt 32 (wideShift v n / 2 ^ k) = BitVec.ofInt 32 ((if 0 ≤ n then v * 2 ^ n.toNat else v / 2 ^ (-n).toNat) / 2 ^ k) := by
  unfold wideShift
  by_cases hn : 0 ≤ n
  · rw [if_pos hn, if_pos hn]
    by_cases hb : 1024 ≤ n
    · rw [if_pos hb, ofInt_shifted (by omega), Int.zero_ediv]
      rfl
    · rw [if_neg hb]
  · rw [if_neg hn, if_neg hn]
    by_cases hb : n ≤ -1024
    · rw [if_pos hb, ediv_pow_of_small h1 h2 (m := (-n).toNat) (by omega)]
    · rw [if_neg hb]

/-! ### Signed and natural values (R259) -/

theorem bit_eq_testBit (x i : Nat) : bit x i = x.testBit i := by
  rw [Nat.testBit_eq_decide_div_mod_eq, bit]
  rfl

theorem slotSigned_eq (g : Gang) : slotSigned g = g.gstate.getLsbD 16 := bit_eq_testBit _ _

theorem slotVal_eq (g : Gang) (x k : Nat) : slotVal g x k =
    if g.gstate.getLsbD 16 = true ∧ 2 ^ (k - 1) ≤ x % 2 ^ k then ((x % 2 ^ k : Nat) : Int) - 2 ^ k else ((x % 2 ^ k : Nat) : Int) := by
  unfold slotVal sext
  rw [slotSigned_eq]
  by_cases hs : g.gstate.getLsbD 16 = true
  · by_cases hx : 2 ^ (k - 1) ≤ x % 2 ^ k
    · rw [if_pos hs, if_neg (Nat.not_lt.2 hx), if_pos ⟨hs, hx⟩]
    · rw [if_pos hs, if_pos (Nat.not_le.1 hx), if_neg fun h => hx h.2]
  · rw [if_neg hs, if_neg fun h => hs h.1]

theorem sext_range (x : Nat) {k : Nat} (hk : 0 < k) : -2 ^ (k - 1) ≤ sext x k ∧ sext x k < 2 ^ (k - 1) := by
  have hx : x % 2 ^ k < 2 ^ k := Nat.mod_lt _ (by positivity)
  have hp : 2 ^ k = 2 * 2 ^ (k - 1) := by rw [← pow_succ', Nat.sub_add_cancel hk]
  have hi : (2 : Int) ^ k = 2 * 2 ^ (k - 1) := by rw [← pow_succ', Nat.sub_add_cancel hk]
  have hc : ((2 ^ (k - 1) : Nat) : Int) = 2 ^ (k - 1) := by push_cast; rfl
  unfold sext
  rw [hi]
  generalize x % 2 ^ k = y at *
  generalize 2 ^ (k - 1) = p at *
  split <;> omega

theorem slotVal_range (g : Gang) (x : Nat) {k : Nat} (hk : 0 < k) : -2 ^ k ≤ slotVal g x k ∧ slotVal g x k < 2 ^ k := by
  have hle : (2 : Int) ^ (k - 1) ≤ 2 ^ k := pow_le_pow_right₀ (by norm_num) (Nat.sub_le k 1)
  unfold slotVal
  split
  · obtain ⟨h1, h2⟩ := sext_range x hk
    exact ⟨by linarith, by linarith⟩
  · have hx : ((x % 2 ^ k : Nat) : Int) < 2 ^ k := by exact_mod_cast Nat.mod_lt x (by positivity)
    have h0 : (0 : Int) < 2 ^ k := by positivity
    exact ⟨by linarith [Int.natCast_nonneg (x % 2 ^ k)], hx⟩

theorem toInt_ofNat_eq_sext (x : Nat) {k : Nat} (hk : 0 < k) : (BitVec.ofNat k x).toInt = sext x k := by
  rw [← sext_toNat _ hk]
  unfold sext
  rw [BitVec.toNat_ofNat, Nat.mod_mod]

/-! ### Writing a wide value lane by lane (R257) -/

theorem mapLanesFrom_same (A : Word) {f : Nat → Thread → Thread} (hf : ∀ l t, f l t = t) : ∀ (k : Nat) (ts : List Thread), mapLanesFrom A f k ts = ts
  | _, [] => rfl
  | k, t :: ts => by simp [mapLanesFrom, hf, mapLanesFrom_same A hf (k + 1) ts]

theorem mapLanesFrom_twice (A : Word) (f h : Nat → Thread → Thread) : ∀ (k : Nat) (ts : List Thread),
    mapLanesFrom A h k (mapLanesFrom A f k ts) = mapLanesFrom A (fun l t => h l (f l t)) k ts
  | _, [] => rfl
  | k, t :: ts => by
    simp only [mapLanesFrom, mapLanesFrom_twice A f h (k + 1) ts]
    congr 1
    split <;> rfl

/-- The word of lane l of a wide value. -/
def wideWord (v l : Nat) : Word := BitVec.ofNat 32 (v / 2 ^ (32 * l))

theorem wrWide_eq (g : Gang) (n v : Nat) : wrWide g n v = mapLanes g.live (fun l t => wrWin t n (wideWord v l)) g := by
  unfold wrWide
  split
  next h => exact (congrArg (fun ts => { g with threads := ts }) (mapLanesFrom_same g.live (fun l t => if_pos h) 0 g.threads)).symm
  next h =>
    have hf : (fun l t => wrPhys t (t.wbase + n) (BitVec.ofNat 32 (v / 2 ^ (32 * l)))) = fun l t => wrWin t n (wideWord v l) :=
      funext fun l => funext fun t => (if_neg h).symm
    rw [hf]

/-- What a lane's thread becomes where its gang writes a wide pair. -/
def pairWord (n v l : Nat) (t : Thread) : Thread :=
  if n = 0 then t else wrWin (wrWin t n (wideWord v l)) (n + 1) (wideWord (v / 2 ^ 1024) l)

theorem wrWidePair_eq (g : Gang) (n v : Nat) : wrWidePair g n v = mapLanes g.live (pairWord n v) g := by
  unfold wrWidePair
  split
  next h => exact (congrArg (fun ts => { g with threads := ts }) (mapLanesFrom_same g.live (fun l t => if_pos h) 0 g.threads)).symm
  next h =>
    have hf : pairWord n v = fun l t => wrWin (wrWin t n (wideWord v l)) (n + 1) (wideWord (v / 2 ^ 1024) l) :=
      funext fun l => funext fun t => if_neg h
    rw [wrWide_eq, wrWide_eq, hf]
    exact congrArg (fun ts => { g with threads := ts }) (mapLanesFrom_twice ..)

theorem wrWin_writes (t : Thread) (n : Nat) (x : Word) : WritesWin t (wrWin t n x) n x where
  reads h := by rw [wrWin, if_neg h, rdPhys_wrPhys, if_pos rfl]
  phys i h := by
    unfold wrWin
    split
    next => rfl
    next hn => rw [rdPhys_wrPhys, if_neg (h.resolve_left hn)]
  rest := by
    unfold wrWin
    split <;> rfl

/-! ### What a WIDE instruction does once it issues -/

section Issued

variable {s : State} {cls : Cls} {g : Gang} {c : ClauseRun} (h : Issues s cls g c)

include h

theorem issueWide_ok {os : List Opnd} (hw : wideFail g (activeMask c) os = none) (k : Gang → ClauseRun → State) :
    issueWide s cls os k = .next (k g c) := by
  rw [issueWide, issue_ok h, hw]

theorem issueWide_fail {os : List Opnd} {x : Nat} {lanes : Word} (hw : wideFail g (activeMask c) os = some (x, lanes))
    (k : Gang → ClauseRun → State) : issueWide s cls os k = .next (faultAt s g c 0x03 (BitVec.ofNat 64 x) lanes 0) := by
  rw [issueWide, issue_ok h, hw]

theorem slotForm_fail {os : List Opnd} {b a x : Nat} {lanes : Word} (hw : wideFail g (activeMask c) (slotOpnds g (activeMask c) os b a) = some (x, lanes))
    (k : Gang → ClauseRun → List Int → State) (hcls : cls = .none) :
    slotForm s os b a k = .next (faultAt s g c 0x03 (BitVec.ofNat 64 x) lanes 0) := by
  subst hcls
  rw [slotForm, issue_ok h, hw]

theorem slotForm_ok {os : List Opnd} {b a : Nat} (hw : wideFail g (activeMask c) (slotOpnds g (activeMask c) os b a) = none)
    (k : Gang → ClauseRun → List Int → State) (hcls : cls = .none) :
    slotForm s os b a k = .next (k g c (slotDigits g a (scalarOf g (activeMask c) b))) := by
  subst hcls
  rw [slotForm, issue_ok h, hw]

end Issued

/-- The lanes of an instruction that maps them and completes. -/
theorem mapped_result {s : State} {g : Gang} {c : ClauseRun} {A : Word} {i : Instr} (h : Issues s .none g c) (f : Nat → Thread → Thread)
    {F : Nat → Thread → Thread → Prop} (he : exec i s = .next (finish s (mapLanes A f g) c .none))
    (hF : ∀ l, inMask A l = true → F l (thr g l) (f l (thr g l))) :
    ∃ t g', exec i s = .next t ∧ OnlyGang s t g g' ∧ OnlyThreads g g' ∧ EachLane g g' A F := by
  obtain ⟨h1, h2⟩ := lanes_finish h A f .none
  exact ⟨_, _, he, h1, h2, eachLane_completed g c .none A f fun l _ hm => hF l hm⟩

/-- A form that writes a wide register. -/
theorem wide_result {i : Instr} {os : List Opnd} {d : Nat} {f : Gang → Word → Int} {f' : Gang → Word → Int}
    (he : ∀ s, exec i s = wideForm s os d f)
    (hf : ∀ g A l, l < 32 → BitVec.ofInt 32 (f g A / 2 ^ (32 * l)) = BitVec.ofInt 32 (f' g A / 2 ^ (32 * l))) {s : State} {g : Gang}
    {c : ClauseRun} (h : Issues s .none g c) (hw : wideFail g (activeMask c) (.win d :: os) = none) :
    ∃ t g', exec i s = .next t ∧ OnlyGang s t g g' ∧ OnlyThreads g g' ∧
      EachLane g g' g.live fun l u v => WritesWin u v d (BitVec.ofInt 32 (f' g (activeMask c) / 2 ^ (32 * l))) := by
  refine mapped_result h (A := g.live) _ ((he s).trans ((issueWide_ok h hw _).trans (by rw [wrWide_eq]))) fun l hl => ?_
  have := inMask_lt hl
  rw [← hf g _ l this, ← wrapN_slice (N := 1024) (by omega)]
  exact wrWin_writes ..

/-! ### The six forms on one wide register (R265 to R267) -/

/-- Signed or natural, as `%gstate` says: `val` of R259. -/
def valOf (g : Gang) (x k : Nat) : Int :=
  if g.gstate.getLsbD 16 ∧ 2 ^ (k - 1) ≤ x % 2 ^ k then ((x % 2 ^ k : Nat) : Int) - 2 ^ k else ((x % 2 ^ k : Nat) : Int)

theorem slotVal_eq_valOf (g : Gang) (x k : Nat) : slotVal g x k = valOf g x k := slotVal_eq g x k

theorem slotWidth_eq (g : Gang) : slotWidth g = g.gstate.toNat % 2 ^ 7 := by
  rw [slotWidth, bits, pow_zero, Nat.div_one]

theorem sext_scalarOf (g : Gang) (A : Word) (b : Nat) : sext (scalarOf g A b) 32 = (rdReg g.level (thr g (lowest A)) b).toInt :=
  sext_toNat _ (by decide)

/-- A shift to the left by a count that is not negative, and else the floor of one to the right. -/
def shiftOf (v n : Int) : Int := if 0 ≤ n then v * 2 ^ n.toNat else v / 2 ^ (-n).toNat

theorem wideShift_word (g : Gang) (x l : Nat) (n : Int) (hl : l < 32) :
    BitVec.ofInt 32 (wideShift (slotVal g x 1024) n / 2 ^ (32 * l)) = BitVec.ofInt 32 (shiftOf (valOf g x 1024) n / 2 ^ (32 * l)) := by
  obtain ⟨h1, h2⟩ := slotVal_range g x (k := 1024) (by decide)
  rw [wideShift_slice h1 h2 (by omega), slotVal_eq_valOf]
  rfl

/-- The sum of `pack`, each term entire. -/
def packSum (g : Gang) (A : Word) (a b : Nat) : Int :=
  ((lanesOf A).map fun l => valOf g (rdReg g.level (thr g l) a).toNat 32 *
    (2 : Int) ^ ((g.gstate.toNat % 2 ^ 7 * ((rdReg g.level (thr g (lowest A)) b).toNat % 2 ^ 16 + l) : Nat))).sum

theorem sum_eq_add_mul {ls : List Nat} {f f' : Nat → Int} {m : Int} (h : ∀ l ∈ ls, ∃ q, f' l = f l + m * q) :
    ∃ q, (ls.map f').sum = (ls.map f).sum + m * q := by
  induction ls with
  | nil => exact ⟨0, by simp⟩
  | cons l ls ih =>
    obtain ⟨q, hq⟩ := h l List.mem_cons_self
    obtain ⟨r, hr⟩ := ih fun x hx => h x (List.mem_cons_of_mem _ hx)
    exact ⟨q + r, by rw [List.map_cons, List.map_cons, List.sum_cons, List.sum_cons, hq, hr]; ring⟩

/-- The term that `packTerm` leaves out is a multiple of 2^1024. -/
theorem packTerm_entire (g : Gang) (a base l : Nat) :
    ∃ q, slotVal g (rdReg g.level (thr g l) a).toNat 32 * (2 : Int) ^ (slotWidth g * (base + l)) = packTerm g a base l + 2 ^ 1024 * q := by
  unfold packTerm
  split
  next h =>
    refine ⟨slotVal g (rdReg g.level (thr g l) a).toNat 32 * 2 ^ (slotWidth g * (base + l) - 1024), ?_⟩
    rw [Int.zero_add, ← mul_assoc, mul_comm ((2 : Int) ^ 1024), mul_assoc, ← pow_add, show 1024 + (slotWidth g * (base + l) - 1024) =
      slotWidth g * (base + l) by omega]
  next h => exact ⟨0, by rw [mul_zero, add_zero]⟩

theorem ofInt_slice_congr {x y : Int} {k N : Nat} (hk : k + 32 ≤ N) (h : ∃ q, y = x + 2 ^ N * q) :
    BitVec.ofInt 32 (x / 2 ^ k) = BitVec.ofInt 32 (y / 2 ^ k) := by
  obtain ⟨q, rfl⟩ := h
  have hpos : (2 : Int) ^ k ≠ 0 := by positivity
  refine (ofInt_congr (q := 2 ^ (N - k - 32) * q) ?_).symm
  rw [split_pow hk, mul_assoc, Int.add_mul_ediv_left _ _ hpos, mul_assoc]

theorem pack_word (g : Gang) (A : Word) (a b d l : Nat) (hl : l < 32) :
    BitVec.ofInt 32 (((rdWide g d : Int) + ((lanesOf A).map (packTerm g a (bits (scalarOf g A b) 0 16))).sum) / 2 ^ (32 * l)) =
      BitVec.ofInt 32 (((rdWide g d : Int) + packSum g A a b) / 2 ^ (32 * l)) := by
  refine ofInt_slice_congr (N := 1024) (by omega) ?_
  have hbase : bits (scalarOf g A b) 0 16 = (rdReg g.level (thr g (lowest A)) b).toNat % 2 ^ 16 := by
    rw [bits, pow_zero, Nat.div_one]
    rfl
  obtain ⟨q, hq⟩ := sum_eq_add_mul (ls := lanesOf A) fun l _ => packTerm_entire g a (bits (scalarOf g A b) 0 16) l
  refine ⟨q, ?_⟩
  rw [add_assoc, ← hq, packSum, hbase, slotWidth_eq]
  simp only [slotVal_eq_valOf]

/-! ### Dense products (R261, R264) -/

theorem dense_open {s : State} {g : Gang} (h : (engineOf s g.core).grant = none ∨ (engineOf s g.core).grant = some g.id) : denseTurn s g = true := by
  unfold denseTurn
  obtain h | h := h <;> rw [h]
  · rfl
  · exact beq_self_eq_true g.id

theorem dense_closed {s : State} {g : Gang} (h : arrayOpen s g.core = false ∨ ∃ id, (engineOf s g.core).grant = some id ∧ id ≠ g.id) :
    (arrayOpen s g.core && denseTurn s g) = false := by
  obtain h | ⟨id, h, hne⟩ := h
  · rw [h, Bool.false_and]
  · have : denseTurn s g = false := by
      unfold denseTurn
      rw [h]
      exact beq_false_of_ne hne
    rw [this, Bool.and_false]

theorem dense_result {i : Instr} {b a d : Nat} {f : Gang → Nat} {f' : Gang → Int} (he : ∀ s, exec i s = dense s b a d f)
    (hlow : ∀ g l, l < 32 → wideWord (f g) l = BitVec.ofInt 32 (f' g / 2 ^ (32 * l)))
    (hhigh : ∀ g l, l < 32 → wideWord (f g / 2 ^ 1024) l = BitVec.ofInt 32 (f' g / 2 ^ (1024 + 32 * l))) (s : State) (g : Gang)
    (c : ClauseRun) (h : Issues s .a g c) (hw : wideFail g (activeMask c) (widePair d ++ [.win a, .win b]) = none) :
    (arrayOpen s g.core = true → (engineOf s g.core).grant = none ∨ (engineOf s g.core).grant = some g.id →
      ∃ g', exec i s = .next (issued (enterArray s g) g') ∧ OnlyThreads g g' ∧
        EachLane g g' g.live fun l u v => ∃ w, WritesWin u w d (BitVec.ofInt 32 (f' g / 2 ^ (32 * l))) ∧
          (d ≠ 0 → WritesWin w v (d + 1) (BitVec.ofInt 32 (f' g / 2 ^ (1024 + 32 * l)))) ∧ (d = 0 → v = w)) ∧
    (arrayOpen s g.core = false ∨ (∃ id, (engineOf s g.core).grant = some id ∧ id ≠ g.id) →
      exec i s = .next { s with issuing := none }) := by
  have hexec := (he s).trans (issueWide_ok h hw _)
  refine ⟨fun hopen hgrant => ?_, fun hclosed => ?_⟩
  · rw [hopen, dense_open hgrant, Bool.and_self, if_pos rfl, wrWidePair_eq] at hexec
    refine ⟨_, hexec, (lanes_completed g _ c .a (onlyThreads_mapLanes ..) rfl).1, eachLane_completed g c .a g.live _ fun l _ hl => ?_⟩
    have hl := inMask_lt hl
    rw [← hlow g l hl, ← hhigh g l hl]
    refine ⟨wrWin (thr g l) d (wideWord (f g) l), wrWin_writes .., fun hd => ?_, fun hd => ?_⟩
    · rw [pairWord, if_neg hd]
      exact wrWin_writes ..
    · rw [pairWord, if_pos hd, wrWin, if_pos hd]
  · rw [dense_closed hclosed] at hexec
    rw [hexec, if_neg Bool.false_ne_true]

theorem wideWord_wrapN_low (X : Int) {l : Nat} (hl : l < 32) : wideWord (wrapN 2048 X) l = BitVec.ofInt 32 (X / 2 ^ (32 * l)) :=
  wrapN_slice (by omega) X

theorem wideWord_high (n l : Nat) : wideWord (n / 2 ^ 1024) l = BitVec.ofNat 32 (n / 2 ^ (1024 + 32 * l)) := by
  rw [wideWord, Nat.div_div_eq_div_mul, ← pow_add]

theorem wideWord_wrapN_high (X : Int) {l : Nat} (hl : l < 32) : wideWord (wrapN 2048 X / 2 ^ 1024) l = BitVec.ofInt 32 (X / 2 ^ (1024 + 32 * l)) := by
  rw [wideWord_high]
  exact wrapN_slice (by omega) X

theorem ofNat_div_eq_ofInt (n k : Nat) : BitVec.ofNat 32 (n / 2 ^ k) = BitVec.ofInt 32 ((n : Int) / 2 ^ k) := by
  rw [← BitVec.ofInt_natCast, Int.natCast_ediv]
  push_cast
  rfl

/-! ### Digits (R268, R269) -/

theorem digits_natural (w : Nat) : ∀ (n i : Nat) (X : Int), i < n → (digits false w n X).getD i 0 = X / 2 ^ (w * i) % 2 ^ w
  | 0, _, _, h => absurd h (Nat.not_lt_zero _)
  | n + 1, 0, X, _ => by simp [digits, digitOf]
  | n + 1, i + 1, X, h => by
    have hpos : (2 : Int) ^ w ≠ 0 := by positivity
    have hdig : digitOf false w X = X % 2 ^ w := by simp [digitOf]
    have hrem : (X - digitOf false w X) / 2 ^ w = X / 2 ^ w := by
      rw [hdig, Int.emod_def, sub_sub_cancel, Int.mul_ediv_cancel_left _ hpos]
    rw [digits, List.getD_cons_succ, digits_natural w n i _ (by omega), hrem, Int.ediv_ediv_of_nonneg (by positivity), ← pow_add, Nat.mul_succ,
      Nat.add_comm w]

/-- The balanced digit of a remainder, and what it leaves for the slots above. -/
theorem digitOf_balanced {w : Nat} (hw : 0 < w) (X : Int) :
    digitOf true w X = (X + 2 ^ (w - 1)) % 2 ^ w - 2 ^ (w - 1) ∧ (X - digitOf true w X) / 2 ^ w = (X + 2 ^ (w - 1)) / 2 ^ w := by
  have hp : (2 : Int) ^ w = 2 * 2 ^ (w - 1) := by rw [← pow_succ', Nat.sub_add_cancel hw]
  have hpos : (0 : Int) < 2 ^ (w - 1) := by positivity
  have hdig : digitOf true w X = if 2 ^ (w - 1) ≤ X % 2 ^ w then X % 2 ^ w - 2 ^ w else X % 2 ^ w := by
    unfold digitOf
    simp only [true_and]
  rw [hdig, hp]
  generalize (2 : Int) ^ (w - 1) = p at *
  have h1 := Int.emod_nonneg X (b := 2 * p) (by omega)
  have h2 := Int.emod_lt_of_pos X (b := 2 * p) (by omega)
  have h3 := Int.emod_add_mul_ediv X (2 * p)
  generalize X % (2 * p) = r at *
  generalize X / (2 * p) = q at *
  subst h3
  by_cases hr : p ≤ r
  · rw [if_pos hr]
    have e1 : r + 2 * p * q + p = (r - p) + 2 * p * (q + 1) := by ring
    have e2 : r + 2 * p * q - (r - 2 * p) = 2 * p * (q + 1) := by ring
    rw [e1, e2, Int.add_mul_emod_self_left, Int.emod_eq_of_lt (by omega) (by omega), Int.mul_ediv_cancel_left _ (by omega),
      Int.add_mul_ediv_left _ _ (by omega), Int.ediv_eq_zero_of_lt (by omega) (by omega)]
    exact ⟨by ring, by ring⟩
  · rw [if_neg hr]
    have e1 : r + 2 * p * q + p = (r + p) + 2 * p * q := by ring
    have e2 : r + 2 * p * q - r = 2 * p * q := by ring
    rw [e1, e2, Int.add_mul_emod_self_left, Int.emod_eq_of_lt (by omega) (by omega), Int.mul_ediv_cancel_left _ (by omega),
      Int.add_mul_ediv_left _ _ (by omega), Int.ediv_eq_zero_of_lt (by omega) (by omega)]
    exact ⟨by ring, by ring⟩

/-- The carries that the balanced digits below a slot pass up: half a slot from each. -/
def carriedBelow (w i : Nat) : Int := ((List.range i).map fun j => (2 : Int) ^ (w - 1) * 2 ^ (w * j)).sum

theorem carriedBelow_succ (w i : Nat) : carriedBelow w (i + 1) = 2 ^ (w - 1) + 2 ^ w * carriedBelow w i := by
  unfold carriedBelow
  rw [List.range_succ_eq_map, List.map_cons, List.sum_cons, List.map_map, ← List.sum_map_mul_left]
  simp only [Function.comp_def, Nat.mul_zero, pow_zero, mul_one]
  congr 3
  funext j
  rw [Nat.mul_succ, pow_add]
  ring

theorem digits_balanced {w : Nat} (hw : 0 < w) : ∀ (n i : Nat) (X : Int), i < n →
    (digits true w n X).getD i 0 = ((X + carriedBelow w i) / 2 ^ (w * i) + 2 ^ (w - 1)) % 2 ^ w - 2 ^ (w - 1)
  | 0, _, _, h => absurd h (Nat.not_lt_zero _)
  | n + 1, 0, X, _ => by
    rw [digits, List.getD_cons_zero, (digitOf_balanced hw X).1]
    simp [carriedBelow]
  | n + 1, i + 1, X, h => by
    have hpos : (2 : Int) ^ w ≠ 0 := by positivity
    rw [digits, List.getD_cons_succ, digits_balanced hw n i _ (by omega), (digitOf_balanced hw X).2, carriedBelow_succ,
      ← Int.add_mul_ediv_left _ _ hpos, Int.ediv_ediv_of_nonneg (by positivity), ← pow_add, Nat.mul_succ, Nat.add_comm w, add_assoc]

theorem getD_drop (xs : List Int) (m l : Nat) : (xs.drop m).getD l 0 = xs.getD (m + l) 0 := by
  rw [List.getD_eq_getElem?_getD, List.getD_eq_getElem?_getD, List.getElem?_drop]

/-- The value whose digits `extr` and `gchk` take. -/
def slotSource (g : Gang) (a k : Nat) : Int := if bit k 16 then slotVal g (rdWide g a) 1024 else slotVal g (rdWidePair g a) 2048

theorem slotDigits_getD (g : Gang) (a k : Nat) {l : Nat} : (slotDigits g a k).getD l 0 =
    (digits (slotSigned g) (slotWidth g) (bits k 0 16 + 32) (slotSource g a k)).getD (k % 2 ^ 16 + l) 0 := by
  have hb : bits k 0 16 = k % 2 ^ 16 := by rw [bits, pow_zero, Nat.div_one]
  rw [slotDigits, getD_drop, hb]
  rfl

theorem slotDigits_natural {g : Gang} {a k l : Nat} (hl : l < 32) (hs : g.gstate.getLsbD 16 = false) : (slotDigits g a k).getD l 0 =
    (((if k.testBit 16 then rdWide g a % 2 ^ 1024 else rdWidePair g a % 2 ^ 2048) / 2 ^ (g.gstate.toNat % 2 ^ 7 * (k % 2 ^ 16 + l)) %
      2 ^ (g.gstate.toNat % 2 ^ 7) : Nat) : Int) := by
  have hsrc : slotSource g a k = ((if k.testBit 16 then rdWide g a % 2 ^ 1024 else rdWidePair g a % 2 ^ 2048 : Nat) : Int) := by
    unfold slotSource slotVal
    rw [slotSigned_eq, hs, bit_eq_testBit]
    split <;> rfl
  rw [slotDigits_getD, slotSigned_eq, hs, digits_natural _ _ _ _ (by rw [bits, pow_zero, Nat.div_one]; omega), hsrc, slotWidth_eq]
  generalize (if k.testBit 16 then rdWide g a % 2 ^ 1024 else rdWidePair g a % 2 ^ 2048 : Nat) = x
  push_cast
  rfl

theorem slotDigits_balanced {g : Gang} {a k l : Nat} (hl : l < 32) (hs : g.gstate.getLsbD 16 = true) (hw : 4 ≤ g.gstate.toNat % 2 ^ 7) :
    (slotDigits g a k).getD l 0 = (((if k.testBit 16 then valOf g (rdWide g a) 1024 else valOf g (rdWidePair g a) 2048) +
      carriedBelow (g.gstate.toNat % 2 ^ 7) (k % 2 ^ 16 + l)) / 2 ^ (g.gstate.toNat % 2 ^ 7 * (k % 2 ^ 16 + l)) +
        2 ^ (g.gstate.toNat % 2 ^ 7 - 1)) % 2 ^ (g.gstate.toNat % 2 ^ 7) - 2 ^ (g.gstate.toNat % 2 ^ 7 - 1) := by
  rw [slotDigits_getD, slotSigned_eq, hs, slotWidth_eq, digits_balanced (by omega) _ _ _ (by rw [bits, pow_zero, Nat.div_one]; omega), slotSource,
    bit_eq_testBit, slotVal_eq_valOf, slotVal_eq_valOf]

theorem digitFits_iff (g : Gang) (v : Int) : digitFits g v = true ↔
    if g.gstate.getLsbD 16 then -(2 ^ (g.gstate.toNat / 2 ^ 8 % 2 ^ 6 - 1)) ≤ v ∧ v < 2 ^ (g.gstate.toNat / 2 ^ 8 % 2 ^ 6 - 1)
      else v < 2 ^ (g.gstate.toNat / 2 ^ 8 % 2 ^ 6) := by
  unfold digitFits resultWidth bits
  rw [slotSigned_eq]
  split
  · rw [Bool.and_eq_true, decide_eq_true_iff, decide_eq_true_iff, Int.le_sub_one_iff]
  · rw [decide_eq_true_iff, Int.le_sub_one_iff]

theorem slotOpnds_eq (g : Gang) (A : Word) (os : List Opnd) (b a : Nat) : slotOpnds g A os b a = os ++ [.win a, .reg b] ++
    if a ≠ 0 ∧ windowBad g.level g.nregs (thr g (lowest A)) [.reg b] = none ∧ (rdReg g.level (thr g (lowest A)) b).getLsbD 16 = false
      then [.win (a + 1)] else [] := by
  have hbit : bit (scalarOf g A b) 16 = (rdReg g.level (thr g (lowest A)) b).getLsbD 16 := bit_eq_testBit _ _
  unfold slotOpnds
  rw [hbit]
  simp [and_assoc]

section Slots

variable {s : State} {g : Gang} {c : ClauseRun} {b a d : Nat} (h : Issues s .none g c)

include h

theorem exec_extr_fail {x : Nat} {lanes : Word} (hw : wideFail g (activeMask c) (slotOpnds g (activeMask c) [.reg d] b a) = some (x, lanes)) :
    exec (.extr b a d) s = .next (faultAt s g c 0x03 (BitVec.ofNat 64 x) lanes 0) :=
  (show exec (.extr b a d) s = execExtr b a d s from rfl).trans (slotForm_fail h hw _ rfl)

theorem exec_gchk_fail {x : Nat} {lanes : Word} (hw : wideFail g (activeMask c) (slotOpnds g (activeMask c) [] b a) = some (x, lanes)) :
    exec (.gchk b a) s = .next (faultAt s g c 0x03 (BitVec.ofNat 64 x) lanes 0) :=
  (show exec (.gchk b a) s = execGchk b a s from rfl).trans (slotForm_fail h hw _ rfl)

theorem exec_extr_ok (hw : wideFail g (activeMask c) (slotOpnds g (activeMask c) [.reg d] b a) = none) : exec (.extr b a d) s =
    .next (finish s (mapLanes (activeMask c) (fun l t => wrReg g.level t d
      (BitVec.ofInt 32 ((slotDigits g a (scalarOf g (activeMask c) b)).getD l 0))) g) c .none) :=
  (show exec (.extr b a d) s = execExtr b a d s from rfl).trans (slotForm_ok h hw _ rfl)

/-- The lanes whose digits do not fit (R269). -/
def unfitLanes (g : Gang) (A : Word) (ds : List Int) : List Nat := (lanesOf A).filter fun l => !digitFits g (ds.getD l 0)

theorem exec_gchk_ok (hw : wideFail g (activeMask c) (slotOpnds g (activeMask c) [] b a) = none) : exec (.gchk b a) s =
    .next (match unfitLanes g (activeMask c) (slotDigits g a (scalarOf g (activeMask c) b)) with
      | [] => finish s g c .none
      | l :: ls => takeTrap s g { cause := 0x21, pc := instrPc c,
                                  loc := mkDbl (BitVec.ofNat 32 (bits (scalarOf g (activeMask c) b) 0 16 + l))
                                    (BitVec.ofInt 32 ((slotDigits g a (scalarOf g (activeMask c) b)).getD l 0)),
                                  lanes := maskOf (l :: ls) } (bankAt g c)) := by
  refine (show exec (.gchk b a) s = execGchk b a s from rfl).trans ((slotForm_ok h hw _ rfl).trans ?_)
  rfl

end Slots

/-! ### Slot widths (R271) -/

theorem widthSafe_iff (signed : Bool) (wx wy n w : Nat) : widthSafe signed wx wy n w = true ↔
    if signed then n * 2 ^ (wx + wy - 2) < 2 ^ (w - 1) else n * (2 ^ wx - 1) * (2 ^ wy - 1) < 2 ^ w := by
  unfold widthSafe
  cases signed
  · simp only [Bool.false_eq_true, if_false, decide_eq_true_eq]
  · simp only [if_true, decide_eq_true_eq]

/-- The first number of a range, from 4 to 64, of which p holds, or 0 where there is none. -/
theorem firstWidth (p : Nat → Bool) : ∃ w, (((List.range 61).map (· + 4)).find? p).getD 0 = w ∧
    ((w = 0 ∧ ∀ x, 4 ≤ x → x ≤ 64 → p x = false) ∨ (4 ≤ w ∧ w ≤ 64 ∧ p w = true ∧ ∀ x, 4 ≤ x → x < w → p x = false)) := by
  refine ⟨_, rfl, ?_⟩
  cases h : ((List.range 61).map (· + 4)).find? p with
  | none =>
    refine .inl ⟨rfl, fun x h1 h2 => ?_⟩
    refine Bool.eq_false_iff.2 (List.find?_eq_none.1 h x (List.mem_map.2 ⟨x - 4, List.mem_range.2 (by omega), by omega⟩))
  | some w =>
    obtain ⟨hp, as, bs, heq, has⟩ := List.find?_eq_some_iff_append.1 h
    have hlen := congrArg List.length heq
    rw [List.length_map, List.length_range, List.length_append, List.length_cons] at hlen
    have hget : ∀ i, i < 61 → ((List.range 61).map (· + 4))[i]? = some (i + 4) := fun i hi => by
      rw [List.getElem?_map, List.getElem?_range hi]
      rfl
    have hw : w = as.length + 4 := by
      have := hget as.length (by omega)
      rw [heq, List.getElem?_append_right (Nat.le_refl _), Nat.sub_self] at this
      exact Option.some.inj this
    refine .inr ⟨?_, ?_, hp, fun x h1 h2 => ?_⟩
    · exact hw ▸ Nat.le_add_left ..
    · show w ≤ 64
      omega
    · replace h2 : x < w := h2
      have hx := hget (x - 4) (by omega)
      rw [heq, List.getElem?_append_left (by omega), Nat.sub_add_cancel h1] at hx
      have := has x (List.mem_of_getElem? hx)
      simpa using this

/-- What `gwid` does to a thread. -/
def gwidThread (b a d : Nat) (g : Gang) (t : Thread) : Thread :=
  wrReg g.level t d (BitVec.ofNat 32 (safeWidth (slotSigned g) (rdReg g.level t a).toNat (rdReg g.level t b).toNat))

theorem bits_low8 (x : Nat) : bits x 0 8 = x % 2 ^ 8 := by rw [bits, pow_zero, Nat.div_one]

theorem safeWidth_spec (signed : Bool) (x n : Nat) :
    let wx := x % 2 ^ 8
    let wy := x / 2 ^ 8 % 2 ^ 8
    let enough := fun w => if signed then n * 2 ^ (wx + wy - 2) < 2 ^ (w - 1) else n * (2 ^ wx - 1) * (2 ^ wy - 1) < 2 ^ w
    let inRange := 1 ≤ wx ∧ wx ≤ 32 ∧ 1 ≤ wy ∧ wy ≤ 32 ∧ 1 ≤ n ∧ n ≤ 65535
    (safeWidth signed x n = 0 ∧ (¬ inRange ∨ ∀ y, 4 ≤ y → y ≤ 64 → ¬ enough y)) ∨
      (4 ≤ safeWidth signed x n ∧ safeWidth signed x n ≤ 64 ∧ inRange ∧ enough (safeWidth signed x n) ∧
        ∀ y, 4 ≤ y → y < safeWidth signed x n → ¬ enough y) := by
  intro wx wy enough inRange
  have henough : ∀ w, widthSafe signed wx wy n w = true ↔ enough w := fun w => widthSafe_iff signed wx wy n w
  have hfail : ∀ w, widthSafe signed wx wy n w = false ↔ ¬enough w := fun w => by rw [← henough, Bool.not_eq_true]
  have heq : safeWidth signed x n = if wx = 0 ∨ 32 < wx ∨ wy = 0 ∨ 32 < wy ∨ n = 0 ∨ 65535 < n then 0
      else (((List.range 61).map (· + 4)).find? (widthSafe signed wx wy n)).getD 0 := by
    unfold safeWidth
    rw [bits_low8]
    rfl
  rw [heq]
  clear_value wx wy
  by_cases hr : inRange
  · obtain ⟨w, hw, hspec⟩ := firstWidth (widthSafe signed wx wy n)
    rw [if_neg (by omega), hw]
    obtain ⟨h0, hnone⟩ | ⟨h1, h2, hp, hmin⟩ := hspec
    · exact .inl ⟨h0, .inr fun y h1 h2 => (hfail y).1 (hnone y h1 h2)⟩
    · exact .inr ⟨h1, h2, hr, (henough w).1 hp, fun y h1 h2 => (hfail y).1 (hmin y h1 h2)⟩
  · rw [if_pos (by omega)]
    exact .inl ⟨rfl, .inl hr⟩

/-! ### Decoding from the table (R272) -/

/-- The gang reads the table: its block holds the claim (R272). -/
def ReadsTable (s : State) (g : Gang) : Prop := g.task = 0 ∧ claims s g.core g.launch g.cluster g.rank = true

/-- The table's entry with no load under way: none under an uncorrectable error, and 0 where the gang does not read the table. -/
def entrySeen (s : State) (g : Gang) (j : Nat) : Option Word :=
  if g.task = 0 ∧ claims s g.core g.launch g.cluster g.rank = true then
    if (engineOf s g.core).poison.contains (2, j / 4) then none else some (fgetD (engineOf s g.core).lattice j 0)
  else some 0

theorem latticeSeen_quiet {s : State} {g : Gang} (h : ReadsTable s g → (engineOf s g.core).cmds = []) (j : Nat) :
    latticeSeen s g.core g.launch g.cluster g.rank g.task j = (entrySeen s g j, s) := by
  unfold latticeSeen entrySeen
  split
  next hown =>
    have hc : (coreOf s g.core).engine.cmds = [] := h hown
    unfold latticeWord storePoisoned engineOf
    simp only [hc, List.findSome?_nil, List.any_cons, List.any_nil, Bool.or_false]
  next => rfl

/-- The code that a thread decodes. -/
def cbCode (lv a : Nat) (t : Thread) : Nat := (rdReg lv t a).toNat % 65536

/-- A thread that has taken the decoded code of an entry, with its flag. -/
def cbDecoded (lv d code : Nat) (w : Word) (t : Thread) : Thread :=
  orFlags (wrReg lv t d (BitVec.ofNat 32 (cbPack (cbDecode w.toNat code).1))) (flag (cbDecode w.toNat code).2 flCBI)

/-- A thread with its code decoded, where its entry is seen. -/
def cbThread (seen : Nat → Option Word) (lv a d : Nat) (t : Thread) : Thread :=
  match seen (cbCode lv a t / 256) with
  | none => t
  | some w => cbDecoded lv d (cbCode lv a t) w t

theorem cbdecLane_none {s : State} {g : Gang} {a d k : Nat} {bad : List Nat}
    (h : latticeSeen s g.core g.launch g.cluster g.rank g.task (cbCode g.level a (thr g k) / 256) = (none, s)) :
    cbdecLane a d k (s, g, bad) = (s, g, bad ++ [k]) := by
  unfold cbCode at h
  unfold cbdecLane
  simp only [h]

theorem cbdecLane_some {s : State} {g : Gang} {a d k : Nat} {bad : List Nat} {w : Word}
    (h : latticeSeen s g.core g.launch g.cluster g.rank g.task (cbCode g.level a (thr g k) / 256) = (some w, s)) :
    cbdecLane a d k (s, g, bad) = (s, modThread g k (cbDecoded g.level d (cbCode g.level a (thr g k)) w), bad) := by
  unfold cbCode at h
  unfold cbdecLane
  simp only [h]
  rfl

theorem cbdec_fold {s : State} {g : Gang} {a d : Nat} {seen : Nat → Option Word}
    (hseen : ∀ j, latticeSeen s g.core g.launch g.cluster g.rank g.task j = (seen j, s)) : ∀ (ls : List Nat) (ts : List Thread) (bad : List Nat), ls.Nodup →
    ∃ ts', ls.foldl (fun x l => cbdecLane a d l x) (s, { g with threads := ts }, bad) = (s, { g with threads := ts' },
        bad ++ ls.filter fun l => (seen (cbCode g.level a (thr { g with threads := ts } l) / 256)).isNone) ∧ ts'.length = ts.length ∧
      ∀ l, l < ts.length → thr { g with threads := ts' } l = if l ∈ ls then cbThread seen g.level a d (thr { g with threads := ts } l)
        else thr { g with threads := ts } l
  | [], ts, bad, _ => ⟨ts, by simp, rfl, fun l _ => by simp⟩
  | k :: ks, ts, bad, hnd => by
    obtain ⟨hk, hks⟩ := List.nodup_cons.1 hnd
    have hstep : ∃ ts1 bad1, cbdecLane a d k (s, { g with threads := ts }, bad) = (s, { g with threads := ts1 }, bad1) ∧ ts1.length = ts.length ∧
        bad1 = bad ++ (if (seen (cbCode g.level a (thr { g with threads := ts } k) / 256)).isNone then [k] else []) ∧
        ∀ l, l < ts.length → thr { g with threads := ts1 } l =
          if l = k then cbThread seen g.level a d (thr { g with threads := ts } l) else thr { g with threads := ts } l := by
      cases hw : seen (cbCode g.level a (thr { g with threads := ts } k) / 256) with
      | none =>
        refine ⟨ts, bad ++ [k], cbdecLane_none ((hseen _).trans (congrArg (·, s) hw)), rfl, rfl, fun l _ => ?_⟩
        split
        next he =>
          rw [cbThread, he, hw]
        next => rfl
      | some w =>
        refine ⟨_, bad, cbdecLane_some (g := { g with threads := ts }) ((hseen _).trans (congrArg (·, s) hw)), setAt_length .., by simp,
          fun l hl => (thr_modThread { g with threads := ts } k l (cbDecoded g.level d (cbCode g.level a (thr { g with threads := ts } k)) w)).trans ?_⟩
        by_cases he : l = k
        · subst he
          rw [if_pos ⟨rfl, hl⟩, if_pos rfl, cbThread, hw]
        · rw [if_neg fun h => he h.1, if_neg he]
    obtain ⟨ts1, bad1, h1, hlen, hbad, hthr⟩ := hstep
    obtain ⟨ts', h2, hlen', hthr'⟩ := cbdec_fold (a := a) (d := d) hseen ks ts1 bad1 hks
    have hsame : ∀ l ∈ ks, thr { g with threads := ts1 } l = thr { g with threads := ts } l := fun l hl => by
      by_cases hlt : l < ts.length
      · rw [hthr l hlt, if_neg]
        rintro rfl
        exact hk hl
      · unfold thr
        rw [List.getElem?_eq_none (Nat.not_lt.1 hlt), List.getElem?_eq_none (by rw [hlen]; exact Nat.not_lt.1 hlt)]
    refine ⟨ts', ?_, hlen'.trans hlen, fun l hl => ?_⟩
    · rw [List.foldl_cons, h1, h2, hbad, List.filter_cons, List.append_assoc]
      refine congrArg (fun b => (s, { g with threads := ts' }, bad ++ b)) ?_
      rw [List.filter_congr fun l hl => by rw [hsame l hl]]
      split <;> rfl
    · rw [hthr' l (hlen ▸ hl), hthr l hl]
      by_cases he : l = k
      · subst he
        rw [if_neg hk, if_pos rfl, if_pos List.mem_cons_self]
      · rw [if_neg he]
        simp only [List.mem_cons, he, false_or]

theorem nodup_lanesOf (A : Word) : (lanesOf A).Nodup := List.Nodup.filter _ (by decide)

/-- `cbdec` after its window check, with no load under way. -/
theorem cbdec_seen {s : State} {g : Gang} {c : ClauseRun} {a d : Nat} (h : Issues s .none g c)
    (hw : windowFail g (activeMask c) [.reg d, .reg a] = none) (hq : ReadsTable s g → (engineOf s g.core).cmds = []) :
    ∃ ts, exec (.cbdec a d) s = .next (match (lanesOf (activeMask c)).filter fun l => (entrySeen s g (cbCode g.level a (thr g l) / 256)).isNone with
        | [] => finish s { g with threads := ts } c .none
        | bad => failAt (freeNat s).2 g c .none 0x60 (BitVec.ofNat 64 (freeNat s).1) (maskOf bad) 0) ∧ ts.length = g.threads.length ∧
      ∀ l, l < g.threads.length → thr { g with threads := ts } l =
        if l ∈ lanesOf (activeMask c) then cbThread (entrySeen s g) g.level a d (thr g l) else thr g l := by
  obtain ⟨ts, hfold, hlen, hthr⟩ := cbdec_fold (a := a) (d := d) (latticeSeen_quiet hq) (lanesOf (activeMask c)) g.threads [] (nodup_lanesOf _)
  rw [List.nil_append] at hfold
  refine ⟨ts, ?_, hlen, hthr⟩
  have hexec : exec (.cbdec a d) s = execCbdec a d s := rfl
  rw [hexec, execCbdec, issue_ok h, hw]
  simp only [hfold]
  cases (lanesOf (activeMask c)).filter fun l => (entrySeen s g (cbCode g.level a (thr { g with threads := g.threads } l) / 256)).isNone <;> rfl

/-- What `cbdec` leaves in a lane whose entry is seen. -/
theorem cbThread_writes {s : State} {g : Gang} {a d : Nat} {u : Thread} {code : Nat} (hcode : (rdReg g.level u a).toNat % 2 ^ 16 = code)
    (hok : ReadsTable s g → (engineOf s g.core).poison.contains (2, code / 2 ^ 10) = false) :
    ∃ w : Word, (ReadsTable s g → w = fgetD (engineOf s g.core).lattice (code / 2 ^ 8) 0) ∧ (¬ReadsTable s g → w = 0) ∧
      WithFlags u (cbThread (entrySeen s g) g.level a d u) (if (cbDecode w.toNat code).2 then 128 else 0) fun u v =>
        WritesReg g.level u v d (BitVec.ofNat 32 (cbPack (cbDecode w.toNat code).1)) := by
  have hc : cbCode g.level a u = code := hcode
  by_cases hown : ReadsTable s g
  · have hseen : entrySeen s g (code / 256) = some (fgetD (engineOf s g.core).lattice (code / 2 ^ 8) 0) := by
      refine (if_pos hown).trans (if_neg ?_)
      rw [Nat.div_div_eq_div_mul]
      exact Bool.eq_false_iff.1 (hok hown)
    refine ⟨_, fun _ => rfl, fun h => absurd hown h, ?_⟩
    rw [cbThread, hc, hseen]
    exact orFlags_wrReg_with ..
  · refine ⟨0, fun h => absurd h hown, fun _ => rfl, ?_⟩
    rw [cbThread, hc, show entrySeen s g (code / 256) = some 0 from if_neg hown]
    exact orFlags_wrReg_with ..

theorem entrySeen_isNone (s : State) (g : Gang) (j : Nat) (hown : ReadsTable s g) : (entrySeen s g j).isNone =
    (engineOf s g.core).poison.contains (2, j / 4) := by
  refine (congrArg Option.isNone (if_pos hown)).trans ?_
  cases (engineOf s g.core).poison.contains (2, j / 4) <;> rfl

theorem filter_entrySeen {s : State} {g : Gang} (hown : ReadsTable s g) (a : Nat) (ls : List Nat) :
    (ls.filter fun l => (entrySeen s g (cbCode g.level a (thr g l) / 256)).isNone) =
      ls.filter fun l => (engineOf s g.core).poison.contains (2, (rdReg g.level (thr g l) a).toNat % 2 ^ 16 / 2 ^ 10) := by
  refine List.filter_congr fun l _ => ?_
  rw [entrySeen_isNone s g _ hown, Nat.div_div_eq_div_mul]
  rfl

/-- Settles O42: the forms on one wide register, the products, the comparison, the digits, the slot width and the table each by their own
lemma. -/
theorem wideResults : Obligations.WideResults := by
  unfold Obligations.WideResults
  intro val slot scalar shift
  have hshb : ∀ (b a : Nat) (g : Gang) (A : Word) (l : Nat), l < 32 → BitVec.ofInt 32 (wideShift (slotVal g (rdWide g a) 1024)
      (sext (scalarOf g A b) 32) / 2 ^ (32 * l)) = BitVec.ofInt 32 (shift (val g (rdWide g a) 1024) (scalar g A b).toInt / 2 ^ (32 * l)) :=
    fun b a g A l hl => (wideShift_word g _ l _ hl).trans (by rw [sext_scalarOf]; rfl)
  have hshs : ∀ (b a : Nat) (g : Gang) (A : Word) (l : Nat), l < 32 → BitVec.ofInt 32 (wideShift (slotVal g (rdWide g a) 1024)
      (sext (scalarOf g A b) 32 * slotWidth g) / 2 ^ (32 * l)) =
        BitVec.ofInt 32 (shift (val g (rdWide g a) 1024) ((scalar g A b).toInt * slot g) / 2 ^ (32 * l)) :=
    fun b a g A l hl => (wideShift_word g _ l _ hl).trans (by rw [sext_scalarOf, slotWidth_eq]; rfl)
  refine ⟨fun b a d => ?_, fun b a d => ?_, fun b a d => ?_, fun b a d s g c h hw => ?_, fun b a d s g c h => ?_,
    fun g a k l hl hs _ => slotDigits_natural hl hs, fun g a k l hl hs hw => ?_, fun g v _ => digitFits_iff g v, fun b a d => ?_,
    fun a d s g c h hw => ?_⟩
  · simp only [List.forall_mem_cons, List.not_mem_nil, false_implies, implies_true, and_true]
    exact ⟨fun s g c => wide_result (f' := fun g _ => (rdWide g a : Int) + rdWide g b) (fun s => rfl) fun _ _ _ _ => rfl,
      fun s g c => wide_result (f' := fun g _ => (rdWide g a : Int) - rdWide g b) (fun s => rfl) fun _ _ _ _ => rfl,
      fun s g c => wide_result (f' := fun g _ => -(rdWide g a : Int)) (fun s => rfl) fun _ _ _ _ => rfl,
      fun s g c => wide_result (fun s => rfl) (hshs b a),
      fun s g c => wide_result (fun s => rfl) (hshb b a),
      fun s g c => wide_result (fun s => rfl) fun g A l hl => pack_word g A a b d l hl⟩
  · simp only [List.forall_mem_cons, List.not_mem_nil, false_implies, implies_true, and_true]
    have hmul : ∀ (g : Gang) (n : Nat), ((rdWide g a : Int) * rdWide g b) / 2 ^ n = ((rdWide g a * rdWide g b : Nat) : Int) / 2 ^ n :=
      fun g n => by rw [Int.natCast_mul]
    refine ⟨dense_result (fun s => rfl) (fun g l hl => ?_) fun g l hl => ?_, dense_result (fun s => rfl) (fun g l _ => ?_) fun g l _ => ?_,
      dense_result (fun s => rfl) (fun g l hl => ?_) fun g l hl => ?_⟩
    · rw [toInt_ofNat_eq_sext _ (by decide), toInt_ofNat_eq_sext _ (by decide)]
      exact wideWord_wrapN_low _ hl
    · rw [toInt_ofNat_eq_sext _ (by decide), toInt_ofNat_eq_sext _ (by decide)]
      exact wideWord_wrapN_high _ hl
    · rw [hmul]
      exact ofNat_div_eq_ofInt ..
    · rw [hmul, wideWord_high]
      exact ofNat_div_eq_ofInt ..
    · rw [slotVal_eq_valOf, slotVal_eq_valOf]
      exact wideWord_wrapN_low _ hl
    · rw [slotVal_eq_valOf, slotVal_eq_valOf]
      exact wideWord_wrapN_high _ hl
  · simp only [List.forall_mem_cons, List.not_mem_nil, false_implies, implies_true, and_true]
    exact ⟨fun s g c x lanes h hw => issueWide_fail h hw _, fun s g c x lanes h hw => issueWide_fail h hw _,
      fun s g c x lanes h hw => issueWide_fail h hw _, fun s g c x lanes h hw => issueWide_fail h hw _,
      fun s g c x lanes h hw => issueWide_fail h hw _, fun s g c x lanes h hw => issueWide_fail h hw _,
      fun s g c x lanes h hw => issueWide_fail h hw _, fun s g c x lanes h hw => issueWide_fail h hw _,
      fun s g c x lanes h hw => issueWide_fail h hw _, fun s g c x lanes h hw => issueWide_fail h hw _⟩
  · refine mapped_result h _ (issueWide_ok h hw _) fun l _ => ?_
    rw [slotVal_eq_valOf, slotVal_eq_valOf]
    exact wrReg_writes ..
  · intro m ds A os
    have hos : ∀ o, slotOpnds g (activeMask c) o b a = os o := fun o => slotOpnds_eq g A o b a
    refine ⟨fun x lanes hw => exec_extr_fail h (hos _ ▸ hw), fun x lanes hw => exec_gchk_fail h (hos _ ▸ hw), fun hw => ?_, fun hw => ?_⟩
    · exact mapped_result h _ (exec_extr_ok h ((congrArg _ (hos _)).trans hw)) fun l _ => wrReg_writes ..
    · have hexec := exec_gchk_ok h ((congrArg _ (hos _)).trans hw)
      refine ⟨fun hfit => ?_, fun l ls hbad => ?_⟩
      · have hnone : unfitLanes g (activeMask c) (slotDigits g a (scalarOf g (activeMask c) b)) = [] :=
          List.filter_eq_nil_iff.2 fun l hl => by
            have : digitFits g ((slotDigits g a (scalarOf g (activeMask c) b)).getD l 0) = true := hfit l hl
            rw [this]
            exact Bool.false_ne_true
        rw [hnone] at hexec
        obtain ⟨g', h1, h2, h3⟩ := finish_unchanged h
        exact ⟨_, g', hexec, h1, h2, h3⟩
      · have hbad : unfitLanes g (activeMask c) (slotDigits g a (scalarOf g (activeMask c) b)) = l :: ls := hbad
        rw [hbad] at hexec
        have hbase : bits (scalarOf g (activeMask c) b) 0 16 = m.toNat % 2 ^ 16 := by
          rw [bits, pow_zero, Nat.div_one]
          rfl
        simp only [hbase] at hexec
        exact hexec
  · exact slotDigits_balanced hl hs hw
  · refine laneResult_of (fun g _ _ => gwidThread b a d g) (fun s => rfl) fun g A l _ _ => ?_
    refine ⟨_, wrReg_writes .., ?_⟩
    rw [slotSigned_eq]
    exact safeWidth_spec _ _ _
  · intro own bad
    refine ⟨fun hown hq hbad => ?_, fun hq => ?_⟩
    · obtain ⟨ts, hexec, -, -⟩ := cbdec_seen h hw fun _ => hq
      rw [filter_entrySeen hown] at hexec
      obtain ⟨l, ls, hls⟩ := List.exists_cons_of_ne_nil hbad
      have hls' : ((lanesOf (activeMask c)).filter fun l =>
        (engineOf s g.core).poison.contains (2, (rdReg g.level (thr g l) a).toNat % 2 ^ 16 / 2 ^ 10)) = l :: ls := hls
      rw [hls'] at hexec
      rw [hls]
      exact hexec
    · obtain ⟨ts, hexec, hlen, hthr⟩ := cbdec_seen h hw fun hown => (hq hown).1
      have hnone : ((lanesOf (activeMask c)).filter fun l => (entrySeen s g (cbCode g.level a (thr g l) / 256)).isNone) = [] := by
        by_cases hown : ReadsTable s g
        · rw [filter_entrySeen hown]
          exact (hq hown).2
        · refine List.filter_eq_nil_iff.2 fun l _ => ?_
          rw [show entrySeen s g (cbCode g.level a (thr g l) / 256) = some 0 from if_neg hown]
          exact Bool.false_ne_true
      rw [hnone] at hexec
      refine ⟨_, _, hexec, finish_only h { g with threads := ts } rfl .none,
        (lanes_completed g { g with threads := ts } c .none ⟨rfl, rfl, hlen, fun _ => rfl⟩ rfl).1, fun l hl => ?_⟩
      rw [completed_thr, hthr l hl]
      simp only [mem_lanesOf]
      split
      next hm =>
        refine cbThread_writes rfl fun hown => ?_
        have := (List.filter_eq_nil_iff.1 (hq hown).2) l (mem_lanesOf.2 hm)
        exact Bool.eq_false_iff.2 this
      next => rfl

end Sys2Proof.Machine
end

section

/-!
# Cells as memory and tags, and the instructions whose lanes act in order
-/

namespace Sys2Proof.Machine

-- One proof at a time: each waiting thread would reserve a stack of its own.
set_option Elab.async false

/-! ### A cell: a double, and two bits of its granule's tag byte (R41) -/

theorem cellShift_cases (pa : Nat) : cellShift pa = 0 ∨ cellShift pa = 2 := by
  unfold cellShift
  split
  · exact .inl rfl
  · exact .inr rfl

theorem bits_tagWithState {tag pa st : Nat} (hst : st < 4) : bits (tagWithState tag pa st) (cellShift pa) 2 = st := by
  unfold tagWithState bits
  obtain h | h := cellShift_cases pa <;> rw [h] <;> norm_num <;> omega

theorem tagWithState_lt {tag pa st : Nat} (htag : tag < 256) (hst : st < 4) : tagWithState tag pa st < 256 := by
  unfold tagWithState bits
  obtain h | h := cellShift_cases pa <;> rw [h] <;> norm_num <;> omega

/-- The colour of a granule stays where a state in its tag byte changes. -/
theorem tagWithState_colour {tag pa st : Nat} (hst : st < 4) : tagWithState tag pa st / 16 = tag / 16 := by
  unfold tagWithState bits
  obtain h | h := cellShift_cases pa <;> rw [h] <;> norm_num <;> omega

/-- The other cell's state in a granule stays. -/
theorem tagWithState_other {tag pa st k : Nat} (hst : st < 4) (hk : k = 0 ∨ k = 2) (hne : k ≠ cellShift pa) :
    bits (tagWithState tag pa st) k 2 = bits tag k 2 := by
  unfold tagWithState bits
  obtain h | h := cellShift_cases pa <;> rw [h] at hne ⊢ <;> obtain rfl | rfl := hk
  · exact absurd rfl hne
  · norm_num
    omega
  · norm_num
    omega
  · exact absurd rfl hne

theorem tagAt_phys_lt (s : State) (pa : Nat) : tagAt s (physLoc pa) < 256 := (rdByte s.tags (pa / 16)).isLt

theorem tags_writeBytes_phys (s : State) (pa : Nat) (bs : List Byte) : (writeBytes s (physLoc pa) bs).tags = s.tags := rfl

theorem tagAt_putTag_phys (s : State) (pa v : Nat) (q : Nat) : tagAt (putTag s (physLoc pa) v) (physLoc q) =
    if q / 16 = pa / 16 then v % 256 else tagAt s (physLoc q) := by
  show (rdByte (wrByte s.tags (pa / 16) (BitVec.ofNat 8 v)) (q / 16)).toNat = _
  rw [rdByte_wrByte]
  split
  · exact BitVec.toNat_ofNat v 8
  · rfl

theorem tagAt_setCell (s : State) (pa : Nat) (v : Dbl) {st : Nat} (hst : st < 4) (q : Nat) : tagAt (setCell s pa v st) (physLoc q) =
    if q / 16 = pa / 16 then tagWithState (tagAt s (physLoc pa)) pa st else tagAt s (physLoc q) := by
  unfold setCell
  rw [tagAt_putTag_phys, Nat.mod_eq_of_lt (tagWithState_lt (tagAt_phys_lt s pa) hst)]
  rfl

theorem cellState_setCell (s : State) (pa : Nat) (v : Dbl) {st : Nat} (hst : st < 4) : cellState (setCell s pa v st) pa = st := by
  unfold cellState
  rw [tagAt_setCell s pa v hst, if_pos rfl, bits_tagWithState hst]

theorem cellPayload_setCell (s : State) (pa : Nat) (v : Dbl) (st : Nat) : cellPayload (setCell s pa v st) pa = v := by
  have h : readNat (setCell s pa v st) (physLoc pa) 8 = v.toNat % 256 ^ 8 := readNat_writeNat s (physLoc pa) 8 v.toNat trivial
  unfold cellPayload
  rw [h]
  exact BitVec.eq_of_toNat_eq (by rw [BitVec.toNat_ofNat, Nat.mod_mod_of_dvd _ (by norm_num), Nat.mod_eq_of_lt v.isLt])

/-- Marking a page through an entry that stands in the buffers leaves a cell alone. -/
theorem dirtyAt_setCell {s : State} {g : Gang} {ea : Dbl} {pa : Nat} (h : Buffered s (.core g.core) (ctxOf s g) (vaOf ea) pa) (v : Dbl) (st : Nat) :
    ∃ es, dirtyAt (setCell s pa v st) g ea pa = { setCell s pa v st with tlb := es } :=
  markDirty_buffered (s := setCell s pa v st) (q := .core g.core) (ctx := ctxOf s g) (va := vaOf ea) h

/-! ### Lanes in ascending order, each whole (R39, R223) -/

/-- Where every lane succeeds, the instruction is complete in the state that the last one leaves. -/
theorem seqLanes_all {step : State → Gang → Nat → State × SeqEnd} {id : Nat} {cls : Cls} {g1 : Gang} {c1 : ClauseRun} {t : State}
    (hg1 : gangOf t id = some g1) (hc1 : g1.clause = some c1) : ∀ (ls : List Nat) (done : Word) (s : State), AllLanes step id ls s t →
      seqLanes step id cls ls done none s = complete t { g1 with gate := none } c1 cls
  | [], done, s, h => by
    rw [show t = s from h] at hg1 ⊢
    unfold seqLanes seqDone
    simp only [hg1, hc1]
  | l :: ls, done, s, h => by
    obtain ⟨g, c, hits, s1, hg, hc, hstep, hheld, hrest⟩ := h
    have ih := seqLanes_all (cls := cls) hg1 hc1 ls (done ||| bitMask l) _ hrest
    unfold seqLanes
    simp only [hg, hc, hstep, hheld, Bool.false_eq_true, if_false, Option.isSome_none]
    exact ih

/-- An instruction that does its lanes in order, once its checks have passed. -/
def DoesLanes (i : Instr) (cls : Cls) (step : State → Gang → Nat → State × SeqEnd) (s : State) (g : Gang) (c : ClauseRun) : Prop :=
  exec i s = .next (seqLanes step g.id cls (lanesOf (activeMask c)) 0 none s)

section Issued

variable {s : State} {g : Gang} {c : ClauseRun}

theorem doesLanes_seq {i : Instr} {cls : Cls} {step : State → Gang → Nat → State × SeqEnd} (h : Issues s cls g c)
    (he : exec i s = issueSeq s cls step) : DoesLanes i cls step s g c := he.trans (issue_ok h _)

theorem failsOf_nil : ∀ {rs : List (Except LaneFail Unit)}, (∀ r ∈ rs, r = .ok ()) → failsOf rs = []
  | [], _ => rfl
  | r :: rs, h => by
    rw [h r List.mem_cons_self]
    show failsOf rs = []
    exact failsOf_nil fun x hx => h x (List.mem_cons_of_mem _ hx)

theorem doesLanes_copy {i : Instr} {kind : CopyKind} {b a n : Nat} (h : Issues s .b g c) (he : exec i s = issueCopy kind b a n s)
    (hok : g.ready.isSome = true ∨ ∀ l ∈ lanesOf (activeMask c), checkCopy kind b a s g l = .ok ()) :
    DoesLanes i .b (copyLane kind b a n) s g c := by
  have hf : (if g.ready.isSome then [] else failsOf ((lanesOf (activeMask c)).map (checkCopy kind b a s g))) = [] := by
    split
    · rfl
    next hr => exact failsOf_nil (List.forall_mem_map.2 (hok.resolve_left hr))
  refine he.trans ?_
  rw [issueCopy, issue_ok h]
  simp only [hf]

theorem doesLanes_launch {q a : Nat} (h : Issues s .b g c) (hw : windowFail g (activeMask c) [.pair a] = none) :
    DoesLanes (.launch q a) .b (launchLane a q) s g c := by
  refine (show exec (.launch q a) s = execLaunch q a s from rfl).trans ?_
  rw [execLaunch, issue_ok h, hw]

theorem doesLanes_cancelAt {i : Instr} {a d : Nat} {named : State → Gang → Nat → CancelSet} (h : Issues s .none g c)
    (he : exec i s = issueCancel (some a) d named s) (hw : windowFail g (activeMask c) [.reg d, .pair a] = none)
    (hcan : ∀ l ∈ lanesOf (activeMask c), canonical (laneAddr g l a) = true) : DoesLanes i .none (cancelLane d named) s g c := by
  have hbad : ((lanesOf (activeMask c)).filter fun l => !canonical (laneAddr g l a)) = [] :=
    List.filter_eq_nil_iff.2 fun l hl => by rw [hcan l hl]; exact Bool.false_ne_true
  have hw' : windowFail g (activeMask c) ([.reg d] ++ ((some a).map Opnd.pair).toList) = none := hw
  refine he.trans ?_
  rw [issueCancel, issue_ok h]
  simp only [hw', hbad]

theorem doesLanes_cancelJ {d : Nat} (h : Issues s .none g c) (hw : windowFail g (activeMask c) [.reg d] = none) :
    DoesLanes (.cancelJ d) .none (cancelLane d fun t g _ => namedJ t (ctxOf t g)) s g c := by
  have hw' : windowFail g (activeMask c) ([.reg d] ++ ((none : Option Nat).map Opnd.pair).toList) = none := hw
  refine (show exec (.cancelJ d) s = execCancelJ d s from rfl).trans ?_
  rw [execCancelJ, issueCancel, issue_ok h]
  simp only [hw']

theorem doesLanes_wptSet {b a d : Nat} (h : Issues s .none g c) (hw : windowFail g (activeMask c) [.reg d, .pair a, .reg b] = none)
    (hcan : ∀ l ∈ lanesOf (activeMask c), canonical (laneAddr g l a) = true) : DoesLanes (.wptSet b a d) .none (wptSetLane b a d) s g c := by
  have hbad : ((lanesOf (activeMask c)).filter fun l => !canonical (laneAddr g l a)) = [] :=
    List.filter_eq_nil_iff.2 fun l hl => by rw [hcan l hl]; exact Bool.false_ne_true
  refine (show exec (.wptSet b a d) s = execWptSet b a d s from rfl).trans ?_
  rw [execWptSet, issue_ok h]
  simp only [hw, hbad]

theorem doesLanes_wptClr {b d : Nat} (h : Issues s .none g c) (hw : windowFail g (activeMask c) [.reg d, .reg b] = none) :
    DoesLanes (.wptClr b d) .none (wptClrLane b d) s g c := by
  refine (show exec (.wptClr b d) s = execWptClr b d s from rfl).trans ?_
  rw [execWptClr, issue_ok h]
  simp only [hw]

end Issued

/-! ### A copy is entered (R223, R230) -/

/-- The step leaves the list of copies, the lines present and what each gang has validated. -/
structure CopiesKept (s t : State) : Prop where
  copies : t.copies = s.copies
  lines : t.lines = s.lines
  ready : ∀ id, (gangOf t id).map Gang.ready = (gangOf s id).map Gang.ready

theorem CopiesKept.trans {s t u : State} (h : CopiesKept s t) (k : CopiesKept t u) : CopiesKept s u :=
  ⟨k.copies.trans h.copies, k.lines.trans h.lines, fun id => (k.ready id).trans (h.ready id)⟩

theorem CopiesKept.refl (s : State) : CopiesKept s s := ⟨rfl, rfl, fun _ => rfl⟩

theorem copiesKept_modGang (s : State) (id : Nat) {f : Gang → Gang} (hid : ∀ x, (f x).id = x.id) (hf : ∀ x, (f x).ready = x.ready) :
    CopiesKept s (modGang s id f) := by
  refine ⟨rfl, rfl, fun h => ?_⟩
  rw [gangOf_modGang s id h f hid]
  split
  · rw [Option.map_map]
    exact congrArg (fun k => (gangOf s h).map k) (funext hf)
  · rfl

theorem copiesKept_putBytes (s : State) (l : Loc) (bs : List Byte) : CopiesKept s (putBytes s l bs) := by
  unfold putBytes setSpace
  cases l.place with
  | phys => exact ⟨rfl, rfl, fun _ => rfl⟩
  | scratch b => exact ⟨rfl, rfl, fun _ => rfl⟩
  | priv g => exact copiesKept_modGang s g (fun _ => rfl) fun _ => rfl
  | stack g => exact copiesKept_modGang s g (fun _ => rfl) fun _ => rfl

theorem copiesKept_wakeMwait (s : State) (l : Loc) (n : Nat) : CopiesKept s (wakeMwait s l n) := by
  refine ⟨rfl, rfl, fun id => ?_⟩
  rw [gangOf_wakeMwait, Option.map_map]
  rfl

theorem copiesKept_writeBytes (s : State) (l : Loc) (bs : List Byte) : CopiesKept s (writeBytes s l bs) :=
  (copiesKept_putBytes s l bs).trans (copiesKept_wakeMwait _ l bs.length)

theorem copiesKept_writeBar (s : State) (l : Loc) (o : BarObj) : CopiesKept s (writeBar s l o) := by
  refine ((copiesKept_writeBytes s l _).trans (copiesKept_writeBytes _ _ (leOf 4 0))).trans ⟨rfl, rfl, fun id => ?_⟩
  refine (congrArg (Option.map Gang.ready) (findBy_map (key := Gang.id) (f := Gang.mapConds (Cond.flipped l o.phase)) (fun _ => rfl) id _)).trans ?_
  rw [Option.map_map]
  rfl

theorem copiesKept_barAdd (s : State) (l : Loc) (v : Int) : CopiesKept s (barAdd s l v) := by
  unfold barAdd
  split
  · exact .refl s
  · exact copiesKept_writeBar ..

theorem copiesKept_postAll (c : Copy) (n : Nat) (s : State) : CopiesKept s (postAll s c n) := by
  unfold postAll
  generalize copyPlaces c = ps
  induction ps generalizing s with
  | nil => exact .refl s
  | cons p ps ih =>
    refine CopiesKept.trans ?_ (ih _)
    dsimp only
    split
    · exact copiesKept_barAdd ..
    · exact .refl s

theorem copiesKept_putLane (s : State) (id lane : Nat) (f : Thread → Thread) : CopiesKept s (putLane s id lane f) :=
  copiesKept_modGang s id (fun _ => rfl) fun _ => rfl

theorem numberCopy_kept (s : State) (g : Gang) (lane : Nat) (c : Copy) : CopiesKept s (numberCopy s g lane c).1 ∧
    ∃ q, (numberCopy s g lane c).2 = { c with seq := q } := by
  unfold numberCopy
  dsimp only
  split
  · exact ⟨CopiesKept.trans (t := modCore s g.core _) ⟨rfl, rfl, fun _ => rfl⟩ (copiesKept_putLane ..), _, rfl⟩
  · exact ⟨.refl s, c.seq, rfl⟩

/-- The copy as it stands in its entry, before its number. -/
def enteredCopy (s : State) (g : Gang) (c : Copy) : Copy := { c with id := s.nextId, reserved := decide (128 ≤ sharedUsed s g.core) }

/-- A copy that is entered is the last of the list, with a name of its own. -/
theorem addCopy_entered (s : State) (g : Gang) (lane : Nat) (c : Copy) : ∃ q,
    (addCopy s g lane c).copies = s.copies ++ [{ enteredCopy s g c with seq := q }] ∧ (addCopy s g lane c).lines = s.lines ∧
      ∀ id, (gangOf (addCopy s g lane c) id).map Gang.ready = (gangOf s id).map Gang.ready := by
  obtain ⟨hn, q, hq⟩ := numberCopy_kept { s with nextId := s.nextId + 1 } g lane (enteredCopy s g c)
  have hp := hn.trans (copiesKept_postAll (numberCopy { s with nextId := s.nextId + 1 } g lane (enteredCopy s g c)).2
    (numberCopy { s with nextId := s.nextId + 1 } g lane (enteredCopy s g c)).2.bytes _)
  have hl := fun u => copiesKept_putLane u g.id lane fun t => { t with unsealed := t.unsealed ++ [s.nextId] }
  refine ⟨q, ?_, ?_, fun id => ?_⟩
  · refine ((hl _).copies).trans ?_
    rw [← hq]
    exact congrArg (· ++ [_]) hp.copies
  · exact (hl _).lines.trans hp.lines
  · exact ((hl _).ready id).trans (hp.ready id)

/-- A copy that has been validated is entered where its entry is free. -/
theorem copyAt_free {s : State} {g : Gang} {lane : Nat} {c : Copy} (hg : (gangOf s g.id).isSome = true) (h : entryFree s g = true) :
    ∃ t q g', copyAt s g lane c = (t, .ok [] none) ∧
      t.copies = s.copies ++ [{ enteredCopy s g { c with table := copyTable s g c.map } with seq := q }] ∧
      gangOf t g.id = some g' ∧ g'.ready = none := by
  obtain ⟨q, hc, -, hr⟩ := addCopy_entered (modGang s g.id fun x => { x with ready := none }) g lane { c with table := copyTable s g c.map }
  obtain ⟨y, hy⟩ := Option.isSome_iff_exists.1 hg
  have hready := (hr g.id).trans (congrArg (Option.map Gang.ready)
    ((gangOf_modGang s g.id g.id (fun x => { x with ready := none }) fun _ => rfl).trans (if_pos rfl)))
  rw [hy] at hready
  obtain ⟨g', hg', hnone⟩ := Option.map_eq_some_iff.1 hready
  exact ⟨_, q, g', if_pos h, hc, hg', hnone⟩

theorem copyAt_full {s : State} {g : Gang} {lane : Nat} {c : Copy} (h : entryFree s g = false) :
    copyAt s g lane c = (modGang s g.id fun x => { x with ready := some c }, .block 6 .copyEntry) := if_neg (Bool.eq_false_iff.1 h)

/-- The copy of a command whose checks have passed. -/
def commandCopy (kind : CopyKind) (ch : Nat) (s : State) (g : Gang) (lane : Nat) (ca : Dbl) (cmd : CopyCmd) (m : TMap) (off : Option Nat) : Copy :=
  { baseCopy g lane kind ch with
    map := m, org := cmd.org, ext := cmd.ext, cvt := cmd.cvt, ops := cmd.ops, dst := cmd.dst, ranks := namedRanks s g cmd.mask, bar := off,
    units := boxElems cmd.ext / unitElems m cmd.cvt, bytes := boxElems cmd.ext / unitElems m cmd.cvt * unitBytes m cmd.cvt, colour := colourOf ca }

theorem copyOfCmd_ok {kind : CopyKind} {ch bw : Nat} {s : State} {g : Gang} {lane : Nat} {ca : Dbl} {cmd : CopyCmd} {m : TMap} {bs : List Byte}
    {off : Option Nat} (hres : mapReserved bs = true) (hm : m.valid = true)
    (hcmd : cmd.valid m (kind == .out) (kind == .gen) (g.task != 0) (launchD s g.launch).desc.blocks = true)
    (hbar : barrierWord s lane (colourOf ca) (rankPlaces g (namedRanks s g cmd.mask)) bw true = .ok off)
    (hrange : rangeCheck s g lane (colourOf ca) (namedRanks s g cmd.mask) cmd.dst (boxElems cmd.ext / unitElems m cmd.cvt * unitBytes m cmd.cvt) = .ok ()) :
    copyOfCmd kind ch bw s g lane ca cmd m bs = .ok (commandCopy kind ch s g lane ca cmd m off) := by
  unfold copyOfCmd
  simp only [hres, hm, hcmd, hbar, hrange, Bool.not_true, Bool.or_self, Bool.false_eq_true, if_false]
  rfl

/-- The copy of a prefetch. -/
def prefetchCopy (b a : Nat) (s : State) (g : Gang) (lane : Nat) (off : Option Nat) : Copy :=
  { baseCopy g lane .pf 8 with
    ranks := namedRanks s g 0, bar := off, bytes := (rdReg g.level (thr g lane) b).toNat, start := laneAddr g lane a,
    units := (vaOf (laneAddr g lane a) + (rdReg g.level (thr g lane) b).toNat - 1) / 128 - vaOf (laneAddr g lane a) / 128 + 1 }

theorem prefetchLane_eq {s : State} {g : Gang} {lane b a d : Nat} {off : Option Nat}
    (hw : windowBad g.level g.nregs (thr g lane) [.pair a, .reg b, .reg d] = none) (hcan : canonical (laneAddr g lane a) = true)
    (hap : apertureOf (laneAddr g lane a) = .global)
    (hbar : barrierWord s lane 0 (rankPlaces g (namedRanks s g 0)) (rdReg g.level (thr g lane) d).toNat false = .ok off)
    (hlease : firstUnleased (launchD s g.launch) (vaOf (laneAddr g lane a)) (rdReg g.level (thr g lane) b).toNat true false false = none) :
    prefetchLane b a d s g lane = if (rdReg g.level (thr g lane) b).toNat = 0 then (s, .ok [] none)
      else if !entryFree s g then (s, .block 6 .copyEntry)
      else (sweepPresent (addCopy s g lane (prefetchCopy b a s g lane off)) s.nextId, .ok [] none) := by
  have hwin : laneWindow g lane [.pair a, .reg b, .reg d] = .ok () := by
    unfold laneWindow
    rw [hw]
  unfold prefetchLane
  simp only [hwin, hcan, hap, hbar, hlease, Bool.not_true, Bool.false_eq_true, if_false, bne_self_eq_false]
  rfl

theorem sweepPresent_noLines {s : State} (h : s.lines = []) (id : Nat) : sweepPresent s id = s := by
  unfold sweepPresent
  split
  · rfl
  · rw [h]
    rfl

/-! ### `spawn` (R39, R334) -/

theorem laneRecord_kept {lz : Bool} {a : Nat} {s : State} {g : Gang} {lane : Nat} {bs : List Byte} (h : g.record = some (lane, bs)) :
    laneRecord lz a s g lane = (s, .ok bs) := by
  unfold laneRecord
  rw [h]
  exact if_pos rfl

theorem laneRecord_read {lz : Bool} {a : Nat} {s s1 : State} {g : Gang} {lane : Nat} {bs : List Byte} (h : ∀ x, g.record ≠ some (lane, x))
    (hw : windowBad g.level g.nregs (thr g lane) [.pair a] = none) (hread : readRecord s g lane (laneAddr g lane a) = (s1, .ok bs))
    (hok : recordFail s1 g lane (laneAddr g lane a) bs lz = none) : laneRecord lz a s g lane = (s1, .ok bs) := by
  have hfresh : laneRecord.fresh lz a s g lane = (s1, .ok bs) := by
    unfold laneRecord.fresh laneWindow
    simp only [hw, hread, hok]
  unfold laneRecord
  split
  next l x hr =>
    have hl : l ≠ lane := by
      rintro rfl
      exact h x hr
    rw [if_neg hl, hfresh]
  next => exact hfresh

section Spawn

variable {lz : Bool} {a lane : Nat} {s s1 : State} {g : Gang} {bs : List Byte} (h : laneRecord lz a s g lane = (s1, .ok bs))

include h

theorem spawnLane_over (hord : ordinalOver (launchD s1 g.launch) = true) : spawnLane lz a s g lane =
    (modGang s1 g.id fun x => { x with record := none, gate := none }, .fail ⟨lane, 0x11, 0, 0⟩) := by
  unfold spawnLane
  simp only [h, hord, if_true]
  rfl

variable (hord : ordinalOver (launchD s1 g.launch) = false)

include hord

theorem spawnLane_full {s2 : State} (hf : findRecord s1 (launchD s1 g.launch) g.core = (s2, none)) : spawnLane lz a s g lane =
    (modGang s2 g.id fun x => { x with record := some (lane, bs) }, .block 8 .record) := by
  unfold spawnLane
  simp only [h, hord, hf, Bool.false_eq_true, if_false]
  rfl

theorem spawnLane_found {s2 : State} {r : Nat} (hf : findRecord s1 (launchD s1 g.launch) g.core = (s2, some r)) :
    spawnLane lz a s g lane = keepRecord (some (lane, bs)) g.id (spawnAt s2 g lane (newTask s2 g bs lz r)) := by
  unfold spawnLane
  simp only [h, hord, hf, Bool.false_eq_true, if_false]

end Spawn

theorem spawnAt_busy {s s1 : State} {g : Gang} {lane x : Nat} {t : Task} (h : resultCell s g lane t.cell = (s1, .ok (some x)))
    (hx : cellOpen s1 x = false) : spawnAt s g lane t = (s, .busy) := by
  unfold spawnAt
  rw [h]
  exact if_pos (by rw [Option.any_some, hx]; rfl)

section Unlogged

variable {s : State} {g : Gang} (hrep : (launchD s g.launch).desc.replaying = false) (hrec : (launchD s g.launch).desc.recording = false)

include hrep

theorem gateCheck_unlogged (u : Option UnitId) : gateCheck s g u = .go := by
  unfold gateCheck
  split
  · rfl
  · unfold admits
    simp only [hrep, Bool.not_false, if_true]

theorem spawnBeyond_unlogged (u v : Option UnitId) : spawnBeyond s g u v = (s, none) := by
  unfold spawnBeyond
  simp only [gateCheck_unlogged hrep]
  rfl

include hrec

theorem passGate_unlogged (u : Option UnitId) : passGate s g u = s := by
  unfold passGate
  split
  · rfl
  · unfold admitted
    simp only [hrep, hrec, Bool.false_and, Bool.false_eq_true, if_false]

end Unlogged

theorem spawnAt_bears {s s3 s4 : State} {g : Gang} {lane : Nat} {t : Task} {pa : Option Nat} (h : resultCell s g lane t.cell = (s3, .ok pa))
    (hopen : ∀ x, pa = some x → cellOpen s3 x = true ∧ cellState s3 x = 0)
    (hheld : if g.task = 0 ∨ pa = none then s4 = s3 else appendHeld s3 g lane (mkHandle s3 t) = (s4, .ok ()))
    (hrep : (launchD s3 g.launch).desc.replaying = false) (hrec : (launchD s3 g.launch).desc.recording = false) :
    ∃ hits, spawnAt s g lane t = (bearTask s4 g t pa, .ok hits none) := by
  have h1 : (pa.any fun x => !cellOpen s3 x) = false := by
    cases pa with
    | none => rfl
    | some x => rw [Option.any_some, (hopen x rfl).1]; rfl
  have h2 : (pa.any fun x => cellState s3 x != cellValue) = false := by
    cases pa with
    | none => rfl
    | some x => rw [Option.any_some, (hopen x rfl).2]; rfl
  have h3 : (if g.task = 0 ∨ pa = none then (s3, Except.ok ()) else appendHeld s3 g lane (mkHandle s3 t)) = (s4, .ok ()) := by
    by_cases hc : g.task = 0 ∨ pa = none
    · rw [if_pos hc] at hheld ⊢
      rw [hheld]
    · rw [if_neg hc] at hheld ⊢
      exact hheld
  refine ⟨if pa.isSome then hitsOf (bearTask s4 g t pa) g lane t.cell 8 true true else [], ?_⟩
  unfold spawnAt
  simp only [h, h1, gateCheck_unlogged hrep, spawnBeyond_unlogged hrep, passGate_unlogged hrep hrec, h2, h3, Bool.false_eq_true, if_false]

/-- The state in which a task's cell names it. -/
def cellNamed (s : State) (g : Gang) (t : Task) : Option Nat → State
  | none => s
  | some pa => dirtyAt (setCell s pa (payload 1 noWaiter (mkHandle s t)) (if t.lazy then cellSuspended else cellRunning)) g t.cell pa

theorem addTask_inPool (s : State) {t : Task} (h : t.index < 4096) : addTask s t = { s with
    tasks := (s.tasks.filter fun x => !(x.die == t.die && x.nbhd == t.nbhd && x.index == t.index && x.state == 0)) ++ [t] } := by
  unfold addTask storeTask
  simp only [if_neg (Nat.not_le.2 h)]

/-- The state in which a task has joined the list, and its launch has counted it. -/
def taskJoined (s : State) (g : Gang) (t : Task) (pa : Option Nat) : State :=
  addTask (modLaunch { cellNamed s g t pa with nextId := (cellNamed s g t pa).nextId + 1 } g.launch fun L => { L with spawnOrd := L.spawnOrd + 1 }) t

theorem bearTask_uncounted {s : State} {g : Gang} {t : Task} {pa : Option Nat} (hc : t.countsIn = false) : bearTask s g t pa =
    if (launchD (taskJoined s g t pa) g.launch).ending.isSome then sweepTask (taskJoined s g t pa) t else taskJoined s g t pa := by
  have h : bearTask s g t pa = (fun u : State => if (launchD u g.launch).ending.isSome then sweepTask u t else u)
      (if t.countsIn then changeTask (taskJoined s g t pa) g.task fun x => { x with join := x.join + 1 } else taskJoined s g t pa) := rfl
  rw [h, if_neg (Bool.eq_false_iff.1 hc)]

/-- A task that its launch's end does not reach, and that no task counts, joins the list; its cell names it. -/
theorem bearTask_eq {s : State} {g : Gang} {t : Task} {pa : Option Nat} (hi : t.index < 4096) (hc : t.countsIn = false)
    (hl : (cellNamed s g t pa).launches = s.launches) (hend : (launchD s g.launch).ending = none) : bearTask s g t pa = taskJoined s g t pa := by
  have hlaunch : launchOf (taskJoined s g t pa) g.launch = (launchOf s g.launch).map fun L => { L with spawnOrd := L.spawnOrd + 1 } := by
    unfold taskJoined
    rw [addTask_inPool _ hi]
    refine (launchOf_modLaunch_same { cellNamed s g t pa with nextId := (cellNamed s g t pa).nextId + 1 } (id := g.launch)
      (f := fun L => { L with spawnOrd := L.spawnOrd + 1 }) fun _ => rfl).trans ?_
    unfold launchOf
    rw [← hl]
  have hnone : (launchD (taskJoined s g t pa) g.launch).ending = none := by
    unfold launchD at hend ⊢
    rw [hlaunch]
    cases h : launchOf s g.launch with
    | none => rfl
    | some L =>
      rw [h] at hend
      exact hend
  rw [bearTask_uncounted hc, hnone]
  exact if_neg Bool.false_ne_true

theorem taskJoined_in {s : State} {g : Gang} {t : Task} {pa : Option Nat} (hi : t.index < 4096) : t ∈ (taskJoined s g t pa).tasks ∧
    (taskJoined s g t pa).tags = (cellNamed s g t pa).tags ∧ (taskJoined s g t pa).mem = (cellNamed s g t pa).mem := by
  unfold taskJoined
  rw [addTask_inPool _ hi]
  exact ⟨List.mem_append_right _ List.mem_cons_self, rfl, rfl⟩

theorem cellState_congr {s t : State} (h : t.tags = s.tags) (pa : Nat) : cellState t pa = cellState s pa := by
  unfold cellState
  rw [show tagAt t (physLoc pa) = tagAt s (physLoc pa) from congrArg (fun m => (rdByte m (pa / 16)).toNat) h]

theorem cellPayload_congr {s t : State} (h : t.mem = s.mem) (pa : Nat) : cellPayload t pa = cellPayload s pa := by
  unfold cellPayload
  rw [show readNat t (physLoc pa) 8 = readNat s (physLoc pa) 8 from congrArg (fun m => rdLE m pa 8) h]

/-- An address with no offset keeps its virtual address. -/
theorem vaOf_effAddr_zero {base ea : Dbl} (h : effAddr base 0 = some ea) : vaOf ea = vaOf base := by
  unfold effAddr at h
  split at h
  · dsimp only at h
    split at h
    · cases h
    · cases h
      unfold vaOf sext wrapN bits
      rw [BitVec.toNat_ofNat]
      have := base.isLt
      generalize base.toNat = x at *
      norm_num
      split <;> omega
  · cases h

theorem stage1_globalOnly {s : State} {g : Gang} {lane n al : Nat} {base ea : Dbl} {off : Int}
    (h : stage1 s g lane base off n al false false true = .ok ea) : effAddr base off = some ea ∧ apertureOf ea = .global := by
  unfold stage1 at h
  cases hea : effAddr base off with
  | none => simp [hea] at h
  | some x =>
    simp only [hea] at h
    split at h
    · cases h
    cases hap : apertureOf x with
    | global =>
      simp only [hap, if_true] at h
      cases h
      exact ⟨rfl, hap⟩
    | pooled => simp [hap] at h
    | stack => simp [hap] at h

/-- The cell that a task's result goes to has been reached through an entry of the buffers. -/
theorem resultCell_buffered {s s1 : State} {g : Gang} {lane pa : Nat} {cell : Dbl} (h : resultCell s g lane cell = (s1, .ok (some pa))) :
    Buffered s1 (.core g.core) (ctxOf s1 g) (vaOf cell) pa := by
  unfold resultCell at h
  split at h
  · cases h
  cases hst : stage1 s g lane cell 0 8 8 false false true with
  | error f => simp [hst] at h
  | ok ea =>
    obtain ⟨hea, hap⟩ := stage1_globalOnly hst
    simp only [hst] at h
    cases harr : arrive s g lane ea 8 { w := true, cell := true } with
    | mk u r =>
      cases r with
      | error f => simp [harr] at h
      | ok x =>
        simp only [harr] at h
        obtain ⟨p, leaf, rfl⟩ := arrive_global harr hap
        cases h
        obtain ⟨ht, hb⟩ := arrive_glob harr
        rw [vaOf_effAddr_zero hea] at hb
        rw [ctxOf, ht.launchD]
        exact hb

theorem payload_first (h : Word) : payload 1 noWaiter h = BitVec.ofNat 64 (2 ^ 48 + 65535 * 2 ^ 32 + h.toNat) := by
  have hw : noWaiter = 65535 := rfl
  rw [payload, hw, one_mul]

/-- A cell that is written, and its page marked through an entry that stands in the buffers. -/
theorem dirtied_cell {s : State} {g : Gang} {ea : Dbl} {pa st : Nat} (h : Buffered s (.core g.core) (ctxOf s g) (vaOf ea) pa) (v : Dbl) (hst : st < 4) :
    (dirtyAt (setCell s pa v st) g ea pa).launches = s.launches ∧ cellState (dirtyAt (setCell s pa v st) g ea pa) pa = st ∧
      cellPayload (dirtyAt (setCell s pa v st) g ea pa) pa = v := by
  obtain ⟨es, hes⟩ := dirtyAt_setCell h v st
  rw [hes]
  exact ⟨rfl, (cellState_congr rfl pa).trans (cellState_setCell s pa v hst), (cellPayload_congr rfl pa).trans (cellPayload_setCell s pa v st)⟩

/-- A task that is born names itself in its cell. -/
theorem cellNamed_cell {s : State} {g : Gang} {t : Task} {x : Nat} (h : Buffered s (.core g.core) (ctxOf s g) (vaOf t.cell) x) :
    (cellNamed s g t (some x)).launches = s.launches ∧ cellState (cellNamed s g t (some x)) x = (if t.lazy then 2 else 1) ∧
      cellPayload (cellNamed s g t (some x)) x = BitVec.ofNat 64 (2 ^ 48 + 65535 * 2 ^ 32 + (mkHandle s t).toNat) := by
  have hst : (if t.lazy then cellSuspended else cellRunning) < 4 := by
    split <;> decide
  obtain ⟨hl, hs, hp⟩ := dirtied_cell h (payload 1 noWaiter (mkHandle s t)) hst
  exact ⟨hl, hs, hp.trans (payload_first _)⟩

theorem launchLane_takes {s : State} {g : Gang} {lane a q ctx head : Nat} (hcan : canonical (laneAddr g lane a) = true)
    (hap : apertureOf (laneAddr g lane a) = .global) (hal : (laneAddr g lane a).toNat % 64 = 0)
    (hq : enabledQueue s (g.core / 1024) q = some (ctx, head)) (hctx : ctx = (launchD s g.launch).ctx)
    (hlease : firstUnleased (launchD s g.launch) (vaOf (laneAddr g lane a)) 256 true false false = none) (hroom : unstarted s (g.core / 1024) < 1024) :
    launchLane a q s g lane = ((takeLaunch s (g.core / 1024) q ctx (laneAddr g lane a) head none none none 0).1, .ok [] none) := by
  subst hctx
  unfold launchLane coreDie
  simp only [hcan, hap, hal, hq, hlease, Bool.not_true, Bool.false_eq_true, if_false, bne_self_eq_false, if_neg (Nat.not_le.2 hroom)]

/-! ### Watchpoints (R381) -/

theorem wptSetLane_none {s : State} {g : Gang} {lane a b d : Nat} {w : Wpt}
    (hw : watchOf g lane (laneAddr g lane a) (rdReg g.level (thr g lane) b).toNat = some w) (h : freeWatch s (watchCores s g w.scope) = []) :
    wptSetLane b a d s g lane = (putLane s g.id lane fun x => wrReg g.level x d 16, .ok [] none) := by
  unfold wptSetLane
  simp only [hw, h]
  rfl

theorem wptSetLane_armed {s : State} {g : Gang} {lane a b d : Nat} {w : Wpt}
    (hw : watchOf g lane (laneAddr g lane a) (rdReg g.level (thr g lane) b).toNat = some w) (h : freeWatch s (watchCores s g w.scope) ≠ []) :
    ∃ i s1, i ∈ freeWatch s (watchCores s g w.scope) ∧ { s1 with fresh := s.fresh } = s ∧
      wptSetLane b a d s g lane = (putLane (modWatch s1 (watchCores s g w.scope) fun m => fput m i w) g.id lane
        fun x => wrReg g.level x d (BitVec.ofNat 32 i), .ok [] none) := by
  have hlt := pick_lt (s := s) fun hz => h (List.length_eq_zero_iff.1 hz)
  refine ⟨(freeWatch s (watchCores s g w.scope))[(pick s (freeWatch s (watchCores s g w.scope)).length).1],
    (pick s (freeWatch s (watchCores s g w.scope)).length).2, List.getElem_mem hlt, pick_rest .., ?_⟩
  have hp : pickFrom s (freeWatch s (watchCores s g w.scope)) =
      (some (freeWatch s (watchCores s g w.scope))[(pick s (freeWatch s (watchCores s g w.scope)).length).1],
        (pick s (freeWatch s (watchCores s g w.scope)).length).2) := by
    rw [pickFrom, List.getElem?_eq_getElem hlt]
  unfold wptSetLane
  simp only [hw, hp]

theorem wptClrLane_own {s : State} {g : Gang} {lane b d : Nat} {w : Wpt} (hw : fget (coreOf s g.core).wpts (rdReg g.level (thr g lane) b).toNat = some w)
    (hg : w.gang = g.id) (hl : w.lane = lane) : wptClrLane b d s g lane =
      (putLane (modWatch s (watchCores s g w.scope) fun m => fdel m (rdReg g.level (thr g lane) b).toNat) g.id lane fun x => wrReg g.level x d 0,
        .ok [] none) := by
  unfold wptClrLane
  simp only [hw]
  exact if_pos ⟨hg, hl⟩

theorem wptClrLane_other {s : State} {g : Gang} {lane b d : Nat}
    (h : ∀ w, fget (coreOf s g.core).wpts (rdReg g.level (thr g lane) b).toNat = some w → w.gang ≠ g.id ∨ w.lane ≠ lane) :
    wptClrLane b d s g lane = (putLane s g.id lane fun x => wrReg g.level x d 1, .ok [] none) := by
  unfold wptClrLane
  dsimp only
  split
  next w hw => exact if_neg fun hw' => (h w hw).elim (fun k => k hw'.1) fun k => k hw'.2
  next => rfl

/-- Settles O39: the order of the lanes by induction on them, and each lane's action by its own lemma. -/
theorem lanesInOrder : Obligations.LanesInOrder := by
  unfold Obligations.LanesInOrder
  refine ⟨fun i cls step ok hform s g c t g1 c1 h hok hall hg1 hc1 => ?_, fun s g lane b a d n => ⟨fun kind x hx hg => ⟨fun hfree => ?_, fun hfull => ?_⟩,
    fun kind l s1 bs off _ hready harr => ?_, fun hw hcan hap off hbar hlease => ?_, fun lz bs => laneRecord_kept, fun lz s1 bs => laneRecord_read,
    fun lz s1 bs s2 h => ⟨spawnLane_over h, fun hord => ⟨spawnLane_full h hord, fun r s3 s4 pa hf => ?_⟩⟩,
    fun q ctx head => launchLane_takes, fun named => rfl, fun hw => ?_, fun w hw => ⟨wptSetLane_none hw, wptSetLane_armed hw⟩,
    fun w => wptClrLane_own, wptClrLane_other⟩⟩
  · have hdoes : DoesLanes i cls step s g c := by
      obtain ⟨k, b, a, n, hk, rfl, rfl, rfl⟩ | ⟨b, a, d, rfl, rfl, rfl, rfl⟩ | ⟨a, lz, rfl, rfl, rfl, rfl⟩ | ⟨q, a, rfl, rfl, rfl, rfl⟩ |
        ⟨a, d, rfl, rfl, rfl, rfl⟩ | ⟨a, d, rfl, rfl, rfl, rfl⟩ | ⟨d, rfl, rfl, rfl, rfl⟩ | ⟨b, a, d, rfl, rfl, rfl, rfl⟩ | ⟨b, d, rfl, rfl, rfl, rfl⟩ := hform
      · simp only [List.mem_cons, Prod.mk.injEq, List.not_mem_nil, or_false] at hk
        obtain ⟨rfl, rfl⟩ | ⟨rfl, rfl⟩ | ⟨rfl, rfl⟩ | ⟨rfl, rfl⟩ := hk <;> exact doesLanes_copy h rfl hok
      · exact doesLanes_seq h rfl
      · cases lz <;> exact doesLanes_seq h rfl
      · exact doesLanes_launch h hok
      · exact doesLanes_cancelAt h rfl hok.1 hok.2
      · exact doesLanes_cancelAt h rfl hok.1 hok.2
      · exact doesLanes_cancelJ h hok
      · exact doesLanes_wptSet h hok.1 hok.2
      · exact doesLanes_wptClr h hok
    exact hdoes.trans (congrArg Host.Outcome.next (seqLanes_all hg1 hc1 _ 0 s hall))
  · obtain ⟨t, q, g', ht, hcopies, hg', hnone⟩ := copyAt_free (lane := lane) (c := x) hg hfree
    refine ⟨t, _, g', ?_, hcopies, rfl, hg', hnone⟩
    unfold copyLane
    simp only [hx]
    exact ht
  · unfold copyLane
    simp only [hx]
    exact copyAt_full hfull
  · intro cmd m units hmap hres hm hcmd hbar hrange hkind
    have heq : copyLane kind b a n s g lane = copyAt s1 g lane (commandCopy kind n s1 g lane (laneAddr g lane a) cmd m off) := by
      have hcopy := copyOfCmd_ok (kind := kind) (ch := n) (bs := bs) hres hm hcmd hbar hrange
      unfold copyLane
      simp only [hready, harr]
      simp only [show readMap s g lane (parseCmd (readBytes s l (cmdBytes kind)) (kind == .gen)).map = _ from hmap]
      rw [show copyOfCmd kind n _ s1 g lane _ (parseCmd (readBytes s l (cmdBytes kind)) (kind == .gen)) (parseMap bs) bs = _ from hcopy]
    refine ⟨fun hfull => ⟨_, heq.trans (copyAt_full hfull)⟩, fun hfree => ?_⟩
    obtain ⟨q, hcopies, -, -⟩ := addCopy_entered (modGang s1 g.id fun x => { x with ready := none }) g lane
      { commandCopy kind n s1 g lane (laneAddr g lane a) cmd m off with table := copyTable s1 g m }
    exact ⟨_, _, heq.trans (if_pos hfree), hcopies, rfl, rfl, rfl, rfl, rfl, rfl, rfl, rfl, rfl, rfl, rfl, rfl, rfl, if_neg hkind⟩
  · have heq := prefetchLane_eq hw hcan hap hbar hlease
    refine ⟨fun hn => heq.trans (if_pos hn), fun hn hfree => ?_⟩
    rw [if_neg hn, hfree] at heq
    obtain ⟨q, hcopies, hlines, -⟩ := addCopy_entered s g lane (prefetchCopy b a s g lane off)
    exact ⟨addCopy s g lane (prefetchCopy b a s g lane off), { enteredCopy s g (prefetchCopy b a s g lane off) with seq := q },
      heq.trans (if_neg Bool.false_ne_true), hcopies, rfl, rfl, rfl, rfl, rfl, fun hno => sweepPresent_noLines (hlines.trans hno) _⟩
  · intro t hcell
    refine ⟨fun x hx hopen => ?_, fun hopen hheld hrep hrec => ⟨?_, fun _ hr hend htask => ?_⟩⟩
    · subst hx
      rw [spawnLane_found h hord hf, spawnAt_busy hcell hopen]
      rfl
    · obtain ⟨hits, hb⟩ := spawnAt_bears hcell hopen hheld hrep hrec
      refine ⟨hits, ?_⟩
      rw [spawnLane_found h hord hf, hb]
      rfl
    · have h4 : s4 = s3 := by
        rw [if_pos (.inl htask)] at hheld
        exact hheld
      subst h4
      have huncounted : t.countsIn = false := by
        show (!lz && g.task != 0) = false
        rw [htask, bne_self_eq_false, Bool.and_false]
      have hbuf : ∀ x, pa = some x → Buffered s4 (.core g.core) (ctxOf s4 g) (vaOf t.cell) x := fun x hx => resultCell_buffered (hx ▸ hcell)
      have hlaunches : (cellNamed s4 g t pa).launches = s4.launches := by
        cases hp : pa with
        | none => rfl
        | some x => exact (cellNamed_cell (hbuf x hp)).1
      rw [bearTask_eq hr huncounted hlaunches hend]
      obtain ⟨hmem, htags, hm⟩ := taskJoined_in (s := s4) (g := g) (t := t) (pa := pa) hr
      refine ⟨hmem, fun x hx _ => ?_⟩
      obtain ⟨-, hstate, hpay⟩ := cellNamed_cell (hbuf x hx)
      rw [cellState_congr htags, cellPayload_congr hm]
      subst hx
      exact ⟨hstate, hpay⟩
  · unfold wptSetLane
    simp only [hw]
    rfl

end Sys2Proof.Machine
end

section

/-!
# What a step at a cell leaves beside the cell
-/

namespace Sys2Proof.Machine

-- One proof at a time: each waiting thread would reserve a stack of its own.
set_option Elab.async false

/-! ### Gangs that a wake leaves, but for the wake (R336) -/

/-- A gang keeps its threads and memories; a wait on cells stays one, and stays woken. -/
structure GangKept (x y : Gang) : Prop where
  core : (y.threads, y.frontier, y.clause, y.level) = (x.threads, x.frontier, x.clause, x.level)
  priv : y.priv = x.priv
  stack : y.stack = x.stack
  waits : ∀ st b τ, x.wait = .blocked st (.cells b) τ → ∃ b', y.wait = .blocked st (.cells b') τ ∧ (b = true → b' = true)

theorem GangKept.refl (x : Gang) : GangKept x x := ⟨rfl, rfl, rfl, fun _ b _ h => ⟨b, h, fun hb => hb⟩⟩

theorem GangKept.trans {x y z : Gang} (h : GangKept x y) (k : GangKept y z) : GangKept x z := by
  refine ⟨k.core.trans h.core, k.priv.trans h.priv, k.stack.trans h.stack, fun st b τ hx => ?_⟩
  obtain ⟨b1, h1, hb1⟩ := h.waits st b τ hx
  obtain ⟨b2, h2, hb2⟩ := k.waits st b1 τ h1
  exact ⟨b2, h2, hb2 ∘ hb1⟩

/-- Every gang is kept. -/
def GangsKept (s t : State) : Prop := ∀ k, Option.Rel GangKept (gangOf s k) (gangOf t k)

theorem optionRel_kept_refl (o : Option Gang) : Option.Rel GangKept o o := by
  cases o with
  | none => exact .none
  | some x => exact .some (.refl x)

theorem GangsKept.refl (s : State) : GangsKept s s := fun _ => optionRel_kept_refl _

theorem GangsKept.trans {s t u : State} (h : GangsKept s t) (k : GangsKept t u) : GangsKept s u := fun id => by
  have h1 := h id
  have h2 := k id
  generalize gangOf s id = a at h1
  generalize gangOf t id = b at h1 h2
  generalize gangOf u id = c at h2
  cases h1 with
  | none =>
    cases h2
    exact .none
  | some hab =>
    cases h2 with
    | some hbc => exact .some (hab.trans hbc)

theorem GangsKept.of_gangs {s t : State} (h : t.gangs = s.gangs) : GangsKept s t := fun id => by
  unfold gangOf
  rw [h]
  exact optionRel_kept_refl _

theorem gangsKept_modGang (s : State) (id : Nat) {f : Gang → Gang} (hid : ∀ x, (f x).id = x.id) (hf : ∀ x, GangKept x (f x)) :
    GangsKept s (modGang s id f) := fun h => by
  rw [gangOf_modGang s id h f hid]
  split
  · cases gangOf s h with
    | none => exact .none
    | some x => exact .some (hf x)
  · exact optionRel_kept_refl _

theorem gangsKept_map {s t : State} {f : Gang → Gang} (ht : t.gangs = s.gangs.map f) (hid : ∀ x, (f x).id = x.id) (hf : ∀ x, GangKept x (f x)) :
    GangsKept s t := fun h => by
  have hg : gangOf t h = (gangOf s h).map f := by
    unfold gangOf
    rw [ht]
    exact findBy_map hid h s.gangs
  rw [hg]
  cases gangOf s h with
  | none => exact .none
  | some x => exact .some (hf x)

/-- A change of the conditions that keeps waits on cells keeps the gang. -/
theorem gangKept_mapConds {f : Cond → Cond} (hf : ∀ b, ∃ b', f (.cells b) = .cells b' ∧ (b = true → b' = true)) (x : Gang) : GangKept x (x.mapConds f) := by
  refine ⟨rfl, rfl, rfl, fun st b τ hx => ?_⟩
  obtain ⟨b', hb, hb'⟩ := hf b
  refine ⟨b', ?_, hb'⟩
  show x.wait.mapCond f = _
  rw [hx, Wait.mapCond, hb]

theorem gangKept_cellsWoken (x : Gang) : GangKept x (x.mapConds Cond.cellsWoken) := gangKept_mapConds (fun _ => ⟨true, rfl, fun _ => rfl⟩) x

theorem gangsKept_wakeMwait (s : State) (l : Loc) (n : Nat) : GangsKept s (wakeMwait s l n) :=
  gangsKept_map rfl (fun _ => rfl) fun x => gangKept_mapConds (fun b => ⟨b, rfl, id⟩) x

theorem gangsKept_setCell (s : State) (pa : Nat) (v : Dbl) (st : Nat) : GangsKept s (setCell s pa v st) :=
  GangsKept.trans (t := putBytes s (physLoc pa) (leOf 8 v.toNat)) (.of_gangs rfl) (gangsKept_wakeMwait _ (physLoc pa) _)

/-- What a kept gang shows alike. -/
theorem GangsKept.map_eq {s t : State} (h : GangsKept s t) {α : Type} {f : Gang → α} (hf : ∀ x y, GangKept x y → f y = f x) (id : Nat) :
    (gangOf t id).map f = (gangOf s id).map f := by
  have := h id
  generalize gangOf s id = a at this
  generalize gangOf t id = b at this
  cases this with
  | none => rfl
  | some hk => exact congrArg some (hf _ _ hk)

theorem GangsKept.threads {s t : State} (h : GangsKept s t) : SameThreads s t := h.map_eq fun _ _ hk => hk.core

/-! ### The state beside the gangs, the dies and the tasks -/

/-- A step that changes gangs as a wake does, the dies, the tasks and the numbers given out, and nothing else. -/
structure Beside (s t : State) : Prop where
  rest : { t with gangs := s.gangs, dies := s.dies, nextId := s.nextId, tasks := s.tasks } = s
  kept : GangsKept s t

theorem Beside.refl (s : State) : Beside s s := ⟨rfl, .refl s⟩

theorem Beside.trans {s t u : State} (h : Beside s t) (k : Beside t u) : Beside s u := by
  refine ⟨?_, h.kept.trans k.kept⟩
  have h1 := h.rest
  have h2 := k.rest
  cases s; cases t; cases u
  simp only [State.mk.injEq] at h1 h2 ⊢
  simp_all

namespace Beside

variable {s t : State} (h : Beside s t)
include h

theorem mem : t.mem = s.mem := by have := congrArg State.mem h.rest; exact this
theorem tags : t.tags = s.tags := by have := congrArg State.tags h.rest; exact this
theorem tlb : t.tlb = s.tlb := by have := congrArg State.tlb h.rest; exact this
theorem launches : t.launches = s.launches := by have := congrArg State.launches h.rest; exact this
theorem blocks : t.blocks = s.blocks := by have := congrArg State.blocks h.rest; exact this
theorem module : t.module = s.module := by have := congrArg State.module h.rest; exact this

theorem space (p : Place) : spaceOf t p = spaceOf s p := by
  cases p with
  | phys => rfl
  | scratch b =>
    unfold spaceOf blockOf
    rw [h.blocks]
  | priv g => exact congrArg (·.getD {}) (h.kept.map_eq (fun _ _ hk => hk.priv) g)
  | stack g => exact congrArg (·.getD {}) (h.kept.map_eq (fun _ _ hk => hk.stack) g)

theorem sameBytes : SameBytes s t := fun l => by
  unfold readByte
  cases l.place with
  | phys => exact congrArg (rdByte · l.off) h.mem
  | scratch b => exact congrArg (fun x : Space => rdByte x.bytes l.off) (h.space (.scratch b))
  | priv g => exact congrArg (fun x : Space => rdByte x.bytes l.off) (h.space (.priv g))
  | stack g => exact congrArg (fun x : Space => rdByte x.bytes l.off) (h.space (.stack g))

theorem cellState (pa : Nat) : Machine.cellState t pa = Machine.cellState s pa := cellState_congr h.tags pa
theorem cellPayload (pa : Nat) : Machine.cellPayload t pa = Machine.cellPayload s pa := cellPayload_congr h.mem pa

theorem colourAt (pa : Nat) : Machine.colourAt t (physLoc pa) = Machine.colourAt s (physLoc pa) := by
  unfold Machine.colourAt
  rw [show tagAt t (physLoc pa) = tagAt s (physLoc pa) from congrArg (fun m => (rdByte m (pa / 16)).toNat) h.tags]

theorem ctxOf (g : Gang) : Machine.ctxOf t g = Machine.ctxOf s g := by
  unfold Machine.ctxOf launchD launchOf
  rw [h.launches]

theorem buffered {q : Asker} {ctx va pa : Nat} (hb : Buffered s q ctx va pa) : Buffered t q ctx va pa := by
  unfold Buffered found at *
  rw [h.tlb]
  exact hb

theorem mkHandle (tk : Task) : Machine.mkHandle t tk = Machine.mkHandle s tk := by
  unfold Machine.mkHandle dieId
  rw [h.module]

end Beside

theorem beside_modGang (s : State) (id : Nat) {f : Gang → Gang} (hid : ∀ x, (f x).id = x.id) (hf : ∀ x, GangKept x (f x)) :
    Beside s (modGang s id f) := ⟨rfl, gangsKept_modGang s id hid hf⟩

theorem beside_modDie (s : State) (d : Nat) (f : Die → Die) : Beside s (modDie s d f) := ⟨rfl, .of_gangs rfl⟩
theorem beside_modTask (s : State) (h : Word) (f : Task → Task) : Beside s (modTask s h f) := ⟨rfl, .of_gangs rfl⟩

/-- A gang woken at a cell, in its place in the order of the wakes. -/
def wokenGang (n : Nat) (g : Gang) : Gang :=
  { g.mapConds Cond.cellsWoken with wakeOrder := if g.wakeOrder.isNone then some n else g.wakeOrder }

theorem gangOf_wakeCells (s : State) (id : Nat) : gangOf (wakeCells s id) id = (gangOf s id).map (wokenGang s.nextId) :=
  (gangOf_modGang { s with nextId := s.nextId + 1 } id id (wokenGang s.nextId) fun _ => rfl).trans (if_pos rfl)

theorem beside_wakeCells (s : State) (id : Nat) : Beside s (wakeCells s id) := by
  refine Beside.trans (t := { s with nextId := s.nextId + 1 }) ⟨rfl, .of_gangs rfl⟩ (beside_modGang _ id (fun _ => rfl) fun x => ?_)
  obtain ⟨h1, h2, h3, h4⟩ := gangKept_cellsWoken x
  exact ⟨h1, h2, h3, h4⟩

theorem beside_retryWaiters (s : State) : Beside s (retryWaiters s) := ⟨rfl, gangsKept_map rfl (fun _ => rfl) gangKept_cellsWoken⟩

/-! ### The queue of waiters (R338) -/

theorem dies_length_modDie (s : State) (d : Nat) (f : Die → Die) : (modDie s d f).dies.length = s.dies.length := setAt_length ..

theorem dieOf_modDie {s : State} {d : Nat} (h : d < s.dies.length) (f : Die → Die) : dieOf (modDie s d f) d = f (dieOf s d) := by
  unfold dieOf modDie
  rw [setAt_getElem?, if_pos ⟨rfl, h⟩]
  rfl

theorem waiterChain_congr {m m' : FMap Waiter} : ∀ {js : List Nat} {i : Nat}, (∀ j ∈ js, fget m' j = fget m j) → WaiterChain m i js → WaiterChain m' i js
  | [], _, _, h => h
  | j :: js, i, hm, ⟨hij, hi, w, hw, hrest⟩ => by
    subst hij
    exact ⟨rfl, hi, w, (hm i List.mem_cons_self).trans hw, waiterChain_congr (fun k hk => hm k (List.mem_cons_of_mem _ hk)) hrest⟩

/-- The state after the first record of a queue. -/
def wokenFirst (d i : Nat) (w : Waiter) (s : State) : State := wakeCells (modDie s d fun x => { x with waiters := fdel x.waiters i }) w.gang

theorem wakeQueue_cons {d fuel i : Nat} {w : Waiter} {s : State} (hi : i ≠ noWaiter) (hw : fget (dieOf s d).waiters i = some w) :
    wakeQueue d (fuel + 1) i s = wakeQueue d fuel w.next (wokenFirst d i w s) := by
  rw [wakeQueue, if_neg hi, hw]
  rfl

theorem wokenFirst_facts {d i : Nat} {w : Waiter} {s : State} (hd : d < s.dies.length) : Beside s (wokenFirst d i w s) ∧
    (wokenFirst d i w s).tasks = s.tasks ∧ (wokenFirst d i w s).dies.length = s.dies.length ∧
      (∀ k, fget (dieOf (wokenFirst d i w s) d).waiters k = if k = i then none else fget (dieOf s d).waiters k) ∧
      ∀ g, gangOf s w.gang = some g → ∃ g', gangOf (wokenFirst d i w s) w.gang = some g' ∧ ∀ st b τ, g.wait = .blocked st (.cells b) τ →
        g'.wait = .blocked st (.cells true) τ := by
  refine ⟨(beside_modDie ..).trans (beside_wakeCells ..), rfl, setAt_length .., fun k => ?_, fun g hg => ?_⟩
  · have hdie : dieOf (wokenFirst d i w s) d = dieOf (modDie s d fun x => { x with waiters := fdel x.waiters i }) d := rfl
    rw [hdie, dieOf_modDie hd]
    exact fget_fdel _ i k
  · unfold wokenFirst
    refine ⟨_, (gangOf_wakeCells _ _).trans (congrArg (Option.map _) hg), fun st b τ hwait => ?_⟩
    show g.wait.mapCond Cond.cellsWoken = _
    rw [hwait]
    rfl

/-- The gang of a record that was in the queue is woken. -/
def WokenAt (s t : State) (id : Nat) : Prop :=
  ∀ g, gangOf s id = some g → ∀ st b τ, g.wait = .blocked st (.cells b) τ → ∃ g', gangOf t id = some g' ∧ g'.wait = .blocked st (.cells true) τ

theorem GangsKept.some {s t : State} (h : GangsKept s t) {id : Nat} {g : Gang} (hg : gangOf s id = some g) : ∃ g', gangOf t id = some g' ∧ GangKept g g' := by
  have := h id
  rw [hg] at this
  generalize gangOf t id = o at this
  cases this with
  | some hk => exact ⟨_, rfl, hk⟩

theorem WokenAt.kept {s t u : State} {id : Nat} (h : WokenAt s t id) (hk : GangsKept t u) : WokenAt s u id := fun g hg st b τ hw => by
  obtain ⟨g1, hg1, hw1⟩ := h g hg st b τ hw
  obtain ⟨g2, hg2, hkept⟩ := hk.some hg1
  obtain ⟨b', hb, hb'⟩ := hkept.waits st true τ hw1
  exact ⟨g2, hg2, hb' rfl ▸ hb⟩

theorem GangsKept.wokenAt {s t u : State} {id : Nat} (hk : GangsKept s t) (h : WokenAt t u id) : WokenAt s u id := fun g hg st b τ hw => by
  obtain ⟨g1, hg1, hkept⟩ := hk.some hg
  obtain ⟨b', hb, -⟩ := hkept.waits st b τ hw
  exact h g1 hg1 st b' τ hb

theorem wakeQueue_chain {d : Nat} : ∀ (js : List Nat) (fuel i : Nat) (s : State), d < s.dies.length → js.Nodup → js.length < fuel →
    WaiterChain (dieOf s d).waiters i js → Beside s (wakeQueue d fuel i s) ∧ (wakeQueue d fuel i s).tasks = s.tasks ∧
      (∀ j ∈ js, fget (dieOf (wakeQueue d fuel i s) d).waiters j = none) ∧
      (∀ k, fget (dieOf s d).waiters k = none → fget (dieOf (wakeQueue d fuel i s) d).waiters k = none) ∧
      ∀ j ∈ js, ∀ w, fget (dieOf s d).waiters j = some w → WokenAt s (wakeQueue d fuel i s) w.gang
  | _, 0, _, _, _, _, h, _ => absurd h (Nat.not_lt_zero _)
  | [], fuel + 1, i, s, _, _, _, hc => by
    rw [wakeQueue, if_pos (show i = noWaiter from hc)]
    exact ⟨.refl s, rfl, fun _ h => absurd h List.not_mem_nil, fun _ h => h, fun _ h => absurd h List.not_mem_nil⟩
  | j :: js, fuel + 1, i, s, hd, hnd, hlen, ⟨hij, hi, w, hw, hrest⟩ => by
    subst hij
    obtain ⟨hni, hnd'⟩ := List.nodup_cons.1 hnd
    obtain ⟨hb, htasks, hlength, hwaiters, hwoken⟩ := wokenFirst_facts (w := w) (i := i) hd
    have hrest' : WaiterChain (dieOf (wokenFirst d i w s) d).waiters w.next js := waiterChain_congr (fun k hk => by
      rw [hwaiters, if_neg]
      rintro rfl
      exact hni hk) hrest
    obtain ⟨hb2, htasks2, hnone, hgone, hwoken2⟩ := wakeQueue_chain js fuel w.next (wokenFirst d i w s) (hlength ▸ hd) hnd'
      (Nat.lt_of_succ_lt_succ hlen) hrest'
    rw [wakeQueue_cons hi hw]
    refine ⟨hb.trans hb2, htasks2.trans htasks, fun k hk => ?_, fun k hk => ?_, fun k hk x hx => ?_⟩
    · obtain rfl | hk := List.mem_cons.1 hk
      · exact hgone k (by rw [hwaiters, if_pos rfl])
      · exact hnone k hk
    · refine hgone k ?_
      rw [hwaiters]
      split
      · rfl
      · exact hk
    · obtain rfl | hjs := List.mem_cons.1 hk
      · rw [hw] at hx
        cases hx
        refine WokenAt.kept (t := wokenFirst d k w s) (fun g hg st b τ hwait => ?_) hb2.kept
        obtain ⟨g', hg', hwait'⟩ := hwoken g hg
        exact ⟨g', hg', hwait' st b τ hwait⟩
      · refine hb.kept.wokenAt (hwoken2 k hjs x ?_)
        rw [hwaiters, if_neg]
        · exact hx
        · rintro rfl
          exact hni hjs

theorem beside_wakeWaiters {s : State} {pa : Nat} {js : List Nat} (hd : poolDie pa < s.dies.length) (hnd : js.Nodup) (hlen : js.length ≤ 65535)
    (hc : WaiterChain (dieOf s (poolDie pa)).waiters (waitersOf (cellPayload s pa)) js) :
    Beside s (wakeWaiters s pa) ∧ (wakeWaiters s pa).tasks = s.tasks ∧
      (∀ j ∈ js, fget (dieOf (wakeWaiters s pa) (poolDie pa)).waiters j = none) ∧
      ∀ j ∈ js, ∀ w, fget (dieOf s (poolDie pa)).waiters j = some w → WokenAt s (wakeWaiters s pa) w.gang := by
  obtain ⟨hb, htasks, hnone, -, hwoken⟩ := wakeQueue_chain js 65536 _ s hd hnd (Nat.lt_succ_of_le hlen) hc
  unfold wakeWaiters
  dsimp only
  split
  · exact ⟨hb.trans (beside_retryWaiters _), htasks, hnone, fun j hj w hw => (hwoken j hj w hw).kept (beside_retryWaiters _).kept⟩
  · exact ⟨hb, htasks, hnone, hwoken⟩

/-- Waking the waiters of a cell changes gangs and the pool alone, whatever stands in the queue. -/
theorem beside_wakeQueue (d : Nat) : ∀ (fuel i : Nat) (s : State), Beside s (wakeQueue d fuel i s) ∧ (wakeQueue d fuel i s).tasks = s.tasks
  | 0, _, s => ⟨.refl s, rfl⟩
  | fuel + 1, i, s => by
    unfold wakeQueue
    split
    · exact ⟨.refl s, rfl⟩
    · split
      · exact ⟨.refl s, rfl⟩
      next w _ =>
        obtain ⟨h1, h2⟩ := beside_wakeQueue d fuel w.next (wokenFirst d i w s)
        exact ⟨((beside_modDie ..).trans (beside_wakeCells ..)).trans h1, h2⟩

theorem wakeWaiters_beside (s : State) (pa : Nat) : Beside s (wakeWaiters s pa) ∧ (wakeWaiters s pa).tasks = s.tasks := by
  obtain ⟨hb, ht⟩ := beside_wakeQueue (poolDie pa) 65536 (waitersOf (cellPayload s pa)) s
  unfold wakeWaiters
  dsimp only
  split
  · exact ⟨hb.trans (beside_retryWaiters _), ht⟩
  · exact ⟨hb, ht⟩

/-! ### Task records in their banks (R36, R105) -/

/-- Every record stands in its bank. -/
def InBanks (s : State) : Prop := ∀ tk ∈ s.tasks, tk.index < 4096

/-- A change of a record that keeps its number, and whether it is free. -/
structure KeepsRecord (f : Task → Task) : Prop where
  name : ∀ t, ((f t).die, (f t).nbhd, (f t).gen, (f t).index) = (t.die, t.nbhd, t.gen, t.index)

theorem KeepsRecord.index {f : Task → Task} (h : KeepsRecord f) (t : Task) : (f t).index = t.index := by
  have := h.name t
  simp only [Prod.mk.injEq] at this
  exact this.2.2.2

theorem KeepsRecord.mkHandle {f : Task → Task} (h : KeepsRecord f) (s : State) (t : Task) : mkHandle s (f t) = mkHandle s t := by
  have := h.name t
  simp only [Prod.mk.injEq] at this
  obtain ⟨h1, h2, h3, h4⟩ := this
  unfold Machine.mkHandle
  rw [h1, h2, h3, h4]

theorem inBanks_modTask {s : State} {h : Word} {f : Task → Task} (hs : InBanks s) (hf : KeepsRecord f) : InBanks (modTask s h f) := fun tk htk => by
  obtain ⟨t, ht, rfl⟩ := List.mem_map.1 htk
  split
  · exact hf.index t ▸ hs t ht
  · exact hs t ht

theorem modTask_of_none {s : State} {h : Word} {f : Task → Task} (hn : taskOf s h = none) : modTask s h f = s := by
  have hmap : (s.tasks.map fun t => if mkHandle s t == h && t.state != 0 then f t else t) = s.tasks := by
    refine (List.map_congr_left fun t ht => ?_).trans (List.map_id _)
    exact if_neg (List.find?_eq_none.1 hn t ht)
  unfold modTask
  rw [hmap]

theorem mem_of_taskOf {s : State} {h : Word} {t : Task} (ht : taskOf s h = some t) : t ∈ s.tasks := List.mem_of_find?_eq_some ht

theorem state_of_taskOf {s : State} {h : Word} {t : Task} (ht : taskOf s h = some t) : t.state ≠ 0 := by
  have := List.find?_some ht
  simp only [Bool.and_eq_true, bne_iff_ne] at this
  exact this.2

theorem handle_of_taskOf {s : State} {h : Word} {t : Task} (ht : taskOf s h = some t) : mkHandle s t = h := by
  have := List.find?_some ht
  simp only [Bool.and_eq_true, beq_iff_eq] at this
  exact this.1

/-- A record in its bank changes there, and nowhere else. -/
theorem changeTask_inBanks {s : State} {h : Word} {f : Task → Task} (hs : InBanks s) (hf : KeepsRecord f) : changeTask s h f = modTask s h f := by
  unfold changeTask
  split
  next hn => exact (modTask_of_none hn).symm
  next t ht =>
    unfold storeTask
    rw [if_neg]
    rw [hf.index]
    exact Nat.not_le.2 (hs t (mem_of_taskOf ht))

/-- The first element that meets a condition, where those that do are changed and still do. -/
theorem find?_map_meeting {α : Type} (p : α → Bool) (f : α → α) (hf : ∀ x, p x = true → p (f x) = true) : ∀ l : List α,
    (l.map fun x => if p x then f x else x).find? p = (l.find? p).map f
  | [] => rfl
  | x :: xs => by
    rw [List.map_cons, List.find?_cons, List.find?_cons]
    by_cases hm : p x = true
    · rw [if_pos hm, hm, hf x hm]
      rfl
    · rw [if_neg hm, Bool.eq_false_iff.2 hm]
      exact find?_map_meeting p f hf xs

/-- A change that leaves a record in use is found under its handle. -/
theorem taskOf_modTask {s : State} {h : Word} {f : Task → Task} (hf : KeepsRecord f) (hstate : ∀ t, t.state ≠ 0 → (f t).state ≠ 0) :
    taskOf (modTask s h f) h = (taskOf s h).map f := by
  unfold taskOf
  simp only [(beside_modTask s h f).mkHandle, modTask_tasks]
  refine find?_map_meeting (fun t => mkHandle s t == h && t.state != 0) f (fun t ht => ?_) s.tasks
  rw [Bool.and_eq_true, bne_iff_ne] at ht ⊢
  rw [hf.mkHandle]
  exact ⟨ht.1, hstate t ht.2⟩

/-- A record that is freed is found no more. -/
theorem taskOf_freed (s : State) (h : Word) : taskOf (modTask s h fun t => { t with state := 0 }) h = none := by
  refine List.find?_eq_none.2 fun x hx => ?_
  obtain ⟨t, -, rfl⟩ := List.mem_map.1 hx
  split
  · simp
  next hm => exact hm

theorem keepsRecord_state (n : Nat) : KeepsRecord fun t => { t with state := n } := ⟨fun _ => rfl⟩

theorem freeTask_inBanks {s : State} (hs : InBanks s) (h : Word) : freeTask s h = modTask s h fun t => { t with state := 0 } :=
  changeTask_inBanks hs (keepsRecord_state 0)

theorem taskOf_congr {s t : State} (ht : t.tasks = s.tasks) (hm : t.module = s.module) (h : Word) : taskOf t h = taskOf s h := by
  have hk : ∀ x, mkHandle t x = mkHandle s x := fun x => by
    unfold mkHandle dieId
    rw [hm]
  unfold taskOf
  rw [ht]
  simp only [hk]

theorem tasks_setCell (s : State) (pa : Nat) (v : Dbl) (st : Nat) : (setCell s pa v st).tasks = s.tasks := rfl
theorem module_setCell (s : State) (pa : Nat) (v : Dbl) (st : Nat) : (setCell s pa v st).module = s.module := rfl
theorem dies_setCell (s : State) (pa : Nat) (v : Dbl) (st : Nat) : (setCell s pa v st).dies = s.dies := rfl
theorem launches_setCell (s : State) (pa : Nat) (v : Dbl) (st : Nat) : (setCell s pa v st).launches = s.launches := rfl
theorem tlb_setCell (s : State) (pa : Nat) (v : Dbl) (st : Nat) : (setCell s pa v st).tlb = s.tlb := rfl

/-! ### Bytes, colours and states around a cell (R41, R328) -/

theorem sameBytesBut_setCell (s : State) (pa : Nat) (v : Dbl) (st : Nat) : SameBytesBut s (setCell s pa v st) (physLoc pa) 8 := by
  have h := sameBytesBut_writeBytes s (physLoc pa) (leOf 8 v.toNat) trivial
  rw [leOf_length] at h
  refine sameBytesBut_congr h fun m => ?_
  unfold readByte
  cases m.place <;> rfl

theorem tagsKept_writeBytes_phys (s : State) (pa : Nat) (bs : List Byte) : TagsKept s (writeBytes s (physLoc pa) bs) :=
  TagsKept.trans (t := putBytes s (physLoc pa) bs) ⟨rfl, rfl, fun _ => rfl, fun _ => rfl⟩ (tagsKept_wakeMwait _ _ _)

theorem colourAt_setCell (s : State) (pa : Nat) (v : Dbl) {st : Nat} (hst : st < 4) (l : Loc) : colourAt (setCell s pa v st) l = colourAt s l := by
  have hk := tagsKept_writeBytes_phys s pa (leOf 8 v.toNat)
  obtain ⟨p, off⟩ := l
  cases p with
  | phys =>
    unfold colourAt
    rw [show (⟨.phys, off⟩ : Loc) = physLoc off from rfl, tagAt_setCell s pa v hst]
    split
    next he =>
      have hsame : tagAt s (physLoc off) = tagAt s (physLoc pa) := congrArg (fun k => (rdByte s.tags k).toNat) he
      rw [hsame, bits, bits, show 2 ^ 4 = 16 from rfl, tagWithState_colour hst]
    next => rfl
  | scratch b => exact congrArg (bits · 4 4) (hk.tagAt ⟨.scratch b, off⟩)
  | priv g => exact congrArg (bits · 4 4) (hk.tagAt ⟨.priv g, off⟩)
  | stack g => exact congrArg (bits · 4 4) (hk.tagAt ⟨.stack g, off⟩)

theorem cellState_setCell_other (s : State) {pa qa : Nat} (v : Dbl) {st : Nat} (hst : st < 4) (hpa : pa % 8 = 0) (hqa : qa % 8 = 0) (hne : qa ≠ pa) :
    cellState (setCell s pa v st) qa = cellState s qa := by
  unfold cellState
  rw [tagAt_setCell s pa v hst]
  split
  next he =>
    have hsame : tagAt s (physLoc qa) = tagAt s (physLoc pa) := congrArg (fun k => (rdByte s.tags k).toNat) he
    rw [hsame]
    refine tagWithState_other hst (cellShift_cases qa) ?_
    unfold cellShift
    split <;> split <;> omega
  next => rfl

theorem sameThreads_setCell (s : State) (pa : Nat) (v : Dbl) (st : Nat) : SameThreads s (setCell s pa v st) := (gangsKept_setCell s pa v st).threads

/-! ### Resolving a cell (R341) -/

/-- The state in which a task that is dormant has been freed. -/
def dormantFreed (s : State) (h : Word) : State :=
  match taskOf s h with
  | some t => if t.state = 1 then freeTask s h else s
  | none => s

theorem resolveCell_waiting {s : State} {pa : Nat} (h : cellState s pa ≠ 0) (v : Dbl) :
    resolveCell s pa v = dormantFreed (setCell (wakeWaiters s pa) pa v 0) (handleOf (cellPayload s pa)) := if_neg h

theorem dormantFreed_beside {s : State} (hs : InBanks s) (h : Word) : Beside s (dormantFreed s h) ∧ (dormantFreed s h).dies = s.dies ∧
    ∀ tk, taskOf s h = some tk → tk.state = 1 → taskOf (dormantFreed s h) h = none := by
  unfold dormantFreed
  split
  next t ht =>
    split
    · rw [freeTask_inBanks hs]
      exact ⟨beside_modTask .., rfl, fun _ _ _ => taskOf_freed s h⟩
    next hn =>
      refine ⟨.refl s, rfl, fun tk htk hstate => ?_⟩
      rw [ht] at htk
      cases htk
      exact absurd hstate hn
  next hn =>
    refine ⟨.refl s, rfl, fun tk htk => ?_⟩
    rw [hn] at htk
    cases htk

end Sys2Proof.Machine
end

section

/-!
# The cell instructions (R333 to R345)
-/

namespace Sys2Proof.Machine

-- One proof at a time: each waiting thread would reserve a stack of its own.
set_option Elab.async false

/-! ### Resolution and reclamation of a cell -/

theorem sameBytesBut_between {s t u v : State} {l : Loc} {n : Nat} (h : SameBytes s t) (k : SameBytesBut t u l n) (h' : SameBytes u v) :
    SameBytesBut s v l n := fun m => by
  rw [h', ← h m]
  exact k m

/-- What a resolution leaves of a cell that is waited for: its value, its task and its waiters. -/
theorem resolveCell_resolves {s : State} {pa : Nat} {v : Dbl} {js : List Nat} (hstate : cellState s pa ≠ 0) (hs : InBanks s)
    (hd : poolDie pa < s.dies.length) (hnd : js.Nodup) (hlen : js.length ≤ 65535)
    (hc : WaiterChain (dieOf s (poolDie pa)).waiters (waitersOf (cellPayload s pa)) js) :
    cellState (resolveCell s pa v) pa = 0 ∧ cellPayload (resolveCell s pa v) pa = v ∧ SameBytesBut s (resolveCell s pa v) (physLoc pa) 8 ∧
    (∀ tk, taskOf s (handleOf (cellPayload s pa)) = some tk → tk.state = 1 → taskOf (resolveCell s pa v) (handleOf (cellPayload s pa)) = none) ∧
    GangsKept s (resolveCell s pa v) ∧ ∀ j ∈ js, fget (dieOf (resolveCell s pa v) (poolDie pa)).waiters j = none ∧
      ∀ w, fget (dieOf s (poolDie pa)).waiters j = some w → WokenAt s (resolveCell s pa v) w.gang := by
  obtain ⟨hb, htasks, hnone, hwoken⟩ := beside_wakeWaiters hd hnd hlen hc
  have hbanks : InBanks (setCell (wakeWaiters s pa) pa v 0) := fun tk htk => hs tk (htasks ▸ htk)
  obtain ⟨hb2, hdies, hfreed⟩ := dormantFreed_beside hbanks (handleOf (cellPayload s pa))
  have htask : taskOf (setCell (wakeWaiters s pa) pa v 0) (handleOf (cellPayload s pa)) = taskOf s (handleOf (cellPayload s pa)) :=
    taskOf_congr htasks hb.module _
  have hkept := gangsKept_setCell (wakeWaiters s pa) pa v 0
  rw [resolveCell_waiting hstate]
  refine ⟨?_, ?_, sameBytesBut_between hb.sameBytes (sameBytesBut_setCell _ pa v 0) hb2.sameBytes, fun tk htk => hfreed tk (htask.trans htk),
    (hb.kept.trans hkept).trans hb2.kept, fun j hj => ⟨?_, fun w hw => ((hwoken j hj w hw).kept hkept).kept hb2.kept⟩⟩
  · rw [hb2.cellState]
    exact cellState_setCell _ _ _ (by decide)
  · rw [hb2.cellPayload]
    exact cellPayload_setCell ..
  · unfold dieOf at *
    rw [hdies]
    exact hnone j hj

/-- A step at a cell keeps gangs, launches, the translation buffers and the module. -/
structure Around (s t : State) : Prop where
  kept : GangsKept s t
  launches : t.launches = s.launches
  tlb : t.tlb = s.tlb
  module : t.module = s.module

theorem Around.trans {s t u : State} (h : Around s t) (k : Around t u) : Around s u :=
  ⟨h.kept.trans k.kept, k.launches.trans h.launches, k.tlb.trans h.tlb, k.module.trans h.module⟩

theorem Beside.around {s t : State} (h : Beside s t) : Around s t := ⟨h.kept, h.launches, h.tlb, h.module⟩

theorem around_setCell (s : State) (pa : Nat) (v : Dbl) (st : Nat) : Around s (setCell s pa v st) := ⟨gangsKept_setCell s pa v st, rfl, rfl, rfl⟩

theorem Around.ctxOf {s t : State} (h : Around s t) (g : Gang) : Machine.ctxOf t g = Machine.ctxOf s g := by
  unfold Machine.ctxOf launchD launchOf
  rw [h.launches]

theorem Around.buffered {s t : State} (h : Around s t) {q : Asker} {g : Gang} {va pa : Nat} (hb : Buffered s q (Machine.ctxOf s g) va pa) :
    Buffered t q (Machine.ctxOf t g) va pa := by
  rw [h.ctxOf]
  unfold Buffered found at *
  rw [h.tlb]
  exact hb

theorem poisonCell_facts (s : State) (pa : Nat) : Around s (poisonCell s pa) ∧ (poisonCell s pa).tasks = s.tasks ∧
    cellState (poisonCell s pa) pa = 0 ∧ cellPayload (poisonCell s pa) pa = 0 ∧ colourAt (poisonCell s pa) (physLoc pa) = 15 := by
  obtain ⟨hb, htasks⟩ := wakeWaiters_beside s pa
  have hstate := cellState_setCell (wakeWaiters s pa) pa 0 (Nat.succ_pos 3)
  have hpay := cellPayload_setCell (wakeWaiters s pa) pa 0 0
  have haround := hb.around.trans (around_setCell (wakeWaiters s pa) pa 0 0)
  have htasks' : (setCell (wakeWaiters s pa) pa 0 0).tasks = s.tasks := (tasks_setCell ..).trans htasks
  have heq : poisonCell s pa = writeTag (setCell (wakeWaiters s pa) pa 0 0) (physLoc pa)
    (240 + tagAt (setCell (wakeWaiters s pa) pa 0 0) (physLoc pa) % 16) := rfl
  rw [heq]
  generalize setCell (wakeWaiters s pa) pa 0 0 = u at *
  have htag : tagAt (writeTag u (physLoc pa) (240 + tagAt u (physLoc pa) % 16)) (physLoc pa) = (240 + tagAt u (physLoc pa) % 16) % 256 := by
    rw [writeTag, tagAt_wakeMwait, tagAt_putTag_phys, if_pos rfl]
  refine ⟨haround.trans ⟨?_, rfl, rfl, rfl⟩, htasks', ?_, hpay, ?_⟩
  · exact GangsKept.trans (t := putTag u (physLoc pa) (240 + tagAt u (physLoc pa) % 16)) (.of_gangs rfl) (gangsKept_wakeMwait _ (physLoc pa) 1)
  · unfold cellState at *
    rw [htag]
    unfold bits at *
    obtain h | h := cellShift_cases pa <;> rw [h] at hstate ⊢ <;> norm_num at hstate ⊢ <;> omega
  · unfold colourAt
    rw [htag]
    unfold bits
    norm_num
    omega

theorem keepsRecord_join : KeepsRecord fun t => { t with join := t.join - 1 } := ⟨fun _ => rfl⟩
theorem keepsRecord_uncounted : KeepsRecord fun t => { t with countsIn := false } := ⟨fun _ => rfl⟩

theorem endsForParent_inBanks {s : State} (hs : InBanks s) (t : Task) : Beside s (endsForParent s t) ∧ InBanks (endsForParent s t) := by
  unfold endsForParent joinFalls
  split
  · rw [changeTask_inBanks hs keepsRecord_uncounted, changeTask_inBanks (inBanks_modTask hs keepsRecord_uncounted) keepsRecord_join]
    exact ⟨(beside_modTask ..).trans (beside_modTask ..), inBanks_modTask (inBanks_modTask hs keepsRecord_uncounted) keepsRecord_join⟩
  · exact ⟨.refl s, hs⟩

theorem beside_stopping (s : State) (id : Nat) : Beside s (modGang s id fun x => { x with stopping := true }) :=
  beside_modGang s id (fun _ => rfl) fun _ => ⟨rfl, rfl, rfl, fun _ b _ h => ⟨b, h, fun hb => hb⟩⟩

/-- The task of a reclaimed cell: freed where it has not begun, and else reclaiming (R345). -/
theorem reclaimTask_inBanks {s : State} (hs : InBanks s) (h : Word) : Beside s (reclaimTask s h) ∧
    ∀ tk, taskOf s h = some tk → (tk.state = 1 ∨ tk.state = 2 → taskOf (reclaimTask s h) h = none) ∧
      (tk.state = 3 ∨ tk.state = 4 → (taskOf (reclaimTask s h) h).map Task.state = some 6) := by
  unfold reclaimTask
  split
  next hn =>
    refine ⟨.refl s, fun tk htk => ?_⟩
    rw [hn] at htk
    cases htk
  next t ht =>
    have honly : ∀ tk, taskOf s h = some tk → tk = t := fun tk htk => by
      rw [ht] at htk
      exact (Option.some.inj htk).symm
    split
    next h12 =>
      obtain ⟨hb, hbanks⟩ := endsForParent_inBanks hs t
      rw [freeTask_inBanks hbanks]
      refine ⟨hb.trans (beside_modTask ..), fun tk htk => ⟨fun _ => taskOf_freed .., fun h34 => ?_⟩⟩
      rw [honly tk htk] at h34
      omega
    next h12 =>
      split
      next h34 =>
        rw [changeTask_inBanks hs (keepsRecord_state 6)]
        have hsix : (taskOf (modTask s h fun x => { x with state := 6 }) h).map Task.state = some 6 := by
          rw [taskOf_modTask (keepsRecord_state 6) fun _ _ => Nat.succ_ne_zero 5, ht]
          rfl
        dsimp only
        split
        next g _ =>
          refine ⟨(beside_modTask ..).trans (beside_stopping ..), fun tk htk => ⟨fun hk => ?_, fun _ => ?_⟩⟩
          · rw [honly tk htk] at hk
            exact absurd hk h12
          · exact (congrArg (Option.map Task.state) (taskOf_congr (s := modTask s h fun x => { x with state := 6 }) rfl rfl h)).trans hsix
        next =>
          refine ⟨beside_modTask .., fun tk htk => ⟨fun hk => ?_, fun _ => hsix⟩⟩
          rw [honly tk htk] at hk
          exact absurd hk h12
      next h34 =>
        refine ⟨.refl s, fun tk htk => ⟨fun hk => ?_, fun hk => ?_⟩⟩
        · rw [honly tk htk] at hk
          exact absurd hk h12
        · rw [honly tk htk] at hk
          exact absurd hk h34

theorem reclaimCell_facts {s : State} (hs : InBanks s) (pa : Nat) : Around s (reclaimCell s pa) ∧ cellState (reclaimCell s pa) pa = 0 ∧
    cellPayload (reclaimCell s pa) pa = 0 ∧ colourAt (reclaimCell s pa) (physLoc pa) = 15 ∧
    ∀ tk, taskOf s (handleOf (cellPayload s pa)) = some tk →
      (tk.state = 1 ∨ tk.state = 2 → taskOf (reclaimCell s pa) (handleOf (cellPayload s pa)) = none) ∧
      (tk.state = 3 ∨ tk.state = 4 → (taskOf (reclaimCell s pa) (handleOf (cellPayload s pa))).map Task.state = some 6) := by
  obtain ⟨haround, htasks, hstate, hpay, hcol⟩ := poisonCell_facts s pa
  have hbanks : InBanks (poisonCell s pa) := fun tk htk => hs tk (htasks ▸ htk)
  obtain ⟨hb, htask⟩ := reclaimTask_inBanks hbanks (handleOf (cellPayload s pa))
  refine ⟨haround.trans hb.around, (hb.cellState pa).trans hstate, (hb.cellPayload pa).trans hpay, (hb.colourAt pa).trans hcol, fun tk htk => ?_⟩
  exact htask tk ((taskOf_congr htasks haround.module _).trans htk)

/-! ### The held list of a task (R36, R342) -/

/-- The entries of a held list that stand in the record. -/
def handlesOf (x : Task) : List Word := (List.range x.nheld).map fun i => x.held.getD i 0

/-- A record with one handle more in its held list. -/
def heldAppended (h : Word) (x : Task) : Task :=
  { x with held := setAt (x.held ++ List.replicate (3 - x.held.length) 0) x.nheld h, nheld := x.nheld + 1 }

/-- A record with another handle in an entry. -/
def heldSet (i : Nat) (h : Word) (x : Task) : Task := { x with held := setAt x.held i h }

/-- A record with its last entry taken off. -/
def heldFewer (x : Task) : Task := { x with nheld := x.nheld - 1, held := if x.nheld ≤ 3 then setAt x.held (x.nheld - 1) 0 else x.held }

theorem keepsRecord_appended (h : Word) : KeepsRecord (heldAppended h) := ⟨fun _ => rfl⟩
theorem keepsRecord_set (i : Nat) (h : Word) : KeepsRecord (heldSet i h) := ⟨fun _ => rfl⟩
theorem keepsRecord_fewer : KeepsRecord heldFewer := ⟨fun _ => rfl⟩

theorem getD_setAt (l : List Word) (n i : Nat) (v : Word) : (setAt l n v).getD i 0 = if i = n ∧ n < l.length then v else l.getD i 0 := by
  rw [List.getD_eq_getElem?_getD, setAt_getElem?, List.getD_eq_getElem?_getD]
  split <;> rfl

theorem getD_padded (l : List Word) (k i : Nat) : (l ++ List.replicate k 0).getD i 0 = l.getD i 0 := by
  rw [List.getD_eq_getElem?_getD, List.getD_eq_getElem?_getD]
  by_cases hi : i < l.length
  · rw [List.getElem?_append_left hi]
  · rw [List.getElem?_append_right (Nat.not_lt.1 hi), List.getElem?_eq_none (Nat.not_lt.1 hi), List.getElem?_replicate]
    split <;> rfl

theorem heldBy_appended {x : Task} (h : x.nheld < 3) (w : Word) : handlesOf (heldAppended w x) = handlesOf x ++ [w] := by
  have hget : ∀ i, (setAt (x.held ++ List.replicate (3 - x.held.length) 0) x.nheld w).getD i 0 = if i = x.nheld then w else x.held.getD i 0 := fun i => by
    rw [getD_setAt, getD_padded, List.length_append, List.length_replicate]
    refine ite_congr (propext ⟨fun hi => hi.1, fun hi => ⟨hi, by omega⟩⟩) (fun _ => rfl) fun _ => rfl
  show (List.range (x.nheld + 1)).map (fun i => (setAt (x.held ++ List.replicate (3 - x.held.length) 0) x.nheld w).getD i 0) = _
  rw [List.range_succ, List.map_append, List.map_singleton, hget, if_pos rfl]
  refine congrArg (· ++ [w]) (List.map_congr_left fun i hi => ?_)
  rw [hget, if_neg (Nat.ne_of_lt (List.mem_range.1 hi))]

theorem appendHeld_inBanks {s : State} {g : Gang} {lane : Nat} {t : Task} (hs : InBanks s) (ht : taskOf s g.task = some t)
    (hp : recordPoisoned s g.task [2, 3] = false) (hn : t.nheld < 3) (h : Word) :
    appendHeld s g lane h = (modTask s g.task (heldAppended h), .ok ()) := by
  unfold appendHeld
  simp only [ht, hp, hn, Bool.false_eq_true, if_false, if_true]
  exact congrArg (·, _) (changeTask_inBanks hs (keepsRecord_appended h))

theorem readHeld_short {s : State} {g : Gang} {lane : Nat} {t : Task} {i : Nat} (hi : i < 3) : readHeld s g lane t i = (s, .ok (t.held.getD i 0)) := if_pos hi

/-- The search through the entries of the record. -/
theorem findHeld_short {s : State} {g : Gang} {lane : Nat} {t : Task} {h : Word} : ∀ (k i : Nat), i + k ≤ 3 →
    (∃ j, i ≤ j ∧ j < i + k ∧ t.held.getD j 0 = h ∧ findHeld g lane t h k i s = (s, .ok (some j))) ∨
      ((∀ j, i ≤ j → j < i + k → t.held.getD j 0 ≠ h) ∧ findHeld g lane t h k i s = (s, .ok none))
  | 0, i, _ => .inr ⟨fun j h1 h2 => by omega, rfl⟩
  | k + 1, i, hk => by
    unfold findHeld
    rw [readHeld_short (by omega)]
    dsimp only
    by_cases hi : t.held.getD i 0 = h
    · rw [if_pos hi]
      exact .inl ⟨i, Nat.le_refl i, by omega, hi, rfl⟩
    · rw [if_neg hi]
      obtain ⟨j, h1, h2, h3, h4⟩ | ⟨h1, h2⟩ := findHeld_short (s := s) (g := g) (lane := lane) (t := t) (h := h) k (i + 1) (by omega)
      · exact .inl ⟨j, by omega, by omega, h3, h4⟩
      · refine .inr ⟨fun j h3 h4 => ?_, h2⟩
        by_cases hj : j = i
        · rwa [hj]
        · exact h1 j (by omega) (by omega)

/-- The record after entry j has gone: the last entry has taken its place. -/
def heldRemoved (j : Nat) (t : Task) : Task := if j + 1 = t.nheld then heldFewer t else heldFewer (heldSet j (t.held.getD (t.nheld - 1) 0) t)

theorem removeHeld_inBanks {s : State} {g : Gang} {lane j : Nat} {t : Task} (hs : InBanks s) (ht : taskOf s g.task = some t) (hn : t.nheld ≤ 3)
    (hj : j < t.nheld) : ∃ u, removeHeld s g lane t j = (u, .ok ()) ∧ Beside s u ∧ InBanks u ∧ taskOf u g.task = some (heldRemoved j t) := by
  have hfewer : ∀ u, InBanks u → changeTask u g.task (fun x => heldFewer x) = modTask u g.task heldFewer := fun u hu =>
    changeTask_inBanks hu keepsRecord_fewer
  have hstate : ∀ x : Task, x.state ≠ 0 → (heldFewer x).state ≠ 0 := fun _ h => h
  unfold removeHeld
  rw [readHeld_short (by omega)]
  dsimp only
  by_cases hlast : j + 1 = t.nheld
  · rw [if_pos hlast]
    refine ⟨_, rfl, ?_⟩
    rw [show changeTask s g.task (fun x => { x with nheld := x.nheld - 1, held := if x.nheld ≤ 3 then setAt x.held (x.nheld - 1) 0 else x.held }) =
      modTask s g.task heldFewer from hfewer s hs]
    refine ⟨beside_modTask .., inBanks_modTask hs keepsRecord_fewer, ?_⟩
    rw [taskOf_modTask keepsRecord_fewer hstate, ht, heldRemoved, if_pos hlast]
    rfl
  · rw [if_neg hlast, if_pos (by omega)]
    refine ⟨_, rfl, ?_⟩
    have hset : changeTask s g.task (fun x => { x with held := setAt x.held j (t.held.getD (t.nheld - 1) 0) }) =
      modTask s g.task (heldSet j (t.held.getD (t.nheld - 1) 0)) := changeTask_inBanks hs (keepsRecord_set ..)
    have hbanks := inBanks_modTask (h := g.task) hs (keepsRecord_set j (t.held.getD (t.nheld - 1) 0))
    rw [hset]
    rw [show ∀ u, changeTask u g.task (fun x => { x with
      nheld := x.nheld - 1, held := if x.nheld ≤ 3 then setAt x.held (x.nheld - 1) 0 else x.held }) = changeTask u g.task fun x => heldFewer x from fun u => rfl,
      hfewer _ hbanks]
    refine ⟨(beside_modTask ..).trans (beside_modTask ..), inBanks_modTask hbanks keepsRecord_fewer, ?_⟩
    rw [taskOf_modTask keepsRecord_fewer hstate, taskOf_modTask (keepsRecord_set ..) fun _ h => h, ht, heldRemoved, if_neg hlast]
    rfl

/-- Replacing entry j by the last one takes its handle out of the list. -/
theorem perm_replaced (e : Nat → Word) {n j : Nat} (hn : n ≤ 3) (hj : j + 1 < n) :
    ((List.range n).map e).Perm (e j :: (List.range (n - 1)).map fun i => if i = j then e (n - 1) else e i) := by
  obtain ⟨rfl, rfl⟩ | ⟨rfl, rfl⟩ | ⟨rfl, rfl⟩ : n = 2 ∧ j = 0 ∨ n = 3 ∧ j = 0 ∨ n = 3 ∧ j = 1 := by omega
  · exact .refl _
  · exact .cons _ (.swap ..)
  · exact .swap ..

theorem heldBy_removed {t : Task} {j : Nat} (hn : t.nheld ≤ 3) (hj : j < t.nheld) :
    (handlesOf (heldRemoved j t)).Perm ((handlesOf t).erase (t.held.getD j 0)) := by
  have hkey : (handlesOf t).Perm (t.held.getD j 0 :: handlesOf (heldRemoved j t)) := by
    by_cases hlast : j + 1 = t.nheld
    · have hget : ∀ i ∈ List.range (t.nheld - 1), (heldFewer t).held.getD i 0 = t.held.getD i 0 := fun i hi => by
        have := List.mem_range.1 hi
        unfold heldFewer
        rw [if_pos hn, getD_setAt, if_neg (by omega)]
      unfold heldRemoved handlesOf
      rw [if_pos hlast, show (heldFewer t).nheld = t.nheld - 1 from rfl, List.map_congr_left hget, ← hlast, List.range_succ, List.map_append,
        Nat.add_sub_cancel]
      exact List.perm_append_singleton ..
    · have hget : ∀ i ∈ List.range (t.nheld - 1), (heldFewer (heldSet j (t.held.getD (t.nheld - 1) 0) t)).held.getD i 0 =
          if i = j then t.held.getD (t.nheld - 1) 0 else t.held.getD i 0 := fun i hi => by
        have := List.mem_range.1 hi
        unfold heldFewer heldSet
        rw [if_pos hn, getD_setAt, if_neg fun h => absurd h.1 (Nat.ne_of_lt this), getD_setAt]
        by_cases hij : i = j
        · by_cases hlen : j < t.held.length
          · rw [if_pos ⟨hij, hlen⟩, if_pos hij]
          · have hle : t.held.length ≤ j := Nat.not_lt.1 hlen
            have hle' : t.held.length ≤ t.nheld - 1 := by omega
            rw [if_neg fun h => hlen h.2, if_pos hij, hij, List.getD_eq_default _ _ hle, List.getD_eq_default _ _ hle']
        · rw [if_neg fun h => hij h.1, if_neg hij]
      unfold heldRemoved handlesOf
      rw [if_neg hlast, show (heldFewer (heldSet j (t.held.getD (t.nheld - 1) 0) t)).nheld = t.nheld - 1 from rfl, List.map_congr_left hget]
      exact perm_replaced (fun i => t.held.getD i 0) hn (by omega)
  have := hkey.erase (t.held.getD j 0)
  rw [List.erase_cons_head] at this
  exact this.symm

end Sys2Proof.Machine
end

section

/-!
# The cell instructions of a lane (R336, R341 to R345)
-/

namespace Sys2Proof.Machine

-- One proof at a time: each waiting thread would reserve a stack of its own.
set_option Elab.async false

/-! ### The status that a lane is given -/

/-- The lane's instruction is complete with status n in its destination, and memory, tags and tasks are those of `u`. -/
structure Answers (g : Gang) (lane d n : Nat) (u : State) (r : State × LaneEnd) : Prop where
  status : ∃ hits v g1, r.2 = .ok hits [] ∧ gangOf r.1 g.id = some g1 ∧ thr g1 lane = v ∧
    WritesReg g.level (thr g lane) v d (BitVec.ofNat 32 n)
  mem : r.1.mem = u.mem
  tags : r.1.tags = u.tags
  tasks : r.1.tasks = u.tasks
  module : r.1.module = u.module

namespace Answers

variable {g : Gang} {lane d n : Nat} {u : State} {r : State × LaneEnd} (h : Answers g lane d n u r)
include h

theorem cellState (pa : Nat) : Machine.cellState r.1 pa = Machine.cellState u pa := cellState_congr h.tags pa
theorem cellPayload (pa : Nat) : Machine.cellPayload r.1 pa = Machine.cellPayload u pa := cellPayload_congr h.mem pa
theorem taskOf (w : Word) : Machine.taskOf r.1 w = Machine.taskOf u w := taskOf_congr h.tasks h.module w

theorem colourAt (pa : Nat) : Machine.colourAt r.1 (physLoc pa) = Machine.colourAt u (physLoc pa) := by
  unfold Machine.colourAt
  rw [show tagAt r.1 (physLoc pa) = tagAt u (physLoc pa) from congrArg (fun m => (rdByte m (pa / 16)).toNat) h.tags]

end Answers

theorem laneStatus_answers {u : State} {g gu : Gang} {lane d n : Nat} (hg : gangOf u g.id = some gu) (hthr : gu.threads = g.threads)
    (hl : lane < g.threads.length) (hits : List Hit) : Answers g lane d n u (laneStatus u g lane d n hits) := by
  refine ⟨⟨hits, _, modThread gu lane fun x => wrReg g.level x d (BitVec.ofNat 32 n), rfl, ?_, rfl, ?_⟩, rfl, rfl, rfl, rfl⟩
  · refine (gangOf_modGang u g.id g.id (fun y => modThread y lane fun x => wrReg g.level x d (BitVec.ofNat 32 n)) fun _ => rfl).trans ?_
    rw [if_pos rfl, hg]
    rfl
  · rw [thr_modThread, if_pos ⟨rfl, hthr ▸ hl⟩, show thr gu lane = thr g lane by unfold thr; rw [hthr]]
    exact wrReg_writes ..

/-- A state reached from one in which the gang stands, by steps at a cell: its gang's threads stay. -/
theorem Around.gang {s t : State} (h : Around s t) {g : Gang} (hg : gangOf s g.id = some g) : ∃ gt, gangOf t g.id = some gt ∧ gt.threads = g.threads := by
  obtain ⟨gt, hgt, hk⟩ := h.kept.some hg
  have := hk.core
  simp only [Prod.mk.injEq] at this
  exact ⟨gt, hgt, this.1⟩

/-- The status after a cell has been changed, and its page marked through an entry of the buffers. -/
theorem laneStatus_dirty {s u : State} {g : Gang} {lane d n pa : Nat} {ea : Dbl} (hg : gangOf s g.id = some g) (hl : lane < g.threads.length)
    (ha : Around s u) (hb : Buffered s (.core g.core) (ctxOf s g) (vaOf ea) pa) (hits : List Hit) :
    Answers g lane d n u (laneStatus (dirtyAt u g ea pa) g lane d n hits) := by
  obtain ⟨es, hes⟩ := markDirty_buffered (ha.buffered hb)
  have heq : dirtyAt u g ea pa = { u with tlb := es } := hes
  obtain ⟨gt, hgt, hthr⟩ := ha.gang hg
  have hgt' : gangOf { u with tlb := es } g.id = some gt := hgt
  obtain ⟨h1, h2, h3, h4, h5⟩ := laneStatus_answers (d := d) (n := n) hgt' hthr hl hits
  rw [heq]
  exact ⟨h1, h2, h3, h4, h5⟩

/-! ### The number of consumers of a cell (R41, R342) -/

theorem consumersOf_eq (p : Dbl) : consumersOf p = p.toNat / 2 ^ 48 := by
  have := p.isLt
  unfold consumersOf bits
  omega

theorem payload_fields (p : Dbl) (n : Nat) : n * 2 ^ 48 + waitersOf p * 2 ^ 32 + (handleOf p).toNat + p.toNat / 2 ^ 48 * 2 ^ 48 = n * 2 ^ 48 + p.toNat := by
  have hlo : (handleOf p).toNat = p.toNat % 2 ^ 32 := BitVec.toNat_ofNat ..
  rw [hlo]
  unfold waitersOf bits
  omega

theorem payload_more (p : Dbl) : payload (consumersOf p + 1) (waitersOf p) (handleOf p) = p + BitVec.ofNat 64 (2 ^ 48) := by
  have hp := payload_fields p (consumersOf p + 1)
  rw [consumersOf_eq] at hp ⊢
  refine BitVec.eq_of_toNat_eq ?_
  rw [payload, BitVec.toNat_ofNat, BitVec.toNat_add, BitVec.toNat_ofNat]
  omega

theorem payload_fewer {p : Dbl} (h : 1 < p.toNat / 2 ^ 48) :
    payload (consumersOf p - 1) (waitersOf p) (handleOf p) = p - BitVec.ofNat 64 (2 ^ 48) := by
  have hp := payload_fields p (consumersOf p - 1)
  have hlt := p.isLt
  rw [consumersOf_eq] at hp ⊢
  refine BitVec.eq_of_toNat_eq ?_
  rw [payload, BitVec.toNat_ofNat, BitVec.toNat_sub, BitVec.toNat_ofNat]
  omega

/-! ### Reaching a cell (R311, R325, R333) -/

section Reached

variable {s s1 : State} {g : Gang} {lane a b d : Nat} {t : Target}

section Read

variable (harr : arrive s g lane (laneAddr g lane a) 8 { r := true, cell := true } = (s1, .ok t))
include harr

theorem laneTake_stays (fly : Bool) (hr : reachable s1 g lane (.take a d) (laneAddr g lane a) t = false) :
    laneStep s g fly lane (.take a d) = (s, .stays) := by
  have harr' : arrive s g lane (laneAddr g lane a) 8 { r := !false, w := false, cell := true } = (s1, .ok t) := harr
  unfold laneStep laneTake atCell
  simp only [harr', hr, Bool.false_eq_true, if_false]

theorem laneTake_acts (fly : Bool) (hr : reachable s1 g lane (.take a d) (laneAddr g lane a) t = true)
    (hrec : (launchD s1 g.launch).desc.recording = false) (hrep : (launchD s1 g.launch).desc.replaying = false) :
    laneStep s g fly lane (.take a d) =
      if cellState s1 t.loc.off = 0 then
        (putLane s1 g.id lane fun x => wrPair g.level x d (cellPayload s1 t.loc.off), .ok (hitsOf s1 g lane (laneAddr g lane a) 8 false true) [])
      else if recordPoisoned s1 (handleOf (cellPayload s1 t.loc.off)) [1] then
        ((recordErrorAt s1).2, .fail ⟨lane, 0x60, (recordErrorAt s1).1, 0⟩)
      else if selfDependent s1 g (handleOf (cellPayload s1 t.loc.off)) then (s1, .fail ⟨lane, 0x30, laneAddr g lane a, 0⟩)
      else if cellState s1 t.loc.off = 2 then
        (startEvaluator (dirtyAt (setCell s1 t.loc.off (cellPayload s1 t.loc.off) 3) g (laneAddr g lane a) t.loc.off)
          (handleOf (cellPayload s1 t.loc.off)) g.id g.core (t.loc.off / 2 ^ 46), .waits)
      else (s1, .waits) := by
  have harr' : arrive s g lane (laneAddr g lane a) 8 { r := !false, w := false, cell := true } = (s1, .ok t) := harr
  unfold laneStep laneTake atCell
  simp only [harr', hr, if_true]
  rw [atUnit_unlogged _ _ _ hrec hrep]
  rfl

/-- The access of a `probe` (R343). -/
def probeFlight (g : Gang) (lane a d : Nat) (t : Target) : Flight :=
  { lane := lane, op := .probe a d, kind := t.kind, ea := laneAddr g lane a, loc := t.loc, dst := (Opnd.reg d).phys g.level (thr g lane) }

theorem laneProbe_stays (hr : reachable s1 g lane (.probe a d) (laneAddr g lane a) t = false) :
    laneStep s g false lane (.probe a d) = (s, .stays) := by
  have hcan : canPerform s1 g (probeFlight g lane a d t) = false := hr
  unfold probeFlight at hcan
  simp only [laneStep, laneProbe, harr, Bool.false_eq_true, if_false, hcan, Bool.not_false, if_true]

theorem laneProbe_reads (hr : reachable s1 g lane (.probe a d) (laneAddr g lane a) t = true)
    (hrec : (launchD s1 g.launch).desc.recording = false) (hrep : (launchD s1 g.launch).desc.replaying = false) :
    laneStep s g false lane (.probe a d) = (putLane s1 g.id lane fun x => wrReg g.level x d (probeWord s1 t.loc.off),
      .ok (hitsOf s1 g lane (laneAddr g lane a) 8 false true) []) := by
  have hcan : canPerform s1 g (probeFlight g lane a d t) = true := hr
  unfold probeFlight at hcan
  simp only [laneStep, laneProbe, harr, Bool.false_eq_true, if_false, hcan, Bool.not_true]
  rw [atUnit_unlogged _ _ _ hrec hrep]

theorem laneProbe_flies (hd : d ≠ 0) (hl : g.level = 0) (hstack : ∀ x, t.loc.place ≠ .stack x)
    (hrec : (launchD s1 g.launch).desc.recording = false) (hrep : (launchD s1 g.launch).desc.replaying = false) :
    ∃ hits f, laneStep s g true lane (.probe a d) = (s1, .flies hits [] f) ∧ f.op = .probe a d ∧ f.lane = lane ∧ f.loc = t.loc ∧
      f.dst = [(thr g lane).wbase + d] := by
  have hdst : (probeFlight g lane a d t).dst = [(thr g lane).wbase + d] := by
    simp [probeFlight, Opnd.phys, Opnd.extent, hl, hd, bankedReg]
  have hspill : spillReach g (probeFlight g lane a d t) = false := spillReach_eq_false fun x hx => absurd hx (hstack x)
  have hlen : ((probeFlight g lane a d t).dst.length != 1) = false := by rw [hdst]; rfl
  have hop : (probeFlight g lane a d t).op = .probe a d := rfl
  have hfly : laneStep s g true lane (.probe a d) =
      flyOut s1 g t (probeFlight g lane a d t) 1 (hitsOf s1 g lane (laneAddr g lane a) 8 false true) [] := by
    simp only [laneStep, laneProbe, harr, if_true]
    rfl
  refine ⟨hitsOf s1 g lane (laneAddr g lane a) 8 false true, { probeFlight g lane a d t with leaf := leafUsed s1 g (laneAddr g lane a) t }, hfly.trans ?_, rfl, rfl, rfl, hdst⟩
  simp only [flyOut, hlen, hspill, hop, hrec, hrep]
  rfl

end Read

section Resolve

variable (harr : arrive s g lane (laneAddr g lane a) 8 { w := true, cell := true } = (s1, .ok t)) (hown : reclaiming s g = none)
include harr hown

theorem laneResolve_stays (fly : Bool) (hr : reachable s1 g lane (.resolve b a) (laneAddr g lane a) t = false) :
    laneStep s g fly lane (.resolve b a) = (s, .stays) := by
  have harr' : arrive s g lane (laneAddr g lane a) 8 { r := !true, w := true, cell := true } = (s1, .ok t) := harr
  unfold laneStep laneResolve atCell
  simp only [hown, harr', hr, Bool.false_eq_true, if_false]

theorem laneResolve_acts (fly : Bool) (hr : reachable s1 g lane (.resolve b a) (laneAddr g lane a) t = true)
    (hrec : (launchD s1 g.launch).desc.recording = false) (hrep : (launchD s1 g.launch).desc.replaying = false) :
    laneStep s g fly lane (.resolve b a) =
      (dirtyAt (resolveCell s1 t.loc.off (rdPair g.level (thr g lane) b)) g (laneAddr g lane a) t.loc.off,
        .ok (hitsOf s1 g lane (laneAddr g lane a) 8 true false) [(lane, (laneAddr g lane a).toNat, 8, (rdPair g.level (thr g lane) b).toNat)]) := by
  have harr' : arrive s g lane (laneAddr g lane a) 8 { r := !true, w := true, cell := true } = (s1, .ok t) := harr
  unfold laneStep laneResolve atCell
  simp only [hown, harr', hr, Bool.false_eq_true, if_false, if_true]
  rw [atUnit_unlogged _ _ _ hrec hrep]

end Resolve

section Ref

variable (harr : arrive s g lane (laneAddr g lane a) 8 { r := true, w := true, cell := true } = (s1, .ok t))
include harr

theorem laneRefAdd_stays (fly : Bool) (hr : reachable s1 g lane (.refAdd a d) (laneAddr g lane a) t = false) :
    laneStep s g fly lane (.refAdd a d) = (s, .stays) := by
  unfold laneStep laneRefAdd
  simp only [harr, hr, Bool.not_false, if_true]

theorem laneRefDrop_stays (fly : Bool) (hr : reachable s1 g lane (.refDrop a d) (laneAddr g lane a) t = false) :
    laneStep s g fly lane (.refDrop a d) = (s, .stays) := by
  unfold laneStep laneRefDrop
  simp only [harr, hr, Bool.not_false, if_true]

variable (hrec : (launchD s1 g.launch).desc.recording = false) (hrep : (launchD s1 g.launch).desc.replaying = false)
include hrec hrep

section Add

variable (fly : Bool) (hr : reachable s1 g lane (.refAdd a d) (laneAddr g lane a) t = true)
include hr

theorem laneRefAdd_value (hv : cellState s1 t.loc.off = 0) :
    laneStep s g fly lane (.refAdd a d) = laneStatus s1 g lane d 1 (hitsOf s1 g lane (laneAddr g lane a) 8 true true) := by
  unfold laneStep laneRefAdd
  simp only [harr, hr, Bool.not_true, Bool.false_eq_true, if_false]
  rw [atUnit_unlogged _ _ _ hrec hrep]
  exact if_pos hv

variable (hv : cellState s1 t.loc.off ≠ 0)
include hv

theorem laneRefAdd_full (hc : consumersOf (cellPayload s1 t.loc.off) = 65535) :
    laneStep s g fly lane (.refAdd a d) = laneStatus s1 g lane d 2 (hitsOf s1 g lane (laneAddr g lane a) 8 true true) := by
  unfold laneStep laneRefAdd
  simp only [harr, hr, Bool.not_true, Bool.false_eq_true, if_false]
  rw [atUnit_unlogged _ _ _ hrec hrep]
  exact (if_neg hv).trans (if_pos hc)

theorem laneRefAdd_adds {u : State} (hc : consumersOf (cellPayload s1 t.loc.off) ≠ 65535)
    (hu : (if g.task = 0 then (s1, .ok ()) else appendHeld s1 g lane (handleOf (cellPayload s1 t.loc.off))) = (u, .ok ())) :
    laneStep s g fly lane (.refAdd a d) =
      laneStatus (dirtyAt (setConsumers u t.loc.off (consumersOf (cellPayload s1 t.loc.off) + 1)) g (laneAddr g lane a) t.loc.off) g lane d 0
        (hitsOf s1 g lane (laneAddr g lane a) 8 true true) := by
  unfold laneStep laneRefAdd
  simp only [harr, hr, Bool.not_true, Bool.false_eq_true, if_false]
  rw [atUnit_unlogged _ _ _ hrec hrep]
  rw [if_neg (show cellState s1 t.loc.off ≠ cellValue from hv), if_neg hc, hu]

end Add

/-- A reference to a cell is dropped in a state: the last consumer's drop reclaims the cell (R342, R345). -/
def refDropped (s1 u : State) (g : Gang) (lane a d pa : Nat) : State × LaneEnd :=
  if consumersOf (cellPayload s1 pa) ≤ 1 then laneStatus (dirtyAt (reclaimCell u pa) g (laneAddr g lane a) pa) g lane d 4
    (hitsOf s1 g lane (laneAddr g lane a) 8 true true)
  else laneStatus (dirtyAt (setConsumers u pa (consumersOf (cellPayload s1 pa) - 1)) g (laneAddr g lane a) pa) g lane d 0
    (hitsOf s1 g lane (laneAddr g lane a) 8 true true)

section Drop

variable (fly : Bool) (hr : reachable s1 g lane (.refDrop a d) (laneAddr g lane a) t = true)
include hr

theorem laneRefDrop_value (hv : cellState s1 t.loc.off = 0) :
    laneStep s g fly lane (.refDrop a d) = laneStatus s1 g lane d 1 (hitsOf s1 g lane (laneAddr g lane a) 8 true true) := by
  unfold laneStep laneRefDrop
  simp only [harr, hr, Bool.not_true, Bool.false_eq_true, if_false]
  rw [atUnit_unlogged _ _ _ hrec hrep]
  exact if_pos hv

variable (hv : cellState s1 t.loc.off ≠ 0)
include hv

theorem laneRefDrop_taskless (ht : taskOf s1 g.task = none) :
    laneStep s g fly lane (.refDrop a d) = refDropped s1 s1 g lane a d t.loc.off := by
  unfold laneStep laneRefDrop
  simp only [harr, hr, Bool.not_true, Bool.false_eq_true, if_false]
  rw [atUnit_unlogged _ _ _ hrec hrep]
  rw [if_neg (show cellState s1 t.loc.off ≠ cellValue from hv), ht]
  rfl

variable {tk : Task} (ht : taskOf s1 g.task = some tk) (hp : recordPoisoned s1 g.task [2, 3] = false)
include ht hp

theorem laneRefDrop_missing (hf : findHeld g lane tk (handleOf (cellPayload s1 t.loc.off)) tk.nheld 0 s1 = (s1, .ok none)) :
    laneStep s g fly lane (.refDrop a d) = laneStatus s1 g lane d 3 (hitsOf s1 g lane (laneAddr g lane a) 8 true true) := by
  unfold laneStep laneRefDrop
  simp only [harr, hr, Bool.not_true, Bool.false_eq_true, if_false]
  rw [atUnit_unlogged _ _ _ hrec hrep]
  rw [if_neg (show cellState s1 t.loc.off ≠ cellValue from hv), ht]
  dsimp only
  rw [hp, if_neg Bool.false_ne_true, hf]

theorem laneRefDrop_held {u : State} {i : Nat} (hf : findHeld g lane tk (handleOf (cellPayload s1 t.loc.off)) tk.nheld 0 s1 = (s1, .ok (some i)))
    (hu : removeHeld s1 g lane tk i = (u, .ok ())) : laneStep s g fly lane (.refDrop a d) = refDropped s1 u g lane a d t.loc.off := by
  unfold laneStep laneRefDrop
  simp only [harr, hr, Bool.not_true, Bool.false_eq_true, if_false]
  rw [atUnit_unlogged _ _ _ hrec hrep]
  rw [if_neg (show cellState s1 t.loc.off ≠ cellValue from hv), ht]
  dsimp only
  rw [hp, if_neg Bool.false_ne_true, hf]
  dsimp only
  rw [hu]
  rfl

end Drop

end Ref

end Reached

/-! ### A cell whose consumers change -/

theorem cellState_lt (s : State) (pa : Nat) : cellState s pa < 4 := Nat.mod_lt _ (by decide)

/-- A cell whose number of consumers has been set after steps beside it. -/
theorem setConsumers_facts {s u : State} (hb : Beside s u) (pa n : Nat) : Around s (setConsumers u pa n) ∧
    cellState (setConsumers u pa n) pa = cellState s pa ∧
    cellPayload (setConsumers u pa n) pa = payload n (waitersOf (cellPayload s pa)) (handleOf (cellPayload s pa)) ∧
    ∀ w, taskOf (setConsumers u pa n) w = taskOf u w := by
  have heq : setConsumers u pa n =
      setCell u pa (payload n (waitersOf (cellPayload s pa)) (handleOf (cellPayload s pa))) (cellState s pa) := by
    rw [← hb.cellPayload, ← hb.cellState]
    rfl
  rw [heq]
  exact ⟨hb.around.trans (around_setCell ..), cellState_setCell _ _ _ (cellState_lt s pa), cellPayload_setCell .., fun w =>
    taskOf_congr (tasks_setCell ..) (module_setCell ..) w⟩

section Refs

variable {s u : State} {g : Gang} {lane a d pa : Nat} (hg : gangOf s g.id = some g) (hl : lane < g.threads.length)
  (hbuf : Buffered s (.core g.core) (ctxOf s g) (vaOf (laneAddr g lane a)) pa) (hb : Beside s u)
include hg hl hbuf hb

/-- A consumer more. -/
theorem refAdded_answers (hits : List Hit) :
    ∃ v, Answers g lane d 0 v (laneStatus (dirtyAt (setConsumers u pa (consumersOf (cellPayload s pa) + 1)) g (laneAddr g lane a) pa) g lane d 0 hits) ∧
      cellPayload v pa = cellPayload s pa + BitVec.ofNat 64 (2 ^ 48) ∧ cellState v pa = cellState s pa ∧ ∀ w, taskOf v w = taskOf u w := by
  obtain ⟨h1, h2, h3, h4⟩ := setConsumers_facts hb pa (consumersOf (cellPayload s pa) + 1)
  exact ⟨_, laneStatus_dirty hg hl h1 hbuf hits, h3.trans (payload_more _), h2, h4⟩

/-- A consumer fewer. -/
theorem refDropped_more (hc : 1 < (cellPayload s pa).toNat / 2 ^ 48) : ∃ v, Answers g lane d 0 v (refDropped s u g lane a d pa) ∧
    cellPayload v pa = cellPayload s pa - BitVec.ofNat 64 (2 ^ 48) ∧ cellState v pa = cellState s pa ∧ ∀ w, taskOf v w = taskOf u w := by
  obtain ⟨h1, h2, h3, h4⟩ := setConsumers_facts hb pa (consumersOf (cellPayload s pa) - 1)
  unfold refDropped
  rw [if_neg (by rw [consumersOf_eq]; exact Nat.not_le.2 hc)]
  exact ⟨_, laneStatus_dirty hg hl h1 hbuf _, h3.trans (payload_fewer hc), h2, h4⟩

/-- The last consumer has gone. -/
theorem refDropped_last (hs : InBanks u) (hc : (cellPayload s pa).toNat / 2 ^ 48 ≤ 1) : ∃ v, Answers g lane d 4 v (refDropped s u g lane a d pa) ∧
    cellState v pa = 0 ∧ cellPayload v pa = 0 ∧ colourAt v (physLoc pa) = 15 ∧
    ∀ tk, taskOf u (handleOf (cellPayload s pa)) = some tk →
      (tk.state = 1 ∨ tk.state = 2 → taskOf v (handleOf (cellPayload s pa)) = none) ∧
      (tk.state = 3 ∨ tk.state = 4 → (taskOf v (handleOf (cellPayload s pa))).map Task.state = some 6) := by
  obtain ⟨h1, h2, h3, h4, h5⟩ := reclaimCell_facts hs pa
  rw [hb.cellPayload] at h5
  unfold refDropped
  rw [if_pos (by rw [consumersOf_eq]; exact hc)]
  exact ⟨_, laneStatus_dirty hg hl (hb.around.trans h1) hbuf _, h2, h3, h4, h5⟩

end Refs

/-! ### The state word (R343) -/

theorem probeWord_eq (s : State) (pa : Nat) : probeWord s pa = BitVec.ofNat 32 (cellState s pa + colourAt s (physLoc pa) * 16 +
    if cellState s pa = 0 then 0 else (cellPayload s pa).toNat / 2 ^ 48 * 65536 + if (taskOf s (cellPayload s pa).lo).isSome then 4 else 0) := by
  unfold probeWord
  dsimp only
  rw [consumersOf_eq, show handleOf (cellPayload s pa) = (cellPayload s pa).lo from rfl, show cellValue = 0 from rfl]
  refine congrArg (BitVec.ofNat 32) ?_
  by_cases h0 : cellState s pa = 0
  · rw [if_pos h0, if_pos h0, h0]
    simp
  · rw [if_neg h0, if_neg h0, bne_iff_ne.2 h0, Bool.true_and]
    omega

theorem performFlight_probe {s : State} {g : Gang} {f : Flight} {a d : Nat} (hg : gangOf s g.id = some g) (hop : f.op = .probe a d)
    (hl : f.lane < g.threads.length) (hdst : f.dst.length = 1) (earlier : List (Nat × Flight)) :
    ∃ v, OnlyThread s (performFlight s g earlier f).1 g f.lane v ∧ (performFlight s g earlier f).2 = [] ∧
      { v with regs := (thr g f.lane).regs } = thr g f.lane ∧ (∀ k ∈ f.dst, rdPhys v k = probeWord s f.loc.off) ∧
      ∀ k, k ∉ f.dst → rdPhys v k = rdPhys (thr g f.lane) k := by
  obtain ⟨k0, hk0⟩ := List.length_eq_one_iff.1 hdst
  have hperf : performFlight s g earlier f = (modGang s g.id fun y => modThread y f.lane (putPhys (probeWord s f.loc.off).toNat f.dst), []) := by
    unfold performFlight
    simp only [hop]
  obtain ⟨h1, h2, h3⟩ := rdPhys_putPhys f.dst (probeWord s f.loc.off).toNat (thr g f.lane) (by rw [hk0]; exact List.nodup_singleton _)
  rw [hperf]
  refine ⟨_, onlyThread_modThread hg hl _, rfl, h3, fun k hk => ?_, h2⟩
  have hget : f.dst[0]? = some k := by
    rw [hk0] at hk ⊢
    rw [List.mem_singleton.1 hk]
    rfl
  rw [h1 0 k hget, Nat.mul_zero, pow_zero, Nat.div_one, BitVec.ofNat_toNat, BitVec.setWidth_eq]

/-- A lane that has reached a cell in memory has done so through an entry of the buffers. -/
theorem buffered_of_arrive {s s1 : State} {g : Gang} {lane n : Nat} {ea : Dbl} {need : Needs} {t : Target}
    (h : arrive s g lane ea n need = (s1, .ok t)) (hg : gangOf s1 g.id = some g) (ht : t.loc = physLoc t.loc.off) :
    Buffered s1 (.core g.core) (ctxOf s1 g) (vaOf ea) t.loc.off := by
  cases t with
  | glob pa leaf =>
    obtain ⟨htr, hb⟩ := arrive_glob h
    rw [ctxOf, htr.launchD]
    exact hb
  | core l =>
    obtain ⟨rfl, hl⟩ := arrive_core_ok h
    exact absurd (congrArg Loc.place ht) (onCoreLoc_place hg hl).2

end Sys2Proof.Machine
end

section

/-!
# The cells and the obligation about them (O37)
-/

namespace Sys2Proof.Machine

-- One proof at a time: each waiting thread would reserve a stack of its own.
set_option Elab.async false

/-! ### References that are added and dropped (R342, R345) -/

/-- A gang without a task, or a task that holds the reference, drops it: `u` is the state after the entry has gone. -/
def DropsIn (s s1 u : State) (g : Gang) (fly : Bool) (lane a d pa : Nat) : Prop :=
  laneStep s g fly lane (.refDrop a d) = refDropped s1 u g lane a d pa ∧ Beside s1 u ∧ InBanks u

section References

variable {s s1 : State} {g : Gang} {lane a d : Nat} {t : Target} (hg : gangOf s1 g.id = some g) (hl : lane < g.threads.length)
  (hrec : (launchD s1 g.launch).desc.recording = false) (hrep : (launchD s1 g.launch).desc.replaying = false)
  (harr : arrive s g lane (laneAddr g lane a) 8 { r := true, w := true, cell := true } = (s1, .ok t)) (hs : InBanks s1)
  (hloc : t.loc = physLoc t.loc.off)
include hg hl hrec hrep harr

section Add

variable (fly : Bool) (hr : reachable s1 g lane (.refAdd a d) (laneAddr g lane a) t = true)
include hr

theorem refAdd_value (hv : cellState s1 t.loc.off = 0) : Answers g lane d 1 s1 (laneStep s g fly lane (.refAdd a d)) := by
  rw [laneRefAdd_value harr hrec hrep fly hr hv]
  exact laneStatus_answers hg rfl hl _

variable (hv : cellState s1 t.loc.off ≠ 0)
include hv

theorem refAdd_full (hc : (cellPayload s1 t.loc.off).toNat / 2 ^ 48 = 65535) : Answers g lane d 2 s1 (laneStep s g fly lane (.refAdd a d)) := by
  rw [laneRefAdd_full harr hrec hrep fly hr hv ((consumersOf_eq _).trans hc)]
  exact laneStatus_answers hg rfl hl _

variable (hc : (cellPayload s1 t.loc.off).toNat / 2 ^ 48 ≠ 65535)
include hloc hc

theorem refAdd_taskless (h0 : g.task = 0) : ∃ v, Answers g lane d 0 v (laneStep s g fly lane (.refAdd a d)) ∧
    cellPayload v t.loc.off = cellPayload s1 t.loc.off + BitVec.ofNat 64 (2 ^ 48) ∧ cellState v t.loc.off = cellState s1 t.loc.off := by
  rw [laneRefAdd_adds harr hrec hrep fly hr hv (fun h => hc ((consumersOf_eq _).symm.trans h)) (if_pos h0)]
  obtain ⟨v, h1, h2, h3, -⟩ := refAdded_answers (d := d) hg hl (buffered_of_arrive harr hg hloc) (.refl s1) (hitsOf s1 g lane (laneAddr g lane a) 8 true true)
  exact ⟨v, h1, h2, h3⟩

include hs

theorem refAdd_held {tk : Task} (h0 : g.task ≠ 0) (htk : taskOf s1 g.task = some tk) (hp : recordPoisoned s1 g.task [2, 3] = false) (hn : tk.nheld < 3) :
    ∃ v, Answers g lane d 0 v (laneStep s g fly lane (.refAdd a d)) ∧
      cellPayload v t.loc.off = cellPayload s1 t.loc.off + BitVec.ofNat 64 (2 ^ 48) ∧ cellState v t.loc.off = cellState s1 t.loc.off ∧
      taskOf v g.task = some (heldAppended (handleOf (cellPayload s1 t.loc.off)) tk) := by
  rw [laneRefAdd_adds harr hrec hrep fly hr hv (fun h => hc ((consumersOf_eq _).symm.trans h)) ((if_neg h0).trans (appendHeld_inBanks hs htk hp hn _))]
  obtain ⟨v, h1, h2, h3, h4⟩ := refAdded_answers (d := d) hg hl (buffered_of_arrive harr hg hloc)
    (beside_modTask s1 g.task (heldAppended (handleOf (cellPayload s1 t.loc.off)))) (hitsOf s1 g lane (laneAddr g lane a) 8 true true)
  refine ⟨v, h1, h2, h3, (h4 _).trans ?_⟩
  rw [taskOf_modTask (keepsRecord_appended _) fun _ h => h, htk]
  rfl

end Add

section Drop

variable (fly : Bool) (hr : reachable s1 g lane (.refDrop a d) (laneAddr g lane a) t = true)
include hr

theorem refDrop_value (hv : cellState s1 t.loc.off = 0) : Answers g lane d 1 s1 (laneStep s g fly lane (.refDrop a d)) := by
  rw [laneRefDrop_value harr hrec hrep fly hr hv]
  exact laneStatus_answers hg rfl hl _

variable (hv : cellState s1 t.loc.off ≠ 0)
include hv

include hs in
omit hg hl in
theorem refDrop_taskless (h0 : taskOf s1 g.task = none) : DropsIn s s1 s1 g fly lane a d t.loc.off :=
  ⟨laneRefDrop_taskless harr hrec hrep fly hr hv h0, .refl s1, hs⟩

variable {tk : Task} (htk : taskOf s1 g.task = some tk) (hp : recordPoisoned s1 g.task [2, 3] = false) (hn : tk.nheld ≤ 3)
include htk hp hn

/-- Of a task that does not hold the reference, nothing is dropped. -/
theorem refDrop_missing (hmem : handleOf (cellPayload s1 t.loc.off) ∉ handlesOf tk) :
    Answers g lane d 3 s1 (laneStep s g fly lane (.refDrop a d)) ∧ SameBytes s1 (laneStep s g fly lane (.refDrop a d)).1 := by
  obtain ⟨j, -, hj, hget, -⟩ | ⟨-, hf⟩ :=
    findHeld_short (s := s1) (g := g) (lane := lane) (t := tk) (h := handleOf (cellPayload s1 t.loc.off)) tk.nheld 0 (by omega)
  · exact absurd (List.mem_map.2 ⟨j, List.mem_range.2 (by omega), hget⟩) hmem
  · rw [laneRefDrop_missing harr hrec hrep fly hr hv htk hp hf]
    exact ⟨laneStatus_answers hg rfl hl _, fun l => readByte_putLane s1 g.id lane (fun x => wrReg g.level x d (BitVec.ofNat 32 3)) l⟩

include hs in
omit hg hl in
/-- Of a task that holds the reference, one entry of it goes. -/
theorem refDrop_held (hmem : handleOf (cellPayload s1 t.loc.off) ∈ handlesOf tk) : ∃ u tk', DropsIn s s1 u g fly lane a d t.loc.off ∧
    taskOf u g.task = some tk' ∧ (handlesOf tk').Perm ((handlesOf tk).erase (handleOf (cellPayload s1 t.loc.off))) := by
  obtain ⟨j, -, hj, hget, hf⟩ | ⟨hno, -⟩ :=
    findHeld_short (s := s1) (g := g) (lane := lane) (t := tk) (h := handleOf (cellPayload s1 t.loc.off)) tk.nheld 0 (by omega)
  · have hj' : j < tk.nheld := by omega
    obtain ⟨u, hu, hb, hbanks, htask⟩ := removeHeld_inBanks (lane := lane) hs htk hn hj'
    exact ⟨u, _, ⟨laneRefDrop_held harr hrec hrep fly hr hv htk hp hf hu, hb, hbanks⟩, htask, hget ▸ heldBy_removed hn hj'⟩
  · obtain ⟨j, hj, hget⟩ := List.mem_map.1 hmem
    have := List.mem_range.1 hj
    exact absurd hget (hno j (Nat.zero_le j) (by omega))

end Drop

end References

section Dropped

variable {s s1 u : State} {g : Gang} {lane a d pa : Nat} {fly : Bool} (hdrop : DropsIn s s1 u g fly lane a d pa) (hg : gangOf s1 g.id = some g)
  (hl : lane < g.threads.length) (hbuf : Buffered s1 (.core g.core) (ctxOf s1 g) (vaOf (laneAddr g lane a)) pa)
include hdrop hg hl hbuf

theorem DropsIn.more (hc : 1 < (cellPayload s1 pa).toNat / 2 ^ 48) : ∃ v, Answers g lane d 0 v (laneStep s g fly lane (.refDrop a d)) ∧
    cellPayload v pa = cellPayload s1 pa - BitVec.ofNat 64 (2 ^ 48) ∧ cellState v pa = cellState s1 pa ∧ ∀ w, taskOf v w = taskOf u w := by
  obtain ⟨hstep, hb, -⟩ := hdrop
  rw [hstep]
  exact refDropped_more hg hl hbuf hb hc

theorem DropsIn.last (hc : (cellPayload s1 pa).toNat / 2 ^ 48 ≤ 1) : ∃ v, Answers g lane d 4 v (laneStep s g fly lane (.refDrop a d)) ∧
    cellState v pa = 0 ∧ cellPayload v pa = 0 ∧ colourAt v (physLoc pa) = 15 ∧
    ∀ tk, taskOf u (handleOf (cellPayload s1 pa)) = some tk →
      (tk.state = 1 ∨ tk.state = 2 → taskOf v (handleOf (cellPayload s1 pa)) = none) ∧
      (tk.state = 3 ∨ tk.state = 4 → (taskOf v (handleOf (cellPayload s1 pa))).map Task.state = some 6) := by
  obtain ⟨hstep, hb, hs⟩ := hdrop
  rw [hstep]
  exact refDropped_last hg hl hbuf hb hs hc

end Dropped

/-! ### The lanes that act at a cell -/

section AtCell

variable {s s1 : State} {g : Gang} {lane a b d : Nat} {t : Target} (hg : gangOf s1 g.id = some g) (hl : lane < g.threads.length)
  (hrec : (launchD s1 g.launch).desc.recording = false) (hrep : (launchD s1 g.launch).desc.replaying = false)
include hg hl hrec hrep

section Read

variable (harr : arrive s g lane (laneAddr g lane a) 8 { r := true, cell := true } = (s1, .ok t))
include harr

theorem laneTake_value {fly : Bool} (hr : reachable s1 g lane (.take a d) (laneAddr g lane a) t = true) (hv : cellState s1 t.loc.off = 0)
    (hd : d % 2 = 0) : ∃ t1 v hits, laneStep s g fly lane (.take a d) = (t1, .ok hits []) ∧ OnlyThread s1 t1 g lane v ∧
      WritesPair g.level (thr g lane) v d (cellPayload s1 t.loc.off) := by
  rw [laneTake_acts harr fly hr hrec hrep, if_pos hv]
  exact ⟨_, _, _, rfl, onlyThread_modThread hg hl fun x => wrPair g.level x d (cellPayload s1 t.loc.off), wrPair_writes _ _ _ _ hd⟩

theorem laneProbe_value (hr : reachable s1 g lane (.probe a d) (laneAddr g lane a) t = true) :
    ∃ t1 v hits, laneStep s g false lane (.probe a d) = (t1, .ok hits []) ∧ OnlyThread s1 t1 g lane v ∧
      WritesReg g.level (thr g lane) v d (probeWord s1 t.loc.off) := by
  rw [laneProbe_reads harr hr hrec hrep]
  exact ⟨_, _, _, rfl, onlyThread_modThread hg hl fun x => wrReg g.level x d (probeWord s1 t.loc.off), wrReg_writes ..⟩

end Read

end AtCell

/-- Settles O37: the cell's own rules, the queue of its waiters, each instruction's lane in its cases, and a `probe` that is outstanding. -/
theorem cellEffects : Obligations.CellEffects := by
  unfold Obligations.CellEffects
  refine ⟨fun s pa v st hpa hst => ⟨cellState_setCell s pa v hst, cellPayload_setCell s pa v st, sameBytesBut_setCell s pa v st,
      colourAt_setCell s pa v hst, fun qa hqa hne => cellState_setCell_other s v hst hpa hqa hne, sameThreads_setCell s pa v st⟩,
    ?_, ?_, fun s g earlier f a d hg hop hl hdst => performFlight_probe hg hop hl hdst earlier⟩
  · intro s pa v js hpa hstate hs hd m t hnd hlen hc
    obtain ⟨h0, hval, hbytes, htask, hkept, hw⟩ := resolveCell_resolves (v := v) hstate hs hd hnd hlen hc
    refine ⟨h0, hval, hbytes, htask, fun j hj w hfw => ⟨(hw j hj).1, fun g st b τ hg hwait => ?_⟩⟩
    obtain ⟨g', hg', hwait'⟩ := (hw j hj).2 w hfw g hg st b τ hwait
    obtain ⟨g2, hg2, hk⟩ := hkept.some hg
    obtain rfl : g2 = g' := Option.some.inj (hg2.symm.trans hg')
    have hcore := hk.core
    simp only [Prod.mk.injEq] at hcore
    exact ⟨g2, hg', hwait', hcore.1⟩
  · intro s g fly lane a b d s1 t hg hl hrec hrep ea
    refine ⟨fun harr => ⟨laneTake_stays harr fly, laneProbe_stays harr, fun hd hlv hst => laneProbe_flies harr hd hlv hst hrec hrep⟩,
      fun harr hown => laneResolve_stays harr hown fly, fun harr => ⟨laneRefAdd_stays harr fly, laneRefDrop_stays harr fly⟩, fun hr => ?_⟩
    intro pa p dirty
    refine ⟨fun harr => ⟨?_, ?_, ?_, ?_⟩, fun harr hown => ⟨_, _, laneResolve_acts harr hown fly (hr _) hrec hrep, rfl⟩, ?_⟩
    · exact laneTake_value hg hl hrec hrep harr (hr _)
    · intro hv hp
      rw [laneTake_acts harr fly (hr _) hrec hrep, if_neg hv, if_pos hp]
    · intro hv hp
      rw [laneTake_acts harr fly (hr _) hrec hrep, if_neg hv, if_neg (Bool.eq_false_iff.1 hp)]
      refine ⟨fun hself => if_pos hself, fun hself => ?_⟩
      rw [if_neg (Bool.eq_false_iff.1 hself)]
      exact ⟨fun h2 => if_neg h2, fun h2 => if_pos h2⟩
    · rw [← probeWord_eq]
      exact laneProbe_value hg hl hrec hrep harr (hr _)
    · intro harr hs hloc hpa status add drop heldBy one gone
      have hbuf := buffered_of_arrive harr hg hloc
      refine ⟨fun hv => ⟨(refAdd_value hg hl hrec hrep harr fly (hr _) hv).status, (refDrop_value hg hl hrec hrep harr fly (hr _) hv).status⟩,
        fun hv => ⟨fun hc => (refAdd_full hg hl hrec hrep harr fly (hr _) hv hc).status, fun h0 hnone => ⟨fun hc => ?_, fun hc => ?_, fun hc => ?_⟩,
          fun tk h0 htk hp => ⟨fun hc hn => ?_, fun hn hmem => ?_, fun hn hmem => ⟨fun hc => ?_, fun hc => ?_⟩⟩⟩⟩
      · obtain ⟨v, hans, hpay, hst⟩ := refAdd_taskless hg hl hrec hrep harr hloc fly (hr _) hv hc h0
        exact ⟨hans.status, (hans.cellPayload _).trans hpay, (hans.cellState _).trans hst⟩
      · obtain ⟨v, hans, hpay, hst, -⟩ := (refDrop_taskless hrec hrep harr hs fly (hr _) hv (h0 ▸ hnone)).more hg hl hbuf hc
        exact ⟨hans.status, (hans.cellPayload _).trans hpay, (hans.cellState _).trans hst⟩
      · obtain ⟨v, hans, hst, hpay, hcol, htask⟩ := (refDrop_taskless hrec hrep harr hs fly (hr _) hv (h0 ▸ hnone)).last hg hl hbuf hc
        refine ⟨hans.status, (hans.cellState _).trans hst, (hans.cellPayload _).trans hpay, (hans.colourAt _).trans hcol, fun tk htk => ?_⟩
        rw [hans.taskOf]
        exact htask tk htk
      · obtain ⟨v, hans, hpay, hst, htask⟩ := refAdd_held hg hl hrec hrep harr hs hloc fly (hr _) hv hc h0 htk hp hn
        exact ⟨hans.status, ⟨(hans.cellPayload _).trans hpay, (hans.cellState _).trans hst⟩, _, (hans.taskOf _).trans htask, heldBy_appended hn _⟩
      · obtain ⟨hans, hbytes⟩ := refDrop_missing hg hl hrec hrep harr fly (hr _) hv htk hp hn hmem
        exact ⟨hans.status, hbytes, hans.cellPayload _, hans.cellState _⟩
      · obtain ⟨u, tk', hdrop, htask, hperm⟩ := refDrop_held hrec hrep harr hs fly (hr _) hv htk hp hn hmem
        obtain ⟨v, hans, hpay, hst, hsame⟩ := hdrop.more hg hl hbuf hc
        exact ⟨hans.status, ⟨(hans.cellPayload _).trans hpay, (hans.cellState _).trans hst⟩, tk', ((hans.taskOf _).trans (hsame _)).trans htask, hperm⟩
      · obtain ⟨u, tk', hdrop, -, -⟩ := refDrop_held hrec hrep harr hs fly (hr _) hv htk hp hn hmem
        obtain ⟨v, hans, hst, hpay, hcol, -⟩ := hdrop.last hg hl hbuf hc
        exact ⟨hans.status, (hans.cellState _).trans hst, (hans.cellPayload _).trans hpay, (hans.colourAt _).trans hcol⟩

end Sys2Proof.Machine
end
